-- ==== Sys2Proof/Word.lean ====
section
/-!
DEFINITION. The machine's word types (R2, R97): a word is 64 bits, an instruction word 16 bits, a vector lane
32 bits, a byte 8 bits. Register numbers are positions in the register files of R96 and R97.
-/
namespace Sys2Proof

/-- R2: a word is 64 bits. -/
abbrev Word := BitVec 64
/-- R2: an instruction word is 16 bits. -/
abbrev HWord := BitVec 16
/-- R188: a lane of a vector register is 32 bits. -/
abbrev Lane := BitVec 32
/-- R2: a byte is 8 bits. -/
abbrev Byte := BitVec 8
/-- R96: one of g0 to g31. -/
abbrev Reg := Fin 32
/-- R97: one of v0 to v7. -/
abbrev VReg := Fin 8
/-- R97: one of p0 to p3. -/
abbrev PReg := Fin 4

/-- A finite map: a list of key and value pairs. `Machine/Maps.lean` gives its reads and writes. -/
abbrev FMap (α : Type) := List (Nat × α)

end Sys2Proof
end

