-- ==== Sys2Proof/Types.lean ====
section
/-!
DEFINITION. The plain data that instructions, messages and the state are made of: operand shapes, messages in
flight, threads, jobs, streams, index entries, launch descriptions, packets.
-/
namespace Sys2Proof

/-! ## Operands -/

/-- R8: an immediate, with the number `n` of XI words that carry it and its signed value. -/
structure Imm where
  n : Nat
  v : Int
  deriving DecidableEq, Repr, Inhabited

/-- R36: the scope codes 0 to 5. -/
inductive Scope where
  | dflt | core | cl | dev | dom | sys
  deriving DecidableEq, Repr, Inhabited

/-- Access widths of 1, 2, 4 and 8 bytes (R40). -/
inductive Width where
  | b | h | w | d
  deriving DecidableEq, Repr, Inhabited

/-- R159: the typed buffers. -/
inductive Space where
  | w | a | c
  deriving DecidableEq, Repr, Inhabited

/-- R40, R146: the operations of `amo`. -/
inductive AmoOp where
  | add | and | or | xor | min | max | swap | cas
  deriving DecidableEq, Repr, Inhabited

/-- R140: the full/empty family. -/
inductive FeOp where
  | ldfe | ldff | stfe | stff | ldx | fes (full : Bool)
  deriving DecidableEq, Repr, Inhabited

/-- R191: the lane types of the vector unit. -/
inductive VType where
  | i32 | f32 | bf16 | f16
  deriving DecidableEq, Repr, Inhabited

/-- R115: the rounding modes 0 to 3. -/
inductive Rnd where
  | rne | rtz | rdn | rup
  deriving DecidableEq, Repr, Inhabited

/-- R191: the arith layout of the secondary field. -/
structure VArith where
  t   : VType
  rm  : Rnd
  sat : Bool
  u   : Bool
  deriving DecidableEq, Repr, Inhabited

/-- R191: the conditions of `vcmp`. -/
inductive VCond where
  | eq | ne | lt | le | gt | ge | uo
  deriving DecidableEq, Repr, Inhabited

/-- R190, R192: the second source of a page-4 form: no XR word, a vector register, or a general register used in
every lane (S = 1). -/
inductive VSrc where
  | short
  | vec (c : VReg)
  | gen (c : Reg)
  deriving DecidableEq, Repr, Inhabited

/-- R118, R198: the formats of `vcvt`. -/
inductive VFmt where
  | int8 | int16 | int32 | fp32 | bf16 | fp16
  deriving DecidableEq, Repr, Inhabited

/-- R202: the approximations. -/
inductive Approx where
  | exp2 | log2 | rcp | rsqrt | tanh
  deriving DecidableEq, Repr, Inhabited

/-! ## Who and where -/

/-- A hardware thread: a core index (9 × cluster + unit for the cores of cluster 64 × die + 8 × y + x, unit 8 being
the service core; 1152 + t for teller core t) and a slot (R17, R18, R70). -/
structure TRef where
  core : Nat
  slot : Nat
  deriving DecidableEq, Repr, Inhabited

/-- R74: the launch identity of a message: the launch number when it comes from this module, the domain job number
when it comes from another one. -/
inductive Ident where
  | here (launch : Nat)
  | away (djob : Nat)
  deriving DecidableEq, Repr, Inhabited

/-- Where an answer goes: a thread of this module, a requester on another module, or nobody. -/
inductive ReplyTo where
  | thr (r : TRef)
  | away (modnum tag : Nat)
  | nobody
  deriving DecidableEq, Repr, Inhabited

/-- What an answer does at the thread that waits for it (R12): it writes registers, or raises a trap (which for `chld`
also writes registers, R154). `ext` is a read of the host at `addr` that the host serves as the answer is handled (R156,
R259); `fwd` are the bytes that the escrow forwards. `back`: the request is withdrawn, and the instruction issues again (R158).
`link`: the queue of the thread's core is linked to another module's core, and status 0 is written (R171). -/
inductive RepRes where
  | writes (l : List (Reg × Word))
  | trap (code : Nat) (tval : Word) (l : List (Reg × Word))
  | ext (dst : Reg) (addr : Nat) (w : Width) (fwd : List (Nat × Byte))
  | back
  | link (dst : Reg) (core : Nat)
  deriving DecidableEq, Repr, Inhabited

/-- R169: a queue entry, 64 data bits and a control bit. -/
structure QEntry where
  data : Word
  ctl  : Bool
  deriving DecidableEq, Repr, Inhabited

/-- R81: a message of two words and a sender word. -/
structure Mail where
  w0     : Word
  w1     : Word
  sender : Word
  deriving DecidableEq, Repr, Inhabited

/-! ## Waiting -/

/-- What a fence, `lbf` or the second fence of a scoped atomic waits for (R164, R264): the thread's posted `stm`, the
store-buffer entries that stood when it issued, and the thread's update count. -/
structure Drain where
  stm   : Bool
  sbuf  : List Nat
  rupd  : Bool
  deriving DecidableEq, Repr, Inhabited

/-- R94: why a thread stands at an instruction that it issues again when the condition holds. -/
inductive Cause where
  | mailbox
  | ring (n : Nat) (push : Bool)
  | stmRoom
  | sbufRoom
  | sbufOverlap (pa len : Nat)
  | sbufOwn
  | vault (pas : List Nat)
  | before (d : Drain)
  | mxRoom
  | cpRoom
  | stmDrain
  | job (id : Word)
  | jobEnd (id : Word)
  | stream (x : Nat)
  | streamOut (x : Nat)
  | qDrain
  | rupdRoom
  | sealw
  | miss (va : Word)
  | migr
  | chan (pas : List Nat)
  deriving DecidableEq, Repr, Inhabited

/-- R93, R94: whether a thread is in the rotation.
`reply`: a request is out; `len` is the instruction's length in words, `popped` the entry it took from `qi`, `pushes`
whether its result goes to `qo`, `after` the scope of the fence that follows (R147).
`retry`: the instruction issues again once the cause has gone; `again`: it has gone, and the instruction is ready to
issue again. `drain`: the instruction completes once drained.
`frozen`: R303. -/
inductive Wait where
  | none
  | reply (len : Nat) (popped : Option QEntry) (pushes : Bool) (after : Scope)
  | retry (c : Cause)
  | again (c : Cause)
  | drain (d : Drain) (len : Nat)
  | frozen
  deriving DecidableEq, Repr, Inhabited

/-- R70: the state of a slot. -/
inductive SlotSt where
  | free | live | away | idle
  deriving DecidableEq, Repr, Inhabited

/-- Who is told when a remote-update thread quits (R150). -/
inductive AckTo where
  | slot (r : TRef)
  | away (modnum slotTag : Nat)
  deriving DecidableEq, Repr, Inhabited

/-- The registers and status of one slot; `parked` is a `park` under way, with the cycle of its limit and its destination (the
cycles that are left of it, while the core or the launch is stopped); `long`: its request waits at a unit of another module, where
a seal saves it;
a `home` whose core is 65,536 × (1 + m) + c is core c of module m, `homeCl` the cluster in which a thread from another module
resolves `cl:` codes (R42), `resv` the module and the word of a reservation;
the rules are (R70, R81, R84, R96 to R99, R144, R150, R163). -/
structure Thread where
  st      : SlotSt
  wait    : Wait
  readyAt : Nat
  pc      : Word
  g       : Vector Word 32
  v       : Vector (Vector Lane 32) 8
  p       : Vector Lane 4
  tvec    : Word
  tepc    : Word
  tcause  : Word
  tval    : Word
  qhv     : Word
  qhlk    : Word
  vlive   : Bool
  fw      : Bool
  th      : Bool
  qh      : Bool
  fwte    : Bool
  dtag    : Option Nat
  mailbox : Option Mail
  launch  : Option Nat
  home    : TRef
  homeCl  : Nat
  acks    : Option AckTo
  rupdOut : Nat
  stmOut  : Nat
  parked  : Option (Option Nat × Reg)
  long    : Bool
  yieldTo : List Nat
  resv    : Option (Nat × Nat)
  deriving DecidableEq, Repr, Inhabited

/-! ## Messages in flight -/

/-- A request to a TAU: who is answered, on behalf of which launch (`none`: firmware or hardware, which skip the
ownership check of R353), the virtual address for `tval`, and the physical address. -/
structure TauReq where
  rto     : ReplyTo
  launch : Option Nat
  va     : Word
  pa     : Nat
  deriving DecidableEq, Repr, Inhabited

/-- R74, R79: a placement; `role` and `gen` are the role code and the generation of the entry that it was resolved with. -/
structure PlaceMsg where
  dest    : Nat
  ident   : Ident
  role    : Nat
  gen     : Nat
  guest   : Bool
  target  : Word
  words   : List Word
  rto      : ReplyTo
  dst     : Reg
  hops    : Nat
  deriving DecidableEq, Repr, Inhabited

/-- R74, R81: a `sendm` on its way. -/
structure MailMsg where
  dest  : Nat
  ident : Ident
  role  : Nat
  gen   : Nat
  slot  : Nat
  mail  : Mail
  rto    : ReplyTo
  dst   : Reg
  hops  : Nat
  deriving DecidableEq, Repr, Inhabited

/-- R72: a message to a message-class slot of a core; `launch` is the launch of the thread it starts. A SYS message to the
command processor carries the slot, the cause, `tval` and the address in `extra` (R303). -/
structure ClassMsg where
  dest   : Nat
  mail   : Mail
  launch : Option Nat
  extra  : List Word
  deriving DecidableEq, Repr, Inhabited

/-- The TLB of a core, or of the copy unit of a cluster (R179). -/
inductive TlbAt where
  | core (c : Nat)
  | copy (cl : Nat)
  deriving DecidableEq, Repr, Inhabited

/-- R183, R314: a `tlbi` on its way: one address, or every entry; on a teller core only launch `only`. Once the entries are
removed, `gone` holds their physical ranges and the store-buffer entries that stood then. -/
structure ShootMsg where
  tlb   : TlbAt
  va    : Option Word
  only  : Option Nat
  rto    : ReplyTo
  dst   : Reg
  gone  : Option (List (Nat × Nat) × List Nat)
  deriving DecidableEq, Repr, Inhabited

/-- R183: a `tlbw` on its way; `lock` is LOCK of its TLB as the instruction sees it (R307). -/
structure TlbwMsg where
  tlb   : TlbAt
  w0    : Word
  w1    : Word
  only  : Option Nat
  rto    : ReplyTo
  dst   : Reg
  lock  : Nat
  deriving DecidableEq, Repr, Inhabited

/-- R136: a store on its way to its TAU, from store-buffer entry `id` of core `core`. -/
structure StoreMsg where
  core   : Nat
  id     : Nat
  launch : Option Nat
  pa     : Nat
  width  : Width
  data   : Word
  deriving DecidableEq, Repr, Inhabited

/-- R150: an UPDATE. -/
structure UpdateMsg where
  teller : Nat
  ident  : Ident
  target : Word
  words  : List Word
  addr   : Word
  acks   : AckTo
  deriving DecidableEq, Repr, Inhabited

/-- R152: a chained load on its way: value `v`, step `k`, hops so far, the TAU where it stands (`none`: the issuing
core), and the step words; `goPa` is the address translated on another module, whose word is read first. -/
structure ChldMsg where
  rto     : ReplyTo
  launch : Option Nat
  core   : Nat
  fw     : Bool
  v      : Word
  k      : Nat
  hops   : Nat
  at_    : Option Nat
  steps  : List Word
  fail   : Bool
  dst    : Reg
  goPa   : Option Nat
  deriving DecidableEq, Repr, Inhabited

/-- R163: a space-M write of bytes, from a thread whose count of unacknowledged `stm` it lowers. -/
structure MWriteMsg where
  frm    : Option TRef
  ident  : Ident
  dest   : Nat
  space  : Space
  off    : Nat
  bytes  : List Byte
  hops   : Nat
  deriving DecidableEq, Repr, Inhabited

/-- R163: a space-M read. -/
structure MReadMsg where
  rto     : ReplyTo
  dst    : Reg
  ident  : Ident
  dest   : Nat
  space  : Space
  off    : Nat
  width  : Width
  hops   : Nat
  deriving DecidableEq, Repr, Inhabited

/-- R74, R171: a `qcfg` at the core of another module that it names; `frm` is the issuing core as other modules number it, `role`
and `gen` the role code and the generation of the entry that it was resolved with. -/
structure LinkMsg where
  frm   : Nat
  dest  : Nat
  ident : Ident
  role  : Nat
  gen   : Nat
  hops  : Nat
  rto   : ReplyTo
  dst   : Reg
  deriving DecidableEq, Repr, Inhabited

/-- R276, R279: an arrival at a barrier; `rto = none` is an engine's arrival. -/
structure ArriveMsg where
  cluster : Nat
  bar     : Nat
  auto    : Bool
  phase   : Nat
  word    : Word
  rto      : Option (ReplyTo × Reg)
  deriving DecidableEq, Repr, Inhabited

/-- R277: a `barw` (or `barw.t`) at the barrier unit. -/
structure BarwMsg where
  cluster : Nat
  bar     : Nat
  phase   : Nat
  test    : Bool
  word    : Word
  rto      : ReplyTo
  dst     : Reg
  deriving DecidableEq, Repr, Inhabited

/-- R252: a search on its way to the header's engine; `index` is the module's own index number. -/
structure LdnnMsg where
  rto    : TRef
  dst   : Reg
  index : Nat
  k     : Nat
  ef    : Nat
  qoff  : Nat
  roff  : Nat
  ep    : Word
  snap  : Word
  deriving DecidableEq, Repr, Inhabited

/-- R253, R254, R255: an insertion (vector at `off` of the issuing core's A), a deletion (of SEQ `payload`), or a read
of the header. -/
structure GroveMsg where
  rto      : TRef
  dst     : Reg
  index   : Nat
  off     : Nat
  payload : Word
  deriving DecidableEq, Repr, Inhabited

/-- R252: the answer of a search: payload and distance of each result, for the A buffer of the issuing core; `launch` is the launch of
the index. -/
structure GroveAns where
  rto   : TRef
  dst  : Reg
  core : Nat
  launch : Option Nat
  roff : Nat
  res  : List (Word × Lane)
  deriving DecidableEq, Repr, Inhabited

/-- R155, R293: what an escrow entry is. -/
inductive EscWhat where
  | stext (addr : Nat) (width : Width) (data : Word)
  | outMsg (modnum : Nat) (payload : List Word)
  | irq (queue : Nat)
  | completion (addr queue num : Nat) (tag : Word) (status stale phase : Nat)
  deriving DecidableEq, Repr, Inhabited

/-- R293: an escrow entry: the interval in which it was made, its launch and home slot, and what it is. -/
structure EscEntry where
  ivl    : Nat
  launch : Option Nat
  iface  : Option Nat
  home   : TRef
  what   : EscWhat
  deriving DecidableEq, Repr, Inhabited

/-- R155: a `stext` at the door of its die's escrow. -/
structure EscMsg where
  die   : Nat
  entry : EscEntry
  rto    : ReplyTo
  deriving DecidableEq, Repr, Inhabited

/-- R180, R83: a thread context on its way to a teller of the module that owns the word; `nack` is where a module that
cannot take it answers. `fin` is the length and the destination of a `migr`, which completes where the context arrives;
`toHome`: the context returns to the slot that is held for it (R83); `popped` is the entry that it took from `qi`; `unit` is the
core that it leaves. -/
structure ShipMsg where
  teller : Nat
  ctx    : Thread
  ident  : Ident
  op     : Nat
  va     : Word
  frm    : Nat
  fin    : Option (Nat × Reg)
  toHome : Bool
  popped : Option QEntry
  unit   : Nat
  deriving DecidableEq, Repr, Inhabited

/-! ## Grove (R240 to R258) -/

/-- R244: an entry of an index. -/
structure GEntry where
  seq     : Nat
  dseq    : Option Nat
  payload : Word
  vec     : List Byte
  vers    : List (Nat × List Nat)
  deriving DecidableEq, Repr, Inhabited

/-- A scored entry of a search: distance bits, sequence, slot. -/
structure GHit where
  dist : Lane
  seq  : Nat
  slot : Nat
  deriving DecidableEq, Repr, Inhabited

/-- Whose search it is: an `ldnn`, or the neighbour search of an `stv` with its slot and sequence. -/
inductive GFor where
  | ldnn (m : LdnnMsg)
  | stv (rto : TRef) (dst : Reg) (slot seq : Nat)
  deriving DecidableEq, Repr, Inhabited

/-- R248, R257: a running search. `scan` counts the scanned slots of the exact mode. -/
structure GSearch where
  id    : Nat
  index : Nat
  snap  : Nat
  k     : Nat
  width : Nat
  exact : Bool
  query : List Lane
  beam  : List GHit
  cand  : List GHit
  seen  : List Nat
  scan  : Nat
  for_  : GFor
  deriving DecidableEq, Repr, Inhabited

/-- A sequence that has been allocated and waits to be published (R245): who is answered, whether the search of an `stv`
has ended, the new entry's slot, and the neighbours that the search has found. -/
structure GPub where
  seq   : Nat
  done  : Bool
  del   : Bool
  slot  : Nat
  near  : List Nat
  rto    : TRef
  dst   : Reg
  deriving DecidableEq, Repr, Inhabited

/-- R54, R242, R243: an index: its parameters and header; `frames` are the frames of its region. -/
structure GIndex where
  launch : Nat
  inum   : Nat
  record : Word
  frames : List Nat
  dim    : Nat
  bq8    : Bool
  ip     : Bool
  deg    : Nat
  cap    : Nat
  alloc  : Nat
  pub    : Nat
  floor  : Nat
  used   : Nat
  lives  : Nat
  ents   : FMap GEntry
  pubs   : List GPub
  deriving DecidableEq, Repr, Inhabited

/-! ## Matrix, copy and mint jobs (R172 to R178, R206 to R228) -/

inductive MxKind where
  | mxm | mxms | mxg | mxdrn | mxz
  deriving DecidableEq, Repr, Inhabited

/-- R210 to R219: a matrix job in the queue. `parts` are the participants' unit numbers, participant 0 first; `acc` the
accumulators of each participant while a strip runs; `got` the words of a B panel read from space G so far, and `rem` the
word asked of another module with its answer. -/
structure MxJob where
  kind    : MxKind
  id      : Nat
  bank    : Nat
  parts   : List Nat
  fmt     : Word
  thr     : Word
  desc    : List Word
  bars    : List Nat
  mask    : List Lane
  started : Bool
  pause   : Option (Nat × Word)
  told    : Bool
  cancel  : Bool
  strip   : Nat
  knext   : Nat
  row     : Nat
  acc     : List (List Lane)
  got     : List Word
  rem     : Option (Option RepRes)
  deriving DecidableEq, Repr, Inhabited

/-- R212, R215: one participant's part of a record. -/
structure SubRec where
  unit   : Nat
  code   : Nat
  knext  : Nat
  strip  : Nat
  sat    : Nat
  nan    : Nat
  bso    : Nat
  ended  : Bool
  told   : Bool
  fval   : Word
  deriving DecidableEq, Repr, Inhabited

/-- R211, R212: a completion record of the matrix unit or of the copy unit; `told`: the summary has been reported (R223). -/
structure JobRec where
  seq   : Nat
  final : Bool
  gang  : Bool
  began : Bool
  subs  : List SubRec
  told  : Bool
  deriving DecidableEq, Repr, Inhabited

inductive CpKind where
  | cpy | cpyo | mint | mintT
  deriving DecidableEq, Repr, Inhabited

/-- R172 to R177: a copy job in the queue, with its progress: the words done (`pos`), for the mint the stream bit
position and the bytes out, the ring slot it has reserved, the words of space G it holds, and the word asked of another module. -/
structure CpJob where
  kind    : CpKind
  id      : Nat
  bank    : Nat
  core    : Nat
  launch  : Option Nat
  desc    : List Word
  started : Bool
  loc     : Option Nat
  pos     : Nat
  out     : Nat
  last    : Byte
  cancel  : Bool
  rem     : Option (Option RepRes)
  words   : FMap Word
  deriving DecidableEq, Repr, Inhabited

/-! ## Launch descriptions (R29 to R54) -/

/-- R45. -/
structure RoleRec where
  code  : Nat
  kind  : Nat
  entry : Nat
  deriving DecidableEq, Repr, Inhabited

/-- R50: a node of a graph. -/
structure GNode where
  entry : Nat
  npred : Nat
  cost  : Nat
  sidx  : Nat
  nsucc : Nat
  place : Nat
  arg0  : Word
  arg1  : Word
  deriving DecidableEq, Repr, Inhabited

/-- R49, R65 to R67: a graph loaded into the Arbor: its nodes, successor array, longest remaining paths, readiness
counters (generation and value), instance generation G, pending runs P, and the instance's signalled nodes. -/
structure Graph where
  nodes : List GNode
  succ  : List Nat
  sink  : Nat
  lpath : List Nat
  cnt   : FMap (Option Nat × Nat)
  gen   : Nat
  pend  : Nat
  live  : Bool
  done  : List Nat
  deriving DecidableEq, Repr, Inhabited

/-- R53. -/
structure BufRec where
  role   : Nat
  space  : Nat
  off    : Nat
  len    : Nat
  src    : Nat
  deriving DecidableEq, Repr, Inhabited

/-- A page of a launch's space G (R30, R31): virtual and physical page address, and whether it is code. -/
structure Page where
  va   : Nat
  pa   : Nat
  code : Bool
  deriving DecidableEq, Repr, Inhabited

/-- R59: the fields of a launch record. -/
structure LRecord where
  queue : Nat
  num   : Nat
  image : Nat
  tag   : Word
  param : List Word
  prio  : Nat
  clust : Nat
  graph : Nat
  runs  : Nat
  dbase : Nat
  dcnt  : Nat
  deriving DecidableEq, Repr, Inhabited

/-- The parts of a kernel image that the command processor and the Arbor use after the checks of R55. -/
structure Image where
  codeBase : Nat
  codeSize : Nat
  codeOff  : Nat
  dataBase : Nat
  dataSize : Nat
  dataOff  : Nat
  heapBase : Nat
  heapPages : Nat
  trapEntry : Option Nat
  nCl      : Nat
  nDv      : Nat
  nDm      : Nat
  roles    : List RoleRec
  links    : List (Nat × Nat)
  graphs   : List Graph
  bufs     : List BufRec
  idxs     : List Word
  deriving DecidableEq, Repr, Inhabited

/-- What the command processor is free to choose when it admits a launch (R31, R42): the base of the binding table and
the physical page for each mapped page, in the order code, data, heap; `none`: the model's default choice. -/
structure AdmitChoice where
  table : Nat
  pages : Option (List Nat)
  deriving DecidableEq, Repr, Inhabited

/-! ## Fabric (R368 to R381) -/

/-- R375: the traffic classes. -/
inductive TClass where
  | control | ordered | adaptive
  deriving DecidableEq, Repr, Inhabited

/-- R64, R74: the binding entries (index and word) that a rank of a domain job sends to the others; rank 0 sends the domain job
number with its own. -/
structure RoleMsg where
  frm   : Nat
  dbase : Nat
  tag   : Word
  djob  : Option Nat
  ents  : List (Nat × Word)
  deriving DecidableEq, Repr, Inhabited

/-- R211, R228, R299: what a thread asks of its home's module from another one: `jwait`, `jtest`, `jcanc` or `mxcnt` of a job id,
or that the escrow has no entry of its home slot (`sealw`). -/
inductive JobOp where
  | wait | test | cancel | count | sealw
  deriving DecidableEq, Repr, Inhabited

/-- R211: such a request; `home` is the thread's home on the module that serves it. -/
structure JobReq where
  op   : JobOp
  home : TRef
  id   : Word
  dst  : Reg
  rto  : ReplyTo
  deriving DecidableEq, Repr, Inhabited

/-- R374: for each destination the path to it and the alternative ones: the module that each leads to first (the destination, or
an intermediate module) and the modules that it goes through, the destination the last. -/
structure RTable where
  gen    : Nat
  routes : List (Nat × List (Nat × List Nat))
  deriving DecidableEq, Repr, Inhabited

/-- The messages that a packet can bring to this module or take from it (R28, R375, R380). -/
inductive PktBody where
  | place (m : PlaceMsg)
  | mail (m : MailMsg)
  | update (m : UpdateMsg)
  | updateAck (tag : Nat)
  | ship (m : ShipMsg)
  | nack (m : ShipMsg)
  | freeHome (slot : TRef)
  | read (r : TauReq) (w : Width) (dst : Reg)
  | write (r : TauReq) (data : Word)
  | chld (m : ChldMsg)
  | reply (rto : TRef) (res : RepRes)
  | answer (tag : Nat) (res : RepRes)
  | jobReq (m : JobReq)
  | unjob (rto : ReplyTo)
  | qEntry (frm dest : Nat) (e : QEntry)
  | qAck (frm core : Nat)
  | qLink (m : LinkMsg)
  | qUnlink (core : Nat)
  | sys (m : ClassMsg)
  | moved (l : List (TRef × TRef))
  | arrive (m : ArriveMsg)
  | barw (m : BarwMsg)
  | bart (home : TRef) (word target : Word) (rto : ReplyTo) (dst : Reg)
  | resvQuit (who : TRef) (pa : Nat)
  | prep (n : Nat) | saved (n modnum : Nat) | commit (n : Nat) | sealReq (modnum : Nat)
  | trigger (cause modnum : Nat) | rollback (m cause : Nat) | failed (cause : Nat)
  | join (modnum : Nat) (cap : Word) | joinReply (ivl modnum count : Nat) (mods : FMap Word) (ups : List (Nat × Nat))
  | table (t : RTable) | loaded (modnum : Nat) | activate | drained (modnum : Nat) | retire
  | ordAck (stream : Nat) | link (frm peer : Nat) (up : Bool) | rekeyAsk | rekeyAck
  | roles (m : RoleMsg)
  deriving DecidableEq, Repr, Inhabited

/-- R374: a packet; `src` is the module that sent it, and `ivl` the interval in which it was sent (R290). -/
structure Packet where
  src   : Nat
  dest  : Nat
  inter : Option Nat
  hops  : Nat
  cls   : TClass
  gen   : Nat
  ivl   : Nat
  body  : PktBody
  deriving DecidableEq, Repr, Inhabited

/-- R370: flit `k` of the `n` flits of a packet. -/
structure Flit where
  pkt : Packet
  k   : Nat
  n   : Nat
  deriving DecidableEq, Repr, Inhabited

/-- R370: a frame, received or sent: the fields of its first 16 bytes, at most four flits, and its tag. -/
structure FrameIn where
  port   : Nat
  linkid : Nat
  ctr    : Nat
  flags  : Nat
  cred   : Nat
  acklo  : Nat
  flits  : List Flit
  tag    : BitVec 128
  deriving DecidableEq, Repr, Inhabited

/-- R362, R363: what an SPDM or TDISP request other than for measurements, LOCK, START, STOP or the report asks for: the certificate
chain, the answer to a challenge (its nonce), a session, the keys of an IDE stream, or anything else. -/
inductive SpdmAsk where
  | certificate
  | challenge (nonce : List Byte)
  | session
  | ideKey
  | other
  deriving DecidableEq, Repr, Inhabited

end Sys2Proof
end

