-- ==== Sys2Proof/Config.lean ====
section
/-!
DEFINITION. What the spec leaves open: free values, which are constants with no body, so that nothing can be proved of
them. Log entries 3 and 4 name them.
-/
namespace Sys2Proof.Config

/-- R202: which of the values within the error bound of an approximation the unit gives, by the operand's FP32 bits.
`Numbers.lean` holds the result within the bound of the rule. -/
opaque approxDelta : Approx → Nat → Nat

/-- A byte of host memory that the host has not been seen to write, on its n-th reading (R155, R298). -/
opaque hostByte : Nat → Nat → Byte

/-- A word that the spec leaves open, on its n-th use: the payload of a RECALL (R185) or of a SYS message of DXSYS (R358). -/
opaque freeWord : Nat → Word

/-- R284: CODE of a vault record, by the bytes that it checks. -/
opaque checkCode : List Byte → BitVec 256

/-- R353: a byte that a command processor reads where its TAU refuses the read, by address (log entry 59). -/
opaque refusedByte : Nat → Byte

/-- R370: one less than the flits that a packet takes, by what it carries. -/
opaque moreFlits : PktBody → Nat

/-- R370: one less than the flits of credit that a port has at bring-up. -/
opaque moreCredits : Nat

/-- R370, R371: the tag that AES-256-GCM gives under the n-th key of the direction of a LINKID, by the nonce, the additional
authenticated data and the flits. -/
opaque linkTag : Nat → Nat → List Byte → List Byte → List Flit → BitVec 128

/-- R374: which of the possible intermediate modules the leader takes, at random, for alternative k of a path, on the n-th
building. -/
opaque intermediate : Nat → Nat → Nat → Nat → Nat

/-- R345: the eye margins of a lane (stack, lane number 128 × channel + lane) as its monitor finds them at a cycle. -/
opaque margin : Nat → Nat → Nat → Nat × Nat

/-- R25, R384: the power, the slice cycles and the issue cycles withheld that the capper measures over the window that ends at a
cycle. -/
opaque capper : Nat → Nat × Nat × Nat

/-- R358: how often an event of a performance counter, by its number, happens in the instruction that completes at a cycle. -/
opaque perfEvents : Word → Nat → Nat

/-- R382: the reading of an ageing monitor (the value of AGSEL) at a cycle. -/
opaque reading : Nat → Nat → Nat

/-- R383: the voltage offset that each die needs by the firmware's prediction at a cycle, in steps of 5 mV. -/
opaque offsetNeeded : Nat → Nat × Nat

/-- R345: whether a lane (training, stack, channel, lane) fails its training at power-up. -/
opaque laneFails : Nat → Nat → Nat → Nat → Bool

/-- R360: the root hash in mask ROM. -/
opaque rootHash : BitVec 256

/-- R362: the private identity key of this part, derived from its PUF, and the secret number of its n-th signature. -/
opaque identityKey : BitVec 256
opaque signSecret : Nat → BitVec 256

/-- R362: the signature that the maker put under a certificate. -/
opaque makerSign : List Byte → List Byte

/-- R362: the mask-ROM hash of measurement 2. -/
opaque romHash : BitVec 256

/-- R382: the manufacture reading of an ageing monitor (the value of AGSEL). -/
opaque fusedReading : Nat → BitVec 16

/-- R358: the order code and revision that follow PLVID in the identity block, by offset. -/
opaque identity : Nat → Word

end Sys2Proof.Config
end

