-- ==== Sys2Proof/Syntax.lean ====
section
/-!
DEFINITION. The steps of the module, one constructor per row of spec/opcode_table.json: the instructions of pages 0 to 9
(R37 to R40) and the events of the engines, units, command processors, host and environment. An instruction carries its
fields, its immediate with its number of XI words, and whether an XR or XS word stands in it, so that its words and its
length are recovered from it. An event has no words; the message or the reading that it is about is an `Ev`
(Events.lean), which the state holds while the event happens.
-/
namespace Sys2Proof

inductive Instr where
  -- Page 0, class C (R109)
  | nop
  | trap (i : Imm)
  | brk (i : Imm)
  -- Page 0, classes U, L, S, R, I, X (R37, R100 to R106); `c` is the XR word's register where it stands
  | mov (a b : Reg)
  | li (a : Reg) (i : Imm)
  | sel (a b c m : Reg)
  | add (a b : Reg) (c : Option Reg)
  | addImm (a : Reg) (c : Option Reg) (i : Imm)
  | sub (a b : Reg) (c : Option Reg)
  | mul (a b : Reg) (c : Option Reg)
  | mulh (a b : Reg) (c : Option Reg)
  | mulhu (a b : Reg) (c : Option Reg)
  | div (a b : Reg) (c : Option Reg)
  | divu (a b : Reg) (c : Option Reg)
  | rem (a b : Reg) (c : Option Reg)
  | remu (a b : Reg) (c : Option Reg)
  | and (a b : Reg) (c : Option Reg)
  | andImm (a : Reg) (c : Option Reg) (i : Imm)
  | or (a b : Reg) (c : Option Reg)
  | orImm (a : Reg) (c : Option Reg) (i : Imm)
  | xor (a b : Reg) (c : Option Reg)
  | xorImm (a : Reg) (c : Option Reg) (i : Imm)
  | sll (a b : Reg) (c : Option Reg)
  | srl (a b : Reg) (c : Option Reg)
  | sra (a b : Reg) (c : Option Reg)
  | rol (a b : Reg) (c : Option Reg)
  -- Branches and jumps (R107, R108)
  | bz (a : Reg) (o : Imm)
  | beq (a : Reg) (c : Option Reg) (o : Imm)
  | bnz (a : Reg) (o : Imm)
  | bne (a : Reg) (c : Option Reg) (o : Imm)
  | blt (a : Reg) (c : Option Reg) (o : Imm)
  | bge (a : Reg) (c : Option Reg) (o : Imm)
  | bltu (a : Reg) (c : Option Reg) (o : Imm)
  | bgeu (a : Reg) (c : Option Reg) (o : Imm)
  | j (o : Imm)
  | jl (o : Imm)
  | jr (a : Reg)
  | jlr (a b : Reg)
  | slt (a b : Reg) (c : Option Reg)
  | sltu (a b : Reg) (c : Option Reg)
  | seq (a b : Reg) (c : Option Reg)
  | sne (a b : Reg) (c : Option Reg)
  -- Loads and stores of space G (R138); `i` is the displacement
  | ldgD (a b : Reg) (i : Imm)
  | ldgW (a b : Reg) (i : Imm)
  | ldgH (a b : Reg) (i : Imm)
  | ldgB (a b : Reg) (i : Imm)
  | stgD (a b : Reg) (i : Imm)
  | stgW (a b : Reg) (i : Imm)
  | stgH (a b : Reg) (i : Imm)
  | stgB (a b : Reg) (i : Imm)
  | sllImm (a : Reg) (c : Option Reg) (i : Imm)
  | srlImm (a : Reg) (c : Option Reg) (i : Imm)
  | sraImm (a : Reg) (c : Option Reg) (i : Imm)
  | ror (a b : Reg) (c : Option Reg)
  | rorImm (a : Reg) (c : Option Reg) (i : Imm)
  | clz (a b : Reg)
  | ctz (a b : Reg)
  | popc (a b : Reg)
  | bext (a b : Reg) (c : Option Reg)
  | bdep (a b : Reg) (c : Option Reg)
  | sext (w : Width) (a : Reg) (c : Option Reg)
  | zext (w : Width) (a : Reg) (c : Option Reg)
  | sltImm (a : Reg) (c : Option Reg) (i : Imm)
  -- Page 1 (R139); `xs` is the XS word's scope where it stands
  | ldfe (a b : Reg) (i : Imm)
  | ldff (a b : Reg) (i : Imm)
  | stfe (a b : Reg) (i : Imm)
  | stff (a b : Reg) (i : Imm)
  | ldx (a b : Reg) (i : Imm)
  | fes (full : Bool) (b : Reg) (i : Imm)
  | lrq (a b : Reg) (i : Imm)
  | scq (a b : Reg) (i : Imm)
  | amo (op : AmoOp) (a b c m : Reg) (xs : Option Scope) (uns : Bool)
  | amofAdd (a b c : Reg) (xs : Option Scope)
  | amoxAdd (a b : Reg) (xs : Option Scope)
  | amoxAddI (a b : Reg) (xs : Scope)
  | rupd (a b : Reg) (i : Imm) (xs : Option Scope)
  | chld (a b c : Reg) (n : Nat)
  | chldFail (a b c : Reg) (n : Nat)
  | ldext (w : Width) (a b : Reg) (i : Imm)
  | stext (w : Width) (a b : Reg) (i : Imm)
  -- Page 2 (R165)
  | ld (sp : Space) (w : Width) (a b : Reg) (i : Imm)
  | st (sp : Space) (w : Width) (a b : Reg) (i : Imm)
  | ldm (w : Width) (a b : Reg) (i : Imm)
  | stm (w : Width) (a b : Reg) (i : Imm)
  | lbf
  | rcfg (n : Fin 4) (b : Reg)
  | rpop (a : Reg) (n : Fin 4)
  | rpopF (n : Fin 4)
  | rpush (a : Reg) (n : Fin 4)
  | rpushC (n : Fin 4)
  | qcfg (a b : Reg)
  | qend (a : Reg)
  | qendRet
  | evct (a b c : Reg)
  | rcll (a b c : Reg)
  -- Page 3 (R78); for `spawn` the immediate holds the role code in its low 16 bits and the offset above
  | start (a b : Reg) (i : Imm)
  | spawn (a b : Reg) (i : Imm)
  | spawnReg (a b c : Reg) (i : Imm)
  | quit
  | park (a b : Reg)
  | yield
  | sendm (a b c : Reg)
  | wfm (a : Reg)
  | migr (a b : Reg)
  | gsig (a b : Reg)
  | gsigRun (a : Reg)
  | rolq (a b : Reg)
  | rolqImm (a : Reg) (i : Imm)
  -- Page 4 (R192); `p` governs, `d` is the destination
  | vadd (q : VArith) (p : PReg) (d b : VReg) (x : VSrc)
  | vsub (q : VArith) (p : PReg) (d b : VReg) (x : VSrc)
  | vmul (q : VArith) (p : PReg) (d b : VReg) (x : VSrc)
  | vfma (q : VArith) (p : PReg) (d b : VReg) (x : VSrc) (e : VReg)
  | vmin (q : VArith) (p : PReg) (d b : VReg) (x : VSrc)
  | vmax (q : VArith) (p : PReg) (d b : VReg) (x : VSrc)
  | vabs (q : VArith) (p : PReg) (d b : VReg)
  | vneg (q : VArith) (p : PReg) (d b : VReg)
  | vand (p : PReg) (d b : VReg) (x : VSrc)
  | vor (p : PReg) (d b : VReg) (x : VSrc)
  | vxor (p : PReg) (d b : VReg) (x : VSrc)
  | vnot (p : PReg) (d b : VReg)
  | vshl (p : PReg) (d b : VReg) (x : VSrc)
  | vshr (p : PReg) (d b : VReg) (x : VSrc)
  | vsra (p : PReg) (d b : VReg) (x : VSrc)
  | vmov (p : PReg) (d b : VReg)
  | vcmp (cc : VCond) (t : VType) (u : Bool) (p d : PReg) (b : VReg) (x : VSrc)
  | vsel (p : PReg) (d b : VReg) (x : VSrc)
  | vrsum (q : VArith) (d : Reg) (p : PReg) (b : VReg)
  | vrmax (q : VArith) (d : Reg) (p : PReg) (b : VReg)
  | vrmin (q : VArith) (d : Reg) (p : PReg) (b : VReg)
  | vperm (p : PReg) (d b c : VReg)
  | vbcst (p : PReg) (d : VReg) (b : Reg)
  | vext (d : Reg) (b : VReg) (n : Fin 32)
  | vins (d : VReg) (b : Reg) (n : Fin 32)
  | vcvt (rm : Rnd) (sat : Bool) (p : PReg) (d b : VReg) (df : VFmt) (du : Bool) (sf : VFmt) (su : Bool)
  | vquant (t : VType) (m : Nat) (d b : VReg) (c : Reg)
  | vdeq (t : VType) (m : Nat) (d b : VReg) (c : Reg)
  | vscale (t : VType) (m : Nat) (d : Reg) (b : VReg)
  | vcmpr (d b : VReg) (c : Reg)
  | vexpd (d b : VReg) (c : Reg)
  | vexp2 (t : VType) (sat : Bool) (p : PReg) (d b : VReg)
  | vlog2 (t : VType) (sat : Bool) (p : PReg) (d b : VReg)
  | vrcp (t : VType) (sat : Bool) (p : PReg) (d b : VReg)
  | vrsqrt (t : VType) (sat : Bool) (p : PReg) (d b : VReg)
  | vtanh (t : VType) (sat : Bool) (p : PReg) (d b : VReg)
  | vld (sp : Space) (w : Width) (u : Bool) (p : PReg) (d : VReg) (b : Reg) (i : Imm)
  | vst (sp : Space) (w : Width) (p : PReg) (d : VReg) (b : Reg) (i : Imm)
  | pset (d : PReg) (b : Reg)
  | pget (d : Reg) (b : PReg)
  -- Page 5 (R178, R225)
  | mxfmt (d b : Reg)
  | mxz (a b : Reg)
  | mxm (a b : Reg)
  | mxms (a b : Reg) (c : VReg)
  | mxg (a b : Reg)
  | mxdrn (a b : Reg)
  | mxcnt (d b : Reg)
  | mxthr (d b : Reg)
  | jwait (d b : Reg)
  | jtest (d b : Reg)
  | jcanc (d b : Reg)
  | cpy (a b : Reg)
  | cpyo (a b : Reg)
  | mint (a b : Reg)
  | mintT (a b : Reg)
  -- Page 6 (R237)
  | sopen (x : Fin 4) (b : Reg)
  | sisect (x y : Fin 4)
  | sunion (x y : Fin 4)
  | sdiff (x y : Fin 4)
  | smerge (x : Fin 4) (mask : Fin 16)
  | snext (d : Reg) (x : Fin 4)
  | scnt (d : Reg) (x : Fin 4)
  | scntA (d : Reg) (x : Fin 4) (c : Reg)
  | sclose (d : Reg) (x : Fin 4)
  -- Page 7 (R250)
  | ldnn (d b : Reg)
  | stv (d b c : Reg)
  | dlv (d b c : Reg)
  | ixver (d b : Reg)
  | ixsnap (d b : Reg)
  -- Page 8 (R264, R280, R299)
  | fence (xs : Option Scope)
  | barv (d b : Reg)
  | barw (d b : Reg)
  | barwT (d b : Reg)
  | bart (d b c : Reg)
  | sealq (d : Reg)
  | sealw (d : Reg)
  | ivn (d : Reg)
  | ivnRb (d : Reg)
  -- Page 9 (R182, R307); the immediate is the CSR number
  | csrr (d : Reg) (i : Imm)
  | csrw (a : Reg) (i : Imm)
  | csrs (a : Reg) (i : Imm)
  | csrc (a : Reg) (i : Imm)
  | tret
  | dbgi (a b c : Reg)
  | tlbw (a b c : Reg)
  | tlbi (a b c : Reg)
  | tlbiAll (a c : Reg)
  | tlbp (d b : Reg)
  -- Launch and Arbor (R56 to R69)
  | dbq | launchRecord | admission | launchStart | runRequest | armInstance | completionSignal | arborDispatch
  -- Placing and messages (R70 to R86)
  | place | reply | mailboxMessage | wakeMessage | xlatMessage | shootMessage | recallMessage | sysMessage | drainAck
  | retireForwarding | parkTimeout | contextShipment | freeMessage
  -- Fetching, store buffers and TAUs (R88, R135 to R158)
  | lineFill | storeBufferInject | tauStore | storeAck | tauRead | feRequest | fetmoTimeout | lrqRequest | scqRequest
  | amoRequest | amofRequest | amoxRequest | update | updateAck | chldStep | escrowAccept | escrowLinkAccept
  -- Local memory and engines (R159 to R187, R206 to R239)
  | mWrite | mRead | queueTransfer | copyJob | copyoJob | mintJob | mintTableJob | tlbwInstall | mxmJob | mxmsJob
  | mxgJob | mxdrnJob | mxzJob | streamRead | mergeStep
  -- Grove (R240 to R258)
  | ldnnAccept | stvAccept | dlvAccept | ixverAccept | ixsnapAccept | candidateExpansion | publish | groveReply
  -- Barriers (R273 to R281)
  | arrive | barwRequest
  -- Seals and rollback (R282 to R299)
  | sealTimer | sealRequest | prep | save | saved | commit | rollbackTrigger | rollback | stampSweep
  -- Pre-emption, moves, switching, retirement (R308 to R326)
  | preemption | contextStreamComplete | readmission | retirement
  -- Watchdog (R319, R320)
  | wdkick | kickTimeout | coreHang | sealHang
  -- Memory stacks and PAT (R343 to R353)
  | retrainChannel | repairLane | hcmdComplete | marginUpdate | refresh | scrubVisit | selfRefreshEntry | patdataWrite
  -- Host, firmware and trust (R354 to R367)
  | createQueue | removeQueue | setWindow | assignFrames | releaseFrames | switchOut | switchIn | moveRole
  | readMapping | hostMemRead | hostMemWrite | verifyAndStart | verifyAndSwap | firmwareVerification | queueSafePoint
  | reset | getMeasurements | lock | startRequest | stop | getDeviceInterfaceReport | vfConfigWrite | dxsys
  | registerWrite
  -- Klofeub fabric (R368 to R381)
  | frame | linkDown | portBringUp | rekey | routingTableLoad | activate | drain | retire | join
  -- Service life (R25, R382 to R385)
  | capperWindow | thermalTrip | ageingMonitorUpdate | replan
  -- Decoding and power
  | illegalInstruction | corePowerGating | powerDown | temperatureReading | unknownAdminOpcode | spdmRequest
  deriving DecidableEq, Repr

end Sys2Proof
end

