-- ==== Sys2Proof/Events.lean ====
section
/-!
DEFINITION. What an event is about: for each event row of spec/opcode_table.json the message, the request or the outside
reading that it handles. Messages in flight and the agenda of the outside are lists of these.
-/
namespace Sys2Proof

inductive Ev where
  -- Launch and Arbor (R56 to R69)
  | dbq (q : Nat) (value : Word) (iface : Option Nat)
  | launchRecord (q : Nat)
  | admission (ch : AdmitChoice)
  | launchStart (l : Nat)
  | runRequest (l g n : Nat)
  | armInstance (l g : Nat)
  | completionSignal (l : Nat) (g : Option Nat) (node gen : Nat)
  | arborDispatch (l : Nat)
  -- Placing and messages (R70 to R86)
  | place (m : PlaceMsg)
  | reply (rto : TRef) (res : RepRes)
  | mailboxMessage (m : MailMsg)
  | wakeMessage (m : ClassMsg)
  | xlatMessage (m : ClassMsg)
  | shootMessage (m : ShootMsg)
  | recallMessage (m : ClassMsg)
  | sysMessage (m : ClassMsg)
  | drainAck (core unit : Nat)
  | retireForwarding (core : Nat)
  | parkTimeout (r : TRef)
  | contextShipment (m : ShipMsg)
  | freeMessage (r : TRef)
  -- Fetching, store buffers and TAUs (R88, R135 to R158)
  | lineFill (r : TRef) (va : Word)
  | storeBufferInject (core : Nat)
  | tauStore (m : StoreMsg)
  | storeAck (core id : Nat)
  | tauRead (r : TauReq) (w : Width) (dst : Reg)
  | feRequest (r : TauReq) (op : FeOp) (data : Word) (dst : Reg) (limit : Option Nat)
  | fetmoTimeout (r : TRef)
  | lrqRequest (r : TauReq) (dst : Reg) (who : TRef) (limit : Option Nat)
  | scqRequest (r : TauReq) (data : Word) (who : TRef)
  | amoRequest (r : TauReq) (op : AmoOp) (uns : Bool) (x y : Word) (dst : Reg)
  | amofRequest (r : TauReq) (x : Lane) (dst : Reg)
  | amoxRequest (r : TauReq) (x : BitVec 128)
  | update (m : UpdateMsg)
  | updateAck (r : TRef)
  | chldStep (m : ChldMsg)
  | escrowAccept (m : EscMsg)
  | escrowLinkAccept (die : Nat)
  -- Local memory and engines (R159 to R187, R206 to R239)
  | mWrite (m : MWriteMsg)
  | mRead (m : MReadMsg)
  | queueTransfer (core : Nat)
  | copyJob (cl : Nat)
  | copyoJob (cl : Nat)
  | mintJob (cl : Nat)
  | mintTableJob (cl : Nat)
  | tlbwInstall (m : TlbwMsg)
  | mxmJob (cl id : Nat)
  | mxmsJob (cl id : Nat)
  | mxgJob (cl id : Nat)
  | mxdrnJob (cl id : Nat)
  | mxzJob (cl id : Nat)
  | streamRead (core x : Nat)
  | mergeStep (core x : Nat)
  -- Grove (R240 to R258)
  | ldnnAccept (m : LdnnMsg)
  | stvAccept (m : GroveMsg)
  | dlvAccept (m : GroveMsg)
  | ixverAccept (m : GroveMsg)
  | ixsnapAccept (m : GroveMsg)
  | candidateExpansion (id : Nat)
  | publish (index : Nat)
  | groveReply (m : GroveAns)
  -- Barriers (R273 to R281)
  | arrive (m : ArriveMsg)
  | barwRequest (m : BarwMsg)
  -- Seals and rollback (R282 to R299)
  | sealTimer
  | sealRequest (modnum : Nat)
  | prep (n : Nat)
  | save
  | saved (n modnum : Nat)
  | commit (n : Nat)
  | rollbackTrigger (cause modnum : Nat)
  | rollback (m cause : Nat)
  | stampSweep (gran : Nat)
  -- Pre-emption, moves, switching, retirement (R308 to R326)
  | preemption (core : Nat)
  | contextStreamComplete (core dest : Nat)
  | readmission (l : Nat)
  | retirement (l : Nat)
  -- Watchdog (R319, R320)
  | wdkick
  | kickTimeout
  | coreHang (core : Nat)
  | sealHang
  -- Memory stacks and PAT (R343 to R353)
  | retrainChannel (stack ch : Nat)
  | repairLane (stack ch lane : Nat)
  | hcmdComplete (stack : Nat)
  | marginUpdate (stack ch lane hm vm : Nat)
  | refresh (pch row : Nat)
  | scrubVisit (pch : Nat) (result : Nat)
  | selfRefreshEntry (pch : Nat)
  | patdataWrite (frame : Nat) (value : Word)
  -- Host, firmware and trust (R354 to R367)
  | createQueue
  | removeQueue
  | setWindow
  | assignFrames
  | releaseFrames
  | switchOut
  | switchIn
  | moveRole
  | readMapping
  | hostMemRead (addr len : Nat) (ide : Option Nat)
  | hostMemWrite (addr : Nat) (bytes : List Byte) (ide : Option Nat)
  | verifyAndStart (slot : Nat)
  | verifyAndSwap (slot : Nat)
  | firmwareVerification
  | queueSafePoint (entries : List Word)
  | reset
  | getMeasurements
  | lock (d : Nat)
  | startRequest (d : Nat)
  | stop (d : Nat)
  | getDeviceInterfaceReport (d : Nat)
  | vfConfigWrite (d : Nat) (off : Nat) (value : Word)
  | dxsys (cp : Nat) (value : Word)
  | registerWrite (host : Bool) (off : Nat) (value : Word)
  | errClear (q : Nat)
  -- Klofeub fabric (R368 to R381)
  | frame (f : FrameIn)
  | packet (p : Packet)
  | linkDown (port : Nat)
  | portBringUp (port peer peerPort : Nat)
  | rekey (port : Nat) (sending : Bool)
  | routingTableLoad (t : RTable)
  | activate
  | drain
  | retire
  | join (ivl modnum count : Nat)
  -- Service life (R25, R382 to R385)
  | capperWindow (watts slices issues : Nat)
  | thermalTrip
  | ageingMonitorUpdate (sel reading : Nat)
  | replan (need0 need1 : Nat)
  -- Decoding and power
  | illegalInstruction (off : Nat)
  | corePowerGating (core : Nat) (gate : Bool)
  | powerDown
  | temperatureReading (part reading : Nat)
  | unknownAdminOpcode
  | spdmRequest (d : Nat) (ask : SpdmAsk)
  deriving DecidableEq, Repr

/-- The step of the opcode table that handles an event. -/
def Ev.instr : Ev → Instr
  | .dbq .. => .dbq
  | .launchRecord .. => .launchRecord
  | .admission .. => .admission
  | .launchStart .. => .launchStart
  | .runRequest .. => .runRequest
  | .armInstance .. => .armInstance
  | .completionSignal .. => .completionSignal
  | .arborDispatch .. => .arborDispatch
  | .place .. => .place
  | .reply .. => .reply
  | .mailboxMessage .. => .mailboxMessage
  | .wakeMessage .. => .wakeMessage
  | .xlatMessage .. => .xlatMessage
  | .shootMessage .. => .shootMessage
  | .recallMessage .. => .recallMessage
  | .sysMessage .. => .sysMessage
  | .drainAck .. => .drainAck
  | .retireForwarding .. => .retireForwarding
  | .parkTimeout .. => .parkTimeout
  | .contextShipment .. => .contextShipment
  | .freeMessage .. => .freeMessage
  | .lineFill .. => .lineFill
  | .storeBufferInject .. => .storeBufferInject
  | .tauStore .. => .tauStore
  | .storeAck .. => .storeAck
  | .tauRead .. => .tauRead
  | .feRequest .. => .feRequest
  | .fetmoTimeout .. => .fetmoTimeout
  | .lrqRequest .. => .lrqRequest
  | .scqRequest .. => .scqRequest
  | .amoRequest .. => .amoRequest
  | .amofRequest .. => .amofRequest
  | .amoxRequest .. => .amoxRequest
  | .update .. => .update
  | .updateAck .. => .updateAck
  | .chldStep .. => .chldStep
  | .escrowAccept .. => .escrowAccept
  | .escrowLinkAccept .. => .escrowLinkAccept
  | .mWrite .. => .mWrite
  | .mRead .. => .mRead
  | .queueTransfer .. => .queueTransfer
  | .copyJob .. => .copyJob
  | .copyoJob .. => .copyoJob
  | .mintJob .. => .mintJob
  | .mintTableJob .. => .mintTableJob
  | .tlbwInstall .. => .tlbwInstall
  | .mxmJob .. => .mxmJob
  | .mxmsJob .. => .mxmsJob
  | .mxgJob .. => .mxgJob
  | .mxdrnJob .. => .mxdrnJob
  | .mxzJob .. => .mxzJob
  | .streamRead .. => .streamRead
  | .mergeStep .. => .mergeStep
  | .ldnnAccept .. => .ldnnAccept
  | .stvAccept .. => .stvAccept
  | .dlvAccept .. => .dlvAccept
  | .ixverAccept .. => .ixverAccept
  | .ixsnapAccept .. => .ixsnapAccept
  | .candidateExpansion .. => .candidateExpansion
  | .publish .. => .publish
  | .groveReply .. => .groveReply
  | .arrive .. => .arrive
  | .barwRequest .. => .barwRequest
  | .sealTimer .. => .sealTimer
  | .sealRequest .. => .sealRequest
  | .prep .. => .prep
  | .save .. => .save
  | .saved .. => .saved
  | .commit .. => .commit
  | .rollbackTrigger .. => .rollbackTrigger
  | .rollback .. => .rollback
  | .stampSweep .. => .stampSweep
  | .preemption .. => .preemption
  | .contextStreamComplete .. => .contextStreamComplete
  | .readmission .. => .readmission
  | .retirement .. => .retirement
  | .wdkick .. => .wdkick
  | .kickTimeout .. => .kickTimeout
  | .coreHang .. => .coreHang
  | .sealHang .. => .sealHang
  | .retrainChannel .. => .retrainChannel
  | .repairLane .. => .repairLane
  | .hcmdComplete .. => .hcmdComplete
  | .marginUpdate .. => .marginUpdate
  | .refresh .. => .refresh
  | .scrubVisit .. => .scrubVisit
  | .selfRefreshEntry .. => .selfRefreshEntry
  | .patdataWrite .. => .patdataWrite
  | .createQueue .. => .createQueue
  | .removeQueue .. => .removeQueue
  | .setWindow .. => .setWindow
  | .assignFrames .. => .assignFrames
  | .releaseFrames .. => .releaseFrames
  | .switchOut .. => .switchOut
  | .switchIn .. => .switchIn
  | .moveRole .. => .moveRole
  | .readMapping .. => .readMapping
  | .hostMemRead .. => .hostMemRead
  | .hostMemWrite .. => .hostMemWrite
  | .verifyAndStart .. => .verifyAndStart
  | .verifyAndSwap .. => .verifyAndSwap
  | .firmwareVerification .. => .firmwareVerification
  | .queueSafePoint .. => .queueSafePoint
  | .reset .. => .reset
  | .getMeasurements .. => .getMeasurements
  | .lock .. => .lock
  | .startRequest .. => .startRequest
  | .stop .. => .stop
  | .getDeviceInterfaceReport .. => .getDeviceInterfaceReport
  | .vfConfigWrite .. => .vfConfigWrite
  | .dxsys .. => .dxsys
  | .registerWrite .. => .registerWrite
  | .errClear .. => .registerWrite
  | .frame .. => .frame
  | .packet .. => .frame
  | .linkDown .. => .linkDown
  | .portBringUp .. => .portBringUp
  | .rekey .. => .rekey
  | .routingTableLoad .. => .routingTableLoad
  | .activate .. => .activate
  | .drain .. => .drain
  | .retire .. => .retire
  | .join .. => .join
  | .capperWindow .. => .capperWindow
  | .thermalTrip .. => .thermalTrip
  | .ageingMonitorUpdate .. => .ageingMonitorUpdate
  | .replan .. => .replan
  | .illegalInstruction .. => .illegalInstruction
  | .corePowerGating .. => .corePowerGating
  | .powerDown .. => .powerDown
  | .temperatureReading .. => .temperatureReading
  | .unknownAdminOpcode .. => .unknownAdminOpcode
  | .spdmRequest .. => .spdmRequest

end Sys2Proof
end

