-- ==== Sys2Proof/Machine/State.lean ====
section
/-!
DEFINITION. The state of the module: plain data that holds every piece of state the spec names, the messages in flight,
and the agenda of what the outside does next. `Work` is the part that a seal saves (R292).
-/
namespace Sys2Proof.Machine
open Sys2Proof

/-- Why the machine stops: for no reason. No instruction of the spec stops it, and every trap, refused access and bad
request has an effect, so that there is no constructor. -/
inductive Fault where
  deriving DecidableEq, Repr

/-- Why the model gives no next state. -/
inductive Refusal where
  /-- Raised by `exec` for an instruction that has no meaning yet. Safe. -/
  | notModelled (mnemonic : String)
  deriving DecidableEq, Repr

/-! ## A core -/

/-- R136: a store-buffer entry. -/
structure SbEntry where
  id     : Nat
  slot   : Nat
  launch : Option Nat
  pa     : Nat
  width  : Width
  data   : Word
  sent   : Bool
  deriving DecidableEq, Repr, Inhabited

/-- R168: who waits on a ring, in order: a slot of the core, or the cluster's copy unit. -/
inductive RWait where
  | slot (n : Nat)
  | copy
  deriving DecidableEq, Repr, Inhabited

/-- R166 to R168: a ring. -/
structure Ring where
  en      : Bool
  inA     : Bool
  base    : Nat
  ssz     : Nat
  cnt     : Nat
  free    : Nat
  held    : Nat
  filled  : Nat
  taken   : Nat
  res     : Nat
  tak     : Nat
  pushers : List RWait
  poppers : List RWait
  deriving DecidableEq, Repr, Inhabited

/-- R179: a TLB entry; `launch` is what a teller core's entry carries. -/
structure TlbEnt where
  w0     : Word
  w1     : Word
  launch : Option Nat
  deriving DecidableEq, Repr, Inhabited

/-- R181: an outstanding miss: 8 KiB page, agent (0 thread, 1 copy unit, 2 stream unit), and the launch; of a copy unit also
the tags of the jobs that wait for it. -/
structure Miss where
  page   : Nat
  agent  : Nat
  launch : Option Nat
  who    : List Nat
  deriving DecidableEq, Repr, Inhabited

/-- R233: the combining operations. -/
inductive StOp where
  | isect | union | diff | merge
  deriving DecidableEq, Repr, Inhabited

/-- R229: the state of a stream context. -/
inductive StreamSt where
  | closed
  | plain
  | head (op : StOp) (ins : List Nat)
  | captured (by_ : Nat)
  deriving DecidableEq, Repr, Inhabited

/-- R229 to R236: a stream context. `words` are the read-ahead words by word number of the source, `out` the words being
read, `prev` the last element used (for ORD), `fault` the recorded fault (element, trap code) and `told` whether an
instruction has trapped for it, `serial` tells the openings of the context apart, `results` what a head has produced. -/
structure Stream where
  st      : StreamSt
  owner   : Nat
  launch  : Option Nat
  base    : Word
  count   : Nat
  inA     : Bool
  w4      : Bool
  cursor  : Nat
  words   : FMap Word
  out     : List Nat
  prev    : Option Nat
  fault   : Option (Nat × Nat)
  told    : Bool
  ord     : Bool
  given   : Bool
  serial  : Nat
  n       : Nat
  results : List Word
  ended   : Bool
  deriving DecidableEq, Repr, Inhabited

/-- R87: an instruction-cache line: address bits [63:6], FW bit, launch on a teller core, and its 64 bytes. -/
structure ILine where
  line   : Nat
  fw     : Bool
  launch : Option Nat
  bytes  : List Byte
  deriving DecidableEq, Repr, Inhabited

/-- R74: a forwarding entry. -/
structure Fwd where
  launch : Nat
  djob   : Option Nat
  dest   : Nat
  gen    : Nat
  deriving DecidableEq, Repr, Inhabited

/-- R88: an instruction buffer: the address, the FW bit and the launch tag with which it was filled, and the words. -/
structure IBuf where
  pc    : Word
  fw    : Bool
  tag   : Option Nat
  words : List HWord
  deriving DecidableEq, Repr, Inhabited

/-- R318: a STEP under way: the slot, who waits, and its destination. -/
structure Stepping where
  slot : Nat
  rto  : TRef
  dst  : Reg
  deriving DecidableEq, Repr, Inhabited

/-- R19: a core; `victim`: it holds victim pages, `recalls`: a RECALL for them is out (R185). `qiHeld` counts the entries
that instructions not yet complete have taken from the upstream queue, and `qoRep`: the last instruction that names `qo`
still owes its push (R15, R96); `upIn`, `dnIn` and `dnOut` count what joined the queues and left them in cycle `qAt`, and `qoGone`
the places that have come free of `qoHeld` (R91).
`missQ`: the misses that wait behind eight outstanding ones, in order (R181). `fetchQ`: the slots whose line is absent, with the
line, in the order of detection (R88). `eligAt`: the cycle since which a slot is eligible and none has issued (R320). `csrOld`: for a CSR written at issue cycle t, t + 7 and its value until then (R307). A link to or from a core of another module is numbered
as a home is (`Thread`); `qOut` counts the entries sent there and not yet popped (R47). `slots` lists the slots that differ from an empty one; the buffers list the bytes that are not zero. -/
structure Core where
  slots    : FMap Thread
  bufW     : List Host.Cell
  bufA     : List Host.Cell
  bufC     : List Host.Cell
  rings    : FMap Ring
  down     : List QEntry
  up       : List QEntry
  qoHeld   : Nat
  qiHeld   : Nat
  qoRep    : Bool
  qAt      : Nat
  upIn     : Nat
  dnIn     : Nat
  dnOut    : Nat
  qoGone   : Nat
  qOut     : Nat
  downLink : Option Nat
  upLink   : Option Nat
  qiBusy   : Nat
  qoBusy   : Nat
  sbuf     : List SbEntry
  sbNext   : Nat
  tlb      : FMap TlbEnt
  tlbNext  : Nat
  misses   : List Miss
  missQ    : List (Miss × Word × Nat)
  streams  : FMap Stream
  headRR   : Nat
  icache   : List ILine
  fills    : List (Nat × Bool × Option Nat)
  ibufs    : FMap IBuf
  fetchQ   : List (Nat × Nat)
  csrOld   : List (Nat × Nat × Word)
  wakev    : Word
  fetmo    : Word
  nsat     : BitVec 32
  nnan     : BitVec 32
  nbso     : BitVec 32
  tlbcfg   : BitVec 6
  bkh      : Bool
  hltd     : Bool
  stepping : List Stepping
  xlatv    : Word
  shotv    : Word
  rclv     : Word
  sysv     : Word
  bindb    : Word
  bindg    : Word
  launch   : Option Nat
  djob     : Option Nat
  bindCl   : Nat
  bank     : Nat
  boundAt  : Nat
  fwd      : Option Fwd
  classQ   : FMap (List Mail)
  rotP     : Nat
  issueAt  : Nat
  eligAt   : Option Nat
  gated    : Bool
  stopped  : Bool
  victim   : Bool
  recalls  : Bool
  deriving DecidableEq, Repr, Inhabited

/-! ## A cluster -/

/-- R276: an arrival that waits for its phase to open. -/
structure HeldArr where
  auto  : Bool
  phase : Nat
  word  : Word
  rto   : Option (ReplyTo × Reg)
  deriving DecidableEq, Repr, Inhabited

/-- R273: a barrier; `waiters` are the `barw` that wait. -/
structure Barrier where
  target  : Nat
  done    : Nat
  cnts    : Vector Nat 4
  held    : List HeldArr
  waiters : List BarwMsg
  deriving DecidableEq, Repr, Inhabited

/-- R207, R211: what each bank (unit) of the matrix unit keeps: format word, thresholds, records and next sequence. -/
structure MxBank where
  fmt  : Word
  thr  : Word
  recs : List JobRec
  seq  : Nat
  deriving DecidableEq, Repr, Inhabited

/-- R18: a cluster's units. `cdeny` lists the accesses of jobs (page, tag) that a `tlbw` of V = 0 has answered. -/
structure Cluster where
  launch : Option Nat
  bars   : FMap Barrier
  banks  : FMap MxBank
  mxq    : List MxJob
  cpRecs : FMap (List JobRec)
  cpSeq  : FMap Nat
  cpq    : List CpJob
  ctlb   : FMap TlbEnt
  ctlbN  : Nat
  cmiss  : List Miss
  cdeny  : List (Nat × Nat)
  mint   : FMap (BitVec 32)
  deriving DecidableEq, Repr, Inhabited

/-! ## The tellers -/

/-- R141, R143, R152: a wait-list entry of a word: a full/empty request, with the limit of its wait and the cycle in which it joined,
or a chained-load step. -/
inductive Waiter where
  | fe (r : TauReq) (op : FeOp) (data : Word) (dst : Reg) (limit : Option Nat) (since : Nat)
  | chain (m : ChldMsg)
  deriving DecidableEq, Repr, Inhabited

/-- R144: an entry of a reservation queue, the holder first. -/
structure Resv where
  who   : TRef
  req   : TauReq
  dst   : Reg
  limit : Option Nat
  since : Nat
  deriving DecidableEq, Repr, Inhabited

/-- R284: a vault record; `code`: CODE as a store has left it, none as the vault wrote it. -/
structure VRec where
  gpa   : Nat
  data  : List Byte
  ivl   : Nat
  feb   : Nat
  stamp : Nat
  code  : Option Nat
  deriving DecidableEq, Repr, Inhabited

/-! ## Launches (R56 to R69, R308 to R326) -/

/-- R56: a queue descriptor; `open_` lists the record numbers whose completion entry no link has accepted (R61, R357). -/
structure LQueue where
  base    : Nat
  log2n   : Nat
  tdi     : Nat
  err     : Bool
  head    : Nat
  tail    : Nat
  cbase   : Nat
  windows : FMap (Nat × Nat)
  open_   : List Nat
  deriving DecidableEq, Repr, Inhabited

/-- R62: a record in the admission list; `out` is the launch that was switched out (R312). -/
structure Waiting where
  rcd   : LRecord
  seq   : Nat
  since : Nat
  out   : Option Nat
  deriving DecidableEq, Repr, Inhabited

/-- R69: a ready node. -/
structure Ready where
  g     : Nat
  node  : Nat
  since : Nat
  deriving DecidableEq, Repr, Inhabited

/-- Where a launch stands: being set up, running, being switched out, switched out, or at a step of its retirement (R324). -/
inductive LStage where
  | setup | running | stopping | out | retiring (k : Nat)
  deriving DecidableEq, Repr, Inhabited

/-- An admitted launch; `tellers`: the teller cores on which it starts a control context, `paused`: a job was left paused
(R322), `save`: the frames of its save area (R312), `sealIvl`: the interval whose seal its retirement awaits (R324). While it is set up,
`todo` lists the pages still to be mapped, with the bytes of the image for them, until none is left and the other steps are done, and
`loads` the bytes for its buffers. `names`: the threads that were saved when it was switched out, and where they stand now. -/
structure Launch where
  rcd      : LRecord
  seq      : Nat
  img      : Image
  iface    : Nat
  table    : Nat
  clusters : List Nat
  tellers  : List Nat
  pages    : List Page
  frames   : List Nat
  djob     : Option Nat
  stage    : LStage
  stale    : Nat
  graphs   : List Graph
  ready    : List Ready
  frozen   : Bool
  poisoned : Bool
  foreign  : Bool
  abandon  : Bool
  paused   : Bool
  ifErr    : Bool
  savCores : FMap Core
  savCls   : FMap Cluster
  savGuest : List (TRef × Thread)
  save     : List Nat
  sealIvl  : Option Nat
  todo     : Option (List (Nat × List Byte))
  loads    : List (BufRec × List Byte)
  names    : List (TRef × TRef)
  deriving DecidableEq, Repr, Inhabited

/-- R75: a move of a core: the launch, from, to (`frm` until a core is chosen), and the units whose drain is awaited. -/
structure Move where
  launch : Nat
  frm    : Nat
  dst    : Nat
  drains : List Nat
  deriving DecidableEq, Repr, Inhabited

/-! ## What a seal saves (R292) -/

/-- The part of the state that a seal saves and a rollback restores, memory apart. -/
structure Work where
  cores    : FMap Core
  clusters : FMap Cluster
  waits    : FMap (List Waiter)
  resvs    : FMap (List Resv)
  pending  : List Ev
  grove    : FMap GIndex
  searches : List GSearch
  gNext    : Nat
  queues   : FMap LQueue
  waiting  : List Waiting
  seqNext  : Nat
  djobs    : Nat
  roleMsgs : List RoleMsg
  launches : FMap Launch
  arbRR    : Nat
  moves    : List Move
  jobReqs  : List JobReq
  deriving DecidableEq, Repr, Inhabited

/-! ## Seals -/

/-- R289: the states of a seal controller; `commit` and `rollback` are single steps of the model. -/
inductive SealPhase where
  | open_ | prepare | save | saved
  deriving DecidableEq, Repr, Inhabited

/-- R282 to R299, R327 to R329: the seal controller. `areas` are the two seal areas, each with the number of the seal
and what it saved; `got` the modules whose SAVED the leader holds; `vhw` SLVHW; `stampDef` the log stamp of every granule
that `State.stamps` does not list; `same` the rollbacks to the current seal, `restart` the restarts of a rollback; `passes` the
passes of the stamp sweep, `commits` how many of them had ended at each of the last two commits, `passEnd` the cycle of the last. -/
structure SealSt where
  phase   : SealPhase
  want    : Bool
  since   : Nat
  lastAt  : Nat
  slper   : Word
  ivnum   : BitVec 32
  sealed  : BitVec 32
  rbc     : BitVec 32
  rbi     : Word
  vhw     : Nat
  got     : List Nat
  decided : Option Nat
  areas   : FMap (Nat × Work)
  sleinj  : Word
  sleinji : Word
  same    : Nat
  restart : Nat
  passEnd : Nat
  passes  : Nat
  stampDef : Nat
  commits : List Nat
  joins   : FMap Word
  deriving DecidableEq, Repr, Inhabited

/-! ## The rest of the module -/

/-- R319; `hungAt`: the start of the seal that has been found to hang. -/
structure WatchSt where
  wdper   : Word
  wdlvl   : Nat
  wdcap   : Nat
  wdcnt   : FMap Nat
  wdcause : Nat
  lastK   : Nat
  kicks   : Nat
  hungAt  : Option Nat
  deriving DecidableEq, Repr, Inhabited

/-- R345: a lane's margins and state. -/
structure LaneSt where
  hm    : Nat
  vm    : Nat
  state : Nat
  deriving DecidableEq, Repr, Inhabited

/-- R346: a memory stack's registers; `lanes` by 128 × channel + lane; `cmd` a command under way (operation, channel,
lane), deferred when `deferd`; `temp` the
hottest point in 0.25 °C (R384), `retired`: a channel is retired; `mgAt`: the cycle in which a margin of every lane was due last,
and `mgNext` the next lane (76 × channel + lane) whose margin is due (R345). -/
structure StackSt where
  busy   : Bool
  result : Nat
  used   : Nat
  mgsel  : Word
  mgthr  : Word
  hint   : Nat
  cecnt  : Word
  scper  : Word
  lanes  : FMap LaneSt
  cmd    : Option (Nat × Nat × Nat)
  deferd : Bool
  temp   : Nat
  retired : Bool
  mgAt   : Nat
  mgNext : Nat
  deriving DecidableEq, Repr, Inhabited

/-- R348, R350: a pseudo-channel: cycle of its last request, self-refresh, next sector to scrub, and the cycle of each
row's last refresh. -/
structure PchSt where
  lastReq : Nat
  selfRef : Bool
  scrub   : Nat
  scrubAt : Nat
  rows    : FMap Nat
  deriving DecidableEq, Repr, Inhabited

/-- R351: a PAT entry. -/
structure PatEnt where
  owner : Nat
  guard : Bool
  deriving DecidableEq, Repr, Inhabited

/-- R357: the administration registers; `run` is the command that runs, as ADMGO found it. -/
structure AdmSt where
  cmd  : Vector Word 8
  run  : Vector Word 8
  busy : Bool
  st   : Nat
  rsp  : Vector Word 8
  deriving DecidableEq, Repr, Inhabited

/-- R359, R361: the firmware registers; `fwst` 0 loader waiting, 1 verifying, 2 running, 3 swapping; `instAt`: new handler
`entries` wait for the busy handlers; `running`: an image runs. -/
structure FwSt where
  slot   : Nat
  fwst   : Nat
  result : Nat
  svn    : BitVec 32
  meas   : BitVec 256
  cand   : Nat
  swap   : Bool
  entries : List Word
  instAt : Bool
  running : Bool
  deriving DecidableEq, Repr, Inhabited

/-- R363. -/
inductive IfState where
  | unlocked | locked | run | error
  deriving DecidableEq, Repr, Inhabited

/-- R363 to R367: a trust-domain interface: its state, whether its report was read, and its VF's configuration. -/
structure IfSt where
  st     : IfState
  read   : Bool
  stopping : Bool
  cfg    : FMap Word
  deriving DecidableEq, Repr, Inhabited

/-- R358: a command processor: its vendor CSRs, its mode (0 user, 1 supervisor, 3 machine), its pc, its integer and floating-point
registers, its other CSRs, the reservation of a load-reserved (address, bytes and what stood there), and whether a `wfi` waits. -/
structure CpSt where
  dxbell : Word
  dxsysd : Word
  nmi    : Bool
  irq    : Bool
  mode   : Nat
  pc     : Word
  x      : Vector Word 32
  f      : Vector Word 32
  csrs   : FMap Word
  resv   : Option (Nat × Nat × Word)
  wfi    : Bool
  deriving DecidableEq, Repr, Inhabited

/-- R369 to R373, R381: a Klofeub port. `replay`: the frames sent and not yet acknowledged; `nak` and `ack`: a NAK or an
acknowledgement is owed; `keyAt`: the frames sent when the sending key was new, `asked`: its successor has been asked for, `rxNew`:
the next receiving key is installed. `refus`: the times that the frame after the last accepted one was refused, `lastBad` the CTR of
the last frame refused. `cred`: the flits that may still be sent, `owed` those to be returned; `part`: a packet of which some flits
are still to be sent. -/
structure PortSt where
  st     : Nat
  wrong  : Bool
  peer   : Nat
  peerP  : Nat
  resend : Nat
  refus  : Nat
  lastBad : Nat
  rxCtr  : Option Nat
  txCtr  : Nat
  rxKey  : Nat
  txKey  : Nat
  replay : List FrameIn
  nak    : Bool
  ack    : Bool
  keyAt  : Nat
  asked  : Bool
  rxNew  : Bool
  cred   : Nat
  owed   : Nat
  part   : Option (Packet × Nat)
  deriving DecidableEq, Repr, Inhabited

/-- R374, R378, R381: the fabric's state: the registers, two table slots, the other modules' capability words. `everUp`: a port has
been up; `prevG`: the generation before the current one; `told`: DRAIN has been reported; `ord`: for an ordered stream, the generation
of its packets and how many are not acknowledged (R376); `ups`: the links (module, peer) that are up (R380); `hold`: a link is lost,
and no table without it is active (R373); of the leader, `loads` and `drains`: the modules that have a new table, and those that have
drained, and `want`: the links have changed since it built its last tables. -/
structure FabSt where
  fbmod  : Nat
  fbpsel : Nat
  rekey  : Nat
  cur    : RTable
  prev   : Option RTable
  free_  : Option RTable
  ports  : FMap PortSt
  caps   : FMap Word
  modnum : Nat
  domcnt : Nat
  joined : Bool
  drains : List Nat
  loads  : List Nat
  told   : Bool
  ord    : FMap (Nat × Nat)
  ups    : List (Nat × Nat)
  everUp : Bool
  prevG  : Nat
  hold   : Bool
  want   : Bool
  deriving DecidableEq, Repr, Inhabited

/-- R382 to R385: service life; `winAt`: the start of the capper's window, `ageAt`: of the monitors, the cycle of the last reading,
`rpAt`: the cycle of the last re-plan, and `sup0` and `sup1` the supply offsets of the dies then (R383); `was` and `wasCap`: the
effective limit and PWCAP of the window before (R385). -/
structure LifeSt where
  pwcap  : Nat
  pwnext : Nat
  eff    : Nat
  pwavg  : Nat
  slices : Nat
  issues : Nat
  temp0  : Nat
  temp1  : Nat
  hot    : Bool
  tripped : Bool
  agsel  : Nat
  ages   : FMap Nat
  rpper  : Word
  off0   : Nat
  off1   : Nat
  replans : Nat
  degr   : Bool
  winAt  : Nat
  ageAt  : FMap Nat
  rpAt   : Nat
  sup0   : Nat
  sup1   : Nat
  was    : Nat
  wasCap : Nat
  deriving DecidableEq, Repr, Inhabited

/-- What the module sends to the host, and the message of an escrow entry to a module of another domain. -/
inductive HostMsg where
  | write (addr : Nat) (bytes : List Byte)
  | message (modnum : Nat) (payload : List Word)
  | irq (queue : Nat)
  | rollbackIrq (m : Nat)
  | imageIrq
  | degrIrq
  | failedIrq
  | readData (bytes : List Byte)
  | poisonResp
  | done
  | measurements (l : List (BitVec 256)) (signature : List Byte)
  | report (bytes : List Byte)
  | spdmError (d : Nat)
  | spdmOk (d : Nat)
  | spdmAnswer (d : Nat) (bytes : List Byte)
  deriving DecidableEq, Repr, Inhabited

/-- What happens next. The agenda is how the outside, and every order that the spec leaves open (R387, R388), enters the
model: an event of the outside, the issue of one slot, one of the messages in flight, cycles that pass, a host store to
its own memory, the host clearing ERR of a queue (R56), a parity error in the n-th line of a core's instruction cache (R89), an error
in a sector of device memory (R344), and an instruction of a command processor (R358). -/
inductive Turn where
  | event (e : Ev)
  | issue (core slot : Nat)
  | pend (n : Nat)
  | tick (n : Nat)
  | hostStore (addr : Nat) (bytes : List Byte)
  | clearErr (q : Nat)
  | cacheParity (core n : Nat)
  | sectorError (sector : Nat) (fatal : Bool)
  | cpStep (cp : Nat)
  deriving DecidableEq, Repr

/-- The module. -/
structure State extends Work where
  cur      : TRef
  ev       : Ev
  cycle    : Nat
  agenda   : List Turn
  freeN    : Nat
  mem      : List Host.Cell
  feEmpty  : List Nat
  stamps   : FMap Nat
  poison   : List Nat
  errs     : FMap Bool
  vaults   : FMap (List VRec)
  escrow   : FMap (List EscEntry)
  escIn    : FMap (List EscMsg)
  sl       : SealSt
  wd       : WatchSt
  stks     : FMap StackSt
  pchs     : FMap PchSt
  sridle   : Word
  pat      : FMap PatEnt
  patsel   : Nat
  patst    : Nat
  adm      : AdmSt
  fw       : FwSt
  ifs      : FMap IfSt
  cps      : FMap CpSt
  fab      : FabSt
  life     : LifeSt
  hostMem  : FMap Byte
  toHost   : List HostMsg
  fabOut   : List Packet
  frOut    : List FrameIn
  powered  : Bool
  deriving DecidableEq, Repr

/-! ## Values at reset -/

/-- A slot that holds no thread; slots 27 to 31 are idle (R70). -/
def Thread.reset (slot : Nat) : Thread :=
  { st := if slot < 27 then .free else .idle, wait := .none, readyAt := 0, pc := 0
    g := Vector.replicate 32 0, v := Vector.replicate 8 (Vector.replicate 32 0)
    p := Vector.replicate 4 0xFFFFFFFF
    tvec := 0, tepc := 0, tcause := 0, tval := 0, qhv := 0, qhlk := 0
    vlive := false, fw := decide (28 ≤ slot), th := false, qh := false, fwte := false, dtag := none
    mailbox := none, launch := none, home := ⟨0, 0⟩, homeCl := 0, acks := none, rupdOut := 0, stmOut := 0
    parked := none, long := false, yieldTo := [], resv := none }

def Ring.reset : Ring :=
  { en := false, inA := false, base := 0, ssz := 0, cnt := 0, free := 0, held := 0, filled := 0, taken := 0
    res := 0, tak := 0, pushers := [], poppers := [] }

def Stream.reset : Stream :=
  { st := .closed, owner := 0, launch := none, base := 0, count := 0, inA := false, w4 := false, cursor := 0
    words := [], out := [], prev := none, fault := none, told := false, ord := false, given := false, serial := 0, n := 0, results := [], ended := false }

def Core.reset : Core :=
  { slots := [], bufW := [], bufA := [], bufC := [], rings := [], down := [], up := [], qoHeld := 0
    qiHeld := 0, qoRep := false, qAt := 0, upIn := 0, dnIn := 0, dnOut := 0, qoGone := 0, qOut := 0
    downLink := none, upLink := none, qiBusy := 0, qoBusy := 0, sbuf := [], sbNext := 0
    tlb := [], tlbNext := 0, misses := [], missQ := [], streams := [], headRR := 0, icache := [], fills := []
    ibufs := [], fetchQ := [], csrOld := []
    wakev := 0, fetmo := 0, nsat := 0, nnan := 0, nbso := 0, tlbcfg := 0, bkh := false, hltd := false
    stepping := [], xlatv := 0, shotv := 0, rclv := 0, sysv := 0, bindb := 0, bindg := 0
    launch := none, djob := none, bindCl := 0, bank := 0, boundAt := 0, fwd := none, classQ := []
    rotP := 0, issueAt := 0, eligAt := none, gated := false, stopped := false, victim := false
    recalls := false }

def Barrier.reset : Barrier :=
  { target := 0, done := 0, cnts := Vector.replicate 4 0, held := [], waiters := [] }

/-- R207: the format context at reset. -/
def MxBank.reset : MxBank := { fmt := 0x455, thr := 0, recs := [], seq := 0 }

def Cluster.reset : Cluster :=
  { launch := none, bars := [], banks := [], mxq := [], cpRecs := [], cpSeq := [], cpq := []
    ctlb := [], ctlbN := 0, cmiss := [], cdeny := [], mint := [] }

def Work.reset : Work :=
  { cores := [], clusters := [], waits := [], resvs := [], pending := [], grove := [], searches := [], gNext := 0
    queues := [], waiting := [], seqNext := 0, djobs := 0, roleMsgs := [], launches := [], arbRR := 0, moves := [], jobReqs := [] }

/-- R282, R288. -/
def SealSt.reset : SealSt :=
  { phase := .open_, want := false, since := 0, lastAt := 0, slper := 25000000, ivnum := 1, sealed := 0, rbc := 0
    rbi := 0, vhw := 0, got := [], decided := none, areas := [], sleinj := 0, sleinji := 0, same := 0, restart := 0
    passEnd := 0, passes := 0, stampDef := 0, commits := [], joins := [] }

/-- R319. -/
def WatchSt.reset : WatchSt :=
  { wdper := 250000000, wdlvl := 0, wdcap := 5, wdcnt := [], wdcause := 0, lastK := 0, kicks := 0, hungAt := none }

/-- R345, R346: lanes 74 and 75 are idle spares. -/
def StackSt.reset : StackSt :=
  { busy := false, result := 0, used := 0, mgsel := 0, mgthr := 0x0810, hint := 0, cecnt := 0, scper := 4096
    lanes := [], cmd := none, deferd := false, temp := 0, retired := false, mgAt := 0, mgNext := 0 }

def PchSt.reset : PchSt := { lastReq := 0, selfRef := false, scrub := 0, scrubAt := 0, rows := [] }

/-- R357. -/
def AdmSt.reset : AdmSt :=
  { cmd := Vector.replicate 8 0, run := Vector.replicate 8 0, busy := false, st := 0, rsp := Vector.replicate 8 0 }

/-- R359. -/
def FwSt.reset : FwSt :=
  { slot := 0, fwst := 0, result := 0, svn := 0, meas := 0, cand := 0, swap := false, entries := []
    instAt := false, running := false }

/-- R363. -/
def IfSt.reset : IfSt := { st := .unlocked, read := false, stopping := false, cfg := [] }

/-- Log entry 61: after reset a command processor stands in machine mode. -/
def CpSt.reset : CpSt :=
  { dxbell := 0, dxsysd := 0, nmi := false, irq := false, mode := 3, pc := 0, x := Vector.replicate 32 0
    f := Vector.replicate 32 0, csrs := [], resv := none, wfi := false }

def PortSt.reset : PortSt :=
  { st := 0, wrong := false, peer := 0, peerP := 0, resend := 0, refus := 0, lastBad := 0, rxCtr := none, txCtr := 0, rxKey := 0
    txKey := 0, replay := [], nak := false, ack := false, keyAt := 0, asked := false, rxNew := false
    cred := 0, owed := 0, part := none }

/-- R27, R381. -/
def FabSt.reset : FabSt :=
  { fbmod := 0, fbpsel := 0, rekey := 4294967296, cur := ⟨0, []⟩, prev := none, free_ := none, ports := [], caps := []
    modnum := 0, domcnt := 1, joined := false, drains := [], loads := [], told := false, ord := [], ups := [], everUp := false, prevG := 0
    hold := false, want := false }

/-- R384. -/
def LifeSt.reset : LifeSt :=
  { pwcap := 2300, pwnext := 2300, eff := 2300, pwavg := 0, slices := 0, issues := 0, temp0 := 0, temp1 := 0
    hot := false, tripped := false, agsel := 0, ages := [], rpper := 68719476736, off0 := 0, off1 := 0
    replans := 0, degr := false, winAt := 0, ageAt := [], rpAt := 0, sup0 := 0, sup1 := 0
    was := 2300, wasCap := 2300 }

/-- R345: what training makes of a lane of a channel: a lane that fails takes the next good spare, a good spare that no lane
takes is idle, and a spare that fails stands for no lane (log entry 49). -/
def trainedLane (k n ch lane : Nat) : Nat :=
  let fails := (List.range 74).filter (Config.laneFails k n ch)
  let good := [74, 75].filter (fun i => !Config.laneFails k n ch i)
  if lane < 74 then (if (fails.take good.length).contains lane then 2 else 0)
  else if !good.contains lane then 2
  else if (good.take fails.length).contains lane then 1 else 3
/-- R345, R346: the spares of a channel that are good, and its lanes that fail. -/
def goodSpares (k n ch : Nat) : Nat := ([74, 75].filter (fun i => !Config.laneFails k n ch i)).length
def failedLanes (k n ch : Nat) : Nat := ((List.range 74).filter (Config.laneFails k n ch)).length
/-- R345: stack `n` after training `k`: its lanes, the channels with no idle spare, and whether a channel is retired. -/
def StackSt.trained (k n : Nat) : StackSt :=
  { StackSt.reset with
    lanes := (List.range 32).flatMap (fun ch => (List.range 76).filterMap (fun lane =>
      let st := trainedLane k n ch lane
      if st = (if lane < 74 then 0 else 3) then none else some (128 * ch + lane, ⟨0, 0, st⟩)))
    used := (List.range 32).foldl (fun a ch => if goodSpares k n ch ≤ failedLanes k n ch then a + 2 ^ ch else a) 0
    retired := (List.range 32).any (fun ch => decide (goodSpares k n ch < failedLanes k n ch)) }
/-- R345: the stacks after training `k`. -/
def trainedStacks (k : Nat) : FMap StackSt := (List.range 8).map (fun n => (n, StackSt.trained k n))
/-- R345: a module that retires a channel reports to the host as failed. -/
def trainReport (m : FMap StackSt) : List HostMsg := if m.any (fun e => e.2.retired) then [.failedIrq] else []

/-- The module right after reset, its lanes trained (R345, R98, R99, R282, R288, R306, R319, R346, R350, R351, R359, R363, R381, R384). -/
def State.reset : State :=
  { Work.reset with
    cur := ⟨0, 0⟩, ev := .save, cycle := 0, agenda := [], freeN := 1, mem := [], feEmpty := [], stamps := [], poison := [], errs := []
    vaults := [], escrow := [], escIn := [], sl := SealSt.reset, wd := WatchSt.reset, stks := trainedStacks 0, pchs := []
    sridle := 2500000, pat := [], patsel := 0, patst := 0, adm := AdmSt.reset, fw := FwSt.reset, ifs := [], cps := []
    fab := FabSt.reset, life := LifeSt.reset, hostMem := [], toHost := trainReport (trainedStacks 0), fabOut := [], frOut := [], powered := true }

end Sys2Proof.Machine
end

