-- ==== Sys2Proof/Machine/Maps.lean ====
section
/-!
DEFINITION. Finite maps and bytes: reads and writes of `FMap`, of a byte memory in its one canonical form, and the
little-endian layout of R4.
-/
namespace Sys2Proof.Machine
open Sys2Proof

/-- The value at a key. -/
def fget {α : Type} : FMap α → Nat → Option α
  | [], _ => none
  | (k, x) :: m, n => if k = n then some x else fget m n

/-- The value at a key, or a default. -/
def fgetD {α : Type} (m : FMap α) (n : Nat) (d : α) : α := (fget m n).getD d

/-- The map with `n ↦ x`, keys rising. -/
def fset {α : Type} : FMap α → Nat → α → FMap α
  | [], n, x => [(n, x)]
  | (k, y) :: m, n, x =>
    if n < k then (n, x) :: (k, y) :: m else if n = k then (n, x) :: m else (k, y) :: fset m n x

/-- The map without a key. -/
def fdel {α : Type} (m : FMap α) (n : Nat) : FMap α := m.filter (fun e => e.1 != n)

/-! ## Byte memories -/

/-- What a byte that no cell lists reads as (log entry 2 for device memory; R53 for the typed buffers). -/
def emptyByte : Byte := 0

/-- The byte at an address. -/
def mget : List Host.Cell → Nat → Byte
  | [], _ => emptyByte
  | (k, x) :: m, a => if k = a then x else mget m a

/-- The memory with one byte written; the canonical form is kept. -/
def mset : List Host.Cell → Nat → Byte → List Host.Cell
  | [], a, x => if x = emptyByte then [] else [(a, x)]
  | (k, y) :: m, a, x =>
    if a < k then (if x = emptyByte then (k, y) :: m else (a, x) :: (k, y) :: m)
    else if a = k then (if x = emptyByte then m else (a, x) :: m)
    else (k, y) :: mset m a x

/-- Every address of the list lies above `b`, addresses rise, and no cell holds the empty byte. -/
def cellsAbove : Option Nat → List Host.Cell → Bool
  | _, [] => true
  | b, (k, x) :: m => (b.all (fun b => decide (b < k))) && decide (x ≠ emptyByte) && cellsAbove (some k) m

/-- The canonical form: addresses strictly rising, no entry equal to what an unlisted address reads as. -/
def Memory.wf (m : List Host.Cell) : Bool := cellsAbove none m

/-- `n` bytes from `a` up. -/
def mgets (m : List Host.Cell) (a : Nat) : Nat → List Byte
  | 0 => []
  | n + 1 => mget m a :: mgets m (a + 1) n

/-- Bytes written from `a` up. -/
def msets (m : List Host.Cell) (a : Nat) : List Byte → List Host.Cell
  | [] => m
  | x :: xs => msets (mset m a x) (a + 1) xs

/-- R4: the number that bytes hold, lowest first. -/
def leNat : List Byte → Nat
  | [] => 0
  | x :: xs => x.toNat + 256 * leNat xs

/-- R4: the low `n` bytes of a number, lowest first. -/
def leBytes : Nat → Nat → List Byte
  | 0, _ => []
  | n + 1, x => BitVec.ofNat 8 x :: leBytes n (x / 256)

/-- The bytes of an access width (R40). -/
def wbytes : Width → Nat
  | .b => 1
  | .h => 2
  | .w => 4
  | .d => 8

/-- `n` bytes at `a`, as a word, zero-extended. -/
def mword (m : List Host.Cell) (a n : Nat) : Word := BitVec.ofNat 64 (leNat (mgets m a n))

/-- The low `n` bytes of a word, written at `a`. -/
def mput (m : List Host.Cell) (a n : Nat) (x : Word) : List Host.Cell := msets m a (leBytes n x.toNat)

/-! ## Bits and lists -/

/-- Bits `h` down to `l` of a word, as a number (R4). -/
def bits (x : Word) (h l : Nat) : Nat := x.toNat / 2 ^ l % 2 ^ (h + 1 - l)

/-- The list with an element in place `n` replaced. -/
def lset {α : Type} (l : List α) (n : Nat) (f : α → α) : List α := l.mapIdx (fun i x => if i = n then f x else x)

/-- Sorted insertion of a number, no repeats. -/
def nins (n : Nat) : List Nat → List Nat
  | [] => [n]
  | k :: l => if n < k then n :: k :: l else if n = k then k :: l else k :: nins n l

/-- `f 0, …, f (n-1)` where defined. -/
def firstSome {α : Type} (f : Nat → Option α) : Nat → Nat → Option α
  | _, 0 => none
  | i, n + 1 => match f i with
    | some x => some x
    | none => firstSome f (i + 1) n

/-! ## The plane of modules (R368, R369) -/

/-- R368: the point of a module. -/
def pointOf (n : Nat) : Nat × Nat × Nat :=
  if n ≤ 960 then (1, n / 31, n % 31) else if n ≤ 991 then (0, 1, n - 961) else (0, 0, 1)
def meets (m n : Nat) : Bool :=
  let x := pointOf m
  let y := pointOf n
  m != n && (x.1 * y.1 + x.2.1 * y.2.1 + x.2.2 * y.2.2) % 31 == 0
def neighbours (m : Nat) : List Nat := (List.range 993).filter (meets m)
/-- R369: the module that a port joins; port 31 of an absolute module joins none. -/
def peerOf (m port : Nat) : Option Nat := (neighbours m)[port]?

end Sys2Proof.Machine
end

