-- ==== Sys2Proof/Machine/Views.lean ====
section
/-!
DEFINITION. Where things stand (R17, R43, R131 to R133), and the bytes of device memory: those of plain memory, and those of the
records that the vaults (R284), the queue descriptors (R56) and the Grove (R241 to R244) keep there.
-/
namespace Sys2Proof.Machine
open Sys2Proof

/-! ## Where things stand -/

/-- The index of the first teller core. -/
def tellerBase : Nat := 1152
/-- A SYS message to the command processor (R303) has this destination. -/
def cpUnit : Nat := 1216
def isTeller (c : Nat) : Bool := decide (tellerBase ≤ c)
/-- The cluster of a compute or service core. -/
def clusterOf (c : Nat) : Nat := c / 9
/-- The unit number of a core in its cluster; 8 is the service core (R18). -/
def unitOf (c : Nat) : Nat := c % 9
def coreAt (cl unit : Nat) : Nat := 9 * cl + unit
/-- The die of a core (R17). -/
def dieOf (c : Nat) : Nat := if isTeller c then (c - tellerBase) / 32 else c / 9 / 64

/-- R43, R306: the unit word of a core, GEN and V zero. -/
def unitWord (modnum c : Nat) : Word :=
  let t := c - tellerBase
  let (die, x, y, u) :=
    if isTeller c then (t / 32, t / 8 % 4, t % 8, 12)
    else (c / 9 / 64, c / 9 % 8, c / 9 / 8 % 8, c % 9)
  BitVec.ofNat 64 (modnum % 1024 * 2 ^ 38 + die * 2 ^ 37 + x * 2 ^ 34 + y * 2 ^ 29 + u * 2 ^ 25)

/-- The unit word of a copy unit carries UNIT 9 (R181). -/
def copyUnitWord (modnum cl : Nat) : Word :=
  BitVec.ofNat 64 (modnum % 1024 * 2 ^ 38 + cl / 64 * 2 ^ 37 + cl % 8 * 2 ^ 34 + cl / 8 % 8 * 2 ^ 29 + 9 * 2 ^ 25)

/-- R43: what a unit word names. -/
def entDie (e : Word) : Nat := bits e 37 37
def entX (e : Word) : Nat := bits e 36 34
def entY (e : Word) : Nat := bits e 31 29
def entUnit (e : Word) : Nat := bits e 28 25
def entV (e : Word) : Bool := bits e 24 24 == 1
def entGen (e : Word) : Nat := bits e 63 48
def entMod (e : Word) : Nat := bits e 47 38
def entCluster (e : Word) : Nat := 64 * entDie e + 8 * entY e + entX e
/-- The core that a unit word names. -/
def entCore (e : Word) : Option Nat :=
  if entUnit e ≤ 8 then some (coreAt (entCluster e) (entUnit e))
  else if entUnit e = 12 ∧ entX e < 4 then some (tellerBase + 8 * (4 * entDie e + entX e) + entY e)
  else none

/-- R131: the frame of a physical address, and the number of frames. -/
def frameOf (pa : Nat) : Nat := pa / 2 ^ 26
def frameCount : Nat := 5722
def paValid (pa : Nat) : Bool := decide (frameOf pa < frameCount)

/-- R355: the device address behind an address of the host's range. -/
def hostPa (a : Nat) : Option Nat :=
  if a < 0x2000000 then some (0x240000000 + a)
  else if 0x80000000 ≤ a ∧ a - 0x80000000 < 5546 * 2 ^ 26 then some (0x2C0000000 + (a - 0x80000000))
  else none

/-- R132: the pseudo-channel of a physical address. -/
def pchOf (pa : Nat) : Nat :=
  let f := frameOf pa
  let g := pa / 256 % 2 ^ 18
  ((g % 512) ^^^ (g / 512)) ^^^ (f % 512)
/-- R132: row and column. -/
def rowOf (pa : Nat) : Nat := 128 * frameOf pa + pa / 2 ^ 19 % 128
def columnOf (pa : Nat) : Nat := 256 * (pa / 2 ^ 17 % 4) + pa % 256
def stackOf (pa : Nat) : Nat := pchOf pa / 64
/-- R133: the owning TAU and the owning teller core. -/
def tauOf (pa : Nat) : Nat := pchOf pa / 2
def tellerOf (pa : Nat) : Nat := tellerBase + pchOf pa / 8
/-- The granule (R131) and the sector (R134) of a physical address. -/
def granuleOf (pa : Nat) : Nat := pa / 256
def sectorOf (pa : Nat) : Nat := pa / 32

/-! ## The bytes of records -/

/-- R132: the rank of an address's granule among those of its frame that stand in the same stack, in rising order. -/
def granuleRank (pa : Nat) : Nat := 64 * (pa / 2 ^ 17 % 512) + pa / 256 % 64
/-- R132: the granule of rank `r` (below 32,768) among those of frame `f` in stack `h`. -/
def rankGranule (f h r : Nat) : Nat :=
  let q := r / 64
  2 ^ 18 * f + 512 * q + 64 * (h ^^^ ((q ^^^ (f % 512)) / 64)) + r % 64

/-- R284: the bytes of a vault record that CODE checks. -/
def checkedBytes (r : VRec) : List Byte :=
  r.data ++ leBytes 8 r.gpa ++ leBytes 4 r.ivl ++ leBytes 4 r.feb ++ leBytes 1 r.stamp ++ leBytes 15 0
/-- R284: CODE of a vault record: as a store has left it, else a free function of the bytes that it checks (log entry 47). -/
def codeOf (r : VRec) : Nat := r.code.getD (Config.checkCode (checkedBytes r)).toNat
/-- R284: the bytes of a vault record. -/
def recordBytes (r : VRec) : List Byte := checkedBytes r ++ leBytes 32 (codeOf r)
/-- R284: the bytes of a record that mean nothing. -/
def recordPad (o : Nat) : Bool := decide (273 ≤ o) && decide (o < 288)
/-- A record with byte `o` of its bytes stored. -/
def putRecord (r : VRec) (o : Nat) (b : Byte) : VRec :=
  let l := lset (recordBytes r) o (fun _ => b)
  let fld (k n : Nat) : Nat := leNat ((l.drop k).take n)
  { gpa := fld 256 8, data := l.take 256, ivl := fld 264 4, feb := fld 268 4, stamp := fld 272 1, code := some (fld 288 32) }
/-- The records of a stack's vault, the newest first. -/
def vaultOf (s : State) (k : Nat) : List VRec := (fget s.vaults k).getD []
/-- R284: the place of an address in the vault of its stack: record i stands at vault byte 320 × i. -/
def vaultOff (pa : Nat) : Nat := 256 * (2 ^ 15 * frameOf pa + granuleRank pa) + pa % 256
/-- The record that keeps the byte at an address, by its place in the list of its stack. -/
def vaultSpot (s : State) (pa : Nat) : Option Nat :=
  let n := (vaultOf s (stackOf pa)).length
  if vaultOff pa / 320 < n ∧ !recordPad (vaultOff pa % 320) then some (n - 1 - vaultOff pa / 320) else none
/-- R284: a byte of a vault. -/
def vaultByte (s : State) (pa : Nat) : Option Byte :=
  (vaultSpot s pa).map (fun i =>
    (((vaultOf s (stackOf pa))[i]?).map (fun r => (recordBytes r).getD (vaultOff pa % 320) 0)).getD 0)
def putVault (s : State) (pa : Nat) (b : Byte) : State :=
  match vaultSpot s pa with
  | some i =>
    let l := lset (vaultOf s (stackOf pa)) i (fun r => putRecord r (vaultOff pa % 320) b)
    { s with vaults := fset s.vaults (stackOf pa) l }
  | none => s

/-- R56: the bytes of a queue descriptor. -/
def descBytes (q : LQueue) : List Byte :=
  leBytes 8 q.base ++ leBytes 1 q.log2n ++ leBytes 1 q.tdi ++ leBytes 1 (if q.err then 1 else 0) ++ leBytes 5 0
    ++ leBytes 4 q.head ++ leBytes 4 q.tail ++ leBytes 8 q.cbase
/-- R23, R56: where the descriptor of a queue stands in the firmware reserve, behind the firmware slots (log entry 57). -/
def descPa (q : Nat) : Nat := 2 ^ 26 * 144 + 2 ^ 25 + 32 * q
/-- R56: the bytes of a descriptor that mean nothing. -/
def descPad (o : Nat) : Bool := decide (11 ≤ o) && decide (o < 16)
def descByte (s : State) (pa : Nat) : Option Byte :=
  if 2 ^ 25 ≤ pa % 2 ^ 26 ∧ pa % 2 ^ 25 < 2048 ∧ !descPad (pa % 32) then
    (fget s.queues (pa % 2 ^ 25 / 32)).map (fun q => (descBytes q).getD (pa % 32) 0)
  else none
/-- A descriptor with byte `o` of its bytes stored. -/
def putDescByte (q : LQueue) (o : Nat) (b : Byte) : LQueue :=
  let l := lset (descBytes q) o (fun _ => b)
  let fld (k n : Nat) : Nat := leNat ((l.drop k).take n)
  { q with
    base := fld 0 8, log2n := fld 8 1, tdi := fld 9 1, err := fld 10 1 % 2 == 1, head := fld 16 4, tail := fld 20 4
    cbase := fld 24 8 }
def putDesc (s : State) (pa : Nat) (b : Byte) : State :=
  if (descByte s pa).isNone then s
  else
    let n := pa % 2 ^ 25 / 32
    match fget s.queues n with
    | some q => { s with queues := fset s.queues n (putDescByte q (pa % 32) b) }
    | none => s

/-! ### The Grove's bytes (log entry 18) -/

/-- R241: bytes of a vector. -/
def vecBytes (x : GIndex) : Nat := if x.bq8 then x.dim + x.dim / 8 else 2 * x.dim
/-- R241: bytes of an entry. -/
def entSize (x : GIndex) : Nat := (vecBytes x + 32 + 4 * (16 + 4 * x.deg) + 63) / 64 * 64
/-- R241: bytes of an index. -/
def indexSize (x : GIndex) : Nat := 4096 + x.cap * entSize x
/-- R242: the home stack of a slot, whose Grove engine owns the entry. -/
def homeStack (n : Nat) : Nat := (List.range 11).foldl (fun a k => a ^^^ (n / 8 ^ k % 8)) 0
/-- R242: the engine of an index's header. -/
def headerStack (i : Nat) : Nat := i % 8
/-- The slots below `c` whose home is a stack: each eight in turn hold one of each. -/
def homedBelow (c h : Nat) : Nat := c / 8 + (if (List.range (c % 8)).any (fun k => homeStack (c / 8 * 8 + k) == h) then 1 else 0)
/-- R242: what index `i` takes of a stack. -/
def stackShare (i : Nat) (x : GIndex) (h : Nat) : Nat :=
  (if h = headerStack i then 4096 else 0) + homedBelow x.cap h * entSize x
/-- The offset of index `i` in what its launch's region holds of a stack. -/
def indexBase (s : State) (x : GIndex) (h : Nat) : Nat :=
  ((s.grove.filter (fun e => e.2.launch == x.launch && decide (e.2.inum < x.inum))).map (fun e => stackShare e.1 e.2 h)).sum
/-- R351: frames 0 to 175 hold owner 8, the others 15 until they are assigned. -/
def patEnt (s : State) (f : Nat) : PatEnt := (fget s.pat f).getD ⟨if f < 176 then 8 else 15, false⟩
/-- R352: the granules of a frame's guard row in each stack, which a region leaves out. -/
def guardRanks (s : State) (f : Nat) : Nat := if (patEnt s f).guard then 256 else 0
/-- Granule `r` of what the frames of a region hold in stack `h`. -/
def regionSpot (s : State) (h : Nat) : List Nat → Nat → Option Nat
  | [], _ => none
  | f :: l, r =>
    let g := guardRanks s f
    if r < 2 ^ 15 - g then some (rankGranule f h (g + r)) else regionSpot s h l (r - (2 ^ 15 - g))
/-- The number that granule `r` of frame `f` has among those of a region in its stack. -/
def regionRank (s : State) (f : Nat) : List Nat → Nat → Option Nat
  | [], _ => none
  | k :: l, r =>
    if k = f then (if r < guardRanks s f then none else some (r - guardRanks s f))
    else (regionRank s f l r).map (· + (2 ^ 15 - guardRanks s k))
/-- The address of byte `off` of the region's part in stack `h`. -/
def regionAddr (s : State) (x : GIndex) (h off : Nat) : Option Nat :=
  (regionSpot s h x.frames (off / 256)).map (fun g => 256 * g + off % 256)
/-- The granules that hold `n` bytes from offset `off` of the region's part in stack `h`. -/
def regionGranules (s : State) (x : GIndex) (h off n : Nat) : List Nat :=
  (List.range ((off + n + 255) / 256 - off / 256)).filterMap (fun k => regionSpot s h x.frames (off / 256 + k))
/-- R242, R243: the granules of an index's header that hold its state. -/
def headerGranules (s : State) (i : Nat) (x : GIndex) : List Nat :=
  regionGranules s x (headerStack i) (indexBase s x (headerStack i)) 48
/-- R242: where an entry stands in the region's part in its home stack. -/
def entryOff (s : State) (i : Nat) (x : GIndex) (slot : Nat) : Nat :=
  let h := homeStack slot
  indexBase s x h + (if h = headerStack i then 4096 else 0) + slot / 8 * entSize x
/-- R242: the granules of an entry. -/
def entryGranules (s : State) (i : Nat) (x : GIndex) (slot : Nat) : List Nat :=
  regionGranules s x (homeStack slot) (entryOff s i x slot) (entSize x)
/-- R243: the bytes of a header. -/
def headerBytes (x : GIndex) : List Byte :=
  leBytes 8 x.record.toNat ++ [x.alloc, x.pub, x.floor, x.used, x.lives].flatMap (leBytes 8)
/-- R244: the bytes of an entry. -/
def entryBytes (x : GIndex) (e : GEntry) : List Byte :=
  leBytes 8 e.seq ++ leBytes 8 (e.dseq.getD (2 ^ 64 - 1)) ++ leBytes 8 e.payload.toNat ++ leBytes 8 0
    ++ (e.vec ++ List.replicate (vecBytes x - e.vec.length) 0)
    ++ e.vers.flatMap (fun v => leBytes 8 v.1 ++ leBytes 8 v.2.length
        ++ v.2.flatMap (leBytes 4) ++ List.replicate (4 * (x.deg - v.2.length)) 0)
/-- What stands at a byte of an index: byte `o` of its header, or of the entry of a slot. -/
inductive GSpot where
  | header (o : Nat)
  | entry (slot o : Nat)
  deriving DecidableEq, Repr
/-- R244: the bytes of a ring version. -/
def versSize (x : GIndex) : Nat := 16 + 4 * x.deg
/-- R244: byte `o` of an entry has a meaning: it lies in the fields, the vector, or what a version that is there lists. -/
def entryKeeps (x : GIndex) (e : GEntry) (o : Nat) : Bool :=
  let k := o - 32 - vecBytes x
  decide (o < 24) || (decide (32 ≤ o) && (decide (o < 32 + vecBytes x)
    || ((e.vers[k / versSize x]?).any (fun v => decide (k % versSize x < 16 + 4 * v.2.length)))))
/-- What the index keeps at offset `off` of its share of stack `h`; none where no record holds the byte. -/
def indexSpot (i : Nat) (x : GIndex) (h off : Nat) : Option GSpot :=
  if h = headerStack i ∧ off < 4096 then (if off < 48 then some (.header off) else none)
  else
    let off := if h = headerStack i then off - 4096 else off
    let m := off / entSize x
    ((List.range 8).find? (fun k => homeStack (8 * m + k) == h)).bind (fun k =>
      match fget x.ents (8 * m + k) with
      | some e => if entryKeeps x e (off % entSize x) then some (.entry (8 * m + k) (off % entSize x)) else none
      | none => none)
/-- R242: the index, and what of it stands at an address of a frame of the Grove index region. -/
def groveSpot (s : State) (pa : Nat) : Option (Nat × GIndex × GSpot) :=
  let h := stackOf pa
  s.grove.findSome? (fun e => (regionRank s (frameOf pa) e.2.frames (granuleRank pa)).bind (fun r =>
    let off := 256 * r + pa % 256
    let b := indexBase s e.2 h
    if b ≤ off ∧ off < b + stackShare e.1 e.2 h then (indexSpot e.1 e.2 h (off - b)).map (fun p => (e.1, e.2, p)) else none))
def spotByte (x : GIndex) : GSpot → Byte
  | .header o => (headerBytes x).getD o 0
  | .entry n o => ((fget x.ents n).map (fun e => (entryBytes x e).getD o 0)).getD 0
def groveByte (s : State) (pa : Nat) : Option Byte := (groveSpot s pa).map (fun e => spotByte e.2.1 e.2.2)
/-- R4: a number with byte `k` of its little-endian bytes replaced. -/
def setByte (x k : Nat) (b : Byte) : Nat := x - x / 256 ^ k % 256 * 256 ^ k + b.toNat * 256 ^ k
/-- A header with byte `o` of its bytes stored. -/
def putHeader (x : GIndex) (o : Nat) (b : Byte) : GIndex :=
  match o / 8 with
  | 0 => { x with record := BitVec.ofNat 64 (setByte x.record.toNat (o % 8) b) }
  | 1 => { x with alloc := setByte x.alloc (o % 8) b }
  | 2 => { x with pub := setByte x.pub (o % 8) b }
  | 3 => { x with floor := setByte x.floor (o % 8) b }
  | 4 => { x with used := setByte x.used (o % 8) b }
  | _ => { x with lives := setByte x.lives (o % 8) b }
/-- A ring version with byte `o` of its bytes stored; a count past DEG counts as DEG (log entry 18). -/
def putVersion (x : GIndex) (v : Nat × List Nat) (o : Nat) (b : Byte) : Nat × List Nat :=
  if o < 8 then (setByte v.1 o b, v.2)
  else if o < 16 then
    let n := min x.deg (setByte v.2.length (o - 8) b)
    (v.1, v.2.take n ++ List.replicate (n - v.2.length) 0)
  else (v.1, lset v.2 ((o - 16) / 4) (fun y => setByte y ((o - 16) % 4) b))
/-- An entry with byte `o` of its bytes stored. -/
def putEntry (x : GIndex) (e : GEntry) (o : Nat) (b : Byte) : GEntry :=
  if o < 8 then { e with seq := setByte e.seq o b }
  else if o < 16 then
    let d := setByte (e.dseq.getD (2 ^ 64 - 1)) (o - 8) b
    { e with dseq := if d = 2 ^ 64 - 1 then none else some d }
  else if o < 24 then { e with payload := BitVec.ofNat 64 (setByte e.payload.toNat (o - 16) b) }
  else if o < 32 + vecBytes x then { e with vec := lset (e.vec ++ List.replicate (vecBytes x - e.vec.length) 0) (o - 32) (fun _ => b) }
  else
    let k := o - 32 - vecBytes x
    { e with vers := lset e.vers (k / versSize x) (fun v => putVersion x v (k % versSize x) b) }
def putSpot (x : GIndex) (b : Byte) : GSpot → GIndex
  | .header o => putHeader x o b
  | .entry n o => match fget x.ents n with
    | some e => { x with ents := fset x.ents n (putEntry x e o b) }
    | none => x
def putGrove (s : State) (pa : Nat) (b : Byte) : State :=
  match groveSpot s pa with
  | some (i, x, p) => { s with grove := fset s.grove i (putSpot x b p) }
  | none => s
/-- The bytes of an index with their addresses, in turn. -/
def indexCells (s : State) (i : Nat) (x : GIndex) : List (Nat × Byte) :=
  let at_ (h off : Nat) (l : List Byte) : List (Nat × Byte) :=
    l.zipIdx.filterMap (fun e => (regionAddr s x h (off + e.2)).map (fun a => (a, e.1)))
  let h := headerStack i
  at_ h (indexBase s x h) (headerBytes x)
    ++ x.ents.flatMap (fun e => at_ (homeStack e.1) (entryOff s i x e.1) (entryBytes x e.2))

/-- The byte that a record keeps at an address. The graph tables and the spill of the wait tables stand at no address (log entry
74). -/
def keptByte (s : State) (pa : Nat) : Option Byte :=
  if frameOf pa < 128 then vaultByte s pa else if frameOf pa = 144 then descByte s pa else groveByte s pa
/-- R260: a byte stored where a record keeps it. -/
def putKept (s : State) (pa : Nat) (b : Byte) : State :=
  if frameOf pa < 128 then putVault s pa b else if frameOf pa = 144 then putDesc s pa b else putGrove s pa b
/-- R260: bytes stored from an address up, in the records that keep them. -/
def putKepts (s : State) (pa : Nat) : List Byte → State
  | [] => s
  | b :: l => putKepts (putKept s pa b) (pa + 1) l
/-- A byte of device memory. -/
def devByte (s : State) (pa : Nat) : Byte := (keptByte s pa).getD (mget s.mem pa)
/-- `n` bytes of device memory from an address up. -/
def devBytes (s : State) (pa : Nat) : Nat → List Byte
  | 0 => []
  | n + 1 => devByte s pa :: devBytes s (pa + 1) n

end Sys2Proof.Machine
end

