-- ==== Sys2Proof/Machine/Ops.lean ====
section
/-!
DEFINITION. The shared operations: the accessors of cores, slots and registers, taking a trap and returning from one (R302 to R305), the issue of an instruction with its queues (R15, R48,
R170), physical memory with its log and its checks (R283, R298, R353), translation (R179, R180), and sending messages.
-/
namespace Sys2Proof.Machine
open Sys2Proof

/-! ## Accessors -/

def core (s : State) (c : Nat) : Core := (fget s.cores c).getD Core.reset
def setCore (s : State) (c : Nat) (x : Core) : State := { s with cores := fset s.cores c x }
def modCore (s : State) (c : Nat) (f : Core → Core) : State := setCore s c (f (core s c))
def slotOf (x : Core) (n : Nat) : Thread := (fget x.slots n).getD (Thread.reset n)
def setSlot (x : Core) (n : Nat) (t : Thread) : Core := { x with slots := fset x.slots n t }
def thr (s : State) (r : TRef) : Thread := slotOf (core s r.core) r.slot
def setThr (s : State) (r : TRef) (t : Thread) : State := modCore s r.core (fun x => setSlot x r.slot t)
def modThr (s : State) (r : TRef) (f : Thread → Thread) : State := setThr s r (f (thr s r))
/-- R150, R163: a slot is filled or emptied; its counts of updates and of `stm` stand. -/
def fill (s : State) (r : TRef) (t : Thread) : State :=
  setThr s r { t with rupdOut := (thr s r).rupdOut, stmOut := (thr s r).stmOut }
/-- The thread whose instruction runs, and its core. -/
def me (s : State) : Thread := thr s s.cur
def myCore (s : State) : Core := core s s.cur.core
def modMe (s : State) (f : Thread → Thread) : State := modThr s s.cur f
def modMyCore (s : State) (f : Core → Core) : State := modCore s s.cur.core f

def cluster (s : State) (c : Nat) : Cluster := (fget s.clusters c).getD Cluster.reset
def modCluster (s : State) (c : Nat) (f : Cluster → Cluster) : State :=
  { s with clusters := fset s.clusters c (f (cluster s c)) }
def ring (x : Core) (n : Nat) : Ring := (fget x.rings n).getD Ring.reset
def setRing (x : Core) (n : Nat) (r : Ring) : Core := { x with rings := fset x.rings n r }
def stream (x : Core) (n : Nat) : Stream := (fget x.streams n).getD Stream.reset
def setStream (x : Core) (n : Nat) (r : Stream) : Core := { x with streams := fset x.streams n r }
def stackSt (s : State) (n : Nat) : StackSt := (fget s.stks n).getD StackSt.reset
def modStack (s : State) (n : Nat) (f : StackSt → StackSt) : State := { s with stks := fset s.stks n (f (stackSt s n)) }
def pchSt (s : State) (n : Nat) : PchSt := (fget s.pchs n).getD PchSt.reset
def modPch (s : State) (n : Nat) (f : PchSt → PchSt) : State := { s with pchs := fset s.pchs n (f (pchSt s n)) }
def ifSt (s : State) (n : Nat) : IfSt := (fget s.ifs n).getD IfSt.reset
def modIf (s : State) (n : Nat) (f : IfSt → IfSt) : State := { s with ifs := fset s.ifs n (f (ifSt s n)) }
def cpSt (s : State) (n : Nat) : CpSt := (fget s.cps n).getD CpSt.reset
def modCp (s : State) (n : Nat) (f : CpSt → CpSt) : State := { s with cps := fset s.cps n (f (cpSt s n)) }
def portSt (s : State) (n : Nat) : PortSt := (fget s.fab.ports n).getD PortSt.reset
def modPort (s : State) (n : Nat) (f : PortSt → PortSt) : State :=
  { s with fab := { s.fab with ports := fset s.fab.ports n (f (portSt s n)) } }
def modLaunch (s : State) (l : Nat) (f : Launch → Launch) : State :=
  match fget s.launches l with
  | some x => { s with launches := fset s.launches l (f x) }
  | none => s

/-! ## Messages -/

/-- A message or event that is caused and has not happened yet. -/
def post (s : State) (i : Ev) : State := { s with pending := s.pending ++ [i] }
def toHost (s : State) (m : HostMsg) : State := { s with toHost := s.toHost ++ [m] }
/-- The core or the unit of a requester, as its module numbers it. -/
def unitOfTo : ReplyTo → Nat
  | .thr r => r.core
  | .away _ tag => tag / 32
  | .nobody => 0
/-- R375: the units between which a message passes, as their modules number them: the one that sends it and the one it goes to. -/
def unitsOfBody : PktBody → Nat × Nat
  | .place m => (unitOfTo m.rto, m.dest)
  | .mail m => (unitOfTo m.rto, m.dest)
  | .update m => (match m.acks with
    | .slot r => r.core
    | .away _ tag => tag / 32, m.teller)
  | .ship m => (m.unit, m.teller)
  | .freeHome a => (0, a.core)
  | .write r _ => (unitOfTo r.rto, tauOf r.pa)
  | .qEntry f d _ | .qAck f d => (f, d)
  | .qLink m => (m.frm, m.dest)
  | .sys m => (0, m.dest)
  | .arrive m => (((m.rto.map (·.1)).map unitOfTo).getD 0, m.cluster / 32)
  | .barw m => (unitOfTo m.rto, m.cluster / 32)
  | .bart a _ _ r _ => (unitOfTo r, a.core)
  | .jobReq m => (unitOfTo m.rto, m.home.core)
  | _ => (0, 0)
/-- R375, R376: the ordered stream of a message to a module. -/
def streamKey (dest : Nat) (b : PktBody) : Nat := dest + 1024 * ((unitsOfBody b).2 + 2 ^ 20 * (unitsOfBody b).1)
/-- R374, R376: the generation with which a packet is stamped: the current one; an ordered packet keeps that of the earlier ones
of its stream until all of them are acknowledged. -/
def stampGen (s : State) (dest : Nat) (cls : TClass) (b : PktBody) : Nat :=
  match cls, fget s.fab.ord (streamKey dest b) with
  | .ordered, some (g, _) => g
  | _, _ => s.fab.cur.gen
/-- R374: the table of a generation that the module holds, in either slot. -/
def tableOf (s : State) (g : Nat) : Option RTable :=
  if g = s.fab.cur.gen then some s.fab.cur
  else match s.fab.prev.filter (fun t => t.gen == g) with
    | some t => some t
    | none => s.fab.free_.filter (fun t => t.gen == g)
/-- R374: the paths to a module, the minimal one first. -/
def pathsTo (s : State) (g dest : Nat) : List (Nat × List Nat) :=
  (((tableOf s g).bind (fun t => t.routes.find? (fun r => r.1 == dest))).map (·.2)).getD []
/-- R369: the port that joins a module. -/
def portTo (s : State) (m : Nat) : Option Nat := (neighbours s.fab.modnum).idxOf? m
/-- R375: the credits of the first port of a path. -/
def pathCred (s : State) (p : Nat × List Nat) : Nat :=
  ((p.2.head?.bind (portTo s)).map (fun n => if (portSt s n).st = 3 then (portSt s n).cred else 0)).getD 0
/-- R370: the credits of a port at bring-up. -/
def allCredits : Nat := Config.moreCredits + 1
/-- R375: the path of an adaptive packet: the minimal one while a quarter of the credits of its first port are free, else the
alternative with most. -/
def adaptivePath (s : State) (g dest : Nat) : Option (Nat × List Nat) :=
  match pathsTo s g dest with
  | [] => none
  | p :: alts =>
    if alts = [] ∨ allCredits ≤ 4 * pathCred s p then some p
    else alts.foldl (fun a q => match a with
      | none => some q
      | some b => if pathCred s b < pathCred s q then some q else a) none
/-- R375: the intermediate module of a packet, which its header carries. -/
def pathInter (s : State) (cls : TClass) (g dest : Nat) : Option Nat :=
  if cls = .adaptive then ((adaptivePath s g dest).map (·.1)).filter (· != dest) else none
/-- R290, R374: a packet leaves, stamped with its generation and the interval in which it is sent. -/
def emit (s : State) (dest : Nat) (cls : TClass) (b : PktBody) : State :=
  let g := stampGen s dest cls b
  let k := streamKey dest b
  let n := ((fget s.fab.ord k).map (·.2)).getD 0
  let ord := if cls = .ordered then fset s.fab.ord k (g, n + 1) else s.fab.ord
  { s with
    fab := { s.fab with ord := ord }
    fabOut := s.fabOut ++ [⟨s.fab.modnum, dest, pathInter s cls g dest, 0, cls, g, s.sl.ivnum.toNat, b⟩] }
/-- The answer to a requester. -/
def answer (s : State) (rto : ReplyTo) (res : RepRes) : State :=
  match rto with
  | .thr r => post s (.reply r res)
  | .away m tag =>
    if m = s.fab.modnum then post s (.reply ⟨tag / 32, tag % 32⟩ res) else emit s m .adaptive (.answer tag res)
  | .nobody => s
/-- R289: the domain's leader is the module of the lowest number. -/
def isLeader (s : State) : Bool := s.fab.caps.all (fun e => decide (s.fab.modnum < e.1))
def leaderOf (s : State) : Nat := s.fab.caps.foldl (fun a e => min a e.1) s.fab.modnum
/-- R286: a request for a seal. -/
def wantSeal (s : State) : State :=
  if isLeader s then post s (.sealRequest s.fab.modnum) else emit s (leaderOf s) .control (.sealReq s.fab.modnum)
/-- R295: a rollback trigger. -/
def trigger (s : State) (cause : Nat) : State :=
  if isLeader s then post s (.rollbackTrigger cause s.fab.modnum)
  else emit s (leaderOf s) .control (.trigger cause s.fab.modnum)

/-! ## Registers -/

/-- R91: the counts of what joined and left a core's queues stand for the cycle `now` only. -/
def qTick (x : Core) (now : Nat) : Core := if x.qAt = now then x else { x with qAt := now, upIn := 0, dnIn := 0, dnOut := 0, qoGone := 0 }
/-- R91: the entries of the upstream queue that stood there at the start of the cycle, less those already popped. -/
def upReady (x : Core) (now : Nat) : Nat := x.up.length - (qTick x now).upIn
/-- R91, R96: the entries that stood in the downstream queue at the start of the cycle, a push of an instruction in the
pipeline among them. -/
def downStart (x : Core) (now : Nat) : Nat := x.down.length + (qTick x now).dnOut - (qTick x now).dnIn
/-- R90, R96: the push of an instruction in the pipeline that does not stand in the queue yet: of the one that issues now, or of one
that pushes when its reply arrives. -/
def owesPush (x : Core) (now : Nat) : Nat := if x.qoBusy = now + 8 ∨ (x.qoRep ∧ now < x.qoBusy) then 1 else 0
/-- R96: `g31` as a source. -/
def qoRoom (x : Core) (now : Nat) : Nat := if x.downLink.isNone then 0 else 16 - (downStart x now + owesPush x now)
/-- R96, R169: an entry joins the downstream queue. -/
def pushQo (x : Core) (now : Nat) (e : QEntry) : Core :=
  let x := qTick x now
  { x with down := x.down ++ [e], dnIn := x.dnIn + 1 }

/-- R96: the value of a register field as a source, for the running thread; `qi` gives the entry at its head. -/
def rd (s : State) (r : Reg) : Word :=
  if r = 0 then 0
  else if r = 30 then ((myCore s).up.headD ⟨0, false⟩).data
  else if r = 31 then BitVec.ofNat 64 (qoRoom (myCore s) s.cycle)
  else (me s).g[r]

/-- R96: a register written: `g0` discards, `qo` pushes one data entry. -/
def wrAt (s : State) (a : TRef) (r : Reg) (x : Word) : State :=
  if r = 0 then s
  else if r = 31 then modCore s a.core (fun c => pushQo c s.cycle ⟨x, false⟩)
  else modThr s a (fun t => { t with g := t.g.set r x })
def wr (s : State) (r : Reg) (x : Word) : State := wrAt s s.cur r x

/-! ## Traps (R302 to R305) -/

/-- R302: the handler's address, or none. -/
def trapTarget (s : State) (t : Thread) : Option Word :=
  if t.tvec ≠ 0 then some t.tvec
  else if t.fw then none
  else match t.launch.bind (fget s.launches) with
    | some l => l.img.trapEntry.map (fun e => BitVec.ofNat 64 (l.img.codeBase + e))
    | none => none

/-- R303: the thread freezes and the core sends a SYS message to the command processor. -/
def freeze (s : State) (a : TRef) (code : Nat) (tval : Word) : State :=
  let t := thr s a
  let s := modThr s a (fun t => { t with wait := .frozen })
  post s (.sysMessage ⟨cpUnit, ⟨tval, t.pc, unitWord s.fab.modnum a.core⟩, t.launch,
    [BitVec.ofNat 64 a.slot, BitVec.ofNat 64 code, tval, t.pc]⟩)

/-- R302: trap entry of a thread whose pc stands at the trapping instruction. -/
def trapAt (s : State) (a : TRef) (code : Nat) (tval : Word) : State :=
  let t := thr s a
  if t.th then freeze s a code tval
  else match trapTarget s t with
    | some h => modThr s a (fun t =>
        { t with tepc := t.pc, tcause := BitVec.ofNat 64 code, tval := tval, th := true, pc := h, wait := .none })
    | none => freeze s a code tval
def trapMe (s : State) (code : Nat) (tval : Word) : State := trapAt s s.cur code tval

/-- R93: a trap that reaches a thread outside its own instruction: the handler is ready in the next cycle. -/
def trapLater (s : State) (a : TRef) (code : Nat) (tval : Word) : State :=
  modThr (trapAt s a code tval) a (fun t => { t with readyAt := max t.readyAt (s.cycle + 1) })
/-- The register `k` places above another. -/
def regUp (r : Reg) (k : Nat) : Reg := Fin.ofNat 32 (r.val + k)
/-- R168: a slot that leaves its instruction waits on no ring any more. -/
def leaveRings (s : State) (a : TRef) : State :=
  if (core s a.core).rings.any (fun e => e.2.pushers.contains (.slot a.slot) || e.2.poppers.contains (.slot a.slot)) then
    modCore s a.core (fun x => { x with rings := x.rings.map (fun (e : Nat × Ring) =>
      (e.1, { e.2 with pushers := e.2.pushers.filter (· != .slot a.slot), poppers := e.2.poppers.filter (· != .slot a.slot) })) })
  else s
/-- R318: a STEP ends as its slot has issued, or has taken a trap that reached it later, or has left the core. -/
def endStep (a : TRef) (s : State) : State :=
  let l := (core s a.core).stepping.filter (fun p => p.slot == a.slot)
  if l = [] then s
  else l.foldl (fun s p => post s (.reply p.rto (.writes [(p.dst, (thr s a).pc), (regUp p.dst 1, 0)])))
    (modCore s a.core (fun x => { x with stepping := x.stepping.filter (fun p => p.slot != a.slot) }))

/-! ## Waiting conditions -/

/-- R164, R264: what a drain waits for is done. -/
def drained (s : State) (a : TRef) (d : Drain) : Bool :=
  let x := core s a.core
  let t := slotOf x a.slot
  (!d.stm || t.stmOut == 0) && x.sbuf.all (fun e => !d.sbuf.contains e.id) && (!d.rupd || t.rupdOut == 0)

/-- The rank of a scope; the default scope of `fence` is `.sys` (R264). -/
def scopeRank : Scope → Nat
  | .core => 1
  | .cl => 2
  | .dev => 3
  | .dom => 4
  | .sys => 5
  | .dflt => 5

/-- R264: what a fence of a scope waits for when it issues. -/
def fenceDrain (s : State) (a : TRef) (sc : Scope) : Drain :=
  { stm := true
    sbuf := if 2 ≤ scopeRank sc then (core s a.core).sbuf.map (·.id) else []
    rupd := decide (3 ≤ scopeRank sc) }

/-! ## The issue of an instruction -/

/-- How the body of an instruction ends: complete; complete with a jump; a trap; the thread has left the rotation at the
instruction; or a request is out, whose answer completes it (`pushes`: the answer goes to `qo`; `after`: R147). -/
inductive Eff where
  | done (s : State)
  | jump (s : State) (pc : Word)
  | trap (s : State) (code : Nat) (tval : Word)
  | left (s : State)
  | reply (s : State) (pushes : Bool) (after : Scope)
  deriving Repr

/-- The first number of the cores of other modules: core c of module m is modBase × (1 + m) + c. -/
def modBase : Nat := 2 ^ 20
/-- The module of a core or home of another module, and the core there. -/
def foreignMod (n : Nat) : Option Nat := if n < modBase then none else some (n / modBase - 1)
def foreignCore (n : Nat) : Nat := n % modBase
/-- A core of this module as other modules number it. -/
def absCore (s : State) (c : Nat) : Nat := if c < modBase then modBase * (1 + s.fab.modnum) + c else c
/-- A core as this module numbers it. -/
def relCore (s : State) (n : Nat) : Nat := if foreignMod n = some s.fab.modnum then foreignCore n else n
/-- R47, R169: an entry of a queue that another module's core feeds has been popped: a place is free for that core. -/
def ackQi (s : State) (c : Nat) : State :=
  match (core s c).upLink.bind (fun n => (foreignMod n).map (fun m => (m, foreignCore n))) with
  | some (m, d) => emit s m .ordered (.qAck (absCore s c) d)
  | none => s
/-- The entry at the head of `qi` leaves it. -/
def takeQi (s : State) : State := modMyCore s (fun x => { x with up := x.up.tail })
def popQi (s : State) (pops : Bool) : State := if pops then ackQi (takeQi s) s.cur.core else s

/-- R170: an instruction that pops a control value. -/
def queueEnd (s : State) (e : QEntry) : State :=
  let t := me s
  if t.qhv = 0 ∨ t.qh = true then trapMe s 0x07 e.data
  else modMe (popQi s true) (fun t =>
    { t with g := t.g.set 1 e.data, qhlk := t.pc, qh := true, pc := t.qhv, wait := .none })

/-- R34: the address after the instruction. -/
def nextPc (s : State) (len : Nat) : Word := (me s).pc + BitVec.ofNat 64 (2 * len)

/-- R15: the end of an instruction of `len` words. One that waits for its answer holds its entry of `qi` and its place in `qo`
until the answer arrives (log entry 50). -/
def finish (len : Nat) (pops : Bool) : Eff → State
  | .done s => modMe (popQi s pops) (fun t => { t with pc := t.pc + BitVec.ofNat 64 (2 * len), wait := .none })
  | .jump s pc => modMe (popQi s pops) (fun t => { t with pc := pc, wait := .none })
  | .trap s code tval => trapMe s code tval
  | .left s => s
  | .reply s pushes after =>
    let e := if pops then (myCore s).up.head? else none
    let s := modMyCore s (fun x =>
      { x with qoHeld := if pushes then x.qoHeld + 1 else x.qoHeld, qoRep := pushes || x.qoRep
               qiHeld := if pops then x.qiHeld + 1 else x.qiHeld })
    modMe (if pops then takeQi s else s) (fun t => { t with wait := .reply len e pushes after })

/-- R15, R48, R91, R170: an instruction of `len` words that reads the registers `srcs` and writes the registers `dsts`.
With a queue that is not ready nothing happens; without a link it takes trap 0x07, for `qi` before `qo` and for `qo` before a
control value (log entries 8 and 65); a control value at the head of `qi` goes to the queue-end handler. -/
def runI (len : Nat) (srcs dsts : List Reg) (s : State) (body : State → Eff) : State :=
  let x := myCore s
  let pops := srcs.contains 30
  let pushes := dsts.contains 31
  if pops ∧ x.up.isEmpty ∧ x.upLink.isNone then trapMe s 0x07 30
  else if pushes ∧ x.downLink.isNone then trapMe s 0x07 31
  else if pops ∧ x.up.isEmpty then s
  else if pushes ∧ 16 ≤ x.down.length + x.qoHeld then s
  else if pops ∧ (x.up.headD ⟨0, false⟩).ctl then queueEnd s (x.up.headD ⟨0, false⟩)
  else finish len pops (body s)

/-- The thread leaves the rotation and issues the instruction again when the cause has gone. -/
def retry (s : State) (c : Cause) : Eff := .left (modMe s (fun t => { t with wait := .retry c }))

/-- R147, R267: the fence of scope `sc` before an instruction; with none, `k` at once. -/
def fenced (s : State) (need : Bool) (sc : Scope) (k : State → Eff) : Eff :=
  if need then
    match (me s).wait with
    | .retry (.before d) | .again (.before d) =>
      if drained s s.cur d then k s else .left s
    | _ =>
      let d := fenceDrain s s.cur sc
      if drained s s.cur d then k s else retry s (.before d)
  else k s

/-! ## Physical memory -/

/-- R347: the channel of an address is out of service: its requests wait at their TAU. -/
def chanBusy (s : State) (pa : Nat) : Bool :=
  let x := stackSt s (stackOf pa)
  x.busy && !x.deferd && x.cmd.any (fun c => c.2.1 == pchOf pa % 64 / 2)

/-- R353: the address lies in a guard row. -/
def inGuard (s : State) (pa : Nat) : Bool := (patEnt s (frameOf pa)).guard && decide (pa % 2 ^ 26 < 2 ^ 19)

/-- R353: the ownership check, for a request on behalf of a launch. -/
def ownsFrame (s : State) (launch : Option Nat) (pa : Nat) : Bool :=
  match launch with
  | none => true
  | some l => match fget s.launches l with
    | some x => (patEnt s (frameOf pa)).owner == x.iface
    | none => false

/-- R131, R298, R353: why a TAU refuses a request; `absent`: the address lies in no frame (log entry 43). -/
inductive Refuse where
  | absent | guard | foreign | poison
  deriving DecidableEq, Repr

def tauRefuses (s : State) (launch : Option Nat) (pa : Nat) : Option Refuse :=
  if !paValid pa then some .absent
  else if inGuard s pa then some .guard
  else if !ownsFrame s launch pa then some .foreign
  else if s.poison.contains (sectorOf pa) then some .poison
  else none

/-- R322: what a refused access leaves on its launch; `store` for a store or engine write. -/
def noteRefusal (s : State) (launch : Option Nat) (store : Bool) (r : Refuse) : State :=
  match launch with
  | none => s
  | some l => modLaunch s l (fun x =>
      if r = .poison then { x with poisoned := true } else if store then { x with foreign := true } else x)

/-- R131, R283: frames whose changes are logged. -/
def isLogged (pa : Nat) : Bool := decide (144 ≤ frameOf pa) && decide (frameOf pa < frameCount)

def stampOf (s : State) (pa : Nat) : Nat := (fget s.stamps (granuleOf pa)).getD s.sl.stampDef
def ivl (s : State) : Nat := s.sl.ivnum.toNat

/-- R134: the full/empty bit of the word at an address. -/
def isFull (s : State) (pa : Nat) : Bool := !s.feEmpty.contains (pa / 8)
def setFull (s : State) (pa : Nat) (full : Bool) : State :=
  { s with feEmpty := if full then s.feEmpty.filter (· != pa / 8) else nins (pa / 8) s.feEmpty }

/-- The full/empty bits of a granule, bit i for word i (R284). -/
def febOf (s : State) (g : Nat) : Nat :=
  (List.range 32).foldl (fun a i => if s.feEmpty.contains (32 * g + i) then a else a + 2 ^ i) 0

/-- R283, R284: a change to a granule is logged on its first time in the interval. -/
def logGranule (s : State) (pa : Nat) : State :=
  if !isLogged pa || stampOf s pa == ivl s % 4 then s
  else
    let g := granuleOf pa
    let r : VRec := ⟨256 * g, devBytes s (256 * g) 256, ivl s, febOf s g, stampOf s pa, none⟩
    let k := stackOf pa
    let l := r :: vaultOf s k
    let s := { s with vaults := fset s.vaults k l, stamps := fset s.stamps g (ivl s % 4)
                      sl := { s.sl with vhw := max s.sl.vhw l.length } }
    if l.length = 2752512 then wantSeal s else s

/-- R287: the TAU waits before a first change while its stack's vault is full to the mark; the rest is kept for the
changes that a prepare phase finds on their way. -/
def vaultStalls (s : State) (pa : Nat) : Bool :=
  s.sl.phase == .open_ && isLogged pa && stampOf s pa != ivl s % 4 && decide (3014656 ≤ (vaultOf s (stackOf pa)).length)

/-- R350: a request reaches a pseudo-channel: the idle count starts again and self-refresh ends. -/
def touch (s : State) (pa : Nat) : State := modPch s (pchOf pa) (fun p => { p with lastReq := s.cycle, selfRef := false })

/-- A change of bytes at a physical address, logged; where a record keeps a byte, it changes with it (R260). -/
def physPut (s : State) (pa : Nat) (l : List Byte) : State :=
  let s := logGranule (touch s pa) pa
  putKepts { s with mem := msets s.mem pa l } pa l
def physWrite (s : State) (pa n : Nat) (x : Word) : State := physPut s pa (leBytes n x.toNat)
def physRead (s : State) (pa n : Nat) : Word := BitVec.ofNat 64 (leNat (devBytes s pa n))

/-- R56, R283: a queue descriptor is written: its granule is logged. -/
def setQueue (s : State) (n : Nat) (q : LQueue) : State :=
  let s := logGranule (touch s (descPa n)) (descPa n)
  { s with queues := fset s.queues n q }

/-- R329: an armed injection fires on a read of a word of its granule that has changed in this interval. -/
def injFires (s : State) (pa : Nat) : Bool :=
  s.sl.sleinj.toNat % 2 == 1 && isLogged pa && bits s.sl.sleinj 38 8 == granuleOf pa
    && decide (((s.sl.ivnum - BitVec.setWidth 32 s.sl.sleinji)).toNat < 2 ^ 31) && stampOf s pa == ivl s % 4

/-- R349, R298: an error that CODE cannot correct: a rollback if the granule has changed in this interval, else POISON. -/
def uncorrectable (s : State) (pa : Nat) : State :=
  if isLogged pa ∧ stampOf s pa = ivl s % 4 then trigger s 1
  else { s with poison := nins (sectorOf pa) s.poison, errs := fdel s.errs (sectorOf pa) }
/-- R344: a corrected read counts in its stack's CECNT. -/
def countEcc (s : State) (st : Nat) : State :=
  modStack s st (fun y => { y with cecnt := if y.cecnt = BitVec.allOnes 64 then y.cecnt else y.cecnt + 1 })
/-- R344, R349: a read of `n` bytes, of at most two sectors, finds the errors of its sectors. -/
def eccSector (s : State) (k : Nat) : State :=
  match fget s.errs k with
  | none => s
  | some false => countEcc s (stackOf (32 * k))
  | some true => uncorrectable s (32 * k)
def eccRead (s : State) (pa n : Nat) : State :=
  if s.errs = [] then s
  else (List.range (sectorOf (pa + n - 1) + 1 - sectorOf pa)).foldl (fun s i => eccSector s (sectorOf pa + i)) s

/-- R349: the sector of an address has an error for which a rollback starts; the read is not served. -/
def eccStops (s : State) (pa : Nat) : Bool :=
  fget s.errs (sectorOf pa) == some true && isLogged pa && stampOf s pa == ivl s % 4

/-- R329: the request is not served; ARM falls and a rollback with cause 1 is triggered. -/
def fireInj (s : State) : State :=
  trigger { s with sl := { s.sl with sleinj := s.sl.sleinj &&& ~~~(1 : Word) } } 1
/-- R329, R344, R349, R350: a unit's read of `n` bytes, of at most two sectors, at the TAU of an address. One at which a rollback
starts is not served: `stop`; else the read has counted and corrected the errors that it met: `ok`. -/
def lookAt {α : Type} (s : State) (pa n : Nat) (stop ok : State → α) : α :=
  if eccStops s pa then stop (trigger s 1)
  else if injFires s pa then stop (fireInj s)
  else ok (touch (eccRead s pa n) pa)

/-! ## Launches -/

def launchOf (s : State) (l : Option Nat) : Option Launch := l.bind (fget s.launches)
/-- R74: the launch number of a request that crosses to another module becomes the domain job number; a launch without
one, which sends nothing there, becomes a number that no job has. -/
def awayLaunch (s : State) (l : Option Nat) : Option Nat :=
  match l with
  | none => none
  | some n => some (((launchOf s (some n)).bind (·.djob)).getD (2 ^ 32))
/-- The clusters that a launch owns. -/
def clustersOf (s : State) (l : Option Nat) : List Nat := ((launchOf s l).map (·.clusters)).getD []
def lowestCluster (s : State) (l : Option Nat) : Nat := (clustersOf s l).foldl min 127
/-- The home of a thread stands on this module. -/
def homeHere (t : Thread) : Bool := decide (t.home.core < modBase)
/-! ### Names of threads

Threads of this module are known by their places: to its own parts, and to other modules by a tag. A thread that is switched out keeps
its place's name, with its core 2048 × (1 + launch) higher, so that no other thread has it. -/

/-- The tag by which another module's answer finds a thread of this one. -/
def awayTag (a : TRef) : Nat := 32 * a.core + a.slot
def tagRef (tag : Nat) : TRef := ⟨tag / 32, tag % 32⟩
/-- The name of core `c` of a launch that is switched out. -/
def outCore (l c : Nat) : Nat := c + 2048 * (l + 1)
/-- The number of a core, of this module or of another, without the mark of a launch that is switched out. -/
def plainCore (n : Nat) : Nat := n % modBase % 2048
/-- A name in a launch that is switched out. -/
def outNamed (s : State) (n : Nat) : Bool :=
  decide (2048 ≤ n) && decide (n < modBase) && (fget s.launches (n / 2048 - 1)).any (fun x => x.stage == .out)
/-- A thread that is switched out, by its place before. -/
def savedThr (x : Launch) (a : TRef) : Thread :=
  match x.savGuest.find? (fun e => e.1 == a) with
  | some e => e.2
  | none => slotOf ((fget x.savCores a.core).getD Core.reset) a.slot
/-- Where the thread stands that a launch saved from a place: its own entry, else that of its core (slot 32). -/
def namedNow (x : Launch) (a : TRef) : Option TRef :=
  x.names.findSome? (fun e => if e.1 = a then some e.2 else if e.1 = ⟨a.core, 32⟩ then some ⟨e.2.core, a.slot⟩ else none)
/-- The place that a name of a switched-out launch means now. -/
def nowRef (s : State) (a : TRef) : TRef :=
  if a.core < 2048 ∨ modBase ≤ a.core then a
  else match fget s.launches (a.core / 2048 - 1) with
    | some x => if x.stage = .out then a else (namedNow x ⟨plainCore a.core, a.slot⟩).getD a
    | none => a
/-- R76, R310, R313: the thread that another module means by a place: the one that stands there if it is as `p` says, else the one that
has moved on from there, is switched out, or has come back elsewhere. -/
def whereIs (s : State) (p : Thread → Bool) (a : TRef) : TRef :=
  let a := nowRef s a
  if outNamed s a.core || p (thr s a) then a
  else match ((core s a.core).fwd.map (fun f => (⟨f.dest, a.slot⟩ : TRef))).filter (fun b => p (thr s b)) with
    | some b => b
    | none => (s.launches.findSome? (fun e =>
        if e.2.stage == .out then (if p (savedThr e.2 a) then some ⟨outCore e.1 a.core, a.slot⟩ else none)
        else (namedNow e.2 a).filter (fun b => p (thr s b)))).getD a
/-- The home slot of a thread that is away. -/
def isAway (t : Thread) : Bool := t.st == .away
/-- The thread waits for an answer. -/
def asks (t : Thread) : Bool :=
  match t.wait with
  | .reply .. => true
  | _ => false

/-- The home of a thread is a teller core, of this module or of another. -/
def homeTeller (t : Thread) : Bool := isTeller (plainCore t.home.core)
/-- R42: the cluster in which a thread resolves `cl:` codes: of its home core, and with a home teller the lowest of the launch; a
thread from another module has brought that of its home's module. -/
def homeCluster (s : State) (t : Thread) : Nat :=
  if !homeHere t then t.homeCl
  else if homeTeller t then lowestCluster s t.launch
  else (core s t.home.core).bindCl
/-- R41, R42: the index of a role code in the binding table. -/
def roleIndex (s : State) (t : Thread) (code : Nat) : Option Nat :=
  let n := code % 2 ^ 14
  match launchOf s t.launch with
  | none => none
  | some l =>
    if code / 2 ^ 14 = 1 ∧ n < l.img.nCl then some (16 * homeCluster s t + n)
    else if code / 2 ^ 14 = 2 ∧ n < l.img.nDv then some (2048 + n)
    else if code / 2 ^ 14 = 3 ∧ n < l.img.nDm then some (4096 + n)
    else none
/-- R73: what resolving a role code gives: no role, a refused read at an address, or the entry. -/
inductive Resolved where
  | none
  | refused (pa : Nat)
  | entry (e : Word)
  deriving DecidableEq, Repr
def rolePa (s : State) (t : Thread) (code : Nat) : Option Nat :=
  (roleIndex s t code).map (fun i => ((launchOf s t.launch).map (·.table)).getD 0 + 8 * i)
def resolve (s : State) (t : Thread) (code : Nat) : Resolved :=
  match rolePa s t code with
  | Option.none => .none
  | some pa => if s.poison.contains (sectorOf pa) then .refused pa else .entry (physRead s pa 8)
/-- R73, R347: `resolve` by the running thread: one read of the entry at its TAU. -/
def withRole (s : State) (code : Nat) (k : State → Resolved → Eff) : Eff :=
  match rolePa s (me s) code with
  | none => k s .none
  | some pa =>
    if chanBusy s pa then retry s (.chan [pa])
    else lookAt s pa 8 (fun s => .reply s false .dflt) (fun s => k s (resolve s (me s) code))

/-! ## Translation (R179 to R181, R389) -/

/-- R179: the page size of an entry. -/
def tlbSize (e : TlbEnt) : Nat :=
  match bits e.w0 2 1 with
  | 0 => 2 ^ 13
  | 1 => 2 ^ 21
  | _ => 2 ^ 30
def tlbCovers (e : TlbEnt) (va : Word) : Bool :=
  bits e.w0 0 0 == 1 && va.toNat / tlbSize e == e.w0.toNat / tlbSize e
/-- The entry that covers an address; on a teller core, of the launch only. -/
def tlbFind (m : FMap TlbEnt) (teller : Bool) (l : Option Nat) (va : Word) : Option TlbEnt :=
  (m.find? (fun e => tlbCovers e.2 va && (!teller || e.2.launch == l))).map (·.2)

/-- R389: what an access needs. -/
structure Need where
  r : Bool
  w : Bool
  x : Bool
  deriving DecidableEq, Repr
def needR : Need := ⟨true, false, false⟩
def needW : Need := ⟨false, true, false⟩
def needRW : Need := ⟨true, true, false⟩
def needX : Need := ⟨false, false, true⟩
/-- R181, R389: the kind that an XLAT reports. -/
def needKind (n : Need) : Nat := if n.w then 1 else if n.x then 2 else 0
def permits (e : TlbEnt) (n : Need) : Bool :=
  (!n.r || bits e.w1 0 0 == 1) && (!n.w || bits e.w1 1 1 == 1) && (!n.x || bits e.w1 2 2 == 1)

/-- R180: the outcomes of a translation. -/
inductive Tr where
  | pa (a : Nat)
  | remote (modnum a : Nat)
  | miss
  | trap (code : Nat)
  deriving DecidableEq, Repr
def entPa (e : TlbEnt) (va : Word) : Nat :=
  (bits e.w1 38 13 * 2 ^ 13) / tlbSize e * tlbSize e + va.toNat % tlbSize e
def trBy (e : Option TlbEnt) (va : Word) (n : Need) : Tr :=
  match e with
  | none => .miss
  | some e =>
    if bits e.w1 52 52 = 1 then .trap 0x06
    else if !permits e n then .trap 0x05
    else if bits e.w1 53 53 = 1 then .remote (bits e.w1 63 54) (entPa e va)
    else .pa (entPa e va)
/-- R374: the routing table holds a path to a module. -/
def reachable (s : State) (m : Nat) : Bool := m == s.fab.modnum || s.fab.cur.routes.any (fun r => r.1 == m)
/-- R180, R374: a translation; a module without a path is refused as one outside the domain is. -/
def trIn (s : State) (e : Option TlbEnt) (va : Word) (n : Need) : Tr :=
  match trBy e va n with
  | .remote m a => if reachable s m then .remote m a else .trap 0x06
  | t => t
/-- R179: the translation of a thread's access. -/
def translate (s : State) (a : TRef) (va : Word) (n : Need) : Tr :=
  let t := thr s a
  if t.fw then .pa va.toNat
  else trIn s (tlbFind (core s a.core).tlb (isTeller a.core) t.launch va) va n

/-- R181: the service core that serves the misses of a core. -/
def missServer (s : State) (c : Nat) (l : Option Nat) : Nat :=
  if isTeller c then coreAt (lowestCluster s l) 8 else coreAt (clusterOf c) 8

/-- R179, R181: a miss is of a page; on a teller core, of one launch. -/
def sameMiss (c page : Nat) (l : Option Nat) (m : Miss) : Bool := m.page == page && (!isTeller c || m.launch == l)
/-- R181: the XLAT of a miss leaves. -/
def sendMiss (s : State) (c : Nat) (m : Miss) (va : Word) (kind : Nat) : State :=
  let s := modCore s c (fun x => { x with misses := x.misses ++ [m] })
  post s (.xlatMessage ⟨missServer s c m.launch, ⟨va, BitVec.ofNat 64 (kind + 16 * m.agent), unitWord s.fab.modnum c⟩,
    none, []⟩)
/-- R181: a miss of a core: it joins one of its page, or sends an XLAT; with eight outstanding it waits behind those that
wait already. -/
def raiseMiss (s : State) (c agent : Nat) (l : Option Nat) (va : Word) (kind : Nat) : State :=
  let x := core s c
  let page := va.toNat / 8192
  let m : Miss := ⟨page, agent, l, []⟩
  if x.misses.any (sameMiss c page l) ∨ x.missQ.any (fun e => sameMiss c page l e.1) then s
  else if 8 ≤ x.misses.length then modCore s c (fun x => { x with missQ := x.missQ ++ [(m, va, kind)] })
  else sendMiss s c m va kind
/-- R181: a place is free: the miss that has waited longest sends its XLAT. -/
def nextMiss (s : State) (c : Nat) : State :=
  match (core s c).missQ with
  | (m, va, kind) :: l =>
    if 8 ≤ (core s c).misses.length then s
    else sendMiss (modCore s c (fun x => { x with missQ := l })) c m va kind
  | [] => s

/-- R83, R150: every earlier access of the thread is accepted, and every update that it started has been applied. -/
def moveReady (s : State) (a : TRef) : Bool :=
  let x := core s a.core
  let t := slotOf x a.slot
  t.stmOut == 0 && t.rupdOut == 0 && !x.sbuf.any (fun e => e.slot == a.slot)
/-- R74: the identity that a message carries. -/
def identOf (s : State) (t : Thread) (toOther : Bool) : Ident :=
  match toOther, (launchOf s t.launch).bind (·.djob) with
  | true, some d => .away d
  | _, _ => .here (t.launch.getD 0xFFFF)
/-- R42, R83: a context as another module sees it: its home carries the module's number, and the cluster it leaves. -/
def ctxAway (s : State) (t : Thread) : Thread :=
  if homeHere t then { t with homeCl := homeCluster s t } else t

/-- R90, R93: a guest slot that a context has left: free once the instruction has left the pipeline. -/
def leftSlot (now slot : Nat) : Thread := { Thread.reset slot with readyAt := now }
/-- R83, R180: the context of a thread leaves for a teller of another module; its home slot is away and keeps the
context until the module's answer can no longer be a NACK (R379). `fin`: the length and the destination of a `migr`; `pops`: it takes
its operand from `qi`. -/
def shipAway (s : State) (modnum pa op : Nat) (va : Word) (fin : Option (Nat × Reg)) (toHome pops : Bool) : State :=
  let t := me s
  let e := if pops then (myCore s).up.head? else none
  let s := emit (popQi s pops) modnum .ordered
    (.ship ⟨tellerOf pa, ctxAway s t, identOf s t true, op, va, s.fab.modnum, fin, toHome, e, s.cur.core⟩)
  let s := if s.cur = t.home then s else fill s s.cur (leftSlot (max t.readyAt (s.cycle + 1)) s.cur.slot)
  if homeHere t then fill s t.home { t with st := .away, wait := .none } else s

/-- R135, R180: an access to space G by the running thread, whose operation code for R379 is `op`. A context leaves once every
earlier access of the thread is accepted, as under R83 (log entry 51). -/
def gAccess (s : State) (va : Word) (n : Need) (op : Nat) (k : State → Nat → Eff) : Eff :=
  match translate s s.cur va n with
  | .pa a => k s a
  | .trap code => .trap s code va
  | .remote m a =>
    if moveReady s s.cur then .left (shipAway s m a op va none false false) else retry s .migr
  | .miss =>
    let s := raiseMiss s s.cur.core 0 (me s).launch va (needKind n)
    retry s (.miss va)

/-- R74, R76: the core is bound to the launch of a message. On a teller core, which serves every launch, the launch has
to be admitted. -/
def boundTo (s : State) (c : Nat) (i : Ident) : Bool :=
  let x := core s c
  match i with
  | .here l => if isTeller c then (fget s.launches l).isSome else x.launch == some l
  | .away d => if isTeller c then s.launches.any (fun e => e.2.djob == some d) else x.djob == some d && x.launch.isSome
def fwdMatches (f : Fwd) (i : Ident) : Bool :=
  match i with
  | .here l => f.launch == l
  | .away d => f.djob == some d
/-- R76: what happens to a message at a core. -/
inductive Arrive where
  | forward (c : Nat)
  | accept
  | refuse
  deriving DecidableEq, Repr
def arriveAt (s : State) (c : Nat) (i : Ident) (hops : Nat) : Arrive :=
  match (core s c).fwd with
  | some f => if fwdMatches f i then (if hops < 3 then .forward f.dest else .refuse)
    else if boundTo s c i then .accept else .refuse
  | none => if boundTo s c i then .accept else .refuse
/-- The launch number on this module of a message's identity. -/
def launchNum (s : State) (i : Ident) : Option Nat :=
  match i with
  | .here l => some l
  | .away d => (s.launches.find? (fun e => e.2.djob == some d)).map (·.1)

/-- A status as an answer (R77). -/
def status (dst : Reg) (n : Nat) : RepRes := .writes [(dst, BitVec.ofNat 64 n)]

end Sys2Proof.Machine
end

