-- ==== Sys2Proof/Machine/Operands.lean ====
section
/-!
DEFINITION. The operand forms: sources of the register and immediate classes (R37, R100), effective addresses (R11, R40),
pairs and runs of registers, lengths in words (R34), and the sources of the vector forms (R190, R192).
-/
namespace Sys2Proof.Machine
open Sys2Proof

/-- R8: an immediate sign-extended to 64 bits. -/
def immW (i : Imm) : Word := BitVec.ofInt 64 i.v
/-- The words that an optional XR or XS word adds. -/
def optLen {α : Type} (c : Option α) : Nat := if c.isSome then 1 else 0
/-- R100: the sources x and y of class R. -/
def srcX (a b : Reg) (c : Option Reg) : Reg := if c.isSome then b else a
def srcY (b : Reg) (c : Option Reg) : Reg := c.getD b
/-- R100: the source of class I. -/
def srcI (a : Reg) (c : Option Reg) : Reg := c.getD a
/-- R11: trunc(g[b] + disp, 64). -/
def ea (s : State) (b : Reg) (i : Imm) : Word := rd s b + immW i
/-- R10: the address of the first word plus twice the signed offset. -/
def relTarget (s : State) (o : Int) : Word := (me s).pc + BitVec.ofInt 64 (2 * o)

/-- A thread's v register as its lanes; zero while `vlive` is 0 (R97). -/
def vrd (s : State) (r : VReg) : Vector Lane 32 := if (me s).vlive then (me s).v[r] else Vector.replicate 32 0
/-- R97: a v register written sets `vlive`; the registers not written keep the zeros they read as. A form that names a v register as
its destination sets it whatever lanes its predicate governs (log entry 71). -/
def vwr (s : State) (r : VReg) (x : Vector Lane 32) : State :=
  modMe s (fun t =>
    let v := if t.vlive then t.v else Vector.replicate 8 (Vector.replicate 32 0)
    { t with v := v.set r x, vlive := true })
/-- R97: p0 reads as all ones and discards writes. -/
def prd (s : State) (r : PReg) : Lane := if r = 0 then 0xFFFFFFFF else (me s).p[r]
def pwr (s : State) (r : PReg) (x : Lane) : State :=
  if r = 0 then s else modMe s (fun t => { t with p := t.p.set r x })
/-- Lane `n` is governed. -/
def plane (x : Lane) (n : Nat) : Bool := x.getLsbD n

/-- R192: the first source of a binary form. -/
def vsrc1 (d b : VReg) (x : VSrc) : VReg := if x = .short then d else b
/-- R190, R192: the second source of a binary form. -/
def vsrc2 (s : State) (b : VReg) : VSrc → Vector Lane 32
  | .short => vrd s b
  | .vec c => vrd s c
  | .gen c => Vector.replicate 32 (BitVec.setWidth 32 (rd s c))
/-- The g registers that a vector source reads. -/
def vsrcRegs : VSrc → List Reg
  | .gen c => [c]
  | _ => []
def vsrcLen (x : VSrc) : Nat := if x = .short then 0 else 1

end Sys2Proof.Machine
end

