-- ==== Sys2Proof/Machine/Flags.lean ====
section
/-!
DEFINITION. Status: the event counters (R117), `tstat` (R99), and the CSRs as they read and as they are written (R97,
R98, R306, R307, R316). The integer instructions set no flag (R100).
-/
namespace Sys2Proof.Machine
open Sys2Proof

/-- R117: the events of an operation: saturations, NaNs, block-scale overflows. -/
structure Events where
  sat : Nat
  nan : Nat
  bso : Nat
  deriving DecidableEq, Repr, Inhabited

def Events.none : Events := ⟨0, 0, 0⟩
def Events.plus (x y : Events) : Events := ⟨x.sat + y.sat, x.nan + y.nan, x.bso + y.bso⟩

/-- R117: a counter stops at 2^32 - 1. -/
def bump (c : BitVec 32) (n : Nat) : BitVec 32 := BitVec.ofNat 32 (min (c.toNat + n) 0xFFFFFFFF)
/-- R117: events counted in the counters of a core. -/
def countEv (x : Core) (e : Events) : Core :=
  { x with nsat := bump x.nsat e.sat, nnan := bump x.nnan e.nan, nbso := bump x.nbso e.bso }
def countMe (s : State) (e : Events) : State := modMyCore s (fun x => countEv x e)

/-- R99. -/
def tstatOf (t : Thread) : Word :=
  BitVec.ofNat 64 ((if t.fw then 1 else 0) + (if t.th then 2 else 0) + (if t.qh then 4 else 0)
    + (match t.dtag with
       | some g => 8 + 16 * (g % 16)
       | none => 0)
    + (if t.fwte then 256 else 0))

def b64 (b : Bool) : Word := if b then 1 else 0
def clear0 (x : Word) : Word := x &&& ~~~(1 : Word)

/-- R306: `lchid`. -/
def lchidOf (x : Core) : Word :=
  BitVec.ofNat 64 ((x.launch.getD 0xFFFF) % 65536
    + (match x.djob with
       | some d => (d % 2 ^ 32) * 65536 + 2 ^ 48
       | none => 0))

/-- R98, R306, R307: the value of a CSR, for the running thread; it is read in the cycle after the issue. -/
def csrVal (s : State) (n : Nat) : Word :=
  let t := me s
  let x := myCore s
  match n with
  | 0x000 => tstatOf t
  | 0x001 => t.tvec
  | 0x002 => t.tepc
  | 0x003 => t.tcause
  | 0x004 => t.tval
  | 0x005 => t.qhv
  | 0x006 => t.qhlk
  | 0x007 => BitVec.ofNat 64 s.cur.slot
  | 0x008 => b64 t.vlive
  | 0x100 => x.bindb
  | 0x101 => x.bindg
  | 0x102 => x.wakev
  | 0x103 => x.fetmo
  | 0x104 => x.nsat.setWidth 64
  | 0x105 => x.nnan.setWidth 64
  | 0x106 => x.nbso.setWidth 64
  | 0x107 => unitWord s.fab.modnum s.cur.core
  | 0x108 => lchidOf x
  | 0x109 => BitVec.ofNat 64 (s.cycle + 1 - x.boundAt)
  | 0x180 => b64 x.bkh + 2 * b64 x.hltd
  | 0x181 => x.tlbcfg.setWidth 64
  | 0x182 => x.xlatv
  | 0x183 => x.shotv
  | 0x184 => x.rclv
  | 0x185 => x.sysv
  | 0x200 => s.sl.ivnum.setWidth 64
  | 0x201 => s.sl.rbc.setWidth 64
  | 0x202 => BitVec.ofNat 64 s.fab.modnum
  | 0x203 => BitVec.ofNat 64 s.fab.domcnt
  | _ => 0

/-- R307: the CSRs of a core that an instruction can write. -/
def csrIsCore (n : Nat) : Bool := [0x102, 0x103, 0x104, 0x105, 0x106, 0x180, 0x181].contains n
/-- R307: a write to a core CSR is seen by instructions that issue seven cycles later or after; until then the value before it
stands. -/
def csrStands (x : Core) (now n : Nat) : Option Word :=
  (x.csrOld.find? (fun e => e.2.1 == n && decide (now < e.1))).map (·.2.2)
/-- R307: the value of a CSR that an instruction which issues now sees. -/
def csrSeen (s : State) (n : Nat) : Word := (csrStands (myCore s) s.cycle n).getD (csrVal s n)
/-- R72, R307: `wakev` as it stands in a cycle. -/
def wakevAt (x : Core) (now : Nat) : Word := (csrStands x now 0x102).getD x.wakev
/-- R307: the value before a write is kept for the instructions that issue too early to see the write. -/
def keepOld (x : Core) (now n : Nat) (old : Word) : Core :=
  { x with csrOld := x.csrOld.filter (fun e => decide (now < e.1)) ++ [(now + 7, n, old)] }

/-- R306: the firmware CSRs. -/
def csrIsFw (n : Nat) : Bool := decide (0x180 ≤ n) && decide (n ≤ 0x185)

/-- R97: a write of `vlive`. -/
def setVlive (t : Thread) (on : Bool) : Thread :=
  if on then
    { t with vlive := true, v := if t.vlive then t.v else Vector.replicate 8 (Vector.replicate 32 0) }
  else { t with vlive := false, v := Vector.replicate 8 (Vector.replicate 32 0) }

/-- R98, R99: a thread CSR written, field by field. -/
def csrSetThr (t : Thread) (n : Nat) (x : Word) : Thread :=
  match n with
  | 0x000 => { t with fwte := x.getLsbD 8 }
  | 0x001 => { t with tvec := clear0 x }
  | 0x002 => { t with tepc := x }
  | 0x003 => { t with tcause := x &&& 0x3F }
  | 0x004 => { t with tval := x }
  | 0x005 => { t with qhv := clear0 x }
  | 0x006 => { t with qhlk := clear0 x }
  | 0x008 => setVlive t (x.getLsbD 0)
  | _ => t

/-- R306, R316: a core CSR written, field by field. -/
def csrSetCore (c : Core) (n : Nat) (x : Word) : Core :=
  match n with
  | 0x102 => { c with wakev := clear0 x }
  | 0x103 => { c with fetmo := x }
  | 0x104 => { c with nsat := x.setWidth 32 }
  | 0x105 => { c with nnan := x.setWidth 32 }
  | 0x106 => { c with nbso := x.setWidth 32 }
  | 0x180 => { c with bkh := x.getLsbD 0 }
  | 0x181 => { c with tlbcfg := x.setWidth 6 }
  | _ => c

end Sys2Proof.Machine
end

