-- ==== Sys2Proof/Machine/Integer.lean ====
section
/-!
DEFINITION. The integer instructions of page 0 (R100 to R106).
-/
namespace Sys2Proof.Machine
open Sys2Proof

abbrev Out := Host.Outcome State Fault Refusal

/-! ## The values (R101 to R105) -/

def opMulh (x y : Word) : Word := BitVec.ofInt 64 (x.toInt * y.toInt / 2 ^ 64)
def opMulhu (x y : Word) : Word := BitVec.ofNat 64 (x.toNat * y.toNat / 2 ^ 64)
/-- R102. -/
def opDiv (x y : Word) : Word :=
  if y = 0 then BitVec.allOnes 64
  else if x = BitVec.intMin 64 ∧ y = BitVec.allOnes 64 then BitVec.intMin 64
  else BitVec.ofInt 64 (x.toInt.tdiv y.toInt)
def opRem (x y : Word) : Word :=
  if y = 0 then x
  else if x = BitVec.intMin 64 ∧ y = BitVec.allOnes 64 then 0
  else BitVec.ofInt 64 (x.toInt - (opDiv x y).toInt * y.toInt)
def opDivu (x y : Word) : Word := if y = 0 then BitVec.allOnes 64 else BitVec.ofNat 64 (x.toNat / y.toNat)
def opRemu (x y : Word) : Word :=
  if y = 0 then x else BitVec.ofNat 64 (x.toNat - x.toNat / y.toNat * y.toNat)
/-- R103: the amount of the register forms. -/
def shAmt (y : Word) : Nat := y.toNat % 64
def opSll (x y : Word) : Word := x <<< shAmt y
def opSrl (x y : Word) : Word := x >>> shAmt y
def opSra (x y : Word) : Word := x.sshiftRight (shAmt y)
def opRol (x y : Word) : Word := (x <<< shAmt y) ||| (x >>> (64 - shAmt y))
def opRor (x y : Word) : Word := (x >>> shAmt y) ||| (x <<< (64 - shAmt y))
def opSlt (x y : Word) : Word := b64 (x.slt y)
def opSltu (x y : Word) : Word := b64 (x.ult y)
def opSeq (x y : Word) : Word := b64 (x == y)
def opSne (x y : Word) : Word := b64 (x != y)
/-- R104: zero bits above the highest set bit, among the `k` low bits. -/
def clzN (x : Word) : Nat → Nat
  | 0 => 0
  | k + 1 => if x.getLsbD k then 0 else 1 + clzN x k
def opClz (x : Word) : Word := BitVec.ofNat 64 (clzN x 64)
/-- R104: zero bits below the lowest set bit, from bit `i` up through `k` bits. -/
def ctzN (x : Word) (i : Nat) : Nat → Nat
  | 0 => 0
  | k + 1 => if x.getLsbD i then 0 else 1 + ctzN x (i + 1) k
def opCtz (x : Word) : Word := BitVec.ofNat 64 (ctzN x 0 64)
/-- Set bits among the `k` low bits. -/
def popN (x : Word) : Nat → Nat
  | 0 => 0
  | k + 1 => popN x k + if x.getLsbD k then 1 else 0
def opPopc (x : Word) : Word := BitVec.ofNat 64 (popN x 64)
/-- R104: the set positions of a mask, lowest first. -/
def setPositions (y : Word) : List Nat := (List.range 64).filter (fun j => y.getLsbD j)
def opBext (x y : Word) : Word :=
  (setPositions y).zipIdx.foldl (fun acc e => if x.getLsbD e.1 then acc ||| BitVec.twoPow 64 e.2 else acc) 0
def opBdep (x y : Word) : Word :=
  (setPositions y).zipIdx.foldl (fun acc e => if x.getLsbD e.2 then acc ||| BitVec.twoPow 64 e.1 else acc) 0
/-- R105. -/
def opSext : Width → Word → Word
  | .b, x => (x.setWidth 8).signExtend 64
  | .h, x => (x.setWidth 16).signExtend 64
  | .w, x => (x.setWidth 32).signExtend 64
  | .d, x => x
def opZext : Width → Word → Word
  | .b, x => (x.setWidth 8).setWidth 64
  | .h, x => (x.setWidth 16).setWidth 64
  | .w, x => (x.setWidth 32).setWidth 64
  | .d, x => x

/-! ## The classes (R37, R100) -/

/-- Class R. -/
def classR (f : Word → Word → Word) (a b : Reg) (c : Option Reg) (s : State) : State :=
  runI (1 + optLen c) [srcX a b c, srcY b c] [a] s
    (fun s => .done (wr s a (f (rd s (srcX a b c)) (rd s (srcY b c)))))
/-- Class I. -/
def classI (f : Word → Word → Word) (a : Reg) (c : Option Reg) (i : Imm) (s : State) : State :=
  runI (1 + optLen c + i.n) [srcI a c] [a] s (fun s => .done (wr s a (f (rd s (srcI a c)) (immW i))))
/-- Class U. -/
def classU (f : Word → Word) (a b : Reg) (s : State) : State :=
  runI 1 [b] [a] s (fun s => .done (wr s a (f (rd s b))))
/-- Class X. -/
def classX (f : Word → Word) (a : Reg) (c : Option Reg) (s : State) : State :=
  runI (1 + optLen c) [srcI a c] [a] s (fun s => .done (wr s a (f (rd s (srcI a c)))))

/-! ## The meanings -/

def execMov (a b : Reg) (s : State) : Out := .next (classU (fun x => x) a b s)
/-- R106. -/
def execLi (a : Reg) (i : Imm) (s : State) : Out := .next (runI (1 + i.n) [] [a] s (fun s => .done (wr s a (immW i))))
def execSel (a b c m : Reg) (s : State) : Out :=
  .next (runI 2 [b, c, m] [a] s (fun s => .done (wr s a (if rd s m ≠ 0 then rd s b else rd s c))))
def execAdd (a b : Reg) (c : Option Reg) (s : State) : Out := .next (classR (· + ·) a b c s)
def execAddImm (a : Reg) (c : Option Reg) (i : Imm) (s : State) : Out := .next (classI (· + ·) a c i s)
def execSub (a b : Reg) (c : Option Reg) (s : State) : Out := .next (classR (· - ·) a b c s)
def execMul (a b : Reg) (c : Option Reg) (s : State) : Out := .next (classR (· * ·) a b c s)
def execMulh (a b : Reg) (c : Option Reg) (s : State) : Out := .next (classR opMulh a b c s)
def execMulhu (a b : Reg) (c : Option Reg) (s : State) : Out := .next (classR opMulhu a b c s)
def execDiv (a b : Reg) (c : Option Reg) (s : State) : Out := .next (classR opDiv a b c s)
def execDivu (a b : Reg) (c : Option Reg) (s : State) : Out := .next (classR opDivu a b c s)
def execRem (a b : Reg) (c : Option Reg) (s : State) : Out := .next (classR opRem a b c s)
def execRemu (a b : Reg) (c : Option Reg) (s : State) : Out := .next (classR opRemu a b c s)
def execAnd (a b : Reg) (c : Option Reg) (s : State) : Out := .next (classR (· &&& ·) a b c s)
def execAndImm (a : Reg) (c : Option Reg) (i : Imm) (s : State) : Out := .next (classI (· &&& ·) a c i s)
def execOr (a b : Reg) (c : Option Reg) (s : State) : Out := .next (classR (· ||| ·) a b c s)
def execOrImm (a : Reg) (c : Option Reg) (i : Imm) (s : State) : Out := .next (classI (· ||| ·) a c i s)
def execXor (a b : Reg) (c : Option Reg) (s : State) : Out := .next (classR (· ^^^ ·) a b c s)
def execXorImm (a : Reg) (c : Option Reg) (i : Imm) (s : State) : Out := .next (classI (· ^^^ ·) a c i s)
def execSll (a b : Reg) (c : Option Reg) (s : State) : Out := .next (classR opSll a b c s)
def execSrl (a b : Reg) (c : Option Reg) (s : State) : Out := .next (classR opSrl a b c s)
def execSra (a b : Reg) (c : Option Reg) (s : State) : Out := .next (classR opSra a b c s)
def execRol (a b : Reg) (c : Option Reg) (s : State) : Out := .next (classR opRol a b c s)
def execSllImm (a : Reg) (c : Option Reg) (i : Imm) (s : State) : Out := .next (classI opSll a c i s)
def execSrlImm (a : Reg) (c : Option Reg) (i : Imm) (s : State) : Out := .next (classI opSrl a c i s)
def execSraImm (a : Reg) (c : Option Reg) (i : Imm) (s : State) : Out := .next (classI opSra a c i s)
def execRor (a b : Reg) (c : Option Reg) (s : State) : Out := .next (classR opRor a b c s)
def execRorImm (a : Reg) (c : Option Reg) (i : Imm) (s : State) : Out := .next (classI opRor a c i s)
def execSlt (a b : Reg) (c : Option Reg) (s : State) : Out := .next (classR opSlt a b c s)
def execSltu (a b : Reg) (c : Option Reg) (s : State) : Out := .next (classR opSltu a b c s)
def execSeq (a b : Reg) (c : Option Reg) (s : State) : Out := .next (classR opSeq a b c s)
def execSne (a b : Reg) (c : Option Reg) (s : State) : Out := .next (classR opSne a b c s)
def execSltImm (a : Reg) (c : Option Reg) (i : Imm) (s : State) : Out := .next (classI opSlt a c i s)
def execClz (a b : Reg) (s : State) : Out := .next (classU opClz a b s)
def execCtz (a b : Reg) (s : State) : Out := .next (classU opCtz a b s)
def execPopc (a b : Reg) (s : State) : Out := .next (classU opPopc a b s)
def execBext (a b : Reg) (c : Option Reg) (s : State) : Out := .next (classR opBext a b c s)
def execBdep (a b : Reg) (c : Option Reg) (s : State) : Out := .next (classR opBdep a b c s)
def execSext (w : Width) (a : Reg) (c : Option Reg) (s : State) : Out := .next (classX (opSext w) a c s)
def execZext (w : Width) (a : Reg) (c : Option Reg) (s : State) : Out := .next (classX (opZext w) a c s)

end Sys2Proof.Machine
end

