-- ==== Sys2Proof/Machine/Control.lean ====
section
/-!
DEFINITION. Control instructions: `nop`, `trap`, `brk` (R109, R317), branches and jumps (R107, R108), `tret` (R305), the
CSR instructions (R306, R307), and the illegal instruction (R33, R35).
-/
namespace Sys2Proof.Machine
open Sys2Proof

/-! ## Message-class slots (R72) -/

/-- The entry address of a message-class slot. -/
def classEntry (x : Core) (now n : Nat) : Word :=
  match n with
  | 27 => wakevAt x now
  | 28 => x.xlatv
  | 29 => x.shotv
  | 30 => x.rclv
  | _ => x.sysv
def classQ (x : Core) (n : Nat) : List Mail := (fget x.classQ n).getD []

/-- R72, R79: a message-class slot starts at its entry. -/
def startClass (s : State) (c n : Nat) (m : Mail) : State :=
  modCore s c (fun x => setSlot x n
    { Thread.reset n with
        st := .live, readyAt := s.cycle + 1, pc := classEntry x s.cycle n
        g := (((Vector.replicate 32 0).set 1 m.w0).set 2 m.w1).set 3 m.sender
        launch := if n = 27 then x.launch else none, home := ⟨c, n⟩
        rupdOut := (slotOf x n).rupdOut, stmOut := (slotOf x n).stmOut })

/-- R72: whether a class message can start its slot now: the slot is idle, its last `quit` complete (R71, R95). A WAKE waits while
`wakev` is zero; R361: the others wait while new handlers are to be installed. -/
def classReady (s : State) (x : Core) (n : Nat) : Bool :=
  !(s.fw.instAt && decide (28 ≤ n)) && (slotOf x n).st == .idle && decide ((slotOf x n).readyAt ≤ s.cycle)
    && (n != 27 || wakevAt x s.cycle != 0)

/-- R72: a class message at its core starts the slot or waits behind earlier ones. -/
def classArrive (s : State) (c n : Nat) (m : Mail) : State :=
  let x := core s c
  if classReady s x n ∧ classQ x n = [] then startClass s c n m
  else setCore s c { x with classQ := fset x.classQ n (classQ x n ++ [m]) }

/-- R72: the next message of a class starts its slot, if it can. -/
def classNext (s : State) (c n : Nat) : State :=
  let x := core s c
  match classQ x n with
  | m :: l => if classReady s x n then startClass (setCore s c { x with classQ := fset x.classQ n l }) c n m else s
  | [] => s

/-! ## Page 0 (R109) -/

def execNop (s : State) : Out := .next (runI 1 [] [] s .done)
def execTrap (i : Imm) (s : State) : Out := .next (runI (1 + i.n) [] [] s (fun s => .trap s 0x11 (immW i)))

/-- R317: `brk` under BKH halts slots 0 to 26 and posts a SYS message to the core's own slot 31. -/
def debugHalt (s : State) : State :=
  let pc := (me s).pc
  let s := modMyCore s (fun x => { x with hltd := true })
  let s := modMe s (fun t => { t with wait := .none })
  post s (.sysMessage ⟨s.cur.core,
    ⟨BitVec.ofNat 64 (1 + 256 * s.cur.slot), pc, unitWord s.fab.modnum s.cur.core⟩, none, []⟩)
def execBrk (i : Imm) (s : State) : Out :=
  .next (runI (1 + i.n) [] [] s (fun s =>
    if (csrSeen s 0x180).getLsbD 0 then .left (debugHalt s) else .trap s 0x10 (immW i)))

/-! ## Branches and jumps (R107, R108) -/

def branch (len : Nat) (srcs : List Reg) (o : Imm) (cond : State → Bool) (s : State) : State :=
  runI len srcs [] s (fun s => if cond s then .jump s (relTarget s o.v) else .done s)
def branch1 (p : Word → Bool) (a : Reg) (o : Imm) (s : State) : State :=
  branch (1 + o.n) [a] o (fun s => p (rd s a)) s
/-- Without XR the second register is g0. -/
def branch2 (p : Word → Word → Bool) (a : Reg) (c : Option Reg) (o : Imm) (s : State) : State :=
  branch (1 + optLen c + o.n) [a, c.getD 0] o (fun s => p (rd s a) (rd s (c.getD 0))) s

def execBz (a : Reg) (o : Imm) (s : State) : Out := .next (branch1 (· == 0) a o s)
def execBnz (a : Reg) (o : Imm) (s : State) : Out := .next (branch1 (· != 0) a o s)
def execBeq (a : Reg) (c : Option Reg) (o : Imm) (s : State) : Out := .next (branch2 (· == ·) a c o s)
def execBne (a : Reg) (c : Option Reg) (o : Imm) (s : State) : Out := .next (branch2 (· != ·) a c o s)
def execBlt (a : Reg) (c : Option Reg) (o : Imm) (s : State) : Out := .next (branch2 BitVec.slt a c o s)
def execBge (a : Reg) (c : Option Reg) (o : Imm) (s : State) : Out := .next (branch2 (fun x y => !x.slt y) a c o s)
def execBltu (a : Reg) (c : Option Reg) (o : Imm) (s : State) : Out := .next (branch2 BitVec.ult a c o s)
def execBgeu (a : Reg) (c : Option Reg) (o : Imm) (s : State) : Out := .next (branch2 (fun x y => !x.ult y) a c o s)
def execJ (o : Imm) (s : State) : Out := .next (runI (1 + o.n) [] [] s (fun s => .jump s (relTarget s o.v)))
def execJl (o : Imm) (s : State) : Out :=
  .next (runI (1 + o.n) [] [] s (fun s => .jump (wr s 28 (nextPc s (1 + o.n))) (relTarget s o.v)))
def execJr (a : Reg) (s : State) : Out :=
  .next (runI 1 [a] [] s (fun s =>
    if (rd s a).getLsbD 0 then .trap s 0x02 (rd s a) else .jump s (rd s a)))
/-- The target is read before the link is written. -/
def execJlr (a b : Reg) (s : State) : Out :=
  .next (runI 1 [b] [a] s (fun s =>
    if (rd s b).getLsbD 0 then .trap s 0x02 (rd s b) else .jump (wr s a (nextPc s 1)) (rd s b)))

/-! ## CSRs (R306, R307) -/

/-- R307: the read and the write of `csrs` and `csrc` are one step, so that they read what earlier writes leave. A CSR
instruction of the running thread; a firmware CSR without FW takes trap 0x0F. -/
def csrI (i : Imm) (srcs dsts : List Reg) (s : State) (k : State → Nat → State) : State :=
  let n := i.v.toNat
  runI (2 + i.n) srcs dsts s (fun s =>
    if csrIsFw n && !(me s).fw then .trap s 0x0F (BitVec.ofNat 64 n) else .done (k s n))
/-- R307: a CSR written; the siblings see a core CSR as it was until seven cycles have passed. -/
def csrPut (s : State) (n : Nat) (x : Word) : State :=
  let old := csrVal s n
  let s := if csrIsCore n then modMyCore s (fun c => keepOld c s.cycle n old) else s
  modMyCore (modMe s (fun t => csrSetThr t n x)) (fun c => csrSetCore c n x)

def execCsrr (d : Reg) (i : Imm) (s : State) : Out := .next (csrI i [] [d] s (fun s n => wr s d (csrSeen s n)))
def execCsrw (a : Reg) (i : Imm) (s : State) : Out := .next (csrI i [a] [] s (fun s n => csrPut s n (rd s a)))
def execCsrs (a : Reg) (i : Imm) (s : State) : Out :=
  .next (csrI i [a] [] s (fun s n => csrPut s n (csrVal s n ||| rd s a)))
def execCsrc (a : Reg) (i : Imm) (s : State) : Out :=
  .next (csrI i [a] [] s (fun s n => csrPut s n (csrVal s n &&& ~~~(rd s a))))

/-- R305: return from a trap. -/
def execTret (s : State) : Out :=
  .next (runI 2 [] [] s (fun s =>
    if (me s).th then .jump (modMe s (fun t => { t with th := false })) (me s).tepc
    else .trap s 0x01 (me s).pc))

/-- R33, R35: words that decode to no instruction: trap 0x01 at the failing word; no queue is named. -/
def illegalAt (s : State) (off : Nat) : State := trapMe s 0x01 ((me s).pc + BitVec.ofNat 64 (2 * off))
def execIllegalInstruction (s : State) : Out :=
  match s.ev with
  | .illegalInstruction off => .next (illegalAt s off)
  | _ => .next s

end Sys2Proof.Machine
end

