-- ==== Sys2Proof/WellFormed.lean ====
section
/-!
DEFINITION. The checks of R35 on an instruction as syntax: immediates in the range their words hold, and the register
numbers, counts and modifiers that the encoding tables allow. An event carries no fields.
-/
namespace Sys2Proof

/-- R8: `v` fits `k` bits of two's complement. -/
def fitsBits (v : Int) (k : Nat) : Bool := decide (-(2 ^ (k - 1) : Nat) ≤ v) && decide (v < (2 ^ (k - 1) : Nat))
/-- An immediate with field b and at most `hi` XI words. -/
def Imm.okB (i : Imm) (hi : Nat) : Bool := decide (i.n ≤ hi) && fitsBits i.v (5 + 10 * i.n)
/-- R37 class J: an offset with fields a and b. -/
def Imm.okJ (i : Imm) : Bool := decide (i.n ≤ 4) && fitsBits i.v (10 + 10 * i.n)
/-- An immediate of `lo` to `hi` XI words alone. -/
def Imm.okX (i : Imm) (lo hi : Nat) : Bool :=
  decide (lo ≤ i.n) && decide (i.n ≤ hi) && if i.n = 0 then i.v == 0 else fitsBits i.v (10 * i.n)
/-- R33: an XR word leaves room for three XI words. -/
def Imm.okC (i : Imm) (c : Option Reg) : Bool := i.okB (if c.isSome then 3 else 4)
/-- R103: a shift amount. -/
def Imm.okSh (i : Imm) (c : Option Reg) : Bool := i.okC c && decide (0 ≤ i.v) && decide (i.v ≤ 63)
/-- R37: a destination field. -/
def dstOk (a : Reg) : Bool := a != 30
def within (a : Reg) (lo hi : Nat) : Bool := decide (lo ≤ a.val) && decide (a.val ≤ hi)
/-- R105: widths of `sext` and `zext`. -/
def extOk : Width → Bool
  | .d => false
  | _ => true
/-- R191: the arith layout. -/
def VArith.ok (q : VArith) : Bool := if q.t = .i32 then q.rm == .rne else !q.u
def VSrc.isXr : VSrc → Bool
  | .short => false
  | _ => true
def VFmt.isInt : VFmt → Bool
  | .int8 | .int16 | .int32 => true
  | _ => false
/-- R306: a CSR number that the tables list, in the 0 or 1 XI word of R307. -/
def csrOk (i : Imm) : Bool :=
  i.okB 1 && ((decide (0 ≤ i.v) && decide (i.v ≤ 8)) || (decide (0x100 ≤ i.v) && decide (i.v ≤ 0x109))
    || (decide (0x180 ≤ i.v) && decide (i.v ≤ 0x185)) || (decide (0x200 ≤ i.v) && decide (i.v ≤ 0x203)))

/-- Whether a term of the syntax is an instruction of the spec. -/
def Instr.wf : Instr → Bool
  | .trap i | .brk i => i.okB 4
  | .mov a _ | .clz a _ | .ctz a _ | .popc a _ | .jlr a _ => dstOk a
  | .li a i => dstOk a && i.okB 4
  | .sel a _ _ _ => dstOk a
  | .add a _ _ | .sub a _ _ | .mul a _ _ | .mulh a _ _ | .mulhu a _ _ | .div a _ _ | .divu a _ _ | .rem a _ _
  | .remu a _ _ | .and a _ _ | .or a _ _ | .xor a _ _ | .sll a _ _ | .srl a _ _ | .sra a _ _ | .rol a _ _
  | .ror a _ _ | .slt a _ _ | .sltu a _ _ | .seq a _ _ | .sne a _ _ | .bext a _ _ | .bdep a _ _ => dstOk a
  | .addImm a c i | .andImm a c i | .orImm a c i | .xorImm a c i | .sltImm a c i => dstOk a && i.okC c
  | .sllImm a c i | .srlImm a c i | .sraImm a c i | .rorImm a c i => dstOk a && i.okSh c
  | .bz _ o | .bnz _ o => o.okB 4
  | .beq _ c o | .bne _ c o | .blt _ c o | .bge _ c o | .bltu _ c o | .bgeu _ c o => o.okC c
  | .j o | .jl o => o.okJ
  | .sext w a _ | .zext w a _ => extOk w && dstOk a
  | .ldgD a _ i | .ldgW a _ i | .ldgH a _ i | .ldgB a _ i => dstOk a && i.okX 0 4
  | .stgD _ _ i | .stgW _ _ i | .stgH _ _ i | .stgB _ _ i => i.okX 0 4
  | .ldfe a _ i | .ldff a _ i | .lrq a _ i => dstOk a && i.okX 0 3
  | .stfe _ _ i | .stff _ _ i | .scq _ _ i => i.okX 0 3
  | .ldx a _ i => within a 1 26 && i.okX 0 3
  | .fes _ _ i => i.okX 0 3
  | .amo op a _ _ m xs uns =>
    dstOk a && (op == .cas || m == 0) && (!uns || (xs.isSome && (op == .min || op == .max)))
  | .amofAdd a _ _ _ => dstOk a
  | .rupd a _ i xs => within a 1 24 && i.okX 1 3 && (xs.isNone || decide (i.n ≤ 2))
  | .chld a _ c n | .chldFail a _ c n => within a 1 26 && decide (1 ≤ n) && decide (n ≤ 6) && decide (c.val + n ≤ 28)
  | .ldext _ a _ i => dstOk a && i.okX 0 3
  | .stext _ _ _ i => i.okX 0 3
  | .ld _ _ a _ i => dstOk a && i.okX 0 3
  | .st _ _ _ _ i => i.okX 0 3
  | .ldm _ a _ i => dstOk a && i.okX 0 3
  | .stm _ _ _ i => i.okX 0 3
  | .rpop a _ | .rpush a _ | .qcfg a _ | .evct a _ _ | .rcll a _ _ => dstOk a
  | .start a b i => dstOk a && within b 1 24 && i.okX 1 3
  | .spawn a b i => dstOk a && within b 1 24 && i.okX 2 3
  | .spawnReg a b _ i => dstOk a && within b 1 24 && i.okX 1 2
  | .park a _ | .migr a _ | .rolq a _ => dstOk a
  | .sendm a b _ => dstOk a && within b 1 26
  | .wfm a => within a 1 25
  | .rolqImm a i => dstOk a && i.okX 2 2 && decide (0 ≤ i.v) && decide (i.v ≤ 0xFFFF)
  | .vadd q _ _ _ _ | .vsub q _ _ _ _ | .vmul q _ _ _ _ => q.ok
  | .vfma q _ _ _ x _ => q.ok && x.isXr
  | .vmin q _ _ _ _ | .vmax q _ _ _ _ => q.ok && q.rm == .rne && !q.sat
  | .vabs q _ _ _ | .vneg q _ _ _ => q.ok && q.rm == .rne && !q.u
  | .vcmp cc t u _ _ _ x => x.isXr && (cc != .uo || t != .i32) && (t == .i32 || !u)
  | .vsel _ _ _ x => x.isXr
  | .vrsum q d _ _ => q.ok && q.rm == .rne && dstOk d
  | .vrmax q d _ _ | .vrmin q d _ _ => q.ok && q.rm == .rne && !q.sat && dstOk d
  | .vext d _ _ => dstOk d
  | .vcvt _ _ _ _ _ df du sf su => (df.isInt || !du) && (sf.isInt || !su)
  | .vquant _ m _ _ c => decide (2 ≤ m) && decide (m ≤ 8) && decide (c.val < 30)
  | .vdeq t m _ _ _ => decide (2 ≤ m) && decide (m ≤ 8) && (t == .f32 || t == .bf16)
  | .vscale _ m d _ => decide (2 ≤ m) && decide (m ≤ 8) && dstOk d
  | .vcmpr _ _ c => dstOk c
  | .vexp2 t .. | .vlog2 t .. | .vrcp t .. | .vrsqrt t .. | .vtanh t .. => t != .i32
  | .vld _ w u _ _ _ i => (w == .b || w == .h || (w == .w && !u)) && i.okX 0 3
  | .vst _ w _ _ _ i => w != .d && i.okX 0 3
  | .pget d _ => dstOk d
  | .mxfmt d _ | .mxz d _ | .mxcnt d _ | .mxthr d _ | .jwait d _ | .jtest d _ | .jcanc d _ | .mintT d _ => dstOk d
  | .mxm a b | .mxdrn a b | .cpy a b | .cpyo a b | .mint a b => dstOk a && within b 1 24
  | .mxms a b _ => dstOk a && within b 1 24
  | .mxg a b => dstOk a && within b 1 23
  | .sopen _ b => within b 1 26
  | .sisect x y | .sunion x y | .sdiff x y => x != y
  | .smerge x mask => mask != 0 && mask.val / 2 ^ x.val % 2 == 0
  | .snext d _ => within d 1 26
  | .scnt d _ | .scntA d _ _ | .sclose d _ => dstOk d
  | .ldnn d b => dstOk d && within b 1 25
  | .stv d _ _ | .dlv d _ _ => dstOk d
  | .ixver d _ | .ixsnap d _ => within d 1 26
  | .barv d _ | .barw d _ | .barwT d _ | .bart d _ _ | .sealq d | .sealw d | .ivn d | .ivnRb d => dstOk d
  | .csrr d i => dstOk d && csrOk i
  | .csrw _ i | .csrs _ i | .csrc _ i => csrOk i
  | .dbgi a _ _ => within a 1 26
  | .tlbw a b _ => dstOk a && within b 1 26
  | .tlbi a _ _ | .tlbiAll a _ | .tlbp a _ => dstOk a
  | _ => true

end Sys2Proof
end

