-- ==== Sys2Proof/Decode.lean ====
section
/-!
DEFINITION. Decoding (R8, R32 to R40, R78, R139, R165, R178, R182, R190 to R192, R225, R237, R250, R264, R280, R299,
R307): words to prefixes and base word, then to an instruction, or the offset in words of the first word that breaks a
rule; and the encoder, from the same tables.
-/
namespace Sys2Proof

/-- R32, R33: the prefixes and the base word of an instruction: the payload of XP, XS and XR where they stand, the
payloads of the XI words in fetch order, and the base word's opcode and fields. -/
structure Parts where
  xp  : Option Nat
  xs  : Option Nat
  xr  : Option Nat
  xis : List Nat
  op  : Nat
  a   : Nat
  b   : Nat
  deriving DecidableEq, Repr, Inhabited

/-- What reading words gives: an instruction with its length in words, the offset of the word at which decoding or
checking failed, or the need of a further word. -/
inductive DecRes where
  | ok (i : Instr) (len : Nat)
  | bad (off : Nat)
  | more
  deriving DecidableEq, Repr

/-! ## Places of the words (R35) -/

def Parts.oXs (p : Parts) : Nat := if p.xp.isSome then 1 else 0
def Parts.oXr (p : Parts) : Nat := p.oXs + if p.xs.isSome then 1 else 0
def Parts.oXi (p : Parts) : Nat := p.oXr + if p.xr.isSome then 1 else 0
def Parts.oBase (p : Parts) : Nat := p.oXi + p.xis.length
def Parts.len (p : Parts) : Nat := p.oBase + 1
def Parts.page (p : Parts) : Nat := (p.xp.getD 0) / 64
def Parts.sec (p : Parts) : Nat := (p.xp.getD 0) % 64
/-- R32: the third register and the modifier. -/
def Parts.c (p : Parts) : Nat := (p.xr.getD 0) / 32
def Parts.m (p : Parts) : Nat := (p.xr.getD 0) % 32
def Parts.scope (p : Parts) : Nat := (p.xs.getD 0) / 128
def Parts.qual (p : Parts) : Nat := (p.xs.getD 0) % 128

/-- R33: the words read in order, with what has been recorded, the rank of the last prefix (plus 1; 0 for none) and the
count of prefixes. -/
def scanWords (p : Parts) (last n : Nat) : List HWord → Except (Option Nat) Parts
  | [] => .error none
  | w :: ws =>
    let o := w.toNat / 1024
    let y := w.toNat % 1024
    if o < 0x3C then .ok { p with op := o, a := y / 32, b := y % 32 }
    else if n = 4 then .error (some n)
    else if o = 0x3E then
      if last = 0 then scanWords { p with xp := some y } 1 (n + 1) ws else .error (some n)
    else if o = 0x3F then
      if last < 2 then scanWords { p with xs := some y } 2 (n + 1) ws else .error (some n)
    else if o = 0x3D then
      if last < 3 then scanWords { p with xr := some y } 3 (n + 1) ws else .error (some n)
    else scanWords { p with xis := p.xis ++ [y] } 4 (n + 1) ws

def Parts.empty : Parts := ⟨Option.none, Option.none, Option.none, [], 0, 0, 0⟩

/-! ## Immediates (R8) -/

/-- The value of `k`-bit two's complement. -/
def sextN (x k : Nat) : Int := if 2 * x < 2 ^ k then (x : Int) else (x : Int) - (2 ^ k : Nat)
/-- The concatenation of XI payloads, the first the most significant. -/
def catXis (l : List Nat) : Nat := l.foldl (fun acc y => acc * 1024 + y) 0
/-- An immediate of 5 + 10n bits with field b. -/
def Parts.immB (p : Parts) : Imm := ⟨p.xis.length, sextN (catXis p.xis * 32 + p.b) (5 + 10 * p.xis.length)⟩
/-- An offset of 10 + 10n bits with fields a and b (R37 class J). -/
def Parts.immJ (p : Parts) : Imm :=
  ⟨p.xis.length, sextN (catXis p.xis * 1024 + p.a * 32 + p.b) (10 + 10 * p.xis.length)⟩
/-- An immediate of 10n bits from the XI words alone; 0 with none. -/
def Parts.immX (p : Parts) : Imm := ⟨p.xis.length, if p.xis = [] then 0 else sextN (catXis p.xis) (10 * p.xis.length)⟩

/-- The `n` payloads of a number's low 10n bits, the most significant first. -/
def xiDigits : Nat → Nat → List Nat
  | 0, _ => []
  | n + 1, x => xiDigits n (x / 1024) ++ [x % 1024]
/-- The low bits of an immediate of `k` bits, as a number. -/
def lowBits (v : Int) (k : Nat) : Nat := (v % (2 ^ k : Nat)).toNat

/-! ## Checks (R35) -/

/-- Whether a form takes an XR word. -/
inductive XrUse where
  | no | opt | req
  deriving DecidableEq, Repr

/-- The first failing check in fetch order. -/
def firstBad (l : List (Bool × Nat)) : Option Nat :=
  l.foldl (fun acc e => if e.1 then acc else match acc with
    | some o => some (min o e.2)
    | none => some e.2) none

/-- The checks of a form: XS accepted, its use of XR, the least and most XI words, and its own checks with the offset of
the first word that holds part of the field. A required word that is missing is reported at the base word (log entry 64). -/
def Parts.form (p : Parts) (xs : Bool) (xr : XrUse) (lo hi : Nat) (l : List (Bool × Nat)) (i : Instr) :
    Except Nat Instr :=
  match firstBad ((p.xs.isNone || (xs && p.scope < 6), p.oXs)
      :: (p.xr.isNone || xr != .no, p.oXr) :: (p.xr.isSome || xr != .req, p.oBase)
      :: (p.xis.length ≤ hi, p.oXi + hi) :: (lo ≤ p.xis.length, p.oBase) :: l) with
  | none => .ok i
  | some o => .error o

/-- The word that holds the first part of an immediate. -/
def Parts.oImm (p : Parts) : Nat := if p.xis = [] then p.oBase else p.oXi

def reg (n : Nat) : Reg := Fin.ofNat 32 n
def vreg (n : Nat) : VReg := Fin.ofNat 8 n
def preg (n : Nat) : PReg := Fin.ofNat 4 n
/-- The XR word's register where it stands. -/
def Parts.cOpt (p : Parts) : Option Reg := if p.xr.isSome then some (reg p.c) else none
def widthOf : Nat → Width
  | 0 => .b
  | 1 => .h
  | 2 => .w
  | _ => .d
def widthNum : Width → Nat
  | .b => 0
  | .h => 1
  | .w => 2
  | .d => 3
def spaceOf : Nat → Space
  | 0 => .w
  | 1 => .a
  | _ => .c
def spaceNum : Space → Nat
  | .w => 0
  | .a => 1
  | .c => 2
def scopeOf : Nat → Scope
  | 0 => .dflt
  | 1 => .core
  | 2 => .cl
  | 3 => .dev
  | 4 => .dom
  | _ => .sys
def scopeNum : Scope → Nat
  | .dflt => 0
  | .core => 1
  | .cl => 2
  | .dev => 3
  | .dom => 4
  | .sys => 5
def Parts.xsOpt (p : Parts) : Option Scope := p.xs.map (fun y => scopeOf (y / 128))
def amoOf : Nat → AmoOp
  | 0 => .add
  | 1 => .and
  | 2 => .or
  | 3 => .xor
  | 4 => .min
  | 5 => .max
  | 6 => .swap
  | _ => .cas
def amoNum : AmoOp → Nat
  | .add => 0
  | .and => 1
  | .or => 2
  | .xor => 3
  | .min => 4
  | .max => 5
  | .swap => 6
  | .cas => 7
def vtypeOf : Nat → VType
  | 0 => .i32
  | 1 => .f32
  | 2 => .bf16
  | _ => .f16
def vtypeNum : VType → Nat
  | .i32 => 0
  | .f32 => 1
  | .bf16 => 2
  | .f16 => 3
def rndOf : Nat → Rnd
  | 0 => .rne
  | 1 => .rtz
  | 2 => .rdn
  | _ => .rup
def rndNum : Rnd → Nat
  | .rne => 0
  | .rtz => 1
  | .rdn => 2
  | .rup => 3
def condOf : Nat → VCond
  | 0 => .eq
  | 1 => .ne
  | 2 => .lt
  | 3 => .le
  | 4 => .gt
  | 5 => .ge
  | _ => .uo
def condNum : VCond → Nat
  | .eq => 0
  | .ne => 1
  | .lt => 2
  | .le => 3
  | .gt => 4
  | .ge => 5
  | .uo => 6
/-- R118, R198: the format codes of `vcvt`. -/
def vfmtOf : Nat → VFmt
  | 0 => .int8
  | 1 => .int16
  | 2 => .int32
  | 4 => .fp32
  | 5 => .bf16
  | _ => .fp16
def vfmtNum : VFmt → Nat
  | .int8 => 0
  | .int16 => 1
  | .int32 => 2
  | .fp32 => 4
  | .bf16 => 5
  | .fp16 => 6
def arithOf (sec : Nat) : VArith := ⟨vtypeOf (sec / 16), rndOf (sec / 4 % 4), sec / 2 % 2 == 1, sec % 2 == 1⟩
def bnum (b : Bool) : Nat := if b then 1 else 0
def arithNum (q : VArith) : Nat := 16 * vtypeNum q.t + 4 * rndNum q.rm + 2 * bnum q.sat + bnum q.u

/-! ## The pages -/

def page0 (p : Parts) : Except Nat Instr :=
  let a := reg p.a
  let b := reg p.b
  let c := p.cOpt
  let bs := p.oBase
  let dst : Bool × Nat := (p.a != 30, bs)
  let m0 : Bool × Nat := (p.m == 0, p.oXr)
  let r (f : Reg → Reg → Option Reg → Instr) := p.form false .opt 0 0 [dst, m0] (f a b c)
  let im (f : Reg → Option Reg → Imm → Instr) := p.form false .opt 0 4 [dst, m0] (f a c p.immB)
  let sh (f : Reg → Option Reg → Imm → Instr) :=
    p.form false .opt 0 4 [dst, m0, (0 ≤ p.immB.v && p.immB.v ≤ 63, p.oImm)] (f a c p.immB)
  let u (f : Reg → Reg → Instr) := p.form false .no 0 0 [dst] (f a b)
  let br (f : Reg → Option Reg → Imm → Instr) := p.form false .opt 0 4 [m0] (f a c p.immB)
  let ld (f : Reg → Reg → Imm → Instr) := p.form false .no 0 4 [dst] (f a b p.immX)
  let st (f : Reg → Reg → Imm → Instr) := p.form false .no 0 4 [] (f a b p.immX)
  match p.op with
  | 0x00 => match p.a with
    | 0 => p.form false .no 0 0 [(p.b == 0, bs)] .nop
    | 1 => p.form false .no 0 4 [] (.trap p.immB)
    | 2 => p.form false .no 0 4 [] (.brk p.immB)
    | _ => p.form false .no 0 4 [(false, bs)] .nop
  | 0x01 => u .mov
  | 0x02 => p.form false .no 0 4 [dst] (.li a p.immB)
  | 0x03 => p.form false .req 0 0 [dst] (.sel a b (reg p.c) (reg p.m))
  | 0x04 => r .add
  | 0x05 => im .addImm
  | 0x06 => r .sub
  | 0x07 => r .mul
  | 0x08 => r .mulh
  | 0x09 => r .mulhu
  | 0x0A => r .div
  | 0x0B => r .divu
  | 0x0C => r .rem
  | 0x0D => r .remu
  | 0x0E => r .and
  | 0x0F => im .andImm
  | 0x10 => r .or
  | 0x11 => im .orImm
  | 0x12 => r .xor
  | 0x13 => im .xorImm
  | 0x14 => r .sll
  | 0x15 => r .srl
  | 0x16 => r .sra
  | 0x17 => r .rol
  | 0x18 => p.form false .no 0 4 [] (.bz a p.immB)
  | 0x19 => br .beq
  | 0x1A => p.form false .no 0 4 [] (.bnz a p.immB)
  | 0x1B => br .bne
  | 0x1C => br .blt
  | 0x1D => br .bge
  | 0x1E => br .bltu
  | 0x1F => br .bgeu
  | 0x20 => p.form false .no 0 4 [] (.j p.immJ)
  | 0x21 => p.form false .no 0 4 [] (.jl p.immJ)
  | 0x22 => p.form false .no 0 0 [(p.b == 0, bs)] (.jr a)
  | 0x23 => u .jlr
  | 0x24 => r .slt
  | 0x25 => r .sltu
  | 0x26 => r .seq
  | 0x27 => r .sne
  | 0x28 => ld .ldgD
  | 0x29 => ld .ldgW
  | 0x2A => ld .ldgH
  | 0x2B => ld .ldgB
  | 0x2C => st .stgD
  | 0x2D => st .stgW
  | 0x2E => st .stgH
  | 0x2F => st .stgB
  | 0x30 => sh .sllImm
  | 0x31 => sh .srlImm
  | 0x32 => sh .sraImm
  | 0x33 => r .ror
  | 0x34 => sh .rorImm
  | 0x35 => u .clz
  | 0x36 => u .ctz
  | 0x37 => u .popc
  | 0x38 => r .bext
  | 0x39 => r .bdep
  | 0x3A => p.form false .opt 0 0 [dst, m0, (p.b / 4 % 4 == 0 && p.b % 4 != 3, bs)]
      (if p.b / 16 = 0 then .sext (widthOf (p.b % 4)) a c else .zext (widthOf (p.b % 4)) a c)
  | 0x3B => im .sltImm
  | _ => .error bs

def page1 (p : Parts) : Except Nat Instr :=
  let a := reg p.a
  let b := reg p.b
  let c := reg p.c
  let bs := p.oBase
  let dst : Bool × Nat := (p.a != 30, bs)
  let pair : Bool × Nat := (1 ≤ p.a && p.a ≤ 26, bs)
  let s0 : Bool × Nat := (p.sec == 0, 0)
  let q0 : Bool × Nat := (p.qual == 0, p.oXs)
  let m0 : Bool × Nat := (p.m == 0, p.oXr)
  match p.op with
  | 0x00 => p.form false .no 0 3 [s0, dst] (.ldfe a b p.immX)
  | 0x01 => p.form false .no 0 3 [s0, dst] (.ldff a b p.immX)
  | 0x02 => p.form false .no 0 3 [s0] (.stfe a b p.immX)
  | 0x03 => p.form false .no 0 3 [s0] (.stff a b p.immX)
  | 0x04 => p.form false .no 0 3 [s0, pair] (.ldx a b p.immX)
  | 0x05 => p.form false .no 0 3 [s0, (p.a < 2, bs)] (.fes (p.a == 1) b p.immX)
  | 0x06 => p.form false .no 0 3 [s0, dst] (.lrq a b p.immX)
  | 0x07 => p.form false .no 0 3 [s0] (.scq a b p.immX)
  | 0x08 =>
    let o := amoOf (p.sec % 8)
    p.form true .req 0 0 [(p.sec < 8, 0), dst, (o == .cas || p.m == 0, p.oXr),
      (p.qual == 0 || (p.qual == 1 && (o == .min || o == .max)), p.oXs)]
      (.amo o a b c (reg p.m) p.xsOpt (p.qual == 1))
  | 0x09 => p.form true .req 0 0 [s0, dst, m0, q0] (.amofAdd a b c p.xsOpt)
  | 0x0A => p.form true .no 0 0 [s0, (p.qual < 2, p.oXs)]
      (if p.qual = 1 then .amoxAddI a b (scopeOf p.scope) else .amoxAdd a b p.xsOpt)
  | 0x0B => p.form true .no 1 3 [s0, q0, (1 ≤ p.a && p.a ≤ 24, bs)] (.rupd a b p.immX p.xsOpt)
  | 0x0C => p.form false .req 0 0
      [(p.sec < 2, 0), pair, (1 ≤ p.m && p.m ≤ 6, p.oXr), (p.c + p.m - 1 ≤ 27, p.oXr)]
      (if p.sec = 1 then .chldFail a b c p.m else .chld a b c p.m)
  | 0x0D => p.form false .no 0 3 [(p.sec < 4, 0), dst] (.ldext (widthOf p.sec) a b p.immX)
  | 0x0E => p.form false .no 0 3 [(p.sec < 4, 0)] (.stext (widthOf p.sec) a b p.immX)
  | _ => .error bs

def page2 (p : Parts) : Except Nat Instr :=
  let a := reg p.a
  let b := reg p.b
  let c := reg p.c
  let bs := p.oBase
  let dst : Bool × Nat := (p.a != 30, bs)
  let s0 : Bool × Nat := (p.sec == 0, 0)
  let m0 : Bool × Nat := (p.m == 0, p.oXr)
  let lsec : Bool × Nat := (p.sec % 4 != 3 && p.sec < 16, 0)
  let msec : Bool × Nat := (p.sec % 4 == 0 && p.sec < 16, 0)
  let w := widthOf (p.sec / 4)
  let n : Fin 4 := Fin.ofNat 4 p.b
  match p.op with
  | 0x00 => p.form false .no 0 3 [lsec, dst] (.ld (spaceOf (p.sec % 4)) w a b p.immX)
  | 0x01 => p.form false .no 0 3 [lsec] (.st (spaceOf (p.sec % 4)) w a b p.immX)
  | 0x02 => p.form false .no 0 3 [msec, dst] (.ldm w a b p.immX)
  | 0x03 => p.form false .no 0 3 [msec] (.stm w a b p.immX)
  | 0x04 => p.form false .no 0 0 [s0, (p.a == 0 && p.b == 0, bs)] .lbf
  | 0x05 => p.form false .no 0 0 [s0, (p.a < 4, bs)] (.rcfg (Fin.ofNat 4 p.a) b)
  | 0x06 => p.form false .no 0 0 [s0, dst, (p.b < 8 && (p.b < 4 || p.a == 0), bs)]
      (if p.b < 4 then .rpop a n else .rpopF n)
  | 0x07 => p.form false .no 0 0 [s0, dst, (p.b < 8 && (p.b < 4 || p.a == 0), bs)]
      (if p.b < 4 then .rpush a n else .rpushC n)
  | 0x08 => p.form false .no 0 0 [s0, dst] (.qcfg a b)
  | 0x09 => p.form false .no 0 0 [s0, (p.b == 0 || (p.b == 1 && p.a == 0), bs)]
      (if p.b = 0 then .qend a else .qendRet)
  | 0x0A => p.form false .req 0 0 [s0, dst, m0] (.evct a b c)
  | 0x0B => p.form false .req 0 0 [s0, dst, m0] (.rcll a b c)
  | _ => .error bs

def page3 (p : Parts) : Except Nat Instr :=
  let a := reg p.a
  let b := reg p.b
  let c := reg p.c
  let bs := p.oBase
  let dst : Bool × Nat := (p.a != 30, bs)
  let s0 : Bool × Nat := (p.sec == 0, 0)
  let m0 : Bool × Nat := (p.m == 0, p.oXr)
  let z : Bool × Nat := (p.a == 0 && p.b == 0, bs)
  let g (hi : Nat) : Bool × Nat := (1 ≤ p.b && p.b ≤ hi, bs)
  match p.op with
  | 0x00 => p.form false .no 1 3 [s0, dst, g 24] (.start a b p.immX)
  | 0x01 => if p.xr.isSome then p.form false .req 1 2 [s0, dst, g 24, m0] (.spawnReg a b c p.immX)
      else p.form false .no 2 3 [s0, dst, g 24] (.spawn a b p.immX)
  | 0x02 => p.form false .no 0 0 [s0, z] .quit
  | 0x03 => p.form false .no 0 0 [s0, dst] (.park a b)
  | 0x04 => p.form false .no 0 0 [s0, z] .yield
  | 0x05 => p.form false .req 0 0 [s0, dst, g 26, m0] (.sendm a b c)
  | 0x06 => p.form false .no 0 0 [s0, (1 ≤ p.a && p.a ≤ 25 && p.b == 0, bs)] (.wfm a)
  | 0x07 => p.form false .no 0 0 [s0, dst] (.migr a b)
  | 0x08 => if p.xr.isSome then p.form false .req 0 0 [s0, (p.c == 0 && p.m == 1, p.oXr), (p.b == 0, bs)] (.gsigRun a)
      else p.form false .no 0 0 [s0] (.gsig a b)
  | 0x09 => if p.xis = [] then p.form false .no 0 0 [s0, dst] (.rolq a b)
      else p.form false .no 2 2 [s0, dst, (p.b == 0, bs), (0 ≤ p.immX.v && p.immX.v ≤ 0xFFFF, p.oImm)] (.rolqImm a p.immX)
  | _ => .error bs

/-- R191: the arith layout. -/
def arithOk (sec : Nat) : Bool := (16 ≤ sec || sec / 4 % 4 == 0) && (sec < 16 || sec % 2 == 0)

def page4 (p : Parts) : Except Nat Instr :=
  let a := reg p.a
  let b := reg p.b
  let bs := p.oBase
  let d := vreg (p.a % 8)
  let pg := preg (p.a / 8)
  let vb := vreg (p.b % 8)
  let dst : Bool × Nat := (p.a != 30, bs)
  let b8 : Bool × Nat := (p.b < 8, bs)
  let a8 : Bool × Nat := (p.a < 8, bs)
  let s0 : Bool × Nat := (p.sec == 0, 0)
  let m0 : Bool × Nat := (p.m == 0, p.oXr)
  let ar : Bool × Nat := (arithOk p.sec, 0)
  let q := arithOf p.sec
  let gen := p.m / 16 == 1
  let cv : Bool × Nat := (gen || p.c < 8, p.oXr)
  let x : VSrc := if p.xr.isNone then .short else if gen then .gen (reg p.c) else .vec (vreg p.c)
  let mlo : Bool × Nat := (p.m % 16 == 0, p.oXr)
  let n : Fin 32 := Fin.ofNat 32 p.immX.v.toNat
  let lane : Bool × Nat := (0 ≤ p.immX.v && p.immX.v ≤ 31, p.oImm)
  let t := vtypeOf (p.sec / 16)
  let mm := p.sec / 2 % 8 + 2
  let bq : Bool × Nat := (p.sec % 2 == 0 && p.sec / 2 % 8 != 7, 0)
  let bin (f : VArith → PReg → VReg → VReg → VSrc → Instr) := p.form false .opt 0 0 [ar, b8, cv, mlo] (f q pg d vb x)
  let bin0 (f : VArith → PReg → VReg → VReg → VSrc → Instr) :=
    p.form false .opt 0 0 [ar, (p.sec / 2 % 8 == 0, 0), b8, cv, mlo] (f q pg d vb x)
  let un (f : VArith → PReg → VReg → VReg → Instr) :=
    p.form false .no 0 0 [ar, (p.sec / 4 % 4 == 0 && p.sec % 2 == 0, 0), b8] (f q pg d vb)
  let lg (f : PReg → VReg → VReg → VSrc → Instr) := p.form false .opt 0 0 [s0, b8, cv, mlo] (f pg d vb x)
  let ap (f : VType → Bool → PReg → VReg → VReg → Instr) :=
    p.form false .no 0 0 [(16 ≤ p.sec && p.sec / 4 % 4 == 0 && p.sec % 2 == 0, 0), b8] (f t q.sat pg d vb)
  let rd (sat : Bool) (f : VArith → Reg → PReg → VReg → Instr) :=
    p.form false .no 0 0 [ar, (p.sec / 4 % 4 == 0 && (sat || !q.sat), 0), dst] (f q a (preg (p.b / 8)) vb)
  match p.op with
  | 0x00 => bin .vadd
  | 0x01 => bin .vsub
  | 0x02 => bin .vmul
  | 0x03 => p.form false .req 0 0 [ar, b8, cv, (p.m / 8 % 2 == 0, p.oXr)] (.vfma q pg d vb x (vreg (p.m % 8)))
  | 0x04 => bin0 .vmin
  | 0x05 => bin0 .vmax
  | 0x06 => un .vabs
  | 0x07 => un .vneg
  | 0x08 => lg .vand
  | 0x09 => lg .vor
  | 0x0A => lg .vxor
  | 0x0B => p.form false .no 0 0 [s0, b8] (.vnot pg d vb)
  | 0x0C => lg .vshl
  | 0x0D => lg .vshr
  | 0x0E => lg .vsra
  | 0x0F => p.form false .no 0 0 [s0, b8] (.vmov pg d vb)
  | 0x10 => p.form false .req 0 0
      [(mm != 9 && (mm != 8 || 16 ≤ p.sec) && (p.sec < 16 || p.sec % 2 == 0), 0), (p.a / 4 % 2 == 0, bs), b8, cv, mlo]
      (.vcmp (condOf (p.sec / 2 % 8)) t (p.sec % 2 == 1) pg (preg (p.a % 4)) vb x)
  | 0x11 => p.form false .req 0 0 [s0, b8, cv, mlo] (.vsel pg d vb x)
  | 0x12 => rd true .vrsum
  | 0x13 => rd false .vrmax
  | 0x14 => rd false .vrmin
  | 0x15 => p.form false .req 0 0 [s0, b8, (p.c < 8, p.oXr), m0] (.vperm pg d vb (vreg p.c))
  | 0x16 => p.form false .no 0 0 [s0] (.vbcst pg d b)
  | 0x17 => p.form false .no 1 1 [s0, dst, b8, lane] (.vext a vb n)
  | 0x18 => p.form false .no 1 1 [s0, a8, lane] (.vins d b n)
  | 0x19 =>
    let ok (k : Nat) : Bool := k % 16 < 7 && k % 16 != 3 && (k < 16 || k % 16 < 3)
    p.form false .req 0 0 [(p.sec < 16 && p.sec % 2 == 0, 0), b8, (ok p.c && ok p.m, p.oXr)]
      (.vcvt q.rm q.sat pg d vb (vfmtOf (p.c % 16)) (p.c / 16 == 1) (vfmtOf (p.m % 16)) (p.m / 16 == 1))
  | 0x1A => p.form false .req 0 0 [bq, a8, b8, (p.c < 30, p.oXr), m0] (.vquant t mm d vb (reg p.c))
  | 0x1B => p.form false .req 0 0 [bq, (t == .f32 || t == .bf16, 0), a8, b8, m0] (.vdeq t mm d vb (reg p.c))
  | 0x1C => p.form false .no 0 0 [bq, dst, b8] (.vscale t mm a vb)
  | 0x1D => p.form false .req 0 0 [s0, a8, b8, (p.c != 30, p.oXr), m0] (.vcmpr d vb (reg p.c))
  | 0x1E => p.form false .req 0 0 [s0, a8, b8, m0] (.vexpd d vb (reg p.c))
  | 0x1F => ap .vexp2
  | 0x20 => ap .vlog2
  | 0x21 => ap .vrcp
  | 0x22 => ap .vrsqrt
  | 0x23 => ap .vtanh
  | 0x24 => p.form false .no 0 3
      [(p.sec < 32 && p.sec / 4 % 4 != 3 && p.sec % 4 != 3 && (p.sec < 16 || p.sec / 4 % 4 != 2), 0)]
      (.vld (spaceOf (p.sec % 4)) (widthOf (p.sec / 4 % 4)) (16 ≤ p.sec) pg d b p.immX)
  | 0x25 => p.form false .no 0 3 [(p.sec < 16 && p.sec / 4 != 3 && p.sec % 4 != 3, 0)]
      (.vst (spaceOf (p.sec % 4)) (widthOf (p.sec / 4)) pg d b p.immX)
  | 0x26 => p.form false .no 0 0 [s0, (p.a < 4, bs)] (.pset (preg p.a) b)
  | 0x27 => p.form false .no 0 0 [s0, dst, (p.b < 4, bs)] (.pget a (preg p.b))
  | _ => .error bs

def page5 (p : Parts) : Except Nat Instr :=
  let a := reg p.a
  let b := reg p.b
  let bs := p.oBase
  let dst : Bool × Nat := (p.a != 30, bs)
  let s0 : Bool × Nat := (p.sec == 0, 0)
  let g (hi : Nat) : Bool × Nat := (1 ≤ p.b && p.b ≤ hi, bs)
  let u (f : Reg → Reg → Instr) := p.form false .no 0 0 [s0, dst] (f a b)
  let k (hi : Nat) (f : Reg → Reg → Instr) := p.form false .no 0 0 [s0, dst, g hi] (f a b)
  match p.op with
  | 0x00 => u .mxfmt
  | 0x01 => u .mxz
  | 0x02 => k 24 .mxm
  | 0x03 => p.form false .req 0 0 [s0, dst, g 24, (p.c < 8 && p.m == 0, p.oXr)] (.mxms a b (vreg p.c))
  | 0x04 => k 23 .mxg
  | 0x05 => k 24 .mxdrn
  | 0x06 => u .mxcnt
  | 0x07 => u .mxthr
  | 0x08 => u .jwait
  | 0x09 => u .jtest
  | 0x0A => u .jcanc
  | 0x0B => k 24 .cpy
  | 0x0C => k 24 .cpyo
  | 0x0D => if p.xr.isSome then p.form false .req 0 0 [s0, dst, (p.c == 0 && p.m == 1, p.oXr)] (.mintT a b)
      else k 24 .mint
  | _ => .error bs

def page6 (p : Parts) : Except Nat Instr :=
  let a := reg p.a
  let b := reg p.b
  let bs := p.oBase
  let s0 : Bool × Nat := (p.sec == 0, 0)
  let x : Fin 4 := Fin.ofNat 4 p.a
  let y : Fin 4 := Fin.ofNat 4 p.b
  let two (f : Fin 4 → Fin 4 → Instr) := p.form false .no 0 0 [s0, (p.a < 4 && p.b < 4 && p.a != p.b, bs)] (f x y)
  match p.op with
  | 0x00 => p.form false .no 0 0 [s0, (p.a < 4 && 1 ≤ p.b && p.b ≤ 26, bs)] (.sopen x b)
  | 0x01 => two .sisect
  | 0x02 => two .sunion
  | 0x03 => two .sdiff
  | 0x04 => p.form false .no 0 0 [s0, (p.a < 4 && p.b < 16 && p.b != 0 && p.b / 2 ^ p.a % 2 == 0, bs)]
      (.smerge x (Fin.ofNat 16 p.b))
  | 0x05 => p.form false .no 0 0 [s0, (1 ≤ p.a && p.a ≤ 26 && p.b < 4, bs)] (.snext a y)
  | 0x06 => p.form false .opt 0 0 [s0, (p.a != 30 && p.b < 4, bs), (p.m == 0, p.oXr)]
      (if p.xr.isSome then .scntA a y (reg p.c) else .scnt a y)
  | 0x07 => p.form false .no 0 0 [s0, (p.a != 30 && p.b < 4, bs)] (.sclose a y)
  | _ => .error bs

def page7 (p : Parts) : Except Nat Instr :=
  let a := reg p.a
  let b := reg p.b
  let c := reg p.c
  let bs := p.oBase
  let dst : Bool × Nat := (p.a != 30, bs)
  let pair : Bool × Nat := (1 ≤ p.a && p.a ≤ 26, bs)
  let s0 : Bool × Nat := (p.sec == 0, 0)
  let m0 : Bool × Nat := (p.m == 0, p.oXr)
  match p.op with
  | 0x00 => p.form false .no 0 0 [s0, dst, (1 ≤ p.b && p.b ≤ 25, bs)] (.ldnn a b)
  | 0x01 => p.form false .req 0 0 [s0, dst, m0] (.stv a b c)
  | 0x02 => p.form false .req 0 0 [s0, dst, m0] (.dlv a b c)
  | 0x03 => p.form false .no 0 0 [s0, pair] (.ixver a b)
  | 0x04 => p.form false .no 0 0 [s0, pair] (.ixsnap a b)
  | _ => .error bs

def page8 (p : Parts) : Except Nat Instr :=
  let a := reg p.a
  let b := reg p.b
  let bs := p.oBase
  let dst : Bool × Nat := (p.a != 30, bs)
  let s0 : Bool × Nat := (p.sec == 0, 0)
  match p.op with
  | 0x00 => p.form true .no 0 0 [s0, (p.qual == 0, p.oXs), (p.a == 0 && p.b == 0, bs)] (.fence p.xsOpt)
  | 0x01 => p.form false .no 0 0 [s0, dst] (.barv a b)
  | 0x02 => if p.xr.isSome then p.form false .req 0 0 [s0, dst, (p.c == 0 && p.m == 1, p.oXr)] (.barwT a b)
      else p.form false .no 0 0 [s0, dst] (.barw a b)
  | 0x03 => p.form false .req 0 0 [s0, dst, (p.m == 0, p.oXr)] (.bart a b (reg p.c))
  | 0x04 => p.form false .no 0 0 [s0, dst, (p.b == 0, bs)] (.sealq a)
  | 0x05 => p.form false .no 0 0 [s0, dst, (p.b == 0, bs)] (.sealw a)
  | 0x06 => p.form false .no 0 0 [s0, dst, (p.b < 2, bs)] (if p.b = 0 then .ivn a else .ivnRb a)
  | _ => .error bs

/-- R306: the CSR numbers that the tables list. -/
def csrExists (n : Int) : Bool :=
  (0 ≤ n && n ≤ 8) || (0x100 ≤ n && n ≤ 0x109) || (0x180 ≤ n && n ≤ 0x185) || (0x200 ≤ n && n ≤ 0x203)

def page9 (p : Parts) : Except Nat Instr :=
  let a := reg p.a
  let b := reg p.b
  let c := reg p.c
  let bs := p.oBase
  let dst : Bool × Nat := (p.a != 30, bs)
  let s0 : Bool × Nat := (p.sec == 0, 0)
  let m0 : Bool × Nat := (p.m == 0, p.oXr)
  let num : Bool × Nat := (csrExists p.immB.v, p.oImm)
  match p.op with
  | 0x00 => p.form false .no 0 1 [s0, dst, num] (.csrr a p.immB)
  | 0x01 => p.form false .no 0 1 [s0, num] (.csrw a p.immB)
  | 0x02 => p.form false .no 0 1 [s0, num] (.csrs a p.immB)
  | 0x03 => p.form false .no 0 1 [s0, num] (.csrc a p.immB)
  | 0x04 => p.form false .no 0 0 [s0, (p.a == 0 && p.b == 0, bs)] .tret
  | 0x05 => p.form false .req 0 0 [s0, (1 ≤ p.a && p.a ≤ 26, bs), m0] (.dbgi a b c)
  | 0x06 => p.form false .req 0 0 [s0, dst, (1 ≤ p.b && p.b ≤ 26, bs), m0] (.tlbw a b c)
  | 0x07 => p.form false .req 0 0 [s0, dst, (p.m < 2, p.oXr), (p.m != 1 || p.b == 0, bs)]
      (if p.m = 1 then .tlbiAll a c else .tlbi a b c)
  | 0x08 => p.form false .no 0 0 [s0, dst] (.tlbp a b)
  | _ => .error bs

/-- R35: the instruction of prefixes and base word, or the offset of the word that breaks a rule. -/
def instrOf (p : Parts) : Except Nat Instr :=
  if p.xp.isSome ∧ (p.page = 0 ∨ 10 ≤ p.page) then .error 0
  else match p.page with
    | 0 => page0 p
    | 1 => page1 p
    | 2 => page2 p
    | 3 => page3 p
    | 4 => page4 p
    | 5 => page5 p
    | 6 => page6 p
    | 7 => page7 p
    | 8 => page8 p
    | _ => page9 p

/-- R33: decoding of the words from the pc up, total on any words. -/
def decode (ws : List HWord) : DecRes :=
  match scanWords Parts.empty 0 0 ws with
  | .error none => .more
  | .error (some off) => .bad off
  | .ok p => match instrOf p with
    | .ok i => .ok i p.len
    | .error off => .bad off

/-- The instruction that the decoder reads from an instruction whose bits are `w`, bit 0 being the least significant bit
of the first word; words above `nbits` are zero. An event has no bits. -/
def decodeTableWord (nbits w : Nat) : Option Instr :=
  if nbits = 0 then none
  else
    let x := w % 2 ^ nbits
    match decode ((List.range 5).map (fun i => BitVec.ofNat 16 (x / 2 ^ (16 * i)))) with
    | .ok i _ => some i
    | _ => none

/-! ## The encoder -/

def Parts.base (op a b : Nat) : Parts := ⟨none, none, none, [], op, a, b⟩
def Parts.pg (p : Parts) (page sec : Nat) : Parts := { p with xp := some (64 * page + sec) }
def Parts.withXr (p : Parts) (c m : Nat) : Parts := { p with xr := some (32 * c + m) }
def Parts.withC (p : Parts) : Option Reg → Parts
  | none => p
  | some c => p.withXr c.val 0
def Parts.withXs (p : Parts) (q : Nat) : Option Scope → Parts
  | none => p
  | some s => { p with xs := some (128 * scopeNum s + q) }
/-- XI words for an immediate whose low five bits stand in field b. -/
def Parts.withImmB (p : Parts) (i : Imm) : Parts :=
  let u := lowBits i.v (5 + 10 * i.n)
  { p with b := u % 32, xis := xiDigits i.n (u / 32) }
def Parts.withImmX (p : Parts) (i : Imm) : Parts := { p with xis := xiDigits i.n (lowBits i.v (10 * i.n)) }
def Parts.withImmJ (p : Parts) (i : Imm) : Parts :=
  let u := lowBits i.v (10 + 10 * i.n)
  { p with a := u / 32 % 32, b := u % 32, xis := xiDigits i.n (u / 1024) }
def Parts.withV (p : Parts) (e : Nat) : VSrc → Parts
  | .short => p
  | .vec c => p.withXr c.val e
  | .gen c => p.withXr c.val (16 + e)
/-- Fields of a page-4 form with a governing predicate. -/
def vparts (op sec : Nat) (p : PReg) (d b : Nat) : Parts := (Parts.base op (8 * p.val + d) b).pg 4 sec
def rparts (op : Nat) (a b : Reg) (c : Option Reg) : Parts := (Parts.base op a.val b.val).withC c
def iparts (op : Nat) (a : Reg) (c : Option Reg) (i : Imm) : Parts := ((Parts.base op a.val 0).withC c).withImmB i
def mparts (op : Nat) (a b : Reg) (i : Imm) : Parts := (Parts.base op a.val b.val).withImmX i
def dparts (page sec op a b : Nat) : Parts := (Parts.base op a b).pg page sec
def approxParts (op : Nat) (t : VType) (sat : Bool) (p : PReg) (d b : VReg) : Parts :=
  vparts op (16 * vtypeNum t + 2 * bnum sat) p d.val b.val

/-- The prefixes and base word of an instruction, from its encoding table; `none` for an event. -/
def partsOf : Instr → Option Parts
  | .nop => some (.base 0 0 0)
  | .trap i => some ((Parts.base 0 1 0).withImmB i)
  | .brk i => some ((Parts.base 0 2 0).withImmB i)
  | .mov a b => some (.base 0x01 a.val b.val)
  | .li a i => some ((Parts.base 0x02 a.val 0).withImmB i)
  | .sel a b c m => some ((Parts.base 0x03 a.val b.val).withXr c.val m.val)
  | .add a b c => some (rparts 0x04 a b c)
  | .addImm a c i => some (iparts 0x05 a c i)
  | .sub a b c => some (rparts 0x06 a b c)
  | .mul a b c => some (rparts 0x07 a b c)
  | .mulh a b c => some (rparts 0x08 a b c)
  | .mulhu a b c => some (rparts 0x09 a b c)
  | .div a b c => some (rparts 0x0A a b c)
  | .divu a b c => some (rparts 0x0B a b c)
  | .rem a b c => some (rparts 0x0C a b c)
  | .remu a b c => some (rparts 0x0D a b c)
  | .and a b c => some (rparts 0x0E a b c)
  | .andImm a c i => some (iparts 0x0F a c i)
  | .or a b c => some (rparts 0x10 a b c)
  | .orImm a c i => some (iparts 0x11 a c i)
  | .xor a b c => some (rparts 0x12 a b c)
  | .xorImm a c i => some (iparts 0x13 a c i)
  | .sll a b c => some (rparts 0x14 a b c)
  | .srl a b c => some (rparts 0x15 a b c)
  | .sra a b c => some (rparts 0x16 a b c)
  | .rol a b c => some (rparts 0x17 a b c)
  | .bz a o => some ((Parts.base 0x18 a.val 0).withImmB o)
  | .beq a c o => some (iparts 0x19 a c o)
  | .bnz a o => some ((Parts.base 0x1A a.val 0).withImmB o)
  | .bne a c o => some (iparts 0x1B a c o)
  | .blt a c o => some (iparts 0x1C a c o)
  | .bge a c o => some (iparts 0x1D a c o)
  | .bltu a c o => some (iparts 0x1E a c o)
  | .bgeu a c o => some (iparts 0x1F a c o)
  | .j o => some ((Parts.base 0x20 0 0).withImmJ o)
  | .jl o => some ((Parts.base 0x21 0 0).withImmJ o)
  | .jr a => some (.base 0x22 a.val 0)
  | .jlr a b => some (.base 0x23 a.val b.val)
  | .slt a b c => some (rparts 0x24 a b c)
  | .sltu a b c => some (rparts 0x25 a b c)
  | .seq a b c => some (rparts 0x26 a b c)
  | .sne a b c => some (rparts 0x27 a b c)
  | .ldgD a b i => some (mparts 0x28 a b i)
  | .ldgW a b i => some (mparts 0x29 a b i)
  | .ldgH a b i => some (mparts 0x2A a b i)
  | .ldgB a b i => some (mparts 0x2B a b i)
  | .stgD a b i => some (mparts 0x2C a b i)
  | .stgW a b i => some (mparts 0x2D a b i)
  | .stgH a b i => some (mparts 0x2E a b i)
  | .stgB a b i => some (mparts 0x2F a b i)
  | .sllImm a c i => some (iparts 0x30 a c i)
  | .srlImm a c i => some (iparts 0x31 a c i)
  | .sraImm a c i => some (iparts 0x32 a c i)
  | .ror a b c => some (rparts 0x33 a b c)
  | .rorImm a c i => some (iparts 0x34 a c i)
  | .clz a b => some (.base 0x35 a.val b.val)
  | .ctz a b => some (.base 0x36 a.val b.val)
  | .popc a b => some (.base 0x37 a.val b.val)
  | .bext a b c => some (rparts 0x38 a b c)
  | .bdep a b c => some (rparts 0x39 a b c)
  | .sext w a c => some ((Parts.base 0x3A a.val (widthNum w)).withC c)
  | .zext w a c => some ((Parts.base 0x3A a.val (16 + widthNum w)).withC c)
  | .sltImm a c i => some (iparts 0x3B a c i)
  | .ldfe a b i => some ((mparts 0x00 a b i).pg 1 0)
  | .ldff a b i => some ((mparts 0x01 a b i).pg 1 0)
  | .stfe a b i => some ((mparts 0x02 a b i).pg 1 0)
  | .stff a b i => some ((mparts 0x03 a b i).pg 1 0)
  | .ldx a b i => some ((mparts 0x04 a b i).pg 1 0)
  | .fes full b i => some (((Parts.base 0x05 (bnum full) b.val).withImmX i).pg 1 0)
  | .lrq a b i => some ((mparts 0x06 a b i).pg 1 0)
  | .scq a b i => some ((mparts 0x07 a b i).pg 1 0)
  | .amo op a b c m xs uns => some (((dparts 1 (amoNum op) 0x08 a.val b.val).withXr c.val m.val).withXs (bnum uns) xs)
  | .amofAdd a b c xs => some (((dparts 1 0 0x09 a.val b.val).withXr c.val 0).withXs 0 xs)
  | .amoxAdd a b xs => some ((dparts 1 0 0x0A a.val b.val).withXs 0 xs)
  | .amoxAddI a b xs => some ((dparts 1 0 0x0A a.val b.val).withXs 1 (some xs))
  | .rupd a b i xs => some (((mparts 0x0B a b i).pg 1 0).withXs 0 xs)
  | .chld a b c n => some ((dparts 1 0 0x0C a.val b.val).withXr c.val n)
  | .chldFail a b c n => some ((dparts 1 1 0x0C a.val b.val).withXr c.val n)
  | .ldext w a b i => some ((mparts 0x0D a b i).pg 1 (widthNum w))
  | .stext w a b i => some ((mparts 0x0E a b i).pg 1 (widthNum w))
  | .ld sp w a b i => some ((mparts 0x00 a b i).pg 2 (spaceNum sp + 4 * widthNum w))
  | .st sp w a b i => some ((mparts 0x01 a b i).pg 2 (spaceNum sp + 4 * widthNum w))
  | .ldm w a b i => some ((mparts 0x02 a b i).pg 2 (4 * widthNum w))
  | .stm w a b i => some ((mparts 0x03 a b i).pg 2 (4 * widthNum w))
  | .lbf => some (dparts 2 0 0x04 0 0)
  | .rcfg n b => some (dparts 2 0 0x05 n.val b.val)
  | .rpop a n => some (dparts 2 0 0x06 a.val n.val)
  | .rpopF n => some (dparts 2 0 0x06 0 (4 + n.val))
  | .rpush a n => some (dparts 2 0 0x07 a.val n.val)
  | .rpushC n => some (dparts 2 0 0x07 0 (4 + n.val))
  | .qcfg a b => some (dparts 2 0 0x08 a.val b.val)
  | .qend a => some (dparts 2 0 0x09 a.val 0)
  | .qendRet => some (dparts 2 0 0x09 0 1)
  | .evct a b c => some ((dparts 2 0 0x0A a.val b.val).withXr c.val 0)
  | .rcll a b c => some ((dparts 2 0 0x0B a.val b.val).withXr c.val 0)
  | .start a b i => some ((mparts 0x00 a b i).pg 3 0)
  | .spawn a b i => some ((mparts 0x01 a b i).pg 3 0)
  | .spawnReg a b c i => some (((mparts 0x01 a b i).withXr c.val 0).pg 3 0)
  | .quit => some (dparts 3 0 0x02 0 0)
  | .park a b => some (dparts 3 0 0x03 a.val b.val)
  | .yield => some (dparts 3 0 0x04 0 0)
  | .sendm a b c => some ((dparts 3 0 0x05 a.val b.val).withXr c.val 0)
  | .wfm a => some (dparts 3 0 0x06 a.val 0)
  | .migr a b => some (dparts 3 0 0x07 a.val b.val)
  | .gsig a b => some (dparts 3 0 0x08 a.val b.val)
  | .gsigRun a => some ((dparts 3 0 0x08 a.val 0).withXr 0 1)
  | .rolq a b => some (dparts 3 0 0x09 a.val b.val)
  | .rolqImm a i => some (((Parts.base 0x09 a.val 0).withImmX i).pg 3 0)
  | .vadd q p d b x => some ((vparts 0x00 (arithNum q) p d.val b.val).withV 0 x)
  | .vsub q p d b x => some ((vparts 0x01 (arithNum q) p d.val b.val).withV 0 x)
  | .vmul q p d b x => some ((vparts 0x02 (arithNum q) p d.val b.val).withV 0 x)
  | .vfma q p d b x e => some ((vparts 0x03 (arithNum q) p d.val b.val).withV e.val x)
  | .vmin q p d b x => some ((vparts 0x04 (arithNum q) p d.val b.val).withV 0 x)
  | .vmax q p d b x => some ((vparts 0x05 (arithNum q) p d.val b.val).withV 0 x)
  | .vabs q p d b => some (vparts 0x06 (arithNum q) p d.val b.val)
  | .vneg q p d b => some (vparts 0x07 (arithNum q) p d.val b.val)
  | .vand p d b x => some ((vparts 0x08 0 p d.val b.val).withV 0 x)
  | .vor p d b x => some ((vparts 0x09 0 p d.val b.val).withV 0 x)
  | .vxor p d b x => some ((vparts 0x0A 0 p d.val b.val).withV 0 x)
  | .vnot p d b => some (vparts 0x0B 0 p d.val b.val)
  | .vshl p d b x => some ((vparts 0x0C 0 p d.val b.val).withV 0 x)
  | .vshr p d b x => some ((vparts 0x0D 0 p d.val b.val).withV 0 x)
  | .vsra p d b x => some ((vparts 0x0E 0 p d.val b.val).withV 0 x)
  | .vmov p d b => some (vparts 0x0F 0 p d.val b.val)
  | .vcmp cc t u p d b x => some ((vparts 0x10 (16 * vtypeNum t + 2 * condNum cc + bnum u) p d.val b.val).withV 0 x)
  | .vsel p d b x => some ((vparts 0x11 0 p d.val b.val).withV 0 x)
  | .vrsum q d p b => some (dparts 4 (arithNum q) 0x12 d.val (8 * p.val + b.val))
  | .vrmax q d p b => some (dparts 4 (arithNum q) 0x13 d.val (8 * p.val + b.val))
  | .vrmin q d p b => some (dparts 4 (arithNum q) 0x14 d.val (8 * p.val + b.val))
  | .vperm p d b c => some ((vparts 0x15 0 p d.val b.val).withXr c.val 0)
  | .vbcst p d b => some (vparts 0x16 0 p d.val b.val)
  | .vext d b n => some ((dparts 4 0 0x17 d.val b.val).withImmX ⟨1, n.val⟩)
  | .vins d b n => some ((dparts 4 0 0x18 d.val b.val).withImmX ⟨1, n.val⟩)
  | .vcvt rm sat p d b df du sf su => some ((vparts 0x19 (4 * rndNum rm + 2 * bnum sat) p d.val b.val).withXr
      (vfmtNum df + 16 * bnum du) (vfmtNum sf + 16 * bnum su))
  | .vquant t m d b c => some ((dparts 4 (16 * vtypeNum t + 2 * (m - 2)) 0x1A d.val b.val).withXr c.val 0)
  | .vdeq t m d b c => some ((dparts 4 (16 * vtypeNum t + 2 * (m - 2)) 0x1B d.val b.val).withXr c.val 0)
  | .vscale t m d b => some (dparts 4 (16 * vtypeNum t + 2 * (m - 2)) 0x1C d.val b.val)
  | .vcmpr d b c => some ((dparts 4 0 0x1D d.val b.val).withXr c.val 0)
  | .vexpd d b c => some ((dparts 4 0 0x1E d.val b.val).withXr c.val 0)
  | .vexp2 t sat p d b => some (approxParts 0x1F t sat p d b)
  | .vlog2 t sat p d b => some (approxParts 0x20 t sat p d b)
  | .vrcp t sat p d b => some (approxParts 0x21 t sat p d b)
  | .vrsqrt t sat p d b => some (approxParts 0x22 t sat p d b)
  | .vtanh t sat p d b => some (approxParts 0x23 t sat p d b)
  | .vld sp w u p d b i =>
    some ((vparts 0x24 (spaceNum sp + 4 * widthNum w + 16 * bnum u) p d.val b.val).withImmX i)
  | .vst sp w p d b i => some ((vparts 0x25 (spaceNum sp + 4 * widthNum w) p d.val b.val).withImmX i)
  | .pset d b => some (dparts 4 0 0x26 d.val b.val)
  | .pget d b => some (dparts 4 0 0x27 d.val b.val)
  | .mxfmt d b => some (dparts 5 0 0x00 d.val b.val)
  | .mxz a b => some (dparts 5 0 0x01 a.val b.val)
  | .mxm a b => some (dparts 5 0 0x02 a.val b.val)
  | .mxms a b c => some ((dparts 5 0 0x03 a.val b.val).withXr c.val 0)
  | .mxg a b => some (dparts 5 0 0x04 a.val b.val)
  | .mxdrn a b => some (dparts 5 0 0x05 a.val b.val)
  | .mxcnt d b => some (dparts 5 0 0x06 d.val b.val)
  | .mxthr d b => some (dparts 5 0 0x07 d.val b.val)
  | .jwait d b => some (dparts 5 0 0x08 d.val b.val)
  | .jtest d b => some (dparts 5 0 0x09 d.val b.val)
  | .jcanc d b => some (dparts 5 0 0x0A d.val b.val)
  | .cpy a b => some (dparts 5 0 0x0B a.val b.val)
  | .cpyo a b => some (dparts 5 0 0x0C a.val b.val)
  | .mint a b => some (dparts 5 0 0x0D a.val b.val)
  | .mintT a b => some ((dparts 5 0 0x0D a.val b.val).withXr 0 1)
  | .sopen x b => some (dparts 6 0 0x00 x.val b.val)
  | .sisect x y => some (dparts 6 0 0x01 x.val y.val)
  | .sunion x y => some (dparts 6 0 0x02 x.val y.val)
  | .sdiff x y => some (dparts 6 0 0x03 x.val y.val)
  | .smerge x mask => some (dparts 6 0 0x04 x.val mask.val)
  | .snext d x => some (dparts 6 0 0x05 d.val x.val)
  | .scnt d x => some (dparts 6 0 0x06 d.val x.val)
  | .scntA d x c => some ((dparts 6 0 0x06 d.val x.val).withXr c.val 0)
  | .sclose d x => some (dparts 6 0 0x07 d.val x.val)
  | .ldnn d b => some (dparts 7 0 0x00 d.val b.val)
  | .stv d b c => some ((dparts 7 0 0x01 d.val b.val).withXr c.val 0)
  | .dlv d b c => some ((dparts 7 0 0x02 d.val b.val).withXr c.val 0)
  | .ixver d b => some (dparts 7 0 0x03 d.val b.val)
  | .ixsnap d b => some (dparts 7 0 0x04 d.val b.val)
  | .fence xs => some ((dparts 8 0 0x00 0 0).withXs 0 xs)
  | .barv d b => some (dparts 8 0 0x01 d.val b.val)
  | .barw d b => some (dparts 8 0 0x02 d.val b.val)
  | .barwT d b => some ((dparts 8 0 0x02 d.val b.val).withXr 0 1)
  | .bart d b c => some ((dparts 8 0 0x03 d.val b.val).withXr c.val 0)
  | .sealq d => some (dparts 8 0 0x04 d.val 0)
  | .sealw d => some (dparts 8 0 0x05 d.val 0)
  | .ivn d => some (dparts 8 0 0x06 d.val 0)
  | .ivnRb d => some (dparts 8 0 0x06 d.val 1)
  | .csrr d i => some (((Parts.base 0x00 d.val 0).withImmB i).pg 9 0)
  | .csrw a i => some (((Parts.base 0x01 a.val 0).withImmB i).pg 9 0)
  | .csrs a i => some (((Parts.base 0x02 a.val 0).withImmB i).pg 9 0)
  | .csrc a i => some (((Parts.base 0x03 a.val 0).withImmB i).pg 9 0)
  | .tret => some (dparts 9 0 0x04 0 0)
  | .dbgi a b c => some ((dparts 9 0 0x05 a.val b.val).withXr c.val 0)
  | .tlbw a b c => some ((dparts 9 0 0x06 a.val b.val).withXr c.val 0)
  | .tlbi a b c => some ((dparts 9 0 0x07 a.val b.val).withXr c.val 0)
  | .tlbiAll a c => some ((dparts 9 0 0x07 a.val 0).withXr c.val 1)
  | .tlbp d b => some (dparts 9 0 0x08 d.val b.val)
  | _ => none

/-- R33: the words of prefixes and a base word, in fetch order. -/
def Parts.words (p : Parts) : List HWord :=
  (p.xp.toList.map (fun y => BitVec.ofNat 16 (0x3E * 1024 + y)))
    ++ (p.xs.toList.map (fun y => BitVec.ofNat 16 (0x3F * 1024 + y)))
    ++ (p.xr.toList.map (fun y => BitVec.ofNat 16 (0x3D * 1024 + y)))
    ++ (p.xis.map (fun y => BitVec.ofNat 16 (0x3C * 1024 + y)))
    ++ [BitVec.ofNat 16 (p.op * 1024 + p.a * 32 + p.b)]

/-- The words of an instruction; none for an event. -/
def encode (i : Instr) : List HWord :=
  match partsOf i with
  | some p => p.words
  | none => []

/-- The length of an instruction in words. -/
def ilen (i : Instr) : Nat := ((partsOf i).map Parts.len).getD 0

end Sys2Proof
end

