-- ==== Sys2Proof/Machine/Memory.lean ====
section
/-!
DEFINITION. Device memory: loads, stores and the store buffer (R135 to R138), the full/empty family (R140 to R143),
reservations (R144, R145), the atomics' requests (R146 to R149), remote updates (R150), chained loads (R151 to R154),
external memory (R155, R156), and what the TAUs and the reply do.
-/
namespace Sys2Proof.Machine
open Sys2Proof

/-! ## The store buffer (R136) -/

def sbOverlaps (e : SbEntry) (pa len : Nat) : Bool := decide (e.pa < pa + len) && decide (pa < e.pa + wbytes e.width)
/-- What the store buffer has for a load: the bytes, a wait, or nothing. -/
inductive SbLoad where
  | serve (x : Word)
  | wait
  | none
  deriving DecidableEq, Repr
def sbLoad (x : Core) (pa len : Nat) : SbLoad :=
  match x.sbuf.reverse.find? (fun e => sbOverlaps e pa len) with
  | some e =>
    if e.pa ≤ pa ∧ pa + len ≤ e.pa + wbytes e.width
    then .serve (BitVec.ofNat 64 (e.data.toNat / 2 ^ (8 * (pa - e.pa)) % 2 ^ (8 * len)))
    else .wait
  | Option.none => .none
def sbTouches (x : Core) (pa len : Nat) : Bool := x.sbuf.any (fun e => sbOverlaps e pa len)
/-- R136: an entry overlaps the word, or the 16-byte cell, at an address. -/
def sbWord (x : Core) (pa len : Nat) : Bool := sbTouches x (pa / 8 * 8) (max 8 len)

/-- On whose behalf a thread's request is made: none for firmware (R353). -/
def reqLaunch (t : Thread) : Option Nat := if t.fw then none else t.launch
def reqOf (s : State) (va : Word) (pa : Nat) : TauReq := ⟨.thr s.cur, reqLaunch (me s), va, pa⟩

/-- R138: a plain load. -/
def loadG (w : Width) (a b : Reg) (i : Imm) (s : State) : State :=
  runI (1 + i.n) [b] [a] s (fun s =>
    let va := ea s b i
    if va.toNat % wbytes w ≠ 0 then .trap s 0x02 va
    else gAccess s va needR 0 (fun s pa =>
      match sbLoad (myCore s) pa (wbytes w) with
      | .serve x => .done (wr s a x)
      | .wait => retry s (.sbufOverlap pa (wbytes w))
      | .none => .reply (post s (.tauRead (reqOf s va pa) w a)) (a == 31) .dflt))
/-- R136: a store enters the buffer of its core. -/
def sbPush (s : State) (pa : Nat) (w : Width) (x : Word) : State :=
  let l := reqLaunch (me s)
  modMyCore s (fun c =>
    { c with sbuf := c.sbuf ++ [⟨c.sbNext, s.cur.slot, l, pa, w, x, false⟩], sbNext := c.sbNext + 1 })
/-- R138: a plain store. -/
def storeG (w : Width) (a b : Reg) (i : Imm) (s : State) : State :=
  runI (1 + i.n) [b, a] [] s (fun s =>
    let va := ea s b i
    if va.toNat % wbytes w ≠ 0 then .trap s 0x02 va
    else gAccess s va needW 0 (fun s pa =>
      if 32 ≤ (myCore s).sbuf.length then retry s .sbufRoom
      else .done (sbPush s pa w (rd s a))))

def execLdgD (a b : Reg) (i : Imm) (s : State) : Out := .next (loadG .d a b i s)
def execLdgW (a b : Reg) (i : Imm) (s : State) : Out := .next (loadG .w a b i s)
def execLdgH (a b : Reg) (i : Imm) (s : State) : Out := .next (loadG .h a b i s)
def execLdgB (a b : Reg) (i : Imm) (s : State) : Out := .next (loadG .b a b i s)
def execStgD (a b : Reg) (i : Imm) (s : State) : Out := .next (storeG .d a b i s)
def execStgW (a b : Reg) (i : Imm) (s : State) : Out := .next (storeG .w a b i s)
def execStgH (a b : Reg) (i : Imm) (s : State) : Out := .next (storeG .h a b i s)
def execStgB (a b : Reg) (i : Imm) (s : State) : Out := .next (storeG .b a b i s)

/-! ## Requests that wait for the TAU -/

/-- An instruction of page 1 that sends one request to the word at an address: alignment (trap 0x02), translation, a wait
while a store-buffer entry overlaps (R136), and the request. -/
def request (s : State) (va : Word) (align : Nat) (n : Need) (op : Nat) (pushes : Bool) (after : Scope)
    (msg : State → TauReq → Ev) : Eff :=
  if va.toNat % align ≠ 0 then .trap s 0x02 va
  else gAccess s va n op (fun s pa =>
    if sbWord (myCore s) pa align then retry s (.sbufOverlap (pa / 8 * 8) (max 8 align))
    else .reply (post s (msg s (reqOf s va pa))) pushes after)

/-- R140: what a member of the family needs of its page (R389). -/
def feNeed : FeOp → Need
  | .ldfe => needRW
  | .ldff | .ldx => needR
  | _ => needW
def feTimed : FeOp → Bool
  | .ldfe | .ldff | .stfe => true
  | _ => false
/-- R143, R307: the limit of the wait of a request that issues now. -/
def waitLimit (s : State) (timed : Bool) : Option Nat :=
  let n := (csrSeen s 0x103).toNat
  if (me s).fwte && timed && n != 0 then some n else none
def feI (op : FeOp) (srcs dsts : List Reg) (data dst b : Reg) (i : Imm) (s : State) : State :=
  runI (2 + i.n) srcs dsts s (fun s =>
    request s (ea s b i) 8 (feNeed op) 0 (dsts.contains 31) .dflt (fun s r =>
      .feRequest r op (rd s data) dst (waitLimit s (feTimed op))))

def execLdfe (a b : Reg) (i : Imm) (s : State) : Out := .next (feI .ldfe [b] [a] 0 a b i s)
def execLdff (a b : Reg) (i : Imm) (s : State) : Out := .next (feI .ldff [b] [a] 0 a b i s)
def execStfe (a b : Reg) (i : Imm) (s : State) : Out := .next (feI .stfe [b, a] [] a 0 b i s)
def execStff (a b : Reg) (i : Imm) (s : State) : Out := .next (feI .stff [b, a] [] a 0 b i s)
def execLdx (a b : Reg) (i : Imm) (s : State) : Out := .next (feI .ldx [b] [a] 0 a b i s)
def execFes (full : Bool) (b : Reg) (i : Imm) (s : State) : Out := .next (feI (.fes full) [b] [] 0 0 b i s)

/-- R144. -/
def execLrq (a b : Reg) (i : Imm) (s : State) : Out :=
  .next (runI (2 + i.n) [b] [a] s (fun s =>
    if (ea s b i).toNat % 8 = 0 ∧ (me s).resv.isSome then .trap s 0x07 (ea s b i)
    else request s (ea s b i) 8 needR 0 (a == 31) .dflt (fun s r => .lrqRequest r a (me s).home (waitLimit s true))))
def execScq (a b : Reg) (i : Imm) (s : State) : Out :=
  .next (runI (2 + i.n) [b, a] [] s (fun s =>
    let va := ea s b i
    if va.toNat % 8 ≠ 0 then .trap s 0x02 va
    else gAccess s va needW 0 (fun s pa =>
      if (me s).resv ≠ some (s.fab.modnum, pa / 8) then .trap s 0x07 va
      else fenced s true .dom (fun s =>
        if sbTouches (myCore s) pa 8 then retry s (.sbufOverlap pa 8)
        else .reply (post s (.scqRequest (reqOf s va pa) (rd s a) (me s).home)) false .dflt))))

/-- R379: the FBCAP bit that a shipped access needs: bit k of AMO for `amo` operation k, 16 to 20 for the others; 0 with
no bit named (1 + the bit's number). -/
def amoCap : AmoOp → Nat
  | .add => 1
  | .and => 2
  | .or => 3
  | .xor => 4
  | .min => 5
  | .max => 6
  | .swap => 7
  | .cas => 8

/-- R147: the scope around an atomic; code 0 orders nothing else. -/
def scopeIs (xs : Option Scope) : Scope := xs.getD .dflt
def execAmo (op : AmoOp) (a b c m : Reg) (xs : Option Scope) (uns : Bool) (s : State) : Out :=
  .next (runI (3 + optLen xs) (if op = .cas then [b, c, m] else [b, c]) [a] s (fun s =>
    fenced s (scopeIs xs != .dflt) (scopeIs xs) (fun s =>
      request s (rd s b) 8 needRW (amoCap op) (a == 31) (scopeIs xs) (fun s r =>
        .amoRequest r op uns (rd s c) (if op = .cas then rd s m else 0) a))))
def execAmofAdd (a b c : Reg) (xs : Option Scope) (s : State) : Out :=
  .next (runI (3 + optLen xs) [b, c] [a] s (fun s =>
    fenced s (scopeIs xs != .dflt) (scopeIs xs) (fun s =>
      request s (rd s b) 4 needRW 17 (a == 31) (scopeIs xs) (fun s r =>
        .amofRequest r ((rd s c).setWidth 32) a))))

/-! ## Remote updates and chained loads -/

/-- R378: this module's capability word. -/
def ownCap : Word := 0x013F00FF
/-- R378: the capability word of a module. -/
def capOf (s : State) (m : Nat) : Word :=
  if m = s.fab.modnum then ownCap else (fget s.fab.caps m).getD 0
def hasCap (s : State) (m bit : Nat) : Bool := (capOf s m).getLsbD bit

/-- R150: the UPDATE of a `rupd`, and the count of the slot. -/
def sendUpdate (s : State) (modnum : Nat) (m : UpdateMsg) : State :=
  let s := modMe s (fun t => { t with rupdOut := t.rupdOut + 1 })
  if modnum = s.fab.modnum then post s (.update m)
  else emit s modnum .ordered (.update { m with acks := .away s.fab.modnum (32 * s.cur.core + s.cur.slot) })
def execRupd (a b : Reg) (i : Imm) (xs : Option Scope) (s : State) : Out :=
  .next (runI (2 + i.n + optLen xs) [b, a, regUp a 1, regUp a 2, regUp a 3] [] s (fun s =>
    fenced s (scopeIs xs != .dflt) (scopeIs xs) (fun s =>
      let va := rd s b
      let go (s : State) (m pa : Nat) : Eff :=
        if !hasCap s m 19 then .trap s 0x0A va
        else if 255 ≤ (me s).rupdOut then retry s .rupdRoom
        else .done (sendUpdate s m
          { teller := tellerOf pa, ident := identOf s (me s) (m != s.fab.modnum), target := relTarget s i.v
            words := [rd s a, rd s (regUp a 1), rd s (regUp a 2), rd s (regUp a 3)], addr := va, acks := .slot s.cur })
      match translate s s.cur va needR with
      | .pa p => go s s.fab.modnum p
      | .remote m p => go s m p
      | .trap code => .trap s code va
      | .miss => retry (raiseMiss s s.cur.core 0 (me s).launch va 0) (.miss va))))

/-- R151: the address of a chained step. -/
def chldMask (hi : Nat) : Word := if hi < 3 then 0 else BitVec.ofNat 64 (2 ^ (hi + 1) - 8)
def chldVa (v st : Word) : Word := (v &&& chldMask (bits st 37 32)) + 8 * (st.setWidth 32).signExtend 64
/-- R153. -/
def chldStatus (code k : Nat) : Word := BitVec.ofNat 64 (code + 16 * k)
def chldTrap : Nat → Nat
  | 2 => 0x0C
  | 3 => 0x0B
  | 4 => 0x06
  | 5 => 0x0A
  | _ => 0x05
/-- R152: `stop`: the answer of a chain. -/
def chldStop (s : State) (m : ChldMsg) (code : Nat) (addr : Word) : State :=
  let l := [(m.dst, m.v), (regUp m.dst 1, chldStatus code m.k)]
  answer s m.rto (if 2 ≤ code then .trap (chldTrap code) addr l else .writes l)

def chldI (fail : Bool) (a b c : Reg) (n : Nat) (s : State) : State :=
  let steps := (List.range n).map (fun k => regUp c k)
  runI 3 (b :: steps) [a, regUp a 1] s (fun s =>
    if (myCore s).sbuf.any (fun e => e.slot == s.cur.slot) then retry s .sbufOwn
    else
      .reply (post s (.chldStep
        { rto := .thr s.cur, launch := reqLaunch (me s), core := s.cur.core, fw := (me s).fw, v := rd s b, k := 0
          hops := 0, at_ := none, steps := steps.map (rd s), fail := fail, dst := a
          goPa := none })) false .dflt)
def execChld (a b c : Reg) (n : Nat) (s : State) : Out := .next (chldI false a b c n s)
def execChldFail (a b c : Reg) (n : Nat) (s : State) : Out := .next (chldI true a b c n s)

/-- R152, R375: the modules between this one and another on the path that an adaptive packet takes now. -/
def viaCount (s : State) (m : Nat) : Nat := ((adaptivePath s s.fab.cur.gen m).map (fun p => p.2.length - 1)).getD 0

def waitersOf (s : State) (word : Nat) : List Waiter := (fget s.waits word).getD []
def setWaiters (s : State) (word : Nat) (l : List Waiter) : State :=
  { s with waits := if l = [] then fdel s.waits word else fset s.waits word l }
def resvOf (s : State) (word : Nat) : List Resv := (fget s.resvs word).getD []
def setResv (s : State) (word : Nat) (l : List Resv) : State :=
  { s with resvs := if l = [] then fdel s.resvs word else fset s.resvs word l }
/-- R142: the entries that wait at a TAU; the holder of a reservation does not wait. -/
def waitCount (s : State) (tau : Nat) : Nat :=
  ((s.waits.filter (fun e => tauOf (8 * e.1) == tau)).map (fun e => e.2.length)).sum
    + ((s.resvs.filter (fun e => tauOf (8 * e.1) == tau)).map (fun e => e.2.length - 1)).sum
/-- R142: the TAU's 4,096 entries and the 1,048,576 of its stack's wait table are in use. -/
def waitFull (s : State) (pa : Nat) : Bool :=
  let stack := tauOf pa / 32
  decide (4096 ≤ waitCount s (tauOf pa))
    && decide (1048576 ≤ ((List.range 32).map (fun k => waitCount s (32 * stack + k) - 4096)).sum)

/-- R353: the TAU refuses a request before it reaches the memory: for what the address is, not for POISON. -/
def tauShuts (s : State) (launch : Option Nat) (pa : Nat) : Bool := (tauRefuses s launch pa).any (· != .poison)
/-- R322: what a refused request leaves. -/
def refusedAt (s : State) (launch : Option Nat) (store : Bool) (pa : Nat) : State :=
  match tauRefuses s launch pa with
  | some why => noteRefusal s launch store why
  | none => s
/-- R152: one step of a chain. -/
def chldRead (s : State) (m : ChldMsg) (va : Word) (pa : Nat) : State :=
  let hops := if m.at_ = some (tauOf pa) then m.hops else m.hops + 1
  let m' := { m with hops := hops, at_ := some (tauOf pa) }
  if 12 < hops then chldStop s m 3 va
  else if tauShuts s m.launch pa then chldStop (refusedAt s m.launch false pa) m' 6 va
  else lookAt s pa 8 id fun s =>
    match tauRefuses s m.launch pa with
    | some r => chldStop (noteRefusal s m.launch false r) m' 6 va
    | none =>
      if !isFull s pa then
        if m.fail then chldStop s m' 1 va
        else if waitFull s pa then post s (.chldStep m)
        else setWaiters s (pa / 8) (waitersOf s (pa / 8) ++ [.chain m'])
      else
        let m'' := { m' with v := physRead s pa 8, k := m.k + 1, goPa := none }
        if m''.k = m.steps.length then chldStop s m'' 0 0 else post s (.chldStep m'')
/-- R152: the core whose TLB holds the launch's translation for a step: the issuing core; on another module, a core there that the
launch binds (log entry 67). -/
def chldCore (s : State) (m : ChldMsg) : Nat :=
  match m.rto with
  | .away .. => ((s.cores.find? (fun e => e.2.launch.isSome && e.2.launch == m.launch)).map (·.1)).getD (coreAt (lowestCluster s m.launch) 0)
  | _ => m.core
/-- Where a step reads: at the address that another module translated, at its own (FW), or by the TLB. -/
def chldTr (s : State) (m : ChldMsg) (va : Word) : Tr :=
  let c := chldCore s m
  match m.goPa with
  | some p => .pa p
  | none => if m.fw then .pa va.toNat else trIn s (tlbFind (core s c).tlb (isTeller c) m.launch va) va needR
/-- R136: the first request of a chain waits in its core while an entry overlaps its word. -/
def chldHeld (s : State) (m : ChldMsg) (pa : Nat) : Bool := m.at_.isNone && sbWord (core s m.core) pa 8
def rtoAway (s : State) : ReplyTo → ReplyTo
  | .thr r => .away s.fab.modnum (32 * r.core + r.slot)
  | r => r
def chldGo (s : State) (m : ChldMsg) : State :=
  let va := chldVa m.v ((m.steps.drop m.k).headD 0)
  match chldTr s m va with
  | .miss => post (raiseMiss s (chldCore s m) 0 m.launch va 0) (.chldStep m)
  | .trap 0x06 => chldStop s m 4 va
  | .trap _ => chldStop s m 2 va
  | .remote x pa =>
    let hops := m.hops + 1 + viaCount s x
    if 12 < hops then chldStop s m 3 va
    else if !hasCap s x 20 then chldStop s m 5 va
    else emit s x .adaptive (.chld { m with rto := rtoAway s m.rto, launch := awayLaunch s m.launch, hops := hops, at_ := some (tauOf pa), goPa := some pa })
  | .pa pa => if chldHeld s m pa then post s (.chldStep m) else chldRead s m va pa
def execChldStep (s : State) : Out :=
  match s.ev with
  | .chldStep m => .next (chldGo s m)
  | _ => .next s

/-! ## The TAUs -/

/-- A request that waits for its answer, at its TAU: a refused one takes trap 0x05 (R298, R353); else the TAU serves it. One
that `reads` finds the errors of its sector first (R344, R349); one refused for POISON has reached the memory (R350). -/
def tauServe (s : State) (r : TauReq) (reads : Bool) (k : State → State) : Out :=
  if tauShuts s r.launch r.pa then .next (answer (refusedAt s r.launch false r.pa) r.rto (.trap 0x05 r.va []))
  else if reads && eccStops s r.pa then .next (trigger (touch s r.pa) 1)
  else
    let s := touch (if reads then eccRead s r.pa 1 else s) r.pa
    match tauRefuses s r.launch r.pa with
    | some why => .next (answer (noteRefusal s r.launch false why) r.rto (.trap 0x05 r.va []))
    | none => .next (k s)
/-- R329: a request that reads. -/
def tauReads (s : State) (pa : Nat) (k : State → State) : State := if injFires s pa then fireInj s else k s
/-- R287: a request that changes waits while the vault is full to the mark. -/
def tauChanges (s : State) (pa : Nat) (k : State → State) : State := if vaultStalls s pa then post s s.ev else k s

/-- R138. -/
def execTauRead (s : State) : Out :=
  match s.ev with
  | .tauRead r w dst => tauServe s r true (fun s => tauReads s r.pa (fun s =>
      answer s r.rto (.writes [(dst, physRead s r.pa (wbytes w))])))
  | _ => .next s

/-- R136: a store is applied or refused; either way it is acknowledged. -/
def execTauStore (s : State) : Out :=
  match s.ev with
  | .tauStore m =>
    match tauRefuses s m.launch m.pa with
      | some why =>
        let s := if why = .poison then touch s m.pa else s
        .next (post (noteRefusal s m.launch true why) (.storeAck m.core m.id))
      | none => .next (tauChanges s m.pa (fun s =>
          post (physWrite s m.pa (wbytes m.width) m.data) (.storeAck m.core m.id)))
  | _ => .next s
def execStoreAck (s : State) : Out :=
  match s.ev with
  | .storeAck c id => .next (modCore s c (fun x => { x with sbuf := x.sbuf.filter (fun e => e.id != id) }))
  | _ => .next s
/-- R136: the oldest entry that has not left. -/
def execStoreBufferInject (s : State) : Out :=
  match s.ev with
  | .storeBufferInject c =>
    match (core s c).sbuf.find? (fun e => !e.sent) with
    | some e =>
      let s := modCore s c (fun x =>
        { x with sbuf := x.sbuf.map (fun d => if d.id = e.id then { d with sent := true } else d) })
      .next (post s (.tauStore ⟨c, e.id, e.launch, e.pa, e.width, e.data⟩))
    | none => .next s
  | _ => .next s

/-- R140: the state that a member of the family waits for; none for those that do not wait. -/
def feWants : FeOp → Option Bool
  | .ldfe | .ldff => some true
  | .stfe => some false
  | _ => none
def feReads : FeOp → Bool
  | .stff | .fes _ => false
  | _ => true
def feChanges : FeOp → Bool
  | .ldff | .ldx => false
  | _ => true
/-- R140: a full/empty request served. -/
def feServe (s : State) (r : TauReq) (op : FeOp) (data : Word) (dst : Reg) : State :=
  let s := if feChanges op then logGranule s r.pa else s
  let x := physRead s r.pa 8
  match op with
  | .ldfe => answer (setFull s r.pa false) r.rto (.writes [(dst, x)])
  | .ldff => answer s r.rto (.writes [(dst, x)])
  | .stfe | .stff => answer (setFull (physWrite s r.pa 8 data) r.pa true) r.rto (.writes [])
  | .ldx => answer s r.rto (.writes [(dst, x), (regUp dst 1, b64 (isFull s r.pa))])
  | .fes full => answer (setFull s r.pa full) r.rto (.writes [])

/-- R141: the waiter can be served with the word full or empty. -/
def waiterReady (full : Bool) : Waiter → Bool
  | .fe _ op _ _ _ _ => feWants op == some full
  | .chain _ => full
def serveWaiter (s : State) (word : Nat) : Waiter → State
  | .fe r op data dst _ _ =>
    match tauRefuses s r.launch r.pa with
    | some why => answer (noteRefusal s r.launch false why) r.rto (.trap 0x05 r.va [])
    | none => feServe s r op data dst
  | .chain m =>
    match tauRefuses s m.launch (8 * word) with
    | some why => chldStop (noteRefusal s m.launch false why) m 6 (chldVa m.v ((m.steps.drop m.k).headD 0))
    | none =>
      let m' := { m with v := physRead s (8 * word) 8, k := m.k + 1, goPa := none }
      if m'.k = m.steps.length then chldStop s m' 0 0 else post s (.chldStep m')
/-- R329: the waiter reads the word or its bit as it is served. -/
def waiterReads : Waiter → Bool
  | .fe _ op _ _ _ _ => feReads op
  | .chain _ => true
/-- R141: `settle`; each pass removes one waiter, so `fuel` waiters at most are served. A read that is not served stops it (R329,
R349). -/
def settle (word : Nat) : Nat → State → State
  | 0, s => s
  | fuel + 1, s =>
    match (waitersOf s word).findIdx? (waiterReady (isFull s (8 * word))) with
    | none => s
    | some k =>
      match (waitersOf s word)[k]? with
      | none => s
      | some w =>
        let go (s : State) : State := settle word fuel (serveWaiter (setWaiters s word ((waitersOf s word).eraseIdx k)) word w)
        if waiterReads w then lookAt s (8 * word) 8 id go else go s

/-- R141: a request is served at once or joins the word's wait list. -/
def feArrive (s : State) (r : TauReq) (op : FeOp) (data : Word) (dst : Reg) (limit : Option Nat) : State :=
  let word := r.pa / 8
  let now := match feWants op with
    | none => true
    | some f => isFull s r.pa == f
  if now then
    if feChanges op && vaultStalls s r.pa then post s s.ev
    else settle word (waitersOf s word).length (feServe s r op data dst)
  else if waitFull s r.pa then post s s.ev
  else setWaiters s word (waitersOf s word ++ [.fe r op data dst limit s.cycle])
def execFeRequest (s : State) : Out :=
  match s.ev with
  | .feRequest r op data dst limit => tauServe s r (feReads op) (fun s =>
      if feReads op && injFires s r.pa then fireInj s else feArrive s r op data dst limit)
  | _ => .next s

/-- R143: whether a wait has passed its limit. -/
def overdue (s : State) (limit : Option Nat) (since : Nat) : Bool := limit.any (fun n => decide (n < s.cycle - since))
def isTimed (s : State) (a : TRef) : Waiter → Bool
  | .fe r _ _ _ limit since => r.rto == .thr a && overdue s limit since
  | .chain _ => false
/-- R143: the `lrq` of a thread, wherever the thread runs, has waited too long. -/
def resvTimed (s : State) (a : TRef) (x : Resv) : Bool := x.req.rto == .thr a && overdue s x.limit x.since
def waiterVa : Waiter → Word
  | .fe r .. => r.va
  | .chain _ => 0
/-- R143: a wait of a thread exceeds `fetmo`: it is withdrawn and the thread takes trap 0x0E. -/
def execFetmoTimeout (s : State) : Out :=
  match s.ev with
  | .fetmoTimeout a =>
    match s.waits.find? (fun e => e.2.any (isTimed s a)) with
    | some (word, l) =>
      match l.find? (isTimed s a) with
      | some w => .next (answer (setWaiters s word (l.filter (fun x => !isTimed s a x))) (.thr a)
          (.trap 0x0E (waiterVa w) []))
      | none => .next s
    | none =>
      match s.resvs.find? (fun e => e.2.tail.any (resvTimed s a)) with
      | some (word, h :: l) =>
        match l.find? (fun x => x.req.rto == .thr a) with
        | some x =>
          let s := setResv s word (h :: l.filter (fun x => x.req.rto != .thr a))
          .next (answer (modThr s a (fun t => { t with resv := none })) (.thr a) (.trap 0x0E x.req.va []))
        | none => .next s
      | _ => .next s
  | _ => .next s

/-- The thread that waits for an answer, changed. -/
def modAt (s : State) (rto : ReplyTo) (f : Thread → Thread) : State :=
  match rto with
  | .thr a => modThr s a f
  | _ => s
/-- R144: an `lrq` joins the word's reservation queue and is served at its head. -/
def execLrqRequest (s : State) : Out :=
  match s.ev with
  | .lrqRequest r dst who limit => tauServe s r true (fun s =>
      let word := r.pa / 8
      let l := resvOf s word
      if l ≠ [] ∧ waitFull s r.pa then post s s.ev
      else
      let s := setResv s word (l ++ [⟨who, r, dst, limit, s.cycle⟩])
      let s := modAt s r.rto (fun t => { t with resv := some (s.fab.modnum, word) })
      if l = [] then tauReads s r.pa (fun s => answer s r.rto (.writes [(dst, physRead s r.pa 8)])) else s)
  | _ => .next s
/-- R144: the first of a word's queue holds the reservation and has the word; one that is refused holds none, and the next follows.
A read that is not served stops it (R329, R349). -/
def resvServe (word : Nat) : Nat → State → State
  | 0, s => s
  | fuel + 1, s =>
    match resvOf s word with
    | [] => s
    | n :: l => lookAt s (8 * word) 8 id fun s =>
      match tauRefuses s n.req.launch (8 * word) with
      | some why =>
        let s := modAt (setResv s word l) n.req.rto (fun t => { t with resv := none })
        resvServe word fuel (answer (noteRefusal s n.req.launch false why) n.req.rto (.trap 0x05 n.req.va []))
      | none => answer s n.req.rto (.writes [(n.dst, physRead s (8 * word) 8)])
/-- R144, R145: the reservation of a word passes to its next waiter. -/
def resvPass (s : State) (word : Nat) : State :=
  let l := (resvOf s word).tail
  resvServe word l.length (setResv s word l)
/-- R145: the holder of a reservation quits: the word stands, and the next waiter is served. -/
def resvQuit (s : State) (who : TRef) (word : Nat) : State :=
  if ((resvOf s word).head?.map (·.who)) = some who then resvPass s word else s
def execScqRequest (s : State) : Out :=
  match s.ev with
  | .scqRequest r data _ => tauServe s r false (fun s => tauChanges s r.pa (fun s =>
      let s := physWrite s r.pa 8 data
      let s := modAt s r.rto (fun t => { t with resv := none })
      resvPass (answer s r.rto (.writes [])) (r.pa / 8)))
  | _ => .next s

/-- R146. -/
def amoNew (op : AmoOp) (uns : Bool) (old x y : Word) : Option Word :=
  match op with
  | .add => some (old + x)
  | .and => some (old &&& x)
  | .or => some (old ||| x)
  | .xor => some (old ^^^ x)
  | .min => some (if (if uns then old.ule x else old.sle x) then old else x)
  | .max => some (if (if uns then old.ule x else old.sle x) then x else old)
  | .swap => some x
  | .cas => if old = x then some y else none
def execAmoRequest (s : State) : Out :=
  match s.ev with
  | .amoRequest r op uns x y dst => tauServe s r true (fun s => tauReads s r.pa (fun s =>
      let old := physRead s r.pa 8
      match amoNew op uns old x y with
      | some new => tauChanges s r.pa (fun s => answer (physWrite s r.pa 8 new) r.rto (.writes [(dst, old)]))
      | none => answer s r.rto (.writes [(dst, old)])))
  | _ => .next s

/-! ## The reply (R12) -/

/-- R15: what an instruction held in the queues of its core while it waited is free again. -/
def endHolds (s : State) (c : Nat) (pops pushes : Bool) : State :=
  modCore s c (fun x =>
    { x with
      qoHeld := if pushes then x.qoHeld - 1 else x.qoHeld, qoRep := if pushes then false else x.qoRep
      qiHeld := if pops then x.qiHeld - 1 else x.qiHeld })
/-- R12, R147: the thread has its answer; the instruction completes, behind the second fence of R147 if it has one. -/
def replyWrites (s : State) (a : TRef) (len : Nat) (pops pushes : Bool) (after : Scope) (l : List (Reg × Word)) : State :=
  let s := endHolds s a.core pops pushes
  let s := if pops then ackQi s a.core else s
  let s := l.foldl (fun s e => wrAt s a e.1 e.2) s
  -- R96: a push that comes while the instruction is in the pipeline has counted since the start of the cycle
  let s := if pushes then modCore s a.core (fun x => if s.cycle < x.qoBusy then { x with dnIn := x.dnIn - 1 } else x) else s
  let d := fenceDrain s a after
  modThr s a (fun t =>
    { t with pc := t.pc + BitVec.ofNat 64 (2 * len)
             wait := if after = .dflt ∨ drained s a d then .none else .drain d 0
             long := false
             readyAt := max t.readyAt (s.cycle + 1) })
/-- R15, R91, R300: the instruction does not complete: the entry that it took from `qi` goes back, and its place in `qo` is free, from
the next cycle on. -/
def giveBack (s : State) (a : TRef) (popped : Option QEntry) (pushes : Bool) : State :=
  let s := endHolds s a.core popped.isSome pushes
  modCore s a.core (fun x =>
    let x := qTick x s.cycle
    let x := if pushes then { x with qoGone := x.qoGone + 1 } else x
    match popped with
    | some e => { x with up := e :: x.up, upIn := x.upIn + 1 }
    | none => x)
/-- R300: the answer is a trap. -/
def replyTrap (s : State) (a : TRef) (popped : Option QEntry) (pushes : Bool) (code : Nat) (tval : Word)
    (l : List (Reg × Word)) : State :=
  let s := giveBack s a popped pushes
  let s := l.foldl (fun s e => wrAt s a e.1 e.2) s
  endStep a (modThr (trapAt s a code tval) a (fun t => { t with long := false, readyAt := max t.readyAt (s.cycle + 1) }))
/-- R171: the link of a core's downstream queue, with the upstream link at its old target removed. -/
def relink (s : State) (c : Nat) (d : Option Nat) : State :=
  let s := match (core s c).downLink with
    | some o => match foreignMod o with
      | some m => if d = some o then s else emit s m .ordered (.qUnlink (foreignCore o))
      | none => modCore s o (fun x => { x with upLink := none })
    | none => s
  let s := modCore s c (fun x => { x with downLink := d, qOut := 0 })
  match d with
  | some t => if t < modBase then modCore s t (fun x => { x with upLink := some c }) else s
  | none => s
/-- R293: an entry takes effect once the seal of its interval has committed. -/
def released (s : State) (e : EscEntry) : Bool := decide (2 ^ 31 ≤ (e.ivl + 2 ^ 32 - ivl s) % 2 ^ 32)
/-- R365: what a release drops. -/
def dropped (s : State) (e : EscEntry) : Bool :=
  let err := match e.iface with
    | some i => (ifSt s i).st == .error
    | none => false
  err && (match e.what with
    | .stext .. => true
    | .outMsg .. => true
    | _ => false)
/-- R61: the bytes of a completion entry. -/
def completionBytes (tag : Word) (status stale phase : Nat) : List Byte :=
  leBytes 8 tag.toNat ++ leBytes 1 status ++ leBytes 1 phase ++ leBytes 2 stale ++ leBytes 4 0
/-- The bytes of host memory that an entry writes. -/
def hostBytesOf : EscWhat → Nat × List Byte
  | .stext a w d => (a, leBytes (wbytes w) d.toNat)
  | .completion a _ _ tag st stale ph => (a, completionBytes tag st stale ph)
  | _ => (0, [])
/-- R259: a byte that a released entry has written and no link has accepted yet. -/
def releasedByte (s : State) (a : Nat) : Option Byte :=
  s.escrow.findSome? (fun d => d.2.reverse.findSome? (fun e =>
    let w := hostBytesOf e.what
    if released s e && !dropped s e && decide (w.1 ≤ a) then w.2[a - w.1]? else none))
/-- A byte of host memory: what the host or a released store wrote, else a free value. -/
def hostByteAt (s : State) (a : Nat) : Byte :=
  match releasedByte s a with
  | some b => b
  | none => (fget s.hostMem a).getD (Config.hostByte a s.freeN)
/-- R156: what an `ldext` reads: the bytes that the escrow forwarded, the others from the host as it serves the read. -/
def extWord (s : State) (addr : Nat) (w : Width) (fwd : List (Nat × Byte)) : Word :=
  BitVec.ofNat 64 (leNat ((List.range (wbytes w)).map (fun k => (fget fwd (addr + k)).getD (hostByteAt s (addr + k)))))
def replyAt (s : State) (a : TRef) (res : RepRes) : State :=
  match (thr s a).wait with
  | .reply len popped pushes after =>
    match res with
    | .writes l => replyWrites s a len popped.isSome pushes after l
    | .trap code tval l => replyTrap s a popped pushes code tval l
    | .ext dst addr w fwd => replyWrites { s with freeN := s.freeN + 1 } a len popped.isSome pushes after
        [(dst, extWord s addr w fwd)]
    | .link dst c => replyWrites (relink s a.core (some c)) a len popped.isSome pushes after [(dst, 0)]
    | .back => modThr (giveBack s a popped pushes) a (fun t =>
        { t with wait := .none, long := false, readyAt := max t.readyAt (s.cycle + 1) })
  | _ => s
def execReply (s : State) : Out :=
  match s.ev with
  | .reply a res => .next (replyAt s a res)
  | _ => .next s

/-! ## External memory (R155, R156, R293) -/

/-- R155: the windows of a launch's queue. -/
def windowsOf (s : State) (l : Option Nat) : FMap (Nat × Nat) :=
  match launchOf s l with
  | some x => ((fget s.queues x.rcd.queue).map (·.windows)).getD []
  | none => []
def inWindow (s : State) (l : Option Nat) (a n : Nat) : Bool :=
  (windowsOf s l).any (fun e => decide (e.2.1 ≤ a) && decide (a + n ≤ e.2.1 + e.2.2))
def escrowOf (s : State) (die : Nat) : List EscEntry := (fget s.escrow die).getD []

/-- R299: an entry of a slot that no link has accepted. -/
def escrowedBy (s : State) (home : TRef) : Bool := s.escrow.any (fun e => e.2.any (fun x => x.home == home))
/-- R156: the newest pending store of the launch, in an escrow, that covers a byte. -/
def escByte (l : List EscEntry) (launch : Option Nat) (a : Nat) : Option Byte :=
  l.reverse.findSome? (fun e =>
    match e.what with
    | .stext b w d => if e.launch = launch ∧ b ≤ a ∧ a < b + wbytes w
        then some (BitVec.ofNat 8 (d.toNat / 2 ^ (8 * (a - b)))) else none
    | _ => none)
/-- R156: the bytes of a read that the escrow of the core's die forwards: from the newest store of the launch that is not yet
released. -/
def escForward (s : State) (n : Nat) (a : Nat) : List (Nat × Byte) :=
  let esc := (escrowOf s (dieOf s.cur.core)).filter (fun e => !released s e)
  (List.range n).filterMap (fun k => (escByte esc (me s).launch (a + k)).map (fun x => (a + k, x)))
def execLdext (w : Width) (a b : Reg) (i : Imm) (s : State) : Out :=
  .next (runI (2 + i.n) [b] [a] s (fun s =>
    let e := ea s b i
    if e.toNat % wbytes w ≠ 0 then .trap s 0x02 e
    else if !inWindow s (me s).launch e.toNat (wbytes w) then .trap s 0x03 e
    else .reply (post s (.reply s.cur (.ext a e.toNat w (escForward s (wbytes w) e.toNat)))) (a == 31) .dflt))

/-- The interface of a launch. -/
def ifaceOf (s : State) (l : Option Nat) : Option Nat := (launchOf s l).map (·.iface)
def execStext (w : Width) (a b : Reg) (i : Imm) (s : State) : Out :=
  .next (runI (2 + i.n) [b, a] [] s (fun s =>
    let e := ea s b i
    if e.toNat % wbytes w ≠ 0 then .trap s 0x02 e
    else if !inWindow s (me s).launch e.toNat (wbytes w) then .trap s 0x03 e
    else
      let ent : EscEntry :=
        ⟨ivl s, (me s).launch, ifaceOf s (me s).launch, (me s).home, .stext e.toNat w (rd s a)⟩
      .reply (post s (.escrowAccept ⟨dieOf s.cur.core, ent, .thr s.cur⟩)) false .dflt))

/-- R286, R293: an entry goes into the escrow of a die, with the interval in which it was made. -/
def escrowPut (s : State) (die : Nat) (e : EscEntry) : State :=
  let l := escrowOf s die ++ [e]
  let s := { s with escrow := fset s.escrow die l }
  if l.length = 3072 then wantSeal s else s
def escDoor (s : State) (die : Nat) : List EscMsg := (fget s.escIn die).getD []
/-- R155: the entries at the door go in while there is room. -/
def escDrain (die : Nat) : Nat → State → State
  | 0, s => s
  | fuel + 1, s =>
    match escDoor s die with
    | m :: l =>
      if (escrowOf s die).length < 4096 then
        escDrain die fuel (answer (escrowPut { s with escIn := fset s.escIn die l } die m.entry) m.rto (.writes []))
      else s
    | [] => s
/-- R155: a `stext` is accepted once there is room; a full escrow requests a seal. -/
def execEscrowAccept (s : State) : Out :=
  match s.ev with
  | .escrowAccept m =>
    if escDoor s m.die = [] ∧ (escrowOf s m.die).length < 4096
    then .next (answer (escrowPut s m.die m.entry) m.rto (.writes []))
    else .next (wantSeal { s with escIn := fset s.escIn m.die (escDoor s m.die ++ [m]) })
  | _ => .next s

end Sys2Proof.Machine
end

