-- ==== Sys2Proof/Machine/Local.lean ====
section
/-!
DEFINITION. Local memory: the typed buffers (R159 to R161), space M (R162 to R164), rings (R166 to R168), register-mapped
queues (R169 to R171) and the victim tier (R184).
-/
namespace Sys2Proof.Machine
open Sys2Proof

/-! ## The typed buffers -/

def bufOf (x : Core) : Space → List Host.Cell
  | .w => x.bufW
  | .a => x.bufA
  | .c => x.bufC
def setBuf (x : Core) (sp : Space) (m : List Host.Cell) : Core :=
  match sp with
  | .w => { x with bufW := m }
  | .a => { x with bufA := m }
  | .c => { x with bufC := m }
/-- R159: bytes of a buffer. -/
def bufSize : Space → Nat
  | .w => 49152
  | .a => 49152
  | .c => 32768
/-- Bytes of a core's buffer, read and written. -/
def bufRead (s : State) (c : Nat) (sp : Space) (off n : Nat) : Word := mword (bufOf (core s c) sp) off n
def bufWrite (s : State) (c : Nat) (sp : Space) (off : Nat) (l : List Byte) : State :=
  modCore s c (fun x => setBuf x sp (msets (bufOf x sp) off l))

/-- R161: the checks of a local access, in order. -/
def localCheck (s : State) (sp : Space) (off : Word) (n : Nat) (k : State → Eff) : Eff :=
  if off.toNat % n ≠ 0 then .trap s 0x02 off
  else if bufSize sp < off.toNat + n then .trap s 0x03 off
  else k s
def execLd (sp : Space) (w : Width) (a b : Reg) (i : Imm) (s : State) : Out :=
  .next (runI (2 + i.n) [b] [a] s (fun s =>
    localCheck s sp (ea s b i) (wbytes w) (fun s =>
      .done (wr s a (bufRead s s.cur.core sp (ea s b i).toNat (wbytes w))))))
def execSt (sp : Space) (w : Width) (a b : Reg) (i : Imm) (s : State) : Out :=
  .next (runI (2 + i.n) [b, a] [] s (fun s =>
    localCheck s sp (ea s b i) (wbytes w) (fun s =>
      .done (bufWrite s s.cur.core sp (ea s b i).toNat (leBytes (wbytes w) (rd s a).toNat)))))

/-! ## Space M (R162 to R164) -/

def mOff (m : Word) : Nat := bits m 15 0
def mSpaceNum (m : Word) : Nat := bits m 17 16
def mSpace (m : Word) : Space := if mSpaceNum m = 0 then .w else if mSpaceNum m = 1 then .a else .c
def mUnit (m : Word) : Nat := bits m 21 18
def mCluster (m : Word) : Nat := 64 * bits m 28 28 + 8 * bits m 24 22 + bits m 27 25
def mCore (m : Word) : Nat := coreAt (mCluster m) (mUnit m)
/-- R162: the address names a buffer of a core. -/
def mNames (m : Word) : Bool := bits m 63 29 == 0 && mSpaceNum m != 3 && decide (mUnit m ≤ 8)
/-- R163: the checks, all made in the issuing core. -/
def mCheck (s : State) (m : Word) (n : Nat) (k : State → Eff) : Eff :=
  if !mNames m then .trap s 0x03 m
  else if !(clustersOf s (me s).launch).contains (mCluster m) then .trap s 0x03 m
  else if mOff m % n ≠ 0 then .trap s 0x02 m
  else if bufSize (mSpace m) < mOff m + n then .trap s 0x03 m
  else k s
def execLdm (w : Width) (a b : Reg) (i : Imm) (s : State) : Out :=
  .next (runI (2 + i.n) [b] [a] s (fun s =>
    let m := ea s b i
    mCheck s m (wbytes w) (fun s =>
      .reply (post s (.mRead ⟨.thr s.cur, a, identOf s (me s) false, mCore m, mSpace m, mOff m, w, 0⟩)) (a == 31) .dflt)))
def execStm (w : Width) (a b : Reg) (i : Imm) (s : State) : Out :=
  .next (runI (2 + i.n) [b, a] [] s (fun s =>
    let m := ea s b i
    mCheck s m (wbytes w) (fun s =>
      if 16 ≤ (me s).stmOut then retry s .stmRoom
      else
        let msg : MWriteMsg := ⟨some s.cur, identOf s (me s) false, mCore m, mSpace m, mOff m,
          leBytes (wbytes w) (rd s a).toNat, 0⟩
        .done (modMe (post s (.mWrite msg)) (fun t => { t with stmOut := t.stmOut + 1 })))))

/-- R160, R163: a write through space M is applied at the port and acknowledged; a message that reaches a core of another
launch has no effect (R76): a refused read gives a free value (log entry 52). -/
def mAck (s : State) (f : Option TRef) : State :=
  match f with
  | some a => modThr s a (fun t => { t with stmOut := t.stmOut - 1 })
  | none => s
def execMWrite (s : State) : Out :=
  match s.ev with
  | .mWrite m =>
    match arriveAt s m.dest m.ident m.hops with
    | .forward c => .next (post s (.mWrite { m with dest := c, hops := m.hops + 1 }))
    | .accept => .next (mAck (bufWrite s m.dest m.space m.off m.bytes) m.frm)
    | .refuse => .next (mAck s m.frm)
  | _ => .next s
def execMRead (s : State) : Out :=
  match s.ev with
  | .mRead m =>
    match arriveAt s m.dest m.ident m.hops with
    | .forward c => .next (post s (.mRead { m with dest := c, hops := m.hops + 1 }))
    | .accept => .next (answer s m.rto (.writes [(m.dst, bufRead s m.dest m.space m.off (wbytes m.width))]))
    | .refuse =>
      let x := BitVec.ofNat 64 ((Config.freeWord s.freeN).toNat % 2 ^ (8 * wbytes m.width))
      .next (answer { s with freeN := s.freeN + 1 } m.rto (.writes [(m.dst, x)]))
  | _ => .next s
/-- R164. -/
def execLbf (s : State) : Out :=
  .next (runI 2 [] [] s (fun s =>
    let d : Drain := ⟨true, [], false⟩
    if drained s s.cur d then .done s else .left (modMe s (fun t => { t with wait := .drain d 2 }))))

/-! ## Rings (R166 to R168) -/

/-- A copy job names a ring by RINGV and RING of its D1 (R173). -/
def jobRing (j : CpJob) : Option Nat :=
  let d1 := j.desc.getD 1 0
  if (j.kind = .cpy ∨ j.kind = .mint) ∧ bits d1 18 18 = 1 then some (bits d1 20 19) else none
def ringNamed (s : State) (c n : Nat) : Bool :=
  (cluster s (clusterOf c)).cpq.any (fun j => j.core == c && jobRing j == some n)
def ringSize (r : Ring) : Nat := 8 * 2 ^ r.ssz
/-- R167. -/
def ringOfWord (w : Word) : Ring :=
  let cnt := bits w 27 20
  { Ring.reset with en := bits w 29 29 == 1, inA := bits w 28 28 == 1, base := bits w 15 0, ssz := bits w 19 16
                    cnt := cnt, free := cnt + 1 }
def execRcfg (n : Fin 4) (b : Reg) (s : State) : Out :=
  .next (runI 2 [b] [] s (fun s =>
    let w := rd s b
    let r := ringOfWord w
    let old := ring (myCore s) n
    if bits w 63 30 ≠ 0 ∨ (r.en ∧ (11 < r.ssz ∨ r.base % ringSize r ≠ 0 ∨ 49152 < r.base + (r.cnt + 1) * ringSize r))
    then .trap s 0x03 w
    else if old.en ∧ (old.pushers ≠ [] ∨ old.poppers ≠ [] ∨ ringNamed s s.cur.core n)
    then .trap s 0x07 (BitVec.ofNat 64 n.val)
    else .done (modMyCore s (fun x => setRing x n (if r.en then r else Ring.reset)))))

/-- A waiter joins a list once. -/
def joinWait (l : List RWait) (w : RWait) : List RWait := if l.contains w then l else l ++ [w]
/-- R168: a reservation for `w`: the ring and the slot's offset, when it is `w`'s turn. -/
def ringReserve (r : Ring) (w : RWait) : Option (Ring × Nat) :=
  if r.free = 0 ∨ !(r.pushers.headD w == w) then none
  else some ({ r with free := r.free - 1, held := r.held + 1, res := (r.res + 1) % (r.cnt + 1)
                      pushers := r.pushers.filter (· != w) }, r.base + ringSize r * r.res)
def ringTake (r : Ring) (w : RWait) : Option (Ring × Nat) :=
  if r.filled = 0 ∨ !(r.poppers.headD w == w) then none
  else some ({ r with filled := r.filled - 1, taken := r.taken + 1, tak := (r.tak + 1) % (r.cnt + 1)
                      poppers := r.poppers.filter (· != w) }, r.base + ringSize r * r.tak)
def ringCommit (r : Ring) : Ring := { r with held := r.held - 1, filled := r.filled + 1 }
def ringFree (r : Ring) : Ring := { r with taken := r.taken - 1, free := r.free + 1 }
/-- Every ring instruction takes trap 0x07 on a disabled ring; a thread that it traps waits on no ring (R168). -/
def ringI (len : Nat) (n : Fin 4) (dsts : List Reg) (s : State) (k : State → Ring → Eff) : State :=
  let s := runI len [] dsts s (fun s =>
    let r := ring (myCore s) n
    if !r.en then .trap s 0x07 (BitVec.ofNat 64 n.val) else k s r)
  match (me s).wait with
  | .retry _ | .again _ => s
  | _ => leaveRings s s.cur
def execRpush (a : Reg) (n : Fin 4) (s : State) : Out :=
  .next (ringI 2 n [a] s (fun s r =>
    match ringReserve r (.slot s.cur.slot) with
    | some (r', off) => .done (wr (modMyCore s (fun x => setRing x n r')) a (BitVec.ofNat 64 off))
    | none => retry (modMyCore s (fun x => setRing x n { r with pushers := joinWait r.pushers (.slot s.cur.slot) }))
        (.ring n true)))
def execRpop (a : Reg) (n : Fin 4) (s : State) : Out :=
  .next (ringI 2 n [a] s (fun s r =>
    match ringTake r (.slot s.cur.slot) with
    | some (r', off) => .done (wr (modMyCore s (fun x => setRing x n r')) a (BitVec.ofNat 64 off))
    | none => retry (modMyCore s (fun x => setRing x n { r with poppers := joinWait r.poppers (.slot s.cur.slot) }))
        (.ring n false)))
/-- A commit is a `.core` release (R267). -/
def execRpushC (n : Fin 4) (s : State) : Out :=
  .next (ringI 2 n [] s (fun s r =>
    if r.held = 0 then .trap s 0x07 (BitVec.ofNat 64 n.val)
    else fenced s true .core (fun s => .done (modMyCore s (fun x => setRing x n (ringCommit r))))))
def execRpopF (n : Fin 4) (s : State) : Out :=
  .next (ringI 2 n [] s (fun s r =>
    if r.taken = 0 then .trap s 0x07 (BitVec.ofNat 64 n.val)
    else .done (modMyCore s (fun x => setRing x n (ringFree r)))))

/-! ## Queues (R169 to R171) -/

/-- R169, R310: the linked queue has a free entry, and its core does not move; of another module's, at most 16 entries are out. -/
def linkRoom (s : State) (c d : Nat) : Bool :=
  if d < modBase then !(core s d).stopped && decide ((core s d).up.length + (core s d).qiHeld < 16) else decide ((core s c).qOut < 16)
/-- R169: an entry can move: one a cycle, its push complete. -/
def canMove (s : State) (c : Nat) : Bool :=
  let x := core s c
  (decide (1 < x.down.length) || (x.down != [] && decide (x.qoBusy ≤ s.cycle)))
    && (qTick x s.cycle).dnOut == 0 && x.downLink.any (linkRoom s c)
/-- R169: the oldest downstream entry moves to the linked upstream queue while that has a free entry. -/
def queueMove (s : State) (c : Nat) : State :=
  match (core s c).down, (core s c).downLink with
  | e :: l, some d =>
    if canMove s c then
      let s := modCore s c (fun x => let x := qTick x s.cycle; { x with down := l, dnOut := x.dnOut + 1 })
      match foreignMod d with
      | none => modCore s d (fun x => let x := qTick x s.cycle; { x with up := x.up ++ [e], upIn := x.upIn + 1 })
      | some m => emit (modCore s c (fun x => { x with qOut := x.qOut + 1 })) m .ordered (.qEntry (absCore s c) (foreignCore d) e)
    else s
  | _, _ => s
def execQueueTransfer (s : State) : Out :=
  match s.ev with
  | .queueTransfer c => .next (queueMove s c)
  | _ => .next s
/-- R170: the value is pushed with control bit 1; the instruction names `qo`. -/
def execQend (a : Reg) (s : State) : Out :=
  .next (runI 2 [a] [31] s (fun s => .done (modMyCore s (fun x => pushQo x s.cycle ⟨rd s a, true⟩))))
def execQendRet (s : State) : Out :=
  .next (runI 2 [] [] s (fun s =>
    if (me s).qh then .jump (modMe s (fun t => { t with qh := false })) (me s).qhlk
    else .trap s 0x07 (me s).pc))
/-- R76, R171: the core that a `qcfg` reaches, the table of R76 applied at each core on the way; `hops` forwards may follow. -/
def linkTarget (s : State) (i : Ident) : Nat → Nat → Option Nat
  | hops, d =>
    match arriveAt s d i (3 - hops) with
    | .accept => some d
    | .refuse => none
    | .forward e => match hops with
      | 0 => none
      | h + 1 => linkTarget s i h e
/-- R171: the status of a link from core `frm` to the core that a `qcfg` names on this module, and the core it reaches. -/
def linkStatus (s : State) (frm d : Nat) (i : Ident) : Nat × Nat :=
  match linkTarget s i 3 d with
  | none => (3, d)
  | some e => (if (core s e).upLink.any (· != frm) then 4 else 0, e)
/-- R171: a `qcfg` of another module's core reaches this one. -/
def linkGo (s : State) (m : LinkMsg) : State :=
  match linkStatus s m.frm m.dest m.ident with
  | (0, e) => answer (modCore s e (fun x => { x with upLink := some m.frm })) m.rto (.link m.dst (absCore s e))
  | (n, _) => answer s m.rto (status m.dst n)
/-- R171: the entry that the code resolves to. -/
def qcfgGo (s : State) (a : Reg) (code : Nat) : Resolved → Eff
  | .none => .done (wr s a 2)
  | .refused pa => .trap (noteRefusal s (me s).launch false .poison) 0x05 (BitVec.ofNat 64 pa)
  | .entry e =>
    match entV e, entCore e with
    | true, some d =>
      if code / 2 ^ 14 = 3 ∧ entMod e ≠ s.fab.modnum then
        if !reachable s (entMod e) then .trap s 0x06 (BitVec.ofNat 64 code)
        else .reply (emit s (entMod e) .ordered (.qLink ⟨absCore s s.cur.core, d, identOf s (me s) true, code, entGen e, 0,
          .away s.fab.modnum (32 * s.cur.core + s.cur.slot), a⟩)) (a == 31) .dflt
      else match linkStatus s s.cur.core d (identOf s (me s) false) with
        | (0, t) => .done (wr (relink s s.cur.core (some t)) a 0)
        | (n, _) => .done (wr s a (BitVec.ofNat 64 n))
    | _, _ => .done (wr s a 2)
def execQcfg (a b : Reg) (s : State) : Out :=
  .next (runI 2 [b] [a] s (fun s =>
    let code := bits (rd s b) 15 0
    if (myCore s).down ≠ [] ∨ (myCore s).qoHeld ≠ 0 then retry s .qDrain
    else if code = 0 then .done (wr (relink s s.cur.core none) a 0)
    else withRole s code (fun s r => qcfgGo s a code r)))

/-! ## The victim tier (R184) -/

/-- The status of an `evct`, or 0 when it copies. -/
def evctStatus (s : State) (pa m : Word) : Nat :=
  if pa.toNat % 8192 ≠ 0 ∨ mOff m % 8192 ≠ 0 ∨ !mNames m then 4
  else if (core s (mCore m)).launch.isSome ∨ bufSize (mSpace m) < mOff m + 8192 then 4
  else if (List.range 1024).any (fun k => !isFull s (pa.toNat + 8 * k)) then 4
  else 0
/-- The first refusal of a request to any of the 1,024 words of a page. -/
def pageRefuses (s : State) (l : Option Nat) (pa : Nat) : Option (Refuse × Nat) :=
  firstSome (fun k => (tauRefuses s l (pa + 8 * k)).map (fun r => (r, pa + 8 * k))) 0 1024
/-- R350: the requests of a page reach their pseudo-channels. -/
def touchPage (s : State) (pa : Nat) : State := (List.range 32).foldl (fun s g => touch s (pa + 256 * g)) s
/-- The granules of a page. -/
def pageGrans (pa : Nat) : List Nat := (List.range 32).map (fun g => pa + 256 * g)
/-- R136, R261, R347: the requests to a page leave once no entry of the core's store buffer overlaps it and its channels serve. -/
def pageReady (s : State) (pa : Nat) (k : State → Eff) : Eff :=
  if sbTouches (myCore s) pa 8192 then retry s (.sbufOverlap pa 8192)
  else if (pageGrans pa).any (chanBusy s) then retry s (.chan (pageGrans pa))
  else k s
def execEvct (a b c : Reg) (s : State) : Out :=
  .next (runI 3 [b, c] [a] s (fun s =>
    let pa := rd s b
    let m := rd s c
    let n := evctStatus s pa m
    if n ≠ 0 then .done (wr s a (BitVec.ofNat 64 n))
    else pageReady s pa.toNat fun s =>
    if (List.range 256).any (fun k => eccStops s (pa.toNat + 32 * k)) then .reply (trigger s 1) false .dflt
    else if (pageGrans pa.toNat).any (injFires s) then .reply (fireInj s) false .dflt
    else
      let s := touchPage (eccRead s pa.toNat 8192) pa.toNat
      match pageRefuses s (reqLaunch (me s)) pa.toNat with
      | some (r, x) => .trap (noteRefusal s (reqLaunch (me s)) false r) 0x05 (BitVec.ofNat 64 x)
      | none =>
        .reply (post (modCore (bufWrite s (mCore m) (mSpace m) (mOff m) (devBytes s pa.toNat 8192)) (mCore m)
          (fun x => { x with victim := true }))
          (.reply s.cur (status a 0))) (a == 31) .dflt))
/-- R134, R141, R184: one word of a `rcll`: stored and set full; the word's waiters are served. -/
def rcllWord (s : State) (pa : Nat) (x : Word) : State :=
  settle (pa / 8) (waitersOf s (pa / 8)).length (setFull (physWrite s pa 8 x) pa true)
/-- R184: 8 KiB of the core's buffer go to a page. -/
def rcllCopy (s : State) (sp : Space) (off pa : Nat) : State :=
  (List.range 1024).foldl (fun s k => rcllWord s (pa + 8 * k) (bufRead s s.cur.core sp (off + 8 * k) 8)) s
/-- R184: the status of a `rcll`, or 0 when it copies. Log entry 68: an M address that breaks R162, names another core or runs past
the buffer gives status 4 too. -/
def rcllStatus (s : State) (m pa : Word) : Nat :=
  if mOff m % 8192 ≠ 0 ∨ pa.toNat % 8192 ≠ 0 then 4
  else if !mNames m ∨ mCore m ≠ s.cur.core ∨ bufSize (mSpace m) < mOff m + 8192 then 4
  else 0
def execRcll (a b c : Reg) (s : State) : Out :=
  .next (runI 3 [b, c] [a] s (fun s =>
    let m := rd s b
    let pa := rd s c
    let n := rcllStatus s m pa
    if n ≠ 0 then .done (wr s a (BitVec.ofNat 64 n))
    else pageReady s pa.toNat fun s =>
    match pageRefuses s (reqLaunch (me s)) pa.toNat with
      | some (r, x) => .trap (noteRefusal s (reqLaunch (me s)) false r) 0x05 (BitVec.ofNat 64 x)
      | none =>
        if (pageGrans pa.toNat).any (vaultStalls s) then retry s (.vault (pageGrans pa.toNat))
        else .reply (post (rcllCopy s (mSpace m) (mOff m) pa.toNat) (.reply s.cur (status a 0))) (a == 31) .dflt))

end Sys2Proof.Machine
end

