-- ==== Sys2Proof/Machine/Jobs.lean ====
section
/-!
DEFINITION. Jobs of the matrix and copy units: ids and records (R172, R211, R212), and what a `jwait` would meet (R223).
-/
namespace Sys2Proof.Machine
open Sys2Proof

/-- R211: the bank of a core: the number it had when its launch bound it; 8 for a service core. -/
def bankOf (s : State) (c : Nat) : Nat := if unitOf c = 8 then 8 else (core s c).bank
/-- R172, R211: a job id. -/
def mxId (bank seq : Nat) : Nat := seq % 65536 + bank * 2 ^ 17
def cpId (bank seq : Nat) : Nat := seq % 65536 + 65536 + (if bank = 8 then 2 ^ 20 else bank * 2 ^ 17)
def idBank (id : Word) : Nat := if bits id 20 20 = 1 then 8 else bits id 19 17
def mxBank (s : State) (cl n : Nat) : MxBank := (fget (cluster s cl).banks n).getD MxBank.reset
def modBank (s : State) (cl n : Nat) (f : MxBank → MxBank) : State :=
  modCluster s cl (fun x => { x with banks := fset x.banks n (f ((fget x.banks n).getD MxBank.reset)) })
def cpRecs (s : State) (cl n : Nat) : List JobRec := (fget (cluster s cl).cpRecs n).getD []

/-- What an id names (R211). -/
inductive JRef where
  | bad
  | expired
  | job (copy : Bool) (bank : Nat) (r : JobRec)
  deriving DecidableEq, Repr
/-- R211: an id that a push can return names its job or is expired; a copy id of bank 8 with a bit of [19:17] set, which no push
returns, is expired (log entry 72). -/
def jobRef (s : State) (cl : Nat) (id : Word) : JRef :=
  let copy := bits id 16 16 == 1
  if bits id 63 21 ≠ 0 ∨ (!copy ∧ bits id 20 20 = 1) then .bad
  else
    let bank := idBank id
    let l := if copy then cpRecs s cl bank else (mxBank s cl bank).recs
    match l.find? (fun r => r.seq == bits id 15 0) with
    | some r => if bits id 20 20 = 1 ∧ bits id 19 17 ≠ 0 then .expired else .job copy bank r
    | none => .expired
/-- R211: record s mod 64 is written by the job of sequence s. -/
def putRec (l : List JobRec) (r : JobRec) : List JobRec := r :: l.filter (fun e => e.seq % 64 != r.seq % 64)
/-- A record changed. -/
def setRec (s : State) (cl : Nat) (copy : Bool) (bank : Nat) (r : JobRec) : State :=
  if copy then modCluster s cl (fun x => { x with cpRecs := fset x.cpRecs bank (putRec (cpRecs s cl bank) r) })
  else modBank s cl bank (fun b => { b with recs := putRec b.recs r })
def modRec (s : State) (cl id : Nat) (f : JobRec → JobRec) : State :=
  match jobRef s cl (BitVec.ofNat 64 id) with
  | .job copy bank r => setRec s cl copy bank (f r)
  | _ => s
def newSub (unit : Nat) : SubRec :=
  { unit := unit, code := 0, knext := 0, strip := 0, sat := 0, nan := 0, bso := 0, ended := false, told := false, fval := 0 }

/-- R212: the summary of a record: lowest KNEXT and STRIP, the first CODE that is not 0. -/
def summary (r : JobRec) : SubRec :=
  let d := r.subs.headD (newSub 255)
  r.subs.foldl (fun a x =>
    { a with knext := min a.knext x.knext, strip := min a.strip x.strip, code := if a.code = 0 then x.code else a.code }) d
/-- R223: the sub-record of the thread's home core, or else the summary. -/
def subOf (r : JobRec) (unit : Nat) : SubRec :=
  if r.gang then (r.subs.find? (fun x => x.unit == unit)).getD (summary r) else summary r
def stopMask (r : JobRec) : Nat :=
  if r.gang then r.subs.zipIdx.foldl (fun a e => if e.1.ended ∧ e.1.code ≠ 0 then a + 2 ^ e.2 else a) 0 else 0
/-- R212: the status word. -/
def statusWord (r : JobRec) (x : SubRec) : Word :=
  BitVec.ofNat 64 (x.code % 256 + 2 ^ 8 * (stopMask r % 256) + 2 ^ 16 * (x.knext % 65536)
    + (if r.final then 2 ^ 32 else 0) + 2 ^ 48 * (x.strip % 65536))
/-- R223: CODE 15, D 1. -/
def expiredWord : Word := 0x10000000F

/-- The cluster whose units a thread's `jwait` acts on (R211); none from a home on a teller core. The cluster of a home on
another module is that module's. -/
def jobCluster (t : Thread) : Option Nat := if homeTeller t then none else some (clusterOf (foreignCore t.home.core))
/-- R223: the paused job that a `jwait` on `id` meets: the job itself, or an earlier one that needs a slice of it. -/
def pausedFor (s : State) (cl id : Nat) : Option MxJob :=
  let q := (cluster s cl).mxq
  match q.find? (fun j => j.id == id) with
  | none => none
  | some r =>
    if r.pause.isSome then some r
    else (q.takeWhile (fun j => j.id != id)).find? (fun j => j.pause.isSome && j.parts.any (fun p => r.parts.contains p))
/-- A `jwait` that waits would get on. -/
def jobMoves (s : State) (t : Thread) (id : Word) : Bool :=
  match jobCluster t with
  | none => true
  | some cl =>
    match jobRef s cl id with
    | .job _ _ r => r.final || ((pausedFor s cl id.toNat).any (fun q => q.bank == bankOf s t.home.core))
    | _ => true
/-- A `jcanc` that waits would get on. -/
def jobEnded (s : State) (t : Thread) (id : Word) : Bool :=
  match jobCluster t with
  | none => true
  | some cl =>
    match jobRef s cl id with
    | .job _ _ r => r.final
    | _ => true

end Sys2Proof.Machine
end

