-- ==== Sys2Proof/Machine/Stream.lean ====
section
/-!
DEFINITION. Stream work (R229 to R239): contexts, read-ahead, the merge tree, and drawing results.
-/
namespace Sys2Proof.Machine
open Sys2Proof

/-! ## Elements and words (R230, R231) -/

def elemSize (x : Stream) : Nat := if x.w4 then 4 else 8
/-- The word of the source that holds an element, and the first element that a word holds. -/
def wordOf (x : Stream) (i : Nat) : Nat := (x.base.toNat + i * elemSize x) / 8 - x.base.toNat / 8
def firstElem (x : Stream) (k : Nat) : Nat :=
  let a := 8 * (x.base.toNat / 8 + k)
  (a + elemSize x - 1 - x.base.toNat) / elemSize x
/-- The address (or A offset) of a word. -/
def wordAddr (x : Stream) (k : Nat) : Nat := 8 * (x.base.toNat / 8 + k)
def elemVa (x : Stream) (i : Nat) : Word := x.base + BitVec.ofNat 64 (i * elemSize x)
/-- An element that has been read. -/
def elemAt (x : Stream) (i : Nat) : Option Nat :=
  (fget x.words (wordOf x i)).map (fun w =>
    if x.w4 then w.toNat / 2 ^ (8 * ((x.base.toNat + 4 * i) % 8)) % 2 ^ 32 else w.toNat)
def srcEnded (x : Stream) : Bool := x.cursor == x.count
/-- R231: the next read-ahead word: the lowest absent one of the 16 from the cursor on, up to the last element's. -/
def nextWord (x : Stream) : Option Nat :=
  if x.st = .closed ∨ x.fault.isSome ∨ srcEnded x then none
  else
    let k0 := wordOf x x.cursor
    firstSome (fun k => if (fget x.words k).isNone ∧ !x.out.contains k ∧ k ≤ wordOf x (x.count - 1) then some k else none)
      k0 16
/-- R233: the element at the cursor, used: the cursor moves. -/
def advance (x : Stream) : Stream :=
  let x := { x with prev := some ((elemAt x x.cursor).getD 0), cursor := x.cursor + 1 }
  { x with words := if srcEnded x then [] else x.words.filter (fun w => decide (wordOf x x.cursor ≤ w.1)) }
/-- R233: element `i`, not yet used, is smaller than the element before it; both have been read. -/
def ordAt (x : Stream) (i : Nat) : Bool :=
  let before := if i = x.cursor then x.prev else elemAt x (i - 1)
  decide (0 < i ∧ x.cursor ≤ i ∧ i < x.count) && (match before, elemAt x i with
    | some p, some e => decide (e < p)
    | _, _ => false)
/-- R233: word `k` is read: ORD is set if an element is smaller than the one before it. -/
def putWord (x : Stream) (k : Nat) (w : Word) : Stream :=
  let x := { x with words := fset x.words k w, out := x.out.filter (· != k) }
  { x with ord := x.ord || (List.range 3).any (fun j => ordAt x (firstElem x k + j)) }
/-- R229, R236: a context closed; later openings carry another serial number. -/
def closedStream (x : Stream) : Stream := { Stream.reset with serial := x.serial + 1 }
/-- R232: a fault at the first element of a word; of several the earliest stands. -/
def faultWord (x : Stream) (k code : Nat) : Stream :=
  let x := { x with out := x.out.filter (· != k) }
  if x.fault.any (fun f => decide (f.1 ≤ firstElem x k)) then x
  else { x with fault := some (firstElem x k, code), told := false }
def modStream (s : State) (c n : Nat) (f : Stream → Stream) : State :=
  modCore s c (fun x => setStream x n (f (stream x n)))
def gotWord (s : State) (c n k : Nat) (w : Word) : State :=
  modStream s c n (fun x => putWord x k w)

/-! ## Reading ahead (R231, R232) -/

/-- The tag of a stream unit's request to another module: the core and the context, its opening, and the word. -/
def streamTag (c n serial k : Nat) : Nat := 2 ^ 64 * (1 + 4 * c + n) + 2 ^ 40 * (serial % 2 ^ 24) + k
/-- The word that a context can read now: its page is not waited for, and no store-buffer entry holds part of it back. -/
def streamReads (s : State) (c n : Nat) : Option Nat :=
  let x := stream (core s c) n
  if (core s c).stopped then none
  else match nextWord x with
  | none => none
  | some k =>
    if x.inA then some k
    else
      let va := BitVec.ofNat 64 (wordAddr x k)
      match trIn s (tlbFind (core s c).tlb (isTeller c) x.launch va) va needR with
      | .miss =>
        let page := va.toNat / 8192
        if (core s c).misses.any (sameMiss c page x.launch) ∨ (core s c).missQ.any (fun e => sameMiss c page x.launch e.1)
        then none else some k
      | .pa pa => if chanBusy s pa ∨ sbLoad (core s c) pa 8 = .wait then none else some k
      | _ => some k
/-- R231: one word read. -/
def readAhead (s : State) (c n : Nat) : Out :=
  let x := stream (core s c) n
  match streamReads s c n with
  | none => .next s
  | some k =>
    if x.inA then .next (gotWord s c n k (mword (core s c).bufA (wordAddr x k) 8))
    else
      let va := BitVec.ofNat 64 (wordAddr x k)
      let l := x.launch
      match trIn s (tlbFind (core s c).tlb (isTeller c) l va) va needR with
      | .miss => .next (raiseMiss s c 2 l va 0)
      | .trap code => .next (modStream s c n (fun x => faultWord x k (if code = 0x06 then 0x06 else 0x12)))
      | .remote m pa =>
        .next (emit (modStream s c n (fun x => { x with out := x.out ++ [k] })) m .adaptive
          (.read ⟨.away s.fab.modnum (streamTag c n x.serial k), awayLaunch s l, va, pa⟩ .d 0))
      | .pa pa =>
        match sbLoad (core s c) pa 8 with
        | .serve w => .next (gotWord s c n k w)
        | .wait => .next s
        | .none =>
          if eccStops s pa then .next (trigger s 1)
          else
            let s := touch (eccRead s pa 8) pa
            match tauRefuses s l pa with
            | some why => .next (modStream (noteRefusal s l false why) c n (fun x => faultWord x k 0x12))
            | none => .next (if injFires s pa then fireInj s else gotWord s c n k (physRead s pa 8))
def execStreamRead (s : State) : Out :=
  match s.ev with
  | .streamRead c n => readAhead s c n
  | _ => .next s

/-! ## The merge tree (R233, R234) -/

/-- What the next pass of a head's loop needs of a context: ended, its element, a fault, or not yet read. -/
inductive Hd where
  | ended
  | el (e : Nat)
  | fault (code : Nat) (va : Word)
  | absent
  deriving DecidableEq, Repr
def hd (x : Stream) : Hd :=
  if srcEnded x then .ended
  else match elemAt x x.cursor with
    | some e => .el e
    | none => match x.fault with
      | some (i, code) => if i ≤ x.cursor then .fault code (elemVa x x.cursor) else .absent
      | none => .absent
/-- One pass: the end of the loop, an element that is not at hand, or the contexts to advance and what is emitted. -/
inductive Pass where
  | over
  | needs (h : Hd)
  | move (advs : List Nat) (emit : Option Nat)
  deriving DecidableEq, Repr
def passTwo (op : StOp) (x y : Nat) (hx hy : Hd) : Pass :=
  match op, hx, hy with
  | .isect, .ended, _ => .over
  | .isect, _, .ended => .over
  | .diff, .ended, _ => .over
  | .union, .ended, .ended => .over
  | _, .el a, .ended => .move [x] (some a)
  | _, .ended, .el b => .move [y] (some b)
  | .isect, .el a, .el b => if a < b then .move [x] none else if b < a then .move [y] none else .move [x, y] (some a)
  | .diff, .el a, .el b => if a < b then .move [x] (some a) else if b < a then .move [y] none else .move [x, y] none
  | _, .el a, .el b => if a < b then .move [x] (some a) else if b < a then .move [y] (some b) else .move [x, y] (some a)
  | _, .el _, h => .needs h
  | _, h, .ended => .needs h
  | _, h, _ => if h = .ended then .needs hy else .needs h
/-- R233: the not-ended context of least head; ties to the lowest context number. -/
def passMerge (l : List (Nat × Hd)) : Pass :=
  match l.find? (fun e => match e.2 with
    | .fault .. => true
    | .absent => true
    | _ => false) with
  | some e => .needs e.2
  | none =>
    let best := l.foldl (fun (a : Option (Nat × Nat)) e =>
      match e.2, a with
      | .el v, none => some (e.1, v)
      | .el v, some (n, w) => if v < w ∨ (v = w ∧ e.1 < n) then some (e.1, v) else some (n, w)
      | _, a => a) none
    match best with
    | some (n, v) => .move [n] (some v)
    | none => .over
def passOf (x : Core) (n : Nat) : Pass :=
  match (stream x n).st with
  | .head .merge ins => passMerge ((n :: ins).map (fun k => (k, hd (stream x k))))
  | .head op ins => let y := ins.headD 0; passTwo op n y (hd (stream x n)) (hd (stream x y))
  | _ => .over
/-- R234: a head with room whose next pass can run, or has come to the end of its loop. -/
def mergeRuns (x : Core) (n : Nat) : Bool :=
  match (stream x n).st with
  | .head .. =>
    let h := stream x n
    !x.stopped && !h.ended && decide (h.results.length < 16) && (match passOf x n with
      | .needs _ => false
      | _ => true)
  | _ => false
def mergeGo (x : Core) (n : Nat) : Core :=
  if !mergeRuns x n then x
  else
    let x := { x with headRR := (n + 1) % 4 }
    match passOf x n with
    | .over => setStream x n { stream x n with ended := true }
    | .move advs e =>
      let x := advs.foldl (fun x k => setStream x k (advance (stream x k))) x
      let h := stream x n
      setStream x n { h with results := h.results ++ e.toList.map (BitVec.ofNat 64) }
    | .needs _ => x
/-- R234: the head whose turn it is. -/
def mergeNext (x : Core) : Option Nat := ((List.range 4).map (fun k => (x.headRR + k) % 4)).find? (mergeRuns x)
def execMergeStep (s : State) : Out :=
  match s.ev with
  | .mergeStep c n => .next (if mergeNext (core s c) = some n then modCore s c (fun x => mergeGo x n) else s)
  | _ => .next s

/-! ## Opening and combining (R230, R233) -/

def execSopen (x : Fin 4) (b : Reg) (s : State) : Out :=
  .next (runI 2 [b, regUp b 1] [] s (fun s =>
    let d0 := rd s b
    let d1 := rd s (regUp b 1)
    let w4 := bits d1 33 33 == 1
    let size := if w4 then 4 else 8
    let inA := bits d1 32 32 == 1
    let n := bits d1 31 0
    if (stream (myCore s) x).st ≠ .closed then .trap s 0x07 (BitVec.ofNat 64 x.val)
    else if bits d1 63 34 ≠ 0 then .trap s 0x03 d1
    else if d0.toNat % size ≠ 0 then .trap s 0x02 d0
    else if (if inA then 49152 else 2 ^ 64) < d0.toNat + n * size then .trap s 0x03 d0
    else fenced s true .core (fun s =>
      .done (modStream s s.cur.core x (fun old =>
        { Stream.reset with serial := old.serial, st := .plain, owner := s.cur.slot, launch := (me s).launch, base := d0, count := n
                            inA := inA, w4 := w4 })))))
/-- R233: the checks of a combination, and the capture. -/
def combine (op : StOp) (x : Nat) (ins : List Nat) (s : State) : State :=
  runI 2 [] [] s (fun s =>
    let c := myCore s
    let bad (k : Nat) : Bool := (stream c k).st != .plain || (stream c k).owner != s.cur.slot || (stream c k).given
    if (x :: ins).any bad then .trap s 0x07 (BitVec.ofNat 64 x)
    else if ins.any (fun k => (stream c k).w4 != (stream c x).w4) then .trap s 0x03 (BitVec.ofNat 64 x)
    else
      let s := ins.foldl (fun s k => modStream s s.cur.core k (fun y => { y with st := .captured x })) s
      .done (modStream s s.cur.core x (fun y => { y with st := .head op ins })))
def execSisect (x y : Fin 4) (s : State) : Out := .next (combine .isect x [y.val] s)
def execSunion (x y : Fin 4) (s : State) : Out := .next (combine .union x [y.val] s)
def execSdiff (x y : Fin 4) (s : State) : Out := .next (combine .diff x [y.val] s)
def execSmerge (x : Fin 4) (mask : Fin 16) (s : State) : Out :=
  .next (combine .merge x ((List.range 4).filter (fun k => mask.val / 2 ^ k % 2 == 1)) s)

/-! ## Drawing (R235) -/

/-- What a draw of context `n` meets: the end, an element, a fault of some context, or nothing yet. -/
inductive Draw where
  | over
  | el (e : Nat)
  | fault (n : Nat) (code : Nat) (va : Word)
  | none
  deriving DecidableEq, Repr
/-- The contexts whose fault holds a head back. -/
def faultIn (x : Core) (l : List Nat) : Draw :=
  match l.findSome? (fun k => match hd (stream x k) with
    | .fault code va => some (k, code, va)
    | _ => Option.none) with
  | some (k, code, va) => .fault k code va
  | Option.none => .none
def drawOf (x : Core) (n : Nat) : Draw :=
  let h := stream x n
  match h.st with
  | .head _ ins =>
    match h.results with
    | e :: _ => .el e.toNat
    | [] => if h.ended then .over
      else match passOf x n with
        | .needs (.fault ..) => faultIn x (n :: ins)
        | _ => .none
  | _ =>
    match hd h with
    | .ended => .over
    | .el e => .el e
    | .fault code va => .fault n code va
    | .absent => .none
/-- The element drawn leaves the context. -/
def drawn (x : Core) (n : Nat) : Core :=
  let h := stream x n
  setStream x n (match h.st with
    | .head .. => { h with results := h.results.tail, given := true }
    | _ => { advance h with given := true })
/-- R235: a draw by the owner; a captured, closed or foreign context takes trap 0x07. -/
def drawable (s : State) (n : Nat) : Bool :=
  let h := stream (myCore s) n
  h.owner == s.cur.slot && (match h.st with
    | .plain => true
    | .head .. => true
    | _ => false)
/-- R232: the fault that an instruction meets: the first time a trap; reissued, the word is read again. -/
def meetFault (s : State) (n k code : Nat) (va : Word) : Eff :=
  if (stream (myCore s) k).told then
    retry (modStream s s.cur.core k (fun x => { x with fault := none, told := false })) (.stream n)
  else .trap (modStream s s.cur.core k (fun x => { x with told := true })) code va
/-- A waiting draw would get on. -/
def drawReady (s : State) (c n : Nat) : Bool := drawOf (core s c) n != .none
def execSnext (d : Reg) (x : Fin 4) (s : State) : Out :=
  .next (runI 2 [] [] s (fun s =>
    let n := x.val
    if !drawable s n then .trap s 0x07 (BitVec.ofNat 64 n)
    else match drawOf (myCore s) n with
      | .over => .done (wr (wr s d 0) (regUp d 1) 0)
      | .el e => .done (wr (wr (modMyCore s (fun c => drawn c n)) d (BitVec.ofNat 64 e)) (regUp d 1) 1)
      | .fault k code va => meetFault s n k code va
      | .none => retry s (.stream n)))
/-- R235: the elements at hand are drawn; `a`: the A offset of element 0 of the draw. -/
def drawAll (n : Nat) (a : Option Word) (d : Reg) : Nat → State → Eff
  | 0, s => retry s (.stream n)
  | fuel + 1, s =>
    let h := stream (myCore s) n
    match drawOf (myCore s) n with
    | .over => .done (wr (modStream s s.cur.core n (fun x => { x with n := 0 })) d (BitVec.ofNat 64 h.n))
    | .el e =>
      let size := elemSize h
      let off := (a.getD 0).toNat + h.n * size
      if a.isSome ∧ 49152 < off + size then .trap s 0x03 (BitVec.ofNat 64 off)
      else
        let s := if a.isSome then bufWrite s s.cur.core .a off (leBytes size e) else s
        let s := modMyCore s (fun c => drawn c n)
        drawAll n a d fuel (modStream s s.cur.core n (fun x => { x with n := x.n + 1 }))
    | .fault k code va => meetFault s n k code va
    | .none => retry s (.stream n)
def execScnt (d : Reg) (x : Fin 4) (s : State) : Out :=
  .next (runI 2 [] [d] s (fun s =>
    if !drawable s x then .trap s 0x07 (BitVec.ofNat 64 x.val) else drawAll x none d 256 s))
def execScntA (d : Reg) (x : Fin 4) (c : Reg) (s : State) : Out :=
  .next (runI 3 [c] [d] s (fun s =>
    let a := rd s c
    if !drawable s x then .trap s 0x07 (BitVec.ofNat 64 x.val)
    else if a.toNat % elemSize (stream (myCore s) x) ≠ 0 then .trap s 0x02 a
    else drawAll x (some a) d 256 s))

/-! ## Closing (R236) -/

def closedBy (x : Core) (n : Nat) : List Nat :=
  match (stream x n).st with
  | .head _ ins => n :: ins
  | _ => [n]
/-- Every read of the contexts that close has returned. -/
def closeReady (s : State) (c n : Nat) : Bool := (closedBy (core s c) n).all (fun k => (stream (core s c) k).out == [])
def execSclose (d : Reg) (x : Fin 4) (s : State) : Out :=
  .next (runI 2 [] [d] s (fun s =>
    let n := x.val
    if !drawable s n then .trap s 0x07 (BitVec.ofNat 64 n)
    else if !closeReady s s.cur.core n then retry s (.streamOut n)
    else
      let c := myCore s
      let l := closedBy c n
      let h := stream c n
      let ord := l.any (fun k => (stream c k).ord)
      let ended := match h.st with
        | .head .. => passOf c n == .over && h.results == []
        | _ => srcEnded h
      let s := l.foldl (fun s k => modStream s s.cur.core k closedStream) s
      .done (wr s d (b64 ord + 2 * b64 ended))))

end Sys2Proof.Machine
end

