-- ==== Sys2Proof/Machine/Fetch.lean ====
section
/-!
DEFINITION. Fetching and eligibility: the instruction cache (R87 to R89), the next instruction of a slot (R33, R88), the
queues that an instruction names (R15, R91), the causes that keep a thread out of the rotation (R94), and the line fill.
-/
namespace Sys2Proof.Machine
open Sys2Proof

/-! ## The instruction cache (R87) -/

/-- The launch part of a line's tag: on a teller core only. -/
def lineTag (c : Nat) (t : Thread) : Option Nat := if isTeller c then t.launch else none
def lineHit (l : ILine) (line : Nat) (fw : Bool) (tag : Option Nat) : Bool :=
  l.line == line && l.fw == fw && l.launch == tag
def findLine (x : Core) (line : Nat) (fw : Bool) (tag : Option Nat) : Option ILine :=
  x.icache.find? (fun l => lineHit l line fw tag)
/-- The 16-bit word at an address, if its line is in the cache. -/
def fetchWord (x : Core) (fw : Bool) (tag : Option Nat) (va : Nat) : Option HWord :=
  (findLine x (va / 64) fw tag).map (fun l =>
    BitVec.ofNat 16 ((l.bytes.getD (va % 64) 0).toNat + 256 * (l.bytes.getD (va % 64 + 1) 0).toNat))
/-- The words from an address up, at most `n`, as far as the cache holds them; addresses are taken modulo 2^64. -/
def fetchWords (x : Core) (fw : Bool) (tag : Option Nat) (va : Word) : Nat → List HWord
  | 0 => []
  | n + 1 => match fetchWord x fw tag va.toNat with
    | some w => w :: fetchWords x fw tag (va + 2) n
    | none => []

/-- What stands at a slot's pc. -/
inductive NextI where
  | instr (i : Instr)
  | illegal (off : Nat)
  | missing (va : Word)
  deriving DecidableEq, Repr
/-- R88: the instruction buffer of a slot, if it was filled for the slot's pc. -/
def ibufOf (x : Core) (c n : Nat) (t : Thread) : Option IBuf :=
  match fget x.ibufs n with
  | some b => if b.pc = t.pc ∧ b.fw = t.fw ∧ b.tag = lineTag c t then some b else none
  | none => none
/-- R88: the words at a slot's pc: those of its instruction buffer, else what the cache holds. -/
def slotWords (x : Core) (c n : Nat) (t : Thread) : List HWord :=
  match ibufOf x c n t with
  | some b => b.words
  | none => fetchWords x t.fw (lineTag c t) t.pc 5
/-- R33, R88: the next instruction of a slot, or the word whose line is absent. -/
def nextInstr (s : State) (a : TRef) : NextI :=
  let t := thr s a
  let ws := slotWords (core s a.core) a.core a.slot t
  match decode ws with
  | .ok i _ => .instr i
  | .bad off => .illegal off
  | .more => .missing (t.pc + BitVec.ofNat 64 (2 * ws.length))

/-- R87: a line used becomes the most recent. -/
def useLine (l : List ILine) (line : Nat) (fw : Bool) (tag : Option Nat) : List ILine :=
  match l.find? (fun e => lineHit e line fw tag) with
  | some e => e :: l.filter (fun e => !lineHit e line fw tag)
  | none => l
/-- R87: a line installed; of five lines of its set the least recently used leaves. -/
def installLine (l : List ILine) (e : ILine) : List ILine :=
  let l := e :: l.filter (fun d => !lineHit d e.line e.fw e.launch)
  let same := l.filter (fun d => d.line % 64 == e.line % 64)
  match same[4]? with
  | some v => l.filter (fun d => !lineHit d v.line v.fw v.launch)
  | none => l

/-! ## Queues named (R15, R91) -/

/-- Registers `r, …, r + n - 1`. -/
def regRun (r : Reg) (n : Nat) : List Reg := (List.range n).map (fun k => regUp r k)
/-- The general registers that an instruction reads. -/
def srcsOf : Instr → List Reg
  | .mov _ b | .clz _ b | .ctz _ b | .popc _ b => [b]
  | .sel _ b c m => [b, c, m]
  | .add a b c | .sub a b c | .mul a b c | .mulh a b c | .mulhu a b c | .div a b c | .divu a b c | .rem a b c
  | .remu a b c | .and a b c | .or a b c | .xor a b c | .sll a b c | .srl a b c | .sra a b c | .rol a b c
  | .ror a b c | .slt a b c | .sltu a b c | .seq a b c | .sne a b c | .bext a b c | .bdep a b c =>
    [srcX a b c, srcY b c]
  | .addImm a c _ | .andImm a c _ | .orImm a c _ | .xorImm a c _ | .sltImm a c _ | .sllImm a c _ | .srlImm a c _
  | .sraImm a c _ | .rorImm a c _ | .sext _ a c | .zext _ a c => [srcI a c]
  | .bz a _ | .bnz a _ | .jr a => [a]
  | .beq a c _ | .bne a c _ | .blt a c _ | .bge a c _ | .bltu a c _ | .bgeu a c _ => [a, c.getD 0]
  | .jlr _ b => [b]
  | .ldgD _ b _ | .ldgW _ b _ | .ldgH _ b _ | .ldgB _ b _ | .ldfe _ b _ | .ldff _ b _ | .ldx _ b _ | .fes _ b _
  | .lrq _ b _ | .ldext _ _ b _ | .ld _ _ _ b _ | .ldm _ _ b _ => [b]
  | .stgD a b _ | .stgW a b _ | .stgH a b _ | .stgB a b _ | .stfe a b _ | .stff a b _ | .scq a b _ | .stext _ a b _
  | .st _ _ a b _ | .stm _ a b _ => [b, a]
  | .amo op _ b c m _ _ => if op = .cas then [b, c, m] else [b, c]
  | .amofAdd _ b c _ => [b, c]
  | .amoxAdd a b _ | .amoxAddI a b _ => [b, a]
  | .rupd a b _ _ => b :: regRun a 4
  | .chld _ b c n | .chldFail _ b c n => b :: regRun c n
  | .rcfg _ b | .qcfg _ b | .park _ b | .migr _ b | .rolq _ b => [b]
  | .qend a => [a]
  | .evct _ b c | .rcll _ b c => [b, c]
  | .start _ b _ | .spawn _ b _ => regRun b 4
  | .spawnReg _ b c _ => c :: regRun b 4
  | .sendm _ b c => [c, b, regUp b 1]
  | .gsig a b => [a, b]
  | .gsigRun a => [a]
  | .vadd _ _ _ _ x | .vsub _ _ _ _ x | .vmul _ _ _ _ x | .vfma _ _ _ _ x _ | .vmin _ _ _ _ x | .vmax _ _ _ _ x
  | .vand _ _ _ x | .vor _ _ _ x | .vxor _ _ _ x | .vshl _ _ _ x | .vshr _ _ _ x | .vsra _ _ _ x
  | .vcmp _ _ _ _ _ _ x | .vsel _ _ _ x => vsrcRegs x
  | .vbcst _ _ b | .vins _ b _ | .vld _ _ _ _ _ b _ | .vst _ _ _ _ b _ | .pset _ b => [b]
  | .vquant _ _ _ _ c | .vdeq _ _ _ _ c | .vexpd _ _ c => [c]
  | .mxfmt _ b | .mxz _ b | .mxcnt _ b | .mxthr _ b | .jwait _ b | .jtest _ b | .jcanc _ b | .mintT _ b => [b]
  | .mxm _ b | .mxms _ b _ | .mxdrn _ b | .cpy _ b | .mint _ b => regRun b 4
  | .cpyo _ b => regRun b 4
  | .mxg _ b => regRun b 5
  | .sopen _ b => regRun b 2
  | .scntA _ _ c => [c]
  | .ldnn _ b => regRun b 3
  | .stv _ b c | .dlv _ b c | .bart _ b c => [b, c]
  | .ixver _ b | .ixsnap _ b | .barv _ b | .barw _ b | .barwT _ b | .tlbp _ b => [b]
  | .csrw a _ | .csrs a _ | .csrc a _ => [a]
  | .dbgi _ b c => [b, c]
  | .tlbw _ b c => [b, regUp b 1, c]
  | .tlbi _ b c => [b, c]
  | .tlbiAll _ c => [c]
  | _ => []
/-- The general registers that an instruction writes. -/
def dstsOf : Instr → List Reg
  | .mov a _ | .clz a _ | .ctz a _ | .popc a _ | .li a _ | .sel a _ _ _ => [a]
  | .add a _ _ | .sub a _ _ | .mul a _ _ | .mulh a _ _ | .mulhu a _ _ | .div a _ _ | .divu a _ _ | .rem a _ _
  | .remu a _ _ | .and a _ _ | .or a _ _ | .xor a _ _ | .sll a _ _ | .srl a _ _ | .sra a _ _ | .rol a _ _
  | .ror a _ _ | .slt a _ _ | .sltu a _ _ | .seq a _ _ | .sne a _ _ | .bext a _ _ | .bdep a _ _ => [a]
  | .addImm a _ _ | .andImm a _ _ | .orImm a _ _ | .xorImm a _ _ | .sltImm a _ _ | .sllImm a _ _ | .srlImm a _ _
  | .sraImm a _ _ | .rorImm a _ _ | .sext _ a _ | .zext _ a _ => [a]
  | .jlr a _ => [a]
  | .ldgD a _ _ | .ldgW a _ _ | .ldgH a _ _ | .ldgB a _ _ | .ldfe a _ _ | .ldff a _ _ | .ldx a _ _ | .lrq a _ _
  | .ldext _ a _ _ | .ld _ _ a _ _ | .ldm _ a _ _ => [a]
  | .amo _ a _ _ _ _ _ | .amofAdd a _ _ _ => [a]
  | .rpop a _ | .rpush a _ | .qcfg a _ | .evct a _ _ | .rcll a _ _ => [a]
  | .qend _ => [31]
  | .start a _ _ | .spawn a _ _ | .spawnReg a _ _ _ | .park a _ | .sendm a _ _ | .migr a _ | .rolq a _
  | .rolqImm a _ => [a]
  | .vrsum _ d _ _ | .vrmax _ d _ _ | .vrmin _ d _ _ | .vext d _ _ | .vscale _ _ d _ | .pget d _ => [d]
  | .vcmpr _ _ c => [c]
  | .mxfmt d _ | .mxz d _ | .mxcnt d _ | .mxthr d _ | .jwait d _ | .jtest d _ | .jcanc d _ | .mintT d _ | .mxm d _
  | .mxms d _ _ | .mxg d _ | .mxdrn d _ | .cpy d _ | .cpyo d _ | .mint d _ => [d]
  | .scnt d _ | .scntA d _ _ | .sclose d _ => [d]
  | .ldnn d _ | .stv d _ _ | .dlv d _ _ | .barv d _ | .barw d _ | .barwT d _ | .bart d _ _ | .sealq d | .sealw d
  | .ivn d | .ivnRb d | .csrr d _ | .tlbw d _ _ | .tlbi d _ _ | .tlbiAll d _ | .tlbp d _ => [d]
  | _ => []
/-- R35, R182, R318: instructions that only firmware may issue; without FW they are illegal and name no queue. -/
def fwOnly : Instr → Bool
  | .dbgi .. | .tlbw .. | .tlbi .. | .tlbiAll .. => true
  | _ => false

/-! ## Out of the rotation (R94) -/

/-- The condition that a retried instruction waits for holds. -/
def causeGone (s : State) (a : TRef) (t : Thread) : Cause → Bool
  | .mailbox => t.mailbox.isSome
  | .ring n push =>
    let r := ring (core s a.core) n
    if push then r.free != 0 && r.pushers.headD (.slot a.slot) == .slot a.slot
    else r.filled != 0 && r.poppers.headD (.slot a.slot) == .slot a.slot
  | .stmRoom => decide (t.stmOut < 16)
  | .sbufRoom => decide ((core s a.core).sbuf.length < 32)
  | .sbufOverlap pa len => !sbTouches (core s a.core) pa len
  | .sbufOwn => !(core s a.core).sbuf.any (fun e => e.slot == a.slot)
  | .vault pas => !pas.any (vaultStalls s)
  | .before d => drained s a d
  | .mxRoom => decide ((cluster s (clusterOf a.core)).mxq.length < 32)
  | .cpRoom => decide ((cluster s (clusterOf a.core)).cpq.length < 32)
  | .stmDrain => t.stmOut == 0
  | .job id => jobMoves s t id
  | .jobEnd id => jobEnded s t id
  | .stream n => drawReady s a.core n
  | .streamOut n => closeReady s a.core n
  | .qDrain => (core s a.core).down == [] && (core s a.core).qoHeld == 0
  | .rupdRoom => decide (t.rupdOut < 255)
  | .sealw => !escrowedBy s t.home
  | .miss va =>
    let x := core s a.core
    let page := va.toNat / 8192
    !x.misses.any (sameMiss a.core page t.launch) && !x.missQ.any (fun e => sameMiss a.core page t.launch e.1)
  | .migr => moveReady s a
  | .chan pas => !pas.any (chanBusy s)
/-- R93, R94: the thread is in the rotation, or the condition that its instruction waited for has come to hold. -/
def rotates (t : Thread) : Bool :=
  match t.wait with
  | .none | .again _ => true
  | _ => false
def inRotation (s : State) (a : TRef) : Bool := rotates (thr s a)

/-- R15, R48, R91: no other slot has an instruction in the pipeline that names the queue, and the queues as they stood at the start
of the cycle that an instruction names are ready: it can issue, be it to trap or to enter the queue-end
handler. -/
def queuesReady (s : State) (a : TRef) (i : Instr) : Bool :=
  let x := core s a.core
  let t := thr s a
  if fwOnly i && !t.fw then true
  else
    let pops := (srcsOf i).contains 30
    let pushes := (dstsOf i).contains 31
    (!pops || (decide (x.qiBusy ≤ s.cycle) && (x.upLink.isNone && x.up.isEmpty || decide (0 < upReady x s.cycle))))
      && (!pushes || (decide (x.qoBusy ≤ s.cycle)
        && (x.downLink.isNone || decide (x.down.length + (qTick x s.cycle).dnOut + x.qoHeld + (qTick x s.cycle).qoGone < 16))))
/-- R317, R318: a halted core issues slots 27 to 31 and the slot of a STEP. -/
def haltAllows (x : Core) (n : Nat) : Bool := !x.hltd || decide (27 ≤ n) || x.stepping.any (fun p => p.slot == n)
/-- R312, R323: no thread of a launch that is switched out, ended or retiring issues. -/
def launchRuns (s : State) (t : Thread) : Bool :=
  match launchOf s t.launch with
  | some x => x.stage == .setup || x.stage == .running
  | none => true
/-- R186: an instruction that a seal's prepare phase and a pre-emption let complete. -/
def completes : Instr → Bool
  | .evct .. | .rcll .. | .qcfg .. => true
  | _ => false
/-- R186: the thread stands in such an instruction, begun and not complete: it waits for what will come, or to issue again. -/
def finishing (s : State) (a : TRef) : Bool :=
  let x := core s a.core
  let t := slotOf x a.slot
  t.st == .live && !x.gated && haltAllows x a.slot && match nextInstr s a with
    | .instr i => completes i && (match t.wait with
      | .again _ => queuesReady { s with cycle := s.cycle + 8 } a i
      | .retry .qDrain => canMove s a.core
      | .retry _ => true
      | _ => false)
    | _ => false
/-- R91: eligible but for a `yield`. -/
def baseEligible (s : State) (a : TRef) : Bool :=
  let x := core s a.core
  let t := slotOf x a.slot
  t.st == .live && decide (t.readyAt ≤ s.cycle) && inRotation s a && (!x.stopped && launchRuns s t || finishing s a) && !x.gated
    && haltAllows x a.slot
    && match nextInstr s a with
       | .instr i => queuesReady s a i
       | .illegal _ => true
       | .missing _ => false
/-- R82, R91: eligible. -/
def eligible (s : State) (a : TRef) : Bool :=
  baseEligible s a && !((thr s a).yieldTo.any (fun n => baseEligible s ⟨a.core, n⟩))

/-! ## The line fill (R88) -/

/-- A slot whose next instruction needs a line that is absent, and the word of it that misses. -/
def missesLine (s : State) (a : TRef) (line : Nat) (fw : Bool) (tag : Option Nat) : Option Word :=
  let t := thr s a
  if t.st = .live ∧ rotates t ∧ t.fw = fw ∧ lineTag a.core t = tag then
    match nextInstr s a with
    | .missing va => if va.toNat / 64 = line then some va else none
    | _ => none
  else none
/-- R34, R88: every slot that needs the line takes the fault. -/
def faultLine (s : State) (c line : Nat) (fw : Bool) (tag : Option Nat) (code : Nat) : State :=
  (List.range 32).foldl (fun s n =>
    match missesLine s ⟨c, n⟩ line fw tag with
    | some va => endStep ⟨c, n⟩ (trapLater (leaveRings s ⟨c, n⟩) ⟨c, n⟩ code va)
    | none => s) s
/-- R88, R93: the slots that wait on a line become ready in the cycle after it is installed. -/
def wakeLine (s : State) (c line : Nat) (fw : Bool) (tag : Option Nat) (x : Core) : Core :=
  { x with slots := x.slots.map (fun (e : Nat × Thread) =>
      if (missesLine s ⟨c, e.1⟩ line fw tag).isSome then (e.1, { e.2 with readyAt := max e.2.readyAt (s.cycle + 1) })
      else e) }
/-- R88: after every step the buffers of the live slots fill from the cache, and a slot whose line is absent joins those that
wait for a fill, in the order in which the misses are found; one that misses another line joins anew. -/
def fetchSlot (c : Nat) (x : Core) (n : Nat) (t : Thread) : Core :=
  let gone := x.fetchQ.filter (fun e => e.1 != n)
  if t.st ≠ .live then { x with ibufs := fdel x.ibufs n, fetchQ := gone }
  else
    let ws := slotWords x c n t
    match decode ws with
    | .more =>
      { x with
        ibufs := fdel x.ibufs n
        fetchQ :=
          let e := (n, (t.pc + BitVec.ofNat 64 (2 * ws.length)).toNat / 64)
          if !rotates t then gone else if x.fetchQ.contains e then x.fetchQ else gone ++ [e] }
    | _ => { x with ibufs := fset x.ibufs n ⟨t.pc, t.fw, lineTag c t, ws⟩, fetchQ := gone }
def fetchCore (c : Nat) (x : Core) : Core := x.slots.foldl (fun x (e : Nat × Thread) => fetchSlot c x e.1 e.2) x
def endFill (s : State) (c line : Nat) (fw : Bool) (tag : Option Nat) : State :=
  modCore s c (fun x => { x with fills := x.fills.filter (· != (line, fw, tag)) })
/-- R88: all eight words have arrived: the line is installed, or the fill faults. -/
def fillGo (s : State) (a : TRef) (t : Thread) (va : Word) : Out :=
  let line := va.toNat / 64
  let tag := lineTag a.core t
  let base := BitVec.ofNat 64 (64 * line)
  let tr := if t.fw then Tr.pa base.toNat
    else trIn s (tlbFind (core s a.core).tlb (isTeller a.core) t.launch base) base needX
  match tr with
  | .miss => .next (post (raiseMiss s a.core 0 t.launch base 2) (.lineFill a va))
  | .trap code => .next (endFill (faultLine s a.core line t.fw tag code) a.core line t.fw tag)
  | .remote m pa =>
    if !moveReady s a then .next (post s (.lineFill a va)) else
    .next (endFill (shipAway { endStep a s with cur := a } m pa 0 va none false false) a.core line t.fw tag)
  | .pa pa =>
    if eccStops s pa || eccStops s (pa + 32) then .next (trigger s 1)
    else if injFires s pa then .next (fireInj s)
    else
      let s := touch (eccRead s pa 64) pa
      match firstSome (fun k => tauRefuses s (reqLaunch t) (pa + 8 * k)) 0 8 with
      | some why => .next (endFill (faultLine (noteRefusal s (reqLaunch t) false why) a.core line t.fw tag 0x05)
          a.core line t.fw tag)
      | none => .next (endFill (modCore s a.core (fun x =>
          wakeLine s a.core line t.fw tag { x with icache := installLine x.icache ⟨line, t.fw, tag, devBytes s pa 64⟩ }))
          a.core line t.fw tag)
def execLineFill (s : State) : Out :=
  match s.ev with
  | .lineFill a va => fillGo s a (thr s a) va
  | _ => .next s

end Sys2Proof.Machine
end

