-- ==== Sys2Proof/Machine/Copy.lean ====
section
/-!
DEFINITION. The copy unit (R172 to R178): pushes and their checks, reads and writes of space G by the units of a cluster
(R179 to R181, R270), and the four kinds of job, one word (or one code) at a time.
-/
namespace Sys2Proof.Machine
open Sys2Proof

/-! ## Space G for the units of a cluster -/

/-- R181: a miss of a copy unit, for the job of a tag. -/
def raiseCMiss (s : State) (cl tag : Nat) (l : Option Nat) (va : Word) (kind : Nat) : State :=
  let x := cluster s cl
  let page := va.toNat / 8192
  if x.cmiss.any (fun m => m.page == page) then
    modCluster s cl (fun x => { x with cmiss := x.cmiss.map (fun m =>
      if m.page = page ∧ !m.who.contains tag then { m with who := m.who ++ [tag] } else m) })
  else
    let s := modCluster s cl (fun x => { x with cmiss := x.cmiss ++ [⟨page, 1, l, [tag]⟩] })
    post s (.xlatMessage ⟨coreAt cl 8, ⟨va, BitVec.ofNat 64 (kind + 16), copyUnitWord s.fab.modnum cl⟩, none, []⟩)
/-- A job of a tag waits for a miss. -/
def cWaits (s : State) (cl tag : Nat) : Bool := (cluster s cl).cmiss.any (fun m => m.who.contains tag)

/-- What an access of a unit meets: done, a stop with a status of R177 (`refused` by the word's TAU), a wait, or a word asked of another module. -/
inductive EngR where
  | got (s : State) (x : Word)
  | fail (s : State) (code : Nat) (refused : Bool)
  | wait (s : State)
  | asked (s : State)
  deriving Repr

/-- R322: what a write that another module has refused leaves on the launch that issued it; the answer carries the status. -/
def noteAway (s : State) (l : Option Nat) : RepRes → State
  | .trap 0x11 _ _ => noteRefusal s l true .poison
  | .trap 0x15 _ _ => noteRefusal s l true .foreign
  | _ => s
/-- The answer of another module, to a unit on behalf of a launch. -/
def engAnswer (s : State) (l : Option Nat) (rem : Option (Option RepRes)) (k : Unit → EngR) : EngR :=
  match rem with
  | none => k ()
  | some none => .wait s
  | some (some (.writes w)) => .got s ((w.head?.map (·.2)).getD 0)
  | some (some r) => .fail (noteAway s l r) 2 true
/-- R181: the translation of a job's access; an access that a `tlbw` of V = 0 has answered has none. -/
def engTr (s : State) (cl : Nat) (va : Word) (n : Need) (tag : Nat) : Tr :=
  if (cluster s cl).cdeny.contains (va.toNat / 8192, tag) then .trap 0x05
  else trIn s (tlbFind (cluster s cl).ctlb false none va) va n
def engHeard (s : State) (cl : Nat) (va : Word) (tag : Nat) : State :=
  modCluster s cl (fun x => { x with cdeny := x.cdeny.filter (· != (va.toNat / 8192, tag)) })
/-- R172, R298, R353: one word read through a copy unit's TLB. -/
def engRead (s : State) (cl : Nat) (l : Option Nat) (va : Word) (rem : Option (Option RepRes)) (tag : Nat) : EngR :=
  engAnswer s l rem (fun _ =>
    match engTr s cl va needR tag with
    | .miss => .wait (raiseCMiss s cl tag l va 0)
    | .trap 0x05 => .fail (engHeard s cl va tag) 2 false
    | .trap 0x06 => .fail s 3 false
    | .trap _ => .fail s 2 false
    | .remote m pa => .asked (emit s m .adaptive (.read ⟨.away s.fab.modnum tag, awayLaunch s l, va, pa⟩ .d 0))
    | .pa pa =>
      if chanBusy s pa then .wait s
      else if eccStops s pa then .wait (trigger s 1)
      else
        let s := touch (eccRead s pa 8) pa
        match tauRefuses s l pa with
        | some why => .fail (noteRefusal s l false why) 2 true
        | none => if injFires s pa then .wait (fireInj s) else .got s (physRead s pa 8))
/-- R174: one word written. -/
def engWrite (s : State) (cl : Nat) (l : Option Nat) (va x : Word) (rem : Option (Option RepRes)) (tag : Nat) : EngR :=
  engAnswer s l rem (fun _ =>
    match engTr s cl va needW tag with
    | .miss => .wait (raiseCMiss s cl tag l va 1)
    | .trap 0x05 => .fail (engHeard s cl va tag) 2 false
    | .trap 0x06 => .fail s 3 false
    | .trap _ => .fail s 2 false
    | .remote m pa => .asked (emit s m .ordered (.write ⟨.away s.fab.modnum tag, awayLaunch s l, va, pa⟩ x))
    | .pa pa =>
      if chanBusy s pa then .wait s
      else match tauRefuses s l pa with
        | some why => .fail (noteRefusal s l true why) 2 true
        | none => if vaultStalls s pa then .wait s else .got (physWrite s pa 8 x) 0)
/-- The tag of a copy unit's request to another module. -/
def copyTag (cl : Nat) : Nat := 2 ^ 26 + cl

/-! ## Pushes (R172 to R176) -/

/-- R172, R267: the release, the wait for an entry, and the push. A thread on a teller core may not push (R206, R228). -/
def cpPush (s : State) (kind : CpKind) (a : Reg) (desc : List Word) : Eff :=
  let cl := clusterOf s.cur.core
  fenced s true .cl (fun s =>
    if 32 ≤ (cluster s cl).cpq.length then retry s .cpRoom
    else
      let bank := bankOf s s.cur.core
      let seq := (fget (cluster s cl).cpSeq bank).getD 0
      let id := cpId bank seq
      let job : CpJob :=
        { kind := kind, id := id, bank := bank, core := s.cur.core, launch := reqLaunch (me s), desc := desc
          started := false, loc := none, pos := 0, out := 0, last := 0, cancel := false, rem := none, words := [] }
      let s := modCluster s cl (fun x =>
        { x with cpq := x.cpq ++ [job], cpSeq := fset x.cpSeq bank ((seq + 1) % 65536) })
      let s := setRec s cl true bank ⟨seq, false, false, false, [newSub 255], false⟩
      .done (wr s a (BitVec.ofNat 64 id)))
def cpIssuer (s : State) (k : State → Eff) : Eff := if isTeller s.cur.core then .trap s 0x04 0 else k s

/-- The first of some checks that fails: its trap. -/
def checks (s : State) : List (Bool × Nat × Word) → (State → Eff) → Eff
  | [], k => k s
  | (bad, code, tval) :: l, k => if bad then .trap s code tval else checks s l k

def d1Off (d1 : Word) : Nat := bits d1 15 0
def d1Space (d1 : Word) : Space := if bits d1 17 16 = 0 then .w else .a
def d1Ringv (d1 : Word) : Bool := bits d1 18 18 == 1
def d1Ring (d1 : Word) : Nat := bits d1 20 19
/-- R173: the room in the buffer from OFFSET, or in a slot of the ring; a ring that is not enabled has no slot, and the check of
span is left to that of the ring (log entry 69). -/
def cpRoom (s : State) (d1 : Word) (need : Nat) : Bool :=
  if d1Ringv d1 then
    let r := ring (myCore s) (d1Ring d1)
    !r.en || decide (need ≤ ringSize r)
  else decide (d1Off d1 + need ≤ 49152)
def ringBad (s : State) (d1 : Word) : Bool :=
  let r := ring (myCore s) (d1Ring d1)
  d1Ringv d1 && (!r.en || r.inA != (d1Space d1 == .a))
def descOf (s : State) (b : Reg) (n : Nat) : List Word := (regRun b n).map (rd s)

/-- R173. -/
def execCpy (a b : Reg) (s : State) : Out :=
  .next (runI 2 (regRun b 4) [a] s (fun s => cpIssuer s (fun s =>
    let d := descOf s b 4
    let d0 := d.getD 0 0
    let d1 := d.getD 1 0
    let d2 := d.getD 2 0
    let d3 := d.getD 3 0
    let rowlen := bits d2 31 0
    let rows := bits d2 47 32 + 1
    let lstride := bits d3 47 32
    checks s
      [(decide (2 ≤ bits d1 17 16), 0x04, d1),
       (bits d1 63 21 != 0, 0x03, d1), (bits d2 63 48 != 0, 0x03, d2), (bits d3 63 48 != 0, 0x03, d3),
       (rowlen == 0, 0x03, d2), (!cpRoom s d1 ((rows - 1) * lstride + rowlen), 0x03, d2),
       (d0.toNat % 8 != 0, 0x02, d0), (d1Off d1 % 8 != 0, 0x02, d1), (rowlen % 8 != 0, 0x02, d2),
       (bits d3 31 0 % 8 != 0 || lstride % 8 != 0, 0x02, d3),
       (ringBad s d1, 0x07, BitVec.ofNat 64 (d1Ring d1))]
      (fun s => cpPush s .cpy a d))))
/-- R174. -/
def execCpyo (a b : Reg) (s : State) : Out :=
  .next (runI 2 (regRun b 4) [a] s (fun s => cpIssuer s (fun s =>
    let d := descOf s b 4
    let d0 := d.getD 0 0
    let d1 := d.getD 1 0
    let d2 := d.getD 2 0
    let d3 := d.getD 3 0
    checks s
      [(d3 != 0, 0x03, d3), (decide (d2.toNat < 8) || decide (2 ^ 32 < d2.toNat), 0x03, d2),
       (d0.toNat % 8 != 0, 0x02, d0), (d1.toNat % 8 != 0, 0x02, d1), (d2.toNat % 8 != 0, 0x02, d2)]
      (fun s => cpPush s .cpyo a d))))
/-- R176. -/
def execMint (a b : Reg) (s : State) : Out :=
  .next (runI 2 (regRun b 4) [a] s (fun s => cpIssuer s (fun s =>
    let d := descOf s b 4
    let d0 := d.getD 0 0
    let d1 := d.getD 1 0
    let d2 := d.getD 2 0
    checks s
      [(bits d1 17 16 != 0, 0x04, d1), (bits d1 63 21 != 0, 0x03, d1),
       (d2 == 0 || decide (49152 < d2.toNat) || !cpRoom s d1 d2.toNat, 0x03, d2),
       (d0.toNat % 8 != 0, 0x02, d0), (d1Off d1 % 8 != 0, 0x02, d1), (d2.toNat % 8 != 0, 0x02, d2),
       (ringBad s d1, 0x07, BitVec.ofNat 64 (d1Ring d1))]
      (fun s => cpPush s .mint a d))))
/-- R175. -/
def execMintT (a b : Reg) (s : State) : Out :=
  .next (runI 3 [b] [a] s (fun s => cpIssuer s (fun s =>
    let d0 := rd s b
    if d0.toNat % 64 ≠ 0 then .trap s 0x02 d0 else cpPush s .mintT a [d0])))

/-! ## The jobs -/

/-- R168: a job at the head of the queue that ends while it waits for a slot of its ring waits no more. -/
def cpUnwait (s : State) (cl : Nat) (j : CpJob) : State :=
  match jobRing j, ((cluster s cl).cpq.head?.map (·.id)) == some j.id && !j.started with
  | some n, true => modCore s j.core (fun x =>
      let r := ring x n
      setRing x n { r with pushers := r.pushers.filter (· != .copy) })
  | _, _ => s
/-- R181: a job that has ended waits for no miss; only the job at the head does. -/
def cpUnmiss (x : Cluster) (cl id : Nat) : Cluster :=
  if x.cpq.head?.map (·.id) = some id then
    { x with cmiss := x.cmiss.map (fun m => { m with who := m.who.filter (· != copyTag cl) })
             cdeny := x.cdeny.filter (fun e => e.2 != copyTag cl) }
  else x
/-- R270: the completion record: the job leaves the queue. -/
def cpEnd (s : State) (cl : Nat) (j : CpJob) (code : Nat) (fval : Word) : State :=
  let s := cpUnwait s cl j
  let s := modCluster s cl (fun x =>
    let x := cpUnmiss x cl j.id
    { x with cpq := x.cpq.filter (fun e => e.id != j.id) })
  modRec s cl j.id (fun r =>
    { r with final := true, subs := r.subs.map (fun x => { x with code := code, ended := true, fval := fval }) })
/-- A job saved back in the queue. -/
def cpPut (s : State) (cl : Nat) (j : CpJob) : State :=
  modCluster s cl (fun x => { x with cpq := x.cpq.map (fun e => if e.id = j.id then j else e) })
/-- The ring slot is committed (R168), and the job is done. -/
def cpDone (s : State) (cl : Nat) (j : CpJob) : State :=
  let s := match jobRing j with
    | some n => modCore s j.core (fun x => setRing x n (ringCommit (ring x n)))
    | none => s
  cpEnd s cl j 0 0
/-- A word of space G for a job, then `k`. -/
def cpRead (s : State) (cl : Nat) (j : CpJob) (va : Word) (k : State → CpJob → Word → State) : Out :=
  match engRead s cl j.launch va j.rem (copyTag cl) with
  | .got s x => .next (k s { j with rem := none } x)
  | .fail s code _ => .next (cpEnd s cl j code va)
  | .wait s => .next s
  | .asked s => .next (cpPut s cl { j with rem := some none })
/-- R168, R173: the first step: a slot of the ring, waiting as its waiters do, or OFFSET. -/
def cpStart (s : State) (cl : Nat) (j : CpJob) : State :=
  match jobRing j with
  | none => cpPut s cl { j with started := true, loc := some (d1Off (j.desc.getD 1 0)) }
  | some n =>
    let r := ring (core s j.core) n
    match ringReserve r .copy with
    | some (r', off) =>
      cpPut (modCore s j.core (fun x => setRing x n r')) cl { j with started := true, loc := some off }
    | none => modCore s j.core (fun x => setRing x n { r with pushers := joinWait r.pushers .copy })
/-- R186, R312: the core of the job is stopped; the job stops with it at a word boundary. -/
def cpHeld (s : State) (j : CpJob) : Bool := (core s j.core).stopped
/-- The job at the head of the queue, of a kind; cancelled at a word boundary, once a word asked of another module has
returned (R270). -/
def cpStep (s : State) (cl : Nat) (kind : CpKind) (k : State → CpJob → Out) : Out :=
  match (cluster s cl).cpq with
  | j :: _ =>
    if j.kind ≠ kind ∨ cpHeld s j then .next s
    else if j.cancel ∧ j.rem ≠ some none then .next (cpEnd s cl j 1 0)
    else if !j.started then .next (cpStart s cl j)
    else k s j
  | [] => .next s

/-- R173: one word of a `cpy`. -/
def copyWord (cl : Nat) (s : State) (j : CpJob) : Out :=
  let d1 := j.desc.getD 1 0
  let d2 := j.desc.getD 2 0
  let d3 := j.desc.getD 3 0
  let perRow := bits d2 31 0 / 8
  let rows := bits d2 47 32 + 1
  let r := j.pos / perRow
  let w := j.pos % perRow
  let g : Word := ((d3.setWidth 32).signExtend 64)
  let va := j.desc.getD 0 0 + BitVec.ofNat 64 r * g + BitVec.ofNat 64 (8 * w)
  cpRead s cl j va (fun s j x =>
    let s := bufWrite s j.core (d1Space d1) (j.loc.getD 0 + r * bits d3 47 32 + 8 * w) (leBytes 8 x.toNat)
    let j := { j with pos := j.pos + 1 }
    if j.pos = rows * perRow then cpDone s cl j else cpPut s cl j)
def execCopyJob (s : State) : Out :=
  match s.ev with
  | .copyJob cl => cpStep s cl .cpy (copyWord cl)
  | _ => .next s
/-- R174: a word read, then written. -/
def copyoWord (cl : Nat) (s : State) (j : CpJob) : Out :=
  let off := BitVec.ofNat 64 (8 * j.pos)
  match fget j.words 0 with
  | none => cpRead s cl j (j.desc.getD 0 0 + off) (fun s j x => cpPut s cl { j with words := [(0, x)] })
  | some x =>
    let va := j.desc.getD 1 0 + off
    match engWrite s cl j.launch va x j.rem (copyTag cl) with
    | .got s _ =>
      let j := { j with pos := j.pos + 1, words := [], rem := none }
      .next (if 8 * j.pos = (j.desc.getD 2 0).toNat then cpEnd s cl j 0 0 else cpPut s cl j)
    | .fail s code _ => .next (cpEnd s cl j code va)
    | .wait s => .next s
    | .asked s => .next (cpPut s cl { j with rem := some none })
def execCopyoJob (s : State) : Out :=
  match s.ev with
  | .copyoJob cl => cpStep s cl .cpyo (copyoWord cl)
  | _ => .next s

/-- R175: one word of a table, two entries. -/
def mintTWord (cl : Nat) (s : State) (j : CpJob) : Out :=
  cpRead s cl j (j.desc.getD 0 0 + BitVec.ofNat 64 (8 * j.pos)) (fun s j x =>
    let s := modCluster s cl (fun c =>
      { c with mint := fset (fset c.mint (2 * j.pos) (x.setWidth 32)) (2 * j.pos + 1) ((x >>> 32).setWidth 32) })
    let j := { j with pos := j.pos + 1 }
    if j.pos = 2048 then cpEnd s cl j 0 0 else cpPut s cl j)
def execMintTableJob (s : State) : Out :=
  match s.ev with
  | .mintTableJob cl => cpStep s cl .mintT (mintTWord cl)
  | _ => .next s

/-- R176: stream bit `p`; bits past D3 bytes read as 0. -/
def mintBit (j : CpJob) (p : Nat) : Nat :=
  if (j.desc.getD 3 0).toNat * 8 ≤ p then 0
  else ((fget j.words (p / 64)).getD 0).toNat / 2 ^ (8 * (p / 8 % 8) + (7 - p % 8)) % 2
/-- The next 12 bits, the first highest. -/
def mintPeek (j : CpJob) : Nat := (List.range 12).foldl (fun a k => 2 * a + mintBit j (j.pos + k)) 0
/-- The word of the stream that the next 12 bits need and the unit does not hold. -/
def mintNeeds (j : CpJob) : Option Nat :=
  ([j.pos / 64, (j.pos + 11) / 64]).find? (fun k =>
    decide (8 * k < (j.desc.getD 3 0).toNat) && (fget j.words k).isNone)
/-- R176: one code of the stream. -/
def mintCode (cl : Nat) (s : State) (j : CpJob) : State :=
  let d2 := (j.desc.getD 2 0).toNat
  let d3 := (j.desc.getD 3 0).toNat
  let e := ((fget (cluster s cl).mint (mintPeek j)).getD 0).toNat
  let len := e % 16
  let sym := e / 65536 % 1024
  if len = 0 ∨ 512 ≤ sym ∨ 8 * d3 < j.pos + len then cpEnd s cl j 4 0
  else
    let n := if sym < 256 then 1 else sym - 256 + 2
    if d2 < j.out + n then cpEnd s cl j 4 0
    else
      let x : Byte := if sym < 256 then BitVec.ofNat 8 sym else j.last
      let s := bufWrite s j.core .w (j.loc.getD 0 + j.out) (List.replicate n x)
      let j := { j with out := j.out + n, pos := j.pos + len, last := x
                        words := j.words.filter (fun w => decide ((j.pos + len) / 64 ≤ w.1)) }
      if j.out = d2 then cpDone s cl j else cpPut s cl j
def mintWord (cl : Nat) (s : State) (j : CpJob) : Out :=
  match mintNeeds j with
  | some k => cpRead s cl j (j.desc.getD 0 0 + BitVec.ofNat 64 (8 * k)) (fun s j x =>
      cpPut s cl { j with words := fset j.words k x })
  | none => .next (mintCode cl s j)
def execMintJob (s : State) : Out :=
  match s.ev with
  | .mintJob cl => cpStep s cl .mint (mintWord cl)
  | _ => .next s

end Sys2Proof.Machine
end

