-- ==== Sys2Proof/Machine/Crypto.lean ====
section
/-!
DEFINITION. The checks of the mask-ROM loader (R360): SHA-256 over bytes, and the verification of an ECDSA signature on the
curve P-256, both as their published standards define them (log entry 41).
-/
namespace Sys2Proof.Machine
open Sys2Proof

/-! ## SHA-256 -/

abbrev W32 := BitVec 32

/-- The primes below 312: the first 64. -/
def smallPrimes : List Nat :=
  (List.range 312).filter (fun n => decide (2 ≤ n) && (List.range n).all (fun d => decide (d < 2) || n % d != 0))
/-- The whole part of the k-th root of a number below 2^(42 × k), one bit at a time from the highest. -/
def rootBits (k n : Nat) : Nat → Nat → Nat
  | 0, x => x
  | b + 1, x => rootBits k n b (if (x + 2 ^ b) ^ k ≤ n then x + 2 ^ b else x)
/-- The first 32 bits of the fraction of the k-th root of a prime. -/
def rootFrac (k p : Nat) : W32 := BitVec.ofNat 32 (rootBits k (p * 2 ^ (32 * k)) 42 0)
/-- The round constants: the fractions of the cube roots. -/
def shaK : List W32 := smallPrimes.map (rootFrac 3)
/-- The first hash value: the fractions of the square roots. -/
def shaInit : List W32 := (smallPrimes.take 8).map (rootFrac 2)

/-- Big-endian numbers. -/
def beNat (l : List Byte) : Nat := l.foldl (fun a x => 256 * a + x.toNat) 0
def beBytes (n x : Nat) : List Byte := (leBytes n x).reverse
/-- The message with its padding. -/
def shaPad (l : List Byte) : List Byte :=
  l ++ [0x80] ++ List.replicate ((119 - l.length % 64) % 64) 0 ++ beBytes 8 (8 * l.length)
def sig0 (x : W32) : W32 := x.rotateRight 7 ^^^ x.rotateRight 18 ^^^ (x >>> 3)
def sig1 (x : W32) : W32 := x.rotateRight 17 ^^^ x.rotateRight 19 ^^^ (x >>> 10)
/-- The message schedule, newest word first. -/
def shaSched : Nat → List W32 → List W32
  | 0, w => w
  | n + 1, w => shaSched n ((sig1 (w.getD 1 0) + w.getD 6 0 + sig0 (w.getD 14 0) + w.getD 15 0) :: w)
def shaRound (h : List W32) (k w : W32) : List W32 :=
  match h with
  | [a, b, c, d, e, f, g, x] =>
    let s1 := e.rotateRight 6 ^^^ e.rotateRight 11 ^^^ e.rotateRight 25
    let t1 := x + s1 + ((e &&& f) ^^^ (~~~e &&& g)) + k + w
    let s0 := a.rotateRight 2 ^^^ a.rotateRight 13 ^^^ a.rotateRight 22
    let t2 := s0 + ((a &&& b) ^^^ (a &&& c) ^^^ (b &&& c))
    [t1 + t2, a, b, c, d + t1, e, f, g]
  | h => h
def shaBlock (h : List W32) (bs : List Byte) : List W32 :=
  let w := (List.range 16).map (fun i => BitVec.ofNat 32 (beNat ((bs.drop (4 * i)).take 4)))
  let ws := (shaSched 48 w.reverse).reverse
  List.zipWith (· + ·) h ((shaK.zip ws).foldl (fun h e => shaRound h e.1 e.2) h)
def shaBlocks : Nat → List W32 → List Byte → List W32
  | 0, h, _ => h
  | n + 1, h, l => shaBlocks n (shaBlock h (l.take 64)) (l.drop 64)
def sha256 (l : List Byte) : Nat :=
  let p := shaPad l
  (shaBlocks (p.length / 64) shaInit p).foldl (fun a x => 2 ^ 32 * a + x.toNat) 0

/-! ## ECDSA on P-256 -/

def p256P : Nat := 0xffffffff00000001000000000000000000000000ffffffffffffffffffffffff
def p256N : Nat := 0xffffffff00000000ffffffffffffffffbce6faada7179e84f3b9cac2fc632551
def p256B : Nat := 0x5ac635d8aa3a93e7b3ebbd55769886bc651d06b0cc53b0f63bce3c3e27d2604b
def p256Gx : Nat := 0x6b17d1f2e12c4247f8bce6e563a440f277037d812deb33a0f4a13945d898c296
def p256Gy : Nat := 0x4fe342e2fe1a7f9b8ee7eb4a7c0f9e162bce33576b315ececbb6406837bf51f5

/-- `a ^ e` modulo `m`, over `n` bits of `e`. -/
def powMod (m : Nat) : Nat → Nat → Nat → Nat
  | 0, _, _ => 1 % m
  | n + 1, a, e =>
    let r := powMod m n (a * a % m) (e / 2)
    if e % 2 = 1 then a * r % m else r
/-- The inverse modulo a prime. -/
def invMod (m a : Nat) : Nat := powMod m 256 (a % m) (m - 2)
def subMod (m a b : Nat) : Nat := (a + (m - b % m)) % m
/-- The sum of two points of the curve; `none` is the point at infinity. -/
def p256Add : Option (Nat × Nat) → Option (Nat × Nat) → Option (Nat × Nat)
  | none, q => q
  | p, none => p
  | some (x, y), some (u, v) =>
    if x = u ∧ (y + v) % p256P = 0 then none
    else
      let l := if x = u then (3 * x * x + (p256P - 3)) * invMod p256P (2 * y) % p256P
        else subMod p256P v y * invMod p256P (subMod p256P u x) % p256P
      let z := subMod p256P (l * l) (x + u)
      some (z, subMod p256P (l * subMod p256P x z) y)
def p256Mul : Nat → Nat → Option (Nat × Nat) → Option (Nat × Nat)
  | 0, _, _ => none
  | n + 1, k, p =>
    let r := p256Mul n (k / 2) (p256Add p p)
    if k % 2 = 1 then p256Add r p else r
def onCurve (x y : Nat) : Bool :=
  decide (x < p256P) && decide (y < p256P) && y * y % p256P == (x * x * x + (p256P - 3) * x + p256B) % p256P
def ecdsaOk (hash x y r s : Nat) : Bool :=
  decide (0 < r) && decide (r < p256N) && decide (0 < s) && decide (s < p256N) && onCurve x y
    && (let w := invMod p256N s
        match p256Add (p256Mul 256 (hash * w % p256N) (some (p256Gx, p256Gy))) (p256Mul 256 (r * w % p256N) (some (x, y))) with
        | some (a, _) => a % p256N == r
        | none => false)

/-- R362: the public identity key, X then Y, big-endian; a private key of 0 is none. -/
def identityPub : List Byte :=
  match p256Mul 256 (Config.identityKey.toNat % p256N) (some (p256Gx, p256Gy)) with
  | some (x, y) => beBytes 32 x ++ beBytes 32 y
  | none => []
/-- R362: a signature, r then s, under the identity key; `k` is its secret number. -/
def identitySign (hash k : Nat) : List Byte :=
  match p256Mul 256 (k % p256N) (some (p256Gx, p256Gy)) with
  | some (x, _) =>
    let r := x % p256N
    beBytes 32 r ++ beBytes 32 (invMod p256N k * (hash + r * Config.identityKey.toNat) % p256N)
  | none => []
/-- R362: the certificate of the identity key. -/
def identityCert : List Byte := identityPub ++ Config.makerSign identityPub

end Sys2Proof.Machine
end

