-- ==== Sys2Proof/Machine/Sync.lean ====
section
/-!
DEFINITION. Fences (R264) and barriers (R273 to R280).
-/
namespace Sys2Proof.Machine
open Sys2Proof

/-- R264. -/
def execFence (xs : Option Scope) (s : State) : Out :=
  .next (runI (2 + optLen xs) [] [] s (fun s =>
    let d := fenceDrain s s.cur (scopeIs xs)
    if drained s s.cur d then .done s
    else .left (modMe s (fun t => { t with wait := .drain d (2 + optLen xs) }))))

/-! ## Barriers -/

def bwBar (w : Word) : Nat := bits w 3 0
def bwAuto (w : Word) : Bool := bits w 8 8 == 1
def bwPhase (w : Word) : Nat := bits w 63 32
/-- R274: a reserved bit is set. -/
def bwBad (w : Word) : Bool := bits w 7 4 != 0 || bits w 31 9 != 0
/-- R275: the barrier unit that a thread uses: of its bind cluster on this module, or of that of the core of its home (a tag) on
another module. -/
inductive BarAt where
  | here (cl : Nat)
  | away (modnum home : Nat)
  deriving DecidableEq, Repr
/-- R275: none when the thread's home is a teller core. -/
def barUnit (s : State) (t : Thread) : Option BarAt :=
  if homeTeller t then none
  else match foreignMod t.home.core with
    | some m => some (.away m (32 * foreignCore t.home.core + t.home.slot))
    | none => some (.here (core s t.home.core).bindCl)
/-- A request to the barrier unit leaves, and its reply is awaited: `ev` with the cluster, or `pkt` with the home on another
module, and the requester; `long`: the unit may hold it through a seal. -/
def barSend (s : State) (u : BarAt) (d : Reg) (long : Bool) (ev : Nat → ReplyTo → Ev) (pkt : Nat → ReplyTo → PktBody) : Eff :=
  match u with
  | .here cl => .reply (post s (ev cl (.thr s.cur))) (d == 31) .dflt
  | .away m c =>
    .reply (emit (modMe s (fun t => { t with long := long })) m .ordered (pkt c (.away s.fab.modnum (32 * s.cur.core + s.cur.slot)))) (d == 31) .dflt
def bar (s : State) (cl n : Nat) : Barrier := (fget (cluster s cl).bars n).getD Barrier.reset
def modBar (s : State) (cl n : Nat) (f : Barrier → Barrier) : State :=
  modCluster s cl (fun x => { x with bars := fset x.bars n (f ((fget x.bars n).getD Barrier.reset)) })
/-- R273: phase arithmetic modulo 2^32. -/
def phaseDist (done q : Nat) : Nat := (q + 2 ^ 32 - done % 2 ^ 32) % 2 ^ 32
def phaseComplete (b : Barrier) (q : Nat) : Bool := decide (2 ^ 31 ≤ phaseDist b.done q)
def cntOf (b : Barrier) (q : Nat) : Nat := b.cnts.toList.getD (q % 4) 0
def setCnt (b : Barrier) (q n : Nat) : Barrier := { b with cnts := b.cnts.mapIdx (fun i x => if i = q % 4 then n else x) }

/-- The checks of a barrier instruction on its word. -/
def barI (len : Nat) (srcs : List Reg) (d b : Reg) (autoOk phaseOk : Bool) (s : State)
    (k : State → BarAt → Word → Eff) : State :=
  runI len srcs [d] s (fun s =>
    let w := rd s b
    if bwBad w || (bwAuto w && !autoOk) || (bwPhase w != 0 && !phaseOk) then .trap s 0x03 w
    else match barUnit s (me s) with
      | none => .trap s 0x07 w
      | some u => k s u w)
/-- R276. -/
def execBarv (d b : Reg) (s : State) : Out :=
  .next (barI 2 [b] d b true true s (fun s u w =>
    let msg (cl : Nat) (rto : ReplyTo) : ArriveMsg := ⟨cl, bwBar w, bwAuto w, bwPhase w, w, some (rto, d)⟩
    fenced s true .cl (fun s => barSend s u d true (fun cl r => .arrive (msg cl r)) (fun c r => .arrive (msg c r)))))
/-- R277. -/
def barwI (len : Nat) (test : Bool) (d b : Reg) (s : State) : State :=
  barI len [b] d b false true s (fun s u w =>
    let msg (cl : Nat) (rto : ReplyTo) : BarwMsg := ⟨cl, bwBar w, bwPhase w, test, w, rto, d⟩
    barSend s u d false (fun cl r => .barwRequest (msg cl r)) (fun c r => .barw (msg c r)))
def execBarw (d b : Reg) (s : State) : Out := .next (barwI 2 false d b s)
def execBarwT (d b : Reg) (s : State) : Out := .next (barwI 3 true d b s)
/-- R278: TARGET set, unless an arrival is counted or held (status 4). -/
def setTarget (s : State) (cl : Nat) (w x : Word) : State × Nat :=
  let br := bar s cl (bwBar w)
  if br.cnts.toList.any (· != 0) || br.held != [] then (s, 4)
  else (modBar s cl (bwBar w) (fun br => { br with target := bits x 15 0 }), 0)
/-- R278. -/
def execBart (d b c : Reg) (s : State) : Out :=
  .next (barI 3 [b, c] d b false false s (fun s u w =>
    let x := rd s c
    if bits x 63 16 ≠ 0 then .trap s 0x03 x
    else match u with
      | .here cl =>
        let (s', n) := setTarget s cl w x
        .done (wr s' d (BitVec.ofNat 64 n))
      | .away m h =>
        .reply (emit s m .ordered
          (.bart ⟨h, 0⟩ w x (.away s.fab.modnum (32 * s.cur.core + s.cur.slot)) d)) (d == 31) .dflt))

/-- R277: the `barw` that wait on a completed phase get their reply. -/
def wakeBarw (s : State) (cl n : Nat) : State :=
  let b := bar s cl n
  let s := modBar s cl n (fun b => { b with waiters := b.waiters.filter (fun m => !phaseComplete b m.phase) })
  (b.waiters.filter (fun m => phaseComplete b m.phase)).foldl
    (fun s m => answer s m.rto (.writes [(m.dst, BitVec.ofNat 64 b.done)])) s
/-- R276: the oldest open phase is full. -/
def phaseFull (b : Barrier) : Bool := b.target != 0 && cntOf b b.done == b.target
/-- R276: full phases complete, oldest first, and each wakes those that wait for it; four are open at most. -/
def completePhases (cl n : Nat) : Nat → State → State
  | 0, s => s
  | fuel + 1, s =>
    if phaseFull (bar s cl n)
    then completePhases cl n fuel
      (wakeBarw (modBar s cl n (fun b => { setCnt b b.done 0 with done := (b.done + 1) % 2 ^ 32 })) cl n)
    else s
/-- R276: an arrival: held, refused (trap 0x07), or counted in a phase. -/
inductive ArrRes where
  | hold
  | refuse
  | count (q : Nat)
  deriving DecidableEq, Repr
def arrRes (b : Barrier) (auto : Bool) (phase : Nat) : ArrRes :=
  if b.target = 0 then .refuse
  else if auto then
    match (List.range 4).find? (fun i => decide (cntOf b (b.done + i) < b.target)) with
    | some i => .count ((b.done + i) % 2 ^ 32)
    | none => .hold
  else
    let d := phaseDist b.done phase
    if 2 ^ 31 ≤ d then .refuse
    else if 4 ≤ d then .hold
    else if cntOf b phase = b.target then .refuse
    else .count phase
/-- R279: an engine's arrival that finds TARGET 0 is discarded. -/
def arrAnswer (s : State) (rto : Option (ReplyTo × Reg)) (res : Option Nat) (w : Word) : State :=
  match rto, res with
  | some (a, d), some q => answer s a (.writes [(d, BitVec.ofNat 64 q)])
  | some (a, _), none => answer s a (.trap 0x07 w [])
  | none, _ => s
/-- R276: one arrival at the unit; held arrivals are served again by the caller. -/
def arriveOne (s : State) (cl n : Nat) (h : HeldArr) : State :=
  match arrRes (bar s cl n) h.auto h.phase with
  | .refuse => arrAnswer s h.rto none h.word
  | .hold => modBar s cl n (fun b => { b with held := b.held ++ [h] })
  | .count q =>
    completePhases cl n 4 (arrAnswer (modBar s cl n (fun b => setCnt b q (cntOf b q + 1))) h.rto (some q) h.word)
/-- R276: while DONE changes, the held arrivals are served again in arrival order; each pass serves one arrival at least,
or ends. -/
def serveHeld (cl n : Nat) : Nat → Nat → State → State
  | 0, _, s => s
  | fuel + 1, done, s =>
    if (bar s cl n).done = done then s
    else
      let l := (bar s cl n).held
      let now := (bar s cl n).done
      let s := modBar s cl n (fun b => { b with held := [] })
      serveHeld cl n fuel now (l.foldl (fun s h => arriveOne s cl n h) s)
def heldCount (s : State) (cl : Nat) : Nat := (cluster s cl).bars.foldl (fun k e => k + e.2.held.length) 0
/-- R275, R276: an arrival reaches the unit; past 64 held arrivals it waits in the mesh. -/
def arriveGo (s : State) (m : ArriveMsg) : State :=
  let b := bar s m.cluster m.bar
  if 64 ≤ heldCount s m.cluster ∧ arrRes b m.auto m.phase = .hold then post s s.ev
  else serveHeld m.cluster m.bar (b.held.length + 2) b.done
    (arriveOne s m.cluster m.bar ⟨m.auto, m.phase, m.word, m.rto⟩)
def execArrive (s : State) : Out :=
  match s.ev with
  | .arrive m => .next (arriveGo s m)
  | _ => .next s
/-- R277. -/
def barwGo (s : State) (m : BarwMsg) : State :=
  let b := bar s m.cluster m.bar
  if b.target = 0 then answer s m.rto (.trap 0x07 m.word [])
  else if m.test then answer s m.rto (.writes [(m.dst, b64 (phaseComplete b m.phase))])
  else if phaseComplete b m.phase then answer s m.rto (.writes [(m.dst, BitVec.ofNat 64 b.done)])
  else modBar s m.cluster m.bar (fun b => { b with waiters := b.waiters ++ [m] })
def execBarwRequest (s : State) : Out :=
  match s.ev with
  | .barwRequest m => .next (barwGo s m)
  | _ => .next s

end Sys2Proof.Machine
end

