-- ==== Sys2Proof/Machine/Place.lean ====
section
/-!
DEFINITION. Placing and messages: page 3 (R78 to R85), what happens at the core a message reaches (R71, R72, R76), context
shipments (R180), remote updates at their teller (R150).
-/
namespace Sys2Proof.Machine
open Sys2Proof

/-! ## Slots -/

/-- R71: the slot is free; one that a `quit` freed counts from the cycle after the `quit` leaves the pipeline. -/
def isFree (now : Nat) (t : Thread) : Bool := t.st == .free && decide (t.readyAt ≤ now)
/-- R71: the lowest free slot of a range. -/
def freeSlot (x : Core) (now lo hi : Nat) : Option Nat :=
  firstSome (fun n => if isFree now (slotOf x n) then some n else none) lo (hi + 1 - lo)
def freeGuest (x : Core) (now : Nat) : Option Nat := freeSlot x now 11 26
/-- R46, R79: the registers of a new thread: pc and the words in g1 up; the rest as a spawned thread's. -/
def newThread (at_ : TRef) (launch : Option Nat) (pc : Word) (ws : List Word) (now : Nat) : Thread :=
  let g := ws.zipIdx.foldl (fun (g : Vector Word 32) e => g.setIfInBounds (e.2 + 1) e.1) (Vector.replicate 32 0)
  { Thread.reset at_.slot with st := .live, pc := pc, g := g, launch := launch, home := at_, readyAt := now + 1 }
/-- R71, R83: the guest slot of a teller core, else of the other tellers of its stack in rising number. -/
def tellerSlot (s : State) (t : Nat) : Option TRef :=
  match freeGuest (core s t) s.cycle with
  | some n => some ⟨t, n⟩
  | none =>
    let first := tellerBase + (t - tellerBase) / 8 * 8
    firstSome (fun c => (freeGuest (core s c) s.cycle).map (fun n => ⟨c, n⟩)) first 8

/-! ## Roles as destinations -/

/-- R267: the scope of the release of `spawn` and `sendm`. -/
def destScope (s : State) (e : Word) (domain : Bool) : Scope :=
  if domain && entMod e != s.fab.modnum then .dom
  else if entUnit e ≤ 8 && !isTeller s.cur.core && entCluster e == clusterOf s.cur.core then .cl
  else .dev
/-- R73, R77, R374: an instruction that sends to a role: no role or an unbound one gives status 2; else the release and the
send `k` (to a core, on another module or not, with the entry's GEN). -/
def toRole (s : State) (code : Nat) (a : Reg) (k : State → Nat → Option Nat → Nat → State) : Eff :=
  withRole s code fun s r => match r with
  | .none => .done (wr s a 2)
  | .refused pa => .trap (noteRefusal s (me s).launch false .poison) 0x05 (BitVec.ofNat 64 pa)
  | .entry e =>
    match entV e, entCore e with
    | true, some c =>
      let dm := decide (code / 2 ^ 14 = 3)
      let m := if dm && entMod e != s.fab.modnum then some (entMod e) else none
      if m.any (fun m => !reachable s m) then .trap s 0x06 (BitVec.ofNat 64 code)
      else fenced s true (destScope s e dm) (fun s => .reply (k s c m (entGen e)) (a == 31) .dflt)
    | _, _ => .done (wr s a 2)

/-- R79: the four words. -/
def fourWords (s : State) (b : Reg) : List Word := [rd s b, rd s (regUp b 1), rd s (regUp b 2), rd s (regUp b 3)]
def sendPlace (s : State) (a b : Reg) (target : Word) (guest : Bool) (role gen c : Nat) (m : Option Nat) : State :=
  let msg (rto : ReplyTo) (away : Bool) : PlaceMsg :=
    ⟨c, identOf s (me s) away, role, gen, guest, target, fourWords s b, rto, a, 0⟩
  match m with
  | none => post s (.place (msg (.thr s.cur) false))
  | some m => emit s m .ordered (.place (msg (.away s.fab.modnum (awayTag s.cur)) true))
/-- Helpers live or away (R79). -/
def helpers (x : Core) : Nat :=
  ((List.range 10).filter (fun k => (slotOf x (k + 1)).st == .live || (slotOf x (k + 1)).st == .away)).length
def execStart (a b : Reg) (i : Imm) (s : State) : Out :=
  .next (runI (2 + i.n) (regRun b 4) [a] s (fun s =>
    if s.cur.slot ≠ 0 then .done (wr s a 4)
    else if helpers (myCore s) = 10 then .done (wr s a 1)
    else fenced s true .core (fun s =>
      .reply (sendPlace s a b (relTarget s i.v) false 0 0 s.cur.core none) (a == 31) .dflt)))
/-- R78: imm[15:0] is the role code, the bits above it the offset. -/
def execSpawn (a b : Reg) (i : Imm) (s : State) : Out :=
  .next (runI (2 + i.n) (regRun b 4) [a] s (fun s =>
    let code := (i.v % 65536).toNat
    toRole s code a (fun s c m gen => sendPlace s a b (relTarget s (i.v / 65536)) true code gen c m)))
def execSpawnReg (a b c : Reg) (i : Imm) (s : State) : Out :=
  .next (runI (3 + i.n) (c :: regRun b 4) [a] s (fun s =>
    let code := bits (rd s c) 15 0
    toRole s code a (fun s d m gen => sendPlace s a b (relTarget s i.v) true code gen d m)))

/-- R79: a placement at the core that it reaches. -/
def placeGo (s : State) (m : PlaceMsg) : State :=
  match arriveAt s m.dest m.ident m.hops with
  | .forward c => post s (.place { m with dest := c, hops := m.hops + 1 })
  | .refuse => answer s m.rto (status m.dst 3)
  | .accept =>
    match if m.guest then freeGuest (core s m.dest) s.cycle else freeSlot (core s m.dest) s.cycle 1 10 with
    | none => answer s m.rto (status m.dst 1)
    | some n =>
      let r : TRef := ⟨m.dest, n⟩
      answer (fill s r (newThread r (launchNum s m.ident) m.target m.words s.cycle)) m.rto (status m.dst 0)
def execPlace (s : State) : Out :=
  match s.ev with
  | .place m => .next (placeGo s m)
  | _ => .next s

/-! ## `quit` (R80) -/

/-- R229, R236: the streams that a slot owns are closed. -/
def closeStreams (x : Core) (slot : Nat) : Core :=
  { x with streams := x.streams.map (fun e => if e.2.owner = slot ∧ e.2.st ≠ .closed then (e.1, closedStream e.2) else e) }
/-- R229, R236: a context of the slot whose reads have not all returned. -/
def streamOut (s : State) (a : TRef) : Option Nat :=
  (List.range 4).find? (fun n =>
    let x := stream (core s a.core) n
    x.owner == a.slot && x.st != .closed && !closeReady s a.core n)
/-- R150: who is told when a remote-update thread quits. -/
def sendAck (s : State) : Option AckTo → State
  | some (.slot r) => post s (.updateAck r)
  | some (.away m tag) => emit s m .adaptive (.updateAck tag)
  | none => s
/-- R80: a free message goes to the home slot of an away thread. -/
def sendFree (s : State) (home : TRef) : State :=
  if home = s.cur then s
  else if home.core < modBase then post s (.freeMessage home)
  else emit s (home.core / modBase - 1) .ordered (.freeHome ⟨home.core % modBase, home.slot⟩)
def quitGo (s : State) : State :=
  let t := me s
  let s := match t.resv with
    | some (m, w) =>
      if m = s.fab.modnum then resvQuit s t.home w
      else emit s m .ordered (.resvQuit ⟨absCore s t.home.core, t.home.slot⟩ w)
    | none => s
  let s := sendFree (sendAck s t.acks) t.home
  let s := modMyCore s (fun x => closeStreams x s.cur.slot)
  fill s s.cur { Thread.reset s.cur.slot with
    readyAt := s.cycle + 8, launch := if t.rupdOut = 0 then none else t.launch }
/-- R71, R80: the slot is free or idle once the `quit` has left the pipeline; R229: the streams of the slot close first, as
`sclose` closes them. -/
def execQuit (s : State) : Out :=
  .next (runI 2 [] [] s (fun s =>
    match streamOut s s.cur with
    | some n => retry s (.streamOut n)
    | none => .left (quitGo s)))
def execFreeMessage (s : State) : Out :=
  match s.ev with
  | .freeMessage r => .next (if (thr s r).st = .away then fill s r (Thread.reset r.slot) else s)
  | _ => .next s

/-! ## Waiting, yielding and messages (R81, R82) -/

/-- R82: the answer of a `park`: 1 when the mailbox is full as the thread resumes. -/
def unpark (s : State) (r : TRef) : State :=
  match (thr s r).parked with
  | some (_, d) =>
    let x := b64 (thr s r).mailbox.isSome
    replyAt (modThr s r (fun t => { t with parked := none })) r (.writes [(d, x)])
  | none => s
def execPark (a b : Reg) (s : State) : Out :=
  .next (runI 2 [b] [a] s (fun s =>
    if (me s).mailbox.isSome then .done (wr s a 1)
    else
      let lim := if rd s b = 0 then none else some (s.cycle + (rd s b).toNat)
      .reply (modMe s (fun t => { t with parked := some (lim, a) })) (a == 31) .dflt))
/-- R308, R312: the launch of a thread is being switched out, or is. -/
def launchStops (s : State) (l : Option Nat) : Bool := (launchOf s l).any (fun x => x.stage == .stopping || x.stage == .out)
/-- R82, R308: the limit of a `park` does not run: its core is stopped, or its launch is being switched out. -/
def parkHeld (s : State) (c : Nat) (t : Thread) : Bool := (core s c).stopped || launchStops s t.launch
/-- R82: the limit has passed. -/
def parkOver (s : State) (r : TRef) : Bool :=
  match (thr s r).parked with
  | some (some d, _) => decide (d ≤ s.cycle) && !parkHeld s r.core (thr s r)
  | _ => false
def execParkTimeout (s : State) : Out :=
  match s.ev with
  | .parkTimeout r => .next (if parkOver s r then unpark s r else s)
  | _ => .next s
/-- R82: the slots eligible in the cycle of the `yield`. -/
def execYield (s : State) : Out :=
  .next (runI 2 [] [] s (fun s =>
    let l := (List.range 32).filter (fun n => n != s.cur.slot && eligible s ⟨s.cur.core, n⟩)
    .done (modMe s (fun t => { t with yieldTo := l }))))

/-- R81: a `sendm`. -/
def execSendm (a b c : Reg) (s : State) : Out :=
  .next (runI 3 [c, b, regUp b 1] [a] s (fun s =>
    let mail : Mail := ⟨rd s b, rd s (regUp b 1), unitWord s.fab.modnum s.cur.core⟩
    let slot := bits (rd s c) 20 16
    let code := bits (rd s c) 15 0
    toRole s code a (fun s d m gen =>
      match m with
      | none => post s (.mailboxMessage ⟨d, identOf s (me s) false, code, gen, slot, mail, .thr s.cur, a, 0⟩)
      | some m => emit s m .ordered
          (.mail ⟨d, identOf s (me s) true, code, gen, slot, mail, .away s.fab.modnum (awayTag s.cur), a, 0⟩))))
/-- R81: the message at a core that accepts it. -/
def mailGo (s : State) (m : MailMsg) : State :=
  match arriveAt s m.dest m.ident m.hops with
  | .forward c => post s (.mailboxMessage { m with dest := c, hops := m.hops + 1 })
  | .refuse => answer s m.rto (status m.dst 3)
  | .accept =>
    let r : TRef := ⟨m.dest, m.slot⟩
    let t := thr s r
    if m.slot = 27 then
      answer (post s (.wakeMessage ⟨m.dest, m.mail, launchNum s m.ident, []⟩)) m.rto (status m.dst 0)
    else if 28 ≤ m.slot then answer s m.rto (status m.dst 4)
    else if t.st = .free then answer s m.rto (status m.dst 5)
    else if t.st = .away ∨ t.mailbox.isSome then answer s m.rto (status m.dst 1)
    else unpark (answer (modThr s r (fun t => { t with mailbox := some m.mail })) m.rto (status m.dst 0)) r
def execMailboxMessage (s : State) : Out :=
  match s.ev with
  | .mailboxMessage m => .next (mailGo s m)
  | _ => .next s
def execWfm (a : Reg) (s : State) : Out :=
  .next (runI 2 [] [a, regUp a 1, regUp a 2] s (fun s =>
    match (me s).mailbox with
    | none => retry s .mailbox
    | some m =>
      let s := wr (wr (wr s a m.w0) (regUp a 1) m.w1) (regUp a 2) m.sender
      .done (modMe s (fun t => { t with mailbox := none }))))

/-! ## Class messages (R72) -/

def execWakeMessage (s : State) : Out :=
  match s.ev with
  | .wakeMessage m => .next (classArrive s m.dest 27 m.mail)
  | _ => .next s
def execXlatMessage (s : State) : Out :=
  match s.ev with
  | .xlatMessage m => .next (classArrive s m.dest 28 m.mail)
  | _ => .next s
def execRecallMessage (s : State) : Out :=
  match s.ev with
  | .recallMessage m => .next (classArrive s m.dest 30 m.mail)
  | _ => .next s

/-! ## Migration and shipment (R83, R180) -/

/-- R83, R150: every earlier access of the thread is accepted by its owner. -/
def migrReady (s : State) : Bool := moveReady s s.cur
/-- R83: the context moves to a slot of this module; `gd` = 0 at the destination: a `gd` of g31 pushes to the queue of the core where
the thread then runs, with no test of its link or room (log entry 53). -/
def moveCtx (s : State) (dest : TRef) (a : Reg) (pops : Bool) : State :=
  let t := { me (popQi s pops) with
    pc := (me s).pc + 4, wait := .none, st := .live, readyAt := s.cycle + 8 }
  let s := popQi s pops
  let s := if s.cur = t.home then modMe s (fun t => { t with st := .away, wait := .none, mailbox := none })
    else fill s s.cur (leftSlot (s.cycle + 8) s.cur.slot)
  wrAt (fill s dest t) dest a 0
def execMigr (a b : Reg) (s : State) : Out :=
  .next (runI 2 [b] [a] s (fun s =>
    if 27 ≤ s.cur.slot then .done (wr s a 4)
    else if b = 0 then
      if (me s).home = s.cur then .done (wr s a 4)
      else if !migrReady s then retry s .migr
      else if homeHere (me s) then .left (moveCtx s (me s).home a false)
      else .left (shipAway s ((me s).home.core / modBase - 1) 0 0 0 (some (2, a)) true false)
    else
      let va := rd s b
      match translate s s.cur va ⟨false, false, false⟩ with
      | .trap code => .trap s code va
      | .miss => retry (raiseMiss s s.cur.core 0 (me s).launch va 0) (.miss va)
      | .remote m pa =>
        if !migrReady s then retry s .migr
        else .left (shipAway s m pa 0 va (some (2, a)) false (b == 30))
      | .pa pa =>
        match tellerSlot s (tellerOf pa) with
        | none => .done (wr s a 1)
        | some r => if !migrReady s then retry s .migr else .left (moveCtx s r a (b == 30))))

/-- The operation of a shipped access that this module's FBCAP must hold (R379): 0 none. -/
def shipAllowed (s : State) (op : Nat) : Bool :=
  hasCap s s.fab.modnum 21 && (op == 0 || hasCap s s.fab.modnum (op - 1))
/-- The home of a shipped context, as this module names it. -/
def shipHome (s : State) (m : ShipMsg) : TRef :=
  let c := m.ctx.home.core
  let a : TRef := ⟨relCore s (if c < modBase then modBase * (1 + m.frm) + c else c), m.ctx.home.slot⟩
  if a.core < modBase then whereIs s isAway a else a
/-- R83, R180: a shipped context takes its slot; a `migr` completes there. -/
def seatShip (s : State) (m : ShipMsg) (r : TRef) : State :=
  let t := { m.ctx with
    st := .live, wait := .none, readyAt := s.cycle + 1, home := shipHome s m, launch := launchNum s m.ident }
  match m.fin with
  | none => fill s r t
  | some (len, d) => wrAt (fill s r { t with pc := t.pc + BitVec.ofNat 64 (2 * len) }) r d 0
/-- R83, R180, R379: a shipped context takes a guest slot, waits for one, or is NACKed; one that returns takes the slot that is
held for it. -/
def shipGo (s : State) (m : ShipMsg) : State :=
  if m.toHome then (if (thr s (shipHome s m)).st = .away then seatShip s m (shipHome s m) else s)
  else if !shipAllowed s m.op then emit s m.frm .adaptive (.nack m)
  else match tellerSlot s m.teller with
    | none => post s s.ev
    | some r => seatShip s m r
def execContextShipment (s : State) : Out :=
  match s.ev with
  | .contextShipment m => .next (shipGo s m)
  | _ => .next s

/-! ## Signals and roles (R84, R85) -/

/-- The launch number that a signal carries. A signal goes to the Arbor of the module where its thread runs (log entry 54). -/
def myLaunch (s : State) : Nat := (me s).launch.getD 0xFFFF
def execGsig (a b : Reg) (s : State) : Out :=
  .next (runI 2 [a, b] [] s (fun s =>
    fenced s true .dev (fun s =>
      .done (post s (.completionSignal (myLaunch s) (me s).dtag (bits (rd s a) 31 0) (bits (rd s b) 31 0))))))
def execGsigRun (a : Reg) (s : State) : Out :=
  .next (runI 3 [a] [] s (fun s =>
    fenced s true .dev (fun s => .done (post s (.runRequest (myLaunch s) (bits (rd s a) 3 0) 1)))))
def rolqEff (s : State) (code : Nat) (a : Reg) : Eff :=
  withRole s code fun s r => match r with
  | .none => .done (wr s a 0)
  | .refused pa => .trap (noteRefusal s (me s).launch false .poison) 0x05 (BitVec.ofNat 64 pa)
  | .entry e => .reply (post s (.reply s.cur (.writes [(a, e)]))) (a == 31) .dflt
def execRolq (a b : Reg) (s : State) : Out :=
  .next (runI 2 [b] [a] s (fun s => rolqEff s (bits (rd s b) 15 0) a))
def execRolqImm (a : Reg) (i : Imm) (s : State) : Out :=
  .next (runI (2 + i.n) [] [a] s (fun s => rolqEff s i.v.toNat a))

/-! ## Remote updates (R150) -/

/-- R150: an UPDATE takes a guest slot of its teller's stack, or waits for one. -/
def updateGo (s : State) (m : UpdateMsg) : State :=
  match tellerSlot s m.teller with
  | none => post s s.ev
  | some r =>
    let t := newThread r (launchNum s m.ident) m.target (m.words.take 4 ++ [m.addr]) s.cycle
    fill s r { t with acks := some m.acks }
def execUpdate (s : State) : Out :=
  match s.ev with
  | .update m => .next (updateGo s m)
  | _ => .next s
def execUpdateAck (s : State) : Out :=
  match s.ev with
  | .updateAck r => .next (modThr s r (fun t => { t with rupdOut := t.rupdOut - 1 }))
  | _ => .next s

end Sys2Proof.Machine
end

