-- ==== Sys2Proof/Machine/Tlb.lean ====
section
/-!
DEFINITION. The TLB instructions of firmware (R182, R183) and what happens at the TLB that they reach (R181, R314, R315).
-/
namespace Sys2Proof.Machine
open Sys2Proof

/-! ## Targets (R183) -/

/-- L: the launch that binds the issuing core's cluster. -/
def clusterLaunch (s : State) : Option Nat := (cluster s (clusterOf s.cur.core)).launch
/-- R183: the TLB that a target word names; `all` for a unit of any cluster (the caller judges which). -/
def targetOf (s : State) (c : Reg) : Option TlbAt :=
  let w := rd s c
  if c = 0 then some (.core s.cur.core)
  else if entMod w ≠ s.fab.modnum ∧ entMod w ≠ 0x3FF then none
  else if entUnit w = 9 then some (.copy (entCluster w))
  else (entCore w).map .core
def tlbCluster : TlbAt → Option Nat
  | .core c => if isTeller c then none else some (clusterOf c)
  | .copy cl => some cl
def onTeller : TlbAt → Bool
  | .core c => isTeller c
  | .copy _ => false
/-- R183, R307: LOCK of a core's TLB for an instruction that issues now; that of a copy unit is 0. -/
def lockOf (s : State) : TlbAt → Nat
  | .core c => (((csrStands (core s c) s.cycle 0x181).map (·.toNat)).getD (core s c).tlbcfg.toNat)
  | .copy _ => 0
/-- R179: reserved bits, or SIZE 3. -/
def entryBad (w0 w1 : Word) : Bool :=
  bits w0 12 3 != 0 || bits w0 2 1 == 3 || bits w1 12 3 != 0 || bits w1 51 39 != 0
/-- R182: an instruction of firmware; with FW = 0 it is illegal and names no queue, and `tval` is the address of its base word (log
entry 76). -/
def fwI (len : Nat) (srcs dsts : List Reg) (s : State) (k : State → Eff) : State :=
  if (me s).fw then runI len srcs dsts s k else illegalAt s (len - 1)

def execTlbw (a b c : Reg) (s : State) : Out :=
  .next (fwI 3 [b, regUp b 1, c] [a] s (fun s =>
    let w0 := rd s b
    let w1 := rd s (regUp b 1)
    match targetOf s c with
    | none => .done (wr s a 4)
    | some t =>
      if !(onTeller t || (!isTeller s.cur.core && tlbCluster t == some (clusterOf s.cur.core))) || entryBad w0 w1
      then .done (wr s a 4)
      else .reply (post s (.tlbwInstall ⟨t, w0, w1, if onTeller t then clusterLaunch s else none, .thr s.cur, a, lockOf s t⟩))
        (a == 31) .dflt))
def tlbiEff (s : State) (a c : Reg) (va : Option Word) : Eff :=
  match targetOf s c with
  | none => .done (wr s a 4)
  | some t =>
    let owned := (tlbCluster t).any (fun cl =>
      (clusterLaunch s).isSome && (cluster s cl).launch == clusterLaunch s)
    if !(onTeller t || owned) then .done (wr s a 4)
    else .reply (post s (.shootMessage ⟨t, va, if onTeller t then clusterLaunch s else none, .thr s.cur, a, none⟩))
      (a == 31) .dflt
def execTlbi (a b c : Reg) (s : State) : Out :=
  .next (fwI 3 [b, c] [a] s (fun s => tlbiEff s a c (some (rd s b))))
def execTlbiAll (a c : Reg) (s : State) : Out := .next (fwI 3 [c] [a] s (fun s => tlbiEff s a c none))
/-- R183: no miss is raised. -/
def execTlbp (d b : Reg) (s : State) : Out :=
  .next (runI 2 [b] [d] s (fun s =>
    match tlbFind (myCore s).tlb (isTeller s.cur.core) (me s).launch (rd s b) with
    | some e => .done (wr s d (e.w1 ||| BitVec.twoPow 64 51))
    | none => .done (wr s d 0)))

/-! ## At the TLB -/

/-- Two pages overlap. -/
def tlbOverlap (e : TlbEnt) (n : TlbEnt) : Bool :=
  let b (x : TlbEnt) := x.w0.toNat / tlbSize x * tlbSize x
  bits e.w0 0 0 == 1 && decide (b e < b n + tlbSize n) && decide (b n < b e + tlbSize e)
/-- R183: the entries left, and the pointer, after an entry is installed at LOCK to 63 round-robin. -/
def tlbInstall (m : FMap TlbEnt) (next lock : Nat) (teller : Bool) (n : TlbEnt) : FMap TlbEnt × Nat :=
  let m := m.filter (fun e => !(tlbOverlap e.2 n && (!teller || e.2.launch == n.launch)))
  if bits n.w0 0 0 = 1 then
    let p := max next lock
    (fset m p n, if p = 63 then lock else p + 1)
  else (m, next)
/-- R181: a miss that an entry of V = 1 ends, or that one of V = 0 refuses. -/
def missMet (n : TlbEnt) (teller : Bool) (m : Miss) : Bool :=
  (!teller || m.launch == n.launch)
    && (if bits n.w0 0 0 = 1 then m.page * 8192 / tlbSize n == n.w0.toNat / tlbSize n else m.page == n.w0.toNat / 8192)
/-- R181: a thread that waits on the page takes trap 0x05. -/
def denyThread (s : State) (a : TRef) (page : Nat) (teller : Bool) (l : Option Nat) : State :=
  let t := thr s a
  match t.wait with
  | .retry (.miss va) =>
    if va.toNat / 8192 = page ∧ (!teller ∨ t.launch = l) then endStep a (trapLater s a 0x05 va) else s
  | _ => s
/-- A message in flight that waits on the page at a core: its chain step or line fill is refused. -/
def deniesEv (c page : Nat) (teller : Bool) (l : Option Nat) (s : State) : Ev → Bool
  | .chldStep m => m.core == c && !m.fw && m.goPa.isNone && (!teller || m.launch == l)
      && (chldVa m.v ((m.steps.drop m.k).headD 0)).toNat / 8192 == page
  | .lineFill a va => a.core == c && !(thr s a).fw && (!teller || (thr s a).launch == l) && va.toNat / 64 * 64 / 8192 == page
  | _ => false
def denyEv (s : State) : Ev → State
  | .chldStep m => chldStop s m 2 (chldVa m.v ((m.steps.drop m.k).headD 0))
  | .lineFill a va =>
    let t := thr s a
    let line := va.toNat / 64
    endFill (faultLine s a.core line t.fw (lineTag a.core t) 0x05) a.core line t.fw (lineTag a.core t)
  | _ => s
/-- R232: a context whose next read waits on the page. -/
def denyStream (s : State) (c n page : Nat) (teller : Bool) (l : Option Nat) : State :=
  let x := stream (core s c) n
  match nextWord x with
  | some k =>
    if !x.inA ∧ wordAddr x k / 8192 = page ∧ (!teller ∨ x.launch = l) then modStream s c n (fun x => faultWord x k 0x12)
    else s
  | none => s
/-- R181: the accesses of a core that wait on a page and are refused. -/
def denyCore (s : State) (c page : Nat) (teller : Bool) (l : Option Nat) : State :=
  let evs := s.pending.filter (deniesEv c page teller l s)
  let s := { s with pending := s.pending.filter (fun e => !deniesEv c page teller l s e) }
  let s := evs.foldl denyEv s
  let s := (List.range 32).foldl (fun s n => denyThread s ⟨c, n⟩ page teller l) s
  (List.range 4).foldl (fun s n => denyStream s c n page teller l) s
def tlbwGo (s : State) (m : TlbwMsg) : State :=
  let n : TlbEnt := ⟨m.w0, m.w1, m.only⟩
  let valid := bits m.w0 0 0 == 1
  let s := match m.tlb with
    | .core c =>
      let teller := isTeller c
      let x := core s c
      let (tlb, next) := tlbInstall x.tlb x.tlbNext m.lock teller n
      let met := x.misses.any (missMet n teller) || x.missQ.any (fun e => missMet n teller e.1)
      let s := setCore s c { x with
        tlb := tlb, tlbNext := next, misses := x.misses.filter (fun e => !missMet n teller e)
        missQ := x.missQ.filter (fun e => !missMet n teller e.1) }
      let s := if valid || !met then s else denyCore s c (m.w0.toNat / 8192) teller n.launch
      (List.range 8).foldl (fun s _ => nextMiss s c) s
    | .copy cl =>
      let x := cluster s cl
      let (tlb, next) := tlbInstall x.ctlb x.ctlbN m.lock false n
      let met := x.cmiss.filter (missMet n false)
      modCluster s cl (fun x => { x with
        ctlb := tlb, ctlbN := next, cmiss := x.cmiss.filter (fun e => !missMet n false e)
        cdeny := if valid then x.cdeny
          else x.cdeny ++ met.flatMap (fun e => e.who.map (fun t => (e.page, t))) })
  answer s m.rto (status m.dst 0)
def execTlbwInstall (s : State) : Out :=
  match s.ev with
  | .tlbwInstall m => .next (tlbwGo s m)
  | _ => .next s

/-! ### SHOOT (R183, R314) -/

def tlbOf (s : State) : TlbAt → FMap TlbEnt
  | .core c => (core s c).tlb
  | .copy cl => (cluster s cl).ctlb
def setTlb (s : State) (t : TlbAt) (m : FMap TlbEnt) : State :=
  match t with
  | .core c => modCore s c (fun x => { x with tlb := m })
  | .copy cl => modCluster s cl (fun x => { x with ctlb := m })
/-- R183: the entries that a SHOOT removes. -/
def shootHits (m : ShootMsg) (e : TlbEnt) : Bool :=
  (m.only.isNone || e.launch == m.only) && (match m.va with
    | some va => tlbCovers e va
    | none => true)
/-- The physical range of an entry. -/
def entRange (e : TlbEnt) : Nat × Nat :=
  let b := bits e.w1 38 13 * 2 ^ 13 / tlbSize e * tlbSize e
  (b, b + tlbSize e)
def inRanges (l : List (Nat × Nat)) (pa : Nat) : Bool := l.any (fun r => decide (r.1 ≤ pa) && decide (pa < r.2))
/-- A request of a core that its TAU has not acknowledged. -/
def reqOut (c : Nat) (l : List (Nat × Nat)) : Ev → Bool
  | .tauRead r _ _ => mine r
  | .feRequest r _ _ _ _ => mine r
  | .lrqRequest r _ _ _ => mine r
  | .scqRequest r _ _ => mine r
  | .amoRequest r _ _ _ _ _ => mine r
  | .amofRequest r _ _ => mine r
  | .amoxRequest r _ => mine r
  | _ => false
where
  mine (r : TauReq) : Bool := inRanges l r.pa && (match r.rto with
    | .thr a => a.core == c
    | _ => false)
def waiterOut (c : Nat) (l : List (Nat × Nat)) (word : Nat) : Waiter → Bool
  | .fe r .. => reqOut.mine c l r
  | .chain m => m.core == c && inRanges l (8 * word)
def rtoCore (c : Nat) : ReplyTo → Bool
  | .thr a => a.core == c
  | _ => false
/-- The jobs of a cluster that await a word of another module. -/
def wordsOut (x : Cluster) : List Nat :=
  (x.cpq.filter (fun j => j.rem == some none)).map (·.id) ++ (x.mxq.filter (fun j => j.rem == some none)).map (·.id)
/-- R183: a chain of a slot is at another module. -/
def chainAway (s : State) (a : TRef) : Bool :=
  let chains := match nextInstr s a with
    | .instr (.chld ..) | .instr (.chldFail ..) => true
    | _ => false
  let of (m : ChldMsg) : Bool := m.rto == .thr a
  chains && (match (thr s a).wait with
    | .reply .. => true
    | _ => false)
    && !s.pending.any (fun e => match e with
        | .chldStep m => of m
        | .reply b _ => b == a
        | _ => false)
    && !s.waits.any (fun e => e.2.any (fun w => match w with
        | .chain m => of m
        | _ => false))
/-- R183: the slots of a core with a chain at another module, each with a number of its own. -/
def chainsOut (s : State) (c : Nat) : List Nat :=
  ((List.range 32).filter (fun n => chainAway s ⟨c, n⟩)).map (fun n => 2 ^ 65 + n)
/-- R183, R314: a request translated through a removed entry is still out, or a word that a unit has asked of another module
through it (of a word whose entry is not known, any that was out at the removal), or a chain that has gone to another module (any that
was there when an entry with REM left; it ends or returns). -/
def shootHeld (s : State) (m : ShootMsg) : Bool :=
  match m.tlb, m.gone with
  | .core c, some (l, ids) =>
    (core s c).sbuf.any (fun e => ids.contains e.id && inRanges l e.pa)
      || s.pending.any (reqOut c l) || s.waits.any (fun e => e.2.any (waiterOut c l e.1))
      || s.resvs.any (fun e => e.2.tail.any (fun x => reqOut.mine c l x.req))
      || (core s c).streams.any (fun e => ids.contains (2 ^ 64 + e.1) && e.2.out != [])
      || (chainsOut s c).any ids.contains
  | .copy cl, some (_, ids) => (wordsOut (cluster s cl)).any ids.contains
  | _, none => false
def shootGo (s : State) (m : ShootMsg) : State :=
  match m.gone with
  | none =>
    let l := (tlbOf s m.tlb).filter (fun e => shootHits m e.2)
    let ids := match m.tlb with
      | .core c => (core s c).sbuf.map (·.id)
          ++ ((core s c).streams.filter (fun e => e.2.out != [])).map (fun e => 2 ^ 64 + e.1)
          ++ (if l.any (fun e => bits e.2.w1 53 53 == 1) then chainsOut s c else [])
      | .copy cl => wordsOut (cluster s cl)
    let s := setTlb s m.tlb ((tlbOf s m.tlb).filter (fun e => !shootHits m e.2))
    let m := { m with gone := some (l.map (fun e => entRange e.2), ids) }
    if shootHeld s m then post s (.shootMessage m) else answer s m.rto (status m.dst 0)
  | some _ => if shootHeld s m then post s (.shootMessage m) else answer s m.rto (status m.dst 0)
/-- R70, R72: a SHOOT that arrives at a core also starts slot 29, or waits in its queue; its payload words are free values (log
entry 11). -/
def shootClass (s : State) (m : ShootMsg) : State :=
  match m.gone, m.tlb, m.rto with
  | none, .core c, .thr a =>
    if (core s c).gated then s
    else
      let mail : Mail := ⟨Config.freeWord s.freeN, Config.freeWord (s.freeN + 1), unitWord s.fab.modnum a.core⟩
      classArrive { s with freeN := s.freeN + 2 } c 29 mail
  | _, _, _ => s
def execShootMessage (s : State) : Out :=
  match s.ev with
  | .shootMessage m => .next (shootGo (shootClass s m) m)
  | _ => .next s

end Sys2Proof.Machine
end

