-- ==== Sys2Proof/Machine/Debug.lean ====
section
/-!
DEFINITION. `dbgi` (R318).
-/
namespace Sys2Proof.Machine
open Sys2Proof

def dbOp (w : Word) : Nat := bits w 3 0
def dbSlot (w : Word) : Nat := bits w 8 4
def dbReg (w : Word) : Nat := bits w 13 9
/-- The target slot as the running thread, for reads of its registers. -/
def asSlot (s : State) (n : Nat) : State := { s with cur := ⟨s.cur.core, n⟩ }
/-- R94: a slot is in the rotation: no cause holds it out of it, a queue, an absent line and a `yield` among them. -/
def inRot (s : State) (a : TRef) : Bool :=
  let t := thr s a
  rotates t && (match nextInstr s a with
    | .instr i => queuesReady s a i
    | .illegal _ => true
    | .missing _ => false)
    && !(t.yieldTo.any (fun n => baseEligible s ⟨a.core, n⟩)) && haltAllows (core s a.core) a.slot
/-- R317, R318: the pc of a slot set: what the slot waited for at the old pc no longer moves it. -/
def putPc (s : State) (a : TRef) (x : Word) : State :=
  modThr (leaveRings s a) a (fun t =>
    { t with pc := x, wait := match t.wait with
        | .reply _ p q r => .reply 0 p q r
        | .drain d _ => .drain d 0
        | .retry _ | .again _ => .none
        | w => w })
/-- R318: bit s for each live slot, bit 32 + s for each slot in the rotation. A halted slot is out of it (R317). -/
def dbStat (s : State) : Word :=
  let x := myCore s
  let live (n : Nat) := (slotOf x n).st == .live
  let f (p : Nat → Bool) (b : Nat) := (List.range 32).foldl (fun a n => if p n then a + 2 ^ (b + n) else a) 0
  BitVec.ofNat 64 (f live 0 + f (fun n => live n && inRot s ⟨s.cur.core, n⟩) 32)
/-- R318: the operations on one slot of a halted core: the state, the value, the status. -/
def dbSlotOp (s : State) (w x : Word) : State × Word × Nat :=
  let n := dbSlot w
  let r : Reg := Fin.ofNat 32 (dbReg w)
  let a : TRef := ⟨s.cur.core, n⟩
  match dbOp w with
  | 3 => (s, rd (asSlot s n) r, 0)
  | 4 => (if r = 0 ∨ r = 30 ∨ r = 31 then s else wrAt s a r x, 0, 0)
  | 5 => (s, (thr s a).pc, 0)
  | 6 => if x.getLsbD 0 then (s, 0, 4) else (putPc s a x, 0, 0)
  | _ => (s, csrVal (asSlot s n) (dbReg w), 0)
def dbBad (s : State) (w : Word) : Bool :=
  let n := dbSlot w
  !(myCore s).hltd || decide (26 < n) || (thr s ⟨s.cur.core, n⟩).st != .live || (dbOp w == 7 && decide (8 < dbReg w))
def execDbgi (a b c : Reg) (s : State) : Out :=
  .next (fwI 3 [b, c] [a, regUp a 1] s (fun s =>
    let w := rd s b
    let x := rd s c
    let put (s : State) (v : Word) (n : Nat) : Eff := .done (wr (wr s a v) (regUp a 1) (BitVec.ofNat 64 n))
    if bits w 63 14 ≠ 0 ∨ 9 ≤ dbOp w then put s 0 4
    else if dbOp w = 0 then put (modMyCore s (fun y => { y with hltd := true })) 0 0
    else if dbOp w = 1 then put (modMyCore s (fun y => { y with hltd := false })) 0 0
    else if dbOp w = 8 then put s (dbStat s) 0
    else if dbBad s w then put s 0 4
    else if dbOp w = 2 then
      .reply (modMyCore s (fun y => { y with stepping := y.stepping ++ [⟨dbSlot w, s.cur, a⟩] })) false .dflt
    else
      let (s', v, n) := dbSlotOp s w x
      put s' v n))

end Sys2Proof.Machine
end

