-- ==== Sys2Proof/Machine/Numbers.lean ====
section
/-!
DEFINITION. The number formats (R111 to R113), rounding and overflow (R115, R116), conversions (R124), the block formats
(R119 to R123), FX128 (R125 to R127), `tree32` (R128), and the approximations of R202. Values are exact: every finite
value is a whole number times a power of two.
-/
namespace Sys2Proof.Machine
open Sys2Proof

/-- R112, R113: a value: `fin neg m e` is (-1)^neg × m × 2^e. -/
inductive Val where
  | nan
  | inf (neg : Bool)
  | fin (neg : Bool) (m : Nat) (e : Int)
  deriving DecidableEq, Repr, Inhabited

/-- A floating-point format: exponent and fraction bits. -/
structure Fmt where
  eb : Nat
  fb : Nat
  deriving DecidableEq, Repr
def fp32 : Fmt := ⟨8, 23⟩
def bf16 : Fmt := ⟨8, 7⟩
def fp16 : Fmt := ⟨5, 10⟩

def Fmt.bias (f : Fmt) : Nat := 2 ^ (f.eb - 1) - 1
/-- The exponent of the smallest normal value. -/
def Fmt.emin (f : Fmt) : Int := 1 - (f.bias : Int)
/-- Every bit pattern of one sign lies below this. -/
def Fmt.half (f : Fmt) : Nat := 2 ^ (f.eb + f.fb)
def signBits (f : Fmt) (neg : Bool) : Nat := if neg then f.half else 0
def nanBits (f : Fmt) : Nat := (2 ^ f.eb - 1) * 2 ^ f.fb + 2 ^ (f.fb - 1)
def infBits (f : Fmt) (neg : Bool) : Nat := signBits f neg + (2 ^ f.eb - 1) * 2 ^ f.fb
/-- The largest finite value. -/
def maxBits (f : Fmt) (neg : Bool) : Nat := infBits f neg - 1

/-- R112: the value of a bit pattern. -/
def decodeF (f : Fmt) (x : Nat) : Val :=
  let neg := x / f.half % 2 == 1
  let e := x / 2 ^ f.fb % 2 ^ f.eb
  let m := x % 2 ^ f.fb
  if e = 2 ^ f.eb - 1 then (if m = 0 then .inf neg else .nan)
  else if e = 0 then .fin neg m (f.emin - (f.fb : Int))
  else .fin neg (2 ^ f.fb + m) ((e : Int) - (f.bias : Int) - (f.fb : Int))

/-- R115: `n / d` of a value of sign `neg`, rounded to a whole number. -/
def roundDiv (rm : Rnd) (neg : Bool) (n d : Nat) : Nat :=
  let q := n / d
  let r := n % d
  match rm with
  | .rne => if d < 2 * r ∨ (2 * r = d ∧ q % 2 = 1) then q + 1 else q
  | .rtz => q
  | .rdn => if neg ∧ r ≠ 0 then q + 1 else q
  | .rup => if !neg ∧ r ≠ 0 then q + 1 else q
/-- `m × 2^sh` rounded to a whole number. -/
def roundInt (rm : Rnd) (neg : Bool) (m : Nat) (sh : Int) : Nat :=
  if 0 ≤ sh then m * 2 ^ sh.toNat else roundDiv rm neg m (2 ^ (-sh).toNat)

/-- R116: what an overflow gives without saturation. -/
def overflowBits (f : Fmt) (rm : Rnd) (neg : Bool) : Nat :=
  match rm with
  | .rne => infBits f neg
  | .rtz => maxBits f neg
  | .rdn => if neg then infBits f neg else maxBits f neg
  | .rup => if neg then maxBits f neg else infBits f neg

/-- R115, R116: a value rounded into a format: the bits, and whether a saturation counts. -/
def roundF (f : Fmt) (rm : Rnd) (sat : Bool) : Val → Nat × Bool
  | .nan => (nanBits f, false)
  | .inf neg => (infBits f neg, false)
  | .fin neg m e =>
    if m = 0 then (signBits f neg, false)
    else
      let top : Int := e + (Nat.log2 m : Int)
      let q : Int := max top f.emin - (f.fb : Int)
      let n := roundInt rm neg m (e - q)
      let b := (q - (f.emin - (f.fb : Int))).toNat * 2 ^ f.fb + n
      if (2 ^ f.eb - 1) * 2 ^ f.fb ≤ b
      then if sat then (maxBits f neg, true) else (overflowBits f rm neg, false)
      else (signBits f neg + b, false)

/-! ## Exact operations -/

def isZero : Val → Bool
  | .fin _ 0 _ => true
  | _ => false
/-- A finite value as a multiple of 2^q, for a q no greater than its exponent. -/
def toScaled (neg : Bool) (m : Nat) (e q : Int) : Int :=
  let x : Int := (m : Int) * 2 ^ (e - q).toNat
  if neg then -x else x
def ofScaled (x : Int) (q : Int) : Val := .fin (decide (x < 0)) x.natAbs q
/-- R113: an exact sum; a zero sum has the sign of the rule. -/
def addV (rm : Rnd) : Val → Val → Val
  | .nan, _ => .nan
  | _, .nan => .nan
  | .inf a, .inf b => if a = b then .inf a else .nan
  | .inf a, .fin .. => .inf a
  | .fin .., .inf b => .inf b
  | .fin n m e, .fin n' m' e' =>
    let q := min e e'
    let x := toScaled n m e q + toScaled n' m' e' q
    if x = 0 then (if m = 0 ∧ m' = 0 ∧ n = n' then .fin n 0 0 else .fin (rm == .rdn) 0 0) else ofScaled x q
def negV : Val → Val
  | .nan => .nan
  | .inf a => .inf (!a)
  | .fin n m e => .fin (!n) m e
def absV : Val → Val
  | .nan => .nan
  | .inf _ => .inf false
  | .fin _ m e => .fin false m e
def mulV : Val → Val → Val
  | .nan, _ => .nan
  | _, .nan => .nan
  | .inf a, .inf b => .inf (a != b)
  | .inf a, .fin n m _ => if m = 0 then .nan else .inf (a != n)
  | .fin n m _, .inf b => if m = 0 then .nan else .inf (n != b)
  | .fin n m e, .fin n' m' e' => .fin (n != n') (m * m') (e + e')
def signV : Val → Bool
  | .nan => false
  | .inf a => a
  | .fin n _ _ => n
/-- The order of values that are no NaN; -0 and +0 are equal. -/
def ltV : Val → Val → Bool
  | .nan, _ => false
  | _, .nan => false
  | .inf a, .inf b => a && !b
  | .inf a, .fin .. => a
  | .fin .., .inf b => !b
  | .fin n m e, .fin n' m' e' => let q := min e e'; decide (toScaled n m e q < toScaled n' m' e' q)
def isNan (x : Val) : Bool := x == .nan
def eqV (x y : Val) : Bool := !isNan x && !isNan y && !ltV x y && !ltV y x
/-- R193, R197: the order of `vmin` and `vmax`, -0 below +0. -/
def belowV (x y : Val) : Bool := ltV x y || (eqV x y && signV x && !signV y)
def minV (x y : Val) : Val := if isNan x || isNan y then .nan else if belowV y x then y else x
def maxV (x y : Val) : Val := if isNan x || isNan y then .nan else if belowV x y then y else x
def ofInt (x : Int) : Val := ofScaled x 0

/-! ## Integers (R111, R124) -/

/-- R111: the limits of an integer format. -/
def intMinOf (bits : Nat) (uns : Bool) : Int := if uns then 0 else -(2 ^ (bits - 1))
def intMaxOf (bits : Nat) (uns : Bool) : Int := if uns then 2 ^ bits - 1 else 2 ^ (bits - 1) - 1
/-- Clamped, and whether that changed the value. -/
def clampInt (bits : Nat) (uns : Bool) (x : Int) : Int × Bool :=
  if x < intMinOf bits uns then (intMinOf bits uns, true)
  else if intMaxOf bits uns < x then (intMaxOf bits uns, true) else (x, false)
/-- R124: a floating-point value into an integer format. -/
def toInteger (bits : Nat) (uns : Bool) (rm : Rnd) : Val → Int × Events
  | .nan => (0, ⟨0, 1, 0⟩)
  | .inf true => (intMinOf bits uns, ⟨1, 0, 0⟩)
  | .inf false => (intMaxOf bits uns, ⟨1, 0, 0⟩)
  | .fin neg m e =>
    let n : Int := roundInt rm neg m e
    let (y, c) := clampInt bits uns (if neg then -n else n)
    (y, ⟨if c then 1 else 0, 0, 0⟩)

/-! ## The block formats (R119 to R123) -/

/-- R121: `vscale`: the scale word, and whether a block-scale overflow counts. -/
def vscaleOf (xs : List Val) (m : Nat) : Nat × Bool :=
  if xs.any isNan then (0xFF0000, false)
  else
    let fins := xs.map absV |>.filter (fun x => match x with
      | .fin .. => true
      | _ => false)
    match fins.foldl (fun a x => if ltV a x then x else a) (.fin false 0 0) with
    | .fin _ am ae =>
      if am = 0 then (if xs.any (fun x => x == .inf true || x == .inf false) then (0xFEFFFF, false) else (0, false))
      else
        let n := am * 2 ^ (m - 1)
        let d := 2 ^ (m - 1) - 1
        let k0 := Nat.log2 n - Nat.log2 d
        let k := if n < d * 2 ^ k0 then k0 - 1 else k0
        let s0 := (n * 65536 + (d * 2 ^ k - 1)) / (d * 2 ^ k) - 65536
        let s := if s0 = 65536 then 0 else s0
        let e : Int := ae + (k : Int) + (if s0 = 65536 then 1 else 0) + 127
        if 0xFE < e then (0xFEFFFF, true)
        else if e < 1 then (0x010000, false)
        else (e.toNat * 65536 + s, false)
    | _ => (0, false)
def scaleE (w : Nat) : Nat := w / 65536 % 256
def scaleS (w : Nat) : Nat := w % 65536
/-- R122: one finite element: the mantissa, and whether it was clamped. -/
def quantOne (m : Nat) (w : Nat) : Val → Int × Bool
  | .nan => (0, false)
  | .inf true => (-(2 ^ (m - 1)), true)
  | .inf false => (2 ^ (m - 1) - 1, true)
  | .fin neg a e =>
    let sh : Int := e + (m - 1 : Nat) + 16 + 127 - (scaleE w : Int)
    let num := a * 2 ^ sh.toNat
    let den := (65536 + scaleS w) * 2 ^ (-sh).toNat
    let n : Int := roundDiv .rne neg num den
    clampInt m false (if neg then -n else n)
/-- R122: the mantissas of a block (none for a NaN block) and the events. -/
def bqQuantise (xs : List Val) (m w : Nat) : Option (List Int) × Events :=
  if scaleE w = 0xFF ∨ xs.any isNan then (none, ⟨0, (xs.filter isNan).length, 0⟩)
  else if scaleE w = 0 then (some (xs.map (fun _ => 0)), Events.none)
  else
    let l := xs.map (quantOne m w)
    (some (l.map (·.1)), ⟨(l.filter (·.2)).length, 0, 0⟩)
/-- R120: the value of a mantissa. -/
def bqValue (m w : Nat) (q : Int) : Val :=
  if scaleE w = 0 then .fin false 0 0
  else if scaleE w = 0xFF then .nan
  else if q = 0 then .fin false 0 0
  else ofScaled (q * (65536 + scaleS w : Nat)) ((scaleE w : Int) - 127 - 16 - (m - 1 : Nat))
/-- R119: mantissa `i` of a packed field. -/
def bqField (m field i : Nat) : Int := (BitVec.ofNat m (field / 2 ^ (m * i))).toInt
/-- R119: the packed field of a block. -/
def bqPack (m : Nat) (qs : List Int) : Nat :=
  qs.zipIdx.foldl (fun a e => a + (BitVec.ofInt m e.1).toNat * 2 ^ (m * e.2)) 0

/-! ## FX128 (R125 to R127) -/

/-- A cell: V modulo 2^127 in bits 126 to 0, the sticky flag in bit 127. -/
abbrev Fx := BitVec 128
def fxOf (v : Int) (sf : Bool) : Fx := BitVec.ofNat 128 ((v % 2 ^ 127).toNat + (if sf then 2 ^ 127 else 0))
/-- R126. -/
def fxFromFp32 (x : Nat) : Fx :=
  match decodeF fp32 x with
  | .nan => fxOf 0 true
  | .inf false => fxOf (2 ^ 126 - 1) true
  | .inf true => fxOf (-(2 ^ 126)) true
  | .fin neg m e =>
    if 0 ≤ e ∧ 2 ^ 62 ≤ m * 2 ^ e.toNat then
      if !neg then fxOf (2 ^ 126 - 1) true
      else if m * 2 ^ e.toNat = 2 ^ 62 then fxOf (-(2 ^ 126)) false else fxOf (-(2 ^ 126)) true
    else
      let n : Int := roundInt .rne neg m (e + 64)
      fxOf (if neg then -n else n) false
/-- R127. -/
def fxAdd (x y : Fx) : Fx :=
  BitVec.ofNat 128 ((x.toNat + y.toNat) % 2 ^ 127 + (if x.getLsbD 127 || y.getLsbD 127 then 2 ^ 127 else 0))

/-! ## Sums (R128 to R130) -/

/-- An addition rounded once in a format: the bits, and how many saturations have counted. -/
def addF (f : Fmt) (rm : Rnd) (sat : Bool) (x y : Nat × Nat) : Nat × Nat :=
  let (b, c) := roundF f rm sat (addV rm (decodeF f x.1) (decodeF f y.1))
  (b, x.2 + y.2 + (if c then 1 else 0))
def pairSum (f : Fmt) (sat : Bool) : List (Nat × Nat) → List (Nat × Nat)
  | x :: y :: l => addF f .rne sat x y :: pairSum f sat l
  | l => l
/-- R128: five levels over 32 values; the bits of the sum and the saturations of the additions. -/
def tree32 (f : Fmt) (sat : Bool) (p : List Nat) : Nat × Nat :=
  ((pairSum f sat (pairSum f sat (pairSum f sat (pairSum f sat (pairSum f sat (p.map (fun x => (x, 0)))))))).headD (0, 0))

/-! ## Approximations (R202) -/

/-- Fixed point: `prec` fraction bits. -/
def prec : Nat := 256
/-- Σ x^k / k! from term `t` of index `k` on, in fixed point. -/
def expSum (x : Nat) : Nat → Nat → Nat → Nat
  | 0, _, _ => 0
  | n + 1, k, t => t + expSum x n (k + 1) (t * x / 2 ^ prec / (k + 1))
/-- e^x in fixed point, for 0 ≤ x ≤ 18. -/
def expFix (x : Nat) : Nat := expSum x 200 0 (2 ^ prec)
/-- ln 2 in fixed point: Σ 1 / (k × 2^k). -/
def ln2Fix : Nat := (List.range 256).foldl (fun a k => a + 2 ^ prec / ((k + 1) * 2 ^ (k + 1))) 0
/-- `n` bits of log2 of `y / 2^p`, 1 ≤ y / 2^p < 2, by squaring. -/
def log2Bits (p : Nat) : Nat → Nat → Nat → Nat
  | 0, _, acc => acc
  | n + 1, y, acc =>
    let z := y * y / 2 ^ p
    if 2 ^ (p + 1) ≤ z then log2Bits p n (z / 2) (2 * acc + 1) else log2Bits p n z (2 * acc)

/-- A positive real `n / d × 2^e` on the FP32 grid: a grid exponent q, its floor there, and whether it lies on the grid. -/
def onGrid (n d : Nat) (e : Int) : Int × Nat × Bool :=
  let l0 : Int := (Nat.log2 n : Int) - (Nat.log2 d : Int)
  let low := decide (n * 2 ^ (-l0).toNat < d * 2 ^ l0.toNat)
  let top : Int := e + l0 - (if low then 1 else 0)
  let q : Int := max top fp32.emin - 23
  let num := n * 2 ^ (e - q).toNat
  let den := d * 2 ^ (q - e).toNat
  (q, num / den, num % den == 0)
/-- R202: a result within `u` units in the last place of the exact value: which of the grid values it is the spec leaves
open (log entry 3). -/
def within (u : Nat) (f : Approx) (bits : Nat) (neg : Bool) (n d : Nat) (e : Int) : Val :=
  let (q, k, exact) := onGrid n d e
  let lo := k + 1 - u - (if exact then 1 else 0)
  let hi := k + u
  .fin neg (lo + Config.approxDelta f bits % (hi + 1 - lo)) q
/-- R202: the FP32 result, before it is rounded into the lane format. `bits` are the operand's FP32 bits. -/
def approxV (f : Approx) (bits : Nat) : Val :=
  match f, decodeF fp32 bits with
  | _, .nan => .nan
  | .exp2, .inf neg => if neg then .fin false 0 0 else .inf false
  | .exp2, .fin neg m e =>
    let i : Int := if 0 ≤ e then m * 2 ^ e.toNat else 0
    let whole := decide (0 ≤ e) || m % 2 ^ (-e).toNat == 0
    let x : Int := if 0 ≤ e then i else ((m / 2 ^ (-e).toNat : Nat) : Int)
    let x : Int := if neg then -x else x
    if m = 0 then .fin false 1 0
    else if whole then
      if x < -149 then within 1 f bits false 1 1 (max x (-400)) else .fin false 1 (min x 400)
    else
      let fr := m * 2 ^ prec / 2 ^ (-e).toNat % 2 ^ prec
      let (y, fr) := if neg then (x - 1, 2 ^ prec - fr) else (x, fr)
      within 1 f bits false (expFix (fr * ln2Fix / 2 ^ prec)) 1 (max y (-400) - (prec : Int))
  | .log2, .inf neg => if neg then .nan else .inf false
  | .log2, .fin neg m e =>
    if m = 0 then .inf true
    else if neg then .nan
    else
      let l := Nat.log2 m
      let a : Int := e + (l : Int)
      if m = 2 ^ l then ofInt a
      else
        let fr := log2Bits 512 200 (m * 2 ^ (512 - l)) 0
        let v : Int := a * 2 ^ 200 + (fr : Int)
        within 1 f bits (decide (v < 0)) v.natAbs 1 (-200)
  | .rcp, .inf neg => .fin neg 0 0
  | .rcp, .fin neg m e => if m = 0 then .inf neg else within 1 f bits neg 1 m (-e)
  | .rsqrt, .inf neg => if neg then .nan else .fin false 0 0
  | .rsqrt, .fin neg m e =>
    if m = 0 then .inf neg
    else if neg then .nan
    else
      let odd := e % 2 = 1
      let m2 := if odd then 2 * m else m
      let e2 : Int := if odd then e - 1 else e
      let r := Nat.sqrt (2 ^ 400 / m2)
      let exact := r * r * m2 == 2 ^ 400
      within 1 f bits false (if exact then r else 2 * r + 1) (if exact then 1 else 2) (-200 - e2 / 2)
  | .tanh, .inf neg => .fin neg 1 0
  | .tanh, .fin neg m e =>
    if m = 0 ∨ ltV (.fin false m e) (.fin false 1 (-12)) then .fin neg m e
    else if !ltV (.fin false m e) (.fin false 9 0) then .fin neg 1 0
    else
      let x := expFix (if 0 ≤ e + 1 then m * 2 ^ (e + 1).toNat * 2 ^ prec else m * 2 ^ prec / 2 ^ (-(e + 1)).toNat)
      within 2 f bits neg (x - 2 ^ prec) (x + 2 ^ prec) 0

end Sys2Proof.Machine
end

