-- ==== Sys2Proof/Machine/Image.lean ====
section
/-!
DEFINITION. The kernel image (R29 to R55): its fields, the checks in the order of R55, the compiled graph table with the
longest remaining paths of R65, the cores that roles bind (R64), and the size of the Grove index region (R241).
-/
namespace Sys2Proof.Machine
open Sys2Proof

/-- R298, R353: a byte as a command processor reads it: a read of a guard row or of a poisoned sector is refused. -/
def cpByte (s : State) (a : Nat) : Byte :=
  if inGuard s a || s.poison.contains (sectorOf a) then Config.refusedByte a else devByte s a
/-- `n` bytes as a command processor reads them. -/
def cpBytes (s : State) (a : Nat) : Nat → List Byte
  | 0 => []
  | n + 1 => cpByte s a :: cpBytes s (a + 1) n
/-- The same bytes as a number. -/
def memNat (s : State) (a n : Nat) : Nat := leNat (cpBytes s a n)
def memWord (s : State) (a : Nat) : Word := BitVec.ofNat 64 (memNat s a 8)
/-- R344, R349, R350: what a read of `n` bytes by a command processor does at the pseudo-channels. -/
def cpReads (s : State) (a n : Nat) : State :=
  (List.range ((a + n + 255) / 256 - a / 256)).foldl
    (fun s k => touch (eccRead s (256 * (a / 256 + k)) 256) (256 * (a / 256 + k))) s
/-- R347: a read of `n` bytes by a command processor waits for a channel. -/
def cpWaits (s : State) (a n : Nat) : Bool :=
  (List.range ((a + n + 255) / 256 - a / 256)).any (fun k => chanBusy s (256 * (a / 256 + k)))
/-- R329, R349: a read of `n` bytes by a command processor starts a rollback. -/
def cpStops (s : State) (a n : Nat) : Bool :=
  (List.range ((a + n + 31) / 32 - a / 32)).any (fun i => eccStops s (32 * (a / 32 + i)))
    || (List.range ((a + n + 255) / 256 - a / 256)).any (fun i => injFires s (256 * (a / 256 + i)))
/-- R329, R349: a read of `n` bytes by a command processor, and what it does then; one at which a rollback starts is not served. -/
def cpLook (s : State) (a n : Nat) (k : State → State) : State :=
  if (List.range ((a + n + 31) / 32 - a / 32)).any (fun i => eccStops s (32 * (a / 32 + i))) then trigger s 1
  else if (List.range ((a + n + 255) / 256 - a / 256)).any (fun i => injFires s (256 * (a / 256 + i))) then fireInj s
  else k (cpReads s a n)
def pageSize : Nat := 8192
def noEntry : Nat := 0xFFFFFFFF

/-! ## Header and records -/

/-- R29: offset and size of the seven sections. -/
def imgSections (s : State) (b : Nat) : List (Nat × Nat) :=
  [(memNat s (b + 0x10) 8, memNat s (b + 0x18) 8), (memNat s (b + 0x28) 8, memNat s (b + 0x30) 8),
   (memNat s (b + 0x40) 4, 8 * memNat s (b + 0x44) 4), (memNat s (b + 0x48) 4, 4 * memNat s (b + 0x4C) 4),
   (memNat s (b + 0x50) 4, 8 * memNat s (b + 0x54) 4), (memNat s (b + 0x58) 4, 16 * memNat s (b + 0x5C) 4),
   (memNat s (b + 0x60) 4, 8 * memNat s (b + 0x64) 4)]
/-- R29: present sections that overlap none. -/
def disjointSecs : List (Nat × Nat) → Bool
  | [] => true
  | x :: l => l.all (fun y => decide (x.1 + x.2 ≤ y.1) || decide (y.1 + y.2 ≤ x.1)) && disjointSecs l
/-- R29: a section on an 8-byte boundary, within bytes 128 to the image's end. -/
def secOk (total : Nat) (x : Nat × Nat) : Bool := x.1 % 8 == 0 && decide (128 ≤ x.1) && decide (x.1 + x.2 ≤ total)
/-- Records of `size` bytes. -/
def recordsAt (s : State) (a size n : Nat) : List Nat := (List.range n).map (fun i => memNat s (a + size * i) size)
def roleOf (w : Nat) : RoleRec := ⟨w % 65536, w / 2 ^ 16 % 4, w / 2 ^ 32⟩
def bufRecOf (w : Nat) : BufRec :=
  ⟨w % 65536, w / 2 ^ 16 % 4, w / 2 ^ 32 % 65536, w / 2 ^ 48 % 65536, w / 2 ^ 64⟩

/-! ## Graphs (R49 to R52, R65) -/

def nodeAt (s : State) (a : Nat) : GNode :=
  ⟨memNat s a 4, memNat s (a + 4) 2, memNat s (a + 6) 2, memNat s (a + 8) 4, memNat s (a + 12) 2, memNat s (a + 14) 2,
   memWord s (a + 16), memWord s (a + 24)⟩
def succsOf (g : Graph) (i : Nat) : List Nat :=
  match g.nodes[i]? with
  | some n => (g.succ.drop n.sidx).take n.nsucc
  | none => []
/-- One pass over the nodes: a node whose successors all have a path length gets its own. -/
def pathPass (g : Graph) (l : List (Option Nat)) : List (Option Nat) :=
  l.zipIdx.map (fun e => match e.1, g.nodes[e.2]? with
    | none, some n =>
      let js := (succsOf g e.2).map (fun j => (l[j]?).getD none)
      if js.all (·.isSome) then some (n.cost + (js.map (·.getD 0)).foldl max 0) else none
    | x, _ => x)
def pathPasses (g : Graph) : Nat → List (Option Nat) → List (Option Nat)
  | 0, l => l
  | n + 1, l => pathPasses g n (pathPass g l)
/-- R65: the longest remaining path of each node; a node on or before a cycle has none. -/
def longestPaths (g : Graph) : List (Option Nat) :=
  pathPasses g g.nodes.length (List.replicate g.nodes.length none)
/-- R49: the graph at an address. -/
def graphAt (s : State) (a : Nat) : Graph :=
  let n := memNat s a 4
  let g : Graph :=
    { nodes := (List.range n).map (fun i => nodeAt s (a + 16 + 32 * i))
      succ := recordsAt s (a + 16 + 32 * n) 4 (memNat s (a + 4) 4)
      sink := memNat s (a + 8) 4, lpath := [], cnt := [], gen := 0, pend := 0, live := false, done := [] }
  { g with lpath := (longestPaths g).map (·.getD 0) }
/-- R41: a code that the image declares. -/
def declared (img : Image) (code : Nat) : Bool :=
  let n := code % 2 ^ 14
  (code / 2 ^ 14 == 1 && decide (n < min 16 img.nCl)) || (code / 2 ^ 14 == 2 && decide (n < min 2048 img.nDv))
    || (code / 2 ^ 14 == 3 && decide (n < min 1024 img.nDm))
/-- R52: the size of the table comes first: nothing else is read of a table that breaks it. -/
def graphSizeOk (s : State) (b total : Nat) (d : Nat) : Bool :=
  let o := d % 2 ^ 32
  let n := memNat s (b + o) 4
  let e := memNat s (b + o + 4) 4
  decide (o + 16 ≤ total) && decide (1 ≤ n) && decide (n ≤ 1048576) && decide (e ≤ 4194304)
    && d / 2 ^ 32 == 16 + 32 * n + 4 * e && decide (o + d / 2 ^ 32 ≤ total)
def placeOk (img : Image) (p : Nat) : Bool := decide (p ≤ 2) || (decide (p / 2 ^ 14 ≠ 1) && declared img p)
/-- R52. -/
def graphOk (img : Image) (g : Graph) : Bool :=
  let n := g.nodes.length
  let lists := (List.range n).flatMap (succsOf g)
  g.succ.all (fun j => decide (j < n))
    && (List.range n).all (fun i => !(succsOf g i).contains i)
    && g.nodes.zipIdx.all (fun e => decide (e.1.sidx + e.1.nsucc ≤ g.succ.length) && e.1.npred == lists.count e.2
        && e.1.entry % 2 == 0 && decide (e.1.entry < img.codeSize) && placeOk img e.1.place)
    && (List.range n).filter (fun i => ((g.nodes[i]?).map (·.nsucc)) == some 0) == [g.sink]
    && (longestPaths g).all (·.isSome)

/-! ## Pages and frames (R30, R31, R241) -/

def pagesOf (size : Nat) : Nat := (size + pageSize - 1) / pageSize
def imgPages (img : Image) : Nat := pagesOf img.codeSize + pagesOf img.dataSize + img.heapPages
/-- R31: the mapped ranges. -/
def imgRanges (img : Image) : List (Nat × Nat) :=
  [(img.codeBase, pageSize * pagesOf img.codeSize)]
    ++ (if img.dataSize = 0 then [] else [(img.dataBase, pageSize * pagesOf img.dataSize)])
    ++ (if img.heapPages = 0 then [] else [(img.heapBase, pageSize * img.heapPages)])
/-- R31: the frames that an interface owns and no admitted launch uses. -/
def unusedFrames (s : State) (iface : Nat) : List Nat :=
  (List.range frameCount).filter (fun f => decide (176 ≤ f) && (patEnt s f).owner == iface
    && !s.launches.any (fun e => e.2.frames.contains f))
/-- The pages of a frame, a guard row left out (R352). -/
def framePages (s : State) (f : Nat) : List Nat :=
  let first := if (patEnt s f).guard then 64 else 0
  (List.range (8192 - first)).map (fun k => 2 ^ 26 * f + pageSize * (first + k))
/-- R241: the bytes of an index. -/
def indexBytes (w : Word) : Nat :=
  let d := 32 * (bits w 12 8 + 1)
  let vb := if bits w 13 13 = 1 then d + d / 8 else 2 * d
  let deg := if bits w 15 15 = 1 then 32 else 16
  4096 + (bits w 63 32 + 1) * ((vb + 32 + 4 * (16 + 4 * deg) + 63) / 64 * 64)
def indexFrames (img : Image) : Nat := ((img.idxs.map indexBytes).sum + 2 ^ 26 - 1) / 2 ^ 26

/-! ## Roles (R45, R64) -/

/-- Where the roles of a launch are bound on this module. -/
structure Binder where
  clusters : List Nat
  rank     : Nat
  dcnt     : Nat
  modnum   : Nat
  dbase    : Nat
  deriving DecidableEq, Repr

def kindOf (img : Image) (code : Nat) : Nat := ((img.roles.find? (fun r => r.code == code)).map (·.kind)).getD 0
/-- R64 step 3: the unit of the k-th `dv:` role. -/
def dvCore (cls : List Nat) (kind k : Nat) : Nat :=
  let at_ (i : Nat) : Nat := cls.getD (i % cls.length) 0
  if kind = 0 then coreAt (at_ (k / 8)) (k % 8)
  else if kind = 1 then coreAt (at_ k) 8
  else tellerBase + k % 64
/-- R64 step 3: the cores of this module that a role binds. -/
def boundCores (b : Binder) (kind code : Nat) : List Nat :=
  let n := code % 2 ^ 14
  if code / 2 ^ 14 = 1 then b.clusters.map (fun c => coreAt c (if kind = 1 then 8 else n % 8))
  else if code / 2 ^ 14 = 2 then [dvCore b.clusters kind n]
  else if n % b.dcnt = b.rank then [dvCore b.clusters kind (n / b.dcnt)]
  else []
def roleCores (b : Binder) (img : Image) (code : Nat) : List Nat := boundCores b (kindOf img code) code
/-- R45: the cores that get a control context, with its entry. -/
def controlCores (b : Binder) (img : Image) : List (Nat × Nat) :=
  (img.roles.filter (fun r => r.entry != noEntry)).flatMap (fun r => (roleCores b img r.code).map (fun c => (c, r.entry)))
/-- R47: the links between cores of this module. Each code is resolved where FROM is bound (log entry 20). -/
def linkCores (b : Binder) (img : Image) : List (Nat × Nat) :=
  img.links.flatMap (fun l => (roleCores b img l.1).zip (roleCores b img l.2))
/-- R47: the links between two `dm:` codes, or from a `dv:` code to a `dm:` code, whose ends stand on different modules. -/
def crossLinks (b : Binder) (img : Image) : List (Nat × Nat) :=
  img.links.filter (fun l => l.2 / 2 ^ 14 == 3 && (roleCores b img l.1 == [] || roleCores b img l.2 == []))
/-- The cores of this module that a link makes use of, at its downstream and at its upstream end. -/
def linkFroms (b : Binder) (img : Image) : List Nat := img.links.flatMap (fun l => roleCores b img l.1)
def linkTos (b : Binder) (img : Image) : List Nat :=
  img.links.flatMap (fun l => if l.1 / 2 ^ 14 = 3 ∧ l.2 / 2 ^ 14 = 2 ∧ roleCores b img l.1 = [] then [] else roleCores b img l.2)
def noRepeats (l : List Nat) : Bool := decide l.Nodup

/-! ## The checks (R55) -/

/-- Two roles that start control contexts bind one core, or a teller core holds one already (R45). -/
def controlsOk (s : State) (b : Binder) (img : Image) : Bool :=
  let cs := (controlCores b img).map (·.1)
  noRepeats cs && cs.all (fun c => !isTeller c || ((slotOf (core s c) 0).st == .free
    && !s.launches.any (fun e => e.2.stage == .setup && e.2.tellers.contains c)))
/-- R47: no core has two links of one direction once all roles are bound; a link from a `dv:` code, which every module of the job
binds, to a `dm:` code would give its core one of each. -/
def linksOk (s : State) (b : Binder) (img : Image) : Bool :=
  img.links.all (fun e => declared img e.1 && declared img e.2 && (e.1 / 2 ^ 14 == 1) == (e.2 / 2 ^ 14 == 1)
      && !(e.1 / 2 ^ 14 == 2 && e.2 / 2 ^ 14 == 3 && decide (1 < b.dcnt)))
    && noRepeats (linkFroms b img) && noRepeats (linkTos b img)
    && (linkFroms b img).all (fun c => !isTeller c || (core s c).downLink.isNone)
    && (linkTos b img).all (fun c => !isTeller c || (core s c).upLink.isNone)
/-- The sizes of W, A and C (R19). -/
def spaceBytes (n : Nat) : Nat := if n = 2 then 32768 else 49152
def bufOk (img : Image) (total : Nat) (r : BufRec) : Bool :=
  declared img r.role && decide (r.space < 3) && r.off % 8 == 0 && r.len % 8 == 0 && decide (0 < r.len)
    && decide (r.off + r.len ≤ spaceBytes r.space) && decide (r.src + r.len ≤ total)
/-- R55: the image at an address for a launch record, or the first code that refuses it. -/
def checkImage (s : State) (r : LRecord) (iface : Nat) (b : Binder) : Except Nat Image := do
  let a := r.image
  let total := memNat s (a + 8) 8
  let need (code : Nat) (ok : Bool) : Except Nat Unit := if ok then pure () else throw code
  need 0x01 (memNat s a 4 == 0x00345844 && memNat s (a + 4) 2 == 1)
  let codeSize := memNat s (a + 0x18) 8
  let trap := memNat s (a + 0x70) 4
  let secs := (imgSections s a).filter (fun x => x.2 != 0)
  need 0x02 (secs.all (secOk total) && disjointSecs secs && codeSize % 2 == 0 && codeSize != 0
    && (trap == noEntry || (trap % 2 == 0 && decide (trap < codeSize))))
  let img : Image :=
    { codeBase := memNat s (a + 0x20) 8, codeSize := codeSize, codeOff := memNat s (a + 0x10) 8
      dataBase := memNat s (a + 0x38) 8, dataSize := memNat s (a + 0x30) 8, dataOff := memNat s (a + 0x28) 8
      heapBase := memNat s (a + 0x78) 8, heapPages := memNat s (a + 0x74) 4
      trapEntry := if trap = noEntry then none else some trap
      nCl := memNat s (a + 0x68) 2, nDv := memNat s (a + 0x6A) 2, nDm := memNat s (a + 0x6C) 2
      roles := [], links := [], graphs := [], bufs := [], idxs := [] }
  let frames := unusedFrames s iface
  let room (l : List Nat) : Nat := (l.map (fun f => if (patEnt s f).guard then 8128 else 8192)).sum
  let ranges := imgRanges img
  need 0x03 (ranges.all (fun x => x.1 % pageSize == 0) && disjointSecs ranges && decide (imgPages img ≤ room frames))
  let roleWs := recordsAt s (a + memNat s (a + 0x40) 4) 8 (memNat s (a + 0x44) 4)
  let img := { img with roles := roleWs.map roleOf }
  need 0x04 (decide (img.nCl ≤ 16) && decide (img.nDv ≤ 2048) && decide (img.nDm ≤ 1024)
    && img.roles.all (fun x => declared img x.code && decide (x.kind < 3)
        && (x.entry == noEntry || (x.entry % 2 == 0 && decide (x.entry < codeSize))))
    && noRepeats (img.roles.map (·.code)))
  need 0x05 (img.roles.all (fun x => x.code / 2 ^ 14 != 1 || x.kind != 2) && controlsOk s b img)
  let linkWs := recordsAt s (a + memNat s (a + 0x48) 4) 4 (memNat s (a + 0x4C) 4)
  let img := { img with links := linkWs.map (fun w => (w % 65536, w / 65536)) }
  need 0x06 (linksOk s b img)
  let ng := memNat s (a + 0x54) 4
  let dir := recordsAt s (a + memNat s (a + 0x50) 4) 8 (min ng 16)
  need 0x07 (decide (ng ≤ 16) && dir.all (graphSizeOk s a total))
  let img := { img with graphs := dir.map (fun d => graphAt s (a + d % 2 ^ 32)) }
  need 0x07 (img.graphs.all (graphOk img) && (r.graph == 31 || decide (r.graph < ng)))
  let bufWs := recordsAt s (a + memNat s (a + 0x58) 4) 16 (memNat s (a + 0x5C) 4)
  let img := { img with bufs := bufWs.map bufRecOf }
  need 0x08 (img.bufs.all (bufOk img total))
  let ni := memNat s (a + 0x64) 4
  let idxWs := recordsAt s (a + memNat s (a + 0x60) 4) 8 (min ni 65)
  let img := { img with idxs := idxWs.map (BitVec.ofNat 64) }
  need 0x09 (decide (ni ≤ 64) && noRepeats (idxWs.map (· % 64)) && decide (ni + s.grove.length ≤ 64)
    && decide (indexFrames img ≤ frames.length)
    && decide (imgPages img ≤ room (frames.take (frames.length - indexFrames img))))
  need 0x0A (memNat s (a + 6) 2 == 0 && memNat s (a + 0x6E) 2 == 0
    && roleWs.all (fun w => w / 2 ^ 18 % 2 ^ 14 == 0)
    && dir.all (fun d => memNat s (a + d % 2 ^ 32 + 12) 4 == 0)
    && bufWs.all (fun w => w / 2 ^ 18 % 2 ^ 14 == 0)
    && idxWs.all (fun w => w / 2 ^ 6 % 4 == 0 && w / 2 ^ 16 % 2 ^ 16 == 0))
  pure img

end Sys2Proof.Machine
end

