-- ==== Sys2Proof/Machine/Vector.lean ====
section
/-!
DEFINITION. Vector work (R188 to R204): lanes and elements, the lane-by-lane forms, reductions, conversions, block
quantisation, sparsity, approximations, loads and stores of lanes, predicates.
-/
namespace Sys2Proof.Machine
open Sys2Proof

/-! ## Lanes -/

/-- The format of a floating-point lane type. -/
def fmtOf : VType → Fmt
  | .i32 => fp32
  | .f32 => fp32
  | .bf16 => bf16
  | .f16 => fp16
/-- R188: the bits of an element in its lane. -/
def laneBits : VType → Lane → Nat
  | .i32, x => x.toNat
  | .f32, x => x.toNat
  | _, x => x.toNat % 65536
/-- An INT32 lane read signed or unsigned. -/
def laneInt (uns : Bool) (x : Lane) : Int := if uns then x.toNat else x.toInt
/-- The value of an element of any lane type; integers signed. -/
def laneVal (t : VType) (x : Lane) : Val :=
  match t with
  | .i32 => ofInt x.toInt
  | t => decodeF (fmtOf t) (laneBits t x)
def satEv (c : Bool) : Events := ⟨if c then 1 else 0, 0, 0⟩
def laneN (v : Vector Lane 32) (n : Nat) : Lane := v.toList.getD n 0
def mkLanes (f : Nat → Lane) : Vector Lane 32 := Vector.ofFn (fun n => f n.val)

/-- R189: a destination written lane by lane under a predicate, with the events of the governed lanes. -/
def lanewise (pg : Lane) (old : Vector Lane 32) (f : Nat → Lane × Events) : Vector Lane 32 × Events :=
  (mkLanes (fun n => if plane pg n then (f n).1 else laneN old n),
   (List.range 32).foldl (fun e n => if plane pg n then e.plus (f n).2 else e) Events.none)
/-- A form that writes a v register lane by lane. -/
def vform (len : Nat) (srcs : List Reg) (p : PReg) (d : VReg) (s : State) (f : State → Nat → Lane × Events) : State :=
  runI len srcs [] s (fun s =>
    let (v, e) := lanewise (prd s p) (vrd s d) (f s)
    .done (countMe (vwr s d v) e))

/-! ## Arithmetic (R193) -/

/-- R193: an integer result into its lane. -/
def intLane (q : VArith) (e : Int) : Lane × Events :=
  let (y, c) := if q.sat then clampInt 32 q.u e else (e, false)
  (BitVec.ofInt 32 y, satEv c)
/-- A floating-point result into its lane. -/
def fltLane (q : VArith) (v : Val) : Lane × Events :=
  let (b, c) := roundF (fmtOf q.t) q.rm q.sat v
  (BitVec.ofNat 32 b, satEv c)
def arith2 (q : VArith) (fi : Int → Int → Int) (ff : Val → Val → Val) (x y : Lane) : Lane × Events :=
  if q.t = .i32 then intLane q (fi (laneInt q.u x) (laneInt q.u y))
  else fltLane q (ff (laneVal q.t x) (laneVal q.t y))
/-- A binary form. -/
def vbin (q : VArith) (fi : Int → Int → Int) (ff : Val → Val → Val) (p : PReg) (d b : VReg) (x : VSrc) (s : State) :
    State :=
  vform (2 + vsrcLen x) (vsrcRegs x) p d s (fun s n =>
    arith2 q fi ff (laneN (vrd s (vsrc1 d b x)) n) (laneN (vsrc2 s b x) n))

def execVadd (q : VArith) (p : PReg) (d b : VReg) (x : VSrc) (s : State) : Out :=
  .next (vbin q (· + ·) (addV q.rm) p d b x s)
/-- R113: a difference is x + (-y). -/
def execVsub (q : VArith) (p : PReg) (d b : VReg) (x : VSrc) (s : State) : Out :=
  .next (vbin q (· - ·) (fun x y => addV q.rm x (negV y)) p d b x s)
def execVmul (q : VArith) (p : PReg) (d b : VReg) (x : VSrc) (s : State) : Out :=
  .next (vbin q (· * ·) mulV p d b x s)
def execVmin (q : VArith) (p : PReg) (d b : VReg) (x : VSrc) (s : State) : Out :=
  .next (vbin q min minV p d b x s)
def execVmax (q : VArith) (p : PReg) (d b : VReg) (x : VSrc) (s : State) : Out :=
  .next (vbin q max maxV p d b x s)
/-- R193: rounded once, after the exact x × y + z. -/
def execVfma (q : VArith) (p : PReg) (d b : VReg) (x : VSrc) (e : VReg) (s : State) : Out :=
  .next (vform 3 (vsrcRegs x) p d s (fun s n =>
    let u := laneN (vrd s b) n
    let v := laneN (vsrc2 s b x) n
    let w := laneN (vrd s e) n
    if q.t = .i32 then intLane q (laneInt q.u u * laneInt q.u v + laneInt q.u w)
    else fltLane q (addV q.rm (mulV (laneVal q.t u) (laneVal q.t v)) (laneVal q.t w))))
/-- A unary form. -/
def vun (q : VArith) (fi : Int → Int) (ff : Val → Val) (p : PReg) (d b : VReg) (s : State) : State :=
  vform 2 [] p d s (fun s n =>
    let x := laneN (vrd s b) n
    if q.t = .i32 then intLane q (fi (laneInt q.u x)) else fltLane q (ff (laneVal q.t x)))
def execVabs (q : VArith) (p : PReg) (d b : VReg) (s : State) : Out :=
  .next (vun q (fun x => (x.natAbs : Int)) absV p d b s)
def execVneg (q : VArith) (p : PReg) (d b : VReg) (s : State) : Out := .next (vun q (fun x => -x) negV p d b s)

/-! ## Logic and shifts (R194) -/

def vlog2s (f : Lane → Lane → Lane) (p : PReg) (d b : VReg) (x : VSrc) (s : State) : State :=
  vform (2 + vsrcLen x) (vsrcRegs x) p d s (fun s n =>
    (f (laneN (vrd s (vsrc1 d b x)) n) (laneN (vsrc2 s b x) n), Events.none))
def execVand (p : PReg) (d b : VReg) (x : VSrc) (s : State) : Out := .next (vlog2s (· &&& ·) p d b x s)
def execVor (p : PReg) (d b : VReg) (x : VSrc) (s : State) : Out := .next (vlog2s (· ||| ·) p d b x s)
def execVxor (p : PReg) (d b : VReg) (x : VSrc) (s : State) : Out := .next (vlog2s (· ^^^ ·) p d b x s)
def execVshl (p : PReg) (d b : VReg) (x : VSrc) (s : State) : Out :=
  .next (vlog2s (fun x y => x <<< (y.toNat % 32)) p d b x s)
def execVshr (p : PReg) (d b : VReg) (x : VSrc) (s : State) : Out :=
  .next (vlog2s (fun x y => x >>> (y.toNat % 32)) p d b x s)
def execVsra (p : PReg) (d b : VReg) (x : VSrc) (s : State) : Out :=
  .next (vlog2s (fun x y => x.sshiftRight (y.toNat % 32)) p d b x s)
def vlog1 (f : Lane → Lane) (p : PReg) (d b : VReg) (s : State) : State :=
  vform 2 [] p d s (fun s n => (f (laneN (vrd s b) n), Events.none))
def execVnot (p : PReg) (d b : VReg) (s : State) : Out := .next (vlog1 (fun x => ~~~x) p d b s)
def execVmov (p : PReg) (d b : VReg) (s : State) : Out := .next (vlog1 (fun x => x) p d b s)

/-! ## Compare, select, move lanes (R195, R196) -/

def condHolds (cc : VCond) (lt eq un : Bool) : Bool :=
  match cc with
  | .eq => !un && eq
  | .ne => un || !eq
  | .lt => !un && lt
  | .le => !un && (lt || eq)
  | .gt => !un && !lt && !eq
  | .ge => !un && !lt
  | .uo => un
def cmpLane (cc : VCond) (t : VType) (u : Bool) (x y : Lane) : Bool :=
  if t = .i32 then condHolds cc (decide (laneInt u x < laneInt u y)) (x == y) false
  else
    let a := laneVal t x
    let b := laneVal t y
    condHolds cc (ltV a b) (eqV a b) (isNan a || isNan b)
/-- The mask of the lanes where `f` holds. -/
def laneMask (f : Nat → Bool) : Lane :=
  (List.range 32).foldl (fun a n => if f n then a ||| BitVec.twoPow 32 n else a) 0
def execVcmp (cc : VCond) (t : VType) (u : Bool) (p d : PReg) (b : VReg) (x : VSrc) (s : State) : Out :=
  .next (runI 3 (vsrcRegs x) [] s (fun s =>
    .done (pwr s d (laneMask (fun n =>
      plane (prd s p) n && cmpLane cc t u (laneN (vrd s b) n) (laneN (vsrc2 s b x) n))))))
def execVsel (p : PReg) (d b : VReg) (x : VSrc) (s : State) : Out :=
  .next (runI 3 (vsrcRegs x) [] s (fun s =>
    .done (vwr s d (mkLanes (fun n => if plane (prd s p) n then laneN (vrd s b) n else laneN (vsrc2 s b x) n)))))
def execVperm (p : PReg) (d b c : VReg) (s : State) : Out :=
  .next (vform 3 [] p d s (fun s n =>
    let k := (laneN (vrd s c) n).toNat
    (if k < 32 then laneN (vrd s b) k else 0, Events.none)))
def execVbcst (p : PReg) (d : VReg) (b : Reg) (s : State) : Out :=
  .next (vform 2 [b] p d s (fun s _ => ((rd s b).setWidth 32, Events.none)))
def execVext (d : Reg) (b : VReg) (n : Fin 32) (s : State) : Out :=
  .next (runI 3 [] [d] s (fun s => .done (wr s d ((laneN (vrd s b) n.val).setWidth 64))))
def execVins (d : VReg) (b : Reg) (n : Fin 32) (s : State) : Out :=
  .next (runI 3 [b] [] s (fun s => .done (vwr s d ((vrd s d).set n ((rd s b).setWidth 32)))))

/-! ## Reductions (R197) -/

/-- The governed lanes of a register, lowest first. -/
def governed (pg : Lane) (v : Vector Lane 32) : List Lane :=
  ((List.range 32).filter (plane pg)).map (laneN v)
/-- The largest (or smallest) by an order, of one lane at least. -/
def bestInt (big : Bool) (l : List Int) (d : Int) : Int :=
  match l with
  | [] => d
  | x :: l => l.foldl (fun a y => if big then max a y else min a y) x
def bestVal (big : Bool) (l : List Val) : Val :=
  match l with
  | [] => .inf big
  | x :: l => l.foldl (fun a y => if big then maxV a y else minV a y) x
def reduceBest (big : Bool) (q : VArith) (d : Reg) (p : PReg) (b : VReg) (s : State) : State :=
  runI 2 [] [d] s (fun s =>
    let l := governed (prd s p) (vrd s b)
    .done (wr s d (
      if q.t = .i32 then
        BitVec.ofInt 64 (bestInt big (l.map (laneInt q.u)) (if big then intMinOf 32 q.u else intMaxOf 32 q.u))
      else BitVec.ofNat 64 (roundF (fmtOf q.t) .rne false (bestVal big (l.map (laneVal q.t)))).1)))
def execVrsum (q : VArith) (d : Reg) (p : PReg) (b : VReg) (s : State) : Out :=
  .next (runI 2 [] [d] s (fun s =>
    if q.t = .i32 then
      .done (wr s d (BitVec.ofInt 64 ((governed (prd s p) (vrd s b)).foldl (fun a x => a + laneInt q.u x) 0)))
    else
      let l := (List.range 32).map (fun n => if plane (prd s p) n then laneBits q.t (laneN (vrd s b) n) else 0)
      let (x, c) := tree32 (fmtOf q.t) q.sat l
      .done (countMe (wr s d (BitVec.ofNat 64 x)) ⟨c, 0, 0⟩)))
def execVrmax (q : VArith) (d : Reg) (p : PReg) (b : VReg) (s : State) : Out := .next (reduceBest true q d p b s)
def execVrmin (q : VArith) (d : Reg) (p : PReg) (b : VReg) (s : State) : Out := .next (reduceBest false q d p b s)

/-! ## Conversions (R198, R124) -/

/-- The bits of an integer format; none of a floating-point one. -/
def vfInt : VFmt → Option Nat
  | .int8 => some 8
  | .int16 => some 16
  | .int32 => some 32
  | _ => none
def vfFmt : VFmt → Fmt
  | .bf16 => bf16
  | .fp16 => fp16
  | _ => fp32
/-- R188: an integer element of a lane. -/
def readInt (bits : Nat) (uns : Bool) (x : Lane) : Int :=
  if uns then (x.setWidth bits).toNat else (x.setWidth bits).toInt
def cvtLane (rm : Rnd) (sat : Bool) (df : VFmt) (du : Bool) (sf : VFmt) (su : Bool) (x : Lane) : Lane × Events :=
  match vfInt sf, vfInt df with
  | some k, some n =>
    let (y, c) := clampInt n du (readInt k su x)
    (BitVec.ofInt 32 y, satEv c)
  | some k, none =>
    let (b, c) := roundF (vfFmt df) rm sat (ofInt (readInt k su x))
    (BitVec.ofNat 32 b, satEv c)
  | none, some n =>
    let (y, e) := toInteger n du rm (decodeF (vfFmt sf) (x.toNat % (2 * (vfFmt sf).half)))
    (BitVec.ofInt 32 y, e)
  | none, none =>
    let (b, c) := roundF (vfFmt df) rm sat (decodeF (vfFmt sf) (x.toNat % (2 * (vfFmt sf).half)))
    (BitVec.ofNat 32 b, satEv c)
def execVcvt (rm : Rnd) (sat : Bool) (p : PReg) (d b : VReg) (df : VFmt) (du : Bool) (sf : VFmt) (su : Bool) (s : State) :
    Out :=
  .next (vform 3 [] p d s (fun s n => cvtLane rm sat df du sf su (laneN (vrd s b) n)))

/-! ## Block quantisation (R199) -/

def laneVals (t : VType) (v : Vector Lane 32) : List Val := v.toList.map (laneVal t)
/-- The low 32 bits of a scale register. -/
def scaleWord (s : State) (c : Reg) : Nat := bits (rd s c) 31 0
/-- R199: a packed field of 4m bytes in lanes 0 to m - 1. -/
def packLanes (m field : Nat) : Vector Lane 32 :=
  mkLanes (fun n => if n < m then BitVec.ofNat 32 (field / 2 ^ (32 * n)) else 0)
def unpackLanes (m : Nat) (v : Vector Lane 32) : Nat :=
  (List.range m).foldl (fun a n => a + (laneN v n).toNat * 2 ^ (32 * n)) 0
def execVscale (t : VType) (m : Nat) (d : Reg) (b : VReg) (s : State) : Out :=
  .next (runI 2 [] [d] s (fun s =>
    let (w, c) := vscaleOf (laneVals t (vrd s b)) m
    .done (countMe (wr s d (BitVec.ofNat 64 w)) ⟨0, 0, if c then 1 else 0⟩)))
def execVquant (t : VType) (m : Nat) (d b : VReg) (c : Reg) (s : State) : Out :=
  .next (runI 3 [c] [] s (fun s =>
    let (qs, e) := bqQuantise (laneVals t (vrd s b)) m (scaleWord s c)
    let s := countMe s e
    match qs with
    | none => .done (wr (vwr s d (mkLanes (fun _ => 0))) c 0x00FF0000)
    | some l => .done (vwr s d (packLanes m (bqPack m l)))))
/-- A result past the largest BF16 value is the infinity of its sign, and nothing is counted (log entry 70). -/
def execVdeq (t : VType) (m : Nat) (d b : VReg) (c : Reg) (s : State) : Out :=
  .next (runI 3 [c] [] s (fun s =>
    let field := unpackLanes m (vrd s b)
    let w := scaleWord s c
    .done (vwr s d (mkLanes (fun n =>
      BitVec.ofNat 32 (roundF (fmtOf t) .rne false (bqValue m w (bqField m field n))).1)))))

/-! ## Structured sparsity (R200, R201) -/

/-- R200: the element of a lane is its low byte, signed. -/
def byteElem (x : Lane) : Int := (x.setWidth 8).toInt
/-- R200: element `j` of eight is kept: fewer than four are larger, or equal with a lower index. -/
def keeps (l : List Int) (j : Nat) : Bool :=
  let m := (l.getD j 0).natAbs
  decide (((List.range 8).filter (fun i =>
    decide (m < (l.getD i 0).natAbs) || ((l.getD i 0).natAbs == m && decide (i < j)))).length < 4)
/-- The indices of the kept elements of a block of 32, rising. -/
def keptOf (v : Vector Lane 32) : List Nat :=
  (List.range 32).filter (fun n =>
    keeps ((List.range 8).map (fun i => byteElem (laneN v (8 * (n / 8) + i)))) (n % 8))
def execVcmpr (d b : VReg) (c : Reg) (s : State) : Out :=
  .next (runI 3 [] [c] s (fun s =>
    let v := vrd s b
    let l := keptOf v
    let packed := mkLanes (fun k => match l[k]? with
      | some n => if k < 16 then BitVec.ofInt 32 (byteElem (laneN v n)) else 0
      | none => 0)
    .done (wr (vwr s d packed) c ((laneMask (fun n => l.contains n)).setWidth 64))))
/-- R201: every byte of the mask has four set bits. -/
def goodMask (x : Lane) : Bool :=
  (List.range 4).all (fun k => ((List.range 8).filter (fun j => x.getLsbD (8 * k + j))).length == 4)
def execVexpd (d b : VReg) (c : Reg) (s : State) : Out :=
  .next (runI 3 [c] [] s (fun s =>
    let m : Lane := (rd s c).setWidth 32
    if !goodMask m then .trap s 0x09 (rd s c)
    else
      let v := vrd s b
      .done (vwr s d (mkLanes (fun n =>
        if m.getLsbD n then laneN v ((List.range n).filter (fun j => m.getLsbD j)).length else 0)))))

/-! ## Approximations (R202) -/

/-- The FP32 bits of an operand; BF16 and FP16 operands convert exactly. -/
def fp32Of (t : VType) (x : Lane) : Nat :=
  if t = .f32 then x.toNat else (roundF fp32 .rne false (laneVal t x)).1
def vapx (f : Approx) (t : VType) (sat : Bool) (p : PReg) (d b : VReg) (s : State) : State :=
  vform 2 [] p d s (fun s n =>
    let (y, c) := roundF (fmtOf t) .rne sat (approxV f (fp32Of t (laneN (vrd s b) n)))
    (BitVec.ofNat 32 y, satEv c))
def execVexp2 (t : VType) (sat : Bool) (p : PReg) (d b : VReg) (s : State) : Out := .next (vapx .exp2 t sat p d b s)
def execVlog2 (t : VType) (sat : Bool) (p : PReg) (d b : VReg) (s : State) : Out := .next (vapx .log2 t sat p d b s)
def execVrcp (t : VType) (sat : Bool) (p : PReg) (d b : VReg) (s : State) : Out := .next (vapx .rcp t sat p d b s)
def execVrsqrt (t : VType) (sat : Bool) (p : PReg) (d b : VReg) (s : State) : Out := .next (vapx .rsqrt t sat p d b s)
def execVtanh (t : VType) (sat : Bool) (p : PReg) (d b : VReg) (s : State) : Out := .next (vapx .tanh t sat p d b s)

/-! ## Loads, stores, predicates (R203, R204) -/

/-- R203: the checks, in order. -/
def vlocal (s : State) (sp : Space) (off : Word) (w : Nat) (k : State → Eff) : Eff :=
  if off.toNat % w ≠ 0 then .trap s 0x02 off
  else if bufSize sp < off.toNat + 32 * w then .trap s 0x03 off
  else k s
def execVld (sp : Space) (w : Width) (u : Bool) (p : PReg) (d : VReg) (b : Reg) (i : Imm) (s : State) : Out :=
  .next (runI (2 + i.n) [b] [] s (fun s =>
    let off := ea s b i
    vlocal s sp off (wbytes w) (fun s =>
      let get (n : Nat) : Lane :=
        let x : Word := bufRead s s.cur.core sp (off.toNat + n * wbytes w) (wbytes w)
        (if u then x else opSext w x).setWidth 32
      let (v, _) := lanewise (prd s p) (vrd s d) (fun n => (get n, Events.none))
      .done (vwr s d v))))
def execVst (sp : Space) (w : Width) (p : PReg) (d : VReg) (b : Reg) (i : Imm) (s : State) : Out :=
  .next (runI (2 + i.n) [b] [] s (fun s =>
    let off := ea s b i
    vlocal s sp off (wbytes w) (fun s =>
      .done ((List.range 32).foldl (fun s n =>
        if plane (prd s p) n
        then bufWrite s s.cur.core sp (off.toNat + n * wbytes w) (leBytes (wbytes w) (laneN (vrd s d) n).toNat)
        else s) s))))
def execPset (d : PReg) (b : Reg) (s : State) : Out :=
  .next (runI 2 [b] [] s (fun s => .done (pwr s d ((rd s b).setWidth 32))))
def execPget (d : Reg) (b : PReg) (s : State) : Out :=
  .next (runI 2 [] [d] s (fun s => .done (wr s d ((prd s b).setWidth 64))))

end Sys2Proof.Machine
end

