-- ==== Sys2Proof/Machine/Grove.lean ====
section
/-!
DEFINITION. The Grove (R240 to R258): distances, searches one expansion at a time, insertion and deletion with their
publication, and the five instructions. Entries and headers are held as records of the state; Views.lean gives the granules
where they stand and their bytes.
-/
namespace Sys2Proof.Machine
open Sys2Proof

/-! ## Entries and distances (R244, R247) -/

def gIndex (s : State) (n : Nat) : Option GIndex := fget s.grove n
def modIndex (s : State) (n : Nat) (f : GIndex → GIndex) : State :=
  match fget s.grove n with
  | some x => { s with grove := fset s.grove n (f x) }
  | none => s
/-- FP32 bits of a BF16 element. -/
def bf16To32 (x : Nat) : Lane := BitVec.ofNat 32 (roundF fp32 .rne false (decodeF bf16 x)).1
def bf16List (n : Nat) (l : List Byte) : List Nat := (List.range n).map (fun i => leNat ((l.drop (2 * i)).take 2))
/-- The scale word of block `j` of a BQ8 vector. -/
def gScale (dim : Nat) (l : List Byte) (j : Nat) : Nat := leNat ((l.drop (dim + 4 * j)).take 4)
/-- R247: the elements of a stored vector, as FP32 bits. -/
def vecVals (x : GIndex) (l : List Byte) : List Lane :=
  if x.bq8 then
    (List.range x.dim).map (fun i =>
      BitVec.ofNat 32 (roundF fp32 .rne false (bqValue 8 (gScale x.dim l (i / 32)) (l.getD i 0).toInt)).1)
  else (bf16List x.dim l).map bf16To32
/-- R247: the terms of one block. -/
def distTerm (ip : Bool) (x q : Lane) : Nat :=
  let xv := decodeF fp32 x.toNat
  let qv := decodeF fp32 q.toNat
  if ip then (roundF fp32 .rne false (mulV xv qv)).1
  else
    let e := (roundF fp32 .rne false (addV .rne xv (negV qv))).1
    (roundF fp32 .rne false (mulV (decodeF fp32 e) (decodeF fp32 e))).1
def gDist (x : GIndex) (v q : List Lane) : Lane :=
  let ts := (v.zip q).map (fun e => distTerm x.ip e.1 e.2)
  let d := (List.range (x.dim / 32)).foldl (fun d j =>
    (addF fp32 .rne false (d, 0) ((tree32 fp32 false ((ts.drop (32 * j)).take 32)).1, 0)).1) 0
  let d := if x.ip ∧ decodeF fp32 d ≠ .nan then (if d < 2 ^ 31 then d + 2 ^ 31 else d - 2 ^ 31) else d
  BitVec.ofNat 32 d
/-- R247: the order of entries: distance with NaN as +∞, then SEQ. -/
def hitBefore (a b : GHit) : Bool :=
  let v (x : GHit) : Val := match decodeF fp32 x.dist.toNat with
    | .nan => .inf false
    | y => y
  ltV (v a) (v b) || (eqV (v a) (v b) && decide (a.seq < b.seq))
def hitIns (h : GHit) : List GHit → List GHit
  | [] => [h]
  | x :: l => if hitBefore h x then h :: x :: l else x :: hitIns h l
def hitOf (x : GIndex) (q : List Lane) (slot : Nat) : Option GHit :=
  (fget x.ents slot).map (fun e => ⟨gDist x (vecVals x e.vec) q, e.seq, slot⟩)
/-- R246: visible, and visible and not deleted, at a snapshot. -/
def seenAt (e : GEntry) (s : Nat) : Bool := decide (e.seq ≤ s)
def aliveAt (e : GEntry) (s : Nat) : Bool := seenAt e s && (match e.dseq with
  | some d => decide (s < d)
  | none => true)
/-- R244: the neighbour list at a snapshot. -/
def listAt (e : GEntry) (s : Nat) : List Nat :=
  ((e.vers.filter (fun v => decide (v.1 ≤ s))).getLast?.map (·.2)).getD []
def entSeq (x : GIndex) (n : Nat) : Nat := ((fget x.ents n).map (·.seq)).getD (2 ^ 64)

/-! ## The granules of an index (R242, R257, R283, R287, R329) -/

/-- The Grove changes granules: each is logged at its first change of the interval. -/
def logGranules (s : State) (l : List Nat) : State := l.foldl (fun s g => logGranule (touch s (256 * g)) (256 * g)) s
/-- R287, R347: a change of granules waits. -/
def granulesStall (s : State) (l : List Nat) : Bool := l.any (fun g => vaultStalls s (256 * g) || chanBusy s (256 * g))
/-- The sectors of a granule. -/
def granuleSectors (g : Nat) : List Nat := (List.range 8).map (fun j => 256 * g + 32 * j)
/-- R298, R353: the first address of some granules that a TAU refuses to a launch. -/
def granulesRefuse (s : State) (launch : Nat) (l : List Nat) : Option (Nat × Refuse) :=
  (l.flatMap granuleSectors).findSome? (fun a => (tauRefuses s (some launch) a).map (fun r => (a, r)))
/-- R329, R344, R347, R349, R350, R353: an engine reads granules for a launch: in a channel out of service it waits, `wait`; at an
error in a granule changed in this interval, or an armed injection, a rollback is triggered and nothing is read; where a TAU refuses,
`bad` is told; else `k`. -/
def granulesRead (s : State) (launch : Nat) (l : List Nat) (wait : State → State) (bad : State → Nat → Refuse → State)
    (k : State → State) : State :=
  let shut (g : Nat) : Bool := tauShuts s (some launch) (256 * g)
  if l.any (fun g => chanBusy s (256 * g)) then wait s
  else if (l.filter (fun g => !shut g)).any (fun g => (granuleSectors g).any (eccStops s)) then trigger s 1
  else if (l.filter (fun g => !shut g)).any (fun g => injFires s (256 * g)) then fireInj s
  else
    let s := (l.filter (fun g => !shut g)).foldl (fun s g => touch (eccRead s (256 * g) 256) (256 * g)) s
    match granulesRefuse s launch l with
    | some (a, r) => bad s a r
    | none => k s
/-- R298, R353: a refused request of a thread takes trap 0x05. -/
def refuseTrap (rto : TRef) (launch : Nat) (s : State) (a : Nat) (r : Refuse) : State :=
  answer (noteRefusal s (some launch) false r) (.thr rto) (.trap 0x05 (BitVec.ofNat 64 a) [])
/-- A request at its engine that waits there. -/
def again (s : State) : State := post s s.ev

/-! ## Searches (R248, R257) -/

/-- R248: the entry point. -/
def entryPoint (x : GIndex) (ep s : Nat) : Option Nat :=
  match (if ep = 0 then none else x.ents.find? (fun e => e.2.seq == ep && decide (ep ≤ s))) with
  | some e => some e.1
  | none => if entSeq x 0 ≤ s then some 0 else none
/-- A search as it starts. -/
def newSearch (s : State) (n : Nat) (x : GIndex) (snap k width : Nat) (exact : Bool) (q : List Lane) (ep : Nat)
    (f : GFor) : State :=
  let hits := if exact then [] else ((entryPoint x ep snap).bind (hitOf x q)).toList
  { s with
    searches := s.searches ++ [⟨s.gNext, n, snap, k, width, exact, q, hits, hits, hits.map (·.slot), 0, f⟩]
    gNext := s.gNext + 1 }
/-- R248: one neighbour of the candidate. -/
def beamOne (x : GIndex) (g : GSearch) (n : Nat) : GSearch :=
  if g.seen.contains n || decide (g.snap < entSeq x n) then g
  else
    let g := { g with seen := n :: g.seen }
    match hitOf x g.query n with
    | none => g
    | some h =>
      if g.beam.length < g.width ∨ (g.beam.getLast?.any (fun l => hitBefore h l))
      then { g with beam := (hitIns h g.beam).take g.width, cand := hitIns h g.cand }
      else g
/-- R248: one pass of the beam search; none when it ends. -/
def beamStep (x : GIndex) (g : GSearch) : Option GSearch :=
  match g.cand with
  | [] => none
  | c :: l =>
    if g.beam.length = g.width ∧ (g.beam.getLast?.any (fun w => hitBefore w c)) then none
    else
      let ns := ((fget x.ents c.slot).map (fun e => listAt e g.snap)).getD []
      some (ns.foldl (beamOne x) { g with cand := l })
/-- R248: one scanned entry of the exact mode. -/
def exactStep (x : GIndex) (g : GSearch) : Option GSearch :=
  if x.used ≤ g.scan then none
  else
    let g' := { g with scan := g.scan + 1 }
    match fget x.ents g.scan with
    | some e =>
      if aliveAt e g.snap then
        match hitOf x g.query g.scan with
        | some h => some { g' with beam := (hitIns h g.beam).take g.k }
        | none => some g'
      else some g'
    | none => some g'
/-- R252: the results of an `ldnn`. -/
def resultsOf (x : GIndex) (g : GSearch) : List (Word × Lane) :=
  ((g.beam.filter (fun h => (fget x.ents h.slot).any (fun e => aliveAt e g.snap))).take g.k).map (fun h =>
    (((fget x.ents h.slot).map (·.payload)).getD 0, h.dist))
/-- A search leaves its engine. -/
def dropSearch (s : State) (id : Nat) : State := { s with searches := s.searches.filter (fun e => e.id != id) }
/-- R249: the versions of an entry. -/
def setVers (x : GIndex) (slot : Nat) (f : GEntry → GEntry) : GIndex :=
  match fget x.ents slot with
  | some e => { x with ents := fset x.ents slot (f e) }
  | none => x
/-- A search has ended: the results of an `ldnn` leave; an `stv` writes version 0 of its entry and has its neighbours. -/
def endSearch (s : State) (x : GIndex) (g : GSearch) : State :=
  match g.for_ with
  | .ldnn m => post (dropSearch s g.id) (.groveReply ⟨m.rto, m.dst, m.rto.core, some x.launch, m.roff, resultsOf x g⟩)
  | .stv _ _ slot seq =>
    let grans := entryGranules s g.index x slot
    if granulesStall s grans then s
    else
      let near := (g.beam.take x.deg).map (·.slot)
      modIndex (dropSearch (logGranules s grans) g.id) g.index (fun y =>
        { setVers y slot (fun e => { e with vers := [(seq, near)] }) with
          pubs := y.pubs.map (fun p => if p.seq = seq then { p with done := true, near := near } else p) })
/-- The slots whose entries the next step of a search reads. -/
def readSlots (x : GIndex) (g : GSearch) : List Nat :=
  if g.exact then (if g.scan < x.used then [g.scan] else [])
  else match g.cand with
    | [] => []
    | c :: _ => c.slot :: (((fget x.ents c.slot).map (fun e => listAt e g.snap)).getD []).filter (fun n => !g.seen.contains n)
/-- R257, R312: the search of a launch that is switched out stands. -/
def searchHeld (s : State) (x : GIndex) : Bool :=
  match fget s.launches x.launch with
  | some l => l.stage == .stopping || l.stage == .out
  | none => false
/-- R257, R312: the search stands: one of an `ldnn`. -/
def standsOut (s : State) (g : GSearch) : Bool :=
  (match g.for_ with
  | .ldnn _ => true
  | .stv .. => false) && (fget s.grove g.index).any (searchHeld s)
/-- R248, R257, R298, R353: one step of a search; an `ldnn` that is refused ends with a trap. -/
def expandGo (s : State) (id : Nat) : State :=
  match s.searches.find? (fun g => g.id == id) with
  | none => s
  | some g =>
    match fget s.grove g.index with
    | none => dropSearch s id
    | some x =>
      let go (s : State) : State :=
        match if g.exact then exactStep x g else beamStep x g with
        | some g' => { s with searches := s.searches.map (fun e => if e.id = id then g' else e) }
        | none => endSearch s x g
      let bad (s : State) (a : Nat) (r : Refuse) : State :=
        match g.for_ with
        | .ldnn m => refuseTrap m.rto x.launch (dropSearch s id) a r
        | .stv .. => go s
      if standsOut s g then s
      else granulesRead s x.launch ((readSlots x g).flatMap (entryGranules s g.index x)) (fun s => s) bad go
def execCandidateExpansion (s : State) : Out :=
  match s.ev with
  | .candidateExpansion id => .next (expandGo s id)
  | _ => .next s

/-- R76, R258: a reply to a core whose context of the launch has moved goes to the core that holds it now. -/
def followFwd (s : State) (launch : Option Nat) (c : Nat) : Nat :=
  match (core s c).fwd with
  | some f => if some f.launch = launch then f.dest else c
  | none => c
/-- R252: the whole reply is applied to A before gd is written. -/
def execGroveReply (s : State) : Out :=
  match s.ev with
  | .groveReply m =>
    let c := followFwd s m.launch m.core
    let s := m.res.zipIdx.foldl (fun s e =>
      bufWrite s c .a (m.roff + 16 * e.2) (leBytes 8 e.1.1.toNat ++ leBytes 8 e.1.2.toNat)) s
    .next (replyAt s ⟨c, m.rto.slot⟩ (.writes [(m.dst, BitVec.ofNat 64 m.res.length)]))
  | _ => .next s

/-! ## Publication (R245, R249) -/

/-- R249: the new version of a neighbour: its current list with the new slot, the DEG nearest to it. -/
def newList (x : GIndex) (n slot : Nat) (e : GEntry) : List Nat :=
  let cur := (e.vers.getLast?.map (·.2)).getD []
  let q := vecVals x e.vec
  let hits := (cur ++ [slot]).filterMap (hitOf x q)
  let best := (hits.foldl (fun l h => hitIns h l) []).take x.deg
  ((cur ++ [slot]).filter (fun m => m != n && best.any (fun h => h.slot == m)))
/-- R249: a live search reads the oldest version of a full ring. -/
def holdsOldest (s : State) (n : Nat) (e : GEntry) : Bool :=
  decide (4 ≤ e.vers.length) && (match e.vers[1]? with
    | some v => s.searches.any (fun g => g.index == n && decide (g.snap < v.1))
    | none => false)
/-- R249: a version joins a ring of four; the FLOOR that follows. -/
def addVersion (floor : Nat) (e : GEntry) (seq : Nat) (l : List Nat) : GEntry × Nat :=
  let vs := e.vers ++ [(seq, l)]
  if 4 < vs.length then ({ e with vers := vs.tail }, max floor ((vs.tail.head?.map (·.1)).getD 0))
  else ({ e with vers := vs }, floor)
/-- R249: a listed neighbour gets its new version. -/
def neighbourWrite (x : GIndex) (p : GPub) (n : Nat) : GIndex :=
  match fget x.ents n with
  | some e =>
    let (e', f) := addVersion x.floor e p.seq (newList x n p.slot e)
    { x with ents := fset x.ents n e', floor := f }
  | none => x
/-- The granules that the next write of a sequence changes: the neighbour's and, for FLOOR, the header's; else the header's. -/
def publishGranules (s : State) (n : Nat) (x : GIndex) (p : GPub) : List Nat :=
  (match p.near with
    | k :: _ => if p.del then [] else entryGranules s n x k
    | [] => []) ++ headerGranules s n x
/-- R249: the granules that the next write of a sequence reads: the neighbour's list and vector, those of the entries that it lists and
of the new one. -/
def publishReads (s : State) (n : Nat) (x : GIndex) (p : GPub) : List Nat :=
  match p.near with
  | k :: _ =>
    if p.del then []
    else
      let cur := (((fget x.ents k).bind (fun e => e.vers.getLast?)).map (·.2)).getD []
      (k :: cur ++ [p.slot]).flatMap (entryGranules s n x)
  | [] => []
/-- R245, R249, R287: the lowest sequence that is not published, if its next write can be made: an insertion waits at a
neighbour whose oldest version a live search reads. -/
def canPublish (s : State) (n : Nat) (x : GIndex) : Option GPub :=
  match x.pubs.find? (fun p => p.seq == x.pub + 1) with
  | some p =>
    if !p.done then none
    else if !p.del ∧ (p.near.head?.any (fun k => (fget x.ents k).any (holdsOldest s n))) then none
    else if granulesStall s (publishGranules s n x p) then none
    else some p
  | none => none
/-- R245, R249: the neighbours are written one by one, in order; with no neighbour left the sequence is published. -/
def publishStep (x : GIndex) (p : GPub) : GIndex × Bool :=
  match p.del, p.near with
  | false, k :: l =>
    ({ neighbourWrite x p k with pubs := x.pubs.map (fun q => if q.seq = p.seq then { q with near := l } else q) }, false)
  | del, _ =>
    ({ x with pub := p.seq, lives := if del then x.lives - 1 else x.lives + 1
              pubs := x.pubs.filter (fun q => q.seq != p.seq) }, true)
def publishGo (s : State) (n : Nat) : State :=
  match fget s.grove n with
  | none => s
  | some x =>
    match canPublish s n x with
    | none => s
    | some p =>
      let go (s : State) : State :=
        let s := logGranules s (publishGranules s n x p)
        let (x', out) := publishStep x p
        let s := { s with grove := fset s.grove n x' }
        if out then answer s (.thr p.rto) (.writes [(p.dst, BitVec.ofNat 64 p.seq)]) else s
      granulesRead s x.launch (publishReads s n x p) (fun s => s) (fun s _ _ => go s) go
def execPublish (s : State) : Out :=
  match s.ev with
  | .publish n => .next (publishGo s n)
  | _ => .next s

/-! ## Acceptance (R245, R251 to R255) -/

def groveTval (reason : Nat) (detail : Word) : Word := BitVec.ofNat 64 (reason * 2 ^ 56) ||| detail
/-- A BF16 pattern that is NaN or infinite. -/
def bf16Bad (x : Nat) : Bool := x / 128 % 256 == 255
def refuseElem (s : State) (rto : TRef) (i : Nat) : State :=
  answer s (.thr rto) (.trap 0x0D (groveTval 2 (BitVec.ofNat 64 i)) [])
/-- The bytes of the issuing core's A, read at acceptance. -/
def queryBytes (s : State) (launch : Nat) (rto : TRef) (off n : Nat) : List Byte :=
  mgets (core s (followFwd s (some launch) rto.core)).bufA off n
/-- R245, R255: a request is accepted at the header of its index. -/
def withHeader (s : State) (rto : TRef) (i : Nat) (k : State → GIndex → State) : State :=
  match fget s.grove i with
  | none => answer s (.thr rto) (.trap 0x0D (groveTval 1 0) [])
  | some x => granulesRead s x.launch (headerGranules s i x) again (refuseTrap rto x.launch) (fun s => k s x)
/-- R248: the granules of the entry point that a search reads first. -/
def entryPointGranules (s : State) (i : Nat) (x : GIndex) (exact : Bool) (ep snap : Nat) : List Nat :=
  if exact then [] else (entryPoint x ep snap).toList.flatMap (entryGranules s i x)
/-- R247: the snapshot of a search. -/
def ldnnSnap (x : GIndex) (m : LdnnMsg) : Nat := if m.snap = 0 then x.pub else m.snap.toNat
def ldnnGo (s : State) (m : LdnnMsg) : State :=
  withHeader s m.rto m.index fun s x =>
    let q := bf16List x.dim (queryBytes s x.launch m.rto m.qoff (2 * x.dim))
    match q.findIdx? bf16Bad with
    | some i => refuseElem s m.rto i
    | none =>
      let snap := ldnnSnap x m
      if snap < x.floor ∨ x.pub < snap then answer s (.thr m.rto) (.trap 0x0D (groveTval 3 m.snap) [])
      else
        granulesRead s x.launch (entryPointGranules s m.index x (m.ef == 0) m.ep.toNat snap) again (refuseTrap m.rto x.launch) fun s =>
          newSearch s m.index x snap m.k (max m.ef m.k) (m.ef == 0) (q.map bf16To32) m.ep.toNat (.ldnn m)
def execLdnnAccept (s : State) : Out :=
  match s.ev with
  | .ldnnAccept m => .next (ldnnGo s m)
  | _ => .next s
/-- R251: the first bad element of a vector in an index's format. -/
def badElem (x : GIndex) (l : List Byte) : Option Nat :=
  if x.bq8 then ((List.range (x.dim / 32)).find? (fun j => scaleE (gScale x.dim l j) == 0xFF)).map (fun j => 32 * j)
  else (bf16List x.dim l).findIdx? bf16Bad
/-- The granules that an accepted `stv` or `dlv` changes: an entry's and the header's. -/
def acceptGranules (s : State) (i : Nat) (x : GIndex) (slot : Nat) : List Nat := entryGranules s i x slot ++ headerGranules s i x
/-- R249: an `stv` is accepted: it fills the slot and starts its neighbour search. -/
def stvFill (s : State) (m : GroveMsg) (x : GIndex) (l : List Byte) : State :=
  let s := logGranules s (acceptGranules s m.index x x.used)
  let x' := { x with
    ents := fset x.ents x.used ⟨x.alloc, none, m.payload, l, []⟩, used := x.used + 1, alloc := x.alloc + 1
    pubs := x.pubs ++ [⟨x.alloc, false, false, x.used, [], m.rto, m.dst⟩] }
  newSearch { s with grove := fset s.grove m.index x' } m.index x' x.pub (2 * x.deg) (2 * x.deg) false
    (vecVals x l) 0 (.stv m.rto m.dst x.used x.alloc)
def stvGo (s : State) (m : GroveMsg) : State :=
  withHeader s m.rto m.index fun s x =>
    let l := queryBytes s x.launch m.rto m.off (vecBytes x)
    match badElem x l with
    | some i => refuseElem s m.rto i
    | none =>
      if x.used = x.cap then answer s (.thr m.rto) (.writes [(m.dst, 0)])
      else if granulesStall s (acceptGranules s m.index x x.used) then post s s.ev
      else
        granulesRead s x.launch (entryPointGranules s m.index x false 0 x.pub) again (fun s _ _ => stvFill s m x l) (fun s => stvFill s m x l)
/-- R254: the live entry with a sequence, and its slot. -/
def dlvEntry (x : GIndex) (m : GroveMsg) : Option (Nat × GEntry) :=
  x.ents.find? (fun e => BitVec.ofNat 64 e.2.seq == m.payload && decide (e.2.seq ≤ x.pub) && e.2.dseq.isNone)
def execStvAccept (s : State) : Out :=
  match s.ev with
  | .stvAccept m => .next (stvGo s m)
  | _ => .next s
/-- R254. -/
def dlvGo (s : State) (m : GroveMsg) : State :=
  withHeader s m.rto m.index fun s x =>
    match dlvEntry x m with
    | none => answer s (.thr m.rto) (.writes [(m.dst, 0)])
    | some (n, e) => granulesRead s x.launch (entryGranules s m.index x n) again (refuseTrap m.rto x.launch) fun s =>
      if granulesStall s (acceptGranules s m.index x n) then post s s.ev
      else
      let s := logGranules s (acceptGranules s m.index x n)
      let seq := x.alloc
      { s with grove := fset s.grove m.index { x with
          ents := fset x.ents n { e with dseq := some seq }, alloc := seq + 1
          pubs := x.pubs ++ [⟨seq, true, true, n, [], m.rto, m.dst⟩] } }
def execDlvAccept (s : State) : Out :=
  match s.ev with
  | .dlvAccept m => .next (dlvGo s m)
  | _ => .next s
/-- R255: two values read in one step at the header. -/
def readHeader (s : State) (m : GroveMsg) (f : GIndex → Word × Word) : State :=
  withHeader s m.rto m.index fun s x => answer s (.thr m.rto) (.writes [(m.dst, (f x).1), (regUp m.dst 1, (f x).2)])
def execIxverAccept (s : State) : Out :=
  match s.ev with
  | .ixverAccept m => .next (readHeader s m (fun x => (x.record, BitVec.ofNat 64 x.lives)))
  | _ => .next s
def execIxsnapAccept (s : State) : Out :=
  match s.ev with
  | .ixsnapAccept m => .next (readHeader s m (fun x => (BitVec.ofNat 64 x.pub, BitVec.ofNat 64 x.floor)))
  | _ => .next s

/-! ## The instructions (R250 to R255) -/

/-- R240: the module's number of an index of the running thread's launch. -/
def findIndex (s : State) (n : Nat) : Option (Nat × GIndex) :=
  match (me s).launch with
  | none => none
  | some l => s.grove.find? (fun e => e.2.launch == l && e.2.inum == n)
/-- R251: the index, or trap 0x0D. -/
def withIndex (s : State) (n : Nat) (k : Nat → GIndex → Eff) : Eff :=
  match findIndex s n with
  | none => .trap s 0x0D (groveTval 1 (BitVec.ofNat 64 n))
  | some (i, x) => k i x
def execLdnn (d b : Reg) (s : State) : Out :=
  .next (runI 2 [b, regUp b 1, regUp b 2] [d] s (fun s =>
    let d0 := rd s b
    let k := bits d0 13 8
    let ef := bits d0 31 16
    let qoff := bits d0 47 32
    let roff := bits d0 63 48
    if bits d0 7 6 ≠ 0 ∨ bits d0 15 14 ≠ 0 ∨ k = 0 ∨ 32 < k ∨ 1024 < ef then .trap s 0x03 d0
    else if qoff % 8 ≠ 0 then .trap s 0x02 (BitVec.ofNat 64 qoff)
    else if roff % 16 ≠ 0 then .trap s 0x02 (BitVec.ofNat 64 roff)
    else if 49152 < roff + 16 * k then .trap s 0x03 (BitVec.ofNat 64 roff)
    else withIndex s (bits d0 5 0) (fun i x =>
      if 49152 < qoff + 2 * x.dim then .trap s 0x03 (BitVec.ofNat 64 qoff)
      else .reply (post s (.ldnnAccept ⟨s.cur, d, i, k, ef, qoff, roff, rd s (regUp b 1), rd s (regUp b 2)⟩)) (d == 31)
        .dflt)))
def execStv (d b c : Reg) (s : State) : Out :=
  .next (runI 3 [b, c] [d] s (fun s =>
    let w := rd s b
    let off := bits w 31 16
    if bits w 15 6 ≠ 0 ∨ bits w 63 32 ≠ 0 then .trap s 0x03 w
    else if off % 8 ≠ 0 then .trap s 0x02 (BitVec.ofNat 64 off)
    else withIndex s (bits w 5 0) (fun i x =>
      if 49152 < off + vecBytes x then .trap s 0x03 (BitVec.ofNat 64 off)
      else .reply (post s (.stvAccept ⟨s.cur, d, i, off, rd s c⟩)) (d == 31) .dflt)))
/-- An instruction that names an index by a word with no offset. -/
def indexI (s : State) (w : Word) (pushes : Bool) (msg : Nat → Ev) : Eff :=
  if bits w 63 6 ≠ 0 then .trap s 0x03 w
  else withIndex s (bits w 5 0) (fun i _ => .reply (post s (msg i)) pushes .dflt)
def execDlv (d b c : Reg) (s : State) : Out :=
  .next (runI 3 [b, c] [d] s (fun s => indexI s (rd s b) (d == 31) (fun i => .dlvAccept ⟨s.cur, d, i, 0, rd s c⟩)))
def execIxver (d b : Reg) (s : State) : Out :=
  .next (runI 2 [b] [d, regUp d 1] s (fun s => indexI s (rd s b) false (fun i => .ixverAccept ⟨s.cur, d, i, 0, 0⟩)))
def execIxsnap (d b : Reg) (s : State) : Out :=
  .next (runI 2 [b] [d, regUp d 1] s (fun s => indexI s (rd s b) false (fun i => .ixsnapAccept ⟨s.cur, d, i, 0, 0⟩)))

end Sys2Proof.Machine
end

