-- ==== Sys2Proof/Machine/Matrix.lean ====
section
/-!
DEFINITION. The matrix unit (R206 to R228): format contexts, the five pushes with their checks, the jobs one K-step, row
or 256-byte piece at a time, and waiting, testing and cancelling of matrix and copy jobs.
-/
namespace Sys2Proof.Machine
open Sys2Proof

/-! ## Format contexts (R207, R208) -/

inductive MxPath where
  | bf16 | fp32 | int8
  | bq (m : Nat)
  deriving DecidableEq, Repr
def fmtA (w : Word) : Nat := bits w 3 0
def fmtB (w : Word) : Nat := bits w 7 4
def fmtC (w : Word) : Nat := bits w 11 8
def fmtSat (w : Word) : Bool := bits w 12 12 == 1
def fmtNanm (w : Word) : Bool := bits w 13 13 == 1
/-- R208. -/
def pathOf (w : Word) : Option MxPath :=
  match fmtA w, fmtB w, fmtC w with
  | 5, 5, 4 => some .bf16
  | 4, 4, 4 => some .fp32
  | 0, 0, 2 => some .int8
  | 14, b, 4 => if 8 ≤ b ∧ b ≤ 14 then some (.bq (b - 6)) else none
  | _, _, _ => none
/-- R206: only a compute core has a slice. -/
def mxIssuer (s : State) (k : State → Eff) : Eff :=
  if isTeller s.cur.core ∨ unitOf s.cur.core = 8 then .trap s 0x04 0 else k s
def myBank (s : State) : MxBank := mxBank s (clusterOf s.cur.core) (myCore s).bank
def execMxfmt (d b : Reg) (s : State) : Out :=
  .next (runI 2 [b] [d] s (fun s => mxIssuer s (fun s =>
    let w := rd s b
    if bits w 63 14 ≠ 0 ∨ (pathOf w).isNone then .trap s 0x03 w
    else
      let old := (myBank s).fmt
      .done (wr (modBank s (clusterOf s.cur.core) (myCore s).bank (fun x => { x with fmt := w })) d old))))
def execMxthr (d b : Reg) (s : State) : Out :=
  .next (runI 2 [b] [d] s (fun s => mxIssuer s (fun s =>
    let w := rd s b
    if bits w 63 48 ≠ 0 then .trap s 0x03 w
    else
      let old := (myBank s).thr
      .done (wr (modBank s (clusterOf s.cur.core) (myCore s).bank (fun x => { x with thr := w })) d old))))

/-! ## Operands (R209) -/

/-- R209: bytes of one element of A, and of 32 consecutive elements of a column of B. -/
def aBytes : MxPath → Nat
  | .bf16 => 2
  | .fp32 => 4
  | _ => 1
def bRun : MxPath → Nat
  | .bf16 => 64
  | .fp32 => 128
  | .int8 => 32
  | .bq m => 4 * m
def isBq : MxPath → Bool
  | .bq _ => true
  | _ => false
/-- The words of a product's descriptor. -/
def mxA (d : List Word) : Nat := bits (d.getD 0 0) 15 0
def mxW (d : List Word) : Nat := bits (d.getD 0 0) 31 16
def mxC (d : List Word) : Nat := bits (d.getD 0 0) 47 32
def mxM (d : List Word) : Nat := bits (d.getD 1 0) 15 0
def mxN (d : List Word) : Nat := bits (d.getD 1 0) 31 16
def mxK (d : List Word) : Nat := bits (d.getD 1 0) 47 32
def mxZi (d : List Word) : Bool := bits (d.getD 2 0) 0 0 == 1
def mxBsrc (d : List Word) : Bool := bits (d.getD 2 0) 1 1 == 1
def spanA (p : MxPath) (m k : Nat) : Nat := m * k * aBytes p + (if isBq p then 4 * m * (k / 32) else 0)
def spanB (p : MxPath) (n k : Nat) : Nat := n * (k / 32) * bRun p + (if isBq p then 4 * n * (k / 32) else 0)
/-- R217: B of `mxms`. -/
def spanBs (p : MxPath) : Nat := 16 * bRun p + (if isBq p then 128 else 0)
/-- The first word of some that has a reserved bit. -/
def firstBad (l : List (Bool × Word)) : List (Bool × Nat × Word) := l.map (fun e => (e.1, 0x03, e.2))
/-- R213: steps 2 to 4; `top` is the first reserved bit of D2, `sparse` for `mxms`. -/
def productChecks (p : MxPath) (d : List Word) (top : Nat) (sparse : Bool) : List (Bool × Nat × Word) :=
  let d0 := d.getD 0 0
  let d1 := d.getD 1 0
  let d2 := d.getD 2 0
  let d3 := d.getD 3 0
  firstBad [(bits d0 63 48 != 0, d0),
    (bits d1 63 48 != 0 || mxM d % 32 != 0 || mxN d % 32 != 0 || mxK d % 32 != 0, d1),
    (bits d2 63 top != 0, d2), (!mxBsrc d && d3 != 0, d3), (mxBsrc d && mxW d != 0, d0)]
  ++ [(mxA d % 128 != 0 || mxW d % 128 != 0 || mxC d % 256 != 0, 0x02, d0), (d3.toNat % 8 != 0, 0x02, d3),
    (decide (49152 < mxA d + spanA p (mxM d) (mxK d))
      || (!mxBsrc d && decide (49152 < mxW d + (if sparse then spanBs p else spanB p (mxN d) (mxK d))))
      || decide (32768 < mxC d + 4 * mxM d * mxN d), 0x03, d0)]

/-! ## Pushes (R210) -/

/-- R210: the waits and the push; `parts` are the participants' units. -/
def mxPush (s : State) (kind : MxKind) (a : Reg) (desc : List Word) (parts bars : List Nat) (gang : Bool)
    (mask : List Lane) : Eff :=
  let cl := clusterOf s.cur.core
  fenced s true .cl (fun s =>
    if 32 ≤ (cluster s cl).mxq.length then retry s .mxRoom
    else
      let bank := (myCore s).bank
      let b := mxBank s cl bank
      let id := mxId bank b.seq
      let job : MxJob :=
        { kind := kind, id := id, bank := bank, parts := parts, fmt := b.fmt, thr := b.thr, desc := desc, bars := bars
          mask := mask, started := false, pause := none, told := false, cancel := false, strip := 0, knext := 0
          row := 0, acc := [], got := [], rem := none }
      let s := modCluster s cl (fun x => { x with mxq := x.mxq ++ [job] })
      let s := setRec s cl false bank ⟨b.seq, false, gang, false, parts.map newSub, false⟩
      let s := modBank s cl bank (fun x => { x with seq := (b.seq + 1) % 65536 })
      .done (wr s a (BitVec.ofNat 64 id)))
def myPath (s : State) : MxPath := (pathOf (myBank s).fmt).getD .bf16
def execMxm (a b : Reg) (s : State) : Out :=
  .next (runI 2 (regRun b 4) [a] s (fun s => mxIssuer s (fun s =>
    let d := descOf s b 4
    checks s (productChecks (myPath s) d 2 false)
      (fun s => mxPush s .mxm a d [unitOf s.cur.core] [] false []))))
/-- R217. -/
def execMxms (a b : Reg) (c : VReg) (s : State) : Out :=
  .next (runI 3 (regRun b 4) [a] s (fun s => mxIssuer s (fun s =>
    let d := descOf s b 4
    let p := myPath s
    checks s
      ([(mxBsrc d, 0x03, d.getD 2 0), (mxN d != 32 || mxK d != 32, 0x03, d.getD 1 0),
        (!(p == .int8 || isBq p), 0x03, (myBank s).fmt)] ++ productChecks p d 2 true)
      (fun s => mxPush s .mxms a d [unitOf s.cur.core] [] false (vrd s c).toList))))
/-- R218: participant `p`'s role code. -/
def gangCode (d4 : Word) (p : Nat) : Nat := 2 ^ 14 + bits d4 (4 * p + 3) (4 * p)
/-- R218: the status at which the resolution of an entry stops; `acc` the units of the participants before it. -/
def gangStop (s : State) (e : Word) (acc : List Nat) : Option Nat :=
  if !entV e then some 2
  else match entCore e with
    | none => some 4
    | some c =>
      if isTeller c ∨ unitOf c = 8 ∨ clusterOf c ≠ clusterOf s.cur.core ∨ acc.contains (unitOf c) then some 4 else none
/-- R218: `n` roles of a gang from `p` up, in turn: a refused read traps, the first role that fails gives the refusal, and with all of
them `k` has the participants' units. -/
def gangParts (a : Reg) (d4 : Word) (k : State → List Nat → Eff) : Nat → Nat → List Nat → State → Eff
  | 0, _, acc, s => k s acc
  | n + 1, p, acc, s =>
    let stop (s : State) (st : Nat) : Eff := .done (wr s a (BitVec.ofNat 64 (2 ^ 63 + st)))
    withRole s (gangCode d4 p) fun s r => match r with
      | .none => stop s 2
      | .refused pa => .trap (noteRefusal s (me s).launch false .poison) 0x05 (BitVec.ofNat 64 pa)
      | .entry e => match gangStop s e acc with
        | some st => stop s st
        | none => gangParts a d4 k n (p + 1) (acc ++ [((entCore e).map unitOf).getD 0]) s
/-- R73, R218, R347: the reads of a gang's binding entries leave once their channels serve. -/
def gangRead (s : State) (a : Reg) (d4 : Word) (n : Nat) (k : State → List Nat → Eff) : Eff :=
  let pas := (List.range n).filterMap (fun p => rolePa s (me s) (gangCode d4 p))
  if pas.any (chanBusy s) then retry s (.chan pas) else gangParts a d4 k n 0 [] s
def gangSize (d : List Word) : Nat := bits (d.getD 2 0) 4 2 + 1
/-- R218: fields of D4 for p ≥ P are zero. -/
def gangRest (d : List Word) : Bool :=
  (List.range 8).any (fun p => decide (gangSize d ≤ p)
    && (bits (d.getD 4 0) (4 * p + 3) (4 * p) != 0 || bits (d.getD 4 0) (32 + 4 * p + 3) (32 + 4 * p) != 0))
def execMxg (a b : Reg) (s : State) : Out :=
  .next (runI 2 (regRun b 5) [a] s (fun s => mxIssuer s (fun s =>
    let d := descOf s b 5
    let n := gangSize d
    let l := productChecks (myPath s) d 5 false
    checks s (l.take 3 ++ [(n == 1, 0x03, d.getD 2 0)] ++ (l.drop 3).take 2 ++ [(gangRest d, 0x03, d.getD 4 0)]
        ++ l.drop 5) (fun s =>
      gangRead s a (d.getD 4 0) n fun s parts =>
        let bars := (List.range n).map (fun p => bits (d.getD 4 0) (32 + 4 * p + 3) (32 + 4 * p))
        mxPush s .mxg a d parts bars true []))))

/-! ### Drains and clears (R221, R222) -/

def drOff (d : List Word) : Nat := bits (d.getD 0 0) 15 0
def drRows (d : List Word) : Nat := bits (d.getD 0 0) 31 16
def drCols (d : List Word) : Nat := bits (d.getD 0 0) 47 32
def drFmt (d : List Word) : Nat := bits (d.getD 2 0) 3 0
/-- Bytes of an output element. -/
def outBytes : Nat → Nat
  | 0x4 => 4
  | 0x2 => 4
  | 0x5 => 2
  | _ => 1
def drStride (d : List Word) : Nat :=
  let x := bits (d.getD 2 0) 31 16
  if x = 0 then drCols d * outBytes (drFmt d) else x
def drFmtOk (cf of : Nat) : Bool :=
  if cf = 4 then of == 0x4 || of == 0x5 || of == 0xE else of == 0x2 || of == 0x0
def drSpan (d : List Word) : Nat :=
  if drRows d = 0 then 0
  else if drFmt d = 0xE then drRows d * drStride d + 4 * (drRows d * (drCols d / 32))
  else (drRows d - 1) * drStride d + drCols d
        * outBytes (drFmt d)
def execMxdrn (a b : Reg) (s : State) : Out :=
  .next (runI 2 (regRun b 4) [a] s (fun s => mxIssuer s (fun s =>
    let d := descOf s b 4
    let d0 := d.getD 0 0
    let d1 := d.getD 1 0
    let d2 := d.getD 2 0
    checks s
      [(!mNames d1 || !(clustersOf s (me s).launch).contains (mCluster d1), 0x03, d1), (mSpaceNum d1 == 0, 0x04, d1),
       (bits d0 63 48 != 0 || drRows d % 32 != 0 || drCols d % 32 != 0, 0x03, d0),
       (bits d2 15 5 != 0 || bits d2 63 32 != 0 || !drFmtOk (fmtC (myBank s).fmt) (drFmt d), 0x03, d2),
       (drOff d % 4 != 0, 0x02, d0), (mOff d1 % 8 != 0, 0x02, d1), (bits d2 31 16 % 8 != 0, 0x02, d2),
       (decide (32768 < drOff d + 4 * drRows d * drCols d), 0x03, d0),
       (decide (bufSize (mSpace d1) < mOff d1 + drSpan d), 0x03, d1)]
      (fun s => mxPush s .mxdrn a d [unitOf s.cur.core] [] false []))))
def execMxz (a b : Reg) (s : State) : Out :=
  .next (runI 2 [b] [a] s (fun s => mxIssuer s (fun s =>
    let w := rd s b
    checks s
      [(bits w 63 32 != 0 || bits w 31 16 == 0, 0x03, w), (bits w 15 0 % 256 != 0 || bits w 31 16 % 256 != 0, 0x02, w),
       (decide (32768 < bits w 15 0 + bits w 31 16), 0x03, w)]
      (fun s => mxPush s .mxz a [w] [unitOf s.cur.core] [] false []))))

/-! ## The K-step (R129, R215) -/

/-- A row of A or a column of B in one step: the elements (integers, or values), and the scale word of a block. -/
structure MxRun where
  ints : List Int
  vals : List Val
  sc   : Nat
  deriving DecidableEq, Repr
/-- R114: a BF16 element, subnormals flushed. -/
def flushBf16 (x : Nat) : Val :=
  match decodeF bf16 x with
  | .fin n m e => if m < 128 then .fin n 0 e else .fin n m e
  | v => v
/-- 32 consecutive elements of `size` bytes. -/
def elems (size n : Nat) (l : List Byte) : List Nat := (List.range n).map (fun i => leNat ((l.drop (size * i)).take size))
def aRun (p : MxPath) (l : List Byte) (sc : Nat) : MxRun :=
  match p with
  | .bf16 => ⟨[], (elems 2 32 l).map flushBf16, 0⟩
  | .fp32 => ⟨[], (elems 4 32 l).map (decodeF fp32), 0⟩
  | _ => ⟨(elems 1 32 l).map (fun x => (BitVec.ofNat 8 x).toInt), [], sc⟩
/-- `n` packed elements of a column of B. -/
def bElems (p : MxPath) (n : Nat) (l : List Byte) (sc : Nat) : MxRun :=
  match p with
  | .bf16 => ⟨[], (elems 2 n l).map flushBf16, 0⟩
  | .fp32 => ⟨[], (elems 4 n l).map (decodeF fp32), 0⟩
  | .int8 => ⟨(elems 1 n l).map (fun x => (BitVec.ofNat 8 x).toInt), [], 0⟩
  | .bq m => ⟨(List.range n).map (bqField m (leNat l)), [], sc⟩
/-- R217: kept elements at the set bits of a mask, zero elsewhere. -/
def spread (m : Lane) (l : List Int) : List Int :=
  (List.range 32).map (fun k =>
    if m.getLsbD k then l.getD ((List.range k).filter (fun j => m.getLsbD j)).length 0 else 0)
/-- SAT, NAN of one element's step. -/
structure MxEv where
  sat : Nat
  nan : Nat
  deriving DecidableEq, Repr
/-- R129: the new C element. -/
def kStep (p : MxPath) (sat nanm : Bool) (a b : MxRun) (c : Lane) : Lane × MxEv :=
  let dot : Int := (a.ints.zip b.ints).foldl (fun x e => x + e.1 * e.2) 0
  match p with
  | .int8 =>
    let (y, k) := clampInt 32 false (c.toInt + dot)
    (BitVec.ofInt 32 y, ⟨if k then 1 else 0, 0⟩)
  | _ =>
    let (t, n1) : Nat × Nat :=
      if isBq p then
        let mb := match p with
          | .bq m => m
          | _ => 8
        if scaleE a.sc = 0xFF ∨ scaleE b.sc = 0xFF then (nanBits fp32, 0)
        else if scaleE a.sc = 0 ∨ scaleE b.sc = 0 then (0, 0)
        else
          let v := ofScaled (dot * (65536 + scaleS a.sc : Nat) * (65536 + scaleS b.sc : Nat))
            ((scaleE a.sc : Int) + (scaleE b.sc : Int) - 286 - 7 - (mb - 1 : Nat))
          let (x, k) := roundF fp32 .rne sat v
          (x, if k then 1 else 0)
      else
        let ps := (a.vals.zip b.vals).map (fun e => roundF fp32 .rne sat (mulV e.1 e.2))
        let (x, k) := tree32 fp32 sat (ps.map (·.1))
        (x, k + (ps.filter (·.2)).length)
    let isN := decodeF fp32 t == .nan
    if isN ∧ nanm then (c, ⟨n1, 1⟩)
    else
      let (y, k) := addF fp32 .rne sat (c.toNat, 0) (t, 0)
      (BitVec.ofNat 32 y, ⟨n1 + k, if isN then 1 else 0⟩)

/-! ## A product job -/

def jobPath (j : MxJob) : MxPath := (pathOf j.fmt).getD .bf16
/-- R214: the columns of a strip, and its row block. -/
def groups (n : Nat) : Nat := (n + 127) / 128
def stripRow (d : List Word) (s : Nat) : Nat := 32 * (s / groups (mxN d))
def stripCol (d : List Word) (s : Nat) : Nat := 128 * (s % groups (mxN d))
def stripCols (d : List Word) (s : Nat) : Nat := min (mxN d) (stripCol d s + 128) - stripCol d s
def strips (d : List Word) : Nat := mxM d / 32 * groups (mxN d)
/-- The part of C of a strip, row by row. -/
def cAddr (d : List Word) (s i : Nat) : Nat := mxC d + 4 * ((stripRow d s + i) * mxN d + stripCol d s)
def readAcc (s : State) (c : Nat) (d : List Word) (st : Nat) : List Lane :=
  (List.range 32).flatMap (fun i =>
    (elems 4 (stripCols d st) (mgets (core s c).bufC (cAddr d st i) (4 * stripCols d st))).map (BitVec.ofNat 32))
def writeAcc (s : State) (c : Nat) (d : List Word) (st : Nat) (l : List Lane) : State :=
  let n := stripCols d st
  (List.range 32).foldl (fun s i =>
    bufWrite s c .c (cAddr d st i) (((l.drop (n * i)).take n).flatMap (fun x => leBytes 4 x.toNat))) s
/-- The M × N region of C cleared (ZI). -/
def clearC (s : State) (c : Nat) (d : List Word) : State :=
  bufWrite s c .c (mxC d) (List.replicate (4 * mxM d * mxN d) 0)
/-- R209: where the strip's panel and its scale words stand, from B_BASE. -/
def panelAt (p : MxPath) (d : List Word) (st ks : Nat) : Nat := (ks * mxN d + stripCol d st) * bRun p
def panelScaleAt (p : MxPath) (d : List Word) (st ks : Nat) : Nat :=
  mxN d * (mxK d / 32) * bRun p + 4 * (ks * mxN d + stripCol d st)
/-- The offsets of the 8-byte words of a panel in space G: mantissas or elements, then scale words. -/
def panelWords (p : MxPath) (d : List Word) (st ks : Nat) : List Nat :=
  let n := stripCols d st
  (List.range (n * bRun p / 8)).map (fun i => panelAt p d st ks + 8 * i)
    ++ (if isBq p then (List.range (n / 2)).map (fun i => panelScaleAt p d st ks + 8 * i) else [])
/-- The bytes of the panel: columns, then scale words. -/
def panelBytes (s : State) (cl : Nat) (j : MxJob) (st ks : Nat) : List Byte × List Byte :=
  let p := jobPath j
  let n := stripCols j.desc st
  if mxBsrc j.desc then
    let k := n * bRun p / 8
    ((j.got.take k).flatMap (fun x => leBytes 8 x.toNat), (j.got.drop k).flatMap (fun x => leBytes 8 x.toNat))
  else
    let w := (core s (coreAt cl (j.parts.headD 0))).bufW
    if j.kind = .mxms then (mgets w (mxW j.desc) (16 * bRun p), mgets w (mxW j.desc + 16 * bRun p) 128)
    else (mgets w (mxW j.desc + panelAt p j.desc st ks) (n * bRun p),
      mgets w (mxW j.desc + panelScaleAt p j.desc st ks) (4 * n))
/-- Column `q` of the panel. -/
def panelCol (j : MxJob) (pb : List Byte × List Byte) (q : Nat) : MxRun :=
  let p := jobPath j
  let sc := leNat ((pb.2.drop (4 * q)).take 4)
  if j.kind = .mxms then
    let r := bElems p 16 ((pb.1.drop (q * (bRun p / 2))).take (bRun p / 2)) sc
    { r with ints := spread (j.mask.getD q 0) r.ints }
  else bElems p 32 ((pb.1.drop (q * bRun p)).take (bRun p)) sc
/-- Row `i` of A in step `ks`. -/
def rowA (s : State) (c : Nat) (j : MxJob) (i ks : Nat) : MxRun :=
  let p := jobPath j
  let d := j.desc
  let m := (core s c).bufA
  aRun p (mgets m (mxA d + (i * mxK d + 32 * ks) * aBytes p) (32 * aBytes p))
    (if isBq p then leNat (mgets m (mxA d + mxM d * mxK d + 4 * (i * (mxK d / 32) + ks)) 4) else 0)
/-- One K-step of one participant: its accumulators and the counts. -/
def stepAcc (s : State) (c : Nat) (j : MxJob) (cols : List MxRun) (acc : List Lane) : List Lane × MxEv :=
  let n := cols.length
  let rows := (List.range 32).map (fun i => rowA s c j (stripRow j.desc j.strip + i) j.knext)
  let l := rows.zipIdx.flatMap (fun r => cols.zipIdx.map (fun q =>
    kStep (jobPath j) (fmtSat j.fmt) (fmtNanm j.fmt) r.1 q.1 (acc.getD (n * r.2 + q.2) 0)))
  (l.map (·.1), ⟨(l.map (fun e => e.2.sat)).sum, (l.map (fun e => e.2.nan)).sum⟩)

/-! ### Ends of a job -/

def mxPut (s : State) (cl : Nat) (j : MxJob) : State :=
  modCluster s cl (fun x => { x with mxq := x.mxq.map (fun e => if e.id = j.id then j else e) })
/-- R210, R219, R279: the job is final: it leaves the queue, and a gang makes its arrivals. -/
def mxFinal (s : State) (cl : Nat) (j : MxJob) : State :=
  let s := modCluster s cl (fun x => { x with mxq := x.mxq.filter (fun e => e.id != j.id) })
  let s := modRec s cl j.id (fun r => { r with final := true, subs := r.subs.map (fun x => { x with ended := true }) })
  j.bars.foldl (fun s b => post s (.arrive ⟨cl, b, true, 0, 0, none⟩)) s
def recOf (s : State) (cl id : Nat) : JobRec :=
  match jobRef s cl (BitVec.ofNat 64 id) with
  | .job _ _ r => r
  | _ => ⟨0, true, false, false, [], false⟩
/-- The sub-records that still run, changed. -/
def modSubs (s : State) (cl id : Nat) (f : Nat → SubRec → SubRec) : State :=
  modRec s cl id (fun r => { r with subs := r.subs.mapIdx (fun i x => if x.ended then x else f i x) })
/-- R214: accumulators written to C, of the participants that still run. -/
def flushAcc (s : State) (cl : Nat) (j : MxJob) : State :=
  if j.acc = [] then s
  else
    let r := recOf s cl j.id
    (j.parts.zipIdx).foldl (fun s e =>
      if ((r.subs[e.2]?).map (·.ended)).getD true then s
      else writeAcc s (coreAt cl e.1) j.desc j.strip (j.acc.getD e.2 [])) s
/-- A job ends with a code for the sub-records that still run. -/
def mxEnd (s : State) (cl : Nat) (j : MxJob) (code : Nat) (fval : Word) : State :=
  mxFinal (modSubs s cl j.id (fun _ x => { x with code := code, fval := fval, ended := true })) cl j
/-- A product that is done. -/
def productDone (s : State) (cl : Nat) (j : MxJob) : State :=
  mxFinal (modSubs s cl j.id (fun _ x =>
    { x with code := 0, knext := mxK j.desc / 32, strip := strips j.desc, ended := true })) cl j
def cap16 (n : Nat) : Nat := min n 0xFFFF
/-- R215: a counter at its threshold; 0 sets none. -/
def overThr (thr : Word) (x : SubRec) : Bool :=
  let hit (n t : Nat) := t != 0 && decide (t ≤ n)
  hit x.sat (bits thr 15 0) || hit x.nan (bits thr 31 16) || hit x.bso (bits thr 47 32)

/-! ### The steps of a product (R214, R219) -/

/-- The first lane whose mask is malformed (R217). -/
def badMask (l : List Lane) : Option Nat := l.findIdx? (fun m => !goodMask m)
/-- R214: the first start. -/
def productStart (s : State) (cl : Nat) (j : MxJob) : State :=
  let d := j.desc
  let s := modRec s cl j.id (fun r => { r with began := true })
  match if j.kind = .mxms then badMask j.mask else none with
  | some n => mxEnd s cl j 9 (BitVec.ofNat 64 (n * 2 ^ 32 + (j.mask.getD n 0).toNat))
  | none =>
    let s := if mxZi d then j.parts.foldl (fun s u => clearC s (coreAt cl u) d) s else s
    if mxM d = 0 ∨ mxN d = 0 ∨ mxK d = 0 then productDone s cl j else mxPut s cl { j with started := true }
/-- R214: the strip's accumulators are read once. -/
def loadAcc (s : State) (cl : Nat) (j : MxJob) : MxJob :=
  if j.acc = [] then { j with acc := j.parts.map (fun u => readAcc s (coreAt cl u) j.desc j.strip) } else j
/-- R214: the end of K-step `knext`: counters, thresholds, the end of the strip. -/
def endKStep (s : State) (cl : Nat) (j : MxJob) : State :=
  let ks := j.knext + 1
  let s := modSubs s cl j.id (fun _ x => { x with knext := ks, strip := j.strip })
  -- participants whose counter reached its threshold stop here
  let r := recOf s cl j.id
  let s := (j.parts.zipIdx).foldl (fun s e =>
    match r.subs[e.2]? with
    | some x => if !x.ended ∧ overThr j.thr x then writeAcc s (coreAt cl e.1) j.desc j.strip (j.acc.getD e.2 []) else s
    | none => s) s
  let s := modSubs s cl j.id (fun _ x => if overThr j.thr x then { x with code := 8, ended := true } else x)
  let j := { j with knext := ks, got := [] }
  if (recOf s cl j.id).subs.all (·.ended) then mxFinal s cl j
  else if j.cancel then mxEnd (flushAcc s cl j) cl j 1 0
  else if ks < mxK j.desc / 32 then mxPut s cl j
  else
    let s := flushAcc s cl j
    let st := j.strip + 1
    if st = strips j.desc then productDone s cl j
    else mxPut (modSubs s cl j.id (fun _ x => { x with knext := 0, strip := st })) cl
      { j with strip := st, knext := 0, acc := [] }
/-- R214: the arithmetic of a K-step, its panel at hand. -/
def doKStep (s : State) (cl : Nat) (j : MxJob) : State :=
  let pb := panelBytes s cl j j.strip j.knext
  let cols := (List.range (stripCols j.desc j.strip)).map (panelCol j pb)
  let res := (j.parts.zipIdx).map (fun e => stepAcc s (coreAt cl e.1) j cols (j.acc.getD e.2 []))
  let s := modSubs s cl j.id (fun i x =>
    match res[i]? with
    | some (_, e) => { x with sat := cap16 (x.sat + e.sat), nan := cap16 (x.nan + e.nan) }
    | none => x)
  endKStep s cl { j with acc := res.map (·.1) }
/-- R214: `pause`. -/
def mxPause (s : State) (cl : Nat) (j : MxJob) (code : Nat) (va : Word) : State :=
  let s := flushAcc s cl j
  let s := modSubs s cl j.id (fun _ x => { x with code := code, knext := j.knext, strip := j.strip, fval := va })
  if j.cancel then mxEnd s cl j 1 0
  else mxPut s cl { j with pause := some (code, va), told := false, acc := [], got := [], rem := none }
def matrixTag (cl slice : Nat) : Nat := 2 ^ 27 + 8 * cl + slice
/-- R214, R353: a B word without a translation pauses the job, one that its TAU refuses ends it with status 2. One step of a
product: its start, one word of a panel in space G, or a K-step. -/
def productStep (s : State) (cl : Nat) (j : MxJob) : Out :=
  if !j.started then .next (productStart s cl j)
  else
    let j := loadAcc s cl j
    let ws := panelWords (jobPath j) j.desc j.strip j.knext
    if mxBsrc j.desc ∧ j.got.length < ws.length then
      let va := j.desc.getD 3 0 + BitVec.ofNat 64 (ws.getD j.got.length 0)
      match engRead s cl (cluster s cl).launch va j.rem (matrixTag cl (j.parts.headD 0)) with
      | .got s x => .next (mxPut s cl { j with got := j.got ++ [x], rem := none })
      | .fail s code refused =>
        .next (if refused then mxEnd (flushAcc s cl j) cl j code va else mxPause s cl j code va)
      | .wait s =>
        .next (if j.rem = some none then s else if j.cancel then mxEnd (flushAcc s cl j) cl j 1 0 else mxPut s cl j)
      | .asked s => .next (mxPut s cl { j with rem := some none })
    else .next (doKStep s cl j)
/-- R210: the job may run: it is not paused, and no earlier job of the queue needs a slice of it. -/
def mxRuns (q : List MxJob) (id : Nat) : Option MxJob :=
  match q.find? (fun j => j.id == id) with
  | none => none
  | some j =>
    if j.pause.isSome ∨ (q.takeWhile (fun e => e.id != id)).any (fun e => e.parts.any (fun p => j.parts.contains p))
    then none else some j
/-- R227, R228, R312: a core that the job needs is stopped, a participant or the bank core; the job holds at a boundary. -/
def mxHeld (s : State) (cl : Nat) (j : MxJob) : Bool :=
  (List.range 8).any (fun u =>
    let x := core s (coreAt cl u)
    x.stopped && (j.parts.contains u || (x.launch.isSome && x.bank == j.bank)))
def mxStep (s : State) (cl id : Nat) (kinds : List MxKind) (k : State → MxJob → Out) : Out :=
  match mxRuns (cluster s cl).mxq id with
  | some j => if kinds.contains j.kind ∧ !mxHeld s cl j then k s j else .next s
  | none => .next s
def execMxmJob (s : State) : Out :=
  match s.ev with
  | .mxmJob cl id => mxStep s cl id [.mxm] (fun s j => productStep s cl j)
  | _ => .next s
def execMxmsJob (s : State) : Out :=
  match s.ev with
  | .mxmsJob cl id => mxStep s cl id [.mxms] (fun s j => productStep s cl j)
  | _ => .next s
def execMxgJob (s : State) : Out :=
  match s.ev with
  | .mxgJob cl id => mxStep s cl id [.mxg] (fun s j => productStep s cl j)
  | _ => .next s

/-! ### A drain (R221) -/

/-- R76: a write of an engine through space M, by way of the forwarding entries. -/
def engMWrite (s : State) (i : Ident) (sp : Space) (off : Nat) (l : List Byte) : Nat → Nat → Option State
  | 0, _ => none
  | n + 1, c => match arriveAt s c i (3 - n) with
    | .accept => some (bufWrite s c sp off l)
    | .forward d => engMWrite s i sp off l n d
    | .refuse => none
/-- R114: a BF16 value that the unit writes, subnormals flushed after rounding. -/
def outBf16 (sat : Bool) (x : Nat) : Nat × Bool :=
  let (b, c) := roundF bf16 .rne sat (decodeF fp32 x)
  (if b % 2 ^ 15 < 128 then b / 2 ^ 15 * 2 ^ 15 else b, c)
/-- R113: an FP32 element as a unit writes it: a NaN is canonical. -/
def outFp32 (x : Nat) : Nat := if decodeF fp32 x = .nan then nanBits fp32 else x
/-- A row converted: its bytes, its scale words (BQ8), and the events. -/
def drainRow (of : Nat) (sat : Bool) (xs : List Nat) : List Byte × List Byte × Events :=
  match of with
  | 0x5 =>
    let l := xs.map (outBf16 sat)
    (l.flatMap (fun e => leBytes 2 e.1), [], ⟨(l.filter (·.2)).length, 0, 0⟩)
  | 0xE =>
    let blocks := (List.range (xs.length / 32)).map (fun b => ((xs.drop (32 * b)).take 32).map (decodeF fp32))
    let l := blocks.map (fun b =>
      let (w, o) := vscaleOf b 8
      let (qs, e) := bqQuantise b 8 w
      let qs := qs.getD (List.replicate 32 0)
      let w := if b.any isNan then 0xFF0000 else w
      (qs, w, Events.plus e ⟨0, 0, if o then 1 else 0⟩))
    (l.flatMap (fun e => e.1.map (fun q => BitVec.ofInt 8 q)), l.flatMap (fun e => leBytes 4 e.2.1),
      l.foldl (fun a e => a.plus e.2.2) Events.none)
  | 0x0 =>
    let l := xs.map (fun x => clampInt 8 false (BitVec.ofNat 32 x).toInt)
    (l.map (fun e => BitVec.ofInt 8 e.1), [], ⟨(l.filter (·.2)).length, 0, 0⟩)
  | 0x4 => (xs.flatMap (fun x => leBytes 4 (outFp32 x)), [], Events.none)
  | _ => (xs.flatMap (fun x => leBytes 4 x), [], Events.none)
/-- R72, R221: the WAKE at the end of a drain; its sender's unit word is that of participant 0's core (log entry 56). -/
def drainWake (s : State) (cl : Nat) (j : MxJob) (i : Ident) : State :=
  let d1 := j.desc.getD 1 0
  if bits (j.desc.getD 2 0) 4 4 = 1 then
    post s (.mailboxMessage ⟨mCore d1, i, 0, 0, 27,
      ⟨j.desc.getD 3 0, BitVec.ofNat 64 j.id, unitWord s.fab.modnum (coreAt cl (j.parts.headD 0))⟩, .nobody, 0, 0⟩)
  else s
/-- One row of a drain. -/
def drainStep (s : State) (cl : Nat) (j : MxJob) : State :=
  let d := j.desc
  let i := Ident.here ((cluster s cl).launch.getD 0xFFFF)
  let s := modRec s cl j.id (fun r => { r with began := true })
  if j.cancel then mxEnd s cl j 1 0
  else if j.row = drRows d then mxEnd (drainWake s cl j i) cl j 0 0
  else
    let c := coreAt cl (j.parts.headD 0)
    let xs := elems 4 (drCols d) (mgets (core s c).bufC (drOff d + 4 * (j.row * drCols d)) (4 * drCols d))
    let (bs, sw, e) := drainRow (drFmt d) (fmtSat j.fmt) xs
    let d1 := d.getD 1 0
    let to_ := mCore d1
    let s1 := engMWrite s i (mSpace d1) (mOff d1 + j.row * drStride d) bs 4 to_
    let s2 := s1.bind (fun s => if sw = [] then some s
      else engMWrite s i (mSpace d1) (mOff d1 + drRows d * drStride d + 4 * (j.row * (drCols d / 32))) sw 4 to_)
    match s2 with
    | none => mxEnd s cl j 5 0
    | some s =>
      let s := modSubs s cl j.id (fun _ x =>
        { x with sat := cap16 (x.sat + e.sat), nan := cap16 (x.nan + e.nan), bso := cap16 (x.bso + e.bso) })
      if (recOf s cl j.id).subs.any (overThr j.thr) then mxEnd s cl j 8 0
      else mxPut s cl { j with started := true, row := j.row + 1 }
def execMxdrnJob (s : State) : Out :=
  match s.ev with
  | .mxdrnJob cl id => mxStep s cl id [.mxdrn] (fun s j => .next (drainStep s cl j))
  | _ => .next s
/-- R222: 256 bytes of a clear. -/
def clearStep (s : State) (cl : Nat) (j : MxJob) : State :=
  let w := j.desc.getD 0 0
  let s := modRec s cl j.id (fun r => { r with began := true })
  if j.cancel then mxEnd s cl j 1 0
  else
    let s := bufWrite s (coreAt cl (j.parts.headD 0)) .c (bits w 15 0 + 256 * j.row) (List.replicate 256 0)
    if 256 * (j.row + 1) = bits w 31 16 then mxEnd s cl j 0 0
    else mxPut s cl { j with started := true, row := j.row + 1 }
def execMxzJob (s : State) : Out :=
  match s.ev with
  | .mxzJob cl id => mxStep s cl id [.mxz] (fun s j => .next (clearStep s cl j))
  | _ => .next s

/-! ## Waiting, testing, cancelling, counters (R220, R223, R224) -/

/-- What the unit answers: a value, a trap, or nothing yet. -/
inductive JobRes where
  | val (x : Word)
  | trap (code : Nat) (tval : Word)
  | wait
  deriving DecidableEq, Repr
/-- R223: a thread of the unit has the summary: the job is a gang in which the unit takes no part. -/
def readsSummary (r : JobRec) (unit : Nat) : Bool := r.gang && !(r.subs.any (fun y => y.unit == unit))
/-- R223: whether a `jwait` traps for what it reads of a final job; CODE 8 of a gang is for its participant alone. -/
def mustTell (copy : Bool) (r : JobRec) (unit : Nat) : Option SubRec :=
  let x := subOf r unit
  if (if readsSummary r unit then r.told || x.code == 8 else x.told) then none
  else if x.code = 2 ∨ (copy ∧ x.code = 3) ∨ x.code = 8 ∨ x.code = 9 then some x else none
def tellTrap : Nat → Nat
  | 2 => 0x05
  | 3 => 0x06
  | 8 => 0x08
  | _ => 0x09
def setTold (r : JobRec) (unit : Nat) : JobRec :=
  if readsSummary r unit then { r with told := true }
  else { r with subs := r.subs.map (fun x => if !r.gang || x.unit == unit then { x with told := true } else x) }
/-- R223: resumption: the code of the pause goes. -/
def mxResume (s : State) (cl : Nat) (q : MxJob) : State :=
  mxPut (modSubs s cl q.id (fun _ x => { x with code := 0, fval := 0 })) cl { q with pause := none, told := false }
/-- R223: the end of a `jwait` that met no pause of its bank core, or has resumed it; `unit` is that of the thread's home core. -/
def jwaitEnd (s : State) (id : Word) (cl unit : Nat) (copy : Bool) (bank : Nat) : State × JobRes :=
  match jobRef s cl id with
  | .job _ _ r =>
    if r.final then
      match mustTell copy r unit with
      | some x => (setRec s cl copy bank (setTold r unit), .trap (tellTrap x.code) (if x.code = 8 then id else x.fval))
      | none => (s, .val (statusWord r (subOf r unit)))
    else (s, .wait)
  | _ => (s, .val expiredWord)
/-- R223: a `jwait` by a thread of home core `home`. -/
def jwaitAt (s : State) (home : Nat) (id : Word) (cl : Nat) (copy : Bool) (bank : Nat) : State × JobRes :=
  match if copy then none else pausedFor s cl id.toNat with
  | some q =>
    if q.bank = bankOf s home then
      if !q.told then
        (mxPut s cl { q with told := true },
          .trap (if (q.pause.map (·.1)) = some 3 then 0x06 else 0x05) ((q.pause.map (·.2)).getD 0))
      else jwaitEnd (mxResume s cl q) id cl (unitOf home) copy bank
    else jwaitEnd s id cl (unitOf home) copy bank
  | none => jwaitEnd s id cl (unitOf home) copy bank
/-- R224: a cancellation. -/
def cancelJob (s : State) (cl : Nat) (copy : Bool) (id : Nat) : State :=
  if copy then
    match (cluster s cl).cpq with
    | j :: l =>
      if j.id = id then cpPut s cl { j with cancel := true }
      else match l.find? (fun e => e.id == id) with
        | some e => cpEnd s cl e 1 0
        | none => s
    | [] => s
  else
    match (cluster s cl).mxq.find? (fun j => j.id == id) with
    | some j =>
      if j.pause.isSome ∨ !j.started ∧ !(recOf s cl id).began then mxEnd s cl j 1 0 else mxPut s cl { j with cancel := true }
    | none => s
/-- R224: a `jcanc`; `mine`: the instruction has waited for the end of the job. -/
def jcancAt (s : State) (id : Word) (cl : Nat) (copy mine : Bool) (r : JobRec) : State × JobRes :=
  if r.final then (s, .val (if mine then 0 else 1))
  else
    let s := cancelJob s cl copy id.toNat
    match jobRef s cl id with
    | .job _ _ r => if r.final then (s, .val 0) else (s, .wait)
    | _ => (s, .val 0)
/-- R220. -/
def counterWord (r : JobRec) (unit : Nat) : Word :=
  let pack (a b c : Nat) : Word := BitVec.ofNat 64 (a + 2 ^ 16 * b + 2 ^ 32 * c)
  match r.subs.find? (fun x => x.unit == unit) with
  | some x => pack x.sat x.nan x.bso
  | none => pack (cap16 (r.subs.map (·.sat)).sum) (cap16 (r.subs.map (·.nan)).sum) (cap16 (r.subs.map (·.bso)).sum)
/-- R211, R220, R223, R224: an instruction on a job id, at the units of the cluster of home core `home`; `sealw` names none. -/
def jobAt (s : State) (op : JobOp) (home : Nat) (id : Word) (mine : Bool) : State × JobRes :=
  let cl := clusterOf home
  match jobRef s cl id with
  | .bad => (s, .trap 0x07 id)
  | .expired => (s, .val (match op with
      | .wait | .test => expiredWord
      | .cancel => if mine then 0 else 1
      | .count | .sealw => 0))
  | .job copy bank r => match op with
    | .wait => jwaitAt s home id cl copy bank
    | .test => (s, .val (statusWord r (subOf r (unitOf home))))
    | .cancel => jcancAt s id cl copy mine r
    | .count | .sealw => (s, .val (if copy then 0 else counterWord r (unitOf home)))
/-- The same for the running thread. A home core on another module is asked, and its answer awaited. -/
def jobI (op : JobOp) (d b : Reg) (mine : State → Word → Bool) (cause : Word → Cause) (s : State) : State :=
  runI 2 [b] [d] s (fun s =>
    let id := rd s b
    if homeTeller (me s) then .trap s 0x07 id
    else match foreignMod (me s).home.core with
      | some m => .reply (emit (modMe s (fun t => { t with long := true })) m .adaptive (.jobReq ⟨op, ⟨foreignCore (me s).home.core, (me s).home.slot⟩, id, d,
          .away s.fab.modnum (32 * s.cur.core + s.cur.slot)⟩)) (d == 31) .dflt
      | none => match jobAt s op (me s).home.core id (mine s id) with
        | (s, .val x) =>
          if op = .count then .reply (post s (.reply s.cur (.writes [(d, x)]))) (d == 31) .dflt else .done (wr s d x)
        | (s, .trap code tval) => .trap s code tval
        | (s, .wait) => retry s (cause id))
def execJwait (d b : Reg) (s : State) : Out := .next (jobI .wait d b (fun _ _ => false) .job s)
def execJtest (d b : Reg) (s : State) : Out := .next (jobI .test d b (fun _ _ => false) .job s)
def execJcanc (d b : Reg) (s : State) : Out :=
  .next (jobI .cancel d b (fun s id => (me s).wait == .again (.jobEnd id)) .jobEnd s)
def execMxcnt (d b : Reg) (s : State) : Out := .next (jobI .count d b (fun _ _ => false) .job s)

/-- R299: a `sealw` of a thread that has left its home: a seal is asked for, and it waits while the escrow has an entry of the slot. -/
def sealwAt (s : State) (home : TRef) : State × JobRes :=
  if escrowedBy s home then (wantSeal s, .wait) else (s, .val (s.sl.sealed.setWidth 64))
/-- R211, R299: a request of a thread on another module, whose home core is here; one that waits stays in `jobReqs`. -/
def jobReqGo (s : State) (m : JobReq) (mine : Bool) : State :=
  match if m.op = .sealw then sealwAt s m.home else jobAt s m.op m.home.core m.id mine with
  | (s, .val x) => answer s m.rto (.writes [(m.dst, x)])
  | (s, .trap code tval) => answer s m.rto (.trap code tval [])
  | (s, .wait) => { s with jobReqs := s.jobReqs ++ [m] }
/-- The requests that waited and would get on are served again. -/
def jobReqMoves (s : State) (m : JobReq) : Bool :=
  let t := { Thread.reset 0 with home := m.home }
  match m.op with
  | .cancel => jobEnded s t m.id
  | .sealw => !escrowedBy s m.home
  | _ => jobMoves s t m.id
def serveJobReqs (s : State) : State :=
  let l := s.jobReqs.filter (fun m => !outNamed s m.home.core && jobReqMoves s m)
  if l = [] then s
  else l.foldl (fun s m => jobReqGo s m true) { s with jobReqs := s.jobReqs.filter (fun m => !l.contains m) }

end Sys2Proof.Machine
end

