-- ==== Sys2Proof/Machine/Processor.lean ====
section
/-!
DEFINITION. The command processors (R358): their CSRs and modes, exceptions and interrupts, physical memory protection and Sv48
translation as the RISC-V privileged architecture 1.12 that R358 names gives them (log entry 61), and SYS messages. Their
instructions stand in `Riscv.lean`.
-/
namespace Sys2Proof.Machine
open Sys2Proof

/-! ## CSRs -/

/-- The machine-mode and supervisor-mode CSRs of the architecture, and those of user mode that its counters and floating point have. -/
def stdCsr (n : Nat) : Bool :=
  let in_ (a b : Nat) : Bool := decide (a ≤ n) && decide (n ≤ b)
  in_ 0x001 0x003 || in_ 0xC00 0xC1F
    || n == 0x100 || in_ 0x104 0x106 || n == 0x10A || in_ 0x140 0x144 || n == 0x180
    || in_ 0xF11 0xF15 || in_ 0x300 0x306 || n == 0x30A || in_ 0x340 0x344 || n == 0x747
    || (in_ 0x3A0 0x3A3 && n % 2 == 0) || in_ 0x3B0 0x3BF
    || n == 0xB00 || in_ 0xB02 0xB1F || n == 0x320 || in_ 0x323 0x33F
/-- R358: the vendor CSRs. -/
def vendorCsr (n : Nat) : Bool := (decide (0x7C0 ≤ n) && decide (n ≤ 0x7C2)) || n == 0xFC0 || n == 0xFC1
/-- R358: mhpmcounter3 to 6 are present; the higher ones, and the events of these, read as zero. -/
def zeroCounter (n : Nat) : Bool :=
  (decide (0xB07 ≤ n) && decide (n ≤ 0xB1F)) || (decide (0xC07 ≤ n) && decide (n ≤ 0xC1F)) || (decide (0x327 ≤ n) && decide (n ≤ 0x33F))
def cpCsr (c : CpSt) (n : Nat) : Word := (fget c.csrs n).getD 0
def setCpCsr (c : CpSt) (n : Nat) (v : Word) : CpSt := { c with csrs := fset c.csrs n v }
/-- mstatus.FS: the floating-point unit is off. -/
def fpOff (c : CpSt) : Bool := bits (cpCsr c 0x300) 14 13 == 0
/-- The counter that a user-mode number shows is open to the mode. -/
def counterOpen (c : CpSt) (k : Nat) : Bool :=
  c.mode == 3 || ((cpCsr c 0x306).getLsbD k && (c.mode == 1 || (cpCsr c 0x106).getLsbD k))
/-- R358: an access to a CSR is legal: it is there, the mode is no lower than the CSR's, a read-only one is not written, and what the
CSR belongs to is open: the floating-point unit, a counter, or satp under TVM. -/
def csrLegal (c : CpSt) (n : Nat) (writes : Bool) : Bool :=
  (stdCsr n || vendorCsr n) && decide (n / 256 % 4 ≤ c.mode) && !(writes && n / 1024 == 3)
    && !(decide (n ≤ 3) && fpOff c) && !(n / 256 == 12 && !counterOpen c (n % 32))
    && !(n == 0x180 && c.mode == 1 && (cpCsr c 0x300).getLsbD 20)
/-- The bits of mstatus that software writes. -/
def mstatusMask : Word := 0x7E79AA
/-- The part of mstatus that sstatus shows, and the part of it that software writes there. -/
def sstatusMask : Word := 0x80000003000DE762
def sstatusWrites : Word := 0x0C6122
/-- mstatus as it reads: UXL and SXL are 2, SD says that FS is dirty. -/
def mstatusOf (c : CpSt) : Word :=
  let st := cpCsr c 0x300
  st ||| 0xA00000000 ||| (if bits st 14 13 = 3 then 0x8000000000000000 else 0)
/-- mip: what software has set, and the external interrupt of R345. -/
def mipOf (c : CpSt) : Word := cpCsr c 0x344 ||| (if c.irq then 0x800 else 0)
/-- A counter stands still. -/
def inhibited (c : CpSt) (k : Nat) : Bool := (cpCsr c 0x320).getLsbD k
/-- mcycle: it counts the cycles of the module; while it counts, what it is ahead of them is kept. -/
def mcycleOf (s : State) (c : CpSt) : Word := cpCsr c 0xB00 + (if inhibited c 0 then 0 else BitVec.ofNat 64 s.cycle)
def setMcycle (s : State) (c : CpSt) (v : Word) : CpSt :=
  setCpCsr c 0xB00 (v - (if inhibited c 0 then 0 else BitVec.ofNat 64 s.cycle))
/-- What the CSRs of command processor `n` read as. -/
def csrRead (s : State) (n csr : Nat) : Word :=
  let c := cpSt s n
  match csr with
  | 0x7C0 => c.dxbell
  | 0x7C2 => c.dxsysd
  | 0xFC0 => BitVec.ofNat 64 n
  | 0xFC1 => BitVec.ofNat 64 s.fw.slot
  | 0xF14 => BitVec.ofNat 64 n
  | 0x001 => BitVec.ofNat 64 (bits (cpCsr c 3) 4 0)
  | 0x002 => BitVec.ofNat 64 (bits (cpCsr c 3) 7 5)
  | 0x300 => mstatusOf c
  | 0x301 => 0x800000000014112D
  | 0x344 => mipOf c
  | 0x100 => mstatusOf c &&& sstatusMask
  | 0x104 => cpCsr c 0x304 &&& cpCsr c 0x303
  | 0x144 => mipOf c &&& cpCsr c 0x303
  | 0xB00 | 0xC00 => mcycleOf s c
  | 0xC01 => BitVec.ofNat 64 s.cycle
  | k => if k = 0x7C1 ∨ zeroCounter k then 0 else if 0xC02 ≤ k ∧ k ≤ 0xC06 then cpCsr c (k - 0x100) else cpCsr c k
/-- A bit field of a word replaced. -/
def mergeBits (old mask v : Word) : Word := (old &&& ~~~mask) ||| (v &&& mask)
/-- mstatus written; the mode 2 is none that MPP takes. -/
def setMstatus (c : CpSt) (mask v : Word) : CpSt :=
  let old := cpCsr c 0x300
  let v := if bits v 12 11 = 2 then mergeBits v 0x1800 old else v
  setCpCsr c 0x300 (mergeBits old mask v)
/-- The floating-point state has changed. -/
def dirtyFp (c : CpSt) : CpSt := setCpCsr c 0x300 (cpCsr c 0x300 ||| 0x6000)
def setFcsr (c : CpSt) (mask v : Word) : CpSt := dirtyFp (setCpCsr c 3 (mergeBits (cpCsr c 3) mask v))
/-- PMP: an entry is locked; the address of an entry also where the next one takes it as its lower end. -/
def pmpCfg (c : CpSt) (i : Nat) : Nat := bits (cpCsr c (0x3A0 + i / 8 * 2)) (8 * (i % 8) + 7) (8 * (i % 8))
def pmpLocked (c : CpSt) (i : Nat) : Bool := (pmpCfg c i).testBit 7
def pmpAddrLocked (c : CpSt) (i : Nat) : Bool :=
  pmpLocked c i || (decide (i < 15) && pmpLocked c (i + 1) && pmpCfg c (i + 1) / 8 % 4 == 1)
/-- A configuration that a PMP entry takes: the bits that are none are zero, and W needs R. -/
def pmpLegal (v : Nat) : Nat := let v := v % 32 + v / 128 % 2 * 128; if v % 4 = 2 then v - 2 else v
def setPmpCfg (c : CpSt) (csr : Nat) (v : Word) : CpSt :=
  let first := (csr - 0x3A0) / 2 * 8
  setCpCsr c csr (BitVec.ofNat 64 ((List.range 8).foldl (fun a k =>
    a + 256 ^ k * (if pmpLocked c (first + k) then pmpCfg c (first + k) else pmpLegal (bits v (8 * k + 7) (8 * k)))) 0))
/-- A standard CSR written: the fields that the architecture lets stand, stand. -/
def stdCsrWrite (s : State) (c : CpSt) (csr : Nat) (v : Word) : CpSt :=
  match csr with
  | 0x001 => setFcsr c 0x1F v
  | 0x002 => setFcsr c 0xE0 (v <<< 5)
  | 0x003 => setFcsr c 0xFF v
  | 0x100 => setMstatus c sstatusWrites v
  | 0x300 => setMstatus c mstatusMask v
  | 0x104 => setCpCsr c 0x304 (mergeBits (cpCsr c 0x304) (cpCsr c 0x303) v)
  | 0x144 => setCpCsr c 0x344 (mergeBits (cpCsr c 0x344) (cpCsr c 0x303 &&& 2) v)
  | 0x180 => if bits v 63 60 = 0 ∨ bits v 63 60 = 9 then setCpCsr c csr v else c
  | 0x302 => setCpCsr c csr (v &&& 0xB3FF)
  | 0x303 => setCpCsr c csr (v &&& 0x222)
  | 0x304 => setCpCsr c csr (v &&& 0xAAA)
  | 0x344 => setCpCsr c csr (v &&& 0x222)
  | 0x105 | 0x305 => setCpCsr c csr (v &&& ~~~(2 : Word))
  | 0x141 | 0x341 => setCpCsr c csr (v &&& ~~~(1 : Word))
  | 0x106 | 0x306 => setCpCsr c csr (v &&& 0xFFFFFFFF)
  | 0x10A | 0x30A => setCpCsr c csr (v &&& 1)
  | 0x320 =>
    let c' := setCpCsr c csr (v &&& 0x7D)
    setMcycle s c' (mcycleOf s c)
  | 0x3A0 | 0x3A2 => setPmpCfg c csr v
  | 0xB00 => setMcycle s c v
  | 0x301 | 0x747 => c
  | k =>
    if zeroCounter k then c
    else if 0x3B0 ≤ k ∧ k ≤ 0x3BF then (if pmpAddrLocked c (k - 0x3B0) then c else setCpCsr c k (v &&& 0x3FFFFFFFFFFFFF))
    else setCpCsr c k v

/-! ## Exceptions and interrupts -/

/-- A trap is taken in supervisor mode, or in machine mode: the mode and the interrupt-enable bit before it are kept, and the pc goes
to the vector; an interrupt to its own place there where the vector says so. -/
def cpEnter (c : CpSt) (toS irq : Bool) (cause : Nat) (tval : Word) : CpSt :=
  let st := cpCsr c 0x300
  let at_ (tvec : Word) : Word :=
    (tvec &&& ~~~(3 : Word)) + (if irq && tvec.getLsbD 0 then BitVec.ofNat 64 (4 * cause) else 0)
  let code : Word := BitVec.ofNat 64 cause + (if irq then 0x8000000000000000 else 0)
  if toS then
    let st := mergeBits st 0x122 ((if st.getLsbD 1 then 0x20 else 0) + (if c.mode = 1 then 0x100 else 0))
    let c' := setCpCsr (setCpCsr (setCpCsr (setCpCsr c 0x300 st) 0x142 code) 0x141 c.pc) 0x143 tval
    { c' with mode := 1, pc := at_ (cpCsr c 0x105) }
  else
    let st := mergeBits st 0x1888 ((if st.getLsbD 3 then 0x80 else 0) + BitVec.ofNat 64 (2 ^ 11 * c.mode))
    let c' := setCpCsr (setCpCsr (setCpCsr (setCpCsr c 0x300 st) 0x342 code) 0x341 c.pc) 0x343 tval
    { c' with mode := 3, pc := at_ (cpCsr c 0x305) }
/-- An exception of a command processor: it goes to supervisor mode where medeleg says so, else to machine mode. -/
def cpTrap (s : State) (n cause : Nat) (tval : Word) : State :=
  modCp s n (fun c => cpEnter c (decide (c.mode < 3) && (cpCsr c 0x302).getLsbD cause) false cause tval)
/-- R358: the illegal-instruction exception. -/
def cpIllegal (s : State) (n : Nat) : State := cpTrap s n 2 0
/-- The interrupt that a command processor takes now, by its priority: whether in supervisor mode, and its number. -/
def cpIrq (c : CpSt) : Option (Bool × Nat) :=
  let p := mipOf c &&& cpCsr c 0x304
  let st := cpCsr c 0x300
  let inM := c.mode != 3 || st.getLsbD 3
  let inS := c.mode == 0 || (c.mode == 1 && st.getLsbD 1)
  let first (w : Word) : Option Nat := [11, 3, 7, 9, 1, 5].find? (fun k => w.getLsbD k)
  match (if inM then first (p &&& ~~~(cpCsr c 0x303)) else none) with
  | some k => some (false, k)
  | none => (if inS then first (p &&& cpCsr c 0x303) else none).map (fun k => (true, k))
/-- R320, R345, R358: a command processor takes what is pending: the non-maskable interrupt of the watchdog, with the cause 0 and the
machine-mode vector, or an interrupt. The external one is no longer pending then (log entry 61). -/
def cpTakes (c : CpSt) : Option CpSt :=
  if c.nmi then some { cpEnter c false false 0 0 with nmi := false, wfi := false }
  else (cpIrq c).map (fun e => { cpEnter c e.1 true e.2 0 with irq := c.irq && e.2 != 11, wfi := false })
/-- mret and sret: the mode and the interrupt-enable bit from before the trap are back. -/
def cpMret (c : CpSt) : CpSt :=
  let st := cpCsr c 0x300
  let mpp := bits st 12 11
  let st' := mergeBits st 0x1888 (0x80 + (if st.getLsbD 7 then 8 else 0))
  { setCpCsr c 0x300 (if mpp = 3 then st' else st' &&& ~~~(0x20000 : Word)) with mode := mpp, pc := cpCsr c 0x341 }
def cpSret (c : CpSt) : CpSt :=
  let st := cpCsr c 0x300
  let st' := mergeBits st 0x122 (0x20 + (if st.getLsbD 5 then 2 else 0))
  { setCpCsr c 0x300 (st' &&& ~~~(0x20000 : Word)) with mode := if st.getLsbD 8 then 1 else 0, pc := cpCsr c 0x141 }

/-! ## SYS messages -/

/-- R43, R358: a SYS message to the unit, of this module or another, that the value names; payload word 1 and the sender's word are
free values. -/
def sendSys (s : State) (n : Nat) (v : Word) : State :=
  let w := BitVec.ofNat 64 (bits v 15 0 * 2 ^ 32 + bits v 31 16 * 2 ^ 16)
  match entCore w with
  | none => s
  | some c =>
    let m : Mail := ⟨(cpSt s n).dxsysd, Config.freeWord s.freeN, Config.freeWord (s.freeN + 1)⟩
    let s := { s with freeN := s.freeN + 2 }
    let msg : ClassMsg := ⟨c, m, none, []⟩
    if entMod w = 0x3FF ∨ entMod w = s.fab.modnum then post s (.sysMessage msg)
    else if reachable s (entMod w) then emit s (entMod w) .ordered (.sys msg) else s
def execDxsys (s : State) : Out :=
  match s.ev with
  | .dxsys n v => .next (sendSys s n v)
  | _ => .next s
/-- R358: a CSR of command processor `n` is written. -/
def cpCsrPut (s : State) (n csr : Nat) (v : Word) : State :=
  match csr with
  | 0x7C0 => modCp s n (fun c => { c with dxbell := c.dxbell &&& ~~~v })
  | 0x7C1 => sendSys s n v
  | 0x7C2 => modCp s n (fun c => { c with dxsysd := v })
  | k => modCp s n (fun c => stdCsrWrite s c k v)
/-- R358: an access to a CSR by command processor `n`: a read, or a write of a value. -/
def csrAccess (s : State) (n csr : Nat) (value : Option Word) : State :=
  if !csrLegal (cpSt s n) csr value.isSome then cpIllegal s n
  else match value with
    | none => s
    | some v => cpCsrPut s n csr v

/-! ## Firmware images -/

/-- R359: the device address of a firmware slot. -/
def slotBase (n : Nat) : Nat := 0x240000000 + 0x1000000 * n
/-- R360: the bytes that the checks of an image read: the header, and the body that it names. -/
def fwSpan (s : State) (n : Nat) : Nat :=
  256 + (if memNat s (slotBase n + 8) 8 ≤ 0x1000000 - 256 then memNat s (slotBase n + 8) 8 else 0)

/-! ## Memory accesses -/

/-- R358: device memory in the address space of a command processor. -/
def cpMemBase : Nat := 0x1000000000
/-- R320, R358, R359: the command processors start at the body of the running image (log entry 61); their doorbells stand. -/
def startCps (s : State) : State :=
  if s.fw.running then
    (List.range 8).foldl (fun s n => modCp s n (fun c =>
      { CpSt.reset with dxbell := c.dxbell, pc := BitVec.ofNat 64 (cpMemBase + slotBase s.fw.slot + 256) })) s
  else s
/-- R358: the register BAR there. -/
def cpBarBase : Nat := 0x0F00000000
/-- R381: the fabric registers there. -/
def fabBase : Nat := 0x0E00000000

/-- The kinds of access, with the exceptions of a misaligned one, of one without access, and of one that the page table refuses. -/
inductive CpAcc where
  | fetch | load | store
  deriving DecidableEq, Repr
def CpAcc.badAlign : CpAcc → Nat
  | .fetch => 0
  | .load => 4
  | .store => 6
def CpAcc.noAccess : CpAcc → Nat
  | .fetch => 1
  | .load => 5
  | .store => 7
def CpAcc.noPage : CpAcc → Nat
  | .fetch => 12
  | .load => 13
  | .store => 15
/-- How a part of an instruction ends: done with a value; not now, so that the instruction begins anew; or in an exception. -/
inductive CpRes (α : Type) where
  | ok (s : State) (a : α)
  | wait (s : State)
  | trap (s : State) (cause : Nat) (tval : Word)
/-- One part after another. -/
def cpThen {α β : Type} (r : CpRes α) (k : State → α → CpRes β) : CpRes β :=
  match r with
  | .ok s a => k s a
  | .wait s => .wait s
  | .trap s c t => .trap s c t

/-- The range of a PMP entry: OFF, TOR, NA4 or NAPOT. -/
def pmpRange (c : CpSt) (i : Nat) : Nat × Nat :=
  let addr (k : Nat) : Nat := 4 * (cpCsr c (0x3B0 + k)).toNat
  let ones := ((List.range 62).takeWhile (fun k => (cpCsr c (0x3B0 + i)).getLsbD k)).length
  match pmpCfg c i / 8 % 4 with
  | 0 => (0, 0)
  | 1 => (if i = 0 then 0 else addr (i - 1), addr i)
  | 2 => (addr i, addr i + 4)
  | _ => let size := 2 ^ (ones + 3); (addr i / size * size, addr i / size * size + size)
/-- The PMP lets an access of `n` bytes pass in a mode: the lowest entry that holds one of its bytes decides. -/
def pmpPasses (c : CpSt) (a : CpAcc) (mode pa n : Nat) : Bool :=
  let hits (i : Nat) : Bool := decide (pa < (pmpRange c i).2) && decide ((pmpRange c i).1 < pa + n)
  match (List.range 16).find? hits with
  | none => mode == 3
  | some i =>
    let cfg := pmpCfg c i
    let whole := decide ((pmpRange c i).1 ≤ pa) && decide (pa + n ≤ (pmpRange c i).2)
    whole && ((mode == 3 && !cfg.testBit 7) || cfg.testBit (match a with
      | .fetch => 2
      | .load => 0
      | .store => 1))
/-- R329, R344, R347, R349, R350, R353: device memory as a command processor reads it; a channel out of service makes it wait, and a
read at which a rollback starts is not served. -/
def cpDevRead (s : State) (pa n : Nat) : CpRes Word :=
  if cpWaits s pa n then .wait s
  else if cpStops s pa n then .wait (cpLook s pa n id)
  else let t := cpLook s pa n id; .ok t (BitVec.ofNat 64 (memNat t pa n))
/-- A page-table entry, where it stands in device memory; it is read as in supervisor mode. -/
def pteRead (s : State) (n a : Nat) (acc : CpAcc) (va : Word) : CpRes Word :=
  if cpMemBase ≤ a ∧ paValid (a - cpMemBase) ∧ pmpPasses (cpSt s n) .load 1 a 8 then cpDevRead s (a - cpMemBase) 8
  else .trap s acc.noAccess va
/-- Sv48: a leaf lets an access pass; `user`: the mode is user mode. -/
def pteLeafOk (st : Word) (user : Bool) (acc : CpAcc) (e : Word) : Bool :=
  (match acc with
    | .fetch => e.getLsbD 3
    | .load => e.getLsbD 1 || (st.getLsbD 19 && e.getLsbD 3)
    | .store => e.getLsbD 2 && e.getLsbD 7)
    && e.getLsbD 6 && (if e.getLsbD 4 then user || (st.getLsbD 18 && acc != .fetch) else !user)
/-- Sv48: the walk from a table at `base` and a level. -/
def sv48 (n : Nat) (va : Word) (user : Bool) (acc : CpAcc) : Nat → Nat → State → CpRes Nat
  | 0, _, s => .trap s acc.noPage va
  | l + 1, base, s =>
    cpThen (pteRead s n (base + 8 * (va.toNat / 2 ^ (12 + 9 * l) % 512)) acc va) fun s e =>
      let ppn := bits e 53 10
      if !e.getLsbD 0 || (e.getLsbD 2 && !e.getLsbD 1) || bits e 63 54 != 0 then .trap s acc.noPage va
      else if !e.getLsbD 1 && !e.getLsbD 3 then sv48 n va user acc l (4096 * ppn) s
      else if !pteLeafOk (cpCsr (cpSt s n) 0x300) user acc e || ppn % 2 ^ (9 * l) != 0 then .trap s acc.noPage va
      else .ok s (4096 * ppn + va.toNat % 2 ^ (12 + 9 * l))
/-- The mode of an access: of a load or store under MPRV that of MPP. -/
def accMode (c : CpSt) (acc : CpAcc) : Nat :=
  let st := cpCsr c 0x300
  if c.mode = 3 ∧ acc ≠ .fetch ∧ st.getLsbD 17 then bits st 12 11 else c.mode
/-- R358: the address of an access of `bytes` bytes by command processor `n`, translated and checked. -/
def cpAddress (s : State) (n : Nat) (va : Word) (bytes : Nat) (acc : CpAcc) : CpRes Nat :=
  let c := cpSt s n
  let mode := accMode c acc
  let satp := cpCsr c 0x180
  let tr : CpRes Nat := if mode = 3 ∨ bits satp 63 60 ≠ 9 then .ok s va.toNat
    else if va.toNat / 2 ^ 47 ≠ 0 ∧ va.toNat / 2 ^ 47 ≠ 2 ^ 17 - 1 then .trap s acc.noPage va
    else sv48 n va (mode == 0) acc 4 (4096 * bits satp 43 0) s
  cpThen tr fun s a => if pmpPasses (cpSt s n) acc mode a bytes then .ok s a else .trap s acc.noAccess va

end Sys2Proof.Machine
end

