-- ==== Sys2Proof/Machine/Stacks.lean ====
section
/-!
DEFINITION. The memory stacks (R343 to R353): lanes and margins, retraining and repair, refresh, the scrubber,
uncorrectable errors, self-refresh, and the physical allocation table.
-/
namespace Sys2Proof.Machine
open Sys2Proof

/-! ## Lanes (R345 to R347) -/

/-- R345: lanes 74 and 75 of a channel are spares, idle at first. -/
def laneSt (x : StackSt) (ch lane : Nat) : LaneSt :=
  (fget x.lanes (128 * ch + lane)).getD ⟨0, 0, if lane < 74 then 0 else 3⟩
def setLane (x : StackSt) (ch lane : Nat) (l : LaneSt) : StackSt := { x with lanes := fset x.lanes (128 * ch + lane) l }
/-- R345: the reading of a lane. -/
def laneWord (l : LaneSt) : Word := BitVec.ofNat 64 (l.hm % 256 + 2 ^ 8 * (l.vm % 256) + 2 ^ 16 * (l.state % 4))
/-- R347: the lower idle spare. -/
def idleSpare (x : StackSt) (ch : Nat) : Option Nat := [74, 75].find? (fun n => (laneSt x ch n).state == 3)
/-- R345, R347: a lane moves to a spare; a channel without one keeps its lanes. HSTAT notes a channel that has used both. -/
def useSpare (x : StackSt) (ch lane : Nat) : StackSt :=
  match idleSpare x ch with
  | none => x
  | some n =>
    let x := setLane (setLane x ch lane { laneSt x ch lane with state := 2 }) ch n { laneSt x ch n with state := 1 }
    if (idleSpare x ch).isNone then { x with used := x.used ||| 2 ^ ch } else x
/-- R347: a command starts; a repair with no idle spare ends at once with result 1. -/
def startCmd (x : StackSt) : StackSt :=
  match x.cmd with
  | none => { x with deferd := false }
  | some (op, ch, _) =>
    if op = 2 ∧ (idleSpare x ch).isNone then { x with busy := false, cmd := none, deferd := false, result := 1 }
    else { x with deferd := false, result := 0 }
/-- R346, R347: a command; while a seal is in prepare or save it is deferred until the commit. BUSY is 0 until a deferred command
starts, so that a later write takes its place. -/
def stackCmd (s : State) (st op ch lane : Nat) : State :=
  if (stackSt s st).busy ∧ !(stackSt s st).deferd then s
  else
    let wait := s.sl.phase != .open_
    modStack s st (fun x =>
      let x := { x with busy := true, cmd := some (op, ch, lane), deferd := wait }
      if wait then { x with result := 2 } else startCmd x)
def execRetrainChannel (s : State) : Out :=
  match s.ev with
  | .retrainChannel st ch => .next (stackCmd s st 1 ch 0)
  | _ => .next s
/-- R346: lanes 0 to 73 are named. -/
def execRepairLane (s : State) : Out :=
  match s.ev with
  | .repairLane st ch lane => .next (if lane < 74 then stackCmd s st 2 ch lane else s)
  | _ => .next s
/-- R347: the end of the sequence under way. -/
def cmdDone (x : StackSt) : StackSt :=
  if x.busy ∧ !x.deferd then
    match x.cmd with
    | some (op, ch, lane) =>
      let x := if op = 2 then useSpare x ch lane else x
      { x with busy := false, cmd := none, result := 0 }
    | none => { x with busy := false }
  else x
def execHcmdComplete (s : State) : Out :=
  match s.ev with
  | .hcmdComplete st => .next (modStack s st cmdDone)
  | _ => .next s
/-- Every command processor takes an interrupt. -/
def interruptCps (s : State) : State := (List.range 8).foldl (fun s n => modCp s n (fun c => { c with irq := true })) s
/-- R345, R346: a new margin reading; a 0-to-1 change of a HINT bit interrupts the command processors. -/
def margin (s : State) (st ch lane hm vm : Nat) : State :=
  let x := stackSt s st
  let x := setLane x ch lane { laneSt x ch lane with hm := hm % 256, vm := vm % 256 }
  if hm % 256 < bits x.mgthr 7 0 ∨ vm % 256 < bits x.mgthr 15 8 then
    let fresh := x.hint.testBit ch = false
    let s := modStack s st (fun _ => { x with hint := x.hint ||| 2 ^ ch })
    if fresh then interruptCps s else s
  else modStack s st (fun _ => x)
/-- R345: the monitors of a stack are due: they update every 2^20 cycles. -/
def marginDue (s : State) (st : Nat) : Bool := decide ((stackSt s st).mgAt + 2 ^ 20 ≤ s.cycle)
/-- R345: the next monitor of those that are due; after the last the stack is done with this update. -/
def marginNext (x : StackSt) : StackSt :=
  if x.mgNext + 1 = 32 * 76 then { x with mgNext := 0, mgAt := x.mgAt + 2 ^ 20 } else { x with mgNext := x.mgNext + 1 }
/-- R345: a lane's monitor updates, one lane after the other. -/
def execMarginUpdate (s : State) : Out :=
  match s.ev with
  | .marginUpdate st ch lane hm vm =>
    .next (if lane < 76 ∧ 76 * ch + lane = (stackSt s st).mgNext ∧ marginDue s st
      then modStack (margin s st ch lane hm vm) st marginNext else s)
  | _ => .next s
/-- R345: a module with a retired channel has failed: no launch is admitted. -/
def moduleFailed (s : State) : Bool := s.stks.any (fun e => e.2.retired)
/-- R345: every lane is trained at power-up. -/
def train (s : State) : State :=
  { s with stks := trainedStacks s.freeN, freeN := s.freeN + 1, toHost := s.toHost ++ trainReport (trainedStacks s.freeN) }

/-! ## Refresh, scrubbing, errors, self-refresh (R348 to R350) -/

def execRefresh (s : State) : Out :=
  match s.ev with
  | .refresh p row => .next (modPch s p (fun x => { x with rows := fset x.rows row s.cycle }))
  | _ => .next s
/-- R348: the sectors of a pseudo-channel. -/
def pchSectors : Nat := 23437500
/-- R131, R132, R348: the physical address of sector `k` of a pseudo-channel, in rising order. -/
def sectorAddr (p k : Nat) : Nat :=
  let f := k / 4096
  let q := k % 4096 / 8
  2 ^ 26 * f + 256 * (512 * q + ((p ^^^ q) ^^^ (f % 512))) + 32 * (k % 8)
/-- R348: a visit is due once every SCPER cycles; 0 stops the scrub. -/
def scrubDue (s : State) (p : Nat) : Bool :=
  let per := (stackSt s (p / 64)).scper.toNat
  per != 0 && decide ((pchSt s p).scrubAt + per ≤ s.cycle)
/-- R344, R348: what a visit finds: nothing (0), an error that it corrects (1), one that it cannot correct (2); an error of the
sector that no read has met yet, or `result`. -/
def visitFinds (s : State) (pa result : Nat) : Nat :=
  match fget s.errs (sectorOf pa) with
  | some true => 2
  | some false => max 1 result
  | none => result
/-- R344, R347 to R349: one visit of the scrubber; one due in self-refresh is skipped, and one to a channel out of service waits. -/
def scrub (s : State) (p result : Nat) : State :=
  let x := pchSt s p
  if !scrubDue s p then s
  else if x.selfRef then modPch s p (fun x => { x with scrubAt := s.cycle })
  else
    let pa := sectorAddr p x.scrub
    if chanBusy s pa then s else
    let s := modPch s p (fun x => { x with scrub := (x.scrub + 1) % pchSectors, scrubAt := s.cycle })
    if !paValid pa then s
    else match visitFinds s pa result with
      | 0 => s
      | 1 => countEcc { s with errs := fdel s.errs (sectorOf pa) } (p / 64)
      | _ => uncorrectable s pa
def execScrubVisit (s : State) : Out :=
  match s.ev with
  | .scrubVisit p r => .next (scrub s p r)
  | _ => .next s
/-- R350: more than SRIDLE cycles since the last request: a request in the cycle of the count wins. -/
def canSelfRefresh (s : State) (p : Nat) : Bool :=
  let x := pchSt s p
  s.sridle != 0 && !x.selfRef && decide (x.lastReq + s.sridle.toNat < s.cycle)
def execSelfRefreshEntry (s : State) : Out :=
  match s.ev with
  | .selfRefreshEntry p => .next (if canSelfRefresh s p then modPch s p (fun x => { x with selfRef := true }) else s)
  | _ => .next s

/-! ## The physical allocation table (R351, R352) -/

def isIface (n : Nat) : Bool := decide (n < 8)
/-- R352: the neighbour rule for an assignment of frame `f` to interface `d`. -/
def neighbourRefuses (s : State) (f d : Nat) : Bool :=
  let n := patEnt s (f + 1)
  isIface n.owner && n.owner != d && !n.guard
/-- R352: a write of PATDATA: the table, and what PATST reports. -/
def patWrite (s : State) (f d : Nat) : State × Nat :=
  let e := patEnt s f
  if f < 176 ∨ frameCount ≤ f then (s, 2)
  else if e.owner = 15 ∧ d < 8 then
    if neighbourRefuses s f d then (s, 1)
    else
      let below := (patEnt s (f - 1)).owner
      ({ s with pat := fset s.pat f ⟨d, isIface below && below != d⟩ }, 0)
  else if e.owner < 8 ∧ d = 15 then ({ s with pat := fset s.pat f ⟨15, false⟩ }, 0)
  else (s, 2)
/-- R352: the write, and PATST. -/
def patPut (s : State) (f d : Nat) : State := { (patWrite s f d).1 with patst := (patWrite s f d).2 }
def execPatdataWrite (s : State) : Out :=
  match s.ev with
  | .patdataWrite f v => .next (patPut s f (bits v 3 0))
  | _ => .next s

end Sys2Proof.Machine
end

