-- ==== Sys2Proof/Machine/Tau.lean ====
section
/-!
DEFINITION. The floating-point and fixed-point atomics: `amof.add` at its TAU (R148), `amox.add` and its TAU (R149).
-/
namespace Sys2Proof.Machine
open Sys2Proof

/-- R148: round(old + x, FP32, RNE), saturation mode 0. -/
def execAmofRequest (s : State) : Out :=
  match s.ev with
  | .amofRequest r x dst => tauServe s r true (fun s => tauReads s r.pa (fun s => tauChanges s r.pa (fun s =>
      let old := physRead s r.pa 4
      let new := (addF fp32 .rne false (old.toNat, 0) (x.toNat, 0)).1
      answer (physWrite s r.pa 4 (BitVec.ofNat 64 new)) r.rto (.writes [(dst, old)]))))
  | _ => .next s

/-- R149: an INT64 addend; outside the range of V the limit of its sign with SF. -/
def fxFromInt (x : Word) : Fx :=
  if x.toInt < -(2 ^ 62) then fxOf (-(2 ^ 126)) true
  else if 2 ^ 62 ≤ x.toInt then fxOf (2 ^ 126 - 1) true
  else fxOf (x.toInt * 2 ^ 64) false
def amoxI (len : Nat) (a b : Reg) (sc : Scope) (op : Nat) (conv : Word → Fx) (s : State) : State :=
  runI len [b, a] [] s (fun s =>
    fenced s (sc != .dflt) sc (fun s =>
      request s (rd s b) 16 needRW op false sc (fun s r => .amoxRequest r (conv (rd s a)))))
def execAmoxAdd (a b : Reg) (xs : Option Scope) (s : State) : Out :=
  .next (amoxI (2 + optLen xs) a b (scopeIs xs) 18 (fun x => fxFromFp32 (x.toNat % 2 ^ 32)) s)
def execAmoxAddI (a b : Reg) (xs : Scope) (s : State) : Out := .next (amoxI 3 a b xs 19 fxFromInt s)
/-- R127, R149: both words of the cell in one step. -/
def execAmoxRequest (s : State) : Out :=
  match s.ev with
  | .amoxRequest r x => tauServe s r true (fun s => tauReads s r.pa (fun s => tauChanges s r.pa (fun s =>
      let old : Fx := BitVec.ofNat 128 (leNat (devBytes s r.pa 16))
      let new := fxAdd old x
      answer (physPut s r.pa (leBytes 16 new.toNat)) r.rto (.writes []))))
  | _ => .next s

end Sys2Proof.Machine
end

