-- ==== Sys2Proof/Machine/Seal.lean ====
section
/-!
DEFINITION. Seals, rollback and escrow (R282 to R299): which messages wait, the restart points (R86, R158, R186, R227,
R238, R257, R281, R292), the seal protocol, the stamp sweep, the release of escrow entries, rollback, and the
instructions.
-/
namespace Sys2Proof.Machine
open Sys2Proof

/-! ## Messages that wait -/

/-- A translation at a core that cannot go on: it misses, and its miss is outstanding or waits for a place (R181). -/
def pageWaits (s : State) (c : Nat) (l : Option Nat) (va : Word) : Bool :=
  let x := core s c
  (tlbFind x.tlb (isTeller c) l va).isNone
    && (x.misses.any (sameMiss c (va.toNat / 8192) l) || x.missQ.any (fun e => sameMiss c (va.toNat / 8192) l e.1))
/-- A change at an address waits (R287). -/
def changeWaits (s : State) (l : Option Nat) (pa : Nat) : Bool := (tauRefuses s l pa).isNone && vaultStalls s pa

/-! ### A core that stops (R308 to R312) -/

/-- The core's jobs that are not final, as participant or bank core (R228). -/
def coreJobs (s : State) (c : Nat) : Bool :=
  let cl := cluster s (clusterOf c)
  !isTeller c && (cl.mxq.any (fun j => j.parts.contains (unitOf c) || j.bank == bankOf s c)
    || cl.cpq.any (fun j => j.core == c))
/-- R185: a RECALL for a core's victim pages has not been served yet. -/
def recallBusy (s : State) (c : Nat) : Bool :=
  let x := core s c
  x.recalls && ((slotOf x 30).st != .idle || classQ x 30 != []
    || s.pending.any (fun e => match e with
      | .recallMessage m => m.dest == c
      | _ => false))
/-- R185: the cores can be bound: no RECALL has to be sent for them, and none is being served. -/
def vacant (s : State) (l : List Nat) : Bool := l.all (fun c => !(core s c).victim && !recallBusy s c)
/-- R309: a free core of the same kind, with room for the record bank that comes with the context of core `c`. -/
def freeCore (s : State) (c d : Nat) : Bool :=
  (unitOf c == 8) == (unitOf d == 8) && (core s d).launch.isNone && !s.moves.any (fun m => m.dst == d)
    && (List.range 9).all (fun u =>
      let e := coreAt (clusterOf d) u
      e == c || (core s e).launch.isNone || (core s e).bank != (core s c).bank)
    && ((cluster s (clusterOf d)).launch.isNone || (cluster s (clusterOf d)).launch == (core s c).launch)
/-- R228, R309: where a core can move now: a free core of its own cluster, else of another one. -/
def moveTo (s : State) (c : Nat) : Option Nat :=
  let near := (List.range 9).map (coreAt (clusterOf c))
  match near.find? (freeCore s c) with
  | some d => some d
  | none => if coreJobs s c then none else (List.range tellerBase).find? (freeCore s c)
/-- R86: the cycles left of a limit, and the limit of the cycles left. -/
def parkLeft (now : Nat) (t : Thread) : Thread := { t with parked := t.parked.map (fun e => (e.1.map (fun x => x - now), e.2)) }
def parkUntil (now : Nat) (t : Thread) : Thread := { t with parked := t.parked.map (fun e => (e.1.map (fun x => x + now), e.2)) }
def mapSlots (f : Thread → Thread) (x : Core) : Core := { x with slots := x.slots.map (fun e => (e.1, f e.2)) }

/-- The thread of this module that an answer goes to. -/
def toThread : ReplyTo → Option TRef
  | .thr a => some a
  | _ => none
/-- The threads whose arrivals a barrier unit holds. -/
def heldRefs (s : State) : List TRef :=
  s.clusters.flatMap (fun c => c.2.bars.flatMap (fun b => b.2.held.filterMap (fun h => h.rto.bind (fun e => toThread e.1))))
/-- The threads that wait for a search (R257, R258). -/
def searchRefs (s : State) : List TRef := s.searches.filterMap (fun g => match g.for_ with
  | .ldnn m => some m.rto
  | .stv .. => none)
/-- R249, R257: the next publication of an index waits for a search that is saved, as its launch is switched out. -/
def pubStands (s : State) (n : Nat) (x : GIndex) : Bool :=
  s.searches.all (fun g => g.index != n || standsOut s g) && match x.pubs.find? (fun p => p.seq == x.pub + 1) with
    | some p => p.done && !p.del && p.near.head?.any (fun k => (fget x.ents k).any (holdsOldest s n))
    | none => false
/-- The threads whose publication is saved with the engine. -/
def pubRefs (s : State) : List TRef := (s.grove.filter (fun e => pubStands s e.1 e.2)).flatMap (fun e => e.2.pubs.map (·.rto))
/-- The thread waits for an answer that comes before it is at rest; a request at a unit of another module is saved waiting there. -/
def awaits (t : Thread) : Bool :=
  match t.wait with
  | .reply .. => t.parked.isNone && !t.long
  | _ => false
/-- R86, R158, R186, R238, R257, R281: the threads that `p` names have their answers, but those that park, are held by a barrier
unit or wait for a search that is saved; their stores are acknowledged, the instructions that complete first have done so, the words that their
streams asked for are there. -/
def atRest (s : State) (p : TRef → Bool) (c : Nat) : Bool :=
  let x := core s c
  x.slots.all (fun e =>
    !p ⟨c, e.1⟩ || (e.2.stmOut == 0 && !x.sbuf.any (fun b => b.slot == e.1) && !finishing s ⟨c, e.1⟩
      && (!awaits e.2 || (heldRefs s ++ searchRefs s ++ pubRefs s).contains ⟨c, e.1⟩)))
    && x.streams.all (fun e => e.2.out == [] || !p ⟨c, e.2.owner⟩)
/-- R186, R227: no job that a stopped core holds awaits a word of another module. -/
def jobsRest (s : State) (cl : Nat) : Bool :=
  let x := cluster s cl
  x.mxq.all (fun j => j.rem != some none || !mxHeld s cl j) && x.cpq.all (fun j => j.rem != some none || !cpHeld s j)

/-! ### Which messages wait -/

/-- R347: the TAU that a request reaches. -/
def reqPa : Ev → Option Nat
  | .tauStore m => some m.pa
  | .tauRead r _ _ | .feRequest r _ _ _ _ | .lrqRequest r _ _ _ | .scqRequest r _ _ | .amoRequest r _ _ _ _ _
  | .amofRequest r _ _ | .amoxRequest r _ => some r.pa
  | _ => none
/-- R136, R152, R347: a chain step that waits: for a translation, for an overlapping store of its core, for its channel, or for a
place in the wait table. -/
def chainWaits (s : State) (m : ChldMsg) : Bool :=
  let va := chldVa m.v ((m.steps.drop m.k).headD 0)
  match chldTr s m va with
  | .miss => pageWaits s (chldCore s m) m.launch va
  | .pa pa => chldHeld s m pa || chanBusy s pa || ((tauRefuses s m.launch pa).isNone && !isFull s pa && !m.fail && waitFull s pa)
  | _ => false
/-- A line fill that waits: for a translation, for its channel, or, before its context leaves, for earlier accesses. -/
def fillWaits (s : State) (a : TRef) (va : Word) : Bool :=
  let t := thr s a
  let base := BitVec.ofNat 64 (va.toNat / 64 * 64)
  match if t.fw then Tr.pa base.toNat
    else trIn s (tlbFind (core s a.core).tlb (isTeller a.core) t.launch base) base needX with
  | .miss => pageWaits s a.core t.launch base
  | .remote _ _ => !moveReady s a
  | .pa pa => chanBusy s pa
  | .trap _ => false
/-- R287: an accepted `stv` or `dlv` waits for the vault. -/
def groveWaits (s : State) (i : Nat) (slot : GIndex → Option Nat) : Bool :=
  match fget s.grove i with
  | some x => (slot x).any (fun n => granulesStall s (acceptGranules s i x n))
  | none => false
/-- R347: a request waits at a Grove engine for a channel, of the header or of the entries that it reads. -/
def groveChan (s : State) (i : Nat) (l : GIndex → List Nat) : Bool :=
  (fget s.grove i).any (fun x => (headerGranules s i x ++ l x).any (fun g => chanBusy s (256 * g)))
/-- R74: the launch of a request from another module, by its domain job number; a number that no launch here has owns no
frame. -/
def hereLaunch (s : State) (l : Option Nat) : Option Nat :=
  l.map (fun d => ((s.launches.find? (fun e => e.2.djob == some d)).map (·.1)).getD 0xFFFF)
def hereReq (s : State) (r : TauReq) : TauReq := { r with launch := hereLaunch s r.launch }
/-- R158: a chain of a requester is on its way here and does not wait. -/
def chainRuns (s : State) (rto : ReplyTo) : Bool :=
  s.pending.any (fun e => match e with
    | .chldStep m => m.rto == rto && !chainWaits s m
    | _ => false)
/-- R347: a channel is out of service. -/
def chanOut (s : State) : Bool := s.stks.any (fun e => e.2.busy && !e.2.deferd)
/-- R287, R347: the command processors' work on launches that changes device memory waits: a vault is full to the mark, or a channel is
out of service (log entry 27). -/
def cpStalls (s : State) : Bool :=
  chanOut s || (s.sl.phase == .open_ && s.vaults.any (fun e => decide (3014656 ≤ e.2.length)))
/-- R158, R287, R312, R347: a packet waits at its unit: a write at its TAU, the withdrawal of a chain until the chain itself waits, the
request of a thread whose home is switched out. -/
def packetWaits (s : State) : PktBody → Bool
  | .write r _ => chanBusy s r.pa || changeWaits s (hereLaunch s r.launch) r.pa
  | .unjob rto => chainRuns s rto
  | .roles _ => cpStalls s
  | .jobReq m => outNamed s (whereIs s isAway m.home).core
  | .arrive m => outNamed s (whereIs s isAway (tagRef m.cluster)).core
  | .barw m => outNamed s (whereIs s isAway (tagRef m.cluster)).core
  | .bart a _ _ _ _ => outNamed s (whereIs s isAway a).core
  | _ => false
/-- R290: a packet sent in an interval after this one. -/
def fromLater (s : State) (p : Packet) : Bool :=
  let d := (p.ivl + 2 ^ 32 - ivl s) % 2 ^ 32
  d != 0 && decide (d < 2 ^ 31)
/-- A message in flight that would only wait: on a vault, a wait table, a miss, a channel, a guest slot, a held arrival, a SHOOT's
requests, a launch that is switched out, a core that stops, or the commit of a seal (R290). -/
def blocked (s : State) (e : Ev) : Bool :=
  (reqPa e).any (chanBusy s) || match e with
  | .tauStore m => changeWaits s m.launch m.pa
  | .feRequest r op _ _ _ =>
    (tauRefuses s r.launch r.pa).isNone
      && (if (match feWants op with
            | none => true
            | some f => isFull s r.pa == f)
          then feChanges op && vaultStalls s r.pa else waitFull s r.pa)
  | .lrqRequest r _ _ _ => (tauRefuses s r.launch r.pa).isNone && resvOf s (r.pa / 8) != [] && waitFull s r.pa
  | .scqRequest r _ _ => changeWaits s r.launch r.pa
  | .amoRequest r op uns x y _ => changeWaits s r.launch r.pa && (amoNew op uns (physRead s r.pa 8) x y).isSome
  | .amofRequest r _ _ => changeWaits s r.launch r.pa
  | .amoxRequest r _ => changeWaits s r.launch r.pa
  | .chldStep m => chainWaits s m
  | .lineFill a va => fillWaits s a va
  | .ldnnAccept m => groveChan s m.index (fun x => entryPointGranules s m.index x (m.ef == 0) m.ep.toNat (ldnnSnap x m))
  | .stvAccept m => groveWaits s m.index (fun x => if x.used < x.cap then some x.used else none)
      || groveChan s m.index (fun x => entryPointGranules s m.index x false 0 x.pub)
  | .dlvAccept m => groveWaits s m.index (fun x => (dlvEntry x m).map (·.1)) || groveChan s m.index (fun _ => [])
  | .ixverAccept m | .ixsnapAccept m => groveChan s m.index (fun _ => [])
  | .update m => (tellerSlot s m.teller).isNone
  | .reply a _ | .updateAck a | .freeMessage a => outNamed s a.core
  | .contextShipment m => (m.toHome && outNamed s (shipHome s m).core) || !m.toHome && shipAllowed s m.op && (tellerSlot s m.teller).isNone
  | .arrive m => decide (64 ≤ heldCount s m.cluster) && arrRes (bar s m.cluster m.bar) m.auto m.phase == .hold
  | .shootMessage m => m.gone.isSome && shootHeld s m
  | .packet p => fromLater s p || packetWaits s p.body
  | _ => false

/-! ## Restart points -/

/-- An instruction whose request is withdrawn: the thread stands at it again, the entry it took from `qi` is back. -/
def unissue (s : State) (a : TRef) : State :=
  match (thr s a).wait with
  | .reply _ popped pushes _ => modThr (giveBack s a popped pushes) a (fun t => { t with wait := .none, long := false })
  | _ => s
/-- A requester whose request is withdrawn; a thread of another module is told. -/
def unissueTo (s : State) : ReplyTo → State
  | .thr a => unissue s a
  | r => answer s r .back
/-- The requester is a thread that stops; for a seal, every requester, of this module or of another. -/
def stopsAt (every : Bool) (p : TRef → Bool) : ReplyTo → Bool
  | .thr a => p a
  | .away .. => every
  | .nobody => false
def waiterTo : Waiter → ReplyTo
  | .fe r .. => r.rto
  | .chain m => m.rto
/-- R158: waiting requests of the full/empty family and waiting chain steps are withdrawn. -/
def withdrawWaits (p : ReplyTo → Bool) (s : State) : State :=
  let out := s.waits.flatMap (fun e => e.2.filter (fun w => p (waiterTo w)))
  let s := { s with waits := (s.waits.map (fun e =>
    (e.1, e.2.filter (fun w => !p (waiterTo w))))).filter (fun e => e.2 != []) }
  out.foldl (fun s w => unissueTo s (waiterTo w)) s
/-- R158: a waiting `lrq` is withdrawn; a reservation held stays. -/
def withdrawResv (p : ReplyTo → Bool) (s : State) : State :=
  let out := s.resvs.flatMap (fun e => e.2.tail.filter (fun r => p r.req.rto))
  let s := { s with resvs := s.resvs.map (fun e => (e.1, e.2.take 1 ++ e.2.tail.filter (fun r => !p r.req.rto))) }
  out.foldl (fun s r => unissueTo (modAt s r.req.rto (fun t => { t with resv := none })) r.req.rto) s
/-- A message in flight that is withdrawn: a chain step or a line fill that waits (R158, R186). -/
def withdrawn (p : ReplyTo → Bool) (s : State) (e : Ev) : Bool :=
  match e with
  | .chldStep m => p m.rto && chainWaits s m
  | .lineFill a va => p (.thr a) && fillWaits s a va
  | _ => false
def withdrawMsgs (p : ReplyTo → Bool) (s : State) : State :=
  let out := s.pending.filter (withdrawn p s)
  let s := { s with pending := s.pending.filter (fun e => !withdrawn p s e) }
  out.foldl (fun s e => match e with
    | .chldStep m => unissueTo s m.rto
    | _ => s) s
/-- R158: a `stext` at the door of a full escrow stands at its instruction. -/
def withdrawDoors (p : ReplyTo → Bool) (s : State) : State :=
  let out := s.escIn.flatMap (fun e => e.2.filter (fun m => p m.rto))
  let s := { s with escIn := s.escIn.map (fun e => (e.1, e.2.filter (fun m => !p m.rto))) }
  out.foldl (fun s m => unissueTo s m.rto) s
/-- R281: a thread in `barw` stands at it again. -/
def withdrawBarw (p : ReplyTo → Bool) (s : State) : State :=
  let out := s.clusters.flatMap (fun c => c.2.bars.flatMap (fun b => b.2.waiters.filter (fun m => p m.rto)))
  let s := { s with clusters := s.clusters.map (fun c => (c.1, { c.2 with bars := c.2.bars.map (fun b =>
    (b.1, { b.2 with waiters := b.2.waiters.filter (fun m => !p m.rto) })) })) }
  out.foldl (fun s m => unissueTo s m.rto) s
/-- R186, R281: a thread that waits for a miss or in a `fence` stands at its instruction. -/
def restThread (t : Thread) : Thread :=
  match t.wait with
  | .retry (.miss _) | .retry (.before _) | .again (.miss _) | .again (.before _) => { t with wait := .none }
  | .drain _ (_ + 1) => { t with wait := .none }
  | _ => t
def restCore (p : TRef → Bool) (pm : Nat → Option Nat → Bool) (c : Nat) (x : Core) : Core :=
  { x with
    misses := x.misses.filter (fun m => !pm c m.launch), missQ := x.missQ.filter (fun e => !pm c e.1.launch)
    fills := x.fills.filter (fun f => !pm c f.2.2)
    slots := x.slots.map (fun e => (e.1, if p ⟨c, e.1⟩ then restThread e.2 else e.2)) }
/-- R227: the running products that `q` names write their accumulators to C; their operand latches empty. -/
def restMatrix (q : MxJob → Bool) (s : State) (cl : Nat) : State :=
  ((cluster s cl).mxq.filter q).foldl (fun s j =>
    mxPut (flushAcc s cl j) cl { j with acc := [], got := [], rem := if j.rem = some none then some none else none }) s
/-- R186, R227: the jobs of a cluster that `q` and `r` name stand at a boundary, their misses withdrawn. -/
def restCluster (q : MxJob → Bool) (r : CpJob → Bool) (s : State) (cl : Nat) : State :=
  modCluster (restMatrix q s cl) cl (fun x =>
    let out : List Nat := (x.mxq.filter q).map (fun j => matrixTag cl (j.parts.headD 0))
      ++ (if (x.cpq.head?).any r then [copyTag cl] else [])
    { x with
      cmiss := (x.cmiss.map (fun m => { m with who := m.who.filter (fun t => !out.contains t) })).filter (fun m => m.who != [])
      cdeny := x.cdeny.filter (fun d => !out.contains d.2) })
/-- The threads that `pm` names by core and launch, and the jobs of the clusters of `q` that are held, at their restart points; for
a seal (`every`) all of them, with the requests of other modules. -/
def toRest (every : Bool) (pm : Nat → Option Nat → Bool) (q : Nat → Bool) (s : State) : State :=
  let p (a : TRef) : Bool := pm a.core (thr s a).launch
  let w := stopsAt every p
  let s := withdrawDoors w (withdrawMsgs w (withdrawBarw w (withdrawResv w (withdrawWaits w s))))
  let s := { s with cores := s.cores.map (fun (e : Nat × Core) => (e.1, restCore p pm e.1 e.2)) }
  ((s.clusters.map (·.1)).filter q).foldl
    (fun s cl => restCluster (fun j => every || mxHeld s cl j) (fun j => every || cpHeld s j) s cl) s
/-- R289: every part of the module that can be stands at its restart point. -/
def restAll (s : State) : State := toRest true (fun _ _ => true) (fun _ => true) s
/-- R308: the parts of a core. -/
def restOf (s : State) (c : Nat) : State := toRest false (fun k _ => k == c) (fun k => !isTeller c && k == clusterOf c) s

/-- R158: an update of the threads that `p` names has no place on its teller yet. -/
def updateOut (s : State) (p : TRef → Bool) : Bool :=
  s.pending.any (fun e => match e with
    | .update m => (match m.acks with
      | .slot a => p a
      | .away .. => false)
    | _ => false)
/-- R308: every part of a stopped core is at its restart point. -/
def coreRest (s : State) (c : Nat) : Bool :=
  atRest (restOf s c) (fun _ => true) c && jobsRest s (clusterOf c) && !updateOut s (fun a => a.core == c)
/-- A pre-emption request would get on. -/
def preemptMoves (s : State) (c : Nat) : Bool :=
  s.sl.phase == .open_ && (
    if s.moves.any (fun m => m.frm == c && m.drains == []) then
      if (core s c).stopped then coreRest s c else (moveTo s c).isSome
    else true)
/-- R228: the core has a job, so that it cannot leave its cluster. -/
def streamBack (s : State) (c d : Nat) : Bool := clusterOf c != clusterOf d && coreJobs s c
/-- R185, R228, R309: the context of core `c` can be streamed to core `d`: it is at rest, no job keeps it in its cluster, no RECALL is
out for `d`, and no message-class slot is live on both. -/
def canStream (s : State) (c d : Nat) : Bool :=
  s.sl.phase == .open_ && coreRest s c && !streamBack s c d && !recallBusy s d && !cpStalls s
    && (List.range 4).all (fun k => (slotOf (core s c) (28 + k)).st == .idle || (slotOf (core s d) (28 + k)).st == .idle)
/-- The matrix unit of a cluster, as a unit that is asked to drain. -/
def matrixUnit (cl : Nat) : Nat := 2048 + cl
/-- R75: messages of a unit that have not been delivered. -/
def unitBusy (s : State) (unit : Nat) : Bool :=
  let by_ : ReplyTo → Bool
    | .thr a => a.core == unit
    | _ => false
  s.pending.any (fun e => match e with
    | .place m => by_ m.rto
    | .mailboxMessage m => by_ m.rto || (decide (2048 ≤ unit) && m.rto == .nobody)
    | .mWrite m => m.frm.any (fun a => a.core == unit)
    | .mRead m => by_ m.rto
    | _ => false)
/-- R357: the command that runs, as ADMGO found it. -/
def admWord (s : State) (n : Nat) : Word := s.adm.run.toList.getD n 0
/-- R287, R347: a change of a queue descriptor waits. -/
def descStalls (s : State) (q : Nat) : Bool := vaultStalls s (descPa q) || chanBusy s (descPa q)
/-- R285: the gate of the sweep: a pass has ended since the commit before last. -/
def sweepGate (s : State) : Bool :=
  match s.sl.commits with
  | _ :: b :: _ => decide (b < s.sl.passes)
  | _ => true
/-- A message in flight that cannot be handled yet. -/
def holds (s : State) (e : Ev) : Bool :=
  blocked s e || match e with
  | .preemption c => !preemptMoves s c
  | .contextStreamComplete c d => !canStream s c d && !streamBack s c d
  | .commit _ | .rollback .. => s.sl.phase == .saved && !sweepGate s
  | .switchOut | .moveRole => s.sl.phase != .open_ || cpStalls s
  | .switchIn => s.sl.phase != .open_ || cpStalls s || s.cores.any (fun e => recallBusy s e.1)
  | .drainAck _ unit => unitBusy s unit
  | .dbq n _ _ => descStalls s n
  | .errClear n => descStalls s n
  | .firmwareVerification => cpWaits s (slotBase s.fw.cand) (fwSpan s s.fw.cand)
  | .hostMemWrite a l _ => s.sl.phase != .open_
      || (List.range l.length).any (fun k => (hostPa (a + k)).any (fun p => vaultStalls s p || chanBusy s p))
  | .hostMemRead a n _ => (List.range n).any (fun k => (hostPa (a + k)).any (chanBusy s))
  | .createQueue | .removeQueue => descStalls s (admWord s 1).toNat
  | _ => false

/-! ### What a save holds (R292) -/

/-- The threads whose answer is saved with a unit or a message. -/
def savedRefs (s : State) : List TRef :=
  heldRefs s ++ searchRefs s
    ++ s.grove.flatMap (fun e => e.2.pubs.map (·.rto))
    ++ s.cores.flatMap (fun e => e.2.stepping.map (·.rto))
    ++ s.pending.filterMap (fun e => match e with
      | .shootMessage m => toThread m.rto
      | .arrive m => m.rto.bind (fun e => toThread e.1)
      | _ => none)
/-- R186, R309: TLBs and instruction caches are not saved; a `park` keeps the cycles left of its limit (R86). -/
def saveCore (s : State) (c : Nat) (x : Core) : Core :=
  { mapSlots (fun t => let t := { t with readyAt := 0 }; if parkHeld s c t then t else parkLeft s.cycle t) x with
    tlb := [], tlbNext := 0, icache := [], fetchQ := [], csrOld := [], qoRep := false, qiBusy := 0, qoBusy := 0, issueAt := 0
    eligAt := none }
/-- R357: the administration commands; the command processors are not sealed (R292). -/
def isAdm : Ev → Bool
  | .createQueue | .removeQueue | .setWindow | .assignFrames | .releaseFrames | .switchOut | .switchIn | .moveRole | .readMapping
  | .unknownAdminOpcode => true
  | _ => false
/-- R357: the command that runs. -/
def admEvent (s : State) : Ev :=
  match bits (admWord s 0) 7 0 with
  | 1 => .createQueue
  | 2 => .removeQueue
  | 3 => .setWindow
  | 4 => .assignFrames
  | 5 => .releaseFrames
  | 6 => if admWord s 2 = 1 then .switchIn else .switchOut
  | 7 => .moveRole
  | 8 => .readMapping
  | _ => .unknownAdminOpcode
/-- What the outside has asked for and no seal covers: accesses of the host and of firmware, images and their verification, the links,
the tables and the joins; a rollback leaves them as they stand. -/
def staysOut : Ev → Bool
  | .hostMemWrite .. | .hostMemRead .. | .dbq .. | .errClear .. | .verifyAndStart .. | .verifyAndSwap .. | .firmwareVerification | .queueSafePoint ..
  | .portBringUp .. | .linkDown .. | .rekey .. | .routingTableLoad .. | .activate | .retire | .join .. => true
  | _ => false
/-- R290, R292: what is no part of the seal: administration commands, what the outside asks for, and what waits for the commit. -/
def isOutside (s : State) (e : Ev) : Bool :=
  isAdm e || staysOut e || match e with
  | .packet p => fromLater s p
  | _ => false
/-- R292: the ready sets are saved with their waiting times, and take them up again. -/
def readyAges (now : Nat) (x : Launch) : Launch := { x with ready := x.ready.map (fun r => { r with since := now - r.since }) }
def saveWork (s : State) : Work :=
  { s.toWork with
    pending := s.pending.filter (fun e => !isOutside s e)
    launches := s.launches.map (fun e => (e.1, readyAges s.cycle e.2))
    cores := s.cores.map (fun e => (e.1, saveCore s e.1 e.2))
    clusters := s.clusters.map (fun e => (e.1, { e.2 with ctlb := [], ctlbN := 0 })) }
/-- A saved state as its threads and ready sets resume. -/
def loadWork (s : State) : State :=
  let s := { s with launches := s.launches.map (fun (e : Nat × Launch) => (e.1, readyAges s.cycle e.2)) }
  { s with cores := s.cores.map (fun (e : Nat × Core) =>
      (e.1, { mapSlots (fun t => if parkHeld s e.1 t then t else parkUntil s.cycle t) e.2 with eligAt := none })) }

/-! ### Quiet (R289: every restart point reached) -/

/-- R257: what an accepted `stv` or `dlv` still has to do: a search of an `stv`, or a publication. -/
def groveBusy (s : State) : Option Ev :=
  match s.searches.find? (fun g => match g.for_ with
    | .stv .. => true
    | .ldnn _ => false) with
  | some g => some (.candidateExpansion g.id)
  | none => (s.grove.find? (fun e => (canPublish s e.1 e.2).isSome)).map (fun e => .publish e.1)
/-- R292: a port holds no packet whose delivery a seal waits for. -/
def portQuiet (p : PortSt) : Bool :=
  p.replay.all (fun f => f.flits.all (fun x => x.pkt.cls == .control)) && p.part.all (fun x => x.1.cls == .control)
/-- R291, R292: no message is on its way but those that wait, every thread has its answer but those whose answer is saved, no store
stands in a buffer, no instruction that completes first is under way, no word of another module is awaited, no entry can move on a
queue link, and every packet to another module is delivered; R347: no channel is being retrained. -/
def quiet (s : State) : Bool :=
  s.pending.all (holds s) && (groveBusy s).isNone
    && s.cores.all (fun e => e.2.sbuf == [] && !canMove s e.1 && e.2.streams.all (fun x => x.2.out == [])
      && e.2.slots.all (fun t => (!awaits t.2 || (savedRefs s).contains ⟨e.1, t.1⟩) && !finishing s ⟨e.1, t.1⟩))
    && s.clusters.all (fun e => e.2.mxq.all (fun j => j.rem != some none) && e.2.cpq.all (fun j => j.rem != some none))
    && s.stks.all (fun e => !e.2.busy || e.2.deferd) && s.fabOut.all (fun p => p.cls == .control) && s.fab.ord == []
    && s.fab.ports.all (fun e => portQuiet e.2)

/-! ## The protocol (R289) -/

/-- A message to every other module of the domain, and the same event on this one. -/
def toDomain (s : State) (b : PktBody) (e : Ev) : State :=
  post (s.fab.caps.foldl (fun s m => emit s m.1 .control b) s) e
/-- R286, R289: the leader leaves open. -/
def execSealRequest (s : State) : Out :=
  match s.ev with
  | .sealRequest m =>
    if s.sl.phase ≠ .open_ then .next s
    else if !isLeader s then .next (emit s (leaderOf s) .control (.sealReq m))
    else .next (toDomain { s with sl := { s.sl with phase := .prepare, want := true, since := s.cycle, got := [] } }
      (.prep (ivl s)) (.prep (ivl s)))
  | _ => .next s
/-- R286: the timer, the filling of a vault or of an escrow; while it holds a seal is asked for. -/
def sealNeeded (s : State) : Bool :=
  s.vaults.any (fun e => decide (2752512 ≤ e.2.length)) || s.escrow.any (fun e => decide (3072 ≤ e.2.length))
def timerDue (s : State) : Bool :=
  s.sl.phase == .open_ && !s.sl.want
    && (sealNeeded s || (s.sl.slper != 0 && decide (s.sl.lastAt + s.sl.slper.toNat ≤ s.cycle)))
def execSealTimer (s : State) : Out :=
  match s.ev with
  | .sealTimer => .next (if timerDue s then wantSeal { s with sl := { s.sl with want := true } } else s)
  | _ => .next s
def execPrep (s : State) : Out :=
  match s.ev with
  | .prep n =>
    .next (if s.sl.phase = .open_ ∧ n = ivl s then { s with sl := { s.sl with phase := .prepare, since := s.cycle } }
      else s)
  | _ => .next s
/-- R289: in prepare, once every restart point is reached, the state is written to area n mod 2; then SAVED(n). -/
def saveGo (s : State) : State :=
  match s.sl.phase with
  | .prepare =>
    let s := restAll s
    if quiet s then
      let n := ivl s
      { s with sl := { s.sl with phase := .save, areas := fset s.sl.areas (n % 2) (n, saveWork s) } }
    else s
  | .save =>
    let s := { s with sl := { s.sl with phase := .saved } }
    if isLeader s then post s (.saved (ivl s) s.fab.modnum)
    else emit s (leaderOf s) .control (.saved (ivl s) s.fab.modnum)
  | _ => s
def execSave (s : State) : Out :=
  match s.ev with
  | .save => .next (saveGo s)
  | _ => .next s
/-- R289: the leader's decision. -/
def canDecide (s : State) : Bool :=
  isLeader s && s.sl.phase == .saved && s.sl.decided.isNone && sweepGate s
    && (s.fab.modnum :: s.fab.caps.map (·.1)).all (fun m => s.sl.got.contains m)
def decide_ (s : State) : State :=
  if canDecide s then
    toDomain { s with sl := { s.sl with decided := some (ivl s) } } (.commit (ivl s)) (.commit (ivl s))
  else s
def execSaved (s : State) : Out :=
  match s.ev with
  | .saved n m => .next (if n = ivl s then decide_ { s with sl := { s.sl with got := nins m s.sl.got } } else s)
  | _ => .next s
/-- R380: a module with no admitted launch that is alone asks to join, through the lowest module it is linked to. -/
def askJoin (s : State) : State :=
  if s.fab.joined ∨ s.launches ≠ [] ∨ s.fab.caps ≠ [] then s
  else match (s.fab.ports.filter (fun e => e.2.st == 3)).map (·.2.peer) with
    | [] => s
    | m :: l => emit s (l.foldl min m) .control (.join s.fab.modnum ownCap)
/-- R380: every link of a module into the domain is up. -/
def joinReady (s : State) (m : Nat) : Bool :=
  (s.fab.modnum :: s.fab.caps.map (·.1)).all (fun n => !meets n m || s.fab.ups.contains (n, m))
/-- R378, R380: the replies to the modules that can join, which every module of the domain hears; the leader builds new tables. -/
def answerJoins (s : State) : State :=
  let (now, later) := s.sl.joins.partition (fun e => joinReady s e.1)
  let n := s.fab.domcnt + now.length
  let caps := now.foldl (fun c e => fset c e.1 e.2) s.fab.caps
  let mods := fset caps s.fab.modnum ownCap
  let s := { s with fab := { s.fab with caps := caps, domcnt := n, want := s.fab.want || now != [] } }
  let s := now.foldl (fun s m =>
    caps.foldl (fun s e => emit s e.1 .control (.joinReply (ivl s) m.1 n mods s.fab.ups)) s) s
  { s with sl := { s.sl with joins := later } }
/-- R289: commit of seal n; deferred lane commands start (R347). -/
def commitGo (s : State) : State :=
  let n := s.sl.ivnum
  answerJoins { s with
    vaults := [], stks := s.stks.map (fun e => (e.1, if e.2.deferd then startCmd e.2 else e.2))
    sl := { s.sl with
      phase := .open_, want := false, sealed := n, ivnum := n + 1, vhw := 0, lastAt := s.cycle, got := [], decided := none
      same := 0, restart := 0, commits := s.sl.passes :: s.sl.commits.take 1 } }
def execCommit (s : State) : Out :=
  match s.ev with
  | .commit n => .next (if s.sl.phase = .saved ∧ n = ivl s then commitGo s else s)
  | _ => .next s

/-! ## The stamp sweep (R285) -/

def granuleEnd : Nat := 2 ^ 18 * frameCount
def sweepStamp (m x : Nat) : Nat := if x = (m + 1) % 4 ∨ x = (m + 2) % 4 then (m + 3) % 4 else x
/-- R285: the sweep visits one granule, or (a number past the last) every granule, which ends a pass. -/
def execStampSweep (s : State) : Out :=
  match s.ev with
  | .stampSweep g =>
    let m := ivl s
    if g < 2 ^ 18 * 144 then .next s
    else if g < granuleEnd then
      .next { s with stamps := fset s.stamps g (sweepStamp m ((fget s.stamps g).getD s.sl.stampDef)) }
    else .next (decide_ { s with
      stamps := s.stamps.map (fun e => (e.1, sweepStamp m e.2))
      sl := { s.sl with stampDef := sweepStamp m s.sl.stampDef, passEnd := s.cycle, passes := s.sl.passes + 1 } })
  | _ => .next s

/-! ## Escrow (R293, R294, R365) -/

def hostWrite (s : State) (a : Nat) (l : List Byte) : State :=
  toHost { s with hostMem := l.zipIdx.foldl (fun m e => fset m (a + e.2) e.1) s.hostMem } (.write a l)
/-- The link accepts an entry. -/
def leave (s : State) (e : EscEntry) : State :=
  if dropped s e then s
  else match e.what with
    | .stext a w d => hostWrite s a (leBytes (wbytes w) d.toNat)
    | .outMsg m l => toHost s (.message m l)
    | .irq q => toHost s (.irq q)
    | .completion a q n tag st stale ph =>
      let s := hostWrite s a (completionBytes tag st stale ph)
      { s with queues := s.queues.map (fun x => if x.1 = q then (q, { x.2 with open_ := x.2.open_.filter (· != n) }) else x) }
/-- R155, R293: the head of an escrow leaves, and the entries at the door go in. -/
def linkAccept (s : State) (die : Nat) : State :=
  match escrowOf s die with
  | e :: l =>
    if released s e then
      let s := leave { s with escrow := fset s.escrow die l } e
      escDrain die (escDoor s die).length s
    else s
  | [] => s
def execEscrowLinkAccept (s : State) : Out :=
  match s.ev with
  | .escrowLinkAccept die => .next (linkAccept s die)
  | _ => .next s

/-! ## Rollback (R295 to R298) -/

/-- R306, R345, R363 and the chapters' reset values: a full module reset, with the training of the lanes; host memory and what was sent to the host and over the links stand, and the cycles count anew. -/
def resetModule (s : State) : State :=
  train { State.reset with freeN := s.freeN, hostMem := s.hostMem, toHost := s.toHost, fabOut := s.fabOut, frOut := s.frOut }
/-- R319: the entry counters of levels 1 to 5. -/
def countLevel (w : WatchSt) (n cause : Nat) : WatchSt :=
  { w with wdlvl := n, wdcnt := fset w.wdcnt n (min 0xFF ((fget w.wdcnt n).getD 0 + 1)), wdcause := cause }
/-- R296, R349: one vault, newest record first; POISON is written as 0, and the sectors are whole. -/
def replay (s : State) (l : List VRec) : State :=
  l.foldl (fun s r =>
    let g := r.gpa / 256
    { s with
      mem := msets s.mem r.gpa r.data
      feEmpty := (List.range 32).foldl (fun f i =>
        if r.feb / 2 ^ i % 2 = 1 then f.filter (· != 32 * g + i) else nins (32 * g + i) f) s.feEmpty
      poison := s.poison.filter (fun x => x / 8 != g), errs := s.errs.filter (fun e => e.1 / 8 != g)
      stamps := fset s.stamps g r.stamp }) s
/-- An interval number is not after m. -/
def upTo (m k : Nat) : Bool := decide ((m + 2 ^ 32 - k) % 2 ^ 32 < 2 ^ 31)
/-- R293: entries tagged after m go, of an escrow and of those at its door; those of the command processor tagged m or lower stand. -/
def discardAfter (s : State) (m : Nat) : State :=
  { s with
    escrow := s.escrow.map (fun e => (e.1, e.2.filter (fun x => upTo m x.ivl)))
    escIn := s.escIn.map (fun e => (e.1, e.2.filter (fun x => x.rto == .nobody && upTo m x.entry.ivl))) }
/-- R297: the CODE of a vault record fails: an error that it cannot correct stands in a sector of the record. -/
def codeFails (s : State) : Bool :=
  s.errs.any (fun e => e.2 && decide (frameOf (32 * e.1) < 128) && (List.range 32).any (fun k => (vaultByte s (32 * e.1 + k)).isSome))
/-- R297: watchdog level 5 of this module. -/
def failModule (s : State) (cause : Nat) : State := resetModule { s with wd := countLevel s.wd 5 cause }
/-- R370, R371: the first 16 bytes of a frame, which its tag covers besides the payload. -/
def frameHead (f : FrameIn) : List Byte :=
  leBytes 4 f.linkid ++ leBytes 8 f.ctr ++ leBytes 1 f.flags ++ leBytes 1 f.cred ++ leBytes 2 f.acklo
/-- R371: the nonce of a frame, each field with its most significant byte first. -/
def frameNonce (f : FrameIn) : List Byte := (leBytes 4 f.linkid).reverse ++ (leBytes 8 f.ctr).reverse
/-- R371: a frame with its tag under a key. -/
def sign (key : Nat) (f : FrameIn) : FrameIn := { f with tag := Config.linkTag key f.linkid (frameNonce f) (frameHead f) f.flits }
/-- R371: the key of a frame, by the newest key of its direction and FLAGS[0]. -/
def keyOf (newest : Nat) (f : FrameIn) : Nat := if f.flags % 2 = newest % 2 then newest else newest - 1
/-- The messages that outlive a rollback: of the rollback itself, of the links and their keys, of the tables and of joins. -/
def outlives : PktBody → Bool
  | .trigger .. | .rollback .. | .failed _ | .join .. | .joinReply .. | .table _ | .loaded _ | .activate | .drained _ | .retire
  | .link .. | .rekeyAsk | .rekeyAck => true
  | _ => false
/-- R296: the traffic in flight between modules of the domain is discarded. -/
def dropTraffic (s : State) : State :=
  let frame (key : Nat) (f : FrameIn) : FrameIn :=
    let l := f.flits.filter (fun x => outlives x.pkt.body)
    if l = f.flits then f
    else sign (keyOf key f) { f with flits := l, flags := f.flags ||| (if l = [] then 4 else 0) }
  let port (p : PortSt) : PortSt := { p with
    replay := p.replay.map (frame p.txKey), part := p.part.filter (fun e => outlives e.1.body) }
  { s with
    fabOut := s.fabOut.filter (fun p => outlives p.body)
    fab := { s.fab with ord := [], ports := s.fab.ports.map (fun e => (e.1, port e.2)) } }
/-- R312: a launch goes on after all. -/
def keepRunning (s : State) (l : Nat) : State :=
  let guest (t : Thread) : Thread := if t.launch = some l then parkUntil s.cycle t else t
  let go (e : Nat × Core) : Nat × Core :=
    if e.2.launch = some l then (e.1, { mapSlots (parkUntil s.cycle) e.2 with stopped := false })
    else if isTeller e.1 then (e.1, mapSlots guest e.2) else e
  modLaunch { s with cores := s.cores.map go } l (fun x => { x with stage := .running })
/-- R292, R357: a switch-out or a move that the seal found under way has its command no longer, as the command processors are not
sealed: its cores go on, and a command that still runs begins anew. -/
def abandonMoves (s : State) : State :=
  let s := (s.launches.filter (fun e => e.2.stage == .stopping && !e.2.frozen)).foldl (fun s e => keepRunning s e.1) s
  let out := s.moves.filter (fun m => (core s m.frm).fwd.isNone)
  let s := { s with moves := s.moves.filter (fun m => (core s m.frm).fwd.isSome) }
  let s := { s with pending := s.pending.filter (fun e => match e with
    | .preemption _ | .contextStreamComplete .. => false
    | _ => true) }
  out.foldl (fun s m => modCore s m.frm (fun x =>
    if x.stopped then { mapSlots (parkUntil s.cycle) x with stopped := false } else x)) s
/-- R296: the rollback to seal m; R373: after a link is lost no thread issues before a table avoids it. -/
def restoreSeal (s : State) (m cause : Nat) : State :=
  let s := discardAfter s m
  let s := s.vaults.foldl (fun s e => replay s e.2) s
  let w := match fget s.sl.areas (m % 2) with
    | some (k, w) => if k = m then w else s.toWork
    | none => s.toWork
  let w := { w with pending := w.pending ++ s.pending.filter staysOut }
  let s := abandonMoves (loadWork { s with toWork := w })
  let s := if s.adm.busy then post s (admEvent s) else s
  -- R359: a verification at whose reads the rollback started begins anew
  let s := if s.fw.fwst = 1 ∧ !s.pending.contains .firmwareVerification then post s .firmwareVerification else s
  -- R365: a launch whose interface is in error stays reported
  let s : State := { s with launches := s.launches.map (fun e => (e.1, { e.2 with ifErr := e.2.ifErr || (ifSt s e.2.iface).st == .error })) }
  let rbc : BitVec 32 := if s.sl.rbc = 0xFFFFFFFF then s.sl.rbc else s.sl.rbc + 1
  let s := dropTraffic s
  toHost { s with
    vaults := [], fab := { s.fab with hold := s.fab.hold || cause == 4, want := s.fab.want || cause == 4 }
    sl := { s.sl with
      phase := .open_, want := false, ivnum := BitVec.ofNat 32 (m + 1), vhw := 0, got := [], decided := none, rbc := rbc
      rbi := BitVec.ofNat 64 (m + 2 ^ 32 * cause), same := s.sl.same + 1, restart := 0 } } (.rollbackIrq m)
/-- R289, R297: a module that has not committed m commits it first. -/
def rollbackGo (s : State) (m cause : Nat) : State :=
  let s := if s.sl.phase = .saved ∧ m = ivl s then commitGo s else s
  if codeFails s then failModule s cause else restoreSeal s m cause
def execRollback (s : State) : Out :=
  match s.ev with
  | .rollback m cause => .next (rollbackGo s m cause)
  | _ => .next s
/-- R297: level 5 instead of a rollback: no seal yet, or a third rollback to the same seal. -/
def rollbackFails (s : State) : Bool := s.sl.decided.isNone && (s.sl.sealed == 0 || decide (2 ≤ s.sl.same))
def rollbackOut (s : State) : Bool := s.pending.any (fun e => match e with
  | .rollback .. => true
  | _ => false)
/-- R297: the module that reported the trigger goes to watchdog level 5. -/
def failReporter (s : State) (cause m : Nat) : State :=
  if m = s.fab.modnum then failModule s cause else emit s m .control (.failed cause)
/-- R289, R295, R297: the leader selects the seal. A trigger during a rollback restarts it; the eighth restart fails. -/
def triggerGo (s : State) (cause reporter : Nat) : State :=
  let m := (s.sl.decided).getD s.sl.sealed.toNat
  if rollbackOut s then
    if 7 ≤ s.sl.restart then failReporter s cause reporter
    else { s with sl := { s.sl with restart := s.sl.restart + 1 } }
  else if rollbackFails s then failReporter s cause reporter
  else toDomain s (.rollback m cause) (.rollback m cause)
def execRollbackTrigger (s : State) : Out :=
  match s.ev with
  | .rollbackTrigger cause m =>
    .next (if isLeader s then triggerGo s cause m else emit s (leaderOf s) .control (.trigger cause m))
  | _ => .next s

/-! ## Instructions (R299) -/

def execSealq (d : Reg) (s : State) : Out :=
  .next (runI 2 [] [d] s (fun s => .done (wr (wantSeal s) d (s.sl.ivnum.setWidth 64))))
def execSealw (d : Reg) (s : State) : Out :=
  .next (runI 2 [] [d] s (fun s =>
    if escrowedBy s (me s).home then retry (wantSeal s) .sealw
    else match foreignMod (me s).home.core with
      | some m => .reply (emit (modMe s (fun t => { t with long := true })) m .adaptive (.jobReq ⟨.sealw,
          ⟨foreignCore (me s).home.core, (me s).home.slot⟩, 0, d, .away s.fab.modnum (awayTag s.cur)⟩)) (d == 31) .dflt
      | none => .done (wr s d (s.sl.sealed.setWidth 64))))
def execIvn (d : Reg) (s : State) : Out :=
  .next (runI 2 [] [d] s (fun s => .done (wr s d (s.sl.ivnum.setWidth 64))))
def execIvnRb (d : Reg) (s : State) : Out :=
  .next (runI 2 [] [d] s (fun s => .done (wr s d (s.sl.rbc.setWidth 64))))

end Sys2Proof.Machine
end

