-- ==== Sys2Proof/Machine/Launch.lean ====
section
/-!
DEFINITION. Launches (R56 to R69) and how they retire (R321 to R326): doorbells and records, admission and setup, the
Arbor, the end of a launch, and the SYS messages that the command processor receives (R303, R323).
-/
namespace Sys2Proof.Machine
open Sys2Proof

/-! ## The end of an administration command (R357) -/

/-- R357: a command ends: ADMST is the result times 2; word 0 of the reply. -/
def admEnd (s : State) (result : Nat) (rsp : Word) : State :=
  if s.adm.busy then { s with adm := { s.adm with busy := false, st := 2 * result, rsp := s.adm.rsp.set 0 rsp } } else s
def admDone (s : State) (result : Nat) : State := admEnd s result 0
/-- A command runs, its opcode in word 0. -/
def admRuns (s : State) (op : Nat) : Bool := s.adm.busy && bits (admWord s 0) 7 0 == op

/-! ## Completion entries (R61) -/

/-- An entry of the command processor goes into the escrow of die 0, or waits at its door while it is full. -/
def escrowSend (s : State) (e : EscEntry) : State :=
  if escDoor s 0 = [] ∧ (escrowOf s 0).length < 4096 then escrowPut s 0 e
  else wantSeal { s with escIn := fset s.escIn 0 (escDoor s 0 ++ [⟨0, e, .nobody⟩]) }
/-- R61, R324: the completion entry, the interrupt behind it, and the request for a seal. -/
def complete (s : State) (r : LRecord) (status stale : Nat) : State :=
  match fget s.queues r.queue with
  | none => s
  | some q =>
    let n := r.num
    let e (w : EscWhat) : EscEntry := ⟨ivl s, none, some q.tdi, ⟨cpUnit, 0⟩, w⟩
    let at_ := q.cbase + 16 * (n % 2 ^ q.log2n)
    let c := EscWhat.completion at_ r.queue n r.tag status (min stale 0xFFFF) ((n / 2 ^ q.log2n + 1) % 2)
    wantSeal (escrowSend (escrowSend s (e c)) (e (.irq r.queue)))

/-! ## Doorbells and records (R57 to R60, R62) -/

/-- R57: the new TAIL. -/
def doorbell (q : LQueue) (tail : Nat) : LQueue :=
  let d := (tail + 2 ^ 32 - q.tail) % 2 ^ 32
  if d = 0 then q
  else if 2 ^ 31 ≤ d ∨ 2 ^ q.log2n < (tail + 2 ^ 32 - q.head) % 2 ^ 32 then { q with err := true }
  else { q with tail := tail }
/-- R57, R358, R365: a write of the DBQ of queue `q`, on the register BAR of an interface or of the module. -/
def execDbq (s : State) : Out :=
  match s.ev with
  | .dbq n value iface =>
    match fget s.queues n with
    | none => .next s
    | some q =>
      if iface.any (· != q.tdi) ∨ (ifSt s q.tdi).st = .error then .next s
      else if descStalls s n then .next (post s s.ev)
      else
        let q' := doorbell q (value.toNat % 2 ^ 32)
        let s' := if q' = q then s else setQueue s n q'
        .next (if q'.tail = q.tail then s'
          else modCp s' (n % 8) (fun c => { c with dxbell := c.dxbell ||| BitVec.ofNat 64 (2 ^ n) }))
  | _ => .next s

/-- R59: the record at an address. -/
def recordAt (s : State) (q n a : Nat) : LRecord :=
  let w := memWord s a
  { queue := q, num := n, image := memNat s (a + 8) 8, tag := memWord s (a + 16)
    param := (List.range 4).map (fun k => memWord s (a + 24 + 8 * k))
    prio := bits w 6 4, clust := bits w 15 8, graph := bits w 20 16, runs := bits w 47 32
    dbase := memNat s (a + 0x38) 2 % 1024, dcnt := max 1 (memNat s (a + 0x3A) 2 % 1024) }
/-- R60. -/
def recordBad (s : State) (a : Nat) (r : LRecord) : Bool :=
  let w := memWord s a
  bits w 3 0 != 1 || r.clust == 0 || decide (128 < r.clust) || (decide (16 ≤ r.graph) && decide (r.graph ≤ 30))
    || r.image % 8 != 0 || decide (frameOf r.image < 176) || decide (frameCount ≤ frameOf r.image)
    || decide (992 < r.dbase + r.dcnt - 1)
    || bits w 7 7 != 0 || bits w 31 21 != 0 || bits w 63 48 != 0
    || memNat s (a + 0x38) 2 / 1024 != 0 || memNat s (a + 0x3A) 2 / 1024 != 0 || memNat s (a + 0x3C) 4 != 0
/-- R58: the address of the record at HEAD. -/
def headPa (q : LQueue) : Nat := q.base + 64 * (q.head % 2 ^ q.log2n)
/-- R61, R287, R347: the record at HEAD can be taken. -/
def canTake (s : State) (n : Nat) (q : LQueue) : Bool :=
  !descStalls s n && !cpWaits s (headPa q) 64 && q.head != q.tail && !q.open_.contains ((q.head + 2 ^ 32 - 2 ^ q.log2n) % 2 ^ 32)
/-- R58, R60, R62: the record at HEAD is copied; it is refused or joins the admission list. -/
def takeRecord (s : State) (n : Nat) (q : LQueue) : State :=
  let a := headPa q
  cpLook s a 64 fun s =>
  let r := recordAt s n q.head a
  let q' := { q with head := (q.head + 1) % 2 ^ 32, open_ := q.open_ ++ [q.head] }
  let s := setQueue s n q'
  if recordBad s a r then complete s r 0x0B 0
  else { s with waiting := s.waiting ++ [⟨r, s.seqNext, s.cycle, none⟩], seqNext := s.seqNext + 1 }
def execLaunchRecord (s : State) : Out :=
  match s.ev with
  | .launchRecord n =>
    match fget s.queues n with
    | some q => .next (if canTake s n q then takeRecord s n q else s)
    | none => .next s
  | _ => .next s

/-! ## Admission (R62, R63) -/

/-- R62: the effective priority. -/
def effPrio (s : State) (w : Waiting) : Nat := min 7 (w.rcd.prio + (s.cycle - w.since) / 2 ^ 26)
def queueIface (s : State) (q : Nat) : Nat := ((fget s.queues q).map (·.tdi)).getD 15
/-- R62, R365: the front of the admission list; no record of an interface in error is admitted, and it holds up none behind it (log
entry 77); a launch that was switched out runs on to its retirement. -/
def front (s : State) : Option Waiting :=
  (s.waiting.filter (fun w => w.out.isSome || (ifSt s (queueIface s w.rcd.queue)).st != .error)).foldl (fun a w =>
    match a with
    | none => some w
    | some b =>
      if effPrio s b < effPrio s w ∨ (effPrio s b = effPrio s w ∧ w.seq < b.seq) then some w else a) none
def clusterCores (c : Nat) : List Nat := (List.range 9).map (coreAt c)
/-- No launch binds the cluster, or a core of it, and no context is on its way to one. -/
def clusterFree (s : State) (c : Nat) : Bool :=
  (cluster s c).launch.isNone && (clusterCores c).all (fun k => (core s k).launch.isNone && !s.moves.any (fun m => m.dst == k))
/-- R63: the clusters that a launch of `n` clusters gets. -/
def chosen (s : State) (n : Nat) : Option (List Nat) :=
  let l := (List.range 128).filter (clusterFree s)
  if n ≤ l.length then some (l.take n) else none
/-- R74: the lowest free launch number. -/
def freeNumber (s : State) : Option Nat := (List.range 128).find? (fun n => (fget s.launches n).isNone)
/-- R185: the RECALLs that come before a bind. The payload is a free value, and the sender word, as the command processor has
none, is that of the destination core (log entry 4). -/
def sendRecalls (s : State) (l : List Nat) : State :=
  l.foldl (fun s c =>
    if (core s c).victim then
      let m : Mail := ⟨Config.freeWord s.freeN, Config.freeWord (s.freeN + 1), unitWord s.fab.modnum c⟩
      post (modCore { s with freeN := s.freeN + 2 } c (fun x => { x with victim := false, recalls := true }))
        (.recallMessage ⟨c, m, none, []⟩)
    else s) s

/-! ## Setup (R64) -/

/-- R287, R347: a page cannot be mapped yet. -/
def mapStalls (s : State) (pa : Nat) : Bool :=
  (List.range 32).any (fun k => vaultStalls s (pa + 256 * k) || chanBusy s (pa + 256 * k))
/-- R134, R141, R350: a page with every word zero and full, its granules logged; the requests that wait at its words are served. -/
def mapPage (s : State) (pa : Nat) : State :=
  let s := (List.range 32).foldl (fun s k => logGranule (touch s (pa + 256 * k)) (pa + 256 * k)) s
  let inPage (a : Nat) : Bool := decide (pa ≤ a) && decide (a < pa + pageSize)
  let s := { s with
    mem := s.mem.filter (fun c => !inPage c.1), feEmpty := s.feEmpty.filter (fun w => !inPage (8 * w))
    poison := s.poison.filter (fun x => !inPage (32 * x)), errs := s.errs.filter (fun e => !inPage (32 * e.1)) }
  (s.waits.filter (fun e => inPage (8 * e.1))).foldl (fun s e => settle e.1 e.2.length s) s
/-- R64: a page is mapped, and its first bytes are written with bytes of the image as it was read (R55). -/
def preload (s : State) (pa : Nat) (l : List Byte) : State :=
  let s := mapPage s pa
  { s with mem := msets s.mem pa l }
/-- The virtual pages of the ranges, code first, with their bytes in the image. -/
def pageSources (img : Image) : List (Nat × Bool × Nat × Nat) :=
  let sec (base off size : Nat) (code : Bool) : List (Nat × Bool × Nat × Nat) :=
    (List.range (pagesOf size)).map (fun k =>
      (base + pageSize * k, code, off + pageSize * k, min pageSize (size - pageSize * k)))
  sec img.codeBase img.codeOff img.codeSize true ++ sec img.dataBase img.dataOff img.dataSize false
    ++ (List.range img.heapPages).map (fun k => (img.heapBase + pageSize * k, false, 0, 0))
/-- R31: the physical pages: the command processor's choice where it keeps the rules, else the lowest. -/
def placePages (s : State) (img : Image) (iface : Nat) (ch : AdmitChoice) : List Nat :=
  let frames := unusedFrames s iface
  let open_ := frames.take (frames.length - indexFrames img)
  let ok (pa : Nat) : Bool := pa % pageSize == 0 && open_.contains (frameOf pa) && !inGuard s pa
  match ch.pages with
  | some l => if l.length = imgPages img ∧ l.all ok ∧ noRepeats l then l
    else (open_.flatMap (framePages s)).take (imgPages img)
  | none => (open_.flatMap (framePages s)).take (imgPages img)
/-- R42: an address for a binding table: 64-byte aligned, in the firmware reserve, apart from every other launch's. -/
def tableFree (s : State) (a : Nat) : Bool :=
  a % 64 == 0 && decide (145 ≤ frameOf a) && decide (frameOf (a + 40959) < 176)
    && s.launches.all (fun e => decide (e.2.table + 40960 ≤ a) || decide (a + 40960 ≤ e.2.table))
/-- R42: the base of the binding table: the command processor's choice where it keeps the rules, else the lowest of 256 places, of
which the tables of 127 launches cannot take all. -/
def tableBase (s : State) (ch : AdmitChoice) : Nat :=
  if tableFree s ch.table then ch.table
  else (((List.range 256).map (fun k => 145 * 2 ^ 26 + 65536 * k)).find? (tableFree s)).getD (145 * 2 ^ 26)
/-- A binding entry with V = 1 (R43). -/
def bindWord (modf c gen : Nat) : Word := unitWord modf c + BitVec.ofNat 64 (2 ^ 24 + gen % 65536 * 2 ^ 48)
/-- R44: one store rewrites an entry, GEN one higher. -/
def rewrite (s : State) (pa : Nat) (w : Word) : State :=
  physWrite s pa 8 ((w &&& 0xFFFFFFFFFFFF) + BitVec.ofNat 64 ((bits (physRead s pa 8) 63 48 + 1) % 65536 * 2 ^ 48))
/-- R42: the indexes and modules of a role's entries, each with the core it binds; `dm:` entries of other ranks come from
them (R64). -/
def roleEntries (b : Binder) (img : Image) (code : Nat) : List (Nat × Nat × Nat) :=
  let n := code % 2 ^ 14
  let cs := roleCores b img code
  if code / 2 ^ 14 = 1 then (b.clusters.zip cs).map (fun e => (16 * e.1 + n, 0x3FF, e.2))
  else if code / 2 ^ 14 = 2 then cs.map (fun c => (2048 + n, 0x3FF, c))
  else cs.map (fun c => (4096 + n, b.modnum, c))
def allRoles (img : Image) : List Nat :=
  (List.range (min 16 img.nCl)).map (· + 2 ^ 14) ++ (List.range (min 2048 img.nDv)).map (· + 2 ^ 15)
    ++ (List.range (min 1024 img.nDm)).map (· + 3 * 2 ^ 14)
/-- R64 step 2. -/
def writeTable (s : State) (base : Nat) (b : Binder) (img : Image) : State :=
  let s := (List.range 5120).foldl (fun s i => physWrite s (base + 8 * i) 8 (BitVec.ofNat 64 (0x3FF * 2 ^ 38))) s
  ((allRoles img).flatMap (roleEntries b img)).foldl (fun s e =>
    rewrite s (base + 8 * e.1) (bindWord e.2.1 e.2.2 0)) s
/-- The entries of a table that name a core, in the order of the table. -/
def entriesOf (s : State) (base modnum c : Nat) : List Nat :=
  (List.range 5120).filter (fun i =>
    let e := physRead s (base + 8 * i) 8
    entV e && entCore e == some c && (i < 4096 || entMod e == modnum))
/-- R64: `bindg` of a core: the GEN of its first role's entry, else of role `cl:0` of its cluster. -/
def bindGen (s : State) (base c : Nat) : Word :=
  let i := ((entriesOf s base s.fab.modnum c).head?).getD (16 * clusterOf c)
  BitVec.ofNat 64 (bits (physRead s (base + 8 * i) 8) 63 48)
/-- R229: the stream contexts of a core, closed; their openings are told apart from later ones. -/
def closedStreams (x : Core) : FMap Stream := x.streams.map (fun e => (e.1, closedStream e.2))
/-- R89, R92, R166, R179, R229, R306: a core as a launch binds it. The handlers' entries, the message-class slots of the
firmware with their stores, and a forwarding entry are not the launch's. -/
def boundCore (x : Core) (now l cl unit : Nat) (table : Word) : Core :=
  { Core.reset with
    streams := closedStreams x, slots := x.slots.filter (fun e => 28 ≤ e.1), classQ := x.classQ.filter (fun e => 28 ≤ e.1)
    xlatv := x.xlatv, shotv := x.shotv, rclv := x.rclv, sysv := x.sysv, fwd := x.fwd, sbuf := x.sbuf, sbNext := x.sbNext
    bindb := table, launch := some l, bindCl := cl, bank := unit, boundAt := now }
/-- R175, R207, R273: a cluster and its cores as a launch binds them. -/
def bindCluster_ (s : State) (l : Nat) (table : Nat) (cl : Nat) : State :=
  let s := { s with clusters := fset s.clusters cl { Cluster.reset with launch := some l } }
  (List.range 9).foldl (fun s u =>
    modCore s (coreAt cl u) (fun x => boundCore x s.cycle l cl u (BitVec.ofNat 64 table))) s
def setBindg (s : State) (table : Nat) (cs : List Nat) : State :=
  cs.foldl (fun s c => modCore s c (fun x => { x with bindg := bindGen s table c })) s
/-- R53: a buffer record on the cores of its role, with bytes of the image as it was read. -/
def fillBuf (s : State) (b : Binder) (img : Image) (bytes : List Byte) (r : BufRec) : State :=
  let sp : Space := if r.space = 0 then .w else if r.space = 1 then .a else .c
  (roleCores b img r.role).foldl (fun s c => bufWrite s c sp r.off bytes) s
/-- R53: the typed buffers of the teller cores that roles bind start at zero. -/
def clearTellers (s : State) (b : Binder) (img : Image) : State :=
  (((allRoles img).flatMap (roleCores b img)).filter isTeller).foldl
    (fun s c => modCore s c (fun x => { x with bufW := [], bufA := [], bufC := [] })) s
/-- R240, R241, R243: an index of a launch, under the module's lowest free number, in the frames of the launch's region. -/
def newIndex (s : State) (l : Nat) (frames : List Nat) (w : Word) : State :=
  match (List.range 64).find? (fun n => (fget s.grove n).isNone) with
  | none => s
  | some n =>
    let x : GIndex :=
      { launch := l, inum := bits w 5 0, record := w, frames := frames, dim := 32 * (bits w 12 8 + 1), bq8 := bits w 13 13 == 1
        ip := bits w 14 14 == 1, deg := if bits w 15 15 = 1 then 32 else 16, cap := bits w 63 32 + 1
        alloc := 1, pub := 0, floor := 0, used := 0, lives := 0, ents := [], pubs := [] }
    let s := { s with grove := fset s.grove n x }
    logGranules s (headerGranules s n x)
/-- R64, R74: the message of a rank to every other rank of its job. -/
def sendRoles (s : State) (r : LRecord) (b : Binder) (img : Image) (djob : Option Nat) : State :=
  if r.dcnt = 1 then s
  else
    let ents := ((allRoles img).filter (fun c => c / 2 ^ 14 == 3)).flatMap (roleEntries b img)
    let m : RoleMsg := ⟨s.fab.modnum, r.dbase, r.tag, djob, ents.map (fun e => (e.1, bindWord e.2.1 e.2.2 1))⟩
    ((List.range r.dcnt).filter (fun k => r.dbase + k != s.fab.modnum)).foldl
      (fun s k => emit s (r.dbase + k) .ordered (.roles m)) s
/-- R63: the rank of this module in a job. A record of a job on a module outside DBASE to DBASE + DCNT − 1, to which R63 gives no
rank, is admitted all the same, with a rank of at least DCNT or 1,024 (log entry 58). -/
def rankOf (s : State) (r : LRecord) : Nat :=
  if r.dcnt = 1 then 0 else if r.dbase ≤ s.fab.modnum then s.fab.modnum - r.dbase else 1024
def binderOf (s : State) (r : LRecord) (cls : List Nat) : Binder := ⟨cls, rankOf s r, r.dcnt, s.fab.modnum, r.dbase⟩
/-- R55, R62, R63: a launch is admitted: it has its number, its clusters, its frames and the place of its table; the image is read once,
before anything of the launch is written. -/
def setup (s : State) (w : Waiting) (l : Nat) (cls : List Nat) (img : Image) (b : Binder) (ch : AdmitChoice) : State :=
  let r := w.rcd
  let iface := queueIface s r.queue
  let frames := unusedFrames s iface
  let idxF := frames.drop (frames.length - indexFrames img)
  let srcs := (pageSources img).zip (placePages s img iface ch)
  let table := tableBase s ch
  let text := srcs.map (fun e => (e.2, cpBytes s (r.image + e.1.2.2.1) e.1.2.2.2))
  let bufs := img.bufs.map (fun e => (e, cpBytes s (r.image + e.src) e.len))
  let s := cls.foldl (fun s c => bindCluster_ s l table c) s
  let lead := decide (1 < r.dcnt) && b.rank == 0
  let djob := if lead then some (r.dbase + 1024 * (s.djobs % 2 ^ 22)) else none
  let s := { s with djobs := if lead then s.djobs + 1 else s.djobs }
  let x : Launch :=
    { rcd := r, seq := w.seq, img := img, iface := iface, table := table, clusters := cls
      tellers := ((controlCores b img).map (·.1)).filter isTeller
      pages := srcs.map (fun e => ⟨e.1.1, e.2, e.1.2.1⟩), frames := ((srcs.map (fun e => frameOf e.2)).dedup ++ idxF)
      djob := djob, stage := .setup, stale := 0, graphs := img.graphs, ready := [], frozen := false
      poisoned := false, foreign := false, abandon := false, paused := false, ifErr := false
      savCores := [], savCls := [], savGuest := [], save := [], sealIvl := none
      todo := some text, loads := bufs, names := [] }
  { s with launches := fset s.launches l x }
/-- R64: steps 2 to 5. -/
def build (s : State) (l : Nat) (x : Launch) : State :=
  let img := x.img
  let b := binderOf s x.rcd x.clusters
  let idxF := x.frames.drop (x.frames.length - indexFrames img)
  let s := setBindg (writeTable s x.table b img) x.table (x.clusters.flatMap clusterCores)
  let s := (linkCores b img).foldl (fun s e =>
    modCore (modCore s e.1 (fun x => { x with downLink := some e.2 })) e.2 (fun x => { x with upLink := some e.1 })) s
  let s := x.loads.foldl (fun s e => fillBuf s b img e.2 e.1) (clearTellers s b img)
  let s := img.idxs.foldl (fun s e => newIndex s l idxF e) s
  sendRoles (modLaunch s l (fun x => { x with todo := none, loads := [] })) x.rcd b img x.djob
/-- R64: the next part of a launch's setup: a page (step 1), or, with none left, steps 2 to 5. -/
def setupGo (s : State) (l : Nat) (x : Launch) : State :=
  match x.todo with
  | some (e :: es) =>
    if mapStalls s e.1 then s else modLaunch (preload s e.1 e.2) l (fun x => { x with todo := some es })
  | some [] => if cpStalls s then s else build s l x
  | none => s
/-- R64: a step of the setup would get on. -/
def setupGoes (s : State) (x : Launch) : Bool :=
  x.stage == .setup && match x.todo with
    | some (e :: _) => !mapStalls s e.1
    | some [] => !cpStalls s
    | none => false
/-- R347: a channel of the image of a record is out of service. -/
def imageWaits (s : State) (w : Waiting) : Bool := cpWaits s w.rcd.image (memNat s (w.rcd.image + 8) 8)
/-- R55, R62, R63, R185, R345: the front of the list is admitted, its image is checked, and it is set up or refused. -/
def admitFront (s : State) (ch : AdmitChoice) : State :=
  match front s with
  | none => s
  | some w =>
    if moduleFailed s then s
    else match w.out, chosen s w.rcd.clust, freeNumber s with
    | none, some cls, some l =>
      let cs := cls.flatMap clusterCores
      if cs.any (fun c => (core s c).victim) then sendRecalls s cs
      else if cs.any (recallBusy s) then s
      else
        let b := binderOf s w.rcd cls
        if imageWaits s w then s
        else cpLook s w.rcd.image (memNat s (w.rcd.image + 8) 8) fun s =>
        let s := { s with waiting := s.waiting.filter (fun e => e.seq != w.seq) }
        match checkImage s w.rcd (queueIface s w.rcd.queue) b with
        | .error code => complete s w.rcd code 0
        | .ok img => setup s w l cls img b ch
    | _, _, _ => s
/-- An admission would get on. -/
def canAdmit (s : State) : Bool :=
  match front s with
  | none => false
  | some w => !moduleFailed s && w.out.isNone && (freeNumber s).isSome && (match chosen s w.rcd.clust with
    | none => false
    | some cls => let cs := cls.flatMap clusterCores
      cs.any (fun c => (core s c).victim) || (!cs.any (recallBusy s) && !imageWaits s w))
def execAdmission (s : State) : Out :=
  match s.ev with
  | .admission ch => .next (admitFront s ch)
  | _ => .next s

/-! ## Start (R45, R46, R64) -/

/-- R64: the messages of the other ranks of a job: those of its DBASE and TAG, by which alone the model tells jobs apart before the
domain job number is known (log entry 58). -/
def rankMsgs (s : State) (r : LRecord) : List RoleMsg :=
  s.roleMsgs.filter (fun m => m.dbase == r.dbase && m.tag == r.tag)
/-- R64: every step of setup has completed on every module of the job. -/
def canStart (s : State) (x : Launch) : Bool :=
  x.stage == .setup && x.todo.isNone && !cpStalls s && (List.range x.rcd.dcnt).all (fun k =>
    x.rcd.dcnt == 1 || x.rcd.dbase + k == s.fab.modnum || (rankMsgs s x.rcd).any (fun m => m.frm == x.rcd.dbase + k))
/-- R46: a control context. -/
def startControl (s : State) (l : Nat) (x : Launch) (e : Nat × Nat) : State :=
  fill s ⟨e.1, 0⟩ (newThread ⟨e.1, 0⟩ (some l) (BitVec.ofNat 64 (x.img.codeBase + e.2)) x.rcd.param s.cycle)
/-- R44, R64: the `dm:` entries of another rank are written as they came, each with a GEN one higher than the entry it replaces. -/
def takeRoles (s : State) (x : Launch) (m : RoleMsg) : State :=
  m.ents.foldl (fun s e => rewrite s (x.table + 8 * (4096 + (e.1 - 4096) % 1024)) e.2) s
/-- R47: a core of this module is linked to the core that a `dm:` entry of its launch names on another module. -/
def crossLink (s : State) (x : Launch) (l : Nat × Nat) : State :=
  let b := binderOf s x.rcd x.clusters
  let far (code : Nat) (k : State → Option Nat → State) : State :=
    let pa := x.table + 8 * (4096 + code % 2 ^ 14)
    lookAt s pa 8 (fun s => s) fun s =>
      let e := physRead s pa 8
      k s (if entV e then (entCore e).map (fun c => modBase * (1 + entMod e) + c) else none)
  match roleCores b x.img l.1, roleCores b x.img l.2 with
  | c :: _, [] => far l.2 (fun s d => modCore s c (fun y => { y with downLink := d }))
  | [], c :: _ => far l.1 (fun s d => modCore s c (fun y => { y with upLink := d }))
  | _, _ => s
def start (s : State) (l : Nat) (x : Launch) : State :=
  let ms := rankMsgs s x.rcd
  let djob := match x.djob with
    | some d => some d
    | none => (ms.find? (fun m => m.djob.isSome)).bind (·.djob)
  let s := { s with roleMsgs := s.roleMsgs.filter (fun m => !ms.contains m) }
  let s := ms.foldl (fun s m => takeRoles s x m) s
  let s := (crossLinks (binderOf s x.rcd x.clusters) x.img).foldl (fun s e => crossLink s x e) s
  let s := modLaunch s l (fun x => { x with stage := .running, djob := djob })
  let s := (x.clusters.flatMap clusterCores).foldl (fun s c => modCore s c (fun k => { k with djob := djob })) s
  let s := (controlCores (binderOf s x.rcd x.clusters) x.img).foldl (fun s e => startControl s l x e) s
  if x.rcd.graph = 31 ∨ x.rcd.runs = 0 then s else post s (.runRequest l x.rcd.graph x.rcd.runs)
def execLaunchStart (s : State) : Out :=
  match s.ev with
  | .launchStart l =>
    match fget s.launches l with
    | some x => .next (if canStart s x then start s l x else if setupGoes s x then setupGo s l x else s)
    | none => .next s
  | _ => .next s

/-! ## The Arbor (R65 to R69, R84) -/

def addStale (s : State) (l n : Nat) : State := modLaunch s l (fun x => { x with stale := min 0xFFFF (x.stale + n) })
def graphOf (s : State) (l g : Nat) : Option Graph := (fget s.launches l).bind (fun x => x.graphs[g]?)
def modGraph (s : State) (l g : Nat) (f : Graph → Graph) : State :=
  modLaunch s l (fun x => { x with graphs := lset x.graphs g f })
/-- R67: the value of a readiness counter. -/
def counterOf (g : Graph) (i : Nat) : Nat :=
  match fget g.cnt i with
  | some (gen, v) => if gen = some g.gen then v else ((g.nodes[i]?).map (·.npred)).getD 0
  | none => ((g.nodes[i]?).map (·.npred)).getD 0
def makeReady (s : State) (l g i : Nat) : State :=
  modLaunch s l (fun x => { x with ready := x.ready ++ [⟨g, i, s.cycle⟩] })
def canArm (x : Graph) : Bool := !x.live && decide (0 < x.pend)
/-- R66: an instance is armed. -/
def arm (s : State) (l g : Nat) (x : Graph) : State :=
  let y := { x with pend := x.pend - 1, gen := (x.gen + 1) % 2 ^ 32, live := true, done := [] }
  ((List.range y.nodes.length).filter (fun i => counterOf y i == 0)).foldl (fun s i => makeReady s l g i)
    (modGraph s l g (fun _ => y))
def execArmInstance (s : State) : Out :=
  match s.ev with
  | .armInstance l g =>
    match graphOf s l g with
    | some x => .next (if canArm x then arm s l g x else s)
    | none => .next s
  | _ => .next s
/-- An instance is armed as soon as it can be. -/
def rearm (s : State) (l g : Nat) : State :=
  match graphOf s l g with
  | some x => if canArm x then post s (.armInstance l g) else s
  | none => s
/-- R66, R84: requests to run a graph. -/
def execRunRequest (s : State) : Out :=
  match s.ev with
  | .runRequest l g n =>
    match graphOf s l g with
    | none => .next (addStale s l n)
    | some x =>
      let p := min 65535 (x.pend + n)
      .next (rearm (modGraph (addStale s l (x.pend + n - p)) l g (fun x => { x with pend := p })) l g)
  | _ => .next s
/-- R67: one successor entry of a node that has signalled. -/
def countDown (s : State) (l g j : Nat) : State :=
  match graphOf s l g with
  | none => s
  | some x =>
    let c := counterOf x j - 1
    let s := modGraph s l g (fun x => { x with cnt := fset x.cnt j (some x.gen, c) })
    if c = 0 then makeReady s l g j else s
/-- R66, R67: an accepted signal; the sink's ends the instance. -/
def signalled (s : State) (l g i : Nat) (x : Graph) : State :=
  let s := modGraph s l g (fun x => { x with done := i :: x.done })
  let s := (succsOf x i).foldl (fun s j => countDown s l g j) s
  if i = x.sink then rearm (modGraph s l g (fun x => { x with live := false })) l g else s
def execCompletionSignal (s : State) : Out :=
  match s.ev with
  | .completionSignal l tag i gen =>
    match tag, tag.bind (graphOf s l) with
    | some g, some x =>
      .next (if x.live ∧ gen = x.gen ∧ i < x.nodes.length ∧ !x.done.contains i then signalled s l g i x
        else addStale s l 1)
    | _, _ => .next (addStale s l 1)
  | _ => .next s

/-- R68: the number of free guest slots of a core. -/
def freeGuests (s : State) (c : Nat) : Nat :=
  ((List.range 16).filter (fun k => isFree s.cycle (slotOf (core s c) (11 + k)))).length
/-- R43, R68: the teller cores in the order of 64 × die + 8 × y + x. -/
def tellersInOrder : List Nat :=
  (List.range 2).flatMap (fun d => (List.range 8).flatMap (fun y => (List.range 4).map (fun x => tellerBase + 32 * d + 8 * x + y)))
/-- R68: the address of the entry of the role that PLACE names. -/
def placePa (x : Launch) (n : GNode) : Option Nat :=
  if n.place < 3 then none
  else some (x.table + 8 * (if n.place / 2 ^ 14 = 2 then 2048 + n.place % 2 ^ 14 else 4096 + n.place % 2 ^ 14))
/-- R68, R298, R347: the cores that a node may go to, in the order of the ties; for the PLACE of a kind those of the clusters that the
launch owns (log entry 78), for a role the core that its entry names, once the entry can be read. -/
def suitable (s : State) (l : Nat) (x : Launch) (n : GNode) : List Nat :=
  let mine (c : Nat) : Bool := (core s c).launch == some l
  let all := (x.clusters.mergeSort (· ≤ ·)).flatMap clusterCores
  let cs :=
    if n.place = 0 then (all.filter (fun c => unitOf c != 8 && mine c))
    else if n.place = 1 then (all.filter (fun c => unitOf c == 8 && mine c))
    else if n.place = 2 then tellersInOrder
    else match placePa x n with
      | none => []
      | some pa =>
        let e := physRead s pa 8
        if !chanBusy s pa && !s.poison.contains (sectorOf pa) && entV e && (n.place / 2 ^ 14 == 2 || entMod e == s.fab.modnum)
        then (entCore e).toList else []
  cs.filter (fun c => decide (0 < freeGuests s c))
/-- R68: most free guest slots, ties to the first. -/
def bestCore (s : State) (cs : List Nat) : Option Nat :=
  cs.foldl (fun a c => match a with
    | none => some c
    | some b => if freeGuests s b < freeGuests s c then some c else a) none
/-- R69: the key of a ready node. -/
def readyKey (s : State) (x : Launch) (r : Ready) : Nat :=
  min (2 ^ 40 - 1) (((x.graphs[r.g]?).bind (fun g => g.lpath[r.node]?)).getD 0 + (s.cycle - r.since) / 2 ^ 16)
def nodeOf (x : Launch) (r : Ready) : Option GNode := (x.graphs[r.g]?).bind (fun g => g.nodes[r.node]?)
/-- R69: the ready node of a launch to dispatch, and its core. -/
def pickReady (s : State) (l : Nat) (x : Launch) : Option (Ready × Nat) :=
  x.ready.foldl (fun a r =>
    match (nodeOf x r).bind (fun n => bestCore s (suitable s l x n)) with
    | none => a
    | some c => match a with
      | none => some (r, c)
      | some (b, _) =>
        let k := readyKey s x r
        let k' := readyKey s x b
        if k' < k ∨ (k' = k ∧ (r.g < b.g ∨ (r.g = b.g ∧ r.node < b.node))) then some (r, c) else a) none
def dispatchable (s : State) (l : Nat) (x : Launch) : Bool := x.stage == .running && (pickReady s l x).isSome
/-- R69: the launch that the Arbor serves next. -/
def arborNext (s : State) : Option Nat :=
  let ls := (s.launches.filter (fun e => dispatchable s e.1 e.2)).map (·.1)
  match ls.find? (fun l => decide (s.arbRR ≤ l)) with
  | some l => some l
  | none => ls.head?
/-- R51, R68: the dispatch of a node. -/
def dispatch (s : State) (l : Nat) (x : Launch) (r : Ready) (c : Nat) : State :=
  match nodeOf x r, freeGuest (core s c) s.cycle, x.graphs[r.g]? with
  | some n, some k, some g =>
    let ws := [BitVec.ofNat 64 r.node, BitVec.ofNat 64 g.gen, n.arg0, n.arg1]
    let t := newThread ⟨c, k⟩ (some l) (BitVec.ofNat 64 (x.img.codeBase + n.entry)) ws s.cycle
    let s := modLaunch s l (fun x => { x with ready := x.ready.erase r })
    fill { s with arbRR := l + 1 } ⟨c, k⟩ { t with dtag := some r.g }
  | _, _, _ => s
def execArborDispatch (s : State) : Out :=
  match s.ev with
  | .arborDispatch l =>
    match if arborNext s = some l then fget s.launches l else none with
    | some x => .next (match pickReady s l x with
      | some (r, c) => (match (nodeOf x r).bind (placePa x) with
        | some pa => lookAt s pa 8 (fun s => s) (fun s => dispatch s l x r c)
        | none => dispatch s l x r c)
      | none => s)
    | none => .next s
  | _ => .next s

/-! ## Retirement (R321 to R325) -/

/-- A slot that holds a thread of a launch, or counts updates of one that has quit. -/
def slotOfLaunch (l : Nat) (t : Thread) : Bool :=
  t.launch == some l && (t.st == .live || t.st == .away || t.rupdOut != 0)
/-- A message in flight that still acts for a launch. -/
def msgOf (s : State) (l : Nat) : Ev → Bool
  | .place m => launchNum s m.ident == some l
  | .update m => launchNum s m.ident == some l
  | .mailboxMessage m => launchNum s m.ident == some l
  | .wakeMessage m => m.launch == some l
  | .runRequest k _ _ => k == l
  | .armInstance k _ => k == l
  | .completionSignal k _ _ _ => k == l
  | .contextShipment m => launchNum s m.ident == some l
  | _ => false
/-- The clusters whose units serve a launch: those it owns, and one that a moved core came to (log entry 31). -/
def launchClusters (s : State) (l : Nat) : List Nat := (s.clusters.filter (fun e => e.2.launch == some l)).map (·.1)
/-- R321. -/
def quiescent (s : State) (l : Nat) (x : Launch) : Bool :=
  s.cores.all (fun e => e.2.slots.all (fun t => !slotOfLaunch l t.2))
    && x.ready == [] && !s.pending.any (msgOf s l)
    && (launchClusters s l).all (fun c => (cluster s c).mxq.all (fun j => j.pause.isSome) && (cluster s c).cpq == [])
/-- R321: paused jobs end with CODE 1; live instances are abandoned. -/
def endQuiet (s : State) (l : Nat) : State :=
  let jobs := (launchClusters s l).any (fun c => (cluster s c).mxq != [])
  let s := (launchClusters s l).foldl (fun s c => (cluster s c).mxq.foldl (fun s j => mxEnd s c j 1 0) s) s
  modLaunch s l (fun x =>
    { x with stage := .retiring 1, paused := x.paused || jobs, abandon := x.abandon || x.graphs.any (·.live)
             graphs := x.graphs.map (fun g => { g with live := false, pend := 0 }) })
/-- R322. -/
def launchStatus (x : Launch) : Nat :=
  if x.ifErr then 0x14 else if x.frozen then 0x10 else if x.poisoned then 0x11 else if x.foreign then 0x15
  else if x.abandon then 0x12 else if x.paused then 0x13 else 0
/-- A request of a launch at a TAU. -/
def reqOfLaunch (l : Nat) : Ev → Bool
  | .tauStore m => m.launch == some l
  | .tauRead r _ _ | .feRequest r _ _ _ _ | .lrqRequest r _ _ _ | .scqRequest r _ _ | .amoRequest r _ _ _ _ _
  | .amofRequest r _ _ | .amoxRequest r _ => r.launch == some l
  | .chldStep m => m.launch == some l
  | _ => false
/-- R324 step 1: a store or a request of the launch, or an `stm` of its cores, is still on its way. -/
def storesOut (s : State) (l : Nat) : Bool :=
  s.pending.any (reqOfLaunch l) || s.cores.any (fun e => e.2.sbuf.any (fun b => b.launch == some l))
    || s.cores.any (fun e => e.2.launch == some l && e.2.slots.any (fun t => t.2.stmOut != 0))
def escrowHas (s : State) (l : Nat) : Bool :=
  s.escrow.any (fun e => e.2.any (fun y => y.launch == some l))
    || s.escIn.any (fun e => e.2.any (fun y => y.entry.launch == some l))
/-- R324 step 3: V = 0, GEN one higher, in every entry that binds a role. -/
def unbindRoles (s : State) (table : Nat) : State :=
  (List.range 5120).foldl (fun s i =>
    let e := physRead s (table + 8 * i) 8
    if entV e then rewrite s (table + 8 * i) (e &&& ~~~0x1000000) else s) s
/-- R89: a core that no launch binds. The firmware's slots and entries stand, and the lines of its instruction cache. -/
def unboundCore (x : Core) : Core :=
  { Core.reset with
    icache := x.icache, streams := closedStreams x, slots := x.slots.filter (fun e => 28 ≤ e.1), classQ := x.classQ.filter (fun e => 28 ≤ e.1)
    xlatv := x.xlatv, shotv := x.shotv, rclv := x.rclv, sysv := x.sysv, fwd := x.fwd, sbuf := x.sbuf, sbNext := x.sbNext }
def freeCluster (s : State) (c : Nat) : State :=
  { s with clusters := fset s.clusters c Cluster.reset }
/-- The stream contexts of a launch on a core are closed. -/
def dropStreams (l : Nat) (x : Core) : Core :=
  { x with streams := x.streams.map (fun e => if e.2.launch = some l then (e.1, closedStream e.2) else e) }
/-- R89: a teller core without the lines of a launch; a link or a thread of the launch there goes too. -/
def leaveTeller (l : Nat) (links : List Nat) (c : Nat) (x : Core) : Core :=
  { dropStreams l x with
    icache := x.icache.filter (fun e => e.launch != some l), ibufs := x.ibufs.filter (fun e => e.2.tag != some l)
    slots := x.slots.filter (fun e => e.2.launch != some l)
    downLink := if links.contains c then none else x.downLink, upLink := if links.contains c then none else x.upLink }
/-- R31, R324: the bytes of a launch's Grove indexes, as the frames of its index region keep them. -/
def leaveIndexes (s : State) (l : Nat) : State :=
  let cells := (s.grove.filter (fun e => e.2.launch == l)).flatMap (fun e => indexCells s e.1 e.2)
  { s with mem := cells.foldl (fun m e => mset m e.1 e.2) s.mem, grove := s.grove.filter (fun e => e.2.launch != l) }
/-- R324 steps 3 and 4: the launch leaves the module's units. -/
def release (s : State) (l : Nat) (x : Launch) : State :=
  let b := binderOf s x.rcd x.clusters
  let links := linkFroms b x.img ++ linkTos b x.img
  let s := unbindRoles s x.table
  -- R357: a command 7 that waits for the launch ends
  let s := if s.moves.any (fun m => m.launch == l) ∧ admRuns s 7 then admDone s 1 else s
  let s := { s with
    moves := s.moves.filter (fun m => m.launch != l)
    searches := s.searches.filter (fun g => ((fget s.grove g.index).map (·.launch)) != some l)
    cores := s.cores.map (fun (e : Nat × Core) =>
      if isTeller e.1 then (e.1, leaveTeller l links e.1 e.2)
      else if e.2.launch = some l then (e.1, unboundCore e.2) else e) }
  (launchClusters s l).foldl freeCluster (leaveIndexes s l)
/-! ### The end of a launch whose thread froze (R323) -/

/-- The parts of a launch, its guests on teller cores among them. -/
def restLaunch (s : State) (l : Nat) : State :=
  toRest false (fun c k => (core s c).launch == some l || (isTeller c && k == some l)) (fun c => (cluster s c).launch == some l) s
/-- R158: the chains that the threads that `p` names have at other modules are called back. -/
def callBack (s : State) (p : TRef → Bool) : State :=
  let l := s.cores.flatMap (fun e => (e.2.slots.map (fun t => (⟨e.1, t.1⟩ : TRef))).filter (fun a => p a && chainAway s a))
  l.foldl (fun s a => s.fab.caps.foldl (fun s m => emit s m.1 .adaptive (.unjob (rtoAway s (.thr a)))) s) s
/-- R308, R317: the core stops issue and its parts go to their restart points; a STEP under way ends as its slot does. -/
def stopCore (s : State) (c : Nat) : State :=
  if (core s c).stopped then s
  else
    let l := (core s c).stepping
    let s := modCore s c (fun x => { mapSlots (parkLeft s.cycle) x with stopped := true, stepping := [] })
    let s := restOf (l.foldl (fun s p =>
      post s (.reply p.rto (.writes [(p.dst, (thr s ⟨c, p.slot⟩).pc), (regUp p.dst 1, 0)]))) s) c
    callBack s (fun a => a.core == c)
/-- R312: every core of a launch stops, and its guests on teller cores. -/
def stopLaunch (s : State) (l : Nat) : State :=
  let f (e : Nat × Core) : Nat × Core :=
    if isTeller e.1 then (e.1, mapSlots (fun t => if t.launch = some l then parkLeft s.cycle t else t) e.2) else e
  let s := modLaunch { s with cores := s.cores.map f } l (fun x => { x with stage := .stopping })
  let s := restLaunch (((s.cores.filter (fun e => e.2.launch == some l)).map (·.1)).foldl stopCore s) l
  callBack s (fun a => isTeller a.core && (thr s a).launch == some l)
/-- A message in flight that acts for a launch or has still to be applied for it (R311, R312). -/
def msgOut (s : State) (l : Nat) (e : Ev) : Bool :=
  let mine (a : TRef) : Bool := (core s a.core).launch == some l || (thr s a).launch == some l
  msgOf s l e || reqOfLaunch l e || match e with
  | .freeMessage a | .updateAck a => mine a
  | .arrive m => m.rto.isNone && (launchClusters s l).contains m.cluster
  | .sysMessage m => m.launch == some l
  | .mWrite m => launchNum s m.ident == some l
  | .mRead m => launchNum s m.ident == some l
  | _ => false
/-- R257: an accepted `stv` or `dlv` of the launch is not yet published, and does not wait for what the switch-out saves. -/
def groveOut (s : State) (l : Nat) : Bool := s.grove.any (fun e => e.2.launch == l && e.2.pubs != [] && !pubStands s e.1 e.2)
/-- R311, R312: every core and thread of the launch is at its restart point, and its messages are delivered. -/
def outReady (s : State) (l : Nat) : Bool :=
  let r := restLaunch s l
  let mine (a : TRef) : Bool := (core r a.core).launch == some l || (isTeller a.core && (thr r a).launch == some l)
  r.cores.all (fun e => (e.2.launch != some l || e.2.stopped) && atRest r mine e.1)
    && (launchClusters r l).all (jobsRest r) && !r.pending.any (msgOut r l) && !groveOut r l
/-- R323: the launch is ended: its threads and jobs go, and it retires as if it were quiescent. What its threads hold of
reservations stays held, as R145 frees one only at a `scq` or a `quit` (log entry 58). -/
def endLaunch (s : State) (l : Nat) : State :=
  let s := restLaunch s l
  let s := { s with cores := s.cores.map (fun (e : Nat × Core) =>
    (e.1, { dropStreams l e.2 with
      slots := e.2.slots.filter (fun t => t.2.launch != some l), ibufs := e.2.ibufs.filter (fun b => b.2.tag != some l) })) }
  let s := (launchClusters s l).foldl (fun s c =>
    let s := (cluster s c).mxq.foldl (fun s j => mxEnd s c j 1 0) s
    (cluster s c).cpq.foldl (fun s j => cpEnd s c j 1 0) s) s
  modLaunch s l (fun x => { x with stage := .retiring 1, ready := [] })

/-- R324 step 2: the seal that the retirement asked for has committed. -/
def sealPassed (s : State) (x : Launch) : Bool :=
  x.sealIvl.all (fun n => decide (2 ^ 31 ≤ (n + 2 ^ 32 - ivl s) % 2 ^ 32))
/-- R323, R324. -/
def retireStep (s : State) (l : Nat) (x : Launch) : State :=
  match x.stage with
  | .running => if quiescent s l x then endQuiet s l else s
  | .stopping => if x.frozen ∧ outReady s l then endLaunch s l else s
  | .retiring 1 =>
    if storesOut s l then s
    else if escrowHas s l
    then wantSeal (modLaunch s l (fun x => { x with stage := .retiring 2, sealIvl := some (ivl s) }))
    else modLaunch s l (fun x => { x with stage := .retiring 2 })
  | .retiring _ =>
    if escrowHas s l ∨ !sealPassed s x then s
    else if cpStalls s then s
    else cpLook s x.table 40960 fun s =>
      let s := release s l x
      askJoin (complete { s with launches := fdel s.launches l } x.rcd (launchStatus x) x.stale)
  | _ => s
/-- A step of a retirement would get on. -/
def canRetire (s : State) (l : Nat) (x : Launch) : Bool :=
  match x.stage with
  | .running => quiescent s l x
  | .stopping => x.frozen && outReady s l
  | .retiring 1 => !storesOut s l
  | .retiring _ => !escrowHas s l && sealPassed s x && !cpStalls s
  | _ => false
def execRetirement (s : State) : Out :=
  match s.ev with
  | .retirement l =>
    match fget s.launches l with
    | some x => .next (retireStep s l x)
    | none => .next s
  | _ => .next s

/-! ## SYS messages (R72, R303, R323) -/

/-- R323, R357: a move of a launch's core that is not done yet ends, and its command. -/
def cancelMove (s : State) (l : Nat) : State :=
  let out (m : Move) : Bool := m.launch == l && (core s m.frm).fwd.isNone
  if s.moves.any out then
    let s := if admRuns s 7 then admDone s 1 else s
    { s with moves := s.moves.filter (fun m => !out m) }
  else s
/-- R303, R323: a frozen thread's message: the cores of its launch halt, and its dispatches and runs stop. -/
def froze (s : State) (l : Nat) : State :=
  match fget s.launches l with
  | some x =>
    -- R312, R357: a launch that is ended is not switched out
    let s := if x.stage = .stopping ∧ admRuns s 6 ∧ (admWord s 1).toNat = l then admDone s 1 else s
    let s := modLaunch s l (fun x => { x with frozen := true, ready := [], graphs := x.graphs.map (fun g => { g with live := false, pend := 0 }) })
    if x.stage = .running then stopLaunch (cancelMove s l) l else s
  | none => s
def execSysMessage (s : State) : Out :=
  match s.ev with
  | .sysMessage m =>
    if m.dest = cpUnit then
      match m.launch with
      | some l => .next (froze s l)
      | none => .next s
    else .next (classArrive s m.dest 31 m.mail)
  | _ => .next s

end Sys2Proof.Machine
end

