-- ==== Sys2Proof/Machine/Preempt.lean ====
section
/-!
DEFINITION. Pre-emption, moves of a core (R75, R228, R308 to R311), switching a launch out and in (R312, R313), and the
gating of a core (R314).
-/
namespace Sys2Proof.Machine
open Sys2Proof

/-! ## References to a thread that moves -/

/-- A tag of another module's thread, as this module numbers its core. -/
def renTag (f : TRef → TRef) (m tag : Nat) : Nat :=
  let a := f ⟨modBase * (1 + m) + tag / 32, tag % 32⟩
  32 * foreignCore a.core + a.slot
/-- The tags from 2^25 up are those of engines. -/
def renTo (f : TRef → TRef) : ReplyTo → ReplyTo
  | .thr a => .thr (f a)
  | .away m tag => .away m (if tag < 2 ^ 25 then renTag f m tag else tag)
  | .nobody => .nobody
def renAck (f : TRef → TRef) : AckTo → AckTo
  | .slot a => .slot (f a)
  | .away m tag => .away m (renTag f m tag)
def renReq (f : TRef → TRef) (r : TauReq) : TauReq := { r with rto := renTo f r.rto }
def renChain (f : TRef → TRef) (m : ChldMsg) : ChldMsg := { m with rto := renTo f m.rto, core := (f ⟨m.core, 0⟩).core }
def renOpt (f : TRef → TRef) (o : Option (ReplyTo × Reg)) : Option (ReplyTo × Reg) := o.map (fun e => (renTo f e.1, e.2))
/-- The messages that can be on their way to a thread at its restart point, or for one (R311). -/
def renEv (f : TRef → TRef) : Ev → Ev
  | .reply a res => .reply (f a) res
  | .update m => .update { m with acks := renAck f m.acks }
  | .updateAck a => .updateAck (f a)
  | .freeMessage a => .freeMessage (f a)
  | .shootMessage m => .shootMessage { m with rto := renTo f m.rto }
  | .arrive m => .arrive { m with rto := renOpt f m.rto }
  | .ldnnAccept m => .ldnnAccept { m with rto := f m.rto }
  | .stvAccept m => .stvAccept { m with rto := f m.rto }
  | .dlvAccept m => .dlvAccept { m with rto := f m.rto }
  | .groveReply m => .groveReply { m with rto := f m.rto, core := (f ⟨m.core, 0⟩).core }
  | .chldStep m => .chldStep (renChain f m)
  | .barwRequest m => .barwRequest { m with rto := renTo f m.rto }
  | .tauRead r w d => .tauRead (renReq f r) w d
  | .place m => .place { m with rto := renTo f m.rto }
  | .mailboxMessage m => .mailboxMessage { m with rto := renTo f m.rto }
  | .wakeMessage m => .wakeMessage { m with dest := (f ⟨m.dest, 27⟩).core }
  | .contextShipment m => .contextShipment { m with ctx := { m.ctx with home := f m.ctx.home } }
  | e => e
def renThread (f : TRef → TRef) (t : Thread) : Thread := { t with home := f t.home, acks := t.acks.map (renAck f) }
def renCore (f : TRef → TRef) (x : Core) : Core :=
  { x with
    slots := x.slots.map (fun e => (e.1, renThread f e.2)), stepping := x.stepping.map (fun p => { p with rto := f p.rto }) }
def renBar (f : TRef → TRef) (b : Barrier) : Barrier :=
  { b with
    held := b.held.map (fun h => { h with rto := renOpt f h.rto })
    waiters := b.waiters.map (fun m => { m with rto := renTo f m.rto }) }
def renCluster (f : TRef → TRef) (x : Cluster) : Cluster :=
  { x with
    bars := x.bars.map (fun e => (e.1, renBar f e.2)), cpq := x.cpq.map (fun j => { j with core := (f ⟨j.core, 0⟩).core }) }
def renSearch (f : TRef → TRef) (g : GSearch) : GSearch :=
  { g with for_ := match g.for_ with
    | .ldnn m => .ldnn { m with rto := f m.rto }
    | .stv r d a b => .stv (f r) d a b }
def renResv (f : TRef → TRef) (r : Resv) : Resv := { r with who := f r.who, req := renReq f r.req }
def renWaiter (f : TRef → TRef) : Waiter → Waiter
  | .fe r op x d l n => .fe (renReq f r) op x d l n
  | .chain m => .chain (renChain f m)
def renJobReq (f : TRef → TRef) (m : JobReq) : JobReq := { m with home := f m.home, rto := renTo f m.rto }
/-- What a launch that is switched out keeps. -/
def renSaved (f : TRef → TRef) (x : Launch) : Launch :=
  { x with
    savCores := x.savCores.map (fun e => (e.1, renCore f e.2)), savCls := x.savCls.map (fun e => (e.1, renCluster f e.2))
    savGuest := x.savGuest.map (fun e => (e.1, renThread f e.2)) }
/-- Every reference to a thread, by its new name. -/
def renState (f : TRef → TRef) (s : State) : State :=
  { s with
    cores := s.cores.map (fun (e : Nat × Core) => (e.1, renCore f e.2))
    clusters := s.clusters.map (fun (e : Nat × Cluster) => (e.1, renCluster f e.2))
    launches := s.launches.map (fun (e : Nat × Launch) => (e.1, renSaved f e.2)), jobReqs := s.jobReqs.map (renJobReq f)
    waits := s.waits.map (fun e => (e.1, e.2.map (renWaiter f)))
    resvs := s.resvs.map (fun e => (e.1, e.2.map (renResv f))), pending := s.pending.map (renEv f)
    searches := s.searches.map (renSearch f)
    grove := s.grove.map (fun (e : Nat × GIndex) =>
      (e.1, { e.2 with pubs := e.2.pubs.map (fun p => { p with rto := f p.rto }) })) }

/-! ### Names on other modules

A context that is away, an acknowledgement, a request that waits and a queue link on another module name a core of this one, or a
thread; they are told where it went (log entry 60). -/

/-- The threads of this module that have gone elsewhere, by core (slot 32) or one by one, as other modules number them. -/
def tellMoved (s : State) (l : List (TRef × TRef)) : State :=
  let out (a : TRef) : TRef := ⟨absCore s a.core, a.slot⟩
  let l := (l.filter (fun e => e.1 != e.2)).map (fun e => (out e.1, out e.2))
  if l = [] then s else s.fab.caps.foldl (fun s m => emit s m.1 .ordered (.moved l)) s
/-- Threads of another module stand elsewhere there. -/
def takeMoved (s : State) (l : List (TRef × TRef)) : State :=
  let at_ (a : TRef) : Option TRef := (l.find? (fun e => e.1 == a)).map (·.2)
  let f (n : Nat) : Nat := ((at_ ⟨n, 32⟩).map (·.core)).getD n
  let g (a : TRef) : TRef := (at_ a).getD ⟨f a.core, a.slot⟩
  let go (e : Nat × Core) : Nat × Core := (e.1, { e.2 with downLink := e.2.downLink.map f, upLink := e.2.upLink.map f })
  let s := renState g s
  { s with
    cores := s.cores.map go, launches := s.launches.map (fun e => (e.1, { e.2 with savCores := e.2.savCores.map go })) }

/-! ## Moving a core (R75, R309, R310) -/

/-- R309: a slot goes with its core's context: every live and away slot, and what the free ones of 0 to 27 keep. -/
def slotMoves (x : Core) (n : Nat) : Bool := decide (n < 28) || (slotOf x n).st == .live || (slotOf x n).st == .away
/-- The threads that go with the context of core `frm`, which is `x`. -/
def moveRef (x : Core) (frm dst : Nat) (a : TRef) : TRef := if a.core = frm ∧ slotMoves x a.slot then ⟨dst, a.slot⟩ else a
/-- R309: the context of `x` on the core that held `y`; a `park` goes on. The messages that wait for the firmware's handlers stand. -/
def newHome (x y : Core) (now : Nat) : Core :=
  { mapSlots (parkUntil now) x with
    slots := (mapSlots (parkUntil now) x).slots.filter (fun e => slotMoves x e.1)
      ++ y.slots.filter (fun e => 28 ≤ e.1 && !slotMoves x e.1)
    classQ := x.classQ.filter (fun e => e.1 < 28) ++ y.classQ.filter (fun e => 28 ≤ e.1)
    xlatv := y.xlatv, shotv := y.shotv, rclv := y.rclv, sysv := y.sysv
    tlb := [], tlbNext := 0, icache := [], ibufs := [], fetchQ := [], csrOld := [], misses := [], missQ := [], fills := []
    fwd := y.fwd, sbuf := y.sbuf, sbNext := y.sbNext, stopped := false, gated := false, qiBusy := 0, qoBusy := 0, issueAt := 0, eligAt := none }
/-- R309: what stays on the vacated core. -/
def vacated (x : Core) : Core := { unboundCore x with slots := x.slots.filter (fun e => !slotMoves x e.1) }
/-- R228: participant places that go from unit to unit. -/
def renParts (f : Nat → Nat) (j : MxJob) : MxJob := { j with parts := j.parts.map f }
def renRecs (f : Nat → Nat) (b : MxBank) : MxBank :=
  { b with recs := b.recs.map (fun r => { r with subs := r.subs.map (fun y => { y with unit := f y.unit }) }) }
/-- An entry of one map goes into another, if it is there. -/
def putKey {α : Type} (k : Nat) (m n : FMap α) : FMap α :=
  match fget m k with
  | some r => fset n k r
  | none => n
/-- R211, R228: the record bank and the participant places that go with a core. -/
def moveBank (s : State) (frm dst : Nat) : State :=
  let a := clusterOf frm
  let b := clusterOf dst
  let f (p : Nat) : Nat := if p = unitOf frm then unitOf dst else p
  if a = b then
    modCluster s a (fun x => { x with mxq := x.mxq.map (renParts f), banks := x.banks.map (fun e => (e.1, renRecs f e.2)) })
  else
    let k := bankOf s frm
    let x := cluster s a
    modCluster (modCluster s b (fun y => { y with
      launch := (core s frm).launch, banks := putKey k (x.banks.map (fun e => (e.1, renRecs f e.2))) y.banks
      cpRecs := putKey k x.cpRecs y.cpRecs, cpSeq := putKey k x.cpSeq y.cpSeq })) a (fun y => { y with
      banks := fdel y.banks k, cpRecs := fdel y.cpRecs k, cpSeq := fdel y.cpSeq k })
/-- A cluster that a launch does not own and whose last core of the launch has moved on is free again. -/
def leaveCluster (s : State) (x : Launch) (cl : Nat) : State :=
  if x.clusters.contains cl ∨ (clusterCores cl).any (fun c => (core s c).launch.isSome) then s else freeCluster s cl
/-- R310: queue links follow the core. -/
def relinked (frm dst : Nat) (x : Core) : Core :=
  let f (o : Option Nat) : Option Nat := o.map (fun c => if c = frm then dst else c)
  { x with downLink := f x.downLink, upLink := f x.upLink }
/-- R75 step 2: every entry that names the vacated core. -/
def rebind (s : State) (table frm dst : Nat) : State :=
  (entriesOf s table s.fab.modnum frm).foldl (fun s i =>
    rewrite s (table + 8 * i) (bindWord (entMod (physRead s (table + 8 * i) 8)) dst 0)) s
/-- R75: the other ranks of a job hold every `dm:` entry; a rewritten one goes to them. -/
def tellRanks (s : State) (x : Launch) (ents : List Nat) : State :=
  let es := ents.filter (4096 ≤ ·)
  if x.rcd.dcnt = 1 ∨ es = [] then s
  else
    let m : RoleMsg := ⟨s.fab.modnum, x.rcd.dbase, x.rcd.tag, none, es.map (fun i => (i, physRead s (x.table + 8 * i) 8))⟩
    ((List.range x.rcd.dcnt).filter (fun k => x.rcd.dbase + k != s.fab.modnum)).foldl
      (fun s k => emit s (x.rcd.dbase + k) .ordered (.roles m)) s
/-- R75: the units of a launch that are asked to drain: its cores, the tellers with threads of it, and its matrix units. -/
def unitsOf (s : State) (l : Nat) : List Nat :=
  (s.cores.filter (fun e => e.2.launch == some l || e.2.slots.any (fun t => t.2.launch == some l))).map (·.1)
    ++ (launchClusters s l).map matrixUnit
/-- R75 steps 1 to 4, R309, R310: the context stands on the new core, which resumes. -/
def moveCore (s : State) (l : Nat) (x : Launch) (frm dst : Nat) : State :=
  let s := restOf s frm
  let old := core s frm
  let s := moveBank s frm dst
  let s := setCore (setCore s dst (newHome old (core s dst) s.cycle)) frm (vacated old)
  let s := leaveCluster (renState (moveRef old frm dst) s) x (clusterOf frm)
  let s := { s with cores := s.cores.map (fun (e : Nat × Core) => (e.1, relinked frm dst e.2)) }
  let s := tellMoved s [(⟨frm, 32⟩, ⟨dst, 32⟩)]
  let ents := entriesOf s x.table s.fab.modnum frm
  let s := tellRanks (rebind s x.table frm dst) x ents
  let s := setBindg s x.table [dst]
  let s := modCore s frm (fun y => { y with fwd := some ⟨l, x.djob, dst, (core s dst).bindg.toNat⟩ })
  let us := unitsOf s l
  let s := { s with moves := s.moves.map (fun m => if m.frm = frm then { m with drains := us } else m) }
  us.foldl (fun s u => post s (.drainAck frm u)) s

/-- R185, R308: a pre-emption request at a core that moves: a core is chosen for its context, victim pages there are recalled, and it
stops; once it is at rest its context is streamed. -/
def preempt (s : State) (c : Nat) : State :=
  if !preemptMoves s c then post s s.ev
  else match s.moves.find? (fun m => m.frm == c && m.drains == []) with
    | some m =>
      if (core s c).stopped then post (restOf s c) (.contextStreamComplete c m.dst)
      else match moveTo s c with
        | some d =>
          let s := { s with moves := s.moves.map (fun m => if m.frm = c then { m with dst := d } else m) }
          post (stopCore (sendRecalls s [d]) c) s.ev
        | none => s
    | none => s
def execPreemption (s : State) : Out :=
  match s.ev with
  | .preemption c => .next (preempt s c)
  | _ => .next s
/-- R228: a core that has a job again goes on, until its jobs are final. -/
def goBack (s : State) (c : Nat) : State :=
  post (modCore s c (fun x => { mapSlots (parkUntil s.cycle) x with stopped := false })) (.preemption c)
/-- R185, R228, R309. -/
def streamed (s : State) (c d : Nat) : State :=
  match s.moves.find? (fun m => m.frm == c && m.dst == d) with
  | none => s
  | some m => match fget s.launches m.launch with
    | none => s
    | some x =>
      if (core s c).launch ≠ some m.launch then s
      else if streamBack s c d then goBack s c
      else if !canStream s c d then post s s.ev
      else if (core s d).victim then post (sendRecalls s [d]) s.ev
      else cpLook s x.table 40960 (fun s => moveCore s m.launch x c d)
def execContextStreamComplete (s : State) : Out :=
  match s.ev with
  | .contextStreamComplete c d => .next (streamed s c d)
  | _ => .next s
/-- R75: a unit acknowledges its drain; after the last the forwarding entry retires. -/
def execDrainAck (s : State) : Out :=
  match s.ev with
  | .drainAck c unit =>
    if unitBusy s unit then .next (post s s.ev)
    else
      let s := { s with moves := s.moves.map (fun m => if m.frm = c then { m with drains := m.drains.erase unit } else m) }
      .next (if s.moves.any (fun m => m.frm == c && m.drains == []) then post s (.retireForwarding c) else s)
  | _ => .next s
def execRetireForwarding (s : State) : Out :=
  match s.ev with
  | .retireForwarding c =>
    .next (admDone (modCore { s with moves := s.moves.filter (fun m => m.frm != c) } c (fun x => { x with fwd := none })) 0)
  | _ => .next s
/-- R75, R357: command 7. -/
def moveRole (s : State) : State :=
  let l := (admWord s 1).toNat
  let code := (admWord s 2).toNat
  if 128 ≤ l ∨ 65536 ≤ code then admDone s 2
  else match fget s.launches l with
    | none => admDone s 1
    | some x =>
      let i := if code / 2 ^ 14 = 1 then 16 * (x.clusters.foldl min 127) + code % 2 ^ 14
        else if code / 2 ^ 14 = 2 then 2048 + code % 2 ^ 14 else 4096 + code % 2 ^ 14
      lookAt s (x.table + 8 * i) 8 (fun s => s) fun s =>
      let e := physRead s (x.table + 8 * i) 8
      if !declared x.img code ∨ x.stage ≠ .running ∨ !entV e ∨ (code / 2 ^ 14 = 3 ∧ entMod e ≠ s.fab.modnum) then admDone s 1
      else match entCore e with
        | none => admDone s 1
        | some c =>
          if isTeller c ∨ s.moves.any (fun m => m.frm == c) ∨ (core s c).fwd.isSome
              ∨ ((moveTo s c).isNone ∧ !coreJobs s c) then admDone s 1
          else post { s with moves := s.moves ++ [⟨l, c, c, []⟩] } (.preemption c)
def execMoveRole (s : State) : Out := .next (if admRuns s 7 then moveRole s else s)

/-! ## Switching a launch out (R312) -/

def saveFrames (clusters guests : Nat) : Nat := (clusters * 2 ^ 21 + guests * 2 ^ 16 + 2 ^ 26 - 1) / 2 ^ 26
/-- The threads of a launch on teller cores. -/
def guestsOf (s : State) (l : Nat) : List (TRef × Thread) :=
  (s.cores.filter (fun e => isTeller e.1)).flatMap (fun e =>
    (e.2.slots.filter (fun t => t.2.launch == some l && t.2.st == .live)).map (fun t => (⟨e.1, t.1⟩, t.2)))
/-- R312: free frames of program memory. -/
def freeFrames (s : State) : List Nat :=
  (List.range frameCount).filter (fun f => decide (176 ≤ f) && (patEnt s f).owner == 15)
/-- R312 steps 1 and 2: every core of the launch, and its threads on tellers, stop; the Arbor stops dispatching. -/
def switchOut (s : State) (l : Nat) (x : Launch) : State :=
  if x.stage ≠ .running ∨ s.moves.any (fun m => m.launch == l)
      ∨ (freeFrames s).length < saveFrames x.clusters.length (guestsOf s l).length then admDone s 1
  else stopLaunch s l
/-- The names of a launch's threads as it is switched out, and as it comes back. -/
def outRef (l : Nat) (ours : TRef → Bool) (a : TRef) : TRef := if ours a then ⟨outCore l a.core, a.slot⟩ else a
def inRef (l : Nat) (f : TRef → TRef) (a : TRef) : TRef :=
  if a.core / 2048 = l + 1 then f ⟨plainCore a.core, a.slot⟩ else a
def oursAt (s : State) (l : Nat) (a : TRef) : Bool :=
  ((core s a.core).launch == some l && slotMoves (core s a.core) a.slot) || (isTeller a.core && (thr s a).launch == some l)
/-- R312 step 3: the contexts, as they are written into the save area, whose granules are logged (R283). -/
def writeSave (s : State) (l : Nat) (fs : List Nat) : State :=
  let guests := guestsOf s l
  let n := 8192 * (clustersOf s (some l)).length + 256 * guests.length
  let s := logGranules s ((List.range n).map (fun k => 2 ^ 18 * fs.getD (k / 2 ^ 18) 0 + k % 2 ^ 18))
  let cls := (launchClusters s l).map (fun c => (c, cluster s c))
  modLaunch s l (fun y => { y with
    stage := .out, savCores := s.cores.filter (fun e => e.2.launch == some l), savGuest := guests, save := fs, savCls := cls })
/-- R312 steps 3 and 4. A record bank that has moved to another cluster goes home. -/
def saveLaunch (s : State) (l : Nat) (x : Launch) : State :=
  let n := saveFrames x.clusters.length (guestsOf s l).length
  let fs := (freeFrames s).take n
  if fs.length < n then admDone (keepRunning s l) 1
  else
    let s := restLaunch s l
    let left := ((s.cores.filter (fun e => e.2.launch == some l)).map (fun e => (⟨e.1, 32⟩ : TRef))) ++ (guestsOf s l).map (·.1)
    let s := tellMoved s (left.map (fun a => (a, ⟨outCore l a.core, a.slot⟩)))
    let s := writeSave (renState (outRef l (oursAt s l)) s) l fs
    let leaves (c : Nat) (t : Thread) : Bool := isTeller c && t.launch == some l && t.st == .live
    let gone (e : Nat × Core) : Nat × Core :=
      if e.2.launch = some l then (e.1, vacated e.2)
      else (e.1, { e.2 with slots := e.2.slots.filter (fun t => !leaves e.1 t.2) })
    let pat := fs.foldl (fun (p : FMap PatEnt) n => fset p n ⟨8, false⟩) s.pat
    let s := { s with
      cores := s.cores.map gone, pat := pat
      waiting := s.waiting ++ [⟨x.rcd, x.seq, s.cycle, some l⟩] }
    admDone ((launchClusters s l).foldl freeCluster s) 0

/-! ## Switching in (R313) -/

/-- Where the core of a saved context goes: owned cluster k to the k-th cluster, unit to unit; a core that had moved out of
the owned clusters takes a unit of its bind cluster that no other context takes. -/
def placeCore (x : Launch) (cls : List Nat) (c : Nat) : Nat :=
  if isTeller c then c
  else
    let at_ (k : Nat) : Nat := cls.getD ((x.clusters.idxOf? k).getD 0) 0
    if x.clusters.contains (clusterOf c) then coreAt (at_ (clusterOf c)) (unitOf c)
    else
      let y := (fget x.savCores c).getD Core.reset
      let used := (x.savCores.filter (fun e => clusterOf e.1 == y.bindCl)).map (fun e => unitOf e.1)
      let want := if unitOf c = 8 then [8] else List.range 8
      coreAt (at_ y.bindCl) ((want.find? (fun u => !used.contains u)).getD (unitOf c))
/-- A guest slot for a saved teller thread (R83); a `park` goes on (R86). -/
def seatGuests (s : State) : List (TRef × Thread) → List (TRef × TRef) × State
  | [] => ([], s)
  | (a, t) :: l =>
    match tellerSlot s a.core with
    | some r =>
      let (m, s) := seatGuests (fill s r { parkUntil s.cycle t with readyAt := s.cycle + 1 }) l
      ((a, r) :: m, s)
    | none => seatGuests s l
/-- There are guest slots for every saved teller thread. -/
def seatsFor (s : State) (l : List (TRef × Thread)) : Bool := (seatGuests s l).1.length == l.length
/-- R313: a saved core, on its new core. -/
def restoreCore (s : State) (x : Launch) (cls : List Nat) (f : Nat → Nat) (e : Nat × Core) : State :=
  let d := f e.1
  let y := newHome e.2 (core s d) s.cycle
  let g (n : Nat) : Nat := if n < modBase then f n else n
  setCore s d { y with
    bindCl := cls.getD ((x.clusters.idxOf? e.2.bindCl).getD 0) 0
    downLink := e.2.downLink.map g, upLink := e.2.upLink.map g }
/-- R227, R313: the units of a saved cluster; its translations start anew. -/
def restoreCluster (s : State) (x : Launch) (cls : List Nat) (f : Nat → Nat) (e : Nat × Cluster) : State :=
  if x.clusters.contains e.1 then
    let d := cls.getD ((x.clusters.idxOf? e.1).getD 0) 0
    { s with clusters := fset s.clusters d { e.2 with ctlb := [], ctlbN := 0, cmiss := [], cdeny := [] } }
  else
    -- the banks and jobs of cores that had moved out come home
    let g (u : Nat) : Nat := unitOf (f (coreAt e.1 u))
    let ks := x.savCores.filter (fun k => clusterOf k.1 == e.1)
    let s := ks.foldl (fun s k =>
      let n := if unitOf k.1 = 8 then 8 else k.2.bank
      modCluster s (clusterOf (f k.1)) (fun y => { y with
        banks := putKey n (e.2.banks.map (fun b => (b.1, renRecs g b.2))) y.banks
        cpRecs := putKey n e.2.cpRecs y.cpRecs, cpSeq := putKey n e.2.cpSeq y.cpSeq })) s
    match ks.head? with
    | some k => modCluster s (clusterOf (f k.1)) (fun y =>
        { y with mxq := y.mxq ++ e.2.mxq.map (renParts g), cpq := y.cpq ++ e.2.cpq })
    | none => s
/-- R313: the new index of a binding entry. -/
def newIndexOf (x : Launch) (cls : List Nat) (i : Nat) : Nat :=
  if i < 2048 then 16 * (cls.getD ((x.clusters.idxOf? (i / 16)).getD 0) 0) + i % 16 else i
/-- R44, R313: every binding entry for the new units, GEN one higher than the entry it replaces; `cl:` entries stand at their new
clusters, and those of the clusters left behind bind nothing. -/
def rebindAll (s : State) (x : Launch) (cls : List Nat) (f : Nat → Nat) : State :=
  let es := (List.range 5120).filterMap (fun i =>
    let e := physRead s (x.table + 8 * i) 8
    if entV e then some (i, e) else none)
  let new := es.map (fun e => newIndexOf x cls e.1)
  let s := (es.filter (fun e => !new.contains e.1)).foldl
    (fun s e => rewrite s (x.table + 8 * e.1) (e.2 &&& ~~~0x1000000)) s
  es.foldl (fun s e =>
    let w := match entCore e.2 with
      | some c => if e.1 < 4096 ∨ entMod e.2 = s.fab.modnum then bindWord (entMod e.2) (f c) 0 else e.2
      | none => e.2
    rewrite s (x.table + 8 * newIndexOf x cls e.1) w) s
/-- R313. -/
def readmit (s : State) (l : Nat) (x : Launch) (cls : List Nat) : State :=
  let f (c : Nat) : Nat := placeCore x cls c
  let s := { s with waiting := s.waiting.filter (fun w => w.out != some l) }
  let s := x.savCls.foldl (fun s e => restoreCluster s x cls f e) s
  let s := x.savCores.foldl (fun s e => restoreCore s x cls f e) s
  let (m, s) := seatGuests s x.savGuest
  let names := m ++ x.savCores.map (fun e => (⟨e.1, 32⟩, ⟨f e.1, 32⟩))
  let g (a : TRef) : TRef := (namedNow { x with names := names } a).getD a
  let s := tellMoved (renState (inRef l g) s) (names.map (fun e => (⟨outCore l e.1.core, e.1.slot⟩, e.2)))
  let ents := (List.range 5120).filter (fun i => entV (physRead s (x.table + 8 * i) 8)
    && entMod (physRead s (x.table + 8 * i) 8) == s.fab.modnum)
  let s := tellRanks (rebindAll s x cls f) x ents
  let s := setBindg s x.table (cls.flatMap clusterCores)
  let back (p : FMap PatEnt) : FMap PatEnt := x.save.foldl (fun p n => fset p n ⟨15, false⟩) p
  let s := { s with pat := back s.pat }
  modLaunch s l (fun x =>
    { x with stage := .running, clusters := cls, savCores := [], savCls := [], savGuest := [], save := [], names := names })
/-- R62, R313, R345: the launch at the front of the list was switched out, and clusters and seats are free. -/
def readmitTo (s : State) (l : Nat) : Option (Launch × List Nat) :=
  match front s, fget s.launches l with
  | some w, some x =>
    if w.out = some l ∧ x.stage = .out ∧ !moduleFailed s ∧ seatsFor s x.savGuest then
      (chosen s w.rcd.clust).map (fun cls => (x, cls))
    else none
  | _, _ => none
/-- R287, R313, R347: a readmission waits: for a vault or a channel, or for a message-class slot that is live in a saved context and
on its new core. -/
def returnWaits (s : State) (l : Nat) (cls : List Nat) : Bool :=
  cpStalls s || (fget s.launches l).any (fun x => x.savCores.any (fun e => (List.range 4).any (fun k =>
    (slotOf e.2 (28 + k)).st != .idle && (slotOf (core s (placeCore x cls e.1)) (28 + k)).st != .idle)))
/-- A readmission would get on. -/
def canReadmit (s : State) (l : Nat) : Bool :=
  match readmitTo s l with
  | some (_, cls) =>
    let cs := cls.flatMap clusterCores
    cs.any (fun c => (core s c).victim) || (!cs.any (recallBusy s) && !returnWaits s l cls)
  | none => false
/-- R185, R313: the launch is readmitted once no victim pages stand on the cores it gets. -/
def readmitGo (s : State) (l : Nat) : State :=
  match readmitTo s l with
  | some (x, cls) =>
    let cs := cls.flatMap clusterCores
    if cs.any (fun c => (core s c).victim) then sendRecalls s cs
    else if cs.any (recallBusy s) || returnWaits s l cls then s
    else cpLook s x.table 40960 (fun s => readmit s l x cls)
  | none => s
def execReadmission (s : State) : Out :=
  match s.ev with
  | .readmission l => .next (readmitGo s l)
  | _ => .next s
/-- R312, R313, R357: command 6; operands in words 1 and 2. -/
def switchWord (s : State) (k : Nat) (go : State → Nat → Launch → State) : State :=
  let l := (admWord s 1).toNat
  if 128 ≤ l ∨ 1 < (admWord s 2).toNat then admDone s 2
  else if (admWord s 2).toNat ≠ k then s
  else match fget s.launches l with
    | some x => go s l x
    | none => admDone s 1
/-- The command runs on until the launch's cores are at their restart points. -/
def execSwitchOut (s : State) : Out :=
  .next (if admRuns s 6 then switchWord s 0 (fun s l x =>
    if x.stage = .stopping ∧ !x.frozen then (if outReady s l then saveLaunch s l x else s) else switchOut s l x) else s)
/-- R62, R313: refused unless the launch can be readmitted now; the command runs on while a RECALL is served, and past a rollback that
its reads start. -/
def switchIn (s : State) (l : Nat) : State :=
  match readmitTo s l with
  | none => admDone s 1
  | some (_, cls) =>
    let t := readmitGo s l
    if vacant s (cls.flatMap clusterCores) then (if returnWaits s l cls then admDone s 1
        else if cpStops s ((fget s.launches l).elim 0 (·.table)) 40960 then t else admDone t 0)
    else post t .switchIn
def execSwitchIn (s : State) : Out := .next (if admRuns s 6 then switchWord s 1 (fun s l _ => switchIn s l) else s)

/-! ## Gating (R314) -/

/-- R314: a core is gated only while no launch binds it; its TLB is emptied. -/
def execCorePowerGating (s : State) : Out :=
  match s.ev with
  | .corePowerGating c gate =>
    if gate then
      .next (if (core s c).launch.isSome ∨ s.moves.any (fun m => m.dst == c) then s
        else modCore s c (fun x => { x with gated := true, tlb := [], tlbNext := 0 }))
    else .next (modCore s c (fun x => { x with gated := false }))
  | _ => .next s

end Sys2Proof.Machine
end

