-- ==== Sys2Proof/Machine/Fabric.lean ====
section
/-!
DEFINITION. The Klofeub fabric (R368 to R381): links and their frames, packets, what a packet does at the
module it reaches, links that come up and go down, routing tables, rekeying, and joining a domain.
-/
namespace Sys2Proof.Machine
open Sys2Proof

/-! ## Links (R369 to R373) -/

/-- R370: LINKID. -/
def linkWord (m port : Nat) : Nat := m % 1024 + 1024 * (port % 32)
/-- R370: a frame with the fields of its first 16 bytes. -/
def frameOfHead (port : Nat) (b : List Byte) (flits : List Flit) (tag : BitVec 128) : FrameIn :=
  let fld (o n : Nat) : Nat := leNat ((b.drop o).take n)
  ⟨port, fld 0 4, fld 4 8, fld 12 1, fld 13 1, fld 14 2, flits, tag⟩

/-- R380: the links of the domain, with one that comes up or goes down. -/
def setLink (s : State) (a b : Nat) (up : Bool) : State :=
  let l := s.fab.ups.filter (fun e => e != (a, b) && e != (b, a))
  { s with fab := { s.fab with ups := if up then (a, b) :: (b, a) :: l else l, want := true } }
/-- R380: a link of this module comes up or goes down: every module of the domain hears of it. -/
def sayLink (s : State) (peer : Nat) (up : Bool) : State :=
  s.fab.caps.foldl (fun s m => emit s m.1 .control (.link s.fab.modnum peer up)) (setLink s s.fab.modnum peer up)
/-- R369, R371, R381: a port trains, exchanges module numbers with its peer, and takes keys, of which no bring-up repeats one; a port
with the wrong peer is held down. -/
def bringUp (s : State) (port peer peerPort : Nat) : State :=
  let p := portSt s port
  let next (s : State) : State := post s (.portBringUp port peer peerPort)
  let fresh : PortSt := { PortSt.reset with peer := peer, peerP := peerPort, rxKey := p.rxKey, txKey := p.txKey }
  match peerOf s.fab.modnum port, p.st with
  | none, _ => s
  | some _, 0 => next (modPort s port (fun p => { p with st := 1, wrong := false }))
  | some m, 1 =>
    if m = peer then next (modPort s port (fun _ => { fresh with st := 2 })) else modPort s port (fun _ => { fresh with wrong := true })
  | some _, 2 =>
    let s := modPort s port (fun _ => { fresh with st := 3, rxKey := p.rxKey + 1, txKey := p.txKey + 1, cred := allCredits })
    askJoin (sayLink { s with fab := { s.fab with everUp := true } } peer true)
  | some _, _ => s
def execPortBringUp (s : State) : Out :=
  match s.ev with
  | .portBringUp p m q => .next (bringUp s p m q)
  | _ => .next s

/-! ### Frames that leave (R370, R371, R373 to R375) -/

/-- A message between the two modules of a link, or with one that the sender's table does not know yet. -/
def isDirect : PktBody → Bool
  | .join .. | .joinReply .. | .rekeyAsk | .rekeyAck => true
  | _ => false
/-- A port is up. -/
def portUp (s : State) (m : Nat) : Bool := ((portTo s m).map (fun n => (portSt s n).st == 3)).getD false
/-- R374: the path of a packet from here: to its intermediate module, or to its destination; one of the control class takes an
alternative while the first port of its minimal path is down. With no path, one of the control class goes to a module that has a link
to its destination (log entry 66). -/
def pathFor (s : State) (p : Packet) : Option (Nat × List Nat) :=
  let l := pathsTo s p.gen (p.inter.getD p.dest)
  if isDirect p.body && portUp s p.dest then some (p.dest, [p.dest])
  else match if p.cls = .control then (l.find? (fun r => r.2.head?.any (portUp s))).or l.head? else l.head? with
    | some r => some r
    | none =>
      if p.cls ≠ .control then none
      else if portUp s p.dest then some (p.dest, [p.dest])
      else ((s.fab.ups.filter (fun e => e.2 == p.dest)).findSome? (fun e =>
        ((pathsTo s p.gen e.1).head?.map (fun r => (e.1, r.2))).or (if portUp s e.1 then some (e.1, [e.1]) else none)))
/-- R374: a packet with the intermediate module of its path, and the port that it leaves by. -/
def egress (s : State) (p : Packet) : Option (Packet × Nat) :=
  (pathFor s p).bind (fun r => (r.2.head?.bind (portTo s)).map (fun port =>
    ({ p with inter := if r.1 = p.dest then none else some r.1 }, port)))
/-- R370: the flits of a packet. -/
def flitsOf (p : Packet) : Nat := Config.moreFlits p.body + 1
/-- R373: a port is up, and its replay buffer has room. -/
def canSend (s : State) (port : Nat) : Bool := (portSt s port).st == 3 && decide ((portSt s port).replay.length < 512)
/-- R370, R371, R373: the next frame of a port; it stays in the replay buffer until it is acknowledged. One without flits is idle. -/
def putFrame (s : State) (port : Nat) (flits : List Flit) : State :=
  let p := portSt s port
  let c := min 255 p.owed
  let f : FrameIn := sign p.txKey
    { port := port, linkid := linkWord s.fab.modnum port, ctr := p.txCtr
      flags := p.txKey % 2 + (if p.nak then 2 else 0) + (if flits = [] then 4 else 0)
      cred := c, acklo := (p.rxCtr.getD 65535) % 65536, flits := flits, tag := 0 }
  modPort { s with frOut := s.frOut ++ [f] } port (fun p =>
    { p with
      txCtr := p.txCtr + 1, replay := p.replay ++ [f], nak := false, ack := false, owed := p.owed - c
      cred := p.cred - flits.length })
/-- R370: the packet that a port sends leaves, at most four flits in a frame, while there are credits. -/
def pump (port : Nat) : Nat → State → State
  | 0, s => s
  | fuel + 1, s =>
    let x := portSt s port
    match x.part with
    | none => s
    | some (p, left) =>
      let k := min 4 (min left x.cred)
      if !canSend s port || k == 0 then s
      else
        let n := flitsOf p
        let s := putFrame s port ((List.range k).map (fun i => ⟨p, n - left + i, n⟩))
        pump port fuel (modPort s port (fun x => { x with part := if left ≤ k then none else some (p, left - k) }))
/-- R374, R375: a packet leaves by its port; while another is being sent there, it waits at the router (log entry 42). -/
def sendPacket (s : State) (p : Packet) : State :=
  match (egress s p).filter (fun e => canSend s e.2 && (portSt s e.2).part.isNone) with
  | some (p, port) => pump port (flitsOf p) (modPort s port (fun x => { x with part := some (p, flitsOf p) }))
  | none => { s with fabOut := s.fabOut ++ [p] }
/-- R370, R373: the ports that owe a NAK, an acknowledgement or credits send an idle frame. -/
def sendOwed (s : State) : State :=
  (s.fab.ports.filter (fun e => canSend s e.1)).foldl (fun s e =>
    let p := portSt s e.1
    if p.nak || p.ack || p.owed != 0 then putFrame s e.1 [] else s) s
/-- R375: the packets leave by their ports, those of the control class first; the others wait at the router. -/
def sendFrames (s : State) : State :=
  let s := (s.fab.ports.filter (fun e => e.2.part.isSome)).foldl (fun s e =>
    pump e.1 (((portSt s e.1).part.map (·.2)).getD 0) s) s
  let l := s.fabOut
  sendOwed (if l = [] then s
    else (l.filter (fun p => p.cls == .control) ++ l.filter (fun p => p.cls != .control)).foldl sendPacket { s with fabOut := [] })

/-! ### Links that go down (R373, R380) -/

/-- R380: every neighbour in the domain has lost this module. -/
def cutOff (s : State) : Bool :=
  s.fab.caps != [] && s.fab.ports.all (fun e => e.2.st != 3 || !s.fab.caps.any (fun c => c.1 == e.2.peer))
/-- R380: every neighbour in the domain has lost module `m`. -/
def lostBy (s : State) (m : Nat) : Bool :=
  m != s.fab.modnum && s.fab.caps.any (fun c => c.1 == m) && s.fab.ups.all (fun e => e.2 != m)
/-- R380: this module goes to watchdog level 5 with every other one of the domain; its messages leave first. -/
def failAll (s : State) (cause : Nat) : State :=
  failModule (sendFrames (s.fab.caps.foldl (fun s m => emit s m.1 .control (.failed cause)) s)) cause
/-- R380: another module's link has come up or gone down; a module that is lost takes the domain to watchdog level 5. -/
def takeLink (s : State) (f peer : Nat) (up : Bool) : State :=
  let s := setLink s f peer up
  if !up ∧ lostBy s peer then failAll s 4 else s
/-- R373, R380: a link goes down; what of its packets outlives the rollback that follows takes another way. -/
def dropLink (s : State) (port : Nat) : State :=
  let x := portSt s port
  let l := (((x.replay.flatMap (·.flits)).map (·.pkt) ++ x.part.toList.map (·.1)).filter (fun p => outlives p.body && !isDirect p.body)).dedup
  let s := modPort { s with fabOut := s.fabOut ++ l } port (fun p => { p with st := 0, replay := [], part := none })
  if cutOff s then failModule s 4
  else
    let s := sayLink s x.peer false
    if lostBy s x.peer then failAll s 4 else trigger s 4
def execLinkDown (s : State) : Out :=
  match s.ev with
  | .linkDown p => .next (if (portSt s p).st = 0 then s else dropLink s p)
  | _ => .next s

/-! ### Rekeying (R371) -/

/-- R371, R381: FBRKEY frames have been sent under the sending key. -/
def rekeyDue (s : State) (port : Nat) : Bool :=
  let p := portSt s port
  p.st == 3 && !p.asked && decide (p.keyAt + s.fab.rekey ≤ p.txCtr)
/-- R371: a new key for one direction, while CTR goes on: the sender asks for it when it is due; the receiver installs it and
acknowledges. -/
def execRekey (s : State) : Out :=
  match s.ev with
  | .rekey p sending =>
    .next (if sending then
        (if rekeyDue s p then emit (modPort s p (fun x => { x with asked := true })) (portSt s p).peer .control .rekeyAsk else s)
      else if (portSt s p).st ≠ 3 then s
      else emit (modPort s p (fun x => { x with rxNew := true })) (portSt s p).peer .control .rekeyAck)
  | _ => .next s
/-- R371: the receiver has the new key: the sender's next frame flips the key phase. -/
def takeRekeyAck (s : State) (port : Nat) : State :=
  if (portSt s port).asked then
    modPort s port (fun x => { x with txKey := x.txKey + 1, keyAt := x.txCtr, asked := false })
  else s

/-! ## What a packet does here -/

/-- R298, R322, R353: an engine's write from another module, at its TAU; one that is refused is the issuing launch's to report. -/
def remoteWrite (s : State) (r : TauReq) (x : Word) : State :=
  match tauRefuses s r.launch r.pa with
  | some why => answer s r.rto (.trap (if why = .poison then 0x11 else 0x15) r.va [])
  | none => answer (physWrite s r.pa 8 x) r.rto (.writes [])
/-- The answer to a stream's read; one for an opening of the context that has ended is of no use. -/
def streamAnswer (s : State) (tag : Nat) (res : RepRes) : State :=
  let n := tag / 2 ^ 64 - 1
  let k := tag % 2 ^ 40
  let c := n / 4
  let i := n % 4
  let x := stream (core s c) i
  if x.serial % 2 ^ 24 ≠ tag / 2 ^ 40 % 2 ^ 24 ∨ !x.out.contains k then s
  else
    let s := match res with
      | .writes l => gotWord s c i k ((l.head?.map (·.2)).getD 0)
      | _ => modStream s c i (fun x => faultWord x k 0x12)
    modStream s c i (fun x => { x with out := x.out.filter (· != k) })
/-- An answer from another module goes to the thread, the engine or the stream that asked. -/
def takeAnswer (s : State) (tag : Nat) (res : RepRes) : State :=
  let got {α : Type} (rem : Option (Option RepRes)) (x y : α) : α := if rem = some none then y else x
  if tag < 2 ^ 25 then post s (.reply (whereIs s asks (tagRef tag)) res)
  else if tag < 2 ^ 27 then
    let cl := tag - 2 ^ 26
    modCluster s cl (fun x => { x with cpq := match x.cpq with
      | j :: l => got j.rem j { j with rem := some (some res) } :: l
      | [] => [] })
  else if tag < 2 ^ 64 then
    let cl := (tag - 2 ^ 27) / 8
    let u := (tag - 2 ^ 27) % 8
    modCluster s cl (fun x => { x with mxq := x.mxq.map (fun j =>
      if j.parts.headD 0 = u then got j.rem j { j with rem := some (some res) } else j) })
  else streamAnswer s tag res
/-- R379: a NACK at the module that the context has left: the entry that it took from `qi` goes back. -/
def backEntry (s : State) (m : ShipMsg) : State :=
  match m.popped with
  | some e => modCore s m.unit (fun x => let x := qTick x s.cycle; { x with up := e :: x.up, upIn := x.upIn + 1 })
  | none => s
/-- R379: a NACK: the thread stays at its home, and traps; a home on another module hears of it in turn. -/
def takeNack (s : State) (m : ShipMsg) : State :=
  let s := if m.frm = s.fab.modnum then backEntry s m else s
  let a := shipHome s m
  match foreignMod a.core with
  | some n => emit s n .adaptive (.nack m)
  | none =>
    if (thr s a).st = .away then
      let t := { m.ctx with st := .live, wait := .none, home := a, launch := launchNum s m.ident }
      endStep a (trapLater (fill s a t) a 0x0A m.va)
    else s
/-- R64: the binding entries of another rank: kept until the launch starts, or written at once. -/
def roleMsg (s : State) (m : RoleMsg) : State :=
  match s.launches.find? (fun e => e.2.rcd.dbase == m.dbase && e.2.rcd.tag == m.tag && e.2.stage != .setup) with
  | some e => takeRoles s e.2 m
  | none => { s with roleMsgs := s.roleMsgs ++ [m] }
/-- R380: a request to join waits at the leader. -/
def takeJoin (s : State) (m : Nat) (cap : Word) : State :=
  if isLeader s then { s with sl := { s.sl with joins := fset s.sl.joins m cap } } else emit s (leaderOf s) .control (.join m cap)
/-- R378, R380: the answer to a join, which every module of the domain hears. -/
def takeJoinReply (s : State) (ivl m count : Nat) (mods : FMap Word) (ups : List (Nat × Nat)) : State :=
  let add (s : State) (l : FMap Word) : State :=
    { s with fab := { s.fab with caps := l.foldl (fun c e => fset c e.1 e.2) s.fab.caps } }
  if m = s.fab.modnum ∧ !s.fab.joined then
    let s := add s (fdel mods m)
    post { s with fab := { s.fab with ups := (ups ++ s.fab.ups).dedup } } (.join ivl m count)
  else let s := add s (mods.filter (fun e => e.1 == m)); { s with fab := { s.fab with domcnt := count } }
/-- Every module of the domain is in a list. -/
def allModules (s : State) (l : List Nat) : Bool := (s.fab.modnum :: s.fab.caps.map (·.1)).all l.contains
/-- R376: the leader hears that a module has the new table; after the last it sends ACTIVATE. -/
def takeLoaded (s : State) (m : Nat) : State :=
  let l := nins m s.fab.loads
  if allModules s l then toDomain { s with fab := { s.fab with loads := [] } } .activate .activate
  else { s with fab := { s.fab with loads := l } }
/-- R376: the leader hears that a module has drained; after the last it retires the old table. -/
def takeDrained (s : State) (m : Nat) : State :=
  let l := nins m s.fab.drains
  if allModules s l then toDomain { s with fab := { s.fab with drains := [] } } .retire .retire
  else { s with fab := { s.fab with drains := l } }
/-- R376: the destination has an ordered packet of a stream. -/
def takeOrdAck (s : State) (k : Nat) : State :=
  match fget s.fab.ord k with
  | some (g, n + 2) => { s with fab := { s.fab with ord := fset s.fab.ord k (g, n + 1) } }
  | _ => { s with fab := { s.fab with ord := fdel s.fab.ord k } }
/-- R47, R169: the cores of this module that `p` names, those of launches that are switched out among them. -/
def modLinked (s : State) (p : Core → Bool) (f : Core → Core) : State :=
  let go (e : Nat × Core) : Nat × Core := (e.1, if p e.2 then f e.2 else e.2)
  { s with cores := s.cores.map go, launches := s.launches.map (fun e => (e.1, { e.2 with savCores := e.2.savCores.map go })) }
/-- R169: an entry of a queue comes from another module's core. -/
def joinUp (s : State) (frm : Nat) (e : QEntry) : State :=
  modLinked s (fun x => x.upLink == some frm) (fun x => let x := qTick x s.cycle; { x with up := x.up ++ [e], upIn := x.upIn + 1 })
/-- R275: the bind cluster of a home of this module, which may have moved. -/
def bindOf (s : State) (home : TRef) : Nat := (core s (whereIs s isAway home).core).bindCl
/-- R171: the core at the upstream end of a link that came to core `c`, which may have moved. -/
def linkEnd (s : State) (c : Nat) : Nat :=
  if (core s c).upLink.any (fun n => decide (modBase ≤ n)) then c else (((core s c).fwd).map (·.dest)).getD c
/-- R158: a chain of a requester, or its request at another unit, is withdrawn if it waits here. -/
def unjobGo (s : State) (rto : ReplyTo) : State := withdrawMsgs (· == rto) (withdrawWaits (· == rto) s)
/-- R375: what a packet carries takes effect at its destination. -/
def deliver (s : State) : PktBody → State
  | .place m => post s (.place m)
  | .mail m => post s (.mailboxMessage m)
  | .update m => post s (.update m)
  | .updateAck tag => post s (.updateAck (whereIs s (fun t => t.rupdOut != 0) (tagRef tag)))
  | .ship m => post s (.contextShipment m)
  | .nack m => takeNack s m
  | .freeHome a => post s (.freeMessage (whereIs s isAway a))
  | .read r w d => post s (.tauRead (hereReq s r) w d)
  | .write r x => remoteWrite s (hereReq s r) x
  | .chld m => post s (.chldStep { m with launch := hereLaunch s m.launch })
  | .reply a res => post s (.reply a res)
  | .answer tag res => takeAnswer s tag res
  | .jobReq m => jobReqGo s { m with home := whereIs s isAway m.home } false
  | .unjob rto => unjobGo s rto
  | .qEntry f _ e => joinUp s f e
  | .qAck f _ => modLinked s (fun x => x.downLink == some f) (fun x => { x with qOut := x.qOut - 1 })
  | .qLink m => linkGo s m
  | .qUnlink c => modCore s (linkEnd s c) (fun x => { x with upLink := none })
  | .sys m => post s (.sysMessage m)
  | .moved l => takeMoved s l
  | .arrive m => post s (.arrive { m with cluster := bindOf s (tagRef m.cluster) })
  | .barw m => post s (.barwRequest { m with cluster := bindOf s (tagRef m.cluster) })
  | .bart h w x rto d => let (s', n) := setTarget s (bindOf s h) w x; answer s' rto (status d n)
  | .resvQuit who w => resvQuit s ⟨relCore s who.core, who.slot⟩ w
  | .prep n => post s (.prep n)
  | .saved n m => post s (.saved n m)
  | .commit n => post s (.commit n)
  | .sealReq m => post s (.sealRequest m)
  | .trigger c m => post s (.rollbackTrigger c m)
  | .rollback m c => post s (.rollback m c)
  | .failed c => failModule s c
  | .join m c => takeJoin s m c
  | .joinReply i m n l u => takeJoinReply s i m n l u
  | .table t => post s (.routingTableLoad t)
  | .loaded m => takeLoaded s m
  | .activate => post s .activate
  | .drained m => takeDrained s m
  | .retire => post s .retire
  | .ordAck k => takeOrdAck s k
  | .link f p up => takeLink s f p up
  | .roles m => roleMsg s m
  | .rekeyAsk | .rekeyAck => s
/-- The messages between the modules of a domain that no seal holds: of seals, rollback, joins, tables and links. -/
def isProtocol : PktBody → Bool
  | .prep _ | .saved .. | .commit _ | .sealReq _ | .trigger .. | .rollback .. | .failed _ | .join .. | .joinReply .. | .table _
  | .loaded _ | .activate | .drained _ | .retire | .ordAck _ | .link .. | .rekeyAsk | .rekeyAck => true
  | _ => false
/-- R371, R376, R380: a packet takes effect; an ordered one is acknowledged, one about a key goes to the port of its sender, and a module
that joins is under the table of the reply. -/
def arrived (s : State) (p : Packet) : State :=
  let s := if p.cls = .ordered then emit s p.src .adaptive (.ordAck (streamKey s.fab.modnum p.body)) else s
  match p.body with
  | .rekeyAsk => (portTo s p.src).elim s (fun n => post s (.rekey n false))
  | .rekeyAck => (portTo s p.src).elim s (takeRekeyAck s)
  | .joinReply _ m .. =>
    deliver (if m = s.fab.modnum ∧ !s.fab.joined then { s with fab := { s.fab with cur := { s.fab.cur with gen := p.gen } } } else s) p.body
  | b => deliver s b
/-- R290, R292: a packet of the interval of a seal that is saved already is part of what it saved. -/
def alsoSaved (s : State) (p : Packet) : State :=
  match fget s.sl.areas (ivl s % 2) with
  | some (n, w) =>
    if (s.sl.phase = .save ∨ s.sl.phase = .saved) ∧ n = ivl s ∧ !fromLater s p then
      { s with sl := { s.sl with areas := fset s.sl.areas (n % 2) (n, { w with pending := w.pending ++ [.packet p] }) } }
    else s
  | none => s
/-- R290, R374: a packet reaches its destination, is sent on, or, under a table that is not held, is discarded with a rollback. -/
def routePacket (s : State) (p : Packet) : State :=
  if (tableOf s p.gen).isNone && !isDirect p.body then trigger s 3
  else if p.dest ≠ s.fab.modnum then
    { s with fabOut := s.fabOut ++ [{ p with
      hops := p.hops + 1, inter := if p.inter = some s.fab.modnum then none else p.inter }] }
  else if isProtocol p.body then arrived s p
  else post (alsoSaved s p) (.packet p)
/-- R370: ACKLO acknowledges a frame of this direction: none after it. -/
def acked (acklo ctr : Nat) : Bool := decide ((acklo + 65536 - ctr % 65536) % 65536 < 32768)
/-- R371: the key under which a frame comes: the port's, or the next one once it is installed. -/
def rxKeyOf (p : PortSt) (f : FrameIn) : Nat := if f.flags % 2 ≠ p.rxKey % 2 ∧ p.rxNew then p.rxKey + 1 else p.rxKey
/-- R370, R371: a frame's key phase, sender and tag are right. -/
def frameOk (p : PortSt) (f : FrameIn) : Bool :=
  let k := rxKeyOf p f
  f.flags % 2 == k % 2 && f.linkid == linkWord p.peer p.peerP && f == sign k f
/-- R370, R371, R373: a frame at a port that is accepted. A NAK has the frames from the oldest unacknowledged one sent again. A packet
is there with its last flit. -/
def acceptFrame (s : State) (f : FrameIn) : State :=
  let idle := f.flags.testBit 2
  let nak := f.flags.testBit 1
  let s := modPort s f.port (fun p =>
    let k := rxKeyOf p f
    { p with
      rxCtr := some f.ctr, rxKey := k, rxNew := p.rxNew && k == p.rxKey, refus := 0, ack := p.ack || !idle
      cred := p.cred + f.cred, owed := p.owed + f.flits.length, replay := p.replay.filter (fun r => !acked f.acklo r.ctr)
      resend := if nak then (p.resend + 1) % 2 ^ 32 else p.resend })
  let s := if nak then { s with frOut := s.frOut ++ (portSt s f.port).replay } else s
  (f.flits.filter (fun x => x.k + 1 == x.n)).foldl (fun s x => routePacket s x.pkt) s
/-- R373: a frame is refused: a NAK asks for those after the last accepted one; refused for the ninth time (once, and after eight
resends), they take the link down. A CTR that does not rise begins the next time (log entry 66). -/
def refuseFrame (s : State) (f : FrameIn) : State :=
  let p := portSt s f.port
  let again := p.refus = 0 ∨ f.ctr ≤ p.lastBad
  if again ∧ 8 ≤ p.refus then dropLink s f.port
  else modPort s f.port (fun p => { p with
    refus := if again then p.refus + 1 else p.refus, lastBad := f.ctr, nak := p.nak || decide again })
/-- R370, R371, R373: a frame at a port. The nonce of a frame that does not name its sender makes its tag fail. -/
def takeFrame (s : State) (f : FrameIn) : State :=
  let p := portSt s f.port
  let next := match p.rxCtr with
    | some c => c + 1
    | none => 0
  if p.st ≠ 3 ∨ f.ctr < next then s
  else if frameOk p f ∧ f.ctr = next then acceptFrame s f
  else refuseFrame s f
def execFrame (s : State) : Out :=
  match s.ev with
  | .frame f => .next (takeFrame s f)
  | .packet p => .next (arrived s p)
  | _ => .next s

/-! ## Tables (R374, R376) -/

/-- One step further over the links: the modules that are reached, each with its path. -/
def spreadLinks (links : List (Nat × Nat)) (l : FMap (List Nat)) : FMap (List Nat) :=
  l.foldl (fun acc e => (links.filter (fun k => k.1 == e.1)).foldl (fun acc k =>
    if (fget acc k.2).isSome then acc else fset acc k.2 (e.2 ++ [k.2])) acc) l
/-- R374: the shortest paths of at most four hops from a module. -/
def shortest (links : List (Nat × Nat)) (m : Nat) : FMap (List Nat) := (List.range 4).foldl (fun l _ => spreadLinks links l) [(m, [])]
/-- R374: the leader's random choice of intermediate modules, none twice. -/
def pickPaths (n m d : Nat) : Nat → Nat → List (Nat × List Nat) → List (Nat × List Nat)
  | 0, _, _ => []
  | fuel + 1, k, l =>
    match l[Config.intermediate n m d k % l.length]? with
    | some x => x :: pickPaths n m d fuel (k + 1) (l.filter (fun y => y.1 != x.1))
    | none => []
/-- R374: the table of module `m`, by the links that are up: for each destination the minimal path and four alternatives, each through
an intermediate module of the domain, of at most four hops. -/
def buildTable (s : State) (g m : Nat) : RTable :=
  let mods := s.fab.modnum :: s.fab.caps.map (·.1)
  let links := s.fab.ups.filter (fun e => mods.contains e.1 && mods.contains e.2)
  let near := shortest links m
  let through (d : Nat) : List (Nat × List Nat) := (mods.filter (fun i => i != m && i != d)).filterMap (fun i =>
    match fget near i, fget (shortest links i) d with
    | some p, some q => if p.length + q.length ≤ 4 then some (i, p ++ q) else none
    | _, _ => none)
  ⟨g, (mods.filter (· != m)).filterMap (fun d =>
    (fget near d).map (fun p => (d, (d, p) :: pickPaths s.freeN m d 4 0 (through d))))⟩
def nextGen (s : State) : Nat := (s.fab.cur.gen + 1) % 65536
/-- R373, R376, R380: the leader's tables are old: the links have changed, and no update is under way. -/
def tableDue (s : State) : Bool :=
  isLeader s && s.fab.want && s.fab.prev.isNone && s.fab.free_.isNone
/-- R376: a new table goes into the free slot, and the leader hears of it; it waits for the RETIRE of the update before. The leader
sends the others theirs with its own. -/
def execRoutingTableLoad (s : State) : Out :=
  match s.ev with
  | .routingTableLoad t =>
    .next (if s.fab.prev.isNone ∧ t.gen = nextGen s then
        let s := { s with fab := { s.fab with free_ := some t } }
        if isLeader s then
          let s := s.fab.caps.foldl (fun s m => emit s m.1 .control (.table (buildTable s t.gen m.1))) s
          takeLoaded { s with freeN := s.freeN + 1, fab := { s.fab with want := false, loads := [] } } s.fab.modnum
        else emit s (leaderOf s) .control (.loaded s.fab.modnum)
      else s)
  | _ => .next s
/-- R373, R376: a table takes effect; issue, held since a link was lost, goes on. -/
def execActivate (s : State) : Out :=
  match s.ev with
  | .activate => .next (match s.fab.free_ with
    | some t => { s with fab := { s.fab with prev := some s.fab.cur, prevG := s.fab.cur.gen, cur := t, free_ := none, told := false, hold := false } }
    | none => s)
  | _ => .next s
/-- R376: no packet of the old table stands in the module, and no stream still uses it. -/
def drainedOf (s : State) (g : Nat) : Bool :=
  s.fabOut.all (fun p => p.gen != g) && s.fab.ord.all (fun e => e.2.1 != g)
    && s.fab.ports.all (fun e => e.2.replay.all (fun f => f.flits.all (fun x => x.pkt.gen != g)) && e.2.part.all (fun x => x.1.gen != g))
def canDrain (s : State) : Bool := !s.fab.told && s.fab.prev.any (fun t => drainedOf s t.gen)
def execDrain (s : State) : Out :=
  match s.ev with
  | .drain => .next (if !canDrain s then s
      else
        let s := { s with fab := { s.fab with told := true } }
        if isLeader s then takeDrained s s.fab.modnum else emit s (leaderOf s) .control (.drained s.fab.modnum))
  | _ => .next s
def execRetire (s : State) : Out :=
  match s.ev with
  | .retire => .next { s with fab := { s.fab with prev := none } }
  | _ => .next s

/-! ## Joining (R380) -/

/-- R282, R380: the module takes the interval, its number and the count, and holds an empty vault. -/
def execJoin (s : State) : Out :=
  match s.ev with
  | .join i m n =>
    .next (if s.launches ≠ [] then s
      else { s with
        fab := { s.fab with modnum := m, fbmod := m, domcnt := n, joined := true }
        sl := { s.sl with ivnum := BitVec.ofNat 32 i }, vaults := [] })
  | _ => .next s

end Sys2Proof.Machine
end

