-- ==== Sys2Proof/Machine/Life.lean ====
section
/-!
DEFINITION. The watchdog (R319, R320) and service life: the power capper, temperatures, ageing monitors and re-planning
(R25, R382 to R385).
-/
namespace Sys2Proof.Machine
open Sys2Proof

/-! ## The watchdog -/

/-- R319: values below 2^20 read as 2^20. -/
def wdPeriod (s : State) : Nat := max (2 ^ 20) s.wd.wdper.toNat
/-- R320: what stands when the compute fabric is reset: the messages of the host, of other modules and of the seal controller. -/
def outlivesReset (e : Ev) : Bool :=
  isAdm e || staysOut e || match e with
  | .packet .. | .sealRequest .. | .prep .. | .saved .. | .commit .. | .rollbackTrigger .. | .rollback .. => true
  | _ => false
/-- R320: the compute fabric is reset: the cores, clusters, tellers and engines; the rollback that follows restores what the last
seal saved. -/
def fabricReset (s : State) : State :=
  let clean (x : Core) : Core := { Core.reset with xlatv := x.xlatv, shotv := x.shotv, rclv := x.rclv, sysv := x.sysv }
  { s with
    cores := s.cores.map (fun e => (e.1, clean e.2)), clusters := [], waits := [], resvs := [], searches := [], jobReqs := []
    pending := s.pending.filter outlivesReset }
/-- R320: what a level does. -/
def levelAction (s : State) : Nat → State
  | 1 => (List.range 8).foldl (fun s n => modCp s n (fun c => { c with nmi := true })) s
  | 2 => startCps s
  | 3 => toHost s .imageIrq
  | 4 => trigger (fabricReset s) 5
  | 5 => resetModule s
  | _ => s
def enterLevel (s : State) (n cause : Nat) : State := levelAction { s with wd := countLevel s.wd n cause } n
/-- R319, R320: a kick; after 16 successive ones, each within the period of the one before, WDLVL is 0. -/
def kick (s : State) : State :=
  let k := if s.cycle - s.wd.lastK ≤ wdPeriod s then s.wd.kicks + 1 else 1
  { s with wd := { s.wd with lastK := s.cycle, kicks := if k = 16 then 0 else k, wdlvl := if k = 16 then 0 else s.wd.wdlvl } }
def execWdkick (s : State) : Out :=
  match s.ev with
  | .wdkick => .next (kick s)
  | _ => .next s
def kickDue (s : State) : Bool := decide (s.wd.lastK + wdPeriod s ≤ s.cycle)
/-- R320: WDPER cycles without a kick. -/
def execKickTimeout (s : State) : Out :=
  match s.ev with
  | .kickTimeout =>
    .next (if kickDue s then
      enterLevel { s with wd := { s.wd with lastK := s.cycle, kicks := 0 } } (min (s.wd.wdlvl + 1) s.wd.wdcap) 1
    else s)
  | _ => .next s
/-- R320: a hang enters level 4, or level 5 from level 4 up. -/
def hang (s : State) (cause : Nat) : State := enterLevel s (if 4 ≤ s.wd.wdlvl then 5 else 4) cause
/-- R320: a core of a bound launch has had an eligible slot for 2^20 cycles in which it issued nothing. -/
def coreHangs (s : State) (c : Nat) : Bool :=
  let x := core s c
  s.sl.phase == .open_ && x.launch.isSome && x.eligAt.any (fun t => decide (t + 2 ^ 20 ≤ s.cycle)) && (List.range 32).any (fun n => eligible s ⟨c, n⟩)
def execCoreHang (s : State) : Out :=
  match s.ev with
  | .coreHang c => .next (if coreHangs s c then hang s 2 else s)
  | _ => .next s
/-- R320: a seal has been in prepare or save for 2^24 cycles, and has not been found to hang before. -/
def sealHangs (s : State) : Bool :=
  (s.sl.phase == .prepare || s.sl.phase == .save) && decide (s.sl.since + 2 ^ 24 ≤ s.cycle) && s.wd.hungAt != some s.sl.since
def execSealHang (s : State) : Out :=
  match s.ev with
  | .sealHang => .next (if sealHangs s then hang { s with wd := { s.wd with hungAt := some s.sl.since } } 3 else s)
  | _ => .next s

/-! ## The capper and temperatures (R25, R384, R385) -/

/-- The hottest point of the dies, in 0.25 °C. -/
def hottest (s : State) : Nat := max s.life.temp0 s.life.temp1
/-- R385: the effective limit of a window under `cap`, after one with the effective limit `was` under `wasCap`: 100 W lower while a die
is hot; once it reads below 100 °C 100 W higher, up to the cap; else as it was. -/
def nextLimit (x : LifeSt) (was wasCap cap : Nat) : Nat :=
  let n := if x.hot then was - 100
    else if was = wasCap then cap
    else if max x.temp0 x.temp1 < 400 then was + 100 else was
  max 1000 (min n cap)
/-- R25: a window of 2,500,000 cycles. -/
def windowLen : Nat := 2500000
/-- R25: the window ends. -/
def windowDue (s : State) : Bool := decide (s.life.winAt + windowLen ≤ s.cycle)
/-- R25: what a window can have withheld: slice cycles first, and issue cycles only when no K-step was let through; both are cycles of
the window (log entry 75). -/
def withheld (k i : Nat) : Nat × Nat := (min k windowLen, if windowLen ≤ k then min i windowLen else 0)
/-- R25, R384, R385: the boundary of a window: what was measured (its average power is held at the limit), and the limits of the
next one. -/
def execCapperWindow (s : State) : Out :=
  match s.ev with
  | .capperWindow w k i =>
    .next (if windowDue s then { s with life := { s.life with
        pwavg := min (w % 4096) s.life.eff, slices := (withheld k i).1, issues := (withheld k i).2
        eff := nextLimit s.life s.life.eff s.life.pwcap s.life.pwnext, was := s.life.eff, wasCap := s.life.pwcap
        pwcap := s.life.pwnext, winAt := s.life.winAt + windowLen } }
      else s)
  | _ => .next s
/-- R384: the hottest stack. -/
def hottestStack (s : State) : Nat := s.stks.foldl (fun a e => max a e.2.temp) 0
/-- R385: the trip is a full reset; THSTAT bit 49 records it. -/
def tripModule (s : State) : State :=
  let t := resetModule s
  { t with life := { t.life with tripped := true } }
/-- R384, R385: a reading of a die (part 0 or 1) or of stack `part - 2`; a die at 115 °C trips the module. -/
def execTemperatureReading (s : State) : Out :=
  match s.ev with
  | .temperatureReading p t =>
    let t := t % 4096
    let s := if p = 0 then { s with life := { s.life with temp0 := t } }
      else if p = 1 then { s with life := { s.life with temp1 := t } }
      else modStack s (p - 2) (fun x => { x with temp := t })
    let s := { s with life := { s.life with hot := decide (420 < hottest s) } }
    .next (if 460 ≤ hottest s then tripModule s else s)
  | _ => .next s
/-- R385: the sensor of a die finds 115 °C. -/
def execThermalTrip (s : State) : Out :=
  match s.ev with
  | .thermalTrip => .next (tripModule s)
  | _ => .next s

/-! ## Ageing (R382, R383) -/

/-- R382, R384: the replicas are 16. -/
def monitorExists (sel : Nat) : Bool := decide (sel < 256) && (!sel.testBit 6 || decide (sel % 64 < 16))
/-- R382: a reading updates every 2^20 cycles. -/
def readingDue (s : State) (sel : Nat) : Bool := (fget s.life.ageAt sel).all (fun t => decide (t + 2 ^ 20 ≤ s.cycle))
def execAgeingMonitorUpdate (s : State) : Out :=
  match s.ev with
  | .ageingMonitorUpdate sel r =>
    .next (if monitorExists sel ∧ readingDue s sel then { s with life := { s.life with
        ages := fset s.life.ages sel (r % 65536), ageAt := fset s.life.ageAt sel s.cycle } }
      else s)
  | _ => .next s
/-- R383: a re-plan is due; it is held until issue goes on after a rollback. -/
def replanDue (s : State) : Bool := !s.fab.hold && decide (s.life.rpAt + s.life.rpper.toNat ≤ s.cycle)
/-- R383: the supply of a die, in steps of 5 mV: it moves by one step per 2^16 cycles from where it stood at the last re-plan. -/
def supplyOf (now at_ sup off : Nat) : Nat := min off (sup + (now - at_) / 2 ^ 16)
/-- R383: a re-plan: the offsets that the firmware's prediction needs, in steps of 5 mV; none is lowered. -/
def execReplan (s : State) : Out :=
  match s.ev with
  | .replan n0 n1 =>
    let worn := decide (12 < n0) || decide (12 < n1)
    let t := { s with life := { s.life with
      off0 := max s.life.off0 (min 12 n0), off1 := max s.life.off1 (min 12 n1)
      sup0 := supplyOf s.cycle s.life.rpAt s.life.sup0 s.life.off0, sup1 := supplyOf s.cycle s.life.rpAt s.life.sup1 s.life.off1
      replans := (s.life.replans + 1) % 2 ^ 32, degr := s.life.degr || worn, rpAt := s.cycle } }
    .next (if !replanDue s then s else if worn then toHost t .degrIrq else t)
  | _ => .next s

end Sys2Proof.Machine
end

