-- ==== Sys2Proof/Machine/Host.lean ====
section
/-!
DEFINITION. The host's side (R354 to R367): the administration commands, CXL.mem accesses, firmware and its verification,
the trust-domain interfaces, attestation, and register reads and writes, by the host and by command processors (R5, R356, R358).
R354: the host reaches device memory in the two windows of `hostPa`, as `hostMay` allows by the IDE stream and the state of one of
the eight interfaces `State.ifs`; no thread and no engine makes a CXL.cache request, as no instruction has one.
-/
namespace Sys2Proof.Machine
open Sys2Proof

/-! ## Administration commands (R357, R365) -/

/-- R365: the configuration of an interface is frozen. -/
def frozenIf (s : State) (d : Nat) : Bool := (ifSt s d).st == .locked || (ifSt s d).st == .run
/-- R56, R357: command 1. -/
def createQueue (s : State) : State :=
  let q := (admWord s 1).toNat
  let base := (admWord s 2).toNat
  let k := bits (admWord s 3) 7 0
  let d := bits (admWord s 3) 15 8
  let cb := (admWord s 4).toNat
  if 63 < q ∨ base % 64 ≠ 0 ∨ k < 4 ∨ 16 < k ∨ 7 < d ∨ bits (admWord s 3) 63 16 ≠ 0 ∨ cb % 16 ≠ 0 then admDone s 2
  else if (fget s.queues q).isSome then admDone s 1
  else if (ifSt s d).st ≠ .unlocked then admDone s 3
  else if descStalls s q then post s s.ev
  else
    let x : LQueue :=
      { base := base, log2n := k, tdi := d, err := false, head := 0, tail := 0, cbase := cb, windows := [], open_ := [] }
    admDone (setQueue s q x) 0
def execCreateQueue (s : State) : Out := .next (if admRuns s 1 then createQueue s else s)
/-- R357: command 2. -/
def removeQueue (s : State) : State :=
  let q := (admWord s 1).toNat
  if 63 < q then admDone s 2
  else match fget s.queues q with
    | none => admDone s 1
    | some x =>
      if frozenIf s x.tdi then admDone s 3
      else if x.head ≠ x.tail ∨ s.waiting.any (fun w => w.rcd.queue == q) ∨ s.launches.any (fun e => e.2.rcd.queue == q)
          ∨ x.open_ ≠ [] then admDone s 1
      else if descStalls s q then post s s.ev
      else
        let s := logGranule (touch s (descPa q)) (descPa q)
        admDone { s with queues := fdel s.queues q } 0
def execRemoveQueue (s : State) : Out := .next (if admRuns s 2 then removeQueue s else s)
/-- R155, R357: command 3. -/
def setWindow (s : State) : State :=
  let q := (admWord s 1).toNat
  let i := (admWord s 2).toNat
  let base := (admWord s 3).toNat
  let size := (admWord s 4).toNat
  if 63 < q ∨ 3 < i ∨ base % 4096 ≠ 0 ∨ size % 4096 ≠ 0 then admDone s 2
  else match fget s.queues q with
    | none => admDone s 1
    | some x =>
      if frozenIf s x.tdi then admDone s 3
      else
        let w := if size = 0 then fdel x.windows i else fset x.windows i (base, size)
        admDone { s with queues := fset s.queues q { x with windows := w } } 0
def execSetWindow (s : State) : Out := .next (if admRuns s 3 then setWindow s else s)
/-- R352: the frames of a range in turn, up to the first refusal. -/
def assignRange (d : Nat) : Nat → Nat → State → State × Option Nat
  | 0, _, s => (s, none)
  | n + 1, f, s =>
    let t := patPut s f d
    if t.patst = 0 then assignRange d n (f + 1) t else (t, some f)
/-- R357: command 4. -/
def assignFrames (s : State) : State :=
  let d := (admWord s 1).toNat
  let f := (admWord s 2).toNat
  let n := (admWord s 3).toNat
  if 7 < d ∨ frameCount < f + n then admDone s 2
  else if frozenIf s d then admDone s 3
  else match assignRange d n f s with
    | (t, none) => admDone t 0
    | (t, some k) => admEnd t 1 (BitVec.ofNat 64 k)
def execAssignFrames (s : State) : Out := .next (if admRuns s 4 then assignFrames s else s)
/-- R357: a frame that command 5 does not free. -/
def keepsFrame (s : State) (f : Nat) : Bool := s.launches.any (fun e => e.2.frames.contains f) || !isIface (patEnt s f).owner
/-- R352, R357: command 5. -/
def releaseFrames (s : State) : State :=
  let f := (admWord s 1).toNat
  let n := (admWord s 2).toNat
  let l := (List.range n).map (f + ·)
  if frameCount < f + n then admDone s 2
  else match l.find? (keepsFrame s) with
    | some k => admEnd s 1 (BitVec.ofNat 64 k)
    | none =>
      if l.any (fun k => frozenIf s (patEnt s k).owner) then admDone s 3
      else admDone (l.foldl (fun s k => patPut s k 15) s) 0
def execReleaseFrames (s : State) : Out := .next (if admRuns s 5 then releaseFrames s else s)
/-- R357: command 8. -/
def readMapping (s : State) : State :=
  let l := (admWord s 1).toNat
  let va := (admWord s 2).toNat
  if 127 < l then admDone s 2
  else
    let p := (fget s.launches l).bind (fun x => x.pages.find? (fun p => p.va / pageSize == va / pageSize))
    admEnd s 0 (match p with
      | some p => BitVec.ofNat 64 (p.pa + va % pageSize)
      | none => BitVec.allOnes 64)
def execReadMapping (s : State) : Out := .next (if admRuns s 8 then readMapping s else s)
def execUnknownAdminOpcode (s : State) : Out :=
  let op := bits (admWord s 0) 7 0
  .next (if s.adm.busy ∧ (op = 0 ∨ 8 < op) then admDone s 2 else s)
/-- R357: ADMGO starts the command as it stands, unless one runs. -/
def admGo (s : State) : State :=
  if s.adm.busy then s
  else
    let s := { s with adm := { s.adm with busy := true, st := 1, run := s.adm.cmd } }
    post s (admEvent s)

/-! ## CXL.mem (R355, R365) -/

/-- R353, R355: a host access to a byte of program memory. -/
def hostMay (s : State) (pa : Nat) (ide : Option Nat) : Bool :=
  let d := (patEnt s (frameOf pa)).owner
  !inGuard s pa && isIface d && (match (ifSt s d).st with
    | .unlocked => true
    | .run => ide == some d
    | .locked => false
    | .error => false)
/-- The slot of a firmware-slot address. -/
def slotAt (pa : Nat) : Nat := if pa < 0x241000000 then 0 else 1
def inSlots (pa : Nat) : Bool := decide (0x240000000 ≤ pa) && decide (pa < 0x242000000)
/-- R355, R359: a read of a byte answers. The window of program memory opens when a verified image starts. -/
def hostReads (s : State) (ide : Option Nat) (a : Nat) : Bool :=
  match hostPa a with
  | none => false
  | some pa => if inSlots pa then true else s.fw.running && hostMay s pa ide && !s.poison.contains (sectorOf pa)
/-- R355: a write of a byte is accepted: not to the slot of the running image, or of one that is verified or swapped in. -/
def hostWrites (s : State) (ide : Option Nat) (a : Nat) : Bool :=
  match hostPa a with
  | none => false
  | some pa =>
    if inSlots pa then
      !(s.fw.fwst != 0 && s.fw.running && slotAt pa == s.fw.slot)
        && !((s.fw.fwst == 1 || s.fw.fwst == 3) && slotAt pa == s.fw.cand)
    else s.fw.running && hostMay s pa ide && !s.poison.contains (sectorOf pa)
/-- The device addresses of an access of `n` bytes. -/
def hostPas (a n : Nat) : List Nat := (List.range n).filterMap (fun k => hostPa (a + k))
/-- R329, R344, R347, R349, R350: a read of the host, at the TAUs of its bytes. One at which a rollback starts is not served. -/
def hostRead (s : State) (a n : Nat) (ide : Option Nat) : State :=
  let pas := hostPas a n
  if !(List.range n).all (fun k => hostReads s ide (a + k)) then toHost s .poisonResp
  else if pas.any (chanBusy s) then post s s.ev
  else if pas.any (eccStops s) then trigger s 1
  else if pas.any (injFires s) then fireInj s
  else
    let s := (pas.map sectorOf).dedup.foldl (fun s k => touch (eccSector s k) (32 * k)) s
    if pas.any (fun pa => s.poison.contains (sectorOf pa)) then toHost s .poisonResp
    else toHost s (.readData (pas.map (devByte s)))
def execHostMemRead (s : State) : Out :=
  match s.ev with
  | .hostMemRead a n ide => .next (hostRead s a n ide)
  | _ => .next s
/-- R283, R355: a byte is written, its granule logged. -/
def hostPut (s : State) (a : Nat) (x : Byte) : State :=
  match hostPa a with
  | some pa => physWrite s pa 1 (x.setWidth 64)
  | none => s
/-- R287, R290: a write waits while a seal is taken, or while the vault has no room. -/
def hostStore (s : State) (a : Nat) (l : List Byte) (ide : Option Nat) : State :=
  if (List.range l.length).all (fun k => hostWrites s ide (a + k)) then
    if s.sl.phase ≠ .open_ ∨ (hostPas a l.length).any (fun p => vaultStalls s p || chanBusy s p) then post s s.ev
    else toHost (l.zipIdx.foldl (fun s e => hostPut s (a + e.2) e.1) s) .done
  else toHost s .poisonResp
def execHostMemWrite (s : State) : Out :=
  match s.ev with
  | .hostMemWrite a l ide => .next (hostStore s a l ide)
  | _ => .next s

/-! ## Firmware (R359 to R361) -/

def fwResult (s : State) (n : Nat) : State := { s with fw := { s.fw with result := n } }
/-- R359: OP 1, by the loader only. -/
def execVerifyAndStart (s : State) : Out :=
  match s.ev with
  | .verifyAndStart n =>
    .next (if s.fw.fwst = 0 ∧ n < 2 then
      post { s with fw := { s.fw with fwst := 1, cand := n, swap := false } } .firmwareVerification
    else fwResult s 5)
  | _ => .next s
/-- R359, R361: OP 2, to the other slot, while an image runs. -/
def execVerifyAndSwap (s : State) : Out :=
  match s.ev with
  | .verifyAndSwap n =>
    .next (if s.fw.fwst = 2 ∧ n < 2 ∧ n ≠ s.fw.slot ∧ !s.fw.instAt then
      post { s with fw := { s.fw with fwst := 1, cand := n, swap := true } } .firmwareVerification
    else fwResult s 5)
  | _ => .next s
/-- The image of a slot: header and body. -/
def fwImage (s : State) (n : Nat) : List Byte := devBytes s (slotBase n) (256 + memNat s (slotBase n + 8) 8)
/-- R360: the first check that fails, or 0. -/
def fwCheck (s : State) (n : Nat) : Nat :=
  let b := slotBase n
  let size := memNat s (b + 8) 8
  if memNat s b 4 ≠ 0x57464844 ∨ size = 0 ∨ 0x1000000 - 256 < size ∨ (devBytes s (b + 0x90) 112).any (· != 0) then 1
  else if BitVec.ofNat 256 (sha256 (devBytes s (b + 0x10) 64)) ≠ Config.rootHash then 2
  else
    let key (o : Nat) : Nat := beNat (devBytes s (b + o) 32)
    let h := sha256 (devBytes s b 0x50 ++ devBytes s (b + 256) size)
    if !ecdsaOk h (key 0x10) (key 0x30) (key 0x50) (key 0x70) then 3
    else if memNat s (b + 4) 4 < s.fw.svn.toNat then 4
    else 0
/-- R359: the image of a slot is the running one. -/
def runImage (s : State) (n : Nat) : State :=
  startCps { s with fw := { s.fw with
    fwst := 2, slot := n, running := true, svn := BitVec.ofNat 32 (memNat s (slotBase n + 4) 4)
    meas := BitVec.ofNat 256 (sha256 (fwImage s n)) } }
/-- R359, R360: the end of a verification. A failed one leaves the running image unchanged. -/
def verify (s : State) : State :=
  let r := fwCheck s s.fw.cand
  let s := fwResult s r
  if r ≠ 0 then { s with fw := { s.fw with fwst := if s.fw.running then 2 else 0 } }
  else if s.fw.swap then { s with fw := { s.fw with fwst := 3 } }
  else runImage s s.fw.cand
def execFirmwareVerification (s : State) : Out :=
  match s.ev with
  | .firmwareVerification => .next (if s.fw.fwst ≠ 1 then s
      else if cpWaits s (slotBase s.fw.cand) (fwSpan s s.fw.cand) then post s s.ev
      else cpLook s (slotBase s.fw.cand) (fwSpan s s.fw.cand) verify)
  | _ => .next s
/-- R361: every handler of slots 28 to 31 has quit. -/
def handlersIdle (s : State) : Bool :=
  s.cores.all (fun e => (List.range 4).all (fun k => (slotOf e.2 (28 + k)).st == .idle))
/-- R361: a queue-safe point: no setup step and no administration command runs. -/
def queueSafe (s : State) : Bool := !s.adm.busy && s.launches.all (fun e => e.2.stage != .setup)
def allCores : List Nat := List.range 1216
/-- R72, R89, R361: the entries of slots 28 to 31 on every core; the caches are emptied, and the messages that waited go
on. -/
def installHandlers (s : State) (l : List Word) : State :=
  let at_ (k : Nat) : Word := (l.getD k 0) &&& ~~~(1 : Word)
  let s := { s with fw := { s.fw with instAt := false, entries := l } }
  let s := allCores.foldl (fun s c => modCore s c (fun x =>
    { x with xlatv := at_ 0, shotv := at_ 1, rclv := at_ 2, sysv := at_ 3, icache := [] })) s
  allCores.foldl (fun s c => (List.range 4).foldl (fun s k => classNext s c (28 + k)) s) s
/-- R361: at a queue-safe point the state passes to the new image; its handlers are installed once the busy ones have quit. -/
def safePoint (s : State) (l : List Word) : State :=
  if s.fw.fwst = 3 ∧ queueSafe s then
    let s := runImage s s.fw.cand
    let s := { s with fw := { s.fw with instAt := true, entries := l } }
    if handlersIdle s then installHandlers s l else s
  else if s.fw.fwst = 2 then
    if s.fw.instAt then (if handlersIdle s then installHandlers s s.fw.entries else s)
    -- the first handlers of an image that the loader has started
    else if s.fw.entries = [] then installHandlers s l
    else s
  else s
def execQueueSafePoint (s : State) : Out :=
  match s.ev with
  | .queueSafePoint l => .next (safePoint s l)
  | _ => .next s
/-- R359: after every reset the mask-ROM loader waits for an image. -/
def execReset (s : State) : Out :=
  match s.ev with
  | .reset => .next (resetModule s)
  | _ => .next s
/-- R359: nothing is held across power-down. -/
def execPowerDown (s : State) : Out :=
  match s.ev with
  | .powerDown => .next { State.reset with
      freeN := s.freeN, hostMem := s.hostMem, toHost := s.toHost, fabOut := s.fabOut, frOut := s.frOut, powered := false }
  | _ => .next s

/-! ## Attestation and interfaces (R362 to R367) -/

def ifCode : IfState → Nat
  | .unlocked => 0
  | .locked => 1
  | .run => 2
  | .error => 3
/-- R362: the three measurements; the third packs the states of the eight interfaces, one byte each. -/
def measured (s : State) : List (BitVec 256) :=
  let st := (List.range 8).foldl (fun a d => a + 256 ^ d * ifCode (ifSt s d).st) 0
  [s.fw.meas, Config.romHash, BitVec.ofNat 256 st]
/-- R362: the signature over the measurements, and over what the request brought. -/
def attest (s : State) (l : List Byte) : List Byte × State :=
  let h := sha256 (l ++ (measured s).flatMap (fun m => beBytes 32 m.toNat))
  (identitySign h (Config.signSecret s.freeN).toNat, { s with freeN := s.freeN + 1 })
def execGetMeasurements (s : State) : Out :=
  match s.ev with
  | .getMeasurements => .next (toHost (attest s []).2 (.measurements (measured s) (attest s []).1))
  | _ => .next s
/-- R362: the answer on PF0 to a request for the certificate, to a challenge, and to any other (log entry 62). -/
def spdmAnswer (s : State) (d : Nat) : SpdmAsk → State
  | .certificate => toHost s (.spdmAnswer d identityCert)
  | .challenge l => toHost (attest s l).2 (.spdmAnswer d (attest s l).1)
  | .session | .ideKey | .other => toHost s (.spdmAnswer d [])
/-- R362, R363: any other request: to an interface it is answered with an error, on PF0 with an SPDM answer. -/
def execSpdmRequest (s : State) : Out :=
  match s.ev with
  | .spdmRequest d ask => .next (if d < 8 then toHost s (.spdmError d) else spdmAnswer s d ask)
  | _ => .next s
/-- R363, R364. -/
def execLock (s : State) : Out :=
  match s.ev with
  | .lock d =>
    .next (if d < 8 ∧ (ifSt s d).st = .unlocked
      then toHost (modIf s d (fun x => { x with st := .locked, read := false })) (.spdmOk d) else toHost s (.spdmError d))
  | _ => .next s
/-- R363: START after a report was read. -/
def execStartRequest (s : State) : Out :=
  match s.ev with
  | .startRequest d =>
    .next (if d < 8 ∧ (ifSt s d).st = .locked ∧ (ifSt s d).read
      then toHost (modIf s d (fun x => { x with st := .run })) (.spdmOk d) else toHost s (.spdmError d))
  | _ => .next s
/-- R366: a frame with every word zero and full; a guard row takes no write (R353). -/
def wipeFrame (s : State) (f : Nat) : State :=
  (framePages s f).foldl mapPage s
/-- R366: no launch of the interface's queues is left. -/
def ifQuiet (s : State) (d : Nat) : Bool := s.launches.all (fun e => e.2.iface != d)
def ownedFrames (s : State) (d : Nat) : List Nat := (List.range frameCount).filter (fun f => (patEnt s f).owner == d)
/-- R366. -/
def stopGo (s : State) (d : Nat) : State :=
  if ifQuiet s d then
    let fs := ownedFrames s d
    let s := fs.foldl wipeFrame s
    let s := fs.foldl (fun s f => patPut s f 15) s
    toHost (modIf s d (fun x => { x with st := .unlocked, read := false, stopping := false })) (.spdmOk d)
  else modIf s d (fun x => { x with stopping := true })
def execStop (s : State) : Out :=
  match s.ev with
  | .stop d => .next (if d < 8 ∧ (ifSt s d).st ≠ .unlocked then stopGo s d else toHost s (.spdmError d))
  | _ => .next s
/-- R364: the registers of a VF's BAR, and its MSI-X table, in the model's numbering of a VF's configuration. -/
def vfBar (off : Nat) : Bool := decide (0x10 ≤ off) && decide (off < 0x28)
def vfMsix (off : Nat) : Bool := decide (0x1000 ≤ off)
/-- R367: the report. -/
def ifReport (s : State) (d : Nat) : List Byte :=
  let qs := s.queues.filter (fun e => e.2.tdi == d)
  let fs := ownedFrames s d
  let ws := qs.flatMap (fun e => e.2.windows.map (fun w => (e.1, w)))
  let pad := (8 - 2 * fs.length % 8) % 8
  leBytes 4 0x52495844 ++ leBytes 1 d ++ leBytes 1 (ifCode (ifSt s d).st) ++ leBytes 2 0
    ++ beBytes 32 s.fw.meas.toNat ++ leBytes 4 s.fw.svn.toNat ++ leBytes 4 0
    ++ leBytes 8 (qs.foldl (fun a e => a ||| 2 ^ e.1) 0)
    ++ leBytes 8 (((fget (ifSt s d).cfg 0x10).getD 0).toNat) ++ leBytes 4 fs.length ++ leBytes 4 ws.length
    ++ fs.flatMap (leBytes 2) ++ List.replicate pad 0
    ++ ws.flatMap (fun w => leBytes 1 w.1 ++ leBytes 1 w.2.1 ++ leBytes 8 (w.2.2.1 / 4096) ++ leBytes 6 (w.2.2.2 / 4096))
def execGetDeviceInterfaceReport (s : State) : Out :=
  match s.ev with
  | .getDeviceInterfaceReport d =>
    .next (if d < 8 ∧ frozenIf s d
      then toHost (modIf s d (fun x => { x with read := true })) (.report (ifReport s d)) else toHost s (.spdmError d))
  | _ => .next s
/-- R365: an interface in error, with the launches that run. -/
def breach (s : State) (d : Nat) : State :=
  let s := modIf s d (fun x => { x with st := .error })
  { s with launches := s.launches.map (fun e => (e.1, if e.2.iface = d then { e.2 with ifErr := true } else e.2)) }
/-- R363, R365: a configuration write to a VF. -/
def execVfConfigWrite (s : State) : Out :=
  match s.ev with
  | .vfConfigWrite d off v =>
    if 8 ≤ d then .next s
    else
      let s' := modIf s d (fun x => { x with cfg := fset x.cfg off v })
      .next (if (vfBar off || vfMsix off) && frozenIf s d then breach s' d else s')
  | _ => .next s

/-! ## Registers (R5, R356) -/

/-- The model's numbers for registers that are not in the register BAR: the fabric's, at their address for a command processor
(`fabBase`, R381), the vendor CSRs of command processor n at csrBase + 4096 n + number, and the BAR of VF d at vfBase + 4096 d. -/
def csrBase : Nat := 0x0C00000000
def vfBase : Nat := 0x0D00000000
/-- R384: a value of PWCAP that is stored. -/
def clampCap (v : Nat) : Nat := if 2300 < v then 2300 else max 1000 v
/-- R385: a write of PWCAP holds from the next window, and in the cycle of a boundary for the window that starts there. -/
def setCap (x : LifeSt) (now v : Nat) : LifeSt :=
  if x.winAt = now then { x with pwnext := v, pwcap := v, eff := nextLimit x x.was x.wasCap v } else { x with pwnext := v }
/-- R346, R347: a write of a register of stack `k`; a command takes effect at the write. -/
def stackWrite (s : State) (k off : Nat) (v : Word) : State :=
  match off with
  | 0x00 =>
    let op := bits v 1 0
    let ch := bits v 6 2
    if op = 1 then stackCmd s k 1 ch 0
    else if op = 2 ∧ bits v 13 7 < 74 then stackCmd s k 2 ch (bits v 13 7) else s
  | 0x10 => modStack s k (fun x => { x with mgsel := v &&& 0x3F9F })
  | 0x20 => modStack s k (fun x => { x with mgthr := v &&& 0xFFFF })
  | 0x28 => modStack s k (fun x => { x with hint := x.hint &&& ((2 ^ 32 - 1) ^^^ bits v 31 0) })
  | 0x38 => modStack s k (fun x => { x with scper := v })
  | _ => s
/-- R381: FBMOD is read-only once a port has been up. -/
def fabWrite (s : State) (off : Nat) (v : Word) : State :=
  match off with
  | 0x000 =>
    if s.fab.everUp then s
    else { s with fab := { s.fab with fbmod := bits v 9 0, modnum := bits v 9 0 } }
  | 0x018 => { s with fab := { s.fab with fbpsel := bits v 4 0 } }
  | 0x028 => { s with fab := { s.fab with rekey := if 2 ^ 20 ≤ v.toNat ∧ v.toNat ≤ 2 ^ 32 then v.toNat else 2 ^ 32 } }
  | _ => s
/-- R356: the queue whose DBQ stands at an offset of VF d's BAR: the interface's j-th in rising number at 8 j. -/
def vfQueue (s : State) (d off : Nat) : Option Nat :=
  if off % 8 ≠ 0 then none
  else (((List.range 64).filter (fun q => (fget s.queues q).any (fun x => x.tdi == d)))[off / 8]?)
/-- The registers of the BAR with an address of their own. -/
def barWrite (s : State) (host : Bool) (off : Nat) (v : Word) : State :=
  match off with
  | 0x0140 => admGo s
  | 0x2000 => { s with sl := { s.sl with slper := v } }
  | 0x2030 => if host then { s with sl := { s.sl with sleinj := v &&& 0x7FFFFFFF01 } } else s
  | 0x2038 => if host then { s with sl := { s.sl with sleinji := v } } else s
  | 0x2100 => if host then s else { s with wd := { s.wd with wdper := v } }
  | 0x2108 => kick s
  | 0x2118 => if host then { s with wd := { s.wd with wdcap := min 5 (max 3 v.toNat) } } else s
  | 0x3200 => { s with sridle := v }
  | 0x3208 => if host then s else { s with patsel := bits v 12 0 }
  | 0x3210 => if host then s else patPut s s.patsel (bits v 3 0)
  | 0x4000 =>
    if bits v 3 1 = 1 then post s (.verifyAndStart (bits v 0 0))
    else if bits v 3 1 = 2 then post s (.verifyAndSwap (bits v 0 0)) else s
  | 0x5000 => { s with life := setCap s.life s.cycle (clampCap (bits v 11 0)) }
  | 0x5020 => { s with life := { s.life with agsel := bits v 7 0 } }
  | 0x5030 => { s with life := { s.life with rpper := if v.toNat < 2 ^ 30 then 2 ^ 30 else v } }
  | _ => s
/-- R5, R356: a write of a register, by the host or by a command processor; every other offset ignores it. -/
def regWrite (s : State) (host : Bool) (off : Nat) (v : Word) : State :=
  if fabBase ≤ off then (if host then s else fabWrite s (off - fabBase) v)
  else if vfBase ≤ off then
    let d := (off - vfBase) / 4096
    (vfQueue s d ((off - vfBase) % 4096)).elim s (fun q => post s (.dbq q v (some d)))
  else if csrBase ≤ off then
    (if host then s else csrAccess s ((off - csrBase) / 4096 % 8) ((off - csrBase) % 4096) (some v))
  else if 0x100 ≤ off ∧ off < 0x140 ∧ off % 8 = 0 then
    { s with adm := { s.adm with cmd := s.adm.cmd.setIfInBounds ((off - 0x100) / 8) v } }
  else if 0x1000 ≤ off ∧ off < 0x1200 ∧ off % 8 = 0 then post s (.dbq ((off - 0x1000) / 8) v none)
  else if 0x3000 ≤ off ∧ off < 0x3200 then stackWrite s ((off - 0x3000) / 64) (off % 64) v
  else barWrite s host off v
/-- R287, R347, R358, R381: a store of a command processor at an address of its own: device memory, the register BAR, or the fabric
registers; at any other it takes an access fault. A refused store to device memory is dropped (R353); one that the vault or a channel
holds up waits. A register takes the store's value, whatever its width, at its own offset (log entry 73). Another processor's reservation
of a byte ends. -/
def cpStoreGo (s : State) (n a : Nat) (w : Width) (v va : Word) : CpRes Unit :=
  let pa := a - cpMemBase
  if cpMemBase ≤ a then
    if !paValid pa then .trap s 7 va
    else if (tauRefuses s none pa).isSome then .ok s ()
    else if vaultStalls s pa || chanBusy s pa then .wait s
    else
      let hit (e : Nat × CpSt) : Bool := e.1 != n && e.2.resv.any (fun r => decide (r.1 < a + wbytes w) && decide (a < r.1 + r.2.1))
      let s := { s with cps := s.cps.map (fun e => if hit e then (e.1, { e.2 with resv := none }) else e) }
      .ok (physWrite s pa (wbytes w) v) ()
  else if cpBarBase ≤ a ∧ a < cpBarBase + 0x10000 then .ok (regWrite s false (a - cpBarBase) v) ()
  else if fabBase ≤ a ∧ a < fabBase + 0x1000 then .ok (regWrite s false a v) ()
  else .trap s 7 va
/-- R56, R287: the host writes 1 to ERR of a queue; the change waits for the vault, and then applies. -/
def clearErr (s : State) (q : Nat) : State :=
  match fget s.queues q with
  | some x => if descStalls s q then post s (.errClear q) else setQueue s q { x with err := false }
  | none => s
def execRegisterWrite (s : State) : Out :=
  match s.ev with
  | .errClear q => .next (clearErr s q)
  | .registerWrite host off v => .next (regWrite s host off v)
  | _ => .next s

/-! ### What registers read as -/

def stackRead (s : State) (k off : Nat) : Word :=
  let x := stackSt s k
  match off with
  | 0x08 => BitVec.ofNat 64 ((if x.busy && !x.deferd then 1 else 0) + 2 * x.result + 2 ^ 32 * x.used)
  | 0x10 => x.mgsel
  | 0x18 => laneWord (laneSt x (bits x.mgsel 4 0) (bits x.mgsel 13 7))
  | 0x20 => x.mgthr
  | 0x28 => BitVec.ofNat 64 x.hint
  | 0x30 => x.cecnt
  | 0x38 => x.scper
  | _ => 0
def portWord (s : State) : Word :=
  let p := portSt s s.fab.fbpsel
  BitVec.ofNat 64 (p.st + (if p.wrong then 4 else 0) + 8 * p.peer + 2 ^ 13 * p.peerP + 2 ^ 32 * p.resend)
def fabRead (s : State) (off : Nat) : Word :=
  match off with
  | 0x000 => BitVec.ofNat 64 s.fab.fbmod
  | 0x008 => ownCap
  | 0x010 => BitVec.ofNat 64 (s.fab.cur.gen + 2 ^ 16 * s.fab.prevG + (if s.fab.prev.isSome then 2 ^ 32 else 0))
  | 0x018 => BitVec.ofNat 64 s.fab.fbpsel
  | 0x020 => portWord s
  | 0x028 => BitVec.ofNat 64 s.fab.rekey
  | _ => 0
def thstat (s : State) : Word :=
  BitVec.ofNat 64 (s.life.temp0 + 2 ^ 16 * s.life.temp1 + 2 ^ 32 * hottestStack s
    + (if s.life.hot then 2 ^ 48 else 0) + (if s.life.tripped then 2 ^ 49 else 0))
def vplog (s : State) : Word :=
  BitVec.ofNat 64 (s.life.off0 + 2 ^ 8 * s.life.off1 + 2 ^ 16 * s.life.replans + (if s.life.degr then 2 ^ 48 else 0))
def agdata (s : State) : Word :=
  if monitorExists s.life.agsel then
    let m := (Config.fusedReading s.life.agsel).toNat
    BitVec.ofNat 64 ((fget s.life.ages s.life.agsel).getD m + 2 ^ 16 * m)
  else 0
def barRead (s : State) (off : Nat) : Word :=
  match off with
  | 0x0000 => 0x504C56
  | 0x0148 => BitVec.ofNat 64 s.adm.st
  | 0x2000 => s.sl.slper
  | 0x2008 => s.sl.ivnum.setWidth 64
  | 0x2010 => s.sl.sealed.setWidth 64
  | 0x2018 => s.sl.rbc.setWidth 64
  | 0x2020 => s.sl.rbi
  | 0x2028 => BitVec.ofNat 64 s.sl.vhw
  | 0x2030 => s.sl.sleinj
  | 0x2038 => s.sl.sleinji
  | 0x2100 => BitVec.ofNat 64 (wdPeriod s)
  | 0x2110 => BitVec.ofNat 64 s.wd.wdlvl
  | 0x2118 => BitVec.ofNat 64 s.wd.wdcap
  | 0x2120 => BitVec.ofNat 64 ((List.range 5).foldl (fun a n => a + 256 ^ n * (fget s.wd.wdcnt (n + 1)).getD 0) 0)
  | 0x2128 => BitVec.ofNat 64 s.wd.wdcause
  | 0x3200 => s.sridle
  | 0x3208 => BitVec.ofNat 64 s.patsel
  | 0x3210 => let e := patEnt s s.patsel; BitVec.ofNat 64 (e.owner + if e.guard then 16 else 0)
  | 0x3218 => BitVec.ofNat 64 s.patst
  | 0x4008 => BitVec.ofNat 64 (s.fw.slot + 2 * s.fw.fwst + 16 * s.fw.result)
  | 0x4010 => s.fw.svn.setWidth 64
  | 0x5000 => BitVec.ofNat 64 s.life.pwnext
  | 0x5008 => BitVec.ofNat 64 s.life.pwavg
  | 0x5010 => BitVec.ofNat 64 (s.life.slices + 2 ^ 32 * s.life.issues)
  | 0x5018 => thstat s
  | 0x5020 => BitVec.ofNat 64 s.life.agsel
  | 0x5028 => agdata s
  | 0x5030 => s.life.rpper
  | 0x5038 => vplog s
  | _ => 0
/-- R5, R356: what a register reads as; reads change nothing. -/
def regRead (s : State) (off : Nat) : Word :=
  if fabBase ≤ off then fabRead s (off - fabBase)
  else if vfBase ≤ off then 0
  else if csrBase ≤ off then csrRead s ((off - csrBase) / 4096) ((off - csrBase) % 4096)
  else if 8 ≤ off ∧ off < 0x100 then Config.identity off
  else if 0x100 ≤ off ∧ off < 0x140 then s.adm.cmd.toList.getD ((off - 0x100) / 8) 0
  else if 0x150 ≤ off ∧ off < 0x190 then s.adm.rsp.toList.getD ((off - 0x150) / 8) 0
  else if 0x3000 ≤ off ∧ off < 0x3200 then stackRead s ((off - 0x3000) / 64) (off % 64)
  else if 0x4020 ≤ off ∧ off < 0x4040 then
    -- the first byte of the digest at the lowest address
    BitVec.ofNat 64 (leNat (((beBytes 32 s.fw.meas.toNat).drop (off - 0x4020)).take 8))
  else barRead s off

/-- R353, R358, R381: what a command processor reads at an address of its own; a register is read at its own offset (log entry 73). -/
def cpReadGo (s : State) (a n : Nat) (acc : CpAcc) (va : Word) : CpRes Word :=
  if cpMemBase ≤ a then
    if paValid (a - cpMemBase) then cpDevRead s (a - cpMemBase) n else .trap s acc.noAccess va
  else if acc = .fetch then .trap s acc.noAccess va
  else if cpBarBase ≤ a ∧ a < cpBarBase + 0x10000 then .ok s (regRead s (a - cpBarBase))
  else if fabBase ≤ a ∧ a < fabBase + 0x1000 then .ok s (regRead s a)
  else .trap s acc.noAccess va
/-- R358: a load or a fetch of command processor `n`, translated and checked; a misaligned one traps. -/
def cpLoad (s : State) (n : Nat) (va : Word) (bytes : Nat) (acc : CpAcc) : CpRes Word :=
  if va.toNat % bytes ≠ 0 then .trap s acc.badAlign va
  else cpThen (cpAddress s n va bytes acc) fun s a =>
    cpThen (cpReadGo s a bytes acc va) fun s x => .ok s (x &&& BitVec.ofNat 64 (2 ^ (8 * bytes) - 1))
/-- R358: a store of command processor `n`, translated and checked. -/
def cpStore (s : State) (n : Nat) (va : Word) (w : Width) (v : Word) : CpRes Unit :=
  if va.toNat % wbytes w ≠ 0 then .trap s 6 va
  else cpThen (cpAddress s n va (wbytes w) .store) fun s a => cpStoreGo s n a w v va

end Sys2Proof.Machine
end

