-- ==== Sys2Proof/Machine/Dispatch.lean ====
section
/-!
DEFINITION. The dispatch: one arm per constructor of `Instr`, each one call of its meaning.
-/
namespace Sys2Proof.Machine
open Sys2Proof

/-- What each step of the opcode table does. -/
def exec (i : Instr) (s : State) : Host.Outcome State Fault Refusal :=
  match i with
  | .nop => Sys2Proof.Machine.execNop s
  | .trap im => Sys2Proof.Machine.execTrap im s
  | .brk im => Sys2Proof.Machine.execBrk im s
  | .mov a b => Sys2Proof.Machine.execMov a b s
  | .li a im => Sys2Proof.Machine.execLi a im s
  | .sel a b c m => Sys2Proof.Machine.execSel a b c m s
  | .add a b c => Sys2Proof.Machine.execAdd a b c s
  | .addImm a c im => Sys2Proof.Machine.execAddImm a c im s
  | .sub a b c => Sys2Proof.Machine.execSub a b c s
  | .mul a b c => Sys2Proof.Machine.execMul a b c s
  | .mulh a b c => Sys2Proof.Machine.execMulh a b c s
  | .mulhu a b c => Sys2Proof.Machine.execMulhu a b c s
  | .div a b c => Sys2Proof.Machine.execDiv a b c s
  | .divu a b c => Sys2Proof.Machine.execDivu a b c s
  | .rem a b c => Sys2Proof.Machine.execRem a b c s
  | .remu a b c => Sys2Proof.Machine.execRemu a b c s
  | .and a b c => Sys2Proof.Machine.execAnd a b c s
  | .andImm a c im => Sys2Proof.Machine.execAndImm a c im s
  | .or a b c => Sys2Proof.Machine.execOr a b c s
  | .orImm a c im => Sys2Proof.Machine.execOrImm a c im s
  | .xor a b c => Sys2Proof.Machine.execXor a b c s
  | .xorImm a c im => Sys2Proof.Machine.execXorImm a c im s
  | .sll a b c => Sys2Proof.Machine.execSll a b c s
  | .srl a b c => Sys2Proof.Machine.execSrl a b c s
  | .sra a b c => Sys2Proof.Machine.execSra a b c s
  | .rol a b c => Sys2Proof.Machine.execRol a b c s
  | .bz a o => Sys2Proof.Machine.execBz a o s
  | .beq a c o => Sys2Proof.Machine.execBeq a c o s
  | .bnz a o => Sys2Proof.Machine.execBnz a o s
  | .bne a c o => Sys2Proof.Machine.execBne a c o s
  | .blt a c o => Sys2Proof.Machine.execBlt a c o s
  | .bge a c o => Sys2Proof.Machine.execBge a c o s
  | .bltu a c o => Sys2Proof.Machine.execBltu a c o s
  | .bgeu a c o => Sys2Proof.Machine.execBgeu a c o s
  | .j o => Sys2Proof.Machine.execJ o s
  | .jl o => Sys2Proof.Machine.execJl o s
  | .jr a => Sys2Proof.Machine.execJr a s
  | .jlr a b => Sys2Proof.Machine.execJlr a b s
  | .slt a b c => Sys2Proof.Machine.execSlt a b c s
  | .sltu a b c => Sys2Proof.Machine.execSltu a b c s
  | .seq a b c => Sys2Proof.Machine.execSeq a b c s
  | .sne a b c => Sys2Proof.Machine.execSne a b c s
  | .ldgD a b im => Sys2Proof.Machine.execLdgD a b im s
  | .ldgW a b im => Sys2Proof.Machine.execLdgW a b im s
  | .ldgH a b im => Sys2Proof.Machine.execLdgH a b im s
  | .ldgB a b im => Sys2Proof.Machine.execLdgB a b im s
  | .stgD a b im => Sys2Proof.Machine.execStgD a b im s
  | .stgW a b im => Sys2Proof.Machine.execStgW a b im s
  | .stgH a b im => Sys2Proof.Machine.execStgH a b im s
  | .stgB a b im => Sys2Proof.Machine.execStgB a b im s
  | .sllImm a c im => Sys2Proof.Machine.execSllImm a c im s
  | .srlImm a c im => Sys2Proof.Machine.execSrlImm a c im s
  | .sraImm a c im => Sys2Proof.Machine.execSraImm a c im s
  | .ror a b c => Sys2Proof.Machine.execRor a b c s
  | .rorImm a c im => Sys2Proof.Machine.execRorImm a c im s
  | .clz a b => Sys2Proof.Machine.execClz a b s
  | .ctz a b => Sys2Proof.Machine.execCtz a b s
  | .popc a b => Sys2Proof.Machine.execPopc a b s
  | .bext a b c => Sys2Proof.Machine.execBext a b c s
  | .bdep a b c => Sys2Proof.Machine.execBdep a b c s
  | .sext w a c => Sys2Proof.Machine.execSext w a c s
  | .zext w a c => Sys2Proof.Machine.execZext w a c s
  | .sltImm a c im => Sys2Proof.Machine.execSltImm a c im s
  | .ldfe a b im => Sys2Proof.Machine.execLdfe a b im s
  | .ldff a b im => Sys2Proof.Machine.execLdff a b im s
  | .stfe a b im => Sys2Proof.Machine.execStfe a b im s
  | .stff a b im => Sys2Proof.Machine.execStff a b im s
  | .ldx a b im => Sys2Proof.Machine.execLdx a b im s
  | .fes full b im => Sys2Proof.Machine.execFes full b im s
  | .lrq a b im => Sys2Proof.Machine.execLrq a b im s
  | .scq a b im => Sys2Proof.Machine.execScq a b im s
  | .amo op a b c m xs uns => Sys2Proof.Machine.execAmo op a b c m xs uns s
  | .amofAdd a b c xs => Sys2Proof.Machine.execAmofAdd a b c xs s
  | .amoxAdd a b xs => Sys2Proof.Machine.execAmoxAdd a b xs s
  | .amoxAddI a b xs => Sys2Proof.Machine.execAmoxAddI a b xs s
  | .rupd a b im xs => Sys2Proof.Machine.execRupd a b im xs s
  | .chld a b c n => Sys2Proof.Machine.execChld a b c n s
  | .chldFail a b c n => Sys2Proof.Machine.execChldFail a b c n s
  | .ldext w a b im => Sys2Proof.Machine.execLdext w a b im s
  | .stext w a b im => Sys2Proof.Machine.execStext w a b im s
  | .ld sp w a b im => Sys2Proof.Machine.execLd sp w a b im s
  | .st sp w a b im => Sys2Proof.Machine.execSt sp w a b im s
  | .ldm w a b im => Sys2Proof.Machine.execLdm w a b im s
  | .stm w a b im => Sys2Proof.Machine.execStm w a b im s
  | .lbf => Sys2Proof.Machine.execLbf s
  | .rcfg n b => Sys2Proof.Machine.execRcfg n b s
  | .rpop a n => Sys2Proof.Machine.execRpop a n s
  | .rpopF n => Sys2Proof.Machine.execRpopF n s
  | .rpush a n => Sys2Proof.Machine.execRpush a n s
  | .rpushC n => Sys2Proof.Machine.execRpushC n s
  | .qcfg a b => Sys2Proof.Machine.execQcfg a b s
  | .qend a => Sys2Proof.Machine.execQend a s
  | .qendRet => Sys2Proof.Machine.execQendRet s
  | .evct a b c => Sys2Proof.Machine.execEvct a b c s
  | .rcll a b c => Sys2Proof.Machine.execRcll a b c s
  | .start a b im => Sys2Proof.Machine.execStart a b im s
  | .spawn a b im => Sys2Proof.Machine.execSpawn a b im s
  | .spawnReg a b c im => Sys2Proof.Machine.execSpawnReg a b c im s
  | .quit => Sys2Proof.Machine.execQuit s
  | .park a b => Sys2Proof.Machine.execPark a b s
  | .yield => Sys2Proof.Machine.execYield s
  | .sendm a b c => Sys2Proof.Machine.execSendm a b c s
  | .wfm a => Sys2Proof.Machine.execWfm a s
  | .migr a b => Sys2Proof.Machine.execMigr a b s
  | .gsig a b => Sys2Proof.Machine.execGsig a b s
  | .gsigRun a => Sys2Proof.Machine.execGsigRun a s
  | .rolq a b => Sys2Proof.Machine.execRolq a b s
  | .rolqImm a im => Sys2Proof.Machine.execRolqImm a im s
  | .vadd q p d b x => Sys2Proof.Machine.execVadd q p d b x s
  | .vsub q p d b x => Sys2Proof.Machine.execVsub q p d b x s
  | .vmul q p d b x => Sys2Proof.Machine.execVmul q p d b x s
  | .vfma q p d b x e => Sys2Proof.Machine.execVfma q p d b x e s
  | .vmin q p d b x => Sys2Proof.Machine.execVmin q p d b x s
  | .vmax q p d b x => Sys2Proof.Machine.execVmax q p d b x s
  | .vabs q p d b => Sys2Proof.Machine.execVabs q p d b s
  | .vneg q p d b => Sys2Proof.Machine.execVneg q p d b s
  | .vand p d b x => Sys2Proof.Machine.execVand p d b x s
  | .vor p d b x => Sys2Proof.Machine.execVor p d b x s
  | .vxor p d b x => Sys2Proof.Machine.execVxor p d b x s
  | .vnot p d b => Sys2Proof.Machine.execVnot p d b s
  | .vshl p d b x => Sys2Proof.Machine.execVshl p d b x s
  | .vshr p d b x => Sys2Proof.Machine.execVshr p d b x s
  | .vsra p d b x => Sys2Proof.Machine.execVsra p d b x s
  | .vmov p d b => Sys2Proof.Machine.execVmov p d b s
  | .vcmp cc t u p d b x => Sys2Proof.Machine.execVcmp cc t u p d b x s
  | .vsel p d b x => Sys2Proof.Machine.execVsel p d b x s
  | .vrsum q d p b => Sys2Proof.Machine.execVrsum q d p b s
  | .vrmax q d p b => Sys2Proof.Machine.execVrmax q d p b s
  | .vrmin q d p b => Sys2Proof.Machine.execVrmin q d p b s
  | .vperm p d b c => Sys2Proof.Machine.execVperm p d b c s
  | .vbcst p d b => Sys2Proof.Machine.execVbcst p d b s
  | .vext d b n => Sys2Proof.Machine.execVext d b n s
  | .vins d b n => Sys2Proof.Machine.execVins d b n s
  | .vcvt rm sat p d b df du sf su => Sys2Proof.Machine.execVcvt rm sat p d b df du sf su s
  | .vquant t m d b c => Sys2Proof.Machine.execVquant t m d b c s
  | .vdeq t m d b c => Sys2Proof.Machine.execVdeq t m d b c s
  | .vscale t m d b => Sys2Proof.Machine.execVscale t m d b s
  | .vcmpr d b c => Sys2Proof.Machine.execVcmpr d b c s
  | .vexpd d b c => Sys2Proof.Machine.execVexpd d b c s
  | .vexp2 t sat p d b => Sys2Proof.Machine.execVexp2 t sat p d b s
  | .vlog2 t sat p d b => Sys2Proof.Machine.execVlog2 t sat p d b s
  | .vrcp t sat p d b => Sys2Proof.Machine.execVrcp t sat p d b s
  | .vrsqrt t sat p d b => Sys2Proof.Machine.execVrsqrt t sat p d b s
  | .vtanh t sat p d b => Sys2Proof.Machine.execVtanh t sat p d b s
  | .vld sp w u p d b im => Sys2Proof.Machine.execVld sp w u p d b im s
  | .vst sp w p d b im => Sys2Proof.Machine.execVst sp w p d b im s
  | .pset d b => Sys2Proof.Machine.execPset d b s
  | .pget d b => Sys2Proof.Machine.execPget d b s
  | .mxfmt d b => Sys2Proof.Machine.execMxfmt d b s
  | .mxz a b => Sys2Proof.Machine.execMxz a b s
  | .mxm a b => Sys2Proof.Machine.execMxm a b s
  | .mxms a b c => Sys2Proof.Machine.execMxms a b c s
  | .mxg a b => Sys2Proof.Machine.execMxg a b s
  | .mxdrn a b => Sys2Proof.Machine.execMxdrn a b s
  | .mxcnt d b => Sys2Proof.Machine.execMxcnt d b s
  | .mxthr d b => Sys2Proof.Machine.execMxthr d b s
  | .jwait d b => Sys2Proof.Machine.execJwait d b s
  | .jtest d b => Sys2Proof.Machine.execJtest d b s
  | .jcanc d b => Sys2Proof.Machine.execJcanc d b s
  | .cpy a b => Sys2Proof.Machine.execCpy a b s
  | .cpyo a b => Sys2Proof.Machine.execCpyo a b s
  | .mint a b => Sys2Proof.Machine.execMint a b s
  | .mintT a b => Sys2Proof.Machine.execMintT a b s
  | .sopen x b => Sys2Proof.Machine.execSopen x b s
  | .sisect x y => Sys2Proof.Machine.execSisect x y s
  | .sunion x y => Sys2Proof.Machine.execSunion x y s
  | .sdiff x y => Sys2Proof.Machine.execSdiff x y s
  | .smerge x mask => Sys2Proof.Machine.execSmerge x mask s
  | .snext d x => Sys2Proof.Machine.execSnext d x s
  | .scnt d x => Sys2Proof.Machine.execScnt d x s
  | .scntA d x c => Sys2Proof.Machine.execScntA d x c s
  | .sclose d x => Sys2Proof.Machine.execSclose d x s
  | .ldnn d b => Sys2Proof.Machine.execLdnn d b s
  | .stv d b c => Sys2Proof.Machine.execStv d b c s
  | .dlv d b c => Sys2Proof.Machine.execDlv d b c s
  | .ixver d b => Sys2Proof.Machine.execIxver d b s
  | .ixsnap d b => Sys2Proof.Machine.execIxsnap d b s
  | .fence xs => Sys2Proof.Machine.execFence xs s
  | .barv d b => Sys2Proof.Machine.execBarv d b s
  | .barw d b => Sys2Proof.Machine.execBarw d b s
  | .barwT d b => Sys2Proof.Machine.execBarwT d b s
  | .bart d b c => Sys2Proof.Machine.execBart d b c s
  | .sealq d => Sys2Proof.Machine.execSealq d s
  | .sealw d => Sys2Proof.Machine.execSealw d s
  | .ivn d => Sys2Proof.Machine.execIvn d s
  | .ivnRb d => Sys2Proof.Machine.execIvnRb d s
  | .csrr d im => Sys2Proof.Machine.execCsrr d im s
  | .csrw a im => Sys2Proof.Machine.execCsrw a im s
  | .csrs a im => Sys2Proof.Machine.execCsrs a im s
  | .csrc a im => Sys2Proof.Machine.execCsrc a im s
  | .tret => Sys2Proof.Machine.execTret s
  | .dbgi a b c => Sys2Proof.Machine.execDbgi a b c s
  | .tlbw a b c => Sys2Proof.Machine.execTlbw a b c s
  | .tlbi a b c => Sys2Proof.Machine.execTlbi a b c s
  | .tlbiAll a c => Sys2Proof.Machine.execTlbiAll a c s
  | .tlbp d b => Sys2Proof.Machine.execTlbp d b s
  | .dbq => Sys2Proof.Machine.execDbq s
  | .launchRecord => Sys2Proof.Machine.execLaunchRecord s
  | .admission => Sys2Proof.Machine.execAdmission s
  | .launchStart => Sys2Proof.Machine.execLaunchStart s
  | .runRequest => Sys2Proof.Machine.execRunRequest s
  | .armInstance => Sys2Proof.Machine.execArmInstance s
  | .completionSignal => Sys2Proof.Machine.execCompletionSignal s
  | .arborDispatch => Sys2Proof.Machine.execArborDispatch s
  | .place => Sys2Proof.Machine.execPlace s
  | .reply => Sys2Proof.Machine.execReply s
  | .mailboxMessage => Sys2Proof.Machine.execMailboxMessage s
  | .wakeMessage => Sys2Proof.Machine.execWakeMessage s
  | .xlatMessage => Sys2Proof.Machine.execXlatMessage s
  | .shootMessage => Sys2Proof.Machine.execShootMessage s
  | .recallMessage => Sys2Proof.Machine.execRecallMessage s
  | .sysMessage => Sys2Proof.Machine.execSysMessage s
  | .drainAck => Sys2Proof.Machine.execDrainAck s
  | .retireForwarding => Sys2Proof.Machine.execRetireForwarding s
  | .parkTimeout => Sys2Proof.Machine.execParkTimeout s
  | .contextShipment => Sys2Proof.Machine.execContextShipment s
  | .freeMessage => Sys2Proof.Machine.execFreeMessage s
  | .lineFill => Sys2Proof.Machine.execLineFill s
  | .storeBufferInject => Sys2Proof.Machine.execStoreBufferInject s
  | .tauStore => Sys2Proof.Machine.execTauStore s
  | .storeAck => Sys2Proof.Machine.execStoreAck s
  | .tauRead => Sys2Proof.Machine.execTauRead s
  | .feRequest => Sys2Proof.Machine.execFeRequest s
  | .fetmoTimeout => Sys2Proof.Machine.execFetmoTimeout s
  | .lrqRequest => Sys2Proof.Machine.execLrqRequest s
  | .scqRequest => Sys2Proof.Machine.execScqRequest s
  | .amoRequest => Sys2Proof.Machine.execAmoRequest s
  | .amofRequest => Sys2Proof.Machine.execAmofRequest s
  | .amoxRequest => Sys2Proof.Machine.execAmoxRequest s
  | .update => Sys2Proof.Machine.execUpdate s
  | .updateAck => Sys2Proof.Machine.execUpdateAck s
  | .chldStep => Sys2Proof.Machine.execChldStep s
  | .escrowAccept => Sys2Proof.Machine.execEscrowAccept s
  | .escrowLinkAccept => Sys2Proof.Machine.execEscrowLinkAccept s
  | .mWrite => Sys2Proof.Machine.execMWrite s
  | .mRead => Sys2Proof.Machine.execMRead s
  | .queueTransfer => Sys2Proof.Machine.execQueueTransfer s
  | .copyJob => Sys2Proof.Machine.execCopyJob s
  | .copyoJob => Sys2Proof.Machine.execCopyoJob s
  | .mintJob => Sys2Proof.Machine.execMintJob s
  | .mintTableJob => Sys2Proof.Machine.execMintTableJob s
  | .tlbwInstall => Sys2Proof.Machine.execTlbwInstall s
  | .mxmJob => Sys2Proof.Machine.execMxmJob s
  | .mxmsJob => Sys2Proof.Machine.execMxmsJob s
  | .mxgJob => Sys2Proof.Machine.execMxgJob s
  | .mxdrnJob => Sys2Proof.Machine.execMxdrnJob s
  | .mxzJob => Sys2Proof.Machine.execMxzJob s
  | .streamRead => Sys2Proof.Machine.execStreamRead s
  | .mergeStep => Sys2Proof.Machine.execMergeStep s
  | .ldnnAccept => Sys2Proof.Machine.execLdnnAccept s
  | .stvAccept => Sys2Proof.Machine.execStvAccept s
  | .dlvAccept => Sys2Proof.Machine.execDlvAccept s
  | .ixverAccept => Sys2Proof.Machine.execIxverAccept s
  | .ixsnapAccept => Sys2Proof.Machine.execIxsnapAccept s
  | .candidateExpansion => Sys2Proof.Machine.execCandidateExpansion s
  | .publish => Sys2Proof.Machine.execPublish s
  | .groveReply => Sys2Proof.Machine.execGroveReply s
  | .arrive => Sys2Proof.Machine.execArrive s
  | .barwRequest => Sys2Proof.Machine.execBarwRequest s
  | .sealTimer => Sys2Proof.Machine.execSealTimer s
  | .sealRequest => Sys2Proof.Machine.execSealRequest s
  | .prep => Sys2Proof.Machine.execPrep s
  | .save => Sys2Proof.Machine.execSave s
  | .saved => Sys2Proof.Machine.execSaved s
  | .commit => Sys2Proof.Machine.execCommit s
  | .rollbackTrigger => Sys2Proof.Machine.execRollbackTrigger s
  | .rollback => Sys2Proof.Machine.execRollback s
  | .stampSweep => Sys2Proof.Machine.execStampSweep s
  | .preemption => Sys2Proof.Machine.execPreemption s
  | .contextStreamComplete => Sys2Proof.Machine.execContextStreamComplete s
  | .readmission => Sys2Proof.Machine.execReadmission s
  | .retirement => Sys2Proof.Machine.execRetirement s
  | .wdkick => Sys2Proof.Machine.execWdkick s
  | .kickTimeout => Sys2Proof.Machine.execKickTimeout s
  | .coreHang => Sys2Proof.Machine.execCoreHang s
  | .sealHang => Sys2Proof.Machine.execSealHang s
  | .retrainChannel => Sys2Proof.Machine.execRetrainChannel s
  | .repairLane => Sys2Proof.Machine.execRepairLane s
  | .hcmdComplete => Sys2Proof.Machine.execHcmdComplete s
  | .marginUpdate => Sys2Proof.Machine.execMarginUpdate s
  | .refresh => Sys2Proof.Machine.execRefresh s
  | .scrubVisit => Sys2Proof.Machine.execScrubVisit s
  | .selfRefreshEntry => Sys2Proof.Machine.execSelfRefreshEntry s
  | .patdataWrite => Sys2Proof.Machine.execPatdataWrite s
  | .createQueue => Sys2Proof.Machine.execCreateQueue s
  | .removeQueue => Sys2Proof.Machine.execRemoveQueue s
  | .setWindow => Sys2Proof.Machine.execSetWindow s
  | .assignFrames => Sys2Proof.Machine.execAssignFrames s
  | .releaseFrames => Sys2Proof.Machine.execReleaseFrames s
  | .switchOut => Sys2Proof.Machine.execSwitchOut s
  | .switchIn => Sys2Proof.Machine.execSwitchIn s
  | .moveRole => Sys2Proof.Machine.execMoveRole s
  | .readMapping => Sys2Proof.Machine.execReadMapping s
  | .hostMemRead => Sys2Proof.Machine.execHostMemRead s
  | .hostMemWrite => Sys2Proof.Machine.execHostMemWrite s
  | .verifyAndStart => Sys2Proof.Machine.execVerifyAndStart s
  | .verifyAndSwap => Sys2Proof.Machine.execVerifyAndSwap s
  | .firmwareVerification => Sys2Proof.Machine.execFirmwareVerification s
  | .queueSafePoint => Sys2Proof.Machine.execQueueSafePoint s
  | .reset => Sys2Proof.Machine.execReset s
  | .getMeasurements => Sys2Proof.Machine.execGetMeasurements s
  | .lock => Sys2Proof.Machine.execLock s
  | .startRequest => Sys2Proof.Machine.execStartRequest s
  | .stop => Sys2Proof.Machine.execStop s
  | .getDeviceInterfaceReport => Sys2Proof.Machine.execGetDeviceInterfaceReport s
  | .vfConfigWrite => Sys2Proof.Machine.execVfConfigWrite s
  | .dxsys => Sys2Proof.Machine.execDxsys s
  | .registerWrite => Sys2Proof.Machine.execRegisterWrite s
  | .frame => Sys2Proof.Machine.execFrame s
  | .linkDown => Sys2Proof.Machine.execLinkDown s
  | .portBringUp => Sys2Proof.Machine.execPortBringUp s
  | .rekey => Sys2Proof.Machine.execRekey s
  | .routingTableLoad => Sys2Proof.Machine.execRoutingTableLoad s
  | .activate => Sys2Proof.Machine.execActivate s
  | .drain => Sys2Proof.Machine.execDrain s
  | .retire => Sys2Proof.Machine.execRetire s
  | .join => Sys2Proof.Machine.execJoin s
  | .capperWindow => Sys2Proof.Machine.execCapperWindow s
  | .thermalTrip => Sys2Proof.Machine.execThermalTrip s
  | .ageingMonitorUpdate => Sys2Proof.Machine.execAgeingMonitorUpdate s
  | .replan => Sys2Proof.Machine.execReplan s
  | .illegalInstruction => Sys2Proof.Machine.execIllegalInstruction s
  | .corePowerGating => Sys2Proof.Machine.execCorePowerGating s
  | .powerDown => Sys2Proof.Machine.execPowerDown s
  | .temperatureReading => Sys2Proof.Machine.execTemperatureReading s
  | .unknownAdminOpcode => Sys2Proof.Machine.execUnknownAdminOpcode s
  | .spdmRequest => Sys2Proof.Machine.execSpdmRequest s

end Sys2Proof.Machine
end

