-- ==== Sys2Proof/Machine/Riscv.lean ====
section
/-!
DEFINITION. The instructions of the command processors: RV64GC, that is I, M, A, F, D, C, Zicsr and Zifencei, as the architecture that
R358 names gives them (log entry 61). A turn of the agenda lets one processor execute one instruction.
-/
namespace Sys2Proof.Machine
open Sys2Proof

/-! ## Fields -/

/-- Bits `hi` to `lo` of an instruction. -/
def rvBits (w hi lo : Nat) : Nat := w / 2 ^ lo % 2 ^ (hi + 1 - lo)
/-- The low `n` bits of a number as a signed word. -/
def signed (n x : Nat) : Word := (BitVec.ofNat n x).signExtend 64
def immI (w : Nat) : Word := signed 12 (w / 2 ^ 20)
def immS (w : Nat) : Word := signed 12 (rvBits w 31 25 * 32 + rvBits w 11 7)
def immB (w : Nat) : Word :=
  signed 13 (rvBits w 31 31 * 2 ^ 12 + rvBits w 7 7 * 2 ^ 11 + rvBits w 30 25 * 32 + rvBits w 11 8 * 2)
def immU (w : Nat) : Word := signed 32 (rvBits w 31 12 * 2 ^ 12)
def immJ (w : Nat) : Word :=
  signed 21 (rvBits w 31 31 * 2 ^ 20 + rvBits w 19 12 * 2 ^ 12 + rvBits w 20 20 * 2 ^ 11 + rvBits w 30 21 * 2)

/-! ## Compressed instructions -/

def encI (imm rs1 f3 rd op : Nat) : Nat := imm % 2 ^ 12 * 2 ^ 20 + rs1 * 2 ^ 15 + f3 * 2 ^ 12 + rd * 2 ^ 7 + op
def encR (f7 rs2 rs1 f3 rd op : Nat) : Nat := encI (f7 * 32 + rs2) rs1 f3 rd op
def encS (imm rs2 rs1 f3 op : Nat) : Nat := encR (rvBits imm 11 5) rs2 rs1 f3 (imm % 32) op
/-- The low `n` bits of a signed immediate of `m` bits. -/
def widen (m n x : Nat) : Nat := if x.testBit (m - 1) then x + (2 ^ n - 2 ^ m) else x
def encB (imm rs1 f3 : Nat) : Nat :=
  encR (rvBits imm 12 12 * 64 + rvBits imm 10 5) 0 rs1 f3 (rvBits imm 4 1 * 2 + rvBits imm 11 11) 0x63
def encJ (imm rd : Nat) : Nat :=
  rvBits imm 20 20 * 2 ^ 31 + rvBits imm 10 1 * 2 ^ 21 + rvBits imm 11 11 * 2 ^ 20 + rvBits imm 19 12 * 2 ^ 12 + rd * 2 ^ 7 + 0x6F
/-- Quadrant 0: the addresses of the stack, loads and stores. -/
def expand0 (w : Nat) : Option Nat :=
  let rd := 8 + rvBits w 4 2
  let rs := 8 + rvBits w 9 7
  let d := rvBits w 12 10 * 8 + rvBits w 6 5 * 64
  let h := rvBits w 12 10 * 8 + rvBits w 6 6 * 4 + rvBits w 5 5 * 64
  match w / 2 ^ 13 with
  | 0 =>
    let imm := rvBits w 12 11 * 16 + rvBits w 10 7 * 64 + rvBits w 6 6 * 4 + rvBits w 5 5 * 8
    if imm = 0 then none else some (encI imm 2 0 rd 0x13)
  | 1 => some (encI d rs 3 rd 0x07)
  | 2 => some (encI h rs 2 rd 0x03)
  | 3 => some (encI d rs 3 rd 0x03)
  | 5 => some (encS d rd rs 3 0x27)
  | 6 => some (encS h rd rs 2 0x23)
  | 7 => some (encS d rd rs 3 0x23)
  | _ => none
/-- Quadrant 1: arithmetic, jumps and branches. -/
def expand1 (w : Nat) : Option Nat :=
  let rd := rvBits w 11 7
  let rc := 8 + rvBits w 9 7
  let rt := 8 + rvBits w 4 2
  let raw := rvBits w 12 12 * 32 + rvBits w 6 2
  let imm := widen 6 12 raw
  let far := rvBits w 12 12 * 256 + rvBits w 11 10 * 8 + rvBits w 6 5 * 64 + rvBits w 4 3 * 2 + rvBits w 2 2 * 32
  match w / 2 ^ 13 with
  | 0 => some (encI imm rd 0 rd 0x13)
  | 1 => if rd = 0 then none else some (encI imm rd 0 rd 0x1B)
  | 2 => some (encI imm 0 0 rd 0x13)
  | 3 =>
    if raw = 0 then none
    else if rd = 2 then
      let x := rvBits w 12 12 * 512 + rvBits w 6 6 * 16 + rvBits w 5 5 * 64 + rvBits w 4 3 * 128 + rvBits w 2 2 * 32
      some (encI (widen 10 12 x) 2 0 2 0x13)
    else some (widen 6 20 raw * 2 ^ 12 + rd * 2 ^ 7 + 0x37)
  | 4 => match rvBits w 11 10 with
    | 0 => some (encI raw rc 5 rc 0x13)
    | 1 => some (encI (raw + 0x400) rc 5 rc 0x13)
    | 2 => some (encI imm rc 7 rc 0x13)
    | _ => match rvBits w 12 12, rvBits w 6 5 with
      | 0, 0 => some (encR 0x20 rt rc 0 rc 0x33)
      | 0, 1 => some (encR 0 rt rc 4 rc 0x33)
      | 0, 2 => some (encR 0 rt rc 6 rc 0x33)
      | 0, _ => some (encR 0 rt rc 7 rc 0x33)
      | _, 0 => some (encR 0x20 rt rc 0 rc 0x3B)
      | _, 1 => some (encR 0 rt rc 0 rc 0x3B)
      | _, _ => none
  | 5 =>
    let x := rvBits w 12 12 * 2 ^ 11 + rvBits w 11 11 * 16 + rvBits w 10 9 * 256 + rvBits w 8 8 * 1024 + rvBits w 7 7 * 64
      + rvBits w 6 6 * 128 + rvBits w 5 3 * 2 + rvBits w 2 2 * 32
    some (encJ (widen 12 21 x) 0)
  | 6 => some (encB (widen 9 13 far) rc 0)
  | _ => some (encB (widen 9 13 far) rc 1)
/-- Quadrant 2: the stack, moves and register jumps. -/
def expand2 (w : Nat) : Option Nat :=
  let rd := rvBits w 11 7
  let rt := rvBits w 6 2
  let ld := rvBits w 12 12 * 32 + rvBits w 6 5 * 8 + rvBits w 4 2 * 64
  let lw := rvBits w 12 12 * 32 + rvBits w 6 4 * 4 + rvBits w 3 2 * 64
  let sd := rvBits w 12 10 * 8 + rvBits w 9 7 * 64
  let sw := rvBits w 12 9 * 4 + rvBits w 8 7 * 64
  match w / 2 ^ 13 with
  | 0 => some (encI (rvBits w 12 12 * 32 + rt) rd 1 rd 0x13)
  | 1 => some (encI ld 2 3 rd 0x07)
  | 2 => if rd = 0 then none else some (encI lw 2 2 rd 0x03)
  | 3 => if rd = 0 then none else some (encI ld 2 3 rd 0x03)
  | 4 =>
    if rvBits w 12 12 = 0 then
      if rt ≠ 0 then some (encR 0 rt 0 0 rd 0x33) else if rd = 0 then none else some (encI 0 rd 0 0 0x67)
    else if rt ≠ 0 then some (encR 0 rt rd 0 rd 0x33)
    else if rd = 0 then some 0x00100073 else some (encI 0 rd 0 1 0x67)
  | 5 => some (encS sd rt 2 3 0x27)
  | 6 => some (encS sw rt 2 2 0x23)
  | _ => some (encS sd rt 2 3 0x23)
/-- The instruction of 32 bits that a compressed one stands for. -/
def expandC (w : Nat) : Option Nat :=
  match w % 4 with
  | 0 => expand0 w
  | 1 => expand1 w
  | _ => expand2 w

/-! ## Integer operations -/

/-- The operations of OP and OP-IMM. -/
def rvAlu (f3 : Nat) (alt : Bool) (x y : Word) : Word :=
  match f3 with
  | 0 => if alt then x - y else x + y
  | 1 => opSll x y
  | 2 => opSlt x y
  | 3 => opSltu x y
  | 4 => x ^^^ y
  | 5 => if alt then opSra x y else opSrl x y
  | 6 => x ||| y
  | _ => x &&& y
/-- The operations of M. -/
def rvMul (f3 : Nat) (x y : Word) : Word :=
  match f3 with
  | 0 => x * y
  | 1 => opMulh x y
  | 2 => BitVec.ofInt 64 (x.toInt * (y.toNat : Int) / 2 ^ 64)
  | 3 => opMulhu x y
  | 4 => opDiv x y
  | 5 => opDivu x y
  | 6 => opRem x y
  | _ => opRemu x y
def sext32 (x : Word) : Word := signed 32 x.toNat
def zext32 (x : Word) : Word := x &&& 0xFFFFFFFF
/-- The operations on 32 bits. -/
def rvAluW (f3 : Nat) (alt : Bool) (x y : Word) : Word :=
  let y := if f3 = 0 then y else y &&& 31
  sext32 (rvAlu f3 alt (if f3 = 5 then (if alt then sext32 x else zext32 x) else x) y)
def rvMulW (f3 : Nat) (x y : Word) : Word :=
  let ext (x : Word) : Word := if f3 % 2 = 1 then zext32 x else sext32 x
  sext32 (rvMul f3 (ext x) (ext y))
/-- The new value of an atomic, by its number. -/
def rvAmo (op : Nat) (old x : Word) : Option Word :=
  match op with
  | 0 => some (old + x)
  | 1 => some x
  | 4 => some (old ^^^ x)
  | 8 => some (old ||| x)
  | 12 => some (old &&& x)
  | 16 => some (if old.slt x then old else x)
  | 20 => some (if old.slt x then x else old)
  | 24 => some (if old.ult x then old else x)
  | 28 => some (if old.ult x then x else old)
  | _ => none
def rvTakes (f3 : Nat) (x y : Word) : Option Bool :=
  match f3 with
  | 0 => some (x == y)
  | 1 => some (x != y)
  | 4 => some (x.slt y)
  | 5 => some (!x.slt y)
  | 6 => some (x.ult y)
  | 7 => some (!x.ult y)
  | _ => none

/-! ## Floating point -/

def fp64 : Fmt := ⟨11, 52⟩
def rvFmt (d : Bool) : Fmt := if d then fp64 else fp32
/-- `n / d` of a value of sign `neg`, rounded to a whole number in one of the five modes. -/
def rvRoundDiv (rm : Nat) (neg : Bool) (n d : Nat) : Nat :=
  let q := n / d
  let r := n % d
  let up : Bool := match rm with
    | 0 => decide (d < 2 * r) || (2 * r == d && q % 2 == 1)
    | 1 => false
    | 2 => neg && r != 0
    | 3 => !neg && r != 0
    | _ => decide (d ≤ 2 * r) && r != 0
  if up then q + 1 else q
/-- `m × 2^e` as a multiple of 2^q, and whether that is inexact. -/
def rvScale (rm : Nat) (neg : Bool) (m : Nat) (e q : Int) : Nat × Bool :=
  if q ≤ e then (m * 2 ^ (e - q).toNat, false)
  else let d := 2 ^ (q - e).toNat; (rvRoundDiv rm neg m d, m % d != 0)
/-- A value in a format, with the flags inexact (1), underflow (2) and overflow (4); tininess is found after rounding. -/
def rvRound (f : Fmt) (rm : Nat) : Val → Nat × Nat
  | .nan => (nanBits f, 0)
  | .inf neg => (infBits f neg, 0)
  | .fin neg m e =>
    if m = 0 then (signBits f neg, 0)
    else
      let top : Int := e + (Nat.log2 m : Int)
      let q : Int := max top f.emin - (f.fb : Int)
      let (n, nx) := rvScale rm neg m e q
      let b := (q - (f.emin - (f.fb : Int))).toNat * 2 ^ f.fb + n
      if (2 ^ f.eb - 1) * 2 ^ f.fb ≤ b then
        ((match rm with
          | 1 => maxBits f neg
          | 2 => if neg then infBits f neg else maxBits f neg
          | 3 => if neg then maxBits f neg else infBits f neg
          | _ => infBits f neg), 5)
      else
        let carries := decide (2 ^ (f.fb + 1) ≤ (rvScale rm neg m e (top - (f.fb : Int))).1)
        let tiny := decide (top + (if carries then 1 else 0) < f.emin)
        (signBits f neg + b, if nx then (if tiny then 3 else 1) else 0)
/-- A pattern is a signalling NaN. -/
def isSnan (f : Fmt) (x : Nat) : Bool := isNan (decodeF f x) && !x.testBit (f.fb - 1)
/-- The result of an operation on some patterns: a NaN is the canonical one; where no operand is a quiet NaN, or one signals, the operation
is invalid (16). -/
def rvResult (f : Fmt) (rm : Nat) (from_ : Fmt) (ins : List Nat) (v : Val) : Nat × Nat :=
  if isNan v then (nanBits f, if ins.any (isSnan from_) || !ins.any (fun x => isNan (decodeF from_ x)) then 16 else 0)
  else rvRound f rm v
/-- A quotient to 119 bits and more, the rest in its last bit. -/
def divV : Val → Val → Val
  | .nan, _ => .nan
  | _, .nan => .nan
  | .inf _, .inf _ => .nan
  | .inf a, .fin n _ _ => .inf (a != n)
  | .fin n _ _, .inf b => .fin (n != b) 0 0
  | .fin n m e, .fin n' m' e' =>
    if m' = 0 then (if m = 0 then .nan else .inf (n != n'))
    else
      let k := 120 + Nat.log2 m'
      let x := m * 2 ^ k
      .fin (n != n') (if m = 0 then 0 else 2 * (x / m') + (if x % m' = 0 then 0 else 1)) (e - e' - (k : Int) - 1)
/-- The whole square root, from bit 95 down. -/
def isqrt (n : Nat) : Nat :=
  (List.range 96).reverse.foldl (fun a b => if (a + 2 ^ b) * (a + 2 ^ b) ≤ n then a + 2 ^ b else a) 0
def sqrtV : Val → Val
  | .nan => .nan
  | .inf neg => if neg then .nan else .inf false
  | .fin neg m e =>
    if m = 0 then .fin neg 0 0
    else if neg then .nan
    else
      let x := (if e % 2 = 0 then m else 2 * m) * 4 ^ 60
      let e := if e % 2 = 0 then e else e - 1
      let r := isqrt x
      .fin false (2 * r + (if r * r = x then 0 else 1)) (e / 2 - 61)
def zeroMode (rm : Nat) : Rnd := if rm = 2 then .rdn else .rne
def rvDiv (f : Fmt) (rm a b : Nat) : Nat × Nat :=
  let x := decodeF f a
  let y := decodeF f b
  let r := rvResult f rm f [a, b] (divV x y)
  match x with
  | .fin _ (_ + 1) _ => if isZero y then (r.1, 8) else r
  | _ => r
/-- a × b + c with one rounding; infinity times zero is invalid whatever c is. -/
def rvFma (f : Fmt) (rm a b c : Nat) (negP negC : Bool) : Nat × Nat :=
  let p := mulV (decodeF f a) (decodeF f b)
  let p' := if negP then negV p else p
  let z := decodeF f c
  let r := rvResult f rm f [a, b, c] (addV (zeroMode rm) p' (if negC then negV z else z))
  if isNan p && !isNan (decodeF f a) && !isNan (decodeF f b) then (r.1, 16) else r
def rvMinMax (f : Fmt) (big : Bool) (a b : Nat) : Nat × Nat :=
  let x := decodeF f a
  let y := decodeF f b
  let fl := if isSnan f a || isSnan f b then 16 else 0
  if isNan x && isNan y then (nanBits f, fl)
  else if isNan x then (b, fl) else if isNan y then (a, fl)
  else (if belowV x y != big then a else b, fl)
/-- Comparisons: fle, flt and feq. -/
def rvCompare (f : Fmt) (k a b : Nat) : Nat × Nat :=
  let x := decodeF f a
  let y := decodeF f b
  let bad := if k = 2 then isSnan f a || isSnan f b else isNan x || isNan y
  let yes := match k with
    | 0 => ltV x y || eqV x y
    | 1 => ltV x y
    | _ => eqV x y
  (if yes then 1 else 0, if bad then 16 else 0)
def rvClass (f : Fmt) (a : Nat) : Nat :=
  match decodeF f a with
  | .nan => if isSnan f a then 256 else 512
  | .inf neg => if neg then 1 else 128
  | .fin neg m _ =>
    if m = 0 then (if neg then 8 else 16)
    else if m < 2 ^ f.fb then (if neg then 4 else 32) else (if neg then 2 else 64)
/-- A value as an integer of 32 or 64 bits, sign-extended. -/
def rvToInt (rm : Nat) (n : Nat) (uns : Bool) (v : Val) : Word × Nat :=
  let out (x : Int) : Word := signed n (BitVec.ofInt 64 x).toNat
  match v with
  | .nan => (out (intMaxOf n uns), 16)
  | .inf neg => (out (if neg then intMinOf n uns else intMaxOf n uns), 16)
  | .fin neg m e =>
    let (k, nx) := rvScale rm neg m e 0
    let x : Int := if neg then -(k : Int) else k
    let (y, c) := clampInt n uns x
    (out y, if c then 16 else if nx then 1 else 0)
/-- A register as an operand: a single-precision one is boxed with ones. -/
def fpIn (d : Bool) (x : Word) : Nat :=
  if d then x.toNat else if x.toNat / 2 ^ 32 = 2 ^ 32 - 1 then x.toNat % 2 ^ 32 else nanBits fp32
def fpOut (d : Bool) (b : Nat) : Word := BitVec.ofNat 64 (if d then b else (2 ^ 32 - 1) * 2 ^ 32 + b)
/-- The rounding mode of an instruction, if it is one. -/
def rvMode (c : CpSt) (rm : Nat) : Option Nat :=
  let m := if rm = 7 then bits (cpCsr c 3) 7 5 else rm
  if m < 5 then some m else none

/-! ## The instructions -/

def cpX (s : State) (n r : Nat) : Word := if r = 0 then 0 else (cpSt s n).x.toList.getD r 0
def cpF (s : State) (n r : Nat) : Word := (cpSt s n).f.toList.getD r 0
def setX (s : State) (n r : Nat) (v : Word) : State :=
  if r = 0 then s else modCp s n (fun c => { c with x := c.x.setIfInBounds r v })
/-- A floating-point register is written, and flags are raised. -/
def setF (s : State) (n r : Nat) (v : Word) (flags : Nat) : State :=
  modCp s n (fun c => { setFcsr c (BitVec.ofNat 64 flags) (BitVec.ofNat 64 flags) with f := c.f.setIfInBounds r v })
def raise (s : State) (n flags : Nat) : State := modCp s n (fun c => setFcsr c (BitVec.ofNat 64 flags) (BitVec.ofNat 64 flags))
/-- How an instruction ends: done, with the pc that follows; not now; or in an exception. -/
abbrev CpEnd := CpRes Word
def illegalCp (s : State) : CpEnd := .trap s 2 0
def rvWidth (f3 : Nat) : Width :=
  match f3 % 4 with
  | 0 => .b
  | 1 => .h
  | 2 => .w
  | _ => .d
def rvLoad (s : State) (n w : Nat) (next : Word) : CpEnd :=
  let f3 := rvBits w 14 12
  if f3 = 7 then illegalCp s
  else cpThen (cpLoad s n (cpX s n (rvBits w 19 15) + immI w) (2 ^ (f3 % 4)) .load) fun s x =>
    .ok (setX s n (rvBits w 11 7) (if f3 < 4 then signed (8 * 2 ^ f3) x.toNat else x)) next
def rvStore (s : State) (n w : Nat) (next : Word) : CpEnd :=
  let f3 := rvBits w 14 12
  if 3 < f3 then illegalCp s
  else cpThen (cpStore s n (cpX s n (rvBits w 19 15) + immS w) (rvWidth f3) (cpX s n (rvBits w 24 20))) fun s _ => .ok s next
def rvFpLoad (s : State) (n w : Nat) (next : Word) : CpEnd :=
  let f3 := rvBits w 14 12
  if (f3 ≠ 2 ∧ f3 ≠ 3) ∨ fpOff (cpSt s n) then illegalCp s
  else cpThen (cpLoad s n (cpX s n (rvBits w 19 15) + immI w) (2 ^ f3) .load) fun s x =>
    .ok (setF s n (rvBits w 11 7) (fpOut (f3 == 3) x.toNat) 0) next
def rvFpStore (s : State) (n w : Nat) (next : Word) : CpEnd :=
  let f3 := rvBits w 14 12
  if (f3 ≠ 2 ∧ f3 ≠ 3) ∨ fpOff (cpSt s n) then illegalCp s
  else cpThen (cpStore s n (cpX s n (rvBits w 19 15) + immS w) (rvWidth f3) (cpF s n (rvBits w 24 20))) fun s _ => .ok s next
/-- OP-IMM and OP-IMM-32. -/
def rvImm (s : State) (n w : Nat) (half : Bool) (next : Word) : CpEnd :=
  let f3 := rvBits w 14 12
  let x := cpX s n (rvBits w 19 15)
  let up := if half then rvBits w 31 25 else rvBits w 31 26 * 2
  let alt := f3 == 5 && up == 0x20
  let shift := f3 == 1 || f3 == 5
  if (shift && up != 0 && !alt) || (half && !shift && f3 != 0) then illegalCp s
  else
    let y := if shift then BitVec.ofNat 64 (rvBits w 25 20) else immI w
    .ok (setX s n (rvBits w 11 7) (if half then rvAluW f3 alt x y else rvAlu f3 alt x y)) next
/-- OP and OP-32. -/
def rvOp (s : State) (n w : Nat) (half : Bool) (next : Word) : CpEnd :=
  let f3 := rvBits w 14 12
  let f7 := rvBits w 31 25
  let x := cpX s n (rvBits w 19 15)
  let y := cpX s n (rvBits w 24 20)
  let put (v : Word) : CpEnd := .ok (setX s n (rvBits w 11 7) v) next
  if f7 = 1 then
    if half then (if 1 ≤ f3 ∧ f3 ≤ 3 then illegalCp s else put (rvMulW f3 x y)) else put (rvMul f3 x y)
  else if f7 = 0 ∨ (f7 = 0x20 ∧ (f3 = 0 ∨ f3 = 5)) then
    if half then (if f3 = 0 ∨ f3 = 1 ∨ f3 = 5 then put (rvAluW f3 (f7 == 0x20) x y) else illegalCp s)
    else put (rvAlu f3 (f7 == 0x20) x y)
  else illegalCp s
/-- LR, SC and the atomics, on device memory only. -/
def rvAtomic (s : State) (n w : Nat) (next : Word) : CpEnd :=
  let f3 := rvBits w 14 12
  let op := rvBits w 31 27
  let rd := rvBits w 11 7
  let va := cpX s n (rvBits w 19 15)
  let y := cpX s n (rvBits w 24 20)
  let bytes := 2 ^ f3
  let acc : CpAcc := if op = 2 then .load else .store
  let ext (x : Word) : Word := if f3 = 2 then sext32 x else x
  if (f3 ≠ 2 ∧ f3 ≠ 3) ∨ (op = 2 ∧ rvBits w 24 20 ≠ 0) ∨ (op ≠ 2 ∧ op ≠ 3 ∧ (rvAmo op 0 0).isNone) then illegalCp s
  else if va.toNat % bytes ≠ 0 then .trap s acc.badAlign va
  else cpThen (cpAddress s n va bytes acc) fun s a =>
    if a < cpMemBase ∨ !paValid (a - cpMemBase) then .trap s acc.noAccess va
    else if op = 2 then
      cpThen (cpDevRead s (a - cpMemBase) bytes) fun s x =>
        .ok (setX (modCp s n (fun c => { c with resv := some (a, bytes, x) })) n rd (ext x)) next
    else if op = 3 then
      match (cpSt s n).resv with
      | some (a', b', x) =>
        if a' = a ∧ b' = bytes ∧ physRead s (a - cpMemBase) bytes = x then
          cpThen (cpStoreGo s n a (rvWidth f3) y va) fun s _ =>
            .ok (setX (modCp s n (fun c => { c with resv := none })) n rd 0) next
        else .ok (setX (modCp s n (fun c => { c with resv := none })) n rd 1) next
      | none => .ok (setX s n rd 1) next
    else if !pmpPasses (cpSt s n) .load (accMode (cpSt s n) .store) a bytes then .trap s 7 va
    else
      cpThen (cpDevRead s (a - cpMemBase) bytes) fun s x =>
        let (p, q) := if f3 = 3 then (x, y) else if 24 ≤ op then (zext32 x, zext32 y) else (sext32 x, sext32 y)
        cpThen (cpStoreGo s n a (rvWidth f3) ((rvAmo op p q).getD 0) va) fun s _ => .ok (setX s n rd (ext x)) next
/-- The CSR instructions. The count of instructions follows a write of it by one only for the next instruction. -/
def rvCsr (s : State) (n w : Nat) (next : Word) : CpEnd :=
  let f3 := rvBits w 14 12
  let csr := w / 2 ^ 20
  let rs := rvBits w 19 15
  let v := if 4 ≤ f3 then BitVec.ofNat 64 rs else cpX s n rs
  let writes := f3 % 4 == 1 || rs != 0
  let c := cpSt s n
  if !csrLegal c csr writes then illegalCp s
  else
    let old := csrRead s n csr
    let new := match f3 % 4 with
      | 1 => v
      | 2 => old ||| v
      | _ => old &&& ~~~v
    let new := if csr = 0xB02 ∧ !inhibited c 2 then new - 1 else new
    .ok (setX (if writes then cpCsrPut s n csr new else s) n (rvBits w 11 7) old) next
/-- SYSTEM. -/
def rvSystem (s : State) (n w : Nat) (next : Word) : CpEnd :=
  let c := cpSt s n
  let st := cpCsr c 0x300
  let goes (c' : CpSt) : CpEnd := .ok (modCp s n (fun _ => c')) c'.pc
  if rvBits w 14 12 = 4 then illegalCp s
  else if rvBits w 14 12 ≠ 0 then rvCsr s n w next
  else if w = 0x00000073 then .trap s (8 + c.mode) 0
  else if w = 0x00100073 then .trap s 3 c.pc
  else if w = 0x30200073 ∧ c.mode = 3 then goes (cpMret c)
  else if w = 0x10200073 ∧ 1 ≤ c.mode ∧ !(c.mode == 1 && st.getLsbD 22) then goes (cpSret c)
  else if w = 0x10500073 ∧ 1 ≤ c.mode ∧ !(c.mode == 1 && st.getLsbD 21) then .ok (modCp s n (fun c => { c with wfi := true })) next
  else if rvBits w 31 25 = 9 ∧ rvBits w 11 7 = 0 ∧ 1 ≤ c.mode ∧ !(c.mode == 1 && st.getLsbD 20) then .ok s next
  else illegalCp s
/-- The four fused multiply-adds. -/
def rvFused (s : State) (n w : Nat) (negP negC : Bool) (next : Word) : CpEnd :=
  let c := cpSt s n
  let d := rvBits w 26 25 == 1
  let x (r : Nat) : Nat := fpIn d (cpF s n r)
  match rvMode c (rvBits w 14 12) with
  | none => illegalCp s
  | some rm =>
    if 1 < rvBits w 26 25 ∨ fpOff c then illegalCp s
    else
      let (b, fl) := rvFma (rvFmt d) rm (x (rvBits w 19 15)) (x (rvBits w 24 20)) (x (rvBits w 31 27)) negP negC
      .ok (setF s n (rvBits w 11 7) (fpOut d b) fl) next
/-- OP-FP. -/
def rvFp (s : State) (n w : Nat) (next : Word) : CpEnd :=
  let c := cpSt s n
  let d := rvBits w 26 25 == 1
  let f := rvFmt d
  let rd := rvBits w 11 7
  let r2 := rvBits w 24 20
  let f3 := rvBits w 14 12
  let a := fpIn d (cpF s n (rvBits w 19 15))
  let b := fpIn d (cpF s n r2)
  let x := decodeF f a
  let y := decodeF f b
  let put (r : Nat × Nat) : CpEnd := .ok (setF s n rd (fpOut d r.1) r.2) next
  let int (v : Word) (fl : Nat) : CpEnd := .ok (raise (setX s n rd v) n fl) next
  let rounded (k : Nat → CpEnd) : CpEnd := match rvMode c f3 with
    | some rm => k rm
    | none => illegalCp s
  if 1 < rvBits w 26 25 ∨ fpOff c then illegalCp s
  else match rvBits w 31 27 with
    | 0 => rounded fun rm => put (rvResult f rm f [a, b] (addV (zeroMode rm) x y))
    | 1 => rounded fun rm => put (rvResult f rm f [a, b] (addV (zeroMode rm) x (negV y)))
    | 2 => rounded fun rm => put (rvResult f rm f [a, b] (mulV x y))
    | 3 => rounded fun rm => put (rvDiv f rm a b)
    | 11 => if r2 ≠ 0 then illegalCp s else rounded fun rm => put (rvResult f rm f [a] (sqrtV x))
    | 4 =>
      let neg := a / f.half % 2 == 1
      let negB := b / f.half % 2 == 1
      if 2 < f3 then illegalCp s
      else put (a % f.half + signBits f (match f3 with
        | 0 => negB
        | 1 => !negB
        | _ => neg != negB), 0)
    | 5 => if 1 < f3 then illegalCp s else put (rvMinMax f (f3 == 1) a b)
    | 8 =>
      if r2 ≠ (if d then 0 else 1) then illegalCp s
      else rounded fun rm =>
        let a' := fpIn (!d) (cpF s n (rvBits w 19 15))
        put (rvResult f rm (rvFmt !d) [a'] (decodeF (rvFmt !d) a'))
    | 20 => if 2 < f3 then illegalCp s else let r := rvCompare f f3 a b; int (BitVec.ofNat 64 r.1) r.2
    | 24 =>
      if 3 < r2 then illegalCp s
      else rounded fun rm => let r := rvToInt rm (if r2 < 2 then 32 else 64) (r2 % 2 == 1) x; int r.1 r.2
    | 26 =>
      if 3 < r2 then illegalCp s
      else rounded fun rm =>
        let g := cpX s n (rvBits w 19 15)
        put (rvRound f rm (ofInt (match r2 with
          | 0 => (sext32 g).toInt
          | 1 => ((zext32 g).toNat : Int)
          | 2 => g.toInt
          | _ => (g.toNat : Int))))
    | 28 =>
      if r2 ≠ 0 then illegalCp s
      else if f3 = 1 then int (BitVec.ofNat 64 (rvClass f a)) 0
      else if f3 = 0 then (let g := cpF s n (rvBits w 19 15); int (if d then g else sext32 g) 0)
      else illegalCp s
    | 30 =>
      if r2 ≠ 0 ∨ f3 ≠ 0 then illegalCp s
      else .ok (setF s n rd (let g := cpX s n (rvBits w 19 15); if d then g else fpOut false (g.toNat % 2 ^ 32)) 0) next
    | _ => illegalCp s
/-- An instruction of 32 bits, or what a compressed one stands for; `len` is its length in memory. -/
def rvExec (s : State) (n w len : Nat) : CpEnd :=
  let c := cpSt s n
  let next := c.pc + BitVec.ofNat 64 len
  let rd := rvBits w 11 7
  let x := cpX s n (rvBits w 19 15)
  match w % 128 with
  | 0x03 => rvLoad s n w next
  | 0x07 => rvFpLoad s n w next
  | 0x0F => if rvBits w 14 12 ≤ 1 then .ok s next else illegalCp s
  | 0x13 => rvImm s n w false next
  | 0x17 => .ok (setX s n rd (c.pc + immU w)) next
  | 0x1B => rvImm s n w true next
  | 0x23 => rvStore s n w next
  | 0x27 => rvFpStore s n w next
  | 0x2F => rvAtomic s n w next
  | 0x33 => rvOp s n w false next
  | 0x37 => .ok (setX s n rd (immU w)) next
  | 0x3B => rvOp s n w true next
  | 0x43 => rvFused s n w false false next
  | 0x47 => rvFused s n w false true next
  | 0x4B => rvFused s n w true false next
  | 0x4F => rvFused s n w true true next
  | 0x53 => rvFp s n w next
  | 0x63 => match rvTakes (rvBits w 14 12) x (cpX s n (rvBits w 24 20)) with
    | some t => .ok s (if t then c.pc + immB w else next)
    | none => illegalCp s
  | 0x67 => if rvBits w 14 12 = 0 then .ok (setX s n rd next) ((x + immI w) &&& ~~~(1 : Word)) else illegalCp s
  | 0x6F => .ok (setX s n rd next) (c.pc + immJ w)
  | 0x73 => rvSystem s n w next
  | _ => illegalCp s
/-- The instruction at the pc: a half word, and for one of 32 bits the next one. -/
def rvFetch (s : State) (n : Nat) : CpRes (Nat × Nat) :=
  let pc := (cpSt s n).pc
  cpThen (cpLoad s n pc 2 .fetch) fun s lo =>
    if lo.toNat % 4 = 3 then
      cpThen (cpLoad s n (pc + 2) 2 .fetch) fun s hi => .ok s (lo.toNat + 2 ^ 16 * hi.toNat, 4)
    else match expandC lo.toNat with
      | some w => .ok s (w, 2)
      | none => .trap s 2 0
/-- An instruction is complete: minstret counts it, and mhpmcounter3 to 6 count what their events count. -/
def retire (c : CpSt) (now : Nat) (pc : Word) : CpSt :=
  let c := if inhibited c 2 then c else setCpCsr c 0xB02 (cpCsr c 0xB02 + 1)
  let count (c : CpSt) (k : Nat) : CpSt :=
    if inhibited c k ∨ cpCsr c (0x320 + k) = 0 then c
    else setCpCsr c (0xB00 + k) (cpCsr c (0xB00 + k) + BitVec.ofNat 64 (Config.perfEvents (cpCsr c (0x320 + k)) now))
  { [3, 4, 5, 6].foldl count c with pc := pc }
/-- R358: command processor `n` takes an interrupt, waits for one, or executes the instruction at its pc. -/
def rvStep (s : State) (n : Nat) : State :=
  let c := cpSt s n
  match cpTakes c with
  | some c' => modCp s n (fun _ => c')
  | none =>
    if c.wfi ∧ mipOf c &&& cpCsr c 0x304 = 0 then s
    else
      let s := modCp s n (fun c => { c with wfi := false })
      match cpThen (rvFetch s n) (fun s e => rvExec s n e.1 e.2) with
      | .ok s pc => modCp s n (fun c => retire c s.cycle pc)
      | .wait s => s
      | .trap s cause tval => cpTrap s n cause tval

end Sys2Proof.Machine
end

