-- ==== Sys2Proof/Machine/Issue.lean ====
section
/-!
DEFINITION. What the module does next: the issue of an instruction (R87 to R95), line fills (R88), the messages in flight
and which of them may pass others, the work of the engines, of the command processor and of the timers, and the turns of
the agenda.
-/
namespace Sys2Proof.Machine
open Sys2Proof

/-! ## After every step -/

/-- R82: a `yield` no longer waits for a slot that has issued or ceased to be eligible; R93, R94: a thread whose condition has come
to hold is back in the rotation, in the next cycle; R147, R264: one whose drain is done goes on. -/
def settleThr (s : State) (c n : Nat) (t : Thread) : Thread :=
  let t := { t with yieldTo := t.yieldTo.filter (fun k => baseEligible s ⟨c, k⟩) }
  match t.wait with
  | .retry k => if causeGone s ⟨c, n⟩ t k then { t with wait := .again k, readyAt := max t.readyAt (s.cycle + 1) } else t
  | .drain d len =>
    if drained s ⟨c, n⟩ d then
      { t with pc := t.pc + BitVec.ofNat 64 (2 * len), wait := .none, readyAt := max t.readyAt (s.cycle + 1) }
    else t
  | _ => t
/-- R88, R93: the threads and instruction buffers of a core. -/
def settleCore (s : State) (e : Nat × Core) : Nat × Core :=
  (e.1, fetchCore e.1 { e.2 with slots := e.2.slots.map (fun t => (t.1, settleThr s e.1 t.1 t.2)) })
/-- R72, R181: the class messages and the misses that wait, and can go on. -/
def settleQueues (s : State) (c : Nat) : State :=
  let x := core s c
  let s := if x.missQ = [] then s else nextMiss s c
  (x.classQ.filter (fun q => q.2 != [])).foldl (fun s q => classNext s c q.1) s
/-- R92, R94, R373: threads issue: no seal is taken, and no table is awaited after a link was lost. -/
def issuing (s : State) : Bool := s.sl.phase == .open_ && !s.fab.hold
/-- R320: since when a core has an eligible slot. -/
def settleHang (s : State) (e : Nat × Core) : Nat × Core :=
  let any := issuing s && e.2.slots.any (fun t => eligible s ⟨e.1, t.1⟩)
  (e.1, { e.2 with eligAt := if any then some (e.2.eligAt.getD s.cycle) else none })
/-- What every step brings about besides its own effect. -/
def settleAll (s : State) : State :=
  let s := serveJobReqs { s with cores := s.cores.map (settleCore s) }
  let s := (s.cores.map (·.1)).foldl settleQueues s
  sendFrames { s with cores := s.cores.map (settleHang s) }
def settleOut : Out → Out
  | .next s => .next (settleAll s)
  | .fault f => .fault f
  | .refused r => .refused r

/-! ## Events -/

/-- The step of the opcode table that an event is handled by. -/
def fire (s : State) (e : Ev) : Out := settleOut (exec e.instr { s with ev := e })

/-- Events that another step or another module causes: the agenda cannot bring them about. -/
def isMessage : Ev → Bool
  | .runRequest .. | .completionSignal .. | .place .. | .reply .. | .mailboxMessage .. | .wakeMessage ..
  | .xlatMessage .. | .shootMessage .. | .recallMessage .. | .sysMessage .. | .drainAck .. | .retireForwarding ..
  | .contextShipment .. | .freeMessage .. | .lineFill .. | .tauStore .. | .storeAck .. | .tauRead .. | .feRequest ..
  | .lrqRequest .. | .scqRequest .. | .amoRequest .. | .amofRequest .. | .amoxRequest .. | .update .. | .updateAck ..
  | .chldStep .. | .escrowAccept .. | .mWrite .. | .mRead .. | .tlbwInstall .. | .ldnnAccept .. | .stvAccept ..
  | .dlvAccept .. | .ixverAccept .. | .ixsnapAccept .. | .groveReply .. | .arrive .. | .barwRequest ..
  | .sealRequest .. | .prep .. | .saved .. | .commit .. | .rollback .. | .preemption .. | .contextStreamComplete ..
  | .activate | .retire | .join .. | .packet .. | .routingTableLoad .. | .rekey _ false | .errClear _ | .firmwareVerification | .createQueue | .removeQueue | .setWindow | .assignFrames | .releaseFrames | .moveRole
  | .readMapping | .unknownAdminOpcode | .illegalInstruction .. | .switchIn => true
  | _ => false
/-- R289, R295: the events of the seal controller, which go on while a seal is saved. -/
def isControl : Ev → Bool
  | .sealTimer | .sealRequest .. | .prep .. | .save | .saved .. | .commit .. | .rollbackTrigger .. | .rollback .. => true
  | _ => false
/-- The work of the Arbor, of the engines and of the command processor, which stops for a seal. -/
def isWork : Ev → Bool
  | .launchRecord .. | .admission .. | .launchStart .. | .armInstance .. | .arborDispatch .. | .parkTimeout ..
  | .storeBufferInject .. | .fetmoTimeout .. | .queueTransfer .. | .copyJob .. | .copyoJob .. | .mintJob ..
  | .mintTableJob .. | .mxmJob .. | .mxmsJob .. | .mxgJob .. | .mxdrnJob .. | .mxzJob .. | .streamRead ..
  | .mergeStep .. | .candidateExpansion .. | .publish .. | .retirement .. | .readmission .. | .hcmdComplete ..
  | .switchOut => true
  | _ => false
/-- R158, R257, R347: the work that a prepare phase still waits for. -/
def inPrepare (s : State) : Ev → Bool
  | .storeBufferInject .. | .queueTransfer .. | .hcmdComplete .. => true
  | .candidateExpansion id => groveBusy s == some (.candidateExpansion id)
  | .publish n => groveBusy s == some (.publish n)
  | _ => false
/-- R359, R383: only running firmware takes records, admits, starts, retires and readmits launches, and re-plans. -/
def needsFirmware : Ev → Bool
  | .launchRecord .. | .admission .. | .launchStart .. | .retirement .. | .readmission .. | .replan .. => true
  | _ => false
/-- An event of the agenda that can happen in this state. -/
def mayHappen (s : State) (e : Ev) : Bool :=
  !isMessage e && (!needsFirmware e || s.fw.running)
    && (!isWork e || s.sl.phase == .open_ || (s.sl.phase == .prepare && inPrepare s e))

/-! ## Messages in flight -/

/-- R375: of an ordered message of another module: the module, and the units between which it passes. -/
def wayOf (e : Ev) : Option (Nat × Nat × Nat) :=
  let from_ (r : ReplyTo) (dest : Nat) : Option (Nat × Nat × Nat) := match r with
    | .away m tag => some (m, tag / 32, dest)
    | _ => none
  match e with
  | .place m => from_ m.rto m.dest
  | .mailboxMessage m => from_ m.rto m.dest
  | .update m => (match m.acks with
    | .away m' tag => some (m', tag / 32, m.teller)
    | .slot _ => none)
  | .contextShipment m => some (m.frm, m.unit, m.teller)
  | .arrive m => m.rto.bind (fun r => from_ r.1 (modBase + m.cluster))
  | .barwRequest m => from_ m.rto (modBase + m.cluster)
  | _ => none
/-- R136, R163, R289, R375: a message does not pass an earlier one of these: a store of the same core to the same word, a write of the
same thread to the same core, an event of the seal controller, an ordered packet of the same module, an ordered message of the same
units of two modules. -/
def keepsBehind (e d : Ev) : Bool :=
  match e, d with
  | .tauStore a, .tauStore b => a.core == b.core && a.pa / 8 == b.pa / 8
  | .mWrite a, .mWrite b => a.frm == b.frm && a.dest == b.dest
  | .mRead a, .mWrite b => b.frm.any (fun r => a.rto == .thr r) && a.dest == b.dest
  | .packet p, .packet q => p.src == q.src && p.cls == q.cls && p.cls != .adaptive
  | e, d => (isControl e && isControl d) || ((wayOf e).isSome && wayOf e == wayOf d)
/-- Message `n` of those in flight can be handled: it passes no message it may not pass, it would not only wait, and while
a seal is saved only the seal controller acts. -/
def canHandle (s : State) (n : Nat) : Bool :=
  match s.pending[n]? with
  | some e => !holds s e && !(s.pending.take n).any (keepsBehind e)
      && (isControl e || s.sl.phase == .open_ || s.sl.phase == .prepare)
  | none => false
/-- The oldest message that can be handled. -/
def readyMsg (s : State) : Option Nat := (List.range s.pending.length).find? (canHandle s)
/-- Message `n` is handled. -/
def handle (s : State) (n : Nat) : Out :=
  match s.pending[n]? with
  | some e => fire { s with pending := s.pending.eraseIdx n } e
  | none => .next s

/-! ## The work of the module -/

def sbReady (s : State) : Option Ev :=
  (s.cores.find? (fun e => e.2.sbuf.any (fun b => !b.sent))).map (fun e => .storeBufferInject e.1)
def queueReady (s : State) : Option Ev :=
  (s.cores.find? (fun e => canMove s e.1)).map (fun e => .queueTransfer e.1)
/-- R347: a sequence under way ends. -/
def stackReady (s : State) : Option Ev :=
  (s.stks.find? (fun e => e.2.busy && !e.2.deferd)).map (fun e => .hcmdComplete e.1)

/-- R347: while a channel is out of service, a job gets on only if it does not wait for it. -/
def gets (s : State) (cl : Nat) (e : Ev) : Bool :=
  s.stks.all (fun x => !x.2.busy || x.2.deferd) || match exec e.instr { s with ev := e } with
    | .next t => cluster t cl != cluster s cl
    | _ => true
/-- R168, R181, R287: the job at the head of a copy queue would get on. -/
def cpRuns (s : State) (cl : Nat) (j : CpJob) : Bool :=
  if cpHeld s j then false
  else if j.cancel then j.rem != some none
  else if !j.started then
    match jobRing j with
    | none => true
    | some n => let r := ring (core s j.core) n
      (ringReserve r .copy).isSome || !r.pushers.contains .copy
  else
    !cWaits s cl (copyTag cl) && j.rem != some none
      && !(j.kind == .cpyo && j.rem.isNone && (fget j.words 0).isSome && (match engTr s cl (j.desc.getD 1 0 + BitVec.ofNat 64 (8 * j.pos)) needW (copyTag cl) with
        | .pa pa => changeWaits s j.launch pa
        | _ => false))
def cpEvent (cl : Nat) : CpKind → Ev
  | .cpy => .copyJob cl
  | .cpyo => .copyoJob cl
  | .mint => .mintJob cl
  | .mintT => .mintTableJob cl
def copyReady (s : State) : Option Ev :=
  s.clusters.findSome? (fun e => match e.2.cpq with
    | j :: _ => if cpRuns s e.1 j && gets s e.1 (cpEvent e.1 j.kind) then some (cpEvent e.1 j.kind) else none
    | [] => none)
/-- R210: a job that may run and would get on. -/
def mxGoes (s : State) (cl : Nat) (j : MxJob) : Bool :=
  (mxRuns (cluster s cl).mxq j.id).isSome && !mxHeld s cl j && j.rem != some none
    && (j.cancel || !cWaits s cl (matrixTag cl (j.parts.headD 0)))
def mxEvent (cl id : Nat) : MxKind → Ev
  | .mxm => .mxmJob cl id
  | .mxms => .mxmsJob cl id
  | .mxg => .mxgJob cl id
  | .mxdrn => .mxdrnJob cl id
  | .mxz => .mxzJob cl id
def matrixReady (s : State) : Option Ev :=
  s.clusters.findSome? (fun e =>
    (e.2.mxq.find? (fun j => mxGoes s e.1 j && gets s e.1 (mxEvent e.1 j.id j.kind))).map (fun j => mxEvent e.1 j.id j.kind))
/-- R231. -/
def streamReady (s : State) : Option Ev :=
  s.cores.findSome? (fun e => (e.2.streams.find? (fun x => (streamReads s e.1 x.1).isSome)).map
    (fun x => .streamRead e.1 x.1))
/-- R248, R257, R287: a search would get on. -/
def searchGoes (s : State) (g : GSearch) : Bool :=
  !standsOut s g && match fget s.grove g.index with
    | none => true
    | some x => (if g.exact then exactStep x g else beamStep x g).isSome || match g.for_ with
      | .stv _ _ slot _ => !granulesStall s (entryGranules s g.index x slot)
      | .ldnn _ => true
/-- R234: the next head in turn. -/
def mergeReady (s : State) : Option Ev :=
  s.cores.findSome? (fun e => (mergeNext e.2).map (fun n => .mergeStep e.1 n))
def groveReady (s : State) : Option Ev :=
  match s.searches.find? (searchGoes s) with
  | some g => some (.candidateExpansion g.id)
  | none => (s.grove.find? (fun e => (canPublish s e.1 e.2).isSome)).map (fun e => .publish e.1)
/-- R65 to R69. -/
def arborReady (s : State) : Option Ev :=
  match s.launches.findSome? (fun e =>
    if e.2.stage == .running then (e.2.graphs.findIdx? canArm).map (fun g => Ev.armInstance e.1 g) else none) with
  | some e => some e
  | none => (arborNext s).map .arborDispatch
/-- R57 to R64, R312, R313, R324: the work of the command processor. -/
def cpReady (s : State) : Option Ev :=
  if !s.fw.running then none
  else match s.queues.find? (fun e => canTake s e.1 e.2) with
    | some e => some (.launchRecord e.1)
    | none => match s.launches.findSome? (fun e =>
        if canStart s e.2 || setupGoes s e.2 then some (Ev.launchStart e.1)
        else if canRetire s e.1 e.2 then some (.retirement e.1)
        else if canReadmit s e.1 then some (.readmission e.1)
        else if e.2.stage == .stopping && !e.2.frozen && admRuns s 6 && outReady s e.1 then some .switchOut
        else none) with
      | some e => some e
      | none => if canAdmit s then some (.admission ⟨0, none⟩) else none
/-- R366, R361: a STOP and a change of handlers that wait. -/
def hostReady (s : State) : Option Ev :=
  match (List.range 8).find? (fun d => (ifSt s d).stopping && ifQuiet s d) with
  | some d => some (.stop d)
  | none => if s.fw.instAt && handlersIdle s then some (.queueSafePoint s.fw.entries) else none
/-- R293: the head of an escrow that is released. -/
def escrowReady (s : State) : Option Ev :=
  (s.escrow.find? (fun e => (e.2.head?).any (released s))).map (fun e => .escrowLinkAccept e.1)

/-! ### Timers -/

/-- R82. -/
def parkReady (s : State) : Option Ev :=
  s.cores.findSome? (fun e => (e.2.slots.find? (fun t => parkOver s ⟨e.1, t.1⟩)).map (fun t => .parkTimeout ⟨e.1, t.1⟩))
/-- R143. -/
def fetmoReady (s : State) : Option Ev :=
  let late (r : TauReq) (limit : Option Nat) (since : Nat) : Option TRef :=
    if overdue s limit since then toThread r.rto else none
  let w := s.waits.findSome? (fun e => e.2.findSome? (fun w => match w with
    | .fe r _ _ _ limit since => late r limit since
    | .chain _ => none))
  let r := s.resvs.findSome? (fun e => e.2.tail.findSome? (fun x => late x.req x.limit x.since))
  (w.or r).map .fetmoTimeout
/-- R285: a pass of the sweep ends every 20,000,000 cycles, and sooner where the leader waits for it. -/
def sweepReady (s : State) : Option Ev :=
  if s.sl.passEnd + 20000000 ≤ s.cycle ∨ (s.sl.phase = .saved ∧ !sweepGate s) then some (.stampSweep granuleEnd) else none
/-- R319, R320. -/
def watchReady (s : State) : Option Ev :=
  if kickDue s then some .kickTimeout else if sealHangs s then some .sealHang else none
/-- R382: the monitor whose reading is due. -/
def monitorDue (s : State) : Option Nat :=
  (List.range 256).find? (fun k => monitorExists k && decide ((fget s.life.ageAt k).getD 0 + 2 ^ 20 ≤ s.cycle))
/-- R345: the next lane whose margin is due. -/
def marginReady (s : State) : Option Ev :=
  ((List.range 8).find? (marginDue s)).map (fun k =>
    let n := (stackSt s k).mgNext
    let m := Config.margin k (128 * (n / 76) + n % 76) s.cycle
    .marginUpdate k (n / 76) (n % 76) m.1 m.2)
/-- R25, R371, R374, R376, R382, R383: a window of the capper, a rekeying, a new table and the end of an old one, a reading of a monitor
and a re-plan that are due. -/
def periodReady (s : State) : Option Ev :=
  if windowDue s then
    let m := Config.capper s.cycle
    some (.capperWindow m.1 m.2.1 m.2.2)
  else if canDrain s then some .drain
  else if tableDue s then some (.routingTableLoad (buildTable s (nextGen s) s.fab.modnum))
  else if s.fw.running ∧ replanDue s then
    let m := Config.offsetNeeded s.cycle
    some (.replan m.1 m.2)
  else match monitorDue s with
  | some k => some (.ageingMonitorUpdate k (Config.reading k s.cycle))
  | none => (s.fab.ports.find? (fun e => rekeyDue s e.1)).map (fun e => .rekey e.1 true)
/-- R348: a visit of the scrubber. -/
def scrubReady (s : State) : Option Ev := ((List.range 512).find? (scrubDue s)).map (fun p => .scrubVisit p 0)
/-- R350. -/
def idleReady (s : State) : Option Ev := ((List.range 512).find? (canSelfRefresh s)).map .selfRefreshEntry
/-- R289: every part of the module is at its restart point. -/
def saveReady (s : State) : Option Ev :=
  match s.sl.phase with
  -- a thread of another module is told first that its chain is withdrawn here
  | .prepare => if quiet (restAll s) || (restAll s).fabOut != s.fabOut then some .save else none
  | .save => some .save
  | _ => none

/-- The first of some kinds of work that has something to do. -/
def firstOf (s : State) : List (State → Option Ev) → Option Ev
  | [] => none
  | f :: l => match f s with
    | some e => some e
    | none => firstOf s l
/-- What the module does of its own accord, by the phase of its seal controller. -/
def ownWork (s : State) : Option Ev :=
  match s.sl.phase with
  | .open_ => firstOf s [watchReady, sbReady, queueReady, stackReady, copyReady, matrixReady, streamReady, mergeReady,
      groveReady, cpReady, arborReady, hostReady, escrowReady, parkReady, fetmoReady,
      (fun s => if timerDue s then some .sealTimer else none), sweepReady, periodReady, marginReady]
  | .prepare => firstOf s [watchReady, sbReady, queueReady, stackReady, groveBusy, escrowReady, sweepReady, periodReady, marginReady,
      saveReady]
  | _ => firstOf s [watchReady, escrowReady, sweepReady, periodReady, marginReady, saveReady]

/-! ## Line fills (R88) -/

/-- The fill that a core's slots wait for and no one has started, the miss that was found first. -/
def fillNeeded (s : State) (c : Nat) (x : Core) : Option (TRef × Word) :=
  if 4 ≤ x.fills.length ∨ x.stopped ∨ x.gated then none
  else x.fetchQ.findSome? (fun e =>
    match nextInstr s ⟨c, e.1⟩ with
    | .missing va =>
      let t := slotOf x e.1
      if x.fills.contains (va.toNat / 64, t.fw, lineTag c t) then none else some (⟨c, e.1⟩, va)
    | _ => none)
def nextFill (s : State) : Option (TRef × Word) :=
  if s.sl.phase = .open_ then s.cores.findSome? (fun e => fillNeeded s e.1 e.2) else none
def startFill (s : State) (a : TRef) (va : Word) : State :=
  let t := thr s a
  post (modCore s a.core (fun x => { x with fills := x.fills ++ [(va.toNat / 64, t.fw, lineTag a.core t)] }))
    (.lineFill a va)

/-! ## Issue (R90 to R93) -/

/-- R92, R94, R186: the slot that a core issues in this cycle; while a seal is prepared, one of those that complete first. -/
def pickSlot (s : State) (c : Nat) : Option Nat :=
  let x := core s c
  if !s.fab.hold ∧ (s.sl.phase = .open_ ∨ s.sl.phase = .prepare) ∧ x.issueAt ≤ s.cycle then
    ((List.range 32).map (fun k => (x.rotP + k) % 32)).find? (fun n =>
      eligible s ⟨c, n⟩ && (s.sl.phase == .open_ || finishing s ⟨c, n⟩))
  else none
def nextIssue (s : State) : Option (Nat × Nat) :=
  s.cores.findSome? (fun e => (pickSlot s e.1).map (fun n => (e.1, n)))
/-- R87, R90 to R92: the slot issues: the pointer moves past it, it is in the pipeline for eight cycles with the queues it
names, and the lines of its words become the most recently used: a line counts as used when an instruction of it issues (log
entry 63). -/
def startIssue (s : State) (a : TRef) (len : Nat) (srcs dsts : List Reg) : State :=
  let t := thr s a
  let tag := lineTag a.core t
  let line (k : Nat) : Nat := (t.pc + BitVec.ofNat 64 (2 * k)).toNat / 64
  let s := { s with cur := a }
  let s := modMyCore s (fun x =>
    { x with
      rotP := (a.slot + 1) % 32, issueAt := s.cycle + 1, eligAt := none
      qiBusy := if srcs.contains 30 then s.cycle + 8 else x.qiBusy
      qoBusy := if dsts.contains 31 then s.cycle + 8 else x.qoBusy
      qoRep := !dsts.contains 31 && x.qoRep
      icache := useLine (useLine x.icache (line (len - 1)) t.fw tag) (line 0) t.fw tag })
  modMe s (fun t => { t with readyAt := s.cycle + 8 })
def endIssue (a : TRef) : Out → Out
  | .next s => .next (settleAll (endStep a s))
  | .fault f => .fault f
  | .refused r => .refused r
/-- The instruction at the slot's pc issues. -/
def issue (s : State) (a : TRef) : Out :=
  match nextInstr s a with
  | .instr i =>
    let fwBad := fwOnly i && !(thr s a).fw
    let srcs := if fwBad then [] else srcsOf i
    let dsts := if fwBad then [] else dstsOf i
    endIssue a (exec i (startIssue s a (ilen i) srcs dsts))
  | .illegal off => endIssue a (exec .illegalInstruction { startIssue s a (off + 1) [] [] with ev := .illegalInstruction off })
  | .missing _ => .next s

/-! ## The step -/

def tick (s : State) (n : Nat) : State := { s with cycle := s.cycle + n }
/-- Nothing comes from the outside: the oldest message that can be handled; else the module's own work; else a line fill;
else the issue of a slot; else a pseudo-channel goes idle or is scrubbed; else the cycle ends. -/
def goOn (s : State) : Out :=
  match readyMsg s with
  | some n => handle s n
  | none => match ownWork s with
    | some e => fire s e
    | none => match nextFill s with
      | some f => .next (startFill s f.1 f.2)
      | none => match nextIssue s with
        | some p => issue s ⟨p.1, p.2⟩
        | none => match firstOf s [idleReady, scrubReady] with
          | some e => fire s e
          | none => .next (settleAll (tick s 1))
/-- A turn of the agenda; one that cannot be taken is passed over. -/
def turn (s : State) : Turn → Out
  | .event e => if mayHappen s e then fire s e else .next s
  | .issue c n => if pickSlot s c = some n then issue s ⟨c, n⟩ else .next s
  | .pend n => if canHandle s n then handle s n else .next s
  | .tick n => .next (settleAll (tick s n))
  | .hostStore a l => .next { s with hostMem := l.zipIdx.foldl (fun m e => fset m (a + e.2) e.1) s.hostMem }
  | .clearErr q => .next (clearErr s q)
  | .cacheParity c n => .next (settleAll (modCore s c (fun x => { x with icache := x.icache.eraseIdx n })))
  | .sectorError k fatal => .next (if paValid (32 * k) then { s with errs := fset s.errs k fatal } else s)
  | .cpStep n => .next (settleAll (rvStep s (n % 8)))
/-- R359: without power only a reset, or the host at its own memory. -/
def unpowered (s : State) : Turn → Out
  | .event .reset => fire s .reset
  | .hostStore a l => turn s (.hostStore a l)
  | _ => .next s
def stepGo (s : State) : Out :=
  match s.agenda with
  | t :: l => if s.powered then turn { s with agenda := l } t else unpowered { s with agenda := l } t
  | [] => if s.powered then goOn s else .next (tick s 1)

end Sys2Proof.Machine
end

