-- ==== Sys2Proof/Machine/Step.lean ====
section
/-!
DEFINITION. The step, and how an instruction is placed where the step fetches next.
-/
namespace Sys2Proof.Machine
open Sys2Proof

/-- One step of the module: the next turn of the agenda, or what the module does of its own accord. -/
def step (s : State) : Host.Outcome State Fault Refusal := stepGo s

/-- The physical address behind virtual page 0 after `State.withFetchWord`: the first frame of program memory. -/
def fetchFrame : Nat := 176 * 2 ^ 26

/-- An instruction placed where the next step fetches: slot 0 of core 0 is live at address 0, its page is mapped with
every permission, the instruction's bytes stand in memory and in the core's instruction cache, and the agenda's first
turn is the issue of that slot (log entry 5). -/
def State.withFetchWord (s : State) (nbits w : Nat) : State :=
  let x := w % 2 ^ nbits
  let bytes := leBytes 10 x
  let t := { slotOf (core s 0) 0 with
    st := .live, wait := .none, readyAt := s.cycle, pc := 0, fw := false, launch := none, yieldTo := [] }
  let page : TlbEnt := ⟨1, BitVec.ofNat 64 (fetchFrame + 7), none⟩
  let line : ILine := ⟨0, false, none, bytes ++ List.replicate 54 0⟩
  let c := { core s 0 with
    slots := fset (core s 0).slots 0 t, tlb := fset (core s 0).tlb 0 page, icache := line :: (core s 0).icache
    ibufs := fdel (core s 0).ibufs 0, rotP := 0, issueAt := s.cycle, stopped := false, gated := false, hltd := false }
  { s with
    cores := fset s.cores 0 c, mem := msets s.mem fetchFrame bytes, agenda := .issue 0 0 :: s.agenda
    sl := { s.sl with phase := .open_ }, powered := true }

end Sys2Proof.Machine
end

