-- ==== Sys2Proof/Safety.lean ====
section
/-!
DEFINITION. The words in which claims are stated: the canonical form of memory, safe runs, the queues an instruction names,
the state after an instruction that writes one register, and what an instruction leaves unchanged.
-/
namespace Sys2Proof.Machine
open Sys2Proof

/-! ## Runs -/

/-- Device memory is in its one canonical form. -/
def State.MemOk (s : State) : Prop := Memory.wf s.mem = true

/-- `t` comes from `s` by a number of steps. -/
inductive Reaches : State → State → Prop where
  | refl (s : State) : Reaches s s
  | step {s t u : State} : Reaches s t → Sys2Proof.Machine.step t = .next u → Reaches s u

/-- A run from `s` is safe: it never meets a refusal, and memory stays canonical. -/
def SafeFrom (s : State) : Prop :=
  ∀ t, Reaches s t → State.MemOk t ∧ ∀ r, Sys2Proof.Machine.step t ≠ .refused r

/-! ## When an instruction completes, and what it leaves -/

/-- R15, R48, R91, R170: the queues that an instruction names are ready: where it reads `g30`, `qi` holds an entry whose
control bit is 0; where it writes `g31`, `qo` has a link and room. -/
def QueuesReady (s : State) (srcs dsts : List Reg) : Prop :=
  ((30 : Reg) ∈ srcs → ∃ e l, (myCore s).up = e :: l ∧ e.ctl = false) ∧
  ((31 : Reg) ∈ dsts → (∃ d, (myCore s).downLink = some d) ∧ (myCore s).down.length + (myCore s).qoHeld < 16)

/-- The state after an instruction of `len` words that reads the registers `srcs` and writes `x` to `r` (R15, R34, R96). -/
def wrote (s : State) (len : Nat) (srcs : List Reg) (r : Reg) (x : Word) : State :=
  finish len (srcs.contains 30) (.done (wr s r x))
/-- The state after an instruction of `len` words that reads `srcs` and goes to `pc`. -/
def went (s : State) (srcs : List Reg) (pc : Word) : State := finish 0 (srcs.contains 30) (.jump s pc)
/-- The state after an instruction of `len` words that reads `srcs` and leaves the state `t` but for its pc. -/
def passed (t : State) (len : Nat) (srcs : List Reg) : State := finish len (srcs.contains 30) (.done t)
/-- The state while an instruction of `len` words has a request out: `t` is the state with the request, `pushes` whether
its answer goes to `qo`, `after` the scope of the fence behind it (R147). -/
def asked (t : State) (len : Nat) (srcs : List Reg) (pushes : Bool) (after : Scope) : State :=
  finish len (srcs.contains 30) (.reply t pushes after)

/-- The control value at the head of `qi` sends this instruction to the queue-end handler (R170). -/
def takesEnd (s : State) (srcs : List Reg) : Prop :=
  (30 : Reg) ∈ srcs ∧ ∃ e l, (myCore s).up = e :: l ∧ e.ctl = true

/-- The state in which an event happens. -/
def facing (s : State) (e : Ev) : State := { s with ev := e }

/-- Every byte of device memory reads as before, but in the vaults (frames 0 to 127), to which a first change of a granule is
logged (R283, R284). -/
def SameBytes (s t : State) : Prop := ∀ k, 128 ≤ frameOf k → devByte t k = devByte s k
/-- Of device memory outside the vaults, the low `n` bytes of `x` have been written at `pa`, lowest first (R4), and no other
byte. Where a record keeps one of those bytes (a queue descriptor's, an index's), the record has it as `putKepts` gives it (R260,
log entries 18 and 57). -/
def Stored (s t : State) (pa n : Nat) (x : Word) : Prop :=
  ∀ k, 128 ≤ frameOf k →
    ((∀ j, j < n → 128 ≤ frameOf (pa + j) → keptByte s (pa + j) = none) →
      devByte t k = if pa ≤ k ∧ k < pa + n then x.extractLsb' (8 * (k - pa)) 8 else devByte s k)
    ∧ devByte t k = devByte (putKepts { s with mem := mput s.mem pa n x } pa (leBytes n x.toNat)) k
/-- `x` is the number that the `n` bytes at `pa` hold, lowest first, zero-extended (R4). -/
def Holds (s : State) (pa n : Nat) (x : Word) : Prop :=
  ∀ k, k < 8 → x.extractLsb' (8 * k) 8 = if k < n then devByte s (pa + k) else 0
/-- The newest message in flight answers thread `a`. -/
def Replied (t : State) (a : TRef) (r : RepRes) : Prop := t.pending.getLast? = some (.reply a r)

/-- R136, R179: an access of `n` bytes by the running thread is aligned and translated to `pa`, and no entry of its core's store
buffer overlaps its 64-bit word, or its 16-byte cell. -/
def Finds (s : State) (va : Word) (n : Nat) (need : Need) (pa : Nat) : Prop :=
  va.toNat % n = 0 ∧ translate s s.cur va need = .pa pa ∧ sbWord (myCore s) pa n = false
/-- R73, R329, R344, R347: the binding entry of a role code is `e`, its channel serves, and its read finds no error and no
injection. -/
def RoleIs (s : State) (code : Nat) (e : Word) : Prop :=
  ∃ pa, rolePa s (me s) code = some pa ∧ resolve s (me s) code = .entry e ∧ chanBusy s pa = false ∧ injFires s pa = false
    ∧ ∀ k, k < 8 → fget s.errs (sectorOf (pa + k)) = none
/-- R350: the state after the one read of the binding entry of a role code, which its pseudo-channel has seen. -/
def roleRead (s : State) (code : Nat) : State := ((rolePa s (me s) code).map (touch s)).getD s
/-- R147: the first fence of a scoped instruction has nothing to wait for. -/
def FenceOpen (s : State) (sc : Scope) : Prop :=
  (∀ c, (me s).wait ≠ .retry c ∧ (me s).wait ≠ .again c) ∧ drained s s.cur (fenceDrain s s.cur sc) = true
/-- R287, R298, R329, R344, R353: the TAU refuses nothing (so the address exists), its sector has no error, no injection fires,
the vault has room. -/
def TauServes (s : State) (launch : Option Nat) (pa : Nat) : Prop :=
  tauRefuses s launch pa = none ∧ fget s.errs (sectorOf pa) = none ∧ injFires s pa = false ∧ vaultStalls s pa = false

/-- R47, R169: the running thread's core takes its entries from no core of another module, so that a pop sends nothing. -/
def FedHere (s : State) : Prop := ∀ n, (myCore s).upLink = some n → foreignMod n = none
/-- Nothing has changed outside the cores and the messages in flight, and no core but the running thread's; of that core
only its slots and queues; of its slots only the running thread's. A pop of an entry that another module's core sent has told
that core so, and no other packet has been sent. Every byte of device memory reads as before. -/
def SameElsewhere (s t : State) : Prop :=
  t = { s with cores := t.cores, pending := t.pending, fab := { s.fab with ord := t.fab.ord }, fabOut := t.fabOut }
  ∧ (FedHere s → t.fab = s.fab ∧ t.fabOut = s.fabOut)
  ∧ (∃ l, t.fabOut = s.fabOut ++ l ∧ ∀ p ∈ l, ∃ a d, p.body = .qAck a d)
  ∧ (∀ c, c ≠ s.cur.core → core t c = core s c)
  ∧ (∀ n, n ≠ s.cur.slot → slotOf (myCore t) n = slotOf (myCore s) n)
  ∧ (let y := myCore t
     y = { myCore s with slots := y.slots, up := y.up, down := y.down, qoHeld := y.qoHeld, qiHeld := y.qiHeld, qoRep := y.qoRep
                         qAt := y.qAt, upIn := y.upIn, dnIn := y.dnIn, dnOut := y.dnOut, qoGone := y.qoGone })
  ∧ ∀ a, devByte t a = devByte s a

/-- R189: `run` completes from `s`: v register `d` gets, in each lane `n` that predicate `p` governs, the lane of `f n`, and
keeps its other lanes; the events of the governed lanes are counted; nothing else changes but what every instruction of
`len` words that reads `srcs` changes. -/
def LaneResults (run : Host.Outcome State Fault Refusal) (s : State) (len : Nat) (srcs : List Reg) (p : PReg) (d : VReg)
    (f : Nat → Lane × Events) : Prop :=
  ∃ v e, run = .next (passed (countMe (vwr s d v) e) len srcs)
    ∧ (∀ n, n < 32 → laneN v n = if (prd s p).getLsbD n then (f n).1 else laneN (vrd s d) n)
    ∧ e.sat = ((List.range 32).filter (fun n => (prd s p).getLsbD n && (f n).2.sat == 1)).length
    ∧ e.nan = ((List.range 32).filter (fun n => (prd s p).getLsbD n && (f n).2.nan == 1)).length
    ∧ e.bso = 0

/-- R113: the exact value of a finite number. -/
def ratOf : Val → ℚ
  | .fin neg m e => (if neg then -1 else 1) * (m : ℚ) * (2 : ℚ) ^ e
  | _ => 0
/-- R115: `r` is the whole number to which a mode rounds `x`. -/
def RoundsTo (rm : Rnd) (x : ℚ) (r : Int) : Prop :=
  match rm with
  | .rne => |x - r| ≤ 1 / 2 ∧ (|x - r| = 1 / 2 → r % 2 = 0)
  | .rtz => |(r : ℚ)| ≤ |x| ∧ |x| < |(r : ℚ)| + 1 ∧ 0 ≤ x * r
  | .rdn => (r : ℚ) ≤ x ∧ x < r + 1
  | .rup => x ≤ r ∧ (r : ℚ) < x + 1
/-- R115, R116: rounded under a mode as if the exponent range were unbounded, `x` exceeds the largest finite value of a format. -/
def Overflows (f : Fmt) (rm : Rnd) (x : ℚ) : Prop :=
  let top : ℚ := 2 ^ (f.bias + 1)
  let big : ℚ := ratOf (decodeF f (maxBits f false))
  match rm with
  | .rne => top - (top - big) / 2 ≤ |x|
  | .rtz => top ≤ |x|
  | .rdn => top ≤ x ∨ x < -big
  | .rup => big < x ∨ x ≤ -top
/-- R119: mantissa `i` of the m-bit field that stands in the lowest lanes of `v`. -/
def Mantissa (v : Vector Lane 32) (m i : Nat) (q : Int) : Prop :=
  -(2 ^ (m - 1) : Int) ≤ q ∧ q < 2 ^ (m - 1)
    ∧ ∀ j, j < m → (BitVec.ofInt m q).getLsbD j = (laneN v ((m * i + j) / 32)).getLsbD ((m * i + j) % 32)

/-- R211, R212: the job of an id is final, every sub-record with this code. -/
def JobEnds (t : State) (cl id code : Nat) : Prop :=
  ∃ copy bank r, jobRef t cl (BitVec.ofNat 64 id) = .job copy bank r ∧ r.final = true ∧ ∀ x ∈ r.subs, x.code = code
/-- R210, R211: a push to the matrix unit completes: the job is last in the queue of its cluster with the bank's format and
thresholds, its record is new and not final, the bank's next sequence is one higher, and `a` gets the id; a gang's reads of its binding entries have touched their
pseudo-channels (R350). -/
def MxPushed (run : Host.Outcome State Fault Refusal) (s : State) (len : Nat) (srcs : List Reg) (a : Reg) (kind : MxKind)
    (desc : List Word) (parts bars : List Nat) (gang : Bool) (mask : List Lane) : Prop :=
  let cl := clusterOf s.cur.core
  let bank := (myCore s).bank
  let b := mxBank s cl bank
  let id := b.seq % 65536 + bank * 2 ^ 17
  ∃ u j, run = .next (passed (wr u a (BitVec.ofNat 64 id)) len srcs)
    ∧ u = { s with clusters := u.clusters, pchs := u.pchs } ∧ (gang = false → u.pchs = s.pchs)
    ∧ (∀ c, c ≠ cl → cluster u c = cluster s c)
    ∧ (cluster u cl).mxq = (cluster s cl).mxq ++ [j]
    ∧ j.kind = kind ∧ j.id = id ∧ j.bank = bank ∧ j.desc = desc ∧ j.parts = parts ∧ j.bars = bars ∧ j.mask = mask
    ∧ j.fmt = b.fmt ∧ j.thr = b.thr ∧ j.started = false ∧ j.pause = none ∧ j.cancel = false
    ∧ (mxBank u cl bank).seq = (b.seq + 1) % 65536
    ∧ ∃ r ∈ (mxBank u cl bank).recs, r.seq = b.seq ∧ r.final = false ∧ r.gang = gang ∧ r.subs.map (·.unit) = parts
/-- R172: a push to the copy unit completes: the job is last in the queue of its cluster, its record is new and not final, and
`a` gets the id. -/
def CpPushed (run : Host.Outcome State Fault Refusal) (s : State) (len : Nat) (srcs : List Reg) (a : Reg) (kind : CpKind)
    (desc : List Word) : Prop :=
  let cl := clusterOf s.cur.core
  let bank := bankOf s s.cur.core
  let seq := (fget (cluster s cl).cpSeq bank).getD 0
  let id := seq % 65536 + 65536 + (if bank = 8 then 2 ^ 20 else bank * 2 ^ 17)
  ∃ u j, run = .next (passed (wr u a (BitVec.ofNat 64 id)) len srcs)
    ∧ u = { s with clusters := u.clusters } ∧ (∀ c, c ≠ cl → cluster u c = cluster s c)
    ∧ (cluster u cl).cpq = (cluster s cl).cpq ++ [j]
    ∧ j.kind = kind ∧ j.id = id ∧ j.core = s.cur.core ∧ j.desc = desc ∧ j.started = false ∧ j.cancel = false
    ∧ ∃ r ∈ cpRecs u cl bank, r.seq = seq ∧ r.final = false

/-- R302, R303: what trap entry does: with TH 0 and a handler, the three trap CSRs and TH are written and pc is the
handler's address (`tvec` where that is not zero, else without FW the launch's trap entry); with TH 1 or without a handler
the thread freezes, its trap CSRs as they were, and one SYS message goes to the command processor. -/
def TakesTrap (s t : State) (code : Nat) (v : Word) : Prop :=
  let u := me s
  let h : Option Word :=
    if u.tvec ≠ 0 then some u.tvec
    else if u.fw then none
    else (u.launch.bind (fget s.launches)).bind (fun l => l.img.trapEntry.map (fun e => BitVec.ofNat 64 (l.img.codeBase + e)))
  SameElsewhere s t
  ∧ myCore t = { myCore s with slots := (myCore t).slots } ∧ t.fabOut = s.fabOut
  ∧ (∀ x, u.th = false → h = some x →
      me t = { u with tepc := u.pc, tcause := BitVec.ofNat 64 code, tval := v, th := true, pc := x, wait := .none }
      ∧ t.pending = s.pending)
  ∧ (u.th = true ∨ h = none →
      me t = { u with wait := .frozen }
      ∧ ∃ m : ClassMsg, m.dest = 1216 ∧ m.extra = [BitVec.ofNat 64 s.cur.slot, BitVec.ofNat 64 code, v, u.pc]
        ∧ t.pending = s.pending ++ [.sysMessage m])

/-- The integer instructions, branches and jumps of page 0 (R101 to R108). -/
def pageZeroRegister : Instr → Bool
  | .mov .. | .li .. | .sel .. | .add .. | .addImm .. | .sub .. | .mul .. | .mulh .. | .mulhu .. | .div .. | .divu ..
  | .rem .. | .remu .. | .and .. | .andImm .. | .or .. | .orImm .. | .xor .. | .xorImm .. | .sll .. | .srl .. | .sra ..
  | .rol .. | .sllImm .. | .srlImm .. | .sraImm .. | .ror .. | .rorImm .. | .clz .. | .ctz .. | .popc .. | .bext ..
  | .bdep .. | .sext .. | .zext .. | .slt .. | .sltu .. | .seq .. | .sne .. | .sltImm .. | .bz .. | .beq .. | .bnz ..
  | .bne .. | .blt .. | .bge .. | .bltu .. | .bgeu .. | .jr .. | .jlr .. => true
  | _ => false

end Sys2Proof.Machine
end

