-- ==== Sys2Proof/Certificates/Slice0/Obligations.lean ====
section
/-!
DEFINITION. The statements for the provers. Each docstring names the rules of spec/ that the statement formalises, or says
that a clause is the model's own choice and names its log entry.
-/
open Sys2Proof Sys2Proof.Machine

/-! ## Integer and control instructions (R96 to R109) -/

/-- R100, R101, R102: `add`, `sub`, `mul`, `mulh`, `mulhu`, `div`, `divu`, `rem`, `remu`, `slt`, `sltu`, `seq`, `sne`, with
and without XR: with their queues ready they complete and write the value that the table gives. -/
def Obligations.ArithmeticResults : Prop :=
  ∀ (s : State) (a b : Reg) (c : Option Reg), QueuesReady s [srcX a b c, srcY b c] [a] →
    let x := rd s (srcX a b c)
    let y := rd s (srcY b c)
    let gives := fun v => Host.Outcome.next (φ := Fault) (ρ := Refusal) (wrote s (1 + optLen c) [srcX a b c, srcY b c] a v)
    exec (.add a b c) s = gives (x + y)
    ∧ exec (.sub a b c) s = gives (x - y)
    ∧ exec (.mul a b c) s = gives (x * y)
    ∧ exec (.mulh a b c) s = gives (((x.signExtend 128 * y.signExtend 128) >>> 64).setWidth 64)
    ∧ exec (.mulhu a b c) s = gives (((x.setWidth 128 * y.setWidth 128) >>> 64).setWidth 64)
    ∧ exec (.div a b c) s = gives (if y = 0 then -1 else BitVec.ofInt 64 (x.toInt.tdiv y.toInt))
    ∧ exec (.divu a b c) s = gives (if y = 0 then -1 else x / y)
    ∧ exec (.rem a b c) s = gives (if y = 0 then x else BitVec.ofInt 64 (x.toInt.tmod y.toInt))
    ∧ exec (.remu a b c) s = gives (if y = 0 then x else x % y)
    ∧ exec (.slt a b c) s = gives (if x.toInt < y.toInt then 1 else 0)
    ∧ exec (.sltu a b c) s = gives (if x.toNat < y.toNat then 1 else 0)
    ∧ exec (.seq a b c) s = gives (if x = y then 1 else 0)
    ∧ exec (.sne a b c) s = gives (if x = y then 0 else 1)

/-- R103, R101: `and`, `or`, `xor`, `sll`, `srl`, `sra`, `rol`, `ror` with registers: the amount of a shift or rotate is
y[5:0]. R104: `clz`, `ctz`, `popc`, `bext`, `bdep`: each completes with the one value that the table describes, bit by bit.
-/
def Obligations.LogicAndShiftResults : Prop :=
  (∀ (s : State) (a b : Reg) (c : Option Reg), QueuesReady s [srcX a b c, srcY b c] [a] →
    let x := rd s (srcX a b c)
    let y := rd s (srcY b c)
    let n := (y.setWidth 6).toNat
    let gives := fun v => Host.Outcome.next (φ := Fault) (ρ := Refusal) (wrote s (1 + optLen c) [srcX a b c, srcY b c] a v)
    exec (.and a b c) s = gives (x &&& y)
    ∧ exec (.or a b c) s = gives (x ||| y)
    ∧ exec (.xor a b c) s = gives (x ^^^ y)
    ∧ exec (.sll a b c) s = gives (x <<< n)
    ∧ exec (.srl a b c) s = gives (x >>> n)
    ∧ exec (.sra a b c) s = gives (x.sshiftRight n)
    ∧ exec (.rol a b c) s = gives (x.rotateLeft n)
    ∧ exec (.ror a b c) s = gives (x.rotateRight n))
  ∧ (∀ (s : State) (a b : Reg) (c : Option Reg),
    (QueuesReady s [b] [a] →
      let x := rd s b
      (∃ n : Nat, n ≤ 64 ∧ (∀ j, 64 - n ≤ j → x.getLsbD j = false) ∧ (n < 64 → x.getLsbD (63 - n) = true)
        ∧ exec (.clz a b) s = .next (wrote s 1 [b] a (BitVec.ofNat 64 n)))
      ∧ (∃ n : Nat, n ≤ 64 ∧ (∀ j, j < n → x.getLsbD j = false) ∧ (n < 64 → x.getLsbD n = true)
        ∧ exec (.ctz a b) s = .next (wrote s 1 [b] a (BitVec.ofNat 64 n)))
      ∧ exec (.popc a b) s = .next (wrote s 1 [b] a
          (BitVec.ofNat 64 ((List.range 64).filter (fun j => x.getLsbD j)).length)))
    ∧ (QueuesReady s [srcX a b c, srcY b c] [a] →
      let x := rd s (srcX a b c)
      let y := rd s (srcY b c)
      let ones := (List.range 64).filter (fun j => y.getLsbD j)
      (∃ r : Word, (∀ k, r.getLsbD k = (ones[k]?.map (fun j => x.getLsbD j)).getD false)
        ∧ exec (.bext a b c) s = .next (wrote s (1 + optLen c) [srcX a b c, srcY b c] a r))
      ∧ (∃ r : Word, (∀ k j, ones[k]? = some j → r.getLsbD j = x.getLsbD k)
        ∧ (∀ j, y.getLsbD j = false → r.getLsbD j = false)
        ∧ exec (.bdep a b c) s = .next (wrote s (1 + optLen c) [srcX a b c, srcY b c] a r))))

/-- R101, R103, R105, R106: the forms with an immediate (`addImm`, `andImm`, `orImm`, `xorImm`, `sltImm`, `sllImm`,
`srlImm`, `sraImm`, `rorImm`), and `li`, `sel`, `mov`, `sext`, `zext`. A shift amount of an instruction of the spec lies
from 0 to 63. -/
def Obligations.ImmediateAndMoveResults : Prop :=
  ∀ (s : State) (a : Reg) (c : Option Reg) (i : Imm),
    let x := rd s (c.getD a)
    let v := BitVec.ofInt 64 i.v
    let n := i.v.toNat
    let gives := fun v => Host.Outcome.next (φ := Fault) (ρ := Refusal) (wrote s (1 + optLen c + i.n) [c.getD a] a v)
    let ext := fun v => Host.Outcome.next (φ := Fault) (ρ := Refusal) (wrote s (1 + optLen c) [c.getD a] a v)
    (QueuesReady s [] [a] → exec (.li a i) s = .next (wrote s (1 + i.n) [] a v))
    ∧ (∀ b m d : Reg, QueuesReady s [b, d, m] [a] →
        exec (.sel a b d m) s = .next (wrote s 2 [b, d, m] a (if rd s m = 0 then rd s d else rd s b)))
    ∧ (∀ b : Reg, QueuesReady s [b] [a] → exec (.mov a b) s = .next (wrote s 1 [b] a (rd s b)))
    ∧ (QueuesReady s [c.getD a] [a] →
      exec (.addImm a c i) s = gives (x + v)
      ∧ exec (.andImm a c i) s = gives (x &&& v)
      ∧ exec (.orImm a c i) s = gives (x ||| v)
      ∧ exec (.xorImm a c i) s = gives (x ^^^ v)
      ∧ exec (.sltImm a c i) s = gives (if x.toInt < v.toInt then 1 else 0)
      ∧ (0 ≤ i.v → i.v ≤ 63 →
        exec (.sllImm a c i) s = gives (x <<< n)
        ∧ exec (.srlImm a c i) s = gives (x >>> n)
        ∧ exec (.sraImm a c i) s = gives (x.sshiftRight n)
        ∧ exec (.rorImm a c i) s = gives (x.rotateRight n))
      ∧ exec (.sext .b a c) s = ext ((x.extractLsb' 0 8).signExtend 64)
      ∧ exec (.sext .h a c) s = ext ((x.extractLsb' 0 16).signExtend 64)
      ∧ exec (.sext .w a c) s = ext ((x.extractLsb' 0 32).signExtend 64)
      ∧ exec (.zext .b a c) s = ext (x &&& 0xFF)
      ∧ exec (.zext .h a c) s = ext (x &&& 0xFFFF)
      ∧ exec (.zext .w a c) s = ext (x &&& 0xFFFFFFFF))

/-- R107, R108, R109, R10: `bz`, `bnz`, `beq`, `bne`, `blt`, `bge`, `bltu`, `bgeu`, `j`, `jl`, `jr`, `jlr`, `nop`. A jump
through a register goes to an even target. R108: an odd target of `jr` or `jlr` takes trap 0x02 with `tval` the target; no
link is written and no entry is taken. -/
def Obligations.BranchesAndJumps : Prop :=
  (∀ (s : State) (a : Reg) (c : Option Reg) (o : Imm),
    let x := rd s a
    let y := rd s (c.getD 0)
    let to_ := (me s).pc + BitVec.ofInt 64 (2 * o.v)
    let one := fun (p : Prop) [Decidable p] => Host.Outcome.next (φ := Fault) (ρ := Refusal)
      (if p then went s [a] to_ else passed s (1 + o.n) [a])
    let two := fun (p : Prop) [Decidable p] => Host.Outcome.next (φ := Fault) (ρ := Refusal)
      (if p then went s [a, c.getD 0] to_ else passed s (1 + optLen c + o.n) [a, c.getD 0])
    exec .nop s = .next (passed s 1 [])
    ∧ exec (.j o) s = .next (went s [] to_)
    ∧ exec (.jl o) s = .next (went (wr s 28 ((me s).pc + BitVec.ofNat 64 (2 * (1 + o.n)))) [] to_)
    ∧ (QueuesReady s [a] [] →
      exec (.bz a o) s = one (x = 0) ∧ exec (.bnz a o) s = one (x ≠ 0)
      ∧ (x.getLsbD 0 = false → exec (.jr a) s = .next (went s [a] x)))
    ∧ (∀ d : Reg, QueuesReady s [a] [d] → x.getLsbD 0 = false →
        exec (.jlr d a) s = .next (went (wr s d ((me s).pc + 2)) [a] x))
    ∧ (QueuesReady s [a, c.getD 0] [] →
      exec (.beq a c o) s = two (x = y) ∧ exec (.bne a c o) s = two (x ≠ y)
      ∧ exec (.blt a c o) s = two (x.toInt < y.toInt) ∧ exec (.bge a c o) s = two (y.toInt ≤ x.toInt)
      ∧ exec (.bltu a c o) s = two (x.toNat < y.toNat) ∧ exec (.bgeu a c o) s = two (y.toNat ≤ x.toNat)))
  ∧ (∀ (s : State) (a d : Reg), (rd s a).getLsbD 0 = true →
    (QueuesReady s [a] [] → exec (.jr a) s = .next (trapMe s 0x02 (rd s a)))
    ∧ (QueuesReady s [a] [d] → exec (.jlr d a) s = .next (trapMe s 0x02 (rd s a))))

/-- R302, R303: trap entry, whatever the cause and `tval`. -/
def Obligations.TrapEntry : Prop :=
  ∀ (s : State) (code : Nat) (v : Word), TakesTrap s (trapMe s code v) code v

/-- R109, R317: `trap #imm` takes trap 0x11 and, while BKH is 0, `brk #imm` takes trap 0x10, with `tval` the immediate
sign-extended; with BKH 1 `brk` halts the core, leaves its thread at the `brk` and posts one SYS message to the core's own
slot 31. R33, R35, R301: words that decode to no instruction take trap 0x01 with `tval` the address of the word at which
decoding failed (`illegalInstruction`). -/
def Obligations.ExplicitTraps : Prop :=
  (∀ (s : State) (i : Imm),
    (∃ t, exec (.trap i) s = .next t ∧ TakesTrap s t 0x11 (BitVec.ofInt 64 i.v))
    ∧ ((myCore s).bkh = false → ∃ t, exec (.brk i) s = .next t ∧ TakesTrap s t 0x10 (BitVec.ofInt 64 i.v))
    ∧ ((myCore s).bkh = true → ∃ t m, exec (.brk i) s = .next t ∧ (myCore t).hltd = true
        ∧ me t = { me s with wait := .none } ∧ m.dest = s.cur.core ∧ m.mail.w1 = (me s).pc
        ∧ t.pending = s.pending ++ [.sysMessage m] ∧ t.mem = s.mem))
  ∧ (∀ (s : State) (off : Nat), ∃ t, exec .illegalInstruction (facing s (.illegalInstruction off)) = .next t
    ∧ TakesTrap s { t with ev := s.ev } 0x01 ((me s).pc + BitVec.ofNat 64 (2 * off)))

/-- R305. -/
def Obligations.TretReturns : Prop :=
  ∀ s : State,
    ((me s).th = true → ∃ t, exec .tret s = .next t
      ∧ me t = { me s with pc := (me s).tepc, th := false, wait := .none } ∧ SameElsewhere s t ∧ t.pending = s.pending)
    ∧ ((me s).th = false → exec .tret s = .next (trapMe s 0x01 (me s).pc))

/-- R15, R48, R170: the integer instructions, branches and jumps of page 0 at a queue. Without an upstream link an empty
`qi` takes trap 0x07 with `tval` 30 (the model's reading, log entry 8); without a downstream link `qo` takes it with 31.
Where more than one of these holds, the order in which the clauses fall (30 before 31, and 31 before a control value and
before waiting) is the model's (log entry 65): no rule gives one. An empty `qi` or a full `qo` makes the instruction wait,
and nothing changes; a control value at the head of `qi` takes trap 0x07 with `tval` the value where `qhv` is zero or QH is
1, and else leaves the queue, goes to g1, and the thread goes to `qhv` with `qhlk` the instruction's address and QH 1. -/
def Obligations.QueueRules : Prop :=
  ∀ (s : State) (i : Instr), pageZeroRegister i = true →
    let pops := (30 : Reg) ∈ srcsOf i
    let pushes := (31 : Reg) ∈ dstsOf i
    let x := myCore s
    let room := x.down.length + x.qoHeld < 16
    (pops → x.up = [] → x.upLink = none → exec i s = .next (trapMe s 0x07 30))
    ∧ (pushes → x.downLink = none → (pops → x.up ≠ [] ∨ x.upLink ≠ none) → exec i s = .next (trapMe s 0x07 31))
    ∧ (pops → x.up = [] → x.upLink ≠ none → (pushes → x.downLink ≠ none) → exec i s = .next s)
    ∧ (pushes → x.downLink ≠ none → ¬room → (pops → x.up ≠ []) → exec i s = .next s)
    ∧ (∀ e l, pops → x.up = e :: l → e.ctl = true → (pushes → x.downLink ≠ none ∧ room) →
        ((me s).qhv = 0 ∨ (me s).qh = true → exec i s = .next (trapMe s 0x07 e.data))
        ∧ ((me s).qhv ≠ 0 → (me s).qh = false → ∃ t, exec i s = .next t ∧ SameElsewhere s t ∧ (myCore t).up = l
            ∧ me t = { me s with g := (me s).g.set 1 e.data, qhlk := (me s).pc, qh := true, pc := (me s).qhv
                                 wait := .none }))

/-- R96, R100: the state after an instruction that writes one register: its destination holds the value, but g0 discards it
and g31 pushes it as one data entry; an entry read through g30 has left `qi`; pc has moved past the instruction's words;
nothing else has changed. R96, R100, R300: what an integer instruction, a branch or a jump of page 0 leaves, on every path:
every register but its destination and, where a control value is popped, g1; every v and p register; `tvec`, `qhv`, `vlive`
and the other fields of the thread's status; every other slot, core and unit, and every byte of memory. -/
def Obligations.PageZeroFrame : Prop :=
  (∀ (s : State) (len : Nat) (srcs : List Reg) (r : Reg) (x : Word),
    let t := wrote s len srcs r x
    SameElsewhere s t
    ∧ t.pending = s.pending
    ∧ (∀ k : Reg, (me t).g[k] = if k = r ∧ r ≠ 0 ∧ r ≠ 31 then x else (me s).g[k])
    ∧ (∃ g, me t = { me s with g := g, pc := (me s).pc + BitVec.ofNat 64 (2 * len), wait := .none })
    ∧ (myCore t).down = (myCore s).down ++ (if r = 31 then [⟨x, false⟩] else [])
    ∧ (myCore t).up = (if (30 : Reg) ∈ srcs then (myCore s).up.tail else (myCore s).up)
    ∧ (myCore t).qoHeld = (myCore s).qoHeld)
  ∧ (∀ (s t : State) (i : Instr), pageZeroRegister i = true → exec i s = .next t →
    SameElsewhere s t
    ∧ (∀ r : Reg, r ∉ dstsOf i → (r = 1 → ¬takesEnd s (srcsOf i)) → (me t).g[r] = (me s).g[r])
    ∧ ∃ g pc w e c v h q k, me t =
        { me s with g := g, pc := pc, wait := w, tepc := e, tcause := c, tval := v, th := h, qhlk := q, qh := k })

/-! ## Device memory (R135 to R158) -/

/-- R11, R138, R136, R301: `ldg.d`, `ldg.w`, `ldg.h`, `ldg.b` at g[b] + disp. A misaligned address takes trap 0x02 with
`tval` the address, and a translation's trap is taken with it. At an address that translates, the newest store-buffer entry
that overlaps serves the load where it covers every byte, and makes it wait where it does not; with no overlap the load goes
to the TAU as a request for `a`. -/
def Obligations.LoadsOfSpaceG : Prop :=
  ∀ (s : State) (a b : Reg) (i : Imm) (w : Width) (ins : Instr),
    (w, ins) ∈ [(Width.d, Instr.ldgD a b i), (.w, .ldgW a b i), (.h, .ldgH a b i), (.b, .ldgB a b i)] →
    QueuesReady s [b] [a] →
    let n := wbytes w
    let va := rd s b + BitVec.ofInt 64 i.v
    let req : TauReq := ⟨.thr s.cur, if (me s).fw then none else (me s).launch, va, 0⟩
    (va.toNat % n ≠ 0 → exec ins s = .next (trapMe s 0x02 va))
    ∧ (va.toNat % n = 0 → ∀ code, translate s s.cur va needR = .trap code → exec ins s = .next (trapMe s code va))
    ∧ (∀ pa, va.toNat % n = 0 → translate s s.cur va needR = .pa pa → (∀ e ∈ (myCore s).sbuf, sbOverlaps e pa n = false) →
        exec ins s = .next (asked (post s (.tauRead { req with pa := pa } w a)) (1 + i.n) [b] (a == 31) .dflt))
    ∧ (va.toNat % n = 0 → ∀ pa e l l', translate s s.cur va needR = .pa pa → (myCore s).sbuf = l ++ e :: l' →
        (∀ d ∈ l', sbOverlaps d pa n = false) →
        (e.pa ≤ pa → pa + n ≤ e.pa + wbytes e.width →
          exec ins s = .next (wrote s (1 + i.n) [b] a (BitVec.ofNat 64 (e.data.toNat / 2 ^ (8 * (pa - e.pa)) % 2 ^ (8 * n)))))
        ∧ (sbOverlaps e pa n = true → ¬ (e.pa ≤ pa ∧ pa + n ≤ e.pa + wbytes e.width) →
          exec ins s = .next (modMe s (fun t => { t with wait := .retry (.sbufOverlap pa n) }))))

/-- R138, R136: `stg.d`, `stg.w`, `stg.h`, `stg.b` at g[b] + disp: with room in the store buffer the store enters it as its
newest entry and the thread goes on; device memory is as it was. A misaligned address takes trap 0x02. A full buffer makes
the thread wait at the instruction. R136: the oldest store-buffer entry that has not left is injected and becomes a store at
its TAU (`storeBufferInject`); the acknowledgement frees the entry (`storeAck`). -/
def Obligations.StoresOfSpaceG : Prop :=
  (∀ (s : State) (a b : Reg) (i : Imm) (w : Width) (ins : Instr),
    (w, ins) ∈ [(Width.d, Instr.stgD a b i), (.w, .stgW a b i), (.h, .stgH a b i), (.b, .stgB a b i)] →
    QueuesReady s [b, a] [] →
    let va := rd s b + BitVec.ofInt 64 i.v
    (va.toNat % wbytes w ≠ 0 → exec ins s = .next (trapMe s 0x02 va))
    ∧ (va.toNat % wbytes w = 0 → ∀ pa, translate s s.cur va needW = .pa pa →
        ((myCore s).sbuf.length < 32 → ∃ t, exec ins s = .next t
          ∧ (myCore t).sbuf = (myCore s).sbuf ++
              [⟨(myCore s).sbNext, s.cur.slot, if (me s).fw then none else (me s).launch, pa, w, rd s a, false⟩]
          ∧ me t = { me s with pc := (me s).pc + BitVec.ofNat 64 (2 * (1 + i.n)), wait := .none }
          ∧ t.pending = s.pending ∧ ∀ k, devByte t k = devByte s k)
        ∧ (32 ≤ (myCore s).sbuf.length → ∃ t, exec ins s = .next t ∧ me t = { me s with wait := .retry .sbufRoom }
          ∧ (myCore t).sbuf = (myCore s).sbuf)))
  ∧ (∀ (s : State) (c : Nat),
    (∀ l e l', (core s c).sbuf = l ++ e :: l' → (∀ d ∈ l, d.sent = true) → e.sent = false → (∀ d ∈ l ++ l', d.id ≠ e.id) →
      ∃ t, exec .storeBufferInject (facing s (.storeBufferInject c)) = .next t
        ∧ t.pending = s.pending ++ [.tauStore ⟨c, e.id, e.launch, e.pa, e.width, e.data⟩]
        ∧ (core t c).sbuf = l ++ { e with sent := true } :: l' ∧ t.mem = s.mem)
    ∧ (∀ id, ∃ t, exec .storeAck (facing s (.storeAck c id)) = .next t
        ∧ (core t c).sbuf = (core s c).sbuf.filter (fun e => e.id ≠ id) ∧ t.pending = s.pending ∧ t.mem = s.mem
        ∧ ∀ k, k ≠ c → core t k = core s k))

/-- R4, R138, R136: at a TAU that serves it, a load answers the bytes at its address, zero-extended, and changes no byte and
no full/empty bit (`tauRead`); a store writes the low bytes of its value and, the log of R283 apart, no other byte, changes
no full/empty bit, and is acknowledged (`tauStore`). R298, R353: what a TAU refuses (`tauRefuses`): a load is answered trap
0x05 with `tval` its virtual address; a store is not applied and is acknowledged all the same. No byte changes. -/
def Obligations.TauLoadsAndStores : Prop :=
  (∀ (s : State), State.MemOk s →
    (∀ (r : TauReq) (w : Width) (dst : Reg) (a : TRef), r.rto = .thr a → TauServes s r.launch r.pa →
      ∃ t x, exec .tauRead (facing s (.tauRead r w dst)) = .next t ∧ Holds s r.pa (wbytes w) x
        ∧ t.pending = s.pending ++ [.reply a (.writes [(dst, x)])] ∧ (∀ k, devByte t k = devByte s k) ∧ t.feEmpty = s.feEmpty)
    ∧ (∀ m : StoreMsg, TauServes s m.launch m.pa →
      ∃ t, exec .tauStore (facing s (.tauStore m)) = .next t ∧ Stored s t m.pa (wbytes m.width) m.data
        ∧ t.feEmpty = s.feEmpty ∧ t.pending.getLast? = some (.storeAck m.core m.id)))
  ∧ (∀ (s : State) (why : Refuse),
    (∀ (r : TauReq) (w : Width) (dst : Reg) (a : TRef), r.rto = .thr a → fget s.errs (sectorOf r.pa) = none →
      tauRefuses s r.launch r.pa = some why → ∃ t, exec .tauRead (facing s (.tauRead r w dst)) = .next t
        ∧ Replied t a (.trap 0x05 r.va []) ∧ ∀ k, devByte t k = devByte s k)
    ∧ (∀ m : StoreMsg, tauRefuses s m.launch m.pa = some why →
      ∃ t, exec .tauStore (facing s (.tauStore m)) = .next t
        ∧ t.pending.getLast? = some (.storeAck m.core m.id) ∧ ∀ k, devByte t k = devByte s k))

/-- R140: the table of the full/empty family at the TAU (`feRequest`), on a word that no request waits for, in its wanted
state: what each member reads, writes and leaves in the bit. R141: a request of the full/empty family whose wanted state
does not hold joins the word's wait list behind the others; no byte, no bit and no message changes. R143: the time limit
(`fetmoTimeout`): a waiter of the full/empty family, the only one that waits, that is past the limit which its request
carries leaves the list and its thread is answered trap 0x0E with `tval` the address. -/
def Obligations.FullEmptyTable : Prop :=
  (∀ (s : State) (r : TauReq) (data x : Word) (dst : Reg) (limit : Option Nat) (a : TRef), State.MemOk s → r.rto = .thr a →
    r.pa % 8 = 0 → TauServes s r.launch r.pa → waitersOf s (r.pa / 8) = [] → Holds s r.pa 8 x →
    let full := isFull s r.pa
    let run := fun op => exec .feRequest (facing s (.feRequest r op data dst limit))
    (full = true → ∃ t, run .ldfe = .next t ∧ Replied t a (.writes [(dst, x)]) ∧ isFull t r.pa = false ∧ SameBytes s t)
    ∧ (full = true → ∃ t, run .ldff = .next t ∧ Replied t a (.writes [(dst, x)]) ∧ isFull t r.pa = true ∧ SameBytes s t)
    ∧ (full = false → ∃ t, run .stfe = .next t ∧ Replied t a (.writes []) ∧ isFull t r.pa = true ∧ Stored s t r.pa 8 data)
    ∧ (∃ t, run .stff = .next t ∧ Replied t a (.writes []) ∧ isFull t r.pa = true ∧ Stored s t r.pa 8 data)
    ∧ (∃ t, run .ldx = .next t ∧ Replied t a (.writes [(dst, x), (regUp dst 1, if full then 1 else 0)])
        ∧ isFull t r.pa = full ∧ SameBytes s t)
    ∧ (∀ b, ∃ t, run (.fes b) = .next t ∧ Replied t a (.writes []) ∧ isFull t r.pa = b ∧ SameBytes s t))
  ∧ (∀ (s : State) (r : TauReq) (op : FeOp) (data : Word) (dst : Reg) (limit : Option Nat),
    TauServes s r.launch r.pa → waitFull s r.pa = false →
    ((op = .ldfe ∨ op = .ldff) ∧ isFull s r.pa = false) ∨ (op = .stfe ∧ isFull s r.pa = true) →
    ∃ t, exec .feRequest (facing s (.feRequest r op data dst limit)) = .next t
      ∧ waitersOf t (r.pa / 8) = waitersOf s (r.pa / 8) ++ [.fe r op data dst limit s.cycle]
      ∧ t.pending = s.pending ∧ (∀ k, devByte t k = devByte s k) ∧ t.feEmpty = s.feEmpty)
  ∧ (∀ (s : State) (a : TRef) (word : Nat) (w : Waiter), s.waits = [(word, [w])] →
    (∃ r op d dst n since, w = .fe r op d dst (some n) since ∧ r.rto = .thr a ∧ n < s.cycle - since) →
    ∃ t, exec .fetmoTimeout (facing s (.fetmoTimeout a)) = .next t ∧ waitersOf t word = []
      ∧ t.pending = s.pending ++ [.reply a (.trap 0x0E (waiterVa w) [])] ∧ t.mem = s.mem)

/-- R139, R140, R144, R146 to R149: the instructions of page 1 that ask the TAU: `ldfe`, `ldff`, `stfe`, `stff`, `ldx`,
`fes`, `lrq`, `scq`, `amo`, `amof.add`, `amox.add` and its INT64 form. At a word that is aligned, translated and overlapped
by no store-buffer entry, with the fence of the scope done (and for `scq` the word's reservation held), the request of the
instruction goes out and the thread waits for its answer. A request that can wait carries the limit of R143, which `fetmo`
gives as it stands for this issue (R307). -/
def Obligations.SynchronisingRequests : Prop :=
  ∀ (s : State) (a b c m : Reg) (i : Imm) (xs : Option Scope) (pa : Nat),
    let va := rd s b + BitVec.ofInt 64 i.v
    let q : TauReq := ⟨.thr s.cur, if (me s).fw then none else (me s).launch, va, pa⟩
    let at_ : TauReq := { q with va := rd s b }
    let sc := xs.getD .dflt
    let gets := fun op => Host.Outcome.next (φ := Fault) (ρ := Refusal) (asked (post s (.feRequest q op 0 a
      (waitLimit s (op == .ldfe || op == .ldff)))) (2 + i.n) [b] (a == 31) .dflt)
    let puts := fun op => Host.Outcome.next (φ := Fault) (ρ := Refusal) (asked (post s (.feRequest q op (rd s a) 0
      (waitLimit s (op == .stfe)))) (2 + i.n) [b, a] false .dflt)
    (QueuesReady s [b] [a] →
      (Finds s va 8 needRW pa → exec (.ldfe a b i) s = gets .ldfe)
      ∧ (Finds s va 8 needR pa → exec (.ldff a b i) s = gets .ldff ∧ exec (.ldx a b i) s = gets .ldx
        ∧ ((me s).resv = none → exec (.lrq a b i) s = .next (asked (post s (.lrqRequest q a (me s).home (waitLimit s true))) (2 + i.n)
            [b] (a == 31) .dflt))))
    ∧ (QueuesReady s [b, a] [] → Finds s va 8 needW pa →
      exec (.stfe a b i) s = puts .stfe ∧ exec (.stff a b i) s = puts .stff
      ∧ ((me s).resv = some (s.fab.modnum, pa / 8) → FenceOpen s .dom → exec (.scq a b i) s =
          .next (asked (post s (.scqRequest q (rd s a) (me s).home)) (2 + i.n) [b, a] false .dflt)))
    ∧ (QueuesReady s [b] [] → Finds s va 8 needW pa → ∀ full, exec (.fes full b i) s =
        .next (asked (post s (.feRequest q (.fes full) 0 0 none)) (2 + i.n) [b] false .dflt))
    ∧ ((sc ≠ .dflt → FenceOpen s sc) →
      (∀ op uns, QueuesReady s (if op = .cas then [b, c, m] else [b, c]) [a] → Finds s (rd s b) 8 needRW pa →
        exec (.amo op a b c m xs uns) s = .next (asked (post s (.amoRequest at_ op uns (rd s c)
          (if op = .cas then rd s m else 0) a)) (3 + optLen xs) (if op = .cas then [b, c, m] else [b, c]) (a == 31) sc))
      ∧ (QueuesReady s [b, c] [a] → Finds s (rd s b) 4 needRW pa →
        exec (.amofAdd a b c xs) s = .next (asked (post s (.amofRequest at_ ((rd s c).setWidth 32) a)) (3 + optLen xs)
          [b, c] (a == 31) sc))
      ∧ (QueuesReady s [b, a] [] → Finds s (rd s b) 16 needRW pa →
        (∃ x, exec (.amoxAdd a b xs) s = .next (asked (post s (.amoxRequest at_ x)) (2 + optLen xs) [b, a] false sc)
          ∧ x = fxFromFp32 ((rd s a).toNat % 2 ^ 32))
        ∧ ∀ sc', xs = some sc' → exec (.amoxAddI a b sc') s =
            .next (asked (post s (.amoxRequest at_ (fxFromInt (rd s a)))) 3 [b, a] false sc)))

/-- R146: `amo` at a TAU that serves it: each operation writes the new value that the rule gives, in the eight bytes at the
address and, the log apart, nowhere else, and answers the old one; a `cas` that does not match changes no byte and logs
nothing. R148, R149, R127: the floating-point and fixed-point atomics at a TAU that serves them: `amofRequest` writes the
FP32 sum (`addF`, to nearest even) in four bytes and answers the old bits; `amoxRequest` writes the sum of the cell
(`fxAdd`) in sixteen bytes; a byte that a record keeps changes there. The log apart, no other byte changes. R144, R145:
reservations at a TAU that serves the request, with no injection armed. An `lrq` joins the word's queue, and is answered the
word where the queue was empty; a `scq` stores, its thread holds no reservation any more, and the next waiter, if its TAU
refuses it nothing, is the holder and is answered the value just stored. -/
def Obligations.AtomicsAtTheTau : Prop :=
  (∀ (s : State) (r : TauReq) (x y old : Word) (dst : Reg) (a : TRef), State.MemOk s → r.rto = .thr a →
    TauServes s r.launch r.pa → Holds s r.pa 8 old →
    let run := fun op uns => exec .amoRequest (facing s (.amoRequest r op uns x y dst))
    let gives := fun op uns (new : Word) => ∃ t, run op uns = .next t ∧ Stored s t r.pa 8 new
      ∧ Replied t a (.writes [(dst, old)]) ∧ t.feEmpty = s.feEmpty
    (∀ u, gives .add u (old + x) ∧ gives .and u (old &&& x) ∧ gives .or u (old ||| x) ∧ gives .xor u (old ^^^ x)
      ∧ gives .swap u x)
    ∧ gives .min false (if old.toInt ≤ x.toInt then old else x) ∧ gives .max false (if old.toInt ≤ x.toInt then x else old)
    ∧ gives .min true (if old.toNat ≤ x.toNat then old else x) ∧ gives .max true (if old.toNat ≤ x.toNat then x else old)
    ∧ (∀ u, old = x → gives .cas u y)
    ∧ (∀ u, old ≠ x → ∃ t, run .cas u = .next t ∧ (∀ k, devByte t k = devByte s k) ∧ Replied t a (.writes [(dst, old)])
      ∧ t.vaults = s.vaults ∧ t.feEmpty = s.feEmpty))
  ∧ (∀ (s : State) (r : TauReq) (dst : Reg) (a : TRef), State.MemOk s → r.rto = .thr a → TauServes s r.launch r.pa →
    (∀ (x : Lane) (old : Word), Holds s r.pa 4 old → ∃ t, exec .amofRequest (facing s (.amofRequest r x dst)) = .next t
      ∧ Stored s t r.pa 4 (BitVec.ofNat 64 (addF fp32 .rne false (old.toNat, 0) (x.toNat, 0)).1)
      ∧ Replied t a (.writes [(dst, old)]) ∧ t.feEmpty = s.feEmpty)
    ∧ (∀ (x old : BitVec 128), (∀ k, k < 16 → old.extractLsb' (8 * k) 8 = devByte s (r.pa + k)) →
      ∃ t, exec .amoxRequest (facing s (.amoxRequest r x)) = .next t
        ∧ (∀ k, 128 ≤ frameOf k → (∀ j, j < 16 → 128 ≤ frameOf (r.pa + j) → keptByte s (r.pa + j) = none) →
            devByte t k = if r.pa ≤ k ∧ k < r.pa + 16 then (fxAdd old x).extractLsb' (8 * (k - r.pa)) 8 else devByte s k)
        ∧ (∀ k, 128 ≤ frameOf k → devByte t k =
            devByte (putKepts { s with mem := t.mem } r.pa (leBytes 16 (fxAdd old x).toNat)) k)
        ∧ Replied t a (.writes []) ∧ t.feEmpty = s.feEmpty))
  ∧ (∀ (s : State) (r : TauReq) (dst : Reg) (who : TRef) (limit : Option Nat) (data x : Word), State.MemOk s → r.rto = .thr who →
    r.pa % 8 = 0 → TauServes s r.launch r.pa → Holds s r.pa 8 x → s.sl.sleinj.toNat % 2 = 0 →
    let word := r.pa / 8
    (waitFull s r.pa = false → ∃ t, exec .lrqRequest (facing s (.lrqRequest r dst who limit)) = .next t
      ∧ resvOf t word = resvOf s word ++ [⟨who, r, dst, limit, s.cycle⟩] ∧ (thr t who).resv = some (s.fab.modnum, word)
      ∧ (∀ k, devByte t k = devByte s k)
      ∧ t.pending = s.pending ++ (if resvOf s word = [] then [.reply who (.writes [(dst, x)])] else []))
    ∧ (128 ≤ frameOf r.pa → (∀ k, k < 8 → keptByte s (r.pa + k) = none) →
      (∀ n, (resvOf s word).tail.head? = some n → tauRefuses s n.req.launch r.pa = none) →
      ∃ t, exec .scqRequest (facing s (.scqRequest r data who)) = .next t ∧ Stored s t r.pa 8 data
      ∧ (thr t who).resv = none ∧ resvOf t word = (resvOf s word).tail
      ∧ (resvOf s word).tail.head?.all (fun n => match n.req.rto with
          | .thr b => t.pending.getLast? == some (.reply b (.writes [(n.dst, data)]))
          | _ => true) = true))

/-- R12, R147, R154, R300: the answer reaches the thread that waits for it: the registers are written in order, pc moves
past the instruction and, with no second fence, the thread is in the rotation; an answer for `qo` is pushed there, and the
place held for it is free; an answer that is a trap writes its registers, gives back the entry taken from `qi`, and takes
the trap at the instruction (shown of a thread outside its handler whose `tvec` is not zero). An answer for a thread that
waits for none changes nothing. -/
def Obligations.ReplyCompletes : Prop :=
  ∀ (s : State) (a : TRef) (len : Nat) (popped : Option QEntry),
    (∀ l, (thr s a).wait = .reply len popped false .dflt → (∀ e ∈ l, e.1 ≠ 0 ∧ e.1 ≠ 31) →
      ∃ t, exec .reply (facing s (.reply a (.writes l))) = .next t
        ∧ (thr t a).pc = (thr s a).pc + BitVec.ofNat 64 (2 * len) ∧ (thr t a).wait = .none
        ∧ (thr t a).g = l.foldl (fun g e => g.set e.1 e.2) (thr s a).g ∧ t.mem = s.mem ∧ t.pending = s.pending)
    ∧ (∀ x, (thr s a).wait = .reply len popped true .dflt →
      ∃ t, exec .reply (facing s (.reply a (.writes [(31, x)]))) = .next t
        ∧ (core t a.core).down = (core s a.core).down ++ [⟨x, false⟩]
        ∧ (core t a.core).qoHeld = (core s a.core).qoHeld - 1 ∧ (thr t a).g = (thr s a).g ∧ (thr t a).wait = .none)
    ∧ (∀ code tval l, (thr s a).wait = .reply len popped false .dflt → (thr s a).th = false → (thr s a).tvec ≠ 0 →
      (∀ e ∈ l, e.1 ≠ 0 ∧ e.1 ≠ 31) →
      ∃ t, exec .reply (facing s (.reply a (.trap code tval l))) = .next t
        ∧ (thr t a).pc = (thr s a).tvec ∧ (thr t a).tepc = (thr s a).pc ∧ (thr t a).tcause = BitVec.ofNat 64 code
        ∧ (thr t a).tval = tval ∧ (thr t a).th = true ∧ (thr t a).g = l.foldl (fun g e => g.set e.1 e.2) (thr s a).g
        ∧ (core t a.core).up = popped.toList ++ (core s a.core).up)
    ∧ (∀ res, (∀ n p k c, (thr s a).wait ≠ .reply n p k c) →
      exec .reply (facing s (.reply a res)) = .next (facing s (.reply a res)))

/-- R150: `rupd` without a scope, on this module: the thread goes on, its slot counts one more update, and the UPDATE goes
to the teller core of the word with g[a] to g[a+3] and the address; at a teller with a free guest slot it starts a guest
thread with them in g1 to g5 (`update`); the acknowledgement lowers the count (`updateAck`). -/
def Obligations.RemoteUpdates : Prop :=
  ∀ (s : State),
    (∀ (a b : Reg) (i : Imm) (pa : Nat), QueuesReady s [b, a, regUp a 1, regUp a 2, regUp a 3] [] →
      translate s s.cur (rd s b) needR = .pa pa → (me s).rupdOut < 255 →
      ∃ t m, exec (.rupd a b i none) s = .next t ∧ t.pending = s.pending ++ [.update m]
        ∧ m.teller = tellerOf pa ∧ m.target = (me s).pc + BitVec.ofInt 64 (2 * i.v) ∧ m.addr = rd s b
        ∧ m.words = [rd s a, rd s (regUp a 1), rd s (regUp a 2), rd s (regUp a 3)] ∧ m.acks = .slot s.cur
        ∧ (me t).rupdOut = (me s).rupdOut + 1 ∧ (me t).pc = (me s).pc + BitVec.ofNat 64 (2 * (2 + i.n)) ∧ (me t).wait = .none
        ∧ (me t).g = (me s).g ∧ t.mem = s.mem)
    ∧ (∀ (m : UpdateMsg) (n : Nat) (w0 w1 w2 w3 : Word), freeGuest (core s m.teller) s.cycle = some n → m.words = [w0, w1, w2, w3] →
      ∃ t, exec .update (facing s (.update m)) = .next t ∧ (thr t ⟨m.teller, n⟩).st = .live
        ∧ (thr t ⟨m.teller, n⟩).pc = m.target ∧ (thr t ⟨m.teller, n⟩).acks = some m.acks
        ∧ (thr t ⟨m.teller, n⟩).g[1] = w0 ∧ (thr t ⟨m.teller, n⟩).g[2] = w1 ∧ (thr t ⟨m.teller, n⟩).g[3] = w2
        ∧ (thr t ⟨m.teller, n⟩).g[4] = w3 ∧ (thr t ⟨m.teller, n⟩).g[5] = m.addr)
    ∧ (∀ r : TRef, ∃ t, exec .updateAck (facing s (.updateAck r)) = .next t
        ∧ thr t r = { thr s r with rupdOut := (thr s r).rupdOut - 1 } ∧ t.mem = s.mem ∧ t.pending = s.pending)

/-- R151 to R154: `chld` and `chld.fail` send their chain out with g[b] as its value and g[c], … as its step words; while a
store of the thread stands in the store buffer they wait. A step (`chldStep`) whose address (v & mask) + 8 × offset
translates to a word of a TAU that serves it: with the word full it goes on with that word, or after the last step answers
it and status 0 (its first step once no store-buffer entry of its core overlaps the word); with the word empty a step of
`chld.fail` answers the value it had and status 1. The status holds the steps done in bits 7:4. -/
def Obligations.ChainedLoads : Prop :=
  ∀ (s : State),
    (∀ (a b c : Reg) (n : Nat) (fail : Bool), 1 ≤ n → n ≤ 6 →
      QueuesReady s (b :: (List.range n).map (fun k => regUp c k)) [a, regUp a 1] →
      let run := exec (if fail then .chldFail a b c n else .chld a b c n) s
      ((myCore s).sbuf = [] → ∃ m, run = .next (asked (post s (.chldStep m)) 3
          (b :: (List.range n).map (fun k => regUp c k)) false .dflt)
        ∧ m.v = rd s b ∧ m.k = 0 ∧ m.hops = 0 ∧ m.dst = a ∧ m.rto = .thr s.cur ∧ m.fail = fail
        ∧ m.steps = (List.range n).map (fun k => rd s (regUp c k)))
      ∧ ((∃ e ∈ (myCore s).sbuf, e.slot = s.cur.slot) → run = .next (modMe s (fun t => { t with wait := .retry .sbufOwn }))))
    ∧ (∀ (m : ChldMsg) (a : TRef) (pa : Nat) (x st : Word), m.rto = .thr a → m.steps[m.k]? = some st →
      let hi := bits st 37 32
      let mask : Word := if hi < 3 then 0 else BitVec.ofNat 64 (2 ^ (hi + 1) - 8)
      chldTr s m ((m.v &&& mask) + 8 * (st.setWidth 32).signExtend 64) = .pa pa → pa % 8 = 0 →
      TauServes s m.launch pa → (m.at_ = none → sbWord (core s m.core) pa 8 = false) → m.hops ≤ 11 → Holds s pa 8 x →
      (isFull s pa = true → ∃ t, exec .chldStep (facing s (.chldStep m)) = .next t ∧ (∀ k, devByte t k = devByte s k)
        ∧ (m.k + 1 = m.steps.length → Replied t a (.writes [(m.dst, x), (regUp m.dst 1, BitVec.ofNat 64 (16 * m.steps.length))]))
        ∧ (m.k + 1 ≠ m.steps.length → ∃ m', t.pending = s.pending ++ [.chldStep m'] ∧ m'.v = x ∧ m'.k = m.k + 1
            ∧ m'.steps = m.steps ∧ m'.goPa = none))
      ∧ (isFull s pa = false → m.fail = true → ∃ t, exec .chldStep (facing s (.chldStep m)) = .next t
        ∧ (∀ k, devByte t k = devByte s k)
        ∧ Replied t a (.writes [(m.dst, m.v), (regUp m.dst 1, BitVec.ofNat 64 (1 + 16 * m.k))])))

/-- R155, R156, R259, R293: external memory. A misaligned address takes trap 0x02, one outside the windows trap 0x03. In a
window `ldext` leaves with every byte that an unreleased store of the launch in its die's escrow covers, as the newest of
them gives it, and with no other; the others are the host's as it serves the read (the answer): what the host holds, unless
a released store that no link has accepted covers the byte. `stext` sends its store, of the interval in which it was made,
to the escrow of its die. The escrow with room takes an entry and answers (`escrowAccept`); the oldest entry, released and
not dropped, goes to the host (`escrowLinkAccept`). -/
def Obligations.ExternalMemory : Prop :=
  ∀ (s : State) (a b : Reg) (i : Imm) (w : Width),
    let e := rd s b + BitVec.ofInt 64 i.v
    let n := wbytes w
    let window := inWindow s (me s).launch e.toNat n
    let ok := e.toNat % n = 0 ∧ window = true
    let covers := fun (x : EscEntry) (k : Nat) => x.launch = (me s).launch ∧ released s x = false
      ∧ ∃ base wd d, x.what = .stext base wd d ∧ base ≤ k ∧ k < base + wbytes wd
    let stands := fun (x : EscEntry) (k : Nat) => released s x = true ∧ (hostBytesOf x.what).1 ≤ k
      ∧ k < (hostBytesOf x.what).1 + (hostBytesOf x.what).2.length
    (QueuesReady s [b] [a] →
      (ok → ∃ fwd, exec (.ldext w a b i) s =
          .next (asked (post s (.reply s.cur (.ext a e.toNat w fwd))) (2 + i.n) [b] (a == 31) .dflt)
        ∧ (∀ k, (k < e.toNat ∨ e.toNat + n ≤ k ∨ ∀ x ∈ escrowOf s (dieOf s.cur.core), ¬covers x k) → fget fwd k = none)
        ∧ ∀ k l x l' base wd d, e.toNat ≤ k → k < e.toNat + n → escrowOf s (dieOf s.cur.core) = l ++ x :: l' → covers x k →
            (∀ y ∈ l', ¬covers y k) → x.what = .stext base wd d → fget fwd k = some (d.extractLsb' (8 * (k - base)) 8))
      ∧ (e.toNat % n ≠ 0 → exec (.ldext w a b i) s = .next (trapMe s 0x02 e))
      ∧ (e.toNat % n = 0 → window = false → exec (.ldext w a b i) s = .next (trapMe s 0x03 e)))
    ∧ (∀ (r : TRef) (d : Reg) (addr len : Nat) (fwd : List (Nat × Byte)) (p : Option QEntry),
      (thr s r).wait = .reply len p false .dflt → d ≠ 0 → d ≠ 31 →
      ∃ t x, exec .reply (facing s (.reply r (.ext d addr w fwd))) = .next t ∧ (thr t r).g = (thr s r).g.set d x
        ∧ (thr t r).wait = .none ∧ (thr t r).pc = (thr s r).pc + BitVec.ofNat 64 (2 * len)
        ∧ (∀ k, k < 8 → x.extractLsb' (8 * k) 8 = if k < n then (fget fwd (addr + k)).getD (hostByteAt s (addr + k)) else 0)
        ∧ ∀ k, ((∀ q ∈ s.escrow, ∀ y ∈ q.2, ¬stands y k) →
            hostByteAt s k = (fget s.hostMem k).getD (Config.hostByte k s.freeN))
          ∧ (∀ die y base wd v, s.escrow = [(die, [y])] → stands y k → dropped s y = false → y.what = .stext base wd v →
            hostByteAt s k = v.extractLsb' (8 * (k - base)) 8))
    ∧ (QueuesReady s [b, a] [] →
      (ok → ∃ m, exec (.stext w a b i) s = .next (asked (post s (.escrowAccept m)) (2 + i.n) [b, a] false .dflt)
        ∧ m.rto = .thr s.cur ∧ m.die = dieOf s.cur.core ∧ m.entry.what = .stext e.toNat w (rd s a)
        ∧ m.entry.launch = (me s).launch ∧ m.entry.ivl = s.sl.ivnum.toNat)
      ∧ (e.toNat % n ≠ 0 → exec (.stext w a b i) s = .next (trapMe s 0x02 e))
      ∧ (e.toNat % n = 0 → window = false → exec (.stext w a b i) s = .next (trapMe s 0x03 e)))
    ∧ (∀ (m : EscMsg) (r : TRef), m.rto = .thr r → escDoor s m.die = [] → (escrowOf s m.die).length < 4096 →
      ∃ t, exec .escrowAccept (facing s (.escrowAccept m)) = .next t ∧ Replied t r (.writes [])
        ∧ escrowOf t m.die = escrowOf s m.die ++ [m.entry] ∧ t.mem = s.mem)
    ∧ (∀ (d : Nat) (x : EscEntry) (l : List EscEntry) (addr : Nat) (wd : Width) (v : Word), escrowOf s d = x :: l →
      x.what = .stext addr wd v → released s x = true → dropped s x = false → escDoor s d = [] →
      ∃ t, exec .escrowLinkAccept (facing s (.escrowLinkAccept d)) = .next t ∧ escrowOf t d = l
        ∧ ∀ k, k < wbytes wd → fget t.hostMem (addr + k) = some (v.extractLsb' (8 * k) 8))

/-! ## Local memory (R159 to R171, R184) -/

/-- R159, R161, R165: `ld` and `st` of the three buffers: a misaligned offset takes trap 0x02, one that runs over the end of
the buffer trap 0x03, each with `tval` the offset; else `ld` writes the bytes at the offset, lowest first, zero-extended,
and `st` writes the low bytes of g[a] there and changes no other buffer and no byte of device memory. -/
def Obligations.TypedBuffers : Prop :=
  ∀ (s : State) (sp : Space) (w : Width) (a b : Reg) (i : Imm),
    let off := rd s b + BitVec.ofInt 64 i.v
    let n := wbytes w
    let fits := off.toNat % n = 0 ∧ off.toNat + n ≤ (match sp with | .c => 32768 | _ => 49152)
    let buf := bufOf (myCore s) sp
    (QueuesReady s [b] [a] →
      (off.toNat % n ≠ 0 → exec (.ld sp w a b i) s = .next (trapMe s 0x02 off))
      ∧ (off.toNat % n = 0 → ¬fits → exec (.ld sp w a b i) s = .next (trapMe s 0x03 off))
      ∧ (fits → ∃ x : Word, (∀ k, k < 8 → x.extractLsb' (8 * k) 8 = if k < n then mget buf (off.toNat + k) else 0)
          ∧ exec (.ld sp w a b i) s = .next (wrote s (2 + i.n) [b] a x)))
    ∧ (QueuesReady s [b, a] [] →
      (off.toNat % n ≠ 0 → exec (.st sp w a b i) s = .next (trapMe s 0x02 off))
      ∧ (off.toNat % n = 0 → ¬fits → exec (.st sp w a b i) s = .next (trapMe s 0x03 off))
      ∧ (fits → ∃ t, exec (.st sp w a b i) s = .next t
          ∧ bufOf (myCore t) sp = msets buf off.toNat (leBytes n (rd s a).toNat)
          ∧ (∀ o, o ≠ sp → bufOf (myCore t) o = bufOf (myCore s) o) ∧ (∀ c, c ≠ s.cur.core → core t c = core s c)
          ∧ me t = { me s with pc := (me s).pc + BitVec.ofNat 64 (2 * (2 + i.n)), wait := .none }
          ∧ ∀ k, devByte t k = devByte s k))

/-- R162, R163, R164, R76: space M. An address that names no buffer, or one of a cluster that the launch does not own, takes
trap 0x03 with `tval` the address; then a misaligned one trap 0x02; then one that runs over the end of the buffer trap 0x03;
else `ldm` asks for the bytes, and `stm`, with fewer than sixteen of its writes unacknowledged, posts the write, counts it
and goes on (with sixteen it waits). At a core that accepts the message the read answers the bytes (`mRead`), and the write
is applied to the one buffer and acknowledged (`mWrite`). `lbf` passes where nothing is unacknowledged, and else waits for
that. R184: the victim tier, with no store-buffer entry of the core in the page and its channels serving. A misaligned
address gives status 4. `evct` copies an aligned page of 8 KiB, every word of it full and served by its TAU, into a buffer
of a core that is bound to no launch, answers 0, and memory is as it was; `rcll`, where no request waits for a word of the
page and no record keeps one of its bytes, writes the page back from a buffer of its own core, every word full, answers 0,
and, the log apart, no other byte changes. -/
def Obligations.SpaceM : Prop :=
  (∀ (s : State) (w : Width) (a b : Reg) (i : Imm),
    let m := rd s b + BitVec.ofInt 64 i.v
    let n := wbytes w
    let owned := mNames m = true ∧ mCluster m ∈ clustersOf s (me s).launch
    let ok := owned ∧ mOff m % n = 0 ∧ mOff m + n ≤ bufSize (mSpace m)
    let traps := fun (ins : Instr) =>
      (¬owned → exec ins s = .next (trapMe s 0x03 m))
      ∧ (owned → mOff m % n ≠ 0 → exec ins s = .next (trapMe s 0x02 m))
      ∧ (owned → mOff m % n = 0 → bufSize (mSpace m) < mOff m + n → exec ins s = .next (trapMe s 0x03 m))
    (QueuesReady s [b] [a] → traps (.ldm w a b i)
      ∧ (ok → ∃ q : MReadMsg, exec (.ldm w a b i) s = .next (asked (post s (.mRead q)) (2 + i.n) [b] (a == 31) .dflt)
          ∧ q.rto = .thr s.cur ∧ q.dst = a ∧ q.dest = mCore m ∧ q.space = mSpace m ∧ q.off = mOff m ∧ q.width = w ∧ q.hops = 0))
    ∧ (QueuesReady s [b, a] [] → traps (.stm w a b i)
      ∧ (ok → (me s).stmOut < 16 → ∃ t x, exec (.stm w a b i) s = .next t ∧ t.pending = s.pending ++ [.mWrite x]
          ∧ x.dest = mCore m ∧ x.space = mSpace m ∧ x.off = mOff m ∧ x.bytes = leBytes n (rd s a).toNat
          ∧ x.frm = some s.cur ∧ (me t).stmOut = (me s).stmOut + 1 ∧ (me t).wait = .none
          ∧ (me t).pc = (me s).pc + BitVec.ofNat 64 (2 * (2 + i.n)) ∧ ∀ k, devByte t k = devByte s k)
      ∧ (ok → 16 ≤ (me s).stmOut → exec (.stm w a b i) s = .next (modMe s (fun t => { t with wait := .retry .stmRoom }))))
    ∧ (∀ (q : MReadMsg) (r : TRef), q.rto = .thr r → arriveAt s q.dest q.ident q.hops = .accept →
        ∃ t x, exec .mRead (facing s (.mRead q)) = .next t
        ∧ t.pending = s.pending ++ [.reply r (.writes [(q.dst, x)])] ∧ x = bufRead s q.dest q.space q.off (wbytes q.width)
        ∧ t.cores = s.cores ∧ t.mem = s.mem)
    ∧ (∀ (x : MWriteMsg) (r : TRef), x.frm = some r → arriveAt s x.dest x.ident x.hops = .accept →
        ∃ t, exec .mWrite (facing s (.mWrite x)) = .next t
          ∧ bufOf (core t x.dest) x.space = msets (bufOf (core s x.dest) x.space) x.off x.bytes
          ∧ (thr t r).stmOut = (thr s r).stmOut - 1 ∧ t.mem = s.mem ∧ t.pending = s.pending)
    ∧ ((me s).stmOut = 0 → exec .lbf s = .next (passed s 2 []))
    ∧ ((me s).stmOut ≠ 0 → ∃ t, exec .lbf s = .next t ∧ me t = { me s with wait := .drain ⟨true, [], false⟩ 2 }))
  ∧ (∀ (s : State) (a b c : Reg), QueuesReady s [b, c] [a] →
    let free := fun (pa : Nat) => sbTouches (myCore s) pa 8192 = false ∧ ∀ g, g < 32 → chanBusy s (pa + 256 * g) = false
    (let pa := rd s b
      let m := rd s c
      (pa.toNat % 8192 ≠ 0 → exec (.evct a b c) s = .next (wrote s 3 [b, c] a 4))
      ∧ (pa.toNat % 8192 = 0 → free pa.toNat → mOff m % 8192 = 0 → mNames m = true → (core s (mCore m)).launch = none →
          mOff m + 8192 ≤ bufSize (mSpace m) → s.errs = [] → (∀ k, k < 1024 → isFull s (pa.toNat + 8 * k) = true) →
          (∀ k, k < 1024 → TauServes s (if (me s).fw then none else (me s).launch) (pa.toNat + 8 * k)) →
          ∃ t, exec (.evct a b c) s = .next t ∧ (∀ k, devByte t k = devByte s k) ∧ Replied t s.cur (.writes [(a, 0)])
            ∧ bufOf (core t (mCore m)) (mSpace m) = msets (bufOf (core s (mCore m)) (mSpace m)) (mOff m) (devBytes s pa.toNat 8192)))
    ∧ (let m := rd s b
      let pa := rd s c
      (pa.toNat % 8192 ≠ 0 → exec (.rcll a b c) s = .next (wrote s 3 [b, c] a 4))
      ∧ (State.MemOk s → pa.toNat % 8192 = 0 → free pa.toNat → mOff m % 8192 = 0 → mNames m = true → mCore m = s.cur.core →
          mOff m + 8192 ≤ bufSize (mSpace m) → s.waits = [] →
          (∀ k, k < 1024 → TauServes s (if (me s).fw then none else (me s).launch) (pa.toNat + 8 * k)) →
          (∀ k, k < 8192 → 128 ≤ frameOf (pa.toNat + k) → keptByte s (pa.toNat + k) = none) →
          ∃ t, exec (.rcll a b c) s = .next t ∧ Replied t s.cur (.writes [(a, 0)])
            ∧ (∀ k, k < 1024 → isFull t (pa.toNat + 8 * k) = true)
            ∧ ∀ k, 128 ≤ frameOf k → devByte t k = if pa.toNat ≤ k ∧ k < pa.toNat + 8192
                then mget (bufOf (myCore s) (mSpace m)) (mOff m + (k - pa.toNat)) else devByte s k)))

/-- R166, R167, R168: rings. `rcfg` of a legal word with EN 1, on a disabled ring, makes a ring whose slots are all free;
`rpush` with a free slot and no one before it reserves the next slot in order and writes its offset, `rpop` likewise takes
the next filled one; `rpush` with C commits behind its fence and `rpop` with F frees; on a disabled ring each of the four
takes trap 0x07 with `tval` the ring's number, as do a commit without a held slot and a free without a taken one. A slot
that completes or traps waits on no ring any more (`leaveRings`), and every other waiter keeps its place. -/
def Obligations.RingOperations : Prop :=
  ∀ (s : State) (a b : Reg) (n : Fin 4),
    let r := ring (myCore s) n
    let size := 8 * 2 ^ r.ssz
    let num := BitVec.ofNat 64 n.val
    let self := RWait.slot s.cur.slot
    let leaves := fun (t : State) => Host.Outcome.next (φ := Fault) (ρ := Refusal) (leaveRings t s.cur)
    (∀ t : State, let u := leaveRings t s.cur
      u = { t with cores := u.cores } ∧ (∀ c, c ≠ s.cur.core → core u c = core t c)
      ∧ core u s.cur.core = { core t s.cur.core with rings := (core u s.cur.core).rings }
      ∧ ∀ k, ring (core u s.cur.core) k = { ring (core t s.cur.core) k with
          pushers := (ring (core t s.cur.core) k).pushers.filter (· ≠ self)
          poppers := (ring (core t s.cur.core) k).poppers.filter (· ≠ self) })
    ∧ (QueuesReady s [b] [] → let v := rd s b
      bits v 63 30 = 0 → bits v 29 29 = 1 → bits v 19 16 ≤ 11 → bits v 15 0 % (8 * 2 ^ bits v 19 16) = 0 →
      bits v 15 0 + (bits v 27 20 + 1) * (8 * 2 ^ bits v 19 16) ≤ 49152 → r.en = false →
      ∃ t q, exec (.rcfg n b) s = .next t ∧ ring (myCore t) n = q ∧ q.en = true ∧ q.inA = (bits v 28 28 == 1)
        ∧ q.base = bits v 15 0 ∧ q.ssz = bits v 19 16 ∧ q.cnt = bits v 27 20 ∧ q.free = bits v 27 20 + 1 ∧ q.held = 0
        ∧ q.filled = 0 ∧ q.taken = 0 ∧ (me t).wait = .none)
    ∧ (QueuesReady s [] [a] →
      (r.en = false → exec (.rpush a n) s = leaves (trapMe s 0x07 num) ∧ exec (.rpop a n) s = leaves (trapMe s 0x07 num))
      ∧ (r.en = true → r.free ≠ 0 → r.pushers.headD self = self → exec (.rpush a n) s = leaves (wrote
          (modMyCore s (fun x => setRing x n { r with free := r.free - 1, held := r.held + 1, res := (r.res + 1) % (r.cnt + 1)
                                                      pushers := r.pushers.filter (· != self) }))
          2 [] a (BitVec.ofNat 64 (r.base + size * r.res))))
      ∧ (r.en = true → r.filled ≠ 0 → r.poppers.headD self = self → exec (.rpop a n) s = leaves (wrote
          (modMyCore s (fun x => setRing x n
            { r with filled := r.filled - 1, taken := r.taken + 1, tak := (r.tak + 1) % (r.cnt + 1)
                     poppers := r.poppers.filter (· != self) }))
          2 [] a (BitVec.ofNat 64 (r.base + size * r.tak)))))
    ∧ (r.en = true → r.held ≠ 0 → FenceOpen s .core → exec (.rpushC n) s = leaves (passed
        (modMyCore s (fun x => setRing x n { r with held := r.held - 1, filled := r.filled + 1 })) 2 []))
    ∧ (r.en = true → r.taken ≠ 0 → exec (.rpopF n) s = leaves (passed
        (modMyCore s (fun x => setRing x n { r with taken := r.taken - 1, free := r.free + 1 })) 2 []))
    ∧ (r.en = false → exec (.rpushC n) s = leaves (trapMe s 0x07 num) ∧ exec (.rpopF n) s = leaves (trapMe s 0x07 num))
    ∧ (r.en = true → r.held = 0 → exec (.rpushC n) s = leaves (trapMe s 0x07 num))
    ∧ (r.en = true → r.taken = 0 → exec (.rpopF n) s = leaves (trapMe s 0x07 num))

/-- R169, R170, R171: the register-mapped queues. `qend` pushes its value with control bit 1; `qend.ret` in the handler goes
to `qhlk` and clears QH, and else takes trap 0x07 with `tval` its own address; `qcfg`, with the downstream queue empty, of
code 0 removes the link between two cores of this module and answers 0, of a code that names no role answers 2, and of the
code of a role bound to a core of this module that has no upstream link links the two cores and answers 0; the oldest
downstream entry, its push complete, moves to the linked core of this module while that is not stopped and has room
(`queueTransfer`). -/
def Obligations.QueueOperations : Prop :=
  ∀ (s : State) (a b : Reg),
    (QueuesReady s [a] [31] → ∃ t, exec (.qend a) s = .next t
      ∧ (myCore t).down = (myCore s).down ++ [⟨rd s a, true⟩] ∧ (me t).g = (me s).g
      ∧ (me t).pc = (me s).pc + 4 ∧ (me t).wait = .none ∧ ∀ k, devByte t k = devByte s k)
    ∧ ((me s).qh = true → ∃ t, exec .qendRet s = .next t ∧ me t = { me s with qh := false, pc := (me s).qhlk, wait := .none })
    ∧ ((me s).qh = false → exec .qendRet s = .next (trapMe s 0x07 (me s).pc))
    ∧ (QueuesReady s [b] [a] → (myCore s).down = [] → (myCore s).qoHeld = 0 → a ≠ 0 → a ≠ 31 →
      let code := bits (rd s b) 15 0
      (code = 0 → (∀ o, (myCore s).downLink = some o → foreignMod o = none) →
        ∃ t, exec (.qcfg a b) s = .next t ∧ (myCore t).downLink = none ∧ (me t).g[a] = 0
        ∧ ∀ o, (myCore s).downLink = some o → (core t o).upLink = none)
      ∧ (code ≠ 0 → rolePa s (me s) code = none → exec (.qcfg a b) s = .next (wrote s 2 [b] a 2))
      ∧ (∀ e d, code ≠ 0 → code < 49152 → RoleIs s code e → entV e = true → entCore e = some d → d < modBase →
          arriveAt s d (identOf s (me s) false) 0 = .accept → (core s d).upLink = none → (myCore s).downLink = none →
          ∃ t, exec (.qcfg a b) s = .next t ∧ (myCore t).downLink = some d ∧ (core t d).upLink = some s.cur.core
            ∧ (me t).g[a] = 0))
    ∧ (∀ (c d : Nat) (e : QEntry) (l : List QEntry), (core s c).down = e :: l → (core s c).downLink = some d → c ≠ d →
      d < modBase → (core s c).qoBusy ≤ s.cycle → ((core s c).qAt = s.cycle → (core s c).dnOut = 0) → (core s d).stopped = false →
      (core s d).up.length + (core s d).qiHeld < 16 → ∃ t, exec .queueTransfer (facing s (.queueTransfer c)) = .next t
        ∧ (core t c).down = l ∧ (core t d).up = (core s d).up ++ [e] ∧ t.mem = s.mem)

/-! ## Placing and messages (R70 to R86) -/

/-- R74, R77, R79: `start`, `spawn` and `spawn` with a register. `start` answers 4 outside slot 0 and 1 with ten helpers,
and else, its fence done, sends a placement to its own core; `spawn` answers 2 for a code that names no role, and, its fence
done, sends a placement to the core of a role bound on this module, with the role code and the entry's GEN. The placement
carries the four words and the target pc + 2 × offset. -/
def Obligations.PlacementsSent : Prop :=
  ∀ (s : State) (a b c : Reg) (i : Imm),
    let four := [rd s b, rd s (regUp b 1), rd s (regUp b 2), rd s (regUp b 3)]
    let four_ := [b, regUp b 1, regUp b 2, regUp b 3]
    (QueuesReady s four_ [a] →
      (s.cur.slot ≠ 0 → exec (.start a b i) s = .next (wrote s (2 + i.n) four_ a 4))
      ∧ (s.cur.slot = 0 → helpers (myCore s) = 10 → exec (.start a b i) s = .next (wrote s (2 + i.n) four_ a 1))
      ∧ (s.cur.slot = 0 → helpers (myCore s) ≠ 10 → FenceOpen s .core → ∃ m : PlaceMsg,
          exec (.start a b i) s = .next (asked (post s (.place m)) (2 + i.n) four_ (a == 31) .dflt)
          ∧ m.dest = s.cur.core ∧ m.guest = false ∧ m.target = (me s).pc + BitVec.ofInt 64 (2 * i.v) ∧ m.words = four
          ∧ m.rto = .thr s.cur ∧ m.dst = a)
      ∧ (let code := (i.v % 65536).toNat
        (resolve s (me s) code = .none → exec (.spawn a b i) s = .next (wrote s (2 + i.n) four_ a 2))
        ∧ (∀ e d, RoleIs s code e → entV e = true → entCore e = some d → entMod e = s.fab.modnum →
            FenceOpen s (destScope s e (decide (code / 2 ^ 14 = 3))) → ∃ m : PlaceMsg,
            exec (.spawn a b i) s = .next (asked (post (roleRead s code) (.place m)) (2 + i.n) four_ (a == 31) .dflt)
            ∧ m.dest = d ∧ m.role = code ∧ m.gen = entGen e ∧ m.guest = true ∧ m.target = (me s).pc + BitVec.ofInt 64 (2 * (i.v / 65536)) ∧ m.words = four
            ∧ m.rto = .thr s.cur ∧ m.dst = a)))
    ∧ (QueuesReady s (c :: four_) [a] →
      let code := bits (rd s c) 15 0
      (resolve s (me s) code = .none → exec (.spawnReg a b c i) s = .next (wrote s (3 + i.n) (c :: four_) a 2))
      ∧ (∀ e d, RoleIs s code e → entV e = true → entCore e = some d → entMod e = s.fab.modnum →
          FenceOpen s (destScope s e (decide (code / 2 ^ 14 = 3))) → ∃ m : PlaceMsg,
          exec (.spawnReg a b c i) s = .next (asked (post (roleRead s code) (.place m)) (3 + i.n) (c :: four_) (a == 31) .dflt)
          ∧ m.dest = d ∧ m.role = code ∧ m.gen = entGen e ∧ m.guest = true ∧ m.target = (me s).pc + BitVec.ofInt 64 (2 * i.v) ∧ m.words = four
          ∧ m.rto = .thr s.cur ∧ m.dst = a))

/-- R46, R71, R76, R79: a placement at its core (`place`). Accepted, it takes the lowest free slot of its range (1 to 10 for
a helper, 11 to 26 for a guest): the slot is live at the target, with the words in g1 to g4, every other g register, every v
register and its trap CSRs zero, every p register all ones, and the placer is answered 0; without a free slot it is answered
1, refused 3; a forwarded placement goes on to the core that the entry names. A slot is free once the `quit` that freed it
is complete. R71, R80: `quit` of a thread that owns no stream and holds no reservation frees its slot, from the cycle after
the pipeline; at home nothing is sent, and away from a home of this module a free message goes to the home slot, which it
frees (`freeMessage`). -/
def Obligations.PlacementArrives : Prop :=
  (∀ (s : State) (m : PlaceMsg) (r : TRef) (w0 w1 w2 w3 : Word), m.rto = .thr r → m.words = [w0, w1, w2, w3] →
    let lo := if m.guest then 11 else 1
    let hi := if m.guest then 26 else 10
    let free := fun k => (slotOf (core s m.dest) k).st = .free ∧ (slotOf (core s m.dest) k).readyAt ≤ s.cycle
    let run := exec .place (facing s (.place m))
    (∀ n, arriveAt s m.dest m.ident m.hops = .accept → lo ≤ n → n ≤ hi → free n → (∀ k, lo ≤ k → k < n → ¬ free k) →
      ∃ t, run = .next t ∧ Replied t r (.writes [(m.dst, 0)]) ∧ t.mem = s.mem
        ∧ (let x := thr t ⟨m.dest, n⟩
          x.st = .live ∧ x.pc = m.target ∧ x.home = ⟨m.dest, n⟩ ∧ x.wait = .none ∧ x.fw = false ∧ x.th = false
          ∧ x.tvec = 0 ∧ x.tepc = 0 ∧ x.tcause = 0 ∧ x.tval = 0 ∧ x.qhv = 0 ∧ x.vlive = false ∧ x.launch = launchNum s m.ident
          ∧ x.v = Vector.replicate 8 (Vector.replicate 32 0) ∧ x.p = Vector.replicate 4 0xFFFFFFFF
          ∧ x.g[1] = w0 ∧ x.g[2] = w1 ∧ x.g[3] = w2 ∧ x.g[4] = w3
          ∧ ∀ k : Reg, k.val = 0 ∨ 5 ≤ k.val → x.g[k] = 0))
    ∧ (arriveAt s m.dest m.ident m.hops = .accept → (∀ k, lo ≤ k → k ≤ hi → ¬ free k) →
        run = .next (post (facing s (.place m)) (.reply r (.writes [(m.dst, 1)]))))
    ∧ (arriveAt s m.dest m.ident m.hops = .refuse →
        run = .next (post (facing s (.place m)) (.reply r (.writes [(m.dst, 3)]))))
    ∧ (∀ c, arriveAt s m.dest m.ident m.hops = .forward c →
        run = .next (post (facing s (.place m)) (.place { m with dest := c, hops := m.hops + 1 }))))
  ∧ (∀ (s : State),
    (s.cur.slot < 27 → (me s).resv = none → (me s).acks = none →
      (∀ n, n < 4 → (stream (myCore s) n).owner = s.cur.slot → (stream (myCore s) n).st = .closed) →
      ∃ t, exec .quit s = .next t ∧ (me t).st = .free ∧ (me t).readyAt = s.cycle + 8 ∧ (me t).g = Vector.replicate 32 0
        ∧ t.mem = s.mem ∧ ((me s).home = s.cur → t.pending = s.pending)
        ∧ ((me s).home ≠ s.cur → (me s).home.core < modBase → t.pending = s.pending ++ [.freeMessage (me s).home]))
    ∧ (∀ r : TRef, r.slot < 27 → (thr s r).st = .away →
      ∃ t, exec .freeMessage (facing s (.freeMessage r)) = .next t ∧ (thr t r).st = .free ∧ t.mem = s.mem
        ∧ t.pending = s.pending))

/-- R81, R82: mailboxes. `sendm` to a role bound on this module, its fence done, sends its two words and its unit word to
the slot named. At a core that accepts it (`mailboxMessage`), a live slot with an empty mailbox takes it and 0 is answered;
a live slot with a full one, or an away slot, answers 1; a free slot 5; slot 27 answers 0 and a WAKE follows; a slot from 28
up answers 4. `wfm` takes the message, or waits for one; `park` answers 1 at once with a message there, and else waits, with
its limit; at its limit (`parkTimeout`), on a core that is not stopped, it answers 0. -/
def Obligations.Mailboxes : Prop :=
  ∀ (s : State) (a b c : Reg),
    (∀ e d, QueuesReady s [c, b, regUp b 1] [a] → let code := bits (rd s c) 15 0
      RoleIs s code e → entV e = true → entCore e = some d → entMod e = s.fab.modnum →
      FenceOpen s (destScope s e (decide (code / 2 ^ 14 = 3))) → ∃ m : MailMsg,
      exec (.sendm a b c) s = .next (asked (post (roleRead s code) (.mailboxMessage m)) 3 [c, b, regUp b 1] (a == 31) .dflt)
      ∧ m.dest = d ∧ m.role = code ∧ m.gen = entGen e ∧ m.slot = bits (rd s c) 20 16 ∧ m.mail.w0 = rd s b
      ∧ m.mail.w1 = rd s (regUp b 1) ∧ m.mail.sender = unitWord s.fab.modnum s.cur.core)
    ∧ (∀ (m : MailMsg) (r : TRef), m.rto = .thr r → arriveAt s m.dest m.ident m.hops = .accept →
      let x := thr s ⟨m.dest, m.slot⟩
      let run := exec .mailboxMessage (facing s (.mailboxMessage m))
      (m.slot < 27 →
        (x.st = .live → x.mailbox = none → x.parked = none → ∃ t, run = .next t
          ∧ thr t ⟨m.dest, m.slot⟩ = { x with mailbox := some m.mail } ∧ Replied t r (.writes [(m.dst, 0)]))
        ∧ (x.st = .away ∨ (x.st = .live ∧ x.mailbox ≠ none) → ∃ t, run = .next t ∧ Replied t r (.writes [(m.dst, 1)])
          ∧ thr t ⟨m.dest, m.slot⟩ = x)
        ∧ (x.st = .free → ∃ t, run = .next t ∧ Replied t r (.writes [(m.dst, 5)]) ∧ thr t ⟨m.dest, m.slot⟩ = x))
      ∧ (m.slot = 27 → ∃ t k, run = .next t
          ∧ t.pending = s.pending ++ [.wakeMessage k, .reply r (.writes [(m.dst, 0)])] ∧ k.dest = m.dest ∧ k.mail = m.mail)
      ∧ (28 ≤ m.slot → ∃ t, run = .next t ∧ Replied t r (.writes [(m.dst, 4)]) ∧ t.cores = s.cores))
    ∧ (QueuesReady s [] [a, regUp a 1, regUp a 2] → 1 ≤ a.val → a.val ≤ 25 →
      (∀ m : Mail, (me s).mailbox = some m →
        ∃ t, exec (.wfm a) s = .next t ∧ (me t).mailbox = none
        ∧ (me t).g = (((me s).g.set a m.w0).set (regUp a 1) m.w1).set (regUp a 2) m.sender
        ∧ (me t).pc = (me s).pc + 4 ∧ (me t).wait = .none)
      ∧ ((me s).mailbox = none → exec (.wfm a) s = .next (modMe s (fun t => { t with wait := .retry .mailbox }))))
    ∧ (QueuesReady s [b] [a] →
      ((me s).mailbox ≠ none → exec (.park a b) s = .next (wrote s 2 [b] a 1))
      ∧ ((me s).mailbox = none → ∃ t p, exec (.park a b) s = .next t ∧ (me t).wait = .reply 2 p (a == 31) .dflt
          ∧ (me t).parked = some (if rd s b = 0 then none else some (s.cycle + (rd s b).toNat), a)))
    ∧ (∀ (r : TRef) (d : Nat) (q : Reg) (p : Option QEntry), (thr s r).parked = some (some d, q) → d ≤ s.cycle →
      parkHeld s r.core (thr s r) = false → (thr s r).wait = .reply 2 p false .dflt → (thr s r).mailbox = none → q ≠ 0 → q ≠ 31 →
      ∃ t, exec .parkTimeout (facing s (.parkTimeout r)) = .next t ∧ (thr t r).parked = none ∧ (thr t r).g[q] = 0
        ∧ (thr t r).pc = (thr s r).pc + 4 ∧ (thr t r).wait = .none)

/-- R82, R84: `yield` passes and remembers the slots of its core that could issue; `gsig` sends the completion signal of its
dispatch tag with its node and generation, and the run form a run request, each after a `.dev` fence. That they go to the
Arbor of the module where the thread runs, for a thread away from its home module too, is the model's choice (log entry 54:
R84 is silent). R85: `rolq`, in both forms, writes 0 for a code that names no role, and else is answered the whole binding
entry. -/
def Obligations.YieldSignalsAndRoles : Prop :=
  (∀ (s : State) (a b : Reg),
    (∃ t, exec .yield s = .next t ∧ (me t).wait = .none ∧ (me t).pc = (me s).pc + 4 ∧ (me t).g = (me s).g
      ∧ ∀ n, n ∈ (me t).yieldTo ↔ n < 32 ∧ n ≠ s.cur.slot ∧ eligible s ⟨s.cur.core, n⟩ = true)
    ∧ (FenceOpen s .dev →
      (QueuesReady s [a, b] [] → exec (.gsig a b) s = .next (passed (post s (.completionSignal ((me s).launch.getD 0xFFFF)
        (me s).dtag (bits (rd s a) 31 0) (bits (rd s b) 31 0))) 2 [a, b]))
      ∧ (QueuesReady s [a] [] → exec (.gsigRun a) s = .next (passed (post s (.runRequest ((me s).launch.getD 0xFFFF)
        (bits (rd s a) 3 0) 1)) 3 [a]))))
  ∧ (∀ (s : State) (a b : Reg) (i : Imm),
    (QueuesReady s [b] [a] → let code := bits (rd s b) 15 0
      (resolve s (me s) code = .none → exec (.rolq a b) s = .next (wrote s 2 [b] a 0))
      ∧ (∀ e, RoleIs s code e → exec (.rolq a b) s =
          .next (asked (post (roleRead s code) (.reply s.cur (.writes [(a, e)]))) 2 [b] (a == 31) .dflt)))
    ∧ (QueuesReady s [] [a] →
      (resolve s (me s) i.v.toNat = .none → exec (.rolqImm a i) s = .next (wrote s (2 + i.n) [] a 0))
      ∧ (∀ e, RoleIs s i.v.toNat e → exec (.rolqImm a i) s =
          .next (asked (post (roleRead s i.v.toNat) (.reply s.cur (.writes [(a, e)]))) (2 + i.n) [] (a == 31) .dflt))))

/-- R72, R83, R180, R379: messages that start or carry threads. A WAKE, XLAT, RECALL or SYS message at its core starts slot
27, 28, 30 or 31, where that is idle with no earlier message before it (a WAKE with `wakev` not zero), at its entry address
with the three words in g1 to g3, and behind a live slot it waits in the queue of its class. A context that another module
ships (`contextShipment`) takes a guest slot of its teller, and a `migr` completes there (shown of gd not g31); one that
this module's FBCAP does not allow is sent back with a NACK. R83: `migr` with gd not g31. In a slot from 27 up, and at home
with b = 0, it answers 4; to a word of this module whose stack's tellers have no free guest slot it answers 1; with one,
from home and with the thread's earlier accesses done, the context stands in that slot behind the instruction, with g[a] =
0, and the home slot is away. -/
def Obligations.MessagesStartThreads : Prop :=
  (∀ (s : State),
    (∀ (m : ClassMsg) (n : Nat) (e : Ev) (ins : Instr),
      (n, e, ins) ∈ [(27, Ev.wakeMessage m, Instr.wakeMessage), (28, .xlatMessage m, .xlatMessage),
        (30, .recallMessage m, .recallMessage), (31, .sysMessage m, .sysMessage)] → m.dest < 1216 →
      let x := core s m.dest
      let entry := if n = 27 then wakevAt x s.cycle else if n = 28 then x.xlatv else if n = 30 then x.rclv else x.sysv
      ((slotOf x n).st = .idle → (slotOf x n).readyAt ≤ s.cycle → classQ x n = [] → (n = 27 → wakevAt x s.cycle ≠ 0) →
        s.fw.instAt = false →
        ∃ t, exec ins (facing s e) = .next t ∧ (let y := thr t ⟨m.dest, n⟩
          y.st = .live ∧ y.pc = entry ∧ y.fw = decide (28 ≤ n) ∧ y.g[1] = m.mail.w0 ∧ y.g[2] = m.mail.w1
          ∧ y.g[3] = m.mail.sender) ∧ t.mem = s.mem ∧ t.pending = s.pending)
      ∧ ((slotOf x n).st = .live → ∃ t, exec ins (facing s e) = .next t ∧ thr t ⟨m.dest, n⟩ = slotOf x n
          ∧ classQ (core t m.dest) n = classQ x n ++ [m.mail]))
    ∧ (∀ (q : ShipMsg) (r : TRef), q.toHome = false → shipAllowed s q.op = true → tellerSlot s q.teller = some r →
      (∀ n d, q.fin = some (n, d) → d ≠ 31) →
      ∃ t, exec .contextShipment (facing s (.contextShipment q)) = .next t ∧ (thr t r).st = .live
        ∧ (thr t r).launch = launchNum s q.ident ∧ t.mem = s.mem
        ∧ (q.fin = none → (thr t r).pc = q.ctx.pc ∧ (thr t r).g = q.ctx.g)
        ∧ ∀ n d, q.fin = some (n, d) → (thr t r).pc = q.ctx.pc + BitVec.ofNat 64 (2 * n)
          ∧ (thr t r).g = if d = 0 then q.ctx.g else q.ctx.g.set d 0)
    ∧ (∀ q : ShipMsg, q.toHome = false → shipAllowed s q.op = false →
      ∃ t k, exec .contextShipment (facing s (.contextShipment q)) = .next t ∧ t.fabOut = s.fabOut ++ [k] ∧ k.dest = q.frm
        ∧ k.body = .nack q ∧ t.cores = s.cores))
  ∧ (∀ (s : State) (a b : Reg), QueuesReady s [b] [a] → a ≠ 31 →
    (27 ≤ s.cur.slot → exec (.migr a b) s = .next (wrote s 2 [b] a 4))
    ∧ (s.cur.slot < 27 → b = 0 → (me s).home = s.cur → exec (.migr a b) s = .next (wrote s 2 [b] a 4))
    ∧ (∀ pa, s.cur.slot < 27 → b ≠ 0 → translate s s.cur (rd s b) ⟨false, false, false⟩ = .pa pa →
      (tellerSlot s (tellerOf pa) = none → exec (.migr a b) s = .next (wrote s 2 [b] a 1))
      ∧ (∀ r, tellerSlot s (tellerOf pa) = some r → (me s).home = s.cur → (me s).stmOut = 0 → (me s).rupdOut = 0 →
          (∀ e ∈ (myCore s).sbuf, e.slot ≠ s.cur.slot) → r ≠ s.cur → r.core ≠ s.cur.core →
          ∃ t, exec (.migr a b) s = .next t ∧ (me t).st = .away
            ∧ (thr t r).st = .live ∧ (thr t r).pc = (me s).pc + 4 ∧ (thr t r).home = s.cur
            ∧ (thr t r).g = (if a = 0 then (me s).g else (me s).g.set a 0) ∧ (thr t r).wait = .none ∧ t.mem = s.mem)))

/-! ## Ordering (R259 to R281) -/

/-- R264, R147: `fence` passes at once where everything it waits for is done, and else leaves the thread waiting for exactly
that: the posted `stm` of the thread; from `.cl` up the stores that stand in the core's buffer; from `.dev` up the thread's
remote updates. Without XS its scope is `.sys`. R288, R299: `sealq` asks for a seal and writes the current interval number
without waiting; `ivn` writes it, `ivn.rb` the rollback count; `sealw` writes the sealed number while no entry of its home
slot is in an escrow, asks the module of its home for that where the home is on another module, and else asks for a seal and
waits. On the leader, which all three quoted clauses concern, the request is a message to itself; on another module it is a
packet to the leader. -/
def Obligations.FencesAndSeals : Prop :=
  (∀ (s : State) (xs : Option Scope),
    let sc := xs.getD .sys
    let weak := sc = .core
    let far := sc = .dev ∨ sc = .dom ∨ sc = .sys ∨ sc = .dflt
    let len := 2 + optLen xs
    ((me s).stmOut = 0 → (weak ∨ (myCore s).sbuf = []) → (far → (me s).rupdOut = 0) →
      exec (.fence xs) s = .next (passed s len []))
    ∧ ((me s).stmOut ≠ 0 ∨ (far ∧ (me s).rupdOut ≠ 0) ∨ (¬weak ∧ (myCore s).sbuf ≠ []) →
      ∃ t d, exec (.fence xs) s = .next t ∧ me t = { me s with wait := .drain d len } ∧ d.stm = true
        ∧ d.sbuf = (if weak then [] else (myCore s).sbuf.map (·.id)) ∧ (d.rupd = true ↔ far) ∧ t.mem = s.mem))
  ∧ (∀ (s : State) (d : Reg), QueuesReady s [] [d] →
    exec (.ivn d) s = .next (wrote s 2 [] d (s.sl.ivnum.setWidth 64))
    ∧ exec (.ivnRb d) s = .next (wrote s 2 [] d (s.sl.rbc.setWidth 64))
    ∧ (∃ t, exec (.sealq d) s = .next t ∧ me t = me (wrote s 2 [] d (s.sl.ivnum.setWidth 64))
        ∧ (isLeader s = true → t.pending = s.pending ++ [.sealRequest s.fab.modnum])
        ∧ (isLeader s = false → ∃ p, t.fabOut = s.fabOut ++ [p] ∧ p.dest = leaderOf s ∧ p.body = .sealReq s.fab.modnum))
    ∧ ((∀ e ∈ s.escrow, ∀ x ∈ e.2, x.home ≠ (me s).home) →
        (foreignMod (me s).home.core = none → exec (.sealw d) s = .next (wrote s 2 [] d (s.sl.sealed.setWidth 64)))
        ∧ ∀ m, foreignMod (me s).home.core = some m → exec (.sealw d) s = .next (asked (emit (modMe s (fun t => { t with long := true }))
            m .adaptive (.jobReq ⟨.sealw, ⟨foreignCore (me s).home.core, (me s).home.slot⟩, 0, d, .away s.fab.modnum (awayTag s.cur)⟩))
            2 [] (d == 31) .dflt))
    ∧ (∀ e ∈ s.escrow, ∀ x ∈ e.2, x.home = (me s).home →
        ∃ t, exec (.sealw d) s = .next t ∧ me t = { me s with wait := .retry .sealw }
          ∧ (isLeader s = true → t.pending = s.pending ++ [.sealRequest s.fab.modnum])
          ∧ (isLeader s = false → ∃ p, t.fabOut = s.fabOut ++ [p] ∧ p.dest = leaderOf s ∧ p.body = .sealReq s.fab.modnum)))

/-- R274 to R278: barrier instructions. A word with a reserved bit takes trap 0x03 with it; a thread whose home is a teller
core takes trap 0x07. That the first comes before the second is the model's order (log entry 12): no rule gives one. With
the `.cl` fence open `bar.v` sends its arrival, `bar.w` and its test form ask for their phase, each at the barrier of the
bind cluster of the home core, or in a packet to the home core's module; `bar.t` at a home core of this module sets TARGET
with status 0, or answers 4 while an arrival is counted or held, and a TARGET above 16 bits takes trap 0x03. R276, R277: at
the barrier (`arrive`, `barwRequest`). With TARGET 0 both are answered trap 0x07 with the word. Where no arrival is counted
or held and no `bar.w` waits, an AUTO arrival counts in phase DONE and is answered its number; with TARGET 1 it completes
that phase: DONE rises and its count goes back to zero. A `bar.w` of a completed phase is answered DONE, one of phase DONE
waits; the test form is answered 1 and 0. -/
def Obligations.Barriers : Prop :=
  (∀ (s : State) (d b c : Reg),
    let w := rd s b
    let at_ := barUnit s (me s)
    let rto := ReplyTo.away s.fab.modnum (32 * s.cur.core + s.cur.slot)
    let bad := bits w 7 4 ≠ 0 ∨ bits w 31 9 ≠ 0
    let auto := bits w 8 8 = 1
    (barUnit s (me s) = none ↔ homeTeller (me s) = true)
    ∧ (homeTeller (me s) = false → homeHere (me s) = true → at_ = some (.here (core s (me s).home.core).bindCl))
    ∧ (QueuesReady s [b] [d] →
      (bad → exec (.barv d b) s = .next (trapMe s 0x03 w) ∧ exec (.barw d b) s = .next (trapMe s 0x03 w)
        ∧ exec (.barwT d b) s = .next (trapMe s 0x03 w))
      ∧ (¬bad → at_ = none → exec (.barv d b) s = .next (trapMe s 0x07 w))
      ∧ (¬bad → FenceOpen s .cl →
        (∀ cl, at_ = some (.here cl) → exec (.barv d b) s = .next (asked (post s (.arrive
          ⟨cl, bits w 3 0, bits w 8 8 == 1, bits w 63 32, w, some (.thr s.cur, d)⟩)) 2 [b] (d == 31) .dflt))
        ∧ ∀ m h, at_ = some (.away m h) → exec (.barv d b) s = .next (asked (emit (modMe s (fun t => { t with long := true }))
          m .ordered (.arrive ⟨h, bits w 3 0, bits w 8 8 == 1, bits w 63 32, w, some (rto, d)⟩)) 2 [b] (d == 31) .dflt))
      ∧ (¬bad → ¬auto → ∀ (test : Bool) (len : Nat) (i : Instr), (test, len, i) ∈ [(false, 2, Instr.barw d b), (true, 3, .barwT d b)] →
        (at_ = none → exec i s = .next (trapMe s 0x07 w))
        ∧ (∀ cl, at_ = some (.here cl) → exec i s = .next (asked (post s (.barwRequest
          ⟨cl, bits w 3 0, bits w 63 32, test, w, .thr s.cur, d⟩)) len [b] (d == 31) .dflt))
        ∧ ∀ m h, at_ = some (.away m h) → exec i s = .next (asked (emit (modMe s (fun t => { t with long := false })) m .ordered
          (.barw ⟨h, bits w 3 0, bits w 63 32, test, w, rto, d⟩)) len [b] (d == 31) .dflt)))
    ∧ (QueuesReady s [b, c] [d] → ¬bad → ¬auto → bits w 63 32 = 0 → ∀ cl, at_ = some (.here cl) →
      let x := bar s cl (bits w 3 0)
      (bits (rd s c) 63 16 ≠ 0 → exec (.bart d b c) s = .next (trapMe s 0x03 (rd s c)))
      ∧ (bits (rd s c) 63 16 = 0 → (∀ n ∈ x.cnts.toList, n = 0) → x.held = [] → ∃ t, exec (.bart d b c) s = .next t
        ∧ bar t cl (bits w 3 0) = { x with target := bits (rd s c) 15 0 }
        ∧ me t = me (wrote s 3 [b, c] d 0))
      ∧ (bits (rd s c) 63 16 = 0 → (∃ n ∈ x.cnts.toList, n ≠ 0) ∨ x.held ≠ [] →
          exec (.bart d b c) s = .next (wrote s 3 [b, c] d 4))))
  ∧ (∀ (s : State) (a : TRef) (d : Reg) (cl n : Nat) (w : Word),
    let x := bar s cl n
    let arr := fun auto q => exec .arrive (facing s (.arrive ⟨cl, n, auto, q, w, some (.thr a, d)⟩))
    let ask := fun test q => exec .barwRequest (facing s (.barwRequest ⟨cl, n, q, test, w, .thr a, d⟩))
    (x.target = 0 → (∀ auto q, ∃ t, arr auto q = .next t ∧ Replied t a (.trap 0x07 w []) ∧ t.mem = s.mem)
      ∧ ∀ test q, ∃ t, ask test q = .next t ∧ Replied t a (.trap 0x07 w []))
    ∧ (1 < x.target → x.cnts = Vector.replicate 4 0 → x.held = [] → x.waiters = [] → x.done < 2 ^ 32 →
        ∃ t, arr true 0 = .next t ∧ Replied t a (.writes [(d, BitVec.ofNat 64 x.done)])
          ∧ (bar t cl n).done = x.done ∧ (bar t cl n).target = x.target
          ∧ ∀ i, i < 4 → (bar t cl n).cnts.toList.getD i 0 = if i = x.done % 4 then 1 else 0)
    ∧ (x.target = 1 → x.cnts = Vector.replicate 4 0 → x.held = [] → x.waiters = [] → x.done < 2 ^ 32 →
        ∃ t, arr true 0 = .next t ∧ Replied t a (.writes [(d, BitVec.ofNat 64 x.done)])
          ∧ (bar t cl n).done = (x.done + 1) % 2 ^ 32 ∧ (bar t cl n).cnts = Vector.replicate 4 0)
    ∧ (∀ q, x.target ≠ 0 → (x.done + 2 ^ 32 - q) % 2 ^ 32 ≠ 0 → (x.done + 2 ^ 32 - q) % 2 ^ 32 ≤ 2 ^ 31 → q < 2 ^ 32 →
        x.done < 2 ^ 32 →
        (∃ t, ask false q = .next t ∧ t.pending = s.pending ++ [.reply a (.writes [(d, BitVec.ofNat 64 x.done)])])
        ∧ ∃ t, ask true q = .next t ∧ t.pending = s.pending ++ [.reply a (.writes [(d, 1)])])
    ∧ (x.target ≠ 0 → x.done < 2 ^ 32 →
        (∃ t, ask false x.done = .next t ∧ t.pending = s.pending
          ∧ (bar t cl n).waiters = x.waiters ++ [⟨cl, n, x.done, false, w, .thr a, d⟩])
        ∧ ∃ t, ask true x.done = .next t ∧ t.pending = s.pending ++ [.reply a (.writes [(d, 0)])]))

/-! ## CSRs, translation and debugging (R179 to R183, R306, R307, R318) -/

/-- R307, R306: the CSR instructions. A firmware CSR without FW takes trap 0x0F with `tval` its number, and nothing is
written; else `csrr` writes the CSR's value as this cycle sees it (the value before a write of a core CSR stands for seven
cycles), and `csrw`, `csrs`, `csrc` change a writable CSR to g[a], to its value with those bits set, and to its value with
those bits cleared: shown of `tvec` (bit 0 reads as zero), `tepc`, `tcause` (six bits), `tval`, `qhv`, `qhlk`, `vlive`,
`wakev`, `fetmo`, the event counters (32 bits), `dbgctl` and `tlbcfg`; the read-only slot, unit word and launch CSRs keep
their value. R318, R182: `dbgi`. Without FW it is an illegal instruction. With it, of an operand word with no reserved bit:
HALT and RESUME set and clear HLTD, each with status 0; on a halted core a read of g1 to g29 or of the pc of another live
slot writes its value with status 0, and a write of one of those registers changes it alone in that slot; operations 3 to 7
on a core that is not halted write 0 with status 4. -/
def Obligations.CsrsAndDebugging : Prop :=
  (∀ (s : State) (a : Reg) (i : Imm), 0 ≤ i.v →
    let n := i.v.toNat
    let x := rd s a
    let old := csrVal s n
    let locked := 0x180 ≤ n ∧ n ≤ 0x185 ∧ (me s).fw = false
    let num := BitVec.ofNat 64 n
    (QueuesReady s [] [a] →
      (locked → exec (.csrr a i) s = .next (trapMe s 0x0F num))
      ∧ (¬locked → exec (.csrr a i) s = .next (wrote s (2 + i.n) [] a (csrSeen s n))))
    ∧ ((myCore s).csrOld = [] → csrSeen s n = old)
    ∧ (QueuesReady s [a] [] →
      (locked → exec (.csrw a i) s = .next (trapMe s 0x0F num) ∧ exec (.csrs a i) s = .next (trapMe s 0x0F num)
        ∧ exec (.csrc a i) s = .next (trapMe s 0x0F num))
      ∧ (∀ (ins : Instr) (v : Word), ¬locked →
          (ins, v) ∈ [(Instr.csrw a i, x), (.csrs a i, old ||| x), (.csrc a i, old &&& ~~~x)] →
          ∃ t, exec ins s = .next t ∧ (me t).pc = (me s).pc + BitVec.ofNat 64 (2 * (2 + i.n)) ∧ (me t).g = (me s).g
            ∧ (me t).wait = .none ∧ t.mem = s.mem ∧ t.pending = s.pending
            ∧ (n = 1 → (me t).tvec = v &&& ~~~1) ∧ (n ≠ 1 → (me t).tvec = (me s).tvec)
            ∧ (n = 2 → (me t).tepc = v) ∧ (n ≠ 2 → (me t).tepc = (me s).tepc)
            ∧ (n = 3 → (me t).tcause = v &&& 0x3F) ∧ (n = 4 → (me t).tval = v) ∧ (n = 5 → (me t).qhv = v &&& ~~~1)
            ∧ (n = 6 → (me t).qhlk = v &&& ~~~1) ∧ (n = 8 → (me t).vlive = v.getLsbD 0)
            ∧ (n = 0x180 → (myCore t).bkh = v.getLsbD 0) ∧ (n = 0x181 → (myCore t).tlbcfg = v.setWidth 6)
            ∧ (n = 0x102 → (myCore t).wakev = v &&& ~~~1) ∧ (n = 0x103 → (myCore t).fetmo = v)
            ∧ (n = 0x104 → (myCore t).nsat = v.setWidth 32)
            ∧ (n = 0x105 → (myCore t).nnan = v.setWidth 32) ∧ (n = 0x106 → (myCore t).nbso = v.setWidth 32)
            ∧ (n = 0 → (me t).fwte = v.getLsbD 8) ∧ (me t).fw = (me s).fw ∧ (me t).th = (me s).th ∧ (me t).qh = (me s).qh
            ∧ (n = 0x107 ∨ n = 0x108 ∨ n = 7 → csrVal t n = old))))
  ∧ (∀ (s : State) (a b c : Reg), 1 ≤ a.val → a.val ≤ 26 →
    ((me s).fw = false → exec (.dbgi a b c) s = .next (trapMe s 0x01 ((me s).pc + 4)))
    ∧ ((me s).fw = true → QueuesReady s [b, c] [a, regUp a 1] →
      let w := rd s b
      let r : Reg := Fin.ofNat 32 (bits w 13 9)
      let x := slotOf (myCore s) (bits w 8 4)
      (bits w 63 14 = 0 →
        (bits w 3 0 = 0 → ∃ t, exec (.dbgi a b c) s = .next t ∧ (myCore t).hltd = true ∧ (me t).g[regUp a 1] = 0)
        ∧ (bits w 3 0 = 1 → ∃ t, exec (.dbgi a b c) s = .next t ∧ (myCore t).hltd = false ∧ (me t).g[regUp a 1] = 0)
        ∧ (3 ≤ bits w 3 0 → bits w 3 0 ≤ 7 → (myCore s).hltd = false →
            ∃ t, exec (.dbgi a b c) s = .next t ∧ (me t).g[regUp a 1] = 4 ∧ (me t).g[a] = 0)
        ∧ ((myCore s).hltd = true → bits w 8 4 ≤ 26 → x.st = .live → bits w 8 4 ≠ s.cur.slot →
          (bits w 3 0 = 3 → 1 ≤ r.val → r.val ≤ 29 → ∃ t, exec (.dbgi a b c) s = .next t
            ∧ (me t).g[a] = x.g[r] ∧ (me t).g[regUp a 1] = 0)
          ∧ (bits w 3 0 = 5 → ∃ t, exec (.dbgi a b c) s = .next t ∧ (me t).g[a] = x.pc ∧ (me t).g[regUp a 1] = 0)
          ∧ (bits w 3 0 = 4 → 1 ≤ r.val → r.val ≤ 29 → ∃ t, exec (.dbgi a b c) s = .next t
            ∧ slotOf (myCore t) (bits w 8 4) = { x with g := x.g.set r (rd s c) } ∧ (me t).g[regUp a 1] = 0)))))

/-- R182, R183: the TLB instructions. Without FW `tlbw` and both forms of `tlbi` are illegal instructions; with it, `tlbw`
on the core's own TLB with a legal entry and both forms of `tlbi` on it send their message (g0 names the own TLB); with any
FW `tlbp` writes W1 of the entry that covers the address with bit 51 set, or 0. R179, R183: at the TLB. An entry of V 1 is
installed on a core's TLB, so that the address it names translates by it, the entries it overlaps are gone, and the misses
of its page end; the writer is answered 0 (`tlbwInstall`). A SHOOT removes every entry that covers its address, and where no
request of the core is outstanding answers 0 (`shootMessage`). -/
def Obligations.Translation : Prop :=
  (∀ (s : State) (a b c : Reg),
    ((me s).fw = false →
      exec (.tlbw a b c) s = .next (trapMe s 0x01 ((me s).pc + 4)) ∧ exec (.tlbi a b c) s = .next (trapMe s 0x01 ((me s).pc + 4))
      ∧ exec (.tlbiAll a c) s = .next (trapMe s 0x01 ((me s).pc + 4)))
    ∧ ((me s).fw = true → isTeller s.cur.core = false →
      let q := [b, regUp b 1, 0]
      (QueuesReady s q [a] → entryBad (rd s b) (rd s (regUp b 1)) = false → exec (.tlbw a b 0) s = .next (asked (post s
          (.tlbwInstall ⟨.core s.cur.core, rd s b, rd s (regUp b 1), none, .thr s.cur, a, lockOf s (.core s.cur.core)⟩)) 3 q (a == 31)
          .dflt))
      ∧ (∀ l, (cluster s (clusterOf s.cur.core)).launch = some l →
        (QueuesReady s [b, 0] [a] → exec (.tlbi a b 0) s = .next (asked (post s
            (.shootMessage ⟨.core s.cur.core, some (rd s b), none, .thr s.cur, a, none⟩)) 3 [b, 0] (a == 31) .dflt))
        ∧ (QueuesReady s [0] [a] → exec (.tlbiAll a 0) s = .next (asked (post s
            (.shootMessage ⟨.core s.cur.core, none, none, .thr s.cur, a, none⟩)) 3 [0] (a == 31) .dflt))))
    ∧ (QueuesReady s [b] [a] →
      (∀ e, tlbFind (myCore s).tlb (isTeller s.cur.core) (me s).launch (rd s b) = some e →
        exec (.tlbp a b) s = .next (wrote s 2 [b] a (e.w1 ||| BitVec.twoPow 64 51)))
      ∧ (tlbFind (myCore s).tlb (isTeller s.cur.core) (me s).launch (rd s b) = none →
        exec (.tlbp a b) s = .next (wrote s 2 [b] a 0))))
  ∧ (∀ (s : State) (c lock : Nat) (r : TRef) (d : Reg),
    (∀ w0 w1 : Word, isTeller c = false → bits w0 0 0 = 1 → entryBad w0 w1 = false →
      ∃ t, exec .tlbwInstall (facing s (.tlbwInstall ⟨.core c, w0, w1, none, .thr r, d, lock⟩)) = .next t
        ∧ Replied t r (.writes [(d, 0)]) ∧ t.mem = s.mem
        ∧ (∃ k, fget (core t c).tlb k = some ⟨w0, w1, none⟩)
        ∧ (∀ e ∈ (core t c).tlb, e.2 ≠ ⟨w0, w1, none⟩ → tlbOverlap e.2 ⟨w0, w1, none⟩ = false)
        ∧ ∀ m ∈ (core t c).misses, missMet ⟨w0, w1, none⟩ false m = false)
    ∧ (∀ va : Word, (core s c).sbuf = [] → (core s c).streams = [] → s.pending = [] → s.waits = [] → s.resvs = [] →
      chainsOut s c = [] →
      ∃ t, exec .shootMessage (facing s (.shootMessage ⟨.core c, some va, none, .thr r, d, none⟩)) = .next t
        ∧ Replied t r (.writes [(d, 0)]) ∧ (core t c).tlb = (core s c).tlb.filter (fun e => !tlbCovers e.2 va)
        ∧ t.mem = s.mem))

/-! ## Vector work (R188 to R204) -/

/-- R193, R194, R189: the lane-by-lane arithmetic (`vadd`, `vsub`, `vmul`, `vmin`, `vmax`, `vfma`, `vabs`, `vneg`) and logic
(`vand`, `vor`, `vxor`, `vnot`, `vmov`, `vshl`, `vshr`, `vsra`) complete and write each governed lane: an integer is exact
and then truncated (with SAT first clamped, and counted), a float is the exact result rounded once. -/
def Obligations.VectorArithmeticAndLogic : Prop :=
  ∀ (s : State) (q : VArith) (p : PReg) (d b : VReg) (x : VSrc), QueuesReady s (vsrcRegs x) [] →
    let srcs := vsrcRegs x
    let fst := fun n => laneN (if x = .short then vrd s d else vrd s b) n
    let snd := fun n => match x with
      | .short => laneN (vrd s b) n
      | .vec c => laneN (vrd s c) n
      | .gen c => (rd s c).setWidth 32
    let one := fun n => laneN (vrd s b) n
    let num := fun (l : Lane) => if q.u then (l.toNat : Int) else l.toInt
    let val := laneVal q.t
    let lane := fun (e : Int) (v : Val) => if q.t = .i32 then intLane q e else fltLane q v
    let plain := fun (l : Lane) => (l, Events.none)
    let len := 2 + vsrcLen x
    LaneResults (exec (.vadd q p d b x) s) s len srcs p d
      (fun n => lane (num (fst n) + num (snd n)) (addV q.rm (val (fst n)) (val (snd n))))
    ∧ LaneResults (exec (.vsub q p d b x) s) s len srcs p d
      (fun n => lane (num (fst n) - num (snd n)) (addV q.rm (val (fst n)) (negV (val (snd n)))))
    ∧ LaneResults (exec (.vmul q p d b x) s) s len srcs p d
      (fun n => lane (num (fst n) * num (snd n)) (mulV (val (fst n)) (val (snd n))))
    ∧ LaneResults (exec (.vmin q p d b x) s) s len srcs p d
      (fun n => lane (min (num (fst n)) (num (snd n))) (minV (val (fst n)) (val (snd n))))
    ∧ LaneResults (exec (.vmax q p d b x) s) s len srcs p d
      (fun n => lane (max (num (fst n)) (num (snd n))) (maxV (val (fst n)) (val (snd n))))
    ∧ (∀ e : VReg, LaneResults (exec (.vfma q p d b x e) s) s 3 srcs p d (fun n =>
        lane (num (one n) * num (snd n) + num (laneN (vrd s e) n))
          (addV q.rm (mulV (val (one n)) (val (snd n))) (val (laneN (vrd s e) n)))))
    ∧ LaneResults (exec (.vabs q p d b) s) s 2 [] p d (fun n => lane ((num (one n)).natAbs : Int) (absV (val (one n))))
    ∧ LaneResults (exec (.vneg q p d b) s) s 2 [] p d (fun n => lane (-(num (one n))) (negV (val (one n))))
    ∧ LaneResults (exec (.vand p d b x) s) s len srcs p d (fun n => plain (fst n &&& snd n))
    ∧ LaneResults (exec (.vor p d b x) s) s len srcs p d (fun n => plain (fst n ||| snd n))
    ∧ LaneResults (exec (.vxor p d b x) s) s len srcs p d (fun n => plain (fst n ^^^ snd n))
    ∧ LaneResults (exec (.vnot p d b) s) s 2 [] p d (fun n => plain (~~~(one n)))
    ∧ LaneResults (exec (.vmov p d b) s) s 2 [] p d (fun n => plain (one n))
    ∧ LaneResults (exec (.vshl p d b x) s) s len srcs p d (fun n => plain (fst n <<< ((snd n).toNat % 32)))
    ∧ LaneResults (exec (.vshr p d b x) s) s len srcs p d (fun n => plain (fst n >>> ((snd n).toNat % 32)))
    ∧ LaneResults (exec (.vsra p d b x) s) s len srcs p d (fun n => plain ((fst n).sshiftRight ((snd n).toNat % 32)))

/-- R195, R196, R203, R204: compare (`vcmp`), select and lane moves (`vsel`, `vperm`, `vbcst`, `vext`, `vins`), predicates
(`pset`, `pget`), and the loads and stores of lanes (`vld`, `vst`): their checks in order, then each governed lane; a store
writes no byte outside the governed lanes' bytes. -/
def Obligations.VectorMovesAndLoads : Prop :=
  ∀ (s : State) (p : PReg) (d b : VReg) (x : VSrc) (r : Reg),
    let snd := fun n => match x with
      | .short => laneN (vrd s b) n
      | .vec c => laneN (vrd s c) n
      | .gen c => (rd s c).setWidth 32
    let one := fun n => laneN (vrd s b) n
    (QueuesReady s (vsrcRegs x) [] →
      (∀ (cc : VCond) (t : VType) (u : Bool) (e : PReg), ∃ m : Lane,
        exec (.vcmp cc t u p e b x) s = .next (passed (if e = 0 then s else pwr s e m) 3 (vsrcRegs x))
        ∧ ∀ n, n < 32 → m.getLsbD n = ((prd s p).getLsbD n &&
          (if t = .i32 then
            let y := if u then ((one n).toNat : Int) else (one n).toInt
            let z := if u then ((snd n).toNat : Int) else (snd n).toInt
            match cc with
            | .eq => decide (y = z) | .ne => decide (y ≠ z) | .lt => decide (y < z) | .le => decide (y ≤ z)
            | .gt => decide (z < y) | .ge => decide (z ≤ y) | .uo => false
          else
            let y := laneVal t (one n)
            let z := laneVal t (snd n)
            let un := y == .nan || z == .nan
            match cc with
            | .eq => !un && eqV y z | .ne => un || !eqV y z | .lt => !un && ltV y z | .le => !un && (ltV y z || eqV y z)
            | .gt => !un && !ltV y z && !eqV y z | .ge => !un && !ltV y z | .uo => un)))
      ∧ ∃ v, exec (.vsel p d b x) s = .next (passed (vwr s d v) 3 (vsrcRegs x))
        ∧ ∀ n, n < 32 → laneN v n = if (prd s p).getLsbD n then one n else snd n)
    ∧ (∀ c : VReg, LaneResults (exec (.vperm p d b c) s) s 3 [] p d (fun n =>
        let k := (laneN (vrd s c) n).toNat
        (if k < 32 then one k else 0, Events.none)))
    ∧ (QueuesReady s [r] [] →
      LaneResults (exec (.vbcst p d r) s) s 2 [r] p d (fun _ => ((rd s r).setWidth 32, Events.none))
      ∧ (∀ n : Fin 32, exec (.vins d r n) s = .next (passed (vwr s d ((vrd s d).set n ((rd s r).setWidth 32))) 3 [r]))
      ∧ (∀ e : PReg, exec (.pset e r) s = .next (passed (pwr s e ((rd s r).setWidth 32)) 2 [r])))
    ∧ (QueuesReady s [] [r] →
      (∀ n : Fin 32, exec (.vext r b n) s = .next (wrote s 3 [] r ((laneN (vrd s b) n.val).setWidth 64)))
      ∧ ∀ e : PReg, exec (.pget r e) s = .next (wrote s 2 [] r ((prd s e).setWidth 64)))
    ∧ (∀ (sp : Space) (w : Width) (i : Imm), QueuesReady s [r] [] →
      let off := rd s r + BitVec.ofInt 64 i.v
      let stops := fun (code : Nat) (ins : Instr) => exec ins s = .next (trapMe s code off)
      (off.toNat % wbytes w ≠ 0 → (∀ u, stops 0x02 (.vld sp w u p d r i)) ∧ stops 0x02 (.vst sp w p d r i))
      ∧ (off.toNat % wbytes w = 0 → bufSize sp < off.toNat + 32 * wbytes w →
          (∀ u, stops 0x03 (.vld sp w u p d r i)) ∧ stops 0x03 (.vst sp w p d r i))
      ∧ (off.toNat % wbytes w = 0 → off.toNat + 32 * wbytes w ≤ bufSize sp →
          (∀ u, ∃ v, exec (.vld sp w u p d r i) s = .next (passed (vwr s d v) (2 + i.n) [r])
            ∧ ∀ n, n < 32 → laneN v n = if (prd s p).getLsbD n then
                (let z := mword (bufOf (myCore s) sp) (off.toNat + n * wbytes w) (wbytes w)
                (if u then z else opSext w z).setWidth 32) else laneN (vrd s d) n)
          ∧ ∃ m, exec (.vst sp w p d r i) s = .next (passed (modMyCore s (fun y => setBuf y sp m)) (2 + i.n) [r])
            ∧ (Memory.wf (bufOf (myCore s) sp) = true → Memory.wf m = true ∧ ∀ k, mget m k =
                (let n := (k - off.toNat) / wbytes w
                 if off.toNat ≤ k ∧ n < 32 ∧ (prd s p).getLsbD n = true
                then (laneN (vrd s d) n).extractLsb' (8 * ((k - off.toNat) % wbytes w)) 8
                else mget (bufOf (myCore s) sp) k))))

/-- R115, R116: a number rounded once into a format. Within range its bits decode to the representable value that the mode
names, of its sign, and nothing counts; past the largest finite value it is that value, which counts, with SAT, and without
it what the mode gives. R202: special values of the approximations, and the error of `vrcp` and `vrsqrt` on a positive
finite FP32 value, at most one unit of the last place 2^q of the exact result. Which of the allowed results it is the model
leaves free (log entry 3); for `vexp2`, `vlog2` and `vtanh` they are those around an evaluation in 256-bit fixed point, and
only the exact rows are stated. R197 to R202: reductions (`vrsum`, `vrmax`, `vrmin`), conversion (`vcvt`: each kind of lane
by R124, a whole number by the mode, a float as `roundF` rounds it), block quantisation (`vscale`: the smallest scale word
at which the largest finite value does not saturate; `vquant`: each mantissa to nearest even and clamped; `vdeq`, whose
overflow in BF16 gives infinity and counts nothing, the model's choice, log entry 70), sparsity (`vcmpr`, `vexpd` with its
trap 0x09), and the approximations (`vexp2`, `vlog2`, `vrcp`, `vrsqrt`, `vtanh`), rounded once into the lane format. -/
def Obligations.VectorReductionsAndFormats : Prop :=
  (∀ (f : Fmt) (rm : Rnd) (sat neg : Bool) (m : Nat) (e : Int), f ∈ [fp32, bf16, fp16] → m ≠ 0 →
    let v := Val.fin neg m e
    let x := ratOf v
    let z := roundF f rm sat v
    let finite := fun (y : Nat) => y < 2 * f.half ∧ ∃ n k q, decodeF f y = .fin n k q
    let r := ratOf (decodeF f z.1)
    (¬Overflows f rm x → z.2 = false ∧ finite z.1 ∧ (∃ k q, decodeF f z.1 = .fin neg k q)
      ∧ ∀ y, finite y → let w := ratOf (decodeF f y)
        match rm with
        | .rne => |r - x| ≤ |w - x| ∧ (|r - x| = |w - x| → w ≠ r → z.1 % 2 = 0)
        | .rtz => |r| ≤ |x| ∧ (|w| ≤ |x| → |w| ≤ |r|)
        | .rdn => r ≤ x ∧ (w ≤ x → w ≤ r)
        | .rup => x ≤ r ∧ (x ≤ w → r ≤ w))
    ∧ (Overflows f rm x →
      (sat = true → z = (maxBits f neg, true))
      ∧ (sat = false → z = (if rm = .rne ∨ (rm = .rdn ∧ neg = true) ∨ (rm = .rup ∧ neg = false) then infBits f neg
          else maxBits f neg, false))))
  ∧ (∀ (b : Nat) (neg : Bool) (m : Nat) (e : Int), decodeF fp32 b = .fin neg m e →
    let x := (m : ℚ) * 2 ^ e
    (∀ f, approxV f (nanBits fp32) = .nan)
    ∧ (approxV .exp2 (infBits fp32 false) = .inf false ∧ approxV .exp2 (infBits fp32 true) = .fin false 0 0)
    ∧ (approxV .log2 (infBits fp32 false) = .inf false ∧ approxV .log2 (infBits fp32 true) = .nan)
    ∧ (∀ n, approxV .rcp (infBits fp32 n) = .fin n 0 0 ∧ approxV .tanh (infBits fp32 n) = .fin n 1 0)
    ∧ (approxV .rsqrt (infBits fp32 false) = .fin false 0 0 ∧ approxV .rsqrt (infBits fp32 true) = .nan)
    ∧ (∀ i : Int, ratOf (.fin neg m e) = i → -149 ≤ i → i ≤ 127 → ratOf (approxV .exp2 b) = 2 ^ i)
    ∧ (m = 0 → approxV .log2 b = .inf true ∧ approxV .rcp b = .inf neg ∧ approxV .rsqrt b = .inf neg
        ∧ approxV .tanh b = .fin neg m e)
    ∧ (m ≠ 0 → neg = true → approxV .log2 b = .nan ∧ approxV .rsqrt b = .nan)
    ∧ (∀ i : Int, neg = false → x = 2 ^ i → ∃ s k q, approxV .log2 b = .fin s k q ∧ ratOf (approxV .log2 b) = i ∧ (i = 0 → s = false))
    ∧ (x < 1 / 4096 → ratOf (approxV .tanh b) = ratOf (.fin neg m e))
    ∧ (9 ≤ x → approxV .tanh b = .fin neg 1 0)
    ∧ (m ≠ 0 → ∃ k q, approxV .rcp b = .fin neg k q ∧ |(k : ℚ) * 2 ^ q - 1 / x| ≤ 2 ^ q ∧ -149 ≤ q
        ∧ (q = -149 ∨ 2 ^ (q + 23) ≤ 1 / x) ∧ 1 / x < 2 ^ (q + 24))
    ∧ (m ≠ 0 → neg = false → ∃ k q, approxV .rsqrt b = .fin false k q ∧ 1 ≤ k
        ∧ (((k : ℚ) - 1) * 2 ^ q) ^ 2 * x ≤ 1 ∧ 1 ≤ (((k : ℚ) + 1) * 2 ^ q) ^ 2 * x
        ∧ (2 ^ (q + 23) : ℚ) ^ 2 * x ≤ 1 ∧ 1 < (2 ^ (q + 24) : ℚ) ^ 2 * x))
  ∧ (∀ (s : State) (q : VArith) (p : PReg) (d b : VReg) (r c : Reg) (t : VType) (m : Nat) (sat : Bool),
    let lanes := (vrd s b).toList
    let gov := ((List.range 32).filter (fun n => (prd s p).getLsbD n)).map (laneN (vrd s b))
    let num := fun (l : Lane) => if q.u then (l.toNat : Int) else l.toInt
    let vals := lanes.map (laneVal t)
    let scale := ((rd s c).setWidth 32).toNat
    let e8 := scale / 65536 % 256
    let scaleQ : ℚ := 2 ^ ((e8 : Int) - 127) * (1 + (scale % 65536 : Nat) / 65536)
    (QueuesReady s [] [r] →
      (q.t = .i32 →
        exec (.vrsum q r p b) s = .next (wrote s 2 [] r (BitVec.ofInt 64 ((gov.map num).sum)))
        ∧ (∃ x, exec (.vrmax q r p b) s = .next (wrote s 2 [] r (BitVec.ofInt 64 x))
          ∧ (∀ l ∈ gov, num l ≤ x) ∧ ((∃ l ∈ gov, x = num l) ∨ (gov = [] ∧ x = if q.u then 0 else -2147483648)))
        ∧ (∃ x, exec (.vrmin q r p b) s = .next (wrote s 2 [] r (BitVec.ofInt 64 x))
          ∧ (∀ l ∈ gov, x ≤ num l)
          ∧ ((∃ l ∈ gov, x = num l) ∨ (gov = [] ∧ x = if q.u then 4294967295 else 2147483647))))
      ∧ (q.t ≠ .i32 →
        (let z := tree32 (fmtOf q.t) q.sat
            ((List.range 32).map (fun n => if (prd s p).getLsbD n then laneBits q.t (laneN (vrd s b) n) else 0))
         exec (.vrsum q r p b) s = .next (passed (countMe (wr s r (BitVec.ofNat 64 z.1)) ⟨z.2, 0, 0⟩) 2 []))
        ∧ (∃ v, exec (.vrmax q r p b) s = .next (wrote s 2 [] r (BitVec.ofNat 64 (roundF (fmtOf q.t) .rne false v).1))
          ∧ v = (match gov.map (laneVal q.t) with
            | [] => .inf true
            | x :: l => l.foldl maxV x))
        ∧ (∃ v, exec (.vrmin q r p b) s = .next (wrote s 2 [] r (BitVec.ofNat 64 (roundF (fmtOf q.t) .rne false v).1))
          ∧ v = (match gov.map (laneVal q.t) with
            | [] => .inf false
            | x :: l => l.foldl minV x)))
      ∧ (2 ≤ m → m ≤ 8 → ∃ (w : Nat) (big : Bool),
        exec (.vscale t m r b) s = .next (passed (countMe (wr s r (BitVec.ofNat 64 w)) ⟨0, 0, if big then 1 else 0⟩) 2 [])
        ∧ ((∃ x ∈ vals, x = .nan) → w = 0x00FF0000 ∧ big = false)
        ∧ ((∀ x ∈ vals, x ≠ .nan) → (∀ x ∈ vals, ratOf x = 0) →
            w = (if ∃ g, Val.inf g ∈ vals then 0x00FEFFFF else 0) ∧ big = false)
        ∧ ((∀ x ∈ vals, x ≠ .nan) → ∀ z ∈ vals, (∀ x ∈ vals, |ratOf x| ≤ |ratOf z|) → ratOf z ≠ 0 →
            let a := |ratOf z| * 2 ^ (m - 1) / (2 ^ (m - 1) - 1)
            let worth := fun (u : Nat) => (2 : ℚ) ^ ((u / 65536 : Nat) - 127 : Int) * (1 + (u % 65536 : Nat) / 65536)
            (worth 0x00FEFFFF < a → w = 0x00FEFFFF ∧ big = true)
            ∧ (a ≤ worth 0x00010000 → w = 0x00010000 ∧ big = false)
            ∧ (worth 0x00010000 < a → a ≤ worth 0x00FEFFFF → 0x00010000 < w ∧ w ≤ 0x00FEFFFF ∧ big = false ∧ a ≤ worth w
              ∧ worth (w - 1) < a))))
    ∧ (∀ rm df du sf su, ∃ g : Nat → Lane × Events, LaneResults (exec (.vcvt rm sat p d b df du sf su) s) s 3 [] p d g
      ∧ ∀ n, n < 32 → let x := laneN (vrd s b) n
        let put := fun (w : Nat) (y : Int) => let lo : Int := if du then 0 else -(2 ^ (w - 1))
          let hi : Int := if du then 2 ^ w - 1 else 2 ^ (w - 1) - 1
          g n = (BitVec.ofInt 32 (max lo (min hi y)), ⟨if lo ≤ y ∧ y ≤ hi then 0 else 1, 0, 0⟩)
        let rnd := fun (v : Val) => let z := roundF (vfFmt df) rm sat v
          g n = (BitVec.ofNat 32 z.1, ⟨if z.2 then 1 else 0, 0, 0⟩)
        let whole := fun (k : Nat) => if su then ((x.setWidth k).toNat : Int) else (x.setWidth k).toInt
        let val := decodeF (vfFmt sf) (x.toNat % (2 * (vfFmt sf).half))
        match vfInt sf, vfInt df with
        | some k, some w => put w (whole k)
        | some k, none => rnd (ofInt (whole k))
        | none, none => rnd val
        | none, some w => (val = .nan → g n = (0, ⟨0, 1, 0⟩))
          ∧ (∀ h, val = .inf h → g n = (BitVec.ofInt 32 (if h then (if du then 0 else -(2 ^ (w - 1)))
              else if du then 2 ^ w - 1 else 2 ^ (w - 1) - 1), ⟨1, 0, 0⟩))
          ∧ (∀ h k q, val = .fin h k q → ∃ y, RoundsTo rm (ratOf val) y ∧ put w y))
    ∧ (QueuesReady s [c] [] →
      (2 ≤ m → m ≤ 8 → e8 ≠ 0xFF → (∀ x ∈ vals, x ≠ .nan) → ∃ (v : Vector Lane 32) (k : Nat),
        exec (.vquant t m d b c) s = .next (passed (vwr (countMe s ⟨k, 0, 0⟩) d v) 3 [c])
        ∧ (∀ n, m ≤ n → n < 32 → laneN v n = 0)
        ∧ ∃ q : Nat → Int, (∀ i, i < 32 → Mantissa v m i (max (-(2 ^ (m - 1))) (min (2 ^ (m - 1) - 1) (q i))))
          ∧ (∀ i x, vals[i]? = some x → (e8 = 0 → q i = 0)
            ∧ (e8 ≠ 0 → (x = .inf true → q i < -(2 ^ (m - 1))) ∧ (x = .inf false → 2 ^ (m - 1) ≤ q i)
              ∧ ((∀ h, x ≠ .inf h) → RoundsTo .rne (ratOf x * 2 ^ (m - 1) / scaleQ) (q i))))
          ∧ k = ((List.range 32).filter (fun i => decide (q i < -(2 ^ (m - 1))) || decide (2 ^ (m - 1) ≤ q i))).length)
      ∧ (e8 = 0xFF ∨ (∃ x ∈ vals, x = .nan) → ∃ v,
        exec (.vquant t m d b c) s = .next (passed (wr (vwr (countMe s ⟨0, (vals.filter (· = .nan)).length, 0⟩) d v) c 0x00FF0000)
          3 [c])
        ∧ ∀ n, n < 32 → laneN v n = 0)
      ∧ (2 ≤ m → m ≤ 8 → ∃ v, exec (.vdeq t m d b c) s = .next (passed (vwr s d v) 3 [c])
        ∧ ∀ n q, n < 32 → Mantissa (vrd s b) m n q →
          (e8 = 0xFF → laneN v n = BitVec.ofNat 32 (nanBits (fmtOf t)))
          ∧ (e8 ≠ 0xFF → e8 = 0 ∨ q = 0 → laneN v n = 0)
          ∧ (e8 ≠ 0xFF → e8 ≠ 0 → q ≠ 0 → ∃ k e, laneN v n =
              BitVec.ofNat 32 (roundF (fmtOf t) .rne false (.fin (decide (q < 0)) k e)).1
            ∧ ratOf (.fin (decide (q < 0)) k e) = q * scaleQ / 2 ^ (m - 1)))
      ∧ (let k := (rd s c).setWidth 32
        (goodMask k = false → exec (.vexpd d b c) s = .next (trapMe s 0x09 (rd s c)))
        ∧ (goodMask k = true → ∃ v, exec (.vexpd d b c) s = .next (passed (vwr s d v) 3 [c])
          ∧ ∀ n, n < 32 → laneN v n = if k.getLsbD n
              then laneN (vrd s b) ((List.range n).filter (fun j => k.getLsbD j)).length else 0)))
    ∧ (QueuesReady s [] [c] → ∃ v, ∃ k : Lane,
        exec (.vcmpr d b c) s = .next (passed (wr (vwr s d v) c (k.setWidth 64)) 3 [])
        ∧ (∀ n, n < 32 → k.getLsbD n = decide (((List.range 8).filter (fun i =>
            let mag := fun j => ((laneN (vrd s b) (8 * (n / 8) + j)).setWidth 8).toInt.natAbs
            decide (mag (n % 8) < mag i) || (mag i == mag (n % 8) && decide (i < n % 8)))).length < 4))
        ∧ (∀ n, n < 32 → k.getLsbD n = true → laneN v ((List.range n).filter (fun j => k.getLsbD j)).length =
            ((laneN (vrd s b) n).setWidth 8).signExtend 32)
        ∧ ∀ n, 16 ≤ n → n < 32 → laneN v n = 0)
    ∧ (∀ (f : Approx) (ins : Instr), (f, ins) ∈ [(Approx.exp2, Instr.vexp2 t sat p d b), (.log2, .vlog2 t sat p d b),
        (.rcp, .vrcp t sat p d b), (.rsqrt, .vrsqrt t sat p d b), (.tanh, .vtanh t sat p d b)] →
      LaneResults (exec ins s) s 2 [] p d (fun n =>
        let z := roundF (fmtOf t) .rne sat (approxV f (fp32Of t (laneN (vrd s b) n)))
        (BitVec.ofNat 32 z.1, satEv z.2))))

/-! ## Matrix, copy and mint work (R172 to R178, R206 to R224) -/

/-- R206, R207, R215: `mxfmt` and `mxthr` on a compute core swap the bank's word for a legal one and answer the old; a word
with a reserved bit, or a format word of no path of R208, takes trap 0x03; on a service core or a teller core both take trap
0x04. R209, R210, R213, R217, R218, R221, R222: `mxm`, `mxms`, `mxg` (its roles bound to distinct compute cores of the
cluster), `mxdrn` and `mxz` on a compute core, with a descriptor that meets every check, the `.cl` fence open and room in
the queue, push their job and answer its id; of `mxm` a reserved bit of D0 takes trap 0x03 and a misaligned offset of A trap
0x02; of `mxz` a reserved bit takes trap 0x03. -/
def Obligations.MatrixPushes : Prop :=
  (∀ (s : State) (d b : Reg), QueuesReady s [b] [d] →
    let cl := clusterOf s.cur.core
    let bank := (myCore s).bank
    let w := rd s b
    let legal := ∃ x y z, (x, y, z) ∈ [(5, 5, 4), (4, 4, 4), (0, 0, 2), (14, 8, 4), (14, 9, 4), (14, 10, 4), (14, 11, 4),
      (14, 12, 4), (14, 13, 4), (14, 14, 4)] ∧ bits w 3 0 = x ∧ bits w 7 4 = y ∧ bits w 11 8 = z
    (isTeller s.cur.core = true ∨ unitOf s.cur.core = 8 →
      exec (.mxfmt d b) s = .next (trapMe s 0x04 0) ∧ exec (.mxthr d b) s = .next (trapMe s 0x04 0))
    ∧ (isTeller s.cur.core = false → unitOf s.cur.core ≠ 8 →
      (bits w 63 14 ≠ 0 ∨ ¬ legal → exec (.mxfmt d b) s = .next (trapMe s 0x03 w))
      ∧ (bits w 63 14 = 0 → legal → ∃ u, exec (.mxfmt d b) s = .next (passed (wr u d (mxBank s cl bank).fmt) 2 [b])
        ∧ u = { s with clusters := u.clusters } ∧ mxBank u cl bank = { mxBank s cl bank with fmt := w })
      ∧ (bits w 63 48 ≠ 0 → exec (.mxthr d b) s = .next (trapMe s 0x03 w))
      ∧ (bits w 63 48 = 0 → ∃ u, exec (.mxthr d b) s = .next (passed (wr u d (mxBank s cl bank).thr) 2 [b])
        ∧ u = { s with clusters := u.clusters } ∧ mxBank u cl bank = { mxBank s cl bank with thr := w })))
  ∧ (∀ (s : State) (a b : Reg), isTeller s.cur.core = false → unitOf s.cur.core ≠ 8 → FenceOpen s .cl →
    (cluster s (clusterOf s.cur.core)).mxq.length < 32 →
    let d0 := rd s b
    let d1 := rd s (regUp b 1)
    let d2 := rd s (regUp b 2)
    let d3 := rd s (regUp b 3)
    let d4 := rd s (regUp b 4)
    let four := [b, regUp b 1, regUp b 2, regUp b 3]
    let desc := [d0, d1, d2, d3]
    let unit := unitOf s.cur.core
    let oa := bits d0 15 0
    let ow := bits d0 31 16
    let oc := bits d0 47 32
    let m := bits d1 15 0
    let n := bits d1 31 16
    let k := bits d1 47 32
    let shape := fun (p : MxPath) (spb : Nat) =>
      bits d0 63 48 = 0 ∧ bits d1 63 48 = 0 ∧ m % 32 = 0 ∧ n % 32 = 0 ∧ k % 32 = 0
      ∧ oa % 128 = 0 ∧ ow % 128 = 0 ∧ oc % 256 = 0 ∧ d3.toNat % 8 = 0
      ∧ oa + spanA p m k ≤ 49152 ∧ oc + 4 * m * n ≤ 32768
      ∧ ((d2.getLsbD 1 = false ∧ d3 = 0 ∧ ow + spb ≤ 49152) ∨ (d2.getLsbD 1 = true ∧ ow = 0))
    (∀ p, pathOf (myBank s).fmt = some p → QueuesReady s four [a] →
      (shape p (spanB p n k) → bits d2 63 2 = 0 → MxPushed (exec (.mxm a b) s) s 2 four a .mxm desc [unit] [] false [])
      ∧ (bits d0 63 48 ≠ 0 → exec (.mxm a b) s = .next (trapMe s 0x03 d0))
      ∧ (bits d0 63 48 = 0 → bits d1 63 48 = 0 → m % 32 = 0 → n % 32 = 0 →
          k % 32 = 0 → bits d2 63 2 = 0 → d2.getLsbD 1 = false → d3 = 0 → oa % 128 ≠ 0 →
          exec (.mxm a b) s = .next (trapMe s 0x02 d0))
      ∧ (∀ c : VReg, shape p (spanBs p) → bits d2 63 2 = 0 → d2.getLsbD 1 = false → n = 32 → k = 32 →
          (p = .int8 ∨ ∃ q, p = .bq q) →
          MxPushed (exec (.mxms a b c) s) s 3 four a .mxms desc [unit] [] false (vrd s c).toList))
    ∧ (∀ p parts, pathOf (myBank s).fmt = some p → QueuesReady s (four ++ [regUp b 4]) [a] →
      let size := bits d2 4 2 + 1
      shape p (spanB p n k) → bits d2 63 5 = 0 → 2 ≤ size →
      (∀ q, size ≤ q → q < 8 → bits d4 (4 * q + 3) (4 * q) = 0 ∧ bits d4 (32 + 4 * q + 3) (32 + 4 * q) = 0) →
      parts.length = size → parts.Nodup →
      (∀ q, q < size → ∃ e c, RoleIs s (2 ^ 14 + bits d4 (4 * q + 3) (4 * q)) e ∧ entV e = true
        ∧ entCore e = some c ∧ isTeller c = false ∧ unitOf c ≠ 8 ∧ clusterOf c = clusterOf s.cur.core
        ∧ parts[q]? = some (unitOf c)) →
      MxPushed (exec (.mxg a b) s) s 2 (four ++ [regUp b 4]) a .mxg (desc ++ [d4]) parts
        ((List.range size).map (fun q => bits d4 (32 + 4 * q + 3) (32 + 4 * q))) true [])
    ∧ (QueuesReady s four [a] →
      let rows := bits d0 31 16
      let cols := bits d0 47 32
      let fmt := bits d2 3 0
      mNames d1 = true → mCluster d1 ∈ clustersOf s (me s).launch → mSpaceNum d1 ≠ 0 → bits d0 63 48 = 0 → rows % 32 = 0 →
      cols % 32 = 0 → bits d2 15 5 = 0 → bits d2 63 32 = 0 →
      (bits (myBank s).fmt 11 8 = 4 → fmt = 4 ∨ fmt = 5 ∨ fmt = 14) → (bits (myBank s).fmt 11 8 ≠ 4 → fmt = 2 ∨ fmt = 0) →
      oa % 4 = 0 → mOff d1 % 8 = 0 → bits d2 31 16 % 8 = 0 → oa + 4 * rows * cols ≤ 32768 →
      mOff d1 + drSpan desc ≤ bufSize (mSpace d1) →
      MxPushed (exec (.mxdrn a b) s) s 2 four a .mxdrn desc [unit] [] false [])
    ∧ (QueuesReady s [b] [a] →
      (bits d0 63 32 = 0 → bits d0 31 16 ≠ 0 → oa % 256 = 0 → bits d0 31 16 % 256 = 0 → oa + bits d0 31 16 ≤ 32768 →
        MxPushed (exec (.mxz a b) s) s 2 [b] a .mxz [d0] [unit] [] false [])
      ∧ (bits d0 63 32 ≠ 0 → exec (.mxz a b) s = .next (trapMe s 0x03 d0))))

/-- R172 to R176: `cpy`, `cpyo`, `mint` and `mint` of a table (`mintT`), with a descriptor that meets every check, the `.cl`
fence open and room in the queue, push their job and answer its id; on a teller core they take trap 0x04; a misaligned
address of D0 takes trap 0x02 where nothing else is wrong. -/
def Obligations.CopyPushes : Prop :=
  ∀ (s : State) (a b : Reg),
    let d0 := rd s b
    let d1 := rd s (regUp b 1)
    let d2 := rd s (regUp b 2)
    let d3 := rd s (regUp b 3)
    let four := [b, regUp b 1, regUp b 2, regUp b 3]
    let desc := [d0, d1, d2, d3]
    let room := (cluster s (clusterOf s.cur.core)).cpq.length < 32
    let r := ring (myCore s) (bits d1 20 19)
    let fits := fun need => (d1.getLsbD 18 = false ∧ bits d1 15 0 + need ≤ 49152)
      ∨ (d1.getLsbD 18 = true ∧ r.en = true ∧ (r.inA = true ↔ bits d1 17 16 = 1) ∧ need ≤ 8 * 2 ^ r.ssz)
    (QueuesReady s four [a] →
      (isTeller s.cur.core = true → exec (.cpy a b) s = .next (trapMe s 0x04 0) ∧ exec (.cpyo a b) s = .next (trapMe s 0x04 0)
        ∧ exec (.mint a b) s = .next (trapMe s 0x04 0))
      ∧ (isTeller s.cur.core = false → FenceOpen s .cl → room →
        (bits d1 17 16 < 2 → bits d1 63 21 = 0 → bits d2 63 48 = 0 → bits d3 63 48 = 0 → bits d2 31 0 ≠ 0 →
          fits (bits d2 47 32 * bits d3 47 32 + bits d2 31 0) → bits d1 15 0 % 8 = 0 → bits d2 31 0 % 8 = 0 →
          bits d3 31 0 % 8 = 0 → bits d3 47 32 % 8 = 0 →
          (d0.toNat % 8 = 0 → CpPushed (exec (.cpy a b) s) s 2 four a .cpy desc)
          ∧ (d0.toNat % 8 ≠ 0 → exec (.cpy a b) s = .next (trapMe s 0x02 d0)))
        ∧ (d3 = 0 → 8 ≤ d2.toNat → d2.toNat ≤ 2 ^ 32 → d1.toNat % 8 = 0 → d2.toNat % 8 = 0 →
          (d0.toNat % 8 = 0 → CpPushed (exec (.cpyo a b) s) s 2 four a .cpyo desc)
          ∧ (d0.toNat % 8 ≠ 0 → exec (.cpyo a b) s = .next (trapMe s 0x02 d0)))
        ∧ (bits d1 17 16 = 0 → bits d1 63 21 = 0 → 8 ≤ d2.toNat → d2.toNat ≤ 49152 → fits d2.toNat → bits d1 15 0 % 8 = 0 →
          d2.toNat % 8 = 0 →
          (d0.toNat % 8 = 0 → CpPushed (exec (.mint a b) s) s 2 four a .mint desc)
          ∧ (d0.toNat % 8 ≠ 0 → exec (.mint a b) s = .next (trapMe s 0x02 d0)))))
    ∧ (QueuesReady s [b] [a] → isTeller s.cur.core = true → exec (.mintT a b) s = .next (trapMe s 0x04 0))
    ∧ (QueuesReady s [b] [a] → isTeller s.cur.core = false → FenceOpen s .cl → room →
      (d0.toNat % 64 = 0 → CpPushed (exec (.mintT a b) s) s 3 [b] a .mintT [d0])
      ∧ (d0.toNat % 64 ≠ 0 → exec (.mintT a b) s = .next (trapMe s 0x02 d0)))

/-- R211, R212, R220, R223, R224: `jtest`, `jwait`, `jcanc` and `mxcnt`. From a home on a teller core, or of an id that
names no job form, they take trap 0x07; from a home on another module each sends its request there and waits. On a job of a
home cluster of this module: `jtest` answers the status word; `jwait` on a final job of which nothing has to be told does
too, and at a pause of its own bank that no `jwait` has been told of it takes trap 0x05 or 0x06; `jcanc` on a final job that
it has not waited for answers 1, on a matrix job that has not begun ends it and answers 0; `mxcnt` asks for the counters. An
expired id reads as CODE 15, D 1. The layouts of the two words are stated of `statusWord` and `counterWord`, which every
reader gets: a participant's of its sub-record, any other thread's of the summary and the sums. -/
def Obligations.JobInstructions : Prop :=
  ∀ (s : State) (d b : Reg), QueuesReady s [b] [d] →
    let id := rd s b
    let u := unitOf (me s).home.core
    let cl := clusterOf (me s).home.core
    let four := [(JobOp.test, Instr.jtest d b), (.wait, .jwait d b), (.cancel, .jcanc d b), (.count, .mxcnt d b)]
    (∀ r : JobRec, let w := statusWord r (subOf r u)
      let mine := r.subs.find? (fun x => x.unit == u)
      bits w 47 33 = 0 ∧ bits w 32 32 = (if r.final then 1 else 0)
      ∧ (∀ p, p < 8 → (bits w 15 8).testBit p = (r.gang && (r.subs[p]?).any (fun x => x.ended && x.code != 0)))
      ∧ (∀ x, r.gang = true → mine = some x →
          bits w 7 0 = x.code % 256 ∧ bits w 31 16 = x.knext % 65536 ∧ bits w 63 48 = x.strip % 65536)
      ∧ (r.gang = false ∨ mine = none → r.subs ≠ [] →
          (∃ x ∈ r.subs, bits w 31 16 = x.knext % 65536 ∧ ∀ y ∈ r.subs, x.knext ≤ y.knext)
          ∧ (∃ x ∈ r.subs, bits w 63 48 = x.strip % 65536 ∧ ∀ y ∈ r.subs, x.strip ≤ y.strip)
          ∧ bits w 7 0 = ((r.subs.map (·.code)).find? (· ≠ 0)).getD 0 % 256))
    ∧ (∀ r : JobRec, let w := counterWord r u
      let mine := r.subs.find? (fun x => x.unit == u)
      (∀ x, mine = some x → x.sat < 65536 → x.nan < 65536 → x.bso < 65536 →
        bits w 15 0 = x.sat ∧ bits w 31 16 = x.nan ∧ bits w 47 32 = x.bso ∧ bits w 63 48 = 0)
      ∧ (mine = none → bits w 15 0 = min (r.subs.map (·.sat)).sum 65535 ∧ bits w 31 16 = min (r.subs.map (·.nan)).sum 65535
        ∧ bits w 47 32 = min (r.subs.map (·.bso)).sum 65535 ∧ bits w 63 48 = 0))
    ∧ (homeTeller (me s) = true → ∀ o i, (o, i) ∈ four → exec i s = .next (trapMe s 0x07 id))
    ∧ (∀ m, homeTeller (me s) = false → foreignMod (me s).home.core = some m → ∀ o i, (o, i) ∈ four →
      exec i s = .next (asked (emit (modMe s (fun t => { t with long := true })) m .adaptive (.jobReq ⟨o,
        ⟨foreignCore (me s).home.core, (me s).home.slot⟩, id, d, .away s.fab.modnum (32 * s.cur.core + s.cur.slot)⟩)) 2 [b]
        (d == 31) .dflt))
    ∧ (homeTeller (me s) = false → foreignMod (me s).home.core = none →
    (jobRef s cl id = .bad → ∀ i ∈ [Instr.jtest d b, .jwait d b, .jcanc d b, .mxcnt d b], exec i s = .next (trapMe s 0x07 id))
    ∧ (jobRef s cl id = .expired →
      exec (.jtest d b) s = .next (wrote s 2 [b] d 0x10000000F) ∧ exec (.jwait d b) s = .next (wrote s 2 [b] d 0x10000000F))
    ∧ (∀ copy bank r, jobRef s cl id = .job copy bank r →
      exec (.jtest d b) s = .next (wrote s 2 [b] d (statusWord r (subOf r u)))
      ∧ ((copy = true ∨ pausedFor s cl id.toNat = none) → r.final = true → mustTell copy r u = none →
          exec (.jwait d b) s = .next (wrote s 2 [b] d (statusWord r (subOf r u))))
      ∧ (∀ q code va, copy = false → pausedFor s cl id.toNat = some q → q.bank = bankOf s (me s).home.core → q.told = false →
          q.pause = some (code, va) → ∃ t, exec (.jwait d b) s = .next (trapMe t (if code = 3 then 0x06 else 0x05) va)
            ∧ t = { s with clusters := t.clusters })
      ∧ (r.final = true → (me s).wait = .none → exec (.jcanc d b) s = .next (wrote s 2 [b] d 1))
      ∧ (∀ j, copy = false → r.final = false → r.began = false → (cluster s cl).mxq.find? (fun e => e.id == id.toNat) = some j →
          j.started = false → j.bars = [] →
          ∃ t, exec (.jcanc d b) s = .next (passed (wr t d 0) 2 [b]) ∧ t = { s with clusters := t.clusters }
            ∧ (cluster t cl).mxq = (cluster s cl).mxq.filter (fun e => e.id != id.toNat)
            ∧ ∃ r', jobRef t cl id = .job false bank r' ∧ r'.final = true ∧ ∀ x ∈ r'.subs, x.ended = true)
      ∧ exec (.mxcnt d b) s = .next (asked (post s (.reply s.cur (.writes [(d, if copy then 0 else counterWord r u)]))) 2 [b]
          (d == 31) .dflt)))

/-- R173 to R176, R270: one step of the copy unit's job at the head of its queue, its core not stopped and its words served
by their TAUs. An unstarted job of no ring starts at its offset; a `cpy` moves one word of space G to the buffer, a `cpyo`
reads a word and then writes it, a table `mint` puts one word into two entries, a `mint` reads a word of the stream, or
gives out the byte of a literal code; the last step of the first three makes the record final with CODE 0, a `mint` code
that the table does not know ends its job with CODE 4. -/
def Obligations.CopyJobSteps : Prop :=
  ∀ (s : State) (cl : Nat) (j : CpJob) (l : List CpJob) (r : JobRec) (bank : Nat), (cluster s cl).cpq = j :: l →
    (∀ e ∈ l, e.id ≠ j.id) → jobRef s cl (BitVec.ofNat 64 j.id) = .job true bank r → j.cancel = false → j.rem = none →
    cpHeld s j = false →
    let steps := [(CpKind.cpy, Ev.copyJob cl, Instr.copyJob), (.cpyo, .copyoJob cl, .copyoJob), (.mint, .mintJob cl, .mintJob),
      (.mintT, .mintTableJob cl, .mintTableJob)]
    let serves := fun (va : Word) (n : Need) pa => engTr s cl va n (copyTag cl) = .pa pa ∧ chanBusy s pa = false
      ∧ TauServes s j.launch pa
    (∀ k e i, (k, e, i) ∈ steps → j.kind = k → j.started = false → jobRing j = none → ∃ t, exec i (facing s e) = .next t
      ∧ (cluster t cl).cpq = { j with started := true, loc := some (bits (j.desc.getD 1 0) 15 0) } :: l ∧ t.mem = s.mem)
    ∧ (j.started = true →
      (∀ pa, j.kind = .cpy →
        let rowLen := bits (j.desc.getD 2 0) 31 0
        let w := j.pos % (rowLen / 8)
        let q := j.pos / (rowLen / 8)
        let va := j.desc.getD 0 0 + BitVec.ofNat 64 q * ((j.desc.getD 3 0).setWidth 32).signExtend 64 + BitVec.ofNat 64 (8 * w)
        let at_ := j.loc.getD 0 + q * bits (j.desc.getD 3 0) 47 32 + 8 * w
        let sp := if bits (j.desc.getD 1 0) 17 16 = 0 then Space.w else .a
        serves va needR pa → ∃ t, exec .copyJob (facing s (.copyJob cl)) = .next t ∧ t.mem = s.mem
          ∧ (Memory.wf (bufOf (core s j.core) sp) = true → mword (bufOf (core t j.core) sp) at_ 8 = physRead s pa 8)
          ∧ (j.pos + 1 = (bits (j.desc.getD 2 0) 47 32 + 1) * (rowLen / 8) → (cluster t cl).cpq = l ∧ JobEnds t cl j.id 0)
          ∧ (j.pos + 1 ≠ (bits (j.desc.getD 2 0) 47 32 + 1) * (rowLen / 8) → (cluster t cl).cpq = { j with pos := j.pos + 1 } :: l))
      ∧ (∀ pa, j.kind = .cpyo → j.words = [] → serves (j.desc.getD 0 0 + BitVec.ofNat 64 (8 * j.pos)) needR pa →
          ∃ t, exec .copyoJob (facing s (.copyoJob cl)) = .next t ∧ t.mem = s.mem
          ∧ (cluster t cl).cpq = { j with words := [(0, physRead s pa 8)] } :: l)
      ∧ (∀ pa x, j.kind = .cpyo → j.words = [(0, x)] → serves (j.desc.getD 1 0 + BitVec.ofNat 64 (8 * j.pos)) needW pa →
          State.MemOk s → ∃ t, exec .copyoJob (facing s (.copyoJob cl)) = .next t ∧ Stored s t pa 8 x
          ∧ (8 * (j.pos + 1) = (j.desc.getD 2 0).toNat → (cluster t cl).cpq = l ∧ JobEnds t cl j.id 0)
          ∧ (8 * (j.pos + 1) ≠ (j.desc.getD 2 0).toNat → (cluster t cl).cpq = { j with pos := j.pos + 1, words := [] } :: l))
      ∧ (∀ pa, j.kind = .mintT → serves (j.desc.getD 0 0 + BitVec.ofNat 64 (8 * j.pos)) needR pa →
          ∃ t, exec .mintTableJob (facing s (.mintTableJob cl)) = .next t ∧ t.mem = s.mem
          ∧ fget (cluster t cl).mint (2 * j.pos) = some ((physRead s pa 8).setWidth 32)
          ∧ fget (cluster t cl).mint (2 * j.pos + 1) = some ((physRead s pa 8).extractLsb' 32 32)
          ∧ (j.pos + 1 = 2048 → (cluster t cl).cpq = l ∧ JobEnds t cl j.id 0))
      ∧ (∀ pa k, j.kind = .mint → mintNeeds j = some k → serves (j.desc.getD 0 0 + BitVec.ofNat 64 (8 * k)) needR pa →
          ∃ t, exec .mintJob (facing s (.mintJob cl)) = .next t ∧ t.mem = s.mem
          ∧ (cluster t cl).cpq = { j with words := fset j.words k (physRead s pa 8) } :: l)
      ∧ (j.kind = .mint → mintNeeds j = none →
        let e := ((fget (cluster s cl).mint (mintPeek j)).getD 0)
        let len := (e.setWidth 4).toNat
        let sym := (e.extractLsb' 16 10).toNat
        (len = 0 ∨ 512 ≤ sym → ∃ t, exec .mintJob (facing s (.mintJob cl)) = .next t ∧ (cluster t cl).cpq = l
          ∧ JobEnds t cl j.id 4 ∧ t.mem = s.mem)
        ∧ (len ≠ 0 → sym < 256 → j.pos + len ≤ 8 * (j.desc.getD 3 0).toNat → j.out + 1 < (j.desc.getD 2 0).toNat →
          ∃ t j', exec .mintJob (facing s (.mintJob cl)) = .next t ∧ (cluster t cl).cpq = j' :: l ∧ j'.pos = j.pos + len
          ∧ j'.out = j.out + 1 ∧ j'.last = e.extractLsb' 16 8
          ∧ (Memory.wf (core s j.core).bufW = true → mget (core t j.core).bufW (j.loc.getD 0 + j.out) = e.extractLsb' 16 8))))

/-- R113, R128, R129, R209, R210, R214, R217, R219, R221, R222: one step of a matrix job that may run, none of its cores
stopped, without thresholds. A product without ZI starts; an `mxms` with a malformed mask ends with CODE 9. A K-step of any
path takes each element of C to the value of R129: an INT8 one adds the exact dot product, clamped; a BF16 or FP32 one the
tree of the rounded products; a BQ one the scaled dot product, rounded once; NANM skips a NaN. Stated of a K-step, not the
strip's last, of `mxm` and `mxg` with B in space W or its words of space G at hand, and of the one K-step of a strip of
`mxms`, which writes C. `mxdrn` in FP32 writes a row, a NaN as the canonical one, and after the last one, where it wakes
nobody, ends with CODE 0; `mxz` clears 256 bytes, and after the last of them ends with CODE 0. -/
def Obligations.MatrixJobSteps : Prop :=
  ∀ (s : State) (cl id bank : Nat) (j : MxJob) (r : JobRec), mxRuns (cluster s cl).mxq id = some j → j.id = id →
    (∀ e ∈ (cluster s cl).mxq, e.id = id → e = j) →
    jobRef s cl (BitVec.ofNat 64 id) = .job false bank r → (∀ x ∈ r.subs, x.ended = false) → r.subs.length = j.parts.length →
    j.parts ≠ [] → j.cancel = false → j.thr = 0 → mxHeld s cl j = false →
    let now := fun (t : State) (f : MxJob) => (cluster t cl).mxq = (cluster s cl).mxq.map (fun e => if e.id = id then f else e)
    let gone := fun (t : State) => (cluster t cl).mxq = (cluster s cl).mxq.filter (fun e => e.id != id)
    let d := j.desc
    let stepped := fun (av bv : Nat → Nat) (ai bi : Nat → Int) (sa sb : Nat) (old new : Lane) =>
      let sat := fmtSat j.fmt
      let dot : Int := ((List.range 32).map (fun k => ai k * bi k)).sum
      let add := fun (t : Nat) => new = if decodeF fp32 t = .nan ∧ fmtNanm j.fmt = true then old
        else BitVec.ofNat 32 (roundF fp32 .rne sat (addV .rne (decodeF fp32 old.toNat) (decodeF fp32 t))).1
      let tree := fun (f : Nat → Val) =>
        add (tree32 fp32 sat ((List.range 32).map (fun k => (roundF fp32 .rne sat (f k)).1))).1
      match jobPath j with
      | .int8 => new = BitVec.ofInt 32 (max (-2147483648) (min 2147483647 (old.toInt + dot)))
      | .bf16 => tree (fun k => mulV (flushBf16 (av k)) (flushBf16 (bv k)))
      | .fp32 => tree (fun k => mulV (decodeF fp32 (av k)) (decodeF fp32 (bv k)))
      | .bq m => add (if scaleE sa = 255 ∨ scaleE sb = 255 then nanBits fp32 else if scaleE sa = 0 ∨ scaleE sb = 0 then 0
          else (roundF fp32 .rne sat (ofScaled (dot * (65536 + scaleS sa : Nat) * (65536 + scaleS sb : Nat))
            ((scaleE sa : Int) - 127 - 16 + ((scaleE sb : Int) - 127 - 16) - 7 - (m - 1 : Nat)))).1)
    let bRow := fun (c row k ks : Nat) => let ea := aBytes (jobPath j)
      leNat (mgets (core s c).bufA (mxA d + (row * mxK d + 32 * ks + k) * ea) ea)
    let aScale := fun (c row ks : Nat) => leNat (mgets (core s c).bufA (mxA d + mxM d * mxK d + 4 * (row * (mxK d / 32) + ks)) 4)
    (∀ k e i, (k, e, i) ∈ [(MxKind.mxm, Ev.mxmJob cl id, Instr.mxmJob), (.mxms, .mxmsJob cl id, .mxmsJob),
        (.mxg, .mxgJob cl id, .mxgJob)] → j.kind = k → j.started = false →
      (bits (d.getD 2 0) 0 0 = 0 → mxM d ≠ 0 → mxN d ≠ 0 → mxK d ≠ 0 → (k = .mxms → ∀ m ∈ j.mask, goodMask m = true) →
        ∃ t, exec i (facing s e) = .next t ∧ now t { j with started := true } ∧ t.cores = s.cores ∧ t.mem = s.mem)
      ∧ (k = .mxms → (∃ m ∈ j.mask, goodMask m = false) → ∃ t, exec i (facing s e) = .next t ∧ gone t ∧ JobEnds t cl id 9
        ∧ t.cores = s.cores))
    ∧ (∀ k e i, (k, e, i) ∈ [(MxKind.mxm, Ev.mxmJob cl id, Instr.mxmJob), (.mxg, .mxgJob cl id, .mxgJob)] → j.kind = k →
      let n := stripCols d j.strip
      let run := bRun (jobPath j)
      let eb := run / 32
      let src := bits (d.getD 2 0) 1 1
      let first := j.knext * mxN d + stripCol d j.strip
      let w := (core s (coreAt cl (j.parts.headD 0))).bufW
      let byteB := fun (at_ i : Nat) => if src = 1 then (j.got.getD (i / 8) 0).extractLsb' (8 * (i % 8)) 8 else mget w (mxW d + at_)
      j.started = true → (pathOf j.fmt).isSome = true → j.knext + 1 < mxK d / 32 → j.acc.length = j.parts.length → n % 32 = 0 →
      (src = 1 → j.got.length = n * run / 8 + (if isBq (jobPath j) then n / 2 else 0)) →
      ∃ t j', exec i (facing s e) = .next t ∧ now t j' ∧ j'.id = id ∧ j'.knext = j.knext + 1 ∧ t.cores = s.cores ∧ t.mem = s.mem
        ∧ ∀ p u, j.parts[p]? = some u → ∀ x y, x < 32 → y < n →
          let c := coreAt cl u
          let row := stripRow d j.strip + x
          let bytes := fun (len : Nat) => (List.range len).map (fun i => byteB ((first + y) * run + i) (y * run + i))
          stepped (fun k => bRow c row k j.knext)
            (fun k => leNat ((List.range eb).map (fun i => byteB ((first + y) * run + eb * k + i) (y * run + eb * k + i))))
            (fun k => (BitVec.ofNat 8 (bRow c row k j.knext)).toInt)
            (fun k => match jobPath j with
              | .bq m => bqField m (leNat (bytes (4 * m))) k
              | _ => (byteB ((first + y) * run + k) (y * run + k)).toInt)
            (aScale c row j.knext)
            (leNat ((List.range 4).map (fun i =>
              byteB (mxN d * (mxK d / 32) * run + 4 * (first + y) + i) (n * run + 4 * y + i))))
            ((j.acc.getD p []).getD (n * x + y) 0) ((j'.acc.getD p []).getD (n * x + y) 0))
    ∧ (j.kind = .mxms → ∀ u, j.parts = [u] → j.started = true → (pathOf j.fmt).isSome = true → bits (d.getD 2 0) 1 1 = 0 →
      mxN d = 32 → mxK d = 32 → j.knext = 0 → j.acc = [] → j.strip < mxM d / 32 → Memory.wf (core s (coreAt cl u)).bufC = true →
      let c := coreAt cl u
      let w := (core s c).bufW
      let run := bRun (jobPath j)
      let word := fun (z : State) (x y : Nat) => BitVec.ofNat 32 (leNat (mgets (core z c).bufC
        (mxC d + 4 * ((32 * j.strip + x) * 32 + y)) 4))
      ∃ t, exec .mxmsJob (facing s (.mxmsJob cl id)) = .next t ∧ t.mem = s.mem
        ∧ (j.strip + 1 = mxM d / 32 → gone t ∧ JobEnds t cl id 0)
        ∧ (j.strip + 1 ≠ mxM d / 32 → now t { j with strip := j.strip + 1, knext := 0, acc := [], got := [] })
        ∧ ((isBq (jobPath j) || jobPath j == .int8) = true → ∀ x y, x < 32 → y < 32 →
          let row := 32 * j.strip + x
          let kept := fun (q : Nat) => match jobPath j with
            | .bq m => bqField m (leNat (mgets w (mxW d + 2 * m * y) (2 * m))) q
            | _ => (mget w (mxW d + 16 * y + q)).toInt
          let m := j.mask.getD y 0
          stepped (fun _ => 0) (fun _ => 0) (fun k => (BitVec.ofNat 8 (bRow c row k 0)).toInt)
            (fun k => if m.getLsbD k then kept ((List.range k).filter (fun i => m.getLsbD i)).length else 0)
            (aScale c row 0) (leNat (mgets w (mxW d + 16 * run + 4 * y) 4)) (word s x y) (word t x y)))
    ∧ (j.kind = .mxdrn → ∀ u, j.parts = [u] →
      let run := exec .mxdrnJob (facing s (.mxdrnJob cl id))
      let row := 4 * drCols d
      (j.row = drRows d → bits (d.getD 2 0) 4 4 = 0 → ∃ t, run = .next t ∧ gone t ∧ JobEnds t cl id 0 ∧ t.cores = s.cores)
      ∧ (∀ c sp, j.row < drRows d → drFmt d = 4 → mCore (d.getD 1 0) = c → mSpace (d.getD 1 0) = sp →
          arriveAt s c (.here ((cluster s cl).launch.getD 0xFFFF)) 0 = .accept →
          ∃ t, run = .next t ∧ now t { j with started := true, row := j.row + 1 } ∧ t.mem = s.mem
            ∧ (Memory.wf (bufOf (core s c) sp) = true → ∀ k, k < drCols d →
                let x := leNat (mgets (core s (coreAt cl u)).bufC (drOff d + j.row * row + 4 * k) 4)
                leNat (mgets (bufOf (core t c) sp) (mOff (d.getD 1 0) + j.row * drStride d + 4 * k) 4) =
                  if decodeF fp32 x = .nan then nanBits fp32 else x)))
    ∧ (j.kind = .mxz → ∀ u, j.parts = [u] →
      let w := d.getD 0 0
      ∃ t, exec .mxzJob (facing s (.mxzJob cl id)) = .next t ∧ t.mem = s.mem
        ∧ (Memory.wf (core s (coreAt cl u)).bufC = true → ∀ k, mget (core t (coreAt cl u)).bufC k =
            if bits w 15 0 + 256 * j.row ≤ k ∧ k < bits w 15 0 + 256 * j.row + 256 then 0
            else mget (core s (coreAt cl u)).bufC k)
        ∧ (256 * (j.row + 1) = bits w 31 16 → gone t ∧ JobEnds t cl id 0)
        ∧ (256 * (j.row + 1) ≠ bits w 31 16 → now t { j with started := true, row := j.row + 1 }))

/-! ## Stream work (R229 to R236) -/

/-- R230, R233, R235, R236: the stream instructions. `sopen` opens a closed context over its source, and takes traps 0x07,
0x03 and 0x02 for one that is not closed, a reserved bit and a misaligned base. `sisect`, `sunion`, `sdiff` and `smerge` of
other contexts than the head make plain contexts of the slot, from which nothing was drawn, a head and its captured inputs;
else trap 0x07, and trap 0x03 where element sizes differ. Of a plain context `snext` draws its last element and at the end
answers 0, `scnt` and `scnt.a` draw to the end and answer the count, or trap 0x03 at an element past A; a fault at the
cursor is a trap; `sclose` with no read outstanding closes and answers ORD and END. Another slot's, a closed or a captured
context takes trap 0x07. R231 to R234: the stream unit of a core that is not stopped. `streamRead` reads the next word of a
source: from A; or from space G, where nothing in the store buffer holds it back and its TAU finds no error; a page without
an entry is asked for, and a refused page or word is recorded as a fault at the word's first element. `mergeStep` of the
head whose turn it is, with one input and both at an element, runs one pass of the loop of R233. -/
def Obligations.StreamWork : Prop :=
  (∀ (s : State) (x y : Fin 4) (a b c : Reg),
    let st := fun n => stream (myCore s) n
    let h := st x
    let size := if h.w4 then 4 else 8
    (QueuesReady s [b, regUp b 1] [] →
      let d0 := rd s b
      let d1 := rd s (regUp b 1)
      let len := if d1.getLsbD 33 then 4 else 8
      (h.st ≠ .closed → exec (.sopen x b) s = .next (trapMe s 0x07 (BitVec.ofNat 64 x.val)))
      ∧ (h.st = .closed → bits d1 63 34 ≠ 0 → exec (.sopen x b) s = .next (trapMe s 0x03 d1))
      ∧ (h.st = .closed → bits d1 63 34 = 0 → d0.toNat % len ≠ 0 → exec (.sopen x b) s = .next (trapMe s 0x02 d0))
      ∧ (h.st = .closed → bits d1 63 34 = 0 → d0.toNat % len = 0 →
          d0.toNat + bits d1 31 0 * len ≤ (if d1.getLsbD 32 then 49152 else 2 ^ 64) → FenceOpen s .core →
          ∃ z, exec (.sopen x b) s = .next (passed (modStream s s.cur.core x (fun _ => z)) 2 [b, regUp b 1])
            ∧ z.st = .plain ∧ z.owner = s.cur.slot ∧ z.base = d0 ∧ z.count = bits d1 31 0 ∧ z.cursor = 0 ∧ z.n = 0
            ∧ z.words = [] ∧ z.inA = d1.getLsbD 32 ∧ z.w4 = d1.getLsbD 33 ∧ z.ord = false ∧ z.fault = none))
    ∧ (∀ (op : StOp) (ins : List Nat) (i : Instr), (∀ k ∈ ins, k ≠ x.val) →
      (op, ins, i) ∈ [(StOp.isect, [y.val], Instr.sisect x y), (.union, [y.val], .sunion x y), (.diff, [y.val], .sdiff x y)]
        ∨ (∃ m : Fin 16, op = .merge ∧ i = .smerge x m ∧ ins = (List.range 4).filter (fun k => m.val.testBit k)) →
      ((∃ k ∈ x.val :: ins, (st k).st ≠ .plain ∨ (st k).owner ≠ s.cur.slot ∨ (st k).given = true) →
        exec i s = .next (trapMe s 0x07 (BitVec.ofNat 64 x.val)))
      ∧ ((∀ k ∈ x.val :: ins, (st k).st = .plain ∧ (st k).owner = s.cur.slot ∧ (st k).given = false) →
        ((∃ k ∈ ins, (st k).w4 ≠ h.w4) → exec i s = .next (trapMe s 0x03 (BitVec.ofNat 64 x.val)))
        ∧ ((∀ k ∈ ins, (st k).w4 = h.w4) → ∃ u, exec i s = .next (passed u 2 []) ∧ u = { s with cores := u.cores }
          ∧ stream (myCore u) x = { h with st := .head op ins }
          ∧ (∀ k ∈ ins, stream (myCore u) k = { st k with st := .captured x })
          ∧ ∀ k, k ≠ x.val → k ∉ ins → stream (myCore u) k = st k)))
    ∧ (h.owner ≠ s.cur.slot ∨ h.st = .closed ∨ (∃ k, h.st = .captured k) →
      exec (.snext a x) s = .next (trapMe s 0x07 (BitVec.ofNat 64 x.val))
      ∧ (QueuesReady s [] [a] → exec (.scnt a x) s = .next (trapMe s 0x07 (BitVec.ofNat 64 x.val))
        ∧ exec (.sclose a x) s = .next (trapMe s 0x07 (BitVec.ofNat 64 x.val))))
    ∧ (h.owner = s.cur.slot → h.st = .plain →
      (h.cursor = h.count →
        exec (.snext a x) s = .next (passed (wr (wr s a 0) (regUp a 1) 0) 2 [])
        ∧ (QueuesReady s [] [a] → exec (.scnt a x) s =
            .next (wrote (modStream s s.cur.core x (fun z => { z with n := 0 })) 2 [] a (BitVec.ofNat 64 h.n)))
        ∧ (QueuesReady s [c] [a] → (rd s c).toNat % size = 0 → exec (.scntA a x c) s =
            .next (wrote (modStream s s.cur.core x (fun z => { z with n := 0 })) 3 [c] a (BitVec.ofNat 64 h.n))))
      ∧ (∀ e, h.cursor + 1 = h.count → elemAt h h.cursor = some e →
        (∃ u, exec (.snext a x) s = .next (passed (wr (wr u a (BitVec.ofNat 64 e)) (regUp a 1) 1) 2 [])
          ∧ u = { s with cores := u.cores } ∧ (stream (myCore u) x).cursor = h.count ∧ (stream (myCore u) x).given = true)
        ∧ (QueuesReady s [] [a] → ∃ u, exec (.scnt a x) s = .next (passed (wr u a (BitVec.ofNat 64 (h.n + 1))) 2 [])
          ∧ u = { s with cores := u.cores } ∧ (stream (myCore u) x).cursor = h.count ∧ (stream (myCore u) x).n = 0)
        ∧ (QueuesReady s [c] [a] → (rd s c).toNat % size = 0 → (rd s c).toNat + h.n * size + size ≤ 49152 →
          ∃ u, exec (.scntA a x c) s = .next (passed (wr u a (BitVec.ofNat 64 (h.n + 1))) 3 [c])
            ∧ u = { s with cores := u.cores } ∧ (stream (myCore u) x).n = 0
            ∧ (Memory.wf (myCore s).bufA = true → ∀ k, mget (myCore u).bufA k =
                if (rd s c).toNat + h.n * size ≤ k ∧ k < (rd s c).toNat + h.n * size + size
                then BitVec.ofNat 8 (e / 256 ^ (k - ((rd s c).toNat + h.n * size))) else mget (myCore s).bufA k))
        ∧ (QueuesReady s [c] [a] → (rd s c).toNat % size = 0 → 49152 < (rd s c).toNat + h.n * size + size →
          exec (.scntA a x c) s = .next (trapMe s 0x03 (BitVec.ofNat 64 ((rd s c).toNat + h.n * size)))))
      ∧ (∀ code, h.cursor ≠ h.count → elemAt h h.cursor = none → h.fault = some (h.cursor, code) → h.told = false →
          ∃ u, exec (.snext a x) s = .next (trapMe u code (h.base + BitVec.ofNat 64 (h.cursor * size)))
            ∧ u = { s with cores := u.cores })
      ∧ (QueuesReady s [] [a] → h.out = [] → exec (.sclose a x) s =
          .next (wrote (modStream s s.cur.core x closedStream) 2 [] a
            ((if h.ord then 1 else 0) + (if h.cursor = h.count then 2 else 0))))
      ∧ (QueuesReady s [] [a] → h.out ≠ [] → exec (.sclose a x) s =
          .next (modMe s (fun t => { t with wait := .retry (.streamOut x) })))))
  ∧ (∀ (s : State) (c n : Nat),
    let x := core s c
    let h := stream x n
    (∀ k, nextWord h = some k → x.stopped = false →
      let run := exec .streamRead (facing s (.streamRead c n))
      let va := BitVec.ofNat 64 (8 * (h.base.toNat / 8 + k))
      let gives := fun w => ∃ t, run = .next t ∧ t.mem = s.mem
        ∧ ∃ o, stream (core t c) n = { h with words := fset h.words k w, out := h.out.filter (· != k), ord := h.ord || o }
      (h.inA = true → gives (mword x.bufA (8 * (h.base.toNat / 8 + k)) 8))
      ∧ (h.inA = false →
        let tr := trIn s (tlbFind x.tlb (isTeller c) h.launch va) va needR
        (∀ pa, tr = .pa pa → sbLoad x pa 8 = .none → chanBusy s pa = false → fget s.errs (sectorOf pa) = none →
          (tauRefuses s h.launch pa = none → injFires s pa = false → fget s.errs (sectorOf (pa + 7)) = none →
            gives (physRead s pa 8))
          ∧ (tauRefuses s h.launch pa ≠ none → fget s.errs (sectorOf (pa + 7)) = none → ∃ t, run = .next t ∧ t.mem = s.mem
            ∧ stream (core t c) n = { h with fault := some (firstElem h k, 0x12), told := false }))
        ∧ (tr = .trap 0x05 → ∃ t, run = .next t ∧ t.mem = s.mem
            ∧ stream (core t c) n = { h with fault := some (firstElem h k, 0x12), told := false })
        ∧ (tr = .trap 0x06 → ∃ t, run = .next t ∧ t.mem = s.mem
            ∧ stream (core t c) n = { h with fault := some (firstElem h k, 0x06), told := false })
        ∧ (tr = .miss → (∀ m ∈ x.misses, m.page ≠ va.toNat / 8192) → (∀ m ∈ x.missQ, m.1.page ≠ va.toNat / 8192) →
            x.misses.length < 8 → ∃ t m, run = .next t
            ∧ t.pending = s.pending ++ [.xlatMessage m] ∧ m.mail.w0 = va ∧ m.mail.w1 = 32
            ∧ m.dest = missServer s c h.launch ∧ stream (core t c) n = h)))
    ∧ (∀ op y a b, y ≠ n → h.st = .head op [y] → mergeNext x = some n →
      h.cursor ≠ h.count → elemAt h h.cursor = some a →
      (stream x y).cursor ≠ (stream x y).count → elemAt (stream x y) (stream x y).cursor = some b →
      let first := if op = .merge then decide (a < b ∨ (a = b ∧ n < y)) else decide (a ≤ b)
      let second := if op = .merge then !first else decide (b ≤ a)
      let emits : Option Nat := match op with
        | .isect => if a = b then some a else none
        | .diff => if a < b then some a else none
        | _ => some (min a b)
      ∃ t, exec .mergeStep (facing s (.mergeStep c n)) = .next t ∧ t.mem = s.mem ∧ (core t c).headRR = (n + 1) % 4
        ∧ (stream (core t c) n).results = h.results ++ emits.toList.map (BitVec.ofNat 64)
        ∧ (stream (core t c) n).cursor = h.cursor + (if first then 1 else 0)
        ∧ (stream (core t c) y).cursor = (stream x y).cursor + (if second then 1 else 0)
        ∧ ∀ z, z ≠ n → z ≠ y → stream (core t c) z = stream x z))

/-! ## The Grove (R240 to R258) -/

/-- R240, R250 to R255: `ldnn`, `stv`, `dlv`, `ixver` and `ixsnap` with an index of the thread's launch and operands that
meet the checks send their request and wait for its answer; an index number the launch does not have takes trap 0x0D, a
reserved bit trap 0x03; a query, result or vector offset that is not aligned takes trap 0x02 with the offset, one whose
bytes do not fit in A trap 0x03. R243, R245, R248, R249, R251 to R255: the Grove's own steps, where the granules that they
read have no error and no armed injection, stand in channels in service and are the launch's, unpoisoned, and the vaults
have room. An accepted search starts (with EF 0, a scan); an accepted `stv` takes the next slot and sequence and searches
for its neighbours, on a full index it is answered 0; `dlv` marks the entry of a published sequence, or is answered 0;
`ixver` and `ixsnap` answer the header; a bad query element or snapshot is answered trap 0x0D. `candidateExpansion` ends an
`ldnn` that has nothing left to expand; `publish` writes a sequence's next neighbour, and with none left publishes the
lowest ready sequence and answers it; a `groveReply` of one result writes it to A and the count to the register. -/
def Obligations.GroveWork : Prop :=
  (∀ (s : State) (d b c : Reg),
    let w := rd s b
    let inum := bits w 5 0
    let none_ : Word := 0x0100000000000000 ||| BitVec.ofNat 64 inum
    let qoff := bits w 47 32
    let roff := bits w 63 48
    let k := bits w 13 8
    let voff := bits w 31 16
    (QueuesReady s [b, regUp b 1, regUp b 2] [d] →
      let ok := bits w 7 6 = 0 ∧ bits w 15 14 = 0 ∧ 1 ≤ k ∧ k ≤ 32 ∧ bits w 31 16 ≤ 1024
      (¬ ok → exec (.ldnn d b) s = .next (trapMe s 0x03 w))
      ∧ (ok → qoff % 8 ≠ 0 → exec (.ldnn d b) s = .next (trapMe s 0x02 (BitVec.ofNat 64 qoff)))
      ∧ (ok → qoff % 8 = 0 → roff % 16 ≠ 0 → exec (.ldnn d b) s = .next (trapMe s 0x02 (BitVec.ofNat 64 roff)))
      ∧ (ok → qoff % 8 = 0 → roff % 16 = 0 → 49152 < roff + 16 * k →
          exec (.ldnn d b) s = .next (trapMe s 0x03 (BitVec.ofNat 64 roff)))
      ∧ (ok → qoff % 8 = 0 → roff % 16 = 0 → roff + 16 * k ≤ 49152 →
        (findIndex s inum = none → exec (.ldnn d b) s = .next (trapMe s 0x0D none_))
        ∧ (∀ i x, findIndex s inum = some (i, x) → 49152 < qoff + 2 * x.dim →
          exec (.ldnn d b) s = .next (trapMe s 0x03 (BitVec.ofNat 64 qoff)))
        ∧ (∀ i x, findIndex s inum = some (i, x) → qoff + 2 * x.dim ≤ 49152 → ∃ m : LdnnMsg,
          exec (.ldnn d b) s = .next (asked (post s (.ldnnAccept m)) 2 [b, regUp b 1, regUp b 2] (d == 31) .dflt)
          ∧ m.rto = s.cur ∧ m.dst = d ∧ m.index = i ∧ m.k = k ∧ m.ef = bits w 31 16 ∧ m.qoff = qoff ∧ m.roff = roff
          ∧ m.ep = rd s (regUp b 1) ∧ m.snap = rd s (regUp b 2))))
    ∧ (QueuesReady s [b, c] [d] →
      (bits w 15 6 ≠ 0 ∨ bits w 63 32 ≠ 0 → exec (.stv d b c) s = .next (trapMe s 0x03 w))
      ∧ (bits w 15 6 = 0 → bits w 63 32 = 0 → voff % 8 ≠ 0 → exec (.stv d b c) s = .next (trapMe s 0x02 (BitVec.ofNat 64 voff)))
      ∧ (bits w 63 6 ≠ 0 → exec (.dlv d b c) s = .next (trapMe s 0x03 w))
      ∧ (findIndex s inum = none →
        (bits w 15 6 = 0 → bits w 63 32 = 0 → voff % 8 = 0 → exec (.stv d b c) s = .next (trapMe s 0x0D none_))
        ∧ (bits w 63 6 = 0 → exec (.dlv d b c) s = .next (trapMe s 0x0D none_)))
      ∧ (∀ i x, findIndex s inum = some (i, x) →
        (bits w 15 6 = 0 → bits w 63 32 = 0 → voff % 8 = 0 →
          49152 < voff + (if x.bq8 then x.dim + x.dim / 8 else 2 * x.dim) →
          exec (.stv d b c) s = .next (trapMe s 0x03 (BitVec.ofNat 64 voff)))
        ∧ (bits w 15 6 = 0 → bits w 63 32 = 0 → voff % 8 = 0 →
          voff + (if x.bq8 then x.dim + x.dim / 8 else 2 * x.dim) ≤ 49152 → exec (.stv d b c) s =
            .next (asked (post s (.stvAccept ⟨s.cur, d, i, voff, rd s c⟩)) 3 [b, c] (d == 31) .dflt))
        ∧ (bits w 63 6 = 0 → exec (.dlv d b c) s =
            .next (asked (post s (.dlvAccept ⟨s.cur, d, i, 0, rd s c⟩)) 3 [b, c] (d == 31) .dflt))))
    ∧ (QueuesReady s [b] [d, regUp d 1] →
      (bits w 63 6 ≠ 0 → exec (.ixver d b) s = .next (trapMe s 0x03 w) ∧ exec (.ixsnap d b) s = .next (trapMe s 0x03 w))
      ∧ (bits w 63 6 = 0 → findIndex s inum = none →
        exec (.ixver d b) s = .next (trapMe s 0x0D none_) ∧ exec (.ixsnap d b) s = .next (trapMe s 0x0D none_))
      ∧ (∀ i x, bits w 63 6 = 0 → findIndex s inum = some (i, x) →
        exec (.ixver d b) s = .next (asked (post s (.ixverAccept ⟨s.cur, d, i, 0, 0⟩)) 2 [b] false .dflt)
        ∧ exec (.ixsnap d b) s = .next (asked (post s (.ixsnapAccept ⟨s.cur, d, i, 0, 0⟩)) 2 [b] false .dflt))))
  ∧ (∀ (s : State) (x : GIndex) (n : Nat), fget s.grove n = some x →
    let clean := fun (l : List Nat) => ∀ g ∈ l, chanBusy s (256 * g) = false ∧ injFires s (256 * g) = false
      ∧ ∀ j, j < 8 → fget s.errs (8 * g + j) = none ∧ tauRefuses s (some x.launch) (256 * g + 32 * j) = none
    let roomy := fun (l : List Nat) => ∀ g ∈ l, vaultStalls s (256 * g) = false ∧ chanBusy s (256 * g) = false
    let tells := fun (run : Host.Outcome State Fault Refusal) (e : Ev) (a : TRef) (r : RepRes) => ∃ t, run = .next t
      ∧ t = { facing s e with pchs := t.pchs, pending := s.pending ++ [.reply a r] }
    let waits := fun (t : State) => ∀ e ∈ t.pending, e ∈ s.pending ∨ e = .sealRequest s.fab.modnum
    clean (headerGranules s n x) →
    (∀ m : LdnnMsg, m.index = n → (core s m.rto.core).fwd = none →
      let q := (List.range x.dim).map (fun i => leNat (mgets (core s m.rto.core).bufA (m.qoff + 2 * i) 2))
      let snap := if m.snap = 0 then x.pub else m.snap.toNat
      let run := exec .ldnnAccept (facing s (.ldnnAccept m))
      ((∀ e ∈ q, e / 128 % 256 ≠ 255) → x.floor ≤ snap → snap ≤ x.pub →
        clean (entryPointGranules s n x (m.ef == 0) m.ep.toNat snap) → ∃ t g, run = .next t
        ∧ t = { facing s (.ldnnAccept m) with pchs := t.pchs, searches := s.searches ++ [g], gNext := s.gNext + 1 }
        ∧ g.id = s.gNext ∧ g.index = n ∧ g.snap = snap ∧ g.k = m.k ∧ g.width = max m.ef m.k ∧ (g.exact = true ↔ m.ef = 0)
        ∧ g.scan = 0 ∧ g.for_ = .ldnn m ∧ (g.exact = true → g.beam = []))
      ∧ ((∀ e ∈ q, e / 128 % 256 ≠ 255) → (snap < x.floor ∨ x.pub < snap) →
          tells run (.ldnnAccept m) m.rto (.trap 0x0D (0x0300000000000000 ||| m.snap) []))
      ∧ (∀ i, (∀ k, k < i → (q.getD k 0) / 128 % 256 ≠ 255) → i < x.dim → (q.getD i 0) / 128 % 256 = 255 →
          tells run (.ldnnAccept m) m.rto (.trap 0x0D (0x0200000000000000 ||| BitVec.ofNat 64 i) [])))
    ∧ (∀ m : GroveMsg, m.index = n → (core s m.rto.core).fwd = none →
      let v := mgets (core s m.rto.core).bufA m.off (if x.bq8 then x.dim + x.dim / 8 else 2 * x.dim)
      let run := exec .stvAccept (facing s (.stvAccept m))
      let del := exec .dlvAccept (facing s (.dlvAccept m))
      (badElem x v = none →
        (x.used = x.cap → tells run (.stvAccept m) m.rto (.writes [(m.dst, 0)]))
        ∧ (x.used ≠ x.cap → roomy (acceptGranules s n x x.used) → clean (entryPointGranules s n x false 0 x.pub) → ∃ t y g, run = .next t ∧ fget t.grove n = some y ∧ y.used = x.used + 1 ∧ y.alloc = x.alloc + 1
          ∧ y.pub = x.pub ∧ fget y.ents x.used = some ⟨x.alloc, none, m.payload, v, []⟩
          ∧ t.searches = s.searches ++ [g] ∧ g.width = 2 * x.deg ∧ g.snap = x.pub ∧ waits t))
      ∧ ((∀ e ∈ x.ents, ¬ (BitVec.ofNat 64 e.2.seq = m.payload ∧ e.2.seq ≤ x.pub ∧ e.2.dseq = none)) →
          tells del (.dlvAccept m) m.rto (.writes [(m.dst, 0)]))
      ∧ (∀ e k, x.ents = [(k, e)] → BitVec.ofNat 64 e.seq = m.payload → e.seq ≤ x.pub → e.dseq = none →
          clean (entryGranules s n x k) → roomy (acceptGranules s n x k) → ∃ t y, del = .next t
          ∧ fget t.grove n = some y ∧ fget y.ents k = some { e with dseq := some x.alloc } ∧ y.alloc = x.alloc + 1
          ∧ waits t)
      ∧ tells (exec .ixverAccept (facing s (.ixverAccept m))) (.ixverAccept m) m.rto
          (.writes [(m.dst, x.record), (regUp m.dst 1, BitVec.ofNat 64 x.lives)])
      ∧ tells (exec .ixsnapAccept (facing s (.ixsnapAccept m))) (.ixsnapAccept m) m.rto
          (.writes [(m.dst, BitVec.ofNat 64 x.pub), (regUp m.dst 1, BitVec.ofNat 64 x.floor)]))
    ∧ (∀ (g : GSearch) (m : LdnnMsg), s.searches = [g] → g.index = n → g.exact = false → g.cand = [] → g.for_ = .ldnn m →
      standsOut s g = false →
      ∃ t a, exec .candidateExpansion (facing s (.candidateExpansion g.id)) = .next t ∧ t.searches = []
        ∧ t.pending = s.pending ++ [.groveReply a] ∧ a.rto = m.rto ∧ a.dst = m.dst ∧ a.roff = m.roff ∧ a.res.length ≤ g.k
        ∧ ∀ r ∈ a.res, ∃ h ∈ g.beam, ∃ e, fget x.ents h.slot = some e ∧ r = (e.payload, h.dist) ∧ e.seq ≤ g.snap
          ∧ ∀ z, e.dseq = some z → g.snap < z)
    ∧ (∀ p : GPub, x.pubs = [p] → p.seq = x.pub + 1 → p.done = true →
      (p.del = true ∨ p.near = [] → roomy (headerGranules s n x) →
        ∃ t y, exec .publish (facing s (.publish n)) = .next t ∧ fget t.grove n = some y ∧ y.pub = p.seq ∧ y.pubs = []
          ∧ y.lives = (if p.del then x.lives - 1 else x.lives + 1)
          ∧ Replied t p.rto (.writes [(p.dst, BitVec.ofNat 64 p.seq)]))
      ∧ (∀ k l e, p.del = false → p.near = k :: l → fget x.ents k = some e → e.vers.length < 4 →
          roomy (entryGranules s n x k ++ headerGranules s n x) → clean (publishReads s n x p) →
        ∃ t y v, exec .publish (facing s (.publish n)) = .next t ∧ fget t.grove n = some y ∧ y.pub = x.pub
          ∧ y.pubs = [{ p with near := l }] ∧ y.floor = x.floor ∧ waits t
          ∧ fget y.ents k = some { e with vers := e.vers ++ [(p.seq, v)] }))
    ∧ (∀ (a : GroveAns) (w : Word) (z : Lane) (len : Nat) (q : Option QEntry), a.res = [(w, z)] → (core s a.core).fwd = none →
      a.core = a.rto.core → (thr s a.rto).wait = .reply len q false .dflt → a.dst ≠ 0 → a.dst ≠ 31 →
      ∃ t, exec .groveReply (facing s (.groveReply a)) = .next t ∧ (thr t a.rto).wait = .none
        ∧ (thr t a.rto).g = (thr s a.rto).g.set a.dst 1
        ∧ (Memory.wf (core s a.core).bufA = true → mword (core t a.core).bufA a.roff 8 = w
          ∧ mword (core t a.core).bufA (a.roff + 8) 8 = z.setWidth 64)))

/-! ## Launches and the Arbor (R56 to R69) -/

/-- R57, R58, R60 to R64, R134: a doorbell (`dbq`) of a queue whose interface is not in error and whose descriptor can be
changed moves TAIL and tells a command processor, or sets ERR; `launchRecord` takes the record at HEAD, which joins the
admission list or, with a bad field, does not; `admission` of the front of the list sets it up with its clusters, which hold
no victim pages, or admits nothing where the image fails a check; no rollback starts in the bytes that these read.
`launchStart` sets up the pages one by one (the image's bytes, then zeros, the words full), then the rest, and then starts
the launch, its control context in slot 0 with the four parameters. R51, R65 to R69, R84: the Arbor. A run request of a live
graph adds to its pending runs, at most 65,535; an instance is armed with a new generation, its nodes without predecessors
ready; a completion signal of the live generation, for a node without successors and with no run pending, is accepted once,
that of the sink ends the instance, and any other is stale; a ready node goes to the slot found for it with its number,
generation and arguments, where its role's entry can be read. R68, R69: which ready node the Arbor dispatches, and where. A
node may go to a core with a free guest slot: of the launch's clusters, a compute core (PLACE 0) or a service core (PLACE 1)
that the launch binds; any teller core (PLACE 2); or the core that its role's entry names, with V = 1, on this module (where
that can be read). Of these it goes to the one with the most free guest slots, ties to the lowest place on the dies and then
to the lowest core. The node is the one with the largest key of those that can go somewhere, ties to the lower graph, then
node. That a core moved out of the launch's clusters is none of PLACE 0 and 1 is the model's choice (log entry 78). -/
def Obligations.LaunchesAndArbor : Prop :=
  (∀ (s : State),
    (∀ n v q, fget s.queues n = some q → (ifSt s q.tdi).st ≠ .error → descStalls s n = false →
      let tail := v.toNat % 2 ^ 32
      let moved := (tail + 2 ^ 32 - q.tail) % 2 ^ 32
      let fill := (tail + 2 ^ 32 - q.head) % 2 ^ 32
      ∃ t, exec .dbq (facing s (.dbq n v none)) = .next t ∧ t.mem = s.mem ∧ t.cores = s.cores
        ∧ (moved ≠ 0 → moved < 2 ^ 31 → fill ≤ 2 ^ q.log2n → fget t.queues n = some { q with tail := tail }
          ∧ (tail ≠ q.tail → (cpSt t (n % 8)).dxbell = (cpSt s (n % 8)).dxbell ||| BitVec.ofNat 64 (2 ^ n)))
        ∧ (moved ≠ 0 → (2 ^ 31 ≤ moved ∨ 2 ^ q.log2n < fill) → fget t.queues n = some { q with err := true } ∧ t.cps = s.cps))
    ∧ (∀ n q, fget s.queues n = some q → canTake s n q = true →
      let a := q.base + 64 * (q.head % 2 ^ q.log2n)
      cpStops s a 64 = false →
      let u := cpReads (facing s (.launchRecord n)) a 64
      let r := recordAt u n q.head a
      ∃ t, exec .launchRecord (facing s (.launchRecord n)) = .next t ∧ t.mem = s.mem
        ∧ fget t.queues n = some { q with head := (q.head + 1) % 2 ^ 32, open_ := q.open_ ++ [q.head] }
        ∧ (recordBad u a r = false → t.waiting = s.waiting ++ [⟨r, s.seqNext, s.cycle, none⟩] ∧ t.seqNext = s.seqNext + 1
          ∧ r.queue = n ∧ r.num = q.head ∧ r.image = memNat u (a + 8) 8 ∧ r.tag = memWord u (a + 16)
          ∧ r.param = [memWord u (a + 24), memWord u (a + 32), memWord u (a + 40), memWord u (a + 48)])
        ∧ (recordBad u a r = true → t.waiting = s.waiting))
    ∧ (∀ ch w cls l, front s = some w → moduleFailed s = false → w.out = none → chosen s w.rcd.clust = some cls →
      freeNumber s = some l → (∀ c ∈ cls.flatMap clusterCores, (core s c).victim = false ∧ recallBusy s c = false) →
      imageWaits s w = false → cpStops s w.rcd.image (memNat s (w.rcd.image + 8) 8) = false →
      let v := cpReads (facing s (.admission ch)) w.rcd.image (memNat s (w.rcd.image + 8) 8)
      let u := { v with waiting := v.waiting.filter (fun e => e.seq != w.seq) }
      ∃ t, exec .admission (facing s (.admission ch)) = .next t
        ∧ (∀ code, checkImage u w.rcd (queueIface u w.rcd.queue) (binderOf s w.rcd cls) = .error code →
          t.launches = s.launches ∧ t.cores = s.cores ∧ t.waiting = u.waiting)
        ∧ (∀ img, checkImage u w.rcd (queueIface u w.rcd.queue) (binderOf s w.rcd cls) = .ok img →
          ∃ x, fget t.launches l = some x ∧ x.rcd = w.rcd ∧ x.img = img ∧ x.stage = .setup ∧ x.clusters = cls
            ∧ x.iface = queueIface u w.rcd.queue ∧ x.todo.isSome = true ∧ t.mem = s.mem))
    ∧ (∀ l x, fget s.launches l = some x → x.stage = .setup →
      (∀ pa bs es, x.todo = some ((pa, bs) :: es) → mapStalls s pa = false → pa % 8192 = 0 → bs.length ≤ 8192 → State.MemOk s →
        (∀ e ∈ s.waits, ¬ (pa ≤ 8 * e.1 ∧ 8 * e.1 < pa + 8192)) → (∀ k, k < 8192 → keptByte s (pa + k) = none) →
        ∃ t, exec .launchStart (facing s (.launchStart l)) = .next t ∧ fget t.launches l = some { x with todo := some es }
          ∧ (∀ k, k < 8192 → devByte t (pa + k) = bs.getD k 0) ∧ (∀ w, pa ≤ 8 * w → 8 * w < pa + 8192 → w ∉ t.feEmpty)
          ∧ t.cores = s.cores)
      ∧ (x.todo = some [] → cpStalls s = false →
        ∃ t y, exec .launchStart (facing s (.launchStart l)) = .next t ∧ fget t.launches l = some y ∧ y.stage = .setup
          ∧ y.todo = none ∧ y.pages = x.pages
          ∧ (∀ a d, linkCores (binderOf s x.rcd x.clusters) x.img = [(a, d)] → a ≠ d →
            (core t a).downLink = some d ∧ (core t d).upLink = some a)))
    ∧ (∀ l x c e p0 p1 p2 p3, fget s.launches l = some x → canStart s x = true →
      controlCores (binderOf s x.rcd x.clusters) x.img = [(c, e)] → x.rcd.param = [p0, p1, p2, p3] →
      ∃ t y, exec .launchStart (facing s (.launchStart l)) = .next t ∧ fget t.launches l = some y ∧ y.stage = .running
        ∧ (let z := thr t ⟨c, 0⟩
          z.st = .live ∧ z.pc = BitVec.ofNat 64 (x.img.codeBase + e) ∧ z.launch = some l
          ∧ z.g[1] = p0 ∧ z.g[2] = p1 ∧ z.g[3] = p2 ∧ z.g[4] = p3)
        ∧ (x.rcd.graph ≠ 31 → x.rcd.runs ≠ 0 → t.pending.getLast? = some (.runRequest l x.rcd.graph x.rcd.runs))))
  ∧ (∀ (s : State) (l g : Nat) (w : Launch) (x : Graph), fget s.launches l = some w → w.graphs[g]? = some x →
    (∀ n, x.live = true → ∃ t y, exec .runRequest (facing s (.runRequest l g n)) = .next t ∧ graphOf t l g = some y
        ∧ y = { x with pend := min 65535 (x.pend + n) } ∧ t.cores = s.cores ∧ t.pending = s.pending)
    ∧ (x.live = false → 0 < x.pend → ∃ t y v, exec .armInstance (facing s (.armInstance l g)) = .next t
        ∧ graphOf t l g = some y ∧ y.pend = x.pend - 1 ∧ y.gen = (x.gen + 1) % 2 ^ 32 ∧ y.live = true ∧ y.done = []
        ∧ fget t.launches l = some v ∧ ∃ rs, v.ready = w.ready ++ rs
          ∧ ∀ i, i ∈ rs.map (·.node) ↔ i < x.nodes.length ∧ counterOf y i = 0)
    ∧ (∀ i gen, x.live = true →
      (gen = x.gen → i < x.nodes.length → i ∉ x.done → succsOf x i = [] → x.pend = 0 → ∃ t y,
        exec .completionSignal (facing s (.completionSignal l (some g) i gen)) = .next t ∧ graphOf t l g = some y
        ∧ y.done = i :: x.done ∧ (y.live = false ↔ i = x.sink))
      ∧ (gen ≠ x.gen ∨ x.nodes.length ≤ i ∨ i ∈ x.done → ∃ t v,
        exec .completionSignal (facing s (.completionSignal l (some g) i gen)) = .next t ∧ fget t.launches l = some v
        ∧ v = { w with stale := min 0xFFFF (w.stale + 1) }))
    ∧ (∀ r c k n, r.g = g → arborNext s = some l → pickReady s l w = some (r, c) → freeGuest (core s c) s.cycle = some k →
      x.nodes[r.node]? = some n →
      (∀ pa, placePa w n = some pa → injFires s pa = false ∧ ∀ j, j < 8 → fget s.errs (sectorOf (pa + j)) = none) →
      ∃ t v, exec .arborDispatch (facing s (.arborDispatch l)) = .next t
        ∧ (let z := thr t ⟨c, k⟩
          z.st = .live ∧ z.pc = BitVec.ofNat 64 (w.img.codeBase + n.entry) ∧ z.dtag = some g ∧ z.launch = some l
          ∧ z.g[1] = BitVec.ofNat 64 r.node ∧ z.g[2] = BitVec.ofNat 64 x.gen ∧ z.g[3] = n.arg0 ∧ z.g[4] = n.arg1)
        ∧ fget t.launches l = some v ∧ v.ready = w.ready.erase r ∧ t.mem = s.mem))
  ∧ (∀ (s : State) (l : Nat) (w : Launch),
    let open_ := fun (c : Nat) => ((List.range 16).filter (fun k => isFree s.cycle (slotOf (core s c) (11 + k)))).length
    let mine := fun (c : Nat) => c < 1152 ∧ c / 9 ∈ w.clusters ∧ (core s c).launch = some l
    let suits := fun (r : Ready) (c : Nat) => 0 < open_ c ∧ ∃ x n, w.graphs[r.g]? = some x ∧ x.nodes[r.node]? = some n
      ∧ if n.place = 0 then mine c ∧ c % 9 ≠ 8
        else if n.place = 1 then mine c ∧ c % 9 = 8
        else if n.place = 2 then 1152 ≤ c ∧ c < 1216
        else
          let pa := w.table + 8 * (if n.place / 2 ^ 14 = 2 then 2048 + n.place % 2 ^ 14 else 4096 + n.place % 2 ^ 14)
          let e := physRead s pa 8
          entV e = true ∧ entCore e = some c ∧ (n.place / 2 ^ 14 ≠ 2 → entMod e = s.fab.modnum)
            ∧ chanBusy s pa = false ∧ sectorOf pa ∉ s.poison
    let spot := fun (c : Nat) => if c < 1152 then c / 9 else (c - 1152) / 32 * 64 + c % 8 * 8 + (c - 1152) % 32 / 8
    let key := fun (r : Ready) =>
      min (2 ^ 40 - 1) (((w.graphs[r.g]?).bind (fun g => g.lpath[r.node]?)).getD 0 + (s.cycle - r.since) / 2 ^ 16)
    (∀ c ∈ w.clusters, c < 128) →
    (pickReady s l w = none ↔ ∀ r ∈ w.ready, ∀ c, ¬ suits r c)
    ∧ (∀ r c, pickReady s l w = some (r, c) →
      r ∈ w.ready ∧ suits r c
      ∧ (∀ d, suits r d → open_ d ≤ open_ c ∧ (open_ d = open_ c → spot c < spot d ∨ (spot c = spot d ∧ c ≤ d)))
      ∧ ∀ q d, q ∈ w.ready → suits q d → key q ≤ key r ∧ (key q = key r → r.g < q.g ∨ (r.g = q.g ∧ r.node ≤ q.node))))

/-! ## Pre-emption, moves, retirement (R75, R308 to R326) -/

/-- R75, R303, R308, R312, R313, R314, R321, R323, R324: a frozen thread's message marks its launch, whose ready nodes go
and, where it was running, whose cores stop; once they are at rest it starts to retire; a quiescent launch (no slot holds a
live or away thread of it or an update of it in flight, no node is ready, no message acts for it, no job of its clusters is
queued or running) starts to retire, its paused jobs and live instances ended; a pre-empted core that moves stops, with a
core chosen for its context; the context of a moving core that is at rest stands on that core, and the old one forwards; the
last drain acknowledged lets the forwarding entry go; a launch that was switched out is readmitted with new clusters (where
the table is read, no rollback starts); a core that no launch binds can be gated, its TLB emptied. -/
def Obligations.MovesAndRetirement : Prop :=
  ∀ (s : State) (l : Nat) (x : Launch), fget s.launches l = some x →
    (∀ m : ClassMsg, m.dest = 1216 → m.launch = some l → ∃ t y, exec .sysMessage (facing s (.sysMessage m)) = .next t
        ∧ fget t.launches l = some y ∧ y.frozen = true ∧ y.ready = []
        ∧ (x.stage = .running → y.stage = .stopping ∧ ∀ c, (core s c).launch = some l → (core t c).stopped = true))
    ∧ (x.stage = .stopping → x.frozen = true → outReady s l = true → ∃ t y,
        exec .retirement (facing s (.retirement l)) = .next t ∧ fget t.launches l = some y ∧ y.stage = .retiring 1
        ∧ y.ready = [])
    ∧ (x.stage = .running →
        (∀ e ∈ s.cores, ∀ z ∈ e.2.slots, z.2.launch = some l → z.2.st ≠ .live ∧ z.2.st ≠ .away ∧ z.2.rupdOut = 0) →
        x.ready = [] → (∀ e ∈ s.pending, msgOf s l e = false) →
        (∀ c ∈ launchClusters s l, (∀ j ∈ (cluster s c).mxq, j.pause.isSome = true) ∧ (cluster s c).cpq = []) → ∃ t y,
        exec .retirement (facing s (.retirement l)) = .next t ∧ fget t.launches l = some y ∧ y.stage = .retiring 1
        ∧ y.abandon = (x.abandon || x.graphs.any (·.live)) ∧ (∀ g ∈ y.graphs, g.live = false)
        ∧ (∀ c ∈ launchClusters s l, (cluster t c).mxq = [])
        ∧ (y.paused = true ↔ x.paused = true ∨ ∃ c ∈ launchClusters s l, (cluster s c).mxq ≠ []) ∧ t.mem = s.mem ∧ t.cores = s.cores)
    ∧ (∀ c d m, s.sl.phase = .open_ → s.moves = [m] → m.frm = c → m.drains = [] → (core s c).stopped = false →
        moveTo s c = some d →
        ∃ t, exec .preemption (facing s (.preemption c)) = .next t ∧ (core t c).stopped = true ∧ t.mem = s.mem
          ∧ t.moves = [{ m with dst := d }])
    ∧ (∀ c d m, s.moves = [m] → m.frm = c → m.dst = d → m.launch = l → c ≠ d → (core s c).launch = some l →
        canStream s c d = true → (core s d).victim = false → cpStops s x.table 40960 = false →
        ∃ t, exec .contextStreamComplete (facing s (.contextStreamComplete c d)) = .next t
          ∧ (core t c).launch = none ∧ (core t d).launch = some l ∧ (core t d).stopped = false
          ∧ ∃ f, (core t c).fwd = some f ∧ f.launch = l ∧ f.dest = d)
    ∧ (∀ c u m, s.moves = [m] → m.frm = c → m.drains = [u] → unitBusy s u = false →
        ∃ t, exec .drainAck (facing s (.drainAck c u)) = .next t ∧ t.moves = [{ m with drains := [] }]
          ∧ t.pending = s.pending ++ [.retireForwarding c])
    ∧ (∀ c, ∃ t, exec .retireForwarding (facing s (.retireForwarding c)) = .next t ∧ (core t c).fwd = none
        ∧ t.moves = s.moves.filter (fun m => m.frm != c))
    ∧ (∀ cls, readmitTo s l = some (x, cls) → vacant s (cls.flatMap clusterCores) = true → returnWaits s l cls = false →
        cpStops s x.table 40960 = false →
        ∃ t y, exec .readmission (facing s (.readmission l)) = .next t ∧ fget t.launches l = some y ∧ y.stage = .running
          ∧ y.clusters = cls ∧ y.savCores = [])
    ∧ (∀ c, (core s c).launch = none → (∀ m ∈ s.moves, m.dst ≠ c) →
        ∃ t, exec .corePowerGating (facing s (.corePowerGating c true)) = .next t
          ∧ core t c = { core s c with gated := true, tlb := [], tlbNext := 0 }
          ∧ ∃ u, exec .corePowerGating (facing s (.corePowerGating c false)) = .next u
            ∧ core u c = { core s c with gated := false })

/-! ## Seals, rollback, the watchdog (R285 to R299, R319, R320) -/

/-- R286, R289, R292: the seal protocol. On the leader a timer that is due asks for a seal (`sealTimer`); a request makes
the leader of a domain of one leave `open` (`sealRequest`, `prep`); once every restart point is reached the work is written
to the area of its seal (`save`), which the leader then reports to itself (`saved`); a SAVED of the interval is noted, one
of another interval is not; the leader of a domain of one decides when it has saved; `commit` empties the vaults, counts the
interval up and opens again. -/
def Obligations.SealProtocol : Prop :=
  ∀ (s : State),
    (timerDue s = true → isLeader s = true → ∃ t, exec .sealTimer (facing s .sealTimer) = .next t ∧ t.sl.want = true
        ∧ t.pending = s.pending ++ [.sealRequest s.fab.modnum] ∧ t.mem = s.mem)
    ∧ (∀ m, s.sl.phase = .open_ → isLeader s = true → s.fab.caps = [] →
        ∃ t, exec .sealRequest (facing s (.sealRequest m)) = .next t ∧ t.sl.phase = .prepare
          ∧ t.pending = s.pending ++ [.prep s.sl.ivnum.toNat] ∧ t.cores = s.cores ∧ t.mem = s.mem)
    ∧ (s.sl.phase = .open_ → ∃ t, exec .prep (facing s (.prep s.sl.ivnum.toNat)) = .next t
        ∧ t = { facing s (.prep s.sl.ivnum.toNat) with sl := { s.sl with phase := .prepare, since := s.cycle } })
    ∧ (s.sl.phase = .prepare → quiet (restAll (facing s .save)) = true →
        ∃ t w, exec .save (facing s .save) = .next t ∧ t.sl.phase = .save ∧ t.mem = s.mem
          ∧ fget t.sl.areas (s.sl.ivnum.toNat % 2) = some (s.sl.ivnum.toNat, w)
          ∧ w.launches = t.launches.map (fun e => (e.1, readyAges s.cycle e.2)) ∧ w.queues = t.queues ∧ w.waits = t.waits ∧ w.grove = t.grove)
    ∧ (s.sl.phase = .save → isLeader s = true → ∃ t, exec .save (facing s .save) = .next t ∧ t.sl.phase = .saved
        ∧ t.pending = s.pending ++ [.saved s.sl.ivnum.toNat s.fab.modnum] ∧ t.mem = s.mem)
    ∧ (∀ m, canDecide { s with sl := { s.sl with got := nins m s.sl.got } } = false →
        exec .saved (facing s (.saved s.sl.ivnum.toNat m)) =
          .next { facing s (.saved s.sl.ivnum.toNat m) with sl := { s.sl with got := nins m s.sl.got } })
    ∧ (∀ n m, n ≠ s.sl.ivnum.toNat → exec .saved (facing s (.saved n m)) = .next (facing s (.saved n m)))
    ∧ (s.fab.caps = [] → isLeader s = true → s.sl.phase = .saved → s.sl.decided = none → s.sl.commits = [] →
        ∃ t, exec .saved (facing s (.saved s.sl.ivnum.toNat s.fab.modnum)) = .next t ∧ t.sl.decided = some s.sl.ivnum.toNat
          ∧ t.pending = s.pending ++ [.commit s.sl.ivnum.toNat])
    ∧ (s.sl.phase = .saved → ∃ t, exec .commit (facing s (.commit s.sl.ivnum.toNat)) = .next t ∧ t.sl.phase = .open_
        ∧ t.vaults = [] ∧ t.sl.sealed = s.sl.ivnum ∧ t.sl.ivnum = s.sl.ivnum + 1 ∧ t.sl.decided = none ∧ t.sl.got = []
        ∧ t.mem = s.mem ∧ t.cores = s.cores)

/-- R285, R293, R295 to R297: a rollback (`rollback`) with empty vaults takes the work of the seal's area, discards later
escrow entries and counts; one with a vault record, whose CODE does not fail, puts the record's granule and stamp back, its
sectors whole and unpoisoned, and empties the vault; `rollbackTrigger` at the leader of a domain of one chooses the last
seal, and with no seal yet resets the module that reported it; the stamp sweep rewrites a granule's stamp of two intervals
ago or one to come. R319, R320: the watchdog. A kick (`wdkick`) is counted, and the sixteenth in time brings the level to 0;
a period without one (`kickTimeout`) at level 0 enters level 1 with cause 1, which interrupts every command processor; a
core hang or a seal hang below level 4 enters level 4, which resets the compute fabric and, on the leader, triggers a
rollback with cause 5. -/
def Obligations.RollbackAndWatchdog : Prop :=
  (∀ (s : State),
    (∀ m cause w, s.sl.phase = .open_ → fget s.sl.areas (m % 2) = some (m, w) → s.vaults = [] →
      ∃ t, exec .rollback (facing s (.rollback m cause)) = .next t ∧ t.sl.ivnum = BitVec.ofNat 32 (m + 1)
        ∧ t.sl.rbc = (if s.sl.rbc = 0xFFFFFFFF then s.sl.rbc else s.sl.rbc + 1)
        ∧ t.sl.rbi = BitVec.ofNat 64 (m + 2 ^ 32 * cause) ∧ t.sl.phase = .open_ ∧ t.vaults = []
        ∧ t.queues = w.queues ∧ t.clusters = w.clusters ∧ t.waits = w.waits ∧ t.grove = w.grove ∧ t.mem = s.mem
        ∧ t.toHost = s.toHost ++ [.rollbackIrq m]
        ∧ ∀ d l, fget t.escrow d = some l → ∀ e ∈ l, (m + 2 ^ 32 - e.ivl) % 2 ^ 32 < 2 ^ 31)
    ∧ (∀ m cause r, s.sl.phase = .open_ → s.vaults = [(0, [r])] → r.data.length = 256 → codeFails s = false → State.MemOk s →
      ∃ t, exec .rollback (facing s (.rollback m cause)) = .next t ∧ t.vaults = []
        ∧ (∀ k, k < 256 → mget t.mem (r.gpa + k) = r.data.getD k 0)
        ∧ (∀ a, a < r.gpa ∨ r.gpa + 256 ≤ a → mget t.mem a = mget s.mem a)
        ∧ fget t.stamps (r.gpa / 256) = some r.stamp
        ∧ ∀ j, j < 8 → 8 * (r.gpa / 256) + j ∉ t.poison ∧ fget t.errs (8 * (r.gpa / 256) + j) = none)
    ∧ (∀ cause n, s.fab.caps = [] → s.sl.sealed ≠ 0 → s.sl.decided = none → s.sl.same < 2 → rollbackOut s = false →
        exec .rollbackTrigger (facing s (.rollbackTrigger cause n)) =
          .next (post (facing s (.rollbackTrigger cause n)) (.rollback s.sl.sealed.toNat cause)))
    ∧ (∀ cause, isLeader s = true → s.sl.sealed = 0 → s.sl.decided = none → rollbackOut s = false →
        ∃ t, exec .rollbackTrigger (facing s (.rollbackTrigger cause s.fab.modnum)) = .next t ∧ t.cores = [] ∧ t.mem = []
          ∧ t.launches = [] ∧ t.hostMem = s.hostMem)
    ∧ (∀ g, 2 ^ 18 * 144 ≤ g → g < 2 ^ 18 * 5722 →
      let m := s.sl.ivnum.toNat
      let x := (fget s.stamps g).getD s.sl.stampDef
      ∃ t, exec .stampSweep (facing s (.stampSweep g)) = .next t
        ∧ fget t.stamps g = some (if x = (m + 1) % 4 ∨ x = (m + 2) % 4 then (m + 3) % 4 else x)
        ∧ (∀ k, k ≠ g → fget t.stamps k = fget s.stamps k) ∧ t.mem = s.mem))
  ∧ (∀ (s : State),
    (∃ t, exec .wdkick (facing s .wdkick) = .next t ∧ t.wd.lastK = s.cycle
      ∧ (s.cycle - s.wd.lastK ≤ wdPeriod s → s.wd.kicks = 15 → t.wd.wdlvl = 0)
      ∧ (s.cycle - s.wd.lastK ≤ wdPeriod s → s.wd.kicks < 15 → t.wd.wdlvl = s.wd.wdlvl ∧ t.wd.kicks = s.wd.kicks + 1)
      ∧ t.mem = s.mem ∧ t.cores = s.cores)
    ∧ (s.wd.lastK + wdPeriod s ≤ s.cycle → s.wd.wdlvl = 0 → 1 ≤ s.wd.wdcap →
      ∃ t, exec .kickTimeout (facing s .kickTimeout) = .next t ∧ t.wd.wdlvl = 1 ∧ t.wd.wdcause = 1 ∧ t.wd.kicks = 0
        ∧ fget t.wd.wdcnt 1 = some (min 0xFF ((fget s.wd.wdcnt 1).getD 0 + 1)) ∧ ∀ n, n < 8 → (cpSt t n).nmi = true)
    ∧ (∀ e i cause, isLeader s = true → s.wd.wdlvl < 4 →
      ((∃ c, e = Ev.coreHang c ∧ i = Instr.coreHang ∧ cause = 2 ∧ coreHangs s c = true)
        ∨ (e = .sealHang ∧ i = .sealHang ∧ cause = 3 ∧ sealHangs s = true)) →
      ∃ t, exec i (facing s e) = .next t ∧ t.wd.wdlvl = 4 ∧ t.wd.wdcause = cause
        ∧ t.pending.getLast? = some (.rollbackTrigger 5 s.fab.modnum) ∧ t.clusters = [] ∧ (∀ c, (core t c).slots = [])
        ∧ t.mem = s.mem))

/-! ## Memory stacks and the PAT (R345 to R352) -/

/-- R345 to R348, R350: the memory stacks. A command (`retrainChannel`; `repairLane` of a lane in use, with an idle spare)
of a stack that is not busy makes it busy, and in the prepare and save phases of a seal waits for its commit; its end
(`hcmdComplete`) moves a repaired lane to a spare; a reading below a threshold, of the lane whose turn it is in an update
that comes every 2^20 cycles, sets the channel's HINT bit; a refresh notes the row's cycle; a scrub visit that is due and
whose channel is in service goes to the next sector, counts a corrected error and poisons the sector of an uncorrectable one
in a frame that is not logged; an idle pseudo-channel enters self-refresh. R351, R352: a write of PATDATA for the frame that
PATSEL names (`patdataWrite`): a free frame of program memory is assigned, with the guard bit where the frame below belongs
to another interface, unless the frame above does and has no guard (PATST 1); an assigned frame is released; anything else
is refused (PATST 2). -/
def Obligations.MemoryStackSteps : Prop :=
  (∀ (s : State) (k ch lane : Nat),
    let x := stackSt s k
    (∀ op e i, (op, e, i) ∈ [(1, Ev.retrainChannel k ch, Instr.retrainChannel), (2, .repairLane k ch lane, .repairLane)] →
      x.busy = false → (op = 2 → lane < 74 ∧ (idleSpare x ch).isSome) →
      ∃ t, exec i (facing s e) = .next t ∧ t.mem = s.mem ∧ (stackSt t k).busy = true
        ∧ (stackSt t k).cmd = some (op, ch, if op = 1 then 0 else lane)
        ∧ (s.sl.phase = .open_ → (stackSt t k).deferd = false)
        ∧ (s.sl.phase = .prepare ∨ s.sl.phase = .save → (stackSt t k).deferd = true ∧ (stackSt t k).result = 2))
    ∧ (∀ n, x.busy = true → x.deferd = false → x.cmd = some (2, ch, lane) → idleSpare x ch = some n → lane ≠ n →
      ∃ t, exec .hcmdComplete (facing s (.hcmdComplete k)) = .next t ∧ t.mem = s.mem ∧ (stackSt t k).busy = false
        ∧ (stackSt t k).result = 0 ∧ (laneSt (stackSt t k) ch lane).state = 2 ∧ (laneSt (stackSt t k) ch n).state = 1)
    ∧ (∀ hm vm, lane < 76 → ch < 32 → 76 * ch + lane = x.mgNext → x.mgAt + 2 ^ 20 ≤ s.cycle → ∃ t, exec .marginUpdate (facing s (.marginUpdate k ch lane hm vm)) = .next t
        ∧ (laneSt (stackSt t k) ch lane).hm = hm % 256 ∧ (laneSt (stackSt t k) ch lane).vm = vm % 256
        ∧ (stackSt t k).hint = (if hm % 256 < bits x.mgthr 7 0 ∨ vm % 256 < bits x.mgthr 15 8 then x.hint ||| 2 ^ ch
          else x.hint)
        ∧ (76 * ch + lane < 2431 → (stackSt t k).mgNext = x.mgNext + 1 ∧ (stackSt t k).mgAt = x.mgAt)
        ∧ (76 * ch + lane = 2431 → (stackSt t k).mgNext = 0 ∧ (stackSt t k).mgAt = x.mgAt + 2 ^ 20))
    ∧ (∀ p row, ∃ t, exec .refresh (facing s (.refresh p row)) = .next t ∧ fget (pchSt t p).rows row = some s.cycle
        ∧ t.mem = s.mem)
    ∧ (∀ p r, (pchSt s p).selfRef = false → scrubDue s p = true →
      let pa := sectorAddr p (pchSt s p).scrub
      chanBusy s pa = false → ∃ t, exec .scrubVisit (facing s (.scrubVisit p r)) = .next t ∧ t.mem = s.mem
        ∧ (pchSt t p).scrub = ((pchSt s p).scrub + 1) % 23437500
        ∧ (r = 1 → fget s.errs (sectorOf pa) ≠ some true → paValid pa = true → (stackSt s (p / 64)).cecnt ≠ BitVec.allOnes 64 →
            (stackSt t (p / 64)).cecnt = (stackSt s (p / 64)).cecnt + 1)
        ∧ (r = 2 → paValid pa = true → isLogged pa = false → sectorOf pa ∈ t.poison))
    ∧ (∀ p, s.sridle ≠ 0 → (pchSt s p).selfRef = false → (pchSt s p).lastReq + s.sridle.toNat < s.cycle →
      ∃ t, exec .selfRefreshEntry (facing s (.selfRefreshEntry p)) = .next t ∧ (pchSt t p).selfRef = true ∧ t.mem = s.mem))
  ∧ (∀ (s : State) (f : Nat) (v : Word),
    let d := bits v 3 0
    let e := patEnt s f
    let above := patEnt s (f + 1)
    let below := patEnt s (f - 1)
    let run := exec .patdataWrite (facing s (.patdataWrite f v))
    (176 ≤ f → f < 5722 → e.owner = 15 → d < 8 →
      (above.owner < 8 ∧ above.owner ≠ d ∧ above.guard = false → run = .next { facing s (.patdataWrite f v) with patst := 1 })
      ∧ (¬ (above.owner < 8 ∧ above.owner ≠ d ∧ above.guard = false) → ∃ t, run = .next t ∧ t.patst = 0
        ∧ patEnt t f = ⟨d, decide (below.owner < 8 ∧ below.owner ≠ d)⟩ ∧ (∀ k, k ≠ f → patEnt t k = patEnt s k)
        ∧ t.mem = s.mem))
    ∧ (176 ≤ f → f < 5722 → e.owner < 8 → d = 15 → ∃ t, run = .next t ∧ t.patst = 0 ∧ patEnt t f = ⟨15, false⟩
        ∧ ∀ k, k ≠ f → patEnt t k = patEnt s k)
    ∧ ((f < 176 ∨ 5722 ≤ f ∨ (e.owner = 15 ∧ 8 ≤ d) ∨ (e.owner < 8 ∧ d ≠ 15) ∨ (8 ≤ e.owner ∧ e.owner ≠ 15)) →
        run = .next { facing s (.patdataWrite f v) with patst := 2 }))

/-! ## The host, firmware and trust (R354 to R367) -/

/-- R56, R155, R312, R352, R357: the administration commands that ADMGO has started, each with its result in ADMST (0 done,
1 refused, 2 bad operand, 3 frozen), in the cases named: `createQueue` done, and refused for a bad number or base;
`removeQueue` done and frozen; `setWindow` done; `assignFrames` of one frame done, and refused by its neighbour;
`releaseFrames` of one frame; `switchOut` and `switchIn` of a bad launch number, a switch-out begun, which stops the
launch's cores, and a launch switched in; `moveRole` refused for an unknown launch (a result that R357 does not give: log
entry 24), and begun; `readMapping` of a launch with one page; an opcode that is none of them. The operands are those that
stood in ADMCMD at ADMGO. -/
def Obligations.AdministrationCommands : Prop :=
  ∀ (s : State), s.adm.busy = true →
    let op := bits (s.adm.run[0]) 7 0
    let w1 := (s.adm.run[1]).toNat
    let w2 := (s.adm.run[2]).toNat
    let w3 := s.adm.run[3]
    let w4 := (s.adm.run[4]).toNat
    let ends := fun (i : Instr) (e : Ev) (result : Nat) (p : State → Prop) => ∃ t, exec i (facing s e) = .next t
      ∧ t.adm.busy = false ∧ t.adm.st = 2 * result ∧ t.cores = s.cores ∧ p t
    (op = 1 → w1 ≤ 63 → w2 % 64 = 0 → 4 ≤ bits w3 7 0 → bits w3 7 0 ≤ 16 → bits w3 15 8 ≤ 7 → bits w3 63 16 = 0 → w4 % 16 = 0 →
      fget s.queues w1 = none → (ifSt s (bits w3 15 8)).st = .unlocked →
      descStalls s w1 = false →
      ends .createQueue .createQueue 0 (fun t => ∃ q, fget t.queues w1 = some q ∧ q.base = w2 ∧ q.log2n = bits w3 7 0
        ∧ q.tdi = bits w3 15 8 ∧ q.cbase = w4 ∧ q.head = 0 ∧ q.tail = 0 ∧ q.err = false ∧ q.windows = []))
    ∧ (op = 1 → (63 < w1 ∨ w2 % 64 ≠ 0) → ends .createQueue .createQueue 2 (fun t => t.queues = s.queues))
    ∧ (∀ q, op = 2 → w1 ≤ 63 → fget s.queues w1 = some q →
      (frozenIf s q.tdi = true → ends .removeQueue .removeQueue 3 (fun t => t.queues = s.queues))
      ∧ (frozenIf s q.tdi = false → descStalls s w1 = false → q.head = q.tail → q.open_ = [] → (∀ w ∈ s.waiting, w.rcd.queue ≠ w1) →
          (∀ l ∈ s.launches, l.2.rcd.queue ≠ w1) → ends .removeQueue .removeQueue 0 (fun t => fget t.queues w1 = none)))
    ∧ (∀ q, op = 3 → w1 ≤ 63 → w2 ≤ 3 → w3.toNat % 4096 = 0 → w4 % 4096 = 0 → w4 ≠ 0 → fget s.queues w1 = some q →
      frozenIf s q.tdi = false → ends .setWindow .setWindow 0 (fun t => ∃ y, fget t.queues w1 = some y
        ∧ fget y.windows w2 = some (w3.toNat, w4)))
    ∧ (op = 4 → w1 ≤ 7 → w2 + 1 ≤ 5722 → 176 ≤ w2 → w3 = 1 → frozenIf s w1 = false → (patEnt s w2).owner = 15 →
      (let n := patEnt s (w2 + 1)
       ((n.owner < 8 ∧ n.owner ≠ w1 ∧ n.guard = false) → ends .assignFrames .assignFrames 1 (fun t =>
          t.pat = s.pat ∧ t.adm.rsp[0] = s.adm.run[2]))
       ∧ (¬ (n.owner < 8 ∧ n.owner ≠ w1 ∧ n.guard = false) → ends .assignFrames .assignFrames 0 (fun t =>
          (patEnt t w2).owner = w1))))
    ∧ (op = 5 → w1 + 1 ≤ 5722 → 176 ≤ w1 → w2 = 1 → (patEnt s w1).owner < 8 → frozenIf s (patEnt s w1).owner = false →
      (∀ l ∈ s.launches, w1 ∉ l.2.frames) → ends .releaseFrames .releaseFrames 0 (fun t => patEnt t w1 = ⟨15, false⟩))
    ∧ (op = 6 → 128 ≤ w1 → ends .switchOut .switchOut 2 (fun t => t.launches = s.launches)
      ∧ ends .switchIn .switchIn 2 (fun t => t.launches = s.launches))
    ∧ (∀ x, op = 6 → w1 < 128 → w2 = 0 → fget s.launches w1 = some x → x.stage = .running → (∀ m ∈ s.moves, m.launch ≠ w1) →
      saveFrames x.clusters.length (guestsOf s w1).length ≤ (freeFrames s).length →
      ∃ t y, exec .switchOut (facing s .switchOut) = .next t ∧ fget t.launches w1 = some y ∧ y.stage = .stopping
        ∧ t.adm.busy = true ∧ ∀ c, (core s c).launch = some w1 → (core t c).stopped = true)
    ∧ (∀ x cls, op = 6 → w1 < 128 → w2 = 1 → readmitTo s w1 = some (x, cls) →
      vacant s (cls.flatMap clusterCores) = true → returnWaits s w1 cls = false → cpStops s x.table 40960 = false →
      ∃ t y, exec .switchIn (facing s .switchIn) = .next t ∧ t.adm.busy = false ∧ t.adm.st = 0
        ∧ fget t.launches w1 = some y ∧ y.stage = .running ∧ y.clusters = cls)
    ∧ (op = 7 → w1 < 128 → w2 < 65536 → fget s.launches w1 = none → ends .moveRole .moveRole 1 (fun t => t.moves = s.moves))
    ∧ (∀ x c, op = 7 → w1 < 128 → w2 / 2 ^ 14 = 2 → fget s.launches w1 = some x → declared x.img w2 = true → x.stage = .running →
      (let pa := x.table + 8 * (2048 + w2 % 2 ^ 14)
       let e := physRead s pa 8
       injFires s pa = false → (∀ j, j < 8 → fget s.errs (sectorOf (pa + j)) = none) →
       entV e = true → entCore e = some c → isTeller c = false → (∀ m ∈ s.moves, m.frm ≠ c) → (core s c).fwd = none →
       (moveTo s c).isSome → ∃ t, exec .moveRole (facing s .moveRole) = .next t ∧ t.moves = s.moves ++ [⟨w1, c, c, []⟩]
        ∧ t.pending = s.pending ++ [.preemption c] ∧ t.adm.busy = true))
    ∧ (∀ x p, op = 8 → w1 < 128 → fget s.launches w1 = some x → x.pages = [p] →
      ends .readMapping .readMapping 0 (fun t => t.adm.rsp[0] =
        if p.va / 8192 = w2 / 8192 then BitVec.ofNat 64 (p.pa + w2 % 8192) else 0xFFFFFFFFFFFFFFFF))
    ∧ ((op = 0 ∨ 8 < op) → ends .unknownAdminOpcode .unknownAdminOpcode 2 (fun t => t.mem = s.mem))

/-- R355, R356, R358: the host reads and writes memory. A read of bytes that all answer, whose TAUs find no error, no
poison, no armed injection and no channel out of service, gives them; any read or write of a byte that does not answer is a
poison response, and a write of one byte, with room in its vault, changes that byte only, outside the vaults (`hostMemRead`,
`hostMemWrite`); a register write (`registerWrite`) reaches the register at its offset, shown of SLPER, WDPER, WDKICK,
SRIDLE, PATSEL, PWCAP, ADMCMD and the doorbells, and changes no memory; `dxsys` sends a SYS message to the unit of this
module that it names. R358: command processor `n` of 0 to 7. In machine mode `csrrs` with x0 reads the vendor CSRs, and
`csrrw` of `dxbell` clears the bits written; an access to one of the five from a lower mode, or a write to `dxcpid` or
`dxslot`, is illegal. With no PMP entry in force and MPRV off, a machine-mode `ld` of device memory at 0x1000000000 + PA
loads its 8 bytes, where no rollback starts and the channel serves, and `addi` adds its immediate, x0 staying 0. An
exception in machine mode saves the pc, cause and value and goes to `mtvec`. A step whose turn is this processor's fetches
and executes the instruction at its pc (its encodings are RV64GC's, log entry 61). -/
def Obligations.HostAccesses : Prop :=
  (∀ (s : State),
    (∀ a n ide, (∀ k, k < n → hostReads s ide (a + k) = true) →
      (∀ k pa, k < n → hostPa (a + k) = some pa → chanBusy s pa = false ∧ injFires s pa = false
        ∧ fget s.errs (sectorOf pa) = none ∧ sectorOf pa ∉ s.poison) →
      ∃ t bs, exec .hostMemRead (facing s (.hostMemRead a n ide)) = .next t ∧ t.toHost = s.toHost ++ [.readData bs]
        ∧ bs.length = n ∧ (∀ k, k < n → ∃ pa, hostPa (a + k) = some pa ∧ bs[k]? = some (devByte s pa)) ∧ t.mem = s.mem)
    ∧ (∀ a n ide, (∃ k, k < n ∧ hostReads s ide (a + k) = false) →
      exec .hostMemRead (facing s (.hostMemRead a n ide)) = .next (toHost (facing s (.hostMemRead a n ide)) .poisonResp))
    ∧ (∀ a x ide pa, hostWrites s ide a = true → s.sl.phase = .open_ → hostPa a = some pa → vaultStalls s pa = false →
      chanBusy s pa = false → State.MemOk s → ∃ t, exec .hostMemWrite (facing s (.hostMemWrite a [x] ide)) = .next t
        ∧ t.toHost = s.toHost ++ [.done] ∧ Stored s t pa 1 (x.setWidth 64))
    ∧ (∀ a l ide, (∃ k, k < l.length ∧ hostWrites s ide (a + k) = false) →
      exec .hostMemWrite (facing s (.hostMemWrite a l ide)) = .next (toHost (facing s (.hostMemWrite a l ide)) .poisonResp))
    ∧ (∀ host v off, ∃ t, exec .registerWrite (facing s (.registerWrite host off v)) = .next t ∧ t.mem = s.mem
        ∧ t.cores = s.cores
        ∧ (off = 0x2000 → t.sl = { s.sl with slper := v })
        ∧ (off = 0x2100 → t.wd = if host then s.wd else { s.wd with wdper := v })
        ∧ (off = 0x2108 → t.wd.lastK = s.cycle)
        ∧ (off = 0x3200 → t.sridle = v)
        ∧ (off = 0x3208 → t.patsel = if host then s.patsel else bits v 12 0)
        ∧ (off = 0x5000 → t.life.pwnext = if 2300 < bits v 11 0 then 2300 else max 1000 (bits v 11 0))
        ∧ (∀ k, k < 8 → off = 0x100 + 8 * k → t.adm.cmd = s.adm.cmd.setIfInBounds k v)
        ∧ (∀ q, q < 64 → off = 0x1000 + 8 * q → t.pending = s.pending ++ [.dbq q v none]))
    ∧ (∀ n v c, let w := BitVec.ofNat 64 (bits v 15 0 * 2 ^ 32 + bits v 31 16 * 2 ^ 16)
      entCore w = some c → entMod w = 0x3FF ∨ entMod w = s.fab.modnum →
      ∃ t m, exec .dxsys (facing s (.dxsys n v)) = .next t ∧ t.pending = s.pending ++ [.sysMessage m] ∧ m.dest = c
        ∧ m.mail.w0 = (cpSt s n).dxsysd ∧ t.mem = s.mem))
  ∧ (∀ (s : State) (n : Nat), n < 8 →
    let c := cpSt s n
    let word := fun (imm rs f3 rd op : Nat) => imm * 2 ^ 20 + rs * 2 ^ 15 + f3 * 2 ^ 12 + rd * 2 ^ 7 + op
    (∀ csr rs f3 rd, csr < 4096 → rs < 32 → rd < 32 → f3 ∈ [1, 2, 3, 5, 6, 7] →
      (csr ∈ [0x7C0, 0x7C1, 0x7C2, 0xFC0, 0xFC1] → (c.mode < 3 ∨ (0xFC0 ≤ csr ∧ (f3 % 4 = 1 ∨ rs ≠ 0))) →
        rvExec s n (word csr rs f3 rd 0x73) 4 = .trap s 2 0))
    ∧ (c.mode = 3 → ∀ rd, rd < 32 →
      rvExec s n (word 0x7C0 0 2 rd 0x73) 4 = .ok (setX s n rd c.dxbell) (c.pc + 4)
      ∧ rvExec s n (word 0x7C2 0 2 rd 0x73) 4 = .ok (setX s n rd c.dxsysd) (c.pc + 4)
      ∧ rvExec s n (word 0xFC0 0 2 rd 0x73) 4 = .ok (setX s n rd (BitVec.ofNat 64 n)) (c.pc + 4)
      ∧ rvExec s n (word 0xFC1 0 2 rd 0x73) 4 = .ok (setX s n rd (BitVec.ofNat 64 s.fw.slot)) (c.pc + 4)
      ∧ ∀ rs, rs < 32 → ∃ t, rvExec s n (word 0x7C0 rs 1 0 0x73) 4 = .ok t (c.pc + 4)
        ∧ cpSt t n = { c with dxbell := c.dxbell &&& ~~~(cpX s n rs) } ∧ t.mem = s.mem)
    ∧ (∀ imm rs rd, imm < 4096 → rs < 32 → rd < 32 → ∃ t, rvExec s n (word imm rs 0 rd 0x13) 4 = .ok t (c.pc + 4)
      ∧ cpX t n rd = (if rd = 0 then 0 else cpX s n rs + (BitVec.ofNat 12 imm).signExtend 64)
      ∧ (∀ r, r ≠ rd → cpX t n r = cpX s n r) ∧ t.mem = s.mem)
    ∧ (∀ pa rs rd, pa % 8 = 0 → paValid pa = true → rs < 32 → rd < 32 → c.mode = 3 → (cpCsr c 0x300).getLsbD 17 = false →
      (∀ k, pmpCfg c k / 8 % 4 = 0) → (cpX s n rs).toNat = 0x1000000000 + pa → cpWaits s pa 8 = false → cpStops s pa 8 = false →
      let u := cpReads s pa 8
      rvExec s n (word 0 rs 3 rd 0x03) 4 = .ok (setX u n rd (memWord u pa)) (c.pc + 4))
    ∧ (∀ cause tval, c.mode = 3 → let d := cpSt (cpTrap s n cause tval) n
      d.mode = 3 ∧ d.pc = cpCsr c 0x305 &&& ~~~(3 : Word) ∧ cpCsr d 0x341 = c.pc ∧ cpCsr d 0x342 = BitVec.ofNat 64 cause
        ∧ cpCsr d 0x343 = tval ∧ d.x = c.x)
    ∧ (∀ l v z w len pc, s.powered = true → s.agenda = .cpStep n :: l → cpTakes c = none → c.wfi = false →
      rvFetch (modCp { s with agenda := l } n (fun c => { c with wfi := false })) n = .ok v (w, len) → rvExec v n w len = .ok z pc →
      Sys2Proof.Machine.step s = .next (settleAll (modCp z n (fun c => retire c z.cycle pc)))))

/-- R359, R360, R361: firmware. The loader verifies a slot (`verifyAndStart`), running firmware the other one
(`verifyAndSwap`), and a start request in another state is refused with result 5; a failed check leaves the running image
(`firmwareVerification`), a passed one runs it or is swapped in at the next safe point (`queueSafePoint`); the first image's
handlers' entries are installed at its safe point; the verification is one whose reads wait for no channel and start no
rollback. `reset` and `powerDown` leave no memory (that memory lists nothing then is the model's choice, log entry 2), core
or launch, and a reset no running firmware, in interval 1. As the root hash and the signature check are free values (log
entries 3 and 62), no concrete state shows an image that passes. R362 to R367: attestation and trust-domain interfaces: the
measurements of firmware and ROM with a third and a signature; LOCK, the report, START and STOP (of an interface without
frames) move an interface through its states, a STOP with a launch of its queues waits, and a LOCK, START or STOP out of
order is answered with an error; a configuration write to a frozen interface's BAR (offsets 0x10 to 0x27, the model's
choice, log entry 29) puts it in error; any other request is answered, to an interface with an error. The forms of the
measurements and of an SPDM answer are the model's (log entry 62). -/
def Obligations.FirmwareAndInterfaces : Prop :=
  (∀ (s : State),
    (∀ n, s.fw.fwst = 0 → n < 2 → ∃ t, exec .verifyAndStart (facing s (.verifyAndStart n)) = .next t ∧ t.fw.fwst = 1
        ∧ t.fw.cand = n ∧ t.fw.swap = false ∧ t.pending = s.pending ++ [.firmwareVerification])
    ∧ (∀ n, s.fw.fwst ≠ 0 → exec .verifyAndStart (facing s (.verifyAndStart n)) =
        .next { facing s (.verifyAndStart n) with fw := { s.fw with result := 5 } })
    ∧ (∀ n, s.fw.fwst = 2 → n < 2 → n ≠ s.fw.slot → s.fw.instAt = false →
        ∃ t, exec .verifyAndSwap (facing s (.verifyAndSwap n)) = .next t ∧ t.fw.fwst = 1 ∧ t.fw.cand = n ∧ t.fw.swap = true)
    ∧ (s.fw.fwst = 1 →
      cpWaits s (slotBase s.fw.cand) (fwSpan s s.fw.cand) = false → cpStops s (slotBase s.fw.cand) (fwSpan s s.fw.cand) = false →
      let bad := fwCheck (cpReads (facing s .firmwareVerification) (slotBase s.fw.cand) (fwSpan s s.fw.cand)) s.fw.cand
      ∃ t, exec .firmwareVerification (facing s .firmwareVerification) = .next t ∧ t.mem = s.mem ∧ t.fw.result = bad
        ∧ (bad ≠ 0 → t.fw.fwst = (if s.fw.running then 2 else 0) ∧ t.fw.slot = s.fw.slot ∧ t.fw.meas = s.fw.meas
          ∧ t.fw.svn = s.fw.svn)
        ∧ (bad = 0 → s.fw.swap = true → t.fw.fwst = 3 ∧ t.fw.slot = s.fw.slot)
        ∧ (bad = 0 → s.fw.swap = false → t.fw.fwst = 2 ∧ t.fw.slot = s.fw.cand ∧ t.fw.running = true))
    ∧ (∀ l, s.fw.fwst = 3 → queueSafe s = true → ∃ t, exec .queueSafePoint (facing s (.queueSafePoint l)) = .next t
        ∧ t.fw.fwst = 2 ∧ t.fw.slot = s.fw.cand ∧ t.fw.entries = l ∧ t.mem = s.mem)
    ∧ (∀ a b c d k, s.cores = [] → s.fw.fwst = 2 → s.fw.instAt = false → s.fw.entries = [] → k < 1216 →
        a.getLsbD 0 = false → b.getLsbD 0 = false → c.getLsbD 0 = false → d.getLsbD 0 = false →
        ∃ t, exec .queueSafePoint (facing s (.queueSafePoint [a, b, c, d])) = .next t ∧ (core t k).xlatv = a
          ∧ (core t k).shotv = b ∧ (core t k).rclv = c ∧ (core t k).sysv = d)
    ∧ (∃ t, exec .reset (facing s .reset) = .next t ∧ t.mem = [] ∧ t.cores = [] ∧ t.launches = [] ∧ t.fw.fwst = 0
        ∧ t.fw.running = false ∧ t.hostMem = s.hostMem ∧ t.sl.ivnum = 1)
    ∧ (∃ t, exec .powerDown (facing s .powerDown) = .next t ∧ t.powered = false ∧ t.mem = [] ∧ t.cores = []
        ∧ t.hostMem = s.hostMem))
  ∧ (∀ (s : State) (d : Nat), d < 8 →
    let st := (ifSt s d).st
    (∃ t m g, exec .getMeasurements (facing s .getMeasurements) = .next t
        ∧ t.toHost = s.toHost ++ [.measurements [s.fw.meas, Config.romHash, m] g] ∧ t.mem = s.mem)
    ∧ (st = .unlocked → ∃ t, exec .lock (facing s (.lock d)) = .next t ∧ (ifSt t d).st = .locked ∧ (ifSt t d).read = false
        ∧ t.toHost = s.toHost ++ [.spdmOk d])
    ∧ (st ≠ .unlocked → exec .lock (facing s (.lock d)) = .next (toHost (facing s (.lock d)) (.spdmError d)))
    ∧ (st = .locked ∨ st = .run → ∃ t bs, exec .getDeviceInterfaceReport (facing s (.getDeviceInterfaceReport d)) = .next t
        ∧ (ifSt t d).read = true ∧ (ifSt t d).st = st ∧ t.toHost = s.toHost ++ [.report bs])
    ∧ (st = .locked → (ifSt s d).read = true → ∃ t, exec .startRequest (facing s (.startRequest d)) = .next t
        ∧ (ifSt t d).st = .run ∧ t.toHost = s.toHost ++ [.spdmOk d])
    ∧ (st ≠ .locked ∨ (ifSt s d).read = false →
        exec .startRequest (facing s (.startRequest d)) = .next (toHost (facing s (.startRequest d)) (.spdmError d)))
    ∧ (st ≠ .unlocked → ifQuiet s d = true → (∀ f, (patEnt s f).owner ≠ d) → ∃ t, exec .stop (facing s (.stop d)) = .next t
        ∧ (ifSt t d).st = .unlocked ∧ t.toHost = s.toHost ++ [.spdmOk d])
    ∧ (st ≠ .unlocked → ifQuiet s d = false → ∃ t, exec .stop (facing s (.stop d)) = .next t ∧ (ifSt t d).st = st
        ∧ (ifSt t d).stopping = true ∧ t.mem = s.mem)
    ∧ (st = .unlocked → exec .stop (facing s (.stop d)) = .next (toHost (facing s (.stop d)) (.spdmError d)))
    ∧ (∀ off v, ∃ t, exec .vfConfigWrite (facing s (.vfConfigWrite d off v)) = .next t ∧ fget (ifSt t d).cfg off = some v
        ∧ (0x10 ≤ off → off < 0x28 → st = .locked ∨ st = .run → (ifSt t d).st = .error)
        ∧ (st = .unlocked ∨ st = .error → (ifSt t d).st = st))
    ∧ (∀ q ask, ∃ t bs, exec .spdmRequest (facing s (.spdmRequest q ask)) = .next t
        ∧ t.toHost = s.toHost ++ [if q < 8 then .spdmError q else .spdmAnswer q bs] ∧ t.mem = s.mem))

/-! ## The fabric and service life (R25, R368 to R385) -/

/-- R369 to R376, R380: Klofeub. On a module of a domain a port trains, exchanges numbers with its peer and, where that is
the module the plane gives it, takes new keys and comes up; any other peer is held down (`portBringUp`). At a port that is
up a frame with the next counter, its sender's LINKID and a good tag under the key of its phase is taken; a packet whose
last flit it brings is sent on or, a placement for this module, delivered (`frame`). A stale frame has no effect, and a bad
one is refused, up to eight times (which refusals count as one is the model's choice, log entry 66). On a module alone in
its domain a link that goes down triggers a rollback with cause 4 (`linkDown`). The leader sends every module its new
routing table; a table is loaded, activated, drained and the old one retired, each report going to the leader. `rekey` that
is due asks the receiver, which installs the key and acknowledges it; then the sender's key phase flips. `join` of a module
without launches takes the domain's interval, number and count. -/
def Obligations.FabricSteps : Prop :=
  ∀ (s : State),
    (∀ p m n q, peerOf s.fab.modnum p = some m →
      let x := portSt s p
      ∃ t, exec .portBringUp (facing s (.portBringUp p n q)) = .next t ∧ t.mem = s.mem
        ∧ (x.st = 0 → (portSt t p).st = 1 ∧ t.pending = s.pending ++ [.portBringUp p n q])
        ∧ (x.st = 1 → n ≠ m → (portSt t p).st = 0 ∧ (portSt t p).wrong = true ∧ (portSt t p).peer = n)
        ∧ (x.st = 1 → n = m → (portSt t p).st = 2 ∧ t.pending = s.pending ++ [.portBringUp p n q])
        ∧ (x.st = 2 → (s.fab.joined = true ∨ s.fab.caps ≠ []) → (portSt t p).st = 3 ∧ (portSt t p).peer = n ∧ (portSt t p).wrong = false
          ∧ (portSt t p).txCtr = 0 ∧ (portSt t p).rxCtr = none ∧ (portSt t p).txKey = x.txKey + 1 ∧ (portSt t p).rxKey = x.rxKey + 1
          ∧ (s.fab.modnum, n) ∈ t.fab.ups ∧ t.cores = s.cores))
    ∧ (∀ (x : PortSt) (f : FrameIn), frameOk x f = true ↔ f.linkid = x.peer % 1024 + 1024 * (x.peerP % 32)
        ∧ ∃ k, (k = x.rxKey ∨ (k = x.rxKey + 1 ∧ x.rxNew = true)) ∧ f.flags % 2 = k % 2
          ∧ f.tag = Config.linkTag k f.linkid ((leBytes 4 f.linkid).reverse ++ (leBytes 8 f.ctr).reverse)
            (leBytes 4 f.linkid ++ leBytes 8 f.ctr ++ leBytes 1 f.flags ++ leBytes 1 f.cred ++ leBytes 2 f.acklo) f.flits)
    ∧ (∀ f : FrameIn, (portSt s f.port).st = 3 →
      let next := match (portSt s f.port).rxCtr with
        | some c => c + 1
        | none => 0
      let run := exec .frame (facing s (.frame f))
      let good := frameOk (portSt s f.port) f
      (f.ctr < next → run = .next (facing s (.frame f)))
      ∧ (f.ctr = next → good = true → f.flits = [] → ∃ t, run = .next t ∧ (portSt t f.port).rxCtr = some f.ctr
        ∧ (portSt t f.port).refus = 0 ∧ t.mem = s.mem)
      ∧ (∀ pk k, f.ctr = next → good = true → f.flits = [⟨pk, k, k + 1⟩] → pk.gen = s.fab.cur.gen →
        (pk.dest ≠ s.fab.modnum → ∃ t h, run = .next t ∧ t.fabOut = s.fabOut ++ [h] ∧ h.hops = pk.hops + 1
          ∧ h.dest = pk.dest ∧ h.body = pk.body)
        ∧ (∀ m, pk.dest = s.fab.modnum → pk.body = .place m → ∃ t u, run = .next t ∧ t.pending = s.pending ++ [.packet pk]
          ∧ exec .frame (facing s (.packet pk)) = .next u ∧ u.pending = s.pending ++ [.place m]))
      ∧ (next ≤ f.ctr → (good = false ∨ next < f.ctr) → ∃ t, run = .next t
        ∧ ((portSt s f.port).refus = 0 ∨ f.ctr ≤ (portSt s f.port).lastBad → (portSt s f.port).refus < 8 →
          (portSt t f.port).refus = (portSt s f.port).refus + 1 ∧ (portSt t f.port).nak = true ∧ (portSt t f.port).st = 3
            ∧ t.pending = s.pending ∧ t.mem = s.mem)
        ∧ ((portSt s f.port).refus ≠ 0 → (portSt s f.port).lastBad < f.ctr → (portSt t f.port).refus = (portSt s f.port).refus
            ∧ (portSt t f.port).st = 3 ∧ t.pending = s.pending ∧ t.mem = s.mem)
        ∧ (f.ctr ≤ (portSt s f.port).lastBad → 8 ≤ (portSt s f.port).refus → s.fab.caps = [] → (portSt t f.port).st = 0
            ∧ t.pending = s.pending ++ [.rollbackTrigger 4 s.fab.modnum])))
    ∧ (∀ p, (portSt s p).st ≠ 0 → s.fab.caps = [] →
      ∃ t, exec .linkDown (facing s (.linkDown p)) = .next t ∧ (portSt t p).st = 0
        ∧ t.pending = s.pending ++ [.rollbackTrigger 4 s.fab.modnum])
    ∧ (∀ p, (portSt s p).st = 3 →
      let x := portSt s p
      (x.asked = false → x.keyAt + s.fab.rekey ≤ x.txCtr → ∃ t h, exec .rekey (facing s (.rekey p true)) = .next t
        ∧ portSt t p = { x with asked := true } ∧ t.fabOut = s.fabOut ++ [h] ∧ h.dest = x.peer ∧ h.body = .rekeyAsk)
      ∧ (x.asked = true ∨ x.txCtr < x.keyAt + s.fab.rekey → exec .rekey (facing s (.rekey p true)) = .next (facing s (.rekey p true)))
      ∧ (∃ u h, exec .rekey (facing s (.rekey p false)) = .next u ∧ portSt u p = { x with rxNew := true }
        ∧ u.fabOut = s.fabOut ++ [h] ∧ h.dest = x.peer ∧ h.body = .rekeyAck)
      ∧ (∀ pk : Packet, pk.cls = .control → pk.body = .rekeyAck → portTo s pk.src = some p → x.asked = true → ∃ v,
        exec .frame (facing s (.packet pk)) = .next v
        ∧ portSt v p = { x with txKey := x.txKey + 1, keyAt := x.txCtr, asked := false }))
    ∧ (∀ r, s.fab.prev = none → r.gen = (s.fab.cur.gen + 1) % 65536 →
      ∃ t, exec .routingTableLoad (facing s (.routingTableLoad r)) = .next t ∧ t.fab.free_ = some r ∧ t.fab.cur = s.fab.cur
        ∧ (s.fab.caps = [] → t.pending = s.pending ++ [.activate])
        ∧ (∀ m c, isLeader s = true → s.fab.caps = [(m, c)] → ∃ h y, t.fabOut = s.fabOut ++ [h] ∧ h.dest = m ∧ h.body = .table y
          ∧ y.gen = r.gen)
        ∧ (isLeader s = false → ∃ h, t.fabOut = s.fabOut ++ [h] ∧ h.dest = leaderOf s ∧ h.body = .loaded s.fab.modnum))
    ∧ (∀ r, s.fab.free_ = some r → exec .activate (facing s .activate) =
        .next { facing s .activate with fab :=
          { s.fab with prev := some s.fab.cur, prevG := s.fab.cur.gen, cur := r, free_ := none, told := false, hold := false } })
    ∧ (canDrain s = true → s.fab.caps = [] → ∃ t, exec .drain (facing s .drain) = .next t
        ∧ t.pending = s.pending ++ [.retire])
    ∧ (canDrain s = true → isLeader s = false → ∃ t, exec .drain (facing s .drain) = .next t
        ∧ (∃ h, t.fabOut = s.fabOut ++ [h] ∧ h.dest = leaderOf s ∧ h.body = .drained s.fab.modnum))
    ∧ exec .retire (facing s .retire) = .next { facing s .retire with fab := { s.fab with prev := none } }
    ∧ (∀ i m n, s.launches = [] → ∃ t, exec .join (facing s (.join i m n)) = .next t ∧ t.sl.ivnum = BitVec.ofNat 32 i
        ∧ t.fab.modnum = m ∧ t.fab.domcnt = n ∧ t.vaults = [])

/-- R25, R382 to R385: service life. A capper window that is due records what was measured, its power within the limit, and
sets the next limits (100 W down while a die is hot, 100 W up once it is below 100 °C, never above the cap nor below 1,000
W), and one that is not has no effect; a temperature reading is recorded, and 115 °C trips the module, which is reset and
records the trip; a monitor's reading that is due is kept; a re-plan that is due raises the offsets in steps, never above 12
and never lower, to which the supply moves by one step in 2^16 cycles, and where more is needed reports it. -/
def Obligations.ServiceLifeSteps : Prop :=
  ∀ (s : State),
    (∀ w k i, s.cycle < s.life.winAt + 2500000 →
      exec .capperWindow (facing s (.capperWindow w k i)) = .next (facing s (.capperWindow w k i)))
    ∧ (∀ w k i, s.life.winAt + 2500000 ≤ s.cycle →
      ∃ t, exec .capperWindow (facing s (.capperWindow w k i)) = .next t ∧ t.life.pwavg = min (w % 4096) s.life.eff
        ∧ t.life.slices = min k 2500000 ∧ t.life.issues = (if 2500000 ≤ k then min i 2500000 else 0)
        ∧ t.life.winAt = s.life.winAt + 2500000 ∧ t.life.pwcap = s.life.pwnext ∧ 1000 ≤ t.life.eff
        ∧ (s.life.pwcap = s.life.eff → s.life.hot = false → t.life.eff = max 1000 s.life.pwnext)
        ∧ (s.life.hot = true → t.life.eff = max 1000 (min (s.life.eff - 100) s.life.pwnext))
        ∧ (s.life.pwcap ≠ s.life.eff → s.life.hot = false →
          t.life.eff = max 1000 (min (if max s.life.temp0 s.life.temp1 < 400 then s.life.eff + 100 else s.life.eff) s.life.pwnext))
        ∧ t.cores = s.cores ∧ t.mem = s.mem)
    ∧ (∀ x, x < 460 → s.life.temp1 < 460 → ∃ t, exec .temperatureReading (facing s (.temperatureReading 0 x)) = .next t
        ∧ t.life.temp0 = x ∧ (t.life.hot = true ↔ 420 < x ∨ 420 < s.life.temp1) ∧ t.pending = s.pending)
    ∧ (∀ x, 460 ≤ x → x < 4096 → ∃ t, exec .temperatureReading (facing s (.temperatureReading 1 x)) = .next t
        ∧ t.mem = [] ∧ t.cores = [] ∧ t.launches = [] ∧ t.life.tripped = true)
    ∧ (∀ n x, x < 4096 → s.life.temp0 < 460 → s.life.temp1 < 460 → ∃ t,
        exec .temperatureReading (facing s (.temperatureReading (n + 2) x)) = .next t ∧ (stackSt t n).temp = x
        ∧ t.pending = s.pending)
    ∧ (∃ t, exec .thermalTrip (facing s .thermalTrip) = .next t ∧ t.mem = [] ∧ t.cores = [] ∧ t.life.tripped = true)
    ∧ (∀ n x, n < 256 → (n.testBit 6 = true → n % 64 < 16) → (∀ c, fget s.life.ageAt n = some c → c + 2 ^ 20 ≤ s.cycle) →
        ∃ t,
        exec .ageingMonitorUpdate (facing s (.ageingMonitorUpdate n x)) = .next t ∧ fget t.life.ages n = some (x % 65536)
        ∧ t.mem = s.mem)
    ∧ (∀ a b, s.life.rpAt + s.life.rpper.toNat ≤ s.cycle → s.fab.hold = false → ∃ t, exec .replan (facing s (.replan a b)) = .next t ∧ t.life.off0 = max s.life.off0 (min 12 a)
        ∧ t.life.off1 = max s.life.off1 (min 12 b)
        ∧ t.life.sup0 = min s.life.off0 (s.life.sup0 + (s.cycle - s.life.rpAt) / 2 ^ 16)
        ∧ t.life.sup1 = min s.life.off1 (s.life.sup1 + (s.cycle - s.life.rpAt) / 2 ^ 16) ∧ t.life.replans = (s.life.replans + 1) % 2 ^ 32
        ∧ (12 < a ∨ 12 < b → t.life.degr = true ∧ t.toHost = s.toHost ++ [.degrIrq])
        ∧ (a ≤ 12 → b ≤ 12 → t.life.degr = s.life.degr ∧ t.toHost = s.toHost))

/-! ## Fetching, decoding and the step (R33, R87 to R92) -/

/-- R88: the line fill (`lineFill`). Eight words of a translated line that the TAU serves and in which it finds no error are
installed under the line's address, FW bit and launch tag, and the fill ends; a word that the TAU refuses ends the fill with
no line; a page without an entry makes the fill wait behind the translation. -/
def Obligations.InstructionFetch : Prop :=
  ∀ (s : State) (a : TRef) (va : Word),
    let t := thr s a
    let line := va.toNat / 64
    let tag := lineTag a.core t
    let base := BitVec.ofNat 64 (64 * line)
    let tr := if t.fw then Tr.pa base.toNat
      else trIn s (tlbFind (core s a.core).tlb (isTeller a.core) t.launch base) base needX
    let run := exec .lineFill (facing s (.lineFill a va))
    let clean := fun pa => injFires s pa = false ∧ ∀ k, k < 64 → fget s.errs (sectorOf (pa + k)) = none
    (∀ pa, tr = .pa pa → clean pa → (∀ k, k < 8 → tauRefuses s (reqLaunch t) (pa + 8 * k) = none) →
      ∃ u, run = .next u ∧ u.mem = s.mem ∧ u.pending = s.pending
        ∧ findLine (core u a.core) line t.fw tag = some ⟨line, t.fw, tag, devBytes s pa 64⟩
        ∧ (core u a.core).fills = (core s a.core).fills.filter (fun f => f ≠ (line, t.fw, tag)))
    ∧ (∀ pa, tr = .pa pa → clean pa → (∃ k, k < 8 ∧ tauRefuses s (reqLaunch t) (pa + 8 * k) ≠ none) →
      ∃ u, run = .next u ∧ u.mem = s.mem ∧ (core u a.core).icache = (core s a.core).icache
        ∧ (core u a.core).fills = (core s a.core).fills.filter (fun f => f ≠ (line, t.fw, tag)))
    ∧ (tr = .miss → ∃ u, run = .next u ∧ u.mem = s.mem ∧ u.pending.getLast? = some (.lineFill a va)
        ∧ (core u a.core).icache = (core s a.core).icache ∧ (core u a.core).fills = (core s a.core).fills)

/-- R32, R33, and the assembler's own examples: words that the spec writes out decode to the instructions it names. A check
on fixed words. -/
def Obligations.DecodeWords : Prop :=
  decode [0xF500, 0x28C7] = .ok (.div 6 7 (some 8)) 2
  ∧ decode [0x1762] = .ok (.addImm 27 none ⟨0, 2⟩) 1
  ∧ decode [0xFA40, 0x0362] = .ok (.csrr 27 ⟨0, 2⟩) 2
  ∧ decode [0xFA40, 0x0762] = .ok (.csrw 27 ⟨0, 2⟩) 2
  ∧ decode [0xFA40, 0x1000] = .ok .tret 2
  ∧ decode [0xF980, 0x0401] = .ok (.sisect 0 1) 2
  ∧ decode [0xF980, 0x1900] = .ok (.scnt 8 0) 2
  ∧ decode [0xF909, 0x9025] = .ok (.vld .a .w false 0 1 5 ⟨0, 0⟩) 2
  ∧ decode [0xF910, 0xF440, 0x0861] = .ok (.vmul ⟨.f32, .rne, false, false⟩ 0 3 1 (.vec 2)) 3
  ∧ decode [0xF910, 0x48E3] = .ok (.vrsum ⟨.f32, .rne, false, false⟩ 7 0 3) 2
  ∧ decode [0xF914, 0x7082] = .ok (.vscale .f32 4 4 2) 2
  ∧ decode [0xFA00, 0x1080] = .ok (.sealq 4) 2

/-- R32 to R40, with the encoding tables of every page: decoding the words of a well-formed instruction, whatever follows
them, gives the instruction and its length. An event has no words. -/
def Obligations.DecodeEncode : Prop :=
  ∀ (i : Instr) (rest : List HWord), i.wf = true → encode i ≠ [] → decode (encode i ++ rest) = .ok i (ilen i)

/-- R33, R35: what decodes is a well-formed instruction, and its words are the ones that were read: each list of words has
one meaning, and no bit of it is passed over. -/
def Obligations.DecodeSound : Prop :=
  ∀ (ws : List HWord) (i : Instr) (n : Nat), decode ws = .ok i n →
    i.wf = true ∧ encode i = ws.take n ∧ n = ilen i ∧ n ≤ ws.length

/-- R87, R88, R90 to R92: a step whose turn is the issue of a slot that its core picks runs the instruction that the words
at its pc decode to (those of its instruction buffer, and where that is not filled for the pc those of the cache), on the
state in which the slot is busy for eight cycles, the rotation pointer has moved past it and its queues are taken; where
they decode to none, the illegal-instruction entry. After it the threads that wait for nothing more go on (`endIssue`). -/
def Obligations.StepRunsDecoded : Prop :=
  ∀ (s : State) (c n : Nat) (l : List Turn), s.powered = true → s.agenda = .issue c n :: l →
    let u := { s with agenda := l }
    let a : TRef := ⟨c, n⟩
    let t := thr s a
    let ws := slotWords (core s c) c n t
    pickSlot u c = some n →
    ((∀ b ∈ (core s c).ibufs, b.1 ≠ n) → ws = fetchWords (core s c) t.fw (lineTag c t) t.pc 5)
    ∧ (∀ b, fget (core s c).ibufs n = some b → b.pc = t.pc → b.fw = t.fw → b.tag = lineTag c t → ws = b.words)
    ∧ (∀ i len, decode ws = .ok i len → ∃ v, Sys2Proof.Machine.step s = endIssue a (exec i v)
      ∧ v = { u with cur := a, cores := v.cores } ∧ (∀ d, d ≠ c → core v d = core s d)
      ∧ (∀ m, m ≠ n → slotOf (core v c) m = slotOf (core s c) m)
      ∧ slotOf (core v c) n = { t with readyAt := s.cycle + 8 }
      ∧ (let named := !(fwOnly i && !t.fw)
        ∃ sl ic, core v c = { core s c with
          slots := sl, icache := ic, rotP := (n + 1) % 32, issueAt := s.cycle + 1, eligAt := none
          qoRep := !(named && (dstsOf i).contains 31) && (core s c).qoRep
          qiBusy := if named ∧ (30 : Reg) ∈ srcsOf i then s.cycle + 8 else (core s c).qiBusy
          qoBusy := if named ∧ (31 : Reg) ∈ dstsOf i then s.cycle + 8 else (core s c).qoBusy }))
    ∧ (∀ off, decode ws = .bad off → ∃ v, Sys2Proof.Machine.step s = endIssue a (exec .illegalInstruction v)
      ∧ v.ev = .illegalInstruction off ∧ v.cur = a ∧ slotOf (core v c) n = { t with readyAt := s.cycle + 8 })

/-- R2, R4, R131: every step keeps device memory in its canonical form. An invariant of the model's own form of memory (log
entry 2). -/
def Obligations.MemoryStaysCanonical : Prop :=
  ∀ s t : State, State.MemOk s → Sys2Proof.Machine.step s = .next t → State.MemOk t

/-- R34, R301: every instruction and every event has a next state: none is refused and none stops the module. -/
def Obligations.NothingIsRefused : Prop :=
  ∀ (i : Instr) (s : State), ∃ t, exec i s = .next t

/-- R70, R98, R99, R282, R288, R306, R319, R346, R350, R351, R357 to R359, R363, R381, R384: what reset leaves, where the
spec gives the value; and memory is canonical then (its contents are the model's choice, log entry 2). -/
def Obligations.ResetValues : Prop :=
  let s := State.reset
  State.MemOk s
  ∧ (∀ c n, n < 32 → let t := thr s ⟨c, n⟩
      t.st = (if n < 27 then .free else .idle) ∧ t.fw = decide (28 ≤ n) ∧ t.th = false ∧ t.qh = false
      ∧ t.tvec = 0 ∧ t.tepc = 0 ∧ t.tcause = 0 ∧ t.tval = 0 ∧ t.qhv = 0 ∧ t.qhlk = 0 ∧ t.vlive = false
      ∧ t.dtag = none ∧ t.fwte = false)
  ∧ (∀ c, let x := core s c
      x.wakev = 0 ∧ x.fetmo = 0 ∧ x.nsat = 0 ∧ x.nnan = 0 ∧ x.nbso = 0 ∧ x.tlbcfg = 0 ∧ x.bkh = false ∧ x.hltd = false)
  ∧ (∀ c u, (mxBank s c u).fmt = 0x455 ∧ (mxBank s c u).thr = 0)
  ∧ s.sl.ivnum = 1 ∧ s.sl.slper = 25000000 ∧ s.sl.rbc = 0 ∧ s.sl.sealed = 0
  ∧ s.wd.wdper = 250000000 ∧ s.wd.wdcap = 5 ∧ s.wd.wdlvl = 0
  ∧ (∀ n, (stackSt s n).mgthr = 0x0810 ∧ (stackSt s n).scper = 4096)
  ∧ s.sridle = 2500000 ∧ (∀ f, (patEnt s f).owner = (if f < 176 then 8 else 15) ∧ (patEnt s f).guard = false)
  ∧ (∀ n, (cpSt s n).dxbell = 0 ∧ (cpSt s n).dxsysd = 0)
  ∧ s.fw.fwst = 0 ∧ s.fw.running = false ∧ (∀ d, (ifSt s d).st = .unlocked)
  ∧ s.fab.rekey = 4294967296 ∧ s.fab.fbmod = 0
  ∧ s.life.pwcap = 2300 ∧ s.life.rpper = 68719476736 ∧ s.life.replans = 0
end

