-- ==== Sys2Proof/Laws/Maps.lean ====
section
/-!
SUPPORT. What the finite maps and the byte memory do: reads after writes, and the canonical form of memory.
-/
namespace Sys2Proof.Machine
open Sys2Proof

variable {α : Type}

@[simp] theorem fget_fset_self (m : FMap α) (n : Nat) (x : α) : fget (fset m n x) n = some x := by
  induction m with
  | nil => simp [fset, fget]
  | cons e m ih =>
    obtain ⟨k, y⟩ := e
    simp only [fset]
    split
    · simp [fget]
    · split
      · simp [fget]
      · rename_i h; simp [fget, Ne.symm h, ih]

theorem fget_fset_ne (m : FMap α) {n k : Nat} (x : α) (h : k ≠ n) : fget (fset m n x) k = fget m k := by
  induction m with
  | nil => simp [fset, fget, Ne.symm h]
  | cons e m ih =>
    obtain ⟨j, y⟩ := e
    simp only [fset]
    split
    · simp [fget, Ne.symm h]
    · split
      · rename_i hj; subst hj; simp [fget, Ne.symm h]
      · simp [fget, ih]

theorem fget_fset (m : FMap α) (n k : Nat) (x : α) :
    fget (fset m n x) k = if k = n then some x else fget m k := by
  by_cases h : k = n
  · simp [h]
  · simp [h, fget_fset_ne m x h]

@[simp] theorem fget_nil (n : Nat) : fget ([] : FMap α) n = none := rfl

/-! ## One byte -/

/-- The cells of a canonical memory above a bound do not hold the bound. -/
theorem mget_of_cellsAbove {m : List Host.Cell} {b a : Nat} (h : cellsAbove (some b) m = true) (ha : a ≤ b) :
    mget m a = emptyByte := by
  induction m generalizing b with
  | nil => rfl
  | cons e m ih =>
    obtain ⟨k, x⟩ := e
    simp only [cellsAbove, Option.all_some, Bool.and_eq_true, decide_eq_true_eq] at h
    have hk : k ≠ a := by omega
    simp only [mget, hk, if_false]
    exact ih h.2 (by omega)

theorem cellsAbove_mono {m : List Host.Cell} {b c : Option Nat} (h : cellsAbove b m = true)
    (hc : ∀ n, c = some n → ∃ k, b = some k ∧ n ≤ k) : cellsAbove c m = true := by
  cases m with
  | nil => rfl
  | cons e m =>
    obtain ⟨k, x⟩ := e
    simp only [cellsAbove, Bool.and_eq_true, decide_eq_true_eq] at h ⊢
    refine ⟨⟨?_, h.1.2⟩, h.2⟩
    cases c with
    | none => rfl
    | some n =>
      obtain ⟨j, hj, hn⟩ := hc n rfl
      simp only [hj, Option.all_some, decide_eq_true_eq] at h
      simp only [Option.all_some, decide_eq_true_eq]
      omega

/-- A byte written reads back; every other address reads as before. -/
theorem mget_mset {m : List Host.Cell} {b : Option Nat} (h : cellsAbove b m = true) (a k : Nat) (x : Byte) :
    mget (mset m a x) k = if k = a then x else mget m k := by
  induction m generalizing b with
  | nil =>
    simp only [mset]
    split
    · rename_i hx; subst hx; split <;> rfl
    · simp only [mget, eq_comm]
  | cons e m ih =>
    obtain ⟨j, y⟩ := e
    simp only [cellsAbove, Bool.and_eq_true, decide_eq_true_eq] at h
    simp only [mset]
    split
    · rename_i hj
      split
      · rename_i hx
        subst hx
        by_cases hk : k = a
        · have : j ≠ k := by omega
          simp only [hk, if_true, mget]
          rw [if_neg (by omega), mget_of_cellsAbove h.2 (by omega)]
        · simp [hk]
      · simp only [mget]
        by_cases hk : k = a
        · simp [hk]
        · rw [if_neg (Ne.symm hk), if_neg hk]
    · split
      · rename_i hj hja
        subst hja
        split
        · rename_i hx
          subst hx
          by_cases hk : k = a
          · rw [if_pos hk, mget_of_cellsAbove h.2 (by omega)]
          · simp [hk, mget, Ne.symm hk]
        · by_cases hk : k = a
          · simp [mget, hk]
          · simp [mget, hk, Ne.symm hk]
      · rename_i hj hja
        simp only [mget]
        by_cases hjk : j = k
        · have hka : k ≠ a := by omega
          simp [hjk, hka]
        · simp [hjk, ih h.2]

theorem mset_cellsAbove {m : List Host.Cell} {b : Option Nat} (h : cellsAbove b m = true) (a : Nat) (x : Byte)
    (hb : b.all (fun b => decide (b < a)) = true) : cellsAbove b (mset m a x) = true := by
  induction m generalizing b with
  | nil =>
    simp only [mset]
    split
    · rfl
    · rename_i hx; simp [cellsAbove, hb, hx]
  | cons e m ih =>
    obtain ⟨j, y⟩ := e
    have h0 := h
    simp only [cellsAbove, Bool.and_eq_true, decide_eq_true_eq] at h
    simp only [mset]
    split
    · rename_i hj
      split
      · exact h0
      · rename_i hx
        simp only [cellsAbove, Bool.and_eq_true, decide_eq_true_eq, Option.all_some]
        exact ⟨⟨hb, hx⟩, ⟨hj, h.1.2⟩, h.2⟩
    · split
      · rename_i hj hja
        split
        · exact cellsAbove_mono h.2 (fun n hn => ⟨j, rfl, by
            subst hn; simp only [Option.all_some, decide_eq_true_eq] at hb; omega⟩)
        · rename_i hx
          subst hja
          simp only [cellsAbove, Bool.and_eq_true, decide_eq_true_eq]
          exact ⟨⟨hb, hx⟩, h.2⟩
      · rename_i hj hja
        simp only [cellsAbove, Bool.and_eq_true, decide_eq_true_eq]
        exact ⟨h.1, ih h.2 (by simp; omega)⟩

/-- A byte written keeps the canonical form. -/
theorem mset_wf {m : List Host.Cell} (h : Memory.wf m = true) (a : Nat) (x : Byte) : Memory.wf (mset m a x) = true :=
  mset_cellsAbove h a x rfl

/-! ## Runs of bytes -/

theorem msets_wf {m : List Host.Cell} (h : Memory.wf m = true) (a : Nat) (l : List Byte) :
    Memory.wf (msets m a l) = true := by
  induction l generalizing m a with
  | nil => exact h
  | cons x l ih => exact ih (mset_wf h a x) (a + 1)

theorem mput_wf {m : List Host.Cell} (h : Memory.wf m = true) (a n : Nat) (x : Word) :
    Memory.wf (mput m a n x) = true := msets_wf h a _

/-- After a run of bytes has been written, an address outside reads as before and the k-th address reads as the k-th
byte. -/
theorem mget_msets {m : List Host.Cell} (h : Memory.wf m = true) (a k : Nat) (l : List Byte) :
    mget (msets m a l) k = if a ≤ k ∧ k < a + l.length then l.getD (k - a) 0 else mget m k := by
  induction l generalizing m a with
  | nil => simp [msets]
  | cons x l ih =>
    simp only [msets, List.length_cons]
    rw [ih (mset_wf h a x), mget_mset h]
    by_cases h1 : k = a
    · subst h1
      rw [if_neg (by omega), if_pos rfl, if_pos (by omega)]
      simp
    · by_cases h2 : a + 1 ≤ k ∧ k < a + 1 + l.length
      · rw [if_pos h2, if_pos (by omega), show k - a = (k - (a + 1)) + 1 by omega]
        simp
      · rw [if_neg h2, if_neg h1, if_neg (by omega)]

@[simp] theorem leBytes_length (n x : Nat) : (leBytes n x).length = n := by
  induction n generalizing x with
  | zero => rfl
  | succ n ih => simp [leBytes, ih]

/-- A word stored leaves every byte outside it as it was. -/
theorem mget_mput_outside {m : List Host.Cell} (h : Memory.wf m = true) {a n k : Nat} (x : Word)
    (hk : k < a ∨ a + n ≤ k) : mget (mput m a n x) k = mget m k := by
  rw [mput, mget_msets h, if_neg (by simp; omega)]

@[simp] theorem mgets_length (m : List Host.Cell) (a n : Nat) : (mgets m a n).length = n := by
  induction n generalizing a with
  | zero => rfl
  | succ n ih => simp [mgets, ih]

/-- What has been stored reads back. -/
theorem mgets_msets {m : List Host.Cell} (h : Memory.wf m = true) (a : Nat) (l : List Byte) :
    mgets (msets m a l) a l.length = l := by
  have key : ∀ (n j : Nat), j + n = l.length → mgets (msets m a l) (a + j) n = l.drop j := by
    intro n
    induction n with
    | zero => intro j hj; simp [mgets, show l.length ≤ j by omega]
    | succ n ih =>
      intro j hj
      have hlt : j < l.length := by omega
      rw [mgets, mget_msets h, if_pos (by omega), show a + j + 1 = a + (j + 1) by omega, ih (j + 1) (by omega)]
      rw [List.drop_eq_getElem_cons hlt]
      simp [List.getD_eq_getElem?_getD, hlt]
  simpa using key l.length 0 (by omega)

theorem leNat_leBytes (n x : Nat) : leNat (leBytes n x) = x % 256 ^ n := by
  induction n generalizing x with
  | zero => simp [leBytes, leNat, Nat.mod_one]
  | succ n ih =>
    simp only [leBytes, leNat, ih]
    rw [BitVec.toNat_ofNat, pow_succ 256 n, mul_comm (256 ^ n) 256, Nat.mod_mul]

/-- R4: a doubleword stored reads back as it was. -/
theorem mword_mput {m : List Host.Cell} (h : Memory.wf m = true) (a : Nat) (x : Word) :
    mword (mput m a 8 x) a 8 = x := by
  have := mgets_msets h a (leBytes 8 x.toNat)
  rw [leBytes_length] at this
  rw [mword, mput, this, leNat_leBytes]
  apply BitVec.eq_of_toNat_eq
  have := x.isLt
  simp only [BitVec.toNat_ofNat]
  omega

end Sys2Proof.Machine
end

