-- ==== Sys2Proof/Laws/State.lean ====
section
/-!
SUPPORT. What each update of the state leaves: one lemma for each field and each update, and what the updated field holds.
-/
namespace Sys2Proof.Machine
open Sys2Proof

variable (s : State)

/-! ## `setCore` -/

@[simp] theorem setCore_clusters (c : Nat) (x : Core) : (setCore s c x).clusters = s.clusters := rfl
@[simp] theorem setCore_waits (c : Nat) (x : Core) : (setCore s c x).waits = s.waits := rfl
@[simp] theorem setCore_resvs (c : Nat) (x : Core) : (setCore s c x).resvs = s.resvs := rfl
@[simp] theorem setCore_pending (c : Nat) (x : Core) : (setCore s c x).pending = s.pending := rfl
@[simp] theorem setCore_grove (c : Nat) (x : Core) : (setCore s c x).grove = s.grove := rfl
@[simp] theorem setCore_searches (c : Nat) (x : Core) : (setCore s c x).searches = s.searches := rfl
@[simp] theorem setCore_gNext (c : Nat) (x : Core) : (setCore s c x).gNext = s.gNext := rfl
@[simp] theorem setCore_queues (c : Nat) (x : Core) : (setCore s c x).queues = s.queues := rfl
@[simp] theorem setCore_waiting (c : Nat) (x : Core) : (setCore s c x).waiting = s.waiting := rfl
@[simp] theorem setCore_seqNext (c : Nat) (x : Core) : (setCore s c x).seqNext = s.seqNext := rfl
@[simp] theorem setCore_djobs (c : Nat) (x : Core) : (setCore s c x).djobs = s.djobs := rfl
@[simp] theorem setCore_roleMsgs (c : Nat) (x : Core) : (setCore s c x).roleMsgs = s.roleMsgs := rfl
@[simp] theorem setCore_launches (c : Nat) (x : Core) : (setCore s c x).launches = s.launches := rfl
@[simp] theorem setCore_arbRR (c : Nat) (x : Core) : (setCore s c x).arbRR = s.arbRR := rfl
@[simp] theorem setCore_moves (c : Nat) (x : Core) : (setCore s c x).moves = s.moves := rfl
@[simp] theorem setCore_jobReqs (c : Nat) (x : Core) : (setCore s c x).jobReqs = s.jobReqs := rfl
@[simp] theorem setCore_cur (c : Nat) (x : Core) : (setCore s c x).cur = s.cur := rfl
@[simp] theorem setCore_ev (c : Nat) (x : Core) : (setCore s c x).ev = s.ev := rfl
@[simp] theorem setCore_cycle (c : Nat) (x : Core) : (setCore s c x).cycle = s.cycle := rfl
@[simp] theorem setCore_agenda (c : Nat) (x : Core) : (setCore s c x).agenda = s.agenda := rfl
@[simp] theorem setCore_freeN (c : Nat) (x : Core) : (setCore s c x).freeN = s.freeN := rfl
@[simp] theorem setCore_mem (c : Nat) (x : Core) : (setCore s c x).mem = s.mem := rfl
@[simp] theorem setCore_feEmpty (c : Nat) (x : Core) : (setCore s c x).feEmpty = s.feEmpty := rfl
@[simp] theorem setCore_stamps (c : Nat) (x : Core) : (setCore s c x).stamps = s.stamps := rfl
@[simp] theorem setCore_poison (c : Nat) (x : Core) : (setCore s c x).poison = s.poison := rfl
@[simp] theorem setCore_errs (c : Nat) (x : Core) : (setCore s c x).errs = s.errs := rfl
@[simp] theorem setCore_vaults (c : Nat) (x : Core) : (setCore s c x).vaults = s.vaults := rfl
@[simp] theorem setCore_escrow (c : Nat) (x : Core) : (setCore s c x).escrow = s.escrow := rfl
@[simp] theorem setCore_escIn (c : Nat) (x : Core) : (setCore s c x).escIn = s.escIn := rfl
@[simp] theorem setCore_sl (c : Nat) (x : Core) : (setCore s c x).sl = s.sl := rfl
@[simp] theorem setCore_wd (c : Nat) (x : Core) : (setCore s c x).wd = s.wd := rfl
@[simp] theorem setCore_stks (c : Nat) (x : Core) : (setCore s c x).stks = s.stks := rfl
@[simp] theorem setCore_pchs (c : Nat) (x : Core) : (setCore s c x).pchs = s.pchs := rfl
@[simp] theorem setCore_sridle (c : Nat) (x : Core) : (setCore s c x).sridle = s.sridle := rfl
@[simp] theorem setCore_pat (c : Nat) (x : Core) : (setCore s c x).pat = s.pat := rfl
@[simp] theorem setCore_patsel (c : Nat) (x : Core) : (setCore s c x).patsel = s.patsel := rfl
@[simp] theorem setCore_patst (c : Nat) (x : Core) : (setCore s c x).patst = s.patst := rfl
@[simp] theorem setCore_adm (c : Nat) (x : Core) : (setCore s c x).adm = s.adm := rfl
@[simp] theorem setCore_fw (c : Nat) (x : Core) : (setCore s c x).fw = s.fw := rfl
@[simp] theorem setCore_ifs (c : Nat) (x : Core) : (setCore s c x).ifs = s.ifs := rfl
@[simp] theorem setCore_cps (c : Nat) (x : Core) : (setCore s c x).cps = s.cps := rfl
@[simp] theorem setCore_fab (c : Nat) (x : Core) : (setCore s c x).fab = s.fab := rfl
@[simp] theorem setCore_life (c : Nat) (x : Core) : (setCore s c x).life = s.life := rfl
@[simp] theorem setCore_hostMem (c : Nat) (x : Core) : (setCore s c x).hostMem = s.hostMem := rfl
@[simp] theorem setCore_toHost (c : Nat) (x : Core) : (setCore s c x).toHost = s.toHost := rfl
@[simp] theorem setCore_fabOut (c : Nat) (x : Core) : (setCore s c x).fabOut = s.fabOut := rfl
@[simp] theorem setCore_frOut (c : Nat) (x : Core) : (setCore s c x).frOut = s.frOut := rfl
@[simp] theorem setCore_powered (c : Nat) (x : Core) : (setCore s c x).powered = s.powered := rfl

/-! ## `modCore` -/

@[simp] theorem modCore_clusters (c : Nat) (f : Core → Core) : (modCore s c f).clusters = s.clusters := rfl
@[simp] theorem modCore_waits (c : Nat) (f : Core → Core) : (modCore s c f).waits = s.waits := rfl
@[simp] theorem modCore_resvs (c : Nat) (f : Core → Core) : (modCore s c f).resvs = s.resvs := rfl
@[simp] theorem modCore_pending (c : Nat) (f : Core → Core) : (modCore s c f).pending = s.pending := rfl
@[simp] theorem modCore_grove (c : Nat) (f : Core → Core) : (modCore s c f).grove = s.grove := rfl
@[simp] theorem modCore_searches (c : Nat) (f : Core → Core) : (modCore s c f).searches = s.searches := rfl
@[simp] theorem modCore_gNext (c : Nat) (f : Core → Core) : (modCore s c f).gNext = s.gNext := rfl
@[simp] theorem modCore_queues (c : Nat) (f : Core → Core) : (modCore s c f).queues = s.queues := rfl
@[simp] theorem modCore_waiting (c : Nat) (f : Core → Core) : (modCore s c f).waiting = s.waiting := rfl
@[simp] theorem modCore_seqNext (c : Nat) (f : Core → Core) : (modCore s c f).seqNext = s.seqNext := rfl
@[simp] theorem modCore_djobs (c : Nat) (f : Core → Core) : (modCore s c f).djobs = s.djobs := rfl
@[simp] theorem modCore_roleMsgs (c : Nat) (f : Core → Core) : (modCore s c f).roleMsgs = s.roleMsgs := rfl
@[simp] theorem modCore_launches (c : Nat) (f : Core → Core) : (modCore s c f).launches = s.launches := rfl
@[simp] theorem modCore_arbRR (c : Nat) (f : Core → Core) : (modCore s c f).arbRR = s.arbRR := rfl
@[simp] theorem modCore_moves (c : Nat) (f : Core → Core) : (modCore s c f).moves = s.moves := rfl
@[simp] theorem modCore_jobReqs (c : Nat) (f : Core → Core) : (modCore s c f).jobReqs = s.jobReqs := rfl
@[simp] theorem modCore_cur (c : Nat) (f : Core → Core) : (modCore s c f).cur = s.cur := rfl
@[simp] theorem modCore_ev (c : Nat) (f : Core → Core) : (modCore s c f).ev = s.ev := rfl
@[simp] theorem modCore_cycle (c : Nat) (f : Core → Core) : (modCore s c f).cycle = s.cycle := rfl
@[simp] theorem modCore_agenda (c : Nat) (f : Core → Core) : (modCore s c f).agenda = s.agenda := rfl
@[simp] theorem modCore_freeN (c : Nat) (f : Core → Core) : (modCore s c f).freeN = s.freeN := rfl
@[simp] theorem modCore_mem (c : Nat) (f : Core → Core) : (modCore s c f).mem = s.mem := rfl
@[simp] theorem modCore_feEmpty (c : Nat) (f : Core → Core) : (modCore s c f).feEmpty = s.feEmpty := rfl
@[simp] theorem modCore_stamps (c : Nat) (f : Core → Core) : (modCore s c f).stamps = s.stamps := rfl
@[simp] theorem modCore_poison (c : Nat) (f : Core → Core) : (modCore s c f).poison = s.poison := rfl
@[simp] theorem modCore_errs (c : Nat) (f : Core → Core) : (modCore s c f).errs = s.errs := rfl
@[simp] theorem modCore_vaults (c : Nat) (f : Core → Core) : (modCore s c f).vaults = s.vaults := rfl
@[simp] theorem modCore_escrow (c : Nat) (f : Core → Core) : (modCore s c f).escrow = s.escrow := rfl
@[simp] theorem modCore_escIn (c : Nat) (f : Core → Core) : (modCore s c f).escIn = s.escIn := rfl
@[simp] theorem modCore_sl (c : Nat) (f : Core → Core) : (modCore s c f).sl = s.sl := rfl
@[simp] theorem modCore_wd (c : Nat) (f : Core → Core) : (modCore s c f).wd = s.wd := rfl
@[simp] theorem modCore_stks (c : Nat) (f : Core → Core) : (modCore s c f).stks = s.stks := rfl
@[simp] theorem modCore_pchs (c : Nat) (f : Core → Core) : (modCore s c f).pchs = s.pchs := rfl
@[simp] theorem modCore_sridle (c : Nat) (f : Core → Core) : (modCore s c f).sridle = s.sridle := rfl
@[simp] theorem modCore_pat (c : Nat) (f : Core → Core) : (modCore s c f).pat = s.pat := rfl
@[simp] theorem modCore_patsel (c : Nat) (f : Core → Core) : (modCore s c f).patsel = s.patsel := rfl
@[simp] theorem modCore_patst (c : Nat) (f : Core → Core) : (modCore s c f).patst = s.patst := rfl
@[simp] theorem modCore_adm (c : Nat) (f : Core → Core) : (modCore s c f).adm = s.adm := rfl
@[simp] theorem modCore_fw (c : Nat) (f : Core → Core) : (modCore s c f).fw = s.fw := rfl
@[simp] theorem modCore_ifs (c : Nat) (f : Core → Core) : (modCore s c f).ifs = s.ifs := rfl
@[simp] theorem modCore_cps (c : Nat) (f : Core → Core) : (modCore s c f).cps = s.cps := rfl
@[simp] theorem modCore_fab (c : Nat) (f : Core → Core) : (modCore s c f).fab = s.fab := rfl
@[simp] theorem modCore_life (c : Nat) (f : Core → Core) : (modCore s c f).life = s.life := rfl
@[simp] theorem modCore_hostMem (c : Nat) (f : Core → Core) : (modCore s c f).hostMem = s.hostMem := rfl
@[simp] theorem modCore_toHost (c : Nat) (f : Core → Core) : (modCore s c f).toHost = s.toHost := rfl
@[simp] theorem modCore_fabOut (c : Nat) (f : Core → Core) : (modCore s c f).fabOut = s.fabOut := rfl
@[simp] theorem modCore_frOut (c : Nat) (f : Core → Core) : (modCore s c f).frOut = s.frOut := rfl
@[simp] theorem modCore_powered (c : Nat) (f : Core → Core) : (modCore s c f).powered = s.powered := rfl

/-! ## `setThr` -/

@[simp] theorem setThr_clusters (a : TRef) (t : Thread) : (setThr s a t).clusters = s.clusters := rfl
@[simp] theorem setThr_waits (a : TRef) (t : Thread) : (setThr s a t).waits = s.waits := rfl
@[simp] theorem setThr_resvs (a : TRef) (t : Thread) : (setThr s a t).resvs = s.resvs := rfl
@[simp] theorem setThr_pending (a : TRef) (t : Thread) : (setThr s a t).pending = s.pending := rfl
@[simp] theorem setThr_grove (a : TRef) (t : Thread) : (setThr s a t).grove = s.grove := rfl
@[simp] theorem setThr_searches (a : TRef) (t : Thread) : (setThr s a t).searches = s.searches := rfl
@[simp] theorem setThr_gNext (a : TRef) (t : Thread) : (setThr s a t).gNext = s.gNext := rfl
@[simp] theorem setThr_queues (a : TRef) (t : Thread) : (setThr s a t).queues = s.queues := rfl
@[simp] theorem setThr_waiting (a : TRef) (t : Thread) : (setThr s a t).waiting = s.waiting := rfl
@[simp] theorem setThr_seqNext (a : TRef) (t : Thread) : (setThr s a t).seqNext = s.seqNext := rfl
@[simp] theorem setThr_djobs (a : TRef) (t : Thread) : (setThr s a t).djobs = s.djobs := rfl
@[simp] theorem setThr_roleMsgs (a : TRef) (t : Thread) : (setThr s a t).roleMsgs = s.roleMsgs := rfl
@[simp] theorem setThr_launches (a : TRef) (t : Thread) : (setThr s a t).launches = s.launches := rfl
@[simp] theorem setThr_arbRR (a : TRef) (t : Thread) : (setThr s a t).arbRR = s.arbRR := rfl
@[simp] theorem setThr_moves (a : TRef) (t : Thread) : (setThr s a t).moves = s.moves := rfl
@[simp] theorem setThr_jobReqs (a : TRef) (t : Thread) : (setThr s a t).jobReqs = s.jobReqs := rfl
@[simp] theorem setThr_cur (a : TRef) (t : Thread) : (setThr s a t).cur = s.cur := rfl
@[simp] theorem setThr_ev (a : TRef) (t : Thread) : (setThr s a t).ev = s.ev := rfl
@[simp] theorem setThr_cycle (a : TRef) (t : Thread) : (setThr s a t).cycle = s.cycle := rfl
@[simp] theorem setThr_agenda (a : TRef) (t : Thread) : (setThr s a t).agenda = s.agenda := rfl
@[simp] theorem setThr_freeN (a : TRef) (t : Thread) : (setThr s a t).freeN = s.freeN := rfl
@[simp] theorem setThr_mem (a : TRef) (t : Thread) : (setThr s a t).mem = s.mem := rfl
@[simp] theorem setThr_feEmpty (a : TRef) (t : Thread) : (setThr s a t).feEmpty = s.feEmpty := rfl
@[simp] theorem setThr_stamps (a : TRef) (t : Thread) : (setThr s a t).stamps = s.stamps := rfl
@[simp] theorem setThr_poison (a : TRef) (t : Thread) : (setThr s a t).poison = s.poison := rfl
@[simp] theorem setThr_errs (a : TRef) (t : Thread) : (setThr s a t).errs = s.errs := rfl
@[simp] theorem setThr_vaults (a : TRef) (t : Thread) : (setThr s a t).vaults = s.vaults := rfl
@[simp] theorem setThr_escrow (a : TRef) (t : Thread) : (setThr s a t).escrow = s.escrow := rfl
@[simp] theorem setThr_escIn (a : TRef) (t : Thread) : (setThr s a t).escIn = s.escIn := rfl
@[simp] theorem setThr_sl (a : TRef) (t : Thread) : (setThr s a t).sl = s.sl := rfl
@[simp] theorem setThr_wd (a : TRef) (t : Thread) : (setThr s a t).wd = s.wd := rfl
@[simp] theorem setThr_stks (a : TRef) (t : Thread) : (setThr s a t).stks = s.stks := rfl
@[simp] theorem setThr_pchs (a : TRef) (t : Thread) : (setThr s a t).pchs = s.pchs := rfl
@[simp] theorem setThr_sridle (a : TRef) (t : Thread) : (setThr s a t).sridle = s.sridle := rfl
@[simp] theorem setThr_pat (a : TRef) (t : Thread) : (setThr s a t).pat = s.pat := rfl
@[simp] theorem setThr_patsel (a : TRef) (t : Thread) : (setThr s a t).patsel = s.patsel := rfl
@[simp] theorem setThr_patst (a : TRef) (t : Thread) : (setThr s a t).patst = s.patst := rfl
@[simp] theorem setThr_adm (a : TRef) (t : Thread) : (setThr s a t).adm = s.adm := rfl
@[simp] theorem setThr_fw (a : TRef) (t : Thread) : (setThr s a t).fw = s.fw := rfl
@[simp] theorem setThr_ifs (a : TRef) (t : Thread) : (setThr s a t).ifs = s.ifs := rfl
@[simp] theorem setThr_cps (a : TRef) (t : Thread) : (setThr s a t).cps = s.cps := rfl
@[simp] theorem setThr_fab (a : TRef) (t : Thread) : (setThr s a t).fab = s.fab := rfl
@[simp] theorem setThr_life (a : TRef) (t : Thread) : (setThr s a t).life = s.life := rfl
@[simp] theorem setThr_hostMem (a : TRef) (t : Thread) : (setThr s a t).hostMem = s.hostMem := rfl
@[simp] theorem setThr_toHost (a : TRef) (t : Thread) : (setThr s a t).toHost = s.toHost := rfl
@[simp] theorem setThr_fabOut (a : TRef) (t : Thread) : (setThr s a t).fabOut = s.fabOut := rfl
@[simp] theorem setThr_frOut (a : TRef) (t : Thread) : (setThr s a t).frOut = s.frOut := rfl
@[simp] theorem setThr_powered (a : TRef) (t : Thread) : (setThr s a t).powered = s.powered := rfl

/-! ## `modThr` -/

@[simp] theorem modThr_clusters (a : TRef) (f : Thread → Thread) : (modThr s a f).clusters = s.clusters := rfl
@[simp] theorem modThr_waits (a : TRef) (f : Thread → Thread) : (modThr s a f).waits = s.waits := rfl
@[simp] theorem modThr_resvs (a : TRef) (f : Thread → Thread) : (modThr s a f).resvs = s.resvs := rfl
@[simp] theorem modThr_pending (a : TRef) (f : Thread → Thread) : (modThr s a f).pending = s.pending := rfl
@[simp] theorem modThr_grove (a : TRef) (f : Thread → Thread) : (modThr s a f).grove = s.grove := rfl
@[simp] theorem modThr_searches (a : TRef) (f : Thread → Thread) : (modThr s a f).searches = s.searches := rfl
@[simp] theorem modThr_gNext (a : TRef) (f : Thread → Thread) : (modThr s a f).gNext = s.gNext := rfl
@[simp] theorem modThr_queues (a : TRef) (f : Thread → Thread) : (modThr s a f).queues = s.queues := rfl
@[simp] theorem modThr_waiting (a : TRef) (f : Thread → Thread) : (modThr s a f).waiting = s.waiting := rfl
@[simp] theorem modThr_seqNext (a : TRef) (f : Thread → Thread) : (modThr s a f).seqNext = s.seqNext := rfl
@[simp] theorem modThr_djobs (a : TRef) (f : Thread → Thread) : (modThr s a f).djobs = s.djobs := rfl
@[simp] theorem modThr_roleMsgs (a : TRef) (f : Thread → Thread) : (modThr s a f).roleMsgs = s.roleMsgs := rfl
@[simp] theorem modThr_launches (a : TRef) (f : Thread → Thread) : (modThr s a f).launches = s.launches := rfl
@[simp] theorem modThr_arbRR (a : TRef) (f : Thread → Thread) : (modThr s a f).arbRR = s.arbRR := rfl
@[simp] theorem modThr_moves (a : TRef) (f : Thread → Thread) : (modThr s a f).moves = s.moves := rfl
@[simp] theorem modThr_jobReqs (a : TRef) (f : Thread → Thread) : (modThr s a f).jobReqs = s.jobReqs := rfl
@[simp] theorem modThr_cur (a : TRef) (f : Thread → Thread) : (modThr s a f).cur = s.cur := rfl
@[simp] theorem modThr_ev (a : TRef) (f : Thread → Thread) : (modThr s a f).ev = s.ev := rfl
@[simp] theorem modThr_cycle (a : TRef) (f : Thread → Thread) : (modThr s a f).cycle = s.cycle := rfl
@[simp] theorem modThr_agenda (a : TRef) (f : Thread → Thread) : (modThr s a f).agenda = s.agenda := rfl
@[simp] theorem modThr_freeN (a : TRef) (f : Thread → Thread) : (modThr s a f).freeN = s.freeN := rfl
@[simp] theorem modThr_mem (a : TRef) (f : Thread → Thread) : (modThr s a f).mem = s.mem := rfl
@[simp] theorem modThr_feEmpty (a : TRef) (f : Thread → Thread) : (modThr s a f).feEmpty = s.feEmpty := rfl
@[simp] theorem modThr_stamps (a : TRef) (f : Thread → Thread) : (modThr s a f).stamps = s.stamps := rfl
@[simp] theorem modThr_poison (a : TRef) (f : Thread → Thread) : (modThr s a f).poison = s.poison := rfl
@[simp] theorem modThr_errs (a : TRef) (f : Thread → Thread) : (modThr s a f).errs = s.errs := rfl
@[simp] theorem modThr_vaults (a : TRef) (f : Thread → Thread) : (modThr s a f).vaults = s.vaults := rfl
@[simp] theorem modThr_escrow (a : TRef) (f : Thread → Thread) : (modThr s a f).escrow = s.escrow := rfl
@[simp] theorem modThr_escIn (a : TRef) (f : Thread → Thread) : (modThr s a f).escIn = s.escIn := rfl
@[simp] theorem modThr_sl (a : TRef) (f : Thread → Thread) : (modThr s a f).sl = s.sl := rfl
@[simp] theorem modThr_wd (a : TRef) (f : Thread → Thread) : (modThr s a f).wd = s.wd := rfl
@[simp] theorem modThr_stks (a : TRef) (f : Thread → Thread) : (modThr s a f).stks = s.stks := rfl
@[simp] theorem modThr_pchs (a : TRef) (f : Thread → Thread) : (modThr s a f).pchs = s.pchs := rfl
@[simp] theorem modThr_sridle (a : TRef) (f : Thread → Thread) : (modThr s a f).sridle = s.sridle := rfl
@[simp] theorem modThr_pat (a : TRef) (f : Thread → Thread) : (modThr s a f).pat = s.pat := rfl
@[simp] theorem modThr_patsel (a : TRef) (f : Thread → Thread) : (modThr s a f).patsel = s.patsel := rfl
@[simp] theorem modThr_patst (a : TRef) (f : Thread → Thread) : (modThr s a f).patst = s.patst := rfl
@[simp] theorem modThr_adm (a : TRef) (f : Thread → Thread) : (modThr s a f).adm = s.adm := rfl
@[simp] theorem modThr_fw (a : TRef) (f : Thread → Thread) : (modThr s a f).fw = s.fw := rfl
@[simp] theorem modThr_ifs (a : TRef) (f : Thread → Thread) : (modThr s a f).ifs = s.ifs := rfl
@[simp] theorem modThr_cps (a : TRef) (f : Thread → Thread) : (modThr s a f).cps = s.cps := rfl
@[simp] theorem modThr_fab (a : TRef) (f : Thread → Thread) : (modThr s a f).fab = s.fab := rfl
@[simp] theorem modThr_life (a : TRef) (f : Thread → Thread) : (modThr s a f).life = s.life := rfl
@[simp] theorem modThr_hostMem (a : TRef) (f : Thread → Thread) : (modThr s a f).hostMem = s.hostMem := rfl
@[simp] theorem modThr_toHost (a : TRef) (f : Thread → Thread) : (modThr s a f).toHost = s.toHost := rfl
@[simp] theorem modThr_fabOut (a : TRef) (f : Thread → Thread) : (modThr s a f).fabOut = s.fabOut := rfl
@[simp] theorem modThr_frOut (a : TRef) (f : Thread → Thread) : (modThr s a f).frOut = s.frOut := rfl
@[simp] theorem modThr_powered (a : TRef) (f : Thread → Thread) : (modThr s a f).powered = s.powered := rfl

/-! ## `modMe` -/

@[simp] theorem modMe_clusters (f : Thread → Thread) : (modMe s f).clusters = s.clusters := rfl
@[simp] theorem modMe_waits (f : Thread → Thread) : (modMe s f).waits = s.waits := rfl
@[simp] theorem modMe_resvs (f : Thread → Thread) : (modMe s f).resvs = s.resvs := rfl
@[simp] theorem modMe_pending (f : Thread → Thread) : (modMe s f).pending = s.pending := rfl
@[simp] theorem modMe_grove (f : Thread → Thread) : (modMe s f).grove = s.grove := rfl
@[simp] theorem modMe_searches (f : Thread → Thread) : (modMe s f).searches = s.searches := rfl
@[simp] theorem modMe_gNext (f : Thread → Thread) : (modMe s f).gNext = s.gNext := rfl
@[simp] theorem modMe_queues (f : Thread → Thread) : (modMe s f).queues = s.queues := rfl
@[simp] theorem modMe_waiting (f : Thread → Thread) : (modMe s f).waiting = s.waiting := rfl
@[simp] theorem modMe_seqNext (f : Thread → Thread) : (modMe s f).seqNext = s.seqNext := rfl
@[simp] theorem modMe_djobs (f : Thread → Thread) : (modMe s f).djobs = s.djobs := rfl
@[simp] theorem modMe_roleMsgs (f : Thread → Thread) : (modMe s f).roleMsgs = s.roleMsgs := rfl
@[simp] theorem modMe_launches (f : Thread → Thread) : (modMe s f).launches = s.launches := rfl
@[simp] theorem modMe_arbRR (f : Thread → Thread) : (modMe s f).arbRR = s.arbRR := rfl
@[simp] theorem modMe_moves (f : Thread → Thread) : (modMe s f).moves = s.moves := rfl
@[simp] theorem modMe_jobReqs (f : Thread → Thread) : (modMe s f).jobReqs = s.jobReqs := rfl
@[simp] theorem modMe_cur (f : Thread → Thread) : (modMe s f).cur = s.cur := rfl
@[simp] theorem modMe_ev (f : Thread → Thread) : (modMe s f).ev = s.ev := rfl
@[simp] theorem modMe_cycle (f : Thread → Thread) : (modMe s f).cycle = s.cycle := rfl
@[simp] theorem modMe_agenda (f : Thread → Thread) : (modMe s f).agenda = s.agenda := rfl
@[simp] theorem modMe_freeN (f : Thread → Thread) : (modMe s f).freeN = s.freeN := rfl
@[simp] theorem modMe_mem (f : Thread → Thread) : (modMe s f).mem = s.mem := rfl
@[simp] theorem modMe_feEmpty (f : Thread → Thread) : (modMe s f).feEmpty = s.feEmpty := rfl
@[simp] theorem modMe_stamps (f : Thread → Thread) : (modMe s f).stamps = s.stamps := rfl
@[simp] theorem modMe_poison (f : Thread → Thread) : (modMe s f).poison = s.poison := rfl
@[simp] theorem modMe_errs (f : Thread → Thread) : (modMe s f).errs = s.errs := rfl
@[simp] theorem modMe_vaults (f : Thread → Thread) : (modMe s f).vaults = s.vaults := rfl
@[simp] theorem modMe_escrow (f : Thread → Thread) : (modMe s f).escrow = s.escrow := rfl
@[simp] theorem modMe_escIn (f : Thread → Thread) : (modMe s f).escIn = s.escIn := rfl
@[simp] theorem modMe_sl (f : Thread → Thread) : (modMe s f).sl = s.sl := rfl
@[simp] theorem modMe_wd (f : Thread → Thread) : (modMe s f).wd = s.wd := rfl
@[simp] theorem modMe_stks (f : Thread → Thread) : (modMe s f).stks = s.stks := rfl
@[simp] theorem modMe_pchs (f : Thread → Thread) : (modMe s f).pchs = s.pchs := rfl
@[simp] theorem modMe_sridle (f : Thread → Thread) : (modMe s f).sridle = s.sridle := rfl
@[simp] theorem modMe_pat (f : Thread → Thread) : (modMe s f).pat = s.pat := rfl
@[simp] theorem modMe_patsel (f : Thread → Thread) : (modMe s f).patsel = s.patsel := rfl
@[simp] theorem modMe_patst (f : Thread → Thread) : (modMe s f).patst = s.patst := rfl
@[simp] theorem modMe_adm (f : Thread → Thread) : (modMe s f).adm = s.adm := rfl
@[simp] theorem modMe_fw (f : Thread → Thread) : (modMe s f).fw = s.fw := rfl
@[simp] theorem modMe_ifs (f : Thread → Thread) : (modMe s f).ifs = s.ifs := rfl
@[simp] theorem modMe_cps (f : Thread → Thread) : (modMe s f).cps = s.cps := rfl
@[simp] theorem modMe_fab (f : Thread → Thread) : (modMe s f).fab = s.fab := rfl
@[simp] theorem modMe_life (f : Thread → Thread) : (modMe s f).life = s.life := rfl
@[simp] theorem modMe_hostMem (f : Thread → Thread) : (modMe s f).hostMem = s.hostMem := rfl
@[simp] theorem modMe_toHost (f : Thread → Thread) : (modMe s f).toHost = s.toHost := rfl
@[simp] theorem modMe_fabOut (f : Thread → Thread) : (modMe s f).fabOut = s.fabOut := rfl
@[simp] theorem modMe_frOut (f : Thread → Thread) : (modMe s f).frOut = s.frOut := rfl
@[simp] theorem modMe_powered (f : Thread → Thread) : (modMe s f).powered = s.powered := rfl

/-! ## `modMyCore` -/

@[simp] theorem modMyCore_clusters (f : Core → Core) : (modMyCore s f).clusters = s.clusters := rfl
@[simp] theorem modMyCore_waits (f : Core → Core) : (modMyCore s f).waits = s.waits := rfl
@[simp] theorem modMyCore_resvs (f : Core → Core) : (modMyCore s f).resvs = s.resvs := rfl
@[simp] theorem modMyCore_pending (f : Core → Core) : (modMyCore s f).pending = s.pending := rfl
@[simp] theorem modMyCore_grove (f : Core → Core) : (modMyCore s f).grove = s.grove := rfl
@[simp] theorem modMyCore_searches (f : Core → Core) : (modMyCore s f).searches = s.searches := rfl
@[simp] theorem modMyCore_gNext (f : Core → Core) : (modMyCore s f).gNext = s.gNext := rfl
@[simp] theorem modMyCore_queues (f : Core → Core) : (modMyCore s f).queues = s.queues := rfl
@[simp] theorem modMyCore_waiting (f : Core → Core) : (modMyCore s f).waiting = s.waiting := rfl
@[simp] theorem modMyCore_seqNext (f : Core → Core) : (modMyCore s f).seqNext = s.seqNext := rfl
@[simp] theorem modMyCore_djobs (f : Core → Core) : (modMyCore s f).djobs = s.djobs := rfl
@[simp] theorem modMyCore_roleMsgs (f : Core → Core) : (modMyCore s f).roleMsgs = s.roleMsgs := rfl
@[simp] theorem modMyCore_launches (f : Core → Core) : (modMyCore s f).launches = s.launches := rfl
@[simp] theorem modMyCore_arbRR (f : Core → Core) : (modMyCore s f).arbRR = s.arbRR := rfl
@[simp] theorem modMyCore_moves (f : Core → Core) : (modMyCore s f).moves = s.moves := rfl
@[simp] theorem modMyCore_jobReqs (f : Core → Core) : (modMyCore s f).jobReqs = s.jobReqs := rfl
@[simp] theorem modMyCore_cur (f : Core → Core) : (modMyCore s f).cur = s.cur := rfl
@[simp] theorem modMyCore_ev (f : Core → Core) : (modMyCore s f).ev = s.ev := rfl
@[simp] theorem modMyCore_cycle (f : Core → Core) : (modMyCore s f).cycle = s.cycle := rfl
@[simp] theorem modMyCore_agenda (f : Core → Core) : (modMyCore s f).agenda = s.agenda := rfl
@[simp] theorem modMyCore_freeN (f : Core → Core) : (modMyCore s f).freeN = s.freeN := rfl
@[simp] theorem modMyCore_mem (f : Core → Core) : (modMyCore s f).mem = s.mem := rfl
@[simp] theorem modMyCore_feEmpty (f : Core → Core) : (modMyCore s f).feEmpty = s.feEmpty := rfl
@[simp] theorem modMyCore_stamps (f : Core → Core) : (modMyCore s f).stamps = s.stamps := rfl
@[simp] theorem modMyCore_poison (f : Core → Core) : (modMyCore s f).poison = s.poison := rfl
@[simp] theorem modMyCore_errs (f : Core → Core) : (modMyCore s f).errs = s.errs := rfl
@[simp] theorem modMyCore_vaults (f : Core → Core) : (modMyCore s f).vaults = s.vaults := rfl
@[simp] theorem modMyCore_escrow (f : Core → Core) : (modMyCore s f).escrow = s.escrow := rfl
@[simp] theorem modMyCore_escIn (f : Core → Core) : (modMyCore s f).escIn = s.escIn := rfl
@[simp] theorem modMyCore_sl (f : Core → Core) : (modMyCore s f).sl = s.sl := rfl
@[simp] theorem modMyCore_wd (f : Core → Core) : (modMyCore s f).wd = s.wd := rfl
@[simp] theorem modMyCore_stks (f : Core → Core) : (modMyCore s f).stks = s.stks := rfl
@[simp] theorem modMyCore_pchs (f : Core → Core) : (modMyCore s f).pchs = s.pchs := rfl
@[simp] theorem modMyCore_sridle (f : Core → Core) : (modMyCore s f).sridle = s.sridle := rfl
@[simp] theorem modMyCore_pat (f : Core → Core) : (modMyCore s f).pat = s.pat := rfl
@[simp] theorem modMyCore_patsel (f : Core → Core) : (modMyCore s f).patsel = s.patsel := rfl
@[simp] theorem modMyCore_patst (f : Core → Core) : (modMyCore s f).patst = s.patst := rfl
@[simp] theorem modMyCore_adm (f : Core → Core) : (modMyCore s f).adm = s.adm := rfl
@[simp] theorem modMyCore_fw (f : Core → Core) : (modMyCore s f).fw = s.fw := rfl
@[simp] theorem modMyCore_ifs (f : Core → Core) : (modMyCore s f).ifs = s.ifs := rfl
@[simp] theorem modMyCore_cps (f : Core → Core) : (modMyCore s f).cps = s.cps := rfl
@[simp] theorem modMyCore_fab (f : Core → Core) : (modMyCore s f).fab = s.fab := rfl
@[simp] theorem modMyCore_life (f : Core → Core) : (modMyCore s f).life = s.life := rfl
@[simp] theorem modMyCore_hostMem (f : Core → Core) : (modMyCore s f).hostMem = s.hostMem := rfl
@[simp] theorem modMyCore_toHost (f : Core → Core) : (modMyCore s f).toHost = s.toHost := rfl
@[simp] theorem modMyCore_fabOut (f : Core → Core) : (modMyCore s f).fabOut = s.fabOut := rfl
@[simp] theorem modMyCore_frOut (f : Core → Core) : (modMyCore s f).frOut = s.frOut := rfl
@[simp] theorem modMyCore_powered (f : Core → Core) : (modMyCore s f).powered = s.powered := rfl

/-! ## `fill` -/

@[simp] theorem fill_clusters (a : TRef) (t : Thread) : (fill s a t).clusters = s.clusters := rfl
@[simp] theorem fill_waits (a : TRef) (t : Thread) : (fill s a t).waits = s.waits := rfl
@[simp] theorem fill_resvs (a : TRef) (t : Thread) : (fill s a t).resvs = s.resvs := rfl
@[simp] theorem fill_pending (a : TRef) (t : Thread) : (fill s a t).pending = s.pending := rfl
@[simp] theorem fill_grove (a : TRef) (t : Thread) : (fill s a t).grove = s.grove := rfl
@[simp] theorem fill_searches (a : TRef) (t : Thread) : (fill s a t).searches = s.searches := rfl
@[simp] theorem fill_gNext (a : TRef) (t : Thread) : (fill s a t).gNext = s.gNext := rfl
@[simp] theorem fill_queues (a : TRef) (t : Thread) : (fill s a t).queues = s.queues := rfl
@[simp] theorem fill_waiting (a : TRef) (t : Thread) : (fill s a t).waiting = s.waiting := rfl
@[simp] theorem fill_seqNext (a : TRef) (t : Thread) : (fill s a t).seqNext = s.seqNext := rfl
@[simp] theorem fill_djobs (a : TRef) (t : Thread) : (fill s a t).djobs = s.djobs := rfl
@[simp] theorem fill_roleMsgs (a : TRef) (t : Thread) : (fill s a t).roleMsgs = s.roleMsgs := rfl
@[simp] theorem fill_launches (a : TRef) (t : Thread) : (fill s a t).launches = s.launches := rfl
@[simp] theorem fill_arbRR (a : TRef) (t : Thread) : (fill s a t).arbRR = s.arbRR := rfl
@[simp] theorem fill_moves (a : TRef) (t : Thread) : (fill s a t).moves = s.moves := rfl
@[simp] theorem fill_jobReqs (a : TRef) (t : Thread) : (fill s a t).jobReqs = s.jobReqs := rfl
@[simp] theorem fill_cur (a : TRef) (t : Thread) : (fill s a t).cur = s.cur := rfl
@[simp] theorem fill_ev (a : TRef) (t : Thread) : (fill s a t).ev = s.ev := rfl
@[simp] theorem fill_cycle (a : TRef) (t : Thread) : (fill s a t).cycle = s.cycle := rfl
@[simp] theorem fill_agenda (a : TRef) (t : Thread) : (fill s a t).agenda = s.agenda := rfl
@[simp] theorem fill_freeN (a : TRef) (t : Thread) : (fill s a t).freeN = s.freeN := rfl
@[simp] theorem fill_mem (a : TRef) (t : Thread) : (fill s a t).mem = s.mem := rfl
@[simp] theorem fill_feEmpty (a : TRef) (t : Thread) : (fill s a t).feEmpty = s.feEmpty := rfl
@[simp] theorem fill_stamps (a : TRef) (t : Thread) : (fill s a t).stamps = s.stamps := rfl
@[simp] theorem fill_poison (a : TRef) (t : Thread) : (fill s a t).poison = s.poison := rfl
@[simp] theorem fill_errs (a : TRef) (t : Thread) : (fill s a t).errs = s.errs := rfl
@[simp] theorem fill_vaults (a : TRef) (t : Thread) : (fill s a t).vaults = s.vaults := rfl
@[simp] theorem fill_escrow (a : TRef) (t : Thread) : (fill s a t).escrow = s.escrow := rfl
@[simp] theorem fill_escIn (a : TRef) (t : Thread) : (fill s a t).escIn = s.escIn := rfl
@[simp] theorem fill_sl (a : TRef) (t : Thread) : (fill s a t).sl = s.sl := rfl
@[simp] theorem fill_wd (a : TRef) (t : Thread) : (fill s a t).wd = s.wd := rfl
@[simp] theorem fill_stks (a : TRef) (t : Thread) : (fill s a t).stks = s.stks := rfl
@[simp] theorem fill_pchs (a : TRef) (t : Thread) : (fill s a t).pchs = s.pchs := rfl
@[simp] theorem fill_sridle (a : TRef) (t : Thread) : (fill s a t).sridle = s.sridle := rfl
@[simp] theorem fill_pat (a : TRef) (t : Thread) : (fill s a t).pat = s.pat := rfl
@[simp] theorem fill_patsel (a : TRef) (t : Thread) : (fill s a t).patsel = s.patsel := rfl
@[simp] theorem fill_patst (a : TRef) (t : Thread) : (fill s a t).patst = s.patst := rfl
@[simp] theorem fill_adm (a : TRef) (t : Thread) : (fill s a t).adm = s.adm := rfl
@[simp] theorem fill_fw (a : TRef) (t : Thread) : (fill s a t).fw = s.fw := rfl
@[simp] theorem fill_ifs (a : TRef) (t : Thread) : (fill s a t).ifs = s.ifs := rfl
@[simp] theorem fill_cps (a : TRef) (t : Thread) : (fill s a t).cps = s.cps := rfl
@[simp] theorem fill_fab (a : TRef) (t : Thread) : (fill s a t).fab = s.fab := rfl
@[simp] theorem fill_life (a : TRef) (t : Thread) : (fill s a t).life = s.life := rfl
@[simp] theorem fill_hostMem (a : TRef) (t : Thread) : (fill s a t).hostMem = s.hostMem := rfl
@[simp] theorem fill_toHost (a : TRef) (t : Thread) : (fill s a t).toHost = s.toHost := rfl
@[simp] theorem fill_fabOut (a : TRef) (t : Thread) : (fill s a t).fabOut = s.fabOut := rfl
@[simp] theorem fill_frOut (a : TRef) (t : Thread) : (fill s a t).frOut = s.frOut := rfl
@[simp] theorem fill_powered (a : TRef) (t : Thread) : (fill s a t).powered = s.powered := rfl

/-! ## `modCluster` -/

@[simp] theorem modCluster_cores (c : Nat) (f : Cluster → Cluster) : (modCluster s c f).cores = s.cores := rfl
@[simp] theorem modCluster_waits (c : Nat) (f : Cluster → Cluster) : (modCluster s c f).waits = s.waits := rfl
@[simp] theorem modCluster_resvs (c : Nat) (f : Cluster → Cluster) : (modCluster s c f).resvs = s.resvs := rfl
@[simp] theorem modCluster_pending (c : Nat) (f : Cluster → Cluster) : (modCluster s c f).pending = s.pending := rfl
@[simp] theorem modCluster_grove (c : Nat) (f : Cluster → Cluster) : (modCluster s c f).grove = s.grove := rfl
@[simp] theorem modCluster_searches (c : Nat) (f : Cluster → Cluster) : (modCluster s c f).searches = s.searches := rfl
@[simp] theorem modCluster_gNext (c : Nat) (f : Cluster → Cluster) : (modCluster s c f).gNext = s.gNext := rfl
@[simp] theorem modCluster_queues (c : Nat) (f : Cluster → Cluster) : (modCluster s c f).queues = s.queues := rfl
@[simp] theorem modCluster_waiting (c : Nat) (f : Cluster → Cluster) : (modCluster s c f).waiting = s.waiting := rfl
@[simp] theorem modCluster_seqNext (c : Nat) (f : Cluster → Cluster) : (modCluster s c f).seqNext = s.seqNext := rfl
@[simp] theorem modCluster_djobs (c : Nat) (f : Cluster → Cluster) : (modCluster s c f).djobs = s.djobs := rfl
@[simp] theorem modCluster_roleMsgs (c : Nat) (f : Cluster → Cluster) : (modCluster s c f).roleMsgs = s.roleMsgs := rfl
@[simp] theorem modCluster_launches (c : Nat) (f : Cluster → Cluster) : (modCluster s c f).launches = s.launches := rfl
@[simp] theorem modCluster_arbRR (c : Nat) (f : Cluster → Cluster) : (modCluster s c f).arbRR = s.arbRR := rfl
@[simp] theorem modCluster_moves (c : Nat) (f : Cluster → Cluster) : (modCluster s c f).moves = s.moves := rfl
@[simp] theorem modCluster_jobReqs (c : Nat) (f : Cluster → Cluster) : (modCluster s c f).jobReqs = s.jobReqs := rfl
@[simp] theorem modCluster_cur (c : Nat) (f : Cluster → Cluster) : (modCluster s c f).cur = s.cur := rfl
@[simp] theorem modCluster_ev (c : Nat) (f : Cluster → Cluster) : (modCluster s c f).ev = s.ev := rfl
@[simp] theorem modCluster_cycle (c : Nat) (f : Cluster → Cluster) : (modCluster s c f).cycle = s.cycle := rfl
@[simp] theorem modCluster_agenda (c : Nat) (f : Cluster → Cluster) : (modCluster s c f).agenda = s.agenda := rfl
@[simp] theorem modCluster_freeN (c : Nat) (f : Cluster → Cluster) : (modCluster s c f).freeN = s.freeN := rfl
@[simp] theorem modCluster_mem (c : Nat) (f : Cluster → Cluster) : (modCluster s c f).mem = s.mem := rfl
@[simp] theorem modCluster_feEmpty (c : Nat) (f : Cluster → Cluster) : (modCluster s c f).feEmpty = s.feEmpty := rfl
@[simp] theorem modCluster_stamps (c : Nat) (f : Cluster → Cluster) : (modCluster s c f).stamps = s.stamps := rfl
@[simp] theorem modCluster_poison (c : Nat) (f : Cluster → Cluster) : (modCluster s c f).poison = s.poison := rfl
@[simp] theorem modCluster_errs (c : Nat) (f : Cluster → Cluster) : (modCluster s c f).errs = s.errs := rfl
@[simp] theorem modCluster_vaults (c : Nat) (f : Cluster → Cluster) : (modCluster s c f).vaults = s.vaults := rfl
@[simp] theorem modCluster_escrow (c : Nat) (f : Cluster → Cluster) : (modCluster s c f).escrow = s.escrow := rfl
@[simp] theorem modCluster_escIn (c : Nat) (f : Cluster → Cluster) : (modCluster s c f).escIn = s.escIn := rfl
@[simp] theorem modCluster_sl (c : Nat) (f : Cluster → Cluster) : (modCluster s c f).sl = s.sl := rfl
@[simp] theorem modCluster_wd (c : Nat) (f : Cluster → Cluster) : (modCluster s c f).wd = s.wd := rfl
@[simp] theorem modCluster_stks (c : Nat) (f : Cluster → Cluster) : (modCluster s c f).stks = s.stks := rfl
@[simp] theorem modCluster_pchs (c : Nat) (f : Cluster → Cluster) : (modCluster s c f).pchs = s.pchs := rfl
@[simp] theorem modCluster_sridle (c : Nat) (f : Cluster → Cluster) : (modCluster s c f).sridle = s.sridle := rfl
@[simp] theorem modCluster_pat (c : Nat) (f : Cluster → Cluster) : (modCluster s c f).pat = s.pat := rfl
@[simp] theorem modCluster_patsel (c : Nat) (f : Cluster → Cluster) : (modCluster s c f).patsel = s.patsel := rfl
@[simp] theorem modCluster_patst (c : Nat) (f : Cluster → Cluster) : (modCluster s c f).patst = s.patst := rfl
@[simp] theorem modCluster_adm (c : Nat) (f : Cluster → Cluster) : (modCluster s c f).adm = s.adm := rfl
@[simp] theorem modCluster_fw (c : Nat) (f : Cluster → Cluster) : (modCluster s c f).fw = s.fw := rfl
@[simp] theorem modCluster_ifs (c : Nat) (f : Cluster → Cluster) : (modCluster s c f).ifs = s.ifs := rfl
@[simp] theorem modCluster_cps (c : Nat) (f : Cluster → Cluster) : (modCluster s c f).cps = s.cps := rfl
@[simp] theorem modCluster_fab (c : Nat) (f : Cluster → Cluster) : (modCluster s c f).fab = s.fab := rfl
@[simp] theorem modCluster_life (c : Nat) (f : Cluster → Cluster) : (modCluster s c f).life = s.life := rfl
@[simp] theorem modCluster_hostMem (c : Nat) (f : Cluster → Cluster) : (modCluster s c f).hostMem = s.hostMem := rfl
@[simp] theorem modCluster_toHost (c : Nat) (f : Cluster → Cluster) : (modCluster s c f).toHost = s.toHost := rfl
@[simp] theorem modCluster_fabOut (c : Nat) (f : Cluster → Cluster) : (modCluster s c f).fabOut = s.fabOut := rfl
@[simp] theorem modCluster_frOut (c : Nat) (f : Cluster → Cluster) : (modCluster s c f).frOut = s.frOut := rfl
@[simp] theorem modCluster_powered (c : Nat) (f : Cluster → Cluster) : (modCluster s c f).powered = s.powered := rfl

/-! ## `post` -/

@[simp] theorem post_cores (e : Ev) : (post s e).cores = s.cores := rfl
@[simp] theorem post_clusters (e : Ev) : (post s e).clusters = s.clusters := rfl
@[simp] theorem post_waits (e : Ev) : (post s e).waits = s.waits := rfl
@[simp] theorem post_resvs (e : Ev) : (post s e).resvs = s.resvs := rfl
@[simp] theorem post_grove (e : Ev) : (post s e).grove = s.grove := rfl
@[simp] theorem post_searches (e : Ev) : (post s e).searches = s.searches := rfl
@[simp] theorem post_gNext (e : Ev) : (post s e).gNext = s.gNext := rfl
@[simp] theorem post_queues (e : Ev) : (post s e).queues = s.queues := rfl
@[simp] theorem post_waiting (e : Ev) : (post s e).waiting = s.waiting := rfl
@[simp] theorem post_seqNext (e : Ev) : (post s e).seqNext = s.seqNext := rfl
@[simp] theorem post_djobs (e : Ev) : (post s e).djobs = s.djobs := rfl
@[simp] theorem post_roleMsgs (e : Ev) : (post s e).roleMsgs = s.roleMsgs := rfl
@[simp] theorem post_launches (e : Ev) : (post s e).launches = s.launches := rfl
@[simp] theorem post_arbRR (e : Ev) : (post s e).arbRR = s.arbRR := rfl
@[simp] theorem post_moves (e : Ev) : (post s e).moves = s.moves := rfl
@[simp] theorem post_jobReqs (e : Ev) : (post s e).jobReqs = s.jobReqs := rfl
@[simp] theorem post_cur (e : Ev) : (post s e).cur = s.cur := rfl
@[simp] theorem post_ev (e : Ev) : (post s e).ev = s.ev := rfl
@[simp] theorem post_cycle (e : Ev) : (post s e).cycle = s.cycle := rfl
@[simp] theorem post_agenda (e : Ev) : (post s e).agenda = s.agenda := rfl
@[simp] theorem post_freeN (e : Ev) : (post s e).freeN = s.freeN := rfl
@[simp] theorem post_mem (e : Ev) : (post s e).mem = s.mem := rfl
@[simp] theorem post_feEmpty (e : Ev) : (post s e).feEmpty = s.feEmpty := rfl
@[simp] theorem post_stamps (e : Ev) : (post s e).stamps = s.stamps := rfl
@[simp] theorem post_poison (e : Ev) : (post s e).poison = s.poison := rfl
@[simp] theorem post_errs (e : Ev) : (post s e).errs = s.errs := rfl
@[simp] theorem post_vaults (e : Ev) : (post s e).vaults = s.vaults := rfl
@[simp] theorem post_escrow (e : Ev) : (post s e).escrow = s.escrow := rfl
@[simp] theorem post_escIn (e : Ev) : (post s e).escIn = s.escIn := rfl
@[simp] theorem post_sl (e : Ev) : (post s e).sl = s.sl := rfl
@[simp] theorem post_wd (e : Ev) : (post s e).wd = s.wd := rfl
@[simp] theorem post_stks (e : Ev) : (post s e).stks = s.stks := rfl
@[simp] theorem post_pchs (e : Ev) : (post s e).pchs = s.pchs := rfl
@[simp] theorem post_sridle (e : Ev) : (post s e).sridle = s.sridle := rfl
@[simp] theorem post_pat (e : Ev) : (post s e).pat = s.pat := rfl
@[simp] theorem post_patsel (e : Ev) : (post s e).patsel = s.patsel := rfl
@[simp] theorem post_patst (e : Ev) : (post s e).patst = s.patst := rfl
@[simp] theorem post_adm (e : Ev) : (post s e).adm = s.adm := rfl
@[simp] theorem post_fw (e : Ev) : (post s e).fw = s.fw := rfl
@[simp] theorem post_ifs (e : Ev) : (post s e).ifs = s.ifs := rfl
@[simp] theorem post_cps (e : Ev) : (post s e).cps = s.cps := rfl
@[simp] theorem post_fab (e : Ev) : (post s e).fab = s.fab := rfl
@[simp] theorem post_life (e : Ev) : (post s e).life = s.life := rfl
@[simp] theorem post_hostMem (e : Ev) : (post s e).hostMem = s.hostMem := rfl
@[simp] theorem post_toHost (e : Ev) : (post s e).toHost = s.toHost := rfl
@[simp] theorem post_fabOut (e : Ev) : (post s e).fabOut = s.fabOut := rfl
@[simp] theorem post_frOut (e : Ev) : (post s e).frOut = s.frOut := rfl
@[simp] theorem post_powered (e : Ev) : (post s e).powered = s.powered := rfl

/-! ## `toHost` -/

@[simp] theorem toHost_cores (m : HostMsg) : (Sys2Proof.Machine.toHost s m).cores = s.cores := rfl
@[simp] theorem toHost_clusters (m : HostMsg) : (Sys2Proof.Machine.toHost s m).clusters = s.clusters := rfl
@[simp] theorem toHost_waits (m : HostMsg) : (Sys2Proof.Machine.toHost s m).waits = s.waits := rfl
@[simp] theorem toHost_resvs (m : HostMsg) : (Sys2Proof.Machine.toHost s m).resvs = s.resvs := rfl
@[simp] theorem toHost_pending (m : HostMsg) : (Sys2Proof.Machine.toHost s m).pending = s.pending := rfl
@[simp] theorem toHost_grove (m : HostMsg) : (Sys2Proof.Machine.toHost s m).grove = s.grove := rfl
@[simp] theorem toHost_searches (m : HostMsg) : (Sys2Proof.Machine.toHost s m).searches = s.searches := rfl
@[simp] theorem toHost_gNext (m : HostMsg) : (Sys2Proof.Machine.toHost s m).gNext = s.gNext := rfl
@[simp] theorem toHost_queues (m : HostMsg) : (Sys2Proof.Machine.toHost s m).queues = s.queues := rfl
@[simp] theorem toHost_waiting (m : HostMsg) : (Sys2Proof.Machine.toHost s m).waiting = s.waiting := rfl
@[simp] theorem toHost_seqNext (m : HostMsg) : (Sys2Proof.Machine.toHost s m).seqNext = s.seqNext := rfl
@[simp] theorem toHost_djobs (m : HostMsg) : (Sys2Proof.Machine.toHost s m).djobs = s.djobs := rfl
@[simp] theorem toHost_roleMsgs (m : HostMsg) : (Sys2Proof.Machine.toHost s m).roleMsgs = s.roleMsgs := rfl
@[simp] theorem toHost_launches (m : HostMsg) : (Sys2Proof.Machine.toHost s m).launches = s.launches := rfl
@[simp] theorem toHost_arbRR (m : HostMsg) : (Sys2Proof.Machine.toHost s m).arbRR = s.arbRR := rfl
@[simp] theorem toHost_moves (m : HostMsg) : (Sys2Proof.Machine.toHost s m).moves = s.moves := rfl
@[simp] theorem toHost_jobReqs (m : HostMsg) : (Sys2Proof.Machine.toHost s m).jobReqs = s.jobReqs := rfl
@[simp] theorem toHost_cur (m : HostMsg) : (Sys2Proof.Machine.toHost s m).cur = s.cur := rfl
@[simp] theorem toHost_ev (m : HostMsg) : (Sys2Proof.Machine.toHost s m).ev = s.ev := rfl
@[simp] theorem toHost_cycle (m : HostMsg) : (Sys2Proof.Machine.toHost s m).cycle = s.cycle := rfl
@[simp] theorem toHost_agenda (m : HostMsg) : (Sys2Proof.Machine.toHost s m).agenda = s.agenda := rfl
@[simp] theorem toHost_freeN (m : HostMsg) : (Sys2Proof.Machine.toHost s m).freeN = s.freeN := rfl
@[simp] theorem toHost_mem (m : HostMsg) : (Sys2Proof.Machine.toHost s m).mem = s.mem := rfl
@[simp] theorem toHost_feEmpty (m : HostMsg) : (Sys2Proof.Machine.toHost s m).feEmpty = s.feEmpty := rfl
@[simp] theorem toHost_stamps (m : HostMsg) : (Sys2Proof.Machine.toHost s m).stamps = s.stamps := rfl
@[simp] theorem toHost_poison (m : HostMsg) : (Sys2Proof.Machine.toHost s m).poison = s.poison := rfl
@[simp] theorem toHost_errs (m : HostMsg) : (Sys2Proof.Machine.toHost s m).errs = s.errs := rfl
@[simp] theorem toHost_vaults (m : HostMsg) : (Sys2Proof.Machine.toHost s m).vaults = s.vaults := rfl
@[simp] theorem toHost_escrow (m : HostMsg) : (Sys2Proof.Machine.toHost s m).escrow = s.escrow := rfl
@[simp] theorem toHost_escIn (m : HostMsg) : (Sys2Proof.Machine.toHost s m).escIn = s.escIn := rfl
@[simp] theorem toHost_sl (m : HostMsg) : (Sys2Proof.Machine.toHost s m).sl = s.sl := rfl
@[simp] theorem toHost_wd (m : HostMsg) : (Sys2Proof.Machine.toHost s m).wd = s.wd := rfl
@[simp] theorem toHost_stks (m : HostMsg) : (Sys2Proof.Machine.toHost s m).stks = s.stks := rfl
@[simp] theorem toHost_pchs (m : HostMsg) : (Sys2Proof.Machine.toHost s m).pchs = s.pchs := rfl
@[simp] theorem toHost_sridle (m : HostMsg) : (Sys2Proof.Machine.toHost s m).sridle = s.sridle := rfl
@[simp] theorem toHost_pat (m : HostMsg) : (Sys2Proof.Machine.toHost s m).pat = s.pat := rfl
@[simp] theorem toHost_patsel (m : HostMsg) : (Sys2Proof.Machine.toHost s m).patsel = s.patsel := rfl
@[simp] theorem toHost_patst (m : HostMsg) : (Sys2Proof.Machine.toHost s m).patst = s.patst := rfl
@[simp] theorem toHost_adm (m : HostMsg) : (Sys2Proof.Machine.toHost s m).adm = s.adm := rfl
@[simp] theorem toHost_fw (m : HostMsg) : (Sys2Proof.Machine.toHost s m).fw = s.fw := rfl
@[simp] theorem toHost_ifs (m : HostMsg) : (Sys2Proof.Machine.toHost s m).ifs = s.ifs := rfl
@[simp] theorem toHost_cps (m : HostMsg) : (Sys2Proof.Machine.toHost s m).cps = s.cps := rfl
@[simp] theorem toHost_fab (m : HostMsg) : (Sys2Proof.Machine.toHost s m).fab = s.fab := rfl
@[simp] theorem toHost_life (m : HostMsg) : (Sys2Proof.Machine.toHost s m).life = s.life := rfl
@[simp] theorem toHost_hostMem (m : HostMsg) : (Sys2Proof.Machine.toHost s m).hostMem = s.hostMem := rfl
@[simp] theorem toHost_fabOut (m : HostMsg) : (Sys2Proof.Machine.toHost s m).fabOut = s.fabOut := rfl
@[simp] theorem toHost_frOut (m : HostMsg) : (Sys2Proof.Machine.toHost s m).frOut = s.frOut := rfl
@[simp] theorem toHost_powered (m : HostMsg) : (Sys2Proof.Machine.toHost s m).powered = s.powered := rfl

/-! ## `emit` -/

@[simp] theorem emit_cores (d : Nat) (k : TClass) (b : PktBody) : (emit s d k b).cores = s.cores := rfl
@[simp] theorem emit_clusters (d : Nat) (k : TClass) (b : PktBody) : (emit s d k b).clusters = s.clusters := rfl
@[simp] theorem emit_waits (d : Nat) (k : TClass) (b : PktBody) : (emit s d k b).waits = s.waits := rfl
@[simp] theorem emit_resvs (d : Nat) (k : TClass) (b : PktBody) : (emit s d k b).resvs = s.resvs := rfl
@[simp] theorem emit_pending (d : Nat) (k : TClass) (b : PktBody) : (emit s d k b).pending = s.pending := rfl
@[simp] theorem emit_grove (d : Nat) (k : TClass) (b : PktBody) : (emit s d k b).grove = s.grove := rfl
@[simp] theorem emit_searches (d : Nat) (k : TClass) (b : PktBody) : (emit s d k b).searches = s.searches := rfl
@[simp] theorem emit_gNext (d : Nat) (k : TClass) (b : PktBody) : (emit s d k b).gNext = s.gNext := rfl
@[simp] theorem emit_queues (d : Nat) (k : TClass) (b : PktBody) : (emit s d k b).queues = s.queues := rfl
@[simp] theorem emit_waiting (d : Nat) (k : TClass) (b : PktBody) : (emit s d k b).waiting = s.waiting := rfl
@[simp] theorem emit_seqNext (d : Nat) (k : TClass) (b : PktBody) : (emit s d k b).seqNext = s.seqNext := rfl
@[simp] theorem emit_djobs (d : Nat) (k : TClass) (b : PktBody) : (emit s d k b).djobs = s.djobs := rfl
@[simp] theorem emit_roleMsgs (d : Nat) (k : TClass) (b : PktBody) : (emit s d k b).roleMsgs = s.roleMsgs := rfl
@[simp] theorem emit_launches (d : Nat) (k : TClass) (b : PktBody) : (emit s d k b).launches = s.launches := rfl
@[simp] theorem emit_arbRR (d : Nat) (k : TClass) (b : PktBody) : (emit s d k b).arbRR = s.arbRR := rfl
@[simp] theorem emit_moves (d : Nat) (k : TClass) (b : PktBody) : (emit s d k b).moves = s.moves := rfl
@[simp] theorem emit_jobReqs (d : Nat) (k : TClass) (b : PktBody) : (emit s d k b).jobReqs = s.jobReqs := rfl
@[simp] theorem emit_cur (d : Nat) (k : TClass) (b : PktBody) : (emit s d k b).cur = s.cur := rfl
@[simp] theorem emit_ev (d : Nat) (k : TClass) (b : PktBody) : (emit s d k b).ev = s.ev := rfl
@[simp] theorem emit_cycle (d : Nat) (k : TClass) (b : PktBody) : (emit s d k b).cycle = s.cycle := rfl
@[simp] theorem emit_agenda (d : Nat) (k : TClass) (b : PktBody) : (emit s d k b).agenda = s.agenda := rfl
@[simp] theorem emit_freeN (d : Nat) (k : TClass) (b : PktBody) : (emit s d k b).freeN = s.freeN := rfl
@[simp] theorem emit_mem (d : Nat) (k : TClass) (b : PktBody) : (emit s d k b).mem = s.mem := rfl
@[simp] theorem emit_feEmpty (d : Nat) (k : TClass) (b : PktBody) : (emit s d k b).feEmpty = s.feEmpty := rfl
@[simp] theorem emit_stamps (d : Nat) (k : TClass) (b : PktBody) : (emit s d k b).stamps = s.stamps := rfl
@[simp] theorem emit_poison (d : Nat) (k : TClass) (b : PktBody) : (emit s d k b).poison = s.poison := rfl
@[simp] theorem emit_errs (d : Nat) (k : TClass) (b : PktBody) : (emit s d k b).errs = s.errs := rfl
@[simp] theorem emit_vaults (d : Nat) (k : TClass) (b : PktBody) : (emit s d k b).vaults = s.vaults := rfl
@[simp] theorem emit_escrow (d : Nat) (k : TClass) (b : PktBody) : (emit s d k b).escrow = s.escrow := rfl
@[simp] theorem emit_escIn (d : Nat) (k : TClass) (b : PktBody) : (emit s d k b).escIn = s.escIn := rfl
@[simp] theorem emit_sl (d : Nat) (k : TClass) (b : PktBody) : (emit s d k b).sl = s.sl := rfl
@[simp] theorem emit_wd (d : Nat) (k : TClass) (b : PktBody) : (emit s d k b).wd = s.wd := rfl
@[simp] theorem emit_stks (d : Nat) (k : TClass) (b : PktBody) : (emit s d k b).stks = s.stks := rfl
@[simp] theorem emit_pchs (d : Nat) (k : TClass) (b : PktBody) : (emit s d k b).pchs = s.pchs := rfl
@[simp] theorem emit_sridle (d : Nat) (k : TClass) (b : PktBody) : (emit s d k b).sridle = s.sridle := rfl
@[simp] theorem emit_pat (d : Nat) (k : TClass) (b : PktBody) : (emit s d k b).pat = s.pat := rfl
@[simp] theorem emit_patsel (d : Nat) (k : TClass) (b : PktBody) : (emit s d k b).patsel = s.patsel := rfl
@[simp] theorem emit_patst (d : Nat) (k : TClass) (b : PktBody) : (emit s d k b).patst = s.patst := rfl
@[simp] theorem emit_adm (d : Nat) (k : TClass) (b : PktBody) : (emit s d k b).adm = s.adm := rfl
@[simp] theorem emit_fw (d : Nat) (k : TClass) (b : PktBody) : (emit s d k b).fw = s.fw := rfl
@[simp] theorem emit_ifs (d : Nat) (k : TClass) (b : PktBody) : (emit s d k b).ifs = s.ifs := rfl
@[simp] theorem emit_cps (d : Nat) (k : TClass) (b : PktBody) : (emit s d k b).cps = s.cps := rfl
@[simp] theorem emit_life (d : Nat) (k : TClass) (b : PktBody) : (emit s d k b).life = s.life := rfl
@[simp] theorem emit_hostMem (d : Nat) (k : TClass) (b : PktBody) : (emit s d k b).hostMem = s.hostMem := rfl
@[simp] theorem emit_toHost (d : Nat) (k : TClass) (b : PktBody) : (emit s d k b).toHost = s.toHost := rfl
@[simp] theorem emit_frOut (d : Nat) (k : TClass) (b : PktBody) : (emit s d k b).frOut = s.frOut := rfl
@[simp] theorem emit_powered (d : Nat) (k : TClass) (b : PktBody) : (emit s d k b).powered = s.powered := rfl

/-! ## `modStack` -/

@[simp] theorem modStack_cores (n : Nat) (f : StackSt → StackSt) : (modStack s n f).cores = s.cores := rfl
@[simp] theorem modStack_clusters (n : Nat) (f : StackSt → StackSt) : (modStack s n f).clusters = s.clusters := rfl
@[simp] theorem modStack_waits (n : Nat) (f : StackSt → StackSt) : (modStack s n f).waits = s.waits := rfl
@[simp] theorem modStack_resvs (n : Nat) (f : StackSt → StackSt) : (modStack s n f).resvs = s.resvs := rfl
@[simp] theorem modStack_pending (n : Nat) (f : StackSt → StackSt) : (modStack s n f).pending = s.pending := rfl
@[simp] theorem modStack_grove (n : Nat) (f : StackSt → StackSt) : (modStack s n f).grove = s.grove := rfl
@[simp] theorem modStack_searches (n : Nat) (f : StackSt → StackSt) : (modStack s n f).searches = s.searches := rfl
@[simp] theorem modStack_gNext (n : Nat) (f : StackSt → StackSt) : (modStack s n f).gNext = s.gNext := rfl
@[simp] theorem modStack_queues (n : Nat) (f : StackSt → StackSt) : (modStack s n f).queues = s.queues := rfl
@[simp] theorem modStack_waiting (n : Nat) (f : StackSt → StackSt) : (modStack s n f).waiting = s.waiting := rfl
@[simp] theorem modStack_seqNext (n : Nat) (f : StackSt → StackSt) : (modStack s n f).seqNext = s.seqNext := rfl
@[simp] theorem modStack_djobs (n : Nat) (f : StackSt → StackSt) : (modStack s n f).djobs = s.djobs := rfl
@[simp] theorem modStack_roleMsgs (n : Nat) (f : StackSt → StackSt) : (modStack s n f).roleMsgs = s.roleMsgs := rfl
@[simp] theorem modStack_launches (n : Nat) (f : StackSt → StackSt) : (modStack s n f).launches = s.launches := rfl
@[simp] theorem modStack_arbRR (n : Nat) (f : StackSt → StackSt) : (modStack s n f).arbRR = s.arbRR := rfl
@[simp] theorem modStack_moves (n : Nat) (f : StackSt → StackSt) : (modStack s n f).moves = s.moves := rfl
@[simp] theorem modStack_jobReqs (n : Nat) (f : StackSt → StackSt) : (modStack s n f).jobReqs = s.jobReqs := rfl
@[simp] theorem modStack_cur (n : Nat) (f : StackSt → StackSt) : (modStack s n f).cur = s.cur := rfl
@[simp] theorem modStack_ev (n : Nat) (f : StackSt → StackSt) : (modStack s n f).ev = s.ev := rfl
@[simp] theorem modStack_cycle (n : Nat) (f : StackSt → StackSt) : (modStack s n f).cycle = s.cycle := rfl
@[simp] theorem modStack_agenda (n : Nat) (f : StackSt → StackSt) : (modStack s n f).agenda = s.agenda := rfl
@[simp] theorem modStack_freeN (n : Nat) (f : StackSt → StackSt) : (modStack s n f).freeN = s.freeN := rfl
@[simp] theorem modStack_mem (n : Nat) (f : StackSt → StackSt) : (modStack s n f).mem = s.mem := rfl
@[simp] theorem modStack_feEmpty (n : Nat) (f : StackSt → StackSt) : (modStack s n f).feEmpty = s.feEmpty := rfl
@[simp] theorem modStack_stamps (n : Nat) (f : StackSt → StackSt) : (modStack s n f).stamps = s.stamps := rfl
@[simp] theorem modStack_poison (n : Nat) (f : StackSt → StackSt) : (modStack s n f).poison = s.poison := rfl
@[simp] theorem modStack_errs (n : Nat) (f : StackSt → StackSt) : (modStack s n f).errs = s.errs := rfl
@[simp] theorem modStack_vaults (n : Nat) (f : StackSt → StackSt) : (modStack s n f).vaults = s.vaults := rfl
@[simp] theorem modStack_escrow (n : Nat) (f : StackSt → StackSt) : (modStack s n f).escrow = s.escrow := rfl
@[simp] theorem modStack_escIn (n : Nat) (f : StackSt → StackSt) : (modStack s n f).escIn = s.escIn := rfl
@[simp] theorem modStack_sl (n : Nat) (f : StackSt → StackSt) : (modStack s n f).sl = s.sl := rfl
@[simp] theorem modStack_wd (n : Nat) (f : StackSt → StackSt) : (modStack s n f).wd = s.wd := rfl
@[simp] theorem modStack_pchs (n : Nat) (f : StackSt → StackSt) : (modStack s n f).pchs = s.pchs := rfl
@[simp] theorem modStack_sridle (n : Nat) (f : StackSt → StackSt) : (modStack s n f).sridle = s.sridle := rfl
@[simp] theorem modStack_pat (n : Nat) (f : StackSt → StackSt) : (modStack s n f).pat = s.pat := rfl
@[simp] theorem modStack_patsel (n : Nat) (f : StackSt → StackSt) : (modStack s n f).patsel = s.patsel := rfl
@[simp] theorem modStack_patst (n : Nat) (f : StackSt → StackSt) : (modStack s n f).patst = s.patst := rfl
@[simp] theorem modStack_adm (n : Nat) (f : StackSt → StackSt) : (modStack s n f).adm = s.adm := rfl
@[simp] theorem modStack_fw (n : Nat) (f : StackSt → StackSt) : (modStack s n f).fw = s.fw := rfl
@[simp] theorem modStack_ifs (n : Nat) (f : StackSt → StackSt) : (modStack s n f).ifs = s.ifs := rfl
@[simp] theorem modStack_cps (n : Nat) (f : StackSt → StackSt) : (modStack s n f).cps = s.cps := rfl
@[simp] theorem modStack_fab (n : Nat) (f : StackSt → StackSt) : (modStack s n f).fab = s.fab := rfl
@[simp] theorem modStack_life (n : Nat) (f : StackSt → StackSt) : (modStack s n f).life = s.life := rfl
@[simp] theorem modStack_hostMem (n : Nat) (f : StackSt → StackSt) : (modStack s n f).hostMem = s.hostMem := rfl
@[simp] theorem modStack_toHost (n : Nat) (f : StackSt → StackSt) : (modStack s n f).toHost = s.toHost := rfl
@[simp] theorem modStack_fabOut (n : Nat) (f : StackSt → StackSt) : (modStack s n f).fabOut = s.fabOut := rfl
@[simp] theorem modStack_frOut (n : Nat) (f : StackSt → StackSt) : (modStack s n f).frOut = s.frOut := rfl
@[simp] theorem modStack_powered (n : Nat) (f : StackSt → StackSt) : (modStack s n f).powered = s.powered := rfl

/-! ## `modPch` -/

@[simp] theorem modPch_cores (n : Nat) (f : PchSt → PchSt) : (modPch s n f).cores = s.cores := rfl
@[simp] theorem modPch_clusters (n : Nat) (f : PchSt → PchSt) : (modPch s n f).clusters = s.clusters := rfl
@[simp] theorem modPch_waits (n : Nat) (f : PchSt → PchSt) : (modPch s n f).waits = s.waits := rfl
@[simp] theorem modPch_resvs (n : Nat) (f : PchSt → PchSt) : (modPch s n f).resvs = s.resvs := rfl
@[simp] theorem modPch_pending (n : Nat) (f : PchSt → PchSt) : (modPch s n f).pending = s.pending := rfl
@[simp] theorem modPch_grove (n : Nat) (f : PchSt → PchSt) : (modPch s n f).grove = s.grove := rfl
@[simp] theorem modPch_searches (n : Nat) (f : PchSt → PchSt) : (modPch s n f).searches = s.searches := rfl
@[simp] theorem modPch_gNext (n : Nat) (f : PchSt → PchSt) : (modPch s n f).gNext = s.gNext := rfl
@[simp] theorem modPch_queues (n : Nat) (f : PchSt → PchSt) : (modPch s n f).queues = s.queues := rfl
@[simp] theorem modPch_waiting (n : Nat) (f : PchSt → PchSt) : (modPch s n f).waiting = s.waiting := rfl
@[simp] theorem modPch_seqNext (n : Nat) (f : PchSt → PchSt) : (modPch s n f).seqNext = s.seqNext := rfl
@[simp] theorem modPch_djobs (n : Nat) (f : PchSt → PchSt) : (modPch s n f).djobs = s.djobs := rfl
@[simp] theorem modPch_roleMsgs (n : Nat) (f : PchSt → PchSt) : (modPch s n f).roleMsgs = s.roleMsgs := rfl
@[simp] theorem modPch_launches (n : Nat) (f : PchSt → PchSt) : (modPch s n f).launches = s.launches := rfl
@[simp] theorem modPch_arbRR (n : Nat) (f : PchSt → PchSt) : (modPch s n f).arbRR = s.arbRR := rfl
@[simp] theorem modPch_moves (n : Nat) (f : PchSt → PchSt) : (modPch s n f).moves = s.moves := rfl
@[simp] theorem modPch_jobReqs (n : Nat) (f : PchSt → PchSt) : (modPch s n f).jobReqs = s.jobReqs := rfl
@[simp] theorem modPch_cur (n : Nat) (f : PchSt → PchSt) : (modPch s n f).cur = s.cur := rfl
@[simp] theorem modPch_ev (n : Nat) (f : PchSt → PchSt) : (modPch s n f).ev = s.ev := rfl
@[simp] theorem modPch_cycle (n : Nat) (f : PchSt → PchSt) : (modPch s n f).cycle = s.cycle := rfl
@[simp] theorem modPch_agenda (n : Nat) (f : PchSt → PchSt) : (modPch s n f).agenda = s.agenda := rfl
@[simp] theorem modPch_freeN (n : Nat) (f : PchSt → PchSt) : (modPch s n f).freeN = s.freeN := rfl
@[simp] theorem modPch_mem (n : Nat) (f : PchSt → PchSt) : (modPch s n f).mem = s.mem := rfl
@[simp] theorem modPch_feEmpty (n : Nat) (f : PchSt → PchSt) : (modPch s n f).feEmpty = s.feEmpty := rfl
@[simp] theorem modPch_stamps (n : Nat) (f : PchSt → PchSt) : (modPch s n f).stamps = s.stamps := rfl
@[simp] theorem modPch_poison (n : Nat) (f : PchSt → PchSt) : (modPch s n f).poison = s.poison := rfl
@[simp] theorem modPch_errs (n : Nat) (f : PchSt → PchSt) : (modPch s n f).errs = s.errs := rfl
@[simp] theorem modPch_vaults (n : Nat) (f : PchSt → PchSt) : (modPch s n f).vaults = s.vaults := rfl
@[simp] theorem modPch_escrow (n : Nat) (f : PchSt → PchSt) : (modPch s n f).escrow = s.escrow := rfl
@[simp] theorem modPch_escIn (n : Nat) (f : PchSt → PchSt) : (modPch s n f).escIn = s.escIn := rfl
@[simp] theorem modPch_sl (n : Nat) (f : PchSt → PchSt) : (modPch s n f).sl = s.sl := rfl
@[simp] theorem modPch_wd (n : Nat) (f : PchSt → PchSt) : (modPch s n f).wd = s.wd := rfl
@[simp] theorem modPch_stks (n : Nat) (f : PchSt → PchSt) : (modPch s n f).stks = s.stks := rfl
@[simp] theorem modPch_sridle (n : Nat) (f : PchSt → PchSt) : (modPch s n f).sridle = s.sridle := rfl
@[simp] theorem modPch_pat (n : Nat) (f : PchSt → PchSt) : (modPch s n f).pat = s.pat := rfl
@[simp] theorem modPch_patsel (n : Nat) (f : PchSt → PchSt) : (modPch s n f).patsel = s.patsel := rfl
@[simp] theorem modPch_patst (n : Nat) (f : PchSt → PchSt) : (modPch s n f).patst = s.patst := rfl
@[simp] theorem modPch_adm (n : Nat) (f : PchSt → PchSt) : (modPch s n f).adm = s.adm := rfl
@[simp] theorem modPch_fw (n : Nat) (f : PchSt → PchSt) : (modPch s n f).fw = s.fw := rfl
@[simp] theorem modPch_ifs (n : Nat) (f : PchSt → PchSt) : (modPch s n f).ifs = s.ifs := rfl
@[simp] theorem modPch_cps (n : Nat) (f : PchSt → PchSt) : (modPch s n f).cps = s.cps := rfl
@[simp] theorem modPch_fab (n : Nat) (f : PchSt → PchSt) : (modPch s n f).fab = s.fab := rfl
@[simp] theorem modPch_life (n : Nat) (f : PchSt → PchSt) : (modPch s n f).life = s.life := rfl
@[simp] theorem modPch_hostMem (n : Nat) (f : PchSt → PchSt) : (modPch s n f).hostMem = s.hostMem := rfl
@[simp] theorem modPch_toHost (n : Nat) (f : PchSt → PchSt) : (modPch s n f).toHost = s.toHost := rfl
@[simp] theorem modPch_fabOut (n : Nat) (f : PchSt → PchSt) : (modPch s n f).fabOut = s.fabOut := rfl
@[simp] theorem modPch_frOut (n : Nat) (f : PchSt → PchSt) : (modPch s n f).frOut = s.frOut := rfl
@[simp] theorem modPch_powered (n : Nat) (f : PchSt → PchSt) : (modPch s n f).powered = s.powered := rfl

/-! ## `modIf` -/

@[simp] theorem modIf_cores (n : Nat) (f : IfSt → IfSt) : (modIf s n f).cores = s.cores := rfl
@[simp] theorem modIf_clusters (n : Nat) (f : IfSt → IfSt) : (modIf s n f).clusters = s.clusters := rfl
@[simp] theorem modIf_waits (n : Nat) (f : IfSt → IfSt) : (modIf s n f).waits = s.waits := rfl
@[simp] theorem modIf_resvs (n : Nat) (f : IfSt → IfSt) : (modIf s n f).resvs = s.resvs := rfl
@[simp] theorem modIf_pending (n : Nat) (f : IfSt → IfSt) : (modIf s n f).pending = s.pending := rfl
@[simp] theorem modIf_grove (n : Nat) (f : IfSt → IfSt) : (modIf s n f).grove = s.grove := rfl
@[simp] theorem modIf_searches (n : Nat) (f : IfSt → IfSt) : (modIf s n f).searches = s.searches := rfl
@[simp] theorem modIf_gNext (n : Nat) (f : IfSt → IfSt) : (modIf s n f).gNext = s.gNext := rfl
@[simp] theorem modIf_queues (n : Nat) (f : IfSt → IfSt) : (modIf s n f).queues = s.queues := rfl
@[simp] theorem modIf_waiting (n : Nat) (f : IfSt → IfSt) : (modIf s n f).waiting = s.waiting := rfl
@[simp] theorem modIf_seqNext (n : Nat) (f : IfSt → IfSt) : (modIf s n f).seqNext = s.seqNext := rfl
@[simp] theorem modIf_djobs (n : Nat) (f : IfSt → IfSt) : (modIf s n f).djobs = s.djobs := rfl
@[simp] theorem modIf_roleMsgs (n : Nat) (f : IfSt → IfSt) : (modIf s n f).roleMsgs = s.roleMsgs := rfl
@[simp] theorem modIf_launches (n : Nat) (f : IfSt → IfSt) : (modIf s n f).launches = s.launches := rfl
@[simp] theorem modIf_arbRR (n : Nat) (f : IfSt → IfSt) : (modIf s n f).arbRR = s.arbRR := rfl
@[simp] theorem modIf_moves (n : Nat) (f : IfSt → IfSt) : (modIf s n f).moves = s.moves := rfl
@[simp] theorem modIf_jobReqs (n : Nat) (f : IfSt → IfSt) : (modIf s n f).jobReqs = s.jobReqs := rfl
@[simp] theorem modIf_cur (n : Nat) (f : IfSt → IfSt) : (modIf s n f).cur = s.cur := rfl
@[simp] theorem modIf_ev (n : Nat) (f : IfSt → IfSt) : (modIf s n f).ev = s.ev := rfl
@[simp] theorem modIf_cycle (n : Nat) (f : IfSt → IfSt) : (modIf s n f).cycle = s.cycle := rfl
@[simp] theorem modIf_agenda (n : Nat) (f : IfSt → IfSt) : (modIf s n f).agenda = s.agenda := rfl
@[simp] theorem modIf_freeN (n : Nat) (f : IfSt → IfSt) : (modIf s n f).freeN = s.freeN := rfl
@[simp] theorem modIf_mem (n : Nat) (f : IfSt → IfSt) : (modIf s n f).mem = s.mem := rfl
@[simp] theorem modIf_feEmpty (n : Nat) (f : IfSt → IfSt) : (modIf s n f).feEmpty = s.feEmpty := rfl
@[simp] theorem modIf_stamps (n : Nat) (f : IfSt → IfSt) : (modIf s n f).stamps = s.stamps := rfl
@[simp] theorem modIf_poison (n : Nat) (f : IfSt → IfSt) : (modIf s n f).poison = s.poison := rfl
@[simp] theorem modIf_errs (n : Nat) (f : IfSt → IfSt) : (modIf s n f).errs = s.errs := rfl
@[simp] theorem modIf_vaults (n : Nat) (f : IfSt → IfSt) : (modIf s n f).vaults = s.vaults := rfl
@[simp] theorem modIf_escrow (n : Nat) (f : IfSt → IfSt) : (modIf s n f).escrow = s.escrow := rfl
@[simp] theorem modIf_escIn (n : Nat) (f : IfSt → IfSt) : (modIf s n f).escIn = s.escIn := rfl
@[simp] theorem modIf_sl (n : Nat) (f : IfSt → IfSt) : (modIf s n f).sl = s.sl := rfl
@[simp] theorem modIf_wd (n : Nat) (f : IfSt → IfSt) : (modIf s n f).wd = s.wd := rfl
@[simp] theorem modIf_stks (n : Nat) (f : IfSt → IfSt) : (modIf s n f).stks = s.stks := rfl
@[simp] theorem modIf_pchs (n : Nat) (f : IfSt → IfSt) : (modIf s n f).pchs = s.pchs := rfl
@[simp] theorem modIf_sridle (n : Nat) (f : IfSt → IfSt) : (modIf s n f).sridle = s.sridle := rfl
@[simp] theorem modIf_pat (n : Nat) (f : IfSt → IfSt) : (modIf s n f).pat = s.pat := rfl
@[simp] theorem modIf_patsel (n : Nat) (f : IfSt → IfSt) : (modIf s n f).patsel = s.patsel := rfl
@[simp] theorem modIf_patst (n : Nat) (f : IfSt → IfSt) : (modIf s n f).patst = s.patst := rfl
@[simp] theorem modIf_adm (n : Nat) (f : IfSt → IfSt) : (modIf s n f).adm = s.adm := rfl
@[simp] theorem modIf_fw (n : Nat) (f : IfSt → IfSt) : (modIf s n f).fw = s.fw := rfl
@[simp] theorem modIf_cps (n : Nat) (f : IfSt → IfSt) : (modIf s n f).cps = s.cps := rfl
@[simp] theorem modIf_fab (n : Nat) (f : IfSt → IfSt) : (modIf s n f).fab = s.fab := rfl
@[simp] theorem modIf_life (n : Nat) (f : IfSt → IfSt) : (modIf s n f).life = s.life := rfl
@[simp] theorem modIf_hostMem (n : Nat) (f : IfSt → IfSt) : (modIf s n f).hostMem = s.hostMem := rfl
@[simp] theorem modIf_toHost (n : Nat) (f : IfSt → IfSt) : (modIf s n f).toHost = s.toHost := rfl
@[simp] theorem modIf_fabOut (n : Nat) (f : IfSt → IfSt) : (modIf s n f).fabOut = s.fabOut := rfl
@[simp] theorem modIf_frOut (n : Nat) (f : IfSt → IfSt) : (modIf s n f).frOut = s.frOut := rfl
@[simp] theorem modIf_powered (n : Nat) (f : IfSt → IfSt) : (modIf s n f).powered = s.powered := rfl

/-! ## `modCp` -/

@[simp] theorem modCp_cores (n : Nat) (f : CpSt → CpSt) : (modCp s n f).cores = s.cores := rfl
@[simp] theorem modCp_clusters (n : Nat) (f : CpSt → CpSt) : (modCp s n f).clusters = s.clusters := rfl
@[simp] theorem modCp_waits (n : Nat) (f : CpSt → CpSt) : (modCp s n f).waits = s.waits := rfl
@[simp] theorem modCp_resvs (n : Nat) (f : CpSt → CpSt) : (modCp s n f).resvs = s.resvs := rfl
@[simp] theorem modCp_pending (n : Nat) (f : CpSt → CpSt) : (modCp s n f).pending = s.pending := rfl
@[simp] theorem modCp_grove (n : Nat) (f : CpSt → CpSt) : (modCp s n f).grove = s.grove := rfl
@[simp] theorem modCp_searches (n : Nat) (f : CpSt → CpSt) : (modCp s n f).searches = s.searches := rfl
@[simp] theorem modCp_gNext (n : Nat) (f : CpSt → CpSt) : (modCp s n f).gNext = s.gNext := rfl
@[simp] theorem modCp_queues (n : Nat) (f : CpSt → CpSt) : (modCp s n f).queues = s.queues := rfl
@[simp] theorem modCp_waiting (n : Nat) (f : CpSt → CpSt) : (modCp s n f).waiting = s.waiting := rfl
@[simp] theorem modCp_seqNext (n : Nat) (f : CpSt → CpSt) : (modCp s n f).seqNext = s.seqNext := rfl
@[simp] theorem modCp_djobs (n : Nat) (f : CpSt → CpSt) : (modCp s n f).djobs = s.djobs := rfl
@[simp] theorem modCp_roleMsgs (n : Nat) (f : CpSt → CpSt) : (modCp s n f).roleMsgs = s.roleMsgs := rfl
@[simp] theorem modCp_launches (n : Nat) (f : CpSt → CpSt) : (modCp s n f).launches = s.launches := rfl
@[simp] theorem modCp_arbRR (n : Nat) (f : CpSt → CpSt) : (modCp s n f).arbRR = s.arbRR := rfl
@[simp] theorem modCp_moves (n : Nat) (f : CpSt → CpSt) : (modCp s n f).moves = s.moves := rfl
@[simp] theorem modCp_jobReqs (n : Nat) (f : CpSt → CpSt) : (modCp s n f).jobReqs = s.jobReqs := rfl
@[simp] theorem modCp_cur (n : Nat) (f : CpSt → CpSt) : (modCp s n f).cur = s.cur := rfl
@[simp] theorem modCp_ev (n : Nat) (f : CpSt → CpSt) : (modCp s n f).ev = s.ev := rfl
@[simp] theorem modCp_cycle (n : Nat) (f : CpSt → CpSt) : (modCp s n f).cycle = s.cycle := rfl
@[simp] theorem modCp_agenda (n : Nat) (f : CpSt → CpSt) : (modCp s n f).agenda = s.agenda := rfl
@[simp] theorem modCp_freeN (n : Nat) (f : CpSt → CpSt) : (modCp s n f).freeN = s.freeN := rfl
@[simp] theorem modCp_mem (n : Nat) (f : CpSt → CpSt) : (modCp s n f).mem = s.mem := rfl
@[simp] theorem modCp_feEmpty (n : Nat) (f : CpSt → CpSt) : (modCp s n f).feEmpty = s.feEmpty := rfl
@[simp] theorem modCp_stamps (n : Nat) (f : CpSt → CpSt) : (modCp s n f).stamps = s.stamps := rfl
@[simp] theorem modCp_poison (n : Nat) (f : CpSt → CpSt) : (modCp s n f).poison = s.poison := rfl
@[simp] theorem modCp_errs (n : Nat) (f : CpSt → CpSt) : (modCp s n f).errs = s.errs := rfl
@[simp] theorem modCp_vaults (n : Nat) (f : CpSt → CpSt) : (modCp s n f).vaults = s.vaults := rfl
@[simp] theorem modCp_escrow (n : Nat) (f : CpSt → CpSt) : (modCp s n f).escrow = s.escrow := rfl
@[simp] theorem modCp_escIn (n : Nat) (f : CpSt → CpSt) : (modCp s n f).escIn = s.escIn := rfl
@[simp] theorem modCp_sl (n : Nat) (f : CpSt → CpSt) : (modCp s n f).sl = s.sl := rfl
@[simp] theorem modCp_wd (n : Nat) (f : CpSt → CpSt) : (modCp s n f).wd = s.wd := rfl
@[simp] theorem modCp_stks (n : Nat) (f : CpSt → CpSt) : (modCp s n f).stks = s.stks := rfl
@[simp] theorem modCp_pchs (n : Nat) (f : CpSt → CpSt) : (modCp s n f).pchs = s.pchs := rfl
@[simp] theorem modCp_sridle (n : Nat) (f : CpSt → CpSt) : (modCp s n f).sridle = s.sridle := rfl
@[simp] theorem modCp_pat (n : Nat) (f : CpSt → CpSt) : (modCp s n f).pat = s.pat := rfl
@[simp] theorem modCp_patsel (n : Nat) (f : CpSt → CpSt) : (modCp s n f).patsel = s.patsel := rfl
@[simp] theorem modCp_patst (n : Nat) (f : CpSt → CpSt) : (modCp s n f).patst = s.patst := rfl
@[simp] theorem modCp_adm (n : Nat) (f : CpSt → CpSt) : (modCp s n f).adm = s.adm := rfl
@[simp] theorem modCp_fw (n : Nat) (f : CpSt → CpSt) : (modCp s n f).fw = s.fw := rfl
@[simp] theorem modCp_ifs (n : Nat) (f : CpSt → CpSt) : (modCp s n f).ifs = s.ifs := rfl
@[simp] theorem modCp_fab (n : Nat) (f : CpSt → CpSt) : (modCp s n f).fab = s.fab := rfl
@[simp] theorem modCp_life (n : Nat) (f : CpSt → CpSt) : (modCp s n f).life = s.life := rfl
@[simp] theorem modCp_hostMem (n : Nat) (f : CpSt → CpSt) : (modCp s n f).hostMem = s.hostMem := rfl
@[simp] theorem modCp_toHost (n : Nat) (f : CpSt → CpSt) : (modCp s n f).toHost = s.toHost := rfl
@[simp] theorem modCp_fabOut (n : Nat) (f : CpSt → CpSt) : (modCp s n f).fabOut = s.fabOut := rfl
@[simp] theorem modCp_frOut (n : Nat) (f : CpSt → CpSt) : (modCp s n f).frOut = s.frOut := rfl
@[simp] theorem modCp_powered (n : Nat) (f : CpSt → CpSt) : (modCp s n f).powered = s.powered := rfl

/-! ## `modPort` -/

@[simp] theorem modPort_cores (n : Nat) (f : PortSt → PortSt) : (modPort s n f).cores = s.cores := rfl
@[simp] theorem modPort_clusters (n : Nat) (f : PortSt → PortSt) : (modPort s n f).clusters = s.clusters := rfl
@[simp] theorem modPort_waits (n : Nat) (f : PortSt → PortSt) : (modPort s n f).waits = s.waits := rfl
@[simp] theorem modPort_resvs (n : Nat) (f : PortSt → PortSt) : (modPort s n f).resvs = s.resvs := rfl
@[simp] theorem modPort_pending (n : Nat) (f : PortSt → PortSt) : (modPort s n f).pending = s.pending := rfl
@[simp] theorem modPort_grove (n : Nat) (f : PortSt → PortSt) : (modPort s n f).grove = s.grove := rfl
@[simp] theorem modPort_searches (n : Nat) (f : PortSt → PortSt) : (modPort s n f).searches = s.searches := rfl
@[simp] theorem modPort_gNext (n : Nat) (f : PortSt → PortSt) : (modPort s n f).gNext = s.gNext := rfl
@[simp] theorem modPort_queues (n : Nat) (f : PortSt → PortSt) : (modPort s n f).queues = s.queues := rfl
@[simp] theorem modPort_waiting (n : Nat) (f : PortSt → PortSt) : (modPort s n f).waiting = s.waiting := rfl
@[simp] theorem modPort_seqNext (n : Nat) (f : PortSt → PortSt) : (modPort s n f).seqNext = s.seqNext := rfl
@[simp] theorem modPort_djobs (n : Nat) (f : PortSt → PortSt) : (modPort s n f).djobs = s.djobs := rfl
@[simp] theorem modPort_roleMsgs (n : Nat) (f : PortSt → PortSt) : (modPort s n f).roleMsgs = s.roleMsgs := rfl
@[simp] theorem modPort_launches (n : Nat) (f : PortSt → PortSt) : (modPort s n f).launches = s.launches := rfl
@[simp] theorem modPort_arbRR (n : Nat) (f : PortSt → PortSt) : (modPort s n f).arbRR = s.arbRR := rfl
@[simp] theorem modPort_moves (n : Nat) (f : PortSt → PortSt) : (modPort s n f).moves = s.moves := rfl
@[simp] theorem modPort_jobReqs (n : Nat) (f : PortSt → PortSt) : (modPort s n f).jobReqs = s.jobReqs := rfl
@[simp] theorem modPort_cur (n : Nat) (f : PortSt → PortSt) : (modPort s n f).cur = s.cur := rfl
@[simp] theorem modPort_ev (n : Nat) (f : PortSt → PortSt) : (modPort s n f).ev = s.ev := rfl
@[simp] theorem modPort_cycle (n : Nat) (f : PortSt → PortSt) : (modPort s n f).cycle = s.cycle := rfl
@[simp] theorem modPort_agenda (n : Nat) (f : PortSt → PortSt) : (modPort s n f).agenda = s.agenda := rfl
@[simp] theorem modPort_freeN (n : Nat) (f : PortSt → PortSt) : (modPort s n f).freeN = s.freeN := rfl
@[simp] theorem modPort_mem (n : Nat) (f : PortSt → PortSt) : (modPort s n f).mem = s.mem := rfl
@[simp] theorem modPort_feEmpty (n : Nat) (f : PortSt → PortSt) : (modPort s n f).feEmpty = s.feEmpty := rfl
@[simp] theorem modPort_stamps (n : Nat) (f : PortSt → PortSt) : (modPort s n f).stamps = s.stamps := rfl
@[simp] theorem modPort_poison (n : Nat) (f : PortSt → PortSt) : (modPort s n f).poison = s.poison := rfl
@[simp] theorem modPort_errs (n : Nat) (f : PortSt → PortSt) : (modPort s n f).errs = s.errs := rfl
@[simp] theorem modPort_vaults (n : Nat) (f : PortSt → PortSt) : (modPort s n f).vaults = s.vaults := rfl
@[simp] theorem modPort_escrow (n : Nat) (f : PortSt → PortSt) : (modPort s n f).escrow = s.escrow := rfl
@[simp] theorem modPort_escIn (n : Nat) (f : PortSt → PortSt) : (modPort s n f).escIn = s.escIn := rfl
@[simp] theorem modPort_sl (n : Nat) (f : PortSt → PortSt) : (modPort s n f).sl = s.sl := rfl
@[simp] theorem modPort_wd (n : Nat) (f : PortSt → PortSt) : (modPort s n f).wd = s.wd := rfl
@[simp] theorem modPort_stks (n : Nat) (f : PortSt → PortSt) : (modPort s n f).stks = s.stks := rfl
@[simp] theorem modPort_pchs (n : Nat) (f : PortSt → PortSt) : (modPort s n f).pchs = s.pchs := rfl
@[simp] theorem modPort_sridle (n : Nat) (f : PortSt → PortSt) : (modPort s n f).sridle = s.sridle := rfl
@[simp] theorem modPort_pat (n : Nat) (f : PortSt → PortSt) : (modPort s n f).pat = s.pat := rfl
@[simp] theorem modPort_patsel (n : Nat) (f : PortSt → PortSt) : (modPort s n f).patsel = s.patsel := rfl
@[simp] theorem modPort_patst (n : Nat) (f : PortSt → PortSt) : (modPort s n f).patst = s.patst := rfl
@[simp] theorem modPort_adm (n : Nat) (f : PortSt → PortSt) : (modPort s n f).adm = s.adm := rfl
@[simp] theorem modPort_fw (n : Nat) (f : PortSt → PortSt) : (modPort s n f).fw = s.fw := rfl
@[simp] theorem modPort_ifs (n : Nat) (f : PortSt → PortSt) : (modPort s n f).ifs = s.ifs := rfl
@[simp] theorem modPort_cps (n : Nat) (f : PortSt → PortSt) : (modPort s n f).cps = s.cps := rfl
@[simp] theorem modPort_life (n : Nat) (f : PortSt → PortSt) : (modPort s n f).life = s.life := rfl
@[simp] theorem modPort_hostMem (n : Nat) (f : PortSt → PortSt) : (modPort s n f).hostMem = s.hostMem := rfl
@[simp] theorem modPort_toHost (n : Nat) (f : PortSt → PortSt) : (modPort s n f).toHost = s.toHost := rfl
@[simp] theorem modPort_fabOut (n : Nat) (f : PortSt → PortSt) : (modPort s n f).fabOut = s.fabOut := rfl
@[simp] theorem modPort_frOut (n : Nat) (f : PortSt → PortSt) : (modPort s n f).frOut = s.frOut := rfl
@[simp] theorem modPort_powered (n : Nat) (f : PortSt → PortSt) : (modPort s n f).powered = s.powered := rfl

/-! ## What the updates write -/

theorem setCore_cores (c : Nat) (x : Core) : (setCore s c x).cores = fset s.cores c x := rfl
theorem modCore_eq (c : Nat) (f : Core → Core) : modCore s c f = setCore s c (f (core s c)) := rfl
theorem modThr_eq (a : TRef) (f : Thread → Thread) :
    modThr s a f = modCore s a.core (fun x => setSlot x a.slot (f (thr s a))) := rfl
@[simp] theorem post_pending (e : Ev) : (post s e).pending = s.pending ++ [e] := rfl
@[simp] theorem emit_modnum (d : Nat) (k : TClass) (b : PktBody) : (emit s d k b).fab.modnum = s.fab.modnum := rfl
@[simp] theorem emit_table (d : Nat) (k : TClass) (b : PktBody) : (emit s d k b).fab.cur = s.fab.cur := rfl
@[simp] theorem emit_caps (d : Nat) (k : TClass) (b : PktBody) : (emit s d k b).fab.caps = s.fab.caps := rfl
@[simp] theorem toHost_toHost (m : HostMsg) : (Sys2Proof.Machine.toHost s m).toHost = s.toHost ++ [m] := rfl
@[simp] theorem modCluster_clusters (c : Nat) (f : Cluster → Cluster) :
    (modCluster s c f).clusters = fset s.clusters c (f (cluster s c)) := rfl

end Sys2Proof.Machine
end

