-- ==== Sys2Proof/Laws/Ops.lean ====
section
/-!
SUPPORT. What the shared operations do: cores, slots and registers after an update; the registers after a write; the issue
of an instruction whose queues are ready, whose queues are not, and which meets a control value; trap entry.
-/
namespace Sys2Proof.Machine
open Sys2Proof

/-! ## Cores and slots -/

theorem core_setCore (s : State) (c k : Nat) (x : Core) :
    core (setCore s c x) k = if k = c then x else core s k := by
  simp only [core, setCore, fget_fset]
  split <;> rfl
@[simp] theorem core_setCore_self (s : State) (c : Nat) (x : Core) : core (setCore s c x) c = x := by
  simp [core_setCore]
theorem core_modCore (s : State) (c k : Nat) (f : Core → Core) :
    core (modCore s c f) k = if k = c then f (core s c) else core s k := core_setCore ..
@[simp] theorem core_modCore_self (s : State) (c : Nat) (f : Core → Core) : core (modCore s c f) c = f (core s c) := by
  simp [core_modCore]
@[simp] theorem core_post (s : State) (e : Ev) (c : Nat) : core (post s e) c = core s c := rfl
@[simp] theorem thr_post (s : State) (e : Ev) (a : TRef) : thr (post s e) a = thr s a := rfl
@[simp] theorem me_post (s : State) (e : Ev) : me (post s e) = me s := rfl
@[simp] theorem myCore_post (s : State) (e : Ev) : myCore (post s e) = myCore s := rfl

theorem slotOf_setSlot (x : Core) (n k : Nat) (t : Thread) :
    slotOf (setSlot x n t) k = if k = n then t else slotOf x k := by
  simp only [slotOf, setSlot, fget_fset]
  split <;> rfl
@[simp] theorem slotOf_setSlot_self (x : Core) (n : Nat) (t : Thread) : slotOf (setSlot x n t) n = t := by
  simp [slotOf_setSlot]

theorem thr_modCore (s : State) (c : Nat) (f : Core → Core) (a : TRef) :
    thr (modCore s c f) a = if a.core = c then slotOf (f (core s c)) a.slot else thr s a := by
  simp only [thr, core_modCore]
  split <;> rfl
theorem thr_setThr (s : State) (a b : TRef) (t : Thread) :
    thr (setThr s a t) b = if b = a then t else thr s b := by
  obtain ⟨ac, as⟩ := a
  obtain ⟨bc, bs⟩ := b
  simp only [setThr, thr_modCore, slotOf_setSlot, TRef.mk.injEq]
  by_cases h1 : bc = ac
  · subst h1
    by_cases h2 : bs = as
    · simp [h2]
    · simp [h2, thr]
  · simp [h1]
theorem thr_modThr (s : State) (a b : TRef) (f : Thread → Thread) :
    thr (modThr s a f) b = if b = a then f (thr s a) else thr s b := thr_setThr ..
@[simp] theorem thr_modThr_self (s : State) (a : TRef) (f : Thread → Thread) : thr (modThr s a f) a = f (thr s a) := by
  simp [thr_modThr]
@[simp] theorem me_modMe (s : State) (f : Thread → Thread) : me (modMe s f) = f (me s) := by
  simp [me, modMe]
@[simp] theorem myCore_modMyCore (s : State) (f : Core → Core) : myCore (modMyCore s f) = f (myCore s) := by
  simp [myCore, modMyCore]
theorem core_modThr (s : State) (a : TRef) (f : Thread → Thread) (c : Nat) :
    core (modThr s a f) c = if c = a.core then setSlot (core s a.core) a.slot (f (thr s a)) else core s c := by
  simp only [modThr_eq, core_modCore]
@[simp] theorem myCore_modMe (s : State) (f : Thread → Thread) :
    myCore (modMe s f) = setSlot (myCore s) s.cur.slot (f (me s)) := by
  simp [myCore, modMe, core_modThr, me]
theorem me_modMyCore (s : State) (f : Core → Core) :
    me (modMyCore s f) = slotOf (f (myCore s)) s.cur.slot := by
  simp [me, modMyCore, thr_modCore, myCore]
theorem me_modMyCore_slots (s : State) (f : Core → Core) (h : ∀ x, (f x).slots = x.slots) :
    me (modMyCore s f) = me s := by
  rw [me_modMyCore, slotOf, h]; rfl

/-! ## Registers -/

theorem wr_zero (s : State) (x : Word) : wr s 0 x = s := rfl
theorem wr_qo (s : State) (x : Word) : wr s 31 x = modMyCore s (fun c => pushQo c s.cycle ⟨x, false⟩) := rfl
/-- A push changes the downstream queue and the counts of the cycle only. -/
theorem pushQo_eq (x : Core) (now : Nat) (e : QEntry) :
    pushQo x now e = { x with down := x.down ++ [e], qAt := now, upIn := (qTick x now).upIn
                              dnIn := (qTick x now).dnIn + 1, dnOut := (qTick x now).dnOut
                              qoGone := (qTick x now).qoGone } := by
  unfold pushQo qTick
  split
  · next h => subst h; rfl
  · rfl
@[simp] theorem pushQo_slots (x : Core) (now : Nat) (e : QEntry) : (pushQo x now e).slots = x.slots := by rw [pushQo_eq]
@[simp] theorem pushQo_down (x : Core) (now : Nat) (e : QEntry) : (pushQo x now e).down = x.down ++ [e] := by rw [pushQo_eq]
@[simp] theorem pushQo_up (x : Core) (now : Nat) (e : QEntry) : (pushQo x now e).up = x.up := by rw [pushQo_eq]
@[simp] theorem pushQo_qoHeld (x : Core) (now : Nat) (e : QEntry) : (pushQo x now e).qoHeld = x.qoHeld := by rw [pushQo_eq]
@[simp] theorem pushQo_upLink (x : Core) (now : Nat) (e : QEntry) : (pushQo x now e).upLink = x.upLink := by rw [pushQo_eq]
theorem wr_reg (s : State) {r : Reg} (x : Word) (h0 : r ≠ 0) (h31 : r ≠ 31) :
    wr s r x = modMe s (fun t => { t with g := t.g.set r x }) := by
  simp [wr, wrAt, h0, h31, modMe]
/-- What a register write does to the running thread: `g0` and `qo` leave it as it is. -/
theorem me_wr (s : State) (r : Reg) (x : Word) :
    me (wr s r x) = if r = 0 ∨ r = 31 then me s else { me s with g := (me s).g.set r x } := by
  by_cases h0 : r = 0
  · simp [h0, wr_zero]
  · by_cases h1 : r = 31
    · subst h1; rw [wr_qo, me_modMyCore_slots]; simp; intro; simp
    · simp [wr_reg s x h0 h1, h0, h1]
/-- What a register write does to the core. -/
theorem myCore_wr (s : State) (r : Reg) (x : Word) :
    myCore (wr s r x) =
      if r = 0 then myCore s
      else if r = 31 then pushQo (myCore s) s.cycle ⟨x, false⟩
      else setSlot (myCore s) s.cur.slot { me s with g := (me s).g.set r x } := by
  by_cases h0 : r = 0
  · simp [h0, wr_zero]
  · by_cases h1 : r = 31
    · subst h1; rw [wr_qo, myCore_modMyCore]; simp
    · simp [wr_reg s x h0 h1, h0, h1]
/-- A register write touches nothing outside the cores. -/
theorem wrAt_state (s : State) (a : TRef) (r : Reg) (x : Word) :
    wrAt s a r x = { s with cores := (wrAt s a r x).cores } := by
  unfold wrAt
  split
  · rfl
  · split <;> rfl
theorem wr_state (s : State) (r : Reg) (x : Word) : wr s r x = { s with cores := (wr s r x).cores } :=
  wrAt_state ..
@[simp] theorem wr_cur (s : State) (r : Reg) (x : Word) : (wr s r x).cur = s.cur := by rw [wr_state]
@[simp] theorem wr_mem (s : State) (r : Reg) (x : Word) : (wr s r x).mem = s.mem := by rw [wr_state]
@[simp] theorem wr_pending (s : State) (r : Reg) (x : Word) : (wr s r x).pending = s.pending := by rw [wr_state]
theorem core_wr_other (s : State) (r : Reg) (x : Word) {c : Nat} (h : c ≠ s.cur.core) :
    core (wr s r x) c = core s c := by
  unfold wr wrAt
  split
  · rfl
  · split
    · rw [core_modCore, if_neg h]
    · rw [core_modThr, if_neg h]

/-! ## The end of an instruction -/

/-- The acknowledgement of a pop sends at most one packet. -/
theorem ackQi_state (s : State) (c : Nat) :
    ackQi s c = { s with fab := { s.fab with ord := (ackQi s c).fab.ord }, fabOut := (ackQi s c).fabOut } := by
  unfold ackQi; split <;> rfl
theorem ackQi_fabOut (s : State) (c : Nat) :
    ∃ l, (ackQi s c).fabOut = s.fabOut ++ l ∧ ∀ p ∈ l, ∃ a d, p.body = .qAck a d := by
  unfold ackQi
  split
  · exact ⟨_, rfl, fun p hp => by rw [List.mem_singleton.1 hp]; exact ⟨_, _, rfl⟩⟩
  · exact ⟨[], by simp, by simp⟩
/-- A pop of an entry of a core of this module sends nothing. -/
theorem ackQi_here {s : State} {c : Nat} (h : ∀ n, (core s c).upLink = some n → foreignMod n = none) : ackQi s c = s := by
  unfold ackQi
  cases hl : (core s c).upLink with
  | none => rfl
  | some n => simp [h n hl]
@[simp] theorem ackQi_cores (s : State) (c : Nat) : (ackQi s c).cores = s.cores := by rw [ackQi_state]
@[simp] theorem ackQi_cur (s : State) (c : Nat) : (ackQi s c).cur = s.cur := by rw [ackQi_state]
@[simp] theorem core_ackQi (s : State) (c k : Nat) : core (ackQi s c) k = core s k := by simp [core]
@[simp] theorem me_ackQi (s : State) (c : Nat) : me (ackQi s c) = me s := by simp [me, thr]
@[simp] theorem myCore_ackQi (s : State) (c : Nat) : myCore (ackQi s c) = myCore s := by simp [myCore]
@[simp] theorem takeQi_cur (s : State) : (takeQi s).cur = s.cur := rfl
/-- A pop takes the head of `qi`, and may send one packet. -/
theorem popQi_state (s : State) (p : Bool) :
    popQi s p = { s with cores := (popQi s p).cores, fab := { s.fab with ord := (popQi s p).fab.ord }
                         fabOut := (popQi s p).fabOut } := by
  cases p
  · rfl
  · have h := ackQi_state (takeQi s) s.cur.core
    rw [show popQi s true = ackQi (takeQi s) s.cur.core from rfl, ackQi_cores]
    exact h
theorem popQi_here {s : State} (h : FedHere s) (p : Bool) : popQi s p = if p then takeQi s else s := by
  cases p
  · rfl
  · have h' : ∀ n, (core (takeQi s) s.cur.core).upLink = some n → foreignMod n = none := by
      intro n hn
      exact h n (by simpa [takeQi, modMyCore, myCore] using hn)
    simp [popQi, ackQi_here h']
theorem popQi_fabOut (s : State) (p : Bool) :
    ∃ l, (popQi s p).fabOut = s.fabOut ++ l ∧ ∀ q ∈ l, ∃ a d, q.body = .qAck a d := by
  cases p
  · exact ⟨[], by simp [popQi], by simp⟩
  · exact ackQi_fabOut (takeQi s) s.cur.core
@[simp] theorem popQi_false (s : State) : popQi s false = s := rfl
@[simp] theorem popQi_cur (s : State) (p : Bool) : (popQi s p).cur = s.cur := by rw [popQi_state]
@[simp] theorem popQi_mem (s : State) (p : Bool) : (popQi s p).mem = s.mem := by rw [popQi_state]
@[simp] theorem popQi_pending (s : State) (p : Bool) : (popQi s p).pending = s.pending := by rw [popQi_state]
@[simp] theorem me_popQi (s : State) (p : Bool) : me (popQi s p) = me s := by
  cases p
  · rfl
  · rw [popQi, if_pos rfl, me_ackQi, takeQi]; apply me_modMyCore_slots; intro; rfl
theorem myCore_popQi (s : State) (p : Bool) :
    myCore (popQi s p) = { myCore s with up := if p then (myCore s).up.tail else (myCore s).up } := by
  cases p
  · rfl
  · simp [popQi, takeQi]
theorem core_popQi_other (s : State) (p : Bool) {c : Nat} (h : c ≠ s.cur.core) : core (popQi s p) c = core s c := by
  cases p
  · rfl
  · simp [popQi, takeQi, modMyCore, core_modCore, h]

/-- The running thread after a completed instruction. -/
theorem me_passed (t : State) (len : Nat) (srcs : List Reg) :
    me (passed t len srcs) = { me t with pc := (me t).pc + BitVec.ofNat 64 (2 * len), wait := .none } := by
  simp [passed, finish]
theorem me_went (s : State) (srcs : List Reg) (pc : Word) : me (went s srcs pc) = { me s with pc := pc, wait := .none } := by
  simp [went, finish]
theorem myCore_passed (t : State) (len : Nat) (srcs : List Reg) :
    myCore (passed t len srcs) =
      setSlot { myCore t with up := if srcs.contains 30 then (myCore t).up.tail else (myCore t).up } t.cur.slot
        { me t with pc := (me t).pc + BitVec.ofNat 64 (2 * len), wait := .none } := by
  simp [passed, finish, myCore_popQi]
theorem wrote_eq (s : State) (len : Nat) (srcs : List Reg) (r : Reg) (x : Word) :
    wrote s len srcs r x = passed (wr s r x) len srcs := rfl
/-- The running thread after an instruction that writes one register. -/
theorem me_wrote (s : State) (len : Nat) (srcs : List Reg) (r : Reg) (x : Word) :
    me (wrote s len srcs r x) =
      { me s with g := if r = 0 ∨ r = 31 then (me s).g else (me s).g.set r x
                  pc := (me s).pc + BitVec.ofNat 64 (2 * len), wait := .none } := by
  rw [wrote_eq, me_passed, me_wr]
  split <;> rfl

/-! ## The issue of an instruction -/

/-- An instruction whose queues are ready runs its body. -/
theorem runI_ready {s : State} {srcs dsts : List Reg} (h : QueuesReady s srcs dsts) (len : Nat) (body : State → Eff) :
    runI len srcs dsts s body = finish len (srcs.contains 30) (body s) := by
  obtain ⟨h30, h31⟩ := h
  unfold runI
  by_cases hp : (30 : Reg) ∈ srcs
  · obtain ⟨e, l, he, hc⟩ := h30 hp
    by_cases hd : (31 : Reg) ∈ dsts
    · obtain ⟨⟨d, hl⟩, hr⟩ := h31 hd
      simp [hp, hd, he, hc, hl, show ¬ 16 ≤ (myCore s).down.length + (myCore s).qoHeld by omega]
    · simp [hp, hd, he, hc]
  · by_cases hd : (31 : Reg) ∈ dsts
    · obtain ⟨⟨d, hl⟩, hr⟩ := h31 hd
      simp [hp, hd, hl, show ¬ 16 ≤ (myCore s).down.length + (myCore s).qoHeld by omega]
    · simp [hp, hd]

/-- The queues are ready where none is named. -/
theorem queuesReady_of_plain (s : State) {srcs dsts : List Reg} (hs : (30 : Reg) ∉ srcs) (hd : (31 : Reg) ∉ dsts) :
    QueuesReady s srcs dsts := ⟨fun h => absurd h hs, fun h => absurd h hd⟩

/-! ## Traps -/

/-- Trap entry of a thread that is not in a handler and has one. -/
theorem trapAt_enter {s : State} {a : TRef} {h : Word} (hth : (thr s a).th = false)
    (ht : trapTarget s (thr s a) = some h) (code : Nat) (tval : Word) :
    trapAt s a code tval = modThr s a (fun t =>
      { t with tepc := t.pc, tcause := BitVec.ofNat 64 code, tval := tval, th := true, pc := h, wait := .none }) := by
  simp [trapAt, hth, ht]
/-- Trap entry of a thread that is in a handler, or has none, freezes it. -/
theorem trapAt_freeze {s : State} {a : TRef} (h : (thr s a).th = true ∨ trapTarget s (thr s a) = none)
    (code : Nat) (tval : Word) : trapAt s a code tval = freeze s a code tval := by
  rcases h with h | h
  · simp [trapAt, h]
  · simp [trapAt, h]

end Sys2Proof.Machine
end

