-- ==== Sys2Proof/Laws/Frame.lean ====
section
/-!
SUPPORT. What the shared operations leave as it is (`SameElsewhere`), the forms of page 0 whose queues are ready, and trap
entry.
-/
namespace Sys2Proof.Machine
open Sys2Proof

/-! ## `SameElsewhere` -/

/-- The frames of a region are read through the frame table only. -/
theorem regionRank_congr {s t : State} (h : t.pat = s.pat) (f : Nat) (l : List Nat) (r : Nat) :
    regionRank t f l r = regionRank s f l r := by
  have hr : ∀ k, guardRanks t k = guardRanks s k := fun k => by rw [guardRanks, patEnt, h]; rfl
  induction l generalizing r with
  | nil => rfl
  | cons k l ih => simp only [regionRank, hr, ih]
/-- What an index keeps at an address depends on the Grove and the frame table. -/
theorem groveSpot_congr {s t : State} (hg : t.grove = s.grove) (hp : t.pat = s.pat) (a : Nat) :
    groveSpot t a = groveSpot s a := by
  have hi : ∀ x h, indexBase t x h = indexBase s x h := fun x h => by rw [indexBase, hg]; rfl
  simp only [groveSpot, hg, hi, regionRank_congr hp]
/-- What a vault keeps at an address depends on its records. -/
theorem vaultByte_congr {s t : State} (hv : t.vaults = s.vaults) (a : Nat) : vaultByte t a = vaultByte s a := by
  have hv' : ∀ k, vaultOf t k = vaultOf s k := fun k => by rw [vaultOf, hv]; rfl
  simp only [vaultByte, vaultSpot, hv']
/-- The bytes that records keep outside the vaults depend on the queues, the Grove and the frame table. -/
theorem keptByte_congr {s t : State} (hq : t.queues = s.queues) (hg : t.grove = s.grove) (hp : t.pat = s.pat) {k : Nat}
    (hk : 128 ≤ frameOf k) : keptByte t k = keptByte s k := by
  simp only [keptByte, descByte, groveByte, groveSpot_congr hg hp, hq, show ¬ frameOf k < 128 by omega, if_false]
/-- A byte of device memory is that of plain memory and of the records of the vaults, the queues and the Grove. -/
theorem devByte_congr {s t : State} (hv : t.vaults = s.vaults) (hq : t.queues = s.queues) (hg : t.grove = s.grove)
    (hp : t.pat = s.pat) (hm : t.mem = s.mem) (a : Nat) : devByte t a = devByte s a := by
  have hk : keptByte t a = keptByte s a := by
    simp only [keptByte, descByte, groveByte, vaultByte_congr hv, groveSpot_congr hg hp, hq]
  rw [devByte, hk, hm, devByte]

theorem SameElsewhere.refl (s : State) : SameElsewhere s s :=
  ⟨rfl, fun _ => ⟨rfl, rfl⟩, ⟨[], by simp, by simp⟩, fun _ _ => rfl, fun _ _ => rfl, rfl, devByte_congr (by rfl) (by rfl) (by rfl) (by rfl) (by rfl)⟩

theorem SameElsewhere.cur_eq {s t : State} (h : SameElsewhere s t) : t.cur = s.cur := by
  rw [h.1]
theorem SameElsewhere.upLink_eq {s t : State} (h : SameElsewhere s t) : (myCore t).upLink = (myCore s).upLink := by
  obtain ⟨-, -, -, -, -, h6, -⟩ := h
  rw [h6]
theorem SameElsewhere.fedHere {s t : State} (h : SameElsewhere s t) (f : FedHere s) : FedHere t := by
  intro n hn
  rw [h.upLink_eq] at hn
  exact f n hn

theorem SameElsewhere.trans {s t u : State} (h : SameElsewhere s t) (k : SameElsewhere t u) : SameElsewhere s u := by
  have hc := h.cur_eq
  have hf := h.fedHere
  obtain ⟨h1, h2, ⟨l, h3, h3'⟩, h4, h5, h6, h7⟩ := h
  obtain ⟨k1, k2, ⟨l', k3, k3'⟩, k4, k5, k6, k7⟩ := k
  refine ⟨?_, ?_, ⟨l ++ l', ?_, ?_⟩, ?_, ?_, ?_, fun x => (k7 x).trans (h7 x)⟩
  · rw [k1, h1]
  · intro f
    obtain ⟨a, b⟩ := h2 f
    obtain ⟨c, d⟩ := k2 (hf f)
    exact ⟨c.trans a, d.trans b⟩
  · rw [k3, h3, List.append_assoc]
  · intro p hp
    rcases List.mem_append.1 hp with hp | hp
    · exact h3' p hp
    · exact k3' p hp
  · intro x hx
    rw [k4 x (by rw [hc]; exact hx), h4 x hx]
  · intro n hn
    rw [k5 n (by rw [hc]; exact hn), h5 n hn]
  · rw [h6] at k6
    exact k6

/-- A change of the running thread's core that keeps the other slots and all but the queues. -/
theorem sameElsewhere_core {s : State} {f : Core → Core}
    (hs : ∀ n, n ≠ s.cur.slot → slotOf (f (myCore s)) n = slotOf (myCore s) n)
    (hf : let y := f (myCore s)
      y = { myCore s with slots := y.slots, up := y.up, down := y.down, qoHeld := y.qoHeld, qiHeld := y.qiHeld
                          qoRep := y.qoRep, qAt := y.qAt, upIn := y.upIn, dnIn := y.dnIn, dnOut := y.dnOut, qoGone := y.qoGone }) :
    SameElsewhere s (modMyCore s f) := by
  refine ⟨rfl, fun _ => ⟨rfl, rfl⟩, ⟨[], by simp [modMyCore], by simp⟩, ?_, ?_, ?_, devByte_congr (by rfl) (by rfl) (by rfl) (by rfl) (by rfl)⟩
  · intro c hc
    rw [modMyCore, core_modCore, if_neg hc]
  · intro n hn
    rw [myCore_modMyCore, hs n hn]
  · rw [myCore_modMyCore]; exact hf

theorem sameElsewhere_modMe (s : State) (f : Thread → Thread) : SameElsewhere s (modMe s f) := by
  rw [modMe, modThr_eq]
  refine sameElsewhere_core (f := fun x => setSlot x s.cur.slot (f (thr s s.cur))) ?_ rfl
  intro n hn
  rw [slotOf_setSlot, if_neg hn]

theorem sameElsewhere_takeQi (s : State) : SameElsewhere s (takeQi s) := sameElsewhere_core (fun _ _ => rfl) rfl
theorem sameElsewhere_popQi (s : State) (p : Bool) : SameElsewhere s (popQi s p) := by
  have hf : FedHere s → (popQi s p).fab = s.fab ∧ (popQi s p).fabOut = s.fabOut := by
    intro h
    rw [popQi_here h]
    cases p <;> exact ⟨rfl, rfl⟩
  refine ⟨?_, hf, popQi_fabOut s p, fun c hc => core_popQi_other s p hc, ?_, ?_, ?_⟩
  · rw [popQi_state]
  · intro n _
    rw [myCore_popQi]; rfl
  · rw [myCore_popQi]
  · intro a
    apply devByte_congr <;> rw [popQi_state]

theorem sameElsewhere_wr (s : State) (r : Reg) (x : Word) : SameElsewhere s (wr s r x) := by
  by_cases h0 : r = 0
  · subst h0; exact SameElsewhere.refl s
  · by_cases h31 : r = 31
    · subst h31
      rw [wr_qo]
      refine sameElsewhere_core (fun n _ => ?_) ?_
      · simp [slotOf]
      · rw [pushQo_eq]
    · rw [wr_reg s x h0 h31]; exact sameElsewhere_modMe s _

theorem sameElsewhere_post (s : State) (e : Ev) : SameElsewhere s (post s e) :=
  ⟨rfl, fun _ => ⟨rfl, rfl⟩, ⟨[], by simp, by simp⟩, fun _ _ => rfl, fun _ _ => rfl, rfl, devByte_congr (by rfl) (by rfl) (by rfl) (by rfl) (by rfl)⟩

theorem sameElsewhere_freeze (s : State) (code : Nat) (v : Word) : SameElsewhere s (freeze s s.cur code v) :=
  (sameElsewhere_modMe s _).trans (sameElsewhere_post _ _)

theorem sameElsewhere_trapMe (s : State) (code : Nat) (v : Word) : SameElsewhere s (trapMe s code v) := by
  unfold trapMe trapAt
  simp only
  split
  · exact sameElsewhere_freeze s code v
  · split
    · exact sameElsewhere_modMe s _
    · exact sameElsewhere_freeze s code v

theorem sameElsewhere_passed {s t : State} (h : SameElsewhere s t) (len : Nat) (srcs : List Reg) :
    SameElsewhere s (passed t len srcs) := by
  unfold passed finish
  exact (h.trans (sameElsewhere_popQi _ _)).trans (sameElsewhere_modMe _ _)

theorem sameElsewhere_went {s t : State} (h : SameElsewhere s t) (srcs : List Reg) (pc : Word) :
    SameElsewhere s (went t srcs pc) := by
  unfold went finish
  exact (h.trans (sameElsewhere_popQi _ _)).trans (sameElsewhere_modMe _ _)

/-! ## Forms whose queues are ready -/

theorem classR_ready {s : State} {a b : Reg} {c : Option Reg} (f : Word → Word → Word)
    (h : QueuesReady s [srcX a b c, srcY b c] [a]) :
    classR f a b c s = wrote s (1 + optLen c) [srcX a b c, srcY b c] a (f (rd s (srcX a b c)) (rd s (srcY b c))) := by
  unfold classR; rw [runI_ready h]; rfl
theorem classI_ready {s : State} {a : Reg} {c : Option Reg} (f : Word → Word → Word) (i : Imm)
    (h : QueuesReady s [c.getD a] [a]) :
    classI f a c i s = wrote s (1 + optLen c + i.n) [c.getD a] a (f (rd s (c.getD a)) (immW i)) := by
  unfold classI; rw [srcI, runI_ready h]; rfl
theorem classX_ready {s : State} {a : Reg} {c : Option Reg} (f : Word → Word) (h : QueuesReady s [c.getD a] [a]) :
    classX f a c s = wrote s (1 + optLen c) [c.getD a] a (f (rd s (c.getD a))) := by
  unfold classX; rw [srcI, runI_ready h]; rfl
theorem classU_ready {s : State} {a b : Reg} (f : Word → Word) (h : QueuesReady s [b] [a]) :
    classU f a b s = wrote s 1 [b] a (f (rd s b)) := by
  unfold classU; rw [runI_ready h]; rfl
theorem branch_ready {s : State} {srcs : List Reg} (h : QueuesReady s srcs []) (len : Nat) (o : Imm)
    (cond : State → Bool) :
    branch len srcs o cond s = if cond s then went s srcs (relTarget s o.v) else passed s len srcs := by
  unfold branch
  rw [runI_ready h]
  cases cond s <;> rfl

end Sys2Proof.Machine
end

