-- ==== Sys2Proof/Laws/Memory.lean ====
section
/-!
SUPPORT. What the memory operations do: translated accesses and requests of a thread, requests served at a TAU, and what a
write of device memory leaves.
-/
namespace Sys2Proof.Machine
open Sys2Proof

/-! ## The issuing core -/

/-- R11: the effective address. -/
theorem ea_eq (s : State) (b : Reg) (i : Imm) : rd s b + BitVec.ofInt 64 i.v = ea s b i := rfl

theorem gAccess_pa {s : State} {va : Word} {n : Need} {pa : Nat} (h : translate s s.cur va n = .pa pa) (op : Nat)
    (k : State → Nat → Eff) : gAccess s va n op k = k s pa := by
  simp [gAccess, h]
theorem gAccess_trap {s : State} {va : Word} {n : Need} {code : Nat} (h : translate s s.cur va n = .trap code) (op : Nat)
    (k : State → Nat → Eff) : gAccess s va n op k = .trap s code va := by
  simp [gAccess, h]
/-- An aligned, translated request to a word in no store-buffer entry goes out. -/
theorem request_finds {s : State} {va : Word} {align pa : Nat} {n : Need} (h : Finds s va align n pa) (op : Nat)
    (pushes : Bool) (after : Scope) (msg : State → TauReq → Ev) :
    request s va align n op pushes after msg = .reply (post s (msg s (reqOf s va pa))) pushes after := by
  obtain ⟨h1, h2, h3⟩ := h
  simp [request, h1, gAccess_pa h2, h3]
/-- A fence with nothing to wait for is passed. -/
theorem fenced_open {s : State} {sc : Scope} (h : FenceOpen s sc) (need : Bool) (k : State → Eff) :
    fenced s need sc k = k s := by
  obtain ⟨h1, h2⟩ := h
  unfold fenced
  cases need
  · rfl
  · simp only [if_true]
    split
    · rename_i d hd; exact absurd hd (h1 _).1
    · rename_i d hd; exact absurd hd (h1 _).2
    · rw [if_pos h2]
theorem fenced_none (s : State) (sc : Scope) (k : State → Eff) : fenced s false sc k = k s := rfl

/-! ## Physical memory -/

@[simp] theorem touch_mem (s : State) (pa : Nat) : (touch s pa).mem = s.mem := rfl
@[simp] theorem touch_pending (s : State) (pa : Nat) : (touch s pa).pending = s.pending := rfl
@[simp] theorem touch_feEmpty (s : State) (pa : Nat) : (touch s pa).feEmpty = s.feEmpty := rfl
@[simp] theorem touch_cores (s : State) (pa : Nat) : (touch s pa).cores = s.cores := rfl
@[simp] theorem touch_resvs (s : State) (pa : Nat) : (touch s pa).resvs = s.resvs := rfl
@[simp] theorem touch_waits (s : State) (pa : Nat) : (touch s pa).waits = s.waits := rfl
theorem injFires_touch (s : State) (pa q : Nat) : injFires (touch s q) pa = injFires s pa := rfl
theorem vaultStalls_touch (s : State) (pa q : Nat) : vaultStalls (touch s q) pa = vaultStalls s pa := rfl

/-- A request for a seal is one message, and nothing else. -/
theorem wantSeal_eq (s : State) : ∃ p q, wantSeal s = { s with pending := p, fabOut := q } := by
  unfold wantSeal
  split
  · exact ⟨_, _, rfl⟩
  · exact ⟨_, _, rfl⟩
/-- Logging a granule changes the vaults, the stamps, the seal controller's record of the vaults, and perhaps asks for a
seal. -/
theorem logGranule_eq (s : State) (pa : Nat) :
    ∃ v st l p q, logGranule s pa = { s with vaults := v, stamps := st, sl := l, pending := p, fabOut := q } := by
  unfold logGranule
  split
  · exact ⟨_, _, _, _, _, rfl⟩
  · simp only
    split
    · exact ⟨_, _, _, _, _, (wantSeal_eq _).choose_spec.choose_spec⟩
    · exact ⟨_, _, _, _, _, rfl⟩
@[simp] theorem logGranule_mem (s : State) (pa : Nat) : (logGranule s pa).mem = s.mem := by
  obtain ⟨_, _, _, _, _, h⟩ := logGranule_eq s pa; rw [h]
@[simp] theorem logGranule_feEmpty (s : State) (pa : Nat) : (logGranule s pa).feEmpty = s.feEmpty := by
  obtain ⟨_, _, _, _, _, h⟩ := logGranule_eq s pa; rw [h]
@[simp] theorem logGranule_cores (s : State) (pa : Nat) : (logGranule s pa).cores = s.cores := by
  obtain ⟨_, _, _, _, _, h⟩ := logGranule_eq s pa; rw [h]
@[simp] theorem logGranule_waits (s : State) (pa : Nat) : (logGranule s pa).waits = s.waits := by
  obtain ⟨_, _, _, _, _, h⟩ := logGranule_eq s pa; rw [h]
@[simp] theorem logGranule_resvs (s : State) (pa : Nat) : (logGranule s pa).resvs = s.resvs := by
  obtain ⟨_, _, _, _, _, h⟩ := logGranule_eq s pa; rw [h]

/-- Bytes stored where records keep them change the vaults, the queues and the Grove, and nothing else. -/
theorem putKept_eq (s : State) (pa : Nat) (b : Byte) :
    ∃ v q g, putKept s pa b = { s with vaults := v, queues := q, grove := g } := by
  unfold putKept putVault putDesc putGrove
  split
  · split <;> exact ⟨_, _, _, rfl⟩
  · split
    · split
      · exact ⟨_, _, _, rfl⟩
      · simp only; split <;> exact ⟨_, _, _, rfl⟩
    · split <;> exact ⟨_, _, _, rfl⟩
theorem putKepts_eq (s : State) (pa : Nat) (l : List Byte) :
    ∃ v q g, putKepts s pa l = { s with vaults := v, queues := q, grove := g } := by
  induction l generalizing s pa with
  | nil => exact ⟨_, _, _, rfl⟩
  | cons b l ih =>
    obtain ⟨v, q, g, h⟩ := putKept_eq s pa b
    obtain ⟨v', q', g', h'⟩ := ih (putKept s pa b) (pa + 1)
    exact ⟨v', q', g', by rw [putKepts, h', h]⟩
/-- All that a change of bytes at an address can change. -/
theorem physPut_eq (s : State) (pa : Nat) (l : List Byte) :
    ∃ c v st w p o q g, physPut s pa l = { s with
      pchs := c, vaults := v, stamps := st, sl := w, pending := p, fabOut := o, queues := q, grove := g, mem := msets s.mem pa l } := by
  obtain ⟨v, st, w, p, o, h⟩ := logGranule_eq (touch s pa) pa
  obtain ⟨v', q, g, h'⟩ := putKepts_eq { logGranule (touch s pa) pa with mem := msets (logGranule (touch s pa) pa).mem pa l } pa l
  exact ⟨_, v', st, w, p, o, q, g, by unfold physPut; rw [h', h]; rfl⟩
@[simp] theorem physWrite_mem (s : State) (pa n : Nat) (x : Word) : (physWrite s pa n x).mem = mput s.mem pa n x := by
  obtain ⟨_, _, _, _, _, _, _, _, h⟩ := physPut_eq s pa (leBytes n x.toNat); rw [physWrite, h]; rfl
@[simp] theorem physWrite_feEmpty (s : State) (pa n : Nat) (x : Word) : (physWrite s pa n x).feEmpty = s.feEmpty := by
  obtain ⟨_, _, _, _, _, _, _, _, h⟩ := physPut_eq s pa (leBytes n x.toNat); rw [physWrite, h]
@[simp] theorem physWrite_cores (s : State) (pa n : Nat) (x : Word) : (physWrite s pa n x).cores = s.cores := by
  obtain ⟨_, _, _, _, _, _, _, _, h⟩ := physPut_eq s pa (leBytes n x.toNat); rw [physWrite, h]
@[simp] theorem physWrite_resvs (s : State) (pa n : Nat) (x : Word) : (physWrite s pa n x).resvs = s.resvs := by
  obtain ⟨_, _, _, _, _, _, _, _, h⟩ := physPut_eq s pa (leBytes n x.toNat); rw [physWrite, h]

theorem leBytes_getD (n x k : Nat) (h : k < n) : (leBytes n x).getD k 0 = BitVec.ofNat 8 (x / 256 ^ k) := by
  induction n generalizing x k with
  | zero => omega
  | succ n ih =>
    cases k with
    | zero => simp [leBytes]
    | succ k =>
      have : x / 256 / 256 ^ k = x / 256 ^ (k + 1) := by rw [Nat.div_div_eq_div_mul, pow_succ, mul_comm]
      simp only [leBytes, List.getD_cons_succ]
      rw [ih _ _ (by omega), this]
theorem extract_byte (x : Word) (k : Nat) : BitVec.ofNat 8 (x.toNat / 256 ^ k) = x.extractLsb' (8 * k) 8 := by
  apply BitVec.eq_of_toNat_eq
  simp [BitVec.extractLsb'_toNat, Nat.shiftRight_eq_div_pow, pow_mul]
/-- The bytes of plain memory after a word is written to it. -/
theorem mget_mput {m : List Host.Cell} (h : Memory.wf m = true) (pa n : Nat) (x : Word) (k : Nat) :
    mget (mput m pa n x) k = if pa ≤ k ∧ k < pa + n then x.extractLsb' (8 * (k - pa)) 8 else mget m k := by
  rw [mput, mget_msets h, leBytes_length]
  split
  · rw [leBytes_getD _ _ _ (by omega), extract_byte]
  · rfl
/-- What reads as before where plain memory, the frame table, the queues and the Grove are as before. -/
theorem sameBytes_of {s t : State} (hq : t.queues = s.queues) (hg : t.grove = s.grove) (hp : t.pat = s.pat)
    (hm : t.mem = s.mem) : SameBytes s t := by
  intro k hk
  rw [devByte, devByte, keptByte_congr hq hg hp hk, hm]
/-- The queues, the Grove and the frame table are as before. -/
def SameKept (s t : State) : Prop := t.queues = s.queues ∧ t.grove = s.grove ∧ t.pat = s.pat
/-- A store changes the queues and the Grove as they stand before it. -/
theorem putKept_same {s t : State} (h : SameKept s t) (pa : Nat) (b : Byte) : SameKept (putKept s pa b) (putKept t pa b) := by
  obtain ⟨hq, hg, hp⟩ := h
  have hd : descByte t pa = descByte s pa := by simp only [descByte, hq]
  unfold putKept
  split
  · unfold putVault
    split <;> split <;> exact ⟨hq, hg, hp⟩
  · split
    · unfold putDesc
      rw [hd, hq]
      split
      · exact ⟨hq, hg, hp⟩
      · simp only
        cases fget s.queues (pa % 2 ^ 25 / 32) with
        | none => exact ⟨hq, hg, hp⟩
        | some q => exact ⟨rfl, hg, hp⟩
    · unfold putGrove
      rw [groveSpot_congr hg hp, hg]
      cases groveSpot s pa with
      | none => exact ⟨hq, hg, hp⟩
      | some e => exact ⟨hq, rfl, hp⟩
theorem putKepts_same {s t : State} (h : SameKept s t) (pa : Nat) (l : List Byte) :
    SameKept (putKepts s pa l) (putKepts t pa l) := by
  induction l generalizing s t pa with
  | nil => exact h
  | cons b l ih => exact ih (putKept_same h pa b) (pa + 1)
/-- A store of a byte that no record keeps leaves the queues and the Grove. -/
theorem putKept_none {s : State} {pa : Nat} (h : 128 ≤ frameOf pa → keptByte s pa = none) (b : Byte) :
    SameKept s (putKept s pa b) := by
  unfold putKept
  split
  · unfold putVault
    split <;> exact ⟨rfl, rfl, rfl⟩
  · rename_i hf
    have h := h (by omega)
    unfold keptByte at h
    rw [if_neg hf] at h
    split
    · rename_i hd
      rw [if_pos hd] at h
      simp only [putDesc, h, Option.isNone_none, if_true]
      exact ⟨rfl, rfl, rfl⟩
    · rename_i hd
      rw [if_neg hd, groveByte, Option.map_eq_none_iff] at h
      simp only [putGrove, h]
      exact ⟨rfl, rfl, rfl⟩
theorem putKepts_none {s : State} {pa : Nat} {l : List Byte}
    (h : ∀ j, j < l.length → 128 ≤ frameOf (pa + j) → keptByte s (pa + j) = none) : SameKept s (putKepts s pa l) := by
  induction l generalizing s pa with
  | nil => exact ⟨rfl, rfl, rfl⟩
  | cons b l ih =>
    have h0 := putKept_none (b := b) (s := s) (pa := pa) (fun hf => h 0 (by simp) hf)
    obtain ⟨hq, hg, hp⟩ := h0
    have hk := @ih (putKept s pa b) (pa + 1) (fun j hj hf => by
      have e : pa + 1 + j = pa + (j + 1) := by omega
      rw [e] at hf ⊢
      rw [keptByte_congr hq hg hp hf]
      exact h (j + 1) (by simpa using hj) hf)
    exact ⟨hk.1.trans hq, hk.2.1.trans hg, hk.2.2.trans hp⟩
theorem putKepts_mem (s : State) (pa : Nat) (l : List Byte) : (putKepts s pa l).mem = s.mem := by
  obtain ⟨_, _, _, h⟩ := putKepts_eq s pa l; rw [h]
/-- What a word written to memory and to the records stores. -/
theorem stored_put {s t : State} (h : State.MemOk s) {pa n : Nat} {x : Word}
    (hk : SameKept (putKepts s pa (leBytes n x.toNat)) t) (ht : t.mem = mput s.mem pa n x) : Stored s t pa n x := by
  intro k hf
  have hu := putKepts_same (s := s) (t := { s with mem := mput s.mem pa n x }) ⟨rfl, rfl, rfl⟩ pa (leBytes n x.toNat)
  constructor
  · intro hn
    have h0 := putKepts_none (s := s) (pa := pa) (l := leBytes n x.toNat) (by rw [leBytes_length]; exact hn)
    have e := keptByte_congr (hk.1.trans h0.1) (hk.2.1.trans h0.2.1) (hk.2.2.trans h0.2.2) hf
    rw [devByte, e, ht, mget_mput h]
    split
    · rename_i hr
      have := hn (k - pa) (by omega) (by rw [show pa + (k - pa) = k by omega]; exact hf)
      rw [show pa + (k - pa) = k by omega] at this
      rw [this]; rfl
    · rfl
  · rw [devByte, devByte, keptByte_congr hk.1 hk.2.1 hk.2.2 hf, keptByte_congr hu.1 hu.2.1 hu.2.2 hf, ht, putKepts_mem]
@[simp] theorem logGranule_queues (s : State) (pa : Nat) : (logGranule s pa).queues = s.queues := by
  obtain ⟨_, _, _, _, _, h⟩ := logGranule_eq s pa; rw [h]
@[simp] theorem logGranule_grove (s : State) (pa : Nat) : (logGranule s pa).grove = s.grove := by
  obtain ⟨_, _, _, _, _, h⟩ := logGranule_eq s pa; rw [h]
@[simp] theorem logGranule_pat (s : State) (pa : Nat) : (logGranule s pa).pat = s.pat := by
  obtain ⟨_, _, _, _, _, h⟩ := logGranule_eq s pa; rw [h]
theorem physWrite_same (s : State) (pa n : Nat) (x : Word) :
    SameKept (putKepts s pa (leBytes n x.toNat)) (physWrite s pa n x) :=
  putKepts_same ⟨by simp; rfl, by simp; rfl, by simp; rfl⟩ _ _
theorem stored_physWrite {s : State} (h : State.MemOk s) (pa n : Nat) (x : Word) : Stored s (physWrite s pa n x) pa n x :=
  stored_put h (physWrite_same s pa n x) (physWrite_mem s pa n x)

theorem leNat_lt (l : List Byte) : leNat l < 256 ^ l.length := by
  induction l with
  | nil => simp [leNat]
  | cons x l ih =>
    have := x.isLt
    simp only [leNat, List.length_cons, pow_succ 256 l.length]
    omega
theorem leNat_byte (l : List Byte) (k : Nat) : BitVec.ofNat 8 (leNat l / 256 ^ k) = l.getD k 0 := by
  induction l generalizing k with
  | nil => simp [leNat]
  | cons x l ih =>
    have hx := x.isLt
    cases k with
    | zero =>
      apply BitVec.eq_of_toNat_eq
      simp only [leNat, pow_zero, Nat.div_one, BitVec.toNat_ofNat, List.getD_cons_zero]
      omega
    | succ k =>
      rw [List.getD_cons_succ, ← ih k, leNat, pow_succ, mul_comm (256 ^ k) 256, ← Nat.div_div_eq_div_mul]
      congr 2
      omega
@[simp] theorem devBytes_length (s : State) (a n : Nat) : (devBytes s a n).length = n := by
  induction n generalizing a with
  | zero => rfl
  | succ n ih => simp [devBytes, ih]
theorem devBytes_getD (s : State) (a n k : Nat) (h : k < n) : (devBytes s a n).getD k 0 = devByte s (a + k) := by
  induction n generalizing a k with
  | zero => omega
  | succ n ih =>
    cases k with
    | zero => simp [devBytes]
    | succ k =>
      simp only [devBytes, List.getD_cons_succ]
      rw [ih _ _ (by omega)]
      congr 1
      omega
theorem mgets_getD (m : List Host.Cell) (a n k : Nat) (h : k < n) : (mgets m a n).getD k 0 = mget m (a + k) := by
  induction n generalizing a k with
  | zero => omega
  | succ n ih =>
    cases k with
    | zero => simp [mgets]
    | succ k =>
      simp only [mgets, List.getD_cons_succ]
      rw [ih _ _ (by omega)]
      congr 1
      omega
/-- A word read is the number that its bytes hold. -/
theorem holds_physRead (s : State) (pa n : Nat) (hn : n ≤ 8) : Holds s pa n (physRead s pa n) := by
  intro k hk
  have hlt := leNat_lt (devBytes s pa n)
  rw [devBytes_length] at hlt
  have h64 : leNat (devBytes s pa n) < 2 ^ 64 := lt_of_lt_of_le hlt (by
    calc 256 ^ n ≤ 256 ^ 8 := Nat.pow_le_pow_right (by omega) hn
      _ = 2 ^ 64 := by norm_num)
  have e : (physRead s pa n).toNat = leNat (devBytes s pa n) := by
    simp only [physRead, BitVec.toNat_ofNat]; omega
  rw [← extract_byte, e, leNat_byte]
  split
  · rename_i hkn; exact devBytes_getD _ _ _ _ hkn
  · rename_i hkn
    rw [List.getD_eq_default _ _ (by rw [devBytes_length]; omega)]
/-- There is one such number. -/
theorem Holds.unique {s : State} {pa n : Nat} {x y : Word} (hx : Holds s pa n x) (hy : Holds s pa n y) : x = y := by
  apply BitVec.eq_of_getLsbD_eq
  intro i hi
  have h := (hx (i / 8) (by omega)).trans (hy (i / 8) (by omega)).symm
  have h2 := congrArg (fun b => b.getLsbD (i % 8)) h
  simp only [BitVec.getLsbD_extractLsb', show i % 8 < 8 by omega, decide_true, Bool.true_and,
    show 8 * (i / 8) + i % 8 = i by omega] at h2
  exact h2
theorem Holds.eq_physRead {s : State} {pa n : Nat} {x : Word} (h : Holds s pa n x) (hn : n ≤ 8) : physRead s pa n = x :=
  (holds_physRead s pa n hn).unique h

/-! ## At the TAU -/

/-- A request that the TAU serves. -/
theorem eccStops_none {s : State} {pa : Nat} (h : fget s.errs (sectorOf pa) = none) : eccStops s pa = false := by
  simp [eccStops, h]
/-- A read of one sector, without an error, leaves everything as it is. -/
theorem eccRead_none {s : State} {pa : Nat} (h : fget s.errs (sectorOf pa) = none) : eccRead s pa 1 = s := by
  unfold eccRead
  split
  · rfl
  · simp [eccSector, h]
theorem tauShuts_none {s : State} {l : Option Nat} {pa : Nat} (h : tauRefuses s l pa = none) : tauShuts s l pa = false := by
  unfold tauShuts; rw [h]; rfl
theorem tauServe_serves {s : State} {r : TauReq} (h : TauServes s r.launch r.pa) (reads : Bool) (k : State → State) :
    tauServe s r reads k = .next (k (touch s r.pa)) := by
  obtain ⟨h1, h2, _, _⟩ := h
  have ht : tauRefuses (touch s r.pa) r.launch r.pa = none := h1
  cases reads <;> simp [tauServe, tauShuts_none h1, ht, eccStops_none h2, eccRead_none h2]
theorem tauReads_serves {s : State} {l : Option Nat} {pa : Nat} (h : TauServes s l pa) (k : State → State) :
    tauReads s pa k = k s := by
  simp [tauReads, h.2.2.1]
theorem tauChanges_serves {s : State} {l : Option Nat} {pa : Nat} (h : TauServes s l pa) (k : State → State) :
    tauChanges s pa k = k s := by
  simp [tauChanges, h.2.2.2]
theorem TauServes.touched {s : State} {l : Option Nat} {pa : Nat} (h : TauServes s l pa) (q : Nat) :
    TauServes (touch s q) l pa := h
theorem TauServes.facing {s : State} {l : Option Nat} {pa : Nat} (h : TauServes s l pa) (e : Ev) :
    TauServes (facing s e) l pa := h
@[simp] theorem answer_thr (s : State) (a : TRef) (r : RepRes) : answer s (.thr a) r = post s (.reply a r) := rfl
theorem replied_post (s : State) (a : TRef) (r : RepRes) : Replied (post s (.reply a r)) a r := by
  simp [Replied, List.getLast?_append]
theorem isFull_setFull (s : State) (pa : Nat) (b : Bool) : isFull (setFull s pa b) pa = b := by
  cases b
  · have : ∀ (n : Nat) (l : List Nat), n ∈ nins n l := by
      intro n l
      induction l with
      | nil => simp [nins]
      | cons k l ih => simp only [nins]; split
                       · simp
                       · split
                         · rename_i h; simp [h]
                         · simp [ih]
    simp [isFull, setFull, this]
  · simp [isFull, setFull]

end Sys2Proof.Machine
end

