-- ==== Sys2Proof/Laws/PerInstr.lean ====
section
/-!
SUPPORT. Statements about every instruction as syntax, one lemma per constructor: its length in words is the number of words
that the encoder gives (R33); an event has none.
-/
namespace Sys2Proof.Laws.LengthFromWords
open Sys2Proof

/-- The encoder writes as many words as the instruction is long. -/
def Statement (i : Instr) : Prop := (encode i).length = ilen i

theorem every (i : Instr) : Statement i := by
  unfold Statement encode ilen
  cases partsOf i with
  | none => rfl
  | some p =>
    simp only [Parts.words, Parts.len, Parts.oBase, Parts.oXi, Parts.oXr, Parts.oXs, Option.map_some, Option.getD_some,
      List.length_append, List.length_map]
    cases p.xp <;> cases p.xs <;> cases p.xr <;> simp

theorem nop : Statement .nop := every _
theorem trap (i : Imm) : Statement (.trap i) := every _
theorem brk (i : Imm) : Statement (.brk i) := every _
theorem mov (a b : Reg) : Statement (.mov a b) := every _
theorem li (a : Reg) (i : Imm) : Statement (.li a i) := every _
theorem sel (a b c m : Reg) : Statement (.sel a b c m) := every _
theorem add (a b : Reg) (c : Option Reg) : Statement (.add a b c) := every _
theorem addImm (a : Reg) (c : Option Reg) (i : Imm) : Statement (.addImm a c i) := every _
theorem sub (a b : Reg) (c : Option Reg) : Statement (.sub a b c) := every _
theorem mul (a b : Reg) (c : Option Reg) : Statement (.mul a b c) := every _
theorem mulh (a b : Reg) (c : Option Reg) : Statement (.mulh a b c) := every _
theorem mulhu (a b : Reg) (c : Option Reg) : Statement (.mulhu a b c) := every _
theorem div (a b : Reg) (c : Option Reg) : Statement (.div a b c) := every _
theorem divu (a b : Reg) (c : Option Reg) : Statement (.divu a b c) := every _
theorem rem (a b : Reg) (c : Option Reg) : Statement (.rem a b c) := every _
theorem remu (a b : Reg) (c : Option Reg) : Statement (.remu a b c) := every _
theorem and (a b : Reg) (c : Option Reg) : Statement (.and a b c) := every _
theorem andImm (a : Reg) (c : Option Reg) (i : Imm) : Statement (.andImm a c i) := every _
theorem or (a b : Reg) (c : Option Reg) : Statement (.or a b c) := every _
theorem orImm (a : Reg) (c : Option Reg) (i : Imm) : Statement (.orImm a c i) := every _
theorem xor (a b : Reg) (c : Option Reg) : Statement (.xor a b c) := every _
theorem xorImm (a : Reg) (c : Option Reg) (i : Imm) : Statement (.xorImm a c i) := every _
theorem sll (a b : Reg) (c : Option Reg) : Statement (.sll a b c) := every _
theorem srl (a b : Reg) (c : Option Reg) : Statement (.srl a b c) := every _
theorem sra (a b : Reg) (c : Option Reg) : Statement (.sra a b c) := every _
theorem rol (a b : Reg) (c : Option Reg) : Statement (.rol a b c) := every _
theorem bz (a : Reg) (o : Imm) : Statement (.bz a o) := every _
theorem beq (a : Reg) (c : Option Reg) (o : Imm) : Statement (.beq a c o) := every _
theorem bnz (a : Reg) (o : Imm) : Statement (.bnz a o) := every _
theorem bne (a : Reg) (c : Option Reg) (o : Imm) : Statement (.bne a c o) := every _
theorem blt (a : Reg) (c : Option Reg) (o : Imm) : Statement (.blt a c o) := every _
theorem bge (a : Reg) (c : Option Reg) (o : Imm) : Statement (.bge a c o) := every _
theorem bltu (a : Reg) (c : Option Reg) (o : Imm) : Statement (.bltu a c o) := every _
theorem bgeu (a : Reg) (c : Option Reg) (o : Imm) : Statement (.bgeu a c o) := every _
theorem j (o : Imm) : Statement (.j o) := every _
theorem jl (o : Imm) : Statement (.jl o) := every _
theorem jr (a : Reg) : Statement (.jr a) := every _
theorem jlr (a b : Reg) : Statement (.jlr a b) := every _
theorem slt (a b : Reg) (c : Option Reg) : Statement (.slt a b c) := every _
theorem sltu (a b : Reg) (c : Option Reg) : Statement (.sltu a b c) := every _
theorem seq (a b : Reg) (c : Option Reg) : Statement (.seq a b c) := every _
theorem sne (a b : Reg) (c : Option Reg) : Statement (.sne a b c) := every _
theorem ldgD (a b : Reg) (i : Imm) : Statement (.ldgD a b i) := every _
theorem ldgW (a b : Reg) (i : Imm) : Statement (.ldgW a b i) := every _
theorem ldgH (a b : Reg) (i : Imm) : Statement (.ldgH a b i) := every _
theorem ldgB (a b : Reg) (i : Imm) : Statement (.ldgB a b i) := every _
theorem stgD (a b : Reg) (i : Imm) : Statement (.stgD a b i) := every _
theorem stgW (a b : Reg) (i : Imm) : Statement (.stgW a b i) := every _
theorem stgH (a b : Reg) (i : Imm) : Statement (.stgH a b i) := every _
theorem stgB (a b : Reg) (i : Imm) : Statement (.stgB a b i) := every _
theorem sllImm (a : Reg) (c : Option Reg) (i : Imm) : Statement (.sllImm a c i) := every _
theorem srlImm (a : Reg) (c : Option Reg) (i : Imm) : Statement (.srlImm a c i) := every _
theorem sraImm (a : Reg) (c : Option Reg) (i : Imm) : Statement (.sraImm a c i) := every _
theorem ror (a b : Reg) (c : Option Reg) : Statement (.ror a b c) := every _
theorem rorImm (a : Reg) (c : Option Reg) (i : Imm) : Statement (.rorImm a c i) := every _
theorem clz (a b : Reg) : Statement (.clz a b) := every _
theorem ctz (a b : Reg) : Statement (.ctz a b) := every _
theorem popc (a b : Reg) : Statement (.popc a b) := every _
theorem bext (a b : Reg) (c : Option Reg) : Statement (.bext a b c) := every _
theorem bdep (a b : Reg) (c : Option Reg) : Statement (.bdep a b c) := every _
theorem sext (w : Width) (a : Reg) (c : Option Reg) : Statement (.sext w a c) := every _
theorem zext (w : Width) (a : Reg) (c : Option Reg) : Statement (.zext w a c) := every _
theorem sltImm (a : Reg) (c : Option Reg) (i : Imm) : Statement (.sltImm a c i) := every _
theorem ldfe (a b : Reg) (i : Imm) : Statement (.ldfe a b i) := every _
theorem ldff (a b : Reg) (i : Imm) : Statement (.ldff a b i) := every _
theorem stfe (a b : Reg) (i : Imm) : Statement (.stfe a b i) := every _
theorem stff (a b : Reg) (i : Imm) : Statement (.stff a b i) := every _
theorem ldx (a b : Reg) (i : Imm) : Statement (.ldx a b i) := every _
theorem fes (full : Bool) (b : Reg) (i : Imm) : Statement (.fes full b i) := every _
theorem lrq (a b : Reg) (i : Imm) : Statement (.lrq a b i) := every _
theorem scq (a b : Reg) (i : Imm) : Statement (.scq a b i) := every _
theorem amo (op : AmoOp) (a b c m : Reg) (xs : Option Scope) (uns : Bool) : Statement (.amo op a b c m xs uns) := every _
theorem amofAdd (a b c : Reg) (xs : Option Scope) : Statement (.amofAdd a b c xs) := every _
theorem amoxAdd (a b : Reg) (xs : Option Scope) : Statement (.amoxAdd a b xs) := every _
theorem amoxAddI (a b : Reg) (xs : Scope) : Statement (.amoxAddI a b xs) := every _
theorem rupd (a b : Reg) (i : Imm) (xs : Option Scope) : Statement (.rupd a b i xs) := every _
theorem chld (a b c : Reg) (n : Nat) : Statement (.chld a b c n) := every _
theorem chldFail (a b c : Reg) (n : Nat) : Statement (.chldFail a b c n) := every _
theorem ldext (w : Width) (a b : Reg) (i : Imm) : Statement (.ldext w a b i) := every _
theorem stext (w : Width) (a b : Reg) (i : Imm) : Statement (.stext w a b i) := every _
theorem ld (sp : Space) (w : Width) (a b : Reg) (i : Imm) : Statement (.ld sp w a b i) := every _
theorem st (sp : Space) (w : Width) (a b : Reg) (i : Imm) : Statement (.st sp w a b i) := every _
theorem ldm (w : Width) (a b : Reg) (i : Imm) : Statement (.ldm w a b i) := every _
theorem stm (w : Width) (a b : Reg) (i : Imm) : Statement (.stm w a b i) := every _
theorem lbf : Statement .lbf := every _
theorem rcfg (n : Fin 4) (b : Reg) : Statement (.rcfg n b) := every _
theorem rpop (a : Reg) (n : Fin 4) : Statement (.rpop a n) := every _
theorem rpopF (n : Fin 4) : Statement (.rpopF n) := every _
theorem rpush (a : Reg) (n : Fin 4) : Statement (.rpush a n) := every _
theorem rpushC (n : Fin 4) : Statement (.rpushC n) := every _
theorem qcfg (a b : Reg) : Statement (.qcfg a b) := every _
theorem qend (a : Reg) : Statement (.qend a) := every _
theorem qendRet : Statement .qendRet := every _
theorem evct (a b c : Reg) : Statement (.evct a b c) := every _
theorem rcll (a b c : Reg) : Statement (.rcll a b c) := every _
theorem start (a b : Reg) (i : Imm) : Statement (.start a b i) := every _
theorem spawn (a b : Reg) (i : Imm) : Statement (.spawn a b i) := every _
theorem spawnReg (a b c : Reg) (i : Imm) : Statement (.spawnReg a b c i) := every _
theorem quit : Statement .quit := every _
theorem park (a b : Reg) : Statement (.park a b) := every _
theorem yield : Statement .yield := every _
theorem sendm (a b c : Reg) : Statement (.sendm a b c) := every _
theorem wfm (a : Reg) : Statement (.wfm a) := every _
theorem migr (a b : Reg) : Statement (.migr a b) := every _
theorem gsig (a b : Reg) : Statement (.gsig a b) := every _
theorem gsigRun (a : Reg) : Statement (.gsigRun a) := every _
theorem rolq (a b : Reg) : Statement (.rolq a b) := every _
theorem rolqImm (a : Reg) (i : Imm) : Statement (.rolqImm a i) := every _
theorem vadd (q : VArith) (p : PReg) (d b : VReg) (x : VSrc) : Statement (.vadd q p d b x) := every _
theorem vsub (q : VArith) (p : PReg) (d b : VReg) (x : VSrc) : Statement (.vsub q p d b x) := every _
theorem vmul (q : VArith) (p : PReg) (d b : VReg) (x : VSrc) : Statement (.vmul q p d b x) := every _
theorem vfma (q : VArith) (p : PReg) (d b : VReg) (x : VSrc) (e : VReg) : Statement (.vfma q p d b x e) := every _
theorem vmin (q : VArith) (p : PReg) (d b : VReg) (x : VSrc) : Statement (.vmin q p d b x) := every _
theorem vmax (q : VArith) (p : PReg) (d b : VReg) (x : VSrc) : Statement (.vmax q p d b x) := every _
theorem vabs (q : VArith) (p : PReg) (d b : VReg) : Statement (.vabs q p d b) := every _
theorem vneg (q : VArith) (p : PReg) (d b : VReg) : Statement (.vneg q p d b) := every _
theorem vand (p : PReg) (d b : VReg) (x : VSrc) : Statement (.vand p d b x) := every _
theorem vor (p : PReg) (d b : VReg) (x : VSrc) : Statement (.vor p d b x) := every _
theorem vxor (p : PReg) (d b : VReg) (x : VSrc) : Statement (.vxor p d b x) := every _
theorem vnot (p : PReg) (d b : VReg) : Statement (.vnot p d b) := every _
theorem vshl (p : PReg) (d b : VReg) (x : VSrc) : Statement (.vshl p d b x) := every _
theorem vshr (p : PReg) (d b : VReg) (x : VSrc) : Statement (.vshr p d b x) := every _
theorem vsra (p : PReg) (d b : VReg) (x : VSrc) : Statement (.vsra p d b x) := every _
theorem vmov (p : PReg) (d b : VReg) : Statement (.vmov p d b) := every _
theorem vcmp (cc : VCond) (t : VType) (u : Bool) (p d : PReg) (b : VReg) (x : VSrc) : Statement (.vcmp cc t u p d b x) := every _
theorem vsel (p : PReg) (d b : VReg) (x : VSrc) : Statement (.vsel p d b x) := every _
theorem vrsum (q : VArith) (d : Reg) (p : PReg) (b : VReg) : Statement (.vrsum q d p b) := every _
theorem vrmax (q : VArith) (d : Reg) (p : PReg) (b : VReg) : Statement (.vrmax q d p b) := every _
theorem vrmin (q : VArith) (d : Reg) (p : PReg) (b : VReg) : Statement (.vrmin q d p b) := every _
theorem vperm (p : PReg) (d b c : VReg) : Statement (.vperm p d b c) := every _
theorem vbcst (p : PReg) (d : VReg) (b : Reg) : Statement (.vbcst p d b) := every _
theorem vext (d : Reg) (b : VReg) (n : Fin 32) : Statement (.vext d b n) := every _
theorem vins (d : VReg) (b : Reg) (n : Fin 32) : Statement (.vins d b n) := every _
theorem vcvt (rm : Rnd) (sat : Bool) (p : PReg) (d b : VReg) (df : VFmt) (du : Bool) (sf : VFmt) (su : Bool) : Statement (.vcvt rm sat p d b df du sf su) := every _
theorem vquant (t : VType) (m : Nat) (d b : VReg) (c : Reg) : Statement (.vquant t m d b c) := every _
theorem vdeq (t : VType) (m : Nat) (d b : VReg) (c : Reg) : Statement (.vdeq t m d b c) := every _
theorem vscale (t : VType) (m : Nat) (d : Reg) (b : VReg) : Statement (.vscale t m d b) := every _
theorem vcmpr (d b : VReg) (c : Reg) : Statement (.vcmpr d b c) := every _
theorem vexpd (d b : VReg) (c : Reg) : Statement (.vexpd d b c) := every _
theorem vexp2 (t : VType) (sat : Bool) (p : PReg) (d b : VReg) : Statement (.vexp2 t sat p d b) := every _
theorem vlog2 (t : VType) (sat : Bool) (p : PReg) (d b : VReg) : Statement (.vlog2 t sat p d b) := every _
theorem vrcp (t : VType) (sat : Bool) (p : PReg) (d b : VReg) : Statement (.vrcp t sat p d b) := every _
theorem vrsqrt (t : VType) (sat : Bool) (p : PReg) (d b : VReg) : Statement (.vrsqrt t sat p d b) := every _
theorem vtanh (t : VType) (sat : Bool) (p : PReg) (d b : VReg) : Statement (.vtanh t sat p d b) := every _
theorem vld (sp : Space) (w : Width) (u : Bool) (p : PReg) (d : VReg) (b : Reg) (i : Imm) : Statement (.vld sp w u p d b i) := every _
theorem vst (sp : Space) (w : Width) (p : PReg) (d : VReg) (b : Reg) (i : Imm) : Statement (.vst sp w p d b i) := every _
theorem pset (d : PReg) (b : Reg) : Statement (.pset d b) := every _
theorem pget (d : Reg) (b : PReg) : Statement (.pget d b) := every _
theorem mxfmt (d b : Reg) : Statement (.mxfmt d b) := every _
theorem mxz (a b : Reg) : Statement (.mxz a b) := every _
theorem mxm (a b : Reg) : Statement (.mxm a b) := every _
theorem mxms (a b : Reg) (c : VReg) : Statement (.mxms a b c) := every _
theorem mxg (a b : Reg) : Statement (.mxg a b) := every _
theorem mxdrn (a b : Reg) : Statement (.mxdrn a b) := every _
theorem mxcnt (d b : Reg) : Statement (.mxcnt d b) := every _
theorem mxthr (d b : Reg) : Statement (.mxthr d b) := every _
theorem jwait (d b : Reg) : Statement (.jwait d b) := every _
theorem jtest (d b : Reg) : Statement (.jtest d b) := every _
theorem jcanc (d b : Reg) : Statement (.jcanc d b) := every _
theorem cpy (a b : Reg) : Statement (.cpy a b) := every _
theorem cpyo (a b : Reg) : Statement (.cpyo a b) := every _
theorem mint (a b : Reg) : Statement (.mint a b) := every _
theorem mintT (a b : Reg) : Statement (.mintT a b) := every _
theorem sopen (x : Fin 4) (b : Reg) : Statement (.sopen x b) := every _
theorem sisect (x y : Fin 4) : Statement (.sisect x y) := every _
theorem sunion (x y : Fin 4) : Statement (.sunion x y) := every _
theorem sdiff (x y : Fin 4) : Statement (.sdiff x y) := every _
theorem smerge (x : Fin 4) (mask : Fin 16) : Statement (.smerge x mask) := every _
theorem snext (d : Reg) (x : Fin 4) : Statement (.snext d x) := every _
theorem scnt (d : Reg) (x : Fin 4) : Statement (.scnt d x) := every _
theorem scntA (d : Reg) (x : Fin 4) (c : Reg) : Statement (.scntA d x c) := every _
theorem sclose (d : Reg) (x : Fin 4) : Statement (.sclose d x) := every _
theorem ldnn (d b : Reg) : Statement (.ldnn d b) := every _
theorem stv (d b c : Reg) : Statement (.stv d b c) := every _
theorem dlv (d b c : Reg) : Statement (.dlv d b c) := every _
theorem ixver (d b : Reg) : Statement (.ixver d b) := every _
theorem ixsnap (d b : Reg) : Statement (.ixsnap d b) := every _
theorem fence (xs : Option Scope) : Statement (.fence xs) := every _
theorem barv (d b : Reg) : Statement (.barv d b) := every _
theorem barw (d b : Reg) : Statement (.barw d b) := every _
theorem barwT (d b : Reg) : Statement (.barwT d b) := every _
theorem bart (d b c : Reg) : Statement (.bart d b c) := every _
theorem sealq (d : Reg) : Statement (.sealq d) := every _
theorem sealw (d : Reg) : Statement (.sealw d) := every _
theorem ivn (d : Reg) : Statement (.ivn d) := every _
theorem ivnRb (d : Reg) : Statement (.ivnRb d) := every _
theorem csrr (d : Reg) (i : Imm) : Statement (.csrr d i) := every _
theorem csrw (a : Reg) (i : Imm) : Statement (.csrw a i) := every _
theorem csrs (a : Reg) (i : Imm) : Statement (.csrs a i) := every _
theorem csrc (a : Reg) (i : Imm) : Statement (.csrc a i) := every _
theorem tret : Statement .tret := every _
theorem dbgi (a b c : Reg) : Statement (.dbgi a b c) := every _
theorem tlbw (a b c : Reg) : Statement (.tlbw a b c) := every _
theorem tlbi (a b c : Reg) : Statement (.tlbi a b c) := every _
theorem tlbiAll (a c : Reg) : Statement (.tlbiAll a c) := every _
theorem tlbp (d b : Reg) : Statement (.tlbp d b) := every _
theorem dbq : Statement .dbq := every _
theorem launchRecord : Statement .launchRecord := every _
theorem admission : Statement .admission := every _
theorem launchStart : Statement .launchStart := every _
theorem runRequest : Statement .runRequest := every _
theorem armInstance : Statement .armInstance := every _
theorem completionSignal : Statement .completionSignal := every _
theorem arborDispatch : Statement .arborDispatch := every _
theorem place : Statement .place := every _
theorem reply : Statement .reply := every _
theorem mailboxMessage : Statement .mailboxMessage := every _
theorem wakeMessage : Statement .wakeMessage := every _
theorem xlatMessage : Statement .xlatMessage := every _
theorem shootMessage : Statement .shootMessage := every _
theorem recallMessage : Statement .recallMessage := every _
theorem sysMessage : Statement .sysMessage := every _
theorem drainAck : Statement .drainAck := every _
theorem retireForwarding : Statement .retireForwarding := every _
theorem parkTimeout : Statement .parkTimeout := every _
theorem contextShipment : Statement .contextShipment := every _
theorem freeMessage : Statement .freeMessage := every _
theorem lineFill : Statement .lineFill := every _
theorem storeBufferInject : Statement .storeBufferInject := every _
theorem tauStore : Statement .tauStore := every _
theorem storeAck : Statement .storeAck := every _
theorem tauRead : Statement .tauRead := every _
theorem feRequest : Statement .feRequest := every _
theorem fetmoTimeout : Statement .fetmoTimeout := every _
theorem lrqRequest : Statement .lrqRequest := every _
theorem scqRequest : Statement .scqRequest := every _
theorem amoRequest : Statement .amoRequest := every _
theorem amofRequest : Statement .amofRequest := every _
theorem amoxRequest : Statement .amoxRequest := every _
theorem update : Statement .update := every _
theorem updateAck : Statement .updateAck := every _
theorem chldStep : Statement .chldStep := every _
theorem escrowAccept : Statement .escrowAccept := every _
theorem escrowLinkAccept : Statement .escrowLinkAccept := every _
theorem mWrite : Statement .mWrite := every _
theorem mRead : Statement .mRead := every _
theorem queueTransfer : Statement .queueTransfer := every _
theorem copyJob : Statement .copyJob := every _
theorem copyoJob : Statement .copyoJob := every _
theorem mintJob : Statement .mintJob := every _
theorem mintTableJob : Statement .mintTableJob := every _
theorem tlbwInstall : Statement .tlbwInstall := every _
theorem mxmJob : Statement .mxmJob := every _
theorem mxmsJob : Statement .mxmsJob := every _
theorem mxgJob : Statement .mxgJob := every _
theorem mxdrnJob : Statement .mxdrnJob := every _
theorem mxzJob : Statement .mxzJob := every _
theorem streamRead : Statement .streamRead := every _
theorem mergeStep : Statement .mergeStep := every _
theorem ldnnAccept : Statement .ldnnAccept := every _
theorem stvAccept : Statement .stvAccept := every _
theorem dlvAccept : Statement .dlvAccept := every _
theorem ixverAccept : Statement .ixverAccept := every _
theorem ixsnapAccept : Statement .ixsnapAccept := every _
theorem candidateExpansion : Statement .candidateExpansion := every _
theorem publish : Statement .publish := every _
theorem groveReply : Statement .groveReply := every _
theorem arrive : Statement .arrive := every _
theorem barwRequest : Statement .barwRequest := every _
theorem sealTimer : Statement .sealTimer := every _
theorem sealRequest : Statement .sealRequest := every _
theorem prep : Statement .prep := every _
theorem save : Statement .save := every _
theorem saved : Statement .saved := every _
theorem commit : Statement .commit := every _
theorem rollbackTrigger : Statement .rollbackTrigger := every _
theorem rollback : Statement .rollback := every _
theorem stampSweep : Statement .stampSweep := every _
theorem preemption : Statement .preemption := every _
theorem contextStreamComplete : Statement .contextStreamComplete := every _
theorem readmission : Statement .readmission := every _
theorem retirement : Statement .retirement := every _
theorem wdkick : Statement .wdkick := every _
theorem kickTimeout : Statement .kickTimeout := every _
theorem coreHang : Statement .coreHang := every _
theorem sealHang : Statement .sealHang := every _
theorem retrainChannel : Statement .retrainChannel := every _
theorem repairLane : Statement .repairLane := every _
theorem hcmdComplete : Statement .hcmdComplete := every _
theorem marginUpdate : Statement .marginUpdate := every _
theorem refresh : Statement .refresh := every _
theorem scrubVisit : Statement .scrubVisit := every _
theorem selfRefreshEntry : Statement .selfRefreshEntry := every _
theorem patdataWrite : Statement .patdataWrite := every _
theorem createQueue : Statement .createQueue := every _
theorem removeQueue : Statement .removeQueue := every _
theorem setWindow : Statement .setWindow := every _
theorem assignFrames : Statement .assignFrames := every _
theorem releaseFrames : Statement .releaseFrames := every _
theorem switchOut : Statement .switchOut := every _
theorem switchIn : Statement .switchIn := every _
theorem moveRole : Statement .moveRole := every _
theorem readMapping : Statement .readMapping := every _
theorem hostMemRead : Statement .hostMemRead := every _
theorem hostMemWrite : Statement .hostMemWrite := every _
theorem verifyAndStart : Statement .verifyAndStart := every _
theorem verifyAndSwap : Statement .verifyAndSwap := every _
theorem firmwareVerification : Statement .firmwareVerification := every _
theorem queueSafePoint : Statement .queueSafePoint := every _
theorem reset : Statement .reset := every _
theorem getMeasurements : Statement .getMeasurements := every _
theorem lock : Statement .lock := every _
theorem startRequest : Statement .startRequest := every _
theorem stop : Statement .stop := every _
theorem getDeviceInterfaceReport : Statement .getDeviceInterfaceReport := every _
theorem vfConfigWrite : Statement .vfConfigWrite := every _
theorem dxsys : Statement .dxsys := every _
theorem registerWrite : Statement .registerWrite := every _
theorem frame : Statement .frame := every _
theorem linkDown : Statement .linkDown := every _
theorem portBringUp : Statement .portBringUp := every _
theorem rekey : Statement .rekey := every _
theorem routingTableLoad : Statement .routingTableLoad := every _
theorem activate : Statement .activate := every _
theorem drain : Statement .drain := every _
theorem retire : Statement .retire := every _
theorem join : Statement .join := every _
theorem capperWindow : Statement .capperWindow := every _
theorem thermalTrip : Statement .thermalTrip := every _
theorem ageingMonitorUpdate : Statement .ageingMonitorUpdate := every _
theorem replan : Statement .replan := every _
theorem illegalInstruction : Statement .illegalInstruction := every _
theorem corePowerGating : Statement .corePowerGating := every _
theorem powerDown : Statement .powerDown := every _
theorem temperatureReading : Statement .temperatureReading := every _
theorem unknownAdminOpcode : Statement .unknownAdminOpcode := every _
theorem spdmRequest : Statement .spdmRequest := every _

end Sys2Proof.Laws.LengthFromWords
end

