-- ==== Sys2Proof/Tests/Slice0.lean ====
section
/-!
SUPPORT. The tests: words written out from the spec's encoding tables, terms that WellFormed refuses, single steps with
results worked by hand from the spec, and for each statement of the Obligations a witness of its hypotheses.
-/
namespace Sys2Proof.Tests
open Sys2Proof Sys2Proof.Machine

/-! ## Decoding: words of the spec's examples and of its tables, by page -/

-- R36: `add g4, g5, #1000`; its words in another order are refused at the XR word
theorem test_decode_add_imm : decode [0xF4A0, 0xF01F, 0x1488] = .ok (.addImm 4 (some 5) ⟨1, 1000⟩) 3 := by decide
theorem test_decode_prefix_order : decode [0xF01F, 0xF4A0, 0x1488] = .bad 1 := by decide
-- R37, R101: class R without and with XR, and a destination of 30
theorem test_decode_div : decode [0xF500, 0x28C7] = .ok (.div 6 7 (some 8)) 2 := by decide
theorem test_decode_to_g30 : decode [0x17C2] = .bad 0 := by decide
-- R37 classes B, J, JR, M, X: `bz g3, -1`, `jl +5`, `jlr g28, g9`, `ldg.d g4, [g5]`, `zext.h g4`
theorem test_decode_branches : (decode [0x607F], decode [0x8405]) = (.ok (.bz 3 ⟨0, -1⟩) 1, .ok (.jl ⟨0, 5⟩) 1) := by decide
-- R40: `ldfe g10, [g8]`; its base word alone is illegal
theorem test_decode_ldfe : decode [0xF840, 0x0148] = .ok (.ldfe 10 8 ⟨0, 0⟩) 2 := by decide
theorem test_decode_no_page : decode [0x0148] = .bad 0 := by decide
-- R139: `amo.cas.dev g4, [g5], g6, g7`; without its XR word it is illegal
theorem test_decode_amo : decode [0xF847, 0xFD80, 0xF4C7, 0x2085] = .ok (.amo .cas 4 5 6 7 (some .dev) false) 4 := by decide
theorem test_decode_amo_no_xr : decode [0xF847, 0xFD80, 0x2085] = .bad 2 := by decide
-- R165: `ld.a.w g4, [g5]`: space A, width 2; `rpush.c #2`; `qend.ret`
theorem test_decode_ld : decode [0xF889, 0x0085] = .ok (.ld .a .w 4 5 ⟨0, 0⟩) 2 := by decide
theorem test_decode_ring : (decode [0xF880, 0x1C06], decode [0xF880, 0x2401]) = (.ok (.rpushC 2) 2, .ok .qendRet 2) := by decide
-- R78: (F1.4) `spawn g11, cl:5, worker, g4`
theorem test_decode_spawn : decode [0xF8C0, 0xF001, 0xF110, 0xF005, 0x0564] = .ok (.spawn 11 4 ⟨3, 0x144005⟩) 5 := by decide
-- R192: `vmul.f32`, `vrsum.f32`, `vld.a.w`, `vquant.f32 v3, v2, g4, #4`
theorem test_decode_vmul :
    decode [0xF910, 0xF440, 0x0861] = .ok (.vmul ⟨.f32, .rne, false, false⟩ 0 3 1 (.vec 2)) 3 := by decide
theorem test_decode_vquant : decode [0xF914, 0xF480, 0x6862] = .ok (.vquant .f32 4 3 2 4) 3 := by decide
-- R225, R178: (F1.6), (F11.1) and `cpy g14, g16`
theorem test_decode_matrix : (decode [0xF940, 0x09D0], decode [0xF940, 0x21EE]) = (.ok (.mxm 14 16) 2, .ok (.jwait 15 14) 2) :=
  by decide
theorem test_decode_copy : decode [0xF940, 0x2DD0] = .ok (.cpy 14 16) 2 := by decide
-- R237: `sisect 0, 1` and `scnt g8, 0`
theorem test_decode_stream : (decode [0xF980, 0x0401], decode [0xF980, 0x1900]) = (.ok (.sisect 0 1) 2, .ok (.scnt 8 0) 2) :=
  by decide
-- R250: `stv g4, g5, g6`: XP page 7, XR c = 6, opcode 0x01
theorem test_decode_grove : decode [0xF9C0, 0xF4C0, 0x0485] = .ok (.stv 4 5 6) 3 := by decide
-- R264, R280: `fence.dev`, `barw.t g6, g5`; R299: `sealq g4`, `ivn.rb g6`
theorem test_decode_fence : decode [0xFA00, 0xFD80, 0x0000] = .ok (.fence (some .dev)) 3 := by decide
theorem test_decode_barw : decode [0xFA00, 0xF401, 0x08C5] = .ok (.barwT 6 5) 3 := by decide
theorem test_decode_seals : (decode [0xFA00, 0x1080], decode [0xFA00, 0x18C1]) = (.ok (.sealq 4) 2, .ok (.ivnRb 6) 2) := by decide
-- R307: `csrr g4, ccnt`, `tret`; R182: `tlbi.all g4, g5`
theorem test_decode_csrr : decode [0xFA40, 0xF008, 0x0089] = .ok (.csrr 4 ⟨1, 0x109⟩) 3 := by decide
theorem test_decode_tlbi : decode [0xFA40, 0xF4A1, 0x1C80] = .ok (.tlbiAll 4 5) 3 := by decide

/-! ## Terms that are not instructions -/

-- R8: an immediate that its words do not hold; R37, R100: a destination of 30; R103: a shift amount of 64
theorem test_illformed_immediate : (Instr.addImm 4 none ⟨0, 16⟩).wf = false := by decide
theorem test_illformed_five_words : (Instr.addImm 4 (some 5) ⟨4, 0⟩).wf = false := by decide
theorem test_illformed_destination : (Instr.add 30 1 none).wf = false := by decide
theorem test_illformed_shift : (Instr.sllImm 4 none ⟨1, 64⟩).wf = false := by decide
theorem test_illformed_offset : (Instr.j ⟨0, 512⟩).wf = false := by decide
theorem test_illformed_extension : (Instr.sext .d 4 none).wf = false := by decide
-- R139: register pairs, step registers, `amo` modifiers; R78: a role code of 17 bits
theorem test_illformed_pair : (Instr.ldx 27 1 ⟨0, 0⟩).wf = false := by decide
theorem test_illformed_steps : (Instr.chld 1 2 27 2).wf = false := by decide
theorem test_illformed_amo : (Instr.amo .add 4 5 6 7 none false).wf = false := by decide
theorem test_illformed_unsigned : (Instr.amo .add 4 5 6 0 (some .dev) true).wf = false := by decide
theorem test_illformed_role : (Instr.rolqImm 4 ⟨2, 0x10000⟩).wf = false := by decide
theorem test_illformed_displacement : (Instr.ldfe 4 5 ⟨0, 8⟩).wf = false := by decide
-- R190 to R201: types, roundings, block widths; R233: a head that captures itself; R306: a CSR that no table lists
theorem test_illformed_rounding : (Instr.vmin ⟨.f32, .rtz, false, false⟩ 0 1 2 .short).wf = false := by decide
theorem test_illformed_compare : (Instr.vcmp .uo .i32 false 0 1 2 (.vec 3)).wf = false := by decide
theorem test_illformed_block : (Instr.vscale .f32 9 4 2).wf = false := by decide
theorem test_illformed_approx : (Instr.vexp2 .i32 false 0 1 2).wf = false := by decide
theorem test_illformed_lane_width : (Instr.vld .a .d false 0 1 5 ⟨0, 0⟩).wf = false := by decide
theorem test_illformed_head : ((Instr.sisect 1 1).wf, (Instr.smerge 1 2).wf) = (false, false) := by decide
theorem test_illformed_csr : (Instr.csrr 4 ⟨0, 9⟩).wf = false := by decide
theorem test_illformed_descriptor : (Instr.mxg 4 24).wf = false := by decide

/-! ## Small states -/

/-- An image whose code stands at 0x10000, with its trap entry 0x40 above. -/
def img0 : Image :=
  { codeBase := 0x10000, codeSize := 64, codeOff := 0, dataBase := 0, dataSize := 0, dataOff := 0, heapBase := 0
    heapPages := 0, trapEntry := some 0x40, nCl := 2, nDv := 2, nDm := 1, roles := [], links := [], graphs := []
    bufs := [], idxs := [] }
def launch0 : Launch :=
  { rcd := default, seq := 0, img := img0, iface := 0, table := 144 * 2 ^ 26, clusters := [0], tellers := [], pages := []
    frames := [], djob := none, stage := .running, stale := 0, graphs := [], ready := [], frozen := false
    poisoned := false, foreign := false, abandon := false, paused := false, ifErr := false
    savCores := [], savCls := [], savGuest := [], save := [], sealIvl := none, todo := none, loads := [], names := [] }
def thread0 : Thread := { Thread.reset 0 with st := .live, pc := 0x1000, tvec := 0x2000, launch := some 3 }
/-- The page 0x2000 stands in the first frame of program memory. -/
def page0 : TlbEnt := ⟨0x2001, 0x2C0000003, none⟩
def core0 : Core := { Core.reset with slots := [(0, thread0)], launch := some 3, tlb := [(0, page0)] }
/-- Slot 0 of core 0 runs a launch on cluster 0; frame 176 is its interface's, and its sixth word at 0x2C0000040 is 0x807. -/
def s0 : State :=
  { State.reset with
    cur := ⟨0, 0⟩, cores := [(0, core0)], clusters := [(0, { Cluster.reset with launch := some 3 })]
    launches := [(3, launch0)], pat := [(176, ⟨0, false⟩)], mem := [(0x2C0000040, 7), (0x2C0000041, 8)] }
def pa0 : Nat := 0x2C0000040
/-- General registers set. -/
def regs (s : State) (l : List (Reg × Word)) : State :=
  l.foldl (fun s e => modMe s (fun t => { t with g := t.g.set e.1 e.2 })) s
/-- A word of memory empty. -/
def emptied (s : State) : State := { s with feEmpty := [pa0 / 8] }
/-- A core with a queue on each side: one data entry in `qi`, room in `qo`. -/
def sq : State := modMyCore s0 (fun x => { x with up := [⟨5, false⟩], upLink := some 2, downLink := some 1 })
/-- The general register of the running thread after a step. -/
def after (o : Host.Outcome State Fault Refusal) (r : Reg) : Option Word :=
  match o with
  | .next t => some (rd t r)
  | _ => none
def pcAfter (o : Host.Outcome State Fault Refusal) : Option Word :=
  match o with
  | .next t => some (me t).pc
  | _ => none
def causeAfter (o : Host.Outcome State Fault Refusal) : Option (Word × Word) :=
  match o with
  | .next t => some ((me t).tcause, (me t).tval)
  | _ => none

/-! ## Single steps, with results from the spec's examples -/

-- R102: `div` of -7 by 2 gives -3, `rem` -1; `divu` of 7 by 0 gives all ones, `remu` 7
theorem test_div : after (exec (.div 4 5 (some 6)) (regs s0 [(5, -7), (6, 2)])) 4 = some (-3) := by decide
theorem test_rem : after (exec (.rem 4 5 (some 6)) (regs s0 [(5, -7), (6, 2)])) 4 = some (-1) := by decide
theorem test_divu_zero : after (exec (.divu 4 5 (some 6)) (regs s0 [(5, 7)])) 4 = some 0xFFFFFFFFFFFFFFFF := by decide
theorem test_remu_zero : after (exec (.remu 4 5 (some 6)) (regs s0 [(5, 7)])) 4 = some 7 := by decide
-- R96: a source that is also the destination; g0 discards
theorem test_add_to_g0 : after (exec (.add 0 5 (some 5)) (regs s0 [(5, 3)])) 0 = some 0 := by decide
theorem test_add_same : after (exec (.add 5 5 (some 5)) (regs s0 [(5, 3)])) 5 = some 6 := by decide
-- R108: `jlr g5, g5` jumps to the old value; an odd target traps and writes no link
theorem test_jlr_same : pcAfter (exec (.jlr 5 5) (regs s0 [(5, 0x2000)])) = some 0x2000 := by decide
theorem test_jr_odd : causeAfter (exec (.jr 5) (regs s0 [(5, 0x2001)])) = some (2, 0x2001) := by decide
-- R305: `tret` outside a handler takes trap 0x01 with its own address
theorem test_tret : causeAfter (exec .tret s0) = some (1, 0x1000) := by decide
-- R138: a misaligned load traps with the address
theorem test_ldg_misaligned : causeAfter (exec (.ldgW 4 5 ⟨0, 2⟩) (regs s0 [(5, 0x2040)])) = some (2, 0x2042) := by decide
-- R307: `csrr` of a firmware CSR without FW takes trap 0x0F with its number
theorem test_csrr_firmware : causeAfter (exec (.csrr 4 ⟨1, 0x180⟩) s0) = some (0x0F, 0x180) := by decide

/-! ## The hypotheses of the statements can be met -/

/-- Queues are ready at an instruction that names none, and at one that names both. -/
theorem plain (s : State) {srcs dsts : List Reg} (h : ((30 : Reg) ∉ srcs ∧ (31 : Reg) ∉ dsts)) : QueuesReady s srcs dsts :=
  queuesReady_of_plain s h.1 h.2
theorem queues_ready : QueuesReady sq [30, 5] [31] :=
  ⟨fun _ => ⟨_, _, rfl, rfl⟩, fun _ => ⟨⟨_, rfl⟩, by decide⟩⟩

theorem witness_ArithmeticResults : QueuesReady sq [srcX 31 30 (some 5), srcY 30 (some 5)] [31]
    ∧ QueuesReady s0 [srcX 4 5 none, srcY 5 none] [4] := ⟨queues_ready, plain s0 (by decide)⟩
theorem witness_LogicAndShiftResults : QueuesReady sq [30] [31] ∧ QueuesReady s0 [srcX 4 5 (some 6), srcY 5 (some 6)] [4] :=
  ⟨⟨fun _ => ⟨_, _, rfl, rfl⟩, fun _ => ⟨⟨_, rfl⟩, by decide⟩⟩, plain s0 (by decide)⟩
theorem witness_BitFieldResults : QueuesReady sq [30] [31] ∧ QueuesReady s0 [srcX 4 5 (some 6), srcY 5 (some 6)] [4] :=
  ⟨⟨fun _ => ⟨_, _, rfl, rfl⟩, fun _ => ⟨⟨_, rfl⟩, by decide⟩⟩, plain s0 (by decide)⟩
theorem witness_ImmediateAndMoveResults : QueuesReady sq [] [31] ∧ QueuesReady s0 [5, 6, 7] [4]
    ∧ QueuesReady sq [(some 30).getD 4] [4] ∧ (0 : Int) ≤ (⟨2, 63⟩ : Imm).v ∧ (⟨2, 63⟩ : Imm).v ≤ 63 :=
  ⟨⟨fun h => by simp at h, fun _ => ⟨⟨_, rfl⟩, by decide⟩⟩, plain s0 (by decide),
    ⟨fun _ => ⟨_, _, rfl, rfl⟩, fun h => by simp at h⟩, by decide, by decide⟩
theorem witness_BranchesAndJumps :
    let s := regs s0 [(5, 0x2000), (6, 0x2001)]
    QueuesReady s [5] [] ∧ QueuesReady s [5] [28] ∧ (rd s 5).getLsbD 0 = false ∧ QueuesReady s [6, 5] []
    ∧ (rd s 6).getLsbD 0 = true ∧ QueuesReady s [6] [] := by
  refine ⟨plain _ (by decide), plain _ (by decide), by decide, plain _ (by decide), by decide, plain _ (by decide)⟩
theorem witness_OddJumpTraps : (rd (regs s0 [(5, 1)]) 5).getLsbD 0 = true ∧ QueuesReady (regs s0 [(5, 1)]) [5] []
    ∧ QueuesReady (regs s0 [(5, 1)]) [5] [4] := ⟨by decide, plain _ (by decide), plain _ (by decide)⟩
/-- The statement has no hypotheses; its clauses meet each of the ways a trap is taken. -/
theorem witness_TrapEntry : (me s0).tvec ≠ 0 ∧ (me s0).th = false
    ∧ (me (modMe s0 (fun t => { t with tvec := 0 }))).launch = some 3
    ∧ (me (modMe s0 (fun t => { t with th := true }))).th = true := by decide
theorem witness_ExplicitTraps : (myCore s0).bkh = false ∧ (myCore (modMyCore s0 (fun x => { x with bkh := true }))).bkh = true :=
  by decide
theorem witness_TretReturns : (me s0).th = false ∧ (me (modMe s0 (fun t => { t with th := true }))).th = true := by decide
theorem witness_QueueRules :
    pageZeroRegister (.add 31 30 none) = true ∧ (30 : Reg) ∈ srcsOf (.mov 4 30) ∧ (31 : Reg) ∈ dstsOf (.mov 31 5)
    ∧ (myCore s0).up = [] ∧ (myCore s0).upLink = none ∧ (myCore s0).downLink = none
    ∧ (myCore (modMyCore sq (fun x => { x with up := [] }))).upLink ≠ none
    ∧ ¬ ((myCore (modMyCore sq (fun x => { x with qoHeld := 16 }))).down.length
        + (myCore (modMyCore sq (fun x => { x with qoHeld := 16 }))).qoHeld < 16)
    ∧ (myCore (modMyCore sq (fun x => { x with up := [⟨9, true⟩] }))).up = [⟨9, true⟩]
    ∧ (me s0).qhv = 0 ∧ (me (modMe s0 (fun t => { t with qhv := 0x40 }))).qh = false := by decide
theorem witness_PageZeroFrame : pageZeroRegister (.bz 30 ⟨0, 1⟩) = true ∧ ∃ t, exec (.bz 30 ⟨0, 1⟩) sq = .next t :=
  ⟨rfl, _, rfl⟩

/-! ### Device memory -/

theorem finds0 : Finds (regs s0 [(5, 0x2040)]) 0x2040 8 needRW pa0 := ⟨by decide, by decide, by decide⟩
theorem serves0 : TauServes s0 (some 3) pa0 := ⟨by decide, by decide, by decide, by decide⟩
/-- A store of a word at 0x2040 stands in the store buffer. -/
def entry0 : SbEntry := ⟨0, 0, some 3, pa0, .d, 0x55, false⟩
def sb : State := modMyCore (regs s0 [(5, 0x2040)]) (fun x => { x with sbuf := [entry0] })

/-- The request of the running thread for the word at `pa0`. -/
def req0 : TauReq := ⟨.thr ⟨0, 0⟩, some 3, 0x2040, pa0⟩
theorem memOk0 : State.MemOk s0 := by unfold State.MemOk; decide
theorem holds0 : Holds s0 pa0 8 0x807 := by
  have h : (0x807 : Word) = physRead s0 pa0 8 := by decide
  rw [h]; exact holds_physRead s0 pa0 8 (by decide)
theorem fenceOpen0 {s : State} {sc : Scope} (hw : (me s).wait = .none) (h : drained s s.cur (fenceDrain s s.cur sc) = true) :
    FenceOpen s sc := ⟨fun c => by simp [hw], h⟩

theorem witness_LoadsOfSpaceG :
    let s := regs s0 [(5, 0x2040), (6, 0x2042)]
    let noR := modMyCore s (fun x => { x with tlb := [(0, ⟨0x2001, 0x2C0000002, none⟩)] })
    QueuesReady s [5] [4] ∧ Finds s 0x2040 8 needR pa0
    ∧ (rd s 6).toNat % 4 ≠ 0 ∧ (rd noR 5).toNat % 8 = 0 ∧ translate noR noR.cur (rd noR 5) needR = .trap 0x05
    ∧ translate sb sb.cur 0x2040 needR = .pa pa0 ∧ (myCore sb).sbuf = [] ++ entry0 :: []
    ∧ entry0.pa ≤ pa0 + 7 ∧ pa0 + 7 + 1 ≤ entry0.pa + wbytes entry0.width := by
  refine ⟨plain _ (by decide), ⟨by decide, by decide, by decide⟩, by decide⟩
theorem witness_StoresOfSpaceG :
    let s := regs s0 [(5, 0x2040), (6, 0x2041)]
    let full := modMyCore s (fun x => { x with sbuf := List.replicate 32 entry0 })
    QueuesReady s [5, 4] [] ∧ QueuesReady full [5, 4] [] ∧ (rd s 6).toNat % 2 ≠ 0 ∧ translate s s.cur 0x2040 needW = .pa pa0
    ∧ (myCore s).sbuf.length < 32 ∧ translate full full.cur 0x2040 needW = .pa pa0 ∧ 32 ≤ (myCore full).sbuf.length := by
  refine ⟨plain _ (by decide), plain _ (by decide), by decide⟩
theorem witness_StoreBufferDrains : (Machine.core sb 0).sbuf = [] ++ entry0 :: [] ∧ entry0.sent = false
    ∧ (∀ d ∈ ([] : List SbEntry), d.sent = true) ∧ (∀ d ∈ ([] ++ [] : List SbEntry), d.id ≠ entry0.id) := by decide
theorem witness_TauLoadsAndStores : State.MemOk s0 ∧ TauServes s0 req0.launch req0.pa ∧ TauServes s0 none (pa0 + 1) :=
  ⟨memOk0, serves0, ⟨by decide, by decide, by decide, by decide⟩⟩
theorem witness_TauRefusals : fget s0.errs (sectorOf pa0) = none
    ∧ tauRefuses { s0 with poison := [pa0 / 32] } (some 3) pa0 = some .poison
    ∧ tauRefuses { s0 with pat := [(176, ⟨0, true⟩)] } (some 3) pa0 = some .guard
    ∧ tauRefuses { s0 with pat := [(176, ⟨1, false⟩)] } (some 3) pa0 = some .foreign := by decide
theorem witness_FullEmptyTable : State.MemOk s0 ∧ req0.pa % 8 = 0 ∧ TauServes s0 req0.launch req0.pa
    ∧ waitersOf s0 (req0.pa / 8) = [] ∧ Holds s0 req0.pa 8 0x807 ∧ isFull s0 req0.pa = true
    ∧ TauServes (emptied s0) req0.launch req0.pa ∧ waitersOf (emptied s0) (req0.pa / 8) = []
    ∧ isFull (emptied s0) req0.pa = false :=
  ⟨memOk0, by decide, serves0, by decide, holds0, by decide, ⟨by decide, by decide, by decide, by decide⟩, by decide, by decide⟩
theorem witness_FullEmptyWaits : TauServes (emptied s0) req0.launch req0.pa ∧ waitFull (emptied s0) req0.pa = false
    ∧ isFull (emptied s0) req0.pa = false ∧ TauServes s0 req0.launch req0.pa ∧ waitFull s0 req0.pa = false
    ∧ isFull s0 req0.pa = true :=
  ⟨⟨by decide, by decide, by decide, by decide⟩, by decide, by decide, serves0, by decide, by decide⟩
theorem witness_SynchronisingRequests :
    let s := regs s0 [(5, 0x2040)]
    let held := modMe s (fun t => { t with resv := some (0, pa0 / 8) })
    QueuesReady s [5] [4] ∧ Finds s 0x2040 8 needRW pa0 ∧ Finds s 0x2040 8 needR pa0 ∧ Finds s 0x2040 8 needW pa0
    ∧ Finds s 0x2040 4 needRW pa0 ∧ Finds s 0x2040 16 needRW pa0 ∧ (me s).resv = none
    ∧ (me held).resv = some (held.fab.modnum, pa0 / 8) ∧ FenceOpen held .dom ∧ QueuesReady held [5, 4] [] ∧ Finds held 0x2040 8 needW pa0
    ∧ FenceOpen s .cl := by
  refine ⟨plain _ (by decide), ⟨by decide, by decide, by decide⟩, ⟨by decide, by decide, by decide⟩,
    ⟨by decide, by decide, by decide⟩, ⟨by decide, by decide, by decide⟩, ⟨by decide, by decide, by decide⟩, by decide,
    by decide, fenceOpen0 rfl (by decide), plain _ (by decide), ⟨by decide, by decide, by decide⟩,
    fenceOpen0 rfl (by decide)⟩
theorem witness_AtomicsAtTheTau : State.MemOk s0 ∧ TauServes s0 req0.launch req0.pa ∧ Holds s0 req0.pa 8 0x807 :=
  ⟨memOk0, serves0, holds0⟩
theorem witness_NumberAtomicsAtTheTau : TauServes s0 req0.launch req0.pa ∧ Holds s0 req0.pa 4 0x807
    ∧ ∀ k, k < 16 → (0x807 : BitVec 128).extractLsb' (8 * k) 8 = devByte s0 (req0.pa + k) := by
  refine ⟨serves0, ?_, fun k hk => by interval_cases k <;> rfl⟩
  have h : (0x807 : Word) = physRead s0 pa0 4 := by decide
  rw [h]; exact holds_physRead s0 pa0 4 (by decide)
theorem witness_ReservationQueue :
    let next : Resv := ⟨⟨0, 1⟩, ⟨.thr ⟨0, 1⟩, some 3, 0x2040, pa0⟩, 4, none, 0⟩
    let s := { s0 with resvs := [(pa0 / 8, [⟨⟨0, 0⟩, req0, 4, none, 0⟩, next])] }
    State.MemOk s ∧ req0.pa % 8 = 0 ∧ TauServes s req0.launch req0.pa ∧ Holds s req0.pa 8 0x807
    ∧ s.sl.sleinj.toNat % 2 = 0 ∧ 128 ≤ frameOf req0.pa ∧ (∀ k, k < 8 → keptByte s (req0.pa + k) = none)
    ∧ waitFull s req0.pa = false ∧ (resvOf s (pa0 / 8)).tail = [next] ∧ tauRefuses s next.req.launch req0.pa = none
    ∧ waitFull s0 req0.pa = false
    ∧ resvOf s0 (pa0 / 8) = [] :=
  ⟨memOk0, by decide, ⟨by decide, by decide, by decide, by decide⟩, holds0, by decide, by decide,
    fun k hk => by interval_cases k <;> rfl, by decide⟩

/-- The running thread waits for an answer. -/
def asking (pushes : Bool) : State := modMe s0 (fun t => { t with wait := .reply 2 none pushes .dflt })
theorem witness_ReplyCompletes :
    (thr (asking false) ⟨0, 0⟩).wait = .reply 2 none false .dflt ∧ (thr (asking true) ⟨0, 0⟩).wait = .reply 2 none true .dflt
    ∧ (∀ e ∈ [((4 : Reg), (5 : Word))], e.1 ≠ 0 ∧ e.1 ≠ 31) ∧ (thr (asking false) ⟨0, 0⟩).th = false
    ∧ (thr (asking false) ⟨0, 0⟩).tvec ≠ 0 ∧ (thr s0 ⟨0, 0⟩).wait = .none :=
  ⟨rfl, rfl, by simp, rfl, by decide, rfl⟩
theorem witness_WaitLimitTraps :
    let w := Waiter.fe req0 .ldfe 0 4 (some 10) 3
    let s := { s0 with waits := [(pa0 / 8, [w])], cycle := 14 }
    s.waits = [(pa0 / 8, [w])] ∧ req0.rto = .thr ⟨0, 0⟩ ∧ 10 < s.cycle - 3 := by
  decide
theorem witness_RemoteUpdates :
    let s := modMe (regs s0 [(5, 0x2040)]) (fun t => { t with rupdOut := 254 })
    QueuesReady s [5, 4, regUp 4 1, regUp 4 2, regUp 4 3] [] ∧ translate s s.cur (rd s 5) needR = .pa pa0
    ∧ (me s).rupdOut < 255 ∧ freeGuest (Machine.core s (tellerOf pa0)) s.cycle = some 11 := by
  refine ⟨plain _ (by decide), by decide⟩
theorem witness_ChainedLoads :
    let m : ChldMsg := ⟨.thr ⟨0, 0⟩, some 3, 0, false, 0x2047, 0, 11, none, [0x3F00000000], true, 4, none⟩
    (∃ e ∈ (myCore sb).sbuf, e.slot = sb.cur.slot) ∧ QueuesReady sb (5 :: (List.range 1).map (fun k => regUp 6 k)) [4, regUp 4 1]
    ∧ chldTr s0 m ((m.v &&& BitVec.ofNat 64 (2 ^ 64 - 8)) + 8 * ((0x3F00000000 : Word).setWidth 32).signExtend 64) = .pa pa0
    ∧ bits (0x3F00000000 : Word) 37 32 = 63 ∧ pa0 % 8 = 0 ∧ (myCore s0).sbuf = [] ∧ QueuesReady s0 (5 :: (List.range 1).map (fun k => regUp 6 k)) [4, regUp 4 1]
    ∧ QueuesReady s0 (5 :: (List.range 6).map (fun k => regUp 6 k)) [4, regUp 4 1]
    ∧ m.rto = .thr ⟨0, 0⟩ ∧ TauServes s0 m.launch pa0 ∧ m.at_ = none ∧ sbWord (Machine.core s0 m.core) pa0 8 = false ∧ m.hops ≤ 11
    ∧ m.steps[m.k]? = some 0x3F00000000 ∧ Holds s0 pa0 8 0x807 ∧ isFull s0 pa0 = true ∧ isFull (emptied s0) pa0 = false
    ∧ TauServes (emptied s0) m.launch pa0 ∧ Holds (emptied s0) pa0 8 0x807 := by
  refine ⟨by decide, plain _ (by decide), by decide, by decide, by decide, by decide, plain _ (by decide), plain _ (by decide), rfl,
    serves0, rfl, by decide, by decide, rfl, holds0, by decide, by decide, ⟨by decide, by decide, by decide, by decide⟩, holds0⟩

/-- A host window of 256 bytes at 0x1000; g5 points into it, g6 to its end. -/
def queue0 : LQueue :=
  { base := 0, log2n := 4, tdi := 0, err := false, head := 0, tail := 0, cbase := 0, windows := [(0, (0x1000, 0x100))], open_ := [] }
def sx : State := regs { s0 with queues := [(0, queue0)] } [(5, 0x10F8), (6, 0x1100)]
def esc0 : EscEntry := ⟨0, some 3, some 0, ⟨0, 0⟩, .stext 0x1010 .w 0x55⟩
theorem witness_ExternalMemory :
    let s := { sx with escrow := [(0, [esc0])] }
    let late : EscEntry := { esc0 with ivl := 5, what := .stext 0x10F8 .d 0x77 }
    let u := { sx with escrow := [(0, [esc0, late])] }
    (thr (asking false) ⟨0, 0⟩).wait = .reply 2 none false .dflt ∧ QueuesReady sx [5] [4] ∧ QueuesReady sx [5, 4] []
    ∧ (rd sx 5).toNat % 8 = 0 ∧ inWindow sx (me sx).launch (rd sx 5).toNat 8 = true
    ∧ (rd sx 5 + 1).toNat % 8 ≠ 0 ∧ (rd sx 6).toNat % 8 = 0 ∧ inWindow sx (me sx).launch (rd sx 6).toNat 8 = false
    ∧ escDoor sx 0 = [] ∧ (escrowOf sx 0).length < 4096 ∧ escrowOf s 0 = esc0 :: [] ∧ released s esc0 = true
    ∧ dropped s esc0 = false ∧ escDoor s 0 = []
    ∧ escrowOf u (dieOf u.cur.core) = [esc0] ++ late :: [] ∧ late.launch = (me u).launch ∧ released u late = false ∧ late.what = .stext 0x10F8 .d 0x77
    ∧ s.escrow = [(0, [esc0])] ∧ (hostBytesOf esc0.what).1 ≤ 0x1013
    ∧ 0x1013 < (hostBytesOf esc0.what).1 + (hostBytesOf esc0.what).2.length := by
  refine ⟨rfl, plain _ (by decide), plain _ (by decide), by decide⟩
theorem witness_TypedBuffers :
    let s := regs s0 [(5, 32760), (6, 32768), (7, 49144), (8, 49152)]
    QueuesReady s [5] [4] ∧ QueuesReady s [5, 4] [] ∧ (rd s 5 + 1).toNat % 8 ≠ 0 ∧ (rd s 5).toNat % 8 = 0
    ∧ (rd s 5).toNat + 8 ≤ 32768 ∧ ¬ ((rd s 6).toNat + 8 ≤ 32768) ∧ (rd s 7).toNat + 8 ≤ 49152
    ∧ ¬ ((rd s 8).toNat + 8 ≤ 49152) := by
  refine ⟨plain _ (by decide), plain _ (by decide), by decide⟩
/-- R162: the space-M address of a byte of the buffer of type 2 (C) of unit 2, and of a core of another cluster. -/
def mC : Word := 0xA7FF8
def mOther : Word := 0x400000
theorem witness_SpaceM :
    let s := regs s0 [(5, mC), (6, mOther), (7, mC + 8), (8, mC + 2)]
    let full := modMe s (fun t => { t with stmOut := 15 })
    let held := modMe s (fun t => { t with stmOut := 16 })
    QueuesReady s [5] [4] ∧ QueuesReady full [5, 4] []
    ∧ mNames (rd s 5) = true ∧ mCluster (rd s 5) ∈ clustersOf s (me s).launch ∧ mOff (rd s 5) % 8 = 0
    ∧ mOff (rd s 5) + 8 ≤ bufSize (mSpace (rd s 5)) ∧ ¬ (mNames (rd s 6) = true ∧ mCluster (rd s 6) ∈ clustersOf s (me s).launch)
    ∧ bufSize (mSpace (rd s 7)) < mOff (rd s 7) + 8 ∧ 16 ≤ (me held).stmOut ∧ mOff (rd s 8) % 4 ≠ 0 ∧ (me full).stmOut < 16 ∧ (me full).stmOut ≠ 0 ∧ (me s).stmOut = 0
    ∧ arriveAt s 0 (.here 3) 0 = .accept := by
  refine ⟨plain _ (by decide), plain _ (by decide), by decide⟩
theorem refuses_free (s : State) (hp : s.pat = []) (hq : s.poison = []) {pa : Nat} (h : paValid pa = true) :
    tauRefuses s none pa = none := by
  simp [tauRefuses, inGuard, ownsFrame, patEnt, hp, hq, h]
theorem kept_none (s : State) (hg : s.grove = []) {pa : Nat} (h : 144 < frameOf pa) : keptByte s pa = none := by
  simp [keptByte, groveByte, groveSpot, hg, show ¬ frameOf pa < 128 by omega, show frameOf pa ≠ 144 by omega]
/-- A firmware thread with no page admitted; g5 a page of 8 KiB, g6 a page of a core of cluster 1, g7 one of its own core. -/
def sv : State :=
  regs (modMe { State.reset with cur := ⟨0, 28⟩ } (fun t => { t with st := .live, fw := true }))
    [(5, 0x2C0000000), (6, 0x400000), (7, 0x2000), (8, 0x2C0000008)]
theorem witness_VictimTier :
    QueuesReady sv [5, 6] [4] ∧ QueuesReady sv [7, 5] [4] ∧ (rd sv 8).toNat % 8192 ≠ 0
    ∧ (rd sv 5).toNat % 8192 = 0 ∧ mOff (rd sv 6) % 8192 = 0 ∧ mNames (rd sv 6) = true ∧ (Machine.core sv (mCore (rd sv 6))).launch = none
    ∧ mOff (rd sv 6) + 8192 ≤ bufSize (mSpace (rd sv 6)) ∧ (∀ k, k < 1024 → isFull sv ((rd sv 5).toNat + 8 * k) = true)
    ∧ sv.errs = [] ∧ sv.waits = []
    ∧ (∀ k, k < 1024 → TauServes sv (if (me sv).fw then none else (me sv).launch) ((rd sv 5).toNat + 8 * k))
    ∧ State.MemOk sv ∧ mOff (rd sv 7) % 8192 = 0 ∧ mNames (rd sv 7) = true ∧ mCore (rd sv 7) = sv.cur.core
    ∧ mOff (rd sv 7) + 8192 ≤ bufSize (mSpace (rd sv 7)) ∧ sbTouches (myCore sv) (rd sv 5).toNat 8192 = false
    ∧ (∀ g, g < 32 → chanBusy sv ((rd sv 5).toNat + 256 * g) = false)
    ∧ ∀ k, k < 8192 → 128 ≤ frameOf ((rd sv 5).toNat + k) → keptByte sv ((rd sv 5).toNat + k) = none := by
  have hf : (me sv).fw = true := by decide
  have h5 : (rd sv 5).toNat = 0x2C0000000 := by decide
  refine ⟨plain _ (by decide), plain _ (by decide), by decide, by decide, by decide, by decide, by decide, by decide,
    fun k _ => by simp [isFull, show sv.feEmpty = [] from rfl], rfl, rfl,
    fun k hk => ?_, by unfold State.MemOk; decide, by decide, by decide, by decide, by decide, by decide,
    fun g hg => by rw [h5]; interval_cases g <;> decide, fun k hk _ => ?_⟩
  case refine_2 => rw [h5]; exact kept_none sv rfl (by unfold frameOf; omega)
  rw [if_pos hf, h5]
  exact ⟨refuses_free sv rfl rfl (decide_eq_true (by unfold frameOf frameCount; omega)), rfl, rfl,
    by simp [vaultStalls, vaultOf, show sv.vaults = [] from rfl]⟩
/-- Slot 0 stands first among those that wait to push. -/
def ring0 : Ring :=
  { Ring.reset with en := true, base := 64, ssz := 3, cnt := 3, free := 1, held := 1, filled := 1, taken := 1, res := 3, tak := 1
                    pushers := [.slot 0, .slot 4] }
/-- R166: EN, base 0, slots of 16 KiB, two of them, in W. -/
def rcfg0 : Word := 0x201B0000
theorem witness_RingOperations :
    let s := modMyCore (regs s0 [(5, rcfg0)]) (fun x => { x with rings := [(2, ring0), (3, { ring0 with held := 0, taken := 0 })] })
    QueuesReady s [5] [] ∧ QueuesReady s [] [4] ∧ FenceOpen s .core
    ∧ bits rcfg0 63 30 = 0 ∧ bits rcfg0 29 29 = 1 ∧ bits rcfg0 19 16 ≤ 11 ∧ bits rcfg0 15 0 % (8 * 2 ^ bits rcfg0 19 16) = 0
    ∧ bits rcfg0 15 0 + (bits rcfg0 27 20 + 1) * (8 * 2 ^ bits rcfg0 19 16) ≤ 49152 ∧ (ring (myCore s) 0).en = false
    ∧ ring (myCore s) 2 = ring0 ∧ ring0.en = true ∧ ring0.free ≠ 0 ∧ ring0.pushers.headD (.slot s.cur.slot) = .slot s.cur.slot
    ∧ ring0.filled ≠ 0 ∧ ring0.poppers.headD (.slot s.cur.slot) = .slot s.cur.slot
    ∧ ring0.held ≠ 0 ∧ ring0.taken ≠ 0 ∧ (ring (myCore s) 3).en = true ∧ (ring (myCore s) 3).held = 0
    ∧ (ring (myCore s) 3).taken = 0 := by
  exact ⟨plain _ (by decide), plain _ (by decide), fenceOpen0 rfl (by decide), by decide⟩

/-! ### Placing and messages -/

/-- Core 4 is bound to the launch too, and role 0 of the device is bound to it. -/
def sp : State :=
  { (modCore s0 4 (fun x => { x with launch := some 3 })) with mem := msets [] (144 * 2 ^ 26 + 8 * 2048) (leBytes 8 (unitWord 0 4 + 0x1000000).toNat) }
def ent4 : Word := unitWord 0 4 + 0x1000000
def sp5 : State := regs sp [(5, 0x8000), (6, 0x8005)]
theorem role4 : RoleIs sp5 0x8000 ent4 := ⟨144 * 2 ^ 26 + 8 * 2048, by decide, by decide, by decide, by decide, fun _ _ => rfl⟩
theorem witness_QueueOperations :
    let q := modMe (modMyCore s0 (fun x => { x with downLink := some 4 })) (fun t => { t with qh := true })
    let r := modCore (modMyCore sp5 (fun x => { x with downLink := some 4, down := [⟨7, false⟩] })) 4 (fun x => { x with upLink := some 0 })
    QueuesReady q [5] [31] ∧ QueuesReady r [7] [4] ∧ RoleIs sp5 (bits (rd sp5 5) 15 0) ent4 ∧ (me q).qh = true ∧ (me s0).qh = false
    ∧ bits (rd r 7) 15 0 = 0
    ∧ (myCore q).downLink = some 4 ∧ foreignMod 4 = none ∧ rolePa sp5 (me sp5) (bits (rd sp5 6) 15 0) = none
    ∧ (Machine.core r 0).qoBusy ≤ r.cycle ∧ ((Machine.core r 0).qAt = r.cycle → (Machine.core r 0).dnOut = 0) ∧ (Machine.core r 4).stopped = false
    ∧ (myCore sp5).down = [] ∧ (myCore sp5).qoHeld = 0 ∧ (4 : Reg) ≠ 0 ∧ (4 : Reg) ≠ 31
    ∧ bits (rd sp5 5) 15 0 ≠ 0 ∧ bits (rd sp5 5) 15 0 < 49152
    ∧ entV ent4 = true ∧ entCore ent4 = some 4 ∧ 4 < modBase ∧ arriveAt sp5 4 (identOf sp5 (me sp5) false) 0 = .accept
    ∧ (Machine.core sp5 4).upLink = none ∧ (myCore sp5).downLink = none ∧ (Machine.core r 0).down = ⟨7, false⟩ :: [] ∧ (Machine.core r 0).downLink = some 4
    ∧ (Machine.core r 4).up.length + (Machine.core r 4).qiHeld < 16 := by
  exact ⟨⟨fun h => (by simp at h), fun _ => ⟨⟨_, rfl⟩, by decide⟩⟩, plain _ (by decide), role4, by decide⟩
theorem witness_PlacementsSent :
    let full := modMyCore s0 (fun x => { x with slots := x.slots ++ (List.range 10).map (fun k => (k + 1, { Thread.reset 1 with st := .live })) })
    QueuesReady sp5 [8, regUp 8 1, regUp 8 2, regUp 8 3] [4] ∧ QueuesReady sp5 [5, 8, regUp 8 1, regUp 8 2, regUp 8 3] [4]
    ∧ ({ s0 with cur := ⟨0, 1⟩ } : State).cur.slot ≠ 0 ∧ s0.cur.slot = 0 ∧ helpers (myCore s0) ≠ 10 ∧ helpers (myCore full) = 10
    ∧ FenceOpen s0 .core ∧ resolve sp5 (me sp5) 0x8005 = .none ∧ RoleIs sp5 0x8000 ent4 ∧ entV ent4 = true ∧ entCore ent4 = some 4
    ∧ entMod ent4 = sp5.fab.modnum ∧ FenceOpen sp5 (destScope sp5 ent4 false) ∧ bits (rd sp5 6) 15 0 = 0x8005 := by
  refine ⟨plain _ (by decide), plain _ (by decide), by decide, by decide, by decide, by decide,
    fenceOpen0 rfl (by decide), by decide, role4, by decide, by decide, by decide, fenceOpen0 rfl (by decide), by decide⟩
theorem witness_PlacementArrives :
    let full := modCore sp 4 (fun x => { x with slots := (List.range 27).map (fun k => (k, thread0)) })
    let leaving := modThr sp ⟨4, 11⟩ (fun t => { t with readyAt := 8 })
    let unbound := modCore sp 4 (fun x => { x with launch := none })
    let moved := modCore sp 4 (fun x => { x with launch := none, fwd := some ⟨3, none, 13, 0⟩ })
    arriveAt sp 4 (.here 3) 0 = .accept ∧ (slotOf (Machine.core sp 4) 11).st = .free ∧ (slotOf (Machine.core sp 4) 1).st = .free
    ∧ (slotOf (Machine.core sp 4) 11).readyAt ≤ sp.cycle ∧ ¬ ((slotOf (Machine.core leaving 4) 11).readyAt ≤ leaving.cycle)
    ∧ arriveAt full 4 (.here 3) 0 = .accept ∧ (slotOf (Machine.core full 4) 26).st ≠ .free
    ∧ arriveAt unbound 4 (.here 3) 0 = .refuse ∧ arriveAt moved 4 (.here 3) 2 = .forward 13
    ∧ arriveAt moved 4 (.here 3) 3 = .refuse := by decide
theorem witness_QuitFreesSlots :
    let away := modMe s0 (fun t => { t with home := ⟨7, 0⟩ })
    (∀ n, n < 4 → (stream (myCore s0) n).st = .closed) ∧ s0.cur.slot < 27 ∧ (me s0).resv = none ∧ (me s0).acks = none ∧ (me s0).home = s0.cur ∧ (me away).home ≠ away.cur
    ∧ (me away).home.core < modBase ∧ (thr (modThr s0 ⟨7, 26⟩ (fun t => { t with st := .away })) ⟨7, 26⟩).st = .away := by decide
theorem witness_Mailboxes :
    let mail : Mail := ⟨1, 2, 3⟩
    let boxed := modMe s0 (fun t => { t with mailbox := some mail })
    let parked := { modMe s0 (fun t => { t with wait := .reply 2 none false .dflt, parked := some (some 8, 4) }) with cycle := 8 }
    QueuesReady sp5 [5, 6, regUp 6 1] [4] ∧ bits (rd sp5 5) 15 0 = 0x8000
    ∧ RoleIs sp5 0x8000 ent4 ∧ entV ent4 = true ∧ entCore ent4 = some 4 ∧ entMod ent4 = sp5.fab.modnum
    ∧ FenceOpen sp5 (destScope sp5 ent4 false) ∧ arriveAt sp 0 (.here 3) 0 = .accept
    ∧ (thr s0 ⟨0, 0⟩).st = .live ∧ (thr s0 ⟨0, 0⟩).mailbox = none ∧ (thr s0 ⟨0, 0⟩).parked = none
    ∧ (thr boxed ⟨0, 0⟩).mailbox = some mail ∧ (thr s0 ⟨0, 26⟩).st = .free ∧ QueuesReady boxed [] [25, regUp 25 1, regUp 25 2]
    ∧ QueuesReady s0 [5] [4] ∧ (thr parked ⟨0, 0⟩).parked = some (some 8, 4) ∧ 8 ≤ parked.cycle
    ∧ parkHeld parked 0 (thr parked ⟨0, 0⟩) = false ∧ (thr parked ⟨0, 0⟩).wait = .reply 2 none false .dflt
    ∧ (thr parked ⟨0, 0⟩).mailbox = none := by
  refine ⟨plain _ (by decide), by decide, role4, by decide, by decide, by decide, fenceOpen0 rfl (by decide), by decide, by decide,
    by decide, by decide, by decide, by decide, plain _ (by decide), plain _ (by decide), by decide⟩
theorem witness_YieldAndSignals : FenceOpen s0 .dev ∧ QueuesReady s0 [5, 6] [] ∧ QueuesReady s0 [5] [] :=
  ⟨fenceOpen0 rfl (by decide), plain _ (by decide), plain _ (by decide)⟩
theorem witness_RoleQueries : QueuesReady sp5 [5] [4] ∧ RoleIs sp5 (bits (rd sp5 5) 15 0) ent4
    ∧ resolve sp5 (me sp5) (bits (rd sp5 6) 15 0) = .none ∧ QueuesReady sp5 [] [4] :=
  ⟨plain _ (by decide), role4, by decide, plain _ (by decide)⟩
theorem witness_MigrationMoves :
    let s := regs s0 [(5, 0x2040)]
    let fwSlot := regs { s0 with cur := ⟨0, 27⟩ } [(5, 1)]
    let full := { s with cores := s.cores ++ (List.range 32).map (fun k =>
      (1152 + k, { Core.reset with slots := (List.range 16).map (fun n => (n + 11, thread0)) })) }
    QueuesReady s [5] [4] ∧ 27 ≤ fwSlot.cur.slot ∧ QueuesReady fwSlot [5] [4] ∧ QueuesReady s [0] [4] ∧ (me s).home = s.cur
    ∧ translate s s.cur (rd s 5) ⟨false, false, false⟩ = .pa pa0 ∧ tellerSlot s (tellerOf pa0) = some ⟨tellerOf pa0, 11⟩
    ∧ translate full full.cur (rd full 5) ⟨false, false, false⟩ = .pa pa0 ∧ tellerSlot full (tellerOf pa0) = none
    ∧ (me s).stmOut = 0 ∧ (me s).rupdOut = 0 ∧ (∀ e ∈ (myCore s).sbuf, e.slot ≠ s.cur.slot)
    ∧ (⟨tellerOf pa0, 11⟩ : TRef) ≠ s.cur ∧ tellerOf pa0 ≠ s.cur.core := by
  refine ⟨plain _ (by decide), by decide, plain _ (by decide), plain _ (by decide), by decide⟩
theorem witness_MessagesStartThreads :
    let s := modCore State.reset 5 (fun x => { x with wakev := 0x3000 })
    let busy := modThr s ⟨5, 31⟩ (fun t => { t with st := .live })
    let open_ := { State.reset with fab := { State.reset.fab with caps := [(0, 0xFFFFFFFF)] } }
    (slotOf (Machine.core s 5) 27).readyAt ≤ s.cycle ∧ wakevAt (Machine.core s 5) s.cycle ≠ 0 ∧ shipAllowed State.reset 9 = false
    ∧ (slotOf (Machine.core s 5) 27).st = .idle ∧ classQ (Machine.core s 5) 27 = [] ∧ (Machine.core s 5).wakev ≠ 0 ∧ s.fw.instAt = false
    ∧ (slotOf (Machine.core s 1215) 28).st = .idle ∧ (slotOf (Machine.core busy 5) 31).st = .live
    ∧ tellerSlot State.reset 1152 = some ⟨1152, 11⟩ ∧ shipAllowed open_ 0 = true := by decide

/-! ### Ordering, CSRs, translation, debugging -/

theorem witness_FencesDrain :
    let busy := modMe (modMyCore s0 (fun x => { x with sbuf := [entry0] })) (fun t => { t with rupdOut := 1 })
    let posted := modMe s0 (fun t => { t with stmOut := 1 })
    (me s0).stmOut = 0 ∧ (myCore s0).sbuf = [] ∧ (me s0).rupdOut = 0 ∧ (me busy).stmOut = 0 ∧ (myCore busy).sbuf ≠ []
    ∧ (me busy).rupdOut ≠ 0 ∧ (me posted).stmOut ≠ 0 := by decide
/-- Barrier 3 of cluster 0 stands in phase 2^32 - 1 with this TARGET. -/
def bars (target : Nat) (held : List HeldArr) : State :=
  modCluster (regs s0 [(5, 0x3), (6, 0xFFFF), (7, 0x10), (8, 0x103)]) 0
    (fun x => { x with bars := [(3, { Barrier.reset with target := target, done := 2 ^ 32 - 1, held := held })] })
theorem witness_BarrierInstructions :
    let s := bars 4 []
    let h := bars 4 [⟨true, 5, 0, none⟩]
    let tel := modMe s (fun t => { t with home := ⟨1152, 11⟩ })
    let off := modMe s (fun t => { t with home := ⟨modBase * 6 + 9, 3⟩ })
    QueuesReady s [5] [4] ∧ QueuesReady s [5, 6] [4] ∧ QueuesReady h [5, 6] [4] ∧ FenceOpen s .cl ∧ FenceOpen off .cl
    ∧ homeTeller (me s) = false ∧ homeHere (me s) = true ∧ barUnit s (me s) = some (.here 0) ∧ barUnit off (me off) = some (.away 5 (32 * 9 + 3))
    ∧ bits (rd s 7) 7 4 ≠ 0 ∧ ¬ (bits (rd s 5) 7 4 ≠ 0 ∨ bits (rd s 5) 31 9 ≠ 0) ∧ ¬ (bits (rd s 5) 8 8 = 1)
    ∧ bits (rd s 8) 8 8 = 1 ∧ homeTeller (me tel) = true ∧ barUnit tel (me tel) = none ∧ bits (rd s 5) 63 32 = 0
    ∧ bits (rd s 6) 63 16 = 0 ∧ (∀ n ∈ (bar s 0 3).cnts.toList, n = 0) ∧ (bar s 0 3).held = [] ∧ (bar h 0 3).held ≠ [] := by
  refine ⟨plain _ (by decide), plain _ (by decide), plain _ (by decide), fenceOpen0 rfl (by decide), fenceOpen0 rfl (by decide), by decide⟩
theorem witness_BarrierPhases :
    (bar (bars 0 []) 0 3).target = 0 ∧ 1 < (bar (bars 2 []) 0 3).target ∧ (bar (bars 2 []) 0 3).cnts = Vector.replicate 4 0
    ∧ (bar (bars 2 []) 0 3).held = [] ∧ (bar (bars 2 []) 0 3).waiters = [] ∧ (bar (bars 2 []) 0 3).done < 2 ^ 32
    ∧ (bar (bars 1 []) 0 3).target = 1
    ∧ (2 ^ 32 - 1 + 2 ^ 32 - (2 ^ 31 - 1)) % 2 ^ 32 ≠ 0 ∧ (2 ^ 32 - 1 + 2 ^ 32 - (2 ^ 31 - 1)) % 2 ^ 32 ≤ 2 ^ 31 := by decide
theorem witness_SealInstructions :
    let s := modMe { s0 with escrow := [(0, [esc0])] } (fun t => { t with home := ⟨0, 0⟩ })
    let second := { s with fab := { s.fab with modnum := 1, caps := [(0, 0), (1, 0)] } }
    let off := modMe s0 (fun t => { t with home := ⟨modBase * 6 + 9, 3⟩ })
    QueuesReady s0 [] [4] ∧ isLeader s0 = true ∧ (∀ e ∈ s0.escrow, ∀ x ∈ e.2, x.home ≠ (me s0).home)
    ∧ (0, [esc0]) ∈ s.escrow ∧ esc0 ∈ [esc0] ∧ esc0.home = (me s).home ∧ isLeader s = true ∧ isLeader second = false
    ∧ foreignMod (me s0).home.core = none ∧ foreignMod (me off).home.core = some 5 ∧ (∀ e ∈ off.escrow, ∀ x ∈ e.2, x.home ≠ (me off).home) := by
  refine ⟨plain _ (by decide), by decide, fun e h => (by cases h), by decide, by decide, by decide, by decide, by decide, by decide,
    by decide, fun e h => (by cases h)⟩
theorem witness_CsrInstructions :
    let fwt := modMe s0 (fun t => { t with fw := true })
    QueuesReady s0 [] [4] ∧ QueuesReady s0 [4] [] ∧ (0 : Int) ≤ (⟨1, 0x185⟩ : Imm).v ∧ (me s0).fw = false ∧ (me fwt).fw = true
    ∧ (myCore s0).csrOld = [] ∧ 0x180 ≤ (⟨1, 0x185⟩ : Imm).v.toNat ∧ (⟨1, 0x185⟩ : Imm).v.toNat ≤ 0x185
    ∧ ¬ (0x180 ≤ (⟨1, 0x102⟩ : Imm).v.toNat) := by
  refine ⟨plain _ (by decide), plain _ (by decide), by decide, by decide, by decide, by decide, by decide, by decide, by decide⟩
def sfw : State := regs (modMe s0 (fun t => { t with fw := true })) [(5, 0x2001), (6, 0x2C0000007), (7, 0x4000)]
theorem witness_TlbInstructions : (me s0).fw = false ∧ (me sfw).fw = true ∧ isTeller sfw.cur.core = false
    ∧ QueuesReady sfw [5, regUp 5 1, 0] [4] ∧ entryBad (rd sfw 5) (rd sfw (regUp 5 1)) = false
    ∧ (cluster sfw (clusterOf sfw.cur.core)).launch = some 3 ∧ QueuesReady sfw [5, 0] [4] ∧ QueuesReady sfw [0] [4]
    ∧ QueuesReady sfw [5] [4] ∧ tlbFind (myCore sfw).tlb false (me sfw).launch (rd sfw 5) = some page0
    ∧ tlbFind (myCore sfw).tlb false (me sfw).launch (rd sfw 7) = none := by
  refine ⟨by decide, by decide, by decide, plain _ (by decide), by decide, by decide, plain _ (by decide), plain _ (by decide),
    plain _ (by decide), by decide⟩
theorem witness_TlbUpdates : isTeller 1151 = false ∧ bits 0x2001 0 0 = 1 ∧ entryBad 0x2001 0x2C0000007 = false
    ∧ (Machine.core s0 0).sbuf = [] ∧ (Machine.core s0 0).streams = [] ∧ s0.pending = [] ∧ s0.waits = [] ∧ s0.resvs = []
    ∧ chainsOut s0 0 = [] := by decide
/-- A halted core with a live thread in slot 26; the operation words of R318 for it: read and write g29, and read the pc. -/
def sdb : State :=
  regs (modMe (modMyCore s0 (fun x => { x with hltd := true, slots := x.slots ++ [(26, thread0)] })) (fun t => { t with fw := true }))
    [(5, 0x3BA3), (6, 0x3BA4), (7, 0x1A5), (8, 1)]
theorem witness_DebugInstruction : (me s0).fw = false ∧ (me sdb).fw = true ∧ QueuesReady sdb [5, 6] [26, regUp 26 1]
    ∧ bits (rd sdb 5) 63 14 = 0 ∧ bits (rd sdb 0) 3 0 = 0 ∧ bits (rd sdb 8) 3 0 = 1 ∧ bits (rd sdb 5) 3 0 = 3
    ∧ (myCore s0).hltd = false ∧ (myCore sdb).hltd = true ∧ bits (rd sdb 5) 8 4 = 26 ∧ (slotOf (myCore sdb) 26).st = .live
    ∧ 26 ≠ sdb.cur.slot ∧ bits (rd sdb 5) 13 9 = 29 ∧ bits (rd sdb 6) 3 0 = 4 ∧ bits (rd sdb 6) 13 9 = 29
    ∧ bits (rd sdb 7) 3 0 = 5 := by
  refine ⟨by decide, by decide, plain _ (by decide), by decide⟩

/-! ### Vector, matrix and copy work -/

theorem witness_VectorArithmeticAndLogic : QueuesReady s0 (vsrcRegs .short) [] ∧ QueuesReady s0 (vsrcRegs (.vec 3)) []
    ∧ QueuesReady sq (vsrcRegs (.gen 30)) [] :=
  ⟨plain _ (by decide), plain _ (by decide), fun _ => ⟨_, _, rfl, rfl⟩, fun h => (by simp at h)⟩
theorem witness_VectorMovesAndLoads :
    let s := regs s0 [(5, 49120), (6, 49121), (7, 49122)]
    QueuesReady s (vsrcRegs .short) [] ∧ QueuesReady s [5] [] ∧ QueuesReady s [] [4] ∧ (rd s 6).toNat % wbytes .h ≠ 0
    ∧ (rd s 5).toNat % wbytes .b = 0 ∧ (rd s 5).toNat + 32 * wbytes .b ≤ bufSize .w
    ∧ (rd s 7).toNat % wbytes .h = 0 ∧ bufSize .w < (rd s 7).toNat + 32 * wbytes .h := by
  refine ⟨plain _ (by decide), plain _ (by decide), plain _ (by decide), by decide⟩
theorem witness_VectorReductionsAndFormats :
    let s := regs s0 [(5, 0x0F0F0F0F), (6, 0x0F0F0F0E), (7, 0x00FF0000)]
    QueuesReady s [] [4] ∧ QueuesReady s [5] [] ∧ QueuesReady s [] [5] ∧ ¬ Overflows fp16 .rup (ratOf (.fin true 65504 0))
    ∧ Overflows fp16 .rup (ratOf (.fin false 65505 0)) ∧ goodMask ((rd s 5).setWidth 32) = true
    ∧ goodMask ((rd s 6).setWidth 32) = false ∧ ((⟨.i32, .rne, true, true⟩ : VArith).t = .i32)
    ∧ (⟨.bf16, .rup, true, false⟩ : VArith).t ≠ .i32
    ∧ (vrd s 2).toList.map (laneVal .f32) = List.replicate 32 (.fin false 0 (-149)) ∧ (rd s 5).toNat / 65536 % 256 ≠ 0xFF
    ∧ (rd s 7).toNat / 65536 % 256 = 0xFF ∧ (∀ n, n < 32 → Mantissa (vrd s 2) 8 n 0) ∧ decodeF fp32 0x3F800000 = .fin false 8388608 (-23)
    ∧ decodeF fp32 0 = .fin false 0 (-149) := by
  have top : maxBits fp16 false = 0x7BFF := by decide
  have big : decodeF fp16 0x7BFF = .fin false 2047 5 := by decide
  refine ⟨plain _ (by decide), plain _ (by decide), plain _ (by decide), ?_, ?_, by decide, by decide, by decide, by decide, by decide,
    by decide, by decide, fun n hn => ⟨by decide, by decide, fun j hj => ?_⟩, by decide, by decide⟩
  · simp only [Overflows, top, big]; norm_num [ratOf, Fmt.bias, fp16]
  · simp only [Overflows, top, big]; norm_num [ratOf, Fmt.bias, fp16]
  · interval_cases n <;> interval_cases j <;> rfl
/-- Slot 0 of service core 8, and of teller core 0. -/
def svc : State := { (modThr (modCore s0 8 (fun x => { x with launch := some 3 })) ⟨8, 0⟩ (fun t => { t with st := .live })) with cur := ⟨8, 0⟩ }
def tel : State := { s0 with cur := ⟨1152, 11⟩ }
theorem witness_MatrixContexts :
    let s := regs s0 [(5, 0xFFFFFFFFFFFF), (7, 0x3455), (8, 0x4455), (9, 0x1000000000000)]
    QueuesReady s [5] [4] ∧ QueuesReady svc [5] [4] ∧ QueuesReady tel [5] [4] ∧ isTeller tel.cur.core = true
    ∧ unitOf svc.cur.core = 8 ∧ isTeller svc.cur.core = false ∧ isTeller s.cur.core = false ∧ unitOf s.cur.core ≠ 8
    ∧ bits (rd s 8) 63 14 ≠ 0 ∧ bits (rd s 7) 63 14 = 0 ∧ bits (rd s 9) 63 48 ≠ 0 ∧ bits (rd s 5) 63 48 = 0
    ∧ bits (rd s 7) 3 0 = 5 ∧ bits (rd s 7) 7 4 = 5 ∧ bits (rd s 7) 11 8 = 4 := by
  refine ⟨plain _ (by decide), plain _ (by decide), plain _ (by decide), by decide⟩
/-- Roles 0 and 1 of cluster 0 are bound to its units 3 and 0; the bank holds this format word; g8 up hold a descriptor. -/
def table0 : List Byte := leBytes 8 (unitWord 0 3 + 0x1000000).toNat ++ leBytes 8 (unitWord 0 0 + 0x1000000).toNat
def mx (fmt : Word) (d : List Word) : State :=
  regs (modBank { s0 with mem := msets [] (144 * 2 ^ 26) table0 } 0 0 (fun b => { b with fmt := fmt }))
    (([8, 9, 10, 11, 12] : List Reg).zip d)
def four : List Reg := [8, regUp 8 1, regUp 8 2, regUp 8 3]
/-- Products of 32 × 32 × 32 whose operands end where their buffers end. -/
def mxBf : State := mx 0x455 [0x7000B800B800, 0x2000200020, 1, 0]
def mxInt : State := mx 0x200 [0x7000BE00BC00, 0x2000200020, 0, 0]
def mxGang : State := mx 0x455 [0x7000B800B800, 0x2000200020, 5, 0, 0x3700000010]
theorem witness_MatrixPushes :
    let drain := mx 0x455 [0x2000207000, 0x1B000, 4, 0]
    let clear := mx 0x455 [0x1007F00]
    isTeller mxBf.cur.core = false ∧ unitOf mxBf.cur.core ≠ 8 ∧ FenceOpen mxBf .cl
    ∧ (cluster mxBf (clusterOf mxBf.cur.core)).mxq.length < 32
    ∧ pathOf (myBank mxBf).fmt = some .bf16 ∧ QueuesReady mxBf four [4] ∧ bits (rd mxBf 10) 63 2 = 0
    ∧ (bits (rd mxBf 8) 15 0 % 128 = 0 ∧ bits (rd mxBf 8) 31 16 % 128 = 0 ∧ bits (rd mxBf 8) 47 32 % 256 = 0
      ∧ bits (rd mxBf 8) 15 0 + spanA .bf16 32 32 ≤ 49152 ∧ bits (rd mxBf 8) 47 32 + 4 * 32 * 32 ≤ 32768
      ∧ bits (rd mxBf 8) 31 16 + spanB .bf16 32 32 ≤ 49152 ∧ bits (rd mxBf 9) 63 48 = 0 ∧ bits (rd mxBf 9) 15 0 = 32
      ∧ bits (rd mxBf 9) 31 16 = 32 ∧ bits (rd mxBf 9) 47 32 = 32)
    ∧ pathOf (myBank mxInt).fmt = some .int8 ∧ QueuesReady mxInt four [4] ∧ bits (rd mxInt 8) 31 16 + spanBs .int8 ≤ 49152
    ∧ (rd mxInt 10).getLsbD 1 = false
    ∧ pathOf (myBank mxGang).fmt = some .bf16 ∧ QueuesReady mxGang (four ++ [regUp 8 4]) [4] ∧ bits (rd mxGang 10) 4 2 + 1 = 2
    ∧ (∀ q, 2 ≤ q → q < 8 → bits (rd mxGang 12) (4 * q + 3) (4 * q) = 0 ∧ bits (rd mxGang 12) (32 + 4 * q + 3) (32 + 4 * q) = 0)
    ∧ RoleIs mxGang (2 ^ 14 + bits (rd mxGang 12) 3 0) (unitWord 0 3 + 0x1000000)
    ∧ RoleIs mxGang (2 ^ 14 + bits (rd mxGang 12) 7 4) (unitWord 0 0 + 0x1000000)
    ∧ (entV (unitWord 0 3 + 0x1000000) = true ∧ entCore (unitWord 0 3 + 0x1000000) = some 3 ∧ entCore (unitWord 0 0 + 0x1000000) = some 0
      ∧ entV (unitWord 0 0 + 0x1000000) = true ∧ clusterOf 3 = clusterOf mxGang.cur.core ∧ [3, 0].Nodup)
    ∧ QueuesReady drain four [4] ∧ mNames (rd drain 9) = true ∧ mCluster (rd drain 9) ∈ clustersOf drain (me drain).launch
    ∧ mSpaceNum (rd drain 9) ≠ 0 ∧ bits (rd drain 8) 15 0 + 4 * 32 * 32 ≤ 32768
    ∧ mOff (rd drain 9) + drSpan [rd drain 8, rd drain 9, rd drain 10, rd drain 11] ≤ bufSize (mSpace (rd drain 9))
    ∧ QueuesReady clear [8] [4] ∧ bits (rd clear 8) 31 16 ≠ 0 ∧ bits (rd clear 8) 15 0 + bits (rd clear 8) 31 16 ≤ 32768 := by
  refine ⟨by decide, by decide, fenceOpen0 rfl (by decide), by decide, by decide, plain _ (by decide), by decide,
    by decide, by decide, plain _ (by decide), by decide, by decide, by decide, plain _ (by decide), by decide,
    fun q h1 h2 => by interval_cases q <;> decide, ⟨144 * 2 ^ 26, by decide, by decide, by decide, by decide, fun _ _ => rfl⟩,
    ⟨144 * 2 ^ 26 + 8, by decide, by decide, by decide, by decide, fun _ _ => rfl⟩, by decide, plain _ (by decide),
    by decide, by decide, by decide, by decide, by decide, plain _ (by decide), by decide, by decide⟩
/-- A row of 8 bytes in 6 rows into the end of W; 8 bytes of space G; one code; and a ring that takes 16 bytes. -/
theorem witness_CopyPushes :
    let ring1 := { ring0 with ssz := 1 }
    let cpy := mx 0x455 [0x2040, 0xBFD0, 0x500000008, 0x800000000]
    let toRing := modMyCore (mx 0x455 [0x2040, 0x40000, 0x100000008, 0x800000000]) (fun x => { x with rings := [(0, ring1)] })
    let out := mx 0x455 [0x2040, 0x2080, 0x100000000, 0]
    let mint := mx 0x455 [0x2040, 0, 49152, 1]
    QueuesReady cpy four [4] ∧ QueuesReady tel four [4] ∧ QueuesReady out four [4] ∧ QueuesReady mint four [4] ∧ QueuesReady cpy [8] [4]
    ∧ FenceOpen cpy .cl ∧ isTeller tel.cur.core = true ∧ isTeller cpy.cur.core = false ∧ (cluster cpy (clusterOf cpy.cur.core)).cpq.length < 32
    ∧ bits (rd cpy 9) 17 16 < 2 ∧ bits (rd cpy 9) 63 21 = 0 ∧ bits (rd cpy 10) 63 48 = 0 ∧ bits (rd cpy 11) 63 48 = 0
    ∧ bits (rd cpy 10) 31 0 ≠ 0 ∧ (rd cpy 9).getLsbD 18 = false
    ∧ bits (rd cpy 9) 15 0 + (bits (rd cpy 10) 47 32 * bits (rd cpy 11) 47 32 + bits (rd cpy 10) 31 0) ≤ 49152
    ∧ (rd cpy 8).toNat % 8 = 0 ∧ (rd cpy 8 + 4).toNat % 8 ≠ 0
    ∧ (rd toRing 9).getLsbD 18 = true ∧ (ring (myCore toRing) (bits (rd toRing 9) 20 19)).en = true
    ∧ bits (rd toRing 10) 47 32 * bits (rd toRing 11) 47 32 + bits (rd toRing 10) 31 0 ≤ 8 * 2 ^ ring1.ssz
    ∧ rd out 11 = 0 ∧ 8 ≤ (rd out 10).toNat ∧ (rd out 10).toNat ≤ 2 ^ 32
    ∧ bits (rd mint 9) 17 16 = 0 ∧ (rd mint 10).toNat ≤ 49152
    ∧ bits (rd mint 9) 15 0 + (rd mint 10).toNat ≤ 49152 ∧ (rd cpy 8).toNat % 64 = 0 := by
  exact ⟨plain _ (by decide), plain _ (by decide), plain _ (by decide), plain _ (by decide), plain _ (by decide),
    fenceOpen0 rfl (by decide), by decide⟩
/-- A matrix job of bank 0 with its record, in the queue of cluster 0; g8 holds its id, g9 an expired one, g10 no job's. -/
def job0 : MxJob :=
  { kind := .mxm, id := 7, bank := 0, desc := [0x100000000, 0x6000200020, 0, 0], fmt := 0x200, thr := 0, parts := [0], bars := []
    mask := [], started := false, cancel := false, pause := none, told := false, strip := 0, knext := 0, row := 0, acc := [], got := []
    rem := none }
def rec0 : JobRec := ⟨7, false, false, false, [newSub 0], false⟩
def recF : JobRec := ⟨7, true, false, true, [{ newSub 0 with ended := true }], false⟩
def mxJob (j : MxJob) (r : JobRec) : State :=
  modCluster (regs s0 [(8, 7), (9, 9), (10, 0x100000)]) 0 (fun x => { x with
    mxq := if r.final then [] else [j], banks := [(0, { MxBank.reset with seq := 8, recs := [r] })] })
theorem witness_JobInstructions :
    let s := mxJob job0 rec0
    let p := mxJob { job0 with started := true, pause := some (3, 0x2040) } { rec0 with began := true }
    let f := mxJob job0 recF
    let off := modMe s (fun t => { t with home := ⟨modBase * 6 + 9, 3⟩ })
    QueuesReady s [8] [4] ∧ homeTeller (me s) = false ∧ foreignMod (me s).home.core = none ∧ clusterOf (me s).home.core = 0
    ∧ homeTeller (me (modMe s (fun t => { t with home := ⟨1215, 11⟩ }))) = true ∧ homeTeller (me off) = false
    ∧ foreignMod (me off).home.core = some 5 ∧ jobRef s 0 (rd s 10) = .bad ∧ jobRef s 0 (rd s 9) = .expired
    ∧ jobRef s 0 (rd s 8) = .job false 0 rec0 ∧ pausedFor p 0 (rd p 8).toNat = some { job0 with started := true, pause := some (3, 0x2040) }
    ∧ bankOf p (me p).home.core = 0 ∧ jobRef f 0 (rd f 8) = .job false 0 recF ∧ pausedFor f 0 (rd f 8).toNat = none
    ∧ mustTell false recF 0 = none ∧ (me f).wait = .none
    ∧ { rec0 with gang := true }.subs.find? (fun x => x.unit == 0) = some (newSub 0) ∧ rec0.subs.find? (fun x => x.unit == 5) = none
    ∧ rec0.gang = false ∧ rec0.subs ≠ [] ∧ (newSub 0).sat < 65536 ∧ (newSub 0).nan < 65536 ∧ (newSub 0).bso < 65536
    ∧ (cluster s 0).mxq.find? (fun e => e.id == (rd s 8).toNat) = some job0 := by
  refine ⟨plain _ (by decide), by decide⟩
def cpJob0 : CpJob :=
  { kind := .cpy, id := 65536 + 7, bank := 0, core := 0, launch := some 3, desc := [0x2040, 0xBFD0, 0x500000008, 0x800000000]
    started := false, loc := none, pos := 0, out := 0, last := 0, cancel := false, rem := none, words := [] }
/-- A copy job with its record, and the page of its cluster. -/
def cpJob (j : CpJob) (mint : FMap (BitVec 32)) : State :=
  modCluster s0 0 (fun x => { x with
    cpq := [j], cpRecs := [(0, [⟨7, false, false, false, [newSub 255], false⟩])], ctlb := [(0, page0)], mint := mint })
theorem witness_CopyJobSteps :
    let s := cpJob { cpJob0 with started := true, loc := some 0xBFD0, pos := 5 } []
    let m := { cpJob0 with kind := .mint, started := true, loc := some 0, words := [(0, 0x3012)], desc := [0x2040, 0, 8, 8] }
    let need := { m with words := [] }
    (cluster s 0).cpq = { cpJob0 with started := true, loc := some 0xBFD0, pos := 5 } :: []
    ∧ jobRef s 0 (BitVec.ofNat 64 cpJob0.id) = .job true 0 ⟨7, false, false, false, [newSub 255], false⟩
    ∧ cpHeld s cpJob0 = false ∧ jobRing cpJob0 = none ∧ engTr s 0 0x2040 needR (copyTag 0) = .pa pa0 ∧ chanBusy s pa0 = false
    ∧ engTr s 0 0x2040 needW (copyTag 0) = .pa pa0 ∧ TauServes s (some 3) pa0
    ∧ 5 + 1 = (bits (cpJob0.desc.getD 2 0) 47 32 + 1) * (bits (cpJob0.desc.getD 2 0) 31 0 / 8)
    ∧ mintNeeds need = some 0 ∧ mintNeeds m = none ∧ mintPeek m = 0x123
    ∧ (((fget (cluster (cpJob m [(0x123, 0xA50007)]) 0).mint (mintPeek m)).getD 0).setWidth 4).toNat = 7
    ∧ (((fget (cluster (cpJob m []) 0).mint (mintPeek m)).getD 0).setWidth 4).toNat = 0 := by
  refine ⟨by decide, by decide, by decide, by decide, by decide, by decide, by decide, ⟨by decide, by decide, by decide, by decide⟩, by decide⟩
theorem witness_MatrixJobSteps :
    let s := mxJob job0 rec0
    let k := { job0 with started := true, knext := 1, acc := [List.replicate 1024 0] }
    let far := { k with desc := [0x100000000, 0x6000200020, 2, 0], got := List.replicate 128 0 }
    let sparse := { job0 with kind := .mxms, started := true, desc := [0x100000000, 0x2000200020, 0, 0], mask := List.replicate 32 0x0F0F0F0F }
    let drain := { job0 with kind := .mxdrn, desc := [0x2000207000, 0x1B000, 4, 0] }
    let drained_ := { drain with row := 32 }
    mxRuns (cluster s 0).mxq 7 = some job0 ∧ job0.id = 7 ∧ (∀ e ∈ (cluster s 0).mxq, e.id = 7 → e = job0)
    ∧ jobRef s 0 (BitVec.ofNat 64 7) = .job false 0 rec0 ∧ (∀ x ∈ rec0.subs, x.ended = false)
    ∧ mxHeld s 0 job0 = false ∧ rec0.subs.length = job0.parts.length ∧ job0.parts ≠ [] ∧ job0.cancel = false ∧ job0.thr = 0
    ∧ bits (job0.desc.getD 2 0) 0 0 = 0 ∧ mxM job0.desc ≠ 0 ∧ mxN job0.desc ≠ 0 ∧ mxK job0.desc ≠ 0
    ∧ goodMask 0x0F0F0F0F = true ∧ goodMask 0x0F0F0F0E = false ∧ pathOf job0.fmt = some .int8 ∧ k.knext + 1 < mxK k.desc / 32
    ∧ k.acc.length = k.parts.length ∧ arriveAt s 0 (.here ((cluster s 0).launch.getD 0xFFFF)) 0 = .accept
    ∧ stripCols k.desc k.strip % 32 = 0 ∧ far.started = true ∧ bits (far.desc.getD 2 0) 1 1 = 1
    ∧ far.got.length = 128 ∧ stripCols far.desc far.strip * bRun (jobPath far) / 8 + (if isBq (jobPath far) then stripCols far.desc far.strip / 2 else 0) = 128
    ∧ sparse.kind = .mxms ∧ sparse.parts = [0] ∧ sparse.started = true ∧ (pathOf sparse.fmt).isSome = true ∧ bits (sparse.desc.getD 2 0) 1 1 = 0
    ∧ mxN sparse.desc = 32 ∧ mxK sparse.desc = 32 ∧ sparse.knext = 0 ∧ sparse.acc = [] ∧ sparse.strip < mxM sparse.desc / 32
    ∧ Memory.wf (Machine.core s (coreAt 0 0)).bufC = true ∧ jobPath sparse = .int8 ∧ (∀ m ∈ sparse.mask, goodMask m = true)
    ∧ drain.row < drRows drain.desc ∧ drFmt drain.desc = 4 ∧ drained_.row = drRows drained_.desc ∧ bits (drained_.desc.getD 2 0) 4 4 = 0
    ∧ 256 * (0 + 1) = bits (0x1007F00 : Word) 31 16 := by
  and_intros <;> first
    | exact List.length_replicate | exact fun m hm => by rw [List.eq_of_mem_replicate hm]; decide
    | decide

/-! ### Streams and the Grove -/

/-- A plain context of slot 0 over `count` elements at 0x2040, `at_` of them used, the first word read. -/
def str (count at_ : Nat) : Stream :=
  { Stream.reset with st := .plain, launch := some 3, base := 0x2040, count := count, cursor := at_, words := [(0, 5)] }
def strs (l : FMap Stream) : State := modMyCore s0 (fun x => { x with streams := l })
theorem witness_StreamInstructions :
    let s := regs (strs [(0, str 1 1), (1, str 1 0), (2, { str 2 1 with fault := some (1, 0x12) }), (3, { str 1 0 with w4 := true, st := .captured 2 })])
      [(5, 0x2041), (6, 0x2040), (7, 1), (8, 0x400000000), (9, 49144), (10, 49152)]
    let c := regs (strs [(0, str 1 0), (1, str 1 0), (2, { str 1 0 with w4 := true })]) [(4, 0x2040), (5, 1), (6, 0x2041), (7, 1), (8, 0), (9, 0x400000000)]
    QueuesReady c [4, regUp 4 1] [] ∧ (stream (myCore c) 0).st ≠ .closed ∧ (stream (myCore c) 3).st = .closed
    ∧ bits (rd c 9) 63 34 ≠ 0 ∧ bits (rd c 5) 63 34 = 0 ∧ (rd c 6).toNat % 8 ≠ 0 ∧ (rd c 4).toNat % 8 = 0
    ∧ (rd c 4).toNat + bits (rd c 5) 31 0 * 8 ≤ 2 ^ 64 ∧ FenceOpen c .core
    ∧ (∀ k ∈ [1], k ≠ 0) ∧ (Fin.mk 2 (by decide) : Fin 16).val.testBit 1 = true
    ∧ (∀ k ∈ 0 :: [1], (stream (myCore c) k).st = .plain ∧ (stream (myCore c) k).owner = c.cur.slot ∧ (stream (myCore c) k).given = false)
    ∧ (stream (myCore c) 2).w4 ≠ (stream (myCore c) 0).w4 ∧ (stream (myCore c) 1).w4 = (stream (myCore c) 0).w4
    ∧ (stream (myCore s) 3).st = .captured 2 ∧ QueuesReady s [] [4] ∧ QueuesReady s [9] [4] ∧ QueuesReady s [10] [4]
    ∧ (stream (myCore s) 0).st = .plain ∧ (stream (myCore s) 0).owner = s.cur.slot ∧ (stream (myCore s) 0).cursor = (stream (myCore s) 0).count
    ∧ (stream (myCore s) 1).cursor + 1 = (stream (myCore s) 1).count ∧ elemAt (stream (myCore s) 1) 0 = some 5
    ∧ (rd s 9).toNat % 8 = 0 ∧ (rd s 9).toNat + 0 * 8 + 8 ≤ 49152 ∧ 49152 < (rd s 10).toNat + 0 * 8 + 8
    ∧ (stream (myCore s) 2).cursor ≠ (stream (myCore s) 2).count ∧ elemAt (stream (myCore s) 2) 1 = none
    ∧ (stream (myCore s) 2).fault = some (1, 0x12) ∧ (stream (myCore s) 2).told = false ∧ (stream (myCore s) 0).out = [] := by
  refine ⟨plain _ (by decide), by decide, by decide, by decide, by decide, by decide, by decide, by decide,
    fenceOpen0 rfl (by decide), by decide, by decide, by decide, by decide, by decide, by decide, plain _ (by decide),
    plain _ (by decide), plain _ (by decide), by decide, by decide, by decide, by decide, by decide, by decide, by decide, by decide,
    by decide, by decide, by decide⟩
theorem witness_StreamUnit :
    let s := strs [(0, str 2 0), (1, { str 2 1 with inA := true, base := 0 }), (2, { str 1 0 with st := .head .isect [3], base := 0x4000, words := [] }), (3, str 1 0)]
    let h := strs [(0, { str 1 0 with st := .head .union [1] }), (1, { str 1 0 with st := .captured 0 })]
    let bad := { s with poison := [pa0 / 32] }
    let tr := fun (s : State) (va : Word) => trIn s (tlbFind (Machine.core s 0).tlb false (some 3) va) va needR
    nextWord (stream (Machine.core s 0) 0) = some 1 ∧ nextWord (stream (Machine.core s 0) 1) = some 1 ∧ tr s 0x2048 = .pa 0x2C0000048
    ∧ (Machine.core s 0).stopped = false ∧ sbLoad (Machine.core s 0) 0x2C0000048 8 = .none ∧ chanBusy s 0x2C0000048 = false ∧ s.errs = []
    ∧ tauRefuses s (some 3) 0x2C0000048 = none ∧ injFires s 0x2C0000048 = false ∧ tauRefuses bad (some 3) 0x2C0000048 ≠ none
    ∧ tr (modMyCore s (fun x => { x with tlb := [(0, ⟨0x2001, 0x2C0000002, none⟩)] })) 0x2048 = .trap 0x05
    ∧ nextWord (stream (Machine.core s 0) 2) = some 0 ∧ tr s 0x4000 = .miss ∧ (Machine.core s 0).misses.length < 8 ∧ (Machine.core s 0).missQ = []
    ∧ mergeNext (Machine.core h 0) = some 0
    ∧ 1 ≠ 0 ∧ (stream (Machine.core h 0) 0).st = .head .union [1] ∧ (stream (Machine.core h 0) 0).ended = false
    ∧ (stream (Machine.core h 0) 0).results.length < 16 ∧ (stream (Machine.core h 0) 0).cursor ≠ (stream (Machine.core h 0) 0).count
    ∧ elemAt (stream (Machine.core h 0) 0) 0 = some 5 ∧ elemAt (stream (Machine.core h 0) 1) 0 = some 5
    ∧ (stream (Machine.core h 0) 1).cursor ≠ (stream (Machine.core h 0) 1).count := by decide
/-- An empty index 5 of the launch: dimension 32, BF16, four entries at most; and one entry, or a sequence to publish. -/
def idx0 : GIndex :=
  { launch := 3, inum := 5, record := 0x300000005, frames := [176], dim := 32, bq8 := false, ip := false, deg := 16, cap := 4, alloc := 2, pub := 1
    floor := 0, used := 1, lives := 1, ents := [(0, ⟨1, none, 77, List.replicate 64 0, []⟩)], pubs := [] }
theorem witness_GroveInstructions :
    let s := regs { s0 with grove := [(0, idx0)] }
      [(5, 0xBE00BFC000002005), (6, 0x1005), (7, 0x0001000000000105), (8, 0x0008000000000105), (9, 0xBFC00005), (10, 0x45), (11, 5), (12, 6), (13, 0x106),
        (14, 0xC000000000000105), (15, 0xC00000000105), (16, 0x10005), (17, 0xC0000005)]
    QueuesReady s [5, regUp 5 1, regUp 5 2] [4] ∧ QueuesReady s [13, regUp 13 1, regUp 13 2] [4]
    ∧ (bits (rd s 5) 7 6 = 0 ∧ bits (rd s 5) 15 14 = 0 ∧ 1 ≤ bits (rd s 5) 13 8 ∧ bits (rd s 5) 13 8 ≤ 32 ∧ bits (rd s 5) 31 16 ≤ 1024)
    ∧ bits (rd s 11) 13 8 = 0 ∧ bits (rd s 7) 47 32 % 8 = 0 ∧ bits (rd s 7) 63 48 % 16 ≠ 0 ∧ bits (rd s 8) 63 48 % 16 ≠ 0
    ∧ bits (rd s 5) 47 32 % 8 = 0 ∧ bits (rd s 5) 63 48 % 16 = 0 ∧ bits (rd s 5) 63 48 + 16 * bits (rd s 5) 13 8 ≤ 49152
    ∧ findIndex s 5 = some (0, idx0) ∧ bits (rd s 5) 47 32 + 2 * idx0.dim ≤ 49152 ∧ findIndex s 6 = none ∧ bits (rd s 13) 5 0 = 6
    ∧ QueuesReady s [9, 8] [4] ∧ bits (rd s 10) 15 6 ≠ 0 ∧ bits (rd s 9) 15 6 = 0 ∧ bits (rd s 9) 63 32 = 0
    ∧ bits (rd s 9) 31 16 % 8 = 0 ∧ bits (rd s 9) 31 16 + 2 * idx0.dim ≤ 49152 ∧ bits (rd s 11) 63 6 = 0 ∧ bits (rd s 10) 63 6 ≠ 0
    ∧ QueuesReady s [11] [4, regUp 4 1]
    ∧ 49152 < bits (rd s 14) 63 48 + 16 * bits (rd s 14) 13 8 ∧ bits (rd s 14) 63 48 % 16 = 0
    ∧ 49152 < bits (rd s 15) 47 32 + 2 * idx0.dim ∧ bits (rd s 15) 47 32 % 8 = 0 ∧ bits (rd s 16) 31 16 % 8 ≠ 0
    ∧ bits (rd s 17) 31 16 % 8 = 0 ∧ 49152 < bits (rd s 17) 31 16 + 2 * idx0.dim := by
  refine ⟨plain _ (by decide), plain _ (by decide), by decide, by decide, by decide, by decide, by decide, by decide, by decide,
    by decide, by decide, by decide, by decide, by decide, plain _ (by decide), by decide, by decide, by decide, by decide, by decide,
    by decide, by decide, plain _ (by decide), by decide⟩
theorem witness_GroveSteps :
    let s := { s0 with grove := [(0, idx0), (1, { idx0 with used := 4 }), (2, { idx0 with pubs := [⟨2, true, false, 1, [], ⟨0, 0⟩, 4⟩] })] }
    let nan := modMyCore s (fun x => { x with bufA := [(62, 0x80), (63, 0x7F)] })
    let m : LdnnMsg := ⟨⟨0, 0⟩, 4, 0, 1, 0, 0, 64, 0, 1⟩
    let g : GSearch := ⟨0, 0, 1, 1, 1, false, [], [⟨0, 1, 0⟩], [], [0], 0, .ldnn m⟩
    let w := modMe { s with searches := [g] } (fun t => { t with wait := .reply 2 none false .dflt })
    let pubN : GPub := ⟨2, true, false, 1, [0], ⟨0, 0⟩, 4⟩
    let idxN := { idx0 with used := 2, ents := idx0.ents ++ [(1, ⟨2, none, 78, List.replicate 64 0, []⟩)], pubs := [pubN] }
    let near := { s0 with grove := [(0, idxN)] }
    (∀ pa, injFires s pa = false) ∧ s.errs = [] ∧ s.poison = [] ∧ (∀ pa, vaultStalls s pa = false) ∧ standsOut w g = false
    ∧ (∀ k ∈ headerGranules s 0 idx0 ++ acceptGranules s 0 idx0 1 ++ entryGranules s 0 idx0 0 ++ entryPointGranules s 0 idx0 true 0 1,
      chanBusy s (256 * k) = false ∧ ∀ j, j < 8 → tauRefuses s (some 3) (256 * k + 32 * j) = none)
    ∧ (∀ k ∈ publishReads near 0 idxN pubN ++ entryGranules near 0 idxN 0 ++ headerGranules near 0 idxN,
      chanBusy near (256 * k) = false ∧ ∀ j, j < 8 → tauRefuses near (some 3) (256 * k + 32 * j) = none)
    ∧ (∀ pa, vaultStalls near pa = false) ∧ (fget idx0.ents 0).map (fun e => decide (e.vers.length < 4)) = some true
    ∧ fget s.grove 0 = some idx0 ∧ (Machine.core s 0).fwd = none
    ∧ (∀ e ∈ (List.range 32).map (fun i => leNat (mgets (Machine.core s 0).bufA (2 * i) 2)), e / 128 % 256 ≠ 255)
    ∧ idx0.floor ≤ m.snap.toNat ∧ m.snap.toNat ≤ idx0.pub ∧ idx0.pub < 2
    ∧ ((List.range 32).map (fun i => leNat (mgets (Machine.core nan 0).bufA (2 * i) 2))).getD 31 0 / 128 % 256 = 255
    ∧ badElem idx0 (mgets (Machine.core s 0).bufA 0 64) = none ∧ idx0.used ≠ idx0.cap ∧ fget s.grove 1 = some { idx0 with used := 4 }
    ∧ (∀ e ∈ idx0.ents, ¬ (BitVec.ofNat 64 e.2.seq = 2 ∧ e.2.seq ≤ idx0.pub ∧ e.2.dseq = none))
    ∧ idx0.ents = [(0, ⟨1, none, 77, List.replicate 64 0, []⟩)] ∧ w.searches = [g] ∧ g.exact = false ∧ g.cand = []
    ∧ fget s.grove 2 = some { idx0 with pubs := [⟨2, true, false, 1, [], ⟨0, 0⟩, 4⟩] }
    ∧ (thr w ⟨0, 0⟩).wait = .reply 2 none false .dflt := by
  have room : ∀ (s : State) pa, s.vaults = [] → vaultStalls s pa = false := fun s pa h => by simp [vaultStalls, vaultOf, h]
  refine ⟨fun pa => rfl, rfl, rfl, fun pa => room _ pa rfl, by decide, by decide +kernel, by decide +kernel,
    fun pa => room _ pa rfl, by decide,
    rfl, rfl, by decide, by decide, by decide, by decide, by decide, by decide, by decide, by decide, by decide, rfl, rfl, rfl, rfl,
    by decide, by decide⟩

/-! ### Launches, the Arbor, moves and retirement -/

def rcd0 : LRecord :=
  { queue := 0, num := 0, image := 0x2C0002000, tag := 9, param := [1, 2, 3, 4], prio := 0, clust := 1, graph := 31, runs := 0
    dbase := 0, dcnt := 1 }
def put (m : List Host.Cell) (a n x : Nat) : List Host.Cell := msets m a (leBytes n x)
/-- R29: an image of one instruction at 0x2C0002000, and the record at 0x2C0001000 that names it (R59). -/
def code0 : List Host.Cell :=
  [(0x00, 4, 0x00345844), (0x04, 2, 1), (0x08, 8, 136), (0x10, 8, 128), (0x18, 8, 2), (0x20, 8, 0x10000), (0x70, 4, 0xFFFFFFFF)].foldl
    (fun m e => put m (0x2C0002000 + e.1) e.2.1 e.2.2)
    (put (put (put [] 0x2C0001000 8 0x1F0101) 0x2C0001008 8 0x2C0002000) 0x2C0001010 8 9)
def queue1 : LQueue := { queue0 with base := 0x2C0001000, tail := 16, head := 15 }
def wait0 : Waiting := ⟨rcd0, 0, 0, none⟩
/-- Frame 5721, the last one, belongs to interface 0; a launch is waiting; no lane of a memory stack has failed. -/
def sl0 : State := { State.reset with stks := [], mem := code0, queues := [(0, queue0), (1, queue1)], waiting := [wait0], pat := [(5721, ⟨0, false⟩)] }
theorem first_clusters : chosen sl0 1 = some [0] := by decide +kernel
theorem image_fits : checkImage sl0 rcd0 0 (binderOf sl0 rcd0 [0]) =
    .ok { img0 with codeSize := 2, codeOff := 128, trapEntry := none, nCl := 0, nDv := 0, nDm := 0 } := by decide +kernel
theorem witness_LaunchSteps :
    let q : LQueue := { queue0 with tail := 16 }
    let r := recordAt sl0 1 15 (queue1.base + 64 * 15)
    let x := { launch0 with rcd := rcd0, stage := .setup, img := { img0 with roles := [⟨0x4000, 0, 0⟩] } }
    let s := { s0 with launches := [(3, x)] }
    let paged := { x with todo := some [(0x2C0000000, [7])] }
    let built := { x with todo := some [], img := { img0 with roles := [⟨0x4000, 0, 0⟩, ⟨0x4001, 0, 0⟩], links := [(0x4000, 0x4001)] } }
    let bad := { sl0 with mem := put code0 0x2C0002000 4 0 }
    (∀ k, k < 8192 → keptByte { s0 with launches := [(3, paged)] } (0x2C0000000 + k) = none)
    ∧ fget sl0.queues 0 = some queue0 ∧ (ifSt sl0 queue0.tdi).st ≠ .error
    ∧ (16 + 2 ^ 32 - queue0.tail) % 2 ^ 32 ≠ 0 ∧ (16 + 2 ^ 32 - queue0.tail) % 2 ^ 32 < 2 ^ 31
    ∧ (16 + 2 ^ 32 - queue0.head) % 2 ^ 32 ≤ 2 ^ queue0.log2n ∧ 2 ^ queue0.log2n < (17 + 2 ^ 32 - queue0.head) % 2 ^ 32
    ∧ descStalls sl0 0 = false ∧ canTake sl0 0 q = true ∧ canTake sl0 1 queue1 = true ∧ cpStops sl0 0x2C00013C0 64 = false
    ∧ imageWaits sl0 wait0 = false ∧ cpStops sl0 rcd0.image (memNat sl0 (rcd0.image + 8) 8) = false
    ∧ paged.todo = some ((0x2C0000000, [7]) :: []) ∧ mapStalls { s0 with launches := [(3, paged)] } 0x2C0000000 = false ∧ s0.waits = []
    ∧ built.todo = some [] ∧ built.stage = .setup ∧ cpStalls { s0 with launches := [(3, built)] } = false
    ∧ linkCores (binderOf s built.rcd built.clusters) built.img = [(0, 1)]
    ∧ recordBad sl0 (queue1.base + 64 * 15) r = true
    ∧ recordBad sl0 0x2C0001000 (recordAt sl0 0 0 0x2C0001000) = false
    ∧ front sl0 = some wait0 ∧ moduleFailed sl0 = false ∧ wait0.out = none ∧ freeNumber sl0 = some 0
    ∧ (∀ c ∈ [0].flatMap clusterCores, (Machine.core sl0 c).victim = false ∧ recallBusy sl0 c = false)
    ∧ checkImage bad rcd0 0 (binderOf bad rcd0 [0]) = .error 0x01
    ∧ fget s.launches 3 = some x ∧ canStart s x = true ∧ controlCores (binderOf s x.rcd x.clusters) x.img = [(0, 0)]
    ∧ x.rcd.param = [1, 2, 3, 4] := by
  refine ⟨fun k hk => kept_none _ rfl (by unfold frameOf; omega), ?_⟩
  and_intros <;> decide +kernel
/-- A graph of two nodes, the second the successor of the first; and a graph of one node. -/
def node0 : GNode := ⟨0x10, 0, 1, 0, 1, 0, 7, 8⟩
def node1 : GNode := ⟨0x20, 1, 1, 1, 0, 1, 7, 8⟩
def graph0 : Graph :=
  { nodes := [node0, node1], succ := [1], sink := 1, lpath := [2, 1], cnt := [], gen := 5, pend := 1, live := false, done := [] }
def live0 : Graph := { graph0 with live := true, pend := 0 }
def arb (g : Graph) : State := { s0 with launches := [(3, { launch0 with graphs := [g], ready := [⟨0, 0, 0⟩] })] }
theorem witness_ArborSteps :
    fget (arb graph0).launches 3 = some { launch0 with graphs := [graph0], ready := [⟨0, 0, 0⟩] }
    ∧ graph0.live = false ∧ 0 < graph0.pend ∧ live0.live = true ∧ 1 < live0.nodes.length ∧ 1 ∉ live0.done ∧ succsOf live0 1 = []
    ∧ live0.pend = 0 ∧ 5 = live0.gen ∧ 4 ≠ live0.gen ∧ live0.nodes.length ≤ 2
    ∧ arborNext (arb live0) = some 3
    ∧ pickReady (arb live0) 3 { launch0 with graphs := [live0], ready := [⟨0, 0, 0⟩] } = some (⟨0, 0, 0⟩, 0)
    ∧ freeGuest (Machine.core (arb live0) 0) (arb live0).cycle = some 11 ∧ live0.nodes[0]? = some node0
    ∧ placePa launch0 node0 = none ∧ placePa launch0 { node0 with place := 0x8001 } = some (launch0.table + 16392)
    ∧ injFires (arb live0) (launch0.table + 16392) = false ∧ (∀ j, j < 8 → fget (arb live0).errs (sectorOf (launch0.table + 16392 + j)) = none)
    ∧ (∀ c ∈ launch0.clusters, c < 128) ∧ pickReady (arb live0) 3 { launch0 with graphs := [live0] } = none := by decide +kernel
theorem witness_MovesAndRetirement :
    let stopping := { s0 with launches := [(3, { launch0 with stage := .stopping, frozen := true })], cores := [(0, { core0 with stopped := true })] }
    let free := { s0 with cores := [(0, { core0 with slots := [(0, { thread0 with st := .free })] })] }
    let done := modCluster free 0 (fun y => { y with mxq := [{ job0 with pause := some (3, 0x2040) }] })
    let m : Move := ⟨3, 0, 5, []⟩
    let mv := { s0 with moves := [m] }
    let rest := { mv with cores := [(0, { core0 with stopped := true })] }
    let d : Move := ⟨3, 0, 5, [1215]⟩
    let out := { launch0 with rcd := rcd0, stage := .out }
    let back := { sl0 with launches := [(3, out)], waiting := [⟨rcd0, 0, 0, some 3⟩] }
    fget s0.launches 3 = some launch0 ∧ launch0.stage = .running ∧ launchClusters done 3 = [0] ∧ launch0.ready = [] ∧ done.pending = []
    ∧ (∀ e ∈ done.cores, ∀ z ∈ e.2.slots, z.2.launch = some 3 → z.2.st ≠ .live ∧ z.2.st ≠ .away ∧ z.2.rupdOut = 0)
    ∧ (∀ c ∈ launchClusters done 3, (∀ j ∈ (cluster done c).mxq, j.pause.isSome = true) ∧ (cluster done c).cpq = [])
    ∧ cpStops rest launch0.table 40960 = false ∧ returnWaits back 3 [0] = false ∧ cpStops back out.table 40960 = false
    ∧ (fget stopping.launches 3).map (fun x => (x.stage, x.frozen)) = some (.stopping, true) ∧ outReady stopping 3 = true
    ∧ mv.sl.phase = .open_ ∧ mv.moves = [m] ∧ m.frm = 0 ∧ m.drains = [] ∧ (Machine.core mv 0).stopped = false ∧ moveTo mv 0 = some 1
    ∧ m.dst = 5 ∧ m.launch = 3 ∧ (Machine.core rest 0).launch = some 3 ∧ canStream rest 0 5 = true ∧ (Machine.core rest 5).victim = false
    ∧ d.drains = [1215] ∧ unitBusy { s0 with moves := [d] } 1215 = false
    ∧ fget back.launches 3 = some out ∧ readmitTo back 3 = some (out, [0]) ∧ vacant back ([0].flatMap clusterCores) = true
    ∧ (Machine.core s0 7).launch = none ∧ (∀ m ∈ s0.moves, m.dst ≠ 7) := by
  and_intros <;> decide +kernel

/-! ### Seals, rollback, the watchdog, memory stacks -/

def sealAt (p : SealPhase) : State := { State.reset with sl := { SealSt.reset with phase := p } }
theorem witness_SealProtocol :
    timerDue { State.reset with cycle := 25000000 } = true ∧ isLeader State.reset = true ∧ State.reset.fab.caps = []
    ∧ State.reset.sl.phase = .open_ ∧ (sealAt .prepare).sl.phase = .prepare
    ∧ quiet (restAll (facing (sealAt .prepare) .save)) = true ∧ 5 ≠ State.reset.sl.ivnum.toNat
    ∧ (sealAt .save).sl.phase = .save ∧ canDecide { State.reset with sl := { State.reset.sl with got := nins 5 State.reset.sl.got } } = false
    ∧ (sealAt .saved).sl.phase = .saved ∧ (sealAt .saved).sl.decided = none ∧ (sealAt .saved).sl.commits = [] := by decide
def vrec0 : VRec := { gpa := 0x2C0000000, data := List.replicate 256 7, ivl := 0, feb := 0, stamp := 1, code := none }
theorem witness_RollbackSteps :
    let s := { State.reset with sl := { SealSt.reset with areas := [(1, (1, Work.reset))], sealed := 1, ivnum := 2 } }
    let v := { s with vaults := [(0, [vrec0])] }
    s.sl.phase = .open_ ∧ fget s.sl.areas (1 % 2) = some (1, Work.reset) ∧ s.vaults = [] ∧ v.vaults = [(0, [vrec0])]
    ∧ vrec0.data.length = 256 ∧ State.MemOk v ∧ isLeader s = true ∧ s.fab.caps = [] ∧ s.sl.sealed ≠ 0 ∧ s.sl.decided = none
    ∧ s.sl.same < 2 ∧ codeFails v = false ∧ rollbackOut s = false ∧ State.reset.sl.sealed = 0
    ∧ 2 ^ 18 * 144 ≤ 37748736 ∧ 1499987967 < 2 ^ 18 * 5722 := by
  refine ⟨rfl, rfl, rfl, rfl, List.length_replicate, by unfold State.MemOk; decide, by decide, rfl, by decide, rfl, by decide, by decide,
    by decide, rfl, by decide, by decide⟩
/-- The module after reset, where no lane failed in training. -/
def fresh : State := { State.reset with stks := [] }
theorem witness_WatchdogLevels :
    let kicked := { State.reset with cycle := 250000000, wd := { WatchSt.reset with kicks := 15 } }
    let line : ILine := ⟨0x40, false, none, List.replicate 64 0⟩
    let hung := { modMyCore s0 (fun x => { x with icache := [line], eligAt := some 0 }) with cycle := 2 ^ 20 }
    kicked.cycle - kicked.wd.lastK ≤ wdPeriod kicked ∧ kicked.wd.kicks = 15 ∧ State.reset.wd.kicks < 15
    ∧ kicked.wd.lastK + wdPeriod kicked ≤ kicked.cycle ∧ kicked.wd.wdlvl = 0 ∧ 1 ≤ kicked.wd.wdcap ∧ isLeader hung = true
    ∧ hung.wd.wdlvl < 4 ∧ coreHangs hung 0 = true ∧ sealHangs { sealAt .save with cycle := 2 ^ 24 } = true
    ∧ isLeader { sealAt .save with cycle := 2 ^ 24 } = true := by decide +kernel
theorem witness_MemoryStackSteps :
    let busy := { fresh with stks := [(0, { StackSt.reset with busy := true, cmd := some (2, 31, 73) })] }
    let idle := { fresh with cycle := 2500001 }
    let timed := { fresh with cycle := 2 ^ 20, stks := [(0, { StackSt.reset with mgNext := 2431 })] }
    let due := { fresh with cycle := 4096, errs := [(sectorOf (sectorAddr 511 0), false)] }
    (stackSt fresh 7).busy = false ∧ 73 < 74 ∧ (idleSpare (stackSt fresh 7) 31).isSome = true
    ∧ (sealAt .save).sl.phase = .save ∧ (sealAt .prepare).sl.phase = .prepare ∧ fresh.sl.phase = .open_ ∧ (stackSt busy 0).busy = true ∧ (stackSt busy 0).deferd = false
    ∧ (stackSt busy 0).cmd = some (2, 31, 73) ∧ idleSpare (stackSt busy 0) 31 = some 74 ∧ 75 < 76 ∧ 31 < 32
    ∧ 76 * 31 + 75 = (stackSt timed 0).mgNext ∧ (stackSt timed 0).mgAt + 2 ^ 20 ≤ timed.cycle ∧ 76 * 0 + 0 = (stackSt fresh 0).mgNext
    ∧ chanBusy due (sectorAddr 511 (pchSt due 511).scrub) = false ∧ (pchSt due 511).selfRef = false ∧ scrubDue due 511 = true ∧ fget due.errs (sectorOf (sectorAddr 511 0)) ≠ some true
    ∧ paValid (sectorAddr 511 (pchSt fresh 511).scrub) = true ∧ isLogged (sectorAddr 511 (pchSt fresh 511).scrub) = false
    ∧ (stackSt fresh (511 / 64)).cecnt ≠ BitVec.allOnes 64 ∧ idle.sridle ≠ 0 ∧ (pchSt idle 0).selfRef = false
    ∧ (pchSt idle 0).lastReq + idle.sridle.toNat < idle.cycle := by decide
theorem witness_PatdataRules :
    let at_ (l : FMap PatEnt) : State := { State.reset with pat := l }
    let nbr := at_ [(177, ⟨1, false⟩)]
    let own := at_ [(5721, ⟨3, true⟩)]
    176 ≤ 176 ∧ 176 < 5722 ∧ (patEnt nbr 176).owner = 15 ∧ bits (0 : Word) 3 0 < 8
    ∧ ((patEnt nbr 177).owner < 8 ∧ (patEnt nbr 177).owner ≠ 0 ∧ (patEnt nbr 177).guard = false)
    ∧ ¬ ((patEnt (at_ []) 177).owner < 8 ∧ (patEnt (at_ []) 177).owner ≠ 0 ∧ (patEnt (at_ []) 177).guard = false)
    ∧ (patEnt own 5721).owner < 8 ∧ bits (15 : Word) 3 0 = 15 ∧ 175 < 176 ∧ 5722 ≤ 5722 := by decide

/-! ### The host, firmware and trust -/

/-- Administration with these command words. -/
def adm (s : State) (l : List Word) : State :=
  { s with adm := { AdmSt.reset with busy := true, run := Vector.ofFn (fun i => l.getD i.val 0) } }
def page1 : Page := ⟨0x2000, 0x2C0000000, false⟩
theorem witness_AdministrationCommands :
    let s := fresh
    let create := adm s [1, 63, 64, 0x710, 16]
    let q := { s with queues := [(63, queue0)] }
    let busy := { s with queues := [(63, queue0)], ifs := [(0, { IfSt.reset with st := .run })] }
    let frames := adm { s with pat := [(177, ⟨1, false⟩)] } [4, 0, 176, 1]
    let rel := adm { s with pat := [(5721, ⟨7, false⟩)] } [5, 5721, 1]
    let run := adm { s0 with pat := [(176, ⟨0, false⟩)] } [6, 3, 0]
    let x := { launch0 with rcd := rcd0, stage := .out }
    let back := adm { s with launches := [(3, x)], waiting := [⟨rcd0, 0, 0, some 3⟩] } [6, 3, 1]
    let moved := adm sp [7, 3, 0x8000]
    let read := adm { s with launches := [(127, { launch0 with pages := [page1] })] } [8, 127, 0x3FFF]
    create.adm.busy = true ∧ bits (create.adm.run[0]) 7 0 = 1 ∧ (create.adm.run[1]).toNat ≤ 63 ∧ (create.adm.run[2]).toNat % 64 = 0
    ∧ 4 ≤ bits (create.adm.run[3]) 7 0 ∧ bits (create.adm.run[3]) 7 0 ≤ 16 ∧ bits (create.adm.run[3]) 15 8 ≤ 7
    ∧ bits (create.adm.run[3]) 63 16 = 0 ∧ (create.adm.run[4]).toNat % 16 = 0 ∧ fget create.queues 63 = none
    ∧ descStalls create 63 = false ∧ descStalls (adm q [2, 63]) 63 = false
    ∧ (∀ w ∈ (adm q [2, 63]).waiting, w.rcd.queue ≠ 63) ∧ (∀ l ∈ (adm q [2, 63]).launches, l.2.rcd.queue ≠ 63)
    ∧ (ifSt create 7).st = .unlocked ∧ 63 < (adm s [1, 64]).adm.run[1].toNat
    ∧ fget (adm q [2, 63]).queues 63 = some queue0 ∧ frozenIf (adm busy [2, 63]) 0 = true ∧ frozenIf (adm q [2, 63]) 0 = false
    ∧ queue0.head = queue0.tail ∧ queue0.open_ = [] ∧ (adm q [3, 63, 3, 0x1000, 0x1000]).adm.run[4] ≠ 0
    ∧ (patEnt frames 176).owner = 15 ∧ (patEnt frames 177).owner < 8 ∧ (patEnt frames 177).owner ≠ 0 ∧ (patEnt frames 177).guard = false
    ∧ frozenIf frames 0 = false ∧ (patEnt (adm s [4, 0, 176, 1]) 177).owner = 15
    ∧ (patEnt rel 5721).owner < 8 ∧ frozenIf rel 7 = false ∧ (∀ l ∈ rel.launches, 5721 ∉ l.2.frames)
    ∧ 128 ≤ (adm s [6, 128]).adm.run[1].toNat
    ∧ fget run.launches 3 = some launch0 ∧ launch0.stage = .running ∧ (∀ m ∈ run.moves, m.launch ≠ 3)
    ∧ saveFrames launch0.clusters.length (guestsOf run 3).length ≤ (freeFrames run).length
    ∧ readmitTo back 3 = some (x, [0]) ∧ vacant back ([0].flatMap clusterCores) = true ∧ returnWaits back 3 [0] = false
    ∧ cpStops back x.table 40960 = false ∧ fget (adm s [7, 127, 65535]).launches 127 = none
    ∧ (moved.adm.run[2]).toNat / 2 ^ 14 = 2 ∧ declared img0 0x8000 = true ∧ physRead moved (launch0.table + 8 * 2048) 8 = ent4
    ∧ injFires moved (launch0.table + 8 * 2048) = false ∧ (∀ j, j < 8 → fget moved.errs (sectorOf (launch0.table + 8 * 2048 + j)) = none)
    ∧ entV ent4 = true ∧ entCore ent4 = some 4 ∧ isTeller 4 = false
    ∧ (∀ m ∈ moved.moves, m.frm ≠ 4) ∧ (Machine.core moved 4).fwd = none ∧ (moveTo moved 4).isSome = true
    ∧ fget read.launches 127 = some { launch0 with pages := [page1] } ∧ bits ((adm s [9]).adm.run[0]) 7 0 = 9 := by
  and_intros <;> decide +kernel
theorem witness_HostAccesses :
    let s := { fresh with fw := { FwSt.reset with fwst := 2, running := true } }
    let open_ := { s with pat := [(176, ⟨0, false⟩)] }
    hostReads s none 0x1FFFFFF = true ∧ hostReads s none 0x2000000 = false ∧ hostReads open_ none 0x80000000 = true
    ∧ hostWrites open_ none 0x80000000 = true ∧ hostPa 0x80000000 = some 0x2C0000000 ∧ vaultStalls open_ 0x2C0000000 = false
    ∧ chanBusy open_ 0x2C0000000 = false ∧ injFires open_ 0x2C0000000 = false ∧ open_.errs = [] ∧ open_.poison = []
    ∧ State.MemOk open_ ∧ hostWrites s none 0 = false ∧ open_.sl.phase = .open_
    ∧ entCore (BitVec.ofNat 64 (bits (0x2000000 : Word) 15 0 * 2 ^ 32 + bits (0x2000000 : Word) 31 16 * 2 ^ 16)) = some 1 := by
  refine ⟨by decide, by decide, by decide, by decide, by decide, by decide, by decide, by decide, rfl, rfl, by unfold State.MemOk; decide,
    by decide, by decide, by decide⟩
theorem witness_FirmwareSteps :
    let at_ (n : Nat) : State := { State.reset with fw := { FwSt.reset with fwst := n, running := n == 2 } }
    (at_ 0).fw.fwst = 0 ∧ (at_ 2).fw.fwst = 2 ∧ 1 < 2 ∧ 1 ≠ (at_ 2).fw.slot ∧ (at_ 2).fw.instAt = false ∧ (at_ 1).fw.fwst = 1
    ∧ cpWaits (at_ 1) (slotBase 0) (fwSpan (at_ 1) 0) = false ∧ cpStops (at_ 1) (slotBase 0) (fwSpan (at_ 1) 0) = false
    ∧ fwCheck (cpReads (facing (at_ 1) .firmwareVerification) (slotBase 0) (fwSpan (at_ 1) 0)) 0 = 1 ∧ (at_ 3).fw.fwst = 3 ∧ queueSafe (at_ 3) = true ∧ (at_ 2).cores = [] ∧ (at_ 2).fw.entries = []
    ∧ 1215 < 1216 ∧ (0x2000 : Word).getLsbD 0 = false := by decide
theorem no_frames (s : State) (h : s.pat = []) (f : Nat) : (patEnt s f).owner ≠ 7 := by
  simp only [patEnt, h, fget, Option.getD_none]; split <;> decide
theorem witness_InterfaceSteps :
    let at_ (st : IfState) (r : Bool) : State := { State.reset with ifs := [(7, { IfSt.reset with st := st, read := r })] }
    let held := { at_ .run true with launches := [(0, { launch0 with iface := 7 })] }
    (ifSt State.reset 7).st = .unlocked ∧ (ifSt (at_ .locked true) 7).st = .locked ∧ (ifSt (at_ .locked true) 7).read = true
    ∧ (ifSt (at_ .run false) 7).st = .run ∧ (ifSt (at_ .run false) 7).read = false ∧ ifQuiet (at_ .run false) 7 = true
    ∧ (∀ f, (patEnt (at_ .run false) f).owner ≠ 7) ∧ ifQuiet held 7 = false ∧ (ifSt (at_ .error false) 7).st = .error := by
  refine ⟨rfl, rfl, rfl, rfl, rfl, by decide, fun f => no_frames _ rfl f, by decide, rfl⟩

/-! ### The fabric, service life, fetching and the step -/

/-- Command processor 2, in machine mode, at 0x1000000000 above the word at `pa0`, where `addi x5, x0, 7` stands; x6 holds its pc. -/
def cp0 : CpSt := { CpSt.reset with pc := 0x12C0000040, x := CpSt.reset.x.set 6 0x12C0000040 }
def scp (c : CpSt) : State :=
  { fresh with cps := [(2, c)], mem := put [] pa0 4 0x00700293, pat := [(176, ⟨0, false⟩)], agenda := [.cpStep 2] }
theorem witness_CommandProcessors :
    let s := scp cp0
    (cpSt (scp { cp0 with mode := 1 }) 2).mode < 3 ∧ (cpSt s 2).mode = 3 ∧ 0xFC0 ≤ 0xFC1 ∧ 31 < 32 ∧ pa0 % 8 = 0 ∧ paValid pa0 = true
    ∧ (cpCsr (cpSt s 2) 0x300).getLsbD 17 = false ∧ (∀ k, pmpCfg (cpSt s 2) k / 8 % 4 = 0) ∧ (cpX s 2 6).toNat = 0x1000000000 + pa0
    ∧ cpWaits s pa0 8 = false ∧ cpStops s pa0 8 = false ∧ s.powered = true ∧ s.agenda = .cpStep 2 :: [] ∧ cpTakes (cpSt s 2) = none
    ∧ (cpSt s 2).wfi = false ∧ ∃ v z pc, rvFetch (modCp { s with agenda := [] } 2 (fun c => { c with wfi := false })) 2 = .ok v (0x00700293, 4)
      ∧ rvExec v 2 0x00700293 4 = .ok z pc := by
  refine ⟨by decide, by decide, by decide, by decide, by decide, by decide, by decide, fun k => by simp [pmpCfg, cpCsr, scp, cpSt, fget, cp0, CpSt.reset, bits],
    by decide, by decide, by decide, rfl, rfl, rfl, rfl, _, _, _, rfl, rfl⟩
/-- R371: a frame from a port's peer, with the tag that the port's receiving key gives it, is good. -/
theorem signed_ok (x : PortSt) (f : FrameIn) (hk : f.flags % 2 = x.rxKey % 2) (hl : f.linkid = linkWord x.peer x.peerP) :
    frameOk x (sign x.rxKey f) = true := by
  have h : rxKeyOf x (sign x.rxKey f) = x.rxKey := by simp [rxKeyOf, sign, hk]
  unfold frameOk
  rw [h]
  simp [hk, hl, sign, frameNonce, frameHead]
theorem witness_FabricSteps :
    let fab := { FabSt.reset with joined := true }
    let on (p : PortSt) : State := { fresh with fab := { fab with ports := [(0, p)] } }
    let up (rx : Option Nat) : PortSt := { PortSt.reset with st := 3, rxCtr := rx }
    let f (ctr link : Nat) (l : List Flit) : FrameIn := ⟨0, link, ctr, 0, 0, 0, l, 0⟩
    let place : PlaceMsg := ⟨0, .away 0, 0, 0, true, 0, [], .nobody, 0, 0⟩
    let pk (d : Nat) : Packet := ⟨0, d, none, 0, .ordered, 0, 1, .place place⟩
    let ack : Packet := ⟨(neighbours 0).getD 0 0, 0, none, 0, .control, 0, 1, .rekeyAck⟩
    let turning := { State.reset with fab := { FabSt.reset with prev := some ⟨0, []⟩, free_ := some ⟨2, []⟩, cur := ⟨1, []⟩ } }
    let second := { turning with fab := { turning.fab with modnum := 1, caps := [(0, 0)] } }
    let lead := { fresh with fab := { fab with caps := [(1, 0)] } }
    let bad := { up (some 5) with refus := 8, lastBad := 6 }
    frameOk (up (some 5)) (sign (up (some 5)).rxKey (f 6 0 [])) = true
    ∧ frameOk (up none) (sign (up none).rxKey (f 0 0 [⟨pk 1, 0, 1⟩])) = true
    ∧ peerOf fresh.fab.modnum 0 = some ((neighbours 0).getD 0 0) ∧ (neighbours 0).getD 0 0 ≠ 0 ∧ (portSt fresh 0).st = 0
    ∧ (portSt (on { PortSt.reset with st := 1 }) 0).st = 1 ∧ (portSt (on { PortSt.reset with st := 2 }) 0).st = 2
    ∧ (on { PortSt.reset with st := 2 }).fab.joined = true ∧ (portSt (on (up none)) 0).st = 3 ∧ (f 5 0 []).ctr < 6
    ∧ (portSt (on (up (some 5))) 0).rxCtr = some 5
    ∧ (sign (up (some 5)).rxKey (f 6 0 [])).ctr = 5 + 1 ∧ (f 6 0 []).flits = []
    ∧ (sign (up none).rxKey (f 0 0 [⟨pk 1, 0, 1⟩])).flits = [⟨pk 1, 0, 0 + 1⟩]
    ∧ (pk 1).gen = fab.cur.gen ∧ (pk 1).dest ≠ fab.modnum ∧ (pk 0).dest = fab.modnum ∧ (pk 0).body = .place place
    ∧ frameOk (up (some 5)) (f 6 1 []) = false ∧ (up (some 5)).refus = 0 ∧ 6 < 7 ∧ bad.refus ≠ 0 ∧ 6 ≤ bad.lastBad ∧ bad.lastBad < 7
    ∧ (on (up none)).fab.caps = [] ∧ isLeader (on (up none)) = true ∧ { up none with txCtr := 2 ^ 32 }.keyAt + fab.rekey ≤ 2 ^ 32
    ∧ (up none).asked = false ∧ (up none).txCtr < (up none).keyAt + fab.rekey
    ∧ ack.cls = .control ∧ ack.body = .rekeyAck ∧ portTo (on { up none with asked := true }) ack.src = some 0
    ∧ State.reset.fab.prev = none ∧ (⟨1, []⟩ : RTable).gen = (State.reset.fab.cur.gen + 1) % 65536 ∧ isLeader lead = true
    ∧ lead.fab.caps = [(1, 0)] ∧ turning.fab.free_ = some ⟨2, []⟩ ∧ canDrain turning = true ∧ turning.fab.caps = [] ∧ isLeader second = false
    ∧ canDrain second = true ∧ State.reset.launches = [] := by
  refine ⟨signed_ok _ _ rfl rfl, signed_ok _ _ rfl rfl, ?_⟩
  and_intros <;> decide +kernel
theorem witness_ServiceLifeSteps :
    let hot := { State.reset with life := { LifeSt.reset with hot := true, temp0 := 460 } }
    let late := { State.reset with cycle := 2 ^ 36 }
    let raised := { State.reset with life := { LifeSt.reset with pwcap := 2300, eff := 1000 } }
    State.reset.cycle < State.reset.life.winAt + 2500000 ∧ late.life.winAt + 2500000 ≤ late.cycle
    ∧ late.life.rpAt + late.life.rpper.toNat ≤ late.cycle ∧ fget State.reset.life.ageAt 79 = none
    ∧ State.reset.life.pwcap = State.reset.life.eff ∧ State.reset.life.hot = false ∧ hot.life.hot = true ∧ 459 < 460
    ∧ State.reset.life.temp1 < 460 ∧ State.reset.life.temp0 < 460 ∧ 460 < 4096 ∧ raised.life.pwcap ≠ raised.life.eff ∧ raised.life.hot = false
    ∧ late.fab.hold = false
    ∧ 79 < 256 ∧ (Nat.testBit 79 6 = true → 79 % 64 < 16) ∧ (12 : Nat) < 13 := by decide
theorem witness_InstructionFetch :
    let x := modMyCore s0 (fun c => { c with tlb := [(0, ⟨0x1, 0x2C0000007, none⟩)] })
    let bad := { x with poison := [(0x2C0001000 + 32) / 32] }
    trIn x (tlbFind (Machine.core x 0).tlb false (some 3) 0x1000) 0x1000 needX = .pa 0x2C0001000
    ∧ injFires x 0x2C0001000 = false ∧ x.errs = [] ∧ (∀ k, k < 8 → tauRefuses x (reqLaunch (thr x ⟨0, 0⟩)) (0x2C0001000 + 8 * k) = none)
    ∧ tauRefuses bad (reqLaunch (thr bad ⟨0, 0⟩)) (0x2C0001000 + 8 * 7) ≠ none
    ∧ trIn s0 (tlbFind (Machine.core s0 0).tlb false (some 3) 0x1000) 0x1000 needX = .miss := by decide
theorem witness_DecodeEncode : (Instr.amo .cas 4 5 6 7 (some .sys) false).wf = true
    ∧ encode (.amo .cas 4 5 6 7 (some .sys) false) ≠ [] ∧ (Instr.li 31 ⟨4, -17592186044416⟩).wf = true
    ∧ encode (.li 31 ⟨4, -17592186044416⟩) ≠ [] := by decide
theorem witness_DecodeSound : ∃ i n, decode [0xFA40, 0x1000, 0xFFFF] = .ok i n := ⟨_, _, rfl⟩
/-- The words of an `add` at pc, and words that are no instruction, in the cache. -/
def lines (b : List Byte) : State :=
  { modMyCore s0 (fun x => { x with icache := [⟨0x40, false, none, b ++ List.replicate (64 - b.length) 0⟩] }) with agenda := [.issue 0 0] }
theorem witness_StepRunsDecoded :
    let s := lines [0x62, 0x17]
    let bad := lines [0xFF, 0xFF]
    let filled := modMyCore s (fun x => { x with ibufs := [(0, ⟨0x1000, false, none, [0x17E2]⟩)] })
    (fget (Machine.core filled 0).ibufs 0).map (fun b => (b.pc, b.fw, b.tag)) = some (0x1000, false, none)
    ∧ (Machine.core s 0).ibufs = [] ∧ s.powered = true ∧ s.agenda = .issue 0 0 :: [] ∧ pickSlot { s with agenda := [] } 0 = some 0
    ∧ decode (fetchWords (Machine.core s 0) false none 0x1000 5) = .ok (.addImm 27 none ⟨0, 2⟩) 1
    ∧ pickSlot { bad with agenda := [] } 0 = some 0 ∧ ∃ off, decode (fetchWords (Machine.core bad 0) false none 0x1000 5) = .bad off := by
  refine ⟨rfl, rfl, rfl, rfl, by decide, by decide, by decide, ⟨_, rfl⟩⟩
theorem witness_MemoryStaysCanonical : State.MemOk { State.reset with agenda := [.tick 1] }
    ∧ ∃ t, Sys2Proof.Machine.step { State.reset with agenda := [.tick 1] } = .next t :=
  ⟨by unfold State.MemOk; decide, _, rfl⟩
/-- The statement has no hypotheses; a step that meets an address the spec does not give answers too. -/
theorem witness_NothingIsRefused :
    let m : ChldMsg := ⟨.thr ⟨0, 28⟩, none, 0, true, 0x59680000000, 0, 0, none, [0xFFFFFFFFFFF8000], false, 4, some 0x59680000000⟩
    paValid 0x59680000000 = false ∧ ∃ t, exec .chldStep (facing s0 (.chldStep m)) = .next t :=
  ⟨by decide, _, rfl⟩

end Sys2Proof.Tests
end

