-- ==== Sys2Proof/Proofs/FetchingAndIssuing.lean ====
section
/-!
PROOFS. Arithmetic with registers (R100 to R102) and branches and jumps (R107 to R109): first what the value functions of the
model compute, then how each shared form of issue completes when its queues are ready, then the two obligations.
-/
namespace Sys2Proof.Proofs.FetchingAndIssuing
open Sys2Proof Sys2Proof.Machine

/-! ## The values of the table of R102 -/

/-- The high half of a product of 64-bit numbers is that of the product of their extensions: both are the product modulo
2^128, divided by 2^64. -/
theorem opMulh_eq (x y : Word) :
    opMulh x y = ((x.signExtend 128 * y.signExtend 128) >>> 64).setWidth 64 := by
  have hext : ∀ z : Word, z.signExtend 128 = BitVec.ofInt 128 z.toInt := fun z => by
    rw [← BitVec.toInt_signExtend_of_le (v := 128) (by decide), BitVec.ofInt_toInt]
  rw [hext, hext, ← BitVec.ofInt_mul, opMulh]
  apply BitVec.eq_of_toNat_eq
  simp only [BitVec.toNat_setWidth, BitVec.toNat_ushiftRight, BitVec.toNat_ofInt, Nat.shiftRight_eq_div_pow]
  omega

theorem opMulhu_eq (x y : Word) :
    opMulhu x y = ((x.setWidth 128 * y.setWidth 128) >>> 64).setWidth 64 := by
  have hx := x.isLt
  have hy := y.isLt
  have hlt : x.toNat * y.toNat < 2 ^ 128 := by
    calc x.toNat * y.toNat < 2 ^ 64 * 2 ^ 64 := Nat.mul_lt_mul'' hx hy
      _ = 2 ^ 128 := by norm_num
  apply BitVec.eq_of_toNat_eq
  simp only [opMulhu, BitVec.toNat_ofNat, BitVec.toNat_setWidth, BitVec.toNat_ushiftRight, BitVec.toNat_mul,
    Nat.shiftRight_eq_div_pow]
  rw [Nat.mod_eq_of_lt (a := x.toNat) (by omega), Nat.mod_eq_of_lt (a := y.toNat) (by omega), Nat.mod_eq_of_lt hlt]

/-- R102: the quotient of the one overflowing division, 2^63, is -2^63 as a word, so the model's case for it is the general
rule. -/
theorem opDiv_eq (x y : Word) : opDiv x y = if y = 0 then -1 else BitVec.ofInt 64 (x.toInt.tdiv y.toInt) := by
  unfold opDiv
  split
  · rfl
  · split
    next hover =>
      obtain ⟨rfl, rfl⟩ := hover
      decide
    next => rfl

/-- Dividend less quotient times divisor may be taken in words, where the overflowing division's remainder is 0 too. -/
theorem opRem_eq (x y : Word) : opRem x y = if y = 0 then x else BitVec.ofInt 64 (x.toInt.tmod y.toInt) := by
  unfold opRem
  split
  · rfl
  next hy =>
    split
    next hover =>
      obtain ⟨rfl, rfl⟩ := hover
      decide
    next =>
      rw [opDiv_eq, if_neg hy, Int.tmod_def]
      simp only [Int.sub_eq_add_neg, BitVec.ofInt_add, BitVec.ofInt_neg, BitVec.ofInt_mul, BitVec.ofInt_toInt, BitVec.mul_comm]

theorem opDivu_eq (x y : Word) : opDivu x y = if y = 0 then -1 else x / y := by
  rw [opDivu, ← BitVec.toNat_udiv, BitVec.ofNat_toNat, BitVec.setWidth_eq]
  rfl

theorem opRemu_eq (x y : Word) : opRemu x y = if y = 0 then x else x % y := by
  have hmod : x.toNat - x.toNat / y.toNat * y.toNat = (x % y).toNat := by
    rw [BitVec.toNat_umod, Nat.mul_comm, Nat.mod_eq_sub]
  rw [opRemu, hmod, BitVec.ofNat_toNat, BitVec.setWidth_eq]

/-- A comparison's bit is 1 or 0 (R102). -/
theorem b64_decide (p : Prop) [Decidable p] : b64 (decide p) = if p then 1 else 0 := by
  by_cases h : p <;> simp [b64, h]

theorem opSlt_eq (x y : Word) : opSlt x y = if x.toInt < y.toInt then 1 else 0 := by
  rw [opSlt, BitVec.slt_eq_decide, b64_decide]

theorem opSltu_eq (x y : Word) : opSltu x y = if x.toNat < y.toNat then 1 else 0 := by
  rw [opSltu, BitVec.ult_eq_decide, b64_decide]

theorem opSeq_eq (x y : Word) : opSeq x y = if x = y then 1 else 0 := b64_decide (x = y)

theorem opSne_eq (x y : Word) : opSne x y = if x = y then 0 else 1 := by
  by_cases h : x = y <;> simp [opSne, b64, h]

/-! ## How the forms complete when their queues are ready -/

/-- Class R (R100): the instruction completes with the value that its function computes of its sources. -/
theorem classR_completes {s : State} {a b : Reg} {c : Option Reg} (h : QueuesReady s [srcX a b c, srcY b c] [a])
    {f : Word → Word → Word} {v : Word} (hv : f (rd s (srcX a b c)) (rd s (srcY b c)) = v) :
    (.next (classR f a b c s) : Out) = .next (wrote s (1 + optLen c) [srcX a b c, srcY b c] a v) := by
  rw [classR_ready f h, hv]

/-- R107: a branch goes to its target or to the next instruction as the proposition that its condition decides. -/
theorem branch_completes {s : State} {srcs : List Reg} (h : QueuesReady s srcs []) (len : Nat) (o : Imm)
    {cond : State → Bool} {p : Prop} [Decidable p] (hp : cond s = decide p) :
    (.next (branch len srcs o cond s) : Out)
      = .next (if p then went s srcs ((me s).pc + BitVec.ofInt 64 (2 * o.v)) else passed s len srcs) := by
  rw [branch_ready h, hp]
  simp only [decide_eq_true_eq, relTarget]

/-- An instruction that names no queue runs its body. -/
theorem runI_plain (s : State) (len : Nat) (body : State → Eff) : runI len [] [] s body = finish len false (body s) :=
  runI_ready (queuesReady_of_plain s List.not_mem_nil List.not_mem_nil) len body

/-- R108: a jump through a register `a`, with its link written by `link`: an even target is where it goes, an odd one traps
before the link is written. -/
theorem runI_jumpThrough {s : State} {srcs dsts : List Reg} (h : QueuesReady s srcs dsts) (len : Nat) (a : Reg)
    (link : State → State) :
    runI len srcs dsts s
        (fun u => if (rd u a).getLsbD 0 then .trap u 0x02 (rd u a) else .jump (link u) (rd u a))
      = if (rd s a).getLsbD 0 then trapMe s 0x02 (rd s a) else went (link s) srcs (rd s a) := by
  rw [runI_ready h]
  cases (rd s a).getLsbD 0 <;> rfl

theorem exec_jr {s : State} {a : Reg} (h : QueuesReady s [a] []) :
    exec (.jr a) s = .next (if (rd s a).getLsbD 0 then trapMe s 0x02 (rd s a) else went s [a] (rd s a)) :=
  congrArg _ (runI_jumpThrough h 1 a id)

theorem exec_jlr {s : State} {a d : Reg} (h : QueuesReady s [a] [d]) :
    exec (.jlr d a) s
      = .next (if (rd s a).getLsbD 0 then trapMe s 0x02 (rd s a) else went (wr s d ((me s).pc + 2)) [a] (rd s a)) :=
  congrArg _ (runI_jumpThrough h 1 a (fun u => wr u d (nextPc u 1)))

/-! ## The obligations -/

/-- Settles O1: each instruction is of class R, and its value function computes the entry of the table. -/
theorem arithmeticResults : Obligations.ArithmeticResults := by
  intro s a b c h
  refine ⟨?add, ?sub, ?mul, ?mulh, ?mulhu, ?div, ?divu, ?rem, ?remu, ?slt, ?sltu, ?seq, ?sne⟩
  case add => exact classR_completes h rfl
  case sub => exact classR_completes h rfl
  case mul => exact classR_completes h rfl
  case mulh => exact classR_completes h (opMulh_eq _ _)
  case mulhu => exact classR_completes h (opMulhu_eq _ _)
  case div => exact classR_completes h (opDiv_eq _ _)
  case divu => exact classR_completes h (opDivu_eq _ _)
  case rem => exact classR_completes h (opRem_eq _ _)
  case remu => exact classR_completes h (opRemu_eq _ _)
  case slt => exact classR_completes h (opSlt_eq _ _)
  case sltu => exact classR_completes h (opSltu_eq _ _)
  case seq => exact classR_completes h (opSeq_eq _ _)
  case sne => exact classR_completes h (opSne_eq _ _)

/-- Settles O4: a branch by what its condition decides, a jump by an immediate by its body alone, a jump through a register by
the lowest bit of its target. -/
theorem branchesAndJumps : Obligations.BranchesAndJumps := by
  refine ⟨fun s a c o => ⟨?nop, ?j, ?jl, fun h => ⟨?bz, ?bnz, fun heven => ?jr⟩, fun d h heven => ?jlr,
    fun h => ⟨?beq, ?bne, ?blt, ?bge, ?bltu, ?bgeu⟩⟩, fun s a d hodd => ⟨fun h => ?jrOdd, fun h => ?jlrOdd⟩⟩
  case nop => exact congrArg Host.Outcome.next (runI_plain s 1 _)
  case j => exact congrArg Host.Outcome.next (runI_plain s (1 + o.n) _)
  case jl => exact congrArg Host.Outcome.next (runI_plain s (1 + o.n) _)
  case bz => exact branch_completes h _ o rfl
  case bnz => exact branch_completes h _ o (decide_not ..).symm
  case jr => rw [exec_jr h, heven]; rfl
  case jlr => rw [exec_jlr h, heven]; rfl
  case beq => exact branch_completes h _ o rfl
  case bne => exact branch_completes h _ o (decide_not ..).symm
  case blt => exact branch_completes h _ o BitVec.slt_eq_decide
  case bge => exact branch_completes h _ o (by simp only [BitVec.slt_eq_decide, ← decide_not, not_lt])
  case bltu => exact branch_completes h _ o BitVec.ult_eq_decide
  case bgeu => exact branch_completes h _ o (by simp only [BitVec.ult_eq_decide, ← decide_not, not_lt])
  case jrOdd => rw [exec_jr h, if_pos hodd]
  case jlrOdd => rw [exec_jlr h, if_pos hodd]

end Sys2Proof.Proofs.FetchingAndIssuing
end

