-- ==== Sys2Proof/Proofs/VectorWork.lean ====
section
/-!
PROOFS. Vector work (R188 to R204): what a form that writes a v register lane by lane does (R189), then the arithmetic and the
logic (R193, R194); compares (R195); loads and stores of lanes (R203), and with them the moves of lanes and predicates
(R196, R204).
-/
namespace Sys2Proof.Proofs.VectorWork
open Sys2Proof Sys2Proof.Machine

/-! ## Lanes -/

theorem laneN_eq_getElem (v : Vector Lane 32) {n : Nat} (hn : n < 32) : laneN v n = v[n] := by
  simp [laneN, List.getD_eq_getElem?_getD, hn]

theorem laneN_mkLanes (f : Nat → Lane) {n : Nat} (hn : n < 32) : laneN (mkLanes f) n = f n :=
  (laneN_eq_getElem _ hn).trans (Vector.getElem_ofFn hn)

theorem laneN_replicate (x : Lane) {n : Nat} (hn : n < 32) : laneN (Vector.replicate 32 x) n = x :=
  (laneN_eq_getElem _ hn).trans (Vector.getElem_replicate hn)

/-- R192: lane `n` of the first source of a binary form. -/
def fstLane (s : State) (d b : VReg) (x : VSrc) (n : Nat) : Lane := laneN (if x = .short then vrd s d else vrd s b) n

/-- R190, R192: lane `n` of the second source: of a v register, or the low half of a g register in every lane. -/
def sndLane (s : State) (b : VReg) (x : VSrc) (n : Nat) : Lane :=
  match x with
  | .short => laneN (vrd s b) n
  | .vec c => laneN (vrd s c) n
  | .gen c => (rd s c).setWidth 32

theorem laneN_vsrc1 (s : State) (d b : VReg) (x : VSrc) (n : Nat) :
    laneN (vrd s (vsrc1 d b x)) n = fstLane s d b x n := by
  rw [fstLane, vsrc1, apply_ite (vrd s)]

theorem laneN_vsrc2 (s : State) (b : VReg) (x : VSrc) {n : Nat} (hn : n < 32) :
    laneN (vsrc2 s b x) n = sndLane s b x n := by
  cases x with
  | short => rfl
  | vec c => rfl
  | gen c => exact laneN_replicate _ hn

/-! ## Events of the governed lanes (R117, R189) -/

/-- A lane counts at most one saturation and one NaN, and no block-scale overflow. -/
def AtMostOne (e : Events) : Prop := e.sat ≤ 1 ∧ e.nan ≤ 1 ∧ e.bso = 0

theorem atMostOne_satEv (c : Bool) : AtMostOne (satEv c) := by
  cases c <;> simp [AtMostOne, satEv]

theorem atMostOne_none : AtMostOne Events.none := atMostOne_satEv false

/-- A counter that moves by at most one in each lane counts the governed lanes in which it moves. -/
theorem foldl_events_count {π : Events → Nat} (hπ : ∀ x y, π (x.plus y) = π x + π y) (pg : Lane)
    {f : Nat → Lane × Events} (hf : ∀ n, π (f n).2 ≤ 1) (l : List Nat) (e : Events) :
    π (l.foldl (fun e n => if plane pg n then e.plus (f n).2 else e) e)
      = π e + (l.filter (fun n => pg.getLsbD n && π (f n).2 == 1)).length := by
  induction l generalizing e with
  | nil => rfl
  | cons n l ih =>
    rw [List.foldl_cons, ih, List.filter_cons]
    have hn := hf n
    cases hg : pg.getLsbD n with
    | false => simp [plane, hg]
    | true =>
      have hstep : π (f n).2 = 0 ∨ π (f n).2 = 1 := by omega
      rcases hstep with h | h <;> simp [plane, hg, hπ, h, Nat.add_assoc, Nat.add_comm 1]

/-- R189: `lanewise` looks at the 32 lanes only. -/
theorem lanewise_congr (pg : Lane) (old : Vector Lane 32) {f g : Nat → Lane × Events} (h : ∀ n, n < 32 → f n = g n) :
    lanewise pg old f = lanewise pg old g := by
  have hlanes : mkLanes (fun n => if plane pg n then (f n).1 else laneN old n)
      = mkLanes (fun n => if plane pg n then (g n).1 else laneN old n) :=
    congrArg Vector.ofFn (funext fun n : Fin 32 => by simp only [h n n.isLt])
  have hevents : (List.range 32).foldl (fun e n => if plane pg n then e.plus (f n).2 else e) Events.none
      = (List.range 32).foldl (fun e n => if plane pg n then e.plus (g n).2 else e) Events.none :=
    List.foldl_ext _ _ _ fun e n hn => by rw [h n (List.mem_range.1 hn)]
  rw [lanewise, lanewise, hlanes, hevents]

theorem laneN_lanewise (pg : Lane) (old : Vector Lane 32) (f : Nat → Lane × Events) {n : Nat} (hn : n < 32) :
    laneN (lanewise pg old f).1 n = if pg.getLsbD n then (f n).1 else laneN old n :=
  laneN_mkLanes (fun n => if plane pg n then (f n).1 else laneN old n) hn

/-- R189: a form that writes a v register lane by lane does what `f` says of each governed lane. -/
theorem vform_laneResults {s : State} {srcs : List Reg} (h : QueuesReady s srcs []) (len : Nat) (p : PReg) (d : VReg)
    {body : State → Nat → Lane × Events} {f : Nat → Lane × Events} (hf : ∀ n, n < 32 → body s n = f n)
    (he : ∀ n, AtMostOne (f n).2) : LaneResults (.next (vform len srcs p d s body)) s len srcs p d f := by
  refine ⟨(lanewise (prd s p) (vrd s d) f).1, (lanewise (prd s p) (vrd s d) f).2, ?run,
    fun n hn => laneN_lanewise _ _ f hn, ?sat, ?nan, ?bso⟩
  case run =>
    rw [← lanewise_congr (prd s p) (vrd s d) hf, vform, runI_ready h, passed]
  case sat => exact (foldl_events_count (fun _ _ => rfl) _ (fun n => (he n).1) _ _).trans (Nat.zero_add _)
  case nan => exact (foldl_events_count (fun _ _ => rfl) _ (fun n => (he n).2.1) _ _).trans (Nat.zero_add _)
  case bso =>
    refine (foldl_events_count (π := Events.bso) (fun _ _ => rfl) _ (fun n => (he n).2.2.le.trans (Nat.zero_le 1)) _ _).trans ?_
    simp [(he _).2.2, Events.none]

/-! ## The forms of R193 and R194 -/

/-- R193: a number's lane counts at most the one saturation that its clamping or rounding reports. -/
theorem atMostOne_number (q : VArith) (e : Int) (v : Val) :
    AtMostOne (if q.t = .i32 then intLane q e else fltLane q v).2 := by
  split
  · exact atMostOne_satEv _
  · exact atMostOne_satEv _

theorem vbin_laneResults {s : State} {x : VSrc} (h : QueuesReady s (vsrcRegs x) []) (q : VArith) (fi : Int → Int → Int)
    (ff : Val → Val → Val) (p : PReg) (d b : VReg) :
    LaneResults (.next (vbin q fi ff p d b x s)) s (2 + vsrcLen x) (vsrcRegs x) p d
      (fun n => arith2 q fi ff (fstLane s d b x n) (sndLane s b x n)) :=
  vform_laneResults h _ p d (fun n hn => by rw [laneN_vsrc1, laneN_vsrc2 s b x hn]) (fun _ => atMostOne_number q _ _)

theorem vlog2s_laneResults {s : State} {x : VSrc} (h : QueuesReady s (vsrcRegs x) []) (f : Lane → Lane → Lane) (p : PReg)
    (d b : VReg) :
    LaneResults (.next (vlog2s f p d b x s)) s (2 + vsrcLen x) (vsrcRegs x) p d
      (fun n => (f (fstLane s d b x n) (sndLane s b x n), Events.none)) :=
  vform_laneResults h _ p d (fun n hn => by rw [laneN_vsrc1, laneN_vsrc2 s b x hn]) (fun _ => atMostOne_none)

/-- A form that reads v registers only needs no queue. -/
theorem vform_plain_laneResults (s : State) (len : Nat) (p : PReg) (d : VReg) {body : State → Nat → Lane × Events}
    (he : ∀ n, AtMostOne (body s n).2) : LaneResults (.next (vform len [] p d s body)) s len [] p d (body s) :=
  vform_laneResults (queuesReady_of_plain s List.not_mem_nil List.not_mem_nil) len p d (fun _ _ => rfl) he

/-- Settles O33: each form writes its lanes by `vform`, and each of its lanes counts at most one saturation. -/
theorem vectorArithmeticAndLogic : Obligations.VectorArithmeticAndLogic := by
  intro s q p d b x h
  refine ⟨?vadd, ?vsub, ?vmul, ?vmin, ?vmax, fun e => ?vfma, ?vabs, ?vneg, ?vand, ?vor, ?vxor, ?vnot, ?vmov, ?vshl, ?vshr,
    ?vsra⟩
  case vadd => exact vbin_laneResults h q (· + ·) (addV q.rm) p d b
  case vsub => exact vbin_laneResults h q (· - ·) (fun x y => addV q.rm x (negV y)) p d b
  case vmul => exact vbin_laneResults h q (· * ·) mulV p d b
  case vmin => exact vbin_laneResults h q min minV p d b
  case vmax => exact vbin_laneResults h q max maxV p d b
  case vfma =>
    exact vform_laneResults h 3 p d (fun n hn => by simp only [laneN_vsrc2 s b x hn]; rfl) (fun _ => atMostOne_number q _ _)
  case vabs => exact vform_plain_laneResults s 2 p d (fun _ => atMostOne_number q _ _)
  case vneg => exact vform_plain_laneResults s 2 p d (fun _ => atMostOne_number q _ _)
  case vand => exact vlog2s_laneResults h (· &&& ·) p d b
  case vor => exact vlog2s_laneResults h (· ||| ·) p d b
  case vxor => exact vlog2s_laneResults h (· ^^^ ·) p d b
  case vnot => exact vform_plain_laneResults s 2 p d (fun _ => atMostOne_none)
  case vmov => exact vform_plain_laneResults s 2 p d (fun _ => atMostOne_none)
  case vshl => exact vlog2s_laneResults h (fun x y => x <<< (y.toNat % 32)) p d b
  case vshr => exact vlog2s_laneResults h (fun x y => x >>> (y.toNat % 32)) p d b
  case vsra => exact vlog2s_laneResults h (fun x y => x.sshiftRight (y.toNat % 32)) p d b

/-! ## Compares (R195) -/

theorem getLsbD_laneMask (f : Nat → Bool) {n : Nat} (hn : n < 32) : (laneMask f).getLsbD n = f n := by
  have hstep : ∀ (a : Lane) (k : Nat), (if f k then a ||| BitVec.twoPow 32 k else a).getLsbD n
      = (a.getLsbD n || (f k && decide (k = n))) := by
    intro a k
    by_cases hk : k = n
    · subst hk
      cases hf : f k <;> simp [hn]
    · cases hf : f k <;> simp [BitVec.getLsbD_twoPow, hk]
  have hbelow : ∀ k, ((List.range k).foldl (fun a n => if f n then a ||| BitVec.twoPow 32 n else a) (0 : Lane)).getLsbD n
      = (decide (n < k) && f n) := by
    intro k
    induction k with
    | zero => simp
    | succ k ih =>
      rw [List.range_succ, List.foldl_append, List.foldl_cons, List.foldl_nil, hstep, ih]
      by_cases hk : k = n
      · simp [hk]
      · have hlt : n < k + 1 ↔ n < k := by omega
        simp [hk, hlt]
  rw [laneMask, hbelow, decide_eq_true hn, Bool.true_and]

/-- R195: the conditions on INT32 lanes, which are never unordered. -/
def intCond (cc : VCond) (y z : Int) : Bool :=
  match cc with
  | .eq => decide (y = z)
  | .ne => decide (y ≠ z)
  | .lt => decide (y < z)
  | .le => decide (y ≤ z)
  | .gt => decide (z < y)
  | .ge => decide (z ≤ y)
  | .uo => false

theorem condHolds_int (cc : VCond) (y z : Int) :
    condHolds cc (decide (y < z)) (decide (y = z)) false = intCond cc y z := by
  cases cc with
  | le => simp [condHolds, intCond, le_iff_lt_or_eq]
  | gt =>
    have hgt : z < y ↔ ¬ y < z ∧ ¬ y = z := by omega
    rw [intCond, decide_eq_decide.2 hgt, Bool.decide_and, decide_not, decide_not]
    rfl
  | ge => exact (decide_not ..).symm.trans (decide_eq_decide.2 not_lt)
  | _ => simp [condHolds, intCond]

/-- R191: an INT32 lane is its number, read signed or unsigned. -/
theorem laneInt_inj (u : Bool) {x y : Lane} : laneInt u x = laneInt u y ↔ x = y := by
  cases u with
  | false => exact BitVec.toInt_inj
  | true => exact Int.natCast_inj.trans BitVec.toNat_inj

theorem cmpLane_eq (cc : VCond) (t : VType) (u : Bool) (x y : Lane) :
    cmpLane cc t u x y = if t = .i32 then intCond cc (laneInt u x) (laneInt u y)
      else condHolds cc (ltV (laneVal t x) (laneVal t y)) (eqV (laneVal t x) (laneVal t y))
        (isNan (laneVal t x) || isNan (laneVal t y)) := by
  have heq : (x == y) = decide (laneInt u x = laneInt u y) := by simp [laneInt_inj, beq_eq_decide]
  rw [cmpLane, heq, condHolds_int]

theorem pwr_eq (s : State) (e : PReg) (m : Lane) : pwr s e m = if e = 0 then s else pwr s e m := by
  by_cases he : e = 0 <;> simp [pwr, he]

/-! ## The running thread's core -/

/-- The later of two writes of one key stands. -/
theorem fset_fset {α : Type} (m : FMap α) (n : Nat) (x y : α) : fset (fset m n x) n y = fset m n y := by
  induction m with
  | nil => simp [fset]
  | cons e m ih =>
    obtain ⟨k, z⟩ := e
    by_cases h1 : n < k
    · simp [fset, h1]
    · by_cases h2 : n = k
      · simp [fset, h2]
      · simp [fset, h1, h2, ih]

/-- The later of two writes of one core stands. -/
theorem setCore_setCore (s : State) (c : Nat) (x y : Core) : setCore (setCore s c x) c y = setCore s c y := by
  simp only [setCore, fset_fset]

/-- The end of an instruction writes the running thread's core anyway: that core may be written back first. -/
theorem passed_setCore_self (t : State) (len : Nat) (srcs : List Reg) :
    passed (setCore t t.cur.core (myCore t)) len srcs = passed t len srcs := by
  unfold passed finish
  cases srcs.contains 30 with
  | false => simp [modMe, modThr_eq, modCore_eq, setCore_setCore, thr, myCore]
  | true =>
    have htake : takeQi (setCore t t.cur.core (myCore t)) = takeQi t := by
      simp [takeQi, modMyCore, modCore_eq, setCore_setCore, myCore]
    simp only [popQi, if_true, htake, setCore_cur]

/-- `u` is `s` but for the running thread's core. -/
def OnlyMyCore (s u : State) : Prop := ∀ x, setCore u s.cur.core x = setCore s s.cur.core x

theorem OnlyMyCore.cur_eq {s u : State} (h : OnlyMyCore s u) : u.cur = s.cur := by
  have hcur : (setCore u s.cur.core Core.reset).cur = (setCore s s.cur.core Core.reset).cur := by rw [h]
  exact hcur

theorem OnlyMyCore.modMyCore {s u : State} (h : OnlyMyCore s u) (f : Core → Core) : OnlyMyCore s (modMyCore u f) := by
  intro x
  rw [Machine.modMyCore, modCore_eq, h.cur_eq, setCore_setCore, h]

/-- An instruction that leaves `u`, which is `s` but for a change of the running thread's core, leaves `s` with that change. -/
theorem passed_of_onlyMyCore {s u : State} {f : Core → Core} (h : OnlyMyCore s u) (hf : myCore u = f (myCore s)) (len : Nat)
    (srcs : List Reg) : passed u len srcs = passed (modMyCore s f) len srcs := by
  rw [← passed_setCore_self u, h.cur_eq, h, hf]
  rfl

/-! ## Stores of lanes (R203) -/

/-- The bytes of a buffer after lanes `0` to `n - 1` have been stored, of which `g` names the governed ones: lane `k` is `w`
bytes of `x k` at `off + k × w`. -/
def storeLanes (m : List Host.Cell) (off w : Nat) (g : Nat → Bool) (x : Nat → Lane) (n : Nat) : List Host.Cell :=
  (List.range n).foldl (fun m k => if g k then msets m (off + k * w) (leBytes w (x k).toNat) else m) m

theorem storeLanes_succ (m : List Host.Cell) (off w : Nat) (g : Nat → Bool) (x : Nat → Lane) (n : Nat) :
    storeLanes m off w g x (n + 1) =
      if g n then msets (storeLanes m off w g x n) (off + n * w) (leBytes w (x n).toNat) else storeLanes m off w g x n := by
  simp only [storeLanes, List.range_succ, List.foldl_append, List.foldl_cons, List.foldl_nil]

theorem storeLanes_wf {m : List Host.Cell} (h : Memory.wf m = true) (off w : Nat) (g : Nat → Bool) (x : Nat → Lane) (n : Nat) :
    Memory.wf (storeLanes m off w g x n) = true := by
  induction n with
  | zero => exact h
  | succ n ih =>
    rw [storeLanes_succ]
    split
    · exact msets_wf ih _ _
    · exact ih

theorem extract_laneByte (x : Lane) (k : Nat) : BitVec.ofNat 8 (x.toNat / 256 ^ k) = x.extractLsb' (8 * k) 8 := by
  apply BitVec.eq_of_toNat_eq
  simp [BitVec.extractLsb'_toNat, Nat.shiftRight_eq_div_pow, pow_mul]

/-- R203: after a store of lanes, a byte of a governed lane is that lane's, and every other byte reads as before. -/
theorem mget_storeLanes {m : List Host.Cell} (h : Memory.wf m = true) (off : Nat) {w : Nat} (hw : 0 < w) (g : Nat → Bool)
    (x : Nat → Lane) (n k : Nat) :
    mget (storeLanes m off w g x n) k =
      if off ≤ k ∧ (k - off) / w < n ∧ g ((k - off) / w) = true
      then (x ((k - off) / w)).extractLsb' (8 * ((k - off) % w)) 8 else mget m k := by
  induction n with
  | zero => simp [storeLanes]
  | succ n ih =>
    rw [storeLanes_succ]
    by_cases hk : off ≤ k ∧ (k - off) / w = n
    · obtain ⟨hle, hq⟩ := hk
      have hdiv := Nat.div_add_mod' (k - off) w
      have hmod := Nat.mod_lt (k - off) hw
      rw [hq] at hdiv ih ⊢
      cases hg : g n with
      | false => simp [ih, hg]
      | true =>
        have hbyte : k - (off + n * w) = (k - off) % w := by omega
        rw [if_pos rfl, mget_msets (storeLanes_wf h off w g x n), leBytes_length, if_pos (by omega), hbyte,
          leBytes_getD _ _ _ hmod, extract_laneByte, if_pos ⟨hle, Nat.lt_succ_self n, rfl⟩]
    · have hlane : ¬ (off + n * w ≤ k ∧ k < off + n * w + w) := by
        rintro ⟨hlo, hhi⟩
        exact hk ⟨by omega, Nat.div_eq_of_lt_le (by omega) (by rw [Nat.succ_mul]; omega)⟩
      have hout : mget (msets (storeLanes m off w g x n) (off + n * w) (leBytes w (x n).toNat)) k
          = mget (storeLanes m off w g x n) k := by
        rw [mget_msets (storeLanes_wf h off w g x n), leBytes_length, if_neg hlane]
      have hlt : off ≤ k → ((k - off) / w < n + 1 ↔ (k - off) / w < n) := by
        intro hle
        have hne : (k - off) / w ≠ n := fun hq => hk ⟨hle, hq⟩
        omega
      rw [apply_ite (mget · k), hout, ite_self, ih]
      exact if_congr (and_congr_right fun hle => and_congr_left' (hlt hle).symm) rfl rfl

theorem setBuf_slots (x : Core) (sp : Space) (m : List Host.Cell) : (setBuf x sp m).slots = x.slots := by
  cases sp <;> rfl
theorem bufOf_setBuf (x : Core) (sp : Space) (m : List Host.Cell) : bufOf (setBuf x sp m) sp = m := by
  cases sp <;> rfl
theorem setBuf_setBuf (x : Core) (sp : Space) (m m' : List Host.Cell) : setBuf (setBuf x sp m) sp m' = setBuf x sp m' := by
  cases sp <;> rfl
theorem setBuf_bufOf (x : Core) (sp : Space) : setBuf x sp (bufOf x sp) = x := by
  cases sp <;> rfl

theorem bufWrite_eq (s : State) (sp : Space) (off : Nat) (l : List Byte) :
    bufWrite s s.cur.core sp off l = modMyCore s (fun x => setBuf x sp (msets (bufOf x sp) off l)) := rfl

/-- The state after `vst` has written lanes `0` to `n - 1`. -/
def writeLanes (s : State) (sp : Space) (p : PReg) (d : VReg) (off w n : Nat) : State :=
  (List.range n).foldl (fun s k =>
    if plane (prd s p) k then bufWrite s s.cur.core sp (off + k * w) (leBytes w (laneN (vrd s d) k).toNat) else s) s

theorem writeLanes_succ (s : State) (sp : Space) (p : PReg) (d : VReg) (off w n : Nat) :
    writeLanes s sp p d off w (n + 1) =
      let u := writeLanes s sp p d off w n
      if plane (prd u p) n then bufWrite u u.cur.core sp (off + n * w) (leBytes w (laneN (vrd u d) n).toNat) else u := by
  rw [writeLanes, List.range_succ, List.foldl_append]
  rfl

/-- What `vst` writes is its governed lanes, into the running thread's core; the predicate and the lanes stand meanwhile. -/
theorem writeLanes_spec (s : State) (sp : Space) (p : PReg) (d : VReg) (off w n : Nat) :
    OnlyMyCore s (writeLanes s sp p d off w n) ∧ myCore (writeLanes s sp p d off w n) = setBuf (myCore s) sp
      (storeLanes (bufOf (myCore s) sp) off w (plane (prd s p)) (laneN (vrd s d)) n) := by
  induction n with
  | zero => exact ⟨fun _ => rfl, (setBuf_bufOf _ sp).symm⟩
  | succ n ih =>
    rw [writeLanes_succ, storeLanes_succ]
    generalize writeLanes s sp p d off w n = u at ih
    obtain ⟨honly, hcore⟩ := ih
    have hme : me u = me s := by
      rw [me, thr, ← myCore, hcore, slotOf, setBuf_slots, honly.cur_eq]
      rfl
    have hp : prd u p = prd s p := by rw [prd, hme, prd]
    have hd : vrd u d = vrd s d := by rw [vrd, hme, vrd]
    simp only [hp, hd]
    split
    · rw [bufWrite_eq]
      exact ⟨honly.modMyCore _, by rw [myCore_modMyCore, hcore, bufOf_setBuf, setBuf_setBuf]⟩
    · exact ⟨honly, hcore⟩

/-! ## The checks of a load or store of lanes (R203) -/

/-- R203: lanes at an offset that is no multiple of their width: trap 0x02. -/
theorem runI_vlocal_misaligned {s : State} {r : Reg} {i : Imm} (h : QueuesReady s [r] []) (len : Nat) (sp : Space) {w : Nat}
    (hmis : (ea s r i).toNat % w ≠ 0) (k : State → State → Eff) :
    runI len [r] [] s (fun u => vlocal u sp (ea u r i) w (k u)) = trapMe s 0x02 (ea s r i) := by
  rw [runI_ready h, vlocal, if_pos hmis, finish]

/-- R203: aligned lanes that run past the end of the buffer: trap 0x03. -/
theorem runI_vlocal_outside {s : State} {r : Reg} {i : Imm} (h : QueuesReady s [r] []) (len : Nat) {sp : Space} {w : Nat}
    (hal : (ea s r i).toNat % w = 0) (hout : bufSize sp < (ea s r i).toNat + 32 * w) (k : State → State → Eff) :
    runI len [r] [] s (fun u => vlocal u sp (ea u r i) w (k u)) = trapMe s 0x03 (ea s r i) := by
  rw [runI_ready h, vlocal, if_neg (not_not_intro hal), if_pos hout, finish]

/-- R203: lanes that stand aligned inside the buffer are accessed. -/
theorem runI_vlocal_inside {s : State} {r : Reg} {i : Imm} (h : QueuesReady s [r] []) (len : Nat) {sp : Space} {w : Nat}
    (hal : (ea s r i).toNat % w = 0) (hin : (ea s r i).toNat + 32 * w ≤ bufSize sp) (k : State → State → Eff) :
    runI len [r] [] s (fun u => vlocal u sp (ea u r i) w (k u)) = finish len ([r].contains 30) (k s s) := by
  rw [runI_ready h, vlocal, if_neg (not_not_intro hal), if_neg (Nat.not_lt.2 hin)]

/-- R203: lane `n` of a load at `off`: its bytes, extended to the lane. -/
def loadLane (s : State) (sp : Space) (width : Width) (u : Bool) (off n : Nat) : Lane :=
  let z := mword (bufOf (myCore s) sp) (off + n * wbytes width) (wbytes width)
  (if u then z else opSext width z).setWidth 32

theorem wbytes_pos (width : Width) : 0 < wbytes width := by
  cases width <;> decide

/-! ## Compares, moves, loads and stores -/

/-- Settles O34: a compare writes the mask of the governed lanes where its condition holds; a lane move is a form that writes
its lanes by `vform` or a write of one register; a load or store of lanes meets its checks in order, and a store is `writeLanes`. -/
theorem vectorMovesAndLoads : Obligations.VectorMovesAndLoads := by
  intro s p d b x r
  refine ⟨fun h => ⟨fun cc t u e => ?vcmp, ?vsel⟩, fun c => ?vperm, fun h => ⟨?vbcst, fun n => ?vins, fun e => ?pset⟩,
    fun h => ⟨fun n => ?vext, fun e => ?pget⟩, fun sp width i h => ⟨fun hmis => ?misaligned,
      fun hal hout => ?outside, fun hal hin => ⟨fun u => ?vld, ?vst⟩⟩⟩
  case vcmp =>
    refine ⟨laneMask (fun n => plane (prd s p) n && cmpLane cc t u (laneN (vrd s b) n) (laneN (vsrc2 s b x) n)), ?_,
      fun n hn => ?_⟩
    · rw [← pwr_eq]
      exact congrArg Host.Outcome.next (runI_ready h 3 _)
    · rw [getLsbD_laneMask _ hn, cmpLane_eq, laneN_vsrc2 s b x hn]
      rfl
  case vsel =>
    refine ⟨mkLanes (fun n => if plane (prd s p) n then laneN (vrd s b) n else laneN (vsrc2 s b x) n),
      congrArg Host.Outcome.next (runI_ready h 3 _), fun n hn => ?_⟩
    rw [laneN_mkLanes _ hn, laneN_vsrc2 s b x hn]
    rfl
  case vperm => exact vform_plain_laneResults s 3 p d (fun _ => atMostOne_none)
  case vbcst => exact vform_laneResults h 2 p d (fun _ _ => rfl) (fun _ => atMostOne_none)
  case vins => exact congrArg Host.Outcome.next (runI_ready h 3 _)
  case pset => exact congrArg Host.Outcome.next (runI_ready h 2 _)
  case vext => exact congrArg Host.Outcome.next (runI_ready h 3 _)
  case pget => exact congrArg Host.Outcome.next (runI_ready h 2 _)
  case misaligned =>
    exact ⟨fun u => congrArg Host.Outcome.next (runI_vlocal_misaligned h _ sp hmis _),
      congrArg Host.Outcome.next (runI_vlocal_misaligned h _ sp hmis _)⟩
  case outside =>
    exact ⟨fun u => congrArg Host.Outcome.next (runI_vlocal_outside h _ hal hout _),
      congrArg Host.Outcome.next (runI_vlocal_outside h _ hal hout _)⟩
  case vld =>
    exact ⟨(lanewise (prd s p) (vrd s d) (fun n => (loadLane s sp width u (ea s r i).toNat n, Events.none))).1,
      congrArg Host.Outcome.next (runI_vlocal_inside h _ hal hin _), fun n hn => laneN_lanewise (prd s p) (vrd s d) _ hn⟩
  case vst =>
    obtain ⟨honly, hcore⟩ := writeLanes_spec s sp p d (ea s r i).toNat (wbytes width) 32
    refine ⟨storeLanes (bufOf (myCore s) sp) (ea s r i).toNat (wbytes width) (plane (prd s p)) (laneN (vrd s d)) 32, ?_,
      fun hwf => ⟨storeLanes_wf hwf _ _ _ _ _, fun k => mget_storeLanes hwf _ (wbytes_pos width) _ _ 32 k⟩⟩
    rw [← passed_of_onlyMyCore (f := fun y => setBuf y sp _) honly hcore]
    exact congrArg Host.Outcome.next (runI_vlocal_inside h _ hal hin _)

end Sys2Proof.Proofs.VectorWork
end

section
/-!
PROOFS. Interruption: the return from a trap handler (R305).
-/
namespace Sys2Proof.Proofs.Interruption
open Sys2Proof Sys2Proof.Machine Sys2Proof.Proofs.FetchingAndIssuing

/-- R305: the running thread as it leaves its handler, before its pc changes. -/
def leaveHandler (s : State) : State := modMe s (fun t => { t with th := false })

/-- In a handler `tret` is a jump to `tepc` that leaves the handler. -/
theorem exec_tret_of_handler {s : State} (h : (me s).th = true) :
    exec .tret s = .next (went (leaveHandler s) [] (me s).tepc) := by
  refine congrArg Host.Outcome.next ((runI_plain s 2 _).trans ?_)
  rw [if_pos h]
  rfl

/-- Outside a handler it traps at its own address. -/
theorem exec_tret_of_no_handler {s : State} (h : (me s).th = false) :
    exec .tret s = .next (trapMe s 0x01 (me s).pc) := by
  refine congrArg Host.Outcome.next ((runI_plain s 2 _).trans ?_)
  rw [if_neg (Bool.eq_false_iff.1 h)]
  rfl

/-- Settles O7, by TH: in a handler `tret` is a jump of the state where TH is clear, and what a jump changes and
keeps is `me_went` and `sameElsewhere_went`; outside one it traps. -/
theorem tretReturns : Obligations.TretReturns := by
  refine fun s => ⟨fun h => ⟨went (leaveHandler s) [] (me s).tepc, exec_tret_of_handler h, ?thread, ?frame, ?pending⟩,
    exec_tret_of_no_handler⟩
  case thread => rw [me_went, leaveHandler, me_modMe]
  case frame => exact sameElsewhere_went (sameElsewhere_modMe s _) [] _
  case pending => rfl

end Sys2Proof.Proofs.Interruption
end

section
/-!
PROOFS. Decoding (R32 to R40, R8): reading the words of prefixes and a base word gives them back; a form gives its instruction
exactly if its checks hold; what a page decodes is well-formed and is encoded by the fields it was read from; and, the other
way, the fields of a well-formed instruction give it. The two obligations on decoding and encoding are put together from these.
-/
namespace Sys2Proof.Proofs.Decoding
open Sys2Proof Sys2Proof.Machine

/-! ## Reading words (R33) -/

/-- R33: the words before the base word. -/
def pre (p : Parts) : List HWord :=
  (p.xp.toList.map (fun y => BitVec.ofNat 16 (0x3E * 1024 + y)))
    ++ (p.xs.toList.map (fun y => BitVec.ofNat 16 (0x3F * 1024 + y)))
    ++ (p.xr.toList.map (fun y => BitVec.ofNat 16 (0x3D * 1024 + y)))
    ++ (p.xis.map (fun y => BitVec.ofNat 16 (0x3C * 1024 + y)))

/-- R32: the base word. -/
def baseWord (p : Parts) : HWord := BitVec.ofNat 16 (p.op * 1024 + p.a * 32 + p.b)

theorem words_eq (p : Parts) : p.words = pre p ++ [baseWord p] := rfl

theorem pre_length (p : Parts) : (pre p).length = p.oBase := by
  simp only [pre, Parts.oBase, Parts.oXi, Parts.oXr, Parts.oXs, List.length_append, List.length_map]
  cases p.xp <;> cases p.xs <;> cases p.xr <;> rfl

theorem words_length (p : Parts) : p.words.length = p.len := by
  rw [words_eq, List.length_append, pre_length]
  rfl

/-- R33: the payloads of prefixes fit their ten bits. -/
structure Payloads (p : Parts) : Prop where
  xp : ∀ y ∈ p.xp, y < 1024
  xs : ∀ y ∈ p.xs, y < 1024
  xr : ∀ y ∈ p.xr, y < 1024
  xis : ∀ y ∈ p.xis, y < 1024

/-- R32, R33: prefixes and a base word as they can stand in words: at most four prefixes, and a base word that is none. -/
structure Fits (p : Parts) : Prop extends Payloads p where
  op : p.op < 0x3C
  a : p.a < 32
  b : p.b < 32
  room : p.oBase ≤ 4

/-- The opcode and the payload of a word. -/
theorem word_split (w : HWord) : w = BitVec.ofNat 16 (w.toNat / 1024 * 1024 + w.toNat % 1024) := by
  rw [Nat.div_add_mod', BitVec.ofNat_toNat, BitVec.setWidth_eq]

theorem toNat_prefix {o y : Nat} (ho : o < 64) (hy : y < 1024) :
    (BitVec.ofNat 16 (o * 1024 + y)).toNat / 1024 = o ∧ (BitVec.ofNat 16 (o * 1024 + y)).toNat % 1024 = y := by
  rw [BitVec.toNat_ofNat, Nat.mod_eq_of_lt (by omega)]
  omega

/-- R33: what reading makes of the next word, by its opcode `o` and its payload `y`. -/
theorem scanWords_cons (q : Parts) (last n : Nat) {o y : Nat} (ho : o < 64) (hy : y < 1024) (ws : List HWord) :
    scanWords q last n (BitVec.ofNat 16 (o * 1024 + y) :: ws) =
      if o < 0x3C then .ok { q with op := o, a := y / 32, b := y % 32 }
      else if n = 4 then .error (some n)
      else if o = 0x3E then
        if last = 0 then scanWords { q with xp := some y } 1 (n + 1) ws else .error (some n)
      else if o = 0x3F then
        if last < 2 then scanWords { q with xs := some y } 2 (n + 1) ws else .error (some n)
      else if o = 0x3D then
        if last < 3 then scanWords { q with xr := some y } 3 (n + 1) ws else .error (some n)
      else scanWords { q with xis := q.xis ++ [y] } 4 (n + 1) ws := by
  obtain ⟨hdiv, hmod⟩ := toNat_prefix ho hy
  rw [scanWords]
  simp only [hdiv, hmod]

/-- A word that is no prefix ends the reading. -/
theorem scanWords_base {p : Parts} (h : Fits p) (q : Parts) (last n : Nat) (rest : List HWord) :
    scanWords q last n (baseWord p :: rest) = .ok { q with op := p.op, a := p.a, b := p.b } := by
  have ha := h.a
  have hb := h.b
  have hop := h.op
  rw [baseWord, Nat.add_assoc, scanWords_cons q last n (by omega) (by omega), if_pos hop]
  congr 2 <;> omega

/-- The XI words before a base word are recorded in order. -/
theorem scanWords_xis {p : Parts} (h : Fits p) (rest : List HWord) {l : List Nat} (hl : ∀ y ∈ l, y < 1024) (q : Parts)
    (last : Nat) {n : Nat} (hn : n + l.length ≤ 4) :
    scanWords q last n (l.map (fun y => BitVec.ofNat 16 (0x3C * 1024 + y)) ++ baseWord p :: rest)
      = .ok { q with xis := q.xis ++ l, op := p.op, a := p.a, b := p.b } := by
  induction l generalizing q last n with
  | nil => simpa using scanWords_base h q last n rest
  | cons y l ih =>
    obtain ⟨hy, hl⟩ := List.forall_mem_cons.1 hl
    rw [List.length_cons] at hn
    rw [List.map_cons, List.cons_append, scanWords_cons q last n (by decide) hy, if_neg (by decide), if_neg (by omega)]
    exact (ih hl _ _ (by omega)).trans (by rw [List.append_assoc]; rfl)

theorem scanWords_xp {x : Option Nat} (hx : ∀ y ∈ x, y < 1024) (ws : List HWord) :
    ∃ last, last ≤ 1 ∧ scanWords .empty 0 0 (x.toList.map (fun y => BitVec.ofNat 16 (0x3E * 1024 + y)) ++ ws)
      = scanWords { Parts.empty with xp := x } last x.toList.length ws := by
  cases x with
  | none => exact ⟨0, by decide, rfl⟩
  | some y => exact ⟨1, by decide, (scanWords_cons _ 0 0 (by decide) (hx y rfl) ws).trans (by simp)⟩

theorem scanWords_xs {q : Parts} (hq : q.xs = none) {last n : Nat} (hlast : last ≤ 1) (hn : n < 4) {x : Option Nat}
    (hx : ∀ y ∈ x, y < 1024) (ws : List HWord) :
    ∃ last', last' ≤ 2 ∧ scanWords q last n (x.toList.map (fun y => BitVec.ofNat 16 (0x3F * 1024 + y)) ++ ws)
      = scanWords { q with xs := x } last' (n + x.toList.length) ws := by
  cases x with
  | none =>
    obtain ⟨xp, xs, xr, xis, op, a, b⟩ := q
    cases hq
    exact ⟨last, by omega, rfl⟩
  | some y => exact ⟨2, le_rfl, 
      (scanWords_cons q last n (by decide) (hx y rfl) ws).trans (by simp [show n ≠ 4 by omega, show last < 2 by omega])⟩

theorem scanWords_xr {q : Parts} (hq : q.xr = none) {last n : Nat} (hlast : last ≤ 2) (hn : n < 4) {x : Option Nat}
    (hx : ∀ y ∈ x, y < 1024) (ws : List HWord) :
    ∃ last', scanWords q last n (x.toList.map (fun y => BitVec.ofNat 16 (0x3D * 1024 + y)) ++ ws)
      = scanWords { q with xr := x } last' (n + x.toList.length) ws := by
  cases x with
  | none =>
    obtain ⟨xp, xs, xr, xis, op, a, b⟩ := q
    cases hq
    exact ⟨last, rfl⟩
  | some y => exact ⟨3, 
      (scanWords_cons q last n (by decide) (hx y rfl) ws).trans (by simp [show n ≠ 4 by omega, show last < 3 by omega])⟩

theorem toList_length_le_one {α : Type} (x : Option α) : x.toList.length ≤ 1 := by
  cases x <;> simp

theorem oBase_eq (p : Parts) :
    p.oBase = p.xp.toList.length + p.xs.toList.length + p.xr.toList.length + p.xis.length := by
  simp only [Parts.oBase, Parts.oXi, Parts.oXr, Parts.oXs]
  cases p.xp <;> cases p.xs <;> cases p.xr <;> rfl

/-- R33: the words of prefixes and a base word are read as these, whatever follows them. -/
theorem scanWords_words {p : Parts} (h : Fits p) (rest : List HWord) :
    scanWords Parts.empty 0 0 (p.words ++ rest) = .ok p := by
  have hroom := h.room
  rw [oBase_eq] at hroom
  have h1 := toList_length_le_one p.xp
  have h2 := toList_length_le_one p.xs
  rw [words_eq, pre]
  simp only [List.append_assoc, List.singleton_append]
  obtain ⟨l1, hl1, e1⟩ := scanWords_xp h.xp
    (p.xs.toList.map (fun y => BitVec.ofNat 16 (0x3F * 1024 + y)) ++ (p.xr.toList.map (fun y => BitVec.ofNat 16 (0x3D * 1024 + y))
      ++ (p.xis.map (fun y => BitVec.ofNat 16 (0x3C * 1024 + y)) ++ baseWord p :: rest)))
  obtain ⟨l2, hl2, e2⟩ := scanWords_xs (q := { Parts.empty with xp := p.xp }) rfl hl1 (n := p.xp.toList.length) (by omega) h.xs
    (p.xr.toList.map (fun y => BitVec.ofNat 16 (0x3D * 1024 + y))
      ++ (p.xis.map (fun y => BitVec.ofNat 16 (0x3C * 1024 + y)) ++ baseWord p :: rest))
  obtain ⟨l3, e3⟩ := scanWords_xr (q := { Parts.empty with xp := p.xp, xs := p.xs }) rfl hl2
    (n := p.xp.toList.length + p.xs.toList.length) (by omega) h.xr
    (p.xis.map (fun y => BitVec.ofNat 16 (0x3C * 1024 + y)) ++ baseWord p :: rest)
  rw [e1, e2, e3, scanWords_xis h rest h.xis _ _ (by omega)]
  rfl

/-- The state of a reading (R33): `n` prefixes have been read, of which the last has rank `last`. -/
structure Reading (q : Parts) (last n : Nat) : Prop extends Payloads q where
  count : q.oBase = n
  room : n ≤ 4
  noXp : last = 0 → q.xp = none
  noXs : last < 2 → q.xs = none
  noXr : last < 3 → q.xr = none
  noXis : last < 4 → q.xis = []

/-- What has been read, `ws` being what follows the `n` words already read: parts that fit, whose words are those that were read.
  -/
structure WasRead (q : Parts) (n : Nat) (ws : List HWord) (p : Parts) : Prop where
  fits : Fits p
  words : ∃ k, k ≤ ws.length ∧ p.len = n + k ∧ p.words = pre q ++ ws.take k

theorem wasRead_cons {q q' p : Parts} {n : Nat} {w : HWord} {ws : List HWord} (hpre : pre q' = pre q ++ [w])
    (h : WasRead q' (n + 1) ws p) : WasRead q n (w :: ws) p := by
  obtain ⟨hfits, k, hk, hlen, hwords⟩ := h
  refine ⟨hfits, k + 1, by simpa using hk, by omega, ?_⟩
  rw [hwords, hpre, List.append_assoc, List.take_succ_cons, List.singleton_append]

theorem Reading.readXp {q : Parts} {n y : Nat} (h : Reading q 0 n) (hn : n ≠ 4) (hy : y < 1024) :
    Reading { q with xp := some y } 1 (n + 1) ∧ pre { q with xp := some y } = pre q ++ [BitVec.ofNat 16 (0x3E * 1024 + y)] := by
  obtain ⟨⟨hxp, hxs, hxr, hxis⟩, hcount, hroom, noXp, noXs, noXr, noXis⟩ := h
  obtain ⟨xp, xs, xr, xis, op, a, b⟩ := q
  obtain rfl : xp = none := noXp rfl
  obtain rfl : xs = none := noXs (by decide)
  obtain rfl : xr = none := noXr (by decide)
  obtain rfl : xis = [] := noXis (by decide)
  refine ⟨⟨⟨?_, hxs, hxr, hxis⟩, ?_, by omega, nofun, fun _ => rfl, fun _ => rfl, fun _ => rfl⟩, rfl⟩
  · rintro _ ⟨⟩
    exact hy
  · rw [← hcount]
    rfl

theorem Reading.readXs {q : Parts} {last n y : Nat} (h : Reading q last n) (hl : last < 2) (hn : n ≠ 4) (hy : y < 1024) :
    Reading { q with xs := some y } 2 (n + 1) ∧ pre { q with xs := some y } = pre q ++ [BitVec.ofNat 16 (0x3F * 1024 + y)] := by
  obtain ⟨⟨hxp, hxs, hxr, hxis⟩, hcount, hroom, noXp, noXs, noXr, noXis⟩ := h
  obtain ⟨xp, xs, xr, xis, op, a, b⟩ := q
  obtain rfl : xs = none := noXs hl
  obtain rfl : xr = none := noXr (by omega)
  obtain rfl : xis = [] := noXis (by omega)
  refine ⟨⟨⟨hxp, ?_, hxr, hxis⟩, ?_, by omega, nofun, fun _ => by omega, fun _ => rfl, fun _ => rfl⟩, by simp [pre]⟩
  · rintro _ ⟨⟩
    exact hy
  · rw [← hcount]
    rfl

theorem Reading.readXr {q : Parts} {last n y : Nat} (h : Reading q last n) (hl : last < 3) (hn : n ≠ 4) (hy : y < 1024) :
    Reading { q with xr := some y } 3 (n + 1) ∧ pre { q with xr := some y } = pre q ++ [BitVec.ofNat 16 (0x3D * 1024 + y)] := by
  obtain ⟨⟨hxp, hxs, hxr, hxis⟩, hcount, hroom, noXp, noXs, noXr, noXis⟩ := h
  obtain ⟨xp, xs, xr, xis, op, a, b⟩ := q
  obtain rfl : xr = none := noXr hl
  obtain rfl : xis = [] := noXis (by omega)
  refine ⟨⟨⟨hxp, hxs, ?_, hxis⟩, ?_, by omega, nofun, fun _ => by omega, fun _ => by omega, fun _ => rfl⟩, by simp [pre]⟩
  · rintro _ ⟨⟩
    exact hy
  · rw [← hcount]
    rfl

theorem Reading.readXi {q : Parts} {last n y : Nat} (h : Reading q last n) (hn : n ≠ 4) (hy : y < 1024) :
    Reading { q with xis := q.xis ++ [y] } 4 (n + 1)
      ∧ pre { q with xis := q.xis ++ [y] } = pre q ++ [BitVec.ofNat 16 (0x3C * 1024 + y)] := by
  obtain ⟨⟨hxp, hxs, hxr, hxis⟩, hcount, hroom, -⟩ := h
  refine ⟨⟨⟨hxp, hxs, hxr, fun z hz => ?_⟩, ?_, by omega, nofun, by omega, by omega, by omega⟩, by simp [pre]⟩
  · rcases List.mem_append.1 hz with hz | hz
    · exact hxis z hz
    · exact List.mem_singleton.1 hz ▸ hy
  · rw [oBase_eq] at hcount ⊢
    rw [← hcount, List.length_append]
    rfl

/-- R33: what is read fits, and its words are those that were read. -/
theorem scanWords_sound {q p : Parts} {last n : Nat} {ws : List HWord} (hq : Reading q last n)
    (h : scanWords q last n ws = .ok p) : WasRead q n ws p := by
  induction ws generalizing q last n with
  | nil => simp [scanWords] at h
  | cons w ws ih =>
    obtain ⟨o, y, ho, hy, rfl⟩ : ∃ o y, o < 64 ∧ y < 1024 ∧ w = BitVec.ofNat 16 (o * 1024 + y) :=
      ⟨_, _, by have := w.isLt; omega, Nat.mod_lt _ (by decide), word_split w⟩
    rw [scanWords_cons q last n ho hy] at h
    by_cases hbase : o < 0x3C
    · rw [if_pos hbase] at h
      obtain rfl := Except.ok.inj h
      refine ⟨⟨⟨hq.xp, hq.xs, hq.xr, hq.xis⟩, hbase, ?_, Nat.mod_lt _ (by decide), hq.count.trans_le hq.room⟩,
        1, by simp, congrArg (· + 1) hq.count, ?_⟩
      · show y / 32 < 32
        omega
      · have hword : o * 1024 + y / 32 * 32 + y % 32 = o * 1024 + y := by omega
        simp only [words_eq, baseWord, hword, List.take_succ_cons, List.take_zero]
        rfl
    have hn : n ≠ 4 := fun hn => by simp [hbase, hn] at h
    rw [if_neg hbase, if_neg hn] at h
    by_cases hxp : o = 0x3E
    · by_cases hl : last = 0
      · subst hxp hl
        obtain ⟨hread, hpre⟩ := hq.readXp hn hy
        exact wasRead_cons hpre (ih hread (by simpa using h))
      · simp [hxp, hl] at h
    by_cases hxs : o = 0x3F
    · by_cases hl : last < 2
      · subst hxs
        obtain ⟨hread, hpre⟩ := hq.readXs hl hn hy
        exact wasRead_cons hpre (ih hread (by simpa [hl] using h))
      · simp [hxs, hl] at h
    by_cases hxr : o = 0x3D
    · by_cases hl : last < 3
      · subst hxr
        obtain ⟨hread, hpre⟩ := hq.readXr hl hn hy
        exact wasRead_cons hpre (ih hread (by simpa [hl] using h))
      · simp [hxr, hl] at h
    obtain rfl : o = 0x3C := by omega
    obtain ⟨hread, hpre⟩ := hq.readXi hn hy
    exact wasRead_cons hpre (ih hread (by simpa using h))

theorem reading_empty : Reading Parts.empty 0 0 :=
  ⟨⟨nofun, nofun, nofun, nofun⟩, rfl, by decide, fun _ => rfl, fun _ => rfl, fun _ => rfl, fun _ => rfl⟩

/-- R33: a list of words is read as parts exactly if it begins with their words. -/
theorem scanWords_eq_ok_iff {ws : List HWord} {p : Parts} :
    scanWords Parts.empty 0 0 ws = .ok p ↔ Fits p ∧ p.len ≤ ws.length ∧ p.words = ws.take p.len := by
  refine ⟨fun h => ?_, fun ⟨hfits, hlen, hwords⟩ => ?_⟩
  · obtain ⟨hfits, k, hk, hlen, hwords⟩ := scanWords_sound reading_empty h
    rw [Nat.zero_add] at hlen
    exact ⟨hfits, hlen ▸ hk, hlen ▸ hwords⟩
  · have h := scanWords_words hfits (ws.drop p.len)
    rwa [hwords, List.take_append_drop] at h

/-! ## Checks (R35) -/

theorem firstBad_eq_none {l : List (Bool × Nat)} : firstBad l = none ↔ ∀ e ∈ l, e.1 = true := by
  have key : ∀ (l : List (Bool × Nat)) (acc : Option Nat),
      l.foldl (fun acc e => if e.1 then acc else match acc with
        | some o => some (min o e.2)
        | none => some e.2) acc = none ↔ acc = none ∧ ∀ e ∈ l, e.1 = true := by
    intro l
    induction l with
    | nil => simp
    | cons e l ih =>
      intro acc
      rw [List.foldl_cons, ih, List.forall_mem_cons]
      cases e.1 <;> cases acc <;> simp
  exact (key l none).trans (by simp)

/-- R35: a form gives its instruction exactly if every check holds. -/
theorem form_eq_ok_iff {p : Parts} {xs : Bool} {xr : XrUse} {lo hi : Nat} {l : List (Bool × Nat)} {i j : Instr} :
    p.form xs xr lo hi l i = .ok j ↔
      (p.xs = none ∨ xs = true ∧ p.scope < 6) ∧ (p.xr = none ∨ xr ≠ .no) ∧ (p.xr ≠ none ∨ xr ≠ .req)
        ∧ p.xis.length ≤ hi ∧ lo ≤ p.xis.length ∧ (∀ e ∈ l, e.1 = true) ∧ i = j := by
  have h := firstBad_eq_none (l := (p.xs.isNone || (xs && p.scope < 6), p.oXs)
      :: (p.xr.isNone || xr != .no, p.oXr) :: (p.xr.isSome || xr != .req, p.oBase)
      :: (p.xis.length ≤ hi, p.oXi + hi) :: (lo ≤ p.xis.length, p.oBase) :: l)
  simp only [List.forall_mem_cons, Bool.or_eq_true, Bool.and_eq_true, decide_eq_true_eq, Option.isNone_iff_eq_none,
    Option.isSome_iff_ne_none, bne_iff_ne] at h
  unfold Parts.form
  split
  next hn =>
    obtain ⟨h1, h2, h3, h4, h5, h6⟩ := h.1 hn
    exact ⟨fun hi => ⟨h1, h2, h3, h4, h5, h6, Except.ok.inj hi⟩, fun ⟨_, _, _, _, _, _, hij⟩ => hij ▸ rfl⟩
  next o hs =>
    exact ⟨nofun, fun ⟨h1, h2, h3, h4, h5, h6, _⟩ => absurd (h.2 ⟨h1, h2, h3, h4, h5, h6⟩) (by simp [hs])⟩

/-! ## Immediates (R8) -/

theorem lowBits_lt (v : Int) (k : Nat) : lowBits v k < 2 ^ k := by
  have hpos : (0 : Int) < (2 ^ k : Nat) := by positivity
  have hlt := Int.emod_lt_of_pos v hpos
  have hnn := Int.emod_nonneg v hpos.ne'
  unfold lowBits
  omega

theorem two_pow_pred {k : Nat} (hk : k ≠ 0) : 2 ^ k = 2 * 2 ^ (k - 1) := by
  rw [← pow_succ', Nat.sub_one_add_one hk]

theorem lowBits_sextN {x k : Nat} (hx : x < 2 ^ k) : lowBits (sextN x k) k = x := by
  unfold lowBits sextN
  split
  · rw [Int.emod_eq_of_lt (by omega) (by omega), Int.toNat_natCast]
  · rw [Int.sub_emod_right, Int.emod_eq_of_lt (by omega) (by omega), Int.toNat_natCast]

theorem fitsBits_iff {v : Int} {k : Nat} : fitsBits v k = true ↔ -((2 ^ (k - 1) : Nat) : Int) ≤ v ∧ v <
    ((2 ^ (k - 1) : Nat) : Int) := by
  rw [fitsBits, Bool.and_eq_true, decide_eq_true_eq, decide_eq_true_eq]

theorem fitsBits_sextN {x k : Nat} (hk : k ≠ 0) (hx : x < 2 ^ k) : fitsBits (sextN x k) k = true := by
  have h2 := two_pow_pred hk
  rw [fitsBits_iff, sextN]
  split <;> omega

theorem sextN_lowBits {v : Int} {k : Nat} (hk : k ≠ 0) (h : fitsBits v k = true) : sextN (lowBits v k) k = v := by
  have h2 := two_pow_pred hk
  obtain ⟨hlo, hhi⟩ := fitsBits_iff.1 h
  have hpos : (0 : Int) < (2 ^ k : Nat) := by positivity
  unfold sextN lowBits
  by_cases hv : 0 ≤ v
  · rw [Int.emod_eq_of_lt hv (by omega)]
    split <;> omega
  · rw [← Int.add_emod_right, Int.emod_eq_of_lt (by omega) (by omega)]
    split <;> omega

theorem catXis_append (l : List Nat) (y : Nat) : catXis (l ++ [y]) = catXis l * 1024 + y := by
  simp [catXis]

theorem xiDigits_length (n x : Nat) : (xiDigits n x).length = n := by
  induction n generalizing x with
  | zero => rfl
  | succ n ih => simp [xiDigits, ih]

theorem xiDigits_lt (n x : Nat) : ∀ y ∈ xiDigits n x, y < 1024 := by
  induction n generalizing x with
  | zero => nofun
  | succ n ih =>
    intro y hy
    rcases List.mem_append.1 hy with hy | hy
    · exact ih _ y hy
    · rw [List.mem_singleton.1 hy]
      exact Nat.mod_lt _ (by decide)

theorem catXis_xiDigits {n x : Nat} (hx : x < 2 ^ (10 * n)) : catXis (xiDigits n x) = x := by
  induction n generalizing x with
  | zero => simp at hx; simp [xiDigits, catXis, hx]
  | succ n ih =>
    have hpow : 2 ^ (10 * (n + 1)) = 2 ^ (10 * n) * 1024 := by rw [Nat.mul_add, pow_add]; rfl
    rw [xiDigits, catXis_append, ih (by omega)]
    omega

theorem xiDigits_catXis {l : List Nat} (hl : ∀ y ∈ l, y < 1024) : xiDigits l.length (catXis l) = l := by
  induction l using List.reverseRecOn with
  | nil => rfl
  | append_singleton l y ih =>
    have hy : y < 1024 := hl y (by simp)
    rw [List.length_append, List.length_singleton, catXis_append, xiDigits, show (catXis l * 1024 + y) / 1024 = catXis l by omega,
      ih (fun z hz => hl z (by simp [hz])), show (catXis l * 1024 + y) % 1024 = y by omega]

theorem catXis_lt {l : List Nat} (hl : ∀ y ∈ l, y < 1024) : catXis l < 2 ^ (10 * l.length) := by
  induction l using List.reverseRecOn with
  | nil => decide
  | append_singleton l y ih =>
    have hy : y < 1024 := hl y (by simp)
    have := ih (fun z hz => hl z (by simp [hz]))
    have hpow : 2 ^ (10 * (l.length + 1)) = 2 ^ (10 * l.length) * 1024 := by rw [Nat.mul_add, pow_add]; rfl
    rw [List.length_append, List.length_singleton, catXis_append]
    omega

/-! ## Fields -/

/-- Prefixes and a base word by their fields: page and secondary field, scope and qualifier, third register and modifier. -/
def fields (xp : Option (Fin 16 × Fin 64)) (xs : Option (Fin 8 × Fin 128)) (xr : Option (Reg × Reg)) (xis : List Nat) (op : Nat)
    (a b : Reg) : Parts :=
  ⟨xp.map (fun e => 64 * e.1.val + e.2.val), xs.map (fun e => 128 * e.1.val + e.2.val),
    xr.map (fun e => 32 * e.1.val + e.2.val), xis, op, a.val, b.val⟩

theorem Fits.exists_fields {p : Parts} (h : Fits p) :
    ∃ xp xs xr op a b, p = fields xp xs xr p.xis op a b := by
  obtain ⟨xp, xs, xr, xis, op, a, b⟩ := p
  obtain ⟨⟨hxp, hxs, hxr, -⟩, -, ha, hb, -⟩ := h
  have split {m n : Nat} (x : Option Nat) (hx : ∀ y ∈ x, y < m * n) (hn : 0 < n) :
      ∃ e : Option (Fin m × Fin n), x = e.map (fun e => n * e.1.val + e.2.val) := by
    cases x with
    | none => exact ⟨none, rfl⟩
    | some y => exact ⟨some (⟨y / n, (Nat.div_lt_iff_lt_mul hn).2 (hx y rfl)⟩, ⟨y % n, Nat.mod_lt _ hn⟩),
        by simp [Nat.div_add_mod]⟩
  obtain ⟨exp, rfl⟩ := split (m := 16) (n := 64) xp hxp (by decide)
  obtain ⟨exs, rfl⟩ := split (m := 8) (n := 128) xs hxs (by decide)
  obtain ⟨exr, rfl⟩ := split (m := 32) (n := 32) xr hxr (by decide)
  exact ⟨exp, exs, exr, op, ⟨a, ha⟩, ⟨b, hb⟩, rfl⟩

section
variable {xp : Option (Fin 16 × Fin 64)} {xs : Option (Fin 8 × Fin 128)} {xr : Option (Reg × Reg)} {xis : List Nat} {op : Nat}
  {a b : Reg}

@[simp] theorem fields_a : (fields xp xs xr xis op a b).a = a.val := rfl
@[simp] theorem fields_b : (fields xp xs xr xis op a b).b = b.val := rfl
@[simp] theorem fields_op : (fields xp xs xr xis op a b).op = op := rfl
@[simp] theorem fields_xis : (fields xp xs xr xis op a b).xis = xis := rfl
@[simp] theorem fields_c (c m : Reg) : (fields xp xs (some (c, m)) xis op a b).c = c.val := by
  have := m.isLt
  show (32 * c.val + m.val) / 32 = c.val
  omega
@[simp] theorem fields_m (c m : Reg) : (fields xp xs (some (c, m)) xis op a b).m = m.val := by
  have := m.isLt
  show (32 * c.val + m.val) % 32 = m.val
  omega
@[simp] theorem fields_m_none : (fields xp xs none xis op a b).m = 0 := rfl
@[simp] theorem fields_sec (g : Fin 16) (e : Fin 64) : (fields (some (g, e)) xs xr xis op a b).sec = e.val := by
  have := e.isLt
  show (64 * g.val + e.val) % 64 = e.val
  omega
@[simp] theorem fields_page (g : Fin 16) (e : Fin 64) : (fields (some (g, e)) xs xr xis op a b).page = g.val := by
  have := e.isLt
  show (64 * g.val + e.val) / 64 = g.val
  omega
@[simp] theorem fields_scope (g : Fin 8) (q : Fin 128) : (fields xp (some (g, q)) xr xis op a b).scope = g.val := by
  have := q.isLt
  show (128 * g.val + q.val) / 128 = g.val
  omega
@[simp] theorem fields_qual (g : Fin 8) (q : Fin 128) : (fields xp (some (g, q)) xr xis op a b).qual = q.val := by
  have := q.isLt
  show (128 * g.val + q.val) % 128 = q.val
  omega
@[simp] theorem fields_qual_none : (fields xp none xr xis op a b).qual = 0 := rfl

@[simp] theorem reg_val (a : Reg) : reg a.val = a := Fin.ofNat_val_eq_self a
@[simp] theorem vreg_val (a : VReg) : vreg a.val = a := Fin.ofNat_val_eq_self a
@[simp] theorem preg_val (a : PReg) : preg a.val = a := Fin.ofNat_val_eq_self a
theorem dstOk_iff {a : Reg} : dstOk a = true ↔ a.val ≠ 30 := by
  simp [dstOk, Fin.ext_iff]

@[simp] theorem cOpt_some (c m : Reg) : (fields xp xs (some (c, m)) xis op a b).cOpt = some c := by
  rw [Parts.cOpt, fields_c, reg_val]
  rfl
@[simp] theorem cOpt_none : (fields xp xs none xis op a b).cOpt = none := rfl

variable {lo hi : Nat} {l : List (Bool × Nat)} {i j : Instr}

/-- R35: a form without prefixes but XI words. -/
@[simp] theorem form_no_iff : (fields xp xs xr xis op a b).form false .no lo hi l i = .ok j ↔
    xs = none ∧ xr = none ∧ xis.length ≤ hi ∧ lo ≤ xis.length ∧ (∀ e ∈ l, e.1 = true) ∧ i = j := by
  rw [form_eq_ok_iff]
  simp [fields]

@[simp] theorem form_opt_iff : (fields xp xs xr xis op a b).form false .opt lo hi l i = .ok j ↔
    xs = none ∧ xis.length ≤ hi ∧ lo ≤ xis.length ∧ (∀ e ∈ l, e.1 = true) ∧ i = j := by
  rw [form_eq_ok_iff]
  simp [fields]

@[simp] theorem form_req_iff : (fields xp xs xr xis op a b).form false .req lo hi l i = .ok j ↔
    xs = none ∧ (∃ c m, xr = some (c, m)) ∧ xis.length ≤ hi ∧ lo ≤ xis.length ∧ (∀ e ∈ l, e.1 = true) ∧ i = j := by
  rw [form_eq_ok_iff]
  rcases xr with _ | ⟨c, m⟩ <;> simp [fields]

/-- R36: a form that may have a scope. -/
@[simp] theorem form_scoped_iff {xu : XrUse} : (fields xp xs xr xis op a b).form true xu lo hi l i = .ok j ↔
    (∀ g q, xs = some (g, q) → g.val < 6) ∧ (fields xp none xr xis op a b).form false xu lo hi l i = .ok j := by
  rw [form_eq_ok_iff, form_eq_ok_iff]
  cases xs with
  | none => simp [fields]
  | some e =>
    obtain ⟨g, q⟩ := e
    simp only [fields_scope]
    simp [fields]

/-! ## Immediates in fields -/

theorem immB_okB (h : ∀ y ∈ xis, y < 1024) (hhi : xis.length ≤ hi) : (fields xp xs xr xis op a b).immB.okB hi = true := by
  have hcat := catXis_lt h
  have hb := b.isLt
  have hpow : 2 ^ (5 + 10 * xis.length) = 32 * 2 ^ (10 * xis.length) := pow_add ..
  simp only [Imm.okB, Bool.and_eq_true, decide_eq_true_eq]
  exact ⟨hhi, fitsBits_sextN (by omega) (by simp only [fields_xis, fields_b]; omega)⟩

theorem withImmB_immB (h : ∀ y ∈ xis, y < 1024) (q : Parts) :
    q.withImmB (fields xp xs xr xis op a b).immB = { q with b := b.val, xis := xis } := by
  have hcat := catXis_lt h
  have hb := b.isLt
  have hpow : 2 ^ (5 + 10 * xis.length) = 32 * 2 ^ (10 * xis.length) := pow_add ..
  simp only [Parts.withImmB, Parts.immB, fields_xis, fields_b]
  rw [lowBits_sextN (by omega), show (catXis xis * 32 + b.val) % 32 = b.val by omega,
    show (catXis xis * 32 + b.val) / 32 = catXis xis by omega, xiDigits_catXis h]

theorem immJ_okJ (h : ∀ y ∈ xis, y < 1024) (hhi : xis.length ≤ 4) : (fields xp xs xr xis op a b).immJ.okJ = true := by
  have hcat := catXis_lt h
  have ha := a.isLt
  have hb := b.isLt
  have hpow : 2 ^ (10 + 10 * xis.length) = 1024 * 2 ^ (10 * xis.length) := pow_add ..
  simp only [Imm.okJ, Bool.and_eq_true, decide_eq_true_eq]
  exact ⟨hhi, fitsBits_sextN (by omega) (by simp only [fields_xis, fields_a, fields_b]; omega)⟩

theorem withImmJ_immJ (h : ∀ y ∈ xis, y < 1024) (q : Parts) :
    q.withImmJ (fields xp xs xr xis op a b).immJ = { q with a := a.val, b := b.val, xis := xis } := by
  have hcat := catXis_lt h
  have ha := a.isLt
  have hb := b.isLt
  have hpow : 2 ^ (10 + 10 * xis.length) = 1024 * 2 ^ (10 * xis.length) := pow_add ..
  simp only [Parts.withImmJ, Parts.immJ, fields_xis, fields_a, fields_b]
  rw [lowBits_sextN (by omega), show (catXis xis * 1024 + a.val * 32 + b.val) % 32 = b.val by omega,
    show (catXis xis * 1024 + a.val * 32 + b.val) / 32 % 32 = a.val by omega,
    show (catXis xis * 1024 + a.val * 32 + b.val) / 1024 = catXis xis by omega, xiDigits_catXis h]

theorem immX_nil : (fields xp xs xr [] op a b).immX = ⟨0, 0⟩ := rfl

theorem immX_cons (y : Nat) (l : List Nat) :
    (fields xp xs xr (y :: l) op a b).immX = ⟨(y :: l).length, sextN (catXis (y :: l)) (10 * (y :: l).length)⟩ := rfl

theorem immX_okX (h : ∀ y ∈ xis, y < 1024) (hhi : xis.length ≤ hi) (hlo : lo ≤ xis.length) :
    (fields xp xs xr xis op a b).immX.okX lo hi = true := by
  cases xis with
  | nil => simpa [Imm.okX, immX_nil] using hlo
  | cons y l =>
    have hfits := fitsBits_sextN (k := 10 * (y :: l).length) (by simp) (catXis_lt h)
    rw [immX_cons, Imm.okX, if_neg (by simp), hfits, decide_eq_true hlo, decide_eq_true hhi]
    rfl

theorem withImmX_immX (h : ∀ y ∈ xis, y < 1024) (q : Parts) :
    q.withImmX (fields xp xs xr xis op a b).immX = { q with xis := xis } := by
  cases xis with
  | nil => rfl
  | cons y l =>
    rw [immX_cons, Parts.withImmX, lowBits_sextN (catXis_lt h), xiDigits_catXis h]

end

/-! ## Parts that fit, as fields -/

section
variable {xp : Option (Fin 16 × Fin 64)} {xs : Option (Fin 8 × Fin 128)} {xr : Option (Reg × Reg)} {xis : List Nat} {op : Nat}
  {a b : Reg}

/-- R32: the third register of a form whose modifier is 0. -/
abbrev third (c : Option Reg) : Option (Reg × Reg) := c.map (fun c => (c, 0))

/-- R33: an XR word without a modifier is a third register. -/
theorem exists_third (h : (fields xp xs xr xis op a b).m = 0) : ∃ c, xr = third c := by
  rcases xr with _ | ⟨c, m⟩
  · exact ⟨none, rfl⟩
  · rw [fields_m] at h
    obtain rfl : m = 0 := Fin.ext h
    exact ⟨some c, rfl⟩
@[simp] theorem cOpt_third (c : Option Reg) : (fields xp xs (third c) xis op a b).cOpt = c := by
  cases c <;> simp
@[simp] theorem fields_m_third (c : Option Reg) : (fields xp xs (third c) xis op a b).m = 0 := by
  cases c <;> simp

theorem fits_fields (hop : op < 0x3C) (h : ∀ y ∈ xis, y < 1024)
    (hroom : xp.toList.length + xs.toList.length + xr.toList.length + xis.length ≤ 4) : Fits (fields xp xs xr xis op a b) := by
  have bound {m n : Nat} (x : Option (Fin m × Fin n)) (y : Nat) (hy : y ∈ x.map (fun e => n * e.1.val + e.2.val)) : y < m * n :=
    by
    obtain ⟨⟨e, f⟩, -, rfl⟩ := Option.map_eq_some_iff.1 hy
    calc n * e.val + f.val < n * e.val + n := by omega
      _ = n * (e.val + 1) := rfl
      _ ≤ n * m := Nat.mul_le_mul_left n e.isLt
      _ = m * n := Nat.mul_comm n m
  refine ⟨⟨bound xp, bound xs, bound xr, h⟩, hop, a.isLt, b.isLt, ?_⟩
  rw [oBase_eq]
  cases xp <;> cases xs <;> cases xr <;> exact hroom

theorem Fits.length_le (h : Fits (fields xp xs xr xis op a b)) :
    xp.toList.length + xs.toList.length + xr.toList.length + xis.length ≤ 4 := by
  have hroom := h.room
  rw [oBase_eq] at hroom
  cases xp <;> cases xs <;> cases xr <;> exact hroom

theorem Fits.immB_okC {c : Option Reg} (h : Fits (fields xp xs (third c) xis op a b)) :
    (fields xp xs (third c) xis op a b).immB.okC c = true := by
  have hlen := h.length_le
  refine immB_okB h.xis ?_
  cases c <;> simp at hlen ⊢ <;> omega

/-! ## Immediates as fields -/

variable {i : Imm} {hi lo : Nat}

theorem okSh_iff {c : Option Reg} : i.okSh c = true ↔ i.okC c = true ∧ 0 ≤ i.v ∧ i.v ≤ 63 := by
  simp [Imm.okSh, and_assoc]

theorem exists_immB (h : i.okB hi = true) : ∃ b xis, (∀ y ∈ xis, y < 1024) ∧ xis.length = i.n ∧ i.n ≤ hi
    ∧ (∀ q : Parts, q.withImmB i = { q with b := (b : Reg).val, xis := xis })
    ∧ ∀ xp xs xr op a, (fields xp xs xr xis op a b).immB = i := by
  simp only [Imm.okB, Bool.and_eq_true, decide_eq_true_eq] at h
  obtain ⟨hn, hfits⟩ := h
  have hlt := lowBits_lt i.v (5 + 10 * i.n)
  have hpow : 2 ^ (5 + 10 * i.n) = 32 * 2 ^ (10 * i.n) := pow_add ..
  refine ⟨⟨lowBits i.v (5 + 10 * i.n) % 32, Nat.mod_lt _ (by decide)⟩, xiDigits i.n (lowBits i.v (5 + 10 * i.n) / 32),
    xiDigits_lt _ _, xiDigits_length _ _, hn, fun q => rfl, fun xp xs xr op a => ?_⟩
  rw [Parts.immB, fields_xis, fields_b, xiDigits_length, catXis_xiDigits (by omega), Nat.div_add_mod', sextN_lowBits
    (by omega) hfits]

theorem exists_immJ (h : i.okJ = true) : ∃ a b xis, (∀ y ∈ xis, y < 1024) ∧ xis.length = i.n ∧ i.n ≤ 4
    ∧ (∀ q : Parts, q.withImmJ i = { q with a := (a : Reg).val, b := (b : Reg).val, xis := xis })
    ∧ ∀ xp xs xr op, (fields xp xs xr xis op a b).immJ = i := by
  simp only [Imm.okJ, Bool.and_eq_true, decide_eq_true_eq] at h
  obtain ⟨hn, hfits⟩ := h
  have hlt := lowBits_lt i.v (10 + 10 * i.n)
  have hpow : 2 ^ (10 + 10 * i.n) = 1024 * 2 ^ (10 * i.n) := pow_add ..
  refine ⟨⟨lowBits i.v (10 + 10 * i.n) / 32 % 32, Nat.mod_lt _ (by decide)⟩,
    ⟨lowBits i.v (10 + 10 * i.n) % 32, Nat.mod_lt _ (by decide)⟩, xiDigits i.n (lowBits i.v (10 + 10 * i.n) / 1024),
    xiDigits_lt _ _, xiDigits_length _ _, hn, fun q => rfl, fun xp xs xr op => ?_⟩
  rw [Parts.immJ, fields_xis, fields_a, fields_b, xiDigits_length, catXis_xiDigits (by omega)]
  simp only
  rw [show ∀ u : Nat, u / 1024 * 1024 + u / 32 % 32 * 32 + u % 32 = u by omega, sextN_lowBits (by omega) hfits]

theorem exists_immX (h : i.okX lo hi = true) : ∃ xis, (∀ y ∈ xis, y < 1024) ∧ xis.length = i.n ∧ i.n ≤ hi ∧ lo ≤ i.n
    ∧ (∀ q : Parts, q.withImmX i = { q with xis := xis })
    ∧ ∀ xp xs xr op a b, (fields xp xs xr xis op a b).immX = i := by
  simp only [Imm.okX, Bool.and_eq_true, decide_eq_true_eq] at h
  obtain ⟨⟨hlo, hn⟩, hfits⟩ := h
  refine ⟨xiDigits i.n (lowBits i.v (10 * i.n)), xiDigits_lt _ _, xiDigits_length _ _, hn, hlo, fun q => rfl,
    fun xp xs xr op a b => ?_⟩
  obtain ⟨n, v⟩ := i
  cases n with
  | zero =>
    obtain rfl : v = 0 := by simpa using hfits
    rfl
  | succ n =>
    have hcat := catXis_xiDigits (lowBits_lt v (10 * (n + 1)))
    have hlen := xiDigits_length (n + 1) (lowBits v (10 * (n + 1)))
    cases hxis : xiDigits (n + 1) (lowBits v (10 * (n + 1))) with
    | nil => simp [hxis] at hlen
    | cons y l =>
      rw [hxis] at hcat hlen
      rw [immX_cons, hcat, hlen, sextN_lowBits (by simp) hfits]
end

/-! ## Page 0 -/

theorem rparts_eq (op : Nat) (a b : Reg) (c : Option Reg) : rparts op a b c = fields none none (third c) [] op a b := by
  cases c <;> rfl

theorem iparts_eq {op : Nat} {a b : Reg} {c : Option Reg} {i : Imm} {xis : List Nat}
    (h : ∀ q : Parts, q.withImmB i = { q with b := b.val, xis := xis }) :
    iparts op a c i = fields none none (third c) xis op a b := by
  rw [iparts, h]
  cases c <;> rfl


/-- R105: the width in field b of `sext` and `zext`. -/
theorem widthOf_ext : ∀ b : Reg, b.val / 4 % 4 = 0 → b.val % 4 ≠ 3 → extOk (widthOf (b.val % 4)) = true
    ∧ (b.val < 16 → widthNum (widthOf (b.val % 4)) = b.val) ∧ (¬ b.val < 16 → 16 + widthNum (widthOf (b.val % 4)) = b.val) := by
  decide

theorem page0_sound {xs : Option (Fin 8 × Fin 128)} {xr : Option (Reg × Reg)} {xis : List Nat} {op : Nat} {a b : Reg}
    {i : Instr} (hfits : Fits (fields none xs xr xis op a b)) (h : page0 (fields none xs xr xis op a b) = .ok i) :
    i.wf = true ∧ partsOf i = some (fields none xs xr xis op a b) := by
  have hlen := hfits.length_le
  have hxis : ∀ y ∈ xis, y < 1024 := hfits.xis
  simp only [page0, fields_op] at h
  split at h
  all_goals simp at h
  case h_1 =>
    split at h
    all_goals simp at h
    case h_1 ha =>
      obtain ⟨rfl, rfl, rfl, rfl, rfl⟩ := h
      obtain rfl : a = 0 := Fin.ext ha
      exact ⟨rfl, rfl⟩
    case h_2 ha =>
      obtain ⟨rfl, rfl, hhi, rfl⟩ := h
      obtain rfl : a = 1 := Fin.ext ha
      exact ⟨immB_okB hxis hhi, congrArg some (withImmB_immB hxis _)⟩
    case h_3 ha =>
      obtain ⟨rfl, rfl, hhi, rfl⟩ := h
      obtain rfl : a = 2 := Fin.ext ha
      exact ⟨immB_okB hxis hhi, congrArg some (withImmB_immB hxis _)⟩
  case h_2 | h_36 | h_54 | h_55 | h_56 =>
    obtain ⟨rfl, rfl, rfl, ha, rfl⟩ := h
    exact ⟨dstOk_iff.2 ha, rfl⟩
  case h_4 =>
    obtain ⟨rfl, ⟨c, m, rfl⟩, rfl, ha, rfl⟩ := h
    rw [fields_c, fields_m, reg_val, reg_val]
    exact ⟨dstOk_iff.2 ha, rfl⟩
  case h_5 | h_7 | h_8 | h_9 | h_10 | h_11 | h_12 | h_13 | h_14 | h_15 | h_17 | h_19 | h_21 | h_22 | h_23 | h_24 | h_37 | h_38 |
      h_39
      | h_40 | h_52 | h_57 | h_58 =>
    obtain ⟨rfl, rfl, ⟨ha, hm⟩, rfl⟩ := h
    obtain ⟨c, rfl⟩ := exists_third hm
    rw [cOpt_third]
    exact ⟨dstOk_iff.2 ha, congrArg some (rparts_eq _ _ _ _)⟩
  case h_6 | h_16 | h_18 | h_20 | h_60 =>
    obtain ⟨rfl, -, ⟨ha, hm⟩, rfl⟩ := h
    obtain ⟨c, rfl⟩ := exists_third hm
    rw [cOpt_third]
    exact ⟨Bool.and_eq_true_iff.2 ⟨dstOk_iff.2 ha, hfits.immB_okC⟩, congrArg some (iparts_eq (withImmB_immB hxis))⟩
  case h_49 | h_50 | h_51 | h_53 =>
    obtain ⟨rfl, -, ⟨ha, hm, hsh⟩, rfl⟩ := h
    obtain ⟨c, rfl⟩ := exists_third hm
    rw [cOpt_third]
    exact ⟨Bool.and_eq_true_iff.2 ⟨dstOk_iff.2 ha, okSh_iff.2 ⟨hfits.immB_okC, hsh⟩⟩, congrArg some
      (iparts_eq (withImmB_immB hxis))⟩
  case h_26 | h_28 | h_29 | h_30 | h_31 | h_32 =>
    obtain ⟨rfl, -, hm, rfl⟩ := h
    obtain ⟨c, rfl⟩ := exists_third hm
    rw [cOpt_third]
    exact ⟨hfits.immB_okC, congrArg some (iparts_eq (withImmB_immB hxis))⟩
  case h_25 | h_27 =>
    obtain ⟨rfl, rfl, hhi, rfl⟩ := h
    exact ⟨immB_okB hxis hhi, congrArg some (withImmB_immB hxis _)⟩
  case h_33 | h_34 =>
    obtain ⟨rfl, rfl, hhi, rfl⟩ := h
    exact ⟨immJ_okJ hxis hhi, congrArg some (withImmJ_immJ hxis _)⟩
  case h_3 =>
    obtain ⟨rfl, rfl, hhi, ha, rfl⟩ := h
    exact ⟨Bool.and_eq_true_iff.2 ⟨dstOk_iff.2 ha, immB_okB hxis hhi⟩, congrArg some (withImmB_immB hxis _)⟩
  case h_35 =>
    obtain ⟨rfl, rfl, rfl, rfl, rfl⟩ := h
    exact ⟨rfl, rfl⟩
  case h_41 | h_42 | h_43 | h_44 =>
    obtain ⟨rfl, rfl, hhi, ha, rfl⟩ := h
    exact ⟨Bool.and_eq_true_iff.2 ⟨dstOk_iff.2 ha, immX_okX hxis hhi (Nat.zero_le _)⟩, congrArg some (withImmX_immX hxis _)⟩
  case h_45 | h_46 | h_47 | h_48 =>
    obtain ⟨rfl, rfl, hhi, rfl⟩ := h
    exact ⟨immX_okX hxis hhi (Nat.zero_le _), congrArg some (withImmX_immX hxis _)⟩
  case h_59 =>
    obtain ⟨rfl, rfl, ⟨ha, hm, hb⟩, rfl⟩ := h
    obtain ⟨c, rfl⟩ := exists_third hm
    obtain ⟨hext, hs, hz⟩ := widthOf_ext b hb.1 hb.2
    rw [cOpt_third]
    split
    next hlt =>
      refine ⟨Bool.and_eq_true_iff.2 ⟨hext, dstOk_iff.2 ha⟩, congrArg some ?_⟩
      rw [hs hlt]
      cases c <;> rfl
    next hge =>
      refine ⟨Bool.and_eq_true_iff.2 ⟨hext, dstOk_iff.2 ha⟩, congrArg some ?_⟩
      rw [hz hge]
      cases c <;> rfl

theorem within_iff {a : Reg} {lo hi : Nat} : within a lo hi = true ↔ lo ≤ a.val ∧ a.val ≤ hi := by
  simp [within]

section
variable {xp : Option (Fin 16 × Fin 64)} {xs : Option (Fin 8 × Fin 128)} {xr : Option (Reg × Reg)} {xis : List Nat} {op : Nat}
  {a b : Reg}

/-- R33: an XR word of modifier 0. -/
theorem modifier_zero {c m : Reg} (h : (fields xp xs (some (c, m)) xis op a b).m = 0) : m = 0 :=
  Fin.ext ((fields_m c m).symm.trans h)

theorem scopeNum_scopeOf : ∀ g : Fin 8, g.val < 6 → scopeNum (scopeOf g.val) = g.val := by
  decide

theorem xsOpt_some (g : Fin 8) (q : Fin 128) : (fields xp (some (g, q)) xr xis op a b).xsOpt = some (scopeOf g.val) :=
  congrArg (fun n => some (scopeOf n)) (fields_scope (xp := xp) (xr := xr) (xis := xis) (op := op) (a := a) (b := b) g q)

/-- R36: the XS word of a form whose scope is defined and whose qualifier is `k`. -/
theorem withXs_xsOpt {k : Nat} (hg : ∀ g q, xs = some (g, q) → g.val < 6) (hk : ∀ g q, xs = some (g, q) → q.val = k) (p : Parts)
    (hp : p.xs = none) :
    p.withXs k (fields xp xs xr xis op a b).xsOpt = { p with xs := xs.map (fun e => 128 * e.1.val + e.2.val) } := by
  rcases xs with _ | ⟨g, q⟩
  · obtain ⟨xp, xs, xr, xis, op, a, b⟩ := p
    obtain rfl : xs = none := hp
    rfl
  · rw [xsOpt_some, Parts.withXs, scopeNum_scopeOf g (hg g q rfl), ← hk g q rfl]
    rfl

theorem qual_eq {k : Nat} (h : (fields xp xs xr xis op a b).qual = k) (g : Fin 8) (q : Fin 128) (hxs : xs = some (g, q)) :
    q.val = k := by
  subst hxs
  exact (fields_qual g q).symm.trans h

theorem xsOpt_isNone : (fields xp xs xr xis op a b).xsOpt.isNone = xs.isNone := by
  rcases xs with _ | ⟨g, q⟩ <;> rfl
end

theorem amoNum_amoOf : ∀ e : Fin 64, e.val < 8 → amoNum (amoOf (e.val % 8)) = e.val := by
  decide

theorem widthNum_widthOf {n : Nat} (h : n < 4) : widthNum (widthOf n) = n := by
  interval_cases n <;> rfl

theorem spaceNum_spaceOf {n : Nat} (h : n < 3) : spaceNum (spaceOf n) = n := by
  interval_cases n <;> rfl

theorem bnum_beq_one {n : Nat} (h : n < 2) : bnum (n == 1) = n := by
  interval_cases n <;> rfl

theorem page1_sound {e : Fin 64} {xs : Option (Fin 8 × Fin 128)} {xr : Option (Reg × Reg)} {xis : List Nat} {op : Nat} {a b : Reg}
    {i : Instr} (hfits : Fits (fields (some (1, e)) xs xr xis op a b))
      (h : page1 (fields (some (1, e)) xs xr xis op a b) = .ok i) :
    i.wf = true ∧ partsOf i = some (fields (some (1, e)) xs xr xis op a b) := by
  have hlen := hfits.length_le
  have hxis : ∀ y ∈ xis, y < 1024 := hfits.xis
  simp only [page1, fields_op] at h
  split at h
  all_goals simp at h
  case h_1 | h_2 | h_7 =>
    obtain ⟨rfl, rfl, hhi, ⟨rfl, ha⟩, rfl⟩ := h
    exact ⟨Bool.and_eq_true_iff.2 ⟨dstOk_iff.2 ha, immX_okX hxis hhi (Nat.zero_le _)⟩,
      congrArg (fun p => some (Parts.pg p 1 0)) (withImmX_immX hxis _)⟩
  case h_3 | h_4 | h_8 =>
    obtain ⟨rfl, rfl, hhi, rfl, rfl⟩ := h
    exact ⟨immX_okX hxis hhi (Nat.zero_le _), congrArg (fun p => some (Parts.pg p 1 0)) (withImmX_immX hxis _)⟩
  case h_5 =>
    obtain ⟨rfl, rfl, hhi, ⟨rfl, hlo, hup⟩, rfl⟩ := h
    exact ⟨Bool.and_eq_true_iff.2 ⟨within_iff.2 ⟨of_decide_eq_true hlo, of_decide_eq_true hup⟩,
      immX_okX hxis hhi (Nat.zero_le _)⟩, congrArg (fun p => some (Parts.pg p 1 0)) (withImmX_immX hxis _)⟩
  case h_6 =>
    obtain ⟨rfl, rfl, hhi, ⟨rfl, ha⟩, rfl⟩ := h
    refine ⟨immX_okX hxis hhi (Nat.zero_le _), congrArg some ((congrArg (Parts.pg · 1 0) (withImmX_immX hxis _)).trans ?_)⟩
    rw [bnum_beq_one (by omega)]
    rfl
  case h_9 =>
    obtain ⟨hg, ⟨c, m, rfl⟩, rfl, ⟨he, ha, hm, hq⟩, rfl⟩ := h
    rw [fields_c, fields_m, reg_val, reg_val]
    rw [fields_m] at hm
    have hqual : ∀ g q, xs = some (g, q) → q.val = bnum ((fields (some (1, e)) xs (some (c, m)) [] 8 a b).qual == 1) := by
      intro g q hxs
      rw [bnum_beq_one (by omega), qual_eq rfl g q hxs]
    have hsome : (fields (some (1, e)) xs (some (c, m)) [] 8 a b).qual = 1 →
        (fields (some (1, e)) xs (some (c, m)) [] 8 a b).xsOpt.isSome = true := by
      rcases xs with _ | ⟨g, q⟩
      · exact nofun
      · exact fun _ => rfl
    refine ⟨Bool.and_eq_true_iff.2 ⟨Bool.and_eq_true_iff.2 ⟨dstOk_iff.2 ha, ?_⟩, ?_⟩, ?_⟩
    · simpa using hm
    · rcases hq with hq | ⟨hq, hop⟩
      · simp [hq]
      · simpa [hsome hq] using Or.inr hop
    · exact congrArg some ((withXs_xsOpt hg hqual _ rfl).trans (by rw [amoNum_amoOf e he]; rfl))
  case h_10 =>
    obtain ⟨hg, ⟨c, m, rfl⟩, rfl, ⟨rfl, ha, hm, hq⟩, rfl⟩ := h
    obtain rfl := modifier_zero hm
    rw [fields_c, reg_val]
    exact ⟨dstOk_iff.2 ha, congrArg some (withXs_xsOpt hg (qual_eq hq) _ rfl)⟩
  case h_11 =>
    obtain ⟨hg, rfl, rfl, ⟨rfl, hq⟩, rfl⟩ := h
    split
    next h1 =>
      refine ⟨rfl, congrArg some ?_⟩
      rcases xs with _ | ⟨g, q⟩
      · exact absurd h1 (by simp)
      obtain rfl : q = 1 := Fin.ext (qual_eq h1 g q rfl)
      rw [fields_scope, Parts.withXs, scopeNum_scopeOf g (hg g 1 rfl)]
      rfl
    next h1 => 
      have hq0 : (fields (some (1, 0)) xs none [] 10 a b).qual = 0 := by omega
      exact ⟨rfl, congrArg some (withXs_xsOpt hg (qual_eq hq0) _ rfl)⟩
  case h_12 =>
    obtain ⟨hg, rfl, hhi, hlo, ⟨rfl, hq, hla, hua⟩, rfl⟩ := h
    refine ⟨Bool.and_eq_true_iff.2 ⟨Bool.and_eq_true_iff.2 ⟨within_iff.2 ⟨of_decide_eq_true hla, of_decide_eq_true hua⟩,
      immX_okX hxis hhi hlo⟩, ?_⟩, congrArg some ((withXs_xsOpt hg (qual_eq hq) _ rfl).trans ?_)⟩
    · rw [xsOpt_isNone]
      cases xs with
      | none => rfl
      | some e =>
        have hn : (fields (some (1, 0)) (some e) none xis 11 a b).immX.n ≤ 2 := by
          simp at hlen
          show xis.length ≤ 2
          omega
        simpa using hn
    · rw [mparts, withImmX_immX hxis]
      rfl
  case h_13 =>
    obtain ⟨rfl, ⟨c, m, rfl⟩, rfl, ⟨he, ⟨hla, hua⟩, hm, hcm⟩, rfl⟩ := h
    rw [fields_c, fields_m] at hcm
    rw [fields_m] at hm
    rw [fields_c, fields_m, reg_val]
    have hwf : (within a 1 26 && decide (1 ≤ m.val) && decide (m.val ≤ 6) && decide (c.val + m.val ≤ 28)) = true := by
      simp [within_iff.2 ⟨of_decide_eq_true hla, of_decide_eq_true hua⟩, hm, hcm]
    split
    next h1 => 
      obtain rfl : e = 1 := Fin.ext h1
      exact ⟨hwf, rfl⟩
    next h1 =>
      obtain rfl : e = 0 := Fin.ext (by show e.val = 0; omega)
      exact ⟨hwf, rfl⟩
  case h_14 =>
    obtain ⟨rfl, rfl, hhi, ⟨he, ha⟩, rfl⟩ := h
    refine ⟨Bool.and_eq_true_iff.2 ⟨dstOk_iff.2 ha, immX_okX hxis hhi (Nat.zero_le _)⟩,
      congrArg some ((congrArg (Parts.pg · 1 _) (withImmX_immX hxis _)).trans ?_)⟩
    rw [widthNum_widthOf he]
    rfl
  case h_15 =>
    obtain ⟨rfl, rfl, hhi, he, rfl⟩ := h
    refine ⟨immX_okX hxis hhi (Nat.zero_le _), congrArg some ((congrArg (Parts.pg · 1 _) (withImmX_immX hxis _)).trans ?_)⟩
    rw [widthNum_widthOf he]
    rfl

theorem page2_sound {e : Fin 64} {xs : Option (Fin 8 × Fin 128)} {xr : Option (Reg × Reg)} {xis : List Nat} {op : Nat} {a b : Reg}
    {i : Instr} (hfits : Fits (fields (some (2, e)) xs xr xis op a b))
      (h : page2 (fields (some (2, e)) xs xr xis op a b) = .ok i) :
    i.wf = true ∧ partsOf i = some (fields (some (2, e)) xs xr xis op a b) := by
  have hxis : ∀ y ∈ xis, y < 1024 := hfits.xis
  simp only [page2, fields_op] at h
  split at h
  all_goals simp [-Fin.ofNat_eq_cast] at h
  case h_1 =>
    obtain ⟨rfl, rfl, hhi, ⟨⟨hsp, he⟩, ha⟩, rfl⟩ := h
    refine ⟨Bool.and_eq_true_iff.2 ⟨dstOk_iff.2 ha, immX_okX hxis hhi (Nat.zero_le _)⟩,
      congrArg some ((congrArg (Parts.pg · 2 _) (withImmX_immX hxis _)).trans ?_)⟩
    rw [widthNum_widthOf (by omega), spaceNum_spaceOf (by omega), Nat.mod_add_div]
    rfl
  case h_2 =>
    obtain ⟨rfl, rfl, hhi, ⟨hsp, he⟩, rfl⟩ := h
    refine ⟨immX_okX hxis hhi (Nat.zero_le _), congrArg some ((congrArg (Parts.pg · 2 _) (withImmX_immX hxis _)).trans ?_)⟩
    rw [widthNum_widthOf (by omega), spaceNum_spaceOf (by omega), Nat.mod_add_div]
    rfl
  case h_3 =>
    obtain ⟨rfl, rfl, hhi, ⟨⟨hsp, he⟩, ha⟩, rfl⟩ := h
    refine ⟨Bool.and_eq_true_iff.2 ⟨dstOk_iff.2 ha, immX_okX hxis hhi (Nat.zero_le _)⟩,
      congrArg some ((congrArg (Parts.pg · 2 _) (withImmX_immX hxis _)).trans ?_)⟩
    rw [widthNum_widthOf (by omega), Nat.mul_div_cancel' (Nat.dvd_of_mod_eq_zero hsp)]
    rfl
  case h_4 =>
    obtain ⟨rfl, rfl, hhi, ⟨hsp, he⟩, rfl⟩ := h
    refine ⟨immX_okX hxis hhi (Nat.zero_le _), congrArg some ((congrArg (Parts.pg · 2 _) (withImmX_immX hxis _)).trans ?_)⟩
    rw [widthNum_widthOf (by omega), Nat.mul_div_cancel' (Nat.dvd_of_mod_eq_zero hsp)]
    rfl
  case h_5 =>
    obtain ⟨rfl, rfl, rfl, ⟨rfl, rfl, rfl⟩, rfl⟩ := h
    exact ⟨rfl, rfl⟩
  case h_6 =>
    obtain ⟨rfl, rfl, rfl, ⟨rfl, ha⟩, rfl⟩ := h
    exact ⟨rfl, congrArg (fun n => some (dparts 2 0 5 n b.val)) (Nat.mod_eq_of_lt (of_decide_eq_true ha))⟩
  case h_7 | h_8 =>
    obtain ⟨rfl, rfl, rfl, ⟨rfl, ha, hb, hb4⟩, rfl⟩ := h
    have hb := of_decide_eq_true hb
    split
    next hlt => exact ⟨dstOk_iff.2 ha, congrArg (fun n => some (dparts 2 0 _ a.val n)) (Nat.mod_eq_of_lt hlt)⟩
    next hge =>
      obtain rfl : a = 0 := hb4.resolve_left (fun h => hge (of_decide_eq_true h))
      refine ⟨rfl, congrArg (fun n => some (dparts 2 0 _ 0 n)) ?_⟩
      show 4 + b.val % 4 = b.val
      omega
  case h_9 =>
    obtain ⟨rfl, rfl, rfl, ⟨rfl, ha⟩, rfl⟩ := h
    exact ⟨dstOk_iff.2 ha, rfl⟩
  case h_10 =>
    obtain ⟨rfl, rfl, rfl, ⟨rfl, hb⟩, rfl⟩ := h
    rcases hb with rfl | ⟨hb, rfl⟩
    · exact ⟨rfl, rfl⟩
    · obtain rfl : b = 1 := Fin.ext hb
      exact ⟨rfl, rfl⟩
  case h_11 | h_12 =>
    obtain ⟨rfl, ⟨c, m, rfl⟩, rfl, ⟨rfl, ha, hm⟩, rfl⟩ := h
    obtain rfl := modifier_zero hm
    rw [fields_c, reg_val]
    exact ⟨dstOk_iff.2 ha, rfl⟩

theorem page3_sound {e : Fin 64} {xs : Option (Fin 8 × Fin 128)} {xr : Option (Reg × Reg)} {xis : List Nat} {op : Nat} {a b : Reg}
    {i : Instr} (hfits : Fits (fields (some (3, e)) xs xr xis op a b))
      (h : page3 (fields (some (3, e)) xs xr xis op a b) = .ok i) :
    i.wf = true ∧ partsOf i = some (fields (some (3, e)) xs xr xis op a b) := by
  have hxis : ∀ y ∈ xis, y < 1024 := hfits.xis
  simp only [page3, fields_op] at h
  split at h
  all_goals try simp [-Fin.ofNat_eq_cast] at h
  case h_1 =>
    obtain ⟨rfl, rfl, hhi, hlo, ⟨rfl, ha, hlb, hub⟩, rfl⟩ := h
    exact ⟨Bool.and_eq_true_iff.2 ⟨Bool.and_eq_true_iff.2
      ⟨dstOk_iff.2 ha, within_iff.2 ⟨of_decide_eq_true hlb, of_decide_eq_true hub⟩⟩,
      immX_okX hxis hhi hlo⟩, congrArg (fun p => some (Parts.pg p 3 0)) (withImmX_immX hxis _)⟩
  case h_2 =>
    rcases xr with _ | ⟨c, m⟩
    · obtain ⟨rfl, -, hhi, hlo, hl, rfl⟩ := form_no_iff.1 h
      simp at hl
      obtain ⟨rfl, ha, hlb, hub⟩ := hl
      exact ⟨Bool.and_eq_true_iff.2 ⟨Bool.and_eq_true_iff.2
        ⟨dstOk_iff.2 ha, within_iff.2 ⟨of_decide_eq_true hlb, of_decide_eq_true hub⟩⟩,
        immX_okX hxis hhi hlo⟩, congrArg (fun p => some (Parts.pg p 3 0)) (withImmX_immX hxis _)⟩
    · obtain ⟨rfl, -, hhi, hlo, hl, rfl⟩ := form_req_iff.1 h
      simp at hl
      obtain ⟨rfl, ha, ⟨hlb, hub⟩, hm⟩ := hl
      obtain rfl : m = 0 := hm
      rw [fields_c, reg_val]
      exact ⟨Bool.and_eq_true_iff.2 ⟨Bool.and_eq_true_iff.2
        ⟨dstOk_iff.2 ha, within_iff.2 ⟨of_decide_eq_true hlb, of_decide_eq_true hub⟩⟩,
        immX_okX hxis hhi hlo⟩, congrArg (fun p => some (Parts.pg (Parts.withXr p c.val 0) 3 0)) (withImmX_immX hxis _)⟩
  case h_3 | h_5 =>
    obtain ⟨rfl, rfl, rfl, ⟨rfl, rfl, rfl⟩, rfl⟩ := h
    exact ⟨rfl, rfl⟩
  case h_4 | h_8 =>
    obtain ⟨rfl, rfl, rfl, ⟨rfl, ha⟩, rfl⟩ := h
    exact ⟨dstOk_iff.2 ha, rfl⟩
  case h_6 =>
    obtain ⟨rfl, ⟨c, m, rfl⟩, rfl, ⟨rfl, ha, ⟨hlb, hub⟩, hm⟩, rfl⟩ := h
    obtain rfl := modifier_zero hm
    rw [fields_c, reg_val]
    exact ⟨Bool.and_eq_true_iff.2 ⟨dstOk_iff.2 ha, within_iff.2 ⟨of_decide_eq_true hlb, of_decide_eq_true hub⟩⟩, rfl⟩
  case h_7 =>
    obtain ⟨rfl, rfl, rfl, ⟨rfl, ⟨hla, hua⟩, rfl⟩, rfl⟩ := h
    exact ⟨within_iff.2 ⟨of_decide_eq_true hla, of_decide_eq_true hua⟩, rfl⟩
  case h_9 =>
    rcases xr with _ | ⟨c, m⟩
    · obtain ⟨rfl, -, hhi, hlo, hl, rfl⟩ := form_no_iff.1 h
      simp at hl hhi
      obtain rfl := hl
      obtain rfl := hhi
      exact ⟨rfl, rfl⟩
    · obtain ⟨rfl, -, hhi, hlo, hl, rfl⟩ := form_req_iff.1 h
      simp at hl hhi
      obtain ⟨rfl, ⟨hc, hm⟩, rfl⟩ := hl
      obtain rfl := hhi
      obtain rfl : c = 0 := hc
      obtain rfl : m = 1 := Fin.ext hm
      exact ⟨rfl, rfl⟩
  case h_10 =>
    split at h
    next hnil =>
      obtain ⟨rfl, rfl, hhi, hlo, hl, rfl⟩ := form_no_iff.1 h
      simp at hl
      obtain ⟨rfl, ha⟩ := hl
      obtain rfl : xis = [] := hnil
      exact ⟨dstOk_iff.2 ha, rfl⟩
    next hcons =>
      obtain ⟨rfl, rfl, hhi, hlo, hl, rfl⟩ := form_no_iff.1 h
      simp at hl
      obtain ⟨rfl, ha, rfl, h0, hv⟩ := hl
      refine ⟨Bool.and_eq_true_iff.2 ⟨Bool.and_eq_true_iff.2
        ⟨Bool.and_eq_true_iff.2 ⟨dstOk_iff.2 ha, immX_okX hxis hhi hlo⟩, ?_⟩, ?_⟩,
        congrArg (fun p => some (Parts.pg p 3 0)) (withImmX_immX hxis _)⟩
      · exact decide_eq_true h0
      · exact decide_eq_true hv

/-! ## Page 4 -/

theorem and_intro {x y : Bool} (hx : x = true) (hy : y = true) : (x && y) = true := Bool.and_eq_true_iff.2 ⟨hx, hy⟩

theorem predicate_and_vector : ∀ a : Reg, 8 * (preg (a.val / 8)).val + (vreg (a.val % 8)).val = a.val := by
  decide
theorem vreg_low {b : Reg} (h : b.val < 8) : (vreg (b.val % 8)).val = b.val := by
  show b.val % 8 % 8 = b.val
  omega

theorem arithOf_ok : ∀ e : Fin 64, arithOk e.val = true → (arithOf e.val).ok = true ∧ arithNum (arithOf e.val) = e.val := by
  decide
theorem arithOf_rne : ∀ e : Fin 64, e.val / 4 % 4 = 0 → ((arithOf e.val).rm == .rne) = true := by
  decide
theorem arithOf_plain : ∀ e : Fin 64, e.val / 2 % 8 = 0 → ((arithOf e.val).rm == .rne) = true ∧ (!(arithOf e.val).sat) = true :=
    by
  decide
theorem arithOf_signed : ∀ e : Fin 64, e.val % 2 = 0 → (!(arithOf e.val).u) = true := by
  decide
theorem arithOf_sat : ∀ e : Fin 64, e.val / 4 % 4 = 0 → e.val % 2 = 0 →
    16 * vtypeNum (vtypeOf (e.val / 16)) + 2 * bnum (arithOf e.val).sat = e.val := by
  decide
theorem vtypeOf_float : ∀ e : Fin 64, 16 ≤ e.val → (vtypeOf (e.val / 16) != .i32) = true := by
  decide
theorem blockSec : ∀ e : Fin 64, e.val % 2 = 0 → ¬ e.val / 2 % 8 = 7 → decide (e.val / 2 % 8 + 2 ≤ 8) = true
    ∧ 16 * vtypeNum (vtypeOf (e.val / 16)) + 2 * (e.val / 2 % 8 + 2 - 2) = e.val := by
  decide
theorem compareSec : ∀ e : Fin 64, ¬ e.val / 2 % 8 = 7 →
    16 * vtypeNum (vtypeOf (e.val / 16)) + 2 * condNum (condOf (e.val / 2 % 8)) + bnum (e.val % 2 == 1) = e.val
    ∧ (¬ e.val / 2 % 8 = 6 ∨ 16 ≤ e.val → (condOf (e.val / 2 % 8) != .uo || vtypeOf (e.val / 16) != .i32) = true)
    ∧ (e.val < 16 ∨ e.val % 2 = 0 → (vtypeOf (e.val / 16) == .i32 || !(e.val % 2 == 1)) = true) := by
  decide
theorem convertSec : ∀ e : Fin 64, e.val < 16 → e.val % 2 = 0 →
    4 * rndNum (arithOf e.val).rm + 2 * bnum (arithOf e.val).sat = e.val := by
  decide
theorem formatCode : ∀ c : Reg, c.val % 16 < 7 → ¬ c.val % 16 = 3 →
    vfmtNum (vfmtOf (c.val % 16)) + 16 * bnum (c.val / 16 == 1) = c.val
    ∧ (c.val < 16 ∨ c.val % 16 < 3 → ((vfmtOf (c.val % 16)).isInt || !(c.val / 16 == 1)) = true) := by
  decide
theorem loadSec : ∀ e : Fin 64, e.val < 32 → ¬ e.val / 4 % 4 = 3 → ¬ e.val % 4 = 3 →
    spaceNum (spaceOf (e.val % 4)) + 4 * widthNum (widthOf (e.val / 4 % 4)) + 16 * bnum (decide (16 ≤ e.val)) = e.val
    ∧ (e.val < 16 ∨ ¬ e.val / 4 % 4 = 2 → (widthOf (e.val / 4 % 4) == .b || widthOf (e.val / 4 % 4) == .h
      || (widthOf (e.val / 4 % 4) == .w && !decide (16 ≤ e.val))) = true) := by
  decide
theorem storeSec : ∀ e : Fin 64, e.val < 16 → ¬ e.val / 4 = 3 → ¬ e.val % 4 = 3 →
    spaceNum (spaceOf (e.val % 4)) + 4 * widthNum (widthOf (e.val / 4)) = e.val ∧ (widthOf (e.val / 4) != .d) = true := by
  decide

section
variable {xp : Option (Fin 16 × Fin 64)} {xs : Option (Fin 8 × Fin 128)} {xr : Option (Reg × Reg)} {xis : List Nat} {op : Nat}
  {a b : Reg}

theorem vparts_eq (op : Nat) (e : Fin 64) (a : Reg) {b : Reg} (hb : b.val < 8) :
    vparts op e.val (preg (a.val / 8)) (vreg (a.val % 8)).val (vreg (b.val % 8)).val = fields (some (4, e)) none none [] op a
      b := by
  rw [vparts, predicate_and_vector, vreg_low hb]
  rfl

/-- R190, R192: the XR word of a vector form is its second source, with what else its modifier holds. -/
theorem withV_vsrc {k : Nat} (hc : (fields xp xs xr xis op a b).m / 16 = 1 ∨ (fields xp xs xr xis op a b).c < 8)
    (hm : (fields xp xs xr xis op a b).m % 16 = k) (p : Parts) (hp : p.xr = none) :
    p.withV k (if (fields xp xs xr xis op a b).xr = none then VSrc.short
      else if (fields xp xs xr xis op a b).m / 16 = 1 then VSrc.gen (reg (fields xp xs xr xis op a b).c)
      else VSrc.vec (vreg (fields xp xs xr xis op a b).c))
      = { p with xr := xr.map (fun e => 32 * e.1.val + e.2.val) } := by
  rcases xr with _ | ⟨c, m⟩
  · obtain ⟨xp, xs, xr, xis, op, a, b⟩ := p
    obtain rfl : xr = none := hp
    rfl
  rw [fields_c, fields_m] at hc
  rw [fields_m] at hm
  rw [if_neg (by simp [fields]), fields_c, fields_m]
  split
  next hgen =>
    rw [Parts.withV, Parts.withXr, reg_val, show 16 + k = m.val by omega]
    rfl
  next hvec =>
    have hlt := hc.resolve_left hvec
    have := m.isLt
    have hk : k = m.val := by omega
    have hv : (vreg c.val).val = c.val := Nat.mod_eq_of_lt hlt
    rw [Parts.withV, Parts.withXr, hv, hk]
    rfl

theorem isXr_vsrc (h : xr ≠ none) :
    VSrc.isXr (if (fields xp xs xr xis op a b).xr = none then VSrc.short
      else if (fields xp xs xr xis op a b).m / 16 = 1 then VSrc.gen (reg (fields xp xs xr xis op a b).c)
      else VSrc.vec (vreg (fields xp xs xr xis op a b).c)) = true := by
  rw [if_neg (by simpa [fields] using h)]
  split <;> rfl

/-- The lane of `vext` and `vins` is its immediate. -/
theorem immX_lane (hlo : 0 ≤ (fields xp xs xr xis op a b).immX.v) (hhi : (fields xp xs xr xis op a b).immX.v ≤ 31)
    (hn : xis.length = 1) :
    (⟨1, (Fin.ofNat 32 (fields xp xs xr xis op a b).immX.v.toNat : Fin 32).val⟩ : Imm) = (fields xp xs xr xis op a b).immX := by
  have hv : (Fin.ofNat 32 (fields xp xs xr xis op a b).immX.v.toNat : Fin 32).val = (fields xp xs xr xis op a b).immX.v.toNat :=
    Nat.mod_eq_of_lt (by omega)
  rw [hv, Int.toNat_of_nonneg hlo, ← hn]
  rfl

end

theorem page4_sound {e : Fin 64} {xs : Option (Fin 8 × Fin 128)} {xr : Option (Reg × Reg)} {xis : List Nat} {op : Nat} {a b : Reg}
    {i : Instr} (hfits : Fits (fields (some (4, e)) xs xr xis op a b))
      (h : page4 (fields (some (4, e)) xs xr xis op a b) = .ok i) :
    i.wf = true ∧ partsOf i = some (fields (some (4, e)) xs xr xis op a b) := by
  have hxis : ∀ y ∈ xis, y < 1024 := hfits.xis
  simp only [page4, fields_op] at h
  split at h
  all_goals simp [-Fin.ofNat_eq_cast] at h
  case h_1 | h_2 | h_3 =>
    obtain ⟨rfl, rfl, ⟨he, hb, hc, hm⟩, rfl⟩ := h
    obtain ⟨hq, hnum⟩ := arithOf_ok e he
    refine ⟨hq, congrArg some ((withV_vsrc hc hm _ rfl).trans ?_)⟩
    rw [hnum, vparts_eq _ e a (of_decide_eq_true hb)]
    rfl
  case h_4 =>
    obtain ⟨rfl, ⟨c, m, rfl⟩, rfl, ⟨he, hb, hc, hm⟩, rfl⟩ := h
    obtain ⟨hq, hnum⟩ := arithOf_ok e he
    have hk : (vreg ((fields (some (4, e)) none (some (c, m)) [] 3 a b).m % 8)).val
        = (fields (some (4, e)) none (some (c, m)) [] 3 a b).m % 16 := by
      show (fields (some (4, e)) none (some (c, m)) [] 3 a b).m % 8 % 8 = _
      omega
    refine ⟨and_intro hq (isXr_vsrc nofun), congrArg some ((withV_vsrc hc hk.symm _ rfl).trans ?_)⟩
    rw [hnum, vparts_eq _ e a (of_decide_eq_true hb)]
    rfl
  case h_5 | h_6 =>
    obtain ⟨rfl, rfl, ⟨he, he0, hb, hc, hm⟩, rfl⟩ := h
    obtain ⟨hq, hnum⟩ := arithOf_ok e he
    obtain ⟨hrne, hsat⟩ := arithOf_plain e he0
    refine ⟨and_intro (and_intro hq hrne) hsat, congrArg some ((withV_vsrc hc hm _ rfl).trans ?_)⟩
    rw [hnum, vparts_eq _ e a (of_decide_eq_true hb)]
    rfl
  case h_7 | h_8 =>
    obtain ⟨rfl, rfl, rfl, ⟨he, ⟨he4, he2⟩, hb⟩, rfl⟩ := h
    obtain ⟨hq, hnum⟩ := arithOf_ok e he
    refine ⟨and_intro (and_intro hq (arithOf_rne e he4)) (arithOf_signed e he2), congrArg some ?_⟩
    rw [hnum, vparts_eq _ e a (of_decide_eq_true hb)]
  case h_9 | h_10 | h_11 | h_13 | h_14 | h_15 =>
    obtain ⟨rfl, rfl, ⟨rfl, hb, hc, hm⟩, rfl⟩ := h
    refine ⟨rfl, congrArg some ((withV_vsrc hc hm _ rfl).trans ?_)⟩
    rw [show (0 : Nat) = (0 : Fin 64).val from rfl, vparts_eq _ 0 a (of_decide_eq_true hb)]
    rfl
  case h_12 | h_16 =>
    obtain ⟨rfl, rfl, rfl, ⟨rfl, hb⟩, rfl⟩ := h
    exact ⟨rfl, congrArg some (vparts_eq _ 0 a (of_decide_eq_true hb))⟩
  case h_17 =>
    obtain ⟨rfl, ⟨c, m, rfl⟩, rfl, ⟨⟨⟨he7, he6⟩, he1⟩, ha, hb, hc, hm⟩, rfl⟩ := h
    obtain ⟨hnum, hcc, hu⟩ := compareSec e he7
    have hp : (preg (a.val % 4)).val = (vreg (a.val % 8)).val := by
      show a.val % 4 % 4 = a.val % 8 % 8
      omega
    refine ⟨and_intro (and_intro (isXr_vsrc nofun) (hcc he6)) (hu he1), congrArg some ((withV_vsrc hc hm _ rfl).trans ?_)⟩
    rw [hnum, hp, vparts_eq _ e a (of_decide_eq_true hb)]
    rfl
  case h_18 =>
    obtain ⟨rfl, ⟨c, m, rfl⟩, rfl, ⟨rfl, hb, hc, hm⟩, rfl⟩ := h
    refine ⟨isXr_vsrc nofun, congrArg some ((withV_vsrc hc hm _ rfl).trans ?_)⟩
    rw [show (0 : Nat) = (0 : Fin 64).val from rfl, vparts_eq _ 0 a (of_decide_eq_true hb)]
    rfl
  case h_19 =>
    obtain ⟨rfl, rfl, rfl, ⟨he, he4, ha⟩, rfl⟩ := h
    obtain ⟨hq, hnum⟩ := arithOf_ok e he
    refine ⟨and_intro (and_intro hq (arithOf_rne e he4)) (dstOk_iff.2 ha), congrArg some ?_⟩
    rw [hnum, predicate_and_vector]
    rfl
  case h_20 | h_21 =>
    obtain ⟨rfl, rfl, rfl, ⟨he, ⟨he4, hsat⟩, ha⟩, rfl⟩ := h
    obtain ⟨hq, hnum⟩ := arithOf_ok e he
    refine ⟨and_intro (and_intro (and_intro hq (arithOf_rne e he4)) (by rw [hsat]; rfl)) (dstOk_iff.2 ha), congrArg some ?_⟩
    rw [hnum, predicate_and_vector]
    rfl
  case h_22 =>
    obtain ⟨rfl, ⟨c, m, rfl⟩, rfl, ⟨rfl, hb, hc, hm⟩, rfl⟩ := h
    obtain rfl := modifier_zero hm
    rw [fields_c] at hc ⊢
    refine ⟨rfl, congrArg some ?_⟩
    rw [show (0 : Nat) = (0 : Fin 64).val from rfl, vparts_eq _ 0 a (of_decide_eq_true hb),
      show (vreg c.val).val = c.val from Nat.mod_eq_of_lt hc]
    rfl
  case h_23 =>
    obtain ⟨rfl, rfl, rfl, rfl, rfl⟩ := h
    refine ⟨rfl, congrArg some ?_⟩
    rw [vparts, predicate_and_vector]
    rfl
  case h_24 =>
    obtain ⟨rfl, rfl, hhi, hlo, ⟨rfl, ha, hb, hv0, hv⟩, rfl⟩ := h
    refine ⟨dstOk_iff.2 ha, congrArg some ?_⟩
    rw [immX_lane hv0 hv (by omega), withImmX_immX hxis, vreg_low (of_decide_eq_true hb)]
    rfl
  case h_25 =>
    obtain ⟨rfl, rfl, hhi, hlo, ⟨rfl, ha, hv0, hv⟩, rfl⟩ := h
    refine ⟨rfl, congrArg some ?_⟩
    rw [immX_lane hv0 hv (by omega), withImmX_immX hxis, vreg_low (of_decide_eq_true ha)]
    rfl
  case h_26 =>
    obtain ⟨rfl, ⟨c, m, rfl⟩, rfl, ⟨⟨he16, he2⟩, hb, ⟨⟨hc7, hc3⟩, hcu⟩, ⟨hm7, hm3⟩, hmu⟩, rfl⟩ := h
    rw [fields_c] at hc7 hc3 hcu ⊢
    rw [fields_m] at hm7 hm3 hmu ⊢
    obtain ⟨hcnum, hcok⟩ := formatCode c hc7 hc3
    obtain ⟨hmnum, hmok⟩ := formatCode m hm7 hm3
    refine ⟨and_intro (hcok hcu) (hmok hmu), congrArg some ?_⟩
    rw [convertSec e he16 he2, hcnum, hmnum, vparts_eq _ e a (of_decide_eq_true hb)]
    rfl
  case h_27 =>
    obtain ⟨rfl, ⟨c, m, rfl⟩, rfl, ⟨⟨he2, he7⟩, ha, hb, hc, hm⟩, rfl⟩ := h
    obtain rfl := modifier_zero hm
    obtain ⟨hle, hnum⟩ := blockSec e he2 he7
    rw [fields_c] at hc ⊢
    rw [reg_val]
    refine ⟨and_intro (and_intro (decide_eq_true (by omega)) hle) (decide_eq_true hc), congrArg some ?_⟩
    rw [hnum, vreg_low (of_decide_eq_true ha), vreg_low (of_decide_eq_true hb)]
    rfl
  case h_28 =>
    obtain ⟨rfl, ⟨c, m, rfl⟩, rfl, ⟨⟨he2, he7⟩, ht, ha, hb, hm⟩, rfl⟩ := h
    obtain rfl := modifier_zero hm
    obtain ⟨hle, hnum⟩ := blockSec e he2 he7
    rw [fields_c, reg_val]
    refine ⟨and_intro (and_intro (decide_eq_true (by omega)) hle) (by simpa using ht), congrArg some ?_⟩
    rw [hnum, vreg_low (of_decide_eq_true ha), vreg_low (of_decide_eq_true hb)]
    rfl
  case h_29 =>
    obtain ⟨rfl, rfl, rfl, ⟨⟨he2, he7⟩, ha, hb⟩, rfl⟩ := h
    obtain ⟨hle, hnum⟩ := blockSec e he2 he7
    refine ⟨and_intro (and_intro (decide_eq_true (by omega)) hle) (dstOk_iff.2 ha), congrArg some ?_⟩
    rw [hnum, vreg_low (of_decide_eq_true hb)]
    rfl
  case h_30 =>
    obtain ⟨rfl, ⟨c, m, rfl⟩, rfl, ⟨rfl, ha, hb, hc, hm⟩, rfl⟩ := h
    obtain rfl := modifier_zero hm
    rw [fields_c] at hc ⊢
    rw [reg_val]
    refine ⟨dstOk_iff.2 hc, congrArg some ?_⟩
    rw [vreg_low (of_decide_eq_true ha), vreg_low (of_decide_eq_true hb)]
    rfl
  case h_31 =>
    obtain ⟨rfl, ⟨c, m, rfl⟩, rfl, ⟨rfl, ha, hb, hm⟩, rfl⟩ := h
    obtain rfl := modifier_zero hm
    rw [fields_c, reg_val]
    refine ⟨rfl, congrArg some ?_⟩
    rw [vreg_low (of_decide_eq_true ha), vreg_low (of_decide_eq_true hb)]
    rfl
  case h_32 | h_33 | h_34 | h_35 | h_36 =>
    obtain ⟨rfl, rfl, rfl, ⟨⟨⟨he16, he4⟩, he2⟩, hb⟩, rfl⟩ := h
    refine ⟨vtypeOf_float e he16, congrArg some ?_⟩
    rw [approxParts, arithOf_sat e he4 he2, vparts_eq _ e a (of_decide_eq_true hb)]
  case h_37 =>
    obtain ⟨rfl, rfl, hhi, ⟨⟨⟨he32, hw⟩, hsp⟩, hu⟩, rfl⟩ := h
    obtain ⟨hnum, hok⟩ := loadSec e he32 hw hsp
    refine ⟨and_intro (hok hu) (immX_okX hxis hhi (Nat.zero_le _)), congrArg some ?_⟩
    rw [hnum, withImmX_immX hxis, vparts, predicate_and_vector]
    rfl
  case h_38 =>
    obtain ⟨rfl, rfl, hhi, ⟨⟨he16, hw⟩, hsp⟩, rfl⟩ := h
    obtain ⟨hnum, hok⟩ := storeSec e he16 hw hsp
    refine ⟨and_intro hok (immX_okX hxis hhi (Nat.zero_le _)), congrArg some ?_⟩
    rw [hnum, withImmX_immX hxis, vparts, predicate_and_vector]
    rfl
  case h_39 =>
    obtain ⟨rfl, rfl, rfl, ⟨rfl, ha⟩, rfl⟩ := h
    exact ⟨rfl, congrArg (fun n => some (dparts 4 0 0x26 n b.val)) (Nat.mod_eq_of_lt (of_decide_eq_true ha))⟩
  case h_40 =>
    obtain ⟨rfl, rfl, rfl, ⟨rfl, ha, hb⟩, rfl⟩ := h
    exact ⟨dstOk_iff.2 ha, congrArg (fun n => some (dparts 4 0 0x27 a.val n)) (Nat.mod_eq_of_lt (of_decide_eq_true hb))⟩

theorem val_ofNat {n k : Nat} [NeZero n] (h : decide (k < n) = true) : (Fin.ofNat n k).val = k :=
  Nat.mod_eq_of_lt (of_decide_eq_true h)

theorem csrOk_eq (i : Imm) : csrOk i = (i.okB 1 && csrExists i.v) := rfl

theorem page5_sound {e : Fin 64} {xs : Option (Fin 8 × Fin 128)} {xr : Option (Reg × Reg)} {xis : List Nat} {op : Nat} {a b : Reg}
    {i : Instr} (hfits : Fits (fields (some (5, e)) xs xr xis op a b))
      (h : page5 (fields (some (5, e)) xs xr xis op a b) = .ok i) :
    i.wf = true ∧ partsOf i = some (fields (some (5, e)) xs xr xis op a b) := by
  simp only [page5, fields_op] at h
  split at h
  all_goals try simp [-Fin.ofNat_eq_cast] at h
  case h_1 | h_2 | h_7 | h_8 | h_9 | h_10 | h_11 =>
    obtain ⟨rfl, rfl, rfl, ⟨rfl, ha⟩, rfl⟩ := h
    exact ⟨dstOk_iff.2 ha, rfl⟩
  case h_3 | h_5 | h_6 | h_12 | h_13 =>
    obtain ⟨rfl, rfl, rfl, ⟨rfl, ha, hlo, hup⟩, rfl⟩ := h
    exact ⟨and_intro (dstOk_iff.2 ha) (within_iff.2 ⟨of_decide_eq_true hlo, of_decide_eq_true hup⟩), rfl⟩
  case h_4 =>
    obtain ⟨rfl, ⟨c, m, rfl⟩, rfl, ⟨rfl, ha, ⟨hlo, hup⟩, hc, hm⟩, rfl⟩ := h
    obtain rfl := modifier_zero hm
    rw [fields_c] at hc ⊢
    refine ⟨and_intro (dstOk_iff.2 ha) (within_iff.2 ⟨of_decide_eq_true hlo, of_decide_eq_true hup⟩), congrArg some ?_⟩
    rw [show (vreg c.val).val = c.val from Nat.mod_eq_of_lt hc]
    rfl
  case h_14 =>
    rcases xr with _ | ⟨c, m⟩
    · obtain ⟨rfl, -, hhi, -, hl, rfl⟩ := form_no_iff.1 h
      simp at hl hhi
      obtain ⟨rfl, ha, hlo, hup⟩ := hl
      obtain rfl := hhi
      exact ⟨and_intro (dstOk_iff.2 ha) (within_iff.2 ⟨of_decide_eq_true hlo, of_decide_eq_true hup⟩), rfl⟩
    · obtain ⟨rfl, -, hhi, -, hl, rfl⟩ := form_req_iff.1 h
      simp at hl hhi
      obtain ⟨rfl, ha, hc, hm⟩ := hl
      obtain rfl := hhi
      obtain rfl : c = 0 := hc
      obtain rfl : m = 1 := Fin.ext hm
      exact ⟨dstOk_iff.2 ha, rfl⟩

theorem page6_sound {e : Fin 64} {xs : Option (Fin 8 × Fin 128)} {xr : Option (Reg × Reg)} {xis : List Nat} {op : Nat} {a b : Reg}
    {i : Instr} (hfits : Fits (fields (some (6, e)) xs xr xis op a b))
      (h : page6 (fields (some (6, e)) xs xr xis op a b) = .ok i) :
    i.wf = true ∧ partsOf i = some (fields (some (6, e)) xs xr xis op a b) := by
  simp only [page6, fields_op] at h
  split at h
  all_goals try simp [-Fin.ofNat_eq_cast] at h
  case h_1 =>
    obtain ⟨rfl, rfl, rfl, ⟨rfl, ⟨ha, hlo⟩, hup⟩, rfl⟩ := h
    refine ⟨within_iff.2 ⟨of_decide_eq_true hlo, of_decide_eq_true hup⟩, congrArg some ?_⟩
    rw [val_ofNat ha]
    rfl
  case h_2 | h_3 | h_4 =>
    obtain ⟨rfl, rfl, rfl, ⟨rfl, ⟨ha, hb⟩, hne⟩, rfl⟩ := h
    refine ⟨bne_iff_ne.2 (fun heq => hne ?_), congrArg some ?_⟩
    · rw [← val_ofNat ha, ← val_ofNat hb, heq]
    · rw [val_ofNat ha, val_ofNat hb]
      rfl
  case h_5 =>
    obtain ⟨rfl, rfl, rfl, ⟨rfl, ⟨⟨ha, hb⟩, hne⟩, hbit⟩, rfl⟩ := h
    refine ⟨and_intro (bne_iff_ne.2 (fun heq => hne ?_)) ?_, congrArg some ?_⟩
    · exact Fin.ext ((val_ofNat hb).symm.trans (congrArg Fin.val heq))
    · rw [val_ofNat ha, val_ofNat hb]
      exact beq_iff_eq.2 hbit
    · rw [val_ofNat ha, val_ofNat hb]
      rfl
  case h_6 =>
    obtain ⟨rfl, rfl, rfl, ⟨rfl, ⟨hlo, hup⟩, hb⟩, rfl⟩ := h
    refine ⟨within_iff.2 ⟨of_decide_eq_true hlo, of_decide_eq_true hup⟩, congrArg some ?_⟩
    rw [val_ofNat hb]
    rfl
  case h_7 =>
    obtain ⟨rfl, rfl, ⟨rfl, ⟨ha, hb⟩, hm⟩, rfl⟩ := h
    rcases xr with _ | ⟨c, m⟩
    · refine ⟨dstOk_iff.2 ha, congrArg some ?_⟩
      rw [val_ofNat hb]
      rfl
    · obtain rfl := modifier_zero hm
      refine ⟨dstOk_iff.2 ha, congrArg some ?_⟩
      rw [fields_c, reg_val, val_ofNat hb]
      rfl
  case h_8 =>
    obtain ⟨rfl, rfl, rfl, ⟨rfl, ha, hb⟩, rfl⟩ := h
    refine ⟨dstOk_iff.2 ha, congrArg some ?_⟩
    rw [val_ofNat hb]
    rfl

theorem page7_sound {e : Fin 64} {xs : Option (Fin 8 × Fin 128)} {xr : Option (Reg × Reg)} {xis : List Nat} {op : Nat} {a b : Reg}
    {i : Instr} (hfits : Fits (fields (some (7, e)) xs xr xis op a b))
      (h : page7 (fields (some (7, e)) xs xr xis op a b) = .ok i) :
    i.wf = true ∧ partsOf i = some (fields (some (7, e)) xs xr xis op a b) := by
  simp only [page7, fields_op] at h
  split at h
  all_goals try simp [-Fin.ofNat_eq_cast] at h
  case h_1 =>
    obtain ⟨rfl, rfl, rfl, ⟨rfl, ha, hlo, hup⟩, rfl⟩ := h
    exact ⟨and_intro (dstOk_iff.2 ha) (within_iff.2 ⟨of_decide_eq_true hlo, of_decide_eq_true hup⟩), rfl⟩
  case h_2 | h_3 =>
    obtain ⟨rfl, ⟨c, m, rfl⟩, rfl, ⟨rfl, ha, hm⟩, rfl⟩ := h
    obtain rfl := modifier_zero hm
    rw [fields_c, reg_val]
    exact ⟨dstOk_iff.2 ha, rfl⟩
  case h_4 | h_5 =>
    obtain ⟨rfl, rfl, rfl, ⟨rfl, hlo, hup⟩, rfl⟩ := h
    exact ⟨within_iff.2 ⟨of_decide_eq_true hlo, of_decide_eq_true hup⟩, rfl⟩

theorem page8_sound {e : Fin 64} {xs : Option (Fin 8 × Fin 128)} {xr : Option (Reg × Reg)} {xis : List Nat} {op : Nat} {a b : Reg}
    {i : Instr} (hfits : Fits (fields (some (8, e)) xs xr xis op a b))
      (h : page8 (fields (some (8, e)) xs xr xis op a b) = .ok i) :
    i.wf = true ∧ partsOf i = some (fields (some (8, e)) xs xr xis op a b) := by
  simp only [page8, fields_op] at h
  split at h
  all_goals try simp [-Fin.ofNat_eq_cast] at h
  case h_1 =>
    obtain ⟨hg, rfl, rfl, ⟨rfl, hq, rfl, rfl⟩, rfl⟩ := h
    exact ⟨rfl, congrArg some (withXs_xsOpt hg (qual_eq hq) _ rfl)⟩
  case h_2 =>
    obtain ⟨rfl, rfl, rfl, ⟨rfl, ha⟩, rfl⟩ := h
    exact ⟨dstOk_iff.2 ha, rfl⟩
  case h_3 =>
    rcases xr with _ | ⟨c, m⟩
    · obtain ⟨rfl, -, hhi, -, hl, rfl⟩ := form_no_iff.1 h
      simp at hl hhi
      obtain ⟨rfl, ha⟩ := hl
      obtain rfl := hhi
      exact ⟨dstOk_iff.2 ha, rfl⟩
    · obtain ⟨rfl, -, hhi, -, hl, rfl⟩ := form_req_iff.1 h
      simp at hl hhi
      obtain ⟨rfl, ha, hc, hm⟩ := hl
      obtain rfl := hhi
      obtain rfl : c = 0 := hc
      obtain rfl : m = 1 := Fin.ext hm
      exact ⟨dstOk_iff.2 ha, rfl⟩
  case h_4 =>
    obtain ⟨rfl, ⟨c, m, rfl⟩, rfl, ⟨rfl, ha, hm⟩, rfl⟩ := h
    obtain rfl := modifier_zero hm
    rw [fields_c, reg_val]
    exact ⟨dstOk_iff.2 ha, rfl⟩
  case h_5 | h_6 =>
    obtain ⟨rfl, rfl, rfl, ⟨rfl, ha, rfl⟩, rfl⟩ := h
    exact ⟨dstOk_iff.2 ha, rfl⟩
  case h_7 =>
    obtain ⟨rfl, rfl, rfl, ⟨rfl, ha, hb⟩, rfl⟩ := h
    split
    next h0 =>
      subst h0
      exact ⟨dstOk_iff.2 ha, rfl⟩
    next h0 =>
      obtain rfl : b = 1 := Fin.ext (by
        have hpos := Fin.val_ne_iff.2 h0
        show b.val = 1
        simp at hpos
        omega)
      exact ⟨dstOk_iff.2 ha, rfl⟩

theorem page9_sound {e : Fin 64} {xs : Option (Fin 8 × Fin 128)} {xr : Option (Reg × Reg)} {xis : List Nat} {op : Nat} {a b : Reg}
    {i : Instr} (hfits : Fits (fields (some (9, e)) xs xr xis op a b))
      (h : page9 (fields (some (9, e)) xs xr xis op a b) = .ok i) :
    i.wf = true ∧ partsOf i = some (fields (some (9, e)) xs xr xis op a b) := by
  have hxis : ∀ y ∈ xis, y < 1024 := hfits.xis
  simp only [page9, fields_op] at h
  split at h
  all_goals try simp [-Fin.ofNat_eq_cast] at h
  case h_1 =>
    obtain ⟨rfl, rfl, hhi, ⟨rfl, ha, hnum⟩, rfl⟩ := h
    exact ⟨and_intro (dstOk_iff.2 ha) (and_intro (immB_okB hxis hhi) hnum),
      congrArg (fun p => some (Parts.pg p 9 0)) (withImmB_immB hxis _)⟩
  case h_2 | h_3 | h_4 =>
    obtain ⟨rfl, rfl, hhi, ⟨rfl, hnum⟩, rfl⟩ := h
    exact ⟨and_intro (immB_okB hxis hhi) hnum, congrArg (fun p => some (Parts.pg p 9 0)) (withImmB_immB hxis _)⟩
  case h_5 =>
    obtain ⟨rfl, rfl, rfl, ⟨rfl, rfl, rfl⟩, rfl⟩ := h
    exact ⟨rfl, rfl⟩
  case h_6 =>
    obtain ⟨rfl, ⟨c, m, rfl⟩, rfl, ⟨rfl, ⟨hlo, hup⟩, hm⟩, rfl⟩ := h
    obtain rfl := modifier_zero hm
    rw [fields_c, reg_val]
    exact ⟨within_iff.2 ⟨of_decide_eq_true hlo, of_decide_eq_true hup⟩, rfl⟩
  case h_7 =>
    obtain ⟨rfl, ⟨c, m, rfl⟩, rfl, ⟨rfl, ha, ⟨hlo, hup⟩, hm⟩, rfl⟩ := h
    obtain rfl := modifier_zero hm
    rw [fields_c, reg_val]
    exact ⟨and_intro (dstOk_iff.2 ha) (within_iff.2 ⟨of_decide_eq_true hlo, of_decide_eq_true hup⟩), rfl⟩
  case h_8 =>
    obtain ⟨rfl, ⟨c, m, rfl⟩, rfl, ⟨rfl, ha, hm, hb⟩, rfl⟩ := h
    rw [fields_m] at hm hb
    rw [fields_c, fields_m, reg_val]
    split
    next h1 =>
      obtain rfl : m = 1 := Fin.ext h1
      obtain rfl := hb.resolve_left (not_not_intro h1)
      exact ⟨dstOk_iff.2 ha, rfl⟩
    next h1 =>
      obtain rfl : m = 0 := Fin.ext (by show m.val = 0; omega)
      exact ⟨dstOk_iff.2 ha, rfl⟩
  case h_9 =>
    obtain ⟨rfl, rfl, rfl, ⟨rfl, ha⟩, rfl⟩ := h
    exact ⟨dstOk_iff.2 ha, rfl⟩


/-! ## All pages -/

section
variable {e : Fin 64} {xs : Option (Fin 8 × Fin 128)} {xr : Option (Reg × Reg)} {xis : List Nat} {op : Nat} {a b : Reg}

theorem instrOf_page0 : instrOf (fields none xs xr xis op a b) = page0 (fields none xs xr xis op a b) := by
  have hpage : (fields none xs xr xis op a b).page = 0 := by simp [fields, Parts.page]
  rw [instrOf, if_neg (by simp [fields]), hpage]
  rfl
theorem instrOf_page1 : instrOf (fields (some (1, e)) xs xr xis op a b) = page1 (fields (some (1, e)) xs xr xis op a b) := by
  rw [instrOf, fields_page]
  exact if_neg (fun h => absurd h.2 (by decide))
theorem instrOf_page2 : instrOf (fields (some (2, e)) xs xr xis op a b) = page2 (fields (some (2, e)) xs xr xis op a b) := by
  rw [instrOf, fields_page]
  exact if_neg (fun h => absurd h.2 (by decide))
theorem instrOf_page3 : instrOf (fields (some (3, e)) xs xr xis op a b) = page3 (fields (some (3, e)) xs xr xis op a b) := by
  rw [instrOf, fields_page]
  exact if_neg (fun h => absurd h.2 (by decide))
theorem instrOf_page4 : instrOf (fields (some (4, e)) xs xr xis op a b) = page4 (fields (some (4, e)) xs xr xis op a b) := by
  rw [instrOf, fields_page]
  exact if_neg (fun h => absurd h.2 (by decide))
theorem instrOf_page5 : instrOf (fields (some (5, e)) xs xr xis op a b) = page5 (fields (some (5, e)) xs xr xis op a b) := by
  rw [instrOf, fields_page]
  exact if_neg (fun h => absurd h.2 (by decide))
theorem instrOf_page6 : instrOf (fields (some (6, e)) xs xr xis op a b) = page6 (fields (some (6, e)) xs xr xis op a b) := by
  rw [instrOf, fields_page]
  exact if_neg (fun h => absurd h.2 (by decide))
theorem instrOf_page7 : instrOf (fields (some (7, e)) xs xr xis op a b) = page7 (fields (some (7, e)) xs xr xis op a b) := by
  rw [instrOf, fields_page]
  exact if_neg (fun h => absurd h.2 (by decide))
theorem instrOf_page8 : instrOf (fields (some (8, e)) xs xr xis op a b) = page8 (fields (some (8, e)) xs xr xis op a b) := by
  rw [instrOf, fields_page]
  exact if_neg (fun h => absurd h.2 (by decide))
theorem instrOf_page9 : instrOf (fields (some (9, e)) xs xr xis op a b) = page9 (fields (some (9, e)) xs xr xis op a b) := by
  rw [instrOf, fields_page]
  exact if_neg (fun h => absurd h.2 (by decide))

/-- R33: XP names one of pages 1 to 9. -/
theorem page_of_instrOf {g : Fin 16} {i : Instr} (h : instrOf (fields (some (g, e)) xs xr xis op a b) = .ok i) :
    g = 1 ∨ g = 2 ∨ g = 3 ∨ g = 4 ∨ g = 5 ∨ g = 6 ∨ g = 7 ∨ g = 8 ∨ g = 9 := by
  have hpage : ¬ (g.val = 0 ∨ 10 ≤ g.val) := fun hg => by
    rw [instrOf, fields_page, if_pos ⟨rfl, hg⟩] at h
    exact absurd h nofun
  omega

end

/-- R35: prefixes and a base word that give an instruction are its encoding, and it is well-formed. -/
theorem instrOf_sound {p : Parts} (hfits : Fits p) {i : Instr} (h : instrOf p = .ok i) : i.wf = true ∧ partsOf i = some p := by
  obtain ⟨xp, xs, xr, op, a, b, hp⟩ := hfits.exists_fields
  generalize p.xis = xis at hp
  subst hp
  rcases xp with _ | ⟨g, e⟩
  · exact page0_sound hfits (instrOf_page0 ▸ h)
  rcases page_of_instrOf h with rfl | rfl | rfl | rfl | rfl | rfl | rfl | rfl | rfl
  · exact page1_sound hfits (instrOf_page1 ▸ h)
  · exact page2_sound hfits (instrOf_page2 ▸ h)
  · exact page3_sound hfits (instrOf_page3 ▸ h)
  · exact page4_sound hfits (instrOf_page4 ▸ h)
  · exact page5_sound hfits (instrOf_page5 ▸ h)
  · exact page6_sound hfits (instrOf_page6 ▸ h)
  · exact page7_sound hfits (instrOf_page7 ▸ h)
  · exact page8_sound hfits (instrOf_page8 ▸ h)
  · exact page9_sound hfits (instrOf_page9 ▸ h)

theorem decode_eq_ok_iff {ws : List HWord} {i : Instr} {n : Nat} : decode ws = .ok i n ↔
    ∃ p, Fits p ∧ p.len ≤ ws.length ∧ p.words = ws.take p.len ∧ instrOf p = .ok i ∧ n = p.len := by
  unfold decode
  refine ⟨fun h => ?_, fun ⟨p, hfits, hlen, hwords, hi, hn⟩ => ?_⟩
  · split at h
    next => exact absurd h nofun
    next => exact absurd h nofun
    next p hscan =>
      obtain ⟨hfits, hlen, hwords⟩ := scanWords_eq_ok_iff.1 hscan
      split at h
      next j hj =>
        obtain ⟨rfl, rfl⟩ := DecRes.ok.inj h
        exact ⟨p, hfits, hlen, hwords, hj, rfl⟩
      next => exact absurd h nofun
  · rw [scanWords_eq_ok_iff.2 ⟨hfits, hlen, hwords⟩]
    simp only [hi, hn]

/-- Settles O56. -/
theorem decodeSound : Obligations.DecodeSound := by
  intro ws i n h
  obtain ⟨p, hfits, hlen, hwords, hi, rfl⟩ := decode_eq_ok_iff.1 h
  obtain ⟨hwf, hparts⟩ := instrOf_sound hfits hi
  refine ⟨hwf, ?_, ?_, hlen⟩
  · rw [encode, hparts]
    exact hwords
  · rw [ilen, hparts]
    rfl

/-! ## Encoding, then decoding -/

/-- R35: these parts fit, and they give this instruction. -/
def Gives (p : Parts) (i : Instr) : Prop := Fits p ∧ instrOf p = .ok i

section
variable {e : Fin 64} {xs : Option (Fin 8 × Fin 128)} {xr : Option (Reg × Reg)} {xis : List Nat} {op : Nat} {a b : Reg}
  {i : Instr}

@[simp] theorem fields_xr_none {xp : Option (Fin 16 × Fin 64)} : (fields xp xs none xis op a b).xr = none := rfl
@[simp] theorem fields_xr_some {xp : Option (Fin 16 × Fin 64)} (c : Reg × Reg) :
    (fields xp xs (some c) xis op a b).xr = some (32 * c.1.val + c.2.val) := rfl
theorem third_length (c : Option Reg) : (third c).toList.length ≤ 4 := by
  cases c <;> simp

/-- A form of page 0 whose XI words fit behind its XR word. -/
theorem gives_page0 (hi : page0 (fields none none xr xis op a b) = .ok i) (hop : op < 0x3C) (hxis : ∀ y ∈ xis, y < 1024)
    (hroom : xr.toList.length + xis.length ≤ 4) : Gives (fields none none xr xis op a b) i :=
  ⟨fits_fields hop hxis (by simpa using hroom), instrOf_page0.trans hi⟩

/-- R37: a form with an immediate whose low bits stand in field b. -/
theorem gives_class_I {c : Option Reg} {m : Imm} (hok : m.okC c = true) (op : Nat) (a : Reg) (hop : op < 0x3C)
    (hi : ∀ xis b, xis.length ≤ 4 → (fields none none (third c) xis op a b).immB = m → page0
      (fields none none (third c) xis op a b) = .ok i) :
    Gives (iparts op a c m) i := by
  obtain ⟨b, xis, hxis, hlen, hle, hparts, himm⟩ := exists_immB hok
  rw [iparts_eq hparts]
  have h4 : (third c).toList.length + xis.length ≤ 4 := by
    cases c <;> simp at hle ⊢ <;> omega
  exact gives_page0 (hi xis b (by omega) (himm ..)) hop hxis h4

/-- R136: a load or store of space G. -/
theorem gives_space_G {m : Imm} (hok : m.okX 0 4 = true) (op : Nat) (a b : Reg) (hop : op < 0x3C)
    (hi : ∀ xis, xis.length ≤ 4 → (fields none none none xis op a b).immX = m → page0 (fields none none none xis op a b) = .ok
      i) :
    Gives (mparts op a b m) i := by
  obtain ⟨xis, hxis, hlen, hle, -, hparts, himm⟩ := exists_immX hok
  rw [mparts, hparts]
  exact gives_page0 (hi xis (by omega) (himm ..)) hop hxis (by simp; omega)

/-- A form of another page whose other prefixes fit behind XP. -/
theorem gives_page {g : Fin 16} (hi : instrOf (fields (some (g, e)) xs xr xis op a b) = .ok i) (hop : op < 0x3C)
    (hxis : ∀ y ∈ xis, y < 1024) (hroom : xs.toList.length + xr.toList.length + xis.length ≤ 3) :
    Gives (fields (some (g, e)) xs xr xis op a b) i :=
  ⟨fits_fields hop hxis (by simp; omega), hi⟩

/-- A form of another page without more prefixes. -/
theorem gives_dparts {g : Fin 16} (e : Fin 64) (op : Nat) (a b : Reg) (hop : op < 0x3C)
    (hi : instrOf (fields (some (g, e)) none none [] op a b) = .ok i) : Gives (dparts g.val e.val op a.val b.val) i :=
  gives_page hi hop nofun (by decide)

/-- A form of another page with an XR word. -/
theorem gives_dparts_withXr {g : Fin 16} (e : Fin 64) (op : Nat) (a b c m : Reg) (hop : op < 0x3C)
    (hi : instrOf (fields (some (g, e)) none (some (c, m)) [] op a b) = .ok i) :
    Gives ((dparts g.val e.val op a.val b.val).withXr c.val m.val) i :=
  gives_page hi hop nofun (by simp)

theorem mparts_pg_eq {m : Imm} (h : ∀ q : Parts, q.withImmX m = { q with xis := xis }) (g : Fin 16) :
    (mparts op a b m).pg g.val e.val = fields (some (g, e)) none none xis op a b := by
  rw [mparts, h]
  rfl

/-- R37: a form with a displacement in XI words. -/
theorem gives_class_M {g : Fin 16} {m : Imm} {lo hi : Nat} (hok : m.okX lo hi = true) (hhi : hi ≤ 3) (op : Nat) (a b : Reg)
    (e : Fin 64)
    (hop : op < 0x3C)
    (hi : ∀ xis, xis.length ≤ hi → lo ≤ xis.length → (fields (some (g, e)) none none xis op a b).immX = m →
      instrOf (fields (some (g, e)) none none xis op a b) = .ok i) :
    Gives ((mparts op a b m).pg g.val e.val) i := by
  obtain ⟨xis, hxis, hlen, hle, hge, hparts, himm⟩ := exists_immX hok
  rw [mparts_pg_eq hparts]
  exact gives_page (hi xis (by omega) (by omega) (himm ..)) hop hxis (by simp; omega)

/-- R36: the XS word of a scope and a qualifier. -/
def scopeWord (xs : Option Scope) (k : Fin 128) : Option (Fin 8 × Fin 128) := xs.map (fun s => (Fin.ofNat 8 (scopeNum s), k))

theorem withXs_fields (xs : Option Scope) (k : Fin 128) {g : Fin 16} :
    (fields (some (g, e)) none xr xis op a b).withXs k.val xs = fields (some (g, e)) (scopeWord xs k) xr xis op a b := by
  rcases xs with _ | s
  · rfl
  · cases s <;> rfl

theorem scope_scopeWord (xs : Option Scope) (k : Fin 128) (g : Fin 8) (q : Fin 128) (h : scopeWord xs k = some (g, q)) : g.val <
    6 := by
  rcases xs with _ | s
  · exact absurd h nofun
  · obtain ⟨rfl, rfl⟩ := Prod.mk.inj (Option.some.inj h)
    cases s <;> decide

@[simp] theorem xsOpt_scopeWord (xs : Option Scope) (k : Fin 128) {xp : Option (Fin 16 × Fin 64)} :
    (fields xp (scopeWord xs k) xr xis op a b).xsOpt = xs := by
  rcases xs with _ | s
  · rfl
  · rw [scopeWord, Option.map_some, xsOpt_some]
    cases s <;> rfl

@[simp] theorem qual_scopeWord_some (s : Scope) (k : Fin 128) {xp : Option (Fin 16 × Fin 64)} :
    (fields xp (scopeWord (some s) k) xr xis op a b).qual = k.val := fields_qual _ _

theorem scopeOf_scopeNum (s : Scope) : scopeOf (scopeNum s) = s := by
  cases s <;> rfl

theorem scope_scopeWord_some (s : Scope) (k : Fin 128) {xp : Option (Fin 16 × Fin 64)} :
    (fields xp (scopeWord (some s) k) xr xis op a b).scope = scopeNum s := by
  rw [scopeWord, Option.map_some, fields_scope]
  cases s <;> rfl

@[simp] theorem qual_scopeWord_zero (xs : Option Scope) {xp : Option (Fin 16 × Fin 64)} :
    (fields xp (scopeWord xs 0) xr xis op a b).qual = 0 := by
  rcases xs with _ | s
  · rfl
  · exact fields_qual _ _

theorem scopeWord_room (xs : Option Scope) (k : Fin 128) (xr : Option (Reg × Reg)) :
    (scopeWord xs k).toList.length + xr.toList.length + ([] : List Nat).length ≤ 3 := by
  have hxs := toList_length_le_one (scopeWord xs k)
  have hxr := toList_length_le_one xr
  simp only [List.length_nil]
  omega
end

/-- R307: a CSR instruction. -/
theorem gives_csr {i : Instr} {m : Imm} (hok : csrOk m = true) (op : Nat) (a : Reg) (hop : op < 0x3C)
    (hi : ∀ xis b, xis.length ≤ 1 → (fields (some (9, 0)) none none xis op a b).immB = m → csrExists m.v = true →
      page9 (fields (some (9, 0)) none none xis op a b) = .ok i) :
    Gives (((Parts.base op a.val 0).withImmB m).pg 9 0) i := by
  rw [csrOk_eq] at hok
  obtain ⟨hm, hex⟩ := Bool.and_eq_true_iff.1 hok
  obtain ⟨b, xis, hxis, hlen, hle, hparts, himm⟩ := exists_immB hm
  rw [hparts]
  exact gives_page (g := 9) (e := 0) (xs := none) (xr := none) (op := op) (a := a) (b := b)
    (instrOf_page9.trans (hi xis b (by omega) (himm ..) hex)) hop hxis (by simp; omega)

theorem ne_nil_of_two_le {l : List Nat} (h : 2 ≤ l.length) : l ≠ [] := by
  rintro rfl
  exact absurd h (by decide)

theorem four_le : 4 ≤ 32 := by decide
theorem eight_le : 8 ≤ 32 := by decide
theorem sixteen_le : 16 ≤ 32 := by decide

/-! Codes in secondary fields -/

def amoSec (o : AmoOp) : Fin 64 := Fin.ofNat 64 (amoNum o)
theorem amoOf_amoSec (o : AmoOp) : amoOf ((amoSec o).val % 8) = o ∧ (amoSec o).val < 8 := by
  cases o <;> exact ⟨rfl, by decide⟩
def widthSec (w : Width) : Fin 64 := Fin.ofNat 64 (widthNum w)
theorem widthOf_widthSec (w : Width) : widthOf (widthSec w).val = w ∧ (widthSec w).val < 4 := by
  cases w <;> exact ⟨rfl, by decide⟩

def extField (w : Width) (k : Nat) : Reg := Fin.ofNat 32 (k + widthNum w)
theorem extField_ok (w : Width) (h : extOk w = true) :
    ((extField w 0).val / 4 % 4 = 0 ∧ (extField w 0).val % 4 ≠ 3 ∧ widthOf ((extField w 0).val % 4) = w ∧ (extField w 0).val < 16)
      ∧ (extField w 16).val / 4 % 4 = 0 ∧ (extField w 16).val % 4 ≠ 3 ∧ widthOf ((extField w 16).val % 4) = w
      ∧ ¬ (extField w 16).val < 16 := by
  cases w
  case d => exact absurd h (by decide)
  all_goals decide

def accessSec (sp : Space) (w : Width) : Fin 64 := Fin.ofNat 64 (spaceNum sp + 4 * widthNum w)
theorem accessSec_ok (sp : Space) (w : Width) : spaceOf ((accessSec sp w).val % 4) = sp ∧ widthOf ((accessSec sp w).val / 4) = w
    ∧ (accessSec sp w).val % 4 ≠ 3 ∧ (accessSec sp w).val < 16 := by
  cases sp <;> cases w <;> exact ⟨rfl, rfl, by decide, by decide⟩
theorem accessSec_w (w : Width) : (accessSec .w w).val % 4 = 0 := by
  cases w <;> rfl

/-- R152: the fields of `chld` and `chld.fail`. -/
theorem gives_chain {a b c m : Reg} (e : Fin 64) (he : e.val < 2) (ha : within a 1 26 = true) (h1 : 1 ≤ m.val) (h6 : m.val ≤ 6)
    (h28 : c.val + m.val ≤ 28) : Gives ((dparts 1 e.val 0x0C a.val b.val).withXr c.val m.val)
      (if e.val = 1 then .chldFail a b c m.val else .chld a b c m.val) := by
  refine gives_page (g := 1) (e := e) (xs := none) (xr := some (c, m)) (xis := []) (op := 0x0C) (a := a) (b := b)
      (instrOf_page1.trans (form_req_iff.2 ?_)) (by decide) nofun (by simp)
  simp [within_iff.1 ha, h1, h6, h28, he]

/-- R190: the field of a governing predicate and a vector register. -/
def predVec (p : PReg) (d : VReg) : Reg := ⟨8 * p.val + d.val, by omega⟩

@[simp] theorem preg_predVec : ∀ (p : PReg) (d : VReg), preg ((predVec p d).val / 8) = p := by
  decide
@[simp] theorem vreg_predVec : ∀ (p : PReg) (d : VReg), vreg ((predVec p d).val % 8) = d := by
  decide
@[simp] theorem vreg_mod : ∀ b : VReg, vreg (b.val % 8) = b := by
  decide

/-- R192: the XR word of a second source, with the low bits of its modifier. -/
def sourceWord (k : VReg) : VSrc → Option (Reg × Reg)
  | .short => none
  | .vec c => some (c.castLE eight_le, k.castLE eight_le)
  | .gen c => some (c, ⟨16 + k.val, by omega⟩)

section
variable {xp : Option (Fin 16 × Fin 64)} {xs : Option (Fin 8 × Fin 128)} {xis : List Nat} {op : Nat} {a b : Reg}

theorem exists_sourceWord {k : VReg} {x : VSrc} (h : x.isXr = true) : ∃ c m, sourceWord k x = some (c, m) := by
  cases x with
  | short => exact absurd h nofun
  | vec c => exact ⟨_, _, rfl⟩
  | gen c => exact ⟨_, _, rfl⟩

theorem withV_fields (k : VReg) (x : VSrc) : (fields xp xs none xis op a b).withV k.val x = fields xp xs (sourceWord k x) xis op
    a b := by
  cases x <;> rfl

@[simp] theorem source_check (k : VReg) (x : VSrc) :
    (fields xp xs (sourceWord k x) xis op a b).m / 16 = 1 ∨ (fields xp xs (sourceWord k x) xis op a b).c < 8 := by
  have hk := k.isLt
  cases x with
  | short => exact .inr (by simp [sourceWord, fields, Parts.c])
  | vec c => exact .inr (by simp [sourceWord])
  | gen c =>
    refine .inl ?_
    simp only [sourceWord, fields_m]
    omega

theorem source_modifier (k : VReg) (x : VSrc) :
    (fields xp xs (sourceWord k x) xis op a b).m % 16 = if x.isXr then k.val else 0 := by
  have hk := k.isLt
  cases x with
  | short => rfl
  | vec c =>
    simp only [sourceWord, fields_m]
    exact Nat.mod_eq_of_lt (by show k.val < 16; omega)
  | gen c =>
    simp only [sourceWord, fields_m]
    show (16 + k.val) % 16 = k.val
    omega

/-- R194: the third source of `vfma`. -/
theorem source_third {k : VReg} {x : VSrc} (h : x.isXr = true) :
    (fields xp xs (sourceWord k x) xis op a b).m / 8 % 2 = 0 ∧ vreg ((fields xp xs (sourceWord k x) xis op a b).m % 8) = k := by
  have hk := k.isLt
  have hm := source_modifier (xp := xp) (xs := xs) (xis := xis) (op := op) (a := a) (b := b) k x
  rw [if_pos h] at hm
  refine ⟨by omega, Fin.ext ?_⟩
  show (fields xp xs (sourceWord k x) xis op a b).m % 8 % 8 = k.val
  omega

@[simp] theorem source_modifier_zero (x : VSrc) : (fields xp xs (sourceWord 0 x) xis op a b).m % 16 = 0 := by
  rw [source_modifier]
  split <;> rfl

@[simp] theorem source_eq (k : VReg) (x : VSrc) :
    (if (fields xp xs (sourceWord k x) xis op a b).xr = none then VSrc.short
      else if (fields xp xs (sourceWord k x) xis op a b).m / 16 = 1 then VSrc.gen
        (reg (fields xp xs (sourceWord k x) xis op a b).c)
      else VSrc.vec (vreg (fields xp xs (sourceWord k x) xis op a b).c)) = x := by
  have hk := k.isLt
  cases x with
  | short => rfl
  | vec c =>
    simp only [sourceWord, fields_c, fields_m, fields_xr_some]
    rw [if_neg nofun, if_neg (by show ¬ k.val / 16 = 1; omega)]
    exact congrArg VSrc.vec (vreg_val c)
  | gen c =>
    simp only [sourceWord, fields_c, fields_m, fields_xr_some, reg_val]
    rw [if_neg nofun, if_pos (by omega)]
end

def arithSec (q : VArith) : Fin 64 := Fin.ofNat 64 (arithNum q)
theorem arithSec_val (q : VArith) : (arithSec q).val = arithNum q := by
  obtain ⟨t, rm, sat, u⟩ := q
  cases t <;> cases rm <;> cases sat <;> cases u <;> rfl
theorem arithOf_arithSec (q : VArith) (h : q.ok = true) : arithOk (arithSec q).val = true ∧ arithOf (arithSec q).val = q := by
  obtain ⟨t, rm, sat, u⟩ := q
  revert h
  cases t <;> cases rm <;> cases sat <;> cases u <;> decide
theorem arithSec_rne {q : VArith} (h : (q.rm == .rne) = true) : (arithSec q).val / 4 % 4 = 0 := by
  obtain ⟨t, rm, sat, u⟩ := q
  obtain rfl : rm = .rne := eq_of_beq h
  cases t <;> cases sat <;> cases u <;> rfl
theorem arithSec_plain {q : VArith} (h : (q.rm == .rne) = true) (hsat : (!q.sat) = true) : (arithSec q).val / 2 % 8 = 0 := by
  obtain ⟨t, rm, sat, u⟩ := q
  obtain rfl : rm = .rne := eq_of_beq h
  obtain rfl : sat = false := by simpa using hsat
  cases t <;> cases u <;> rfl
theorem arithSec_signed {q : VArith} (h : (!q.u) = true) : (arithSec q).val % 2 = 0 := by
  obtain ⟨t, rm, sat, u⟩ := q
  obtain rfl : u = false := by simpa using h
  cases t <;> cases rm <;> cases sat <;> rfl

theorem four_le_eight : 4 ≤ 8 := by decide
def compareField (cc : VCond) (t : VType) (u : Bool) : Fin 64 := Fin.ofNat 64 (16 * vtypeNum t + 2 * condNum cc + bnum u)
theorem compareField_val (cc : VCond) (t : VType) (u : Bool) :
    (compareField cc t u).val = 16 * vtypeNum t + 2 * condNum cc + bnum u := by
  cases cc <;> cases t <;> cases u <;> rfl
theorem compareField_ok (cc : VCond) (t : VType) (u : Bool) : condOf ((compareField cc t u).val / 2 % 8) = cc
    ∧ vtypeOf ((compareField cc t u).val / 16) = t ∧ ((compareField cc t u).val % 2 == 1) = u
    ∧ (compareField cc t u).val / 2 % 8 ≠ 7
    ∧ ((cc != .uo || t != .i32) = true → (compareField cc t u).val / 2 % 8 ≠ 6 ∨ 16 ≤ (compareField cc t u).val)
    ∧ ((t == .i32 || !u) = true → (compareField cc t u).val < 16 ∨ (compareField cc t u).val % 2 = 0) := by
  cases cc <;> cases t <;> cases u <;> decide

theorem convertField_val (rm : Rnd) (sat : Bool) :
    (arithSec ⟨.i32, rm, sat, false⟩).val = 4 * rndNum rm + 2 * bnum sat ∧ (arithSec ⟨.i32, rm, sat, false⟩).val < 16
    ∧ (arithSec ⟨.i32, rm, sat, false⟩).val % 2 = 0 ∧ (arithOf (arithSec ⟨.i32, rm, sat, false⟩).val).rm = rm
    ∧ (arithOf (arithSec ⟨.i32, rm, sat, false⟩).val).sat = sat := by
  cases rm <;> cases sat <;> decide

def formatField (f : VFmt) (u : Bool) : Reg := Fin.ofNat 32 (vfmtNum f + 16 * bnum u)
theorem formatField_val (f : VFmt) (u : Bool) : (formatField f u).val = vfmtNum f + 16 * bnum u := by
  cases f <;> cases u <;> rfl
theorem formatField_ok (f : VFmt) (u : Bool) (h : (f.isInt || !u) = true) : vfmtOf ((formatField f u).val % 16) = f
    ∧ ((formatField f u).val / 16 == 1) = u ∧ (formatField f u).val % 16 < 7 ∧ (formatField f u).val % 16 ≠ 3
    ∧ ((formatField f u).val < 16 ∨ (formatField f u).val % 16 < 3) := by
  revert h
  cases f <;> cases u <;> decide

def blockField (t : VType) (m : Nat) : Fin 64 := Fin.ofNat 64 (16 * vtypeNum t + 2 * (m - 2))
theorem blockField_ok (t : VType) {m : Nat} (h2 : 2 ≤ m) (h8 : m ≤ 8) : (blockField t m).val = 16 * vtypeNum t + 2 * (m - 2)
    ∧ vtypeOf ((blockField t m).val / 16) = t ∧ (blockField t m).val / 2 % 8 + 2 = m ∧ (blockField t m).val % 2 = 0
    ∧ (blockField t m).val / 2 % 8 ≠ 7 := by
  interval_cases m <;> cases t <;> decide

def loadField (sp : Space) (w : Width) (u : Bool) : Fin 64 := Fin.ofNat 64 (spaceNum sp + 4 * widthNum w + 16 * bnum u)
theorem loadField_val (sp : Space) (w : Width) (u : Bool) : (loadField sp w u).val = spaceNum sp + 4 * widthNum w + 16 * bnum
    u := by
  cases sp <;> cases w <;> cases u <;> rfl
theorem loadField_ok (sp : Space) (w : Width) (u : Bool) (h : (w == .b || w == .h || (w == .w && !u)) = true) :
    spaceOf ((loadField sp w u).val % 4) = sp ∧ widthOf ((loadField sp w u).val / 4 % 4) = w
    ∧ decide (16 ≤ (loadField sp w u).val) = u ∧ (loadField sp w u).val < 32 ∧ (loadField sp w u).val / 4 % 4 ≠ 3
    ∧ (loadField sp w u).val % 4 ≠ 3 ∧ ((loadField sp w u).val < 16 ∨ (loadField sp w u).val / 4 % 4 ≠ 2) := by
  revert h
  cases sp <;> cases w <;> cases u <;> decide
theorem accessSec_narrow (sp : Space) {w : Width} (h : (w != .d) = true) : (accessSec sp w).val / 4 ≠ 3 := by
  revert h
  cases sp <;> cases w <;> decide

theorem predicate_predVec : ∀ p d : PReg, (predVec p (d.castLE four_le_eight)).val / 4 % 2 = 0
    ∧ preg ((predVec p (d.castLE four_le_eight)).val % 4) = d := by
  decide

def approxField (t : VType) (sat : Bool) : Fin 64 := Fin.ofNat 64 (16 * vtypeNum t + 2 * bnum sat)
theorem approxField_ok (t : VType) (sat : Bool) (h : (t != .i32) = true) :
    (approxField t sat).val = 16 * vtypeNum t + 2 * bnum sat ∧ 16 ≤ (approxField t sat).val ∧ (approxField t sat).val / 4 % 4 = 0
    ∧ (approxField t sat).val % 2 = 0 ∧ vtypeOf ((approxField t sat).val / 16) = t ∧ (arithOf (approxField t sat).val).sat =
      sat := by
  revert h
  cases t <;> cases sat <;> decide

theorem lane_okX : ∀ n : Fin 32, (⟨1, n.val⟩ : Imm).okX 1 1 = true := by
  decide

/-- R195: `vext` and `vins` hold a lane number. -/
theorem gives_lane {i : Instr} {n : Fin 32} {op : Nat} {a b : Reg} (hop : op < 0x3C)
    (hi : ∀ xis, xis.length = 1 → (fields (some (4, 0)) none none xis op a b).immX = ⟨1, n.val⟩ →
      page4 (fields (some (4, 0)) none none xis op a b) = .ok i) :
    Gives ((dparts 4 0 op a.val b.val).withImmX ⟨1, n.val⟩) i := by
  obtain ⟨xis, hxis, hlen, -, -, hparts, himm⟩ := exists_immX (lane_okX n)
  rw [hparts]
  exact gives_page (g := 4) (e := 0) (xs := none) (xr := none) (op := op) (a := a) (b := b)
    (instrOf_page4.trans (hi xis hlen (himm ..))) hop hxis (by simp [hlen])

/-- A vector form with a second source. -/
theorem gives_vector {i : Instr} (e : Fin 64) (op : Nat) (p : PReg) (d b : VReg) (x : VSrc) (k : VReg) (hop : op < 0x3C)
    (hi : page4 (fields (some (4, e)) none (sourceWord k x) [] op (predVec p d) (b.castLE eight_le)) = .ok i) :
    Gives ((vparts op e.val p d.val b.val).withV k.val x) i := by
  have := gives_page (g := 4) (instrOf_page4.trans hi) hop nofun (by cases x <;> simp [sourceWord])
  rwa [← withV_fields] at this

/-- A vector form without prefixes but XP and, for a load or store, XI words. -/
theorem gives_vparts {i : Instr} (e : Fin 64) (op : Nat) (p : PReg) (d b : VReg) (hop : op < 0x3C)
    (hi : page4 (fields (some (4, e)) none none [] op (predVec p d) (b.castLE eight_le)) = .ok i) :
    Gives (vparts op e.val p d.val b.val) i :=
  gives_page (g := 4) (instrOf_page4.trans hi) hop nofun (by decide)

theorem instrOf_complete {i : Instr} (hwf : i.wf = true) {p : Parts} (hp : partsOf i = some p) : Gives p i := by
  cases i
  case nop =>
    obtain rfl := Option.some.inj hp
    exact gives_page0 (xr := none) (xis := []) (op := 0) (a := 0) (b := 0) rfl (by decide) nofun (by decide)
  case jr a =>
    obtain rfl := Option.some.inj hp
    exact gives_page0 (xr := none) (xis := []) (b := 0) (by simp [page0]) (by decide) nofun (by decide)
  case trap m =>
    obtain rfl := Option.some.inj hp
    exact gives_class_I (c := none) hwf 0 1 (by decide) (fun xis b hlen himm => form_no_iff.2 (by simp [← himm, hlen]))
  case brk m =>
    obtain rfl := Option.some.inj hp
    exact gives_class_I (c := none) hwf 0 2 (by decide) (fun xis b hlen himm => form_no_iff.2 (by simp [← himm, hlen]))
  case bz a m | bnz a m =>
    obtain rfl := Option.some.inj hp
    exact gives_class_I (c := none) hwf _ _ (by decide) (fun xis b hlen himm => form_no_iff.2 (by simp [← himm, hlen]))
  case li a m =>
    obtain rfl := Option.some.inj hp
    obtain ⟨ha, hm⟩ := Bool.and_eq_true_iff.1 hwf
    exact gives_class_I (c := none) hm _ _ (by decide)
      (fun xis b hlen himm => form_no_iff.2 (by simp [dstOk_iff.1 ha, ← himm, hlen]))
  case j m | jl m =>
    obtain rfl := Option.some.inj hp
    obtain ⟨a, b, xis, hxis, hlen, hle, hparts, himm⟩ := exists_immJ hwf
    rw [hparts]
    exact gives_page0 (xr := none) (a := a) (b := b) (form_no_iff.2 (by simp [himm, hlen, hle])) (by decide) hxis (by simp; omega)
  case mov a b | clz a b | ctz a b | popc a b | jlr a b =>
    obtain rfl := Option.some.inj hp
    exact gives_page0 (xr := none) (xis := []) (form_no_iff.2 (by simp [dstOk_iff.1 hwf])) (by decide) nofun (by decide)
  case sel a b c m =>
    obtain rfl := Option.some.inj hp
    exact gives_page0 (xr := some (c, m)) (xis := []) (op := 3) (form_req_iff.2 (by simp [dstOk_iff.1 hwf])) (by decide) nofun
      (by simp)
  case add a b c | sub a b c | mul a b c | mulh a b c | mulhu a b c | div a b c | divu a b c | rem a b c | remu a b c | and a b
      c | or a b c
      | xor a b c | sll a b c | srl a b c | sra a b c | rol a b c | ror a b c | slt a b c | sltu a b c | seq a b c | sne a b c
      | bext a b c | bdep a b c =>
    obtain rfl := Option.some.inj hp
    rw [rparts_eq]
    exact gives_page0 (form_opt_iff.2 (by simp [dstOk_iff.1 hwf])) (by decide) nofun (third_length c)
  case addImm a c m | andImm a c m | orImm a c m | xorImm a c m | sltImm a c m =>
    obtain rfl := Option.some.inj hp
    obtain ⟨ha, hm⟩ := Bool.and_eq_true_iff.1 hwf
    exact gives_class_I hm _ _ (by decide) (fun xis b hlen himm => form_opt_iff.2 (by simp [dstOk_iff.1 ha, himm, hlen]))
  case sllImm a c m | srlImm a c m | sraImm a c m | rorImm a c m =>
    obtain rfl := Option.some.inj hp
    obtain ⟨ha, hm⟩ := Bool.and_eq_true_iff.1 hwf
    obtain ⟨hm, h0, h63⟩ := okSh_iff.1 hm
    exact gives_class_I hm _ _ (by decide)
      (fun xis b hlen himm => form_opt_iff.2 (by simp [dstOk_iff.1 ha, himm, hlen, h0, h63]))
  case beq a c m | bne a c m | blt a c m | bge a c m | bltu a c m | bgeu a c m =>
    obtain rfl := Option.some.inj hp
    exact gives_class_I hwf _ _ (by decide) (fun xis b hlen himm => form_opt_iff.2 (by simp [himm, hlen]))
  case sext w a c =>
    obtain rfl := Option.some.inj hp
    obtain ⟨hw, ha⟩ := Bool.and_eq_true_iff.1 hwf
    obtain ⟨⟨h4, h3, hw, hlt⟩, -⟩ := extField_ok w hw
    have := gives_page0 (xr := third c) (xis := []) (op := 0x3A) (a := a) (b := extField w 0) (i := .sext w a c)
      (form_opt_iff.2 (by simp [dstOk_iff.1 ha, h4, h3, hw, hlt])) (by decide) nofun (third_length c)
    cases c <;> cases w <;> exact this
  case zext w a c =>
    obtain rfl := Option.some.inj hp
    obtain ⟨hw, ha⟩ := Bool.and_eq_true_iff.1 hwf
    obtain ⟨-, h4, h3, hw, hge⟩ := extField_ok w hw
    have := gives_page0 (xr := third c) (xis := []) (op := 0x3A) (a := a) (b := extField w 16) (i := .zext w a c)
      (form_opt_iff.2 (by simp [dstOk_iff.1 ha, h4, h3, hw, not_lt.1 hge])) (by decide) nofun (third_length c)
    cases c <;> cases w <;> exact this
  case ldgD a b m | ldgW a b m | ldgH a b m | ldgB a b m =>
    obtain rfl := Option.some.inj hp
    obtain ⟨ha, hm⟩ := Bool.and_eq_true_iff.1 hwf
    exact gives_space_G hm _ _ _ (by decide) (fun xis hlen himm => form_no_iff.2 (by simp [himm, hlen, dstOk_iff.1 ha]))
  case stgD a b m | stgW a b m | stgH a b m | stgB a b m =>
    obtain rfl := Option.some.inj hp
    exact gives_space_G hwf _ _ _ (by decide) (fun xis hlen himm => form_no_iff.2 (by simp [himm, hlen]))
  case ldfe a b m | ldff a b m | lrq a b m =>
    obtain rfl := Option.some.inj hp
    obtain ⟨ha, hm⟩ := Bool.and_eq_true_iff.1 hwf
    exact gives_class_M (g := 1) hm (by decide) _ _ _ 0 (by decide)
      (fun xis hlen _ himm => instrOf_page1.trans (form_no_iff.2 (by simp [dstOk_iff.1 ha, himm, hlen])))
  case stfe a b m | stff a b m | scq a b m =>
    obtain rfl := Option.some.inj hp
    exact gives_class_M (g := 1) hwf (by decide) _ _ _ 0 (by decide)
      (fun xis hlen _ himm => instrOf_page1.trans (form_no_iff.2 (by simp [himm, hlen])))
  case ldx a b m =>
    obtain rfl := Option.some.inj hp
    obtain ⟨ha, hm⟩ := Bool.and_eq_true_iff.1 hwf
    exact gives_class_M (g := 1) hm (by decide) _ _ _ 0 (by decide)
      (fun xis hlen _ himm => instrOf_page1.trans (form_no_iff.2 (by simp [within_iff.1 ha, himm, hlen])))
  case fes full b m =>
    obtain rfl := Option.some.inj hp
    cases full
    · exact gives_class_M (g := 1) hwf (by decide) _ 0 _ 0 (by decide)
        (fun xis hlen _ himm => instrOf_page1.trans (form_no_iff.2 (by simp [himm, hlen])))
    · exact gives_class_M (g := 1) hwf (by decide) _ 1 _ 0 (by decide)
        (fun xis hlen _ himm => instrOf_page1.trans (form_no_iff.2 (by simp [himm, hlen])))
  case ldext w a b m =>
    obtain rfl := Option.some.inj hp
    obtain ⟨ha, hm⟩ := Bool.and_eq_true_iff.1 hwf
    obtain ⟨hw, hlt⟩ := widthOf_widthSec w
    have := gives_class_M (g := 1) (i := .ldext w a b m) hm (by decide) 0x0D a b (widthSec w) (by decide)
      (fun xis hlen _ himm => instrOf_page1.trans (form_no_iff.2 (by simp [dstOk_iff.1 ha, himm, hlen, hw, hlt])))
    cases w <;> exact this
  case stext w a b m =>
    obtain rfl := Option.some.inj hp
    obtain ⟨hw, hlt⟩ := widthOf_widthSec w
    have := gives_class_M (g := 1) (i := .stext w a b m) hwf (by decide) 0x0E a b (widthSec w) (by decide)
      (fun xis hlen _ himm => instrOf_page1.trans (form_no_iff.2 (by simp [himm, hlen, hw, hlt])))
    cases w <;> exact this
  case amo o a b c m xs uns =>
    obtain rfl := Option.some.inj hp
    have hwf : (dstOk a && (o == .cas || m == 0) && (!uns || (xs.isSome && (o == .min || o == .max)))) = true := hwf
    simp only [Bool.and_eq_true, Bool.or_eq_true] at hwf
    obtain ⟨⟨ha, hm⟩, huns⟩ := hwf
    obtain ⟨ho, hlt⟩ := amoOf_amoSec o
    have hqual : (fields (some (1, amoSec o)) (scopeWord xs (Fin.ofNat 128 (bnum uns))) (some (c, m)) [] 8 a b).qual = bnum
      uns := by
      cases uns
      · exact qual_scopeWord_zero xs
      · obtain ⟨s, rfl⟩ := Option.isSome_iff_exists.1 (huns.resolve_left nofun).1
        exact qual_scopeWord_some s 1
    have := gives_page (g := 1) (e := amoSec o) (xs := scopeWord xs (Fin.ofNat 128 (bnum uns))) (xr := some (c, m)) (xis := [])
      (op := 8)
      (a := a) (b := b) (i := .amo o a b c m xs uns)
      (instrOf_page1.trans (form_scoped_iff.2 ⟨scope_scopeWord xs _, form_req_iff.2 (by
        simp only [hqual, fields_sec, fields_m, fields_a, fields_c, reg_val, ho, xsOpt_scopeWord]
        simp [hlt, dstOk_iff.1 ha]
        cases uns <;> simp_all [bnum])⟩)) (by decide) nofun (scopeWord_room _ _ _)
    rw [← withXs_fields] at this
    cases o <;> cases uns <;> exact this
  case amofAdd a b c xs =>
    obtain rfl := Option.some.inj hp
    have := gives_page (g := 1) (e := 0) (xs := scopeWord xs 0) (xr := some (c, 0)) (xis := []) (op := 9) (a := a) (b := b)
      (i := .amofAdd a b c xs)
      (instrOf_page1.trans (form_scoped_iff.2 ⟨scope_scopeWord xs 0, form_req_iff.2 (by simp [dstOk_iff.1 hwf])⟩))
        (by decide) nofun
      (scopeWord_room _ _ _)
    rwa [← withXs_fields] at this
  case amoxAdd a b xs =>
    obtain rfl := Option.some.inj hp
    have := gives_page (g := 1) (e := 0) (xs := scopeWord xs 0) (xr := none) (xis := []) (op := 10) (a := a) (b := b)
      (i := .amoxAdd a b xs)
      (instrOf_page1.trans (form_scoped_iff.2 ⟨scope_scopeWord xs 0, form_no_iff.2 (by simp)⟩)) (by decide) nofun
      (scopeWord_room _ _ _)
    rwa [← withXs_fields] at this
  case amoxAddI a b s =>
    obtain rfl := Option.some.inj hp
    have := gives_page (g := 1) (e := 0) (xs := scopeWord (some s) 1) (xr := none) (xis := []) (op := 10) (a := a) (b := b)
      (i := .amoxAddI a b s)
      (instrOf_page1.trans (form_scoped_iff.2
        ⟨scope_scopeWord _ 1, form_no_iff.2 (by simp [scope_scopeWord_some, scopeOf_scopeNum])⟩))
      (by decide) nofun (scopeWord_room _ _ _)
    rwa [← withXs_fields] at this
  case rupd a b m xs =>
    obtain rfl := Option.some.inj hp
    have hwf : (within a 1 24 && m.okX 1 3 && (xs.isNone || decide (m.n ≤ 2))) = true := hwf
    simp only [Bool.and_eq_true, Bool.or_eq_true, decide_eq_true_eq] at hwf
    obtain ⟨⟨ha, hm⟩, hn⟩ := hwf
    obtain ⟨xis, hxis, hlen, hle, hge, hparts, himm⟩ := exists_immX hm
    rw [show (1 : Nat) = (1 : Fin 16).val from rfl, show (0 : Nat) = (0 : Fin 64).val from rfl, mparts_pg_eq hparts]
    rw [show ((0 : Fin 64).val : Nat) = (0 : Fin 128).val from rfl, withXs_fields]
    refine gives_page (instrOf_page1.trans (form_scoped_iff.2 ⟨scope_scopeWord _ 0, form_no_iff.2 ?_⟩)) (by decide) hxis ?_
    · simp [himm, hlen, hle, hge, within_iff.1 ha]
    · cases xs <;> simp [scopeWord] at hn ⊢ <;> omega
  case chld a b c n =>
    obtain rfl := Option.some.inj hp
    have hwf : (within a 1 26 && decide (1 ≤ n) && decide (n ≤ 6) && decide (c.val + n ≤ 28)) = true := hwf
    simp only [Bool.and_eq_true, decide_eq_true_eq] at hwf
    obtain ⟨⟨⟨ha, h1⟩, h6⟩, h28⟩ := hwf
    obtain ⟨m, rfl⟩ : ∃ m : Reg, m.val = n := ⟨⟨n, by omega⟩, rfl⟩
    exact gives_chain 0 (by decide) ha h1 h6 h28
  case chldFail a b c n =>
    obtain rfl := Option.some.inj hp
    have hwf : (within a 1 26 && decide (1 ≤ n) && decide (n ≤ 6) && decide (c.val + n ≤ 28)) = true := hwf
    simp only [Bool.and_eq_true, decide_eq_true_eq] at hwf
    obtain ⟨⟨⟨ha, h1⟩, h6⟩, h28⟩ := hwf
    obtain ⟨m, rfl⟩ : ∃ m : Reg, m.val = n := ⟨⟨n, by omega⟩, rfl⟩
    exact gives_chain 1 (by decide) ha h1 h6 h28
  case ld sp w a b m =>
    obtain rfl := Option.some.inj hp
    obtain ⟨ha, hm⟩ := Bool.and_eq_true_iff.1 hwf
    obtain ⟨hsp, hw, h3, hlt⟩ := accessSec_ok sp w
    have := gives_class_M (g := 2) (i := .ld sp w a b m) hm (by decide) 0 a b (accessSec sp w) (by decide)
      (fun xis hlen _ himm => instrOf_page2.trans (form_no_iff.2 (by simp [dstOk_iff.1 ha, himm, hlen, hsp, hw, h3, hlt])))
    cases sp <;> cases w <;> exact this
  case st sp w a b m =>
    obtain rfl := Option.some.inj hp
    obtain ⟨hsp, hw, h3, hlt⟩ := accessSec_ok sp w
    have := gives_class_M (g := 2) (i := .st sp w a b m) hwf (by decide) 1 a b (accessSec sp w) (by decide)
      (fun xis hlen _ himm => instrOf_page2.trans (form_no_iff.2 (by simp [himm, hlen, hsp, hw, h3, hlt])))
    cases sp <;> cases w <;> exact this
  case ldm w a b m =>
    obtain rfl := Option.some.inj hp
    obtain ⟨ha, hm⟩ := Bool.and_eq_true_iff.1 hwf
    obtain ⟨hsp, hw, -, hlt⟩ := accessSec_ok .w w
    have := gives_class_M (g := 2) (i := .ldm w a b m) hm (by decide) 2 a b (accessSec .w w) (by decide)
      (fun xis hlen _ himm => instrOf_page2.trans (form_no_iff.2 (by
        simp [dstOk_iff.1 ha, himm, hlen, hw, accessSec_w w, hlt])))
    cases w <;> exact this
  case stm w a b m =>
    obtain rfl := Option.some.inj hp
    obtain ⟨hsp, hw, -, hlt⟩ := accessSec_ok .w w
    have := gives_class_M (g := 2) (i := .stm w a b m) hwf (by decide) 3 a b (accessSec .w w) (by decide)
      (fun xis hlen _ himm => instrOf_page2.trans (form_no_iff.2 (by simp [himm, hlen, hw, accessSec_w w, hlt])))
    cases w <;> exact this
  case lbf =>
    obtain rfl := Option.some.inj hp
    exact gives_dparts (g := 2) 0 _ 0 0 (by decide) rfl
  case rcfg n b =>
    obtain rfl := Option.some.inj hp
    exact gives_dparts (g := 2) 0 _ (n.castLE four_le) _ (by decide)
      (instrOf_page2.trans (form_no_iff.2 (by simp [-Fin.ofNat_eq_cast])))
  case rpop a n | rpush a n =>
    obtain rfl := Option.some.inj hp
    exact gives_dparts (g := 2) 0 _ _ (n.castLE four_le) (by decide)
      (instrOf_page2.trans (form_no_iff.2 (by simp [-Fin.ofNat_eq_cast, dstOk_iff.1 hwf, show n.val < 8 by omega])))
  case rpopF n | rpushC n =>
    obtain rfl := Option.some.inj hp
    exact gives_dparts (g := 2) 0 _ 0 ((Fin.natAdd 4 n).castLE eight_le) (by decide)
      (instrOf_page2.trans (form_no_iff.2
        (by simp [-Fin.ofNat_eq_cast, show n.val + 4 < 8 by omega, show Fin.ofNat 4 (n.val + 4) = n from Fin.ext (by simp)])))
  case qcfg a b =>
    obtain rfl := Option.some.inj hp
    exact gives_dparts (g := 2) 0 _ _ _ (by decide) (instrOf_page2.trans (form_no_iff.2 (by simp [dstOk_iff.1 hwf])))
  case qend a =>
    obtain rfl := Option.some.inj hp
    exact gives_dparts (g := 2) 0 _ _ 0 (by decide) (instrOf_page2.trans (form_no_iff.2 (by simp)))
  case qendRet =>
    obtain rfl := Option.some.inj hp
    exact gives_dparts (g := 2) 0 _ 0 1 (by decide) rfl
  case evct a b c | rcll a b c =>
    obtain rfl := Option.some.inj hp
    exact gives_dparts_withXr (g := 2) 0 _ _ _ _ 0 (by decide) (instrOf_page2.trans (form_req_iff.2 (by simp [dstOk_iff.1 hwf])))
  case start a b m =>
    obtain rfl := Option.some.inj hp
    obtain ⟨hab, hm⟩ := Bool.and_eq_true_iff.1 hwf
    obtain ⟨ha, hb⟩ := Bool.and_eq_true_iff.1 hab
    exact gives_class_M (g := 3) hm (by decide) _ _ _ 0 (by decide)
      (fun xis hhi hlo himm => instrOf_page3.trans (form_no_iff.2 (by simp [dstOk_iff.1 ha, within_iff.1 hb, himm, hhi, hlo])))
  case spawn a b m =>
    obtain rfl := Option.some.inj hp
    obtain ⟨hab, hm⟩ := Bool.and_eq_true_iff.1 hwf
    obtain ⟨ha, hb⟩ := Bool.and_eq_true_iff.1 hab
    exact gives_class_M (g := 3) hm (by decide) _ _ _ 0 (by decide)
      (fun xis hhi hlo himm => instrOf_page3.trans (form_no_iff.2 (by simp [dstOk_iff.1 ha, within_iff.1 hb, himm, hhi, hlo])))
  case spawnReg a b c m =>
    obtain rfl := Option.some.inj hp
    obtain ⟨hab, hm⟩ := Bool.and_eq_true_iff.1 hwf
    obtain ⟨ha, hb⟩ := Bool.and_eq_true_iff.1 hab
    obtain ⟨xis, hxis, hlen, hle, hge, hparts, himm⟩ := exists_immX hm
    rw [mparts, hparts]
    refine gives_page (g := 3) (e := 0) (xs := none) (xr := some (c, 0)) (xis := xis) (op := 1) (a := a) (b := b)
      (instrOf_page3.trans (form_req_iff.2 ?_)) (by decide) hxis (by simp; omega)
    simp [dstOk_iff.1 ha, within_iff.1 hb, himm, hlen, hle, hge]
  case quit | yield =>
    obtain rfl := Option.some.inj hp
    exact gives_dparts (g := 3) 0 _ 0 0 (by decide) rfl
  case park a b | migr a b | rolq a b =>
    obtain rfl := Option.some.inj hp
    exact gives_dparts (g := 3) 0 _ _ _ (by decide) (instrOf_page3.trans (form_no_iff.2 (by simp [dstOk_iff.1 hwf])))
  case sendm a b c =>
    obtain rfl := Option.some.inj hp
    obtain ⟨ha, hb⟩ := Bool.and_eq_true_iff.1 hwf
    exact gives_dparts_withXr (g := 3) 0 _ _ _ _ 0 (by decide)
      (instrOf_page3.trans (form_req_iff.2 (by simp [dstOk_iff.1 ha, within_iff.1 hb])))
  case wfm a =>
    obtain rfl := Option.some.inj hp
    exact gives_dparts (g := 3) 0 _ _ 0 (by decide) (instrOf_page3.trans (form_no_iff.2 (by simp [within_iff.1 hwf])))
  case gsig a b =>
    obtain rfl := Option.some.inj hp
    exact gives_dparts (g := 3) 0 _ _ _ (by decide) (instrOf_page3.trans (form_no_iff.2 (by simp)))
  case gsigRun a =>
    obtain rfl := Option.some.inj hp
    exact gives_dparts_withXr (g := 3) 0 _ _ 0 0 1 (by decide) (instrOf_page3.trans (form_req_iff.2 (by simp)))
  case rolqImm a m =>
    obtain rfl := Option.some.inj hp
    have hwf : (dstOk a && m.okX 2 2 && decide (0 ≤ m.v) && decide (m.v ≤ 0xFFFF)) = true := hwf
    simp only [Bool.and_eq_true, decide_eq_true_eq] at hwf
    obtain ⟨⟨⟨ha, hm⟩, h0⟩, hmax⟩ := hwf
    exact gives_class_M (g := 3) hm (by decide) 9 a 0 0 (by decide) (fun xis hhi hlo himm =>
      instrOf_page3.trans ((if_neg (ne_nil_of_two_le hlo) : page3 (fields (some (3, 0)) none none xis 9 a 0) = _).trans
        (form_no_iff.2 (by simp [dstOk_iff.1 ha, himm, hhi, hlo, h0, hmax]))))
  case mxfmt a b | mxz a b | mxcnt a b | mxthr a b | jwait a b | jtest a b | jcanc a b =>
    obtain rfl := Option.some.inj hp
    exact gives_dparts (g := 5) 0 _ _ _ (by decide) (instrOf_page5.trans (form_no_iff.2 (by simp [dstOk_iff.1 hwf])))
  case mxm a b | mxg a b | mxdrn a b | cpy a b | cpyo a b | mint a b =>
    obtain rfl := Option.some.inj hp
    obtain ⟨ha, hb⟩ := Bool.and_eq_true_iff.1 hwf
    exact gives_dparts (g := 5) 0 _ _ _ (by decide)
      (instrOf_page5.trans (form_no_iff.2 (by simp [dstOk_iff.1 ha, within_iff.1 hb])))
  case mxms a b c =>
    obtain rfl := Option.some.inj hp
    obtain ⟨ha, hb⟩ := Bool.and_eq_true_iff.1 hwf
    exact gives_dparts_withXr (g := 5) 0 _ _ _ (c.castLE eight_le) 0 (by decide)
      (instrOf_page5.trans (form_req_iff.2 (by simp [dstOk_iff.1 ha, within_iff.1 hb])))
  case mintT a b =>
    obtain rfl := Option.some.inj hp
    exact gives_dparts_withXr (g := 5) 0 _ _ _ 0 1 (by decide) (instrOf_page5.trans (form_req_iff.2 (by simp [dstOk_iff.1 hwf])))
  case sopen x b =>
    obtain rfl := Option.some.inj hp
    exact gives_dparts (g := 6) 0 _ (x.castLE four_le) _ (by decide)
      (instrOf_page6.trans (form_no_iff.2 (by simp [-Fin.ofNat_eq_cast, within_iff.1 hwf])))
  case sisect x y | sunion x y | sdiff x y =>
    obtain rfl := Option.some.inj hp
    exact gives_dparts (g := 6) 0 _ (x.castLE four_le) (y.castLE four_le) (by decide)
      (instrOf_page6.trans (form_no_iff.2 (by simp [-Fin.ofNat_eq_cast, Fin.val_ne_iff.2 (bne_iff_ne.1 hwf)])))
  case smerge x mask =>
    obtain rfl := Option.some.inj hp
    obtain ⟨ha, hb⟩ := Bool.and_eq_true_iff.1 hwf
    exact gives_dparts (g := 6) 0 _ (x.castLE four_le) (mask.castLE sixteen_le) (by decide)
      (instrOf_page6.trans (form_no_iff.2 (by simp [-Fin.ofNat_eq_cast, bne_iff_ne.1 ha, beq_iff_eq.1 hb])))
  case snext a x =>
    obtain rfl := Option.some.inj hp
    exact gives_dparts (g := 6) 0 _ _ (x.castLE four_le) (by decide)
      (instrOf_page6.trans (form_no_iff.2 (by simp [-Fin.ofNat_eq_cast, within_iff.1 hwf])))
  case sclose a x =>
    obtain rfl := Option.some.inj hp
    exact gives_dparts (g := 6) 0 _ _ (x.castLE four_le) (by decide)
      (instrOf_page6.trans (form_no_iff.2 (by simp [-Fin.ofNat_eq_cast, dstOk_iff.1 hwf])))
  case scnt a x =>
    obtain rfl := Option.some.inj hp
    exact gives_dparts (g := 6) 0 _ _ (x.castLE four_le) (by decide)
      (instrOf_page6.trans (form_opt_iff.2 (by simp [-Fin.ofNat_eq_cast, dstOk_iff.1 hwf])))
  case scntA a x c =>
    obtain rfl := Option.some.inj hp
    exact gives_dparts_withXr (g := 6) 0 _ _ (x.castLE four_le) _ 0 (by decide)
      (instrOf_page6.trans (form_opt_iff.2 (by simp [-Fin.ofNat_eq_cast, dstOk_iff.1 hwf])))
  case ldnn a b =>
    obtain rfl := Option.some.inj hp
    obtain ⟨ha, hb⟩ := Bool.and_eq_true_iff.1 hwf
    exact gives_dparts (g := 7) 0 _ _ _ (by decide)
      (instrOf_page7.trans (form_no_iff.2 (by simp [dstOk_iff.1 ha, within_iff.1 hb])))
  case stv a b c | dlv a b c =>
    obtain rfl := Option.some.inj hp
    exact gives_dparts_withXr (g := 7) 0 _ _ _ _ 0 (by decide) (instrOf_page7.trans (form_req_iff.2 (by simp [dstOk_iff.1 hwf])))
  case ixver a b | ixsnap a b =>
    obtain rfl := Option.some.inj hp
    exact gives_dparts (g := 7) 0 _ _ _ (by decide) (instrOf_page7.trans (form_no_iff.2 (by simp [within_iff.1 hwf])))
  case fence xs =>
    obtain rfl := Option.some.inj hp
    have := gives_page (g := 8) (e := 0) (xs := scopeWord xs 0) (xr := none) (xis := []) (op := 0) (a := 0) (b := 0)
      (i := .fence xs)
      (instrOf_page8.trans (form_scoped_iff.2 ⟨scope_scopeWord xs 0, form_no_iff.2 (by simp)⟩)) (by decide) nofun
      (scopeWord_room _ _ _)
    rwa [← withXs_fields] at this
  case barv a b | barw a b =>
    obtain rfl := Option.some.inj hp
    exact gives_dparts (g := 8) 0 _ _ _ (by decide) (instrOf_page8.trans (form_no_iff.2 (by simp [dstOk_iff.1 hwf])))
  case barwT a b =>
    obtain rfl := Option.some.inj hp
    exact gives_dparts_withXr (g := 8) 0 _ _ _ 0 1 (by decide) (instrOf_page8.trans (form_req_iff.2 (by simp [dstOk_iff.1 hwf])))
  case bart a b c =>
    obtain rfl := Option.some.inj hp
    exact gives_dparts_withXr (g := 8) 0 _ _ _ _ 0 (by decide) (instrOf_page8.trans (form_req_iff.2 (by simp [dstOk_iff.1 hwf])))
  case sealq a | sealw a | ivn a =>
    obtain rfl := Option.some.inj hp
    exact gives_dparts (g := 8) 0 _ _ 0 (by decide) (instrOf_page8.trans (form_no_iff.2 (by simp [dstOk_iff.1 hwf])))
  case ivnRb a =>
    obtain rfl := Option.some.inj hp
    exact gives_dparts (g := 8) 0 _ _ 1 (by decide) (instrOf_page8.trans (form_no_iff.2 (by simp [dstOk_iff.1 hwf])))
  case csrr a m =>
    obtain rfl := Option.some.inj hp
    obtain ⟨ha, hm⟩ := Bool.and_eq_true_iff.1 hwf
    exact gives_csr hm 0 a (by decide) (fun xis b hlen himm hex => form_no_iff.2 (by simp [dstOk_iff.1 ha, himm, hex, hlen]))
  case csrw a m | csrs a m | csrc a m =>
    obtain rfl := Option.some.inj hp
    exact gives_csr hwf _ a (by decide) (fun xis b hlen himm hex => form_no_iff.2 (by simp [himm, hex, hlen]))
  case tret =>
    obtain rfl := Option.some.inj hp
    exact gives_dparts (g := 9) 0 _ 0 0 (by decide) rfl
  case dbgi a b c =>
    obtain rfl := Option.some.inj hp
    exact gives_dparts_withXr (g := 9) 0 _ _ _ _ 0 (by decide) (instrOf_page9.trans (form_req_iff.2 (by simp [within_iff.1 hwf])))
  case tlbw a b c =>
    obtain rfl := Option.some.inj hp
    obtain ⟨ha, hb⟩ := Bool.and_eq_true_iff.1 hwf
    exact gives_dparts_withXr (g := 9) 0 _ _ _ _ 0 (by decide)
      (instrOf_page9.trans (form_req_iff.2 (by simp [dstOk_iff.1 ha, within_iff.1 hb])))
  case tlbi a b c =>
    obtain rfl := Option.some.inj hp
    exact gives_dparts_withXr (g := 9) 0 _ _ _ _ 0 (by decide) (instrOf_page9.trans (form_req_iff.2 (by simp [dstOk_iff.1 hwf])))
  case tlbiAll a c =>
    obtain rfl := Option.some.inj hp
    exact gives_dparts_withXr (g := 9) 0 _ _ 0 _ 1 (by decide) (instrOf_page9.trans (form_req_iff.2 (by simp [dstOk_iff.1 hwf])))
  case tlbp a b =>
    obtain rfl := Option.some.inj hp
    exact gives_dparts (g := 9) 0 _ _ _ (by decide) (instrOf_page9.trans (form_no_iff.2 (by simp [dstOk_iff.1 hwf])))
  case vadd q p d b x | vsub q p d b x | vmul q p d b x =>
    obtain rfl := Option.some.inj hp
    obtain ⟨hok, hq⟩ := arithOf_arithSec q hwf
    rw [← arithSec_val]
    exact gives_vector (arithSec q) _ p d b x 0 (by decide) (form_opt_iff.2 (by simp [hok, hq]))
  case vmin q p d b x | vmax q p d b x =>
    obtain rfl := Option.some.inj hp
    obtain ⟨hqr, hsat⟩ := Bool.and_eq_true_iff.1 hwf
    obtain ⟨hq, hrm⟩ := Bool.and_eq_true_iff.1 hqr
    obtain ⟨hok, hq⟩ := arithOf_arithSec q hq
    rw [← arithSec_val]
    exact gives_vector (arithSec q) _ p d b x 0 (by decide) (form_opt_iff.2 (by simp [hok, hq, arithSec_plain hrm hsat]))
  case vabs q p d b | vneg q p d b =>
    obtain rfl := Option.some.inj hp
    obtain ⟨hqr, hu⟩ := Bool.and_eq_true_iff.1 hwf
    obtain ⟨hq, hrm⟩ := Bool.and_eq_true_iff.1 hqr
    obtain ⟨hok, hq⟩ := arithOf_arithSec q hq
    rw [← arithSec_val]
    exact gives_vparts (arithSec q) _ p d b (by decide) (form_no_iff.2 (by simp [hok, hq, arithSec_rne hrm, arithSec_signed hu]))
  case vand p d b x | vor p d b x | vxor p d b x | vshl p d b x | vshr p d b x | vsra p d b x =>
    obtain rfl := Option.some.inj hp
    exact gives_vector 0 _ p d b x 0 (by decide) (form_opt_iff.2 (by simp))
  case vsel p d b x =>
    obtain rfl := Option.some.inj hp
    exact gives_vector 0 _ p d b x 0 (by decide) (form_req_iff.2 (by simp [exists_sourceWord hwf]))
  case vnot p d b | vmov p d b =>
    obtain rfl := Option.some.inj hp
    exact gives_vparts 0 _ p d b (by decide) (form_no_iff.2 (by simp))
  case vfma q p d b x e =>
    obtain rfl := Option.some.inj hp
    obtain ⟨hq, hx⟩ := Bool.and_eq_true_iff.1 hwf
    obtain ⟨hok, hq⟩ := arithOf_arithSec q hq
    rw [← arithSec_val]
    refine gives_vector _ _ p d b x e (by decide) (form_req_iff.2 ?_)
    simp [hok, hq, exists_sourceWord hx, source_third hx]
  case vcmp cc t u p d b x =>
    obtain rfl := Option.some.inj hp
    obtain ⟨hxc, hu⟩ := Bool.and_eq_true_iff.1 hwf
    obtain ⟨hx, hcc⟩ := Bool.and_eq_true_iff.1 hxc
    obtain ⟨hc, ht, hu2, h7, h6, h1⟩ := compareField_ok cc t u
    rw [← compareField_val]
    refine gives_vector _ _ p (d.castLE four_le_eight) b x 0 (by decide) (form_req_iff.2 ?_)
    simp [exists_sourceWord hx, hc, ht, hu2, h7, h6 hcc, h1 hu, predicate_predVec p d]
  case vrsum q d p b =>
    obtain rfl := Option.some.inj hp
    obtain ⟨hqr, hd⟩ := Bool.and_eq_true_iff.1 hwf
    obtain ⟨hq, hrm⟩ := Bool.and_eq_true_iff.1 hqr
    obtain ⟨hok, hq⟩ := arithOf_arithSec q hq
    rw [← arithSec_val]
    exact gives_dparts (g := 4) _ _ d (predVec p b) (by decide)
      (instrOf_page4.trans (form_no_iff.2 (by simp [hok, hq, arithSec_rne hrm, dstOk_iff.1 hd])))
  case vrmax q d p b | vrmin q d p b =>
    obtain rfl := Option.some.inj hp
    have hwf : (q.ok && q.rm == .rne && !q.sat && dstOk d) = true := hwf
    simp only [Bool.and_eq_true] at hwf
    obtain ⟨⟨⟨hq, hrm⟩, hsat⟩, hd⟩ := hwf
    obtain ⟨hok, hq⟩ := arithOf_arithSec q hq
    rw [← arithSec_val]
    exact gives_dparts (g := 4) _ _ d (predVec p b) (by decide)
      (instrOf_page4.trans (form_no_iff.2 (by simp [hok, hq, arithSec_rne hrm, dstOk_iff.1 hd, by simpa using hsat])))
  case vperm p d b c =>
    obtain rfl := Option.some.inj hp
    exact gives_vector 0 _ p d b (.vec c) 0 (by decide) (form_req_iff.2 (by simp [sourceWord]))
  case vbcst p d b =>
    obtain rfl := Option.some.inj hp
    exact gives_dparts (g := 4) 0 _ (predVec p d) b (by decide) (instrOf_page4.trans (form_no_iff.2 (by simp)))
  case vcvt rm sat p d b df du sf su =>
    obtain rfl := Option.some.inj hp
    obtain ⟨hd, hs⟩ := Bool.and_eq_true_iff.1 hwf
    obtain ⟨hdf, hdu, hd7, hd3, hd16⟩ := formatField_ok df du hd
    obtain ⟨hsf, hsu, hs7, hs3, hs16⟩ := formatField_ok sf su hs
    obtain ⟨hval, h16, h2, hrm, hsat⟩ := convertField_val rm sat
    rw [← formatField_val, ← formatField_val, ← hval]
    refine gives_dparts_withXr (g := 4) _ _ (predVec p d) (b.castLE eight_le) (formatField df du) (formatField sf su) (by decide)
      (instrOf_page4.trans (form_req_iff.2 ?_))
    simp [hdf, hdu, hd7, hd3, hd16, hsf, hsu, hs7, hs3, hs16, h16, h2, hrm, hsat]
  case vquant t m d b c =>
    obtain rfl := Option.some.inj hp
    have hwf : (decide (2 ≤ m) && decide (m ≤ 8) && decide (c.val < 30)) = true := hwf
    simp only [Bool.and_eq_true, decide_eq_true_eq] at hwf
    obtain ⟨⟨h2, h8⟩, hc⟩ := hwf
    obtain ⟨hval, ht, hm, heven, h7⟩ := blockField_ok t h2 h8
    rw [← hval]
    refine gives_dparts_withXr (g := 4) _ _ (d.castLE eight_le) (b.castLE eight_le) c 0 (by decide)
      (instrOf_page4.trans (form_req_iff.2 ?_))
    simp [ht, hm, heven, h7, hc]
  case vdeq t m d b c =>
    obtain rfl := Option.some.inj hp
    have hwf : (decide (2 ≤ m) && decide (m ≤ 8) && (t == .f32 || t == .bf16)) = true := hwf
    simp only [Bool.and_eq_true, decide_eq_true_eq] at hwf
    obtain ⟨⟨h2, h8⟩, hf⟩ := hwf
    obtain ⟨hval, ht, hm, heven, h7⟩ := blockField_ok t h2 h8
    rw [← hval]
    refine gives_dparts_withXr (g := 4) _ _ (d.castLE eight_le) (b.castLE eight_le) c 0 (by decide)
      (instrOf_page4.trans (form_req_iff.2 ?_))
    simp [ht, hm, heven, h7, by simpa using hf]
  case vscale t m d b =>
    obtain rfl := Option.some.inj hp
    have hwf : (decide (2 ≤ m) && decide (m ≤ 8) && dstOk d) = true := hwf
    simp only [Bool.and_eq_true, decide_eq_true_eq] at hwf
    obtain ⟨⟨h2, h8⟩, hd⟩ := hwf
    obtain ⟨hval, ht, hm, heven, h7⟩ := blockField_ok t h2 h8
    rw [← hval]
    refine gives_dparts (g := 4) _ _ d (b.castLE eight_le) (by decide) (instrOf_page4.trans (form_no_iff.2 ?_))
    simp [ht, hm, heven, h7, dstOk_iff.1 hd]
  case vcmpr d b c =>
    obtain rfl := Option.some.inj hp
    exact gives_dparts_withXr (g := 4) 0 _ (d.castLE eight_le) (b.castLE eight_le) c 0 (by decide)
      (instrOf_page4.trans (form_req_iff.2 (by simp [dstOk_iff.1 hwf])))
  case vexpd d b c =>
    obtain rfl := Option.some.inj hp
    exact gives_dparts_withXr (g := 4) 0 _ (d.castLE eight_le) (b.castLE eight_le) c 0 (by decide)
      (instrOf_page4.trans (form_req_iff.2 (by simp)))
  case pset d b =>
    obtain rfl := Option.some.inj hp
    exact gives_dparts (g := 4) 0 _ (d.castLE four_le) b (by decide) (instrOf_page4.trans (form_no_iff.2 (by simp)))
  case pget d b =>
    obtain rfl := Option.some.inj hp
    exact gives_dparts (g := 4) 0 _ d (b.castLE four_le) (by decide)
      (instrOf_page4.trans (form_no_iff.2 (by simp [dstOk_iff.1 hwf])))
  case vld sp w u p d b m =>
    obtain rfl := Option.some.inj hp
    obtain ⟨hw, hm⟩ := Bool.and_eq_true_iff.1 hwf
    obtain ⟨hsp, hwid, hu, h32, hw3, hs3, h16⟩ := loadField_ok sp w u hw
    rw [← loadField_val]
    refine gives_class_M (g := 4) hm (by decide) 0x24 (predVec p d) b _ (by decide)
      (fun xis hlen _ himm => instrOf_page4.trans (form_no_iff.2 ?_))
    simp [himm, hlen, hsp, hwid, hu, h32, hw3, hs3, h16]
  case vst sp w p d b m =>
    obtain rfl := Option.some.inj hp
    obtain ⟨hw, hm⟩ := Bool.and_eq_true_iff.1 hwf
    obtain ⟨hsp, hwid, h3, hlt⟩ := accessSec_ok sp w
    have := gives_class_M (g := 4) (i := .vst sp w p d b m) hm (by decide) 0x25 (predVec p d) b (accessSec sp w) (by decide)
      (fun xis hlen _ himm => instrOf_page4.trans
        (form_no_iff.2 (by simp [himm, hlen, hsp, hwid, h3, hlt, accessSec_narrow sp hw])))
    cases sp <;> cases w <;> exact this
  case vexp2 t sat p d b | vlog2 t sat p d b | vrcp t sat p d b | vrsqrt t sat p d b | vtanh t sat p d b =>
    obtain rfl := Option.some.inj hp
    obtain ⟨hval, h16, h4, h2, ht, hsat⟩ := approxField_ok t sat hwf
    rw [approxParts, ← hval]
    exact gives_vparts _ _ p d b (by decide) (form_no_iff.2 (by simp [h16, h4, h2, ht, hsat]))
  case vext d b n =>
    obtain rfl := Option.some.inj hp
    refine gives_lane (b := b.castLE eight_le) (by decide) (fun xis hlen himm => form_no_iff.2 ?_)
    simp [-Fin.ofNat_eq_cast, himm, hlen, dstOk_iff.1 hwf, Nat.le_of_lt_succ n.isLt]
  case vins d b n =>
    obtain rfl := Option.some.inj hp
    refine gives_lane (a := d.castLE eight_le) (by decide) (fun xis hlen himm => form_no_iff.2 ?_)
    simp [-Fin.ofNat_eq_cast, himm, hlen, Nat.le_of_lt_succ n.isLt]
  all_goals exact absurd hp nofun

/-- Settles O55. The encoding of a well-formed instruction fits, and every page gives the instruction back from its fields. -/
theorem decodeEncode : Obligations.DecodeEncode := by
  intro i rest hwf hne
  cases hp : partsOf i with
  | none => exact absurd (by rw [encode, hp]) hne
  | some p =>
    obtain ⟨hfits, hi⟩ := instrOf_complete hwf hp
    have hlen := words_length p
    rw [encode, ilen, hp]
    exact decode_eq_ok_iff.2 ⟨p, hfits, by simp [hlen], by simp [← hlen], hi, rfl⟩

end Sys2Proof.Proofs.Decoding
end

section
/-!
PROOFS. The integer instructions, branches and jumps of page 0: what the value functions of R103 to R105 compute bit by bit, how
  the
shared forms complete (R101, R103, R105, R106), what an issue comes to when a queue is not ready (R15, R48, R170), and what the
issue leaves as it was (R96, R100, R300).
-/
namespace Sys2Proof.Proofs.PageZero
open Sys2Proof Sys2Proof.Machine

open Sys2Proof.Proofs.FetchingAndIssuing (classR_completes)

/-! ## The values of the tables of R103 to R105 -/

theorem shAmt_eq (y : Word) : shAmt y = (y.setWidth 6).toNat :=
  (BitVec.toNat_setWidth 6 y).symm

theorem opRol_eq (x y : Word) : opRol x y = x.rotateLeft (y.setWidth 6).toNat := by
  rw [← shAmt_eq, opRol, BitVec.rotateLeft_def, Nat.mod_eq_of_lt (show shAmt y < 64 from Nat.mod_lt _ (by decide))]

theorem opRor_eq (x y : Word) : opRor x y = x.rotateRight (y.setWidth 6).toNat := by
  rw [← shAmt_eq, opRor, BitVec.rotateRight_def, Nat.mod_eq_of_lt (show shAmt y < 64 from Nat.mod_lt _ (by decide))]

/-- R104: of the `k` low bits those above the counted ones are zero, and the next is set. -/
theorem clzN_spec (x : Word) (k : Nat) : clzN x k ≤ k ∧ (∀ j, k - clzN x k ≤ j → j < k → x.getLsbD j = false)
    ∧ (clzN x k < k → x.getLsbD (k - 1 - clzN x k) = true) := by
  induction k with
  | zero => exact ⟨le_rfl, fun j _ h => absurd h (Nat.not_lt_zero j), fun h => absurd h (Nat.lt_irrefl 0)⟩
  | succ k ih =>
    obtain ⟨hle, hzero, hset⟩ := ih
    rw [clzN]
    split
    next hk => exact ⟨Nat.zero_le _, fun j hj hlt => absurd hlt (by omega), fun _ => hk⟩
    next hk =>
      refine ⟨by omega, fun j hj hlt => ?_, fun hlt => ?_⟩
      · rcases Nat.lt_succ_iff_lt_or_eq.1 hlt with hlt | rfl
        · exact hzero j (by omega) hlt
        · exact Bool.eq_false_iff.2 hk
      · rw [show k + 1 - 1 - (1 + clzN x k) = k - 1 - clzN x k by omega]
        exact hset (by omega)

/-- R104: of `k` bits from bit `i` up the counted ones are zero, and the next is set. -/
theorem ctzN_spec (x : Word) (i k : Nat) : ctzN x i k ≤ k ∧ (∀ j, j < ctzN x i k → x.getLsbD (i + j) = false)
    ∧ (ctzN x i k < k → x.getLsbD (i + ctzN x i k) = true) := by
  induction k generalizing i with
  | zero => exact ⟨le_rfl, fun j h => absurd h (Nat.not_lt_zero j), fun h => absurd h (Nat.lt_irrefl 0)⟩
  | succ k ih =>
    obtain ⟨hle, hzero, hset⟩ := ih (i + 1)
    rw [ctzN]
    split
    next hi => exact ⟨Nat.zero_le _, fun j hj => absurd hj (Nat.not_lt_zero j), fun _ => hi⟩
    next hi =>
      refine ⟨by omega, fun j hj => ?_, fun hlt => ?_⟩
      · cases j with
        | zero => exact Bool.eq_false_iff.2 hi
        | succ j => exact (Nat.succ_add_eq_add_succ i j) ▸ hzero j (by omega)
      · rw [← Nat.add_assoc]
        exact hset (by omega)

theorem popN_eq (x : Word) (k : Nat) : popN x k = ((List.range k).filter (fun j => x.getLsbD j)).length := by
  induction k with
  | zero => rfl
  | succ k ih =>
    rw [popN, ih, List.range_succ, List.filter_append, List.length_append]
    cases h : x.getLsbD k <;> simp [h]

/-- Setting a bit for some entries of a list. -/
theorem getLsbD_foldl_twoPow {α : Type} (p : α → Bool) (q : α → Nat) (l : List α) (acc : Word) (k : Nat) :
    (l.foldl (fun acc e => if p e then acc ||| BitVec.twoPow 64 (q e) else acc) acc).getLsbD k
      = (acc.getLsbD k || l.any (fun e => p e && (BitVec.twoPow 64 (q e)).getLsbD k)) := by
  induction l generalizing acc with
  | nil => simp
  | cons e l ih =>
    rw [List.foldl_cons, ih, List.any_cons]
    cases p e <;> simp [Bool.or_assoc]

theorem getLsbD_opBext (x y : Word) (k : Nat) :
    (opBext x y).getLsbD k = ((setPositions y)[k]?.map (fun j => x.getLsbD j)).getD false := by
  have hlen : (setPositions y).length ≤ 64 := (List.length_filter_le _ _).trans_eq (List.length_range ..)
  rw [opBext, getLsbD_foldl_twoPow, Bool.eq_iff_iff]
  simp only [BitVec.getLsbD_twoPow]
  cases h : (setPositions y)[k]? with
  | none => simp [List.mem_zipIdx_iff_getElem?]; grind
  | some j =>
    have hk : k < 64 := ((List.getElem?_eq_some_iff.1 h).1).trans_le hlen
    simp [List.mem_zipIdx_iff_getElem?]
    grind

/-- The entry of a list without repetitions names its place. -/
theorem setPositions_place {y : Word} {k m j : Nat} (hk : (setPositions y)[k]? = some j) (hm : (setPositions y)[m]? = some j) :
    k = m := by
  have hlt := (List.getElem?_eq_some_iff.1 hk).1
  exact (List.getElem?_inj hlt (List.nodup_range.filter _)).1 (hk.trans hm.symm)

theorem mem_setPositions {y : Word} {j : Nat} : j ∈ setPositions y ↔ j < 64 ∧ y.getLsbD j = true := by
  rw [setPositions, List.mem_filter, List.mem_range]

theorem getLsbD_opBdep (x y : Word) (j : Nat) :
    (opBdep x y).getLsbD j = true ↔ ∃ k, (setPositions y)[k]? = some j ∧ x.getLsbD k = true := by
  rw [opBdep, getLsbD_foldl_twoPow]
  simp only [BitVec.getLsbD_twoPow]
  constructor
  · intro h
    simp [List.mem_zipIdx_iff_getElem?] at h
    grind
  · rintro ⟨k, hk, hx⟩
    have hj := mem_setPositions.1 (List.mem_of_getElem? hk)
    simp [List.mem_zipIdx_iff_getElem?]
    grind

/-- R105: the low bits, zero-extended, are those that a mask keeps. -/
theorem setWidth_setWidth_eq_and (x : Word) {k : Nat} (h : k ≤ 64) :
    (x.setWidth k).setWidth 64 = x &&& BitVec.ofNat 64 (2 ^ k - 1) := by
  have hpow : 2 ^ k ≤ 2 ^ 64 := Nat.pow_le_pow_right (by decide) h
  have hpos : 0 < 2 ^ k := by positivity
  have hx : x.toNat % 2 ^ k < 2 ^ k := Nat.mod_lt _ hpos
  apply BitVec.eq_of_toNat_eq
  rw [BitVec.toNat_setWidth, BitVec.toNat_setWidth, BitVec.toNat_and, BitVec.toNat_ofNat,
    Nat.mod_eq_of_lt (a := 2 ^ k - 1) (by omega), Nat.and_two_pow_sub_one_eq_mod, Nat.mod_eq_of_lt (by omega)]

/-! ## How the forms complete -/

theorem classI_completes {s : State} {a : Reg} {c : Option Reg} (i : Imm) (h : QueuesReady s [c.getD a] [a])
    {f : Word → Word → Word} {v : Word} (hv : f (rd s (c.getD a)) (BitVec.ofInt 64 i.v) = v) :
    (.next (classI f a c i s) : Out) = .next (wrote s (1 + optLen c + i.n) [c.getD a] a v) := by
  rw [classI_ready f i h, immW, hv]

theorem classX_completes {s : State} {a : Reg} {c : Option Reg} (h : QueuesReady s [c.getD a] [a])
    {f : Word → Word} {v : Word} (hv : f (rd s (c.getD a)) = v) :
    (.next (classX f a c s) : Out) = .next (wrote s (1 + optLen c) [c.getD a] a v) := by
  rw [classX_ready f h, hv]

theorem classU_completes {s : State} {a b : Reg} (h : QueuesReady s [b] [a]) {f : Word → Word} {v : Word}
    (hv : f (rd s b) = v) : (.next (classU f a b s) : Out) = .next (wrote s 1 [b] a v) := by
  rw [classU_ready f h, hv]

/-- R103: the amount of an immediate form. -/
theorem shAmt_ofInt {i : Int} (h0 : 0 ≤ i) (h63 : i ≤ 63) : shAmt (BitVec.ofInt 64 i) = i.toNat := by
  rw [shAmt, BitVec.toNat_ofInt]
  omega

/-- Settles O2, by the shared form of each instruction and what its value function computes bit by bit. -/
theorem logicAndShiftResults : Obligations.LogicAndShiftResults := by
  refine ⟨fun s a b c h => ⟨?and, ?or, ?xor, ?sll, ?srl, ?sra, ?rol, ?ror⟩,
    fun s a b c => ⟨fun h => ⟨?clz, ?ctz, ?popc⟩, fun h => ⟨?bext, ?bdep⟩⟩⟩
  case and | or | xor => exact classR_completes h rfl
  case sll => exact classR_completes h (congrArg (rd s (srcX a b c) <<< ·) (shAmt_eq _))
  case srl => exact classR_completes h (congrArg (rd s (srcX a b c) >>> ·) (shAmt_eq _))
  case sra => exact classR_completes h (congrArg (rd s (srcX a b c)).sshiftRight (shAmt_eq _))
  case rol => exact classR_completes h (opRol_eq _ _)
  case ror => exact classR_completes h (opRor_eq _ _)
  case clz =>
    obtain ⟨hle, hzero, hset⟩ := clzN_spec (rd s b) 64
    refine ⟨clzN (rd s b) 64, hle, fun j hj => ?_, fun hlt => hset hlt, classU_completes h rfl⟩
    by_cases hlt : j < 64
    · exact hzero j hj hlt
    · exact BitVec.getLsbD_of_ge _ _ (by omega)
  case ctz =>
    obtain ⟨hle, hzero, hset⟩ := ctzN_spec (rd s b) 0 64
    simp only [Nat.zero_add] at hzero hset
    exact ⟨ctzN (rd s b) 0 64, hle, hzero, hset, classU_completes h rfl⟩
  case popc => exact classU_completes h (congrArg (BitVec.ofNat 64) (popN_eq _ 64))
  case bext => exact ⟨_, getLsbD_opBext _ _, classR_completes h rfl⟩
  case bdep =>
    refine ⟨opBdep _ _, fun k j hk => ?_, fun j hj => ?_, classR_completes h rfl⟩
    · rw [Bool.eq_iff_iff, getLsbD_opBdep]
      exact ⟨fun ⟨m, hm, hx⟩ => setPositions_place hk hm ▸ hx, fun hx => ⟨k, hk, hx⟩⟩
    · rw [Bool.eq_false_iff, Ne, getLsbD_opBdep]
      rintro ⟨k, hk, -⟩
      exact absurd ((mem_setPositions.1 (List.mem_of_getElem? hk)).2.symm.trans hj) nofun

/-- Settles O3, by the shared form of each instruction; the amount of a shift by an immediate is the immediate. -/
theorem immediateAndMoveResults : Obligations.ImmediateAndMoveResults := by
  intro s a c i
  refine ⟨fun h => ?li, fun b m d h => ?sel, fun b h => ?mov, fun h =>
    ⟨?add, ?and, ?or, ?xor, ?slt, fun h0 h63 => ⟨?sll, ?srl, ?sra, ?ror⟩,
    ?sb, ?sh, ?sw, ?zb, ?zh, ?zw⟩⟩
  case li => exact congrArg Host.Outcome.next (runI_ready h _ _)
  case sel =>
    refine congrArg Host.Outcome.next ((runI_ready h _ _).trans ?_)
    simp only [ne_eq, ite_not]
    rfl
  case mov => exact classU_completes h rfl
  case add | and | or | xor => exact classI_completes i h rfl
  case slt => exact classI_completes i h (FetchingAndIssuing.opSlt_eq _ _)
  case sll => exact classI_completes i h (congrArg (rd s (c.getD a) <<< ·) (shAmt_ofInt h0 h63))
  case srl => exact classI_completes i h (congrArg (rd s (c.getD a) >>> ·) (shAmt_ofInt h0 h63))
  case sra => exact classI_completes i h (congrArg (rd s (c.getD a)).sshiftRight (shAmt_ofInt h0 h63))
  case ror =>
    refine classI_completes i h ((opRor_eq _ _).trans ?_)
    rw [← shAmt_eq, shAmt_ofInt h0 h63]
  case sb | sh | sw => exact classX_completes h rfl
  case zb => exact classX_completes h (setWidth_setWidth_eq_and _ (k := 8) (by decide))
  case zh => exact classX_completes h (setWidth_setWidth_eq_and _ (k := 16) (by decide))
  case zw => exact classX_completes h (setWidth_setWidth_eq_and _ (k := 32) (by decide))

/-! ## An instruction whose queues are not ready (R15, R48, R170) -/

section
variable {s : State} {srcs dsts : List Reg} (len : Nat) (body : State → Eff)

theorem runI_empty_unlinked (hp : (30 : Reg) ∈ srcs) (hup : (myCore s).up = []) (hlink : (myCore s).upLink = none) :
    runI len srcs dsts s body = trapMe s 0x07 30 := by
  simp [runI, hp, hup, hlink]

theorem runI_push_unlinked (hp : (31 : Reg) ∈ dsts) (hlink : (myCore s).downLink = none)
    (hup : (30 : Reg) ∈ srcs → (myCore s).up ≠ [] ∨ (myCore s).upLink ≠ none) :
    runI len srcs dsts s body = trapMe s 0x07 31 := by
  have hno : ¬ ((30 : Reg) ∈ srcs ∧ (myCore s).up = [] ∧ (myCore s).upLink = none) :=
    fun ⟨h, hu, hl⟩ => (hup h).elim (absurd hu) (absurd hl)
  simp [runI, hp, hlink, hno]

theorem runI_empty_waits (hp : (30 : Reg) ∈ srcs) (hup : (myCore s).up = []) (hlink : (myCore s).upLink ≠ none)
    (hdown : (31 : Reg) ∈ dsts → (myCore s).downLink ≠ none) : runI len srcs dsts s body = s := by
  have hno : ¬ ((31 : Reg) ∈ dsts ∧ (myCore s).downLink = none) := fun ⟨h, hd⟩ => hdown h hd
  simp [runI, hp, hup, hlink, hno]

theorem runI_full_waits (hp : (31 : Reg) ∈ dsts) (hlink : (myCore s).downLink ≠ none)
    (hfull : ¬ (myCore s).down.length + (myCore s).qoHeld < 16) (hup : (30 : Reg) ∈ srcs → (myCore s).up ≠ []) :
    runI len srcs dsts s body = s := by
  have hno : ¬ ((30 : Reg) ∈ srcs ∧ (myCore s).up = []) := fun ⟨h, hu⟩ => hup h hu
  have hno' : ¬ ((30 : Reg) ∈ srcs ∧ (myCore s).up = [] ∧ (myCore s).upLink = none) := fun ⟨h, hu, _⟩ => hup h hu
  simp [runI, hp, hlink, hno, hno', not_lt.1 hfull]

theorem runI_control (hp : (30 : Reg) ∈ srcs) {e : QEntry} {l : List QEntry} (hup : (myCore s).up = e :: l) (hctl : e.ctl = true)
    (hdown : (31 : Reg) ∈ dsts → (myCore s).downLink ≠ none ∧ (myCore s).down.length + (myCore s).qoHeld < 16) :
    runI len srcs dsts s body = queueEnd s e := by
  have hno : ¬ ((31 : Reg) ∈ dsts ∧ (myCore s).downLink = none) := fun ⟨h, hd⟩ => (hdown h).1 hd
  have hno' : ¬ ((31 : Reg) ∈ dsts ∧ 16 ≤ (myCore s).down.length + (myCore s).qoHeld) :=
    fun ⟨h, hd⟩ => not_lt.2 hd (hdown h).2
  simp [runI, hp, hup, hctl, hno, hno']

/-- R15: what the issue of an instruction can come to. -/
theorem runI_cases (s : State) (srcs dsts : List Reg) :
    runI len srcs dsts s body = s ∨ (∃ v, runI len srcs dsts s body = trapMe s 0x07 v)
    ∨ (∃ e l, (30 : Reg) ∈ srcs ∧ (myCore s).up = e :: l ∧ e.ctl = true ∧ runI len srcs dsts s body = queueEnd s e)
    ∨ runI len srcs dsts s body = finish len (srcs.contains 30) (body s) := by
  unfold runI
  simp only
  split
  · exact .inr (.inl ⟨_, rfl⟩)
  split
  · exact .inr (.inl ⟨_, rfl⟩)
  split
  · exact .inl rfl
  next hempty =>
    split
    · exact .inl rfl
    split
    next hctl =>
      refine .inr (.inr (.inl ?_))
      cases hup : (myCore s).up with
      | nil => exact absurd ⟨hctl.1, by rw [hup]; rfl⟩ hempty
      | cons e l =>
        rw [hup] at hctl
        exact ⟨e, l, List.contains_iff_mem.1 hctl.1, rfl, hctl.2, rfl⟩
    · exact .inr (.inr (.inr rfl))
end

/-! ## The forms of page 0 -/

/-- How the body of an integer instruction, a branch or a jump ends: it writes one of its destinations, or none, and goes on,
  jumps or
traps. -/
inductive PlainEnd (s : State) (dsts : List Reg) : Eff → Prop where
  | write {r : Reg} (h : r ∈ dsts) (x : Word) : PlainEnd s dsts (.done (wr s r x))
  | stay : PlainEnd s dsts (.done s)
  | jump (pc : Word) : PlainEnd s dsts (.jump s pc)
  | link {r : Reg} (h : r ∈ dsts) (x pc : Word) : PlainEnd s dsts (.jump (wr s r x) pc)
  | trap (code : Nat) (v : Word) : PlainEnd s dsts (.trap s code v)

theorem PlainEnd.branch {s : State} {dsts : List Reg} (p : Bool) (pc : Word) : PlainEnd s dsts
    (if p then .jump s pc else .done s) := by
  cases p
  · exact .stay
  · exact .jump pc

theorem PlainEnd.jumpThrough {s : State} {dsts : List Reg} (p : Bool) (code : Nat) (v : Word) {e : Eff} (h : PlainEnd s dsts e) :
    PlainEnd s dsts (if p then .trap s code v else e) := by
  cases p
  · exact h
  · exact .trap code v

/-- R101 to R108: each of them issues with the registers that it names and ends in one of these ways. -/
theorem pageZero_runI {i : Instr} (h : pageZeroRegister i = true) : ∃ (len : Nat) (body : State → Eff),
    ∀ s, exec i s = .next (runI len (srcsOf i) (dstsOf i) s body) ∧ PlainEnd s (dstsOf i) (body s) := by
  cases i
  case mov | clz | ctz | popc | li | sel | add | sub | mul | mulh | mulhu | div | divu | rem | remu | and | or | xor | sll |
      srl | sra | rol
      | ror | slt | sltu | seq | sne | bext | bdep | addImm | andImm | orImm | xorImm | sltImm | sllImm | srlImm | sraImm | rorImm
      | sext | zext => exact ⟨_, _, fun s => ⟨rfl, .write (List.mem_singleton.2 rfl) _⟩⟩
  case bz | bnz | beq | bne | blt | bge | bltu | bgeu => exact ⟨_, _, fun s => ⟨rfl, .branch _ _⟩⟩
  case jr a => exact ⟨_, _, fun s => ⟨rfl, .jumpThrough _ _ _ (.jump _)⟩⟩
  case jlr a b => exact ⟨_, _, fun s => ⟨rfl, .jumpThrough _ _ _ (.link (List.mem_singleton.2 rfl) _ _)⟩⟩
  all_goals exact absurd h nofun

theorem queueEnd_traps {s : State} {e : QEntry} (h : (me s).qhv = 0 ∨ (me s).qh = true) : queueEnd s e = trapMe s 0x07 e.data :=
  if_pos h

theorem queueEnd_enters {s : State} {e : QEntry} (h : ¬ ((me s).qhv = 0 ∨ (me s).qh = true)) :
    queueEnd s e = modMe (popQi s true) (fun t =>
      { t with g := t.g.set 1 e.data, qhlk := t.pc, qh := true, pc := t.qhv, wait := .none }) :=
  if_neg h

theorem sameElsewhere_queueEnd (s : State) (e : QEntry) : SameElsewhere s (queueEnd s e) := by
  by_cases h : (me s).qhv = 0 ∨ (me s).qh = true
  · rw [queueEnd_traps h]
    exact sameElsewhere_trapMe s _ _
  · rw [queueEnd_enters h]
    exact (sameElsewhere_popQi s true).trans (sameElsewhere_modMe _ _)

/-- Settles O8: each of these instructions issues with the registers that it names, so the clauses are those of the shared issue.
  -/
theorem queueRules : Obligations.QueueRules := by
  intro s i hi
  obtain ⟨len, body, hexec⟩ := pageZero_runI hi
  rw [(hexec s).1]
  refine ⟨fun hp hup hlink => ?emptyUnlinked, fun hp hlink hup => ?pushUnlinked, fun hp hup hlink hdown => ?emptyWaits,
    fun hp hlink hfull hup => ?fullWaits, fun e l hp hup hctl hdown => ?control⟩
  case emptyUnlinked => rw [runI_empty_unlinked len body hp hup hlink]
  case pushUnlinked => rw [runI_push_unlinked len body hp hlink hup]
  case emptyWaits => rw [runI_empty_waits len body hp hup hlink hdown]
  case fullWaits => rw [runI_full_waits len body hp hlink hfull hup]
  case control =>
    rw [runI_control len body hp hup hctl hdown]
    refine ⟨fun h => by rw [queueEnd_traps h], fun hv hq => ⟨_, rfl, sameElsewhere_queueEnd s e, ?_, ?_⟩⟩
    all_goals rw [queueEnd_enters (not_or.2 ⟨hv, by simp [hq]⟩)]
    · rw [myCore_modMe, myCore_popQi, hup]
      rfl
    · rw [me_modMe, me_popQi]

/-! ## The frame (R96, R100, R300) -/

/-- What may change in the running thread: its general registers, its pc and wait, the trap CSRs and the queue-end link. -/
def StatusFrame (t u : Thread) : Prop := ∃ g pc w e c v h q k,
  u = { t with g := g, pc := pc, wait := w, tepc := e, tcause := c, tval := v, th := h, qhlk := q, qh := k }

theorem statusFrame_refl (t : Thread) : StatusFrame t t := ⟨_, _, _, _, _, _, _, _, _, rfl⟩

/-- A trap leaves every general register. -/
theorem me_trapMe_frame (s : State) (code : Nat) (v : Word) :
    (me (trapMe s code v)).g = (me s).g ∧ StatusFrame (me s) (me (trapMe s code v)) := by
  by_cases hth : (me s).th = true ∨ trapTarget s (me s) = none
  · have hme : me (trapMe s code v) = { me s with wait := .frozen } := by
      rw [trapMe, trapAt_freeze hth, freeze, me_post]
      exact me_modMe s _
    rw [hme]
    exact ⟨rfl, _, _, _, _, _, _, _, _, _, rfl⟩
  · rw [not_or] at hth
    obtain ⟨x, hx⟩ := Option.ne_none_iff_exists'.1 hth.2
    rw [trapMe, trapAt_enter (Bool.eq_false_iff.2 hth.1) hx]
    have hme := me_modMe s (fun t =>
      { t with tepc := t.pc, tcause := BitVec.ofNat 64 code, tval := v, th := true, pc := x, wait := .none })
    rw [modMe] at hme
    rw [hme]
    exact ⟨rfl, _, _, _, _, _, _, _, _, _, rfl⟩

theorem getElem_set_ne {g : Vector Word 32} {r k : Reg} (h : r ≠ k) (x : Word) : (g.set r x)[k] = g[k] :=
  Vector.getElem_set_ne _ _ (Fin.val_ne_iff.2 h)

theorem getElem_me_wr (s : State) (r k : Reg) (x : Word) :
    (me (wr s r x)).g[k] = if k = r ∧ r ≠ 0 ∧ r ≠ 31 then x else (me s).g[k] := by
  rw [me_wr]
  by_cases h : r = 0 ∨ r = 31
  · rw [if_pos h, if_neg (fun hk => h.elim hk.2.1 hk.2.2)]
  rw [if_neg h, not_or] at *
  by_cases hk : k = r
  · subst hk
    rw [if_pos ⟨rfl, h⟩]
    exact Vector.getElem_set_self _
  · rw [if_neg (fun h => hk h.1)]
    exact getElem_set_ne (Ne.symm hk) x

/-- What one of these instructions leaves of the running thread, when it is issued. -/
theorem finish_frame {s : State} {dsts : List Reg} {eff : Eff} (h : PlainEnd s dsts eff) (len : Nat) (pops : Bool) :
    SameElsewhere s (finish len pops eff) ∧ (∀ r : Reg, r ∉ dsts → (me (finish len pops eff)).g[r] = (me s).g[r])
    ∧ StatusFrame (me s) (me (finish len pops eff)) := by
  have hwr (r : Reg) (x : Word) : ∃ g, me (wr s r x) = { me s with g := g } := by
    rw [me_wr]
    split
    · exact ⟨_, rfl⟩
    · exact ⟨_, rfl⟩
  have hkeep {r k : Reg} (hr : r ∈ dsts) (hk : k ∉ dsts) (x : Word) : (me (wr s r x)).g[k] = (me s).g[k] := by
    rw [getElem_me_wr, if_neg]
    rintro ⟨rfl, -⟩
    exact hk hr
  cases h with
  | @write r hr x =>
    refine ⟨(sameElsewhere_wr s r x).trans ((sameElsewhere_popQi _ _).trans (sameElsewhere_modMe _ _)), fun k hk => ?_, ?_⟩
    all_goals rw [finish, me_modMe, me_popQi]
    · exact hkeep hr hk x
    · obtain ⟨g, hg⟩ := hwr r x
      rw [hg]
      exact ⟨_, _, _, _, _, _, _, _, _, rfl⟩
  | stay =>
    refine ⟨(sameElsewhere_popQi _ _).trans (sameElsewhere_modMe _ _), fun k _ => ?_, ?_⟩
    all_goals rw [finish, me_modMe, me_popQi]
    exact ⟨_, _, _, _, _, _, _, _, _, rfl⟩
  | jump pc =>
    refine ⟨(sameElsewhere_popQi _ _).trans (sameElsewhere_modMe _ _), fun k _ => ?_, ?_⟩
    all_goals rw [finish, me_modMe, me_popQi]
    exact ⟨_, _, _, _, _, _, _, _, _, rfl⟩
  | @link r hr x pc =>
    refine ⟨(sameElsewhere_wr s r x).trans ((sameElsewhere_popQi _ _).trans (sameElsewhere_modMe _ _)), fun k hk => ?_, ?_⟩
    all_goals rw [finish, me_modMe, me_popQi]
    · exact hkeep hr hk x
    · obtain ⟨g, hg⟩ := hwr r x
      rw [hg]
      exact ⟨_, _, _, _, _, _, _, _, _, rfl⟩
  | trap code v =>
    obtain ⟨hg, hframe⟩ := me_trapMe_frame s code v
    exact ⟨sameElsewhere_trapMe s code v, fun k _ => congrArg (·[k]) hg, hframe⟩

theorem queueEnd_frame (s : State) (e : QEntry) :
    (∀ r : Reg, r ≠ 1 → (me (queueEnd s e)).g[r] = (me s).g[r]) ∧ StatusFrame (me s) (me (queueEnd s e)) := by
  by_cases h : (me s).qhv = 0 ∨ (me s).qh = true
  · rw [queueEnd_traps h]
    obtain ⟨hg, hframe⟩ := me_trapMe_frame s 0x07 e.data
    exact ⟨fun r _ => congrArg (·[r]) hg, hframe⟩
  · rw [queueEnd_enters h, me_modMe, me_popQi]
    exact ⟨fun r hr => getElem_set_ne (r := 1) (Ne.symm hr) _, _, _, _, _, _, _, _, _, _, rfl⟩

theorem myCore_wrote (s : State) (len : Nat) (srcs : List Reg) (r : Reg) (x : Word) :
    (myCore (wrote s len srcs r x)).down = (myCore s).down ++ (if r = 31 then [⟨x, false⟩] else [])
    ∧ (myCore (wrote s len srcs r x)).up = (if (30 : Reg) ∈ srcs then (myCore s).up.tail else (myCore s).up)
    ∧ (myCore (wrote s len srcs r x)).qoHeld = (myCore s).qoHeld := by
  rw [wrote_eq, myCore_passed, myCore_wr]
  by_cases h0 : r = 0
  · subst h0
    simp [setSlot]
  by_cases h31 : r = 31
  · subst h31
    simp [setSlot]
  · simp [setSlot, h0, h31]

/-- Settles O9: the write of one register field by field, and then the ways in which an issue can end. -/
theorem pageZeroFrame : Obligations.PageZeroFrame := by
  refine ⟨fun s len srcs r x => ?wrote, fun s t i hi ht => ?forms⟩
  case wrote =>
    obtain ⟨hdown, hup, hheld⟩ := myCore_wrote s len srcs r x
    refine ⟨sameElsewhere_passed (sameElsewhere_wr s r x) len srcs, ?_, fun k => ?_, ⟨_, me_wrote ..⟩, hdown, hup, hheld⟩
    · exact (popQi_pending (wr s r x) _).trans (wr_pending s r x)
    · rw [wrote_eq, me_passed]
      exact getElem_me_wr s r k x
  case forms =>
    obtain ⟨len, body, hexec⟩ := pageZero_runI hi
    obtain ⟨hrun, hend⟩ := hexec s
    obtain rfl := Host.Outcome.next.inj (hrun.symm.trans ht)
    rcases runI_cases len body s (srcsOf i) (dstsOf i) with h | ⟨v, h⟩ | ⟨e, l, hp, hup, hctl, h⟩ | h
    all_goals rw [h]
    · exact ⟨SameElsewhere.refl s, fun _ _ _ => rfl, statusFrame_refl _⟩
    · obtain ⟨hg, hframe⟩ := me_trapMe_frame s 0x07 v
      exact ⟨sameElsewhere_trapMe s 0x07 v, fun k _ _ => congrArg (·[k]) hg, hframe⟩
    · obtain ⟨hg, hframe⟩ := queueEnd_frame s e
      exact ⟨sameElsewhere_queueEnd s e, fun r _ h1 => hg r (fun hr => h1 hr ⟨hp, e, l, hup, hctl⟩), hframe⟩
    · obtain ⟨hsame, hg, hframe⟩ := finish_frame hend len ((srcsOf i).contains 30)
      exact ⟨hsame, fun r hr _ => hg r hr, hframe⟩

end Sys2Proof.Proofs.PageZero
end

section
/-!
PROOFS. Trap entry (R302, R303), `brk` while a write of BKH is not yet seen (R307, R317), fixed words, the reset values, and the
  issue
step (R87, R88, R90 to R92).
-/
namespace Sys2Proof.Proofs.TrapsAndReset
open Sys2Proof Sys2Proof.Machine

/-! ## Trap entry (R302, R303) -/

theorem trapTarget_eq (s : State) : trapTarget s (me s) =
    if (me s).tvec ≠ 0 then some (me s).tvec
    else if (me s).fw then none
    else ((me s).launch.bind (fget s.launches)).bind
      (fun l => l.img.trapEntry.map (fun e => BitVec.ofNat 64 (l.img.codeBase + e))) := by
  unfold trapTarget
  split
  · rfl
  split
  · rfl
  cases (me s).launch.bind (fget s.launches) <;> rfl

/-- The state after trap entry into the handler at `x`. -/
def entered (s : State) (code : Nat) (v x : Word) : State := modMe s (fun t =>
  { t with tepc := t.pc, tcause := BitVec.ofNat 64 code, tval := v, th := true, pc := x, wait := .none })

/-- A trap enters the handler or freezes the thread. -/
theorem trapMe_cases (s : State) (code : Nat) (v : Word) :
    (∃ x, (me s).th = false ∧ trapTarget s (me s) = some x ∧ trapMe s code v = entered s code v x)
    ∨ (((me s).th = true ∨ trapTarget s (me s) = none) ∧ trapMe s code v = freeze s s.cur code v) := by
  by_cases h : (me s).th = true ∨ trapTarget s (me s) = none
  · exact .inr ⟨h, trapAt_freeze h code v⟩
  · obtain ⟨hth, ht⟩ := not_or.1 h
    obtain ⟨x, hx⟩ := Option.ne_none_iff_exists'.1 ht
    exact .inl ⟨x, Bool.eq_false_iff.2 hth, hx, trapAt_enter (Bool.eq_false_iff.2 hth) hx code v⟩

theorem me_freeze (s : State) (code : Nat) (v : Word) : me (freeze s s.cur code v) = { me s with wait := .frozen } :=
  me_modMe s (fun t => { t with wait := .frozen })

theorem myCore_freeze (s : State) (code : Nat) (v : Word) :
    myCore (freeze s s.cur code v) = setSlot (myCore s) s.cur.slot { me s with wait := .frozen } :=
  myCore_modMe s (fun t => { t with wait := .frozen })

/-- Settles O5: a thread that enters its handler, and one that freezes. -/
theorem trapEntry : Obligations.TrapEntry := by
  intro s code v
  have hsame := sameElsewhere_trapMe s code v
  rw [TakesTrap, ← trapTarget_eq]
  rcases trapMe_cases s code v with ⟨x, hth, hx, h⟩ | ⟨hth, h⟩
  all_goals rw [h] at hsame ⊢
  · refine ⟨hsame, ?_, rfl, fun y _ hy => ⟨?_, rfl⟩, fun hno => ?_⟩
    · rw [entered, myCore_modMe]
      rfl
    · obtain rfl := Option.some.inj (hx.symm.trans hy)
      exact me_modMe s _
    · exact hno.elim (fun h => absurd (hth.symm.trans h) nofun) (fun h => absurd (hx.symm.trans h) nofun)
  · refine ⟨hsame, ?_, rfl, fun y hno hy => ?_, fun _ => ⟨me_freeze s code v, _, rfl, rfl, rfl⟩⟩
    · rw [myCore_freeze]
      rfl
    · exact hth.elim (fun h => absurd (hno.symm.trans h) nofun) (fun h => absurd (hy.symm.trans h) nofun)

/-! ## `brk` (R317) -/

/-- BKH is 0, and has been 1 until a write that instructions see from cycle 7 on (R307). -/
def bkhJustCleared : State :=
  setCore State.reset 0 { Core.reset with csrOld := [(7, 0x180, 1)] }

/-- Refutes O6: while the write that cleared BKH is not yet seen, `brk` halts the core, whose HLTD trap entry would keep. -/
theorem not_explicitTraps : ¬ Obligations.ExplicitTraps := by
  intro h
  obtain ⟨t, ht, -, hcore, -⟩ := (h.1 bkhJustCleared ⟨0, 0⟩).2.1 rfl
  have hhalt : exec (.brk ⟨0, 0⟩) bkhJustCleared = .next (debugHalt bkhJustCleared) := rfl
  obtain rfl := Host.Outcome.next.inj (hhalt.symm.trans ht)
  exact absurd (congrArg Core.hltd hcore) (by decide)

/-! ## Fixed words and reset -/

/-- Settles O54, by decoding the words. -/
theorem decodeWords : Obligations.DecodeWords := by
  refine ⟨?_, ?_, ?_, ?_, ?_, ?_, ?_, ?_, ?_, ?_, ?_, ?_⟩ <;> decide

/-- R346: every stack keeps its reset values in training but its lanes. -/
theorem stackSt_reset (n : Nat) : stackSt State.reset n = if n < 8 then StackSt.trained 0 n else StackSt.reset := by
  split
  next h => interval_cases n <;> rfl
  next h =>
    have hget : fget (trainedStacks 0) n = none := by
      have hne : ∀ k, k < 8 → k ≠ n := fun k hk => by omega
      simp [trainedStacks, List.range_succ, fget, hne]
    rw [stackSt]
    exact congrArg (·.getD StackSt.reset) hget

/-- Settles O60: the fields of the reset state, and of the maps the default of a key that they do not list. -/
theorem resetValues : Obligations.ResetValues := by
  refine ⟨rfl, fun c n _ => ?threads, fun c => ⟨rfl, rfl, rfl, rfl, rfl, rfl, rfl, rfl⟩, fun c u => ⟨rfl, rfl⟩, rfl, rfl, rfl,
    rfl, rfl, rfl, rfl,
    fun n => ?stackSettings, rfl, fun f => ⟨rfl, rfl⟩, fun n => ⟨rfl, rfl⟩, rfl, rfl, fun d => rfl, rfl, rfl, rfl, rfl, rfl⟩
  case threads => exact ⟨rfl, rfl, rfl, rfl, rfl, rfl, rfl, rfl, rfl, rfl, rfl, rfl, rfl⟩
  case stackSettings =>
    rw [stackSt_reset]
    split
    · exact ⟨rfl, rfl⟩
    · exact ⟨rfl, rfl⟩

/-! ## The issue step (R87, R88, R90 to R92) -/

theorem fget_eq_none {α : Type} {m : FMap α} {n : Nat} (h : ∀ e ∈ m, e.1 ≠ n) : fget m n = none := by
  induction m with
  | nil => rfl
  | cons e m ih =>
    obtain ⟨k, x⟩ := e
    rw [fget, if_neg (h (k, x) List.mem_cons_self)]
    exact ih (fun e he => h e (List.mem_cons_of_mem _ he))

theorem step_issue {s : State} {c n : Nat} {l : List Turn} (hp : s.powered = true) (ha : s.agenda = .issue c n :: l)
    (hpick : pickSlot { s with agenda := l } c = some n) :
    Sys2Proof.Machine.step s = issue { s with agenda := l } ⟨c, n⟩ := by
  rw [Sys2Proof.Machine.step, stepGo, ha]
  exact (if_pos hp).trans (if_pos hpick)

theorem issue_instr {s : State} {a : TRef} {i : Instr} {len : Nat}
    (h : decode (slotWords (Machine.core s a.core) a.core a.slot (thr s a)) = .ok i len) :
    issue s a = endIssue a (exec i (startIssue s a (ilen i) (if fwOnly i && !(thr s a).fw then [] else srcsOf i)
      (if fwOnly i && !(thr s a).fw then [] else dstsOf i))) := by
  have hnext : nextInstr s a = .instr i := by
    simp only [nextInstr, h]
  simp only [issue, hnext]

theorem issue_illegal {s : State} {a : TRef} {off : Nat}
    (h : decode (slotWords (Machine.core s a.core) a.core a.slot (thr s a)) = .bad off) :
    issue s a = endIssue a (exec .illegalInstruction { startIssue s a (off + 1) [] [] with ev := .illegalInstruction off }) := by
  have hnext : nextInstr s a = .illegal off := by
    simp only [nextInstr, h]
  simp only [issue, hnext]

/-- A change of the running thread after one of its core that keeps the slots. -/
theorem myCore_modMe_modMyCore (s : State) {f : Core → Core} (hf : ∀ x, (f x).slots = x.slots) (g : Thread → Thread) :
    myCore (modMe (modMyCore s f) g) = setSlot (f (myCore s)) s.cur.slot (g (me s)) := by
  rw [myCore_modMe, myCore_modMyCore, me_modMyCore_slots s f hf]
  rfl

section
variable (s : State) (a : TRef) (len : Nat) (srcs dsts : List Reg)

theorem startIssue_state : startIssue s a len srcs dsts = { s with cur := a, cores := (startIssue s a len srcs dsts).cores } :=
    rfl

theorem core_startIssue_other {d : Nat} (h : d ≠ a.core) : Machine.core (startIssue s a len srcs dsts) d = Machine.core s d :=
  ((core_modThr _ _ _ _).trans (if_neg h)).trans ((core_modCore _ _ _ _).trans (if_neg h))

/-- R90, R91: what the issue of slot `n` changes in its core, and the cache then. -/
def pipelined (now n : Nat) (srcs dsts : List Reg) (x : Core) (ic : List ILine) : Core :=
  { x with
    rotP := (n + 1) % 32, issueAt := now + 1, eligAt := none
    qiBusy := if srcs.contains 30 then now + 8 else x.qiBusy
    qoBusy := if dsts.contains 31 then now + 8 else x.qoBusy
    qoRep := !dsts.contains 31 && x.qoRep
    icache := ic }

/-- R35, R48: an instruction that only firmware may issue names no queue of another thread. -/
theorem pipelined_named (now n : Nat) (bad : Bool) (srcs dsts : List Reg) (x : Core) (ic : List ILine) :
    pipelined now n (if bad then [] else srcs) (if bad then [] else dsts) x ic = { x with
      icache := ic, rotP := (n + 1) % 32, issueAt := now + 1, eligAt := none
      qoRep := !(!bad && dsts.contains 31) && x.qoRep
      qiBusy := if (!bad) = true ∧ (30 : Reg) ∈ srcs then now + 8 else x.qiBusy
      qoBusy := if (!bad) = true ∧ (31 : Reg) ∈ dsts then now + 8 else x.qoBusy } := by
  cases bad <;> simp [pipelined]

/-- R87: the lines of the words at the pc of thread `t` become the most recently used of a core's cache. -/
def useLines (a : TRef) (t : Thread) (len : Nat) (x : Core) : List ILine :=
  useLine (useLine x.icache ((t.pc + BitVec.ofNat 64 (2 * (len - 1))).toNat / 64) t.fw (lineTag a.core t))
    ((t.pc + BitVec.ofNat 64 (2 * 0)).toNat / 64) t.fw (lineTag a.core t)

theorem startIssue_eq : startIssue s a len srcs dsts
    = modMe (modMyCore { s with cur := a } (fun x => pipelined s.cycle a.slot srcs dsts x (useLines a (thr s a) len x)))
      (fun t => { t with readyAt := s.cycle + 8 }) := rfl

theorem core_startIssue : ∃ ic, Machine.core (startIssue s a len srcs dsts) a.core
    = setSlot (pipelined s.cycle a.slot srcs dsts (Machine.core s a.core) ic) a.slot { thr s a with readyAt := s.cycle + 8 } := by
  exact ⟨useLines a (thr s a) len (Machine.core s a.core),
    myCore_modMe_modMyCore { s with cur := a } (f := fun x => pipelined s.cycle a.slot srcs dsts x (useLines a (thr s a) len x))
      (fun _ => rfl) _⟩
end

/-- Settles O57: the turn of a picked slot is its issue, and what the state is in which the instruction runs is `startIssue`. -/
theorem stepRunsDecoded : Obligations.StepRunsDecoded := by
  intro s c n l hpow hag u a t ws hpick
  have hstep : Sys2Proof.Machine.step s = issue u a := step_issue hpow hag hpick
  refine ⟨fun hno => ?fetched, fun b hb hpc hfw htag => ?buffered, fun i len hi => ?decoded, fun off hoff => ?illegal⟩
  case fetched =>
    have hbuf : ibufOf (Machine.core s c) c n t = none := by
      rw [ibufOf, fget_eq_none hno]
    simp only [ws, slotWords, hbuf]
  case buffered =>
    have hbuf : ibufOf (Machine.core s c) c n t = some b := by
      simp only [ibufOf, hb]
      exact if_pos ⟨hpc, hfw, htag⟩
    simp only [ws, slotWords, hbuf]
  case decoded =>
    refine ⟨_, hstep.trans (issue_instr hi), startIssue_state .., fun d hd => core_startIssue_other u a _ _ _ hd, fun m hm => ?_,
      ?_, ?_⟩
    all_goals
      obtain ⟨ic, hcore⟩ := core_startIssue u a (ilen i) (if fwOnly i && !(thr u a).fw then [] else srcsOf i)
        (if fwOnly i && !(thr u a).fw then [] else dstsOf i)
    · rw [show c = a.core from rfl, hcore, slotOf_setSlot, if_neg hm]
      rfl
    · rw [show c = a.core from rfl, hcore]
      exact slotOf_setSlot_self ..
    · refine ⟨fset (Machine.core s c).slots n { t with readyAt := s.cycle + 8 }, ic, ?_⟩
      exact hcore.trans (congrArg (setSlot · n { t with readyAt := s.cycle + 8 }) (pipelined_named ..))
  case illegal =>
    obtain ⟨ic, hcore⟩ := core_startIssue u a (off + 1) [] []
    refine ⟨_, hstep.trans (issue_illegal hoff), rfl, rfl, ?_⟩
    exact (congrArg (slotOf · n) hcore).trans (slotOf_setSlot_self ..)

end Sys2Proof.Proofs.TrapsAndReset
end

section
/-!
PROOFS. That every instruction and every event ends in a next state: the shared forms of the units' own steps once, then the arms
  of
the dispatch, an event's through the match on what it is.
-/
namespace Sys2Proof.Proofs.Totality
open Sys2Proof Sys2Proof.Machine

/-- An outcome with a next state. -/
def Goes (o : Out) : Prop := ∃ t, o = .next t

theorem goes_next (s : State) : Goes (.next s) := ⟨s, rfl⟩

/-! ## The shared forms of the units' own steps -/

theorem goes_tauServe (s : State) (r : TauReq) (reads : Bool) (k : State → State) : Goes (tauServe s r reads k) := by
  unfold tauServe; simp only []; repeat' split
  all_goals exact goes_next _
theorem goes_cpRead (s : State) (cl : Nat) (j : CpJob) (va : Word) (k : State → CpJob → Word → State) :
    Goes (cpRead s cl j va k) := by
  unfold cpRead; split <;> exact goes_next _
theorem goes_cpStep (s : State) (cl : Nat) (kind : CpKind) (k : State → CpJob → Out) (hk : ∀ s j, Goes (k s j)) :
    Goes (cpStep s cl kind k) := by
  unfold cpStep; repeat' split
  case h_1.isFalse.isFalse.isFalse => exact hk _ _
  all_goals exact goes_next _
theorem goes_mxStep (s : State) (cl id : Nat) (kinds : List MxKind) (k : State → MxJob → Out) (hk : ∀ s j, Goes (k s j)) :
    Goes (mxStep s cl id kinds k) := by
  unfold mxStep; repeat' split
  case h_1.isTrue => exact hk _ _
  all_goals exact goes_next _
theorem goes_copyWord (cl : Nat) (s : State) (j : CpJob) : Goes (copyWord cl s j) := by
  unfold copyWord; exact goes_cpRead ..
theorem goes_copyoWord (cl : Nat) (s : State) (j : CpJob) : Goes (copyoWord cl s j) := by
  unfold copyoWord; split
  case h_1 => exact goes_cpRead ..
  case h_2 => simp only []; split <;> exact goes_next _
theorem goes_mintTWord (cl : Nat) (s : State) (j : CpJob) : Goes (mintTWord cl s j) := goes_cpRead ..
theorem goes_mintWord (cl : Nat) (s : State) (j : CpJob) : Goes (mintWord cl s j) := by
  unfold mintWord; split
  case h_1 => exact goes_cpRead ..
  case h_2 => exact goes_next _
theorem goes_productStep (s : State) (cl : Nat) (j : MxJob) : Goes (productStep s cl j) := by
  unfold productStep; simp only []; repeat' split
  all_goals exact goes_next _
theorem goes_readAhead (s : State) (c n : Nat) : Goes (readAhead s c n) := by
  unfold readAhead; simp only []; repeat' split
  all_goals exact goes_next _
theorem goes_fillGo (s : State) (a : TRef) (t : Thread) (va : Word) : Goes (fillGo s a t va) := by
  unfold fillGo; simp only []
  generalize (if t.fw then Tr.pa _ else _) = tr
  cases tr
  all_goals simp only []; repeat' split
  all_goals exact goes_next _

/-! ## The events -/

theorem goes_execIllegalInstruction (s : State) : Goes (execIllegalInstruction s) := by
  unfold execIllegalInstruction; split <;> exact goes_next _
theorem goes_execChldStep (s : State) : Goes (execChldStep s) := by
  unfold execChldStep; split <;> exact goes_next _
theorem goes_execTauRead (s : State) : Goes (execTauRead s) := by
  unfold execTauRead; split
  case h_1 => exact goes_tauServe ..
  case h_2 => exact goes_next _
theorem goes_execTauStore (s : State) : Goes (execTauStore s) := by
  unfold execTauStore; repeat' split
  all_goals exact goes_next _
theorem goes_execStoreAck (s : State) : Goes (execStoreAck s) := by
  unfold execStoreAck; split <;> exact goes_next _
theorem goes_execStoreBufferInject (s : State) : Goes (execStoreBufferInject s) := by
  unfold execStoreBufferInject; repeat' split
  all_goals exact goes_next _
theorem goes_execFeRequest (s : State) : Goes (execFeRequest s) := by
  unfold execFeRequest; split
  case h_1 => exact goes_tauServe ..
  case h_2 => exact goes_next _
theorem goes_execFetmoTimeout (s : State) : Goes (execFetmoTimeout s) := by
  unfold execFetmoTimeout; repeat' split
  all_goals exact goes_next _
theorem goes_execLrqRequest (s : State) : Goes (execLrqRequest s) := by
  unfold execLrqRequest; split
  case h_1 => exact goes_tauServe ..
  case h_2 => exact goes_next _
theorem goes_execScqRequest (s : State) : Goes (execScqRequest s) := by
  unfold execScqRequest; split
  case h_1 => exact goes_tauServe ..
  case h_2 => exact goes_next _
theorem goes_execAmoRequest (s : State) : Goes (execAmoRequest s) := by
  unfold execAmoRequest; split
  case h_1 => exact goes_tauServe ..
  case h_2 => exact goes_next _
theorem goes_execReply (s : State) : Goes (execReply s) := by
  unfold execReply; split <;> exact goes_next _
theorem goes_execEscrowAccept (s : State) : Goes (execEscrowAccept s) := by
  unfold execEscrowAccept; repeat' split
  all_goals exact goes_next _
theorem goes_execMWrite (s : State) : Goes (execMWrite s) := by
  unfold execMWrite; repeat' split
  all_goals exact goes_next _
theorem goes_execMRead (s : State) : Goes (execMRead s) := by
  unfold execMRead; repeat' split
  all_goals exact goes_next _
theorem goes_execQueueTransfer (s : State) : Goes (execQueueTransfer s) := by
  unfold execQueueTransfer; split <;> exact goes_next _
theorem goes_execStreamRead (s : State) : Goes (execStreamRead s) := by
  unfold execStreamRead; split
  case h_1 => exact goes_readAhead ..
  case h_2 => exact goes_next _
theorem goes_execMergeStep (s : State) : Goes (execMergeStep s) := by
  unfold execMergeStep; split <;> exact goes_next _
theorem goes_execLineFill (s : State) : Goes (execLineFill s) := by
  unfold execLineFill; split
  case h_1 => exact goes_fillGo ..
  case h_2 => exact goes_next _
theorem goes_execCopyJob (s : State) : Goes (execCopyJob s) := by
  unfold execCopyJob; split
  case h_1 => exact goes_cpStep _ _ _ _ (goes_copyWord _)
  case h_2 => exact goes_next _
theorem goes_execCopyoJob (s : State) : Goes (execCopyoJob s) := by
  unfold execCopyoJob; split
  case h_1 => exact goes_cpStep _ _ _ _ (goes_copyoWord _)
  case h_2 => exact goes_next _
theorem goes_execMintTableJob (s : State) : Goes (execMintTableJob s) := by
  unfold execMintTableJob; split
  case h_1 => exact goes_cpStep _ _ _ _ (goes_mintTWord _)
  case h_2 => exact goes_next _
theorem goes_execMintJob (s : State) : Goes (execMintJob s) := by
  unfold execMintJob; split
  case h_1 => exact goes_cpStep _ _ _ _ (goes_mintWord _)
  case h_2 => exact goes_next _
theorem goes_execArrive (s : State) : Goes (execArrive s) := by
  unfold execArrive; split <;> exact goes_next _
theorem goes_execBarwRequest (s : State) : Goes (execBarwRequest s) := by
  unfold execBarwRequest; split <;> exact goes_next _
theorem goes_execPlace (s : State) : Goes (execPlace s) := by
  unfold execPlace; split <;> exact goes_next _
theorem goes_execFreeMessage (s : State) : Goes (execFreeMessage s) := by
  unfold execFreeMessage; split <;> exact goes_next _
theorem goes_execParkTimeout (s : State) : Goes (execParkTimeout s) := by
  unfold execParkTimeout; split <;> exact goes_next _
theorem goes_execMailboxMessage (s : State) : Goes (execMailboxMessage s) := by
  unfold execMailboxMessage; split <;> exact goes_next _
theorem goes_execWakeMessage (s : State) : Goes (execWakeMessage s) := by
  unfold execWakeMessage; split <;> exact goes_next _
theorem goes_execXlatMessage (s : State) : Goes (execXlatMessage s) := by
  unfold execXlatMessage; split <;> exact goes_next _
theorem goes_execRecallMessage (s : State) : Goes (execRecallMessage s) := by
  unfold execRecallMessage; split <;> exact goes_next _
theorem goes_execContextShipment (s : State) : Goes (execContextShipment s) := by
  unfold execContextShipment; split <;> exact goes_next _
theorem goes_execUpdate (s : State) : Goes (execUpdate s) := by
  unfold execUpdate; split <;> exact goes_next _
theorem goes_execUpdateAck (s : State) : Goes (execUpdateAck s) := by
  unfold execUpdateAck; split <;> exact goes_next _
theorem goes_execTlbwInstall (s : State) : Goes (execTlbwInstall s) := by
  unfold execTlbwInstall; split <;> exact goes_next _
theorem goes_execShootMessage (s : State) : Goes (execShootMessage s) := by
  unfold execShootMessage; split <;> exact goes_next _
theorem goes_execCandidateExpansion (s : State) : Goes (execCandidateExpansion s) := by
  unfold execCandidateExpansion; split <;> exact goes_next _
theorem goes_execGroveReply (s : State) : Goes (execGroveReply s) := by
  unfold execGroveReply; split <;> exact goes_next _
theorem goes_execPublish (s : State) : Goes (execPublish s) := by
  unfold execPublish; split <;> exact goes_next _
theorem goes_execLdnnAccept (s : State) : Goes (execLdnnAccept s) := by
  unfold execLdnnAccept; split <;> exact goes_next _
theorem goes_execStvAccept (s : State) : Goes (execStvAccept s) := by
  unfold execStvAccept; split <;> exact goes_next _
theorem goes_execDlvAccept (s : State) : Goes (execDlvAccept s) := by
  unfold execDlvAccept; split <;> exact goes_next _
theorem goes_execIxverAccept (s : State) : Goes (execIxverAccept s) := by
  unfold execIxverAccept; split <;> exact goes_next _
theorem goes_execIxsnapAccept (s : State) : Goes (execIxsnapAccept s) := by
  unfold execIxsnapAccept; split <;> exact goes_next _
theorem goes_execMxmJob (s : State) : Goes (execMxmJob s) := by
  unfold execMxmJob; split
  case h_1 => exact goes_mxStep _ _ _ _ _ fun s j => goes_productStep s _ j
  case h_2 => exact goes_next _
theorem goes_execMxmsJob (s : State) : Goes (execMxmsJob s) := by
  unfold execMxmsJob; split
  case h_1 => exact goes_mxStep _ _ _ _ _ fun s j => goes_productStep s _ j
  case h_2 => exact goes_next _
theorem goes_execMxgJob (s : State) : Goes (execMxgJob s) := by
  unfold execMxgJob; split
  case h_1 => exact goes_mxStep _ _ _ _ _ fun s j => goes_productStep s _ j
  case h_2 => exact goes_next _
theorem goes_execMxdrnJob (s : State) : Goes (execMxdrnJob s) := by
  unfold execMxdrnJob; split
  case h_1 => exact goes_mxStep _ _ _ _ _ fun _ _ => goes_next _
  case h_2 => exact goes_next _
theorem goes_execMxzJob (s : State) : Goes (execMxzJob s) := by
  unfold execMxzJob; split
  case h_1 => exact goes_mxStep _ _ _ _ _ fun _ _ => goes_next _
  case h_2 => exact goes_next _
theorem goes_execDxsys (s : State) : Goes (execDxsys s) := by
  unfold execDxsys; split <;> exact goes_next _
theorem goes_execRetrainChannel (s : State) : Goes (execRetrainChannel s) := by
  unfold execRetrainChannel; split <;> exact goes_next _
theorem goes_execRepairLane (s : State) : Goes (execRepairLane s) := by
  unfold execRepairLane; split <;> exact goes_next _
theorem goes_execHcmdComplete (s : State) : Goes (execHcmdComplete s) := by
  unfold execHcmdComplete; split <;> exact goes_next _
theorem goes_execMarginUpdate (s : State) : Goes (execMarginUpdate s) := by
  unfold execMarginUpdate; split <;> exact goes_next _
theorem goes_execRefresh (s : State) : Goes (execRefresh s) := by
  unfold execRefresh; split <;> exact goes_next _
theorem goes_execScrubVisit (s : State) : Goes (execScrubVisit s) := by
  unfold execScrubVisit; split <;> exact goes_next _
theorem goes_execSelfRefreshEntry (s : State) : Goes (execSelfRefreshEntry s) := by
  unfold execSelfRefreshEntry; split <;> exact goes_next _
theorem goes_execPatdataWrite (s : State) : Goes (execPatdataWrite s) := by
  unfold execPatdataWrite; split <;> exact goes_next _
theorem goes_execAmofRequest (s : State) : Goes (execAmofRequest s) := by
  unfold execAmofRequest; split
  case h_1 => exact goes_tauServe ..
  case h_2 => exact goes_next _
theorem goes_execAmoxRequest (s : State) : Goes (execAmoxRequest s) := by
  unfold execAmoxRequest; split
  case h_1 => exact goes_tauServe ..
  case h_2 => exact goes_next _
theorem goes_execSealRequest (s : State) : Goes (execSealRequest s) := by
  unfold execSealRequest; repeat' split
  all_goals exact goes_next _
theorem goes_execSealTimer (s : State) : Goes (execSealTimer s) := by
  unfold execSealTimer; split <;> exact goes_next _
theorem goes_execPrep (s : State) : Goes (execPrep s) := by
  unfold execPrep; split <;> exact goes_next _
theorem goes_execSave (s : State) : Goes (execSave s) := by
  unfold execSave; split <;> exact goes_next _
theorem goes_execSaved (s : State) : Goes (execSaved s) := by
  unfold execSaved; split <;> exact goes_next _
theorem goes_execCommit (s : State) : Goes (execCommit s) := by
  unfold execCommit; split <;> exact goes_next _
theorem goes_execStampSweep (s : State) : Goes (execStampSweep s) := by
  unfold execStampSweep; repeat' split
  all_goals exact goes_next _
theorem goes_execEscrowLinkAccept (s : State) : Goes (execEscrowLinkAccept s) := by
  unfold execEscrowLinkAccept; split <;> exact goes_next _
theorem goes_execRollback (s : State) : Goes (execRollback s) := by
  unfold execRollback; split <;> exact goes_next _
theorem goes_execRollbackTrigger (s : State) : Goes (execRollbackTrigger s) := by
  unfold execRollbackTrigger; split <;> exact goes_next _
theorem goes_execDbq (s : State) : Goes (execDbq s) := by
  unfold execDbq; repeat' split
  all_goals exact goes_next _
theorem goes_execLaunchRecord (s : State) : Goes (execLaunchRecord s) := by
  unfold execLaunchRecord; repeat' split
  all_goals exact goes_next _
theorem goes_execAdmission (s : State) : Goes (execAdmission s) := by
  unfold execAdmission; split <;> exact goes_next _
theorem goes_execLaunchStart (s : State) : Goes (execLaunchStart s) := by
  unfold execLaunchStart; repeat' split
  all_goals exact goes_next _
theorem goes_execArmInstance (s : State) : Goes (execArmInstance s) := by
  unfold execArmInstance; repeat' split
  all_goals exact goes_next _
theorem goes_execRunRequest (s : State) : Goes (execRunRequest s) := by
  unfold execRunRequest; repeat' split
  all_goals exact goes_next _
theorem goes_execCompletionSignal (s : State) : Goes (execCompletionSignal s) := by
  unfold execCompletionSignal; repeat' split
  all_goals exact goes_next _
theorem goes_execArborDispatch (s : State) : Goes (execArborDispatch s) := by
  unfold execArborDispatch; repeat' split
  all_goals exact goes_next _
theorem goes_execRetirement (s : State) : Goes (execRetirement s) := by
  unfold execRetirement; repeat' split
  all_goals exact goes_next _
theorem goes_execSysMessage (s : State) : Goes (execSysMessage s) := by
  unfold execSysMessage; repeat' split
  all_goals exact goes_next _
theorem goes_execPreemption (s : State) : Goes (execPreemption s) := by
  unfold execPreemption; split <;> exact goes_next _
theorem goes_execContextStreamComplete (s : State) : Goes (execContextStreamComplete s) := by
  unfold execContextStreamComplete; split <;> exact goes_next _
theorem goes_execDrainAck (s : State) : Goes (execDrainAck s) := by
  unfold execDrainAck; repeat' split
  all_goals exact goes_next _
theorem goes_execRetireForwarding (s : State) : Goes (execRetireForwarding s) := by
  unfold execRetireForwarding; split <;> exact goes_next _
theorem goes_execReadmission (s : State) : Goes (execReadmission s) := by
  unfold execReadmission; split <;> exact goes_next _
theorem goes_execCorePowerGating (s : State) : Goes (execCorePowerGating s) := by
  unfold execCorePowerGating; repeat' split
  all_goals exact goes_next _
theorem goes_execPortBringUp (s : State) : Goes (execPortBringUp s) := by
  unfold execPortBringUp; split <;> exact goes_next _
theorem goes_execLinkDown (s : State) : Goes (execLinkDown s) := by
  unfold execLinkDown; split <;> exact goes_next _
theorem goes_execRekey (s : State) : Goes (execRekey s) := by
  unfold execRekey; split <;> exact goes_next _
theorem goes_execFrame (s : State) : Goes (execFrame s) := by
  unfold execFrame; split <;> exact goes_next _
theorem goes_execRoutingTableLoad (s : State) : Goes (execRoutingTableLoad s) := by
  unfold execRoutingTableLoad; split <;> exact goes_next _
theorem goes_execActivate (s : State) : Goes (execActivate s) := by
  unfold execActivate; split <;> exact goes_next _
theorem goes_execDrain (s : State) : Goes (execDrain s) := by
  unfold execDrain; split <;> exact goes_next _
theorem goes_execRetire (s : State) : Goes (execRetire s) := by
  unfold execRetire; split <;> exact goes_next _
theorem goes_execJoin (s : State) : Goes (execJoin s) := by
  unfold execJoin; split <;> exact goes_next _
theorem goes_execWdkick (s : State) : Goes (execWdkick s) := by
  unfold execWdkick; split <;> exact goes_next _
theorem goes_execKickTimeout (s : State) : Goes (execKickTimeout s) := by
  unfold execKickTimeout; split <;> exact goes_next _
theorem goes_execCoreHang (s : State) : Goes (execCoreHang s) := by
  unfold execCoreHang; split <;> exact goes_next _
theorem goes_execSealHang (s : State) : Goes (execSealHang s) := by
  unfold execSealHang; split <;> exact goes_next _
theorem goes_execCapperWindow (s : State) : Goes (execCapperWindow s) := by
  unfold execCapperWindow; split <;> exact goes_next _
theorem goes_execTemperatureReading (s : State) : Goes (execTemperatureReading s) := by
  unfold execTemperatureReading; split <;> exact goes_next _
theorem goes_execThermalTrip (s : State) : Goes (execThermalTrip s) := by
  unfold execThermalTrip; split <;> exact goes_next _
theorem goes_execAgeingMonitorUpdate (s : State) : Goes (execAgeingMonitorUpdate s) := by
  unfold execAgeingMonitorUpdate; split <;> exact goes_next _
theorem goes_execReplan (s : State) : Goes (execReplan s) := by
  unfold execReplan; split <;> exact goes_next _
theorem goes_execHostMemRead (s : State) : Goes (execHostMemRead s) := by
  unfold execHostMemRead; split <;> exact goes_next _
theorem goes_execHostMemWrite (s : State) : Goes (execHostMemWrite s) := by
  unfold execHostMemWrite; split <;> exact goes_next _
theorem goes_execVerifyAndStart (s : State) : Goes (execVerifyAndStart s) := by
  unfold execVerifyAndStart; split <;> exact goes_next _
theorem goes_execVerifyAndSwap (s : State) : Goes (execVerifyAndSwap s) := by
  unfold execVerifyAndSwap; split <;> exact goes_next _
theorem goes_execFirmwareVerification (s : State) : Goes (execFirmwareVerification s) := by
  unfold execFirmwareVerification; split <;> exact goes_next _
theorem goes_execQueueSafePoint (s : State) : Goes (execQueueSafePoint s) := by
  unfold execQueueSafePoint; split <;> exact goes_next _
theorem goes_execReset (s : State) : Goes (execReset s) := by
  unfold execReset; split <;> exact goes_next _
theorem goes_execPowerDown (s : State) : Goes (execPowerDown s) := by
  unfold execPowerDown; split <;> exact goes_next _
theorem goes_execGetMeasurements (s : State) : Goes (execGetMeasurements s) := by
  unfold execGetMeasurements; split <;> exact goes_next _
theorem goes_execSpdmRequest (s : State) : Goes (execSpdmRequest s) := by
  unfold execSpdmRequest; split <;> exact goes_next _
theorem goes_execLock (s : State) : Goes (execLock s) := by
  unfold execLock; split <;> exact goes_next _
theorem goes_execStartRequest (s : State) : Goes (execStartRequest s) := by
  unfold execStartRequest; split <;> exact goes_next _
theorem goes_execStop (s : State) : Goes (execStop s) := by
  unfold execStop; split <;> exact goes_next _
theorem goes_execGetDeviceInterfaceReport (s : State) : Goes (execGetDeviceInterfaceReport s) := by
  unfold execGetDeviceInterfaceReport; split <;> exact goes_next _
theorem goes_execVfConfigWrite (s : State) : Goes (execVfConfigWrite s) := by
  unfold execVfConfigWrite; repeat' split
  all_goals exact goes_next _
theorem goes_execRegisterWrite (s : State) : Goes (execRegisterWrite s) := by
  unfold execRegisterWrite; split <;> exact goes_next _

/-- Settles O59, by the cases of the dispatch: every arm ends in a next state, an event's through the match on what it is. -/
theorem nothingIsRefused : Obligations.NothingIsRefused := by
  intro i s
  cases i
  case illegalInstruction => exact goes_execIllegalInstruction s
  case chldStep => exact goes_execChldStep s
  case tauRead => exact goes_execTauRead s
  case tauStore => exact goes_execTauStore s
  case storeAck => exact goes_execStoreAck s
  case storeBufferInject => exact goes_execStoreBufferInject s
  case feRequest => exact goes_execFeRequest s
  case fetmoTimeout => exact goes_execFetmoTimeout s
  case lrqRequest => exact goes_execLrqRequest s
  case scqRequest => exact goes_execScqRequest s
  case amoRequest => exact goes_execAmoRequest s
  case reply => exact goes_execReply s
  case escrowAccept => exact goes_execEscrowAccept s
  case mWrite => exact goes_execMWrite s
  case mRead => exact goes_execMRead s
  case queueTransfer => exact goes_execQueueTransfer s
  case streamRead => exact goes_execStreamRead s
  case mergeStep => exact goes_execMergeStep s
  case lineFill => exact goes_execLineFill s
  case copyJob => exact goes_execCopyJob s
  case copyoJob => exact goes_execCopyoJob s
  case mintTableJob => exact goes_execMintTableJob s
  case mintJob => exact goes_execMintJob s
  case arrive => exact goes_execArrive s
  case barwRequest => exact goes_execBarwRequest s
  case place => exact goes_execPlace s
  case freeMessage => exact goes_execFreeMessage s
  case parkTimeout => exact goes_execParkTimeout s
  case mailboxMessage => exact goes_execMailboxMessage s
  case wakeMessage => exact goes_execWakeMessage s
  case xlatMessage => exact goes_execXlatMessage s
  case recallMessage => exact goes_execRecallMessage s
  case contextShipment => exact goes_execContextShipment s
  case update => exact goes_execUpdate s
  case updateAck => exact goes_execUpdateAck s
  case tlbwInstall => exact goes_execTlbwInstall s
  case shootMessage => exact goes_execShootMessage s
  case candidateExpansion => exact goes_execCandidateExpansion s
  case groveReply => exact goes_execGroveReply s
  case publish => exact goes_execPublish s
  case ldnnAccept => exact goes_execLdnnAccept s
  case stvAccept => exact goes_execStvAccept s
  case dlvAccept => exact goes_execDlvAccept s
  case ixverAccept => exact goes_execIxverAccept s
  case ixsnapAccept => exact goes_execIxsnapAccept s
  case mxmJob => exact goes_execMxmJob s
  case mxmsJob => exact goes_execMxmsJob s
  case mxgJob => exact goes_execMxgJob s
  case mxdrnJob => exact goes_execMxdrnJob s
  case mxzJob => exact goes_execMxzJob s
  case dxsys => exact goes_execDxsys s
  case retrainChannel => exact goes_execRetrainChannel s
  case repairLane => exact goes_execRepairLane s
  case hcmdComplete => exact goes_execHcmdComplete s
  case marginUpdate => exact goes_execMarginUpdate s
  case refresh => exact goes_execRefresh s
  case scrubVisit => exact goes_execScrubVisit s
  case selfRefreshEntry => exact goes_execSelfRefreshEntry s
  case patdataWrite => exact goes_execPatdataWrite s
  case amofRequest => exact goes_execAmofRequest s
  case amoxRequest => exact goes_execAmoxRequest s
  case sealRequest => exact goes_execSealRequest s
  case sealTimer => exact goes_execSealTimer s
  case prep => exact goes_execPrep s
  case save => exact goes_execSave s
  case saved => exact goes_execSaved s
  case commit => exact goes_execCommit s
  case stampSweep => exact goes_execStampSweep s
  case escrowLinkAccept => exact goes_execEscrowLinkAccept s
  case rollback => exact goes_execRollback s
  case rollbackTrigger => exact goes_execRollbackTrigger s
  case dbq => exact goes_execDbq s
  case launchRecord => exact goes_execLaunchRecord s
  case admission => exact goes_execAdmission s
  case launchStart => exact goes_execLaunchStart s
  case armInstance => exact goes_execArmInstance s
  case runRequest => exact goes_execRunRequest s
  case completionSignal => exact goes_execCompletionSignal s
  case arborDispatch => exact goes_execArborDispatch s
  case retirement => exact goes_execRetirement s
  case sysMessage => exact goes_execSysMessage s
  case preemption => exact goes_execPreemption s
  case contextStreamComplete => exact goes_execContextStreamComplete s
  case drainAck => exact goes_execDrainAck s
  case retireForwarding => exact goes_execRetireForwarding s
  case readmission => exact goes_execReadmission s
  case corePowerGating => exact goes_execCorePowerGating s
  case portBringUp => exact goes_execPortBringUp s
  case linkDown => exact goes_execLinkDown s
  case rekey => exact goes_execRekey s
  case frame => exact goes_execFrame s
  case routingTableLoad => exact goes_execRoutingTableLoad s
  case activate => exact goes_execActivate s
  case drain => exact goes_execDrain s
  case retire => exact goes_execRetire s
  case join => exact goes_execJoin s
  case wdkick => exact goes_execWdkick s
  case kickTimeout => exact goes_execKickTimeout s
  case coreHang => exact goes_execCoreHang s
  case sealHang => exact goes_execSealHang s
  case capperWindow => exact goes_execCapperWindow s
  case temperatureReading => exact goes_execTemperatureReading s
  case thermalTrip => exact goes_execThermalTrip s
  case ageingMonitorUpdate => exact goes_execAgeingMonitorUpdate s
  case replan => exact goes_execReplan s
  case hostMemRead => exact goes_execHostMemRead s
  case hostMemWrite => exact goes_execHostMemWrite s
  case verifyAndStart => exact goes_execVerifyAndStart s
  case verifyAndSwap => exact goes_execVerifyAndSwap s
  case firmwareVerification => exact goes_execFirmwareVerification s
  case queueSafePoint => exact goes_execQueueSafePoint s
  case reset => exact goes_execReset s
  case powerDown => exact goes_execPowerDown s
  case getMeasurements => exact goes_execGetMeasurements s
  case spdmRequest => exact goes_execSpdmRequest s
  case lock => exact goes_execLock s
  case startRequest => exact goes_execStartRequest s
  case stop => exact goes_execStop s
  case getDeviceInterfaceReport => exact goes_execGetDeviceInterfaceReport s
  case vfConfigWrite => exact goes_execVfConfigWrite s
  case registerWrite => exact goes_execRegisterWrite s
  all_goals exact ⟨_, rfl⟩

end Sys2Proof.Proofs.Totality
end

section
/-!
PROOFS. Loads and stores of space G and the store buffer (R136, R138), what a TAU serves and refuses (R4, R298, R353), and the
  full/empty
family at the TAU (R140 to R143).
-/
namespace Sys2Proof.Proofs.DeviceMemory
open Sys2Proof Sys2Proof.Machine

/-! ## The store buffer -/

theorem sbLoad_none {x : Core} {pa n : Nat} (h : ∀ e ∈ x.sbuf, sbOverlaps e pa n = false) : sbLoad x pa n = .none := by
  have : x.sbuf.reverse.find? (fun e => sbOverlaps e pa n) = none := by
    simpa using h
  rw [sbLoad, this]

/-- The newest entry that overlaps decides. -/
theorem sbLoad_newest {x : Core} {pa n : Nat} {l l' : List SbEntry} {e : SbEntry} (hx : x.sbuf = l ++ e :: l')
    (hl : ∀ d ∈ l', sbOverlaps d pa n = false) (he : sbOverlaps e pa n = true) :
    sbLoad x pa n = if e.pa ≤ pa ∧ pa + n ≤ e.pa + wbytes e.width
      then .serve (BitVec.ofNat 64 (e.data.toNat / 2 ^ (8 * (pa - e.pa)) % 2 ^ (8 * n))) else .wait := by
  have hf : x.sbuf.reverse.find? (fun e => sbOverlaps e pa n) = some e := by
    have hn : l'.reverse.find? (fun e => sbOverlaps e pa n) = none := by simpa using hl
    simp [hx, List.find?_append, hn, he]
  rw [sbLoad, hf]

theorem sbOverlaps_of_covers {e : SbEntry} {pa n : Nat} (hn : 0 < n) (h1 : e.pa ≤ pa) (h2 : pa + n ≤ e.pa + wbytes e.width) :
    sbOverlaps e pa n = true := by
  simp only [sbOverlaps, Bool.and_eq_true, decide_eq_true_eq]; omega

theorem wbytes_pos (w : Width) : 0 < wbytes w := by cases w <;> decide

/-! ## Plain loads (R138) -/

section
variable {s : State} {a b : Reg} {i : Imm} {w : Width}

theorem loadG_ready (h : QueuesReady s [b] [a]) :
    loadG w a b i s = finish (1 + i.n) ([b].contains 30) (if (ea s b i).toNat % wbytes w ≠ 0 then .trap s 0x02 (ea s b i)
      else gAccess s (ea s b i) needR 0 (fun s pa => match sbLoad (myCore s) pa (wbytes w) with
        | .serve x => .done (wr s a x)
        | .wait => retry s (.sbufOverlap pa (wbytes w))
        | .none => .reply (post s (.tauRead (reqOf s (ea s b i) pa) w a)) (a == 31) .dflt)) := runI_ready h ..

theorem loadG_misaligned (h : QueuesReady s [b] [a]) (ha : (ea s b i).toNat % wbytes w ≠ 0) :
    loadG w a b i s = trapMe s 0x02 (ea s b i) := by rw [loadG_ready h, if_pos ha]; rfl
theorem loadG_trap (h : QueuesReady s [b] [a]) (ha : (ea s b i).toNat % wbytes w = 0) {code : Nat}
    (ht : translate s s.cur (ea s b i) needR = .trap code) : loadG w a b i s = trapMe s code (ea s b i) := by
  rw [loadG_ready h, if_neg (not_not.2 ha), gAccess_trap ht]; rfl
theorem loadG_pa (h : QueuesReady s [b] [a]) (ha : (ea s b i).toNat % wbytes w = 0) {pa : Nat}
    (ht : translate s s.cur (ea s b i) needR = .pa pa) :
    loadG w a b i s = finish (1 + i.n) ([b].contains 30) (match sbLoad (myCore s) pa (wbytes w) with
        | .serve x => .done (wr s a x)
        | .wait => retry s (.sbufOverlap pa (wbytes w))
        | .none => .reply (post s (.tauRead (reqOf s (ea s b i) pa) w a)) (a == 31) .dflt) := by
  rw [loadG_ready h, if_neg (not_not.2 ha), gAccess_pa ht]

end

theorem exec_load {a b : Reg} {i : Imm} {w : Width} {ins : Instr}
    (h : (w, ins) ∈ [(Width.d, Instr.ldgD a b i), (.w, .ldgW a b i), (.h, .ldgH a b i), (.b, .ldgB a b i)]) (s : State) :
    exec ins s = .next (loadG w a b i s) := by
  simp only [List.mem_cons, Prod.mk.injEq, List.not_mem_nil, or_false] at h
  obtain ⟨rfl, rfl⟩ | ⟨rfl, rfl⟩ | ⟨rfl, rfl⟩ | ⟨rfl, rfl⟩ := h <;> rfl

/-- Settles O10, by what the newest overlapping entry of the store buffer has for the load. -/
theorem loadsOfSpaceG : Obligations.LoadsOfSpaceG := by
  unfold Obligations.LoadsOfSpaceG
  intro s a b i w ins hi hq
  simp only [ea_eq, exec_load hi]
  refine ⟨fun ha => ?_, fun ha code ht => ?_, fun pa ha ht hn => ?_, fun ha pa e l l' ht hx hl =>
    ⟨fun h1 h2 => ?_, fun ho hc => ?_⟩⟩
  · rw [loadG_misaligned hq ha]
  · rw [loadG_trap hq ha ht]
  · rw [loadG_pa hq ha ht, sbLoad_none hn]; rfl
  · rw [loadG_pa hq ha ht, sbLoad_newest hx hl (sbOverlaps_of_covers (wbytes_pos w) h1 h2), if_pos ⟨h1, h2⟩]; rfl
  · rw [loadG_pa hq ha ht, sbLoad_newest hx hl ho, if_neg hc]; rfl

/-! ## Plain stores (R136, R138) -/

theorem passed_eq (t : State) (len : Nat) (srcs : List Reg) : passed t len srcs = modMe (popQi t (srcs.contains 30))
    (fun u => { u with pc := u.pc + BitVec.ofNat 64 (2 * len), wait := .none }) := rfl
/-- What the end of an instruction leaves as it was. -/
theorem passed_state (t : State) (len : Nat) (srcs : List Reg) :
    passed t len srcs = { t with cores := (passed t len srcs).cores, fab := { t.fab with ord := (passed t len srcs).fab.ord }
                                 fabOut := (passed t len srcs).fabOut } := by
  rw [passed_eq]
  generalize srcs.contains 30 = p
  have h := popQi_state t p
  generalize popQi t p = u at h ⊢
  rw [h]; rfl
@[simp] theorem passed_pending (t : State) (len : Nat) (srcs : List Reg) : (passed t len srcs).pending = t.pending := by
  rw [passed_state]
@[simp] theorem passed_mem (t : State) (len : Nat) (srcs : List Reg) : (passed t len srcs).mem = t.mem := by rw [passed_state]
theorem devByte_passed (t : State) (len : Nat) (srcs : List Reg) (k : Nat) : devByte (passed t len srcs) k = devByte t k :=
  devByte_congr (by rw [passed_state]) (by rw [passed_state]) (by rw [passed_state]) (by rw [passed_state])
    (by rw [passed_state]) k

section
variable {s : State} {a b : Reg} {i : Imm} {w : Width}

theorem storeG_ready (h : QueuesReady s [b, a] []) :
    storeG w a b i s = finish (1 + i.n) ([b, a].contains 30) (if (ea s b i).toNat % wbytes w ≠ 0 then .trap s 0x02 (ea s b i)
      else gAccess s (ea s b i) needW 0 (fun s pa =>
        if 32 ≤ (myCore s).sbuf.length then retry s .sbufRoom else .done (sbPush s pa w (rd s a)))) := runI_ready h ..
theorem storeG_misaligned (h : QueuesReady s [b, a] []) (ha : (ea s b i).toNat % wbytes w ≠ 0) :
    storeG w a b i s = trapMe s 0x02 (ea s b i) := by rw [storeG_ready h, if_pos ha]; rfl
theorem storeG_room (h : QueuesReady s [b, a] []) (ha : (ea s b i).toNat % wbytes w = 0) {pa : Nat}
    (ht : translate s s.cur (ea s b i) needW = .pa pa) (hr : (myCore s).sbuf.length < 32) :
    storeG w a b i s = passed (sbPush s pa w (rd s a)) (1 + i.n) [b, a] := by
  rw [storeG_ready h, if_neg (not_not.2 ha), gAccess_pa ht, if_neg (by omega)]; rfl
theorem storeG_full (h : QueuesReady s [b, a] []) (ha : (ea s b i).toNat % wbytes w = 0) {pa : Nat}
    (ht : translate s s.cur (ea s b i) needW = .pa pa) (hr : 32 ≤ (myCore s).sbuf.length) :
    storeG w a b i s = modMe s (fun t => { t with wait := .retry .sbufRoom }) := by
  rw [storeG_ready h, if_neg (not_not.2 ha), gAccess_pa ht, if_pos hr]; rfl

end

theorem myCore_sbPush (s : State) (pa : Nat) (w : Width) (x : Word) :
    myCore (sbPush s pa w x) = { myCore s with
      sbuf := (myCore s).sbuf ++ [⟨(myCore s).sbNext, s.cur.slot, reqLaunch (me s), pa, w, x, false⟩]
      sbNext := (myCore s).sbNext + 1 } := myCore_modMyCore ..
theorem me_sbPush (s : State) (pa : Nat) (w : Width) (x : Word) : me (sbPush s pa w x) = me s :=
  me_modMyCore_slots _ _ fun _ => rfl

theorem exec_store {a b : Reg} {i : Imm} {w : Width} {ins : Instr}
    (h : (w, ins) ∈ [(Width.d, Instr.stgD a b i), (.w, .stgW a b i), (.h, .stgH a b i), (.b, .stgB a b i)]) (s : State) :
    exec ins s = .next (storeG w a b i s) := by
  simp only [List.mem_cons, Prod.mk.injEq, List.not_mem_nil, or_false] at h
  obtain ⟨rfl, rfl⟩ | ⟨rfl, rfl⟩ | ⟨rfl, rfl⟩ | ⟨rfl, rfl⟩ := h <;> rfl

/-- The oldest entry that has not left leaves as a store at its TAU. -/
theorem exec_storeBufferInject {s : State} {c : Nat} {e : SbEntry}
    (h : (Machine.core s c).sbuf.find? (fun e => !e.sent) = some e) :
    exec .storeBufferInject (facing s (.storeBufferInject c)) = .next (post (modCore (facing s (.storeBufferInject c)) c (fun x =>
      { x with sbuf := x.sbuf.map (fun d => if d.id = e.id then { d with sent := true } else d) }))
      (.tauStore ⟨c, e.id, e.launch, e.pa, e.width, e.data⟩)) := by
  have h' : (Machine.core (facing s (.storeBufferInject c)) c).sbuf.find? (fun e => !e.sent) = some e := h
  rw [show exec .storeBufferInject = execStoreBufferInject from rfl, execStoreBufferInject]
  dsimp only [facing] at h' ⊢
  rw [h']

theorem map_mark_sent {l l' : List SbEntry} {e : SbEntry} (h : ∀ d ∈ l ++ l', d.id ≠ e.id) :
    (l ++ e :: l').map (fun d => if d.id = e.id then { d with sent := true } else d) = l ++ { e with sent := true } :: l' := by
  have hm : ∀ l : List SbEntry, (∀ d ∈ l, d.id ≠ e.id) → l.map (fun d => if d.id = e.id then { d with sent := true } else d) =
    l :=
    fun l hl => (List.map_congr_left fun d hd => if_neg (hl d hd)).trans (List.map_id l)
  rw [List.map_append, List.map_cons, if_pos rfl, hm l fun d hd => h d (by simp [hd]), hm l' fun d hd => h d (by simp [hd])]

/-- Settles O11, by the two forms of a store that is aligned and translated, and by the events of the store buffer. -/
theorem storesOfSpaceG : Obligations.StoresOfSpaceG := by
  unfold Obligations.StoresOfSpaceG
  refine ⟨fun s a b i w ins hi hq => ?_, fun s c => ⟨fun l e l' hs hl he hid => ?_, fun id => ?_⟩⟩
  · simp only [ea_eq, exec_store hi]
    refine ⟨fun ha => ?_, fun ha pa ht => ⟨fun hr => ?_, fun hr => ?_⟩⟩
    · rw [storeG_misaligned hq ha]
    · rw [storeG_room hq ha ht hr]
      refine ⟨_, rfl, ?_, ?_, ?_, fun k => ?_⟩
      · rw [myCore_passed, myCore_sbPush]; rfl
      · rw [me_passed, me_sbPush]
      · rw [passed_pending]; rfl
      · exact (devByte_passed ..).trans (devByte_congr (by rfl) (by rfl) (by rfl) (by rfl) (by rfl) k)
    · rw [storeG_full hq ha ht hr]
      exact ⟨_, rfl, me_modMe .., by rw [myCore_modMe]; rfl⟩
  · have hf : (Machine.core s c).sbuf.find? (fun e => !e.sent) = some e := by
      have : l.find? (fun e => !e.sent) = none := by simpa using hl
      simp [hs, List.find?_append, this, he]
    refine ⟨_, exec_storeBufferInject hf, rfl, ?_, rfl⟩
    rw [core_post, core_modCore_self]
    show (Machine.core s c).sbuf.map _ = _
    rw [hs, map_mark_sent hid]
  · refine ⟨modCore (facing s (.storeAck c id)) c (fun x => { x with sbuf := x.sbuf.filter (fun e => e.id != id) }), rfl, ?_,
    rfl, rfl,
      fun k hk => by rw [core_modCore, if_neg hk]; rfl⟩
    rw [core_modCore_self]
    show (Machine.core s c).sbuf.filter _ = _
    congr 1; funext e; by_cases he : e.id = id <;> simp [he]

/-! ## Requests at the TAU (R4, R298, R353) -/

@[simp] theorem facing_ev (s : State) (e : Ev) : (facing s e).ev = e := rfl

theorem wbytes_le (w : Width) : wbytes w ≤ 8 := by cases w <;> decide

/-- A refused access changes its launch's record, and nothing else. -/
theorem noteRefusal_eq (s : State) (l : Option Nat) (store : Bool) (why : Refuse) :
    ∃ x, noteRefusal s l store why = { s with launches := x } := by
  unfold noteRefusal
  split
  · exact ⟨_, rfl⟩
  · unfold modLaunch; split <;> exact ⟨_, rfl⟩
theorem refusedAt_eq (s : State) (l : Option Nat) (store : Bool) (pa : Nat) :
    ∃ x, refusedAt s l store pa = { s with launches := x } := by
  unfold refusedAt
  split
  · exact noteRefusal_eq ..
  · exact ⟨_, rfl⟩
/-- The states before and after have the same bytes of device memory. -/
def SameMemory (s t : State) : Prop := SameKept s t ∧ t.vaults = s.vaults ∧ t.mem = s.mem
theorem SameMemory.devByte {s t : State} (h : SameMemory s t) (k : Nat) : devByte t k = devByte s k := by
  obtain ⟨⟨hq, hg, hp⟩, hv, hm⟩ := h
  exact devByte_congr hv hq hg hp hm k
theorem SameMemory.trans {s t u : State} (h : SameMemory s t) (k : SameMemory t u) : SameMemory s u := by
  obtain ⟨⟨hq, hg, hp⟩, hv, hm⟩ := h
  obtain ⟨⟨kq, kg, kp⟩, kv, km⟩ := k
  exact ⟨⟨kq.trans hq, kg.trans hg, kp.trans hp⟩, kv.trans hv, km.trans hm⟩
theorem sameMemory_rfl {s : State} : SameMemory s s := ⟨⟨rfl, rfl, rfl⟩, rfl, rfl⟩
theorem sameMemory_facing (s : State) (e : Ev) : SameMemory s (facing s e) := ⟨⟨rfl, rfl, rfl⟩, rfl, rfl⟩
theorem sameMemory_post (s : State) (e : Ev) : SameMemory s (post s e) := ⟨⟨rfl, rfl, rfl⟩, rfl, rfl⟩
theorem sameMemory_touch (s : State) (pa : Nat) : SameMemory s (touch s pa) := ⟨⟨rfl, rfl, rfl⟩, rfl, rfl⟩
theorem sameMemory_noteRefusal (s : State) (l : Option Nat) (store : Bool) (why : Refuse) :
    SameMemory s (noteRefusal s l store why) := by
  obtain ⟨x, h⟩ := noteRefusal_eq s l store why
  rw [h]; exact sameMemory_rfl
theorem sameMemory_refusedAt (s : State) (l : Option Nat) (store : Bool) (pa : Nat) :
    SameMemory s (refusedAt s l store pa) := by
  obtain ⟨x, h⟩ := refusedAt_eq s l store pa
  rw [h]; exact sameMemory_rfl

theorem physRead_congr {s t : State} (h : SameMemory s t) (pa n : Nat) : physRead t pa n = physRead s pa n := by
  have : ∀ n pa, devBytes t pa n = devBytes s pa n := by
    intro n
    induction n with
    | zero => intro; rfl
    | succ n ih => intro pa; rw [devBytes, devBytes, ih, h.devByte]
  rw [physRead, physRead, this]
theorem holds_congr {s t : State} {pa n : Nat} {x : Word} (h : Holds s pa n x) (hm : SameMemory s t) : Holds t pa n x := by
  intro k hk
  rw [hm.devByte]; exact h k hk

/-- A store keeps to what the state before it holds, however the state that it meets differs elsewhere. -/
theorem stored_of_same {s u : State} (h : State.MemOk s) (hu : SameMemory s u) (pa n : Nat) (x : Word) :
    Stored s (physWrite u pa n x) pa n x := by
  have hk := putKepts_same hu.1 pa (leBytes n x.toNat)
  have hw := physWrite_same u pa n x
  refine stored_put h ⟨hw.1.trans hk.1, hw.2.1.trans hk.2.1, hw.2.2.trans hk.2.2⟩ ?_
  rw [physWrite_mem, hu.2.2]
theorem stored_congr {s t u : State} {pa n : Nat} {x : Word} (h : Stored s t pa n x) (hm : SameMemory t u) :
    Stored s u pa n x := by
  intro k hk
  rw [hm.devByte]; exact h k hk

theorem getLast?_post (s : State) (e : Ev) : (post s e).pending.getLast? = some e := List.getLast?_concat ..

/-- A request that is refused is answered trap 0x05; memory stands. -/
theorem tauServe_refuses {s : State} {r : TauReq} {a : TRef} {why : Refuse} (hr : r.rto = .thr a)
    (he : fget s.errs (sectorOf r.pa) = none) (hw : tauRefuses s r.launch r.pa = some why) (reads : Bool) (k : State → State) :
    ∃ t, tauServe s r reads k = .next t ∧ Replied t a (.trap 0x05 r.va []) ∧ SameMemory s t := by
  unfold tauServe
  by_cases hs : tauShuts s r.launch r.pa = true
  · rw [if_pos hs, hr]
    exact ⟨_, rfl, replied_post .., sameMemory_refusedAt ..⟩
  · rw [if_neg hs, if_neg (by simp [eccStops_none he])]
    have ht : tauRefuses (touch (if reads = true then eccRead s r.pa 1 else s) r.pa) r.launch r.pa = some why := by
      rw [eccRead_none he, ite_self]; exact hw
    have hm : SameMemory s (touch (if reads = true then eccRead s r.pa 1 else s) r.pa) := by
      rw [eccRead_none he, ite_self]; exact sameMemory_rfl
    dsimp only
    rw [ht, hr]
    exact ⟨_, rfl, replied_post .., hm.trans (sameMemory_noteRefusal ..)⟩

theorem exec_tauRead (s : State) (r : TauReq) (w : Width) (dst : Reg) :
    exec .tauRead (facing s (.tauRead r w dst)) = tauServe (facing s (.tauRead r w dst)) r true
      (fun s => tauReads s r.pa (fun s =>
      answer s r.rto (.writes [(dst, physRead s r.pa (wbytes w))]))) := rfl
theorem exec_tauRead_serves {s : State} {r : TauReq} (h : TauServes s r.launch r.pa) (w : Width) (dst : Reg) :
    exec .tauRead (facing s (.tauRead r w dst)) = .next (answer (touch (facing s (.tauRead r w dst)) r.pa) r.rto
      (.writes [(dst, physRead (touch (facing s (.tauRead r w dst)) r.pa) r.pa (wbytes w))])) := by
  rw [exec_tauRead, tauServe_serves (h.facing _), tauReads_serves ((h.facing _).touched _)]
theorem exec_tauStore_serves {s : State} {m : StoreMsg} (h : TauServes s m.launch m.pa) :
    exec .tauStore (facing s (.tauStore m)) = .next (post (physWrite (facing s (.tauStore m)) m.pa (wbytes m.width) m.data)
      (.storeAck m.core m.id)) := by
  have h' := h.facing (.tauStore m)
  rw [show exec .tauStore = execTauStore from rfl]
  simp only [execTauStore, facing_ev, h'.1, tauChanges_serves h']
theorem exec_tauStore_refuses {s : State} {m : StoreMsg} {why : Refuse} (h : tauRefuses s m.launch m.pa = some why) :
    exec .tauStore (facing s (.tauStore m)) = .next (post (noteRefusal
      (if why = .poison then touch (facing s (.tauStore m)) m.pa else facing s (.tauStore m)) m.launch true why)
      (.storeAck m.core m.id)) := by
  have h' : tauRefuses (facing s (.tauStore m)) m.launch m.pa = some why := h
  rw [show exec .tauStore = execTauStore from rfl]
  simp only [execTauStore, facing_ev, h']

/-- Settles O12, by the request that the TAU serves and the one that it refuses. -/
theorem tauLoadsAndStores : Obligations.TauLoadsAndStores := by
  unfold Obligations.TauLoadsAndStores
  refine ⟨fun s hok => ⟨fun r w dst a hr h => ?_, fun m h => ?_⟩, fun s why => ⟨fun r w dst a hr he h => ?_, fun m h => ?_⟩⟩
  · rw [exec_tauRead_serves h, hr]
    have hm := (sameMemory_facing s (.tauRead r w dst)).trans (sameMemory_touch _ r.pa)
    rw [physRead_congr hm]
    exact ⟨_, _, rfl, holds_physRead _ _ _ (wbytes_le w), rfl, (hm.trans (sameMemory_post ..)).devByte, rfl⟩
  · rw [exec_tauStore_serves h]
    exact ⟨_, rfl, stored_congr (stored_of_same hok (sameMemory_facing ..) _ _ _) (sameMemory_post ..), physWrite_feEmpty ..,
      getLast?_post ..⟩
  · obtain ⟨t, ht, ha, hm⟩ := tauServe_refuses (s := facing s (.tauRead r w dst)) hr he h true _
    exact ⟨t, (exec_tauRead ..).trans ht, ha, ((sameMemory_facing ..).trans hm).devByte⟩
  · rw [exec_tauStore_refuses h]
    have hm : SameMemory s (if why = .poison then touch (facing s (.tauStore m)) m.pa else facing s (.tauStore m)) := by
      split
      · exact (sameMemory_facing ..).trans (sameMemory_touch ..)
      · exact sameMemory_facing ..
    exact ⟨_, rfl, getLast?_post .., ((hm.trans (sameMemory_noteRefusal ..)).trans (sameMemory_post ..)).devByte⟩

/-! ## The full/empty family (R140 to R143) -/

@[simp] theorem fget_fdel {α : Type} (m : FMap α) (n : Nat) : fget (fdel m n) n = none := by
  induction m with
  | nil => rfl
  | cons e m ih =>
    by_cases h : e.1 = n
    · simpa [fdel, h] using ih
    · simpa [fdel, h, fget] using ih
@[simp] theorem waitersOf_setWaiters (s : State) (word : Nat) (l : List Waiter) : waitersOf (setWaiters s word l) word = l := by
  by_cases h : l = []
  · simp [waitersOf, setWaiters, h]
  · simp [waitersOf, setWaiters, h]
@[simp] theorem resvOf_setResv (s : State) (word : Nat) (l : List Resv) : resvOf (setResv s word l) word = l := by
  by_cases h : l = []
  · simp [resvOf, setResv, h]
  · simp [resvOf, setResv, h]
/-- The bytes of a word of one frame are those before its granule is logged. -/
theorem physRead_logGranule (s : State) {pa : Nat} (ha : pa % 8 = 0) : physRead (logGranule s pa) pa 8 = physRead s pa 8 := by
  by_cases hl : isLogged pa = true
  · have hk : ∀ k, k < 8 → devByte (logGranule s pa) (pa + k) = devByte s (pa + k) := by
      intro k hk
      refine sameBytes_of (by simp) (by simp) (by simp) (by simp) (pa + k) ?_
      obtain ⟨h144, -⟩ := (Bool.and_eq_true ..).mp hl
      have := of_decide_eq_true h144
      unfold frameOf at this ⊢
      omega
    have hh := holds_physRead (logGranule s pa) pa 8 (by omega)
    refine (Holds.eq_physRead (x := physRead (logGranule s pa) pa 8) (fun k h8 => ?_) (by omega)).symm
    rw [hh k h8, if_pos h8, if_pos h8, hk k h8]
  · have : logGranule s pa = s := by simp [logGranule, hl]
    rw [this]
theorem isFull_logGranule (s : State) (pa : Nat) : isFull (logGranule s pa) pa = isFull s pa := by simp [isFull]
theorem sameKept_logGranule (s : State) (pa : Nat) : SameKept s (logGranule s pa) := ⟨by simp, by simp, by simp⟩
theorem waitersOf_logGranule (s : State) (pa word : Nat) : waitersOf (logGranule s pa) word = waitersOf s word := by
  simp [waitersOf]
@[simp] theorem physWrite_waits (s : State) (pa n : Nat) (x : Word) : (physWrite s pa n x).waits = s.waits := by
  obtain ⟨_, _, _, _, _, _, _, _, h⟩ := physPut_eq s pa (leBytes n x.toNat); rw [physWrite, h]

/-- Bytes outside the vaults, and what the records keep there, are as before. -/
def KeepsBytes (s t : State) : Prop := SameKept s t ∧ t.mem = s.mem
theorem KeepsBytes.sameBytes {s t : State} (h : KeepsBytes s t) : SameBytes s t := by
  obtain ⟨⟨hq, hg, hp⟩, hm⟩ := h
  exact sameBytes_of hq hg hp hm
theorem stored_of_keeps {s u : State} (h : State.MemOk s) (hu : KeepsBytes s u) (pa n : Nat) (x : Word) :
    Stored s (physWrite u pa n x) pa n x := by
  obtain ⟨hk, hm⟩ := hu
  obtain ⟨hq, hg, hp⟩ := putKepts_same hk pa (leBytes n x.toNat)
  obtain ⟨wq, wg, wp⟩ := physWrite_same u pa n x
  exact stored_put h ⟨wq.trans hq, wg.trans hg, wp.trans hp⟩ (by rw [physWrite_mem, hm])
theorem stored_keeps {s t u : State} {pa n : Nat} {x : Word} (h : Stored s t pa n x) (hm : KeepsBytes t u) :
    Stored s u pa n x := by
  intro k hk
  rw [hm.sameBytes k hk]; exact h k hk

theorem KeepsBytes.trans {s t u : State} (h : KeepsBytes s t) (k : KeepsBytes t u) : KeepsBytes s u := by
  obtain ⟨⟨hq, hg, hp⟩, hm⟩ := h
  obtain ⟨⟨kq, kg, kp⟩, km⟩ := k
  exact ⟨⟨kq.trans hq, kg.trans hg, kp.trans hp⟩, km.trans hm⟩
theorem keeps_post (s : State) (e : Ev) : KeepsBytes s (post s e) := ⟨⟨rfl, rfl, rfl⟩, rfl⟩
theorem keeps_post_setFull (s : State) (pa : Nat) (b : Bool) (e : Ev) : KeepsBytes s (post (setFull s pa b) e) :=
  ⟨⟨rfl, rfl, rfl⟩, rfl⟩
theorem isFull_post_setFull (s : State) (pa : Nat) (b : Bool) (e : Ev) : isFull (post (setFull s pa b) e) pa = b :=
  isFull_setFull s pa b
theorem sameMemory_setWaiters (s : State) (word : Nat) (l : List Waiter) : SameMemory s (setWaiters s word l) :=
  ⟨⟨rfl, rfl, rfl⟩, rfl, rfl⟩
theorem waitersOf_post (s : State) (e : Ev) (word : Nat) : waitersOf (post s e) word = waitersOf s word := rfl

/-- The state in which a member of the family is served: its pseudo-channel has seen the request. -/
def feSeen (s : State) (r : TauReq) (e : Ev) : State := touch (facing s e) r.pa

theorem feArrive_now {s : State} {r : TauReq} {op : FeOp} (hn : ∀ f, feWants op = some f → isFull s r.pa = f)
    (hv : vaultStalls s r.pa = false) (hw : waitersOf s (r.pa / 8) = []) (data : Word) (dst : Reg) (limit : Option Nat) :
    feArrive s r op data dst limit = feServe s r op data dst := by
  unfold feArrive
  cases hf : feWants op with
  | none => simp [hv, hw, settle]
  | some f => simp [hn f hf, hv, hw, settle]
theorem feArrive_waits {s : State} {r : TauReq} {op : FeOp} {f : Bool} (hf : feWants op = some f) (hn : isFull s r.pa ≠ f)
    (hw : waitFull s r.pa = false) (data : Word) (dst : Reg) (limit : Option Nat) :
    feArrive s r op data dst limit =
      setWaiters s (r.pa / 8) (waitersOf s (r.pa / 8) ++ [.fe r op data dst limit s.cycle]) := by
  unfold feArrive
  simp [hf, hn, hw]

section
variable {s : State} {r : TauReq} {op : FeOp}

theorem exec_feRequest (h : TauServes s r.launch r.pa) (data : Word) (dst : Reg) (limit : Option Nat) :
    exec .feRequest (facing s (.feRequest r op data dst limit)) =
      .next (feArrive (feSeen s r (.feRequest r op data dst limit)) r op data dst limit) := by
  have hi := ((h.facing (.feRequest r op data dst limit)).touched r.pa).2.2.1
  refine Eq.trans (b := tauServe (facing s (.feRequest r op data dst limit)) r (feReads op) (fun s =>
      if feReads op && injFires s r.pa then fireInj s else feArrive s r op data dst limit)) rfl ?_
  rw [tauServe_serves (h.facing _), hi, Bool.and_false, if_neg (by simp), feSeen]

/-- A request whose word is in the wanted state, with nobody waiting, is served. -/
theorem exec_feRequest_now (h : TauServes s r.launch r.pa) (hw : waitersOf s (r.pa / 8) = [])
    (hn : ∀ f, feWants op = some f → isFull s r.pa = f) (data : Word) (dst : Reg) (limit : Option Nat) :
    exec .feRequest (facing s (.feRequest r op data dst limit)) =
      .next (feServe (feSeen s r (.feRequest r op data dst limit)) r op data dst) := by
  have hv := ((h.facing (.feRequest r op data dst limit)).touched r.pa).2.2.2
  exact (exec_feRequest h ..).trans (congrArg _ (feArrive_now (s := feSeen s r (.feRequest r op data dst limit)) hn hv hw ..))

/-- The bytes, the bit and the word that a member of the family finds. -/
theorem feSeen_keeps (s : State) (r : TauReq) (e : Ev) : KeepsBytes s (feSeen s r e) := ⟨⟨rfl, rfl, rfl⟩, rfl⟩
theorem feSeen_logged_keeps (s : State) (r : TauReq) (e : Ev) : KeepsBytes s (logGranule (feSeen s r e) r.pa) := by
  obtain ⟨hq, hg, hp⟩ := sameKept_logGranule (feSeen s r e) r.pa
  exact ⟨⟨hq, hg, hp⟩, logGranule_mem ..⟩
theorem physRead_feSeen {x : Word} (hx : Holds s r.pa 8 x) (e : Ev) : physRead (feSeen s r e) r.pa 8 = x := by
  rw [feSeen, physRead_congr ((sameMemory_facing s e).trans (sameMemory_touch _ r.pa)), hx.eq_physRead (by omega)]

/-! ### What each member does, for a thread -/

variable {a : TRef} (hr : r.rto = .thr a)
include hr

theorem feServe_ldfe (data : Word) (dst : Reg) : feServe s r .ldfe data dst = post (setFull (logGranule s r.pa) r.pa false)
    (.reply a (.writes [(dst, physRead (logGranule s r.pa) r.pa 8)])) := by simp [feServe, feChanges, hr]
theorem feServe_ldff (data : Word) (dst : Reg) : feServe s r .ldff data dst =
    post s (.reply a (.writes [(dst, physRead s r.pa 8)])) := by simp [feServe, feChanges, hr]
theorem feServe_puts (hop : op = .stfe ∨ op = .stff) (data : Word) (dst : Reg) : feServe s r op data dst =
    post (setFull (physWrite (logGranule s r.pa) r.pa 8 data) r.pa true) (.reply a (.writes [])) := by
  obtain rfl | rfl := hop <;> simp [feServe, feChanges, hr]
theorem feServe_ldx (data : Word) (dst : Reg) : feServe s r .ldx data dst =
    post s (.reply a (.writes [(dst, physRead s r.pa 8), (regUp dst 1, b64 (isFull s r.pa))])) := by
  simp [feServe, feChanges, hr]
theorem feServe_fes (b : Bool) (data : Word) (dst : Reg) : feServe s r (.fes b) data dst =
    post (setFull (logGranule s r.pa) r.pa b) (.reply a (.writes [])) := by simp [feServe, feChanges, hr]

end

/-- A wait whose limit has passed is withdrawn, and its thread takes trap 0x0E. -/
theorem exec_fetmoTimeout_only {s : State} {a : TRef} {word : Nat} {r : TauReq} (hr : r.rto = .thr a) (op : FeOp) (d : Word)
    (dst : Reg) {n since : Nat} (hn : n < s.cycle - since) (hs : s.waits = [(word, [.fe r op d dst (some n) since])]) :
    exec .fetmoTimeout (facing s (.fetmoTimeout a)) = .next (post (setWaiters (facing s (.fetmoTimeout a)) word [])
      (.reply a (.trap 0x0E r.va []))) := by
  have ht : isTimed (facing s (.fetmoTimeout a)) a (.fe r op d dst (some n) since) = true := by
    simp [isTimed, hr, overdue, facing, hn]
  have hs' : (facing s (.fetmoTimeout a)).waits = [(word, [.fe r op d dst (some n) since])] := hs
  rw [show exec .fetmoTimeout = execFetmoTimeout from rfl]
  simp [execFetmoTimeout, hs', ht, waiterVa]

/-- Settles O13, by what each member does at a word that nobody waits for, by the wait list that a request joins, and by the one
waiter whose limit has passed. -/
theorem fullEmptyTable : Obligations.FullEmptyTable := by
  unfold Obligations.FullEmptyTable
  refine ⟨fun s r data x dst limit a hok hr ha h hw hx => ?_, fun s r op data dst limit h hw hop => ?_, fun s a word w hs hw =>
    ?_⟩
  · have hlog : ∀ e, physRead (logGranule (feSeen s r e) r.pa) r.pa 8 = x := fun e => by
      rw [physRead_logGranule _ ha, physRead_feSeen hx]
    have hnow := fun (op : FeOp) hn => exec_feRequest_now (op := op) h hw hn data dst limit
    have hput : ∀ e, Stored s (physWrite (logGranule (feSeen s r e) r.pa) r.pa 8 data) r.pa 8 data :=
      fun e => stored_of_keeps hok (feSeen_logged_keeps s r e) _ _ _
    refine ⟨fun hf => ?_, fun hf => ?_, fun hf => ?_, ?_, ?_, fun b => ?_⟩
    · refine ⟨_, (hnow .ldfe fun f e => by cases e; exact hf).trans (congrArg _ (feServe_ldfe hr ..)), ?_, isFull_post_setFull ..,
        ((feSeen_logged_keeps s r _).trans (keeps_post_setFull ..)).sameBytes⟩
      rw [hlog]; exact replied_post ..
    · refine ⟨_, (hnow .ldff fun f e => by cases e; exact hf).trans (congrArg _ (feServe_ldff hr ..)), ?_, hf,
        ((feSeen_keeps s r _).trans (keeps_post ..)).sameBytes⟩
      rw [physRead_feSeen hx]; exact replied_post ..
    · exact ⟨_, (hnow .stfe fun f e => by cases e; exact hf).trans (congrArg _ (feServe_puts hr (.inl rfl) ..)), replied_post ..,
        isFull_post_setFull .., stored_keeps (hput _) (keeps_post_setFull ..)⟩
    · exact ⟨_, (hnow .stff fun f e => by cases e).trans (congrArg _ (feServe_puts hr (.inr rfl) ..)), replied_post ..,
        isFull_post_setFull .., stored_keeps (hput _) (keeps_post_setFull ..)⟩
    · refine ⟨_, (hnow .ldx fun f e => by cases e).trans (congrArg _ (feServe_ldx hr ..)), ?_, rfl,
      ((feSeen_keeps s r _).trans (keeps_post ..)).sameBytes⟩
      rw [physRead_feSeen hx]; exact replied_post ..
    · exact ⟨_, (hnow (.fes b) fun f e => by cases e).trans (congrArg _ (feServe_fes hr ..)), replied_post ..,
      isFull_post_setFull ..,
        ((feSeen_logged_keeps s r _).trans (keeps_post_setFull ..)).sameBytes⟩
  · obtain ⟨f, hf, hn⟩ : ∃ f, feWants op = some f ∧ isFull s r.pa ≠ f := by
      obtain ⟨rfl | rfl, hn⟩ | ⟨rfl, hn⟩ := hop
      · exact ⟨true, rfl, by simp [hn]⟩
      · exact ⟨true, rfl, by simp [hn]⟩
      · exact ⟨false, rfl, by simp [hn]⟩
    refine ⟨_, (exec_feRequest h ..).trans
      (congrArg _ (feArrive_waits (s := feSeen s r (.feRequest r op data dst limit)) hf hn hw ..)), waitersOf_setWaiters ..,
      rfl, fun k => ?_, rfl⟩
    exact (((sameMemory_facing s _).trans (sameMemory_touch _ r.pa)).trans (sameMemory_setWaiters ..)).devByte k
  · obtain ⟨r, op, d, dst, n, since, rfl, hr, hn⟩ := hw
    exact ⟨_, exec_fetmoTimeout_only hr op d dst hn hs, (waitersOf_post ..).trans (waitersOf_setWaiters ..), rfl, rfl⟩

end Sys2Proof.Proofs.DeviceMemory
end

section
/-!
PROOFS. The synchronising instructions of page 1 (R139 to R149), the atomics (R146, R148, R149) and the reservations (R144,
R145) at the TAU.
-/
namespace Sys2Proof.Proofs.Synchronising
open Sys2Proof Sys2Proof.Machine DeviceMemory

/-! ## Requests that go out at once -/

theorem contains_singleton (a b : Reg) : [a].contains b = (a == b) := by
  by_cases h : a = b
  · simp [h]
  · simp [h, Ne.symm h]

/-- The fence before a scoped instruction, where nothing is waited for. -/
theorem fenced_scope {s : State} {sc : Scope} (h : sc ≠ .dflt → FenceOpen s sc) (k : State → Eff) :
    fenced s (sc != .dflt) sc k = k s := by
  by_cases hs : sc = .dflt
  · subst hs; exact fenced_none ..
  · exact fenced_open (h hs) ..

section
variable {s : State} {va : Word} {n pa : Nat} {need : Need}

/-- An instruction whose one request goes out waits for the answer. -/
theorem runI_request {srcs dsts : List Reg} (hq : QueuesReady s srcs dsts) (h : Finds s va n need pa) (len op : Nat)
    (pushes : Bool) (after : Scope) (msg : State → TauReq → Ev) :
    runI len srcs dsts s (fun s => request s va n need op pushes after msg) =
      asked (post s (msg s (reqOf s va pa))) len srcs pushes after := by
  rw [runI_ready hq, request_finds h]; rfl
/-- The same behind the fence of a scope. -/
theorem runI_fenced_request {srcs dsts : List Reg} {sc : Scope} (hq : QueuesReady s srcs dsts) (h : Finds s va n need pa)
    (hf : sc ≠ .dflt → FenceOpen s sc) (len op : Nat) (pushes : Bool) (msg : State → TauReq → Ev) :
    runI len srcs dsts s (fun s => fenced s (sc != .dflt) sc (fun s => request s va n need op pushes sc msg)) =
      asked (post s (msg s (reqOf s va pa))) len srcs pushes sc := by
  rw [runI_ready hq, fenced_scope hf, request_finds h]; rfl

theorem feTimed_fes (b : Bool) : feTimed (.fes b) = false := rfl
theorem waitLimit_untimed (s : State) : waitLimit s false = none := by simp [waitLimit]
theorem feI_finds {op : FeOp} {srcs dsts : List Reg} {b : Reg} {i : Imm} (hq : QueuesReady s srcs dsts)
    (h : Finds s (ea s b i) 8 (feNeed op) pa) (data dst : Reg) :
    feI op srcs dsts data dst b i s = asked (post s (.feRequest (reqOf s (ea s b i) pa) op (rd s data) dst
      (waitLimit s (feTimed op)))) (2 + i.n) srcs (dsts.contains 31) .dflt := by
  rw [feI, runI_ready hq, request_finds h]; rfl

end

/-- A fence of scope `.dom` with nothing to wait for leaves no entry in the store buffer. -/
theorem sbuf_of_fenceOpen {s : State} (h : FenceOpen s .dom) : (myCore s).sbuf = [] := by
  obtain ⟨-, hd⟩ := h
  have hall : (myCore s).sbuf.all (fun e => !((myCore s).sbuf.map (·.id)).contains e.id) = true := by
    simp only [drained, Bool.and_eq_true] at hd
    exact hd.1.2
  cases hx : (myCore s).sbuf with
  | nil => rfl
  | cons e l => simp [hx] at hall

theorem exec_scq_finds {s : State} {a b : Reg} {i : Imm} {pa : Nat} (hq : QueuesReady s [b, a] [])
    (h : Finds s (ea s b i) 8 needW pa) (hr : (me s).resv = some (s.fab.modnum, pa / 8)) (hf : FenceOpen s .dom) :
    exec (.scq a b i) s = .next (asked (post s (.scqRequest (reqOf s (ea s b i) pa) (rd s a) (me s).home)) (2 + i.n) [b, a]
      false .dflt) := by
  obtain ⟨ha, ht, -⟩ := h
  have hb : sbTouches (myCore s) pa 8 = false := by simp [sbTouches, sbuf_of_fenceOpen hf]
  show Host.Outcome.next (runI ..) = _
  rw [runI_ready hq]
  simp only [ha, gAccess_pa ht, hr, fenced_open hf, hb, ne_eq, not_true_eq_false, if_false, Bool.false_eq_true]
  rfl

/-- Settles O14, by the one request that each of them sends. -/
theorem synchronisingRequests : Obligations.SynchronisingRequests := by
  unfold Obligations.SynchronisingRequests
  intro s a b c m i xs pa
  simp only [ea_eq]
  refine ⟨fun hq => ⟨fun h => ?_, fun h => ⟨?_, ?_, fun hr => ?_⟩⟩, fun hq h => ⟨?_, ?_, fun hr hf => ?_⟩, fun hq h full => ?_,
    fun hf => ⟨fun op uns hq h => ?_, fun hq h => ?_, fun hq h => ⟨⟨_, ?_, rfl⟩, fun sc' hx => ?_⟩⟩⟩
  · exact congrArg _ ((feI_finds (op := .ldfe) hq h 0 a).trans (by rw [contains_singleton]; rfl))
  · exact congrArg _ ((feI_finds (op := .ldff) hq h 0 a).trans (by rw [contains_singleton]; rfl))
  · exact congrArg _ ((feI_finds (op := .ldx) hq h 0 a).trans (by rw [contains_singleton]; rfl))
  · show Host.Outcome.next (runI ..) = _
    rw [runI_ready hq]
    simp only [hr, Option.isSome_none, Bool.false_eq_true, and_false, if_false, request_finds h]
    rfl
  · exact congrArg _ (feI_finds (op := .stfe) hq h a 0)
  · exact congrArg _ (feI_finds (op := .stff) hq h a 0)
  · exact exec_scq_finds hq h hr hf
  · exact congrArg _ ((feI_finds (op := .fes full) hq h 0 0).trans (by rw [feTimed_fes, waitLimit_untimed]; rfl))
  · exact congrArg _ (runI_fenced_request hq h hf ..)
  · exact congrArg _ (runI_fenced_request hq h hf ..)
  · exact congrArg _ (runI_fenced_request hq h hf ..)
  · subst hx
    exact congrArg _ (runI_fenced_request hq h hf ..)

/-! ## Atomics at the TAU (R146, R148, R149) -/

/-- The state in which the TAU serves a request: its pseudo-channel has seen it. -/
def seen (s : State) (pa : Nat) (e : Ev) : State := touch (facing s e) pa

theorem sameMemory_seen (s : State) (pa : Nat) (e : Ev) : SameMemory s (seen s pa e) := ⟨⟨rfl, rfl, rfl⟩, rfl, rfl⟩
theorem keeps_seen (s : State) (pa : Nat) (e : Ev) : KeepsBytes s (seen s pa e) := ⟨⟨rfl, rfl, rfl⟩, rfl⟩
theorem serves_seen {s : State} {l : Option Nat} {pa : Nat} (h : TauServes s l pa) (e : Ev) :
    TauServes (seen s pa e) l pa := h
theorem tauServe_seen {s : State} {r : TauReq} (h : TauServes s r.launch r.pa) (e : Ev) (reads : Bool) (k : State → State) :
    tauServe (facing s e) r reads k = .next (k (seen s r.pa e)) := tauServe_serves (h.facing e) reads k
theorem physRead_seen {s : State} {pa n : Nat} {x : Word} (hx : Holds s pa n x) (hn : n ≤ 8) (e : Ev) :
    physRead (seen s pa e) pa n = x := by
  rw [physRead_congr (sameMemory_seen s pa e), hx.eq_physRead hn]

section
variable {s : State} {r : TauReq} {a : TRef} {old : Word}

theorem exec_amoRequest (h : TauServes s r.launch r.pa) (hx : Holds s r.pa 8 old) (op : AmoOp) (uns : Bool) (x y : Word)
    (dst : Reg) :
    let e := Ev.amoRequest r op uns x y dst
    exec .amoRequest (facing s e) = .next (match amoNew op uns old x y with
      | some new => answer (physWrite (seen s r.pa e) r.pa 8 new) r.rto (.writes [(dst, old)])
      | none => answer (seen s r.pa e) r.rto (.writes [(dst, old)])) := by
  intro e
  have h' := serves_seen h e
  rw [show exec .amoRequest = execAmoRequest from rfl]
  simp only [execAmoRequest, facing_ev, e]
  rw [tauServe_seen h, tauReads_serves h', physRead_seen hx (by omega)]
  cases amoNew op uns old x y with
  | none => rfl
  | some new => exact congrArg _ (tauChanges_serves h' _)

theorem exec_amoRequest_some (h : TauServes s r.launch r.pa) (hx : Holds s r.pa 8 old) {op : AmoOp} {uns : Bool}
    {x y new : Word} (hn : amoNew op uns old x y = some new) (dst : Reg) :
    exec .amoRequest (facing s (.amoRequest r op uns x y dst)) = .next
      (answer (physWrite (seen s r.pa (.amoRequest r op uns x y dst)) r.pa 8 new) r.rto (.writes [(dst, old)])) := by
  rw [exec_amoRequest h hx, hn]
theorem exec_amoRequest_none (h : TauServes s r.launch r.pa) (hx : Holds s r.pa 8 old) {op : AmoOp} {uns : Bool}
    {x y : Word} (hn : amoNew op uns old x y = none) (dst : Reg) :
    exec .amoRequest (facing s (.amoRequest r op uns x y dst)) = .next
      (answer (seen s r.pa (.amoRequest r op uns x y dst)) r.rto (.writes [(dst, old)])) := by
  rw [exec_amoRequest h hx, hn]

/-- A value written at its TAU and answered. -/
theorem written_answered (hok : State.MemOk s) (hr : r.rto = .thr a) (e : Ev) (n : Nat) (new : Word) (res : RepRes) :
    let t := answer (physWrite (seen s r.pa e) r.pa n new) r.rto res
    Stored s t r.pa n new ∧ Replied t a res ∧ t.feEmpty = s.feEmpty := by
  intro t
  have ht : t = post (physWrite (seen s r.pa e) r.pa n new) (.reply a res) := by simp only [t, hr, answer_thr]
  rw [ht]
  exact ⟨stored_keeps (stored_of_keeps hok (keeps_seen s r.pa e) _ _ _) (keeps_post ..), replied_post ..,
    physWrite_feEmpty ..⟩

end

theorem extract_byte' {w : Nat} (x : BitVec w) (k : Nat) : BitVec.ofNat 8 (x.toNat / 256 ^ k) = x.extractLsb' (8 * k) 8 := by
  apply BitVec.eq_of_toNat_eq
  simp [BitVec.extractLsb'_toNat, Nat.shiftRight_eq_div_pow, pow_mul]

/-- Bytes stored: where no record keeps one of them, and in general. -/
theorem devByte_physPut {s u : State} (h : State.MemOk s) (hu : KeepsBytes s u) (pa : Nat) (l : List Byte) {k : Nat}
    (hf : 128 ≤ frameOf k) :
    ((∀ j, j < l.length → 128 ≤ frameOf (pa + j) → keptByte s (pa + j) = none) →
      devByte (physPut u pa l) k = if pa ≤ k ∧ k < pa + l.length then l.getD (k - pa) 0 else devByte s k)
    ∧ devByte (physPut u pa l) k = devByte (putKepts { s with mem := (physPut u pa l).mem } pa l) k := by
  obtain ⟨hk, hm⟩ := hu
  have hmem : (physPut u pa l).mem = msets s.mem pa l := by
    obtain ⟨_, _, _, _, _, _, _, _, h⟩ := physPut_eq u pa l; rw [h, ← hm]
  have hsame : SameKept (putKepts s pa l) (physPut u pa l) :=
    putKepts_same ⟨by simp; exact hk.1, by simp; exact hk.2.1, by simp; exact hk.2.2⟩ _ _
  obtain ⟨sq, sg, sp⟩ := hsame
  obtain ⟨uq, ug, up⟩ := putKepts_same (s := s) (t := { s with mem := (physPut u pa l).mem }) ⟨rfl, rfl, rfl⟩ pa l
  constructor
  · intro hn
    obtain ⟨nq, ng, np⟩ := putKepts_none (s := s) (pa := pa) (l := l) hn
    have e := keptByte_congr (sq.trans nq) (sg.trans ng) (sp.trans np) hf
    rw [devByte, e, hmem, mget_msets h]
    split
    · rename_i hr
      have := hn (k - pa) (by omega) (by rw [show pa + (k - pa) = k by omega]; exact hf)
      rw [show pa + (k - pa) = k by omega] at this
      rw [this]; rfl
    · rfl
  · rw [devByte, devByte, keptByte_congr sq sg sp hf, keptByte_congr uq ug up hf, putKepts_mem]

/-- Both words of a cell, as their bytes give them. -/
theorem leNat_devBytes_cell {s : State} {pa : Nat} {x : BitVec 128}
    (h : ∀ k, k < 16 → x.extractLsb' (8 * k) 8 = devByte s (pa + k)) : BitVec.ofNat 128 (leNat (devBytes s pa 16)) = x := by
  have hlt := leNat_lt (devBytes s pa 16)
  rw [devBytes_length] at hlt
  have ht : (BitVec.ofNat 128 (leNat (devBytes s pa 16))).toNat = leNat (devBytes s pa 16) := by
    rw [BitVec.toNat_ofNat, Nat.mod_eq_of_lt (by norm_num at hlt ⊢; exact hlt)]
  apply BitVec.eq_of_getLsbD_eq
  intro i hi
  have hb : (BitVec.ofNat 128 (leNat (devBytes s pa 16))).extractLsb' (8 * (i / 8)) 8 = x.extractLsb' (8 * (i / 8)) 8 := by
    rw [← extract_byte', ht, leNat_byte, devBytes_getD _ _ _ _ (by omega), h _ (by omega)]
  have h2 := congrArg (fun b => b.getLsbD (i % 8)) hb
  simpa only [BitVec.getLsbD_extractLsb', show i % 8 < 8 by omega, decide_true, Bool.true_and,
    show 8 * (i / 8) + i % 8 = i by omega] using h2

theorem exec_amofRequest {s : State} {r : TauReq} {old : Word} (h : TauServes s r.launch r.pa) (hx : Holds s r.pa 4 old)
    (x : Lane) (dst : Reg) :
    exec .amofRequest (facing s (.amofRequest r x dst)) = .next
      (answer (physWrite (seen s r.pa (.amofRequest r x dst)) r.pa 4
        (BitVec.ofNat 64 (addF fp32 .rne false (old.toNat, 0) (x.toNat, 0)).1)) r.rto (.writes [(dst, old)])) := by
  have h' := serves_seen h (.amofRequest r x dst)
  rw [show exec .amofRequest = execAmofRequest from rfl]
  simp only [execAmofRequest, facing_ev]
  rw [tauServe_seen h, tauReads_serves h', tauChanges_serves h', physRead_seen hx (by omega)]
theorem exec_amoxRequest {s : State} {r : TauReq} {old : BitVec 128} (h : TauServes s r.launch r.pa)
    (hx : ∀ k, k < 16 → old.extractLsb' (8 * k) 8 = devByte s (r.pa + k)) (x : BitVec 128) :
    exec .amoxRequest (facing s (.amoxRequest r x)) = .next
      (answer (physPut (seen s r.pa (.amoxRequest r x)) r.pa (leBytes 16 (fxAdd old x).toNat)) r.rto (.writes [])) := by
  have h' := serves_seen h (.amoxRequest r x)
  rw [show exec .amoxRequest = execAmoxRequest from rfl]
  simp only [execAmoxRequest, facing_ev]
  rw [tauServe_seen h, tauReads_serves h', tauChanges_serves h', leNat_devBytes_cell (x := old)]
  intro k hk
  rw [hx k hk, (sameMemory_seen ..).devByte]

/-- The clauses of the integer atomics (R146). -/
theorem amo_at_tau {s : State} {r : TauReq} {x y old : Word} {dst : Reg} {a : TRef} (hok : State.MemOk s) (hr : r.rto = .thr a)
    (h : TauServes s r.launch r.pa) (hx : Holds s r.pa 8 old) {op : AmoOp} {uns : Bool} {new : Word}
    (hn : amoNew op uns old x y = some new) :
    ∃ t, exec .amoRequest (facing s (.amoRequest r op uns x y dst)) = .next t ∧ Stored s t r.pa 8 new
      ∧ Replied t a (.writes [(dst, old)]) ∧ t.feEmpty = s.feEmpty :=
  ⟨_, exec_amoRequest_some h hx hn dst, written_answered hok hr ..⟩
theorem amoNew_sle (old x y : Word) (b : Bool) : amoNew (if b then .min else .max) false old x y =
    some (if b then (if old.toInt ≤ x.toInt then old else x) else (if old.toInt ≤ x.toInt then x else old)) := by
  cases b <;> simp [amoNew, BitVec.sle]
theorem amoNew_ule (old x y : Word) (b : Bool) : amoNew (if b then .min else .max) true old x y =
    some (if b then (if old.toNat ≤ x.toNat then old else x) else (if old.toNat ≤ x.toNat then x else old)) := by
  cases b <;> simp [amoNew, BitVec.ule]

/-! ## Reservations at the TAU (R144, R145) -/

section
variable {s : State} {r : TauReq} {who : TRef} {dst : Reg} {limit : Option Nat}

/-- The state in which a request has joined the queue of its word. -/
def joined (s : State) (r : TauReq) (dst : Reg) (who : TRef) (limit : Option Nat) : State :=
  let u := seen s r.pa (.lrqRequest r dst who limit)
  modThr (setResv u (r.pa / 8) (resvOf s (r.pa / 8) ++ [⟨who, r, dst, limit, s.cycle⟩])) who
    (fun t => { t with resv := some (s.fab.modnum, r.pa / 8) })

theorem exec_lrqRequest (h : TauServes s r.launch r.pa) (hr : r.rto = .thr who) (hw : waitFull s r.pa = false) :
    exec .lrqRequest (facing s (.lrqRequest r dst who limit)) = .next (if resvOf s (r.pa / 8) = [] then
      post (joined s r dst who limit) (.reply who (.writes [(dst, physRead (joined s r dst who limit) r.pa 8)]))
      else joined s r dst who limit) := by
  have h' : TauServes (joined s r dst who limit) r.launch r.pa := h
  have hres : resvOf (seen s r.pa (.lrqRequest r dst who limit)) (r.pa / 8) = resvOf s (r.pa / 8) := rfl
  have hwf : waitFull (seen s r.pa (.lrqRequest r dst who limit)) r.pa = false := hw
  rw [show exec .lrqRequest = execLrqRequest from rfl]
  simp only [execLrqRequest, facing_ev]
  rw [tauServe_seen h, hres, hwf, hr, if_neg (by simp)]
  refine congrArg _ (ite_congr rfl (fun _ => ?_) fun _ => rfl)
  exact tauReads_serves h' _

theorem sameMemory_joined (s : State) (r : TauReq) (dst : Reg) (who : TRef) (limit : Option Nat) :
    SameMemory s (joined s r dst who limit) := ⟨⟨rfl, rfl, rfl⟩, rfl, rfl⟩
theorem resvOf_joined (s : State) (r : TauReq) (dst : Reg) (who : TRef) (limit : Option Nat) :
    resvOf (joined s r dst who limit) (r.pa / 8) = resvOf s (r.pa / 8) ++ [⟨who, r, dst, limit, s.cycle⟩] :=
  resvOf_setResv (seen s r.pa (.lrqRequest r dst who limit)) ..
theorem thr_joined_resv (s : State) (r : TauReq) (dst : Reg) (who : TRef) (limit : Option Nat) :
    (thr (joined s r dst who limit) who).resv = some (s.fab.modnum, r.pa / 8) := by
  rw [joined, thr_modThr_self]

end

/-- What the armed injection and the errors of a read depend on stands through a change of bytes. -/
theorem logGranule_sleinj (s : State) (pa : Nat) : (logGranule s pa).sl.sleinj = s.sl.sleinj := by
  unfold logGranule
  split
  · rfl
  · dsimp only
    split
    · obtain ⟨p, q, h⟩ := wantSeal_eq _
      rw [h]
    · rfl
theorem physWrite_sleinj (s : State) (pa n : Nat) (x : Word) : (physWrite s pa n x).sl.sleinj = s.sl.sleinj := by
  rw [physWrite, physPut]
  generalize hu : logGranule (touch s pa) pa = u
  obtain ⟨_, _, _, h⟩ := putKepts_eq { u with mem := msets u.mem pa (leBytes n x.toNat) } pa (leBytes n x.toNat)
  rw [h, ← hu]
  exact logGranule_sleinj ..
theorem physPut_feEmpty (s : State) (pa : Nat) (l : List Byte) : (physPut s pa l).feEmpty = s.feEmpty := by
  obtain ⟨_, _, _, _, _, _, _, _, h⟩ := physPut_eq s pa l; rw [h]
theorem physWrite_errs (s : State) (pa n : Nat) (x : Word) : (physWrite s pa n x).errs = s.errs := by
  obtain ⟨_, _, _, _, _, _, _, _, h⟩ := physPut_eq s pa (leBytes n x.toNat); rw [physWrite, h]
theorem tauRefuses_congr {s t : State} (hp : t.pat = s.pat) (hl : t.launches = s.launches) (hq : t.poison = s.poison)
    (l : Option Nat) (pa : Nat) : tauRefuses t l pa = tauRefuses s l pa := by
  simp only [tauRefuses, inGuard, ownsFrame, patEnt, hp, hl, hq]
  rfl

/-- No injection is armed. -/
theorem injFires_unarmed {s : State} (h : s.sl.sleinj.toNat % 2 = 0) (pa : Nat) : injFires s pa = false := by
  simp [injFires, h]
theorem sectorOf_word {pa k : Nat} (ha : pa % 8 = 0) (hk : k < 8) : sectorOf (pa + k) = sectorOf pa := by
  unfold sectorOf; omega
theorem eccRead_word {s : State} {pa : Nat} (ha : pa % 8 = 0) (h : fget s.errs (sectorOf pa) = none) : eccRead s pa 8 = s := by
  unfold eccRead
  split
  · rfl
  · rw [show sectorOf (pa + 8 - 1) + 1 - sectorOf pa = 1 by unfold sectorOf; omega]
    simp [eccSector, h]
/-- A read of a word that finds no error and no injection. -/
theorem lookAt_word {α : Type} {s : State} {pa : Nat} (ha : pa % 8 = 0) (h : fget s.errs (sectorOf pa) = none)
    (hi : injFires s pa = false) (stop ok : State → α) : lookAt s pa 8 stop ok = ok (touch s pa) := by
  rw [lookAt, eccStops_none h, hi, eccRead_word ha h]; rfl

/-- The reservation passes to a waiter that its TAU refuses nothing: it has the word. -/
theorem resvPass_next {s : State} {word : Nat} {n : Resv} {l : List Resv} (ht : (resvOf s word).tail = n :: l)
    (he : fget s.errs (sectorOf (8 * word)) = none) (hi : s.sl.sleinj.toNat % 2 = 0)
    (hf : tauRefuses s n.req.launch (8 * word) = none) :
    resvPass s word = answer (touch (setResv s word (n :: l)) (8 * word)) n.req.rto
      (.writes [(n.dst, physRead (touch (setResv s word (n :: l)) (8 * word)) (8 * word) 8)]) := by
  have hf' : tauRefuses (touch (setResv s word (n :: l)) (8 * word)) n.req.launch (8 * word) = none := hf
  have he' : fget (setResv s word (n :: l)).errs (sectorOf (8 * word)) = none := he
  rw [resvPass, ht, List.length_cons, resvServe, resvOf_setResv]
  dsimp only
  rw [lookAt_word (by omega) he' (injFires_unarmed hi _), hf']
theorem resvPass_nobody {s : State} {word : Nat} (ht : (resvOf s word).tail = []) : resvPass s word = setResv s word [] := by
  rw [resvPass, ht]; rfl

/-- What an answer leaves: threads, queues of reservations and memory. -/
theorem answer_thr_eq (s : State) (rto : ReplyTo) (res : RepRes) :
    ∃ p f o, answer s rto res = { s with pending := p, fab := f, fabOut := o } := by
  unfold answer
  split
  · exact ⟨_, _, _, rfl⟩
  · split <;> exact ⟨_, _, _, rfl⟩
  · exact ⟨_, _, _, rfl⟩

/-- The state in which a `scq` has stored and been answered. -/
def scqDone (s : State) (r : TauReq) (data : Word) (who : TRef) : State :=
  post (modThr (physWrite (seen s r.pa (.scqRequest r data who)) r.pa 8 data) who (fun t => { t with resv := none }))
    (.reply who (.writes []))

section
variable {s : State} {r : TauReq} {who : TRef} {data : Word}

theorem exec_scqRequest (h : TauServes s r.launch r.pa) (hr : r.rto = .thr who) :
    exec .scqRequest (facing s (.scqRequest r data who)) = .next (resvPass (scqDone s r data who) (r.pa / 8)) := by
  have h' := serves_seen h (.scqRequest r data who)
  rw [show exec .scqRequest = execScqRequest from rfl]
  simp only [execScqRequest, facing_ev]
  rw [tauServe_seen h, tauChanges_serves h', hr]
  rfl
theorem stored_scqDone (hok : State.MemOk s) : Stored s (scqDone s r data who) r.pa 8 data :=
  stored_keeps (stored_of_keeps hok (keeps_seen s r.pa _) _ _ _) ⟨⟨rfl, rfl, rfl⟩, rfl⟩
theorem resvOf_scqDone (word : Nat) : resvOf (scqDone s r data who) word = resvOf s word := by
  show resvOf (physWrite _ _ _ _) word = _
  rw [resvOf, physWrite_resvs]; rfl
theorem thr_scqDone_resv : (thr (scqDone s r data who) who).resv = none := by
  rw [scqDone, thr_post, thr_modThr_self]
theorem scqDone_errs : (scqDone s r data who).errs = s.errs := physWrite_errs ..
theorem scqDone_sleinj : (scqDone s r data who).sl.sleinj = s.sl.sleinj := physWrite_sleinj ..
theorem tauRefuses_physWrite (s : State) (pa n : Nat) (x : Word) (l : Option Nat) (q : Nat) :
    tauRefuses (physWrite s pa n x) l q = tauRefuses s l q := by
  obtain ⟨_, _, _, _, _, _, _, _, h⟩ := physPut_eq s pa (leBytes n x.toNat)
  exact tauRefuses_congr (by rw [physWrite, h]) (by rw [physWrite, h]) (by rw [physWrite, h]) l q
theorem tauRefuses_scqDone (l : Option Nat) (pa : Nat) : tauRefuses (scqDone s r data who) l pa = tauRefuses s l pa :=
  tauRefuses_physWrite (seen s r.pa (.scqRequest r data who)) ..

/-- After a `scq` the word is given to the next waiter, and memory stands as it stored it. -/
theorem scq_passes (hok : State.MemOk s) (ha : r.pa % 8 = 0) (h : TauServes s r.launch r.pa) (hi : s.sl.sleinj.toNat % 2 = 0)
    (hfr : 128 ≤ frameOf r.pa) (hk : ∀ k, k < 8 → keptByte s (r.pa + k) = none)
    (hn : ∀ n, (resvOf s (r.pa / 8)).tail.head? = some n → tauRefuses s n.req.launch r.pa = none) :
    let t := resvPass (scqDone s r data who) (r.pa / 8)
    Stored s t r.pa 8 data ∧ (thr t who).resv = none ∧ resvOf t (r.pa / 8) = (resvOf s (r.pa / 8)).tail
      ∧ (resvOf s (r.pa / 8)).tail.head?.all (fun n => match n.req.rto with
          | .thr b => t.pending.getLast? == some (.reply b (.writes [(n.dst, data)]))
          | _ => true) = true := by
  intro t
  have hp : 8 * (r.pa / 8) = r.pa := by omega
  have htail : (resvOf (scqDone s r data who) (r.pa / 8)).tail = (resvOf s (r.pa / 8)).tail := by rw [resvOf_scqDone]
  cases hl : (resvOf s (r.pa / 8)).tail with
  | nil =>
    have ht : t = setResv (scqDone s r data who) (r.pa / 8) [] := resvPass_nobody (htail.trans hl)
    rw [ht]
    exact ⟨stored_keeps (stored_scqDone hok) ⟨⟨rfl, rfl, rfl⟩, rfl⟩, thr_scqDone_resv, resvOf_setResv .., rfl⟩
  | cons n l =>
    have hst : Stored s (touch (setResv (scqDone s r data who) (r.pa / 8) (n :: l)) r.pa) r.pa 8 data :=
      stored_keeps (stored_scqDone hok) ⟨⟨rfl, rfl, rfl⟩, rfl⟩
    have hread : physRead (touch (setResv (scqDone s r data who) (r.pa / 8) (n :: l)) r.pa) r.pa 8 = data := by
      refine Holds.eq_physRead (fun k h8 => ?_) (by omega)
      have hfk : 128 ≤ frameOf (r.pa + k) := by unfold frameOf at hfr ⊢; omega
      rw [if_pos h8, (hst (r.pa + k) hfk).1 fun j hj _ => hk j hj, if_pos (by omega)]
      congr 2; omega
    have ht := resvPass_next (s := scqDone s r data who) (htail.trans hl) (by rw [scqDone_errs, hp]; exact h.2.1)
      (by rw [scqDone_sleinj]; exact hi) (by rw [tauRefuses_scqDone, hp]; exact hn n (by rw [hl]; rfl))
    rw [hp, hread] at ht
    generalize hu : touch (setResv (scqDone s r data who) (r.pa / 8) (n :: l)) r.pa = u at ht hst
    obtain ⟨p, f, o, ha⟩ := answer_thr_eq u n.req.rto (.writes [(n.dst, data)])
    have hru : resvOf u (r.pa / 8) = n :: l := by rw [← hu]; exact resvOf_setResv ..
    have hwu : (thr u who).resv = none := by rw [← hu]; exact thr_scqDone_resv
    rw [show t = _ from ht]
    refine ⟨stored_keeps hst ?_, ?_, ?_, ?_⟩
    · rw [ha]; exact ⟨⟨rfl, rfl, rfl⟩, rfl⟩
    · rw [ha]; exact hwu
    · rw [ha]; exact hru
    · cases hto : n.req.rto <;> simp [hto]

end

/-- Settles O15, by the value that each operation computes, by the bytes that a store leaves, and by the queue of a word's
reservations. -/
theorem atomicsAtTheTau : Obligations.AtomicsAtTheTau := by
  unfold Obligations.AtomicsAtTheTau
  refine ⟨fun s r x y old dst a hok hr h hx => ⟨fun u => ⟨?_, ?_, ?_, ?_, ?_⟩, ?_, ?_, ?_, ?_, fun u he => ?_, fun u hne => ?_⟩,
    fun s r dst a hok hr h => ⟨fun x old hx => ?_, fun x old hx => ?_⟩,
    fun s r dst who limit data x hok hr ha h hx hi => ⟨fun hw => ?_, fun hf hk hn => ?_⟩⟩
  · exact amo_at_tau (op := .add) hok hr h hx rfl
  · exact amo_at_tau (op := .and) hok hr h hx rfl
  · exact amo_at_tau (op := .or) hok hr h hx rfl
  · exact amo_at_tau (op := .xor) hok hr h hx rfl
  · exact amo_at_tau (op := .swap) hok hr h hx rfl
  · exact amo_at_tau hok hr h hx (amoNew_sle old x y true)
  · exact amo_at_tau hok hr h hx (amoNew_sle old x y false)
  · exact amo_at_tau hok hr h hx (amoNew_ule old x y true)
  · exact amo_at_tau hok hr h hx (amoNew_ule old x y false)
  · exact amo_at_tau (op := .cas) hok hr h hx (if_pos he)
  · refine ⟨_, exec_amoRequest_none (op := .cas) h hx (if_neg hne) dst, ?_⟩
    rw [hr]
    exact ⟨((sameMemory_seen s r.pa _).trans (sameMemory_post ..)).devByte, replied_post .., rfl, rfl⟩
  · exact ⟨_, exec_amofRequest h hx x dst, written_answered hok hr ..⟩
  · refine ⟨_, exec_amoxRequest h hx x, ?_⟩
    rw [hr, answer_thr]
    have hb := fun k hf => devByte_physPut hok (keeps_seen s r.pa (.amoxRequest r x)) r.pa (leBytes 16 (fxAdd old x).toNat)
      (k := k) hf
    refine ⟨fun k hf hn => ?_, fun k hf => ?_, replied_post .., ?_⟩
    · rw [(sameMemory_post ..).devByte, (hb k hf).1 (by rw [leBytes_length]; exact hn), leBytes_length]
      split
      · rw [leBytes_getD _ _ _ (by omega), extract_byte']
      · rfl
    · rw [(sameMemory_post ..).devByte]; exact (hb k hf).2
    · exact physPut_feEmpty (seen s r.pa (.amoxRequest r x)) ..
  · have hj := exec_lrqRequest (dst := dst) (limit := limit) h hr hw
    refine ⟨_, hj, ?_⟩
    have hread : physRead (joined s r dst who limit) r.pa 8 = x := by
      rw [physRead_congr (sameMemory_joined ..), hx.eq_physRead (by omega)]
    rw [hread]
    by_cases hn : resvOf s (r.pa / 8) = []
    · rw [if_pos hn, if_pos hn]
      exact ⟨resvOf_joined .., thr_joined_resv .., ((sameMemory_joined ..).trans (sameMemory_post ..)).devByte, rfl⟩
    · rw [if_neg hn, if_neg hn, List.append_nil]
      exact ⟨resvOf_joined .., thr_joined_resv .., (sameMemory_joined ..).devByte, rfl⟩
  · exact ⟨_, exec_scqRequest h hr, scq_passes hok ha h hi hf hk hn⟩

end Sys2Proof.Proofs.Synchronising
end

section
/-!
PROOFS. What an answer does to the thread that waits for it (R12, R15, R147, R300).
-/
namespace Sys2Proof.Proofs.Replies
open Sys2Proof Sys2Proof.Machine DeviceMemory

/-! ## The parts of an answer's arrival (R12, R15, R300) -/

@[simp] theorem thr_ackQi (s : State) (c : Nat) (a : TRef) : thr (ackQi s c) a = thr s a := by simp [thr]
/-- A change of a core that keeps its slots keeps its threads. -/
theorem thr_modCore_slots (s : State) (c : Nat) (f : Core → Core) (hf : ∀ x, (f x).slots = x.slots) (a : TRef) :
    thr (modCore s c f) a = thr s a := by
  rw [thr_modCore]
  split
  · rename_i h; rw [slotOf, hf, thr, h]; rfl
  · rfl
@[simp] theorem thr_endHolds (s : State) (c : Nat) (pops pushes : Bool) (a : TRef) : thr (endHolds s c pops pushes) a = thr s
    a := by
  unfold endHolds; rw [thr_modCore_slots]; intro; rfl
theorem core_endHolds_self (s : State) (c : Nat) (pops pushes : Bool) : Machine.core (endHolds s c pops pushes) c =
    { Machine.core s c with
      qoHeld := if pushes then (Machine.core s c).qoHeld - 1 else (Machine.core s c).qoHeld
      qoRep := if pushes then false else (Machine.core s c).qoRep
      qiHeld := if pops then (Machine.core s c).qiHeld - 1 else (Machine.core s c).qiHeld } := core_modCore_self ..

/-- Registers written one after another, none of them `g0` or `qo`: the thread's registers, and not `qi`. -/
theorem foldl_wrAt {s : State} {a : TRef} {l : List (Reg × Word)} (hl : ∀ e ∈ l, e.1 ≠ 0 ∧ e.1 ≠ 31) :
    let t := l.foldl (fun s e => wrAt s a e.1 e.2) s
    thr t a = { thr s a with g := l.foldl (fun g e => g.set e.1 e.2) (thr s a).g }
      ∧ (Machine.core t a.core).up = (Machine.core s a.core).up
      ∧ t.mem = s.mem ∧ t.pending = s.pending := by
  induction l generalizing s with
  | nil => exact ⟨rfl, rfl, rfl, rfl⟩
  | cons e l ih =>
    obtain ⟨h0, h31⟩ := hl e (List.mem_cons_self ..)
    have hw : wrAt s a e.1 e.2 = modThr s a (fun t => { t with g := t.g.set e.1 e.2 }) := by
      rw [wrAt, if_neg h0, if_neg h31]
    obtain ⟨ht, hc, hm, hp⟩ := @ih (wrAt s a e.1 e.2) fun d hd => hl d (List.mem_cons_of_mem _ hd)
    refine ⟨ht.trans ?_, hc.trans ?_, hm.trans ?_, hp.trans ?_⟩
    · rw [hw, thr_modThr_self]; rfl
    · rw [hw, core_modThr, if_pos rfl]; rfl
    · rw [hw]; rfl
    · rw [hw]; rfl

theorem mem_ackQi (s : State) (c : Nat) : (ackQi s c).mem = s.mem := by rw [ackQi_state]
theorem pending_ackQi (s : State) (c : Nat) : (ackQi s c).pending = s.pending := by rw [ackQi_state]

theorem exec_reply (s : State) (a : TRef) (res : RepRes) :
    exec .reply (facing s (.reply a res)) = .next (replyAt (facing s (.reply a res)) a res) := rfl

/-- The state in which the queues of the core have what the instruction held back. -/
def freed (s : State) (a : TRef) (pops pushes : Bool) : State :=
  let u := endHolds s a.core pops pushes
  if pops then ackQi u a.core else u
theorem thr_freed (s : State) (a : TRef) (pops pushes : Bool) : thr (freed s a pops pushes) a = thr s a := by
  unfold freed; dsimp only; split <;> simp
theorem freed_mem (s : State) (a : TRef) (pops pushes : Bool) : (freed s a pops pushes).mem = s.mem := by
  unfold freed; dsimp only; split
  · rw [mem_ackQi]; rfl
  · rfl
theorem freed_pending (s : State) (a : TRef) (pops pushes : Bool) : (freed s a pops pushes).pending = s.pending := by
  unfold freed; dsimp only; split
  · rw [pending_ackQi]; rfl
  · rfl
theorem core_freed (s : State) (a : TRef) (pops pushes : Bool) :
    Machine.core (freed s a pops pushes) a.core = Machine.core (endHolds s a.core pops pushes) a.core := by
  unfold freed; dsimp only; split <;> simp

/-- An instruction behind which no fence stands is complete, and ready from the next cycle. -/
def complete (len now : Nat) (t : Thread) : Thread :=
  { t with pc := t.pc + BitVec.ofNat 64 (2 * len), wait := .none, long := false, readyAt := max t.readyAt (now + 1) }

theorem replyWrites_dflt (s : State) (a : TRef) (len : Nat) (pops : Bool) (l : List (Reg × Word)) :
    replyWrites s a len pops false .dflt l =
      let u := l.foldl (fun s e => wrAt s a e.1 e.2) (freed s a pops false)
      modThr u a (complete len u.cycle) := rfl

/-- An answer of registers, without a place in `qo` and without a second fence, completes the instruction. -/
theorem replyWrites_plain {s : State} {a : TRef} {l : List (Reg × Word)} (hl : ∀ e ∈ l, e.1 ≠ 0 ∧ e.1 ≠ 31) (len : Nat)
    (pops : Bool) :
    let t := replyWrites s a len pops false .dflt l
    (thr t a).pc = (thr s a).pc + BitVec.ofNat 64 (2 * len) ∧ (thr t a).wait = .none
      ∧ (thr t a).g = l.foldl (fun g e => g.set e.1 e.2) (thr s a).g ∧ t.mem = s.mem ∧ t.pending = s.pending := by
  intro t
  obtain ⟨ht, -, hm, hp⟩ := @foldl_wrAt (freed s a pops false) a l hl
  have e : t = _ := replyWrites_dflt ..
  rw [e]
  dsimp only
  rw [thr_modThr_self, ht, thr_freed]
  exact ⟨rfl, rfl, rfl, hm.trans (freed_mem ..), hp.trans (freed_pending ..)⟩

/-- R96: a push that comes while the instruction is in the pipeline has counted since the start of the cycle. -/
def uncount (now : Nat) (x : Core) : Core := if now < x.qoBusy then { x with dnIn := x.dnIn - 1 } else x
theorem uncount_slots (now : Nat) (x : Core) : (uncount now x).slots = x.slots := by unfold uncount; split <;> rfl
theorem uncount_down (now : Nat) (x : Core) : (uncount now x).down = x.down := by unfold uncount; split <;> rfl
theorem uncount_qoHeld (now : Nat) (x : Core) : (uncount now x).qoHeld = x.qoHeld := by unfold uncount; split <;> rfl

theorem replyWrites_qo (s : State) (a : TRef) (len : Nat) (pops : Bool) (x : Word) :
    replyWrites s a len pops true .dflt [(31, x)] =
      let u := freed s a pops true
      let v := modCore (modCore u a.core (fun c => pushQo c u.cycle ⟨x, false⟩)) a.core (uncount u.cycle)
      modThr v a (complete len v.cycle) := rfl

/-- An answer for `qo`: the push, and the place held for it free. -/
theorem replyWrites_push (s : State) (a : TRef) (len : Nat) (pops : Bool) (x : Word) :
    let t := replyWrites s a len pops true .dflt [(31, x)]
    (Machine.core t a.core).down = (Machine.core s a.core).down ++ [⟨x, false⟩]
      ∧ (Machine.core t a.core).qoHeld = (Machine.core s a.core).qoHeld - 1 ∧ (thr t a).g = (thr s a).g
      ∧ (thr t a).wait = .none := by
  intro t
  have e : t = _ := replyWrites_qo ..
  rw [e]
  dsimp only
  rw [core_modThr, if_pos rfl, core_modCore_self, core_modCore_self, core_freed, core_endHolds_self, thr_modThr_self,
    thr_modCore_slots _ _ _ (uncount_slots _), thr_modCore_slots _ _ _ (fun _ => pushQo_slots ..), thr_freed]
  refine ⟨?_, ?_, rfl, rfl⟩
  · show (uncount _ _).down = _
    rw [uncount_down, pushQo_down]
  · show (uncount _ _).qoHeld = _
    rw [uncount_qoHeld, pushQo_qoHeld]; rfl

/-! ## An answer that is a trap (R300) -/

/-- R15, R91: an entry taken from `qi` stands at its head again. -/
theorem giveBack_spec (s : State) (a : TRef) (popped : Option QEntry) :
    thr (giveBack s a popped false) a = thr s a
      ∧ (Machine.core (giveBack s a popped false) a.core).up = popped.toList ++ (Machine.core s a.core).up := by
  have hq : ∀ (x : Core) (now : Nat), (qTick x now).slots = x.slots ∧ (qTick x now).up = x.up := by
    intro x now; unfold qTick; split <;> exact ⟨rfl, rfl⟩
  unfold giveBack
  dsimp only
  rw [core_modCore_self, core_endHolds_self, thr_modCore_slots, thr_endHolds]
  · cases popped with
    | none => exact ⟨rfl, (hq _ _).2⟩
    | some e => exact ⟨rfl, congrArg (e :: ·) (hq _ _).2⟩
  · intro x
    cases popped with
    | none => exact (hq _ _).1
    | some e => exact (hq _ _).1

theorem core_congr {s t : State} (h : t.cores = s.cores) (c : Nat) : Machine.core t c = Machine.core s c := by
  rw [Machine.core, h]; rfl
theorem thr_congr {s t : State} (h : t.cores = s.cores) (a : TRef) : thr t a = thr s a := by
  rw [thr, core_congr h]; rfl
theorem foldl_post_cores {α : Type} (f : State → α → Ev) (l : List α) (s : State) :
    (l.foldl (fun s p => post s (f s p)) s).cores = s.cores := by
  induction l generalizing s with
  | nil => rfl
  | cons p l ih => exact (ih _).trans rfl
/-- The answers that end a STEP leave threads and queues. -/
theorem endStep_spec (s : State) (a : TRef) :
    thr (endStep a s) a = thr s a ∧ (Machine.core (endStep a s) a.core).up = (Machine.core s a.core).up := by
  unfold endStep
  dsimp only
  split
  · exact ⟨rfl, rfl⟩
  · rw [thr_congr (foldl_post_cores ..), core_congr (foldl_post_cores ..), core_modCore_self, thr_modCore_slots]
    · exact ⟨rfl, rfl⟩
    · intro; rfl

theorem replyTrap_eq (s : State) (a : TRef) (popped : Option QEntry) (code : Nat) (tval : Word) (l : List (Reg × Word)) :
    replyTrap s a popped false code tval l =
      let w := l.foldl (fun s e => wrAt s a e.1 e.2) (giveBack s a popped false)
      endStep a (modThr (trapAt w a code tval) a (fun t => { t with long := false, readyAt := max t.readyAt (w.cycle + 1) })) :=
        rfl
/-- An answer that is a trap, for a thread outside its handler that has one. -/
theorem replyTrap_enters {s : State} {a : TRef} {l : List (Reg × Word)} (hth : (thr s a).th = false) (hv : (thr s a).tvec ≠ 0)
    (hl : ∀ e ∈ l, e.1 ≠ 0 ∧ e.1 ≠ 31) (popped : Option QEntry) (code : Nat) (tval : Word) :
    let t := replyTrap s a popped false code tval l
    (thr t a).pc = (thr s a).tvec ∧ (thr t a).tepc = (thr s a).pc ∧ (thr t a).tcause = BitVec.ofNat 64 code
      ∧ (thr t a).tval = tval ∧ (thr t a).th = true ∧ (thr t a).g = l.foldl (fun g e => g.set e.1 e.2) (thr s a).g
      ∧ (Machine.core t a.core).up = popped.toList ++ (Machine.core s a.core).up := by
  intro t
  obtain ⟨hbt, hbu⟩ := giveBack_spec s a popped
  obtain ⟨ht, hu, -, -⟩ := @foldl_wrAt (giveBack s a popped false) a l hl
  generalize hw : l.foldl (fun s e => wrAt s a e.1 e.2) (giveBack s a popped false) = w at ht hu
  rw [hbt] at ht
  rw [hbu] at hu
  have htar : trapTarget w (thr w a) = some (thr s a).tvec := by
    rw [trapTarget, if_pos (by rw [ht]; exact hv), ht]
  have e : t = endStep a (modThr (trapAt w a code tval) a (fun t =>
      { t with long := false, readyAt := max t.readyAt (w.cycle + 1) })) := by
    rw [show t = _ from replyTrap_eq .., hw]
  obtain ⟨h1, h2⟩ := endStep_spec (modThr (trapAt w a code tval) a (fun t =>
      { t with long := false, readyAt := max t.readyAt (w.cycle + 1) })) a
  rw [← e] at h1 h2
  rw [h1, h2, thr_modThr_self, core_modThr, if_pos rfl, trapAt_enter (by rw [ht]; exact hth) htar, thr_modThr_self,
    core_modThr, if_pos rfl, ht]
  exact ⟨rfl, rfl, rfl, rfl, rfl, rfl, hu⟩

section
variable {s : State} {a : TRef} {len : Nat} {popped : Option QEntry} {pushes : Bool}

theorem replyAt_writes (h : (thr s a).wait = .reply len popped pushes .dflt) (l : List (Reg × Word)) :
    replyAt s a (.writes l) = replyWrites s a len popped.isSome pushes .dflt l := by rw [replyAt, h]
theorem replyAt_trap (h : (thr s a).wait = .reply len popped pushes .dflt) (code : Nat) (tval : Word) (l : List (Reg × Word)) :
    replyAt s a (.trap code tval l) = replyTrap s a popped pushes code tval l := by rw [replyAt, h]
theorem replyAt_unasked (h : ∀ n p k c, (thr s a).wait ≠ .reply n p k c) (res : RepRes) : replyAt s a res = s := by
  unfold replyAt
  split
  · rename_i hw; exact absurd hw (h _ _ _ _)
  · rfl

end

/-- Settles O16, by the kinds of answer that its clauses name. -/
theorem replyCompletes : Obligations.ReplyCompletes := by
  unfold Obligations.ReplyCompletes
  intro s a len popped
  refine ⟨fun l hw hl => ?_, fun x hw => ?_, fun code tval l hw hth hv hl => ?_, fun res hw => ?_⟩
  · exact ⟨_, (exec_reply ..).trans (congrArg _ (replyAt_writes (s := facing s (.reply a (.writes l))) hw l)),
      replyWrites_plain (s := facing s _) hl len popped.isSome⟩
  · exact ⟨_, (exec_reply ..).trans (congrArg _ (replyAt_writes (s := facing s (.reply a (.writes [(31, x)]))) hw _)),
      replyWrites_push (facing s _) a len popped.isSome x⟩
  · exact ⟨_, (exec_reply ..).trans (congrArg _ (replyAt_trap (s := facing s (.reply a (.trap code tval l))) hw code tval l)),
      replyTrap_enters (s := facing s (.reply a (.trap code tval l))) hth hv hl popped code tval⟩
  · exact (exec_reply ..).trans (congrArg _ (replyAt_unasked (s := facing s (.reply a res)) hw res))

end Sys2Proof.Proofs.Replies
end

section
/-!
PROOFS. Remote updates (R150) and chained loads (R151 to R154).
-/
namespace Sys2Proof.Proofs.RemoteAccess
open Sys2Proof Sys2Proof.Machine DeviceMemory Replies

/-! ## Remote updates (R150) -/

/-- R378: this module takes remote updates. -/
theorem hasCap_own (s : State) : hasCap s s.fab.modnum 19 = true := by
  rw [hasCap, capOf, if_pos rfl]; decide

/-- The UPDATE of a `rupd` to a word of this module. -/
def updateOf (s : State) (a b : Reg) (i : Imm) (pa : Nat) : UpdateMsg :=
  { teller := tellerOf pa, ident := identOf s (me s) false, target := relTarget s i.v
    words := [rd s a, rd s (regUp a 1), rd s (regUp a 2), rd s (regUp a 3)], addr := rd s b, acks := .slot s.cur }

theorem sendUpdate_here (s : State) (m : UpdateMsg) :
    sendUpdate s s.fab.modnum m = post (modMe s (fun t => { t with rupdOut := t.rupdOut + 1 })) (.update m) := by
  unfold sendUpdate
  exact if_pos rfl
theorem exec_rupd {s : State} {a b : Reg} {i : Imm} {pa : Nat}
    (hq : QueuesReady s [b, a, regUp a 1, regUp a 2, regUp a 3] []) (ht : translate s s.cur (rd s b) needR = .pa pa)
    (hn : (me s).rupdOut < 255) :
    exec (.rupd a b i none) s = .next (passed (post (modMe s (fun t => { t with rupdOut := t.rupdOut + 1 }))
      (.update (updateOf s a b i pa))) (2 + i.n) [b, a, regUp a 1, regUp a 2, regUp a 3]) := by
  show Host.Outcome.next (runI _ _ _ s _) = _
  rw [runI_ready hq]
  simp only [scopeIs, Option.getD_none, bne_self_eq_false, fenced_none, ht, hasCap_own, Bool.not_true, Bool.false_eq_true,
    if_false, show ¬ 255 ≤ (me s).rupdOut by omega, sendUpdate_here]
  rfl

theorem exec_update {s : State} {m : UpdateMsg} {n : Nat} (h : freeGuest (Machine.core s m.teller) s.cycle = some n) :
    exec .update (facing s (.update m)) = .next (fill (facing s (.update m)) ⟨m.teller, n⟩
      { newThread ⟨m.teller, n⟩ (launchNum s m.ident) m.target (m.words.take 4 ++ [m.addr]) s.cycle with
        acks := some m.acks }) := by
  have ht : tellerSlot (facing s (.update m)) m.teller = some ⟨m.teller, n⟩ := by
    rw [tellerSlot, show freeGuest (Machine.core (facing s (.update m)) m.teller) (facing s (.update m)).cycle = some n from h]
  show Host.Outcome.next (updateGo (facing s (.update m)) m) = _
  rw [updateGo, ht]
  rfl

theorem thr_fill_self (s : State) (r : TRef) (t : Thread) :
    thr (fill s r t) r = { t with rupdOut := (thr s r).rupdOut, stmOut := (thr s r).stmOut } := by
  rw [fill, thr_setThr, if_pos rfl]

/-- Settles O17, by the UPDATE that leaves, the guest thread that it starts, and its acknowledgement. -/
theorem remoteUpdates : Obligations.RemoteUpdates := by
  unfold Obligations.RemoteUpdates
  refine fun s => ⟨fun a b i pa hq ht hn => ?_, fun m n w0 w1 w2 w3 hg hw => ?_, fun r => ?_⟩
  · refine ⟨_, _, exec_rupd hq ht hn, passed_pending .., rfl, rfl, rfl, rfl, rfl, ?_⟩
    rw [me_passed, me_post, me_modMe, passed_mem]
    exact ⟨rfl, rfl, rfl, rfl, rfl⟩
  · refine ⟨_, exec_update hg, ?_⟩
    rw [thr_fill_self, hw]
    exact ⟨rfl, rfl, rfl, rfl, rfl, rfl, rfl, rfl⟩
  · exact ⟨_, rfl, thr_modThr_self .., rfl, rfl⟩

/-! ## Chained loads (R151 to R154) -/

/-- What a chained load sends out. -/
def chainOf (s : State) (fail : Bool) (a b : Reg) (steps : List Reg) : ChldMsg :=
  { rto := .thr s.cur, launch := reqLaunch (me s), core := s.cur.core, fw := (me s).fw, v := rd s b, k := 0, hops := 0
    at_ := none, steps := steps.map (rd s), fail := fail, dst := a, goPa := none }

theorem chldI_ready {s : State} {a b c : Reg} {n : Nat}
    (hq : QueuesReady s (b :: (List.range n).map (fun k => regUp c k)) [a, regUp a 1]) (fail : Bool) :
    chldI fail a b c n s = if (myCore s).sbuf.any (fun e => e.slot == s.cur.slot)
      then modMe s (fun t => { t with wait := .retry .sbufOwn })
      else asked (post s (.chldStep (chainOf s fail a b ((List.range n).map (fun k => regUp c k))))) 3
        (b :: (List.range n).map (fun k => regUp c k)) false .dflt := by
  unfold chldI
  dsimp only
  rw [runI_ready hq]
  split <;> rfl
theorem exec_chld (s : State) (fail : Bool) (a b c : Reg) (n : Nat) :
    exec (if fail then .chldFail a b c n else .chld a b c n) s = .next (chldI fail a b c n s) := by
  cases fail <;> rfl

section
variable {s : State} {m : ChldMsg} {pa : Nat} {x va : Word}

/-- A step as it stands at the TAU of its word. -/
def atTau (m : ChldMsg) (pa : Nat) : ChldMsg :=
  { m with hops := if m.at_ = some (tauOf pa) then m.hops else m.hops + 1, at_ := some (tauOf pa) }

theorem chldRead_serves (h : TauServes s m.launch pa) (ha : pa % 8 = 0) (hh : m.hops ≤ 11) (hx : Holds s pa 8 x) :
    chldRead s m va pa = if isFull s pa then
        (if m.k + 1 = m.steps.length then chldStop (touch s pa) { atTau m pa with v := x, k := m.k + 1, goPa := none } 0 0
          else post (touch s pa) (.chldStep { atTau m pa with v := x, k := m.k + 1, goPa := none }))
      else if m.fail then chldStop (touch s pa) (atTau m pa) 1 va
      else if waitFull s pa then post (touch s pa) (.chldStep m)
      else setWaiters (touch s pa) (pa / 8) (waitersOf s (pa / 8) ++ [.chain (atTau m pa)]) := by
  obtain ⟨hr, he, hi, -⟩ := h
  have hh' : ¬ 12 < (if m.at_ = some (tauOf pa) then m.hops else m.hops + 1) := by split <;> omega
  have hr' : tauRefuses (touch s pa) m.launch pa = none := hr
  have hread : physRead (touch s pa) pa 8 = x := by
    rw [physRead_congr (sameMemory_touch s pa), hx.eq_physRead (by omega)]
  unfold chldRead
  simp only [hh', if_false, tauShuts_none hr, Bool.false_eq_true, Synchronising.lookAt_word ha he hi, hr', hread]
  by_cases hf : isFull s pa = true
  · rw [if_pos hf, if_neg (by rw [show isFull (touch s pa) pa = true from hf]; simp)]; rfl
  · rw [if_neg hf, if_pos (by rw [show isFull (touch s pa) pa = isFull s pa from rfl]; simpa using hf)]; rfl

/-- A step whose address translates, that no store-buffer entry holds back, reads at its word's TAU. -/
theorem exec_chldStep {st : Word} (hst : m.steps[m.k]? = some st) (ht : chldTr s m (chldVa m.v st) = .pa pa)
    (hb : m.at_ = none → sbWord (Machine.core s m.core) pa 8 = false) :
    exec .chldStep (facing s (.chldStep m)) = .next (chldRead (facing s (.chldStep m)) m (chldVa m.v st) pa) := by
  have hd : (m.steps.drop m.k).headD 0 = st := by
    rw [List.headD_eq_head?_getD, List.head?_drop, hst]; rfl
  have hheld : chldHeld s m pa = false := by
    unfold chldHeld
    cases hat : m.at_ with
    | none => rw [hb hat]; rfl
    | some _ => rfl
  show Host.Outcome.next (chldGo (facing s (.chldStep m)) m) = _
  rw [chldGo, hd]
  dsimp only
  rw [show chldTr (facing s (.chldStep m)) m (chldVa m.v st) = .pa pa from ht]
  exact congrArg _ (if_neg (by rw [show chldHeld (facing s (.chldStep m)) m pa = false from hheld]; simp))

theorem chldStop_writes {a : TRef} (hto : m.rto = .thr a) {code : Nat} (hc : code < 2) :
    chldStop s m code va = post s (.reply a (.writes [(m.dst, m.v), (regUp m.dst 1, chldStatus code m.k)])) := by
  rw [chldStop, hto, if_neg (by omega)]; rfl

end

/-- Settles O18, by what leaves the core, and by the step at the TAU of its word. -/
theorem chainedLoads : Obligations.ChainedLoads := by
  unfold Obligations.ChainedLoads
  refine fun s => ⟨fun a b c n fail h1 h6 hq => ⟨fun hs => ?_, fun hs => ?_⟩, fun m a pa x st hto hst => ?_⟩
  · refine ⟨chainOf s fail a b ((List.range n).map (fun k => regUp c k)), ?_, rfl, rfl, rfl, rfl, rfl, rfl, ?_⟩
    · rw [exec_chld, chldI_ready hq, hs]; rfl
    · exact List.map_map ..
  · rw [exec_chld, chldI_ready hq, if_pos]
    obtain ⟨e, he, hc⟩ := hs
    exact List.any_eq_true.2 ⟨e, he, beq_iff_eq.2 hc⟩
  · intro hi mask ht ha h hb hh hx
    have hgo := exec_chldStep hst ht hb
    rw [chldRead_serves (s := facing s (.chldStep m)) h ha hh (holds_congr hx (sameMemory_facing ..))] at hgo
    have hm := (sameMemory_facing s (.chldStep m)).trans (sameMemory_touch _ pa)
    refine ⟨fun hf => ?_, fun hf hfail => ?_⟩
    · rw [if_pos (show isFull (facing s (.chldStep m)) pa = true from hf)] at hgo
      by_cases hk : m.k + 1 = m.steps.length
      · rw [if_pos hk, chldStop_writes (m := { atTau m pa with v := x, k := m.k + 1, goPa := none }) hto (by omega)] at hgo
        refine ⟨_, hgo, (hm.trans (sameMemory_post ..)).devByte, fun _ => ?_, fun h => absurd hk h⟩
        have e : chldStatus 0 (m.k + 1) = BitVec.ofNat 64 (16 * m.steps.length) := by rw [chldStatus, hk, Nat.zero_add]
        rw [← e]; exact replied_post ..
      · rw [if_neg hk] at hgo
        exact ⟨_, hgo, (hm.trans (sameMemory_post ..)).devByte, fun h => absurd h hk, fun _ => ⟨_, rfl, rfl, rfl, rfl, rfl⟩⟩
    · have hne : ¬ isFull (facing s (.chldStep m)) pa = true := by
        rw [show isFull (facing s (.chldStep m)) pa = false from hf]; simp
      rw [if_neg hne, if_pos hfail, chldStop_writes (m := atTau m pa) hto (by omega)] at hgo
      exact ⟨_, hgo, (hm.trans (sameMemory_post ..)).devByte, replied_post ..⟩

end Sys2Proof.Proofs.RemoteAccess
end

section
/-!
PROOFS. External memory and the escrow (R155, R156, R259, R293).
-/
namespace Sys2Proof.Proofs.ExternalAccess
open Sys2Proof Sys2Proof.Machine DeviceMemory Replies

/-! ## What an escrow forwards (R156) -/

/-- The map that a partial function gives on the keys from `a` up. -/
theorem fget_filterMap_range {α : Type} (f : Nat → Option α) (a n k : Nat) :
    fget ((List.range n).filterMap (fun i => (f (a + i)).map (fun x => (a + i, x)))) k =
      if a ≤ k ∧ k < a + n then f k else none := by
  have happ : ∀ (l m : List (Nat × α)), fget (l ++ m) k = (fget l k).or (fget m k) := by
    intro l m
    induction l with
    | nil => rfl
    | cons e l ih =>
      by_cases h : e.1 = k
      · simp [fget, h]
      · simp [fget, h, ih]
  induction n with
  | zero => rw [if_neg (by omega)]; rfl
  | succ n ih =>
    rw [List.range_succ, List.filterMap_append, happ, ih]
    by_cases hk : k = a + n
    · subst hk
      rw [if_neg (by omega), if_pos (by omega)]
      cases hf : f (a + n) with
      | none => simp [hf]
      | some x => simp [hf, fget]
    · have hl : fget (List.filterMap (fun i => (f (a + i)).map (fun x => (a + i, x))) [n]) k = none := by
        cases hf : f (a + n) with
        | none => simp [hf]
        | some x => simp [hf, fget, Ne.symm hk]
      rw [hl, Option.or_none]
      by_cases hr : a ≤ k ∧ k < a + n
      · rw [if_pos hr, if_pos (by omega)]
      · rw [if_neg hr, if_neg (by omega)]

/-- What an entry of an escrow has for a byte of a launch's read. -/
def entryByte (launch : Option Nat) (k : Nat) (e : EscEntry) : Option Byte :=
  match e.what with
  | .stext b w d => if e.launch = launch ∧ b ≤ k ∧ k < b + wbytes w
      then some (BitVec.ofNat 8 (d.toNat / 2 ^ (8 * (k - b)))) else none
  | _ => none
theorem escByte_eq (l : List EscEntry) (launch : Option Nat) (k : Nat) :
    escByte l launch k = l.reverse.findSome? (entryByte launch k) := rfl
theorem fget_escForward (s : State) (n a k : Nat) : fget (escForward s n a) k = if a ≤ k ∧ k < a + n then
    escByte ((escrowOf s (dieOf s.cur.core)).filter (fun e => !released s e)) (me s).launch k else none :=
  fget_filterMap_range ..

theorem byte_of_word (d : Word) (k : Nat) : BitVec.ofNat 8 (d.toNat / 2 ^ (8 * k)) = d.extractLsb' (8 * k) 8 := by
  apply BitVec.eq_of_toNat_eq
  simp [BitVec.extractLsb'_toNat, Nat.shiftRight_eq_div_pow]

/-- R156: an unreleased store of the launch covers a byte. -/
def Covers (s : State) (x : EscEntry) (k : Nat) : Prop :=
  x.launch = (me s).launch ∧ released s x = false ∧ ∃ base wd d, x.what = .stext base wd d ∧ base ≤ k ∧ k < base + wbytes wd

theorem entryByte_none {s : State} {x : EscEntry} {k : Nat} (hr : released s x = false) (h : ¬ Covers s x k) :
    entryByte (me s).launch k x = none := by
  unfold entryByte
  split
  · rename_i b w d hw
    exact if_neg fun ⟨hl, h1, h2⟩ => h ⟨hl, hr, b, w, d, hw, h1, h2⟩
  · rfl
theorem entryByte_some {s : State} {x : EscEntry} {k base : Nat} {wd : Width} {d : Word} (h : Covers s x k)
    (hw : x.what = .stext base wd d) : entryByte (me s).launch k x = some (d.extractLsb' (8 * (k - base)) 8) := by
  obtain ⟨hl, -, b, w, d', hw', h1, h2⟩ := h
  rw [hw] at hw'
  cases hw'
  rw [entryByte, hw]
  dsimp only
  rw [if_pos ⟨hl, h1, h2⟩, byte_of_word]

theorem escForward_none {s : State} {n a k : Nat}
    (h : k < a ∨ a + n ≤ k ∨ ∀ x ∈ escrowOf s (dieOf s.cur.core), ¬ Covers s x k) : fget (escForward s n a) k = none := by
  rw [fget_escForward]
  split
  · rename_i hk
    rw [escByte_eq, List.findSome?_eq_none_iff]
    intro x hx
    obtain ⟨hx, hr⟩ := List.mem_filter.1 (List.mem_reverse.1 hx)
    exact entryByte_none (by simpa using hr) (h.resolve_left (by omega) |>.resolve_left (by omega) x hx)
  · rfl
theorem escForward_some {s : State} {n a k base : Nat} {l l' : List EscEntry} {x : EscEntry} {wd : Width} {d : Word}
    (h1 : a ≤ k) (h2 : k < a + n) (he : escrowOf s (dieOf s.cur.core) = l ++ x :: l') (hc : Covers s x k)
    (hl : ∀ y ∈ l', ¬ Covers s y k) (hw : x.what = .stext base wd d) :
    fget (escForward s n a) k = some (d.extractLsb' (8 * (k - base)) 8) := by
  have hr : released s x = false := hc.2.1
  have hn : (l'.filter (fun e => !released s e)).reverse.findSome? (entryByte (me s).launch k) = none := by
    rw [List.findSome?_eq_none_iff]
    intro y hy
    obtain ⟨hy, hyr⟩ := List.mem_filter.1 (List.mem_reverse.1 hy)
    exact entryByte_none (by simpa using hyr) (hl y hy)
  rw [fget_escForward, if_pos ⟨h1, h2⟩, escByte_eq, he]
  simp [List.filter_append, hr, hn, List.findSome?_append, entryByte_some hc hw]

/-! ## What the host has (R259) -/

/-- A released entry that no link has accepted writes a byte. -/
def Stands (s : State) (x : EscEntry) (k : Nat) : Prop :=
  released s x = true ∧ (hostBytesOf x.what).1 ≤ k ∧ k < (hostBytesOf x.what).1 + (hostBytesOf x.what).2.length

theorem hostByteAt_plain {s : State} {k : Nat} (h : ∀ q ∈ s.escrow, ∀ y ∈ q.2, ¬ Stands s y k) :
    hostByteAt s k = (fget s.hostMem k).getD (Config.hostByte k s.freeN) := by
  have hn : releasedByte s k = none := by
    unfold releasedByte
    rw [List.findSome?_eq_none_iff]
    intro q hq
    rw [List.findSome?_eq_none_iff]
    intro y hy
    have hs := h q hq y (List.mem_reverse.1 hy)
    dsimp only
    split
    · rename_i hc
      simp only [Bool.and_eq_true, decide_eq_true_eq] at hc
      rw [List.getElem?_eq_none_iff]
      by_contra hlt
      exact hs ⟨hc.1.1, hc.2, by omega⟩
    · rfl
  rw [hostByteAt, hn]
theorem leBytes_getElem? (n x k : Nat) (h : k < n) : (leBytes n x)[k]? = some (BitVec.ofNat 8 (x / 256 ^ k)) := by
  rw [← leBytes_getD n x k h, List.getD_eq_getElem?_getD, List.getElem?_eq_getElem (by rw [leBytes_length]; exact h)]
  rfl
theorem hostByteAt_released {s : State} {die k base : Nat} {y : EscEntry} {wd : Width} {v : Word} (he : s.escrow = [(die, [y])])
    (hs : Stands s y k) (hd : dropped s y = false) (hw : y.what = .stext base wd v) :
    hostByteAt s k = v.extractLsb' (8 * (k - base)) 8 := by
  obtain ⟨hr, h1, h2⟩ := hs
  rw [hw] at h1 h2
  have h1' : base ≤ k := h1
  have h2' : k < base + wbytes wd := by simpa only [hostBytesOf, leBytes_length] using h2
  have hb : releasedByte s k = some (v.extractLsb' (8 * (k - base)) 8) := by
    simp [releasedByte, he, hr, hd, hw, hostBytesOf, h1', leBytes_getElem? _ _ _ (show k - base < wbytes wd by omega),
      extract_byte]
  rw [hostByteAt, hb]

/-- R156: the bytes of the word that a read of external memory gives. -/
theorem extWord_byte (s : State) (addr : Nat) (w : Width) (fwd : List (Nat × Byte)) {k : Nat} (hk : k < 8) :
    (extWord s addr w fwd).extractLsb' (8 * k) 8 =
      if k < wbytes w then (fget fwd (addr + k)).getD (hostByteAt s (addr + k)) else 0 := by
  unfold extWord
  generalize hl : (List.range (wbytes w)).map (fun k => (fget fwd (addr + k)).getD (hostByteAt s (addr + k))) = l
  have hlen : l.length = wbytes w := by rw [← hl]; simp
  have hlt := leNat_lt l
  have h64 : leNat l < 2 ^ 64 := lt_of_lt_of_le hlt (by
    calc 256 ^ l.length ≤ 256 ^ 8 := Nat.pow_le_pow_right (by omega) (by rw [hlen]; exact wbytes_le w)
      _ = 2 ^ 64 := by norm_num)
  rw [← extract_byte, show (BitVec.ofNat 64 (leNat l)).toNat = leNat l by rw [BitVec.toNat_ofNat]; omega, leNat_byte]
  split
  · rename_i h
    rw [← hl, List.getD_eq_getElem?_getD]
    simp [h]
  · rw [List.getD_eq_default _ _ (by rw [hlen]; omega)]

/-! ## The instructions, and the events of the escrow (R155, R293) -/

section
variable {s : State} {a b : Reg} {i : Imm} {w : Width}

theorem execLdext_ready (h : QueuesReady s [b] [a]) : exec (.ldext w a b i) s = .next (finish (2 + i.n) ([b].contains 30)
    (if (ea s b i).toNat % wbytes w ≠ 0 then .trap s 0x02 (ea s b i)
      else if !inWindow s (me s).launch (ea s b i).toNat (wbytes w) then .trap s 0x03 (ea s b i)
      else .reply (post s (.reply s.cur (.ext a (ea s b i).toNat w (escForward s (wbytes w) (ea s b i).toNat)))) (a == 31)
        .dflt)) := congrArg _ (runI_ready h ..)
theorem execStext_ready (h : QueuesReady s [b, a] []) : exec (.stext w a b i) s = .next (finish (2 + i.n) ([b, a].contains 30)
    (if (ea s b i).toNat % wbytes w ≠ 0 then .trap s 0x02 (ea s b i)
      else if !inWindow s (me s).launch (ea s b i).toNat (wbytes w) then .trap s 0x03 (ea s b i)
      else .reply (post s (.escrowAccept ⟨dieOf s.cur.core, ⟨ivl s, (me s).launch, ifaceOf s (me s).launch, (me s).home,
        .stext (ea s b i).toNat w (rd s a)⟩, .thr s.cur⟩)) false .dflt)) := congrArg _ (runI_ready h ..)

end

/-- An answer of a read of external memory completes the instruction. -/
theorem exec_reply_ext {s : State} {r : TRef} {len : Nat} {p : Option QEntry} (h : (thr s r).wait = .reply len p false .dflt)
    (d : Reg) (addr : Nat) (w : Width) (fwd : List (Nat × Byte)) :
    exec .reply (facing s (.reply r (.ext d addr w fwd))) = .next (replyWrites
      { facing s (.reply r (.ext d addr w fwd)) with freeN := s.freeN + 1 } r len p.isSome false .dflt
      [(d, extWord (facing s (.reply r (.ext d addr w fwd))) addr w fwd)]) := by
  have h' : (thr (facing s (.reply r (.ext d addr w fwd))) r).wait = .reply len p false .dflt := h
  rw [exec_reply, replyAt, h']
  rfl

theorem escrowOf_fset {t : State} {m : FMap (List EscEntry)} {die : Nat} {l : List EscEntry} (h : t.escrow = fset m die l) :
    escrowOf t die = l := by
  rw [escrowOf, h, fget_fset_self]; rfl
theorem escrowPut_eq (s : State) (die : Nat) (e : EscEntry) :
    ∃ p q, escrowPut s die e = { s with escrow := fset s.escrow die (escrowOf s die ++ [e]), pending := p, fabOut := q } := by
  unfold escrowPut
  dsimp only
  split
  · obtain ⟨p, q, h⟩ := wantSeal_eq { s with escrow := fset s.escrow die (escrowOf s die ++ [e]) }
    exact ⟨p, q, h⟩
  · exact ⟨_, _, rfl⟩
theorem exec_escrowAccept {s : State} {m : EscMsg} {r : TRef} (hto : m.rto = .thr r) (hd : escDoor s m.die = [])
    (hl : (escrowOf s m.die).length < 4096) :
    exec .escrowAccept (facing s (.escrowAccept m)) = .next (post (escrowPut (facing s (.escrowAccept m)) m.die m.entry)
      (.reply r (.writes []))) := by
  rw [show exec .escrowAccept = execEscrowAccept from rfl]
  simp only [execEscrowAccept, facing_ev]
  rw [if_pos ⟨hd, hl⟩, hto]
  rfl

/-- Bytes written to the host's memory, one after another. -/
theorem fget_hostBytes (l : List Byte) (a : Nat) (m : FMap Byte) {k : Nat} (h : k < l.length) :
    fget (l.zipIdx.foldl (fun m e => fset m (a + e.2) e.1) m) (a + k) = l[k]? := by
  induction l using List.reverseRecOn with
  | nil => simp at h
  | append_singleton l x ih =>
    rw [List.zipIdx_append, List.foldl_append]
    simp only [List.zipIdx_singleton, List.foldl_cons, List.foldl_nil, fget_fset, Nat.zero_add]
    by_cases hk : k = l.length
    · subst hk; simp
    · rw [if_neg (by omega), ih (by simp at h; omega), List.getElem?_append_left (by simp at h; omega)]

/-- The state in which the oldest entry of an escrow has left. -/
def escrowLeft (s : State) (d : Nat) (l : List EscEntry) : State :=
  { facing s (.escrowLinkAccept d) with escrow := fset s.escrow d l }
theorem exec_escrowLinkAccept {s : State} {d addr : Nat} {x : EscEntry} {l : List EscEntry} {wd : Width} {v : Word}
    (he : escrowOf s d = x :: l) (hw : x.what = .stext addr wd v) (hr : released s x = true) (hd : dropped s x = false)
    (hdoor : escDoor s d = []) :
    exec .escrowLinkAccept (facing s (.escrowLinkAccept d)) =
      .next (hostWrite (escrowLeft s d l) addr (leBytes (wbytes wd) v.toNat)) := by
  have he' : escrowOf (facing s (.escrowLinkAccept d)) d = x :: l := he
  have hr' : released (facing s (.escrowLinkAccept d)) x = true := hr
  have hleave : leave (escrowLeft s d l) x = hostWrite (escrowLeft s d l) addr (leBytes (wbytes wd) v.toNat) := by
    rw [leave, if_neg (by rw [show dropped (escrowLeft s d l) x = false from hd]; simp), hw]
  show Host.Outcome.next (linkAccept (facing s (.escrowLinkAccept d)) d) = _
  rw [linkAccept, he']
  dsimp only
  rw [if_pos hr', show leave { facing s (.escrowLinkAccept d) with escrow := fset (facing s (.escrowLinkAccept d)).escrow d l }
    x =
    hostWrite (escrowLeft s d l) addr (leBytes (wbytes wd) v.toNat) from hleave,
    show escDoor (hostWrite (escrowLeft s d l) addr (leBytes (wbytes wd) v.toNat)) d = [] from hdoor]
  rfl

/-- Settles O19, by what the escrow forwards, by what the host has, and by the two events of an escrow. -/
theorem externalMemory : Obligations.ExternalMemory := by
  unfold Obligations.ExternalMemory
  intro s a b i w
  simp only [ea_eq]
  refine ⟨fun hq => ⟨fun ⟨ha, hwin⟩ => ?_, fun ha => ?_, fun ha hwin => ?_⟩, fun r d addr len fwd p hw h0 h31 => ?_,
    fun hq => ⟨fun ⟨ha, hwin⟩ => ?_, fun ha => ?_, fun ha hwin => ?_⟩, fun m r hto hd hl => ?_,
    fun d x l addr wd v he hw hr hd hdoor => ?_⟩
  · refine ⟨escForward s (wbytes w) (ea s b i).toNat, ?_, fun k hk => escForward_none hk,
      fun k l x l' base wd d h1 h2 he hc hl hw => escForward_some h1 h2 he hc hl hw⟩
    rw [execLdext_ready hq, if_neg (by omega), hwin]
    rfl
  · rw [execLdext_ready hq, if_pos ha]; rfl
  · rw [execLdext_ready hq, if_neg (by omega), hwin]; rfl
  · have hl : ∀ e ∈ [(d, extWord (facing s (.reply r (.ext d addr w fwd))) addr w fwd)], e.1 ≠ 0 ∧ e.1 ≠ 31 := by
      simp [h0, h31]
    obtain ⟨hpc, hwait, hg, -, -⟩ := replyWrites_plain
      (s := { facing s (.reply r (.ext d addr w fwd)) with freeN := s.freeN + 1 })
      (a := r) hl len p.isSome
    exact ⟨_, _, exec_reply_ext hw d addr w fwd, hg, hwait, hpc, fun k hk => extWord_byte _ addr w fwd hk,
      fun k => ⟨fun h => hostByteAt_plain h, fun die y base wd v he hs hd hw => hostByteAt_released he hs hd hw⟩⟩
  · refine ⟨⟨dieOf s.cur.core, ⟨ivl s, (me s).launch, ifaceOf s (me s).launch, (me s).home, .stext (ea s b i).toNat w (rd s a)⟩,
      .thr s.cur⟩, ?_, rfl, rfl, rfl, rfl, rfl⟩
    rw [execStext_ready hq, if_neg (by omega), hwin]
    rfl
  · rw [execStext_ready hq, if_pos ha]; rfl
  · rw [execStext_ready hq, if_neg (by omega), hwin]; rfl
  · refine ⟨_, exec_escrowAccept hto hd hl, replied_post .., ?_⟩
    obtain ⟨p, q, h⟩ := escrowPut_eq (facing s (.escrowAccept m)) m.die m.entry
    rw [h]
    exact ⟨escrowOf_fset (m := s.escrow) rfl, rfl⟩
  · refine ⟨_, exec_escrowLinkAccept he hw hr hd hdoor, ?_, fun k hk => ?_⟩
    · exact escrowOf_fset (m := s.escrow) rfl
    · refine (fget_hostBytes (leBytes (wbytes wd) v.toNat) addr s.hostMem (by rw [leBytes_length]; exact hk)).trans ?_
      rw [leBytes_getElem? _ _ _ hk, extract_byte]

end Sys2Proof.Proofs.ExternalAccess
end

section
/-!
PROOFS. # Reading a binding entry (R43, R350)

What the one read of a role's entry gives and leaves: the rule by which the placing instructions, mailboxes, queue
links and gangs go.
-/
namespace Sys2Proof.Proofs.Roles
open Sys2Proof Sys2Proof.Machine DeviceMemory

/-! ## The read of a binding entry (R43, R85, R350) -/

/-- A read of bytes in whose sectors there is no error leaves everything as it is. -/
theorem eccRead_bytes {s : State} {pa n : Nat} (hn : 0 < n) (h : ∀ k, k < n → fget s.errs (sectorOf (pa + k)) = none) :
    eccRead s pa n = s := by
  have hsec : ∀ i, i < sectorOf (pa + n - 1) + 1 - sectorOf pa → eccSector s (sectorOf pa + i) = s := by
    intro i hi
    have hk : ∃ k, k < n ∧ sectorOf (pa + k) = sectorOf pa + i := by
      unfold sectorOf at hi ⊢
      rcases Nat.eq_zero_or_pos i with rfl | hpos
      · exact ⟨0, hn, by omega⟩
      · exact ⟨32 * (pa / 32 + i) - pa, by omega, by omega⟩
    obtain ⟨k, hk, hs⟩ := hk
    rw [eccSector, ← hs, h k hk]
  have hfold : ∀ m, m ≤ sectorOf (pa + n - 1) + 1 - sectorOf pa →
      (List.range m).foldl (fun s i => eccSector s (sectorOf pa + i)) s = s := by
    intro m
    induction m with
    | zero => intro _; rfl
    | succ m ih => intro hm; rw [List.range_succ, List.foldl_append, ih (by omega)]; exact hsec m (by omega)
  rw [eccRead, hfold _ (le_refl _), ite_self]
theorem roleRead_eq (s : State) (code : Nat) : ∃ p, roleRead s code = { s with pchs := p } := by
  unfold roleRead
  cases rolePa s (me s) code with
  | none => exact ⟨_, rfl⟩
  | some pa => exact ⟨_, rfl⟩
theorem resolve_touch (s : State) (pa : Nat) (u : Thread) (code : Nat) : resolve (touch s pa) u code = resolve s u code := by
  have hr : rolePa (touch s pa) u code = rolePa s u code := rfl
  rw [resolve, resolve, hr]
  cases rolePa s u code with
  | none => rfl
  | some q => dsimp only; rw [physRead_congr (sameMemory_touch s pa)]; rfl
/-- A role code whose entry can be read resolves to it; the read reaches one pseudo-channel. -/
theorem withRole_is {s : State} {code : Nat} {e : Word} (h : RoleIs s code e) (k : State → Resolved → Eff) :
    withRole s code k = k (roleRead s code) (.entry e) := by
  obtain ⟨pa, hpa, hr, hb, hi, he⟩ := h
  have hr' : resolve (touch s pa) (me (touch s pa)) code = .entry e := (resolve_touch ..).trans hr
  rw [withRole, hpa]
  dsimp only
  rw [hb, lookAt, eccStops_none (pa := pa) (he 0 (by decide)), hi, eccRead_bytes (by decide) he, roleRead, hpa]
  dsimp only [Option.map_some, Option.getD_some]
  rw [hr']
  rfl
theorem withRole_none {s : State} {code : Nat} (h : rolePa s (me s) code = none) (k : State → Resolved → Eff) :
    withRole s code k = k s .none := by rw [withRole, h]
theorem cur_roleRead (s : State) (code : Nat) : (roleRead s code).cur = s.cur := by obtain ⟨_, h⟩ := roleRead_eq s code; rw [h]
theorem cores_roleRead (s : State) (code : Nat) : (roleRead s code).cores = s.cores := by obtain ⟨_, h⟩ := roleRead_eq s code; rw
    [h]
theorem core_roleRead (s : State) (code c : Nat) : Machine.core (roleRead s code) c = Machine.core s c := by
  obtain ⟨_, h⟩ := roleRead_eq s code; rw [h]; rfl
theorem me_roleRead (s : State) (code : Nat) : me (roleRead s code) = me s := by obtain ⟨_, h⟩ := roleRead_eq s code; rw [h]; rfl
theorem fab_roleRead (s : State) (code : Nat) : (roleRead s code).fab = s.fab := by obtain ⟨_, h⟩ := roleRead_eq s code; rw [h]
theorem rd_roleRead (s : State) (code : Nat) (r : Reg) : rd (roleRead s code) r = rd s r := by
  obtain ⟨_, h⟩ := roleRead_eq s code; rw [h]; rfl

end Sys2Proof.Proofs.Roles
end

section
/-!
PROOFS. # Local memory (O20 to O23)

The typed buffers, space M and its messages, the victim tier, rings and register-mapped queues. Each instruction has
one rule
that says what it does once its checks hold; the obligations are put together from these.
-/
namespace Sys2Proof.Proofs.LocalMemory
open Sys2Proof Sys2Proof.Machine DeviceMemory VectorWork Replies Roles TrapsAndReset

/-! ## The typed buffers (R159 to R161) -/

/-- The bytes of a word read from a byte memory. -/
theorem mword_byte (m : List Host.Cell) (a : Nat) {n k : Nat} (hn : n ≤ 8) :
    (mword m a n).extractLsb' (8 * k) 8 = if k < n then mget m (a + k) else 0 := by
  have hlt := leNat_lt (mgets m a n)
  rw [mgets_length] at hlt
  have h64 : leNat (mgets m a n) < 2 ^ 64 := lt_of_lt_of_le hlt (by
    calc 256 ^ n ≤ 256 ^ 8 := Nat.pow_le_pow_right (by omega) hn
      _ = 2 ^ 64 := by norm_num)
  rw [mword, ← extract_byte, show (BitVec.ofNat 64 (leNat (mgets m a n))).toNat = leNat (mgets m a n) by
    rw [BitVec.toNat_ofNat]; omega, leNat_byte]
  split
  · rename_i h; exact mgets_getD _ _ _ _ h
  · rw [List.getD_eq_default _ _ (by rw [mgets_length]; omega)]

theorem bufOf_setBuf_other (x : Core) {sp o : Space} (h : o ≠ sp) (m : List Host.Cell) : bufOf (setBuf x sp m) o = bufOf x o := by
  cases sp <;> cases o <;> trivial

section
variable {s : State} {sp : Space} {off : Word} {n : Nat}

theorem localCheck_misaligned (h : off.toNat % n ≠ 0) (k : State → Eff) : localCheck s sp off n k = .trap s 0x02 off := if_pos h
theorem localCheck_outside (h : off.toNat % n = 0) (ho : bufSize sp < off.toNat + n) (k : State → Eff) :
    localCheck s sp off n k = .trap s 0x03 off := (if_neg (not_not.2 h)).trans (if_pos ho)
theorem localCheck_inside (h : off.toNat % n = 0) (hi : off.toNat + n ≤ bufSize sp) (k : State → Eff) :
    localCheck s sp off n k = k s := (if_neg (not_not.2 h)).trans (if_neg (by omega))

end

section
variable {s : State} {sp : Space} {w : Width} {a b : Reg} {i : Imm}

theorem exec_ld (h : QueuesReady s [b] [a]) : exec (.ld sp w a b i) s = .next (finish (2 + i.n) ([b].contains 30)
    (localCheck s sp (ea s b i) (wbytes w) (fun s =>
      .done (wr s a (bufRead s s.cur.core sp (ea s b i).toNat (wbytes w)))))) := congrArg _ (runI_ready h ..)
theorem exec_st (h : QueuesReady s [b, a] []) : exec (.st sp w a b i) s = .next (finish (2 + i.n) ([b, a].contains 30)
    (localCheck s sp (ea s b i) (wbytes w) (fun s =>
      .done (bufWrite s s.cur.core sp (ea s b i).toNat (leBytes (wbytes w) (rd s a).toNat))))) := congrArg _ (runI_ready h ..)

end

theorem core_passed_other (t : State) (len : Nat) (srcs : List Reg) {c : Nat} (h : c ≠ t.cur.core) :
    Machine.core (passed t len srcs) c = Machine.core t c := by
  rw [passed_eq, modMe, core_modThr, if_neg (by rw [popQi_cur]; exact h), core_popQi_other _ _ h]
/-- The end of an instruction leaves the buffers. -/
theorem bufOf_passed (t : State) (len : Nat) (srcs : List Reg) (sp : Space) :
    bufOf (myCore (passed t len srcs)) sp = bufOf (myCore t) sp := by
  rw [myCore_passed]; cases sp <;> rfl

/-- Settles O20, by the three checks of a local access. -/
theorem typedBuffers : Obligations.TypedBuffers := by
  unfold Obligations.TypedBuffers
  intro s sp w a b i
  simp only [ea_eq]
  refine ⟨fun hq => ⟨fun h => ?_, fun h hf => ?_, fun ⟨h, hf⟩ => ?_⟩, fun hq => ⟨fun h => ?_, fun h hf => ?_, fun ⟨h, hf⟩ => ?_⟩⟩
  · rw [exec_ld hq, localCheck_misaligned h]; rfl
  · rw [exec_ld hq, localCheck_outside h (not_le.1 fun hle => hf ⟨h, by cases sp <;> exact hle⟩)]; rfl
  · refine ⟨_, fun k _ => mword_byte (bufOf (myCore s) sp) (ea s b i).toNat (wbytes_le w), ?_⟩
    rw [exec_ld hq, localCheck_inside h (by cases sp <;> exact hf)]; rfl
  · rw [exec_st hq, localCheck_misaligned h]; rfl
  · rw [exec_st hq, localCheck_outside h (not_le.1 fun hle => hf ⟨h, by cases sp <;> exact hle⟩)]; rfl
  · rw [exec_st hq, localCheck_inside h (by cases sp <;> exact hf)]
    refine ⟨passed (bufWrite s s.cur.core sp (ea s b i).toNat (leBytes (wbytes w) (rd s a).toNat)) (2 + i.n) [b, a], rfl,
      ?_, fun o ho => ?_, fun c hc => ?_, ?_, fun k => ?_⟩
    · rw [bufOf_passed, bufWrite_eq, myCore_modMyCore, bufOf_setBuf]
    · rw [bufOf_passed, bufWrite_eq, myCore_modMyCore, bufOf_setBuf_other _ ho]
    · refine (core_passed_other (bufWrite s s.cur.core sp _ _) _ _ hc).trans ?_
      rw [bufWrite, core_modCore, if_neg hc]
    · rw [me_passed, bufWrite_eq, me_modMyCore_slots _ _ fun _ => setBuf_slots ..]
    · exact (devByte_passed ..).trans (devByte_congr (by rfl) (by rfl) (by rfl) (by rfl) (by rfl) k)

/-! ## An instruction whose request is out -/

/-- R15: what the queues of its core hold for a thread that waits for an answer. -/
def holdsQueues (pops pushes : Bool) (x : Core) : Core :=
  { x with qoHeld := if pushes then x.qoHeld + 1 else x.qoHeld, qoRep := pushes || x.qoRep
           qiHeld := if pops then x.qiHeld + 1 else x.qiHeld, up := if pops then x.up.tail else x.up }

theorem asked_state (t : State) (len : Nat) (srcs : List Reg) (pushes : Bool) (after : Scope) :
    asked t len srcs pushes after = { t with cores := (asked t len srcs pushes after).cores } := by
  unfold asked finish
  dsimp only
  cases srcs.contains 30 <;> rfl
@[simp] theorem asked_pending (t : State) (len : Nat) (srcs : List Reg) (pushes : Bool) (after : Scope) :
    (asked t len srcs pushes after).pending = t.pending := by rw [asked_state]
theorem sameMemory_asked (t : State) (len : Nat) (srcs : List Reg) (pushes : Bool) (after : Scope) :
    SameMemory t (asked t len srcs pushes after) := by
  rw [asked_state]; exact ⟨⟨rfl, rfl, rfl⟩, rfl, rfl⟩
theorem isFull_asked (t : State) (len : Nat) (srcs : List Reg) (pushes : Bool) (after : Scope) (pa : Nat) :
    isFull (asked t len srcs pushes after) pa = isFull t pa := by rw [asked_state]; rfl
theorem isFull_post (s : State) (e : Ev) (pa : Nat) : isFull (post s e) pa = isFull s pa := rfl
theorem replied_asked {t : State} {a : TRef} {r : RepRes} (h : Replied t a r) (len : Nat) (srcs : List Reg) (pushes : Bool)
    (after : Scope) : Replied (asked t len srcs pushes after) a r := by
  rw [Replied, asked_pending]; exact h
theorem bufOf_core_modThr (s : State) (a : TRef) (f : Thread → Thread) (c : Nat) (sp : Space) :
    bufOf (Machine.core (modThr s a f) c) sp = bufOf (Machine.core s c) sp := by
  rw [core_modThr]
  split
  · rename_i h; rw [h]; cases sp <;> rfl
  · rfl
theorem bufOf_core_modCore (s : State) (d : Nat) (f : Core → Core) (sp : Space) (hf : ∀ x, bufOf (f x) sp = bufOf x sp)
    (c : Nat) :
    bufOf (Machine.core (modCore s d f) c) sp = bufOf (Machine.core s c) sp := by
  rw [core_modCore]
  split
  · rename_i h; rw [h, hf]
  · rfl
/-- A request that is out leaves the buffers. -/
theorem bufOf_asked (t : State) (len : Nat) (srcs : List Reg) (pushes : Bool) (after : Scope) (c : Nat) (sp : Space) :
    bufOf (Machine.core (asked t len srcs pushes after) c) sp = bufOf (Machine.core t c) sp := by
  unfold asked finish
  dsimp only
  rw [modMe, bufOf_core_modThr]
  split
  · rw [takeQi, modMyCore, bufOf_core_modCore, modMyCore, bufOf_core_modCore]
    · intro x; cases sp <;> rfl
    · intro x; cases sp <;> rfl
  · rw [modMyCore, bufOf_core_modCore]
    intro x; cases sp <;> rfl

/-! ## Space M (R162 to R164) -/

section
variable {s : State} {m : Word} {n : Nat}

theorem mCheck_unowned (h : ¬ (mNames m = true ∧ mCluster m ∈ clustersOf s (me s).launch)) (k : State → Eff) :
    mCheck s m n k = .trap s 0x03 m := by
  unfold mCheck
  by_cases hn : mNames m = true
  · have hc : (clustersOf s (me s).launch).contains (mCluster m) = false := by
      simpa using fun hc => h ⟨hn, hc⟩
    rw [if_neg (by simp [hn]), if_pos (by rw [hc]; rfl)]
  · exact if_pos (by simpa using hn)
theorem mCheck_owned (h : mNames m = true ∧ mCluster m ∈ clustersOf s (me s).launch) (k : State → Eff) :
    mCheck s m n k = if mOff m % n ≠ 0 then .trap s 0x02 m
      else if bufSize (mSpace m) < mOff m + n then .trap s 0x03 m else k s := by
  obtain ⟨hn, hc⟩ := h
  unfold mCheck
  rw [if_neg (by simp [hn]), if_neg (by simpa using hc)]

end

/-- The traps of an access to space M, in the order of its checks. -/
theorem mCheck_traps {s : State} {m : Word} {n len : Nat} {srcs : List Reg} {ins : Instr} {k : State → Eff}
    (h : exec ins s = .next (finish len (srcs.contains 30) (mCheck s m n k))) :
    let owned := mNames m = true ∧ mCluster m ∈ clustersOf s (me s).launch
    (¬owned → exec ins s = .next (trapMe s 0x03 m))
      ∧ (owned → mOff m % n ≠ 0 → exec ins s = .next (trapMe s 0x02 m))
      ∧ (owned → mOff m % n = 0 → bufSize (mSpace m) < mOff m + n → exec ins s = .next (trapMe s 0x03 m)) := by
  refine ⟨fun ho => ?_, fun ho ha => ?_, fun ho ha hb => ?_⟩
  · rw [h, mCheck_unowned ho]; rfl
  · rw [h, mCheck_owned ho, if_pos ha]; rfl
  · rw [h, mCheck_owned ho, if_neg (by omega), if_pos hb]; rfl
theorem mCheck_ok {s : State} {m : Word} {n : Nat} (h : (mNames m = true ∧ mCluster m ∈ clustersOf s (me s).launch)
    ∧ mOff m % n = 0 ∧ mOff m + n ≤ bufSize (mSpace m)) (k : State → Eff) : mCheck s m n k = k s := by
  obtain ⟨ho, ha, hb⟩ := h
  rw [mCheck_owned ho, if_neg (by omega), if_neg (by omega)]

section
variable {s : State} {w : Width} {a b : Reg} {i : Imm}

/-- The read that an `ldm` asks for, and the write that an `stm` posts. -/
def mReadOf (s : State) (w : Width) (a : Reg) (m : Word) : MReadMsg :=
  ⟨.thr s.cur, a, identOf s (me s) false, mCore m, mSpace m, mOff m, w, 0⟩
def mWriteOf (s : State) (w : Width) (a : Reg) (m : Word) : MWriteMsg :=
  ⟨some s.cur, identOf s (me s) false, mCore m, mSpace m, mOff m, leBytes (wbytes w) (rd s a).toNat, 0⟩

theorem exec_ldm (h : QueuesReady s [b] [a]) : exec (.ldm w a b i) s = .next (finish (2 + i.n) ([b].contains 30)
    (mCheck s (ea s b i) (wbytes w) (fun u => .reply (post u (.mRead (mReadOf u w a (ea s b i)))) (a == 31) .dflt))) :=
  congrArg _ (runI_ready h ..)
/-- The state whose write an `stm` has posted and counted. -/
def mPosted (s : State) (w : Width) (a : Reg) (m : Word) : State :=
  modMe (post s (.mWrite (mWriteOf s w a m))) (fun t => { t with stmOut := t.stmOut + 1 })
@[simp] theorem me_mPosted (s : State) (w : Width) (a : Reg) (m : Word) :
    me (mPosted s w a m) = { me s with stmOut := (me s).stmOut + 1 } := me_modMe ..
theorem sameMemory_mPosted (s : State) (w : Width) (a : Reg) (m : Word) : SameMemory s (mPosted s w a m) :=
  ⟨⟨rfl, rfl, rfl⟩, rfl, rfl⟩
theorem exec_stm (h : QueuesReady s [b, a] []) : exec (.stm w a b i) s = .next (finish (2 + i.n) ([b, a].contains 30)
    (mCheck s (ea s b i) (wbytes w) (fun u => if 16 ≤ (me u).stmOut then retry u .stmRoom
      else .done (mPosted u w a (ea s b i))))) :=
  congrArg _ (runI_ready h ..)

end

theorem exec_mRead_accept {s : State} {q : MReadMsg} {r : TRef} (hto : q.rto = .thr r)
    (h : arriveAt s q.dest q.ident q.hops = .accept) :
    exec .mRead (facing s (.mRead q)) = .next (post (facing s (.mRead q)) (.reply r (.writes [(q.dst,
      bufRead s q.dest q.space q.off (wbytes q.width))]))) := by
  have h' : arriveAt (facing s (.mRead q)) q.dest q.ident q.hops = .accept := h
  rw [show exec .mRead = execMRead from rfl]
  simp only [execMRead, facing_ev, h', hto]
  rfl
theorem exec_mWrite_accept {s : State} {x : MWriteMsg} {r : TRef} (hf : x.frm = some r)
    (h : arriveAt s x.dest x.ident x.hops = .accept) :
    exec .mWrite (facing s (.mWrite x)) = .next (modThr (bufWrite (facing s (.mWrite x)) x.dest x.space x.off x.bytes) r
      (fun t => { t with stmOut := t.stmOut - 1 })) := by
  have h' : arriveAt (facing s (.mWrite x)) x.dest x.ident x.hops = .accept := h
  rw [show exec .mWrite = execMWrite from rfl]
  simp only [execMWrite, facing_ev, h', hf]
  rfl

theorem drained_stm (s : State) : drained s s.cur ⟨true, [], false⟩ = ((me s).stmOut == 0) := by
  simp [drained, me, thr]
theorem exec_lbf (s : State) : exec .lbf s = .next (if (me s).stmOut = 0 then passed s 2 []
    else modMe s (fun t => { t with wait := .drain ⟨true, [], false⟩ 2 })) := by
  refine congrArg _ ((FetchingAndIssuing.runI_plain s 2 _).trans ?_)
  dsimp only
  rw [drained_stm]
  by_cases h : (me s).stmOut = 0
  · rw [if_pos (by simp [h]), if_pos h]; rfl
  · rw [if_neg (by simp [h]), if_neg h]; rfl

/-! ## The victim tier (R184) -/

/-- Every word of a page is served by its TAU. -/
def PageServes (s : State) (l : Option Nat) (pa : Nat) : Prop := ∀ k, k < 1024 → TauServes s l (pa + 8 * k)
/-- No store of the core is in the page, and its channels serve. -/
def PageFree (s : State) (pa : Nat) : Prop :=
  sbTouches (myCore s) pa 8192 = false ∧ ∀ g, g < 32 → chanBusy s (pa + 256 * g) = false

theorem firstSome_none {α : Type} {f : Nat → Option α} (n i : Nat) (h : ∀ k, k < n → f (i + k) = none) : firstSome f i n =
    none := by
  induction n generalizing i with
  | zero => rfl
  | succ n ih =>
    rw [firstSome, show f i = none from h 0 (by omega)]
    exact ih (i + 1) fun k hk => by rw [show i + 1 + k = i + (k + 1) by omega]; exact h _ (by omega)
theorem pageRefuses_none {s : State} {l : Option Nat} {pa : Nat} (h : PageServes s l pa) : pageRefuses s l pa = none :=
  firstSome_none _ _ fun k hk => by rw [Nat.zero_add, (h k hk).1]; rfl
/-- What holds of no granule of a page holds of none of its list. -/
theorem pageGrans_any {pa : Nat} {p : Nat → Bool} (h : ∀ g, g < 32 → p (pa + 256 * g) = false) : (pageGrans pa).any p = false :=
    by
  simpa [pageGrans] using h
theorem PageServes.granule {s : State} {l : Option Nat} {pa : Nat} (h : PageServes s l pa) {g : Nat} (hg : g < 32) :
    TauServes s l (pa + 256 * g) := by
  rw [show pa + 256 * g = pa + 8 * (32 * g) by ring]; exact h _ (by omega)
theorem pageReady_free {s : State} {pa : Nat} (h : PageFree s pa) (k : State → Eff) : pageReady s pa k = k s := by
  obtain ⟨hs, hc⟩ := h
  rw [pageReady, if_neg (by rw [hs]; decide), if_neg (by rw [pageGrans_any hc]; decide)]

theorem foldl_touch (l : List Nat) (f : Nat → Nat) (s : State) :
    l.foldl (fun s g => touch s (f g)) s = { s with pchs := (l.foldl (fun s g => touch s (f g)) s).pchs } := by
  induction l generalizing s with
  | nil => rfl
  | cons a l ih => rw [List.foldl_cons, ih]; rfl
theorem touchPage_eq (s : State) (pa : Nat) : ∃ p, touchPage s pa = { s with pchs := p } := by
  unfold touchPage; exact ⟨_, foldl_touch _ _ _⟩
theorem sameMemory_touchPage (s : State) (pa : Nat) : SameMemory s (touchPage s pa) := by
  obtain ⟨_, h⟩ := touchPage_eq s pa; rw [h]; exact ⟨⟨rfl, rfl, rfl⟩, rfl, rfl⟩
theorem core_touchPage (s : State) (pa c : Nat) : Machine.core (touchPage s pa) c = Machine.core s c := by
  obtain ⟨_, h⟩ := touchPage_eq s pa; rw [h]; rfl
theorem me_touchPage (s : State) (pa : Nat) : me (touchPage s pa) = me s := by obtain ⟨_, h⟩ := touchPage_eq s pa; rw [h]; rfl
theorem cur_touchPage (s : State) (pa : Nat) : (touchPage s pa).cur = s.cur := by obtain ⟨_, h⟩ := touchPage_eq s pa; rw [h]
theorem pageRefuses_touchPage {s : State} {l : Option Nat} {pa : Nat} (h : PageServes s l pa) :
    pageRefuses (touchPage s pa) l pa = none := by
  obtain ⟨_, he⟩ := touchPage_eq s pa; rw [he]; exact pageRefuses_none h
theorem devBytes_congr {s t : State} (h : SameMemory s t) (pa n : Nat) : devBytes t pa n = devBytes s pa n := by
  induction n generalizing pa with
  | zero => rfl
  | succ n ih => rw [devBytes, devBytes, ih, h.devByte]

section
variable {s : State} {a b c : Reg}

theorem sameMemory_bufWrite_post (t : State) (c : Nat) (sp : Space) (off : Nat) (l : List Byte) (f : Core → Core) (e : Ev) :
    SameMemory t (post (modCore (bufWrite t c sp off l) c f) e) := ⟨⟨rfl, rfl, rfl⟩, rfl, rfl⟩
/-- The state whose request an `evct` that copies has sent. -/
def evicted (s : State) (a : Reg) (pa : Nat) (m : Word) : State :=
  post (modCore (bufWrite (touchPage s pa) (mCore m) (mSpace m) (mOff m) (devBytes s pa 8192)) (mCore m)
    (fun x => { x with victim := true })) (.reply s.cur (status a 0))

theorem exec_evct_bad (h : QueuesReady s [b, c] [a]) (hn : evctStatus s (rd s b) (rd s c) = 4) :
    exec (.evct a b c) s = .next (wrote s 3 [b, c] a 4) := by
  refine congrArg _ ((runI_ready h ..).trans ?_)
  simp only [hn]
  rfl
theorem exec_evct_copy (h : QueuesReady s [b, c] [a]) (hn : evctStatus s (rd s b) (rd s c) = 0)
    (hf : PageFree s (rd s b).toNat) (he : s.errs = []) (hs : PageServes s (reqLaunch (me s)) (rd s b).toNat) :
    exec (.evct a b c) s = .next (asked (evicted s a (rd s b).toNat (rd s c)) 3 [b, c] (a == 31) .dflt) := by
  refine congrArg _ ((runI_ready h ..).trans ?_)
  dsimp only
  have hstop : ∀ k, eccStops s ((rd s b).toNat + 32 * k) = false := fun k => by simp [eccStops, he, fget]
  have hinj : (pageGrans (rd s b).toNat).any (injFires s) = false := pageGrans_any fun g hg => (hs.granule hg).2.2.1
  have hread : eccRead s (rd s b).toNat 8192 = s := by rw [eccRead, if_pos he]
  rw [hn, if_neg (by decide), pageReady_free hf, if_neg (by simp [hstop]), if_neg (by rw [hinj]; decide), hread,
    me_touchPage, pageRefuses_touchPage hs]
  dsimp only
  rw [devBytes_congr (sameMemory_touchPage ..), cur_touchPage]
  rfl

end

section
variable {s : State} {a : Reg} {pa : Nat} {m : Word}

theorem sameMemory_evicted : SameMemory s (evicted s a pa m) :=
  (sameMemory_touchPage s pa).trans (sameMemory_bufWrite_post ..)
theorem bufOf_evicted : bufOf (Machine.core (evicted s a pa m) (mCore m)) (mSpace m)
    = msets (bufOf (Machine.core s (mCore m)) (mSpace m)) (mOff m) (devBytes s pa 8192) := by
  rw [evicted, show ∀ (t : State) (e : Ev) (c : Nat), Machine.core (post t e) c = Machine.core t c from fun _ _ _ => rfl,
    bufOf_core_modCore _ _ _ _ (fun x => by cases (mSpace m) <;> rfl), bufWrite, core_modCore_self, bufOf_setBuf, core_touchPage]

end

/-- The words `0` to `n - 1` of a page that a `rcll` writes back. -/
def rcllWords (s : State) (sp : Space) (off pa n : Nat) : State :=
  (List.range n).foldl (fun s k => rcllWord s (pa + 8 * k) (bufRead s s.cur.core sp (off + 8 * k) 8)) s
theorem rcllWords_succ (s : State) (sp : Space) (off pa n : Nat) : rcllWords s sp off pa (n + 1)
    = rcllWord (rcllWords s sp off pa n) (pa + 8 * n)
        (bufRead (rcllWords s sp off pa n) (rcllWords s sp off pa n).cur.core sp (off + 8 * n) 8) := by
  rw [rcllWords, List.range_succ, List.foldl_append]; rfl

/-- A word of a page that no request waits for is stored and set full. -/
theorem rcllWord_eq {s : State} (h : s.waits = []) (pa : Nat) (x : Word) : rcllWord s pa x = setFull (physWrite s pa 8 x) pa
    true := by
  rw [rcllWord, waitersOf, h]; rfl
theorem isFull_setFull_keeps {s : State} {pa q : Nat} (h : isFull s q = true) : isFull (setFull s pa true) q = true := by
  simp only [isFull, setFull, if_true, List.contains_eq_mem, List.mem_filter, Bool.not_eq_true', decide_eq_false_iff_not] at h ⊢
  exact fun hm => h hm.1

/-- What the words written back so far have left. -/
structure WroteBack (s : State) (sp : Space) (off pa n : Nat) (t : State) : Prop where
  cores : t.cores = s.cores
  cur : t.cur = s.cur
  waits : t.waits = []
  kept : SameKept s t
  memOk : State.MemOk t
  full : ∀ k, k < n → isFull t (pa + 8 * k) = true
  bytes : ∀ k, mget t.mem k = if pa ≤ k ∧ k < pa + 8 * n then mget (bufOf (myCore s) sp) (off + (k - pa)) else mget s.mem k

theorem leBytes_mword_getD (m : List Host.Cell) (off : Nat) {j : Nat} (hj : j < 8) :
    (leBytes 8 (mword m off 8).toNat).getD j 0 = mget m (off + j) := by
  rw [leBytes_getD _ _ _ hj, extract_byte, mword_byte m off (le_refl 8), if_pos hj]

theorem WroteBack.succ {s t : State} {sp : Space} {off pa n : Nat} (h : WroteBack s sp off pa n t)
    (hk : ∀ j, j < 8 → 128 ≤ frameOf (pa + 8 * n + j) → keptByte s (pa + 8 * n + j) = none) :
    WroteBack s sp off pa (n + 1) (rcllWord t (pa + 8 * n) (bufRead t t.cur.core sp (off + 8 * n) 8)) := by
  obtain ⟨hc, hcur, hw, hkept, hok, hfull, hb⟩ := h
  have hbuf : bufOf (Machine.core t t.cur.core) sp = bufOf (myCore s) sp := by rw [hcur, core_congr hc]; rfl
  rw [rcllWord_eq hw, bufRead, hbuf]
  set x := mword (bufOf (myCore s) sp) (off + 8 * n) 8
  obtain ⟨_, _, _, _, _, _, _, _, he⟩ := physPut_eq t (pa + 8 * n) (leBytes 8 x.toNat)
  have hkt : ∀ j, j < (leBytes 8 x.toNat).length → 128 ≤ frameOf (pa + 8 * n + j) → keptByte t (pa + 8 * n + j) = none := by
    intro j hj hf
    obtain ⟨kq, kg, kp⟩ := hkept
    rw [keptByte_congr kq kg kp hf]
    exact hk j (by simpa using hj) hf
  obtain ⟨hq, hg, hp⟩ := putKepts_none hkt
  obtain ⟨wq, wg, wp⟩ := physWrite_same t (pa + 8 * n) 8 x
  obtain ⟨kq, kg, kp⟩ := hkept
  refine ⟨?_, ?_, ?_, ⟨wq.trans (hq.trans kq), wg.trans (hg.trans kg), wp.trans (hp.trans kp)⟩, ?_, fun k hk' => ?_, fun k => ?_⟩
  · rw [physWrite, he]; exact hc
  · rw [physWrite, he]; exact hcur
  · rw [physWrite, he]; exact hw
  · show Memory.wf (physWrite t (pa + 8 * n) 8 x).mem = true
    rw [physWrite_mem]; exact msets_wf hok _ _
  · rcases Nat.lt_succ_iff_lt_or_eq.mp hk' with hlt | rfl
    · refine isFull_setFull_keeps ?_
      rw [physWrite, he]
      exact hfull k hlt
    · exact isFull_setFull ..
  · show mget (physWrite t (pa + 8 * n) 8 x).mem k = _
    rw [physWrite_mem, mput, mget_msets hok, leBytes_length, hb]
    by_cases h1 : pa + 8 * n ≤ k ∧ k < pa + 8 * n + 8
    · rw [if_pos h1, if_pos (by omega), leBytes_mword_getD _ _ (by omega)]
      congr 1; omega
    · rw [if_neg h1]
      by_cases h2 : pa ≤ k ∧ k < pa + 8 * n
      · rw [if_pos h2, if_pos (by omega)]
      · rw [if_neg h2, if_neg (by omega)]

theorem wroteBack_rcllWords {s : State} {sp : Space} {off pa n : Nat} (hw : s.waits = []) (hok : State.MemOk s)
    (hk : ∀ k, k < 8 * n → 128 ≤ frameOf (pa + k) → keptByte s (pa + k) = none) :
    WroteBack s sp off pa n (rcllWords s sp off pa n) := by
  induction n with
  | zero => exact ⟨rfl, rfl, hw, ⟨rfl, rfl, rfl⟩, hok, fun _ h => absurd h (by omega), fun k => by rw [if_neg (by omega)]; rfl⟩
  | succ n ih =>
    rw [rcllWords_succ]
    refine (ih fun k hk' => hk k (by omega)).succ fun j hj hf => ?_
    rw [Nat.add_assoc] at hf ⊢
    exact hk _ (by omega) hf

section
variable {s : State} {a b c : Reg}

theorem exec_rcll_bad (h : QueuesReady s [b, c] [a]) (hn : rcllStatus s (rd s b) (rd s c) = 4) :
    exec (.rcll a b c) s = .next (wrote s 3 [b, c] a 4) := by
  refine congrArg _ ((runI_ready h ..).trans ?_)
  simp only [hn]
  rfl
theorem exec_rcll_copy (h : QueuesReady s [b, c] [a]) (hn : rcllStatus s (rd s b) (rd s c) = 0)
    (hf : PageFree s (rd s c).toNat) (hs : PageServes s (reqLaunch (me s)) (rd s c).toNat) :
    exec (.rcll a b c) s = .next (asked (post (rcllWords s (mSpace (rd s b)) (mOff (rd s b)) (rd s c).toNat 1024)
      (.reply s.cur (status a 0))) 3 [b, c] (a == 31) .dflt) := by
  refine congrArg _ ((runI_ready h ..).trans ?_)
  dsimp only
  have hv : (pageGrans (rd s c).toNat).any (vaultStalls s) = false := pageGrans_any fun g hg => (hs.granule hg).2.2.2
  rw [hn, if_neg (by decide), pageReady_free hf, pageRefuses_none hs, hv]
  rfl

end

/-- Settles O21: one rule per instruction and message, and an induction over the words of a page for `rcll`. -/
theorem spaceM : Obligations.SpaceM := by
  unfold Obligations.SpaceM
  refine ⟨fun s w a b i => ⟨fun hq => ⟨mCheck_traps (exec_ldm hq), fun hok => ?_⟩,
    fun hq => ⟨mCheck_traps (exec_stm hq), fun hok h16 => ?_, fun hok h16 => ?_⟩,
    fun q r hto hacc => ⟨_, _, exec_mRead_accept hto hacc, rfl, rfl, rfl, rfl⟩, fun x r hf hacc => ?_, fun h0 => ?_, fun h0 =>
      ?_⟩,
    fun s a b c hq => ⟨⟨fun hm => ?_, fun ha hf hoff hn hl hb he hfull hs => ?_⟩,
      fun hm => ?_, fun hmem ha hf hoff hn hc hb hw hs hkept => ?_⟩⟩
  · refine ⟨mReadOf s w a (ea s b i), ?_, rfl, rfl, rfl, rfl, rfl, rfl, rfl⟩
    rw [exec_ldm hq, mCheck_ok (m := ea s b i) hok]
    rfl
  · have hex : exec (.stm w a b i) s = .next (passed (mPosted s w a (ea s b i)) (2 + i.n) [b, a]) := by
      rw [exec_stm hq, mCheck_ok (m := ea s b i) hok, if_neg (by omega)]
      rfl
    refine ⟨_, mWriteOf s w a (ea s b i), hex, ?_, rfl, rfl, rfl, rfl, rfl, ?_, ?_, ?_, ?_⟩
    · exact passed_pending ..
    · rw [me_passed, me_mPosted]
    · rw [me_passed]
    · rw [me_passed, me_mPosted]
    · exact fun k => (devByte_passed ..).trans ((sameMemory_mPosted ..).devByte k)
  · rw [exec_stm hq, mCheck_ok (m := ea s b i) hok, if_pos h16]
    rfl
  · refine ⟨_, exec_mWrite_accept hf hacc, ?_, ?_, rfl, rfl⟩
    · rw [bufOf_core_modThr, bufWrite, core_modCore_self, bufOf_setBuf]; rfl
    · rw [thr_modThr_self, bufWrite, thr_modCore_slots _ _ _ (fun y => setBuf_slots y _ _)]; rfl
  · rw [exec_lbf, if_pos h0]
  · refine ⟨_, (exec_lbf s).trans (by rw [if_neg h0]), ?_⟩
    rw [me_modMe]
  · exact exec_evct_bad hq (if_pos (.inl hm))
  · have hst : evctStatus s (rd s b) (rd s c) = 0 := by
      rw [evctStatus, if_neg (by simp [ha, hoff, hn]), if_neg (by simp [hl, hb]), if_neg (by simpa using hfull)]
    refine ⟨_, exec_evct_copy hq hst hf he hs, ?_, replied_asked (replied_post ..) .., ?_⟩
    · exact (sameMemory_evicted.trans (sameMemory_asked ..)).devByte
    · rw [bufOf_asked, bufOf_evicted]
  · exact exec_rcll_bad hq (if_pos (.inr hm))
  · have hst : rcllStatus s (rd s b) (rd s c) = 0 := by
      rw [rcllStatus, if_neg (by simp [ha, hoff]), if_neg (by simp [hn, hc, hb])]
    have hback := wroteBack_rcllWords (n := 1024) (sp := mSpace (rd s b)) (off := mOff (rd s b)) hw hmem hkept
    have hex := exec_rcll_copy hq hst hf hs
    generalize rcllWords s (mSpace (rd s b)) (mOff (rd s b)) (rd s c).toNat 1024 = u at hback hex
    obtain ⟨-, -, -, ⟨kq, kg, kp⟩, -, hfull, hbytes⟩ := hback
    refine ⟨_, hex, replied_asked (replied_post ..) .., fun k hk => ?_, fun k hk => ?_⟩
    · rw [isFull_asked, isFull_post]; exact hfull k hk
    · rw [(sameMemory_asked ..).devByte, (sameMemory_post ..).devByte, devByte, keptByte_congr kq kg kp hk, hbytes]
      by_cases hin : (rd s c).toNat ≤ k ∧ k < (rd s c).toNat + 8192
      · have hn := hkept (k - (rd s c).toNat) (by omega)
        rw [Nat.add_sub_cancel' hin.1] at hn
        rw [hn hk, if_pos hin, if_pos (by omega)]; rfl
      · rw [if_neg hin, if_neg (by omega)]; rfl

/-! ## Rings (R166 to R168) -/

section
variable (w : RWait)

/-- A ring on which `w` waits no more. -/
def unwaited (r : Ring) : Ring :=
  { r with pushers := r.pushers.filter (· != w), poppers := r.poppers.filter (· != w) }
theorem fget_map_snd {α : Type} (f : α → α) (m : FMap α) (n : Nat) :
    fget (m.map (fun e => (e.1, f e.2))) n = (fget m n).map f := by
  induction m with
  | nil => rfl
  | cons e m ih =>
    obtain ⟨k, x⟩ := e
    simp only [List.map_cons, fget]
    split
    · rfl
    · exact ih
theorem fget_any_false {α : Type} {p : α → Bool} {m : FMap α} (h : m.any (fun e => p e.2) = false) {n : Nat} {x : α}
    (hx : fget m n = some x) : p x = false := by
  induction m with
  | nil => simp [fget] at hx
  | cons e m ih =>
    obtain ⟨k, y⟩ := e
    rw [List.any_cons, Bool.or_eq_false_iff] at h
    simp only [fget] at hx
    split at hx
    · cases hx; exact h.1
    · exact ih h.2 hx
theorem unwaited_of_absent {r : Ring} (h : (r.pushers.contains w || r.poppers.contains w) = false) : unwaited w r = r := by
  obtain ⟨hp, hq⟩ := Bool.or_eq_false_iff.1 h
  have keep : ∀ l : List RWait, l.contains w = false → l.filter (· != w) = l := by
    intro l hl
    refine List.filter_eq_self.2 fun x hx => ?_
    have : x ≠ w := by rintro rfl; simp [hx] at hl
    simpa using this
  rw [unwaited, keep _ hp, keep _ hq]

end

theorem leaveRings_state (t : State) (a : TRef) : leaveRings t a = { t with cores := (leaveRings t a).cores } := by
  unfold leaveRings; split <;> rfl
/-- A slot that leaves the rings of its core changes their waiters only. -/
theorem core_leaveRings (t : State) (a : TRef) (c : Nat) : Machine.core (leaveRings t a) c =
    if c = a.core then { Machine.core t c with rings := (Machine.core (leaveRings t a) c).rings } else Machine.core t c := by
  unfold leaveRings
  split
  · rw [core_modCore]
    split
    · rename_i h; rw [h]
    · rfl
  · split <;> rfl
theorem ring_leaveRings (t : State) (a : TRef) (k : Nat) :
    ring (Machine.core (leaveRings t a) a.core) k = unwaited (.slot a.slot) (ring (Machine.core t a.core) k) := by
  unfold leaveRings
  split
  · rw [core_modCore_self, ring]
    refine (congrArg (·.getD Ring.reset) (fget_map_snd (unwaited (.slot a.slot)) _ k)).trans ?_
    rw [ring]
    cases fget (Machine.core t a.core).rings k <;> rfl
  · rename_i h
    rw [ring]
    cases hr : fget (Machine.core t a.core).rings k with
    | none => rfl
    | some r => exact (unwaited_of_absent _ (fget_any_false
        (p := fun r => r.pushers.contains (.slot a.slot) || r.poppers.contains (.slot a.slot)) (by simpa using h) hr)).symm

section
variable {s : State} {n : Fin 4} {dsts : List Reg} {k : State → Ring → Eff} {t : State}

/-- The wait of a thread at whose end it waits on no ring. -/
def Leaves (t : State) : Prop := ∀ c, (me t).wait ≠ .retry c ∧ (me t).wait ≠ .again c

theorem ringI_leaves (h : QueuesReady s [] dsts) (hk : finish 2 false (if !(ring (myCore s) n).en
    then .trap s 0x07 (BitVec.ofNat 64 n.val) else k s (ring (myCore s) n)) = t) (hl : Leaves t) (hc : t.cur = s.cur) :
    ringI 2 n dsts s k = leaveRings t s.cur := by
  unfold ringI
  have hr : runI 2 [] dsts s (fun s => if !(ring (myCore s) n).en then .trap s 0x07 (BitVec.ofNat 64 n.val)
      else k s (ring (myCore s) n)) = t := (runI_ready h ..).trans hk
  dsimp only
  rw [hr]
  split
  · rename_i c hw; exact absurd hw (hl c).1
  · rename_i c hw; exact absurd hw (hl c).2
  · rw [hc]
theorem leaves_of_wait_none {t : State} (h : (me t).wait = .none) : Leaves t := by
  intro c; rw [h]; exact ⟨nofun, nofun⟩

theorem leaves_trapMe (s : State) (code : Nat) (v : Word) : Leaves (trapMe s code v) := by
  rcases trapMe_cases s code v with ⟨x, -, -, h⟩ | ⟨-, h⟩
  · exact leaves_of_wait_none (by rw [h, entered, me_modMe])
  · intro c; rw [h, me_freeze]; exact ⟨nofun, nofun⟩
theorem leaves_passed (t : State) (len : Nat) (srcs : List Reg) : Leaves (passed t len srcs) :=
  leaves_of_wait_none (by rw [me_passed])

theorem trapMe_cur (s : State) (code : Nat) (v : Word) : (trapMe s code v).cur = s.cur := by
  rcases trapMe_cases s code v with ⟨x, -, -, h⟩ | ⟨-, h⟩ <;> rw [h] <;> rfl
theorem passed_cur (t : State) (len : Nat) (srcs : List Reg) : (passed t len srcs).cur = t.cur := by rw [passed_state]

/-- A ring instruction that traps or completes leaves the rings. -/
theorem ringI_disabled (h : QueuesReady s [] dsts) (he : (ring (myCore s) n).en = false) :
    ringI 2 n dsts s k = leaveRings (trapMe s 0x07 (BitVec.ofNat 64 n.val)) s.cur :=
  ringI_leaves h (by rw [he]; rfl) (leaves_trapMe _ _ _) (trapMe_cur ..)
theorem ringI_traps (h : QueuesReady s [] dsts) (he : (ring (myCore s) n).en = true) {code : Nat} {v : Word}
    (hk : k s (ring (myCore s) n) = .trap s code v) : ringI 2 n dsts s k = leaveRings (trapMe s code v) s.cur :=
  ringI_leaves h (by rw [he, hk]; rfl) (leaves_trapMe _ _ _) (trapMe_cur ..)
theorem ringI_done (h : QueuesReady s [] dsts) (he : (ring (myCore s) n).en = true) {u : State}
    (hk : k s (ring (myCore s) n) = .done u) (hc : u.cur = s.cur) : ringI 2 n dsts s k = leaveRings (passed u 2 []) s.cur :=
  ringI_leaves h (by rw [he, hk]; rfl) (leaves_passed _ _ _) (by rw [passed_cur, hc])

end

/-- R167: a word that describes a legal ring with EN 1. -/
theorem exec_rcfg {s : State} {n : Fin 4} {b : Reg} (h : QueuesReady s [b] []) (hz : bits (rd s b) 63 30 = 0)
    (hssz : bits (rd s b) 19 16 ≤ 11) (hbase : bits (rd s b) 15 0 % (8 * 2 ^ bits (rd s b) 19 16) = 0)
    (hen : bits (rd s b) 29 29 = 1)
    (hend : bits (rd s b) 15 0 + (bits (rd s b) 27 20 + 1) * (8 * 2 ^ bits (rd s b) 19 16) ≤ 49152)
    (hold : (ring (myCore s) n).en = false) : exec (.rcfg n b) s =
      .next (passed (modMyCore s (fun x => setRing x n (ringOfWord (rd s b)))) 2 [b]) := by
  refine congrArg _ ((runI_ready h ..).trans ?_)
  have hon : (ringOfWord (rd s b)).en = true := by simp [ringOfWord, hen]
  dsimp only
  rw [if_neg, if_neg (by simp [hold]), if_pos hon]
  · rfl
  · rintro (h0 | ⟨-, h1 | h1 | h1⟩)
    · exact h0 hz
    · exact absurd h1 (Nat.not_lt.2 hssz)
    · exact h1 hbase
    · exact absurd h1 (Nat.not_lt.2 hend)

theorem ring_setRing (x : Core) (n : Nat) (r : Ring) : ring (setRing x n r) n = r := by rw [ring, setRing, fget_fset_self]; rfl
theorem ring_passed (t : State) (len : Nat) (srcs : List Reg) (n : Nat) : ring (myCore (passed t len srcs)) n = ring
    (myCore t) n := by
  rw [myCore_passed]; rfl
theorem filter_ne (l : List RWait) (w : RWait) : l.filter (· ≠ w) = l.filter (· != w) :=
  List.filter_congr fun x _ => by rw [bne, decide_not]; rfl
theorem ready_none (s : State) : QueuesReady s [] [] := ⟨nofun, nofun⟩

/-- Settles O22: `ringI` ends an instruction that completes or traps by `leaveRings`. -/
theorem ringOperations : Obligations.RingOperations := by
  unfold Obligations.RingOperations
  intro s a b n
  refine ⟨fun t => ⟨leaveRings_state .., fun c hc => ?_, ?_, fun k => ?_⟩, fun hq hz hen hssz hbase hend hold => ?_,
    fun hq => ⟨fun he => ⟨?_, ?_⟩, fun he hf hp => ?_, fun he hf hp => ?_⟩, fun he hh hfence => ?_, fun he ht => ?_,
    fun he => ⟨?_, ?_⟩, fun he hh => ?_, fun he ht => ?_⟩
  · rw [core_leaveRings, if_neg hc]
  · refine (core_leaveRings ..).trans (if_pos rfl)
  · rw [ring_leaveRings, filter_ne, filter_ne]; rfl
  · refine ⟨_, ringOfWord (rd s b), exec_rcfg hq hz hssz hbase hen hend hold, ?_, by simp [ringOfWord, hen],
      rfl, rfl, rfl, rfl, rfl, rfl, rfl, rfl, by rw [me_passed]⟩
    rw [ring_passed, myCore_modMyCore, ring_setRing]
  · exact congrArg _ (ringI_disabled hq he)
  · exact congrArg _ (ringI_disabled hq he)
  · refine congrArg _ (ringI_done hq he (u := wr (modMyCore s _) a _) ?_ (wr_cur ..))
    rw [ringReserve, if_neg (by rw [hp]; simp [hf])]
    rfl
  · refine congrArg _ (ringI_done hq he (u := wr (modMyCore s _) a _) ?_ (wr_cur ..))
    rw [ringTake, if_neg (by rw [hp]; simp [hf])]
    rfl
  · refine congrArg _ (ringI_done (ready_none s) he (u := modMyCore s _) ?_ rfl)
    rw [if_neg hh, fenced_open hfence]
    rfl
  · exact congrArg _ (ringI_done (ready_none s) he (u := modMyCore s _) (if_neg ht) rfl)
  · exact congrArg _ (ringI_disabled (ready_none s) he)
  · exact congrArg _ (ringI_disabled (ready_none s) he)
  · exact congrArg _ (ringI_traps (ready_none s) he (if_pos hh))
  · exact congrArg _ (ringI_traps (ready_none s) he (if_pos ht))

/-! ## Queues (R169 to R171) -/

section
variable {s : State} {a b : Reg}

/-- The state whose downstream queue has the entry of a `qend`. -/
def ended (s : State) (a : Reg) : State := modMyCore s (fun x => pushQo x s.cycle ⟨rd s a, true⟩)
theorem exec_qend (h : QueuesReady s [a] [31]) : exec (.qend a) s = .next (passed (ended s a) 2 [a]) :=
  congrArg _ (runI_ready h ..)
theorem exec_qendRet (s : State) : exec .qendRet s = .next (if (me s).qh
    then went (modMe s (fun t => { t with qh := false })) [] (me s).qhlk else trapMe s 0x07 (me s).pc) := by
  refine congrArg _ ((FetchingAndIssuing.runI_plain s 2 _).trans ?_)
  split <;> rfl

theorem pushQo_slots (x : Core) (now : Nat) (e : QEntry) : (pushQo x now e).slots = x.slots := by
  unfold pushQo qTick; split <;> rfl
theorem pushQo_down (x : Core) (now : Nat) (e : QEntry) : (pushQo x now e).down = x.down ++ [e] := by
  unfold pushQo qTick; split <;> rfl
theorem sameMemory_ended : SameMemory s (ended s a) := ⟨⟨rfl, rfl, rfl⟩, rfl, rfl⟩
theorem me_ended : me (ended s a) = me s := thr_modCore_slots _ _ _ (fun x => pushQo_slots x _ _) _
theorem myCore_ended : myCore (ended s a) = pushQo (myCore s) s.cycle ⟨rd s a, true⟩ := myCore_modMyCore ..
theorem down_passed (t : State) (len : Nat) (srcs : List Reg) : (myCore (passed t len srcs)).down = (myCore t).down := by
  rw [myCore_passed]; rfl

end

/-! ### Links -/

section
variable {s : State} {a b : Reg}

theorem exec_qcfg (h : QueuesReady s [b] [a]) (hd : (myCore s).down = []) (hq : (myCore s).qoHeld = 0) :
    exec (.qcfg a b) s = .next (finish 2 ([b].contains 30) (if bits (rd s b) 15 0 = 0
      then .done (wr (relink s s.cur.core none) a 0)
      else withRole s (bits (rd s b) 15 0) (fun u r => qcfgGo u a (bits (rd s b) 15 0) r))) := by
  refine congrArg _ ((runI_ready h ..).trans ?_)
  dsimp only
  rw [if_neg (by simp [hd, hq])]

theorem exec_qcfg_unlink (h : QueuesReady s [b] [a]) (hd : (myCore s).down = []) (hq : (myCore s).qoHeld = 0)
    (hc : bits (rd s b) 15 0 = 0) : exec (.qcfg a b) s = .next (wrote (relink s s.cur.core none) 2 [b] a 0) := by
  rw [exec_qcfg h hd hq, if_pos hc]; rfl
theorem exec_qcfg_none (h : QueuesReady s [b] [a]) (hd : (myCore s).down = []) (hq : (myCore s).qoHeld = 0)
    (hc : bits (rd s b) 15 0 ≠ 0) (hr : rolePa s (me s) (bits (rd s b) 15 0) = none) :
    exec (.qcfg a b) s = .next (wrote s 2 [b] a 2) := by
  rw [exec_qcfg h hd hq, if_neg hc, withRole_none hr]; rfl
theorem linkStatus_free {i : Ident} {d : Nat} (frm : Nat) (ha : arriveAt s d i 0 = .accept)
    (hu : (Machine.core s d).upLink = none) : linkStatus s frm d i = (0, d) := by
  have ht : linkTarget s i 3 d = some d := by rw [linkTarget, ha]
  rw [linkStatus, ht]
  dsimp only
  rw [hu]; rfl
theorem arriveAt_roleRead (code d : Nat) (i : Ident) (n : Nat) : arriveAt (roleRead s code) d i n = arriveAt s d i n := by
  obtain ⟨_, h⟩ := roleRead_eq s code; rw [h]; rfl
theorem identOf_roleRead (code : Nat) (u : Thread) (x : Bool) : identOf (roleRead s code) u x = identOf s u x := by
  obtain ⟨_, h⟩ := roleRead_eq s code; rw [h]; rfl
theorem exec_qcfg_link (h : QueuesReady s [b] [a]) (hd : (myCore s).down = []) (hq : (myCore s).qoHeld = 0)
    (hc : bits (rd s b) 15 0 ≠ 0) (hlt : bits (rd s b) 15 0 < 49152) {e : Word} {d : Nat} (hr : RoleIs s (bits (rd s b) 15 0) e)
    (hv : entV e = true) (he : entCore e = some d) (ha : arriveAt s d (identOf s (me s) false) 0 = .accept)
    (hu : (Machine.core s d).upLink = none) : exec (.qcfg a b) s = .next
      (wrote (relink (roleRead s (bits (rd s b) 15 0)) s.cur.core (some d)) 2 [b] a 0) := by
  have hl : linkStatus (roleRead s (bits (rd s b) 15 0)) s.cur.core d (identOf s (me s) false) = (0, d) :=
    linkStatus_free _ (by rw [arriveAt_roleRead, ha]) (by rw [core_roleRead, hu])
  rw [exec_qcfg h hd hq, if_neg hc, withRole_is hr, qcfgGo, hv, he]
  dsimp only
  rw [if_neg (by omega), me_roleRead, identOf_roleRead, cur_roleRead, hl]
  rfl

end

/-! What a link changes, and what leaves the links. -/

theorem links_wr (s : State) (r : Reg) (x : Word) (c : Nat) : (Machine.core (wr s r x) c).upLink = (Machine.core s c).upLink
    ∧ (Machine.core (wr s r x) c).downLink = (Machine.core s c).downLink := by
  by_cases hc : c = s.cur.core
  · subst hc
    have h := myCore_wr s r x
    rw [myCore, wr_cur] at h
    rw [h]
    split
    · exact ⟨rfl, rfl⟩
    · split
      · unfold pushQo qTick; split <;> exact ⟨rfl, rfl⟩
      · exact ⟨rfl, rfl⟩
  · rw [core_wr_other _ _ _ hc]; exact ⟨rfl, rfl⟩
theorem links_passed (s : State) (len : Nat) (srcs : List Reg) (c : Nat) :
    (Machine.core (passed s len srcs) c).upLink = (Machine.core s c).upLink
    ∧ (Machine.core (passed s len srcs) c).downLink = (Machine.core s c).downLink := by
  by_cases hc : c = s.cur.core
  · subst hc
    have h := myCore_passed s len srcs
    rw [myCore, passed_cur] at h
    rw [h]; exact ⟨rfl, rfl⟩
  · rw [core_passed_other _ _ _ hc]; exact ⟨rfl, rfl⟩
theorem links_wrote (s : State) (len : Nat) (srcs : List Reg) (r : Reg) (x : Word) (c : Nat) :
    (Machine.core (wrote s len srcs r x) c).upLink = (Machine.core s c).upLink
    ∧ (Machine.core (wrote s len srcs r x) c).downLink = (Machine.core s c).downLink := by
  obtain ⟨pu, pd⟩ := links_passed (wr s r x) len srcs c
  obtain ⟨wu, wd⟩ := links_wr s r x c
  rw [wrote_eq]; exact ⟨pu.trans wu, pd.trans wd⟩
theorem wrote_cur (s : State) (len : Nat) (srcs : List Reg) (r : Reg) (x : Word) : (wrote s len srcs r x).cur = s.cur := by
  rw [wrote_eq, passed_cur, wr_cur]
theorem g_wrote (s : State) (len : Nat) (srcs : List Reg) {r : Reg} (x : Word) (h0 : r ≠ 0) (h31 : r ≠ 31) :
    (me (wrote s len srcs r x)).g[r] = x := by
  rw [me_wrote, if_neg (by simp [h0, h31])]; simp

theorem relink_cur (s : State) (c : Nat) (d : Option Nat) : (relink s c d).cur = s.cur := by
  have link : ∀ (u : State) (o : Option Nat), (match o with
      | some t => if t < modBase then modCore u t (fun x => { x with upLink := some c }) else u
      | none => u).cur = u.cur := by
    intro u o
    cases o with
    | none => rfl
    | some t => dsimp only; split <;> rfl
  refine (link _ d).trans ?_
  dsimp only [modCore_cur]
  split
  · split
    · split <;> rfl
    · rfl
  · rfl
/-- A core that has a link to a core of this module is linked to none. -/
theorem relink_none {s : State} {c : Nat} (h : ∀ o, (Machine.core s c).downLink = some o → foreignMod o = none) :
    (Machine.core (relink s c none) c).downLink = none
    ∧ ∀ o, (Machine.core s c).downLink = some o → (Machine.core (relink s c none) o).upLink = none := by
  cases hd : (Machine.core s c).downLink with
  | none =>
    refine ⟨?_, nofun⟩
    simp only [relink, hd, core_modCore_self]
  | some o =>
    simp only [relink, hd, h o hd, core_modCore_self, true_and]
    rintro _ ⟨⟩
    rw [core_modCore]
    split
    · rename_i hoc; subst hoc; rw [core_modCore_self]
    · rw [core_modCore_self]
theorem relink_some {s : State} {c d : Nat} (h : (Machine.core s c).downLink = none) (hd : d < modBase) :
    (Machine.core (relink s c (some d)) c).downLink = some d ∧ (Machine.core (relink s c (some d)) d).upLink = some c := by
  simp only [relink, h, if_pos hd, core_modCore_self, and_true]
  rw [core_modCore]
  split
  · rename_i hcd; subst hcd; rw [core_modCore_self]
  · rw [core_modCore_self]

/-! ### The transfer of an entry -/

section
variable {s : State} {c d : Nat} {e : QEntry} {l : List QEntry}

theorem canMove_of (hd : (Machine.core s c).down = e :: l) (hl : (Machine.core s c).downLink = some d) (hm : d < modBase)
    (hb : (Machine.core s c).qoBusy ≤ s.cycle) (ho : (Machine.core s c).qAt = s.cycle → (Machine.core s c).dnOut = 0)
    (hs : (Machine.core s d).stopped = false) (hr : (Machine.core s d).up.length + (Machine.core s d).qiHeld < 16) :
    canMove s c = true := by
  have ht : (qTick (Machine.core s c) s.cycle).dnOut = 0 := by
    unfold qTick; split
    · rename_i h; exact ho h
    · rfl
  simp [canMove, hd, hl, hb, ht, linkRoom, hm, hs, hr]
theorem exec_queueTransfer (hd : (Machine.core s c).down = e :: l) (hl : (Machine.core s c).downLink = some d) (hm : d < modBase)
    (hmv : canMove s c = true) : exec .queueTransfer (facing s (.queueTransfer c)) = .next
      (modCore (modCore (facing s (.queueTransfer c)) c (fun x => { qTick x s.cycle with
          down := l, dnOut := (qTick x s.cycle).dnOut + 1 }))
        d (fun x => { qTick x s.cycle with up := (qTick x s.cycle).up ++ [e], upIn := (qTick x s.cycle).upIn + 1 })) := by
  have hd' : (Machine.core (facing s (.queueTransfer c)) c).down = e :: l := hd
  have hl' : (Machine.core (facing s (.queueTransfer c)) c).downLink = some d := hl
  have hmv' : canMove (facing s (.queueTransfer c)) c = true := hmv
  have hf : foreignMod d = none := if_pos hm
  rw [show exec .queueTransfer = execQueueTransfer from rfl]
  simp only [execQueueTransfer, facing_ev, queueMove, hd', hl', hmv', hf]
  rfl
theorem qTick_up (x : Core) (now : Nat) : (qTick x now).up = x.up := by unfold qTick; split <;> rfl
theorem qTick_down (x : Core) (now : Nat) : (qTick x now).down = x.down := by unfold qTick; split <;> rfl

end

/-- Settles O23. -/
theorem queueOperations : Obligations.QueueOperations := by
  unfold Obligations.QueueOperations
  intro s a b
  refine ⟨fun hq => ⟨_, exec_qend hq, ?_, ?_, ?_, ?_, ?_⟩, fun hh => ?_, fun hh => ?_, fun hq hd hheld h0 h31 => ?_,
    fun c d e l hd hl hcd hm hb ho hs hr => ?_⟩
  · rw [down_passed, myCore_ended, pushQo_down]
  · rw [me_passed, me_ended]
  · rw [me_passed, me_ended]; rfl
  · rw [me_passed]
  · intro k; rw [devByte_passed]; exact sameMemory_ended.devByte k
  · refine ⟨_, (exec_qendRet s).trans (by rw [if_pos hh]), ?_⟩
    rw [me_went, me_modMe]
  · rw [exec_qendRet, if_neg (by simp [hh])]
  · refine ⟨fun hc hlink => ?_, fun hc hr => exec_qcfg_none hq hd hheld hc hr, fun e d hc hlt hr hv he hdm ha hu hdl => ?_⟩
    · obtain ⟨hdn, hup⟩ := relink_none hlink
      refine ⟨_, exec_qcfg_unlink hq hd hheld hc, ?_, g_wrote _ _ _ _ h0 h31, fun o ho => ?_⟩
      · rw [myCore, wrote_cur, relink_cur, (links_wrote ..).2]; exact hdn
      · rw [(links_wrote ..).1]; exact hup o ho
    · have hdl' : (Machine.core (roleRead s (bits (rd s b) 15 0)) s.cur.core).downLink = none := by rw [core_roleRead]; exact hdl
      obtain ⟨hdn, hup⟩ := relink_some hdl' hdm
      refine ⟨_, exec_qcfg_link hq hd hheld hc hlt hr hv he ha hu, ?_, ?_, g_wrote _ _ _ _ h0 h31⟩
      · rw [myCore, wrote_cur, relink_cur, cur_roleRead, (links_wrote ..).2]; exact hdn
      · rw [(links_wrote ..).1]; exact hup
  · refine ⟨_, exec_queueTransfer hd hl hm (canMove_of hd hl hm hb ho hs hr), ?_, ?_, rfl⟩
    · rw [core_modCore, if_neg hcd, core_modCore_self]
    · rw [core_modCore_self, core_modCore, if_neg (Ne.symm hcd), qTick_up]; rfl

end Sys2Proof.Proofs.LocalMemory
end

section
/-!
PROOFS. # Placing and messages (O24 to O28)

What a placement, a mailbox message, a class message and a shipped context do at the core that they reach, and what
the
instructions that send them do once their checks hold. The instructions that name a role share one rule (`toRole_is`).
-/
namespace Sys2Proof.Proofs.Placing
open Sys2Proof Sys2Proof.Machine DeviceMemory Roles RemoteAccess Replies LocalMemory

/-! ## Instructions that send to a role (R73, R77) -/

section
variable {s : State} {code : Nat}

theorem rolePa_of_resolve_none (h : resolve s (me s) code = .none) : rolePa s (me s) code = none := by
  unfold resolve at h
  cases hp : rolePa s (me s) code with
  | none => rfl
  | some pa => rw [hp] at h; dsimp only at h; split at h <;> cases h
theorem fenceOpen_roleRead {sc : Scope} (h : FenceOpen s sc) (code : Nat) : FenceOpen (roleRead s code) sc := by
  obtain ⟨_, he⟩ := roleRead_eq s code; rw [he]; exact h
theorem toRole_none (h : resolve s (me s) code = .none) (a : Reg) (k : State → Nat → Option Nat → Nat → State) :
    toRole s code a k = .done (wr s a 2) := by rw [toRole, withRole_none (rolePa_of_resolve_none h)]
/-- R267: an instruction that sends to a role bound on this module, its release done, sends. -/
theorem toRole_is {e : Word} {d : Nat} (h : RoleIs s code e) (hv : entV e = true) (hd : entCore e = some d)
    (hm : entMod e = s.fab.modnum) (hf : FenceOpen s (destScope s e (decide (code / 2 ^ 14 = 3)))) (a : Reg)
    (k : State → Nat → Option Nat → Nat → State) :
    toRole s code a k = .reply (k (roleRead s code) d none (entGen e)) (a == 31) .dflt := by
  have hscope : destScope (roleRead s code) e (decide (code / 2 ^ 14 = 3)) = destScope s e (decide (code / 2 ^ 14 = 3)) := by
    rw [destScope, destScope, fab_roleRead, cur_roleRead]
  rw [toRole, withRole_is h]
  dsimp only
  rw [hv, hd]
  dsimp only
  rw [fab_roleRead, hm, hscope, fenced_open (fenceOpen_roleRead hf code)]
  simp

end

/-! ## `start` and `spawn` (R74, R77, R79) -/

/-- The placement that `start` or `spawn` sends on this module. -/
def placed (s : State) (a b : Reg) (target : Word) (guest : Bool) (role gen c : Nat) : PlaceMsg :=
  ⟨c, identOf s (me s) false, role, gen, guest, target, fourWords s b, .thr s.cur, a, 0⟩
theorem sendPlace_here (s : State) (a b : Reg) (target : Word) (guest : Bool) (role gen c : Nat) :
    sendPlace s a b target guest role gen c none = post s (.place (placed s a b target guest role gen c)) := rfl
theorem fourWords_roleRead (s : State) (code : Nat) (b : Reg) : fourWords (roleRead s code) b = fourWords s b := by
  simp only [fourWords, rd_roleRead]
theorem relTarget_roleRead (s : State) (code : Nat) (o : Int) : relTarget (roleRead s code) o = relTarget s o := by
  rw [relTarget, relTarget, me_roleRead]
theorem placed_roleRead (s : State) (code : Nat) (a b : Reg) (target : Word) (guest : Bool) (role gen c : Nat) :
    placed (roleRead s code) a b target guest role gen c = placed s a b target guest role gen c := by
  obtain ⟨_, h⟩ := roleRead_eq s code
  rw [placed, fourWords_roleRead, cur_roleRead, me_roleRead, h]; rfl

section
variable {s : State} {a b c : Reg} {i : Imm}

theorem exec_start (h : QueuesReady s (regRun b 4) [a]) : exec (.start a b i) s = .next
    (finish (2 + i.n) ((regRun b 4).contains 30) (if s.cur.slot ≠ 0 then .done (wr s a 4)
      else if helpers (myCore s) = 10 then .done (wr s a 1)
      else fenced s true .core (fun s =>
        .reply (sendPlace s a b (relTarget s i.v) false 0 0 s.cur.core none) (a == 31) .dflt))) :=
  congrArg _ (runI_ready h ..)
theorem exec_spawn (h : QueuesReady s (regRun b 4) [a]) : exec (.spawn a b i) s = .next
    (finish (2 + i.n) ((regRun b 4).contains 30) (toRole s (i.v % 65536).toNat a
      (fun s c m gen => sendPlace s a b (relTarget s (i.v / 65536)) true (i.v % 65536).toNat gen c m))) :=
  congrArg _ (runI_ready h ..)
theorem exec_spawnReg (h : QueuesReady s (c :: regRun b 4) [a]) : exec (.spawnReg a b c i) s = .next
    (finish (3 + i.n) ((c :: regRun b 4).contains 30) (toRole s (bits (rd s c) 15 0) a
      (fun u d m gen => sendPlace u a b (relTarget u i.v) true (bits (rd s c) 15 0) gen d m))) :=
  congrArg _ (runI_ready h ..)

end

theorem regRun_four (b : Reg) : [b, regUp b 1, regUp b 2, regUp b 3] = regRun b 4 := by
  have h0 : regUp b 0 = b := by simp [regUp]
  simp [regRun, List.range_succ, h0]

/-- Settles O24. -/
theorem placementsSent : Obligations.PlacementsSent := by
  unfold Obligations.PlacementsSent
  intro s a b c i
  dsimp only
  rw [regRun_four]
  refine ⟨fun hq => ⟨fun h0 => ?_, fun h0 h10 => ?_, fun h0 h10 hf => ?_, fun hr => ?_, fun e d hr hv hd hm hf => ?_⟩,
    fun hq => ⟨fun hr => ?_, fun e d hr hv hd hm hf => ?_⟩⟩
  · rw [exec_start hq, if_pos h0]; rfl
  · rw [exec_start hq, if_neg (not_not.2 h0), if_pos h10]; rfl
  · refine ⟨placed s a b (relTarget s i.v) false 0 0 s.cur.core, ?_, rfl, rfl, rfl, rfl, rfl, rfl⟩
    rw [exec_start hq, if_neg (not_not.2 h0), if_neg h10, fenced_open hf]; rfl
  · rw [exec_spawn hq, toRole_none hr]; rfl
  · refine ⟨placed s a b (relTarget s (i.v / 65536)) true _ (entGen e) d, ?_, rfl, rfl, rfl, rfl, rfl, rfl, rfl, rfl⟩
    rw [exec_spawn hq, toRole_is hr hv hd hm hf, sendPlace_here, placed_roleRead, relTarget_roleRead]; rfl
  · rw [exec_spawnReg hq, toRole_none hr]; rfl
  · refine ⟨placed s a b (relTarget s i.v) true _ (entGen e) d, ?_, rfl, rfl, rfl, rfl, rfl, rfl, rfl, rfl⟩
    rw [exec_spawnReg hq, toRole_is hr hv hd hm hf, sendPlace_here, placed_roleRead, relTarget_roleRead]; rfl

/-! ## A placement at its core (R46, R71, R79) -/

section
variable {s : State} {m : PlaceMsg} {r : TRef}

/-- The range of slots that a placement may take. -/
def lowSlot (m : PlaceMsg) : Nat := if m.guest then 11 else 1
def highSlot (m : PlaceMsg) : Nat := if m.guest then 26 else 10

/-- The lowest number of a range at which something stands. -/
theorem firstSome_first {α : Type} {f : Nat → Option α} {k : Nat} {x : α} (n i : Nat) (hk : i ≤ k) (hn : k < i + n)
    (hx : f k = some x) (h : ∀ j, i ≤ j → j < k → f j = none) : firstSome f i n = some x := by
  induction n generalizing i with
  | zero => omega
  | succ n ih =>
    rw [firstSome]
    rcases Nat.eq_or_lt_of_le hk with rfl | hlt
    · rw [hx]
    · rw [h i (le_refl _) hlt]
      exact ih (i + 1) hlt (by omega) fun j hj => h j (by omega)
theorem isFree_iff (now : Nat) (t : Thread) : isFree now t = true ↔ t.st = .free ∧ t.readyAt ≤ now := by
  simp [isFree]
theorem freeSlot_first {x : Core} {now lo hi n : Nat} (hlo : lo ≤ n) (hhi : n ≤ hi) (hn : isFree now (slotOf x n) = true)
    (h : ∀ k, lo ≤ k → k < n → ¬ isFree now (slotOf x k) = true) : freeSlot x now lo hi = some n :=
  firstSome_first _ _ hlo (by omega) (if_pos hn) fun k hk hkn => if_neg (h k hk hkn)
theorem freeSlot_none {x : Core} {now lo hi : Nat} (h : ∀ k, lo ≤ k → k ≤ hi → ¬ isFree now (slotOf x k) = true) :
    freeSlot x now lo hi = none :=
  LocalMemory.firstSome_none _ _ fun k hk => if_neg (h _ (by omega) (by omega))

/-- The slot that a placement takes. -/
def placeSlot (s : State) (m : PlaceMsg) : Option Nat := freeSlot (Machine.core s m.dest) s.cycle (lowSlot m) (highSlot m)
/-- The state in which a placement's thread stands in a slot. -/
def seated (s : State) (m : PlaceMsg) (n : Nat) : State := fill (facing s (.place m)) ⟨m.dest, n⟩
  (newThread ⟨m.dest, n⟩ (launchNum s m.ident) m.target m.words s.cycle)
theorem exec_place (hr : m.rto = .thr r) : exec .place (facing s (.place m)) = .next
    (match arriveAt s m.dest m.ident m.hops with
    | .forward c => post (facing s (.place m)) (.place { m with dest := c, hops := m.hops + 1 })
    | .refuse => post (facing s (.place m)) (.reply r (.writes [(m.dst, 3)]))
    | .accept => match placeSlot s m with
      | none => post (facing s (.place m)) (.reply r (.writes [(m.dst, 1)]))
      | some n => post (seated s m n) (.reply r (.writes [(m.dst, 0)]))) := by
  rw [show exec .place = execPlace from rfl]
  simp only [execPlace, facing_ev, placeGo, hr, answer_thr, status]
  have ha : arriveAt (facing s (.place m)) m.dest m.ident m.hops = arriveAt s m.dest m.ident m.hops := rfl
  have hp : (if m.guest then freeGuest (Machine.core (facing s (.place m)) m.dest) (facing s (.place m)).cycle
      else freeSlot (Machine.core (facing s (.place m)) m.dest) (facing s (.place m)).cycle 1 10) = placeSlot s m := by
    unfold placeSlot lowSlot highSlot freeGuest
    cases m.guest <;> rfl
  rw [ha, hp]
  cases arriveAt s m.dest m.ident m.hops with
  | forward c => rfl
  | refuse => rfl
  | accept => cases placeSlot s m <;> rfl

end

/-- A new thread: the four words in g1 to g4, every other register as reset leaves it. -/
theorem thr_seated {s : State} {m : PlaceMsg} {w0 w1 w2 w3 : Word} (hw : m.words = [w0, w1, w2, w3]) (n : Nat) :
    thr (seated s m n) ⟨m.dest, n⟩ = { Thread.reset n with
      st := .live, pc := m.target, launch := launchNum s m.ident, home := ⟨m.dest, n⟩, readyAt := s.cycle + 1
      g := ((((Vector.replicate 32 0).set 1 w0).set 2 w1).set 3 w2).set 4 w3
      rupdOut := (thr s ⟨m.dest, n⟩).rupdOut, stmOut := (thr s ⟨m.dest, n⟩).stmOut } := by
  rw [seated, thr_fill_self, hw]; rfl
theorem four_g_other (w0 w1 w2 w3 : Word) (k : Reg) (h : k.val = 0 ∨ 5 ≤ k.val) :
    (((((Vector.replicate 32 0).set 1 w0).set 2 w1).set 3 w2).set 4 w3 : Vector Word 32)[k] = 0 := by
  have h1 : 1 ≠ k.val := by omega
  have h2 : 2 ≠ k.val := by omega
  have h3 : 3 ≠ k.val := by omega
  have h4 : 4 ≠ k.val := by omega
  simp [h1, h2, h3, h4]

/-! ## `quit` and the free message (R71, R80) -/

section
variable {s : State}

theorem streamOut_none (h : ∀ n, n < 4 → (stream (myCore s) n).owner = s.cur.slot → (stream (myCore s) n).st = .closed) :
    streamOut s s.cur = none := by
  unfold streamOut
  rw [List.find?_eq_none]
  intro n hn
  have hn4 : n < 4 := by simpa using hn
  by_cases ho : (stream (myCore s) n).owner = s.cur.slot
  · have hc := h n hn4 ho
    simp only [myCore] at ho hc
    simp [ho, hc]
  · simp only [myCore] at ho
    simp [ho]

/-- The state in which a quitting thread has told its home. -/
def toldHome (s : State) : State := sendFree s (me s).home
theorem toldHome_eq (s : State) : ∃ p f o, toldHome s = { s with pending := p, fab := f, fabOut := o } := by
  unfold toldHome sendFree
  split
  · exact ⟨_, _, _, rfl⟩
  · split <;> exact ⟨_, _, _, rfl⟩
/-- The state that a `quit` leaves: the slot is free from the cycle after the pipeline. -/
def quitting (s : State) : State := modMyCore (toldHome s) (fun x => closeStreams x s.cur.slot)
def quitted (s : State) : State := fill (quitting s) s.cur
  { Thread.reset s.cur.slot with
    readyAt := s.cycle + 8, launch := if (me s).rupdOut = 0 then none else (me s).launch }
theorem quitted_state (s : State) : quitted s = { toldHome s with cores := (quitted s).cores } := rfl
theorem me_quitted (s : State) : me (quitted s) = { Thread.reset s.cur.slot with
    readyAt := s.cycle + 8, launch := if (me s).rupdOut = 0 then none else (me s).launch
    rupdOut := (thr (quitting s) s.cur).rupdOut, stmOut := (thr (quitting s) s.cur).stmOut } := by
  obtain ⟨_, _, _, h⟩ := toldHome_eq s
  rw [me, show (quitted s).cur = s.cur by rw [quitted_state, h]]
  exact thr_fill_self ..
/-- A thread that holds no reservation and acknowledges no update leaves its slot. -/
theorem exec_quit (hr : (me s).resv = none) (ha : (me s).acks = none) (hst : streamOut s s.cur = none) :
    exec .quit s = .next (quitted s) := by
  refine congrArg _ ((FetchingAndIssuing.runI_plain s 2 _).trans ?_)
  rw [hst]
  have hcur : (toldHome s).cur = s.cur := by obtain ⟨_, _, _, h⟩ := toldHome_eq s; rw [h]
  have hcyc : (toldHome s).cycle = s.cycle := by obtain ⟨_, _, _, h⟩ := toldHome_eq s; rw [h]
  show quitGo s = _
  unfold quitGo
  dsimp only
  rw [hr, ha]
  show fill (modMyCore (toldHome s) (fun x => closeStreams x (toldHome s).cur.slot)) (toldHome s).cur
    { Thread.reset (toldHome s).cur.slot with readyAt := (toldHome s).cycle + 8, launch := _ } = _
  rw [hcur, hcyc]
  rfl
theorem toldHome_home (h : (me s).home = s.cur) : toldHome s = s := if_pos h
theorem toldHome_away (h : (me s).home ≠ s.cur) (hm : (me s).home.core < modBase) :
    toldHome s = post s (.freeMessage (me s).home) := by rw [toldHome, sendFree, if_neg h, if_pos hm]
theorem exec_freeMessage {r : TRef} (h : (thr s r).st = .away) :
    exec .freeMessage (facing s (.freeMessage r)) = .next (fill (facing s (.freeMessage r)) r (Thread.reset r.slot)) := by
  have h' : (thr (facing s (.freeMessage r)) r).st = .away := h
  rw [show exec .freeMessage = execFreeMessage from rfl]
  simp only [execFreeMessage, facing_ev, h', if_true]

end

/-- Settles O25: a placement by the slot that it finds, `quit` and its free message. -/
theorem placementArrives : Obligations.PlacementArrives := by
  unfold Obligations.PlacementArrives
  refine ⟨fun s m r w0 w1 w2 w3 hr hw => ⟨fun n ha hlo hhi hn hlow => ?_, fun ha hfull => ?_, fun ha => ?_, fun c ha => ?_⟩,
    fun s => ⟨fun hslot hres hack hstr => ?_, fun r hslot hst => ?_⟩⟩
  · have hp : placeSlot s m = some n := freeSlot_first hlo hhi ((isFree_iff ..).2 hn) fun k hk hkn hf =>
      hlow k hk hkn ((isFree_iff ..).1 hf)
    have hn26 : n ≤ 26 := hhi.trans (by cases m.guest <;> decide)
    refine ⟨post (seated s m n) (.reply r (.writes [(m.dst, 0)])), (exec_place hr).trans (by rw [ha, hp]), replied_post .., rfl,
      ?_⟩
    rw [show thr (post (seated s m n) (.reply r (.writes [(m.dst, 0)]))) ⟨m.dest, n⟩ = thr (seated s m n) ⟨m.dest, n⟩ from rfl,
      thr_seated hw]
    exact ⟨rfl, rfl, rfl, rfl, decide_eq_false (by omega), rfl, rfl, rfl, rfl, rfl, rfl, rfl, rfl, rfl, rfl, rfl, rfl, rfl, rfl,
      four_g_other w0 w1 w2 w3⟩
  · have hp : placeSlot s m = none := freeSlot_none fun k hk hkn hf => hfull k hk hkn ((isFree_iff ..).1 hf)
    exact (exec_place hr).trans (by rw [ha, hp])
  · exact (exec_place hr).trans (by rw [ha])
  · exact (exec_place hr).trans (by rw [ha])
  · refine ⟨quitted s, exec_quit hres hack (streamOut_none hstr), ?_, ?_, ?_, ?_, fun hh => ?_, fun hh hm => ?_⟩
    · rw [me_quitted]; exact if_pos hslot
    · rw [me_quitted]
    · rw [me_quitted]; rfl
    · obtain ⟨_, _, _, h⟩ := toldHome_eq s
      rw [quitted_state, h]
    · rw [quitted_state, toldHome_home hh]
    · rw [quitted_state, toldHome_away hh hm]; rfl
  · refine ⟨_, exec_freeMessage hst, ?_, rfl, rfl⟩
    rw [thr_fill_self]
    exact if_pos hslot

/-! ## Mailboxes (R81, R82) -/

section
variable {s : State} {a b c : Reg}

theorem exec_sendm (h : QueuesReady s [c, b, regUp b 1] [a]) : exec (.sendm a b c) s = .next
    (finish 3 ([c, b, regUp b 1].contains 30) (toRole s (bits (rd s c) 15 0) a (fun u d m gen =>
      let mail : Mail := ⟨rd s b, rd s (regUp b 1), unitWord s.fab.modnum s.cur.core⟩
      match m with
      | none => post u (.mailboxMessage
        ⟨d, identOf u (me u) false, bits (rd s c) 15 0, gen, bits (rd s c) 20 16, mail, .thr u.cur, a, 0⟩)
      | some m => emit u m .ordered (.mail ⟨d, identOf u (me u) true, bits (rd s c) 15 0, gen, bits (rd s c) 20 16, mail,
          .away u.fab.modnum (awayTag u.cur), a, 0⟩)))) := congrArg _ (runI_ready h ..)

end

section
variable {s : State} {m : MailMsg} {r : TRef}

/-- R81: what a message does at a core that accepts it. -/
theorem exec_mailbox (hr : m.rto = .thr r) (ha : arriveAt s m.dest m.ident m.hops = .accept) :
    exec .mailboxMessage (facing s (.mailboxMessage m)) = .next (let u := facing s (.mailboxMessage m)
      let n : TRef := ⟨m.dest, m.slot⟩
      if m.slot = 27 then
        post (post u (.wakeMessage ⟨m.dest, m.mail, launchNum u m.ident, []⟩)) (.reply r (.writes [(m.dst, 0)]))
      else if 28 ≤ m.slot then post u (.reply r (.writes [(m.dst, 4)]))
      else if (thr s n).st = .free then post u (.reply r (.writes [(m.dst, 5)]))
      else if (thr s n).st = .away ∨ (thr s n).mailbox.isSome then post u (.reply r (.writes [(m.dst, 1)]))
      else unpark (post (modThr u n (fun t => { t with mailbox := some m.mail })) (.reply r (.writes [(m.dst, 0)]))) n) := by
  have ha' : arriveAt (facing s (.mailboxMessage m)) m.dest m.ident m.hops = .accept := ha
  rw [show exec .mailboxMessage = execMailboxMessage from rfl]
  simp only [execMailboxMessage, facing_ev, mailGo, hr, answer_thr, status, ha']
  rfl
theorem thr_post (s : State) (e : Ev) (a : TRef) : thr (post s e) a = thr s a := rfl
theorem thr_facing (s : State) (e : Ev) (a : TRef) : thr (facing s e) a = thr s a := rfl
theorem unpark_none {s : State} {n : TRef} (h : (thr s n).parked = none) : unpark s n = s := by rw [unpark, h]

end

/-- The state in which a message stands in its mailbox and 0 is answered. -/
def delivered (s : State) (m : MailMsg) (r : TRef) : State :=
  post (modThr (facing s (.mailboxMessage m)) ⟨m.dest, m.slot⟩ (fun t => { t with mailbox := some m.mail }))
    (.reply r (.writes [(m.dst, 0)]))

/-- The state in which a message is answered a status. -/
def mailReply (s : State) (m : MailMsg) (r : TRef) (n : Word) : State :=
  post (facing s (.mailboxMessage m)) (.reply r (.writes [(m.dst, n)]))
/-- R81: the WAKE that follows a message to slot 27. -/
def wakeOf (s : State) (m : MailMsg) : ClassMsg := ⟨m.dest, m.mail, launchNum s m.ident, []⟩
/-- The message that a `sendm` sends on this module. -/
def mailSent (s : State) (a b c : Reg) (d : Nat) (e : Word) : MailMsg :=
  ⟨d, identOf s (me s) false, bits (rd s c) 15 0, entGen e, bits (rd s c) 20 16,
    ⟨rd s b, rd s (regUp b 1), unitWord s.fab.modnum s.cur.core⟩, .thr s.cur, a, 0⟩

section
variable {s : State} {a b : Reg}

theorem exec_wfm (h : QueuesReady s [] [a, regUp a 1, regUp a 2]) : exec (.wfm a) s = .next
    (match (me s).mailbox with
    | none => modMe s (fun t => { t with wait := .retry .mailbox })
    | some m => passed (modMe (wr (wr (wr s a m.w0) (regUp a 1) m.w1) (regUp a 2) m.sender)
        (fun t => { t with mailbox := none })) 2 []) := by
  refine congrArg _ ((runI_ready h ..).trans ?_)
  dsimp only
  cases (me s).mailbox <;> rfl
theorem me_wr_plain (s : State) {r : Reg} (x : Word) (h0 : r ≠ 0) (h31 : r ≠ 31) :
    me (wr s r x) = { me s with g := (me s).g.set r x } := by rw [me_wr, if_neg (by simp [h0, h31])]
theorem regUp_val (a : Reg) {k : Nat} (h : a.val + k < 32) : (regUp a k).val = a.val + k := by
  rw [regUp, Fin.val_ofNat]; exact Nat.mod_eq_of_lt h
theorem plain_of_val {r : Reg} (h0 : 1 ≤ r.val) (h31 : r.val ≤ 29) : r ≠ 0 ∧ r ≠ 31 := by
  constructor <;> rintro rfl
  · exact absurd h0 (by decide)
  · exact absurd h31 (by decide)

/-- The state in which a `park` waits. -/
def parking (s : State) (a b : Reg) : State := modMe s (fun t => { t with
  parked := some (if rd s b = 0 then none else some (s.cycle + (rd s b).toNat), a) })
theorem exec_park (h : QueuesReady s [b] [a]) : exec (.park a b) s = .next
    (if (me s).mailbox.isSome then wrote s 2 [b] a 1
    else asked (parking s a b) 2 [b] (a == 31) .dflt) := by
  refine congrArg _ ((runI_ready h ..).trans ?_)
  dsimp only
  split <;> rfl
/-- The state whose core holds back what an instruction with a request out will push or has popped. -/
def heldBack (t : State) (pops pushes : Bool) : State := modMyCore t (fun x =>
  { x with qoHeld := if pushes then x.qoHeld + 1 else x.qoHeld, qoRep := pushes || x.qoRep
           qiHeld := if pops then x.qiHeld + 1 else x.qiHeld })
theorem asked_eq (t : State) (len : Nat) (srcs : List Reg) (pushes : Bool) (after : Scope) : asked t len srcs pushes after =
    modMe (if srcs.contains 30 then takeQi (heldBack t (srcs.contains 30) pushes) else heldBack t (srcs.contains 30) pushes)
      (fun u => { u with wait := .reply len (if srcs.contains 30 then (myCore t).up.head? else none) pushes after }) := rfl
theorem me_heldBack (t : State) (pops pushes : Bool) : me (heldBack t pops pushes) = me t :=
  me_modMyCore_slots t _ fun _ => rfl
theorem me_takeQi (t : State) : me (takeQi t) = me t := me_modMyCore_slots t _ fun _ => rfl
/-- A request that is out: the thread waits for its answer. -/
theorem me_asked (t : State) (len : Nat) (srcs : List Reg) (pushes : Bool) (after : Scope) : me (asked t len srcs pushes after)
    = { me t with wait := .reply len (if srcs.contains 30 then (myCore t).up.head? else none) pushes after } := by
  rw [asked_eq, me_modMe]
  split
  · rw [me_takeQi, me_heldBack]
  · rw [me_heldBack]
/-- The state in which a thread is no longer parked. -/
def unparked (s : State) (r : TRef) : State := modThr (facing s (.parkTimeout r)) r (fun t => { t with parked := none })
theorem thr_unparked {r : TRef} : thr (unparked s r) r = { thr s r with parked := none } := thr_modThr_self ..
theorem exec_parkTimeout {r : TRef} (h : parkOver s r = true) :
    exec .parkTimeout (facing s (.parkTimeout r)) = .next (unpark (facing s (.parkTimeout r)) r) := by
  have h' : parkOver (facing s (.parkTimeout r)) r = true := h
  rw [show exec .parkTimeout = execParkTimeout from rfl]
  simp only [execParkTimeout, facing_ev, h', if_true]

/-- The thread whose instruction an answer completes. -/
theorem thr_replyWrites {r : TRef} {l : List (Reg × Word)} (hl : ∀ e ∈ l, e.1 ≠ 0 ∧ e.1 ≠ 31) (len : Nat) (pops : Bool) :
    ∃ n, thr (replyWrites s r len pops false .dflt l) r
      = complete len n { thr s r with g := l.foldl (fun g e => g.set e.1 e.2) (thr s r).g } := by
  obtain ⟨ht, -⟩ := @foldl_wrAt (freed s r pops false) r l hl
  refine ⟨(l.foldl (fun s e => wrAt s r e.1 e.2) (freed s r pops false)).cycle, ?_⟩
  rw [replyWrites_dflt]
  dsimp only
  rw [thr_modThr_self, ht, thr_freed]
/-- R82: a thread whose limit has passed resumes with the answer that its mailbox gives. -/
theorem unpark_over {r : TRef} {lim : Option Nat} {q : Reg} (h : (thr s r).parked = some (lim, q))
    (hm : (thr s r).mailbox = none) :
    unpark s r = replyAt (modThr s r (fun t => { t with parked := none })) r (.writes [(q, 0)]) := by
  rw [unpark, h]
  dsimp only
  rw [hm]; rfl

end

/-- Settles O26. -/
theorem mailboxes : Obligations.Mailboxes := by
  unfold Obligations.Mailboxes
  intro s a b c
  refine ⟨fun e d hq hr hv hd hm hf => ?_, fun m r hr ha => ⟨fun hlt => ⟨fun hst hmb hpk => ?_, fun hst => ?_, fun hst => ?_⟩,
    fun h27 => ?_, fun h28 => ?_⟩, fun hq hlo hhi => ⟨fun m hm => ?_, fun hm => ?_⟩, fun hq => ⟨fun hm => ?_, fun hm => ?_⟩,
    fun r d q p hpk hd hheld hw hm h0 h31 => ?_⟩
  · refine ⟨mailSent s a b c d e, (exec_sendm hq).trans ?_, rfl, rfl, rfl, rfl, rfl, rfl, rfl⟩
    rw [toRole_is hr hv hd hm hf, mailSent, ← identOf_roleRead (bits (rd s c) 15 0), ← me_roleRead s (bits (rd s c) 15 0),
      ← cur_roleRead s (bits (rd s c) 15 0)]
    rfl
  · have hn27 : m.slot ≠ 27 := by omega
    refine ⟨delivered s m r, ?_, ?_, replied_post ..⟩
    · rw [exec_mailbox hr ha, delivered]
      dsimp only
      rw [if_neg hn27, if_neg (by omega), if_neg (by rw [hst]; decide), if_neg (by simp [hst, hmb]), unpark_none]
      rw [thr_post, thr_modThr_self]
      exact hpk
    · rw [delivered, thr_post, thr_modThr_self]; rfl
  · refine ⟨mailReply s m r 1, (exec_mailbox hr ha).trans ?_, replied_post .., rfl⟩
    dsimp only
    have hnf : (thr s ⟨m.dest, m.slot⟩).st ≠ .free := by
      rcases hst with h | ⟨h, -⟩ <;> rw [h] <;> decide
    have hone : (thr s ⟨m.dest, m.slot⟩).st = .away ∨ (thr s ⟨m.dest, m.slot⟩).mailbox.isSome = true :=
      hst.imp_right fun h => Option.isSome_iff_ne_none.2 h.2
    rw [if_neg (by omega), if_neg (by omega), if_neg hnf, if_pos hone]
    rfl
  · refine ⟨mailReply s m r 5, (exec_mailbox hr ha).trans ?_, replied_post .., rfl⟩
    dsimp only
    rw [if_neg (by omega), if_neg (by omega), if_pos hst]
    rfl
  · refine ⟨post (post (facing s (.mailboxMessage m)) (.wakeMessage (wakeOf s m))) (.reply r (.writes [(m.dst, 0)])), wakeOf s m,
      (exec_mailbox hr ha).trans ?_, List.append_assoc s.pending [_] [_], rfl, rfl⟩
    dsimp only
    rw [if_pos h27]
    rfl
  · refine ⟨mailReply s m r 4, (exec_mailbox hr ha).trans ?_, replied_post .., rfl⟩
    dsimp only
    rw [if_neg (by omega), if_pos h28]
    rfl
  · obtain ⟨a0, a31⟩ := plain_of_val (r := a) hlo (by omega)
    obtain ⟨b0, b31⟩ := plain_of_val (r := regUp a 1) (by rw [regUp_val] <;> omega) (by rw [regUp_val] <;> omega)
    obtain ⟨c0, c31⟩ := plain_of_val (r := regUp a 2) (by rw [regUp_val] <;> omega) (by rw [regUp_val] <;> omega)
    refine ⟨_, (exec_wfm hq).trans (by rw [hm]), ?_, ?_, ?_, ?_⟩ <;> rw [me_passed]
    · rw [me_modMe]
    · rw [me_modMe, me_wr_plain _ _ c0 c31, me_wr_plain _ _ b0 b31, me_wr_plain _ _ a0 a31]
    · rw [me_modMe, me_wr_plain _ _ c0 c31, me_wr_plain _ _ b0 b31, me_wr_plain _ _ a0 a31]; rfl
  · rw [exec_wfm hq, hm]
  · rw [exec_park hq, if_pos (Option.isSome_iff_ne_none.2 hm)]
  · have hex : exec (.park a b) s = .next (asked (parking s a b) 2 [b] (a == 31) .dflt) := by
      rw [exec_park hq, if_neg (by simp [hm])]
    have ht := me_asked (parking s a b) 2 [b] (a == 31) .dflt
    refine ⟨_, _, hex, congrArg Thread.wait ht, ?_⟩
    rw [ht, parking, me_modMe]
  · have hover : parkOver s r = true := by
      rw [parkOver, hpk]
      simp [hd, hheld]
    have hwait : (thr (unparked s r) r).wait = .reply 2 p false .dflt := by rw [thr_unparked]; exact hw
    obtain ⟨n, ht⟩ := thr_replyWrites (s := unparked s r) (r := r) (l := [(q, 0)]) (by simp [h0, h31]) 2 p.isSome
    rw [thr_unparked] at ht
    refine ⟨_, (exec_parkTimeout hover).trans (congrArg _ ((unpark_over (s := facing s (.parkTimeout r)) hpk hm).trans
      (replyAt_writes hwait _))), ?_, ?_, ?_, ?_⟩ <;> rw [ht]
    · rfl
    · simp [Replies.complete]
    · rfl
    · rfl

/-! ## `yield`, signals and role queries (R82, R84, R85) -/

section
variable {s : State} {a b : Reg} {i : Imm}

/-- The slots of the core, but for the running one, that could issue. -/
def couldIssue (s : State) : List Nat := (List.range 32).filter (fun n => n != s.cur.slot && eligible s ⟨s.cur.core, n⟩)
theorem exec_yield (s : State) : exec .yield s = .next (passed (modMe s (fun t => { t with yieldTo := couldIssue s })) 2 []) :=
  congrArg Host.Outcome.next (FetchingAndIssuing.runI_plain s 2 _)
theorem exec_gsig (h : QueuesReady s [a, b] []) (hf : FenceOpen s .dev) : exec (.gsig a b) s =
    .next (passed (post s (.completionSignal (myLaunch s) (me s).dtag (bits (rd s a) 31 0) (bits (rd s b) 31 0))) 2 [a, b]) :=
  congrArg _ ((runI_ready h ..).trans (congrArg _ (fenced_open hf true _)))
theorem exec_gsigRun (h : QueuesReady s [a] []) (hf : FenceOpen s .dev) : exec (.gsigRun a) s =
    .next (passed (post s (.runRequest (myLaunch s) (bits (rd s a) 3 0) 1)) 3 [a]) :=
  congrArg _ ((runI_ready h ..).trans (congrArg _ (fenced_open hf true _)))

theorem rolqEff_none {code : Nat} (h : resolve s (me s) code = .none) : rolqEff s code a = .done (wr s a 0) := by
  rw [rolqEff, withRole_none (rolePa_of_resolve_none h)]
theorem rolqEff_is {code : Nat} {e : Word} (h : RoleIs s code e) : rolqEff s code a =
    .reply (post (roleRead s code) (.reply s.cur (.writes [(a, e)]))) (a == 31) .dflt := by
  rw [rolqEff, withRole_is h]
  dsimp only
  rw [cur_roleRead]
theorem exec_rolq (h : QueuesReady s [b] [a]) : exec (.rolq a b) s =
    .next (finish 2 ([b].contains 30) (rolqEff s (bits (rd s b) 15 0) a)) := congrArg _ (runI_ready h ..)
theorem exec_rolqImm (h : QueuesReady s [] [a]) : exec (.rolqImm a i) s =
    .next (finish (2 + i.n) false (rolqEff s i.v.toNat a)) := congrArg _ (runI_ready h ..)

end

/-- Settles O27. -/
theorem yieldSignalsAndRoles : Obligations.YieldSignalsAndRoles := by
  unfold Obligations.YieldSignalsAndRoles
  refine ⟨fun s a b => ⟨⟨_, exec_yield s, ?_, ?_, ?_, fun n => ?_⟩, fun hf =>
    ⟨fun hq => exec_gsig hq hf, fun hq => exec_gsigRun hq hf⟩⟩,
    fun s a b i => ⟨fun hq => ⟨fun hr => ?_, fun e hr => ?_⟩, fun hq => ⟨fun hr => ?_, fun e hr => ?_⟩⟩⟩
  · rw [me_passed]
  · rw [me_passed, me_modMe]; rfl
  · rw [me_passed, me_modMe]
  · rw [me_passed, me_modMe]
    simp [couldIssue]
  · rw [exec_rolq hq, rolqEff_none hr]; rfl
  · rw [exec_rolq hq, rolqEff_is hr]; rfl
  · rw [exec_rolqImm hq, rolqEff_none hr]; rfl
  · rw [exec_rolqImm hq, rolqEff_is hr]; rfl

/-! ## Messages that start the firmware slots (R72) -/

section
variable {s : State} {m : ClassMsg} {n : Nat}

/-- An event of a message class, with the slot that it starts. -/
def IsClass (m : ClassMsg) (n : Nat) (e : Ev) (ins : Instr) : Prop :=
  (n, e, ins) ∈ [(27, Ev.wakeMessage m, Instr.wakeMessage), (28, .xlatMessage m, .xlatMessage),
    (30, .recallMessage m, .recallMessage), (31, .sysMessage m, .sysMessage)]
theorem exec_class {e : Ev} {ins : Instr} (h : IsClass m n e ins) (hd : m.dest < 1216) :
    exec ins (facing s e) = .next (classArrive (facing s e) m.dest n m.mail) := by
  simp only [IsClass, List.mem_cons, Prod.mk.injEq, List.not_mem_nil, or_false] at h
  rcases h with ⟨rfl, rfl, rfl⟩ | ⟨rfl, rfl, rfl⟩ | ⟨rfl, rfl, rfl⟩ | ⟨rfl, rfl, rfl⟩
  · rfl
  · rfl
  · rfl
  · have hc : m.dest ≠ cpUnit := by intro h; rw [h] at hd; exact absurd hd (by decide)
    rw [show exec .sysMessage = execSysMessage from rfl]
    simp only [execSysMessage, facing_ev, if_neg hc]
theorem isClass_slot {e : Ev} {ins : Instr} (h : IsClass m n e ins) : n = 27 ∨ n = 28 ∨ n = 30 ∨ n = 31 := by
  simp only [IsClass, List.mem_cons, Prod.mk.injEq, List.not_mem_nil, or_false] at h
  rcases h with ⟨h, -⟩ | ⟨h, -⟩ | ⟨h, -⟩ | ⟨h, -⟩ <;> simp [h]
theorem classReady_iff (s : State) (x : Core) (n : Nat) (hi : s.fw.instAt = false) : classReady s x n = true ↔
    (slotOf x n).st = .idle ∧ (slotOf x n).readyAt ≤ s.cycle ∧ (n = 27 → wakevAt x s.cycle ≠ 0) := by
  by_cases h27 : n = 27
  · simp [classReady, hi, and_assoc, h27]
  · simp [classReady, hi, h27]
theorem classArrive_starts {c : Nat} {w : Mail} (h : classReady s (Machine.core s c) n = true)
    (hq : classQ (Machine.core s c) n = []) :
    classArrive s c n w = startClass s c n w := if_pos ⟨h, hq⟩
theorem classArrive_waits {c : Nat} {w : Mail} (h : classReady s (Machine.core s c) n = false) :
    classArrive s c n w = setCore s c { Machine.core s c with
      classQ := fset (Machine.core s c).classQ n (classQ (Machine.core s c) n ++ [w]) } := if_neg fun hr => by simp [h] at hr
theorem thr_startClass (s : State) (c n : Nat) (w : Mail) : thr (startClass s c n w) ⟨c, n⟩ = { Thread.reset n with
    st := .live, readyAt := s.cycle + 1, pc := classEntry (Machine.core s c) s.cycle n
    g := (((Vector.replicate 32 0).set 1 w.w0).set 2 w.w1).set 3 w.sender
    launch := if n = 27 then (Machine.core s c).launch else none, home := ⟨c, n⟩
    rupdOut := (slotOf (Machine.core s c) n).rupdOut, stmOut := (slotOf (Machine.core s c) n).stmOut } := by
  rw [startClass, thr_modCore, if_pos rfl, slotOf_setSlot_self]

end

/-! ## Shipped contexts and `migr` (R83, R180) -/

section
variable {s : State} {q : ShipMsg} {r : TRef}

theorem exec_ship_nack (hh : q.toHome = false) (ha : shipAllowed s q.op = false) :
    exec .contextShipment (facing s (.contextShipment q)) = .next
      (emit (facing s (.contextShipment q)) q.frm .adaptive (.nack q)) := by
  have ha' : shipAllowed (facing s (.contextShipment q)) q.op = false := ha
  rw [show exec .contextShipment = execContextShipment from rfl]
  simp only [execContextShipment, facing_ev, shipGo, hh, ha']
  rfl
theorem exec_ship_seat (hh : q.toHome = false) (ha : shipAllowed s q.op = true) (hr : tellerSlot s q.teller = some r) :
    exec .contextShipment (facing s (.contextShipment q)) = .next (seatShip (facing s (.contextShipment q)) q r) := by
  have ha' : shipAllowed (facing s (.contextShipment q)) q.op = true := ha
  have hr' : tellerSlot (facing s (.contextShipment q)) q.teller = some r := hr
  rw [show exec .contextShipment = execContextShipment from rfl]
  simp only [execContextShipment, facing_ev, shipGo, hh, ha', hr']
  rfl
/-- The thread that a shipped context becomes. -/
def shipped (s : State) (q : ShipMsg) : Thread :=
  { q.ctx with st := .live, wait := .none, readyAt := s.cycle + 1, home := shipHome s q, launch := launchNum s q.ident }
theorem seatShip_none (h : q.fin = none) : seatShip s q r = fill s r (shipped s q) := by rw [seatShip, h]; rfl
theorem seatShip_some {n : Nat} {d : Reg} (h : q.fin = some (n, d)) : seatShip s q r =
    wrAt (fill s r { shipped s q with pc := (shipped s q).pc + BitVec.ofNat 64 (2 * n) }) r d 0 := by rw [seatShip, h]; rfl
theorem thr_wrAt (s : State) (r : TRef) {d : Reg} (x : Word) (h : d ≠ 31) :
    thr (wrAt s r d x) r = { thr s r with g := if d = 0 then (thr s r).g else (thr s r).g.set d x } := by
  unfold wrAt
  split
  · rfl
  · rw [thr_modThr_self]
theorem thr_wrAt_elsewhere (s : State) (r : TRef) (d : Reg) (x : Word) {k : TRef} (h : k.core ≠ r.core) :
    thr (wrAt s r d x) k = thr s k := by
  unfold wrAt
  split
  · rfl
  · split
    · rw [thr_modCore, if_neg h]
    · rw [thr_modThr, if_neg fun e => h (congrArg TRef.core e)]
theorem cur_wrAt (s : State) (r : TRef) (d : Reg) (x : Word) : (wrAt s r d x).cur = s.cur := by
  unfold wrAt; split
  · rfl
  · split <;> rfl
theorem thr_fill_ne (s : State) {r k : TRef} (h : k ≠ r) (t : Thread) : thr (fill s r t) k = thr s k := by
  rw [fill, thr_setThr, if_neg h]
theorem mem_wrAt (s : State) (r : TRef) (d : Reg) (x : Word) : (wrAt s r d x).mem = s.mem := by
  unfold wrAt; split
  · rfl
  · split <;> rfl

end

section
variable {s : State} {a b : Reg}

theorem exec_migr (h : QueuesReady s [b] [a]) : exec (.migr a b) s = .next (finish 2 ([b].contains 30)
    (if 27 ≤ s.cur.slot then .done (wr s a 4)
    else if b = 0 then
      if (me s).home = s.cur then .done (wr s a 4)
      else if !migrReady s then retry s .migr
      else if homeHere (me s) then .left (moveCtx s (me s).home a false)
      else .left (shipAway s ((me s).home.core / modBase - 1) 0 0 0 (some (2, a)) true false)
    else
      match translate s s.cur (rd s b) ⟨false, false, false⟩ with
      | .trap code => .trap s code (rd s b)
      | .miss => retry (raiseMiss s s.cur.core 0 (me s).launch (rd s b) 0) (.miss (rd s b))
      | .remote m pa =>
        if !migrReady s then retry s .migr
        else .left (shipAway s m pa 0 (rd s b) (some (2, a)) false (b == 30))
      | .pa pa =>
        match tellerSlot s (tellerOf pa) with
        | none => .done (wr s a 1)
        | some r => if !migrReady s then retry s .migr else .left (moveCtx s r a (b == 30)))) :=
  congrArg _ (runI_ready h ..)
theorem migrReady_of (hst : (me s).stmOut = 0) (hr : (me s).rupdOut = 0) (hb : ∀ e ∈ (myCore s).sbuf, e.slot ≠ s.cur.slot) :
    migrReady s = true := by
  have hany : (myCore s).sbuf.any (fun e => e.slot == s.cur.slot) = false := by simpa using hb
  show ((me s).stmOut == 0 && (me s).rupdOut == 0 && !(myCore s).sbuf.any (fun e => e.slot == s.cur.slot)) = true
  rw [hst, hr, hany]; rfl
/-- The state in which the home slot of a thread that moves is away. -/
def leftHome (s : State) (pops : Bool) : State :=
  modMe (popQi s pops) (fun t => { t with st := .away, wait := .none, mailbox := none })
/-- The thread that moves, behind its `migr`. -/
def moved (s : State) : Thread := { me s with pc := (me s).pc + 4, wait := .none, st := .live, readyAt := s.cycle + 8 }
theorem moveCtx_home (h : (me s).home = s.cur) (r : TRef) (a : Reg) (pops : Bool) :
    moveCtx s r a pops = wrAt (fill (leftHome s pops) r (moved s)) r a 0 := by
  unfold moveCtx
  dsimp only
  rw [me_popQi, popQi_cur, if_pos h.symm]
  rfl
theorem me_leftHome (s : State) (pops : Bool) :
    thr (leftHome s pops) s.cur = { me s with st := .away, wait := .none, mailbox := none } := by
  have h := me_modMe (popQi s pops) (fun t => { t with st := .away, wait := .none, mailbox := none })
  rw [me_popQi, me, show (modMe (popQi s pops) _).cur = s.cur from popQi_cur ..] at h
  exact h
theorem cur_leftHome (s : State) (pops : Bool) : (leftHome s pops).cur = s.cur := popQi_cur ..
theorem mem_leftHome (s : State) (pops : Bool) : (leftHome s pops).mem = s.mem := popQi_mem ..

end

/-- Settles O28: one rule for the four message classes, and for `migr` the context that moves. -/
theorem messagesStartThreads : Obligations.MessagesStartThreads := by
  unfold Obligations.MessagesStartThreads
  refine ⟨fun s => ⟨fun m n e ins h hd => ⟨fun hst hat hq hw hi => ?_, fun hst => ?_⟩, fun q r hh ha hr hfin => ?_, fun q hh
    ha => ?_⟩,
    fun s a b hq h31 => ⟨fun h27 => ?_, fun h27 h0 hh => ?_, fun pa h27 h0 htr =>
      ⟨fun ht => ?_, fun r ht hh hstm hrupd hsb hr hrc => ?_⟩⟩⟩
  · have hready : classReady (facing s e) (Machine.core (facing s e) m.dest) n = true :=
      (classReady_iff (facing s e) _ n hi).2 ⟨hst, hat, hw⟩
    refine ⟨_, (exec_class h hd).trans (congrArg _ (classArrive_starts hready hq)), ?_, rfl, rfl⟩
    dsimp only
    rw [thr_startClass]
    rcases isClass_slot h with rfl | rfl | rfl | rfl <;> exact ⟨rfl, rfl, rfl, rfl, rfl, rfl⟩
  · have hready : classReady (facing s e) (Machine.core (facing s e) m.dest) n = false := by
      have hst' : (slotOf (Machine.core (facing s e) m.dest) n).st = .live := hst
      simp [classReady, hst']
    refine ⟨_, (exec_class h hd).trans (congrArg _ (classArrive_waits hready)), ?_, ?_⟩
    · rw [thr, core_setCore_self]; rfl
    · rw [core_setCore_self, classQ, fget_fset_self]; rfl
  · have hex := exec_ship_seat hh ha hr
    cases hf : q.fin with
    | none =>
      rw [seatShip_none hf] at hex
      refine ⟨_, hex, ?_, ?_, rfl, fun _ => ⟨?_, ?_⟩, nofun⟩ <;> rw [thr_fill_self] <;> rfl
    | some e =>
      obtain ⟨n, d⟩ := e
      rw [seatShip_some hf] at hex
      have hd : d ≠ 31 := hfin n d hf
      refine ⟨_, hex, ?_, ?_, ?_, nofun, ?_⟩
      · rw [thr_wrAt _ _ _ hd, thr_fill_self]; rfl
      · rw [thr_wrAt _ _ _ hd, thr_fill_self]; rfl
      · rw [mem_wrAt]; rfl
      · rintro _ _ ⟨⟩
        rw [thr_wrAt _ _ _ hd, thr_fill_self]; exact ⟨rfl, rfl⟩
  · refine ⟨_, _, exec_ship_nack hh ha, rfl, rfl, rfl, rfl⟩
  · rw [exec_migr hq, if_pos h27]; rfl
  · rw [exec_migr hq, if_neg (by omega), if_pos h0, if_pos hh]; rfl
  · rw [exec_migr hq, if_neg (by omega), if_neg h0, htr]
    dsimp only
    rw [ht]; rfl
  · have hex : exec (.migr a b) s = .next (moveCtx s r a (b == 30)) := by
      rw [exec_migr hq, if_neg (by omega), if_neg h0, htr]
      dsimp only
      rw [ht, migrReady_of hstm hrupd hsb]; rfl
    rw [moveCtx_home hh] at hex
    refine ⟨_, hex, ?_, ?_, ?_, ?_, ?_, ?_, ?_⟩
    · rw [me, cur_wrAt, fill_cur, cur_leftHome, thr_wrAt_elsewhere _ _ _ _ (Ne.symm hrc), thr_fill_ne _ (Ne.symm hr), me_leftHome]
    · rw [thr_wrAt _ _ _ h31, thr_fill_self]; rfl
    · rw [thr_wrAt _ _ _ h31, thr_fill_self]; rfl
    · rw [thr_wrAt _ _ _ h31, thr_fill_self]; exact hh
    · rw [thr_wrAt _ _ _ h31, thr_fill_self]; rfl
    · rw [thr_wrAt _ _ _ h31, thr_fill_self]; rfl
    · rw [mem_wrAt, fill_mem, mem_leftHome]

end Sys2Proof.Proofs.Placing
end

section
/-!
PROOFS. WHAT STATEMENTS O29 AND O30 REST ON. Fences and what they wait for, the instructions of the seals, and barriers: the
checks that the barrier instructions share, and what an arrival does at the unit.
-/
namespace Sys2Proof.Proofs.Ordering
open Sys2Proof Sys2Proof.Machine DeviceMemory LocalMemory FetchingAndIssuing

/-! ## Fences (R264, R147) -/

section
variable {s : State}

/-- The state in which the running thread waits for a drain. -/
def draining (s : State) (d : Drain) (len : Nat) : State := modMe s (fun t => { t with wait := .drain d len })
theorem exec_fence (s : State) (xs : Option Scope) : exec (.fence xs) s = .next
    (if drained s s.cur (fenceDrain s s.cur (xs.getD .dflt)) then passed s (2 + optLen xs) []
    else draining s (fenceDrain s s.cur (xs.getD .dflt)) (2 + optLen xs)) := by
  refine congrArg Host.Outcome.next ((runI_plain s (2 + optLen xs) _).trans ?_)
  dsimp only [scopeIs]
  split <;> rfl
/-- A fence of a scope has nothing to wait for. -/
theorem drained_fence_iff (s : State) (sc : Scope) : drained s s.cur (fenceDrain s s.cur sc) = true ↔
    (me s).stmOut = 0 ∧ (2 ≤ scopeRank sc → (myCore s).sbuf = []) ∧ (3 ≤ scopeRank sc → (me s).rupdOut = 0) := by
  have hme : slotOf (Machine.core s s.cur.core) s.cur.slot = me s := rfl
  have hsb : ((Machine.core s s.cur.core).sbuf.all
      (fun e => !((Machine.core s s.cur.core).sbuf.map (·.id)).contains e.id)) = true ↔ (myCore s).sbuf = [] := by
    rw [← myCore, List.all_eq_true, List.eq_nil_iff_forall_not_mem]
    refine forall_congr' fun e => ?_
    by_cases he : e ∈ (myCore s).sbuf
    · simp only [he, true_implies, not_true_eq_false, iff_false]
      have : ((myCore s).sbuf.map (·.id)).contains e.id = true := by simpa using ⟨e, he, rfl⟩
      rw [this]; decide
    · simp [he]
  unfold drained fenceDrain
  dsimp only
  rw [hme, Bool.and_eq_true, Bool.and_eq_true, and_assoc]
  refine and_congr (by simp) (and_congr ?_ (by by_cases h : 3 ≤ scopeRank sc <;> simp [h]))
  by_cases h : 2 ≤ scopeRank sc
  · rw [if_pos h, hsb]; simp [h]
  · rw [if_neg h]; simp [h]
theorem rank_weak (sc : Scope) : 2 ≤ scopeRank sc ↔ sc ≠ .core := by cases sc <;> simp [scopeRank]
theorem rank_far (sc : Scope) : 3 ≤ scopeRank sc ↔ sc = .dev ∨ sc = .dom ∨ sc = .sys ∨ sc = .dflt := by
  cases sc <;> simp [scopeRank]
/-- Without XS the scope is `.sys`, which ranks as the default. -/
theorem rank_scope (xs : Option Scope) : scopeRank (xs.getD .dflt) = scopeRank (xs.getD .sys) := by cases xs <;> rfl

/-! ## Seals (R286, R288, R299) -/

theorem exec_ivn {d : Reg} (h : QueuesReady s [] [d]) : exec (.ivn d) s = .next (wrote s 2 [] d (s.sl.ivnum.setWidth 64)) :=
  congrArg Host.Outcome.next (runI_ready h ..)
theorem exec_ivnRb {d : Reg} (h : QueuesReady s [] [d]) : exec (.ivnRb d) s = .next (wrote s 2 [] d (s.sl.rbc.setWidth 64)) :=
  congrArg Host.Outcome.next (runI_ready h ..)
theorem exec_sealq {d : Reg} (h : QueuesReady s [] [d]) :
    exec (.sealq d) s = .next (wrote (wantSeal s) 2 [] d (s.sl.ivnum.setWidth 64)) := congrArg Host.Outcome.next (runI_ready h ..)
/-- The packet by which a module asks its leader for a seal. -/
theorem wantSeal_asks (s : State) : (isLeader s = true → (wantSeal s).pending = s.pending ++ [.sealRequest s.fab.modnum])
    ∧ (isLeader s = false → ∃ p, (wantSeal s).fabOut = s.fabOut ++ [p] ∧ p.dest = leaderOf s ∧ p.body = .sealReq s.fab.modnum) :=
      by
  unfold wantSeal
  refine ⟨fun h => ?_, fun h => ?_⟩
  · rw [if_pos h]; rfl
  · rw [if_neg (by simp [h])]; exact ⟨_, rfl, rfl, rfl⟩
theorem me_wantSeal (s : State) : me (wantSeal s) = me s := by obtain ⟨_, _, h⟩ := wantSeal_eq s; rw [h]; rfl
/-- What an instruction that writes a register and pops nothing keeps of the messages. -/
theorem wrote_pending (t : State) (len : Nat) (srcs : List Reg) (r : Reg) (x : Word) : (wrote t len srcs r x).pending =
    t.pending := by
  rw [wrote_eq, passed_pending, wr_pending]
theorem wrote_fabOut (t : State) (len : Nat) (r : Reg) (x : Word) : (wrote t len [] r x).fabOut = t.fabOut := by
  rw [wrote_eq, passed_eq]
  show (wr t r x).fabOut = _
  rw [wr_state]
theorem escrowedBy_iff (s : State) (home : TRef) : escrowedBy s home = true ↔ ∃ e ∈ s.escrow, ∃ x ∈ e.2, x.home = home := by
  simp [escrowedBy]
theorem escrowedBy_false {home : TRef} (h : ∀ e ∈ s.escrow, ∀ x ∈ e.2, x.home ≠ home) : escrowedBy s home = false := by
  rw [Bool.eq_false_iff, ne_eq, escrowedBy_iff]
  rintro ⟨e, he, x, hx, hh⟩
  exact h e he x hx hh
theorem exec_sealw {d : Reg} (h : QueuesReady s [] [d]) : exec (.sealw d) s = .next (finish 2 false
    (if escrowedBy s (me s).home then retry (wantSeal s) .sealw
    else match foreignMod (me s).home.core with
      | some m => .reply (emit (modMe s (fun t => { t with long := true })) m .adaptive (.jobReq ⟨.sealw,
          ⟨foreignCore (me s).home.core, (me s).home.slot⟩, 0, d, .away s.fab.modnum (awayTag s.cur)⟩)) (d == 31) .dflt
      | none => .done (wr s d (s.sl.sealed.setWidth 64)))) := congrArg Host.Outcome.next (runI_ready h ..)

end

/-- Settles O29. -/
theorem fencesAndSeals : Obligations.FencesAndSeals := by
  unfold Obligations.FencesAndSeals
  refine ⟨fun s xs => ⟨fun hs hb hr => ?_, fun hw => ?_⟩, fun s d hq =>
    ⟨exec_ivn hq, exec_ivnRb hq, ?_, fun hesc => ⟨fun hm => ?_, fun m hm => ?_⟩,
    fun e he x hx hh => ?_⟩⟩
  · have hd : drained s s.cur (fenceDrain s s.cur (xs.getD .dflt)) = true := (drained_fence_iff s _).2 ⟨hs,
      fun h2 => hb.resolve_left ((rank_weak _).1 (rank_scope xs ▸ h2)), fun h3 => hr ((rank_far _).1 (rank_scope xs ▸ h3))⟩
    rw [exec_fence, if_pos hd]
  · have hd : ¬ drained s s.cur (fenceDrain s s.cur (xs.getD .dflt)) = true := by
      rw [drained_fence_iff, rank_scope, rank_weak, rank_far]
      rintro ⟨hs, hb, hr⟩
      rcases hw with h | ⟨h1, h2⟩ | ⟨h1, h2⟩
      · exact h hs
      · exact h2 (hr h1)
      · exact h2 (hb h1)
    refine ⟨draining s (fenceDrain s s.cur (xs.getD .dflt)) (2 + optLen xs), fenceDrain s s.cur (xs.getD .dflt),
      (exec_fence s xs).trans (by rw [if_neg hd]), me_modMe .., rfl, ?_, ?_, rfl⟩
    · dsimp only [fenceDrain]
      rw [rank_scope]
      by_cases hw : xs.getD .sys = .core
      · rw [if_pos hw, if_neg fun h => (rank_weak _).1 h hw]
      · rw [if_neg hw, if_pos ((rank_weak _).2 hw)]; rfl
    · dsimp only [fenceDrain]
      rw [decide_eq_true_iff, rank_scope, rank_far]
  · obtain ⟨hp, hf⟩ := wantSeal_asks s
    refine ⟨_, exec_sealq hq, ?_, fun hl => ?_, fun hl => ?_⟩
    · rw [me_wrote, me_wrote, me_wantSeal]
    · rw [wrote_pending]; exact hp hl
    · rw [wrote_fabOut]; exact hf hl
  · have hno := escrowedBy_false hesc
    rw [exec_sealw hq, hno, hm]; rfl
  · have hno := escrowedBy_false hesc
    rw [exec_sealw hq, hno, hm]; rfl
  · have hyes : escrowedBy s (me s).home = true := (escrowedBy_iff ..).2 ⟨e, he, x, hx, hh⟩
    obtain ⟨hp, hf⟩ := wantSeal_asks s
    refine ⟨modMe (wantSeal s) (fun t => { t with wait := .retry .sealw }), (exec_sealw hq).trans (by rw [hyes]; rfl), ?_, hp, hf⟩
    rw [me_modMe, me_wantSeal]

/-! ## Barrier instructions (R274 to R278) -/

section
variable {s : State}

theorem barUnit_none_iff (s : State) (t : Thread) : barUnit s t = none ↔ homeTeller t = true := by
  unfold barUnit
  cases homeTeller t with
  | true => simp
  | false => cases foreignMod t.home.core <;> simp
theorem barUnit_here {t : Thread} (ht : homeTeller t = false) (hh : homeHere t = true) :
    barUnit s t = some (.here (Machine.core s t.home.core).bindCl) := by
  have hf : foreignMod t.home.core = none := if_pos (of_decide_eq_true hh)
  rw [barUnit, ht, hf]; rfl
theorem bwBad_iff (w : Word) : bwBad w = true ↔ bits w 7 4 ≠ 0 ∨ bits w 31 9 ≠ 0 := by simp [bwBad]
theorem bwAuto_iff (w : Word) : bwAuto w = true ↔ bits w 8 8 = 1 := by simp [bwAuto]
theorem bwAuto_false {w : Word} (h : ¬ bits w 8 8 = 1) : bwAuto w = false := Bool.eq_false_iff.2 fun hw => h ((bwAuto_iff w).1 hw)

variable {d b : Reg} {len : Nat} {srcs : List Reg} {autoOk phaseOk : Bool} {k : State → BarAt → Word → Eff}

/-- The checks of a barrier instruction: reserved bits before the teller home (log entry 12). -/
theorem barI_bad (h : QueuesReady s srcs [d]) (hb : bwBad (rd s b) = true) :
    barI len srcs d b autoOk phaseOk s k = trapMe s 0x03 (rd s b) := by
  rw [barI, runI_ready h]
  dsimp only
  rw [hb, if_pos (by simp)]; rfl
theorem barI_good (h : QueuesReady s srcs [d]) (hb : ¬ bwBad (rd s b) = true) (ha : autoOk = true ∨ bwAuto (rd s b) = false)
    (hp : phaseOk = true ∨ bwPhase (rd s b) = 0) : barI len srcs d b autoOk phaseOk s k
      = finish len (srcs.contains 30) (match barUnit s (me s) with
        | none => .trap s 0x07 (rd s b)
        | some u => k s u (rd s b)) := by
  have hc : (bwBad (rd s b) || (bwAuto (rd s b) && !autoOk) || (bwPhase (rd s b) != 0 && !phaseOk)) = false := by
    rw [Bool.eq_false_iff.2 hb]
    rcases ha with ha | ha <;> rcases hp with hp | hp <;> simp [ha, hp]
  rw [barI, runI_ready h]
  dsimp only
  rw [hc, if_neg (by decide)] <;> rfl

/-- The arrival and the request that a barrier instruction sends. -/
def arrivalOf (s : State) (b d : Reg) (cl : Nat) (rto : ReplyTo) : ArriveMsg :=
  ⟨cl, bwBar (rd s b), bwAuto (rd s b), bwPhase (rd s b), rd s b, some (rto, d)⟩
def barwOf (s : State) (b d : Reg) (test : Bool) (cl : Nat) (rto : ReplyTo) : BarwMsg :=
  ⟨cl, bwBar (rd s b), bwPhase (rd s b), test, rd s b, rto, d⟩

theorem exec_barv (h : QueuesReady s [b] [d]) (hb : ¬ bwBad (rd s b) = true) : exec (.barv d b) s = .next
    (finish 2 ([b].contains 30) (match barUnit s (me s) with
      | none => .trap s 0x07 (rd s b)
      | some u => fenced s true .cl (fun t => barSend t u d true (fun cl r => .arrive (arrivalOf s b d cl r))
          (fun c r => .arrive (arrivalOf s b d c r))))) := by
  refine congrArg Host.Outcome.next ((barI_good h hb (.inl rfl) (.inl rfl)).trans ?_)
  cases barUnit s (me s) <;> rfl
theorem barwI_good (test : Bool) (h : QueuesReady s [b] [d]) (hb : ¬ bwBad (rd s b) = true) (ha : ¬ bits (rd s b) 8 8 = 1) :
    barwI len test d b s = finish len ([b].contains 30) (match barUnit s (me s) with
      | none => .trap s 0x07 (rd s b)
      | some u => barSend s u d false (fun cl r => .barwRequest (barwOf s b d test cl r))
        (fun c r => .barw (barwOf s b d test c r))) := by
  refine (barI_good h hb (.inr (bwAuto_false ha)) (.inl rfl)).trans ?_
  cases barUnit s (me s) <;> rfl
theorem exec_barw (d b : Reg) (s : State) : exec (.barw d b) s = .next (barwI 2 false d b s) := rfl
theorem exec_barwT (d b : Reg) (s : State) : exec (.barwT d b) s = .next (barwI 3 true d b s) := rfl

theorem exec_bart {c : Reg} (h : QueuesReady s [b, c] [d]) (hb : ¬ bwBad (rd s b) = true) (ha : ¬ bits (rd s b) 8 8 = 1)
    (hp : bits (rd s b) 63 32 = 0) {cl : Nat} (hu : barUnit s (me s) = some (.here cl)) : exec (.bart d b c) s = .next
    (if bits (rd s c) 63 16 ≠ 0 then trapMe s 0x03 (rd s c)
    else wrote (setTarget s cl (rd s b) (rd s c)).1 3 [b, c] d (BitVec.ofNat 64 (setTarget s cl (rd s b) (rd s c)).2)) := by
  refine congrArg Host.Outcome.next ((barI_good h hb (.inr (bwAuto_false ha)) (.inr hp)).trans ?_)
  rw [hu]
  dsimp only
  split <;> rfl
theorem setTarget_free {cl : Nat} {w x : Word} (hc : ∀ n ∈ (bar s cl (bwBar w)).cnts.toList, n = 0)
    (hh : (bar s cl (bwBar w)).held = []) :
    setTarget s cl w x = (modBar s cl (bwBar w) (fun br => { br with target := bits x 15 0 }), 0) := by
  have : (bar s cl (bwBar w)).cnts.toList.any (· != 0) = false :=
    List.any_eq_false.2 fun n hn => by simp [hc n hn]
  exact if_neg (by rw [this, hh]; decide)
theorem setTarget_busy {cl : Nat} {w x : Word}
    (hc : (∃ n ∈ (bar s cl (bwBar w)).cnts.toList, n ≠ 0) ∨ (bar s cl (bwBar w)).held ≠ []) : setTarget s cl w x = (s, 4) := by
  refine if_pos ?_
  rw [Bool.or_eq_true]
  exact hc.imp (fun ⟨n, hn, h0⟩ => List.any_eq_true.2 ⟨n, hn, by simpa using h0⟩) (fun h => by simpa using h)

end

@[simp] theorem bar_modBar (s : State) (cl n : Nat) (f : Barrier → Barrier) : bar (modBar s cl n f) cl n = f (bar s cl n) := by
  simp [bar, modBar, cluster, modCluster]
theorem bar_congr {s t : State} (h : t.clusters = s.clusters) (cl n : Nat) : bar t cl n = bar s cl n := by
  simp only [bar, cluster, h]
theorem wrote_clusters (s : State) (len : Nat) (srcs : List Reg) (r : Reg) (x : Word) : (wrote s len srcs r x).clusters =
    s.clusters := by
  rw [wrote_eq, passed_state, wr_state]

/-! ## Barrier phases (R273, R276, R277) -/

section
variable {s : State} {a : TRef} {d : Reg} {cl n : Nat} {w : Word}

/-- The state whose event is an arrival of thread `a`. -/
def arriving (s : State) (cl n : Nat) (auto : Bool) (q : Nat) (w : Word) (a : TRef) (d : Reg) : State :=
  facing s (.arrive ⟨cl, n, auto, q, w, some (.thr a, d)⟩)
theorem bar_arriving (auto : Bool) (q cl' n' : Nat) : bar (arriving s cl n auto q w a d) cl' n' = bar s cl' n' := rfl
theorem exec_arrive {auto : Bool} {q : Nat} (hh : ¬ arrRes (bar s cl n) auto q = .hold) :
    exec .arrive (arriving s cl n auto q w a d) = .next (serveHeld cl n ((bar s cl n).held.length + 2)
      (bar s cl n).done (arriveOne (arriving s cl n auto q w a d) cl n ⟨auto, q, w, some (.thr a, d)⟩)) := by
  have h : arriveGo (arriving s cl n auto q w a d) ⟨cl, n, auto, q, w, some (.thr a, d)⟩ = _ := if_neg fun h => hh h.2
  exact congrArg Host.Outcome.next h
/-- While DONE stands no held arrival is served. -/
theorem serveHeld_same {t : State} {done : Nat} (h : (bar t cl n).done = done) (fuel : Nat) : serveHeld cl n fuel done t = t := by
  cases fuel with
  | zero => rfl
  | succ fuel => rw [serveHeld, if_pos h]
theorem completePhases_open {t : State} (h : phaseFull (bar t cl n) = false) (fuel : Nat) : completePhases cl n fuel t = t := by
  cases fuel with
  | zero => rfl
  | succ fuel => rw [completePhases, if_neg (by simp [h])]
theorem zero_getD {b : Barrier} (hc : b.cnts = Vector.replicate 4 0) {i : Nat} (hi : i < 4) : b.cnts.toList.getD i 0 = 0 := by
  rw [hc, Vector.toList_replicate, List.getD_eq_getElem?_getD, List.getElem?_replicate, if_pos hi]; rfl
theorem cntOf_zero {b : Barrier} (hc : b.cnts = Vector.replicate 4 0) (q : Nat) : cntOf b q = 0 := by
  have h : q % 4 < 4 := Nat.mod_lt _ (by decide)
  exact zero_getD hc h
/-- R276: with no arrival counted an AUTO arrival counts in phase DONE. -/
theorem arrRes_auto {b : Barrier} (h0 : b.target ≠ 0) (hc : b.cnts = Vector.replicate 4 0) (hd : b.done < 2 ^ 32) (q : Nat) :
    arrRes b true q = .count b.done := by
  have hf : (List.range 4).find? (fun i => decide (cntOf b (b.done + i) < b.target)) = some 0 := by
    rw [show List.range 4 = 0 :: [1, 2, 3] from rfl, List.find?_cons_of_pos]
    rw [cntOf_zero hc]
    exact decide_eq_true (Nat.pos_of_ne_zero h0)
  rw [arrRes, if_neg h0, if_pos rfl, hf]
  dsimp only
  rw [Nat.add_zero, Nat.mod_eq_of_lt hd]
theorem setCnt_getD (b : Barrier) (q k i : Nat) (hi : i < 4) :
    (setCnt b q k).cnts.toList.getD i 0 = if i = q % 4 then k else b.cnts.toList.getD i 0 := by
  have hi' : i < b.cnts.toList.length := by simpa using hi
  rw [setCnt, Vector.toList_mapIdx, List.getD_eq_getElem?_getD, List.getElem?_mapIdx, List.getD_eq_getElem?_getD,
    List.getElem?_eq_getElem hi']
  rfl
theorem setCnt_zero {b : Barrier} (hc : b.cnts = Vector.replicate 4 0) (q k : Nat) :
    (setCnt (setCnt b q k) q 0).cnts = Vector.replicate 4 0 := by
  ext i hi
  simp only [setCnt, hc, Vector.getElem_mapIdx, Vector.getElem_replicate]
  split <;> rfl
theorem wakeBarw_none {t : State} (h : (bar t cl n).waiters = []) :
    wakeBarw t cl n = modBar t cl n (fun b => { b with waiters := b.waiters.filter (fun m => !phaseComplete b m.phase) }) := by
  unfold wakeBarw
  dsimp only
  rw [h]; rfl
theorem wakeBarw_one {t : State} (h : (bar t cl n).waiters = []) : bar (wakeBarw t cl n) cl n = bar t cl n := by
  rw [wakeBarw_none h, bar_modBar, h]
  generalize bar t cl n = b at h
  cases b; cases h; rfl

/-- The state in which an AUTO arrival has counted in phase DONE and is answered its number. -/
def counted (u : State) (cl n : Nat) (a : TRef) (d : Reg) : State :=
  post (modBar u cl n (fun b => setCnt b (bar u cl n).done (cntOf b (bar u cl n).done + 1)))
    (.reply a (.writes [(d, BitVec.ofNat 64 (bar u cl n).done)]))
theorem bar_post (u : State) (e : Ev) (cl n : Nat) : bar (post u e) cl n = bar u cl n := rfl
theorem bar_counted (u : State) : bar (counted u cl n a d) cl n =
    setCnt (bar u cl n) (bar u cl n).done (cntOf (bar u cl n) (bar u cl n).done + 1) := by
  rw [counted, bar_post, bar_modBar]
theorem arriveOne_auto {u : State} {q : Nat} (h0 : (bar u cl n).target ≠ 0) (hc : (bar u cl n).cnts = Vector.replicate 4 0)
    (hd : (bar u cl n).done < 2 ^ 32) : arriveOne u cl n ⟨true, q, w, some (.thr a, d)⟩ = completePhases cl n 4
      (counted u cl n a d) := by
  unfold arriveOne
  dsimp only
  rw [arrRes_auto h0 hc hd q]
  rfl
theorem arriveOne_refused {u : State} {auto : Bool} {q : Nat} (h0 : (bar u cl n).target = 0) :
    arriveOne u cl n ⟨auto, q, w, some (.thr a, d)⟩ = post u (.reply a (.trap 0x07 w [])) := by
  unfold arriveOne
  dsimp only
  rw [arrRes, if_pos h0]
  rfl
/-- The first arrival of a phase stands in its count. -/
theorem cntOf_counted {u : State} (hc : (bar u cl n).cnts = Vector.replicate 4 0) :
    cntOf (bar (counted u cl n a d) cl n) (bar (counted u cl n a d) cl n).done = 1 := by
  rw [bar_counted, show (setCnt (bar u cl n) (bar u cl n).done (cntOf (bar u cl n) (bar u cl n).done + 1)).done =
    (bar u cl n).done
    from rfl, cntOf, setCnt_getD _ _ _ _ (Nat.mod_lt _ (by decide)), if_pos rfl, cntOf_zero hc]

/-- The state in which the phase of an arrival is complete. -/
def phaseDone (u : State) (cl n : Nat) : State :=
  wakeBarw (modBar u cl n (fun b => { setCnt b b.done 0 with done := (b.done + 1) % 2 ^ 32 })) cl n
theorem bar_phaseDone {u : State} (hw : (bar u cl n).waiters = []) : bar (phaseDone u cl n) cl n =
    { setCnt (bar u cl n) (bar u cl n).done 0 with done := ((bar u cl n).done + 1) % 2 ^ 32 } := by
  rw [phaseDone, wakeBarw_one, bar_modBar]
  rw [bar_modBar]; exact hw
theorem pending_phaseDone {u : State} (hw : (bar u cl n).waiters = []) : (phaseDone u cl n).pending = u.pending := by
  rw [phaseDone, wakeBarw_none (by rw [bar_modBar]; exact hw)]; rfl
theorem completePhases_one {u : State} (h : phaseFull (bar u cl n) = true) (fuel : Nat) :
    completePhases cl n (fuel + 1) u = completePhases cl n fuel (phaseDone u cl n) := by rw [completePhases, if_pos h]; rfl
/-- With no held arrival the unit is done once DONE has moved. -/
theorem serveHeld_none {u : State} {done : Nat} (h : (bar u cl n).done ≠ done) (hh : (bar u cl n).held = []) (fuel : Nat) :
    serveHeld cl n (fuel + 1) done u = modBar u cl n (fun b => { b with held := [] }) := by
  rw [serveHeld, if_neg h]
  dsimp only
  rw [hh, List.foldl_nil]
  exact serveHeld_same (by rw [bar_modBar]) fuel
/-- The phase that is `q` counts behind DONE, at most 2^31 back, is complete; DONE is not. -/
theorem phaseComplete_back {b : Barrier} {q : Nat} (h0 : (b.done + 2 ^ 32 - q) % 2 ^ 32 ≠ 0)
    (h31 : (b.done + 2 ^ 32 - q) % 2 ^ 32 ≤ 2 ^ 31) (hq : q < 2 ^ 32) (hd : b.done < 2 ^ 32) : phaseComplete b q = true := by
  unfold phaseComplete phaseDist
  rw [decide_eq_true_iff]
  omega
theorem phaseComplete_done {b : Barrier} (hd : b.done < 2 ^ 32) : phaseComplete b b.done = false := by
  unfold phaseComplete phaseDist
  rw [decide_eq_false_iff_not]
  omega

/-- The state in which the unit has answered a request. -/
def barwAnswered (s : State) (cl n q : Nat) (test : Bool) (w : Word) (a : TRef) (d : Reg) (x : Word) : State :=
  post (facing s (.barwRequest ⟨cl, n, q, test, w, .thr a, d⟩)) (.reply a (.writes [(d, x)]))
theorem exec_barwRequest (test : Bool) (q : Nat) : exec .barwRequest (facing s (.barwRequest ⟨cl, n, q, test, w, .thr a, d⟩)) =
    .next
    (let u := facing s (.barwRequest ⟨cl, n, q, test, w, .thr a, d⟩)
      if (bar s cl n).target = 0 then post u (.reply a (.trap 0x07 w []))
      else if test then post u (.reply a (.writes [(d, b64 (phaseComplete (bar s cl n) q))]))
      else if phaseComplete (bar s cl n) q then post u (.reply a (.writes [(d, BitVec.ofNat 64 (bar s cl n).done)]))
      else modBar u cl n (fun b => { b with waiters := b.waiters ++ [⟨cl, n, q, test, w, .thr a, d⟩] })) := by
  rw [show exec .barwRequest = execBarwRequest from rfl]
  simp only [execBarwRequest, facing_ev, barwGo, answer_thr]
  rfl

end

/-- Settles O30: the instructions by `barI`, the unit by what an arrival counts. -/
theorem barriers : Obligations.Barriers := by
  unfold Obligations.Barriers
  refine ⟨fun s d b c => ?_, fun s a d cl n w => ?_⟩
  · dsimp only
    refine ⟨barUnit_none_iff .., barUnit_here, fun hq =>
      ⟨fun hb => ?_, fun hb ha => ?_, fun hb hf => ⟨fun cl ha => ?_, fun m h ha => ?_⟩,
      fun hb hauto test len i hi => ?_⟩, fun hq hb hauto hp cl ha => ⟨fun hx => ?_, fun hx hc hh => ?_, fun hx hc => ?_⟩⟩
    · have hbad := (bwBad_iff _).2 hb
      exact ⟨congrArg Host.Outcome.next (barI_bad hq hbad), congrArg Host.Outcome.next (barI_bad hq hbad),
        congrArg Host.Outcome.next (barI_bad hq hbad)⟩
    · rw [exec_barv hq (mt (bwBad_iff _).1 hb), ha]; rfl
    · rw [exec_barv hq (mt (bwBad_iff _).1 hb), ha]
      dsimp only
      rw [fenced_open hf]; rfl
    · rw [exec_barv hq (mt (bwBad_iff _).1 hb), ha]
      dsimp only
      rw [fenced_open hf]; rfl
    · have hi' : exec i s = .next (barwI len test d b s) := by
        simp only [List.mem_cons, Prod.mk.injEq, List.not_mem_nil, or_false] at hi
        rcases hi with ⟨rfl, rfl, rfl⟩ | ⟨rfl, rfl, rfl⟩ <;> rfl
      rw [hi', barwI_good test hq (mt (bwBad_iff _).1 hb) hauto]
      refine ⟨fun ha => ?_, fun cl ha => ?_, fun m h ha => ?_⟩ <;> rw [ha] <;> rfl
    · rw [exec_bart hq (mt (bwBad_iff _).1 hb) hauto hp ha, if_pos hx]
    · rw [exec_bart hq (mt (bwBad_iff _).1 hb) hauto hp ha, if_neg (not_not.2 hx), setTarget_free hc hh]
      refine ⟨_, rfl, ?_, ?_⟩
      · rw [bar_congr (wrote_clusters ..)]; exact bar_modBar ..
      · rw [me_wrote, me_wrote]; rfl
    · rw [exec_bart hq (mt (bwBad_iff _).1 hb) hauto hp ha, if_neg (not_not.2 hx), setTarget_busy hc]; rfl
  · dsimp only
    refine ⟨fun h0 => ⟨fun auto q => ?_, fun test q => ?_⟩, fun h1 hc hh hw hd => ?_, fun h1 hc hh hw hd => ?_,
      fun q h0 hq0 hq1 hq hd => ⟨?_, ?_⟩, fun h0 hd => ⟨?_, ?_⟩⟩
    · have hno : ¬ arrRes (bar s cl n) auto q = .hold := by rw [arrRes, if_pos h0]; decide
      refine ⟨post (arriving s cl n auto q w a d) (.reply a (.trap 0x07 w [])), (exec_arrive hno).trans (congrArg _ ?_),
        replied_post .., rfl⟩
      rw [arriveOne_refused (u := arriving s cl n auto q w a d) h0]
      exact serveHeld_same (by rw [bar_post, bar_arriving]) _
    · exact ⟨_, (exec_barwRequest ..).trans (by rw [if_pos h0]), replied_post ..⟩
    · have h0 : (bar s cl n).target ≠ 0 := by omega
      have hno : ¬ arrRes (bar s cl n) true 0 = .hold := by rw [arrRes_auto h0 hc hd]; nofun
      have hone := cntOf_counted (u := arriving s cl n true 0 w a d) (a := a) (d := d) hc
      have hbar := bar_counted (cl := cl) (n := n) (a := a) (d := d) (arriving s cl n true 0 w a d)
      rw [bar_arriving] at hbar
      have hopen : phaseFull (bar (counted (arriving s cl n true 0 w a d) cl n a d) cl n) = false := by
        rw [phaseFull, hone, show (bar (counted (arriving s cl n true 0 w a d) cl n a d) cl n).target = (bar s cl n).target by
          rw [hbar]; rfl]
        simp; omega
      refine ⟨counted (arriving s cl n true 0 w a d) cl n a d, (exec_arrive hno).trans (congrArg _ ?_), replied_post .., ?_, ?_,
        fun i hi => ?_⟩
      · rw [arriveOne_auto (u := arriving s cl n true 0 w a d) h0 hc hd, completePhases_open hopen]
        exact serveHeld_same (by rw [hbar]; rfl) _
      · rw [hbar]; rfl
      · rw [hbar]; rfl
      · rw [hbar, setCnt_getD _ _ _ _ hi]
        exact congrArg₂ (fun x y => if i = (bar s cl n).done % 4 then x else y) (by rw [cntOf_zero hc]) (zero_getD hc hi)
    · have h0 : (bar s cl n).target ≠ 0 := by omega
      have hno : ¬ arrRes (bar s cl n) true 0 = .hold := by rw [arrRes_auto h0 hc hd]; nofun
      have hone := cntOf_counted (u := arriving s cl n true 0 w a d) (a := a) (d := d) hc
      have hbar := bar_counted (cl := cl) (n := n) (a := a) (d := d) (arriving s cl n true 0 w a d)
      rw [bar_arriving] at hbar
      have hfull : phaseFull (bar (counted (arriving s cl n true 0 w a d) cl n a d) cl n) = true := by
        rw [phaseFull, hone, show (bar (counted (arriving s cl n true 0 w a d) cl n a d) cl n).target = 1 by rw [hbar]; exact h1]
        rfl
      have hdone : bar (phaseDone (counted (arriving s cl n true 0 w a d) cl n a d) cl n) cl n =
          { setCnt (setCnt (bar s cl n) (bar s cl n).done (cntOf (bar s cl n) (bar s cl n).done + 1)) (bar s cl n).done 0 with
            done := ((bar s cl n).done + 1) % 2 ^ 32 } := by
        rw [bar_phaseDone (by rw [hbar]; exact hw), hbar]; rfl
      have hcz : (bar (phaseDone (counted (arriving s cl n true 0 w a d) cl n a d) cl n) cl n).cnts = Vector.replicate 4 0 := by
        rw [hdone]; exact setCnt_zero hc _ _
      have hopen : phaseFull (bar (phaseDone (counted (arriving s cl n true 0 w a d) cl n a d) cl n) cl n) = false := by
        rw [phaseFull, cntOf_zero hcz, hdone]
        simp [setCnt, h1]
      refine ⟨modBar (phaseDone (counted (arriving s cl n true 0 w a d) cl n a d) cl n) cl n (fun b => { b with held := [] }),
        (exec_arrive hno).trans (congrArg _ ?_), ?_, ?_, ?_⟩
      · rw [arriveOne_auto (u := arriving s cl n true 0 w a d) h0 hc hd, completePhases_one hfull, completePhases_open hopen,
          serveHeld_none]
        · rw [hdone]
          show ((bar s cl n).done + 1) % 2 ^ 32 ≠ (bar s cl n).done
          omega
        · rw [hdone]; exact hh
      · show (phaseDone (counted (arriving s cl n true 0 w a d) cl n a d) cl n).pending.getLast? = _
        rw [pending_phaseDone (by rw [hbar]; exact hw)]
        exact replied_post ..
      · rw [bar_modBar, hdone]
      · rw [bar_modBar]; exact hcz
    · exact ⟨barwAnswered s cl n q false w a d (BitVec.ofNat 64 (bar s cl n).done), (exec_barwRequest ..).trans
        (by rw [if_neg h0, if_neg (by decide), if_pos (phaseComplete_back hq0 hq1 hq hd)]; rfl), rfl⟩
    · exact ⟨barwAnswered s cl n q true w a d 1, (exec_barwRequest ..).trans
        (by rw [if_neg h0, if_pos rfl, phaseComplete_back hq0 hq1 hq hd]; rfl), rfl⟩
    · refine ⟨modBar (facing s (.barwRequest ⟨cl, n, (bar s cl n).done, false, w, .thr a, d⟩)) cl n
        (fun b => { b with waiters := b.waiters ++ [⟨cl, n, (bar s cl n).done, false, w, .thr a, d⟩] }),
        (exec_barwRequest ..).trans (by rw [if_neg h0, if_neg (by decide), if_neg (by simp [phaseComplete_done hd])]), rfl, ?_⟩
      rw [bar_modBar]; rfl
    · exact ⟨barwAnswered s cl n (bar s cl n).done true w a d 0, (exec_barwRequest ..).trans
        (by rw [if_neg h0, if_pos rfl, phaseComplete_done hd]; rfl), rfl⟩

end Sys2Proof.Proofs.Ordering
end

section
/-!
PROOFS. WHAT STATEMENTS O31 AND O32 REST ON. The CSR instructions and dbgi (R306, R307, R318); the TLB instructions, an entry
installed and a SHOOT (R179 to R183, R314).
-/
namespace Sys2Proof.Proofs.Firmware
open Sys2Proof Sys2Proof.Machine DeviceMemory LocalMemory FetchingAndIssuing

/-! ## CSR instructions (R98, R99, R306, R307) -/

section
variable {s : State} {n : Nat} {v : Word}

theorem csrSetThr_tvec (t : Thread) (h : n ≠ 1) : (csrSetThr t n v).tvec = t.tvec := by
  unfold csrSetThr setVlive
  split
  case h_2 => exact absurd rfl h
  all_goals first | rfl | (split <;> rfl)
theorem csrSetThr_tepc (t : Thread) (h : n ≠ 2) : (csrSetThr t n v).tepc = t.tepc := by
  unfold csrSetThr setVlive
  split
  case h_3 => exact absurd rfl h
  all_goals first | rfl | (split <;> rfl)
/-- What no CSR write changes of a thread. -/
theorem csrSetThr_keeps (t : Thread) : (csrSetThr t n v).pc = t.pc ∧ (csrSetThr t n v).g = t.g ∧ (csrSetThr t n v).fw = t.fw
    ∧ (csrSetThr t n v).th = t.th ∧ (csrSetThr t n v).qh = t.qh := by
  unfold csrSetThr setVlive
  split
  all_goals first | exact ⟨rfl, rfl, rfl, rfl, rfl⟩ | (split <;> exact ⟨rfl, rfl, rfl, rfl, rfl⟩)
theorem csrSetCore_slots (x : Core) : (csrSetCore x n v).slots = x.slots := by unfold csrSetCore; split <;> rfl
theorem csrSetCore_launch (x : Core) : (csrSetCore x n v).launch = x.launch ∧ (csrSetCore x n v).djob = x.djob := by
  unfold csrSetCore; split <;> exact ⟨rfl, rfl⟩

/-- The core that keeps the value before a write, for those that issue too early to see the write. -/
def keptCore (s : State) (n : Nat) : Core :=
  if csrIsCore n then keepOld (myCore s) s.cycle n (csrVal s n) else myCore s
theorem keptCore_slots : (keptCore s n).slots = (myCore s).slots := by unfold keptCore; split <;> rfl
theorem keptCore_launch : (keptCore s n).launch = (myCore s).launch ∧ (keptCore s n).djob = (myCore s).djob := by
  unfold keptCore; split <;> exact ⟨rfl, rfl⟩
/-- The state in which the core has kept it. -/
def keptOld (s : State) (n : Nat) : State :=
  if csrIsCore n then modMyCore s (fun c => keepOld c s.cycle n (csrVal s n)) else s
theorem me_keptOld : me (keptOld s n) = me s := by
  unfold keptOld; split
  · exact me_modMyCore_slots s _ fun _ => rfl
  · rfl
theorem myCore_keptOld : myCore (keptOld s n) = keptCore s n := by
  unfold keptOld keptCore; split
  · exact myCore_modMyCore ..
  · rfl
theorem keptOld_state : keptOld s n = { s with cores := (keptOld s n).cores } := by unfold keptOld; split <;> rfl
theorem csrPut_eq (s : State) (n : Nat) (v : Word) : csrPut s n v =
    modMyCore (modMe (keptOld s n) (fun t => csrSetThr t n v)) (fun c => csrSetCore c n v) := rfl
theorem csrPut_state (s : State) (n : Nat) (v : Word) : csrPut s n v = { s with cores := (csrPut s n v).cores } := by
  rw [csrPut_eq, keptOld_state]; rfl
theorem me_csrPut : me (csrPut s n v) = csrSetThr (me s) n v := by
  rw [csrPut_eq, me_modMyCore_slots _ _ (fun x => csrSetCore_slots x), me_modMe, me_keptOld]
theorem myCore_csrPut : myCore (csrPut s n v) = csrSetCore (setSlot (keptCore s n) s.cur.slot (csrSetThr (me s) n v)) n v := by
  rw [csrPut_eq, myCore_modMyCore, myCore_modMe, myCore_keptOld, me_keptOld,
    show (keptOld s n).cur = s.cur by rw [keptOld_state]]

/-- R307: a firmware CSR for a thread without FW. -/
def csrLocked (s : State) (n : Nat) : Prop := 0x180 ≤ n ∧ n ≤ 0x185 ∧ (me s).fw = false
theorem csrLocked_iff : (csrIsFw n && !(me s).fw) = true ↔ csrLocked s n := by
  simp [csrIsFw, csrLocked, and_assoc]

variable {i : Imm} {srcs dsts : List Reg} {k : State → Nat → State}

theorem csrI_locked (h : QueuesReady s srcs dsts) (hl : csrLocked s i.v.toNat) :
    csrI i srcs dsts s k = trapMe s 0x0F (BitVec.ofNat 64 i.v.toNat) := by
  rw [csrI, runI_ready h]
  rw [if_pos (csrLocked_iff.2 hl)]; rfl
theorem csrI_free (h : QueuesReady s srcs dsts) (hl : ¬ csrLocked s i.v.toNat) :
    csrI i srcs dsts s k = passed (k s i.v.toNat) (2 + i.n) srcs := by
  rw [csrI, runI_ready h]
  rw [if_neg (mt csrLocked_iff.1 hl)]; rfl

/-- R307: the instructions that write a CSR, with the value that they leave in it. -/
def IsCsrWrite (s : State) (a : Reg) (i : Imm) (ins : Instr) (v : Word) : Prop :=
  (ins, v) ∈ [(Instr.csrw a i, rd s a), (.csrs a i, csrVal s i.v.toNat ||| rd s a),
    (.csrc a i, csrVal s i.v.toNat &&& ~~~(rd s a))]
theorem exec_csrWrite {a : Reg} {ins : Instr} (h : QueuesReady s [a] []) (hl : ¬ csrLocked s i.v.toNat)
    (hw : IsCsrWrite s a i ins v) : exec ins s = .next (passed (csrPut s i.v.toNat v) (2 + i.n) [a]) := by
  simp only [IsCsrWrite, List.mem_cons, Prod.mk.injEq, List.not_mem_nil, or_false] at hw
  rcases hw with ⟨rfl, rfl⟩ | ⟨rfl, rfl⟩ | ⟨rfl, rfl⟩ <;> exact congrArg Host.Outcome.next (csrI_free h hl)

/-- The read-only CSRs: the slot, the unit word and the launch. -/
theorem csrVal_readOnly {t u : State} (hcur : u.cur = t.cur) (hmod : u.fab.modnum = t.fab.modnum)
    (hl : (myCore u).launch = (myCore t).launch) (hd : (myCore u).djob = (myCore t).djob) (hn : n = 0x107 ∨ n = 0x108 ∨ n = 7) :
    csrVal u n = csrVal t n := by
  rcases hn with rfl | rfl | rfl
  · simp only [csrVal, hcur, hmod]
  · simp only [csrVal, lchidOf, hl, hd]
  · simp only [csrVal, hcur]

end

section
variable {s : State} {a : Reg} {i : Imm} {ins : Instr} {v : Word}

/-- What an instruction that writes a CSR leaves. -/
def csrDone (s : State) (a : Reg) (i : Imm) (v : Word) : State := passed (csrPut s i.v.toNat v) (2 + i.n) [a]
theorem me_csrDone : me (csrDone s a i v) = { csrSetThr (me s) i.v.toNat v with
    pc := (csrSetThr (me s) i.v.toNat v).pc + BitVec.ofNat 64 (2 * (2 + i.n)), wait := .none } := by
  rw [csrDone, me_passed, me_csrPut]
theorem myCore_csrDone : ∃ t q, myCore (csrDone s a i v) = setSlot { csrSetCore (setSlot (keptCore s i.v.toNat) s.cur.slot
    (csrSetThr (me s) i.v.toNat v)) i.v.toNat v with up := q } s.cur.slot t := by
  have h := myCore_passed (csrPut s i.v.toNat v) (2 + i.n) [a]
  rw [myCore_csrPut, show (csrPut s i.v.toNat v).cur = s.cur by rw [csrPut_state]] at h
  exact ⟨_, _, h⟩
theorem csrDone_launch : (myCore (csrDone s a i v)).launch = (myCore s).launch ∧ (myCore (csrDone s a i v)).djob =
    (myCore s).djob := by
  obtain ⟨t, q, h⟩ := myCore_csrDone (s := s) (a := a) (i := i) (v := v)
  obtain ⟨hl, hd⟩ := csrSetCore_launch (n := i.v.toNat) (v := v)
    (setSlot (keptCore s i.v.toNat) s.cur.slot (csrSetThr (me s) i.v.toNat v))
  obtain ⟨kl, kd⟩ := keptCore_launch (s := s) (n := i.v.toNat)
  rw [h]
  exact ⟨hl.trans kl, hd.trans kd⟩

end

/-! ## `dbgi` (R318, R182) -/

section
variable {s : State} {a b c : Reg}

theorem fwI_illegal (h : (me s).fw = false) (len : Nat) (srcs dsts : List Reg) (k : State → Eff) :
    fwI len srcs dsts s k = trapMe s 0x01 ((me s).pc + BitVec.ofNat 64 (2 * (len - 1))) := if_neg (by simp [h])
theorem fwI_ready {srcs dsts : List Reg} (h : (me s).fw = true) (hq : QueuesReady s srcs dsts) (len : Nat) (k : State → Eff) :
    fwI len srcs dsts s k = finish len (srcs.contains 30) (k s) := (if_pos h).trans (runI_ready hq ..)

/-- What a `dbgi` leaves that writes the value `v` and the status `n`. -/
def dbPut (t : State) (a b c : Reg) (v : Word) (n : Nat) : State :=
  passed (wr (wr t a v) (regUp a 1) (BitVec.ofNat 64 n)) 3 [b, c]
theorem exec_dbgi (hf : (me s).fw = true) (h : QueuesReady s [b, c] [a, regUp a 1]) (hz : bits (rd s b) 63 14 = 0)
    (h9 : dbOp (rd s b) < 8) (h2 : dbOp (rd s b) ≠ 2) : exec (.dbgi a b c) s = .next
    (if dbOp (rd s b) = 0 then dbPut (modMyCore s (fun y => { y with hltd := true })) a b c 0 0
    else if dbOp (rd s b) = 1 then dbPut (modMyCore s (fun y => { y with hltd := false })) a b c 0 0
    else if dbBad s (rd s b) then dbPut s a b c 0 4
    else dbPut (dbSlotOp s (rd s b) (rd s c)).1 a b c (dbSlotOp s (rd s b) (rd s c)).2.1 (dbSlotOp s (rd s b) (rd s c)).2.2) := by
  refine congrArg Host.Outcome.next ((fwI_ready hf h ..).trans ?_)
  dsimp only
  rw [if_neg (by omega)]
  split
  · rfl
  · split
    · rfl
    · rw [if_neg (show dbOp (rd s b) ≠ 8 by omega)]
      split <;> rfl

theorem g_dbPut (t : State) (b c : Reg) (v : Word) (n : Nat) (h1 : 1 ≤ a.val) (h26 : a.val ≤ 26) :
    (me (dbPut t a b c v n)).g[a] = v ∧ (me (dbPut t a b c v n)).g[regUp a 1] = BitVec.ofNat 64 n := by
  have hv : (regUp a 1).val = a.val + 1 := by rw [regUp, Fin.val_ofNat]; omega
  have ha : a ≠ 0 ∧ a ≠ 31 := by constructor <;> rintro rfl <;> revert h1 h26 <;> decide
  have hb : regUp a 1 ≠ 0 ∧ regUp a 1 ≠ 31 := by
    constructor <;> intro he <;> rw [he] at hv
    · exact absurd hv (by simp)
    · have : a.val + 1 = 31 := hv.symm
      omega
  rw [dbPut, me_passed, me_wr, if_neg (by simp [hb]), me_wr, if_neg (by simp [ha])]
  dsimp only
  constructor
  · rw [Fin.getElem_fin, Vector.getElem_set_ne _ _ (by omega), Vector.getElem_set_self]
  · rw [Fin.getElem_fin, Vector.getElem_set_self]

theorem myCore_wr_keeps (t : State) (r : Reg) (x : Word) : (myCore (wr t r x)).hltd = (myCore t).hltd
    ∧ ∀ k, k ≠ t.cur.slot → slotOf (myCore (wr t r x)) k = slotOf (myCore t) k := by
  rw [myCore_wr]
  split
  · exact ⟨rfl, fun _ _ => rfl⟩
  · split
    · refine ⟨?_, fun k _ => ?_⟩
      · unfold pushQo qTick; split <;> rfl
      · rw [slotOf, Machine.pushQo_slots]; rfl
    · exact ⟨rfl, fun k hk => by rw [slotOf_setSlot, if_neg hk]⟩
theorem myCore_passed_keeps (t : State) (len : Nat) (srcs : List Reg) : (myCore (passed t len srcs)).hltd = (myCore t).hltd
    ∧ ∀ k, k ≠ t.cur.slot → slotOf (myCore (passed t len srcs)) k = slotOf (myCore t) k := by
  rw [myCore_passed]
  exact ⟨rfl, fun k hk => by rw [slotOf_setSlot, if_neg hk]; rfl⟩
theorem hltd_dbPut (t : State) (b c : Reg) (v : Word) (n : Nat) : (myCore (dbPut t a b c v n)).hltd = (myCore t).hltd := by
  rw [dbPut, (myCore_passed_keeps ..).1, (myCore_wr_keeps ..).1, (myCore_wr_keeps ..).1]
theorem slotOf_dbPut (t : State) (b c : Reg) (v : Word) (n : Nat) {k : Nat} (h : k ≠ t.cur.slot) :
    slotOf (myCore (dbPut t a b c v n)) k = slotOf (myCore t) k := by
  rw [dbPut, (myCore_passed_keeps ..).2 _ (by simpa using h), (myCore_wr_keeps ..).2 _ (by simpa using h),
    (myCore_wr_keeps ..).2 _ h]
theorem dbBad_running {w : Word} (h : (myCore s).hltd = false) : dbBad s w = true := by simp [dbBad, h]
theorem dbBad_halted {w : Word} (h : (myCore s).hltd = true) (hs : bits w 8 4 ≤ 26)
    (hst : (slotOf (myCore s) (bits w 8 4)).st = .live)
    (h7 : dbOp w ≠ 7) : dbBad s w = false := by
  have hst' : (thr s ⟨s.cur.core, dbSlot w⟩).st = .live := hst
  have hs' : ¬ 26 < dbSlot w := Nat.not_lt.2 hs
  simp [dbBad, h, hst', hs', h7]
theorem plain_reg {r : Reg} (h1 : 1 ≤ r.val) (h29 : r.val ≤ 29) : r ≠ 0 ∧ r ≠ 30 ∧ r ≠ 31 := by
  refine ⟨?_, ?_, ?_⟩ <;> rintro rfl <;> revert h1 h29 <;> decide
/-- The three operations on a slot that a debugger reads or writes. -/
theorem dbSlotOp_reg {w x : Word} (h : dbOp w = 3) {r : Reg} (hr : r = Fin.ofNat 32 (dbReg w)) (h1 : 1 ≤ r.val)
    (h29 : r.val ≤ 29) :
    dbSlotOp s w x = (s, (slotOf (myCore s) (dbSlot w)).g[r], 0) := by
  obtain ⟨h0, h30, h31⟩ := plain_reg h1 h29
  unfold dbSlotOp
  rw [h]
  dsimp only
  rw [← hr, rd, if_neg h0, if_neg h30, if_neg h31]
  rfl
theorem dbSlotOp_pc {w x : Word} (h : dbOp w = 5) : dbSlotOp s w x = (s, (slotOf (myCore s) (dbSlot w)).pc, 0) := by
  unfold dbSlotOp
  rw [h]; rfl
theorem dbSlotOp_write {w x : Word} (h : dbOp w = 4) {r : Reg} (hr : r = Fin.ofNat 32 (dbReg w)) (h1 : 1 ≤ r.val)
    (h29 : r.val ≤ 29) :
    dbSlotOp s w x = (wrAt s ⟨s.cur.core, dbSlot w⟩ r x, 0, 0) := by
  obtain ⟨h0, h30, h31⟩ := plain_reg h1 h29
  unfold dbSlotOp
  rw [h]
  dsimp only
  rw [← hr, if_neg (by simp [h0, h30, h31])]
  rfl
theorem slotOf_wrAt {r : Reg} {k : Nat} (x : Word) (h1 : 1 ≤ r.val) (h29 : r.val ≤ 29) :
    slotOf (myCore (wrAt s ⟨s.cur.core, k⟩ r x)) k = { slotOf (myCore s) k with g := (slotOf (myCore s) k).g.set r x } := by
  obtain ⟨h0, h30, h31⟩ := plain_reg h1 h29
  have hw : wrAt s ⟨s.cur.core, k⟩ r x = modThr s ⟨s.cur.core, k⟩ (fun t => { t with g := t.g.set r x }) := by
    rw [wrAt, if_neg h0, if_neg h31]
  rw [hw]
  exact thr_modThr_self s ⟨s.cur.core, k⟩ _

end

/-- Settles O31: the CSR written, field by field, and the operations of `dbgi` on a slot. -/
theorem csrsAndDebugging : Obligations.CsrsAndDebugging := by
  unfold Obligations.CsrsAndDebugging
  refine ⟨fun s a i hi => ⟨fun hq => ⟨fun hl => ?_, fun hl => ?_⟩, fun hold => ?_, fun hq =>
    ⟨fun hl => ⟨?_, ?_, ?_⟩, fun ins v hl hw => ?_⟩⟩,
    fun s a b c h1 h26 => ⟨fun hf => ?_, fun hf hq hz => ⟨fun hop => ?_, fun hop => ?_, fun h3 h7 hh => ?_, fun hh hs hst hne =>
      ⟨fun hop hr1 hr29 => ?_, fun hop => ?_, fun hop hr1 hr29 => ?_⟩⟩⟩⟩
  · exact congrArg Host.Outcome.next (csrI_locked hq hl)
  · exact congrArg Host.Outcome.next (csrI_free hq hl)
  · rw [csrSeen, csrStands, hold]; rfl
  · exact congrArg Host.Outcome.next (csrI_locked hq hl)
  · exact congrArg Host.Outcome.next (csrI_locked hq hl)
  · exact congrArg Host.Outcome.next (csrI_locked hq hl)
  · obtain ⟨hpc, hg, hfw, hth, hqh⟩ := csrSetThr_keeps (n := i.v.toNat) (v := v) (me s)
    obtain ⟨t, q, hc⟩ := myCore_csrDone (s := s) (a := a) (i := i) (v := v)
    obtain ⟨hl', hd'⟩ := csrDone_launch (s := s) (a := a) (i := i) (v := v)
    have hm := me_csrDone (s := s) (a := a) (i := i) (v := v)
    refine ⟨csrDone s a i v, exec_csrWrite hq hl hw, ?_, ?_, ?_, ?_, ?_, fun h => ?_, fun h => ?_, fun h => ?_, fun h => ?_, fun
      h => ?_,
      fun h => ?_, fun h => ?_, fun h => ?_, fun h => ?_, fun h => ?_, fun h => ?_, fun h => ?_, fun h => ?_, fun h => ?_, fun
        h => ?_,
      fun h => ?_, fun h => ?_, ?_, ?_, ?_, fun h => csrVal_readOnly ?_ ?_ hl' hd' h⟩
    · rw [hm, hpc]
    · rw [hm]; exact hg
    · rw [hm]
    · rw [csrDone, passed_mem, csrPut_state]
    · rw [csrDone, passed_pending, csrPut_state]
    · rw [hm, h]; rfl
    · rw [hm]; exact csrSetThr_tvec _ h
    · rw [hm, h]; rfl
    · rw [hm]; exact csrSetThr_tepc _ h
    · rw [hm, h]; rfl
    · rw [hm, h]; rfl
    · rw [hm, h]; rfl
    · rw [hm, h]; rfl
    · rw [hm, h]; show (setVlive (me s) (v.getLsbD 0)).vlive = _; unfold setVlive; split <;> simp_all
    · rw [hc, h]; rfl
    · rw [hc, h]; rfl
    · rw [hc, h]; rfl
    · rw [hc, h]; rfl
    · rw [hc, h]; rfl
    · rw [hc, h]; rfl
    · rw [hc, h]; rfl
    · rw [hm, h]; rfl
    · rw [hm]; exact hfw
    · rw [hm]; exact hth
    · rw [hm]; exact hqh
    · rw [csrDone, passed_cur, csrPut_state]
    · rw [csrDone, passed_state, csrPut_state]
  · exact congrArg Host.Outcome.next (fwI_illegal hf ..)
  · have h0 : dbOp (rd s b) = 0 := hop
    refine ⟨_, (exec_dbgi hf hq hz (by omega) (by omega)).trans (congrArg _ (if_pos h0)), ?_, (g_dbPut _ _ _ _ _ h1 h26).2⟩
    rw [hltd_dbPut, myCore_modMyCore]
  · have h1' : dbOp (rd s b) = 1 := hop
    refine ⟨_, (exec_dbgi hf hq hz (by omega) (by omega)).trans (congrArg _ ((if_neg (by omega)).trans (if_pos h1'))), ?_,
      (g_dbPut _ _ _ _ _ h1 h26).2⟩
    rw [hltd_dbPut, myCore_modMyCore]
  · have h3' : 3 ≤ dbOp (rd s b) := h3
    have h7' : dbOp (rd s b) ≤ 7 := h7
    exact ⟨_, (exec_dbgi hf hq hz (by omega) (by omega)).trans (congrArg _ ((if_neg (by omega)).trans ((if_neg (by omega)).trans
      (if_pos (dbBad_running hh))))), (g_dbPut _ _ _ _ _ h1 h26).2, (g_dbPut _ _ _ _ _ h1 h26).1⟩
  · have h3 : dbOp (rd s b) = 3 := hop
    have hex := exec_dbgi hf hq hz (by omega) (by omega)
    rw [if_neg (by omega), if_neg (by omega), if_neg (by simp [dbBad_halted hh hs hst (by omega)]), dbSlotOp_reg h3 rfl hr1 hr29]
      at hex
    exact ⟨_, hex, g_dbPut _ _ _ _ _ h1 h26⟩
  · have h5 : dbOp (rd s b) = 5 := hop
    have hex := exec_dbgi hf hq hz (by omega) (by omega)
    rw [if_neg (by omega), if_neg (by omega), if_neg (by simp [dbBad_halted hh hs hst (by omega)]), dbSlotOp_pc h5] at hex
    exact ⟨_, hex, g_dbPut _ _ _ _ _ h1 h26⟩
  · have h4 : dbOp (rd s b) = 4 := hop
    have hex := exec_dbgi hf hq hz (by omega) (by omega)
    rw [if_neg (by omega), if_neg (by omega), if_neg (by simp [dbBad_halted hh hs hst (by omega)]), dbSlotOp_write h4 rfl hr1
      hr29] at hex
    refine ⟨_, hex, ?_, (g_dbPut _ _ _ _ _ h1 h26).2⟩
    rw [slotOf_dbPut _ _ _ _ _ (by rw [Placing.cur_wrAt]; exact hne)]
    exact slotOf_wrAt _ hr1 hr29

/-! ## TLB instructions (R182, R183) -/

section
variable {s : State} {a b c : Reg}

theorem targetOf_own (s : State) : targetOf s 0 = some (.core s.cur.core) := rfl
theorem exec_tlbw_illegal (h : (me s).fw = false) : exec (.tlbw a b c) s = .next (trapMe s 0x01 ((me s).pc + 4)) :=
  congrArg Host.Outcome.next (fwI_illegal h ..)
theorem exec_tlbi_illegal (h : (me s).fw = false) : exec (.tlbi a b c) s = .next (trapMe s 0x01 ((me s).pc + 4)) :=
  congrArg Host.Outcome.next (fwI_illegal h ..)
theorem exec_tlbiAll_illegal (h : (me s).fw = false) : exec (.tlbiAll a c) s = .next (trapMe s 0x01 ((me s).pc + 4)) :=
  congrArg Host.Outcome.next (fwI_illegal h ..)

variable (hf : (me s).fw = true) (ht : isTeller s.cur.core = false)
include hf ht

theorem exec_tlbw_own (h : QueuesReady s [b, regUp b 1, 0] [a]) (he : entryBad (rd s b) (rd s (regUp b 1)) = false) :
    exec (.tlbw a b 0) s = .next (asked (post s (.tlbwInstall ⟨.core s.cur.core, rd s b, rd s (regUp b 1), none, .thr s.cur, a,
      lockOf s (.core s.cur.core)⟩)) 3 [b, regUp b 1, 0] (a == 31) .dflt) := by
  refine congrArg Host.Outcome.next ((fwI_ready hf h ..).trans (congrArg _ ?_))
  rw [targetOf_own]
  simp [onTeller, tlbCluster, ht, he]
omit hf in
/-- A SHOOT of the core's own TLB, in a cluster that a launch binds. -/
theorem tlbiEff_own {l : Nat} (hl : (cluster s (clusterOf s.cur.core)).launch = some l) (va : Option Word) :
    tlbiEff s a 0 va = .reply (post s (.shootMessage ⟨.core s.cur.core, va, none, .thr s.cur, a, none⟩)) (a == 31) .dflt := by
  rw [tlbiEff, targetOf_own]
  simp [onTeller, tlbCluster, ht, clusterLaunch, hl]

omit hf ht in
theorem exec_tlbp (h : QueuesReady s [b] [a]) : exec (.tlbp a b) s = .next (wrote s 2 [b] a
    (match tlbFind (myCore s).tlb (isTeller s.cur.core) (me s).launch (rd s b) with
    | some e => e.w1 ||| BitVec.twoPow 64 51
    | none => 0)) := by
  refine congrArg Host.Outcome.next ((runI_ready h ..).trans ?_)
  cases tlbFind (myCore s).tlb (isTeller s.cur.core) (me s).launch (rd s b) <;> rfl

end

/-! ## An entry installed (R179, R181, R183) -/

section
variable {s : State} {c : Nat} {n : TlbEnt}

theorem mem_fset {α : Type} {m : FMap α} {k : Nat} {x : α} {e : Nat × α} (h : e ∈ fset m k x) : e = (k, x) ∨ e ∈ m := by
  induction m with
  | nil => simpa [fset] using h
  | cons y m ih =>
    obtain ⟨j, z⟩ := y
    rw [fset] at h
    split at h
    · simpa using h
    · split at h
      · rcases List.mem_cons.1 h with h | h
        · exact .inl h
        · exact .inr (List.mem_cons_of_mem _ h)
      · rcases List.mem_cons.1 h with h | h
        · exact .inr (h ▸ List.mem_cons_self)
        · exact (ih h).imp_right (List.mem_cons_of_mem _)

/-- An entry that is installed stands in the TLB, and no other entry overlaps it. -/
theorem tlbInstall_spec (hv : bits n.w0 0 0 = 1) (m : FMap TlbEnt) (next lock : Nat) :
    (∃ k, fget (tlbInstall m next lock false n).1 k = some n)
    ∧ ∀ e ∈ (tlbInstall m next lock false n).1, e.2 ≠ n → tlbOverlap e.2 n = false := by
  have hi : (tlbInstall m next lock false n).1 = fset
    (m.filter (fun e => !(tlbOverlap e.2 n && (!false || e.2.launch == n.launch))))
      (max next lock) n := by rw [tlbInstall]; dsimp only; rw [if_pos hv]
  rw [hi]
  refine ⟨⟨_, fget_fset_self ..⟩, fun e he hne => ?_⟩
  rcases mem_fset he with rfl | h
  · exact absurd rfl hne
  · simpa using (List.mem_filter.1 h).2

/-- The core's misses are none that `n` meets, its TLB is `T`, and memory is as in `s`. -/
structure Unmet (s : State) (c : Nat) (T : FMap TlbEnt) (n : TlbEnt) (t : State) : Prop where
  tlb : (Machine.core t c).tlb = T
  misses : ∀ m ∈ (Machine.core t c).misses, missMet n false m = false
  missQ : ∀ e ∈ (Machine.core t c).missQ, missMet n false e.1 = false
  mem : t.mem = s.mem

theorem Unmet.nextMiss {T : FMap TlbEnt} {t : State} (h : Unmet s c T n t) : Unmet s c T n (nextMiss t c) := by
  obtain ⟨ht, hm, hq, hmem⟩ := h
  unfold Machine.nextMiss
  split
  · rename_i m va kind l hl
    rw [hl] at hq
    split
    · exact ⟨ht, hm, fun e he => hq e (hl ▸ he), hmem⟩
    · have hc : Machine.core (sendMiss (modCore t c (fun x => { x with missQ := l })) c m va kind) c =
          { Machine.core t c with missQ := l, misses := (Machine.core t c).misses ++ [m] } := by
        rw [sendMiss, show ∀ (u : State) (e : Ev), Machine.core (post u e) c = Machine.core u c from fun _ _ => rfl,
          core_modCore_self, core_modCore_self]
      refine ⟨by rw [hc]; exact ht, fun k hk => ?_, fun e he => ?_, hmem⟩
      · rw [hc] at hk
        rcases List.mem_append.1 hk with hk | hk
        · exact hm k hk
        · rw [List.mem_singleton.1 hk]; exact hq (m, va, kind) List.mem_cons_self
      · rw [hc] at he; exact hq e (List.mem_cons_of_mem _ he)
  · exact ⟨ht, hm, hq, hmem⟩
theorem Unmet.nextMisses {T : FMap TlbEnt} {t : State} (h : Unmet s c T n t) (l : List Nat) :
    Unmet s c T n (l.foldl (fun s _ => Machine.nextMiss s c) t) := by
  induction l generalizing t with
  | nil => exact h
  | cons k l ih => exact ih h.nextMiss

/-- The state in which the entry stands in the core's TLB and the misses of its page have ended. -/
def installed (s : State) (c lock : Nat) (n : TlbEnt) : State :=
  let x := Machine.core s c
  setCore s c { x with
    tlb := (tlbInstall x.tlb x.tlbNext lock false n).1, tlbNext := (tlbInstall x.tlb x.tlbNext lock false n).2
    misses := x.misses.filter (fun e => !missMet n false e), missQ := x.missQ.filter (fun e => !missMet n false e.1) }
theorem unmet_installed (s : State) (c lock : Nat) (n : TlbEnt) :
    Unmet s c (tlbInstall (Machine.core s c).tlb (Machine.core s c).tlbNext lock false n).1 n (installed s c lock n) := by
  unfold installed
  refine ⟨by rw [core_setCore_self], fun m hm => ?_, fun e he => ?_, rfl⟩
  · rw [core_setCore_self] at hm; simpa using (List.mem_filter.1 hm).2
  · rw [core_setCore_self] at he; simpa using (List.mem_filter.1 he).2
/-- The state in which the places that are free have gone to the misses that wait. -/
def missesSent (s : State) (c : Nat) : State := (List.range 8).foldl (fun s _ => Machine.nextMiss s c) s
theorem Unmet.missesSent {T : FMap TlbEnt} {t : State} (h : Unmet s c T n t) : Unmet s c T n (missesSent t c) := h.nextMisses _
theorem Unmet.post {T : FMap TlbEnt} {t : State} (h : Unmet s c T n t) (e : Ev) : Unmet s c T n (Machine.post t e) := by
  obtain ⟨ht, hm, hq, hmem⟩ := h; exact ⟨ht, hm, hq, hmem⟩
theorem exec_tlbwInstall {w0 w1 : Word} {lock : Nat} {r : TRef} {d : Reg} (ht : isTeller c = false) (hv : bits w0 0 0 = 1) :
    exec .tlbwInstall (facing s (.tlbwInstall ⟨.core c, w0, w1, none, .thr r, d, lock⟩)) = .next
      (post (missesSent (installed (facing s (.tlbwInstall ⟨.core c, w0, w1, none, .thr r, d, lock⟩)) c lock ⟨w0, w1, none⟩) c)
        (.reply r (.writes [(d, 0)]))) := by
  rw [show exec .tlbwInstall = execTlbwInstall from rfl]
  simp only [execTlbwInstall, facing_ev, tlbwGo, ht, hv, answer_thr, status]
  rfl

end

/-! ## A SHOOT (R183, R314) -/

section
variable {s t : State} {c : Nat} {va : Word} {r : TRef} {d : Reg}

theorem fetchWords_congr {x y : Core} (h : x.icache = y.icache) (fw : Bool) (tag : Option Nat) (a : Word) (n : Nat) :
    fetchWords x fw tag a n = fetchWords y fw tag a n := by
  induction n generalizing a with
  | zero => rfl
  | succ n ih => simp only [fetchWords, fetchWord, findLine, h, ih]
theorem slotWords_congr {x y : Core} (h : x.icache = y.icache) (hb : x.ibufs = y.ibufs) (c n : Nat) (th : Thread) :
    slotWords x c n th = slotWords y c n th := by
  simp only [slotWords, ibufOf, hb, fetchWords_congr h]

/-- What `chainsOut` reads of core `c` in `t` is as in `s`, or the slot waits for nothing. -/
structure SameChains (s t : State) (c : Nat) : Prop where
  icache : (Machine.core t c).icache = (Machine.core s c).icache
  ibufs : (Machine.core t c).ibufs = (Machine.core s c).ibufs
  slots : ∀ n, thr t ⟨c, n⟩ = thr s ⟨c, n⟩ ∨ (thr t ⟨c, n⟩).wait = .none
  pending : t.pending = s.pending
  waits : t.waits = s.waits
theorem SameChains.chainAway (h : SameChains s t c) (n : Nat) (hs : Machine.chainAway s ⟨c, n⟩ = false) :
    Machine.chainAway t ⟨c, n⟩ = false := by
  obtain ⟨hi, hb, hsl, hp, hw⟩ := h
  rcases hsl n with hn | hn
  · rw [← hs]
    simp only [Machine.chainAway, nextInstr, hn, slotWords_congr hi hb, hp, hw]
  · simp [Machine.chainAway, hn]
theorem SameChains.chainsOut (h : SameChains s t c) (hs : Machine.chainsOut s c = []) : Machine.chainsOut t c = [] := by
  simp only [Machine.chainsOut, List.map_eq_nil_iff, List.filter_eq_nil_iff, Bool.not_eq_true] at hs ⊢
  exact fun n hn => h.chainAway n (hs n hn)

/-- No request of core `c`, no chain and no stream read is out. -/
structure NothingOut (s : State) (c : Nat) : Prop where
  sbuf : (Machine.core s c).sbuf = []
  streams : (Machine.core s c).streams = []
  pending : s.pending = []
  waits : s.waits = []
  resvs : s.resvs = []
  chains : chainsOut s c = []
/-- The state with the TLB of a core cut down to the entries that a SHOOT leaves. -/
def shot (s : State) (c : Nat) (va : Word) : State := setTlb s (.core c)
  ((Machine.core s c).tlb.filter fun e => !tlbCovers e.2 va)
theorem tlb_shot (s : State) (c : Nat) (va : Word) :
    (Machine.core (Firmware.shot s c va) c).tlb = (Machine.core s c).tlb.filter fun e => !tlbCovers e.2 va := by
  rw [Firmware.shot, setTlb, core_modCore_self]
theorem NothingOut.shot (h : NothingOut s c) : NothingOut (shot s c va) c := by
  obtain ⟨hsb, hst, hp, hw, hr, hc⟩ := h
  have hcore : Machine.core (Firmware.shot s c va) c
      = { Machine.core s c with tlb := (Machine.core s c).tlb.filter fun e => !tlbCovers e.2 va } := core_modCore_self ..
  have hsame : SameChains s (Firmware.shot s c va) c :=
    ⟨by rw [hcore], by rw [hcore], fun n => .inl (Replies.thr_modCore_slots _ _ _ (by intro; rfl) _), rfl, rfl⟩
  exact ⟨by rw [hcore]; exact hsb, by rw [hcore]; exact hst, hp, hw, hr, hsame.chainsOut hc⟩
theorem NothingOut.held (h : NothingOut s c) (m : ShootMsg) (hm : m.tlb = .core c) : shootHeld s m = false := by
  obtain ⟨hsb, hst, hp, hw, hr, hc⟩ := h
  cases hg : m.gone with
  | none => simp [shootHeld, hm, hg]
  | some g => simp [shootHeld, hm, hg, hsb, hst, hp, hw, hr, hc]

/-- A SHOOT of one address at core `c`. -/
abbrev shootMsg (c : Nat) (va : Word) (r : TRef) (d : Reg) : ShootMsg := ⟨.core c, some va, none, .thr r, d, none⟩
theorem shootGo_done (h : NothingOut s c) : shootGo s (shootMsg c va r d) = post (shot s c va) (.reply r (.writes [(d, 0)])) := by
  exact if_neg (Bool.eq_false_iff.1 ((h.shot (va := va)).held _ rfl))
theorem sameChains_starts (s : State) (c : Nat) (w : Mail) : SameChains s (startClass s c 29 w) c := by
  refine ⟨by rw [startClass, core_modCore_self]; rfl, by rw [startClass, core_modCore_self]; rfl, fun n => ?_, rfl, rfl⟩
  by_cases hn : n = 29
  · right; rw [hn, Placing.thr_startClass]; rfl
  · left; rw [startClass, thr_modCore, if_pos rfl, slotOf_setSlot, if_neg hn]; rfl
theorem nothingOut_starts (h : NothingOut s c) (w : Mail) : NothingOut (startClass s c 29 w) c := by
  obtain ⟨hsb, hst, hp, hw, hr, hc⟩ := h
  exact ⟨by rw [startClass, core_modCore_self]; exact hsb, by rw [startClass, core_modCore_self]; exact hst, hp, hw, hr,
    (sameChains_starts s c w).chainsOut hc⟩
theorem nothingOut_waits (h : NothingOut s c) (q : FMap (List Mail)) :
    NothingOut (setCore s c { Machine.core s c with classQ := q }) c := by
  obtain ⟨hsb, hst, hp, hw, hr, hc⟩ := h
  have hsame : SameChains s (setCore s c { Machine.core s c with classQ := q }) c :=
    ⟨by rw [core_setCore_self], by rw [core_setCore_self], fun n => .inl (by rw [thr, core_setCore_self]; rfl), rfl, rfl⟩
  exact ⟨by rw [core_setCore_self]; exact hsb, by rw [core_setCore_self]; exact hst, hp, hw, hr, hsame.chainsOut hc⟩
theorem nothingOut_arrive (h : NothingOut s c) (w : Mail) : NothingOut (classArrive s c 29 w) c ∧
    (Machine.core (classArrive s c 29 w) c).tlb = (Machine.core s c).tlb ∧ (classArrive s c 29 w).mem = s.mem := by
  by_cases hr : classReady s (Machine.core s c) 29 = true ∧ classQ (Machine.core s c) 29 = []
  · rw [Placing.classArrive_starts hr.1 hr.2]
    exact ⟨nothingOut_starts h w, by rw [startClass, core_modCore_self]; rfl, rfl⟩
  · rw [show classArrive s c 29 w = setCore s c _ from if_neg hr]
    exact ⟨nothingOut_waits h _, by rw [core_setCore_self], rfl⟩
theorem nothingOut_class (h : NothingOut s c) (e : Ev) :
    NothingOut (shootClass (facing s e) (shootMsg c va r d)) c ∧
      (Machine.core (shootClass (facing s e) (shootMsg c va r d)) c).tlb = (Machine.core s c).tlb ∧
      (shootClass (facing s e) (shootMsg c va r d)).mem = s.mem := by
  obtain ⟨hsb, hst, hp, hw, hr, hc⟩ := h
  by_cases hg : (Machine.core s c).gated = true
  · rw [show shootClass (facing s e) (shootMsg c va r d) = facing s e from if_pos hg]
    exact ⟨⟨hsb, hst, hp, hw, hr, hc⟩, rfl, rfl⟩
  · rw [show shootClass (facing s e) (shootMsg c va r d) = classArrive { facing s e with freeN := s.freeN + 2 } c 29 _ from
    if_neg hg]
    exact nothingOut_arrive (s := { facing s e with freeN := s.freeN + 2 }) ⟨hsb, hst, hp, hw, hr, hc⟩ _
theorem exec_shoot (h : NothingOut s c) :
    exec .shootMessage (facing s (.shootMessage (shootMsg c va r d))) = .next
      (post (shot (shootClass (facing s (.shootMessage (shootMsg c va r d))) (shootMsg c va r d)) c va)
        (.reply r (.writes [(d, 0)]))) :=
  congrArg Host.Outcome.next (shootGo_done (nothingOut_class h _).1)

end

/-- Settles O32. -/
theorem translation : Obligations.Translation := by
  unfold Obligations.Translation
  refine ⟨fun s a b c => ⟨fun hf => ⟨exec_tlbw_illegal hf, exec_tlbi_illegal hf, exec_tlbiAll_illegal hf⟩,
    fun hf ht => ⟨fun hq he => exec_tlbw_own hf ht hq he, fun l hl => ⟨fun hq => ?_, fun hq => ?_⟩⟩, fun hq =>
      ⟨fun e he => ?_, fun he => ?_⟩⟩,
    fun s c lock r d => ⟨fun w0 w1 ht hv he => ?_, fun va hsb hst hp hw hr hch => ?_⟩⟩
  · refine congrArg Host.Outcome.next ((fwI_ready hf hq ..).trans ?_)
    exact congrArg _ (tlbiEff_own ht hl _)
  · refine congrArg Host.Outcome.next ((fwI_ready hf hq ..).trans ?_)
    exact congrArg _ (tlbiEff_own ht hl _)
  · rw [exec_tlbp hq, he]
  · rw [exec_tlbp hq, he]
  · obtain ⟨htlb, hm, -, hmem⟩ := (unmet_installed (facing s (.tlbwInstall ⟨.core c, w0, w1, none, .thr r, d, lock⟩)) c lock
      ⟨w0, w1, none⟩).missesSent.post (.reply r (.writes [(d, 0)]))
    obtain ⟨hin, hno⟩ := tlbInstall_spec (n := ⟨w0, w1, none⟩) hv (Machine.core s c).tlb (Machine.core s c).tlbNext lock
    refine ⟨_, exec_tlbwInstall ht hv, replied_post .., hmem, ?_, ?_, hm⟩
    · obtain ⟨k, hk⟩ := hin
      exact ⟨k, (congrArg (fget · k) htlb).trans hk⟩
    · intro e he
      exact hno e (htlb ▸ he)
  · obtain ⟨-, htlb, hmem⟩ := nothingOut_class (va := va) (r := r) (d := d) ⟨hsb, hst, hp, hw, hr, hch⟩
      (.shootMessage (shootMsg c va r d))
    refine ⟨_, exec_shoot ⟨hsb, hst, hp, hw, hr, hch⟩, replied_post .., ?_, hmem⟩
    exact (tlb_shot _ c va).trans (congrArg (List.filter fun e => !tlbCovers e.2 va) htlb)

end Sys2Proof.Proofs.Firmware
end

section
/-!
PROOFS. WHAT STATEMENT O53 RESTS ON. A fill of an instruction-cache line (R87, R88): a line just installed is the one that is
found, and what a fault of a line leaves.
-/
namespace Sys2Proof.Proofs.LineFills
open Sys2Proof Sys2Proof.Machine DeviceMemory LocalMemory Roles

/-! ## What a fault of a line leaves (R34, R88) -/

section
variable {s t u : State} {c : Nat}

/-- Memory, and the lines and line fills of core `c`, are in `t` as in `s`. -/
structure KeepsLines (c : Nat) (s t : State) : Prop where
  mem : t.mem = s.mem
  icache : (Machine.core t c).icache = (Machine.core s c).icache
  fills : (Machine.core t c).fills = (Machine.core s c).fills
theorem KeepsLines.rfl : KeepsLines c s s := ⟨Eq.refl _, Eq.refl _, Eq.refl _⟩
theorem KeepsLines.trans (h : KeepsLines c s t) (h' : KeepsLines c t u) : KeepsLines c s u :=
  ⟨h'.mem.trans h.mem, h'.icache.trans h.icache, h'.fills.trans h.fills⟩
theorem keepsLines_modCore (s : State) (b : Nat) {f : Core → Core} (hi : ∀ x, (f x).icache = x.icache)
    (hf : ∀ x, (f x).fills = x.fills) :
    KeepsLines c s (modCore s b f) := by
  refine ⟨Eq.refl _, ?_, ?_⟩ <;> rw [core_modCore] <;> split
  · next h => rw [hi, h]
  · exact Eq.refl _
  · next h => rw [hf, h]
  · exact Eq.refl _
theorem keepsLines_modThr (s : State) (a : TRef) (f : Thread → Thread) : KeepsLines c s (modThr s a f) := by
  unfold modThr setThr
  exact keepsLines_modCore s a.core (by intro; rfl) (by intro; rfl)
theorem keepsLines_post (s : State) (e : Ev) : KeepsLines c s (post s e) := ⟨Eq.refl _, Eq.refl _, Eq.refl _⟩
theorem keepsLines_leaveRings (s : State) (a : TRef) : KeepsLines c s (leaveRings s a) := by
  unfold leaveRings
  split
  · exact keepsLines_modCore s _ (by intro; rfl) (by intro; rfl)
  · exact .rfl
theorem keepsLines_freeze (s : State) (a : TRef) (code : Nat) (tval : Word) : KeepsLines c s (freeze s a code tval) :=
  (keepsLines_modThr s a _).trans (keepsLines_post _ _)
theorem keepsLines_trapAt (s : State) (a : TRef) (code : Nat) (tval : Word) : KeepsLines c s (trapAt s a code tval) := by
  by_cases hth : (thr s a).th = true
  · rw [trapAt_freeze (.inl hth)]; exact keepsLines_freeze ..
  · cases ht : trapTarget s (thr s a) with
    | none => rw [trapAt_freeze (.inr ht)]; exact keepsLines_freeze ..
    | some h => rw [trapAt_enter (by simpa using hth) ht]; exact keepsLines_modThr ..
theorem keepsLines_foldl {α : Type} {f : State → α → State} (h : ∀ s e, KeepsLines c s (f s e)) (l : List α) (s : State) :
    KeepsLines c s (l.foldl f s) := by
  induction l generalizing s with
  | nil => exact .rfl
  | cons e l ih => exact (h s e).trans (ih _)
theorem keepsLines_endStep (s : State) (a : TRef) : KeepsLines c s (endStep a s) := by
  unfold endStep
  dsimp only
  split
  · exact .rfl
  · exact (keepsLines_modCore s _ (by intro; rfl) (by intro; rfl)).trans
      (keepsLines_foldl (by intro _ _; exact keepsLines_post ..) _ _)
theorem keepsLines_faultLine (s : State) (line : Nat) (fw : Bool) (tag : Option Nat) (code : Nat) :
    KeepsLines c s (faultLine s c line fw tag code) := by
  refine keepsLines_foldl (fun s n => ?_) _ _
  split
  · exact (keepsLines_leaveRings s _).trans (((keepsLines_trapAt ..).trans (keepsLines_modThr ..)).trans (keepsLines_endStep ..))
  · exact .rfl
theorem keepsLines_raiseMiss (s : State) (agent : Nat) (l : Option Nat) (va : Word) (kind : Nat) :
    KeepsLines c s (raiseMiss s c agent l va kind) := by
  have hm : ∀ f : Core → Core, (∀ x, (f x).icache = x.icache) → (∀ x, (f x).fills = x.fills) → KeepsLines c s (modCore s c f) :=
    fun _ hi hf => keepsLines_modCore s c hi hf
  unfold raiseMiss
  dsimp only
  split
  · exact .rfl
  · split
    · exact hm _ (by intro; rfl) (by intro; rfl)
    · unfold sendMiss
      exact (hm _ (by intro; rfl) (by intro; rfl)).trans (keepsLines_post _ _)
theorem keepsLines_noteRefusal (s : State) (l : Option Nat) (st : Bool) (r : Refuse) : KeepsLines c s (noteRefusal s l st r) := by
  obtain ⟨x, h⟩ := noteRefusal_eq s l st r
  rw [h]; exact ⟨Eq.refl _, Eq.refl _, Eq.refl _⟩

end

/-! ## A line installed (R87) -/

section

/-- A line just installed is the one that the cache finds: the line that leaves its set is another. -/
theorem find_installLine (l : List ILine) (e : ILine) :
    (installLine l e).find? (fun d => lineHit d e.line e.fw e.launch) = some e := by
  have he : lineHit e e.line e.fw e.launch = true := by simp [lineHit]
  unfold installLine
  dsimp only
  split
  · next v hv =>
    have hv' : lineHit v e.line e.fw e.launch = false := by
      rw [List.filter_cons_of_pos (by simp), List.getElem?_cons_succ] at hv
      simpa using (List.mem_filter.1 (List.mem_filter.1 (List.mem_of_getElem? hv)).1).2
    have hne : lineHit e v.line v.fw v.launch = false := by
      simp only [lineHit, Bool.and_eq_false_iff, beq_eq_false_iff_ne, ne_eq] at hv' ⊢
      tauto
    rw [List.filter_cons_of_pos (by simp [hne]), List.find?_cons_of_pos (by simpa using he)]
  · rw [List.find?_cons_of_pos (by simpa using he)]

end

/-! ## The fill (R88) -/

section
variable {s : State} {a : TRef} {va : Word} {t : Thread}

/-- The address of the line. -/
abbrev lineBase (va : Word) : Word := BitVec.ofNat 64 (64 * (va.toNat / 64))
/-- What the line's address translates to. -/
abbrev lineTr (s : State) (a : TRef) (t : Thread) (va : Word) : Tr :=
  if t.fw then Tr.pa (lineBase va).toNat
  else trIn s (tlbFind (Machine.core s a.core).tlb (isTeller a.core) t.launch (lineBase va)) (lineBase va) needX
/-- The state after a fill whose words a refusal keeps back. -/
def filledFault (s : State) (a : TRef) (t : Thread) (va : Word) (pa : Nat) (why : Refuse) : State :=
  endFill (faultLine (noteRefusal (touch s pa) (reqLaunch t) false why) a.core (va.toNat / 64) t.fw (lineTag a.core t) 0x05)
    a.core (va.toNat / 64) t.fw (lineTag a.core t)
/-- The state after a fill whose words have all arrived. -/
def filled (s : State) (a : TRef) (t : Thread) (va : Word) (pa : Nat) : State :=
  endFill (modCore (touch s pa) a.core (fun x => wakeLine (touch s pa) a.core (va.toNat / 64) t.fw (lineTag a.core t)
      { x with icache := installLine x.icache ⟨va.toNat / 64, t.fw, lineTag a.core t, devBytes (touch s pa) pa 64⟩ }))
    a.core (va.toNat / 64) t.fw (lineTag a.core t)
theorem fillGo_miss (h : lineTr s a t va = .miss) :
    fillGo s a t va = .next (post (raiseMiss s a.core 0 t.launch (lineBase va) 2) (.lineFill a va)) := by
  rw [fillGo]; dsimp only; rw [show (if t.fw = true then _ else _) = Tr.miss from h]
theorem fillGo_served {pa : Nat} (h : lineTr s a t va = .pa pa) (hi : injFires s pa = false)
    (he : ∀ k, k < 64 → fget s.errs (sectorOf (pa + k)) = none) :
    fillGo s a t va = match firstSome (fun k => tauRefuses (touch s pa) (reqLaunch t) (pa + 8 * k)) 0 8 with
      | some why => .next (filledFault s a t va pa why)
      | none => .next (filled s a t va pa) := by
  have h1 : eccStops s pa = false := eccStops_none (he 0 (by omega))
  have h2 : eccStops s (pa + 32) = false := eccStops_none (he 32 (by omega))
  rw [fillGo]
  dsimp only
  rw [show (if t.fw = true then _ else _) = Tr.pa pa from h]
  dsimp only
  rw [h1, h2, hi, eccRead_bytes (by omega) he]
  rfl
theorem firstSome_eq_none {α : Type} {f : Nat → Option α} {n i : Nat} (h : firstSome f i n = none) : ∀ k, k < n → f
    (i + k) = none := by
  induction n generalizing i with
  | zero => intro k hk; omega
  | succ n ih =>
    rw [firstSome] at h
    split at h
    · exact absurd h nofun
    · next hi =>
      intro k hk
      cases k with
      | zero => exact hi
      | succ k => rw [show i + (k + 1) = i + 1 + k by omega]; exact ih h k (by omega)
theorem fills_endFill (s : State) (c line : Nat) (fw : Bool) (tag : Option Nat) : (Machine.core (endFill s c line fw tag) c).fills
    = (Machine.core s c).fills.filter (fun f => f ≠ (line, fw, tag)) := by
  rw [endFill, core_modCore_self]
  exact List.filter_congr fun f _ => by rw [bne, Bool.eq_iff_iff]; simp
theorem mem_endFill (s : State) (c line : Nat) (fw : Bool) (tag : Option Nat) : (endFill s c line fw tag).mem = s.mem := rfl
theorem icache_endFill (s : State) (c line : Nat) (fw : Bool) (tag : Option Nat) :
    (Machine.core (endFill s c line fw tag) c).icache = (Machine.core s c).icache := by rw [endFill, core_modCore_self]
theorem filledFault_keeps {pa : Nat} {why : Refuse} : (filledFault s a t va pa why).mem = s.mem
    ∧ (Machine.core (filledFault s a t va pa why) a.core).icache = (Machine.core s a.core).icache
    ∧ (Machine.core (filledFault s a t va pa why) a.core).fills
      = (Machine.core s a.core).fills.filter (fun f => f ≠ (va.toNat / 64, t.fw, lineTag a.core t)) := by
  obtain ⟨hm, hi, hf⟩ := (keepsLines_noteRefusal (c := a.core) (touch s pa) (reqLaunch t) false why).trans
    (keepsLines_faultLine _ (va.toNat / 64) t.fw (lineTag a.core t) 0x05)
  refine ⟨(mem_endFill ..).trans hm, (icache_endFill ..).trans hi, (fills_endFill ..).trans ?_⟩
  rw [hf]; rfl
theorem icache_filled {pa : Nat} : (Machine.core (filled s a t va pa) a.core).icache = installLine (Machine.core s a.core).icache
    ⟨va.toNat / 64, t.fw, lineTag a.core t, devBytes s pa 64⟩ := by
  rw [filled, icache_endFill, core_modCore_self]
  show installLine _ ⟨_, _, _, devBytes (touch s pa) pa 64⟩ = _
  rw [devBytes_congr (sameMemory_touch s pa)]; rfl

end

/-- Settles O53. -/
theorem instructionFetch : Obligations.InstructionFetch := by
  unfold Obligations.InstructionFetch
  intro s a va
  dsimp only
  refine ⟨fun pa htr hc hf => ?_, fun pa htr hc hf => ?_, fun htr => ?_⟩
  · have hex := fillGo_served (s := facing s (.lineFill a va)) (t := thr s a) htr hc.1 hc.2
    rw [firstSome_none _ _ fun k hk => by rw [Nat.zero_add]; exact hf k hk] at hex
    refine ⟨_, hex, rfl, rfl, ?_, ?_⟩
    · rw [findLine, icache_filled, devBytes_congr (sameMemory_facing ..)]
      exact find_installLine (Machine.core s a.core).icache
        ⟨va.toNat / 64, (thr s a).fw, lineTag a.core (thr s a), devBytes s pa 64⟩
    · rw [filled, fills_endFill, core_modCore_self]; rfl
  · have hex := fillGo_served (s := facing s (.lineFill a va)) (t := thr s a) htr hc.1 hc.2
    cases hw : firstSome (fun k => tauRefuses (touch (facing s (.lineFill a va)) pa) (reqLaunch (thr s a)) (pa + 8 * k)) 0 8 with
    | none =>
      obtain ⟨k, hk, hr⟩ := hf
      exact absurd (by have := firstSome_eq_none hw k hk; rwa [Nat.zero_add] at this) hr
    | some why =>
      rw [hw] at hex
      exact ⟨_, hex, filledFault_keeps (s := facing s (.lineFill a va))⟩
  · have hk : KeepsLines a.core (facing s (.lineFill a va)) _ :=
      (keepsLines_raiseMiss (facing s (.lineFill a va)) 0 (thr s a).launch (lineBase va) 2).trans
        (keepsLines_post _ (.lineFill a va))
    refine ⟨_, fillGo_miss (s := facing s (.lineFill a va)) (t := thr s a) htr, hk.mem, ?_, hk.icache, hk.fills⟩
    exact List.getLast?_concat ..

end Sys2Proof.Proofs.LineFills
end

section
/-!
PROOFS. WHAT STATEMENT O52 RESTS ON. A full module reset, capper windows, temperature readings, ageing monitors and
re-planning (R25, R382 to R385).
-/
namespace Sys2Proof.Proofs.ServiceLife
open Sys2Proof Sys2Proof.Machine DeviceMemory

/-! ## A full module reset -/

section
variable (s : State)

theorem mem_resetModule : (resetModule s).mem = [] := rfl
theorem cores_resetModule : (resetModule s).cores = [] := rfl
theorem launches_resetModule : (resetModule s).launches = [] := rfl
theorem hostMem_resetModule : (resetModule s).hostMem = s.hostMem := rfl
theorem mem_tripModule : (tripModule s).mem = [] := rfl
theorem cores_tripModule : (tripModule s).cores = [] := rfl
theorem launches_tripModule : (tripModule s).launches = [] := rfl
theorem tripped_tripModule : (tripModule s).life.tripped = true := rfl

end

/-! ## Windows and temperatures (R25, R384, R385) -/

section
variable {s : State}

theorem exec_window (w k i : Nat) (h : s.life.winAt + 2500000 ≤ s.cycle) :
    exec .capperWindow (facing s (.capperWindow w k i)) = .next { facing s (.capperWindow w k i) with life := { s.life with
      pwavg := min (w % 4096) s.life.eff, slices := (withheld k i).1, issues := (withheld k i).2
      eff := nextLimit s.life s.life.eff s.life.pwcap s.life.pwnext, was := s.life.eff, wasCap := s.life.pwcap
      pwcap := s.life.pwnext, winAt := s.life.winAt + windowLen } } := by
  have hd : windowDue (facing s (.capperWindow w k i)) = true := decide_eq_true h
  exact congrArg Host.Outcome.next (if_pos hd)
theorem exec_window_early (w k i : Nat) (h : s.cycle < s.life.winAt + 2500000) :
    exec .capperWindow (facing s (.capperWindow w k i)) = .next (facing s (.capperWindow w k i)) := by
  have hd : ¬ windowDue (facing s (.capperWindow w k i)) = true := by
    show ¬ decide (_ ≤ _) = true
    rw [decide_eq_true_eq]; exact Nat.not_le.2 h
  exact congrArg Host.Outcome.next (if_neg hd)
theorem nextLimit_ge (x : LifeSt) (was wasCap cap : Nat) : 1000 ≤ nextLimit x was wasCap cap := Nat.le_max_left ..

/-- The state in which a reading has been recorded. -/
def readingNoted (s : State) (p x : Nat) : State :=
  let t := if p = 0 then { s with life := { s.life with temp0 := x } }
    else if p = 1 then { s with life := { s.life with temp1 := x } } else modStack s (p - 2) (fun y => { y with temp := x })
  { t with life := { t.life with hot := decide (420 < hottest t) } }
theorem exec_reading (p : Nat) {x : Nat} (hx : x < 4096) : exec .temperatureReading (facing s (.temperatureReading p x)) =
    .next (if 460 ≤ hottest (readingNoted (facing s (.temperatureReading p x)) p x) then
        tripModule (readingNoted (facing s (.temperatureReading p x)) p x)
      else readingNoted (facing s (.temperatureReading p x)) p x) := by
  rw [show exec .temperatureReading = execTemperatureReading from rfl]
  simp only [execTemperatureReading, facing_ev, Nat.mod_eq_of_lt hx]
  rfl
theorem exec_reading_cool {p x : Nat} (hx : x < 4096)
    (h : hottest (readingNoted (facing s (.temperatureReading p x)) p x) < 460) :
    exec .temperatureReading (facing s (.temperatureReading p x)) = .next
      (readingNoted (facing s (.temperatureReading p x)) p x) :=
  (exec_reading p hx).trans (congrArg _ (if_neg (by omega)))
theorem exec_reading_hot {p x : Nat} (hx : x < 4096) (h : 460 ≤ hottest (readingNoted (facing s (.temperatureReading p x)) p x)) :
    exec .temperatureReading (facing s (.temperatureReading p x)) = .next
      (tripModule (readingNoted (facing s (.temperatureReading p x)) p x)) :=
  (exec_reading p hx).trans (congrArg _ (if_pos h))
theorem readingNoted_stack (s : State) (n x : Nat) : readingNoted s (n + 2) x =
    { modStack s n (fun y => { y with temp := x }) with life := { s.life with hot := decide (420 < hottest s) } } := by
  rw [readingNoted, if_neg (by omega), if_neg (by omega), Nat.add_sub_cancel]
  rfl
theorem exec_trip : exec .thermalTrip (facing s .thermalTrip) = .next (tripModule (facing s .thermalTrip)) := rfl

/-! ## Ageing (R382, R383) -/

theorem exec_ageing {n : Nat} (x : Nat) (hn : monitorExists n = true) (hd : readingDue s n = true) :
    exec .ageingMonitorUpdate (facing s (.ageingMonitorUpdate n x)) = .next { facing s (.ageingMonitorUpdate n x) with
      life := { s.life with ages := fset s.life.ages n (x % 65536), ageAt := fset s.life.ageAt n s.cycle } } :=
  congrArg Host.Outcome.next (if_pos ⟨hn, hd⟩)
/-- The state after a re-plan that is due, but for what it reports. -/
def replanned (s : State) (a b : Nat) : State :=
  { s with life := { s.life with
    off0 := max s.life.off0 (min 12 a), off1 := max s.life.off1 (min 12 b)
    sup0 := supplyOf s.cycle s.life.rpAt s.life.sup0 s.life.off0, sup1 := supplyOf s.cycle s.life.rpAt s.life.sup1 s.life.off1
    replans := (s.life.replans + 1) % 2 ^ 32, degr := s.life.degr || (decide (12 < a) || decide (12 < b)), rpAt := s.cycle } }
theorem exec_replan (a b : Nat) (h : replanDue s = true) : exec .replan (facing s (.replan a b)) =
    .next (if (decide (12 < a) || decide (12 < b)) = true then toHost (replanned (facing s (.replan a b)) a b) .degrIrq
      else replanned (facing s (.replan a b)) a b) := by
  have hd : replanDue (facing s (.replan a b)) = true := h
  rw [show exec .replan = execReplan from rfl]
  simp only [execReplan, facing_ev, hd]
  rfl

end

/-- Settles O52. -/
theorem serviceLifeSteps : Obligations.ServiceLifeSteps := by
  unfold Obligations.ServiceLifeSteps
  refine fun s => ⟨fun w k i h => exec_window_early w k i h, fun w k i h => ⟨_, exec_window w k i h, rfl, rfl, ?_, ?_, rfl,
      ?_, fun hc hh => ?_, fun hh => ?_, fun hc hh => ?_, rfl, rfl⟩, fun x hx h1 => ?_, fun x hx h4 => ?_, fun n x hx h0 h1 => ?_,
    ⟨_, exec_trip, mem_tripModule _, cores_tripModule _, tripped_tripModule _⟩, fun n x hn h6 hd => ?_, fun a b hr hh => ?_⟩
  · show (withheld k i).2 = _
    rw [withheld, windowLen]
  · show s.life.winAt + windowLen = _
    rw [windowLen]
  · exact nextLimit_ge ..
  · show nextLimit _ _ _ _ = _
    simp [nextLimit, hc, hh]
  · show nextLimit _ _ _ _ = _
    simp [nextLimit, hh]
  · show nextLimit _ _ _ _ = _
    simp [nextLimit, hh, Ne.symm hc]
  · have hhot : hottest (readingNoted (facing s (.temperatureReading 0 x)) 0 x) = max x s.life.temp1 := rfl
    refine ⟨_, exec_reading_cool (by omega) (by omega), rfl, ?_, rfl⟩
    show decide (420 < max x s.life.temp1) = true ↔ _
    rw [decide_eq_true_eq]; omega
  · have hhot : hottest (readingNoted (facing s (.temperatureReading 1 x)) 1 x) = max s.life.temp0 x := rfl
    exact ⟨_, exec_reading_hot h4 (by omega), mem_tripModule _, cores_tripModule _, launches_tripModule _, tripped_tripModule _⟩
  · have hhot : hottest (readingNoted (facing s (.temperatureReading (n + 2) x)) (n + 2) x) = max s.life.temp0 s.life.temp1 := by
      rw [readingNoted_stack]; rfl
    refine ⟨_, exec_reading_cool hx (by omega), ?_, ?_⟩ <;> rw [readingNoted_stack]
    · rw [show stackSt _ n = (fget (fset s.stks n { stackSt s n with temp := x }) n).getD StackSt.reset from rfl,
      fget_fset_self]; rfl
    · rfl
  · have hm : monitorExists n = true := by
      cases ht : n.testBit 6 with
      | false => simp [monitorExists, hn, ht]
      | true => simp [monitorExists, hn, ht, h6 ht]
    have hr : readingDue s n = true := by
      rw [readingDue, Option.all_eq_true]
      exact fun c hc => decide_eq_true (hd c hc)
    exact ⟨_, exec_ageing x hm hr, fget_fset_self .., rfl⟩
  · have hex := exec_replan a b (s := s) (by simp [replanDue, hh, hr])
    by_cases hw : 12 < a ∨ 12 < b
    · rw [if_pos (by simpa using hw)] at hex
      refine ⟨_, hex, rfl, rfl, rfl, rfl, rfl, fun _ => ⟨?_, rfl⟩, fun ha hb => by omega⟩
      show (s.life.degr || (decide (12 < a) || decide (12 < b))) = true
      simp [hw]
    · rw [if_neg (by simpa using hw)] at hex
      refine ⟨_, hex, rfl, rfl, rfl, rfl, rfl, fun h => absurd h hw, fun ha hb => ⟨?_, rfl⟩⟩
      show (s.life.degr || (decide (12 < a) || decide (12 < b))) = s.life.degr
      simp [Nat.not_lt.2 ha, Nat.not_lt.2 hb]

end Sys2Proof.Proofs.ServiceLife
end

section
/-!
PROOFS. WHAT STATEMENTS O45 AND O46 REST ON. Restart points and the seal protocol (R286, R289, R292), rollback and the stamp
sweep (R285, R293, R295 to R297), and the watchdog (R319, R320).
-/
namespace Sys2Proof.Proofs.Seals
open Sys2Proof Sys2Proof.Machine DeviceMemory FetchingAndIssuing LocalMemory

/-! ## What parts that go to their restart points leave as it is -/

section
variable {s t u : State}

/-- `t` is `s` but for its cores, clusters, waiting requests, messages and packets; a core keeps its launch, and one that has
stopped stays so. -/
structure Rests (s t : State) : Prop where
  rest : ∃ c k w r p f o e, t = { s with
    cores := c, clusters := k, waits := w, resvs := r, pending := p, fab := f, fabOut := o, escIn := e }
  launch : ∀ c, (Machine.core t c).launch = (Machine.core s c).launch
  stopped : ∀ c, (Machine.core s c).stopped = true → (Machine.core t c).stopped = true
theorem Rests.refl : Rests s s := ⟨⟨_, _, _, _, _, _, _, _, rfl⟩, fun _ => rfl, fun _ h => h⟩
theorem Rests.trans (h : Rests s t) (h' : Rests t u) : Rests s u := by
  obtain ⟨⟨c₁, k₁, w₁, r₁, p₁, f₁, o₁, e₁, h₁⟩, hl, hs⟩ := h
  obtain ⟨⟨c₂, k₂, w₂, r₂, p₂, f₂, o₂, e₂, h₂⟩, hl', hs'⟩ := h'
  exact ⟨⟨c₂, k₂, w₂, r₂, p₂, f₂, o₂, e₂, by rw [h₂, h₁]⟩, fun c => (hl' c).trans (hl c), fun c h => hs' c (hs c h)⟩
theorem Rests.mem (h : Rests s t) : t.mem = s.mem := by obtain ⟨c, k, w, r, p, f, o, e, rfl⟩ := h.rest; rfl
theorem Rests.sl (h : Rests s t) : t.sl = s.sl := by obtain ⟨c, k, w, r, p, f, o, e, rfl⟩ := h.rest; rfl
theorem Rests.cycle (h : Rests s t) : t.cycle = s.cycle := by obtain ⟨c, k, w, r, p, f, o, e, rfl⟩ := h.rest; rfl
theorem Rests.launches (h : Rests s t) : t.launches = s.launches := by obtain ⟨c, k, w, r, p, f, o, e, rfl⟩ := h.rest; rfl
theorem Rests.adm (h : Rests s t) : t.adm = s.adm := by obtain ⟨c, k, w, r, p, f, o, e, rfl⟩ := h.rest; rfl
theorem Rests.moves (h : Rests s t) : t.moves = s.moves := by obtain ⟨c, k, w, r, p, f, o, e, rfl⟩ := h.rest; rfl
/-- A change that keeps the cores. -/
theorem rests_cores (h : ∃ k w r p f o e, t = { s with
    clusters := k, waits := w, resvs := r, pending := p, fab := f, fabOut := o, escIn := e }) : Rests s t := by
  obtain ⟨k, w, r, p, f, o, e, rfl⟩ := h
  exact ⟨⟨_, _, _, _, _, _, _, _, rfl⟩, fun _ => rfl, fun _ h => h⟩
theorem rests_fold {α : Type} {f : State → α → State} {l : List α} (hi : Rests s t) (h : ∀ s e, Rests s (f s e)) :
    Rests s (l.foldl f t) := by
  induction l generalizing t with
  | nil => exact hi
  | cons e l ih => exact ih (hi.trans (h t e))
theorem rests_modCore (s : State) (c : Nat) {f : Core → Core} (hl : ∀ x, (f x).launch = x.launch)
    (hs : ∀ x, x.stopped = true → (f x).stopped = true) : Rests s (modCore s c f) := by
  refine ⟨⟨_, _, _, _, _, _, _, _, rfl⟩, fun d => ?_, fun d h => ?_⟩ <;> rw [core_modCore] <;> split
  · next h => rw [hl, h]
  · rfl
  · next hd => exact hs _ (hd ▸ h)
  · exact h
theorem rests_modCluster (s : State) (c : Nat) (f : Cluster → Cluster) : Rests s (modCluster s c f) :=
  rests_cores ⟨_, _, _, _, _, _, _, rfl⟩
theorem rests_modThr (s : State) (a : TRef) (f : Thread → Thread) : Rests s (modThr s a f) := by
  unfold modThr setThr
  exact rests_modCore s a.core (by intro; rfl) (by intro _ h; exact h)
theorem rests_post (s : State) (e : Ev) : Rests s (post s e) := rests_cores ⟨_, _, _, _, _, _, _, rfl⟩
theorem rests_emit (s : State) (d : Nat) (k : TClass) (b : PktBody) : Rests s (emit s d k b) := rests_cores
    ⟨_, _, _, _, _, _, _, rfl⟩
theorem rests_answer (s : State) (r : ReplyTo) (x : RepRes) : Rests s (answer s r x) := by
  cases r with
  | thr a => exact rests_post ..
  | away m tag => unfold answer; dsimp only; split; exacts [rests_post .., rests_emit ..]
  | nobody => exact .refl
theorem rests_bufWrite (s : State) (c : Nat) (b : Space) (a : Nat) (l : List Byte) : Rests s (bufWrite s c b a l) := by
  unfold bufWrite
  exact rests_modCore s c (by intro x; cases b <;> rfl) (by intro x h; cases b <;> exact h)
theorem rests_endHolds (s : State) (c : Nat) (pops pushes : Bool) : Rests s (endHolds s c pops pushes) := by
  unfold endHolds
  exact rests_modCore s c (by intro; rfl) (by intro _ h; exact h)
theorem rests_giveBack (s : State) (a : TRef) (e : Option QEntry) (p : Bool) : Rests s (giveBack s a e p) := by
  unfold giveBack
  have hq : ∀ (x : Core) n, (qTick x n).launch = x.launch ∧ (qTick x n).stopped = x.stopped := fun x n => by
    unfold qTick; split <;> exact ⟨rfl, rfl⟩
  refine (rests_endHolds s a.core e.isSome p).trans ?_
  refine rests_modCore _ a.core (fun x => ?_) fun x h => ?_
  · cases e <;> cases p <;> exact (hq x _).1
  · cases e <;> cases p <;> exact (hq x _).2.trans h
/-- The entry of a map whose values change by key. -/
theorem fget_map_key {α β : Type} (f : Nat → α → β) (m : FMap α) (n : Nat) :
    fget (m.map (fun e => (e.1, f e.1 e.2))) n = (fget m n).map (f n) := by
  induction m with
  | nil => rfl
  | cons e m ih =>
    simp only [List.map_cons, fget]
    split
    · next h => rw [h]; rfl
    · exact ih
theorem rests_mapCores (s : State) {f : Nat → Core → Core} (hl : ∀ c x, (f c x).launch = x.launch)
    (hs : ∀ c x, (f c x).stopped = x.stopped) : Rests s { s with cores := s.cores.map (fun e => (e.1, f e.1 e.2)) } := by
  refine ⟨⟨_, _, _, _, _, _, _, _, rfl⟩, fun c => ?_, fun c h => ?_⟩
  · rw [Machine.core, fget_map_key, Machine.core]
    cases fget s.cores c with
    | none => rfl
    | some x => exact hl c x
  · rw [Machine.core] at h
    rw [Machine.core, fget_map_key]
    cases hx : fget s.cores c with
    | none => rw [hx] at h; exact h
    | some x => rw [hx] at h; exact (hs c x).trans h

end

/-! ## Restart points (R289) -/

section
variable {s : State}

theorem rests_unissue (s : State) (a : TRef) : Rests s (unissue s a) := by
  unfold unissue
  split
  · exact (rests_giveBack ..).trans (rests_modThr ..)
  · exact .refl
theorem rests_unissueTo (s : State) (r : ReplyTo) : Rests s (unissueTo s r) := by
  unfold unissueTo
  split
  · exact rests_unissue ..
  · exact rests_answer ..
theorem rests_modAt (s : State) (r : ReplyTo) (f : Thread → Thread) : Rests s (modAt s r f) := by
  cases r with
  | thr a => exact rests_modThr ..
  | away m tag => exact .refl
  | nobody => exact .refl
theorem rests_withdrawWaits (p : ReplyTo → Bool) (s : State) : Rests s (withdrawWaits p s) := by
  unfold withdrawWaits; exact rests_fold (rests_cores ⟨_, _, _, _, _, _, _, rfl⟩) fun s w => rests_unissueTo ..
theorem rests_withdrawResv (p : ReplyTo → Bool) (s : State) : Rests s (withdrawResv p s) := by
  unfold withdrawResv; exact rests_fold (rests_cores ⟨_, _, _, _, _, _, _, rfl⟩) fun s r => (rests_modAt ..).trans
    (rests_unissueTo ..)
theorem rests_withdrawMsgs (p : ReplyTo → Bool) (s : State) : Rests s (withdrawMsgs p s) := by
  unfold withdrawMsgs
  refine rests_fold (rests_cores ⟨_, _, _, _, _, _, _, rfl⟩) fun s e => ?_
  split
  · exact rests_unissueTo ..
  · exact .refl
theorem rests_withdrawDoors (p : ReplyTo → Bool) (s : State) : Rests s (withdrawDoors p s) := by
  unfold withdrawDoors; exact rests_fold (rests_cores ⟨_, _, _, _, _, _, _, rfl⟩) fun s m => rests_unissueTo ..
theorem rests_withdrawBarw (p : ReplyTo → Bool) (s : State) : Rests s (withdrawBarw p s) := by
  unfold withdrawBarw; exact rests_fold (rests_cores ⟨_, _, _, _, _, _, _, rfl⟩) fun s m => rests_unissueTo ..
theorem rests_writeAcc (s : State) (c : Nat) (d : List Word) (st : Nat) (l : List Lane) : Rests s (writeAcc s c d st l) := by
  unfold writeAcc; exact rests_fold .refl fun s i => rests_bufWrite ..
theorem rests_flushAcc (s : State) (cl : Nat) (j : MxJob) : Rests s (flushAcc s cl j) := by
  unfold flushAcc
  split
  · exact .refl
  · refine rests_fold .refl fun s e => ?_
    split
    · exact .refl
    · exact rests_writeAcc ..
theorem rests_restMatrix (q : MxJob → Bool) (s : State) (cl : Nat) : Rests s (restMatrix q s cl) :=
  rests_fold .refl fun s j => (rests_flushAcc s cl j).trans (rests_modCluster ..)
theorem rests_restCluster (q : MxJob → Bool) (r : CpJob → Bool) (s : State) (cl : Nat) : Rests s (restCluster q r s cl) :=
  (rests_restMatrix q s cl).trans (rests_modCluster ..)
theorem rests_toRest (every : Bool) (pm : Nat → Option Nat → Bool) (q : Nat → Bool) (s : State) : Rests s
    (toRest every pm q s) := by
  have hw : ∀ w, Rests s (withdrawDoors w (withdrawMsgs w (withdrawBarw w (withdrawResv w (withdrawWaits w s))))) := fun w =>
    ((((rests_withdrawWaits w s).trans (rests_withdrawResv ..)).trans (rests_withdrawBarw ..)).trans
      (rests_withdrawMsgs ..)).trans
      (rests_withdrawDoors ..)
  unfold toRest
  dsimp only
  have h := hw (stopsAt every fun a => pm a.core (thr s a).launch)
  generalize withdrawDoors (stopsAt every fun a => pm a.core (thr s a).launch) _ = t at h ⊢
  exact rests_fold (h.trans (rests_mapCores t (by intro _ _; rfl) (by intro _ _; rfl))) fun s cl => rests_restCluster ..
theorem rests_restAll (s : State) : Rests s (restAll s) := rests_toRest ..

end

/-! ## The protocol (R286, R289, R292) -/

section
variable {s : State}

theorem toDomain_alone (h : s.fab.caps = []) (b : PktBody) (e : Ev) : toDomain s b e = post s e := by rw [toDomain, h]; rfl
theorem wantSeal_leader (h : isLeader s = true) : wantSeal s = post s (.sealRequest s.fab.modnum) := if_pos h
theorem exec_sealTimer (h : timerDue s = true) : exec .sealTimer (facing s .sealTimer) =
    .next (wantSeal { facing s .sealTimer with sl := { s.sl with want := true } }) := congrArg Host.Outcome.next (if_pos h)
/-- The state of the leader that has left `open`, but for what it tells the domain. -/
def preparing (s : State) (e : Ev) : State :=
  { facing s e with sl := { s.sl with phase := .prepare, want := true, since := s.cycle, got := [] } }
theorem exec_sealRequest (m : Nat) (hp : s.sl.phase = .open_) (hl : isLeader s = true) (hc : s.fab.caps = []) :
    exec .sealRequest (facing s (.sealRequest m)) = .next (post (preparing s (.sealRequest m)) (.prep s.sl.ivnum.toNat)) := by
  have hl' : (!isLeader (facing s (.sealRequest m))) = false := by
    rw [show isLeader (facing s (.sealRequest m)) = true from hl]; rfl
  rw [show exec .sealRequest = execSealRequest from rfl]
  simp only [execSealRequest, facing_ev, hl']
  rw [if_neg (show ¬ (facing s (.sealRequest m)).sl.phase ≠ .open_ from not_not.2 hp), if_neg Bool.false_ne_true]
  exact congrArg _ (toDomain_alone (s := preparing s (.sealRequest m)) hc ..)
/-- The state with a seal's work written to its area. -/
def sealedWork (s : State) : State :=
  { s with sl := { s.sl with phase := .save, areas := fset s.sl.areas (ivl s % 2) (ivl s, saveWork s) } }
theorem phase_sealedWork (s : State) : (sealedWork s).sl.phase = .save := rfl
theorem mem_sealedWork (s : State) : (sealedWork s).mem = s.mem := rfl
theorem areas_sealedWork (s : State) : (sealedWork s).sl.areas = fset s.sl.areas (ivl s % 2) (ivl s, saveWork s) := rfl
theorem queues_saved (s : State) : (saveWork s).queues = (sealedWork s).queues := rfl
theorem waits_saved (s : State) : (saveWork s).waits = (sealedWork s).waits := rfl
theorem grove_saved (s : State) : (saveWork s).grove = (sealedWork s).grove := rfl
theorem launches_saved (s : State) :
    (saveWork s).launches = (sealedWork s).launches.map (fun e => (e.1, readyAges s.cycle e.2)) := rfl
theorem exec_save_prepare (hp : s.sl.phase = .prepare) (hq : quiet (restAll (facing s .save)) = true) :
    exec .save (facing s .save) = .next (sealedWork (restAll (facing s .save))) := by
  refine congrArg Host.Outcome.next ?_
  rw [saveGo, show (facing s .save).sl.phase = .prepare from hp]
  exact if_pos hq
theorem exec_save_save (hp : s.sl.phase = .save) (hl : isLeader s = true) : exec .save (facing s .save) =
    .next (post { facing s .save with sl := { s.sl with phase := .saved } } (.saved s.sl.ivnum.toNat s.fab.modnum)) := by
  refine congrArg Host.Outcome.next ?_
  rw [saveGo, show (facing s .save).sl.phase = .save from hp]
  exact if_pos hl
/-- The state in which a SAVED of the interval has been noted. -/
def noted (s : State) (m : Nat) : State :=
  { facing s (.saved s.sl.ivnum.toNat m) with sl := { s.sl with got := nins m s.sl.got } }
theorem exec_saved (s : State) (m : Nat) :
    exec .saved (facing s (.saved s.sl.ivnum.toNat m)) = .next (decide_ (noted s m)) := congrArg Host.Outcome.next (if_pos rfl)
theorem mem_nins (n : Nat) (l : List Nat) : n ∈ nins n l := by
  induction l with
  | nil => exact List.mem_singleton.2 rfl
  | cons k l ih =>
    unfold nins
    split
    · exact List.mem_cons_self
    · split
      · next h => exact h ▸ List.mem_cons_self
      · exact List.mem_cons_of_mem _ ih
theorem canDecide_alone (hc : s.fab.caps = []) (hl : isLeader s = true) (hp : s.sl.phase = .saved) (hd : s.sl.decided = none)
    (hs : s.sl.commits = []) : canDecide (noted s s.fab.modnum) = true := by
  have h1 : isLeader (noted s s.fab.modnum) = true := hl
  have h2 : sweepGate (noted s s.fab.modnum) = true := by
    rw [sweepGate, show (noted s s.fab.modnum).sl.commits = [] from hs]
  have h3 : (noted s s.fab.modnum).sl.decided.isNone = true := by rw [show (noted s s.fab.modnum).sl.decided = none from hd]; rfl
  have h4 : ((noted s s.fab.modnum).sl.phase == .saved) = true := by
    rw [show (noted s s.fab.modnum).sl.phase = .saved from hp]; rfl
  rw [canDecide, h1, h2, h3, h4, show (noted s s.fab.modnum).fab.caps = [] from hc,
    show (noted s s.fab.modnum).sl.got = nins s.fab.modnum s.sl.got from rfl, show (noted s s.fab.modnum).fab.modnum =
      s.fab.modnum from rfl]
  simpa using mem_nins s.fab.modnum s.sl.got
/-- The state of the leader that has decided. -/
def decided (s : State) : State :=
  { noted s s.fab.modnum with sl := { (noted s s.fab.modnum).sl with decided := some (ivl (noted s s.fab.modnum)) } }

/-- The state that a commit leaves, but for the answers to modules that join. -/
def committed (s : State) : State :=
  { s with
    vaults := [], stks := s.stks.map (fun e => (e.1, if e.2.deferd then startCmd e.2 else e.2))
    sl := { s.sl with
      phase := .open_, want := false, sealed := s.sl.ivnum, ivnum := s.sl.ivnum + 1, vhw := 0, lastAt := s.cycle, got := [],
        decided := none
      same := 0, restart := 0, commits := s.sl.passes :: s.sl.commits.take 1 } }
/-- `t` is `s` but for packets that were sent. -/
def PacketsOnly (s t : State) : Prop := ∃ f o, t = { s with fab := f, fabOut := o }
theorem packetsOnly_fold {α : Type} {f : State → α → State} {l : List α} {t : State} (hi : PacketsOnly s t)
    (h : ∀ s e, PacketsOnly s (f s e)) :
    PacketsOnly s (l.foldl f t) := by
  induction l generalizing t with
  | nil => exact hi
  | cons e l ih =>
    obtain ⟨f₁, o₁, h₁⟩ := hi
    obtain ⟨f₂, o₂, h₂⟩ := h t e
    exact ih ⟨f₂, o₂, by rw [h₂, h₁]⟩
/-- A commit answers the modules that join in packets alone. -/
theorem answerJoins_eq (s : State) : ∃ f o j, answerJoins s = { s with fab := f, fabOut := o, sl := { s.sl with joins := j } } :=
    by
  have hjoins : ∀ (t : State) (l : List (Nat × Word)), PacketsOnly s t → ∃ f o j, { t with sl := { t.sl with joins := l } }
      = { s with fab := f, fabOut := o, sl := { s.sl with joins := j } } := by
    rintro t l ⟨f, o, rfl⟩; exact ⟨f, o, l, rfl⟩
  unfold answerJoins
  exact hjoins _ _ (packetsOnly_fold ⟨_, _, rfl⟩ fun u m => packetsOnly_fold ⟨_, _, rfl⟩ fun u e => ⟨_, _, rfl⟩)
theorem exec_commit (hp : s.sl.phase = .saved) : ∃ f o j, exec .commit (facing s (.commit s.sl.ivnum.toNat)) =
    .next { committed (facing s (.commit s.sl.ivnum.toNat)) with
      fab := f, fabOut := o, sl := { (committed (facing s (.commit s.sl.ivnum.toNat))).sl with joins := j } } := by
  obtain ⟨f, o, j, h⟩ := answerJoins_eq (committed (facing s (.commit s.sl.ivnum.toNat)))
  exact ⟨f, o, j, congrArg Host.Outcome.next ((if_pos ⟨hp, rfl⟩).trans h)⟩

end

/-- Settles O45. -/
theorem sealProtocol : Obligations.SealProtocol := by
  unfold Obligations.SealProtocol
  refine fun s => ⟨fun hd hl => ⟨_, (exec_sealTimer hd).trans (congrArg _ (wantSeal_leader hl)), rfl, rfl, rfl⟩,
    fun m hp hl hc => ⟨_, exec_sealRequest m hp hl hc, rfl, rfl, rfl, rfl⟩,
    fun hp => ⟨_, congrArg Host.Outcome.next (if_pos ⟨hp, rfl⟩), rfl⟩,
    fun hp hq => ?_, fun hp hl => ⟨_, exec_save_save hp hl, rfl, rfl, rfl⟩,
    fun m hc => (exec_saved s m).trans (congrArg _ (if_neg (Bool.eq_false_iff.1 hc))),
    fun n m hn => congrArg Host.Outcome.next (if_neg hn), fun hc hl hp hd hs => ?_, fun hp => ?_⟩
  · have hr := rests_restAll (facing s .save)
    have hm := hr.mem
    have hsl := hr.sl
    have hcy := hr.cycle
    refine ⟨_, saveWork (restAll (facing s .save)), exec_save_prepare hp hq, phase_sealedWork _, (mem_sealedWork _).trans hm, ?_,
      ?_, queues_saved _, waits_saved _, grove_saved _⟩
    · have hi : ivl (restAll (facing s .save)) = s.sl.ivnum.toNat := by rw [ivl, hsl]; rfl
      rw [areas_sealedWork, hi, fget_fset_self]
    · rw [launches_saved, hcy]; rfl
  · exact ⟨_, (exec_saved s _).trans (congrArg _ ((if_pos (canDecide_alone hc hl hp hd hs)).trans
      (toDomain_alone (s := decided s) hc ..))), rfl, rfl⟩
  · obtain ⟨f, o, j, h⟩ := exec_commit hp
    exact ⟨_, h, rfl, rfl, rfl, rfl, rfl, rfl, rfl, rfl⟩

/-! ## What a rollback restores (R292, R293, R296) -/

section
variable {s t u : State} {m cause : Nat}

/-- `t` is `s` but for its cores, launches, moves, messages and packets. -/
def Aside (s t : State) : Prop := ∃ c l v p f o, t =
  { s with cores := c, launches := l, moves := v, pending := p, fab := f, fabOut := o }
theorem Aside.refl : Aside s s := ⟨_, _, _, _, _, _, rfl⟩
theorem Aside.trans (h : Aside s t) (h' : Aside t u) : Aside s u := by
  obtain ⟨c, l, v, p, f, o, rfl⟩ := h
  obtain ⟨c, l, v, p, f, o, rfl⟩ := h'
  exact ⟨c, l, v, p, f, o, rfl⟩
theorem aside_fold {α : Type} {f : State → α → State} {l : List α} (hi : Aside s t) (h : ∀ s e, Aside s (f s e)) :
    Aside s (l.foldl f t) := by
  induction l generalizing t with
  | nil => exact hi
  | cons e l ih => exact ih (hi.trans (h t e))
theorem aside_modLaunch (s : State) (l : Nat) (f : Launch → Launch) : Aside s (modLaunch s l f) := by
  unfold modLaunch
  split
  · exact ⟨_, _, _, _, _, _, rfl⟩
  · exact .refl
theorem aside_keepRunning (s : State) (l : Nat) : Aside s (keepRunning s l) := by
  unfold keepRunning
  exact Aside.trans ⟨_, _, _, _, _, _, rfl⟩ (aside_modLaunch ..)
theorem aside_abandonMoves (s : State) : Aside s (abandonMoves s) := by
  unfold abandonMoves
  refine aside_fold (Aside.trans (aside_fold .refl fun s e => aside_keepRunning ..) ⟨_, _, _, _, _, _, rfl⟩) fun s m => ?_
  exact ⟨_, _, _, _, _, _, rfl⟩
theorem aside_post (s : State) (e : Ev) : Aside s (post s e) := ⟨_, _, _, _, _, _, rfl⟩
theorem aside_if (c : Prop) [Decidable c] (h : Aside s t) (h' : Aside s u) : Aside s (if c then t else u) := by
  split
  · exact h
  · exact h'

/-- The records of the vaults put back. -/
def replayed (s : State) (m : Nat) : State := s.vaults.foldl (fun s e => replay s e.2) (discardAfter s m)
/-- The work that stands in the seal's area, or where it does not, the work as it is. -/
def areaWork (s : State) (m : Nat) : Work :=
  match fget s.sl.areas (m % 2) with
  | some (k, w) => if k = m then w else s.toWork
  | none => s.toWork
/-- The state after a rollback whose work has been resumed as `X`. -/
def rolledBack (X : State) (m cause : Nat) : State :=
  toHost { X with
    vaults := [], fab := { X.fab with hold := X.fab.hold || cause == 4, want := X.fab.want || cause == 4 }
    sl := { X.sl with
      phase := .open_, want := false, ivnum := BitVec.ofNat 32 (m + 1), vhw := 0, got := [], decided := none
      rbc := if X.sl.rbc = 0xFFFFFFFF then X.sl.rbc else X.sl.rbc + 1
      rbi := BitVec.ofNat 64 (m + 2 ^ 32 * cause), same := X.sl.same + 1, restart := 0 } } (.rollbackIrq m)
/-- The administration command that runs begins anew, as does a verification whose message is gone. -/
def begunAnew (s : State) : State :=
  let s := if s.adm.busy then post s (admEvent s) else s
  if s.fw.fwst = 1 ∧ !s.pending.contains .firmwareVerification then post s .firmwareVerification else s
/-- R365: the launches whose interface is in error stay reported. -/
def errorsKept (s : State) : State :=
  { s with launches := s.launches.map (fun e => (e.1, { e.2 with ifErr := e.2.ifErr || (ifSt s e.2.iface).st == .error })) }
/-- The work `w` resumed on `u`. -/
def resumed (u : State) (w : Work) : State :=
  dropTraffic (errorsKept (begunAnew (abandonMoves (loadWork { u with toWork := { w with
    pending := w.pending ++ u.pending.filter staysOut } }))))
theorem aside_resumed (u : State) (w : Work) : Aside { u with toWork := w } (resumed u w) := by
  have hload : Aside { u with toWork := w } (abandonMoves (loadWork { u with toWork := { w with
      pending := w.pending ++ u.pending.filter staysOut } })) := Aside.trans ⟨_, _, _, _, _, _, rfl⟩ (aside_abandonMoves _)
  have hanew : ∀ t, Aside t (begunAnew t) := fun t => by
    unfold begunAnew
    exact Aside.trans (aside_if _ (aside_post ..) .refl) (aside_if _ (aside_post ..) .refl)
  have hkept : ∀ t, Aside t (errorsKept t) := fun t => ⟨_, _, _, _, _, _, rfl⟩
  have hdrop : ∀ t, Aside t (dropTraffic t) := fun t => ⟨_, _, _, _, _, _, rfl⟩
  exact ((hload.trans (hanew _)).trans (hkept _)).trans (hdrop _)
theorem restoreSeal_eq (s : State) (m cause : Nat) :
    restoreSeal s m cause = rolledBack (resumed (replayed s m) (areaWork (replayed s m) m)) m cause := by
  unfold restoreSeal
  extract_lets u₁ u₂ w₁ w₂ x₁ x₂ x₃ x₄ rbc x₅
  have h₂ : u₂ = replayed s m := rfl
  have h₁ : w₁ = areaWork u₂ m := rfl
  have h₃ : x₃ = begunAnew x₁ := rfl
  have h₄ : x₄ = errorsKept x₃ := rfl
  have h₅ : x₅ = dropTraffic x₄ := rfl
  have h₆ : x₅ = resumed u₂ w₁ := by rw [h₅, h₄, h₃]; rfl
  rw [← h₂, ← h₁, ← h₆]
  rfl
theorem aside_rolledBack (h : Aside s t) :  ∃ c l v p f o, rolledBack t m cause =
    { rolledBack s m cause with cores := c, launches := l, moves := v, pending := p, fab := f, fabOut := o } := by
  obtain ⟨c, l, v, p, f, o, rfl⟩ := h
  exact ⟨c, l, v, p, _, o, rfl⟩
/-- A rollback that starts no commit first and whose records CODE reads, in one equation. -/
theorem exec_rollback (hp : s.sl.phase = .open_) (hc : codeFails s = false) : ∃ c l v p f o,
    exec .rollback (facing s (.rollback m cause)) = .next { rolledBack { replayed (facing s (.rollback m cause)) m with
      toWork := areaWork (replayed (facing s (.rollback m cause)) m) m } m cause with
      cores := c, launches := l, moves := v, pending := p, fab := f, fabOut := o } := by
  obtain ⟨c, l, v, p, f, o, h⟩ := aside_rolledBack (m := m) (cause := cause)
    (aside_resumed (replayed (facing s (.rollback m cause)) m) (areaWork (replayed (facing s (.rollback m cause)) m) m))
  refine ⟨c, l, v, p, f, o, congrArg Host.Outcome.next (Eq.trans ?_ h)⟩
  rw [← restoreSeal_eq, rollbackGo]
  have hp' : ¬ ((facing s (.rollback m cause)).sl.phase = .saved ∧ m = ivl (facing s (.rollback m cause))) := by
    rintro ⟨h, -⟩; cases hp.symm.trans h
  rw [if_neg hp']
  exact if_neg (Bool.eq_false_iff.1 hc)

/-! ## Vault records (R296, R297, R349) -/

theorem vaultByte_empty (h : s.vaults = []) (pa : Nat) : vaultByte s pa = none := by
  have hv : vaultOf s (stackOf pa) = [] := by rw [vaultOf, h]; rfl
  rw [vaultByte, vaultSpot, hv]
  rfl
theorem codeFails_empty (h : s.vaults = []) : codeFails s = false := by
  simp [codeFails, vaultByte_empty h]
theorem replayed_empty (h : s.vaults = []) : replayed s m = discardAfter s m := by rw [replayed, h]; rfl
theorem replay_mem (s : State) (r : VRec) : (replay s [r]).mem = msets s.mem r.gpa r.data := rfl
theorem replay_stamps (s : State) (r : VRec) : (replay s [r]).stamps = fset s.stamps (r.gpa / 256) r.stamp := rfl
theorem replay_poison (s : State) (r : VRec) {x : Nat} (h : x / 8 = r.gpa / 256) : x ∉ (replay s [r]).poison := by
  show x ∉ s.poison.filter _
  simp [h]
theorem replay_errs (s : State) (r : VRec) {x : Nat} (h : x / 8 = r.gpa / 256) : fget (replay s [r]).errs x = none := by
  refine TrapsAndReset.fget_eq_none fun e he hx => ?_
  have he' := (List.mem_filter.1 (show e ∈ s.errs.filter (fun e => e.1 / 8 != r.gpa / 256) from he)).2
  simp [hx, h] at he'

theorem escrow_discardAfter {d : Nat} {l : List EscEntry} (h : fget (discardAfter s m).escrow d = some l) :
    ∀ e ∈ l, (m + 2 ^ 32 - e.ivl) % 2 ^ 32 < 2 ^ 31 := by
  rw [discardAfter, fget_map_snd, Option.map_eq_some_iff] at h
  obtain ⟨l', -, rfl⟩ := h
  intro e he
  exact of_decide_eq_true (List.mem_filter.1 he).2

end

/-! ## Triggers and the stamp sweep (R285, R295, R297) -/

section
variable {s : State}

theorem failReporter_own (s : State) (cause : Nat) : failReporter s cause s.fab.modnum = failModule s cause := if_pos rfl
theorem triggerGo_alone {cause n : Nat} (hc : s.fab.caps = []) (hs : s.sl.sealed ≠ 0) (hd : s.sl.decided = none)
    (h2 : s.sl.same < 2)
    (ho : rollbackOut s = false) : triggerGo s cause n = post s (.rollback s.sl.sealed.toNat cause) := by
  have hf : rollbackFails s = false := by
    rw [rollbackFails, hd, beq_eq_false_iff_ne.2 hs]; simpa using h2
  rw [triggerGo, if_neg (Bool.eq_false_iff.1 ho), if_neg (Bool.eq_false_iff.1 hf), toDomain_alone hc, hd]
  rfl
theorem triggerGo_unsealed {cause : Nat} (hs : s.sl.sealed = 0) (hd : s.sl.decided = none) (ho : rollbackOut s = false) :
    triggerGo s cause s.fab.modnum = failModule s cause := by
  have hf : rollbackFails s = true := by simp [rollbackFails, hs, hd]
  rw [triggerGo, if_neg (Bool.eq_false_iff.1 ho), if_pos hf, failReporter_own]
theorem isLeader_alone (hc : s.fab.caps = []) : isLeader s = true := by rw [isLeader, hc]; rfl
theorem exec_trigger {cause n : Nat} (hl : isLeader s = true) : exec .rollbackTrigger (facing s (.rollbackTrigger cause n)) =
    .next (triggerGo (facing s (.rollbackTrigger cause n)) cause n) := congrArg Host.Outcome.next (if_pos hl)
theorem exec_sweep {g : Nat} (h : 2 ^ 18 * 144 ≤ g) (h' : g < 2 ^ 18 * 5722) : exec .stampSweep (facing s (.stampSweep g)) =
    .next { facing s (.stampSweep g) with
      stamps := fset s.stamps g (sweepStamp s.sl.ivnum.toNat ((fget s.stamps g).getD s.sl.stampDef)) } := by
  rw [show exec .stampSweep = execStampSweep from rfl]
  simp only [execStampSweep, facing_ev, if_neg (Nat.not_lt.2 h), if_pos (show g < granuleEnd from h')]
  rfl

end

/-! ## The watchdog (R319, R320) -/

section
variable {s : State}

theorem kick_wd (s : State) : (kick s).wd.lastK = s.cycle
    ∧ (s.cycle - s.wd.lastK ≤ wdPeriod s → s.wd.kicks = 15 → (kick s).wd.wdlvl = 0)
    ∧ (s.cycle - s.wd.lastK ≤ wdPeriod s → s.wd.kicks < 15 → (kick s).wd.wdlvl = s.wd.wdlvl ∧ (kick s).wd.kicks = s.wd.kicks +
      1) := by
  refine ⟨rfl, fun h hk => ?_, fun h hk => ?_⟩
  · simp [kick, h, hk]
  · have : s.wd.kicks + 1 ≠ 16 := by omega
    simp [kick, h, this]
/-- The state in which every command processor is interrupted. -/
theorem nmi_levelOne (s : State) : (levelAction s 1).wd = s.wd ∧ ∀ n, n < 8 → (cpSt (levelAction s 1) n).nmi = true := by
  have hfold : ∀ (l : List Nat) (t : State), (l.foldl (fun s n => modCp s n (fun c => { c with nmi := true })) t).wd = t.wd
      ∧ ∀ n, (n ∈ l ∨ (cpSt t n).nmi = true) → (cpSt (l.foldl (fun s n => modCp s n (fun c => { c with nmi := true })) t)
        n).nmi = true := by
    intro l
    induction l with
    | nil => intro t; exact ⟨rfl, fun n h => h.resolve_left (by simp)⟩
    | cons k l ih =>
      intro t
      obtain ⟨hw, hn⟩ := ih (modCp t k fun c => { c with nmi := true })
      refine ⟨hw, fun n h => hn n ?_⟩
      by_cases hk : n = k
      · right; rw [cpSt, modCp, hk, fget_fset_self]; rfl
      · rw [cpSt, modCp, fget_fset_ne _ _ hk]
        exact h.imp_left fun h => (List.mem_cons.1 h).resolve_left hk
  obtain ⟨hw, hn⟩ := hfold (List.range 8) s
  exact ⟨hw, fun n h => hn n (.inl (List.mem_range.2 h))⟩
theorem exec_kickTimeout (h : s.wd.lastK + wdPeriod s ≤ s.cycle) : exec .kickTimeout (facing s .kickTimeout) =
    .next (enterLevel { facing s .kickTimeout with wd := { s.wd with lastK := s.cycle, kicks := 0 } }
      (min (s.wd.wdlvl + 1) s.wd.wdcap) 1) :=
  congrArg Host.Outcome.next (if_pos (decide_eq_true h))
/-- A core after the fabric's reset: its handlers' entries stand. -/
def fabricClean (x : Core) : Core := { Core.reset with xlatv := x.xlatv, shotv := x.shotv, rclv := x.rclv, sysv := x.sysv }
theorem slots_fabricReset (s : State) (c : Nat) : (Machine.core (fabricReset s) c).slots = [] := by
  show ((fget (s.cores.map fun e => (e.1, fabricClean e.2)) c).getD Core.reset).slots = []
  rw [fget_map_snd]
  cases fget s.cores c <;> rfl
/-- A hang below level 4, at the leader: the compute fabric is reset and a rollback triggered. -/
theorem hang_spec {cause : Nat} (hl : isLeader s = true) (h : s.wd.wdlvl < 4) : (hang s cause).wd.wdlvl = 4 ∧
    (hang s cause).wd.wdcause = cause
    ∧ (hang s cause).pending.getLast? = some (.rollbackTrigger 5 s.fab.modnum) ∧ (hang s cause).clusters = []
    ∧ (∀ c, (Machine.core (hang s cause) c).slots = []) ∧ (hang s cause).mem = s.mem := by
  have hh : hang s cause = post (fabricReset { s with wd := countLevel s.wd 4 cause }) (.rollbackTrigger 5 s.fab.modnum) := by
    rw [hang, if_neg (Nat.not_le.2 h)]
    exact if_pos hl
  rw [hh]
  exact ⟨rfl, rfl, List.getLast?_concat .., rfl, fun c => slots_fabricReset .., rfl⟩

end

/-- Settles O46. -/
theorem rollbackAndWatchdog : Obligations.RollbackAndWatchdog := by
  unfold Obligations.RollbackAndWatchdog
  refine ⟨fun s => ⟨fun m cause w hp hw hv => ?_, fun m cause r hp hv hd hc hok => ?_, fun cause n hc hs hd h2 ho => ?_,
      fun cause hl hs hd ho => ?_, fun g hg hg' => ?_⟩,
    fun s => ⟨⟨_, rfl, (kick_wd (facing s .wdkick)).1, (kick_wd (facing s .wdkick)).2.1, (kick_wd (facing s .wdkick)).2.2, rfl,
      rfl⟩,
      fun hk h0 hc => ?_, fun e i cause hl h4 h => ?_⟩⟩
  · obtain ⟨c, l, v, p, f, o, h⟩ := exec_rollback (m := m) (cause := cause) hp (codeFails_empty hv)
    rw [replayed_empty (s := facing s (.rollback m cause)) hv] at h
    have ha : areaWork (discardAfter (facing s (.rollback m cause)) m) m = w := by
      rw [areaWork, show fget (discardAfter (facing s (.rollback m cause)) m).sl.areas (m % 2) = some (m, w) from hw]
      exact if_pos rfl
    rw [ha] at h
    exact ⟨_, h, rfl, rfl, rfl, rfl, rfl, rfl, rfl, rfl, rfl, rfl, rfl, fun d l hl => escrow_discardAfter hl⟩
  · obtain ⟨c, l, v, p, f, o, h⟩ := exec_rollback (m := m) (cause := cause) hp hc
    have hr : replayed (facing s (.rollback m cause)) m = replay (discardAfter (facing s (.rollback m cause)) m) [r] := by
      rw [replayed, show (facing s (.rollback m cause)).vaults = [(0, [r])] from hv]; rfl
    rw [hr] at h
    have hget : ∀ k, mget (msets s.mem r.gpa r.data) k = if r.gpa ≤ k ∧ k < r.gpa + r.data.length then r.data.getD (k - r.gpa) 0
      else mget s.mem k := fun k => mget_msets hok ..
    rw [hd] at hget
    refine ⟨_, h, rfl, fun k hk => ?_, fun a ha => ?_, fget_fset_self .., fun j hj =>
      ⟨replay_poison _ r (by omega), replay_errs _ r (by omega)⟩⟩
    · exact (hget _).trans (by rw [if_pos ⟨by omega, by omega⟩, Nat.add_sub_cancel_left])
    · exact (hget _).trans (if_neg (by omega))
  · rw [exec_trigger (isLeader_alone hc)]
    exact congrArg _ (triggerGo_alone (s := facing s (.rollbackTrigger cause n)) hc hs hd h2 ho)
  · exact ⟨_, (exec_trigger hl).trans
    (congrArg _ (triggerGo_unsealed (s := facing s (.rollbackTrigger cause s.fab.modnum)) hs hd ho)),
      rfl, rfl, rfl, rfl⟩
  · exact ⟨_, exec_sweep hg hg', fget_fset_self .., fun k hk => fget_fset_ne _ _ hk, rfl⟩
  · have hex := exec_kickTimeout hk
    rw [h0, Nat.min_eq_left (by omega)] at hex
    obtain ⟨hw, hn⟩ := nmi_levelOne { facing s .kickTimeout with wd := countLevel { s.wd with lastK := s.cycle, kicks := 0 } 1 1 }
    refine ⟨_, hex, ?_, ?_, ?_, ?_, hn⟩
    · exact congrArg WatchSt.wdlvl hw
    · exact congrArg WatchSt.wdcause hw
    · exact congrArg WatchSt.kicks hw
    · exact (congrArg (fun w => fget w.wdcnt 1) hw).trans (fget_fset_self ..)
  · rcases h with ⟨c, rfl, rfl, rfl, hg⟩ | ⟨rfl, rfl, rfl, hg⟩
    · exact ⟨_, congrArg Host.Outcome.next (if_pos hg), hang_spec (s := facing s (.coreHang c)) hl h4⟩
    · exact ⟨_, congrArg Host.Outcome.next (if_pos hg),
        hang_spec (s := { facing s .sealHang with wd := { s.wd with hungAt := some s.sl.since } }) hl h4⟩

end Sys2Proof.Proofs.Seals
end

section
/-!
PROOFS. WHAT STATEMENT O47 RESTS ON. Stack commands, margins, the scrubber (R344 to R350) and the physical allocation table
(R351, R352).
-/
namespace Sys2Proof.Proofs.MemoryStacks
open Sys2Proof Sys2Proof.Machine DeviceMemory

/-! ## Stacks and pseudo-channels read after a change -/

section
variable {s : State}

theorem stackSt_modStack (s : State) (k : Nat) (f : StackSt → StackSt) : stackSt (modStack s k f) k = f (stackSt s k) := by
  rw [stackSt, modStack, fget_fset_self]; rfl
theorem pchSt_modPch (s : State) (p : Nat) (f : PchSt → PchSt) : pchSt (modPch s p f) p = f (pchSt s p) := by
  rw [pchSt, modPch, fget_fset_self]; rfl
theorem laneSt_setLane (x : StackSt) (ch lane : Nat) (l : LaneSt) : laneSt (setLane x ch lane l) ch lane = l := by
  rw [laneSt, setLane, fget_fset_self]; rfl
theorem laneSt_setLane_ne (x : StackSt) (ch : Nat) {lane n : Nat} (l : LaneSt) (h : n ≠ lane) :
    laneSt (setLane x ch lane l) ch n = laneSt x ch n := by
  rw [laneSt, setLane, fget_fset_ne _ _ (by omega)]; rfl

/-! ## Commands (R346, R347) -/

/-- What a stack that is not busy holds once it has taken a command. -/
def commanded (x : StackSt) (wait : Bool) (op ch lane : Nat) : StackSt :=
  if wait then { x with busy := true, cmd := some (op, ch, lane), deferd := wait, result := 2 }
  else startCmd { x with busy := true, cmd := some (op, ch, lane), deferd := wait }
theorem startCmd_runs {x : StackSt} {op ch lane : Nat} (hc : x.cmd = some (op, ch, lane)) (h : op = 2 → (idleSpare x ch).isSome) :
    startCmd x = { x with deferd := false, result := 0 } := by
  rw [startCmd, hc]
  refine if_neg ?_
  rintro ⟨ho, hn⟩
  have hs := h ho
  rw [Option.isNone_iff_eq_none] at hn
  rw [hn] at hs
  cases hs
theorem stackCmd_idle {k op ch lane : Nat} (h : (stackSt s k).busy = false) :
    stackCmd s k op ch lane = modStack s k (fun x => commanded x (s.sl.phase != .open_) op ch lane) := by
  rw [stackCmd, if_neg (by simp [h])]; rfl
theorem commanded_spec (x : StackSt) (ph : SealPhase) {op ch lane : Nat} (h : op = 2 → (idleSpare x ch).isSome) :
    (commanded x (ph != .open_) op ch lane).busy = true ∧ (commanded x (ph != .open_) op ch lane).cmd = some (op, ch, lane)
    ∧ (ph = .open_ → (commanded x (ph != .open_) op ch lane).deferd = false)
    ∧ (ph = .prepare ∨ ph = .save → (commanded x (ph != .open_) op ch lane).deferd = true
      ∧ (commanded x (ph != .open_) op ch lane).result = 2) := by
  cases hw : (ph != .open_) with
  | false =>
    have hs := startCmd_runs (x := { x with busy := true, cmd := some (op, ch, lane), deferd := false }) rfl h
    rw [commanded, if_neg Bool.false_ne_true, hs]
    have ho : ph = .open_ := by simpa using hw
    exact ⟨rfl, rfl, fun _ => rfl, fun hp => by rw [ho] at hp; rcases hp with hp | hp <;> cases hp⟩
  | true =>
    refine ⟨rfl, rfl, fun ho => ?_, fun _ => ⟨rfl, rfl⟩⟩
    rw [ho] at hw; cases hw
theorem useSpare_spec {x : StackSt} {ch lane n : Nat} (hs : idleSpare x ch = some n) (hl : lane ≠ n) :
    (laneSt (useSpare x ch lane) ch lane).state = 2 ∧ (laneSt (useSpare x ch lane) ch n).state = 1 := by
  have hlanes : (useSpare x ch lane).lanes
      = (setLane (setLane x ch lane { laneSt x ch lane with state := 2 }) ch n { laneSt x ch n with state := 1 }).lanes := by
    rw [useSpare, hs]
    dsimp only
    split <;> rfl
  have hlane : ∀ i, laneSt (useSpare x ch lane) ch i
      = laneSt (setLane (setLane x ch lane { laneSt x ch lane with state := 2 }) ch n { laneSt x ch n with state := 1 }) ch i :=
        by
    intro i
    rw [laneSt, hlanes]; rfl
  rw [hlane, hlane, laneSt_setLane, laneSt_setLane_ne _ _ _ hl, laneSt_setLane]
  exact ⟨rfl, rfl⟩

/-! ## Margins (R345, R346) -/

/-- The stack after a reading of one of its lanes. -/
def readStack (x : StackSt) (ch lane hm vm : Nat) : StackSt :=
  let y := setLane x ch lane { laneSt x ch lane with hm := hm % 256, vm := vm % 256 }
  { y with hint := if hm % 256 < bits x.mgthr 7 0 ∨ vm % 256 < bits x.mgthr 15 8 then x.hint ||| 2 ^ ch else x.hint }
theorem stks_interruptCps (s : State) : (interruptCps s).stks = s.stks := by
  have hfold : ∀ (l : List Nat) (t : State), (l.foldl (fun s n => modCp s n (fun c => { c with irq := true })) t).stks =
    t.stks := by
    intro l
    induction l with
    | nil => exact fun _ => rfl
    | cons n l ih => exact fun t => ih _
  exact hfold ..
theorem stackSt_margin (s : State) (k ch lane hm vm : Nat) :
    stackSt (margin s k ch lane hm vm) k = readStack (stackSt s k) ch lane hm vm := by
  unfold margin
  dsimp only
  split
  · next h =>
    have hr : stackSt (modStack s k fun _ =>
        { setLane (stackSt s k) ch lane { laneSt (stackSt s k) ch lane with hm := hm % 256, vm := vm % 256 } with hint := (stackSt s k).hint ||| 2 ^ ch }) k = readStack (stackSt s k) ch lane hm vm := by
      rw [stackSt_modStack]
      exact congrArg (fun n => { setLane (stackSt s k) ch lane { laneSt (stackSt s k) ch lane with hm := hm % 256, vm := vm % 256 }
        with hint := n }) (if_pos h).symm
    split
    · rw [stackSt, stks_interruptCps]; exact hr
    · exact hr
  · next h => 
    rw [stackSt_modStack]
    exact congrArg (fun n => { setLane (stackSt s k) ch lane { laneSt (stackSt s k) ch lane with hm := hm % 256, vm := vm % 256 }
      with hint := n }) (if_neg h).symm
theorem laneSt_readStack (x : StackSt) (ch lane hm vm : Nat) : laneSt (readStack x ch lane hm vm) ch lane
    = { laneSt x ch lane with hm := hm % 256, vm := vm % 256 } := laneSt_setLane ..
theorem marginNext_spec {x : StackSt} {ch lane hm vm : Nat} (hn : 76 * ch + lane = x.mgNext) :
    (laneSt (marginNext (readStack x ch lane hm vm)) ch lane).hm = hm % 256
    ∧ (laneSt (marginNext (readStack x ch lane hm vm)) ch lane).vm = vm % 256
    ∧ (marginNext (readStack x ch lane hm vm)).hint =
      (if hm % 256 < bits x.mgthr 7 0 ∨ vm % 256 < bits x.mgthr 15 8 then x.hint ||| 2 ^ ch else x.hint)
    ∧ (76 * ch + lane < 2431 → (marginNext (readStack x ch lane hm vm)).mgNext = x.mgNext + 1
      ∧ (marginNext (readStack x ch lane hm vm)).mgAt = x.mgAt)
    ∧ (76 * ch + lane = 2431 → (marginNext (readStack x ch lane hm vm)).mgNext = 0
      ∧ (marginNext (readStack x ch lane hm vm)).mgAt = x.mgAt + 2 ^ 20) := by
  have hl : laneSt (marginNext (readStack x ch lane hm vm)) ch lane = laneSt (readStack x ch lane hm vm) ch lane := by
    unfold marginNext; split <;> rfl
  have hh : (marginNext (readStack x ch lane hm vm)).hint = (readStack x ch lane hm vm).hint := by
    unfold marginNext; split <;> rfl
  have hm : (readStack x ch lane hm vm).mgNext = x.mgNext := rfl
  refine ⟨by rw [hl, laneSt_readStack], by rw [hl, laneSt_readStack], hh, fun h => ?_, fun h => ?_⟩
  · rw [marginNext, if_neg (by rw [hm]; omega)]; exact ⟨rfl, rfl⟩
  · rw [marginNext, if_pos (by rw [hm]; omega)]; exact ⟨rfl, rfl⟩
theorem exec_margin {k ch lane : Nat} (hm vm : Nat) (hl : lane < 76) (hn : 76 * ch + lane = (stackSt s k).mgNext)
    (hd : (stackSt s k).mgAt + 2 ^ 20 ≤ s.cycle) : exec .marginUpdate (facing s (.marginUpdate k ch lane hm vm)) =
    .next (modStack (margin (facing s (.marginUpdate k ch lane hm vm)) k ch lane hm vm) k marginNext) :=
  congrArg Host.Outcome.next (if_pos ⟨hl, hn, decide_eq_true hd⟩)

/-! ## Scrubbing (R344, R348, R349) -/

/-- The state in which the scrubber has gone on to the next sector. -/
def scrubbed (s : State) (p : Nat) : State :=
  modPch s p (fun x => { x with scrub := (x.scrub + 1) % pchSectors, scrubAt := s.cycle })
/-- What a visit does with what it finds. -/
def visited (s : State) (p pa n : Nat) : State :=
  match n with
  | 0 => s
  | 1 => countEcc { s with errs := fdel s.errs (sectorOf pa) } (p / 64)
  | _ => uncorrectable s pa
theorem scrub_visits {p r : Nat} (hd : scrubDue s p = true) (hr : (pchSt s p).selfRef = false)
    (hb : chanBusy s (sectorAddr p (pchSt s p).scrub) = false) : scrub s p r =
    (if !paValid (sectorAddr p (pchSt s p).scrub) then scrubbed s p
      else visited (scrubbed s p) p (sectorAddr p (pchSt s p).scrub)
        (visitFinds (scrubbed s p) (sectorAddr p (pchSt s p).scrub) r)) := by
  rw [scrub, hd]
  dsimp only
  rw [hr, hb]
  rfl
theorem visited_keeps (s : State) (p pa n : Nat) : (visited s p pa n).mem = s.mem ∧ (visited s p pa n).pchs = s.pchs := by
  unfold visited
  split
  · exact ⟨rfl, rfl⟩
  · exact ⟨rfl, rfl⟩
  · unfold uncorrectable trigger
    split
    · split <;> exact ⟨rfl, rfl⟩
    · exact ⟨rfl, rfl⟩

theorem visitFinds_corrected {pa : Nat} (h : fget s.errs (sectorOf pa) ≠ some true) : visitFinds s pa 1 = 1 := by
  unfold visitFinds
  split
  · next he => exact absurd he h
  · rfl
  · rfl
theorem visitFinds_two (s : State) (pa : Nat) : visitFinds s pa 2 = 2 := by
  unfold visitFinds
  split <;> rfl
theorem cecnt_countEcc {k : Nat} (h : (stackSt s k).cecnt ≠ BitVec.allOnes 64) :
    (stackSt (countEcc s k) k).cecnt = (stackSt s k).cecnt + 1 := by
  rw [countEcc, stackSt_modStack]; exact if_neg h
theorem poison_uncorrectable {pa : Nat} (h : isLogged pa = false) : sectorOf pa ∈ (uncorrectable s pa).poison := by
  rw [uncorrectable, if_neg (by simp [h])]; exact Seals.mem_nins ..
theorem scrub_spec {p r : Nat} (hr : (pchSt s p).selfRef = false) (hd : scrubDue s p = true)
    (hb : chanBusy s (sectorAddr p (pchSt s p).scrub) = false) :
    (scrub s p r).mem = s.mem ∧ (pchSt (scrub s p r) p).scrub = ((pchSt s p).scrub + 1) % 23437500
    ∧ (r = 1 → fget s.errs (sectorOf (sectorAddr p (pchSt s p).scrub)) ≠ some true → paValid (sectorAddr p (pchSt s p).scrub) =
      true →
      (stackSt s (p / 64)).cecnt ≠ BitVec.allOnes 64 → (stackSt (scrub s p r) (p / 64)).cecnt = (stackSt s (p / 64)).cecnt + 1)
    ∧ (r = 2 → paValid (sectorAddr p (pchSt s p).scrub) = true → isLogged (sectorAddr p (pchSt s p).scrub) = false →
      sectorOf (sectorAddr p (pchSt s p).scrub) ∈ (scrub s p r).poison) := by
  rw [scrub_visits hd hr hb]
  refine ⟨?_, ?_, fun h1 he hv hc => ?_, fun h2 hv hlog => ?_⟩
  · split
    · rfl
    · exact (visited_keeps ..).1
  · have hp : (pchSt (scrubbed s p) p).scrub = ((pchSt s p).scrub + 1) % 23437500 := by
      rw [scrubbed, pchSt_modPch]; rfl
    split
    · exact hp
    · rw [pchSt, (visited_keeps ..).2]; exact hp
  · rw [if_neg (by simp [hv]), h1, visitFinds_corrected (s := scrubbed s p) he]
    exact cecnt_countEcc (s := { scrubbed s p with errs := fdel s.errs (sectorOf (sectorAddr p (pchSt s p).scrub)) }) hc
  · rw [if_neg (by simp [hv]), h2, visitFinds_two]
    exact poison_uncorrectable hlog

end

/-! ## The physical allocation table (R351, R352) -/

section
variable {s : State} {f d : Nat}

theorem exec_patdata (s : State) (f : Nat) (v : Word) : exec .patdataWrite (facing s (.patdataWrite f v)) =
    .next (patPut (facing s (.patdataWrite f v)) f (bits v 3 0)) := rfl
theorem patPut_of {u : State} {n : Nat} (h : patWrite s f d = (u, n)) : patPut s f d = { u with patst := n } := by rw [patPut, h]
theorem neighbourRefuses_iff : neighbourRefuses s f d = true ↔
    (patEnt s (f + 1)).owner < 8 ∧ (patEnt s (f + 1)).owner ≠ d ∧ (patEnt s (f + 1)).guard = false := by
  simp [neighbourRefuses, isIface, and_assoc]
theorem patWrite_assign (hf : 176 ≤ f) (hf' : f < 5722) (he : (patEnt s f).owner = 15) (hd : d < 8) : patWrite s f d =
    if neighbourRefuses s f d then (s, 1)
    else ({ s with pat := fset s.pat f ⟨d, isIface (patEnt s (f - 1)).owner && (patEnt s (f - 1)).owner != d⟩ }, 0) := by
  have hn : ¬ (f < 176 ∨ frameCount ≤ f) := by rw [frameCount]; omega
  rw [patWrite]
  dsimp only
  rw [if_neg hn, if_pos ⟨he, hd⟩]
theorem patWrite_release (hf : 176 ≤ f) (hf' : f < 5722) (he : (patEnt s f).owner < 8) :
    patWrite s f 15 = ({ s with pat := fset s.pat f ⟨15, false⟩ }, 0) := by
  have hn : ¬ (f < 176 ∨ frameCount ≤ f) := by rw [frameCount]; omega
  rw [patWrite]
  dsimp only
  rw [if_neg hn, if_neg (by omega), if_pos ⟨he, rfl⟩]
theorem patWrite_refused (h : f < 176 ∨ 5722 ≤ f ∨ ((patEnt s f).owner = 15 ∧ 8 ≤ d) ∨ ((patEnt s f).owner < 8 ∧ d ≠ 15)
    ∨ (8 ≤ (patEnt s f).owner ∧ (patEnt s f).owner ≠ 15)) : patWrite s f d = (s, 2) := by
  rw [patWrite]
  dsimp only
  by_cases hn : f < 176 ∨ frameCount ≤ f
  · rw [if_pos hn]
  · rw [frameCount] at hn
    rw [if_neg (by rw [frameCount]; exact hn), if_neg (by omega), if_neg (by omega)]
theorem patEnt_fset (s : State) (f : Nat) (e : PatEnt) (n : Nat) :
    patEnt { s with pat := fset s.pat f e, patst := n } f = e
      ∧ ∀ k, k ≠ f → patEnt { s with pat := fset s.pat f e, patst := n } k = patEnt s k := by
  refine ⟨?_, fun k hk => ?_⟩
  · rw [patEnt, fget_fset_self]; rfl
  · rw [patEnt, fget_fset_ne _ _ hk]; rfl

end

/-- Settles O47. -/
theorem memoryStackSteps : Obligations.MemoryStackSteps := by
  unfold Obligations.MemoryStackSteps
  refine ⟨fun s k ch lane => ⟨fun op e i hm hb ho => ?_, fun n hb hd hc hs hl => ?_, fun hm vm hl hch hn hd => ?_,
      fun p row => ⟨_, rfl, by rw [pchSt_modPch]; exact fget_fset_self .., rfl⟩, fun p r hr hd hb => ?_, fun p h0 hr hl => ?_⟩,
    fun s f v => ⟨fun hf hf' he hd => ⟨fun ha => ?_, fun ha => ?_⟩, fun hf hf' he hd => ?_, fun h => ?_⟩⟩
  · simp only [List.mem_cons, Prod.mk.injEq, List.not_mem_nil, or_false] at hm
    rcases hm with ⟨rfl, rfl, rfl⟩ | ⟨rfl, rfl, rfl⟩
    · have hex : exec .retrainChannel (facing s (.retrainChannel k ch)) =
          .next (stackCmd (facing s (.retrainChannel k ch)) k 1 ch 0) := rfl
      rw [stackCmd_idle (s := facing s (.retrainChannel k ch)) hb] at hex
      refine ⟨_, hex, rfl, ?_⟩
      rw [stackSt_modStack]
      exact commanded_spec (stackSt s k) s.sl.phase (by omega)
    · have hex : exec .repairLane (facing s (.repairLane k ch lane)) =
          .next (stackCmd (facing s (.repairLane k ch lane)) k 2 ch lane) :=
        congrArg Host.Outcome.next (if_pos (ho rfl).1)
      rw [stackCmd_idle (s := facing s (.repairLane k ch lane)) hb] at hex
      refine ⟨_, hex, rfl, ?_⟩
      rw [stackSt_modStack]
      exact commanded_spec (stackSt s k) s.sl.phase fun _ => (ho rfl).2
  · have hdone : cmdDone (stackSt s k) = { useSpare (stackSt s k) ch lane with busy := false, cmd := none, result := 0 } := by
      rw [cmdDone, if_pos ⟨hb, by simp [hd]⟩, hc]; rfl
    obtain ⟨h2, h1⟩ := useSpare_spec hs hl
    refine ⟨modStack (facing s (.hcmdComplete k)) k cmdDone, rfl, rfl, ?_⟩
    rw [stackSt_modStack, show stackSt (facing s (.hcmdComplete k)) k = stackSt s k from rfl, hdone]
    exact ⟨rfl, rfl, h2, h1⟩
  · refine ⟨_, exec_margin hm vm hl hn hd, ?_⟩
    rw [stackSt_modStack, stackSt_margin]
    exact marginNext_spec hn
  · exact ⟨_, rfl, scrub_spec (s := facing s (.scrubVisit p r)) hr hd hb⟩
  · have hc : canSelfRefresh (facing s (.selfRefreshEntry p)) p = true := by
      show (s.sridle != 0 && !(pchSt s p).selfRef && decide ((pchSt s p).lastReq + s.sridle.toNat < s.cycle)) = true
      rw [hr, decide_eq_true hl, bne_iff_ne.2 h0]; rfl
    exact ⟨_, congrArg Host.Outcome.next (if_pos hc), by rw [pchSt_modPch], rfl⟩
  · have hw := patWrite_assign (s := facing s (.patdataWrite f v)) hf hf' he hd
    rw [if_pos (neighbourRefuses_iff (s := facing s (.patdataWrite f v)).2 ha)] at hw
    rw [exec_patdata, patPut_of hw]
  · have hw := patWrite_assign (s := facing s (.patdataWrite f v)) hf hf' he hd
    rw [if_neg (fun h => ha (neighbourRefuses_iff (s := facing s (.patdataWrite f v)).1 h))] at hw
    obtain ⟨h1, h2⟩ := patEnt_fset (facing s (.patdataWrite f v)) f
      ⟨bits v 3 0, isIface (patEnt s (f - 1)).owner && (patEnt s (f - 1)).owner != bits v 3 0⟩ 0
    refine ⟨_, (exec_patdata ..).trans (congrArg _ (patPut_of hw)), rfl, h1.trans ?_, h2, rfl⟩
    congr 1
    rw [Bool.eq_iff_iff]; simp [isIface]
  · rw [exec_patdata, hd, patPut_of (patWrite_release (s := facing s (.patdataWrite f v)) hf hf' he)]
    obtain ⟨h1, h2⟩ := patEnt_fset (facing s (.patdataWrite f v)) f ⟨15, false⟩ 0
    exact ⟨_, rfl, rfl, h1, h2⟩
  · rw [exec_patdata, patPut_of (patWrite_refused (s := facing s (.patdataWrite f v)) h)]

end Sys2Proof.Proofs.MemoryStacks
end

section
/-!
PROOFS. WHAT STATEMENT O48 RESTS ON. Launches that stop and come back, and the administration commands with their results
(R312, R313, R357); the proofs of statement O48.
-/
namespace Sys2Proof.Proofs.Switching
open Sys2Proof Sys2Proof.Machine DeviceMemory Seals MemoryStacks

/-! ## What leaves the cores, the launches and the commands as they are -/

section
variable {s t u : State}

/-- Cores, clusters, launches, moves and the administration command are in `t` as in `s`. -/
structure Aloof (s t : State) : Prop where
  cores : t.cores = s.cores
  clusters : t.clusters = s.clusters
  launches : t.launches = s.launches
  moves : t.moves = s.moves
  adm : t.adm = s.adm
theorem Aloof.refl : Aloof s s := ⟨rfl, rfl, rfl, rfl, rfl⟩
theorem Aloof.trans (h : Aloof s t) (h' : Aloof t u) : Aloof s u :=
  ⟨h'.cores.trans h.cores, h'.clusters.trans h.clusters, h'.launches.trans h.launches, h'.moves.trans h.moves, h'.adm.trans h.adm⟩
theorem aloof_fold {α : Type} {f : State → α → State} {l : List α} (hi : Aloof s t) (h : ∀ s e, Aloof s (f s e)) :
    Aloof s (l.foldl f t) := by
  induction l generalizing t with
  | nil => exact hi
  | cons e l ih => exact ih (hi.trans (h t e))
theorem aloof_if {c : Prop} [Decidable c] (h : Aloof s t) (h' : Aloof s u) : Aloof s (if c then t else u) := by
  split
  · exact h
  · exact h'
theorem Aloof.core (h : Aloof s t) (c : Nat) : Machine.core t c = Machine.core s c := by rw [Machine.core, h.cores]; rfl
theorem aloof_post (s : State) (e : Ev) : Aloof s (post s e) := ⟨rfl, rfl, rfl, rfl, rfl⟩
theorem aloof_emit (s : State) (d : Nat) (k : TClass) (b : PktBody) : Aloof s (emit s d k b) := ⟨rfl, rfl, rfl, rfl, rfl⟩
theorem aloof_touch (s : State) (pa : Nat) : Aloof s (touch s pa) := ⟨rfl, rfl, rfl, rfl, rfl⟩
theorem aloof_trigger (s : State) (n : Nat) : Aloof s (trigger s n) := by
  unfold trigger; exact aloof_if (aloof_post ..) (aloof_emit ..)
theorem aloof_logGranule (s : State) (pa : Nat) : Aloof s (logGranule s pa) := by
  obtain ⟨v, st, l, p, q, h⟩ := logGranule_eq s pa
  rw [h]; exact ⟨rfl, rfl, rfl, rfl, rfl⟩
theorem aloof_physPut (s : State) (pa : Nat) (l : List Byte) : Aloof s (physPut s pa l) := by
  unfold physPut
  refine ((aloof_touch s pa).trans (aloof_logGranule _ pa)).trans ?_
  obtain ⟨v, q, g, h⟩ := putKepts_eq { logGranule (touch s pa) pa with mem := msets (logGranule (touch s pa) pa).mem pa l } pa l
  rw [h]; exact ⟨rfl, rfl, rfl, rfl, rfl⟩
theorem aloof_rewrite (s : State) (pa : Nat) (w : Word) : Aloof s (rewrite s pa w) := aloof_physPut ..
theorem aloof_eccSector (s : State) (k : Nat) : Aloof s (eccSector s k) := by
  unfold eccSector
  split
  · exact .refl
  · exact ⟨rfl, rfl, rfl, rfl, rfl⟩
  · unfold uncorrectable; exact aloof_if (aloof_trigger ..) ⟨rfl, rfl, rfl, rfl, rfl⟩
theorem aloof_eccRead (s : State) (pa n : Nat) : Aloof s (eccRead s pa n) := by
  unfold eccRead; exact aloof_if .refl (aloof_fold .refl fun s i => aloof_eccSector ..)
theorem aloof_cpReads (s : State) (a n : Nat) : Aloof s (cpReads s a n) := by
  unfold cpReads; exact aloof_fold .refl fun s k => (aloof_eccRead ..).trans (aloof_touch ..)
theorem cpLook_serves {a n : Nat} (h : cpStops s a n = false) (k : State → State) : cpLook s a n k = k (cpReads s a n) := by
  rw [cpStops, Bool.or_eq_false_iff] at h
  rw [cpLook, if_neg (Bool.eq_false_iff.1 h.1), if_neg (Bool.eq_false_iff.1 h.2)]
theorem aloof_tellMoved (s : State) (l : List (TRef × TRef)) : Aloof s (tellMoved s l) := by
  unfold tellMoved; exact aloof_if .refl (aloof_fold .refl fun s m => aloof_emit ..)
theorem aloof_tellRanks (s : State) (x : Launch) (l : List Nat) : Aloof s (tellRanks s x l) := by
  unfold tellRanks; exact aloof_if .refl (aloof_fold .refl fun s k => aloof_emit ..)
theorem aloof_rebind (s : State) (a c d : Nat) : Aloof s (rebind s a c d) := by
  unfold rebind; exact aloof_fold .refl fun s i => aloof_rewrite ..
theorem aloof_rebindAll (s : State) (x : Launch) (cls : List Nat) (f : Nat → Nat) : Aloof s (rebindAll s x cls f) := by
  unfold rebindAll
  exact aloof_fold (aloof_fold .refl fun s e => aloof_rewrite ..) fun s e => aloof_rewrite ..
theorem aloof_callBack (s : State) (p : TRef → Bool) : Aloof s (callBack s p) := by
  unfold callBack; exact aloof_fold .refl fun s a => aloof_fold .refl fun s m => aloof_emit ..
theorem Aloof.rests (h : Aloof s t)
    (hr : ∃ w r p f o e, t = { s with waits := w, resvs := r, pending := p, fab := f, fabOut := o, escIn := e }) :
    Rests s t := by
  obtain ⟨w, r, p, f, o, e, rfl⟩ := hr
  exact rests_cores ⟨_, w, r, p, f, o, e, rfl⟩

end

/-! ## A core that stops (R308, R312) -/

section
variable {s t : State}

theorem rests_callBack (s : State) (p : TRef → Bool) : Rests s (callBack s p) := by
  unfold callBack; exact rests_fold .refl fun s a => rests_fold .refl fun s m => rests_emit ..
theorem rests_stopCore (s : State) (c : Nat) : Rests s (stopCore s c) := by
  unfold stopCore
  split
  · exact .refl
  · have hstop : Rests s (modCore s c fun x => { mapSlots (parkLeft s.cycle) x with stopped := true, stepping := [] }) :=
      rests_modCore s c (by intro; rfl) (by intro _ _; rfl)
    exact (hstop.trans (rests_fold .refl fun s p => rests_post ..)).trans ((rests_toRest ..).trans (rests_callBack ..))
theorem stopped_stopCore (s : State) (c : Nat) : (Machine.core (stopCore s c) c).stopped = true := by
  unfold stopCore
  split
  · next h => exact h
  · refine ((rests_fold .refl fun s p => rests_post ..).trans ((rests_toRest ..).trans (rests_callBack ..))).stopped c ?_
    rw [core_modCore_self]
theorem rests_restLaunch (s : State) (l : Nat) : Rests s (restLaunch s l) := rests_toRest ..
theorem stopped_fold (l : List Nat) (s : State) : Rests s (l.foldl stopCore s)
    ∧ ∀ c ∈ l, (Machine.core (l.foldl stopCore s) c).stopped = true := by
  induction l generalizing s with
  | nil => exact ⟨.refl, by simp⟩
  | cons d l ih =>
    obtain ⟨hr, hs⟩ := ih (stopCore s d)
    refine ⟨(rests_stopCore s d).trans hr, fun c hc => ?_⟩
    rcases List.mem_cons.1 hc with rfl | hc
    · exact hr.stopped _ (stopped_stopCore s c)
    · exact hs c hc
theorem fget_mem {α : Type} {m : FMap α} {n : Nat} {x : α} (h : fget m n = some x) : (n, x) ∈ m := by
  induction m with
  | nil => cases h
  | cons e m ih =>
    rw [fget] at h
    split at h
    · next he => cases h; rw [← he]; exact List.mem_cons_self
    · exact List.mem_cons_of_mem _ (ih h)
/-- A core that a launch binds is in the list of cores. -/
theorem mem_cores_of_launch {c l : Nat} (h : (Machine.core s c).launch = some l) :
    c ∈ (s.cores.filter (fun e => e.2.launch == some l)).map (·.1) := by
  rw [Machine.core] at h
  cases hc : fget s.cores c with
  | none => rw [hc] at h; cases h
  | some x =>
    rw [hc] at h
    refine List.mem_map.2 ⟨(c, x), List.mem_filter.2 ⟨fget_mem hc, by simpa using h⟩, rfl⟩
theorem modLaunch_eq {l : Nat} {x : Launch} (hx : fget s.launches l = some x) (f : Launch → Launch) :
    modLaunch s l f = { s with launches := fset s.launches l (f x) } := by rw [modLaunch, hx]
/-- A core whose launch stops: the guests on a teller core stop. -/
def guestsStop (now l c : Nat) (x : Core) : Core :=
  if isTeller c then mapSlots (fun t => if t.launch = some l then parkLeft now t else t) x else x
/-- The state in which the launch is stopping and its guests have stopped. -/
def stopBegun (s : State) (l : Nat) : State :=
  modLaunch { s with cores := s.cores.map (fun e => (e.1, guestsStop s.cycle l e.1 e.2)) } l
    (fun x => { x with stage := .stopping })
theorem stopLaunch_eq (s : State) (l : Nat) : stopLaunch s l =
    callBack (restLaunch ((((stopBegun s l).cores.filter (fun e => e.2.launch == some l)).map (·.1)).foldl stopCore
      (stopBegun s l)) l)
      (fun a => isTeller a.core && (thr (restLaunch ((((stopBegun s l).cores.filter (fun e => e.2.launch == some l)).map
        (·.1)).foldl stopCore (stopBegun s l)) l) a).launch == some l) := by
  have hf : (fun (e : Nat × Core) => if isTeller e.1 then
    (e.1, mapSlots (fun t => if t.launch = some l then parkLeft s.cycle t else t) e.2)
      else e) = fun e => (e.1, guestsStop s.cycle l e.1 e.2) := by
    funext e
    unfold guestsStop
    split <;> rfl
  rw [stopLaunch, hf]
  rfl
theorem stopLaunch_spec {l : Nat} {x : Launch} (hx : fget s.launches l = some x) :
    fget (stopLaunch s l).launches l = some { x with stage := .stopping } ∧ (stopLaunch s l).adm = s.adm
    ∧ ∀ c, (Machine.core s c).launch = some l → (Machine.core (stopLaunch s l) c).stopped = true := by
  have hbegun : stopBegun s l = { s with
      cores := s.cores.map (fun e => (e.1, guestsStop s.cycle l e.1 e.2)), launches := fset s.launches l
        { x with stage := .stopping } } :=
    modLaunch_eq (s := { s with cores := s.cores.map (fun e => (e.1, guestsStop s.cycle l e.1 e.2)) }) hx _
  have hg : ∀ c y, (guestsStop s.cycle l c y).launch = y.launch ∧ (guestsStop s.cycle l c y).stopped = y.stopped := fun c y => by
    unfold guestsStop; split <;> exact ⟨rfl, rfl⟩
  have hmap := rests_mapCores s (fun c y => (hg c y).1) (fun c y => (hg c y).2)
  obtain ⟨hr, hs⟩ := stopped_fold (((stopBegun s l).cores.filter (fun e => e.2.launch == some l)).map (·.1)) (stopBegun s l)
  have hend : Rests _ (stopLaunch s l) := stopLaunch_eq s l ▸ (rests_restLaunch _ l).trans (rests_callBack ..)
  refine ⟨?_, ?_, fun c hc => hend.stopped c (hs c (mem_cores_of_launch ?_))⟩
  · rw [hend.launches, hr.launches, hbegun, fget_fset_self]
  · rw [hend.adm, hr.adm, hbegun]
  · rw [hbegun]; exact (hmap.launch c).trans hc

end

/-! ## A launch that comes back (R313) -/

section
variable {s t u : State}

/-- The launches that there are, and the administration command, are in `t` as in `s`. -/
structure KeepsNames (s t : State) : Prop where
  adm : t.adm = s.adm
  names : ∀ l, (fget t.launches l).isSome = (fget s.launches l).isSome
theorem KeepsNames.refl : KeepsNames s s := ⟨rfl, fun _ => rfl⟩
theorem KeepsNames.trans (h : KeepsNames s t) (h' : KeepsNames t u) : KeepsNames s u :=
  ⟨h'.adm.trans h.adm, fun l => (h'.names l).trans (h.names l)⟩
theorem Aloof.names (h : Aloof s t) : KeepsNames s t := ⟨h.adm, fun l => by rw [h.launches]⟩
theorem Rests.names (h : Rests s t) : KeepsNames s t := ⟨h.adm, fun l => by rw [h.launches]⟩
theorem keepsNames_fold {α : Type} {f : State → α → State} {l : List α} (hi : KeepsNames s t) (h : ∀ s e, KeepsNames s (f s e)) :
    KeepsNames s (l.foldl f t) := by
  induction l generalizing t with
  | nil => exact hi
  | cons e l ih => exact ih (hi.trans (h t e))
theorem keepsNames_renState (f : TRef → TRef) (s : State) : KeepsNames s (renState f s) := by
  refine ⟨rfl, fun l => ?_⟩
  show (fget (s.launches.map fun e => (e.1, renSaved f e.2)) l).isSome = _
  rw [LocalMemory.fget_map_snd, Option.isSome_map]
theorem keepsNames_restoreCluster (s : State) (x : Launch) (cls : List Nat) (f : Nat → Nat) (e : Nat × Cluster) :
    KeepsNames s (restoreCluster s x cls f e) := by
  unfold restoreCluster
  dsimp only
  split
  · exact ⟨rfl, fun _ => rfl⟩
  · have hbanks : KeepsNames s _ := keepsNames_fold (s := s) (l := x.savCores.filter (fun k => clusterOf k.1 == e.1)) .refl
      (fun s k => (⟨rfl, fun _ => rfl⟩ : KeepsNames s (modCluster s (clusterOf (f k.1)) (fun y => { y with
        banks := putKey (if unitOf k.1 = 8 then 8 else k.2.bank)
          (e.2.banks.map (fun b => (b.1, renRecs (fun u => unitOf (f (coreAt e.1 u))) b.2))) y.banks
        cpRecs := putKey (if unitOf k.1 = 8 then 8 else k.2.bank) e.2.cpRecs y.cpRecs
        cpSeq := putKey (if unitOf k.1 = 8 then 8 else k.2.bank) e.2.cpSeq y.cpSeq }))))
    split
    · exact hbanks.trans ⟨rfl, fun _ => rfl⟩
    · exact hbanks
theorem keepsNames_restoreCore (s : State) (x : Launch) (cls : List Nat) (f : Nat → Nat) (e : Nat × Core) :
    KeepsNames s (restoreCore s x cls f e) := ⟨rfl, fun _ => rfl⟩
theorem keepsNames_seatGuests (s : State) (l : List (TRef × Thread)) : KeepsNames s (seatGuests s l).2 := by
  induction l generalizing s with
  | nil => exact .refl
  | cons e l ih =>
    unfold seatGuests
    split
    · next r _ =>
      exact KeepsNames.trans (t := fill s r { parkUntil s.cycle e.2 with readyAt := s.cycle + 1 }) ⟨rfl, fun _ => rfl⟩ (ih _)
    · exact ih s
theorem keepsNames_setBindg (s : State) (a : Nat) (cs : List Nat) : KeepsNames s (setBindg s a cs) := by
  unfold setBindg; exact keepsNames_fold .refl fun s c => ⟨rfl, fun _ => rfl⟩
/-- The new names of a launch's threads as it comes back. -/
def newNames (s : State) (x : Launch) (cls : List Nat) : List (TRef × TRef) :=
  (seatGuests s x.savGuest).1 ++ x.savCores.map (fun e => (⟨e.1, 32⟩, ⟨placeCore x cls e.1, 32⟩))
/-- The launch as it runs again. -/
def backRunning (x : Launch) (cls : List Nat) (names : List (TRef × TRef)) : Launch :=
  { x with stage := .running, clusters := cls, savCores := [], savCls := [], savGuest := [], save := [], names := names }
theorem readmit_spec (s : State) (l : Nat) (x : Launch) (cls : List Nat) :
    ∃ t n, KeepsNames s t ∧ readmit s l x cls = modLaunch t l (fun x => backRunning x cls n) := by
  have hcl : KeepsNames s (x.savCls.foldl (fun s e => restoreCluster s x cls (placeCore x cls) e)
      { s with waiting := s.waiting.filter (fun w => w.out != some l) }) :=
    keepsNames_fold ⟨rfl, fun _ => rfl⟩ fun s e => keepsNames_restoreCluster ..
  have hco : KeepsNames s _ := hcl.trans
    (keepsNames_fold (l := x.savCores) (f := fun s e => restoreCore s x cls (placeCore x cls) e)
    .refl fun s e => keepsNames_restoreCore ..)
  have hse : KeepsNames s _ := hco.trans (keepsNames_seatGuests _ x.savGuest)
  unfold readmit
  dsimp only
  refine ⟨_, _, ?_, rfl⟩
  exact (((((hse.trans (keepsNames_renState ..)).trans (aloof_tellMoved ..).names).trans (aloof_rebindAll ..).names).trans
    (aloof_tellRanks ..).names).trans (keepsNames_setBindg ..)).trans ⟨rfl, fun _ => rfl⟩
theorem readmit_runs {l : Nat} {x y : Launch} {cls : List Nat} (hy : fget s.launches l = some y) :
    ∃ y, fget (readmit s l x cls).launches l = some y ∧ y.stage = .running ∧ y.clusters = cls ∧ y.savCores = []
      ∧ (readmit s l x cls).adm = s.adm := by
  obtain ⟨t, n, hk, hr⟩ := readmit_spec s l x cls
  have hsome : (fget t.launches l).isSome = true := by rw [hk.names, hy]; rfl
  obtain ⟨z, hz⟩ := Option.isSome_iff_exists.1 hsome
  rw [hr, modLaunch_eq hz]
  exact ⟨_, fget_fset_self .., rfl, rfl, rfl, hk.adm⟩
theorem readmitTo_launch {l : Nat} {x : Launch} {cls : List Nat} (h : readmitTo s l = some (x, cls)) : fget s.launches l = some
    x := by
  unfold readmitTo at h
  split at h
  · next w y _ hy =>
    split at h
    · obtain ⟨z, -, hz⟩ := Option.map_eq_some_iff.1 h
      rw [hy]; cases hz; rfl
    · cases h
  · cases h
/-- The launch comes back where no page of the victim tier and no read stands in its way. -/
theorem readmitGo_eq {l : Nat} {x : Launch} {cls : List Nat} (h : readmitTo s l = some (x, cls))
    (hv : vacant s (cls.flatMap clusterCores) = true) (hw : returnWaits s l cls = false) (hc : cpStops s x.table 40960 = false) :
    readmitGo s l = readmit (cpReads s x.table 40960) l x cls := by
  have hvic : (cls.flatMap clusterCores).any (fun c => (Machine.core s c).victim) = false := by
    rw [vacant, List.all_eq_true] at hv
    rw [List.any_eq_false]
    intro c hc h
    have := hv c hc
    rw [h] at this
    cases this
  have hrec : (cls.flatMap clusterCores).any (recallBusy s) = false := by
    rw [vacant, List.all_eq_true] at hv
    rw [List.any_eq_false]
    intro c hc h
    have := hv c hc
    rw [h, Bool.not_true, Bool.and_false] at this
    cases this
  rw [readmitGo, h]
  dsimp only
  rw [hvic, hrec, hw]
  exact (if_neg Bool.false_ne_true).trans ((if_neg Bool.false_ne_true).trans (cpLook_serves hc _))
theorem readmitGo_runs {l : Nat} {x : Launch} {cls : List Nat} (h : readmitTo s l = some (x, cls))
    (hv : vacant s (cls.flatMap clusterCores) = true) (hw : returnWaits s l cls = false) (hc : cpStops s x.table 40960 = false) :
    ∃ y, fget (readmitGo s l).launches l = some y ∧ y.stage = .running ∧ y.clusters = cls ∧ y.savCores = []
      ∧ (readmitGo s l).adm = s.adm := by
  rw [readmitGo_eq h hv hw hc]
  have ha := aloof_cpReads s x.table 40960
  obtain ⟨y, h1, h2, h3, h4, h5⟩ := readmit_runs (s := cpReads s x.table 40960) (x := x) (cls := cls)
    (by rw [ha.launches]; exact readmitTo_launch h)
  exact ⟨y, h1, h2, h3, h4, h5.trans ha.adm⟩

end

/-! ## The end of a command (R357) -/

section
variable {s : State}

theorem admWord_get (s : State) {n : Nat} (h : n < 8) : admWord s n = s.adm.run[n] := by
  rw [admWord, List.getD_eq_getElem _ _ (by simpa using h)]; exact Vector.getElem_toList ..
theorem admRuns_iff {op : Nat} : admRuns s op = true ↔ s.adm.busy = true ∧ bits s.adm.run[0] 7 0 = op := by
  rw [admRuns, admWord_get s (by omega), Bool.and_eq_true, beq_iff_eq]
theorem admEnd_busy (h : s.adm.busy = true) (n : Nat) (w : Word) :
    admEnd s n w = { s with adm := { s.adm with busy := false, st := 2 * n, rsp := s.adm.rsp.set 0 w } } := if_pos h
/-- What a command that has ended leaves. -/
theorem admEnd_spec (h : s.adm.busy = true) (n : Nat) (w : Word) : (admEnd s n w).adm.busy = false ∧ (admEnd s n w).adm.st = 2 * n
    ∧ (admEnd s n w).cores = s.cores := by
  rw [admEnd_busy h]; exact ⟨rfl, rfl, rfl⟩
theorem admEnd_aloof {u : State} (ha : Aloof s u) (h : s.adm.busy = true) (n : Nat) (w : Word) : (admEnd u n w).adm.busy = false
    ∧ (admEnd u n w).adm.st = 2 * n ∧ (admEnd u n w).cores = s.cores := by
  obtain ⟨h1, h2, h3⟩ := admEnd_spec (s := u) (ha.adm ▸ h) n w
  exact ⟨h1, h2, h3.trans ha.cores⟩
/-- A command of opcode `op` runs. -/
structure Runs (s : State) (op : Nat) : Prop where
  busy : s.adm.busy = true
  op : bits s.adm.run[0] 7 0 = op
theorem Runs.runs {op : Nat} (h : Runs s op) : admRuns s op = true := admRuns_iff.2 ⟨h.busy, h.op⟩

end

/-! ## Queues (R56, R155, R357) -/

section
variable {s : State} {q : LQueue}

/-- The queue that command 1 makes. -/
def newQueue (s : State) : LQueue :=
  { base := s.adm.run[2].toNat, log2n := bits s.adm.run[3] 7 0, tdi := bits s.adm.run[3] 15 8, err := false, head := 0, tail := 0
    cbase := s.adm.run[4].toNat, windows := [], open_ := [] }
theorem createQueue_done (h3 : bits s.adm.run[3] 7 0 ≤ 16) (h1 : s.adm.run[1].toNat ≤ 63) (h2 : s.adm.run[2].toNat % 64 = 0)
    (h4 : 4 ≤ bits s.adm.run[3] 7 0) (h5 : bits s.adm.run[3] 15 8 ≤ 7) (h6 : bits s.adm.run[3] 63 16 = 0)
    (h7 : s.adm.run[4].toNat % 16 = 0) (hq : fget s.queues s.adm.run[1].toNat = none)
    (hi : (ifSt s (bits s.adm.run[3] 15 8)).st = .unlocked) (hd : descStalls s s.adm.run[1].toNat = false) :
    createQueue s = admDone (setQueue s s.adm.run[1].toNat (newQueue s)) 0 := by
  rw [createQueue]
  dsimp only
  rw [admWord_get s (show 1 < 8 by omega), admWord_get s (show 2 < 8 by omega), admWord_get s (show 3 < 8 by omega),
    admWord_get s (show 4 < 8 by omega), if_neg (by omega), hq, if_neg (by simp), if_neg (not_not.2 hi), hd]
  rfl
theorem createQueue_bad (h : 63 < s.adm.run[1].toNat ∨ s.adm.run[2].toNat % 64 ≠ 0) : createQueue s = admDone s 2 := by
  rw [createQueue]
  dsimp only
  rw [admWord_get s (show 1 < 8 by omega), admWord_get s (show 2 < 8 by omega), admWord_get s (show 3 < 8 by omega),
    admWord_get s (show 4 < 8 by omega)]
  exact if_pos (by omega)
theorem setQueue_spec (s : State) (n : Nat) (q : LQueue) :
    (setQueue s n q).queues = fset s.queues n q ∧ Aloof s (setQueue s n q) := by
  have ha : Aloof s _ := (aloof_touch s (descPa n)).trans (aloof_logGranule _ (descPa n))
  obtain ⟨v, st, l, p, o, h⟩ := logGranule_eq (touch s (descPa n)) (descPa n)
  refine ⟨?_, ha.trans ⟨rfl, rfl, rfl, rfl, rfl⟩⟩
  show fset (logGranule (touch s (descPa n)) (descPa n)).queues n q = _
  rw [h]; rfl

theorem removeQueue_frozen (h1 : s.adm.run[1].toNat ≤ 63) (hq : fget s.queues s.adm.run[1].toNat = some q)
    (hf : frozenIf s q.tdi = true) : removeQueue s = admDone s 3 := by
  rw [removeQueue]
  dsimp only
  rw [admWord_get s (show 1 < 8 by omega), if_neg (by omega), hq]
  exact if_pos hf
/-- The state in which a queue is gone. -/
def unqueued (s : State) (n : Nat) : State :=
  { logGranule (touch s (descPa n)) (descPa n) with queues := fdel (logGranule (touch s (descPa n)) (descPa n)).queues n }
theorem removeQueue_done (h1 : s.adm.run[1].toNat ≤ 63) (hq : fget s.queues s.adm.run[1].toNat = some q)
    (hf : frozenIf s q.tdi = false) (hd : descStalls s s.adm.run[1].toNat = false) (he : q.head = q.tail) (ho : q.open_ = [])
    (hw : ∀ w ∈ s.waiting, w.rcd.queue ≠ s.adm.run[1].toNat) (hl : ∀ l ∈ s.launches, l.2.rcd.queue ≠ s.adm.run[1].toNat) :
    removeQueue s = admDone (unqueued s s.adm.run[1].toNat) 0 := by
  have hn : ¬ (q.head ≠ q.tail ∨ s.waiting.any (fun w => w.rcd.queue == s.adm.run[1].toNat) = true
      ∨ s.launches.any (fun e => e.2.rcd.queue == s.adm.run[1].toNat) = true ∨ q.open_ ≠ []) := by
    rw [List.any_eq_true, List.any_eq_true]
    rintro (h | ⟨w, h, h'⟩ | ⟨e, h, h'⟩ | h)
    · exact h he
    · exact hw w h (beq_iff_eq.1 h')
    · exact hl e h (beq_iff_eq.1 h')
    · exact h ho
  rw [removeQueue]
  dsimp only
  rw [admWord_get s (show 1 < 8 by omega), if_neg (by omega), hq]
  dsimp only
  rw [hf, if_neg Bool.false_ne_true, if_neg hn, hd]
  rfl
theorem fget_fdel_self {α : Type} (m : FMap α) (n : Nat) : fget (fdel m n) n = none :=
  TrapsAndReset.fget_eq_none fun e he => by simpa using (List.mem_filter.1 he).2
/-- The state in which a queue has a window. -/
def windowed (s : State) (q : LQueue) : State :=
  { s with queues := fset s.queues s.adm.run[1].toNat { q with
      windows := fset q.windows s.adm.run[2].toNat (s.adm.run[3].toNat, s.adm.run[4].toNat) } }
theorem setWindow_done (h1 : s.adm.run[1].toNat ≤ 63) (h2 : s.adm.run[2].toNat ≤ 3) (h3 : s.adm.run[3].toNat % 4096 = 0)
    (h4 : s.adm.run[4].toNat % 4096 = 0) (h0 : s.adm.run[4].toNat ≠ 0) (hq : fget s.queues s.adm.run[1].toNat = some q)
    (hf : frozenIf s q.tdi = false) : setWindow s = admDone (windowed s q) 0 := by
  rw [setWindow]
  dsimp only
  rw [admWord_get s (show 1 < 8 by omega), admWord_get s (show 2 < 8 by omega), admWord_get s (show 3 < 8 by omega),
    admWord_get s (show 4 < 8 by omega), if_neg (by omega), hq]
  dsimp only
  rw [hf, if_neg Bool.false_ne_true, if_neg h0]; rfl

end

/-! ## Frames (R351, R352, R357) -/

section
variable {s : State}

theorem assignFrames_one (h1 : s.adm.run[1].toNat ≤ 7) (h2 : s.adm.run[2].toNat + 1 ≤ 5722) (h3 : s.adm.run[3] = 1)
    (hf : frozenIf s s.adm.run[1].toNat = false) : assignFrames s =
      if (patPut s s.adm.run[2].toNat s.adm.run[1].toNat).patst = 0 then admDone (patPut s s.adm.run[2].toNat s.adm.run[1].toNat)
        0
      else admEnd (patPut s s.adm.run[2].toNat s.adm.run[1].toNat) 1 s.adm.run[2] := by
  have hr : assignRange s.adm.run[1].toNat 1 s.adm.run[2].toNat s = if (patPut s s.adm.run[2].toNat s.adm.run[1].toNat).patst = 0
      then (patPut s s.adm.run[2].toNat s.adm.run[1].toNat, none)
      else (patPut s s.adm.run[2].toNat s.adm.run[1].toNat, some s.adm.run[2].toNat) := rfl
  rw [assignFrames]
  rw [admWord_get s (show 1 < 8 by omega), admWord_get s (show 2 < 8 by omega), admWord_get s (show 3 < 8 by omega), h3,
    show (1 : Word).toNat = 1 from rfl, if_neg (by rw [frameCount]; omega), hf, if_neg Bool.false_ne_true, hr]
  by_cases hp : (patPut s s.adm.run[2].toNat s.adm.run[1].toNat).patst = 0
  · rw [if_pos hp, if_pos hp]
  · rw [if_neg hp, if_neg hp]
    dsimp only
    rw [BitVec.ofNat_toNat, BitVec.setWidth_eq]
theorem aloof_patPut (s : State) (f d : Nat) : Aloof s (patPut s f d) := by
  unfold patPut patWrite
  dsimp only
  split
  · exact ⟨rfl, rfl, rfl, rfl, rfl⟩
  · split
    · split <;> exact ⟨rfl, rfl, rfl, rfl, rfl⟩
    · split <;> exact ⟨rfl, rfl, rfl, rfl, rfl⟩
theorem releaseFrames_one (h1 : s.adm.run[1].toNat + 1 ≤ 5722) (h2 : s.adm.run[2].toNat = 1)
    (ho : (patEnt s s.adm.run[1].toNat).owner < 8) (hf : frozenIf s (patEnt s s.adm.run[1].toNat).owner = false)
    (hl : ∀ l ∈ s.launches, s.adm.run[1].toNat ∉ l.2.frames) : releaseFrames s = admDone (patPut s s.adm.run[1].toNat 15) 0 := by
  have hk : keepsFrame s s.adm.run[1].toNat = false := by
    rw [keepsFrame, isIface, decide_eq_true ho, Bool.not_true, Bool.or_false, List.any_eq_false]
    exact fun e he h => hl e he (by simpa using h)
  rw [releaseFrames]
  rw [admWord_get s (show 1 < 8 by omega), admWord_get s (show 2 < 8 by omega), h2, if_neg (by rw [frameCount]; omega),
    show (List.range 1).map (s.adm.run[1].toNat + ·) = [s.adm.run[1].toNat] from rfl, List.find?_singleton, hk,
    if_neg Bool.false_ne_true]
  dsimp only
  rw [List.any_cons, hf]
  rfl

end

/-! ## Launches (R312, R313, R357) -/

section
variable {s : State} {x : Launch}

theorem switchWord_bad (h : 128 ≤ s.adm.run[1].toNat) (k : Nat) (go : State → Nat → Launch → State) :
    switchWord s k go = admDone s 2 := by
  rw [switchWord]
  rw [admWord_get s (show 1 < 8 by omega)]
  exact if_pos (.inl h)
theorem switchWord_go {k : Nat} (h1 : s.adm.run[1].toNat < 128) (h2 : s.adm.run[2].toNat = k) (hk : k ≤ 1)
    (hx : fget s.launches s.adm.run[1].toNat = some x) (go : State → Nat → Launch → State) :
    switchWord s k go = go s s.adm.run[1].toNat x := by
  rw [switchWord]
  rw [admWord_get s (show 1 < 8 by omega), admWord_get s (show 2 < 8 by omega), if_neg (by omega), if_neg (not_not.2 h2), hx]
theorem switchOut_begun {l : Nat} (hr : x.stage = .running) (hm : ∀ m ∈ s.moves, m.launch ≠ l)
    (hf : saveFrames x.clusters.length (guestsOf s l).length ≤ (freeFrames s).length) : switchOut s l x = stopLaunch s l := by
  refine if_neg ?_
  rw [List.any_eq_true]
  rintro (h | ⟨m, h, h'⟩ | h)
  · exact h hr
  · exact hm m h (beq_iff_eq.1 h')
  · omega
theorem switchIn_done {l : Nat} {cls : List Nat} (h : readmitTo s l = some (x, cls))
    (hv : vacant s (cls.flatMap clusterCores) = true) (hw : returnWaits s l cls = false) (hc : cpStops s x.table 40960 = false) :
    switchIn s l = admDone (readmitGo s l) 0 := by
  rw [switchIn, h]
  dsimp only
  rw [hv, if_pos rfl, hw, if_neg Bool.false_ne_true, readmitTo_launch h]
  exact if_neg (Bool.eq_false_iff.1 hc)
theorem moveRole_unknown (h1 : s.adm.run[1].toNat < 128) (h2 : s.adm.run[2].toNat < 65536)
    (hx : fget s.launches s.adm.run[1].toNat = none) : moveRole s = admDone s 1 := by
  rw [moveRole]
  dsimp only
  rw [admWord_get s (show 1 < 8 by omega), admWord_get s (show 2 < 8 by omega), if_neg (by omega), hx]
theorem moveRole_begun {c : Nat} (h1 : s.adm.run[1].toNat < 128) (h2 : s.adm.run[2].toNat / 2 ^ 14 = 2)
    (hx : fget s.launches s.adm.run[1].toNat = some x) (hd : declared x.img s.adm.run[2].toNat = true) (hs : x.stage = .running)
    (hi : injFires s (x.table + 8 * (2048 + s.adm.run[2].toNat % 2 ^ 14)) = false)
    (he : ∀ j, j < 8 → fget s.errs (sectorOf (x.table + 8 * (2048 + s.adm.run[2].toNat % 2 ^ 14) + j)) = none)
    (hv : entV (physRead s (x.table + 8 * (2048 + s.adm.run[2].toNat % 2 ^ 14)) 8) = true)
    (hc : entCore (physRead s (x.table + 8 * (2048 + s.adm.run[2].toNat % 2 ^ 14)) 8) = some c) (ht : isTeller c = false)
    (hm : ∀ m ∈ s.moves, m.frm ≠ c) (hf : (Machine.core s c).fwd = none) (hto : (moveTo s c).isSome) :
    moveRole s = post { touch s (x.table + 8 * (2048 + s.adm.run[2].toNat % 2 ^ 14)) with
      moves := s.moves ++ [⟨s.adm.run[1].toNat, c, c, []⟩] } (.preemption c) := by
  have hmv : s.moves.any (fun m => m.frm == c) = false := by
    rw [List.any_eq_false]; exact fun m h h' => hm m h (beq_iff_eq.1 h')
  have hnot : ¬ (isTeller c = true ∨ s.moves.any (fun m => m.frm == c) = true ∨ (Machine.core s c).fwd.isSome = true
      ∨ ((moveTo s c).isNone = true ∧ (!coreJobs s c) = true)) := by
    rw [ht, hmv, hf, Option.isNone_eq_false_iff.2 hto]
    simp
  rw [moveRole]
  dsimp only
  rw [admWord_get s (show 1 < 8 by omega), admWord_get s (show 2 < 8 by omega), if_neg (by omega), hx]
  dsimp only
  rw [h2, if_neg (by omega), if_pos rfl]
  generalize x.table + 8 * (2048 + s.adm.run[2].toNat % 2 ^ 14) = pa at hi he hv hc ⊢
  have hread : physRead (touch s pa) pa 8 = physRead s pa 8 := physRead_congr (sameMemory_touch ..) ..
  have hh := eccStops_none (s := s) (pa := pa) (he 0 (by omega))
  rw [lookAt, hh, if_neg Bool.false_ne_true, hi, if_neg Bool.false_ne_true, Roles.eccRead_bytes (by omega) he, hread, hc,
    if_neg (by simp [hd, hs, hv])]
  exact if_neg hnot
theorem readMapping_one {p : Page} (h1 : s.adm.run[1].toNat < 128) (hx : fget s.launches s.adm.run[1].toNat = some x)
    (hp : x.pages = [p]) : readMapping s = admEnd s 0 (if p.va / 8192 = s.adm.run[2].toNat / 8192
      then BitVec.ofNat 64 (p.pa + s.adm.run[2].toNat % 8192) else 0xFFFFFFFFFFFFFFFF) := by
  rw [readMapping]
  dsimp only
  rw [admWord_get s (show 1 < 8 by omega), admWord_get s (show 2 < 8 by omega), if_neg (by omega), hx, Option.bind_some, hp,
    List.find?_singleton, pageSize]
  by_cases h : p.va / 8192 = s.adm.run[2].toNat / 8192
  · rw [if_pos h, h, beq_self_eq_true, if_pos rfl]
  · rw [if_neg h, beq_eq_false_iff_ne.2 h, if_neg Bool.false_ne_true]; rfl

end

/-! ## The commands as they run (R357) -/

section
variable {s u : State} {i : Instr} {e : Ev} {op n : Nat} {F : State → State} {p : State → Prop}

theorem runs_facing (hb : s.adm.busy = true) (ho : bits s.adm.run[0] 7 0 = op) : admRuns (facing s e) op = true :=
  admRuns_iff.2 ⟨hb, ho⟩
/-- A command that runs and leaves `u` with its result. -/
theorem ends_of (hex : exec i (facing s e) = .next (if admRuns (facing s e) op then F (facing s e) else facing s e))
    (hb : s.adm.busy = true) (ho : bits s.adm.run[0] 7 0 = op) {w : Word} (hF : F (facing s e) = admEnd u n w)
    (ha : Aloof (facing s e) u) (hp : u.adm.busy = true → p (admEnd u n w)) : ∃ t, exec i (facing s e) = .next t
      ∧ t.adm.busy = false ∧ t.adm.st = 2 * n ∧ t.cores = s.cores ∧ p t := by
  obtain ⟨h1, h2, h3⟩ := admEnd_aloof ha hb n w
  exact ⟨_, hex.trans (congrArg Host.Outcome.next ((if_pos (runs_facing hb ho)).trans hF)), h1, h2, h3,
    hp ((congrArg (·.busy) ha.adm).trans hb)⟩
theorem aloof_facing (s : State) (e : Ev) : Aloof s (facing s e) := ⟨rfl, rfl, rfl, rfl, rfl⟩
theorem queues_admEnd (h : u.adm.busy = true) (n : Nat) (w : Word) : (admEnd u n w).queues = u.queues
    ∧ (admEnd u n w).launches = u.launches ∧ (admEnd u n w).moves = u.moves ∧ (admEnd u n w).mem = u.mem
    ∧ (admEnd u n w).pat = u.pat ∧ (admEnd u n w).adm.rsp[0] = w := by
  rw [admEnd_busy h]
  exact ⟨rfl, rfl, rfl, rfl, rfl, Vector.getElem_set_self ..⟩
theorem patEnt_of {m : FMap PatEnt} {f : Nat} {x : PatEnt} (h : u.pat = fset m f x) : patEnt u f = x := by
  rw [patEnt, h, fget_fset_self]; rfl
theorem patEnt_admEnd (h : u.adm.busy = true) (n : Nat) (w : Word) (k : Nat) : patEnt (admEnd u n w) k = patEnt u k := by
  rw [patEnt, (queues_admEnd h n w).2.2.2.2.1]; rfl

end

theorem seatGuests_facing (s : State) (e : Ev) (l : List (TRef × Thread)) :
    seatGuests (facing s e) l = ((seatGuests s l).1, facing (seatGuests s l).2 e) := by
  induction l generalizing s with
  | nil => rfl
  | cons a l ih =>
    rw [seatGuests, seatGuests, show tellerSlot (facing s e) a.1.core = tellerSlot s a.1.core from rfl]
    split
    · next r _ =>
      have h := ih (fill s r { parkUntil s.cycle a.2 with readyAt := s.cycle + 1 })
      refine congrArg (fun p : List (TRef × TRef) × State => ((a.1, r) :: p.1, p.2)) h
    · exact ih s
theorem seatsFor_facing (s : State) (e : Ev) (l : List (TRef × Thread)) : seatsFor (facing s e) l = seatsFor s l := by
  rw [seatsFor, seatGuests_facing]; rfl
/-- Which launch comes back, and where, rests on no event. -/
theorem readmitTo_facing (s : State) (e : Ev) (l : Nat) : readmitTo (facing s e) l = readmitTo s l := by
  rw [readmitTo, readmitTo, show front (facing s e) = front s from rfl, show (facing s e).launches = s.launches from rfl]
  split
  · rw [seatsFor_facing]; rfl
  · rfl
/-- Command 6 to switch a launch out. -/
def outWord (s : State) : State := switchWord s 0 fun s l x =>
  if x.stage = .stopping ∧ !x.frozen then (if outReady s l then saveLaunch s l x else s) else switchOut s l x
/-- Command 6 to switch a launch in. -/
def inWord (s : State) : State := switchWord s 1 fun s l _ => switchIn s l
theorem exec_switchOut (s : State) (e : Ev) : exec .switchOut (facing s e) =
    .next (if admRuns (facing s e) 6 then outWord (facing s e) else facing s e) := rfl
theorem exec_switchIn (s : State) (e : Ev) : exec .switchIn (facing s e) =
    .next (if admRuns (facing s e) 6 then inWord (facing s e) else facing s e) := rfl
theorem outWord_running {s : State} {x : Launch} (h1 : s.adm.run[1].toNat < 128) (h2 : s.adm.run[2].toNat = 0)
    (hx : fget s.launches s.adm.run[1].toNat = some x) (hr : x.stage = .running) : outWord s = switchOut s s.adm.run[1].toNat x :=
  (switchWord_go h1 h2 (by omega) hx _).trans (if_neg (by rw [hr]; simp))
/-- An opcode of no command. -/
theorem exec_unknown {s : State} {e : Ev} (hb : s.adm.busy = true) (ho : bits s.adm.run[0] 7 0 = 0 ∨ 8 < bits s.adm.run[0] 7 0) :
    exec .unknownAdminOpcode (facing s e) = .next (admDone (facing s e) 2) := by
  rw [show exec .unknownAdminOpcode (facing s e) = execUnknownAdminOpcode (facing s e) from rfl, execUnknownAdminOpcode]
  rw [admWord_get _ (show 0 < 8 by omega)]
  exact congrArg Host.Outcome.next (if_pos ⟨hb, ho⟩)

theorem outWord_begins {s : State} {l : Nat} {x : Launch} (hl : s.adm.run[1].toNat = l) (h1 : l < 128)
    (h2 : s.adm.run[2].toNat = 0) (hx : fget s.launches l = some x) (hr : x.stage = .running) (hm : ∀ m ∈ s.moves, m.launch ≠ l)
    (hf : saveFrames x.clusters.length (guestsOf s l).length ≤ (freeFrames s).length) :
    ∃ y, fget (outWord s).launches l = some y ∧ y.stage = .stopping ∧ (outWord s).adm = s.adm
      ∧ ∀ c, (Machine.core s c).launch = some l → (Machine.core (outWord s) c).stopped = true := by
  subst hl
  rw [outWord_running h1 h2 hx hr, switchOut_begun hr hm hf]
  obtain ⟨hy, hadm, hc⟩ := stopLaunch_spec hx
  exact ⟨_, hy, rfl, hadm, hc⟩
theorem inWord_done {s : State} {l : Nat} {x : Launch} {cls : List Nat} (hb : s.adm.busy = true) (hl : s.adm.run[1].toNat = l)
    (h1 : l < 128) (h2 : s.adm.run[2].toNat = 1) (hr : readmitTo s l = some (x, cls))
      (hv : vacant s (cls.flatMap clusterCores) = true)
    (hw : returnWaits s l cls = false) (hc : cpStops s x.table 40960 = false) :
    ∃ y, (inWord s).adm.busy = false ∧ (inWord s).adm.st = 0 ∧ fget (inWord s).launches l = some y ∧ y.stage = .running
      ∧ y.clusters = cls := by
  subst hl
  rw [inWord, switchWord_go h1 h2 (by omega) (readmitTo_launch hr), switchIn_done hr hv hw hc]
  obtain ⟨y, hl, hst, hcls, -, hadm⟩ := readmitGo_runs hr hv hw hc
  have hbz : (readmitGo s s.adm.run[1].toNat).adm.busy = true := (congrArg (·.busy) hadm).trans hb
  obtain ⟨hb', hst', -⟩ := admEnd_spec hbz 0 0
  exact ⟨y, hb', hst', (congrArg (fget · _) (queues_admEnd hbz 0 0).2.1).trans hl, hst, hcls⟩

theorem exec_moveRole_begins {s : State} {l w pa c : Nat} {x : Launch} (hb : s.adm.busy = true) (ho : bits s.adm.run[0] 7 0 = 7)
    (hl : s.adm.run[1].toNat = l) (hw : s.adm.run[2].toNat = w) (hpa : x.table + 8 * (2048 + w % 2 ^ 14) = pa)
    (h1 : l < 128) (h2 : w / 2 ^ 14 = 2) (hx : fget s.launches l = some x) (hd : declared x.img w = true)
      (hs : x.stage = .running)
    (hi : injFires s pa = false) (he : ∀ j, j < 8 → fget s.errs (sectorOf (pa + j)) = none) (hv : entV (physRead s pa 8) = true)
    (hc : entCore (physRead s pa 8) = some c) (ht : isTeller c = false) (hm : ∀ m ∈ s.moves, m.frm ≠ c)
    (hf : (Machine.core s c).fwd = none) (hto : (moveTo s c).isSome) :
    ∃ t, exec .moveRole (facing s .moveRole) = .next t ∧ t.moves = s.moves ++ [⟨l, c, c, []⟩]
      ∧ t.pending = s.pending ++ [.preemption c] ∧ t.adm.busy = true := by
  have hgo := moveRole_begun (s := facing s .moveRole) (x := x) (c := c)
  rw [show (facing s .moveRole).adm = s.adm from rfl, hl, hw, hpa, physRead_congr (sameMemory_facing s .moveRole),
    show (facing s .moveRole).launches = s.launches from rfl, show injFires (facing s .moveRole) pa = injFires s pa from rfl,
    show (facing s .moveRole).errs = s.errs from rfl, show Machine.core (facing s .moveRole) c = Machine.core s c from rfl,
    show (facing s .moveRole).moves = s.moves from rfl, show moveTo (facing s .moveRole) c = moveTo s c from rfl] at hgo
  have hgo := hgo h1 h2 hx hd hs hi he hv hc ht hm hf hto
  exact ⟨_, congrArg Host.Outcome.next ((if_pos (runs_facing hb ho)).trans hgo), rfl, rfl, hb⟩

/-- Settles O48. -/
theorem administrationCommands : Obligations.AdministrationCommands := by
  unfold Obligations.AdministrationCommands
  intro s hb
  refine ⟨fun ho h1 h2 h3 h4 h5 h6 h7 hq hi hd => ?_, fun ho h => ?_, fun q ho h1 hq =>
    ⟨fun hf => ?_, fun hf hd he hop hw hl => ?_⟩,
    fun q ho h1 h2 h3 h4 h0 hq hf => ?_, fun ho h1 h2 hw h3 hf he => ⟨fun hn => ?_, fun hn => ?_⟩,
    fun ho h1 hw h2 ho' hf hl => ?_, fun ho h => ⟨?_, ?_⟩, fun x ho h1 h2 hx hr hm hf => ?_, fun x cls ho h1 h2 hr hv hw hc => ?_,
    fun ho h1 h2 hx => ?_, fun x c ho h1 h2 hx hd hs hi he hv hc ht hm hf hto => ?_, fun x p ho h1 hx hp => ?_, fun ho => ?_⟩
  · obtain ⟨hset, ha⟩ := setQueue_spec (facing s .createQueue) s.adm.run[1].toNat (newQueue (facing s .createQueue))
    refine ends_of (F := createQueue) rfl hb ho (createQueue_done h4 h1 h2 h3 h5 h6 h7 hq hi hd) ha fun hu => ?_
    refine ⟨newQueue (facing s .createQueue), ?_, rfl, rfl, rfl, rfl, rfl, rfl, rfl, rfl⟩
    rw [(queues_admEnd hu 0 0).1]
    exact (congrArg (fget · _) hset).trans (fget_fset_self ..)
  · exact ends_of (F := createQueue) rfl hb ho (createQueue_bad h) .refl fun hu => (queues_admEnd hu 2 0).1
  · exact ends_of (F := removeQueue) rfl hb ho (removeQueue_frozen h1 hq hf) .refl fun hu => (queues_admEnd hu 3 0).1
  · refine ends_of (F := removeQueue) rfl hb ho (removeQueue_done h1 hq hf hd he hop hw hl) ?_ fun hu => ?_
    · exact ((aloof_touch _ _).trans (aloof_logGranule ..)).trans ⟨rfl, rfl, rfl, rfl, rfl⟩
    · rw [(queues_admEnd hu 0 0).1]; exact fget_fdel_self ..
  · refine ends_of (F := setWindow) rfl hb ho (setWindow_done h1 h2 h3 h4 h0 hq hf) ⟨rfl, rfl, rfl, rfl, rfl⟩ fun hu => ?_
    exact ⟨_, ((congrArg (fget · _) (queues_admEnd hu 0 0).1).trans (fget_fset_self ..)), fget_fset_self ..⟩
  · have hp : patPut (facing s .assignFrames) s.adm.run[2].toNat s.adm.run[1].toNat =
    { facing s .assignFrames with patst := 1 } :=
      patPut_of ((patWrite_assign (s := facing s .assignFrames) hw (by omega) he (by omega)).trans
        (if_pos (neighbourRefuses_iff.2 hn)))
    have hst : (patPut (facing s .assignFrames) s.adm.run[2].toNat s.adm.run[1].toNat).patst ≠ 0 := by rw [hp]; exact
      Nat.one_ne_zero
    refine ends_of (F := assignFrames) rfl hb ho ((assignFrames_one (s := facing s .assignFrames) h1 h2 h3 hf).trans (if_neg hst))
      (aloof_patPut ..) fun hu => ⟨?_, (queues_admEnd hu _ _).2.2.2.2.2⟩
    rw [(queues_admEnd hu 1 _).2.2.2.2.1]
    exact congrArg (·.pat) hp
  · have hp := patPut_of ((patWrite_assign (s := facing s .assignFrames) hw (by omega) he (by omega)).trans
      (if_neg (mt neighbourRefuses_iff.1 hn)))
    refine ends_of (F := assignFrames) rfl hb ho
      ((assignFrames_one (s := facing s .assignFrames) h1 h2 h3 hf).trans (if_pos (congrArg (·.patst) hp)))
      (aloof_patPut ..) fun hu => ?_
    rw [patEnt_admEnd hu]
    refine congrArg (·.owner) (patEnt_of (congrArg (·.pat) hp))
  · have hp := patPut_of (patWrite_release (s := facing s .releaseFrames) hw (by omega) ho')
    refine ends_of (F := releaseFrames) rfl hb ho (releaseFrames_one (s := facing s .releaseFrames) h1 h2 ho' hf hl)
      (aloof_patPut ..) fun hu => ?_
    rw [patEnt_admEnd hu]
    exact (congrArg (fun t => patEnt t _) hp).trans (patEnt_fset ..).1
  · exact ends_of (F := outWord) (exec_switchOut s _) hb ho (switchWord_bad (s := facing s .switchOut) h 0 _) .refl fun hu =>
    (queues_admEnd hu 2 0).2.1
  · exact ends_of (F := inWord) (exec_switchIn s _) hb ho (switchWord_bad (s := facing s .switchIn) h 1 _) .refl fun hu =>
    (queues_admEnd hu 2 0).2.1
  · obtain ⟨y, hy, hst, hadm, hc⟩ := outWord_begins (s := facing s .switchOut) rfl h1 h2 hx hr hm hf
    exact ⟨_, y, (exec_switchOut s _).trans (congrArg Host.Outcome.next (if_pos (runs_facing hb ho))), hy, hst,
      (congrArg (·.busy) hadm).trans hb, hc⟩
  · obtain ⟨y, hbz, hst, hy, hrun, hcls⟩ :=
      inWord_done (s := facing s .switchIn) hb rfl h1 h2 ((readmitTo_facing ..).trans hr) hv hw hc
    exact ⟨_, y, (exec_switchIn s _).trans (congrArg Host.Outcome.next (if_pos (runs_facing hb ho))), hbz, hst, hy, hrun, hcls⟩
  · exact ends_of (F := moveRole) rfl hb ho (moveRole_unknown h1 h2 hx) .refl fun hu => (queues_admEnd hu 1 0).2.2.1
  · exact exec_moveRole_begins hb ho rfl rfl rfl h1 h2 hx hd hs hi he hv hc ht hm hf hto
  · exact ends_of (F := readMapping) rfl hb ho (readMapping_one h1 hx hp) .refl fun hu => (queues_admEnd hu 0 _).2.2.2.2.2
  · obtain ⟨h1, h2, h3⟩ := admEnd_spec (s := facing s .unknownAdminOpcode) hb 2 0
    exact ⟨_, exec_unknown hb ho, h1, h2, h3, (queues_admEnd (u := facing s .unknownAdminOpcode) hb 2 0).2.2.2.1⟩

end Sys2Proof.Proofs.Switching
end

section
/-!
PROOFS. WHAT STATEMENT O44 RESTS ON. Launches that freeze, end and retire, cores that move, and what does not depend on the
event that the module faces (R75, R308 to R324); the proof of statement O44.
-/
namespace Sys2Proof.Proofs.Retirement
open Sys2Proof Sys2Proof.Machine DeviceMemory Seals Switching

/-! ## A launch that freezes (R323) -/

section
variable {s t u : State} {l : Nat} {x : Launch}

theorem cancelMove_keeps (s : State) (l : Nat) : (cancelMove s l).launches = s.launches ∧ (cancelMove s l).cores = s.cores := by
  unfold cancelMove
  dsimp only
  split
  · split
    · unfold admDone admEnd; split <;> exact ⟨rfl, rfl⟩
    · exact ⟨rfl, rfl⟩
  · exact ⟨rfl, rfl⟩
/-- A launch whose threads are frozen. -/
def frozenLaunch (x : Launch) : Launch :=
  { x with frozen := true, ready := [], graphs := x.graphs.map (fun g => { g with live := false, pend := 0 }) }
theorem froze_spec (hx : fget s.launches l = some x) : ∃ y, fget (froze s l).launches l = some y ∧ y.frozen = true ∧ y.ready = []
    ∧ (x.stage = .running → y.stage = .stopping
      ∧ ∀ c, (Machine.core s c).launch = some l → (Machine.core (froze s l) c).stopped = true) := by
  obtain ⟨u, hu, hl, hc⟩ : ∃ u, (if x.stage = .stopping ∧ admRuns s 6 = true ∧ (admWord s 1).toNat = l then admDone s 1 else s) =
    u
      ∧ u.launches = s.launches ∧ u.cores = s.cores := by
    refine ⟨_, rfl, ?_⟩
    split
    · unfold admDone admEnd; split <;> exact ⟨rfl, rfl⟩
    · exact ⟨rfl, rfl⟩
  have hx' : fget u.launches l = some x := hl ▸ hx
  have hf : froze s l = if x.stage = .running then stopLaunch (cancelMove (modLaunch u l frozenLaunch) l) l
      else modLaunch u l frozenLaunch := by
    rw [froze, hx, ← hu]; rfl
  rw [hf, modLaunch_eq hx']
  by_cases hr : x.stage = .running
  · obtain ⟨hkl, hkc⟩ := cancelMove_keeps { u with launches := fset u.launches l (frozenLaunch x) } l
    obtain ⟨hy, -, hs⟩ := stopLaunch_spec (s := cancelMove { u with launches := fset u.launches l (frozenLaunch x) } l) (l := l)
      (x := frozenLaunch x) (by rw [hkl]; exact fget_fset_self ..)
    rw [if_pos hr]
    refine ⟨_, hy, rfl, rfl, fun _ => ⟨rfl, fun c h => hs c ?_⟩⟩
    rw [Machine.core, hkc, show ({ u with launches := fset u.launches l (frozenLaunch x) } : State).cores = s.cores from hc]
    exact h
  · rw [if_neg hr]
    exact ⟨frozenLaunch x, fget_fset_self .., rfl, rfl, fun h => absurd h hr⟩

/-! ## The end of a launch (R321, R323) -/

/-- The module but for its clusters and what is on its way is as it was; queues of matrix jobs only lose jobs. -/
structure Ends (s t : State) : Prop where
  eq : ∃ k p, t = { s with clusters := k, pending := p }
  shrinks : ∀ c, (cluster s c).mxq = [] → (cluster t c).mxq = []
theorem Ends.refl : Ends s s := ⟨⟨_, _, rfl⟩, fun _ h => h⟩
theorem Ends.trans (h : Ends s t) (h' : Ends t u) : Ends s u := by
  obtain ⟨k, p, rfl⟩ := h.eq
  obtain ⟨k', p', rfl⟩ := h'.eq
  exact ⟨⟨k', p', rfl⟩, fun c hc => h'.shrinks c (h.shrinks c hc)⟩
theorem ends_fold {α : Type} {f : State → α → State} {m : List α} (h : ∀ s e, Ends s (f s e)) : Ends s (m.foldl f s) := by
  induction m generalizing s with
  | nil => exact .refl
  | cons e m ih => exact (h s e).trans ih
theorem cluster_modCluster (s : State) (c : Nat) (f : Cluster → Cluster) (k : Nat) :
    cluster (modCluster s c f) k = if k = c then f (cluster s c) else cluster s k := by
  unfold modCluster
  split
  · next h => rw [h, cluster, fget_fset_self]; rfl
  · next h => rw [cluster, fget_fset_ne _ _ h]; rfl
theorem ends_post (s : State) (e : Ev) : Ends s (post s e) := ⟨⟨_, _, rfl⟩, fun _ h => h⟩
theorem ends_modCluster (s : State) (c : Nat) {f : Cluster → Cluster} (h : ∀ x, x.mxq = [] → (f x).mxq = []) :
    Ends s (modCluster s c f) := by
  refine ⟨⟨_, _, rfl⟩, fun k hk => ?_⟩
  rw [cluster_modCluster]
  split
  · next he => exact h _ (he ▸ hk)
  · exact hk
theorem ends_modRec (s : State) (c id : Nat) (f : JobRec → JobRec) : Ends s (modRec s c id f)
    ∧ ∀ k, (cluster (modRec s c id f) k).mxq = (cluster s k).mxq := by
  unfold modRec
  split
  · unfold setRec modBank
    split
    · refine ⟨ends_modCluster _ _ (fun _ h => h), fun k => ?_⟩
      rw [cluster_modCluster]; split
      · next h => rw [h]
      · rfl
    · refine ⟨ends_modCluster _ _ (fun _ h => h), fun k => ?_⟩
      rw [cluster_modCluster]; split
      · next h => rw [h]
      · rfl
  · exact ⟨.refl, fun _ => rfl⟩
theorem foldl_post_clusters {α : Type} (f : α → Ev) (m : List α) (s : State) : (m.foldl (fun s b => post s (f b)) s).clusters =
    s.clusters := by
  induction m generalizing s with
  | nil => rfl
  | cons e m ih => exact ih (post s (f e))
theorem mxEnd_spec (s : State) (c : Nat) (j : MxJob) (code : Nat) (v : Word) : Ends s (mxEnd s c j code v)
    ∧ (cluster (mxEnd s c j code v) c).mxq = (cluster s c).mxq.filter (fun e => e.id != j.id) := by
  unfold mxEnd mxFinal modSubs
  dsimp only
  obtain ⟨he, hq⟩ := ends_modRec s c j.id fun r => { r with subs := r.subs.mapIdx fun i x =>
    if x.ended then x else { x with code := code, fval := v, ended := true } }
  generalize modRec s c j.id _ = u at he hq
  have hf := ends_modCluster u c (f := fun x => { x with mxq := x.mxq.filter (fun e => e.id != j.id) })
    (fun x h => by show x.mxq.filter _ = []; rw [h]; rfl)
  obtain ⟨hr, hq'⟩ := ends_modRec (modCluster u c (fun x => { x with mxq := x.mxq.filter (fun e => e.id != j.id) })) c j.id
    fun r => { r with final := true, subs := r.subs.map fun x => { x with ended := true } }
  refine ⟨((he.trans hf).trans hr).trans (ends_fold fun s b => ends_post ..), ?_⟩
  rw [cluster, foldl_post_clusters]
  refine (hq' c).trans ?_
  rw [cluster_modCluster, if_pos rfl]
  exact congrArg (List.filter _) (hq c)
/-- Every job of a queue ends. -/
theorem endQueue_spec (s : State) (c : Nat) (m : List MxJob) (code : Nat) (v : Word) :
    Ends s (m.foldl (fun s j => mxEnd s c j code v) s)
    ∧ (cluster (m.foldl (fun s j => mxEnd s c j code v) s) c).mxq = (cluster s c).mxq.filter
      (fun e => !(m.map (·.id)).contains e.id) := by
  induction m generalizing s with
  | nil => exact ⟨.refl, (List.filter_eq_self.2 fun _ _ => rfl).symm⟩
  | cons j m ih =>
    obtain ⟨h, hq⟩ := mxEnd_spec s c j code v
    obtain ⟨h', hq'⟩ := ih (mxEnd s c j code v)
    refine ⟨h.trans h', hq'.trans ?_⟩
    rw [hq, List.filter_filter]
    refine List.filter_congr fun e _ => ?_
    by_cases h : e.id = j.id <;> simp [h, Bool.and_comm]
theorem endQueues_spec (m : List Nat) (s : State) (code : Nat) (v : Word) :
    Ends s (m.foldl (fun s c => (cluster s c).mxq.foldl (fun s j => mxEnd s c j code v) s) s)
    ∧ ∀ c ∈ m, (cluster (m.foldl (fun s c => (cluster s c).mxq.foldl (fun s j => mxEnd s c j code v) s) s) c).mxq = [] := by
  induction m generalizing s with
  | nil => exact ⟨.refl, by simp⟩
  | cons d m ih =>
    obtain ⟨h, hq⟩ := endQueue_spec s d (cluster s d).mxq code v
    obtain ⟨h', hq'⟩ := ih ((cluster s d).mxq.foldl (fun s j => mxEnd s d j code v) s)
    refine ⟨h.trans h', fun c hc => ?_⟩
    rcases List.mem_cons.1 hc with rfl | hc
    · refine h'.shrinks c (hq.trans ?_)
      rw [List.filter_eq_nil_iff]
      intro e he
      simpa using ⟨e, he, rfl⟩
    · exact hq' c hc
theorem quiescent_of (hc : ∀ e ∈ s.cores, ∀ z ∈ e.2.slots, z.2.launch = some l → z.2.st ≠ .live ∧ z.2.st ≠ .away ∧ z.2.rupdOut =
    0)
    (hr : x.ready = []) (hp : ∀ e ∈ s.pending, msgOf s l e = false)
    (hj : ∀ c ∈ launchClusters s l, (∀ j ∈ (cluster s c).mxq, j.pause.isSome = true) ∧ (cluster s c).cpq = []) :
    quiescent s l x = true := by
  have h1 : (s.cores.all fun e => e.2.slots.all fun t => !slotOfLaunch l t.2) = true := by
    rw [List.all_eq_true]; intro e he
    rw [List.all_eq_true]; intro z hz
    rw [slotOfLaunch]
    by_cases h : z.2.launch = some l
    · obtain ⟨h1, h2, h3⟩ := hc e he z hz h
      simp [h1, h2, h3]
    · simp [h]
  have h2 : s.pending.any (msgOf s l) = false := by
    rw [List.any_eq_false]; exact fun e he h => by rw [hp e he] at h; cases h
  have h3 : ((launchClusters s l).all fun c => (cluster s c).mxq.all (fun j => j.pause.isSome) && (cluster s c).cpq == []) =
    true := by
    rw [List.all_eq_true]; intro c hc
    obtain ⟨hm, hk⟩ := hj c hc
    rw [List.all_eq_true.2 hm, hk]; rfl
  rw [quiescent, h1, h2, h3, hr]; rfl
/-- The launch as it starts to retire. -/
def retiringLaunch (jobs : Bool) (x : Launch) : Launch :=
  { x with
    stage := .retiring 1, paused := x.paused || jobs, abandon := x.abandon || x.graphs.any (·.live)
    graphs := x.graphs.map (fun g => { g with live := false, pend := 0 }) }
def withLaunch (s : State) (l : Nat) (x : Launch) : State := { s with launches := fset s.launches l x }
theorem modLaunch_get (hx : fget s.launches l = some x) (f : Launch → Launch) : fget (modLaunch s l f).launches l = some
    (f x) := by
  rw [modLaunch_eq hx]; exact fget_fset_self ..
theorem endQuiet_spec (hx : fget s.launches l = some x) : ∃ t, Ends s t ∧ (∀ c ∈ launchClusters s l, (cluster t c).mxq = [])
    ∧ endQuiet s l = withLaunch t l (retiringLaunch ((launchClusters s l).any (fun c => (cluster s c).mxq != [])) x) := by
  obtain ⟨h, hq⟩ := endQueues_spec (launchClusters s l) s 1 0
  refine ⟨_, h, hq, ?_⟩
  have hl : fget ((launchClusters s l).foldl (fun s c => (cluster s c).mxq.foldl (fun s j => mxEnd s c j 1 0) s) s).launches l =
    some x := by
    obtain ⟨k, p, hk⟩ := h.eq
    rw [hk]; exact hx
  exact modLaunch_eq hl _

theorem rests_of_ends (h : Ends s t) : Rests s t := by
  obtain ⟨k, p, rfl⟩ := h.eq
  exact rests_cores ⟨_, _, _, _, _, _, _, rfl⟩
theorem rests_cpEnd (s : State) (c : Nat) (j : CpJob) (code : Nat) (v : Word) : Rests s (cpEnd s c j code v) := by
  have hw : Rests s (cpUnwait s c j) := by
    unfold cpUnwait
    split
    · exact rests_modCore s j.core (by intro; rfl) (by intro _ h; exact h)
    · exact .refl
  unfold cpEnd
  dsimp only
  exact (hw.trans (rests_modCluster ..)).trans (rests_of_ends (ends_modRec ..).1)
/-- Every job of a cluster ends. -/
def endJobs (s : State) (c : Nat) : State :=
  let s := (cluster s c).mxq.foldl (fun s j => mxEnd s c j 1 0) s
  (cluster s c).cpq.foldl (fun s j => cpEnd s c j 1 0) s
theorem rests_endJobs (s : State) (c : Nat) : Rests s (endJobs s c) :=
  (rests_of_ends (endQueue_spec s c _ 1 0).1).trans (rests_fold .refl fun s j => rests_cpEnd ..)
/-- The cores without the threads and the streams of a launch. -/
def leftCores (s : State) (l : Nat) : State :=
  { s with cores := s.cores.map (fun (e : Nat × Core) => (e.1, { dropStreams l e.2 with
      slots := e.2.slots.filter (fun t => t.2.launch != some l), ibufs := e.2.ibufs.filter (fun b => b.2.tag != some l) })) }
theorem launches_leftCores (s : State) (l : Nat) : (leftCores s l).launches = s.launches := rfl
theorem endLaunch_eq (s : State) (l : Nat) : endLaunch s l =
    modLaunch ((launchClusters (leftCores (restLaunch s l) l) l).foldl endJobs (leftCores (restLaunch s l) l)) l
      (fun x => { x with stage := .retiring 1, ready := [] }) := rfl
theorem endLaunch_spec (hx : fget s.launches l = some x) :
    fget (endLaunch s l).launches l = some { x with stage := .retiring 1, ready := [] } := by
  rw [endLaunch_eq]
  generalize hu : leftCores (restLaunch s l) l = u
  have hl : u.launches = s.launches := by rw [← hu, launches_leftCores, (rests_restLaunch s l).launches]
  have hjobs := (rests_fold (l := launchClusters u l) (Rests.refl (s := u)) rests_endJobs).launches
  exact modLaunch_get (x := x) (by rw [hjobs, hl, hx]) _

end

/-! ## Restart points rest on no event (R308, R311)

Whether a core or a launch can leave is asked of the state with everything at its restart point; that state is the same
whatever event the module faces. -/

section
variable {e : Ev}

theorem facing_fold {α : Type} {f : State → α → State} (h : ∀ s a, f (facing s e) a = facing (f s a) e) {m : List α} {s t : State}
    (ht : t = facing s e) : m.foldl f t = facing (m.foldl f s) e := by
  subst ht
  induction m generalizing s with
  | nil => rfl
  | cons a m ih => exact (congrArg (m.foldl f) (h s a)).trans ih
theorem facing_answer (s : State) (r : ReplyTo) (x : RepRes) : answer (facing s e) r x = facing (answer s r x) e := by
  cases r with
  | thr a => rfl
  | away m tag =>
    dsimp only [answer]
    rw [show (facing s e).fab = s.fab from rfl]
    split <;> rfl
  | nobody => rfl
theorem facing_giveBack (s : State) (a : TRef) (p : Option QEntry) (b : Bool) :
    giveBack (facing s e) a p b = facing (giveBack s a p b) e := rfl
theorem facing_unissue (s : State) (a : TRef) : unissue (facing s e) a = facing (unissue s a) e := by
  rw [unissue, unissue, show thr (facing s e) a = thr s a from rfl]
  split
  · rw [facing_giveBack]; rfl
  · rfl
theorem facing_unissueTo (s : State) (r : ReplyTo) : unissueTo (facing s e) r = facing (unissueTo s r) e := by
  cases r with
  | thr a => exact facing_unissue s a
  | away m tag => exact facing_answer s (.away m tag) .back
  | nobody => rfl
theorem facing_modAt (s : State) (r : ReplyTo) (f : Thread → Thread) : modAt (facing s e) r f = facing (modAt s r f) e := by
  cases r <;> rfl
theorem facing_withdrawWaits (p : ReplyTo → Bool) (s : State) : withdrawWaits p (facing s e) = facing (withdrawWaits p s) e := by
  unfold withdrawWaits
  exact facing_fold (fun s w => facing_unissueTo s (waiterTo w)) rfl
theorem facing_withdrawResv (p : ReplyTo → Bool) (s : State) : withdrawResv p (facing s e) = facing (withdrawResv p s) e := by
  unfold withdrawResv
  exact facing_fold (fun s r => by rw [facing_modAt, facing_unissueTo]) rfl
theorem facing_withdrawBarw (p : ReplyTo → Bool) (s : State) : withdrawBarw p (facing s e) = facing (withdrawBarw p s) e := by
  unfold withdrawBarw
  exact facing_fold (fun s m => facing_unissueTo s m.rto) rfl
theorem facing_withdrawDoors (p : ReplyTo → Bool) (s : State) : withdrawDoors p (facing s e) = facing (withdrawDoors p s) e := by
  unfold withdrawDoors
  exact facing_fold (fun s m => facing_unissueTo s m.rto) rfl
theorem withdrawn_facing (p : ReplyTo → Bool) (s : State) : withdrawn p (facing s e) = withdrawn p s := by
  funext a; cases a <;> rfl
theorem facing_withdrawMsgs (p : ReplyTo → Bool) (s : State) : withdrawMsgs p (facing s e) = facing (withdrawMsgs p s) e := by
  unfold withdrawMsgs
  rw [withdrawn_facing]
  refine facing_fold (fun s a => ?_) rfl
  split
  · exact facing_unissueTo ..
  · rfl
theorem facing_bufWrite (s : State) (c : Nat) (sp : Space) (o : Nat) (m : List Byte) :
    bufWrite (facing s e) c sp o m = facing (bufWrite s c sp o m) e := rfl
theorem facing_writeAcc (s : State) (c : Nat) (d : List Word) (st : Nat) (m : List Lane) :
    writeAcc (facing s e) c d st m = facing (writeAcc s c d st m) e := by
  unfold writeAcc
  exact facing_fold (fun s i => facing_bufWrite ..) rfl
theorem facing_flushAcc (s : State) (cl : Nat) (j : MxJob) : flushAcc (facing s e) cl j = facing (flushAcc s cl j) e := by
  rw [flushAcc, flushAcc]
  split
  · rfl
  · refine facing_fold (fun s a => ?_) rfl
    split
    · rfl
    · exact facing_writeAcc ..
theorem facing_restMatrix (q : MxJob → Bool) (s : State) (cl : Nat) : restMatrix q (facing s e) cl = facing
    (restMatrix q s cl) e := by
  unfold restMatrix
  exact facing_fold (fun s j => by rw [facing_flushAcc]; rfl) rfl
theorem facing_restCluster (q : MxJob → Bool) (r : CpJob → Bool) (s : State) (cl : Nat) :
    restCluster q r (facing s e) cl = facing (restCluster q r s cl) e := by
  rw [restCluster, facing_restMatrix]; rfl
/-- The restart points do not depend on the event, where the threads that stop are named without it. -/
theorem facing_toRest (every : Bool) (pm : Nat → Option Nat → Bool) (q : Nat → Bool) (s : State) :
    toRest every pm q (facing s e) = facing (toRest every pm q s) e := by
  unfold toRest
  dsimp only
  rw [show (fun a : TRef => pm a.core (thr (facing s e) a).launch) = fun a => pm a.core (thr s a).launch from rfl,
    facing_withdrawWaits, facing_withdrawResv, facing_withdrawBarw, facing_withdrawMsgs, facing_withdrawDoors]
  generalize withdrawDoors (stopsAt every fun a => pm a.core (thr s a).launch) _ = t
  refine facing_fold (fun s cl => ?_) rfl
  rw [show (fun j => every || mxHeld (facing s e) cl j) = fun j => every || mxHeld s cl j from rfl,
    show (fun j => every || cpHeld (facing s e) j) = fun j => every || cpHeld s j from rfl, facing_restCluster]
theorem facing_restOf (s : State) (c : Nat) : restOf (facing s e) c = facing (restOf s c) e := facing_toRest ..
theorem facing_restLaunch (s : State) (l : Nat) : restLaunch (facing s e) l = facing (restLaunch s l) e := facing_toRest ..
theorem pubStands_facing (s : State) (n : Nat) (x : GIndex) : pubStands (facing s e) n x = pubStands s n x := rfl
theorem outReady_facing (s : State) (l : Nat) : outReady (facing s e) l = outReady s l := by
  unfold outReady
  rw [facing_restLaunch]
  generalize restLaunch s l = r
  have hm : msgOut (facing r e) l = msgOut r l := by funext a; cases a <;> rfl
  dsimp only
  rw [hm]
  rfl
theorem canStream_facing (s : State) (c d : Nat) : canStream (facing s e) c d = canStream s c d := by
  have h : coreRest (facing s e) c = coreRest s c := by
    unfold coreRest
    rw [facing_restOf]
    generalize restOf s c = r
    rfl
  unfold canStream
  rw [h]
  rfl

end

/-! ## A core that moves (R75, R309) -/

section
variable {s t u : State}

/-- Every core is bound to the launch to which it was bound, and stands or goes as it did. -/
structure Binds (s t : State) : Prop where
  core : ∀ k, (Machine.core t k).launch = (Machine.core s k).launch ∧ (Machine.core t k).stopped = (Machine.core s k).stopped
theorem Binds.refl : Binds s s := ⟨fun _ => ⟨rfl, rfl⟩⟩
theorem Binds.trans (h : Binds s t) (h' : Binds t u) : Binds s u :=
  ⟨fun k => ⟨(h'.core k).1.trans (h.core k).1, (h'.core k).2.trans (h.core k).2⟩⟩
theorem binds_cores (h : t.cores = s.cores) : Binds s t := ⟨fun k => by rw [Machine.core, h]; exact ⟨rfl, rfl⟩⟩
theorem binds_mapCores (s : State) {f : Nat → Core → Core} (h : ∀ c x, (f c x).launch = x.launch ∧ (f c x).stopped = x.stopped) :
    Binds s { s with cores := s.cores.map (fun e => (e.1, f e.1 e.2)) } := by
  refine ⟨fun k => ?_⟩
  rw [Machine.core, fget_map_key, Machine.core]
  cases fget s.cores k with
  | none => exact ⟨rfl, rfl⟩
  | some x => exact h k x
theorem binds_modCore (s : State) (c : Nat) {f : Core → Core} (h : ∀ x, (f x).launch = x.launch ∧ (f x).stopped = x.stopped) :
    Binds s (modCore s c f) := by
  refine ⟨fun k => ?_⟩
  rw [core_modCore]
  split
  · next he => exact he ▸ h _
  · exact ⟨rfl, rfl⟩
theorem binds_renState (f : TRef → TRef) (s : State) : Binds s (renState f s) :=
  (binds_mapCores s (f := fun _ => renCore f) (fun _ _ => ⟨rfl, rfl⟩)).trans (binds_cores rfl)
theorem binds_setBindg (s : State) (a : Nat) (cs : List Nat) : Binds s (setBindg s a cs) := by
  unfold setBindg
  induction cs generalizing s with
  | nil => exact .refl
  | cons c cs ih => exact (binds_modCore s c (by intro _; exact ⟨rfl, rfl⟩)).trans (ih _)
theorem binds_leaveCluster (s : State) (x : Launch) (cl : Nat) : Binds s (leaveCluster s x cl) := by
  unfold leaveCluster
  split
  · exact .refl
  · exact binds_cores rfl
theorem cores_moveBank (s : State) (c d : Nat) : (moveBank s c d).cores = s.cores := by
  unfold moveBank
  dsimp only
  split <;> rfl
/-- The two cores as the context has moved. -/
def swapped (s : State) (c d : Nat) : State :=
  setCore (setCore (moveBank s c d) d (newHome (Machine.core s c) (Machine.core (moveBank s c d) d) (moveBank s c d).cycle)) c
    (vacated (Machine.core s c))
/-- The queues that are linked with a core that moved follow it. -/
def relinkAll (s : State) (c d : Nat) : State := { s with cores := s.cores.map (fun (e : Nat × Core) => (e.1, relinked c d e.2)) }
/-- The entries and the ranks that name a core that moved are told. -/
def retold (s : State) (x : Launch) (c d : Nat) : State :=
  let s := tellMoved s [(⟨c, 32⟩, ⟨d, 32⟩)]
  let ents := entriesOf s x.table s.fab.modnum c
  setBindg (tellRanks (rebind s x.table c d) x ents) x.table [d]
/-- The module as the new core has its names, its links and its generation. -/
def rehomed (s : State) (x : Launch) (c d : Nat) : State :=
  retold (relinkAll (leaveCluster (renState (moveRef (Machine.core s c) c d) (swapped s c d)) x (clusterOf c)) c d) x c d
/-- The old core forwards, and the units are asked to drain. -/
def forwarded (s : State) (l : Nat) (x : Launch) (c d : Nat) : State :=
  let s := modCore s c (fun y => { y with fwd := some ⟨l, x.djob, d, (Machine.core s d).bindg.toNat⟩ })
  let us := unitsOf s l
  let s := { s with moves := s.moves.map (fun m => if m.frm = c then { m with drains := us } else m) }
  us.foldl (fun s u => post s (.drainAck c u)) s
theorem moveCore_eq (s : State) (l : Nat) (x : Launch) (c d : Nat) : moveCore s l x c d = forwarded (rehomed (restOf s c) x c d)
    l x c d := rfl
theorem foldl_post_cores {α : Type} (f : α → Ev) (m : List α) (s : State) : (m.foldl (fun s b => post s (f b)) s).cores =
    s.cores := by
  induction m generalizing s with
  | nil => rfl
  | cons e m ih => exact ih (post s (f e))
theorem forwarded_cores (s : State) (l : Nat) (x : Launch) (c d : Nat) : (forwarded s l x c d).cores =
    (modCore s c fun y => { y with fwd := some ⟨l, x.djob, d, (Machine.core s d).bindg.toNat⟩ }).cores := by
  unfold forwarded
  exact foldl_post_cores ..
theorem binds_relinkAll (s : State) (c d : Nat) : Binds s (relinkAll s c d) :=
  binds_mapCores s (f := fun _ => relinked c d) (fun _ _ => ⟨rfl, rfl⟩)
theorem binds_retold (s : State) (x : Launch) (c d : Nat) : Binds s (retold s x c d) := by
  unfold retold
  dsimp only
  exact (binds_cores (((aloof_tellMoved ..).trans (aloof_rebind ..)).trans (aloof_tellRanks ..)).cores).trans (binds_setBindg ..)
theorem binds_rehomed (s : State) (x : Launch) (c d : Nat) : Binds (swapped s c d) (rehomed s x c d) :=
  (((binds_renState ..).trans (binds_leaveCluster ..)).trans (binds_relinkAll ..)).trans (binds_retold ..)
theorem vacated_launch (x : Core) : (vacated x).launch = none := rfl
theorem newHome_launch (x y : Core) (n : Nat) : (newHome x y n).launch = x.launch := rfl
theorem newHome_stopped (x y : Core) (n : Nat) : (newHome x y n).stopped = false := rfl
theorem moveCore_spec (s : State) {l c d : Nat} (x : Launch) (hcd : c ≠ d) (hc : (Machine.core s c).launch = some l) :
    (Machine.core (moveCore s l x c d) c).launch = none ∧ (Machine.core (moveCore s l x c d) d).launch = some l
    ∧ (Machine.core (moveCore s l x c d) d).stopped = false
    ∧ ∃ f, (Machine.core (moveCore s l x c d) c).fwd = some f ∧ f.launch = l ∧ f.dest = d := by
  have hb := binds_rehomed (restOf s c) x c d
  have hr : (Machine.core (restOf s c) c).launch = some l := ((rests_toRest ..).launch c).trans hc
  have hsc : Machine.core (swapped (restOf s c) c d) c = vacated (Machine.core (restOf s c) c) := core_setCore_self ..
  have hsd : Machine.core (swapped (restOf s c) c d) d = newHome (Machine.core (restOf s c) c)
      (Machine.core (moveBank (restOf s c) c d) d) (moveBank (restOf s c) c d).cycle := by
    rw [swapped, core_setCore, if_neg (Ne.symm hcd), core_setCore_self]
  rw [moveCore_eq]
  generalize rehomed (restOf s c) x c d = u at hb
  have hcore : ∀ k, Machine.core (forwarded u l x c d) k = Machine.core (modCore u c fun y =>
      { y with fwd := some ⟨l, x.djob, d, (Machine.core u d).bindg.toNat⟩ }) k := fun k => by
    rw [Machine.core, forwarded_cores]; rfl
  rw [hcore c, hcore d, core_modCore_self, core_modCore, if_neg (Ne.symm hcd)]
  refine ⟨?_, ?_, ?_, _, rfl, rfl, rfl⟩
  · show (Machine.core u c).launch = none
    rw [(hb.core c).1, hsc]; exact vacated_launch _
  · rw [(hb.core d).1, hsd, newHome_launch, hr]
  · rw [(hb.core d).2, hsd, newHome_stopped]

end

/-! ## The steps of a move (R75, R308) -/

section
variable {s : State} {l c d : Nat} {x : Launch} {m : Move}

theorem rests_sendRecalls (s : State) (d : Nat) : ∃ n k p, sendRecalls s [d] = { s with freeN := n, cores := k, pending := p } :=
    by
  show ∃ n k p, (if (Machine.core s d).victim = true then _ else s) = _
  split
  · exact ⟨_, _, _, rfl⟩
  · exact ⟨_, _, _, rfl⟩
theorem preempt_spec (hp : s.sl.phase = .open_) (hm : s.moves = [m]) (hf : m.frm = c) (hd : m.drains = [])
    (hs : (Machine.core s c).stopped = false) (ht : moveTo s c = some d) : (Machine.core (preempt s c) c).stopped = true
      ∧ (preempt s c).mem = s.mem ∧ (preempt s c).moves = [{ m with dst := d }] := by
  have hdue : (m.frm == c && m.drains == []) = true := by rw [hf, hd]; simp
  have hgo : preemptMoves s c = true := by
    rw [preemptMoves, hp, hm, List.any_cons, hdue, Bool.true_or, if_pos rfl, hs, if_neg Bool.false_ne_true, ht]; rfl
  have hpre : preempt s c = post (stopCore (sendRecalls { s with moves := [{ m with dst := d }] } [d]) c) s.ev := by
    rw [preempt, hgo, hm, List.find?_cons, hdue]
    dsimp only
    rw [if_neg (by decide), hs, if_neg Bool.false_ne_true, ht]
    dsimp only
    rw [List.map_singleton, if_pos hf]
  obtain ⟨n, k, p, hr⟩ := rests_sendRecalls { s with moves := [{ m with dst := d }] } d
  rw [hr] at hpre
  have hstop := rests_stopCore { s with moves := [{ m with dst := d }], freeN := n, cores := k, pending := p } c
  rw [hpre]
  exact ⟨stopped_stopCore .., hstop.mem, hstop.moves⟩
theorem streamed_spec (hm : s.moves = [m]) (hf : m.frm = c) (hd : m.dst = d) (hl : m.launch = l)
    (hx : fget s.launches l = some x) (hc : (Machine.core s c).launch = some l) (hs : canStream s c d = true)
    (hv : (Machine.core s d).victim = false) (hr : cpStops s x.table 40960 = false) :
    streamed s c d = moveCore (cpReads s x.table 40960) l x c d := by
  have hback : streamBack s c d = false := by
    simp only [canStream, Bool.and_eq_true, Bool.not_eq_true'] at hs
    exact hs.1.1.1.2
  have hfind : s.moves.find? (fun m => m.frm == c && m.dst == d) = some m := by
    rw [hm, List.find?_cons, hf, hd, beq_self_eq_true, beq_self_eq_true]; rfl
  rw [streamed, hfind]
  dsimp only
  rw [hl, hx]
  dsimp only
  rw [if_neg (not_not.2 hc), hback, if_neg Bool.false_ne_true, hs, hv, if_neg Bool.false_ne_true, if_neg (by decide)]
  exact cpLook_serves hr _

end

section
variable {s : State} {l : Nat} {x : Launch} {m : Move}

theorem exec_retirement (hx : fget s.launches l = some x) :
    exec .retirement (facing s (.retirement l)) = .next (retireStep (facing s (.retirement l)) l x) := by
  rw [show exec .retirement (facing s (.retirement l)) = execRetirement (facing s (.retirement l)) from rfl, execRetirement]
  simp only [facing_ev]
  rw [show (facing s (.retirement l)).launches = s.launches from rfl, hx]
theorem retireStep_quiet (hs : x.stage = .running) (hq : quiescent s l x = true) : retireStep s l x = endQuiet s l := by
  rw [retireStep, hs, hq]; rfl
theorem retireStep_ended (hs : x.stage = .stopping) (hf : x.frozen = true) (ho : outReady s l = true) :
    retireStep s l x = endLaunch s l := by
  rw [retireStep, hs]
  exact if_pos ⟨hf, ho⟩
theorem msgOf_facing (s : State) (e : Ev) : msgOf (facing s e) l = msgOf s l := by
  funext a; cases a <;> rfl
theorem admDone_keeps (s : State) (n : Nat) : (admDone s n).cores = s.cores ∧ (admDone s n).moves = s.moves := by
  unfold admDone admEnd; split <;> exact ⟨rfl, rfl⟩
/-- The module without a forwarding entry and the move that it served. -/
def unforwarded (s : State) (c : Nat) : State :=
  modCore { s with moves := s.moves.filter (fun m => m.frm != c) } c (fun x => { x with fwd := none })
theorem gate_spec {c : Nat} (hc : (Machine.core s c).launch = none) (hm : ∀ m ∈ s.moves, m.dst ≠ c) :
    exec .corePowerGating (facing s (.corePowerGating c true)) =
      .next (modCore (facing s (.corePowerGating c true)) c (fun x => { x with gated := true, tlb := [], tlbNext := 0 })) := by
  have hno : ¬ ((Machine.core s c).launch.isSome = true ∨ s.moves.any (fun m => m.dst == c) = true) := by
    rw [hc, List.any_eq_true]
    rintro (h | ⟨m, h, h'⟩)
    · cases h
    · exact hm m h (beq_iff_eq.1 h')
  exact congrArg Host.Outcome.next (if_neg hno)
theorem exec_drainAck {c u : Nat} (hm : s.moves = [m]) (hf : m.frm = c) (hd : m.drains = [u]) (hu : unitBusy s u = false) :
    exec .drainAck (facing s (.drainAck c u)) =
      .next (post { facing s (.drainAck c u) with moves := [{ m with drains := [] }] } (.retireForwarding c)) := by
  have hmap : s.moves.map (fun m => if m.frm = c then { m with drains := m.drains.erase u } else m) =
    [{ m with drains := [] }] := by
    rw [hm, List.map_singleton, if_pos hf, hd, List.erase_cons_head]
  have hany : ([{ m with drains := [] }] : List Move).any (fun m => m.frm == c && m.drains == []) = true := by
    rw [List.any_cons, hf]; simp
  rw [show exec .drainAck (facing s (.drainAck c u)) = execDrainAck (facing s (.drainAck c u)) from rfl, execDrainAck]
  simp only [facing_ev]
  rw [show unitBusy (facing s (.drainAck c u)) u = unitBusy s u from rfl, hu, if_neg Bool.false_ne_true,
    show (facing s (.drainAck c u)).moves = s.moves from rfl, hmap, if_pos hany]

end

/-- Settles O44. -/
theorem movesAndRetirement : Obligations.MovesAndRetirement := by
  unfold Obligations.MovesAndRetirement
  intro s l x hx
  refine ⟨fun m hm hl => ?_, fun hs hf ho => ?_, fun hs hc hr hp hj => ?_, fun c d m hp hm hf hd hs ht => ?_,
    fun c d m hm hf hd hl hcd hc hs hv hr => ?_, fun c u m hm hf hd hu => ?_, fun c => ?_, fun cls h hv hw hc => ?_,
    fun c hc hm => ?_⟩
  · obtain ⟨y, h1, h2, h3, h4⟩ := froze_spec (s := facing s (.sysMessage m)) hx
    refine ⟨_, y, ?_, h1, h2, h3, h4⟩
    rw [show exec .sysMessage (facing s (.sysMessage m)) = execSysMessage (facing s (.sysMessage m)) from rfl, execSysMessage]
    rw [show (facing s (.sysMessage m)).ev = .sysMessage m from rfl]
    dsimp only
    rw [cpUnit, if_pos hm, hl]
  · refine ⟨_, _, (exec_retirement hx).trans (congrArg Host.Outcome.next
      (retireStep_ended hs hf ((outReady_facing ..).trans ho))), endLaunch_spec (s := facing s (.retirement l)) hx, rfl, rfl⟩
  · obtain ⟨t, ht, hq, he⟩ := endQuiet_spec (s := facing s (.retirement l)) hx
    obtain ⟨k, p, rfl⟩ := ht.eq
    have hquiet : quiescent (facing s (.retirement l)) l x = true :=
      quiescent_of hc hr (fun e h => (congrFun (msgOf_facing s _) e).trans (hp e h)) hj
    refine ⟨_, _, (exec_retirement hx).trans (congrArg Host.Outcome.next ((retireStep_quiet hs hquiet).trans he)),
      fget_fset_self .., rfl, rfl, fun g hg => ?_, hq, ?_, rfl, rfl⟩
    · obtain ⟨g', -, rfl⟩ := List.mem_map.1 hg
      rfl
    · show (x.paused || _) = true ↔ _
      rw [Bool.or_eq_true, List.any_eq_true]
      exact or_congr Iff.rfl (exists_congr fun c => and_congr Iff.rfl bne_iff_ne)
  · obtain ⟨h1, h2, h3⟩ := preempt_spec (s := facing s (.preemption c)) hp hm hf hd hs ht
    exact ⟨_, rfl, h1, h2, h3⟩
  · have hgo := streamed_spec (s := facing s (.contextStreamComplete c d)) hm hf hd hl hx hc
      ((canStream_facing ..).trans hs) hv hr
    have ha := aloof_cpReads (facing s (.contextStreamComplete c d)) x.table 40960
    obtain ⟨h1, h2, h3, h4⟩ := moveCore_spec (cpReads (facing s (.contextStreamComplete c d)) x.table 40960) x hcd
      ((congrArg (·.launch) (ha.core c)).trans hc)
    exact ⟨_, congrArg Host.Outcome.next hgo, h1, h2, h3, h4⟩
  · exact ⟨_, exec_drainAck hm hf hd hu, rfl, rfl⟩
  · obtain ⟨hk, hm⟩ := admDone_keeps (unforwarded (facing s (.retireForwarding c)) c) 0
    refine ⟨admDone (unforwarded (facing s (.retireForwarding c)) c) 0, rfl, ?_, hm⟩
    rw [Machine.core, hk]
    exact congrArg (·.fwd) (core_modCore_self _ c fun x => { x with fwd := none })
  · obtain ⟨y, h1, h2, h3, h4, -⟩ := readmitGo_runs (s := facing s (.readmission l)) ((readmitTo_facing ..).trans h) hv hw hc
    exact ⟨_, y, rfl, h1, h2, h3, h4⟩
  · exact ⟨_, gate_spec hc hm, core_modCore_self .., _, rfl, core_modCore_self ..⟩

end Sys2Proof.Proofs.Retirement
end

section
/-!
PROOFS. WHAT STATEMENT O38 RESTS ON. The status and counter words of a job, and the instructions that name one by its id
(R211, R212, R220, R223, R224); the proof of statement O38.
-/
namespace Sys2Proof.Proofs.JobStatus
open Sys2Proof Sys2Proof.Machine DeviceMemory Seals Retirement

/-! ## The words of a job (R212, R220, R223) -/

section
variable {r : JobRec} {u : Nat}

/-- A participant that has stopped with a code. -/
def stoppedWith (x : SubRec) : Bool := x.ended && x.code != 0
/-- The mask with the participants from place `k` up. -/
def addStops (m : List SubRec) (k a : Nat) : Nat :=
  (m.zipIdx k).foldl (fun a e => if e.1.ended ∧ e.1.code ≠ 0 then a + 2 ^ e.2 else a) a
theorem addStops_cons (x : SubRec) (m : List SubRec) (k a : Nat) :
    addStops (x :: m) k a = addStops m (k + 1) (if stoppedWith x then a + 2 ^ k else a) := by
  rw [addStops, List.zipIdx_cons, List.foldl_cons, addStops]
  congr 1
  by_cases h : x.ended = true ∧ x.code ≠ 0
  · rw [if_pos h, if_pos (by simpa [stoppedWith] using h)]
  · rw [if_neg h, if_neg (by simpa [stoppedWith] using h)]
/-- Bit `p` of the mask says whether participant `p` has stopped. -/
theorem testBit_addStops (m : List SubRec) {k a : Nat} (ha : a < 2 ^ k) (p : Nat) :
    (addStops m k a).testBit p = if p < k then a.testBit p else (m[p - k]?).any stoppedWith := by
  induction m generalizing k a with
  | nil =>
    by_cases hp : p < k
    · rw [if_pos hp]; rfl
    · rw [if_neg hp]
      exact Nat.testBit_lt_two_pow (Nat.lt_of_lt_of_le ha (Nat.pow_le_pow_right (by omega) (by omega)))
  | cons x m ih =>
    have hpow : 2 ^ (k + 1) = 2 ^ k + 2 ^ k := by rw [Nat.pow_succ]; omega
    have ha' : (if stoppedWith x then a + 2 ^ k else a) < 2 ^ (k + 1) := by split <;> omega
    rw [addStops_cons, ih ha']
    rcases Nat.lt_trichotomy p k with hp | hp | hp
    · rw [if_pos (show p < k + 1 by omega), if_pos hp]
      cases stoppedWith x with
      | true => rw [if_pos rfl, Nat.add_comm, Nat.testBit_two_pow_add_gt hp]
      | false => rw [if_neg Bool.false_ne_true]
    · subst hp
      have h0 : a.testBit p = false := Nat.testBit_lt_two_pow ha
      rw [if_pos (show p < p + 1 by omega), if_neg (show ¬ p < p by omega), Nat.sub_self, List.getElem?_cons_zero,
        Option.any_some]
      cases stoppedWith x with
      | true => rw [if_pos rfl, Nat.add_comm, Nat.testBit_two_pow_add_eq, h0]; rfl
      | false => rw [if_neg Bool.false_ne_true, h0]
    · rw [if_neg (show ¬ p < k + 1 by omega), if_neg (show ¬ p < k by omega), show p - k = (p - (k + 1)) + 1 by omega,
        List.getElem?_cons_succ]
theorem testBit_stopMask (r : JobRec) (p : Nat) : (stopMask r).testBit p = (r.gang && (r.subs[p]?).any stoppedWith) := by
  rw [stopMask]
  cases r.gang with
  | false => rw [if_neg Bool.false_ne_true, Nat.zero_testBit]; rfl
  | true =>
    rw [if_pos rfl, Bool.true_and]
    exact (testBit_addStops r.subs (k := 0) (a := 0) (by omega) p).trans (if_neg (by omega))
theorem bits_ofNat {n h l : Nat} (hn : n < 2 ^ 64) : bits (BitVec.ofNat 64 n) h l = n / 2 ^ l % 2 ^ (h + 1 - l) := by
  rw [bits, BitVec.toNat_ofNat, Nat.mod_eq_of_lt hn]
/-- The fields of the status word. -/
theorem statusWord_fields (r : JobRec) (x : SubRec) : bits (statusWord r x) 7 0 = x.code % 256
    ∧ bits (statusWord r x) 15 8 = stopMask r % 256 ∧ bits (statusWord r x) 31 16 = x.knext % 65536
    ∧ bits (statusWord r x) 32 32 = (if r.final then 1 else 0) ∧ bits (statusWord r x) 47 33 = 0
    ∧ bits (statusWord r x) 63 48 = x.strip % 65536 := by
  have h1 := Nat.mod_lt x.code (show 256 > 0 by omega)
  have h2 := Nat.mod_lt (stopMask r) (show 256 > 0 by omega)
  have h3 := Nat.mod_lt x.knext (show 65536 > 0 by omega)
  have h4 := Nat.mod_lt x.strip (show 65536 > 0 by omega)
  have h5 : (if r.final then 2 ^ 32 else 0) = (if r.final then 1 else 0) * 4294967296 := by split <;> rfl
  have h6 : (if r.final then 1 else 0) < 2 := by split <;> omega
  unfold statusWord
  rw [h5]
  generalize x.code % 256 = a at *
  generalize stopMask r % 256 = b at *
  generalize x.knext % 65536 = c at *
  generalize x.strip % 65536 = d at *
  generalize (if r.final then 1 else 0) = f at *
  refine ⟨?_, ?_, ?_, ?_, ?_, ?_⟩ <;> rw [bits_ofNat (by omega)] <;> omega
/-- The lowest of the participants' numbers, and their first code. -/
def foldSubs (a : SubRec) (m : List SubRec) : SubRec := m.foldl (fun a x =>
  { a with knext := min a.knext x.knext, strip := min a.strip x.strip, code := if a.code = 0 then x.code else a.code }) a
theorem foldSubs_knext (m : List SubRec) (a : SubRec) : (foldSubs a m).knext = m.foldl (fun n x => min n x.knext) a.knext := by
  induction m generalizing a with
  | nil => rfl
  | cons x m ih => exact ih _
theorem foldSubs_strip (m : List SubRec) (a : SubRec) : (foldSubs a m).strip = m.foldl (fun n x => min n x.strip) a.strip := by
  induction m generalizing a with
  | nil => rfl
  | cons x m ih => exact ih _
theorem foldSubs_code (m : List SubRec) (a : SubRec) :
    (foldSubs a m).code = if a.code = 0 then ((m.map (·.code)).find? (· ≠ 0)).getD 0 else a.code := by
  induction m generalizing a with
  | nil =>
    by_cases h : a.code = 0
    · rw [if_pos h]; exact h
    · rw [if_neg h]; rfl
  | cons x m ih =>
    refine (ih _).trans ?_
    by_cases h : a.code = 0
    · by_cases hx : x.code = 0
      · simp [h, hx]
      · simp [h, hx]
    · simp [h]
/-- The least of a number over a list that is not empty. -/
theorem min_fold (f : SubRec → Nat) (m : List SubRec) (n : Nat) : m.foldl (fun n x => min n (f x)) n ≤ n
    ∧ (∀ y ∈ m, m.foldl (fun n x => min n (f x)) n ≤ f y)
    ∧ (m.foldl (fun n x => min n (f x)) n = n ∨ ∃ x ∈ m, f x = m.foldl (fun n x => min n (f x)) n) := by
  induction m generalizing n with
  | nil => exact ⟨Nat.le_refl _, by simp, .inl rfl⟩
  | cons x m ih =>
    obtain ⟨h1, h2, h3⟩ := ih (min n (f x))
    rw [List.foldl_cons]
    refine ⟨by omega, fun y hy => ?_, ?_⟩
    · rcases List.mem_cons.1 hy with rfl | hy
      · omega
      · exact h2 y hy
    · rcases h3 with h | ⟨y, hy, h⟩
      · rcases Nat.le_total n (f x) with hn | hn
        · exact .inl (by omega)
        · exact .inr ⟨x, List.mem_cons_self, by omega⟩
      · exact .inr ⟨y, List.mem_cons_of_mem _ hy, h⟩
theorem least_head (f : SubRec → Nat) (x : SubRec) (m : List SubRec) :
    ∃ y ∈ x :: m, (x :: m).foldl (fun n x => min n (f x)) (f x) = f y ∧ ∀ z ∈ x :: m, f y ≤ f z := by
  obtain ⟨-, h2, h3⟩ := min_fold f (x :: m) (f x)
  rcases h3 with h | ⟨y, hy, h⟩
  · exact ⟨x, List.mem_cons_self, h, fun z hz => h ▸ h2 z hz⟩
  · exact ⟨y, hy, h.symm, fun z hz => h ▸ h2 z hz⟩
/-- What the summary of a record holds. -/
theorem summary_spec (hr : r.subs ≠ []) : (∃ x ∈ r.subs, (summary r).knext = x.knext ∧ ∀ y ∈ r.subs, x.knext ≤ y.knext)
    ∧ (∃ x ∈ r.subs, (summary r).strip = x.strip ∧ ∀ y ∈ r.subs, x.strip ≤ y.strip)
    ∧ (summary r).code = ((r.subs.map (·.code)).find? (· ≠ 0)).getD 0 := by
  obtain ⟨x, m, hm⟩ := List.exists_cons_of_ne_nil hr
  have hs : summary r = foldSubs x (x :: m) := by rw [summary, hm]; rfl
  rw [hs, hm, foldSubs_knext, foldSubs_strip, foldSubs_code]
  refine ⟨least_head _ x m, least_head _ x m, ?_⟩
  by_cases h : x.code = 0
  · rw [if_pos h]
  · simp [h]
theorem subOf_mine {x : SubRec} (hg : r.gang = true) (hx : r.subs.find? (fun x => x.unit == u) = some x) : subOf r u = x := by
  rw [subOf, if_pos hg, hx]; rfl
theorem subOf_summary (h : r.gang = false ∨ r.subs.find? (fun x => x.unit == u) = none) : subOf r u = summary r := by
  rw [subOf]
  rcases h with h | h
  · rw [h, if_neg Bool.false_ne_true]
  · split
    · rw [h]; rfl
    · rfl
theorem packed_fields {a b c : Nat} (ha : a < 65536) (hb : b < 65536) (hc : c < 65536) :
    bits (BitVec.ofNat 64 (a + 2 ^ 16 * b + 2 ^ 32 * c)) 15 0 = a ∧ bits (BitVec.ofNat 64 (a + 2 ^ 16 * b + 2 ^ 32 * c)) 31 16 = b
    ∧ bits (BitVec.ofNat 64 (a + 2 ^ 16 * b + 2 ^ 32 * c)) 47 32 = c ∧ bits (BitVec.ofNat 64 (a + 2 ^ 16 * b + 2 ^ 32 * c)) 63
      48 = 0 := by
  refine ⟨?_, ?_, ?_, ?_⟩ <;> rw [bits_ofNat (by omega)] <;> omega
theorem counterWord_mine {x : SubRec} (hx : r.subs.find? (fun x => x.unit == u) = some x) :
    counterWord r u = BitVec.ofNat 64 (x.sat + 2 ^ 16 * x.nan + 2 ^ 32 * x.bso) := by rw [counterWord, hx]
theorem counterWord_sums (h : r.subs.find? (fun x => x.unit == u) = none) : counterWord r u =
    BitVec.ofNat 64 (cap16 (r.subs.map (·.sat)).sum + 2 ^ 16 * cap16 (r.subs.map (·.nan)).sum + 2 ^ 32 * cap16
      (r.subs.map (·.bso)).sum) := by
  rw [counterWord, h]
theorem cap16_lt (n : Nat) : cap16 n < 65536 := by unfold cap16; omega

end

/-! ## The instructions on a job (R211, R223, R224) -/

section
variable {s t : State} {d b : Reg} {op : JobOp} {mine : State → Word → Bool} {cause : Word → Cause}

theorem jobI_teller (h : QueuesReady s [b] [d]) (ht : homeTeller (me s) = true) : jobI op d b mine cause s = trapMe s 0x07
    (rd s b) := by
  rw [jobI, runI_ready h]
  dsimp only
  rw [if_pos ht]; rfl
theorem jobI_foreign {m : Nat} (h : QueuesReady s [b] [d]) (ht : homeTeller (me s) = false)
    (hf : foreignMod (me s).home.core = some m) : jobI op d b mine cause s =
      asked (emit (modMe s (fun t => { t with long := true })) m .adaptive (.jobReq ⟨op,
        ⟨foreignCore (me s).home.core, (me s).home.slot⟩, rd s b, d, .away s.fab.modnum (32 * s.cur.core + s.cur.slot)⟩)) 2 [b]
        (d == 31) .dflt := by
  rw [jobI, runI_ready h]
  dsimp only
  rw [ht, if_neg Bool.false_ne_true, hf]; rfl
section
variable (h : QueuesReady s [b] [d]) (ht : homeTeller (me s) = false) (hf : foreignMod (me s).home.core = none)
include h ht hf
theorem jobI_val {x : Word} (ho : op ≠ .count) (hj : jobAt s op (me s).home.core (rd s b) (mine s (rd s b)) = (t, .val x)) :
    jobI op d b mine cause s = passed (wr t d x) 2 [b] := by
  rw [jobI, runI_ready h]
  dsimp only
  rw [ht, if_neg Bool.false_ne_true, hf]
  dsimp only
  rw [hj]
  dsimp only
  rw [if_neg ho]; rfl
theorem jobI_count {x : Word} (hj : jobAt s .count (me s).home.core (rd s b) (mine s (rd s b)) = (t, .val x)) :
    jobI .count d b mine cause s = asked (post t (.reply t.cur (.writes [(d, x)]))) 2 [b] (d == 31) .dflt := by
  rw [jobI, runI_ready h]
  dsimp only
  rw [ht, if_neg Bool.false_ne_true, hf]
  dsimp only
  rw [hj]; rfl
theorem jobI_trap {code : Nat} {v : Word} (hj : jobAt s op (me s).home.core (rd s b) (mine s (rd s b)) = (t, .trap code v)) :
    jobI op d b mine cause s = trapMe t code v := by
  rw [jobI, runI_ready h]
  dsimp only
  rw [ht, if_neg Bool.false_ne_true, hf]
  dsimp only
  rw [hj]; rfl
end

variable {home cl bank : Nat} {id : Word} {copy m : Bool} {r : JobRec}

theorem jobAt_bad (hj : jobRef s (clusterOf home) id = .bad) : jobAt s op home id m = (s, .trap 0x07 id) := by
  simp only [jobAt, hj]
theorem jobAt_test (hj : jobRef s (clusterOf home) id = .job copy bank r) :
    jobAt s .test home id m = (s, .val (statusWord r (subOf r (unitOf home)))) := by
  simp only [jobAt, hj]
theorem jobAt_count (hj : jobRef s (clusterOf home) id = .job copy bank r) :
    jobAt s .count home id m = (s, .val (if copy then 0 else counterWord r (unitOf home))) := by
  simp only [jobAt, hj]
theorem jobAt_wait (hj : jobRef s (clusterOf home) id = .job copy bank r) :
    jobAt s .wait home id m = jwaitAt s home id (clusterOf home) copy bank := by
  simp only [jobAt, hj]
theorem jobAt_cancel (hj : jobRef s (clusterOf home) id = .job copy bank r) :
    jobAt s .cancel home id m = jcancAt s id (clusterOf home) copy m r := by
  simp only [jobAt, hj]
theorem jwaitAt_final (hp : copy = true ∨ pausedFor s cl id.toNat = none) (hj : jobRef s cl id = .job copy bank r)
    (hr : r.final = true) (hm : mustTell copy r (unitOf home) = none) :
    jwaitAt s home id cl copy bank = (s, .val (statusWord r (subOf r (unitOf home)))) := by
  have hp' : (if copy then none else pausedFor s cl id.toNat) = none := by
    rcases hp with h | h
    · exact if_pos h
    · rw [h, ite_self]
  have hend : jwaitEnd s id cl (unitOf home) copy bank = (s, .val (statusWord r (subOf r (unitOf home)))) := by
    rw [jwaitEnd, hj]
    dsimp only
    rw [if_pos hr, hm]
  rw [jwaitAt, hp']
  exact hend
theorem jwaitAt_paused {q : MxJob} {code : Nat} {va : Word} (hp : pausedFor s cl id.toNat = some q) (hb : q.bank = bankOf s home)
    (ht : q.told = false) (hq : q.pause = some (code, va)) : jwaitAt s home id cl false bank =
      (mxPut s cl { q with told := true }, .trap (if code = 3 then 0x06 else 0x05) va) := by
  rw [jwaitAt, if_neg Bool.false_ne_true, hp]
  dsimp only
  rw [if_pos hb, ht, hq]
  by_cases h : code = 3
  · subst h; rfl
  · rw [if_neg h, if_pos (by rfl), if_neg (by simpa using h)]; rfl

/-! ### A job that is cancelled before it begins (R224) -/

/-- An id of a matrix job: what it says, and the record that it names. -/
structure NamesRec (s : State) (cl : Nat) (id : Word) (bank : Nat) (r : JobRec) : Prop where
  good : ¬ (bits id 63 21 ≠ 0 ∨ (!(bits id 16 16 == 1)) = true ∧ bits id 20 20 = 1)
  kind : (bits id 16 16 == 1) = false
  inBank : idBank id = bank
  rec_ : (mxBank s cl bank).recs.find? (fun r => r.seq == bits id 15 0) = some r
  plain : ¬ (bits id 20 20 = 1 ∧ bits id 19 17 ≠ 0)
theorem namesRec_iff : jobRef s cl id = .job false bank r ↔ NamesRec s cl id bank r := by
  rw [jobRef]
  dsimp only
  constructor
  · intro h
    split at h
    · cases h
    · next hg =>
      split at h
      · next r' hr =>
        split at h
        · cases h
        · next hp =>
          injection h with h1 h2 h3
          subst h2 h3
          rw [h1, if_neg Bool.false_ne_true] at hr
          exact ⟨hg, h1, rfl, hr, hp⟩
      · cases h
  · rintro ⟨hg, hk, hb, hr, hp⟩
    rw [if_neg hg, hk, if_neg Bool.false_ne_true, hb, hr]
    dsimp only
    rw [if_neg hp]
/-- The record that a change leaves under its own id. -/
theorem jobRef_modRec {f : JobRec → JobRec} (hj : jobRef s cl id = .job false bank r) (hf : (f r).seq = r.seq) :
    jobRef (modRec s cl id.toNat f) cl id = .job false bank (f r) := by
  have hn := namesRec_iff.1 hj
  have hseq : (r.seq == bits id 15 0) = true := List.find?_some (p := fun r : JobRec => r.seq == bits id 15 0) hn.rec_
  have hm : modRec s cl id.toNat f = modBank s cl bank (fun b => { b with recs := putRec b.recs (f r) }) := by
    rw [modRec, BitVec.ofNat_toNat, BitVec.setWidth_eq, hj]; rfl
  have hbank : (mxBank (modBank s cl bank (fun b => { b with recs := putRec b.recs (f r) })) cl bank).recs =
      putRec (mxBank s cl bank).recs (f r) := by
    rw [mxBank, modBank, cluster_modCluster, if_pos rfl]
    dsimp only
    rw [fget_fset_self]; rfl
  rw [hm]
  refine namesRec_iff.2 ⟨hn.good, hn.kind, hn.inBank, ?_, hn.plain⟩
  rw [hbank, putRec, List.find?_cons, hf, hseq]
theorem jobRef_congr {u : State} (hb : ∀ b, mxBank u cl b = mxBank s cl b) (hc : ∀ b, cpRecs u cl b = cpRecs s cl b) :
    jobRef u cl id = jobRef s cl id := by
  rw [jobRef, jobRef]
  simp only [hb, hc]
/-- The record of a job that has ended without a start. -/
def endedRec (r : JobRec) : JobRec :=
  { r with final := true, subs := (r.subs.mapIdx (fun _ x => if x.ended then x else
      { x with code := 1, fval := 0, ended := true })).map (fun x => { x with ended := true }) }
theorem modRec_clusters (s : State) (c n : Nat) (f : JobRec → JobRec) : ∃ k, modRec s c n f = { s with clusters := k } := by
  unfold modRec setRec modBank
  split
  · split <;> exact ⟨_, rfl⟩
  · exact ⟨_, rfl⟩
theorem mxEnd_plain {j : MxJob} (hid : j.id = id.toNat) (hbars : j.bars = []) (hj : jobRef s cl id = .job false bank r) :
    (∃ k, mxEnd s cl j 1 0 = { s with clusters := k }) ∧ jobRef (mxEnd s cl j 1 0) cl id = .job false bank (endedRec r) := by
  obtain ⟨k, hk⟩ := modRec_clusters s cl id.toNat fun r => { r with subs := r.subs.mapIdx fun i x =>
    if x.ended then x else { x with code := 1, fval := 0, ended := true } }
  have h1 := jobRef_modRec (f := fun r => { r with subs := r.subs.mapIdx fun i x =>
    if x.ended then x else { x with code := 1, fval := 0, ended := true } }) hj rfl
  unfold mxEnd mxFinal modSubs
  dsimp only
  rw [hbars, List.foldl_nil, hid, hk]
  rw [hk] at h1
  have h2 : jobRef (modCluster { s with clusters := k } cl fun x => { x with mxq := x.mxq.filter (fun e => e.id != id.toNat) })
    cl id =
      jobRef { s with clusters := k } cl id := by
    refine jobRef_congr (fun b => ?_) fun b => ?_
    · rw [mxBank, cluster_modCluster, if_pos rfl]; rfl
    · rw [cpRecs, cluster_modCluster, if_pos rfl]; rfl
  obtain ⟨k', hk'⟩ := modRec_clusters (modCluster { s with clusters := k } cl fun x =>
    { x with mxq := x.mxq.filter (fun e => e.id != id.toNat) }) cl id.toNat fun r =>
      { r with final := true, subs := r.subs.map fun x => { x with ended := true } }
  exact ⟨⟨k', hk'⟩, jobRef_modRec (h2.trans h1) rfl⟩
/-- A job that has not begun is cancelled. -/
theorem jcancAt_unbegun {j : MxJob} (hj : jobRef s cl id = .job false bank r) (hf : r.final = false) (hb : r.began = false)
    (hq : (cluster s cl).mxq.find? (fun e => e.id == id.toNat) = some j) (hs : j.started = false) (hbars : j.bars = []) :
    jcancAt s id cl false m r = (mxEnd s cl j 1 0, .val 0) := by
  have hid : j.id = id.toNat := by simpa using List.find?_some hq
  have hrec : recOf s cl id.toNat = r := by rw [recOf, BitVec.ofNat_toNat, BitVec.setWidth_eq, hj]
  have hc : cancelJob s cl false id.toNat = mxEnd s cl j 1 0 := by
    rw [cancelJob, if_neg Bool.false_ne_true, hq]
    dsimp only
    rw [hrec, hb, hs]
    exact if_pos (.inr ⟨rfl, rfl⟩)
  rw [jcancAt, hf, if_neg Bool.false_ne_true, hc]
  dsimp only
  rw [(mxEnd_plain hid hbars hj).2]
  dsimp only
  exact if_pos rfl
theorem jcancAt_final (hr : r.final = true) : jcancAt s id cl copy m r = (s, .val (if m then 0 else 1)) := by
  rw [jcancAt, if_pos hr]

end

/-- Settles O38. -/
theorem jobInstructions : Obligations.JobInstructions := by
  unfold Obligations.JobInstructions
  intro s d b h
  refine ⟨fun r => ?_, fun r => ⟨fun x hx h1 h2 h3 => ?_, fun hx => ?_⟩, fun ht o i hi => ?_, fun m ht hf o i hi => ?_, fun ht
    hf =>
    ⟨fun hj i hi => ?_, fun hj => ⟨?_, ?_⟩, fun copy bank r hj => ⟨?_, fun hp hr hm => ?_, fun q code va hc hp hb htold hq => ?_,
      fun hr hw => ?_, fun j hc hr hb hq hs hbars => ?_, ?_⟩⟩⟩
  · obtain ⟨h1, h2, h3, h4, h5, h6⟩ := statusWord_fields r (subOf r (unitOf (me s).home.core))
    refine ⟨h5, h4, fun p hp => ?_, fun x hg hx => ?_, fun hg hr => ?_⟩
    · rw [h2, show (256 : Nat) = 2 ^ 8 from rfl, Nat.testBit_mod_two_pow, testBit_stopMask, decide_eq_true hp, Bool.true_and]
      rfl
    · rw [h1, h3, h6, subOf_mine hg hx]
      exact ⟨rfl, rfl, rfl⟩
    · obtain ⟨⟨x, hx, hxe, hxl⟩, ⟨y, hy, hye, hyl⟩, hcode⟩ := summary_spec hr
      rw [h1, h3, h6, subOf_summary hg, hxe, hye, hcode]
      exact ⟨⟨x, hx, rfl, hxl⟩, ⟨y, hy, rfl, hyl⟩, rfl⟩
  · rw [counterWord_mine hx]
    exact packed_fields h1 h2 h3
  · rw [counterWord_sums hx]
    exact packed_fields (cap16_lt _) (cap16_lt _) (cap16_lt _)
  · simp only [List.mem_cons, Prod.mk.injEq, List.not_mem_nil, or_false] at hi
    rcases hi with ⟨rfl, rfl⟩ | ⟨rfl, rfl⟩ | ⟨rfl, rfl⟩ | ⟨rfl, rfl⟩ <;> exact congrArg Host.Outcome.next (jobI_teller h ht)
  · simp only [List.mem_cons, Prod.mk.injEq, List.not_mem_nil, or_false] at hi
    rcases hi with ⟨rfl, rfl⟩ | ⟨rfl, rfl⟩ | ⟨rfl, rfl⟩ | ⟨rfl, rfl⟩ <;> exact congrArg Host.Outcome.next (jobI_foreign h ht hf)
  · simp only [List.mem_cons, List.not_mem_nil, or_false] at hi
    rcases hi with rfl | rfl | rfl | rfl <;> exact congrArg Host.Outcome.next (jobI_trap h ht hf (jobAt_bad hj))
  · exact congrArg Host.Outcome.next (jobI_val (x := expiredWord) h ht hf (by decide) (by simp only [jobAt, hj]))
  · exact congrArg Host.Outcome.next (jobI_val (x := expiredWord) h ht hf (by decide) (by simp only [jobAt, hj]))
  · exact congrArg Host.Outcome.next (jobI_val h ht hf (by decide) (jobAt_test hj))
  · exact congrArg Host.Outcome.next (jobI_val h ht hf (by decide) ((jobAt_wait hj).trans (jwaitAt_final hp hj hr hm)))
  · subst hc
    exact ⟨_, congrArg Host.Outcome.next (jobI_trap h ht hf ((jobAt_wait hj).trans (jwaitAt_paused hp hb htold hq))), rfl⟩
  · have hm : ((me s).wait == Wait.again (.jobEnd (rd s b))) = false := by rw [hw]; rfl
    have hv : jobAt s .cancel (me s).home.core (rd s b) ((me s).wait == Wait.again (.jobEnd (rd s b))) = (s, .val 1) := by
      rw [hm, jobAt_cancel hj, jcancAt_final hr]; rfl
    exact congrArg Host.Outcome.next (jobI_val h ht hf (by decide) hv)
  · subst hc
    have hid : j.id = (rd s b).toNat := by simpa using List.find?_some hq
    obtain ⟨⟨k, hk⟩, hr'⟩ := mxEnd_plain hid hbars hj
    refine ⟨mxEnd s (clusterOf (me s).home.core) j 1 0, congrArg Host.Outcome.next
      (jobI_val h ht hf (by decide) ((jobAt_cancel hj).trans (jcancAt_unbegun hj hr hb hq hs hbars))), by rw [hk],
      hid ▸ (mxEnd_spec ..).2, _, hr', rfl, fun x hx => ?_⟩
    obtain ⟨y, -, rfl⟩ := List.mem_map.1 hx
    rfl
  · exact congrArg Host.Outcome.next (jobI_count h ht hf (jobAt_count hj))

end Sys2Proof.Proofs.JobStatus
end

section
/-!
PROOFS. WHAT STATEMENT O51 RESTS ON. Ports that come up and go down, frames and the packets that they bring, keys, routing
tables and joining (R369 to R376, R380); the proof of statement O51.
-/
namespace Sys2Proof.Proofs.Fabric
open Sys2Proof Sys2Proof.Machine DeviceMemory Seals

/-! ## Ports and packets (R369, R375) -/

section
variable {s t u : State}

/-- The packets that leave, and the streams that they belong to, are all that differs. -/
structure Sends (s t : State) : Prop where
  eq : ∃ o b, t = { s with fab := { s.fab with ord := o }, fabOut := b }
theorem Sends.refl : Sends s s := ⟨⟨_, _, rfl⟩⟩
theorem Sends.trans (h : Sends s t) (h' : Sends t u) : Sends s u := by
  obtain ⟨o, b, rfl⟩ := h.eq
  obtain ⟨o', b', rfl⟩ := h'.eq
  exact ⟨⟨_, _, rfl⟩⟩
theorem sends_emit (s : State) (d : Nat) (k : TClass) (b : PktBody) : Sends s (emit s d k b) := ⟨⟨_, _, rfl⟩⟩
theorem sends_fold {α : Type} {f : State → α → State} (h : ∀ s a, Sends s (f s a)) (m : List α) (s : State) : Sends s
    (m.foldl f s) := by
  induction m generalizing s with
  | nil => exact .refl
  | cons a m ih => exact (h s a).trans (ih _)
theorem Sends.port (h : Sends s t) (p : Nat) : portSt t p = portSt s p := by obtain ⟨o, b, rfl⟩ := h.eq; rfl
theorem portSt_modPort (s : State) (p : Nat) (f : PortSt → PortSt) : portSt (modPort s p f) p = f (portSt s p) := by
  rw [portSt, modPort, fget_fset_self]; rfl
theorem sends_sayLink (s : State) (n : Nat) (up : Bool) : Sends (setLink s s.fab.modnum n up) (sayLink s n up) :=
  sends_fold (fun s a => sends_emit ..) _ _
theorem portSt_setLink (s : State) (a b : Nat) (up : Bool) (p : Nat) : portSt (setLink s a b up) p = portSt s p := rfl
theorem askJoin_member (h : s.fab.joined = true ∨ s.fab.caps ≠ []) : askJoin s = s :=
  if_pos (h.elim .inl fun h => .inr (.inr h))
theorem sends_askJoin (s : State) : Sends s (askJoin s) := by
  unfold askJoin
  split
  · exact .refl
  · split
    · exact .refl
    · exact sends_emit ..

/-! ## A port that comes up (R369, R371) -/

variable {p n q m : Nat}

/-- A port as it begins with its peer. -/
def freshPort (x : PortSt) (n q : Nat) : PortSt := { PortSt.reset with peer := n, peerP := q, rxKey := x.rxKey, txKey := x.txKey }
/-- A port that is up. -/
def upPort (x : PortSt) (n q : Nat) : PortSt :=
  { freshPort x n q with st := 3, rxKey := x.rxKey + 1, txKey := x.txKey + 1, cred := allCredits }
theorem bringUp_trains (hm : peerOf s.fab.modnum p = some m) (hs : (portSt s p).st = 0) : bringUp s p n q =
    post (modPort s p (fun x => { x with st := 1, wrong := false })) (.portBringUp p n q) := by
  unfold bringUp
  dsimp only
  rw [hm, hs]; rfl
theorem bringUp_meets (hm : peerOf s.fab.modnum p = some m) (hs : (portSt s p).st = 1) : bringUp s p n q =
    if m = n then post (modPort s p (fun _ => { freshPort (portSt s p) n q with st := 2 })) (.portBringUp p n q)
    else modPort s p (fun _ => { freshPort (portSt s p) n q with wrong := true }) := by
  unfold bringUp
  dsimp only
  rw [hm, hs]; rfl
/-- A port of the module has been up. -/
def seenUp (s : State) : State := { s with fab := { s.fab with everUp := true } }
theorem portSt_seenUp (s : State) (p : Nat) : portSt (seenUp s) p = portSt s p := rfl
theorem bringUp_up (hm : peerOf s.fab.modnum p = some m) (hs : (portSt s p).st = 2) : ∃ t,
    bringUp s p n q = askJoin (sayLink t n true)
      ∧ t = seenUp (modPort s p (fun _ => upPort (portSt s p) n q)) := by
  refine ⟨_, ?_, rfl⟩
  unfold bringUp
  dsimp only
  rw [hm, hs]; rfl
theorem bringUp_rest (hm : peerOf s.fab.modnum p = some m) (h0 : (portSt s p).st ≠ 0) (h1 : (portSt s p).st ≠ 1)
    (h2 : (portSt s p).st ≠ 2) : bringUp s p n q = s := by
  unfold bringUp
  dsimp only
  rw [hm]
  split
  · next h => cases h
  · next h => exact absurd h h0
  · next h => exact absurd h h1
  · next h => exact absurd h h2
  · rfl
theorem bringUp_mem (hm : peerOf s.fab.modnum p = some m) : (bringUp s p n q).mem = s.mem := by
  by_cases h0 : (portSt s p).st = 0
  · rw [bringUp_trains hm h0]; rfl
  · by_cases h1 : (portSt s p).st = 1
    · rw [bringUp_meets hm h1]; split <;> rfl
    · by_cases h2 : (portSt s p).st = 2
      · obtain ⟨t, ht, hte⟩ := bringUp_up (n := n) (q := q) hm h2
        rw [ht]
        obtain ⟨o, b, hj⟩ := (sends_askJoin (sayLink t n true)).eq
        obtain ⟨o', b', hl⟩ := (sends_sayLink t n true).eq
        rw [hj, hl, hte]; rfl
      · rw [bringUp_rest hm h0 h1 h2]
theorem bringUp_done (hm : peerOf s.fab.modnum p = some m) (hs : (portSt s p).st = 2)
    (hj : s.fab.joined = true ∨ s.fab.caps ≠ []) :
    portSt (bringUp s p n q) p = upPort (portSt s p) n q ∧ (s.fab.modnum, n) ∈ (bringUp s p n q).fab.ups
    ∧ (bringUp s p n q).cores = s.cores := by
  obtain ⟨t, ht, hte⟩ := bringUp_up (n := n) (q := q) hm hs
  obtain ⟨o, b, hl⟩ := (sends_sayLink t n true).eq
  have hjoin : (sayLink t n true).fab.joined = true ∨ (sayLink t n true).fab.caps ≠ [] := by rw [hl, hte]; exact hj
  have hport : portSt (sayLink t n true) p = upPort (portSt s p) n q := by
    rw [(sends_sayLink t n true).port, portSt_setLink, hte, portSt_seenUp, portSt_modPort]
  rw [ht, askJoin_member hjoin]
  refine ⟨hport, ?_, ?_⟩
  · rw [hl, hte]; exact List.mem_cons_self
  · rw [hl, hte]; rfl

end

/-! ## Frames at a port (R370, R371, R373) -/

section
variable {s t u : State} {x : PortSt} {f : FrameIn}

/-- A good frame names its sender, and its tag is right under the key of its phase. -/
theorem frameOk_iff (x : PortSt) (f : FrameIn) : frameOk x f = true ↔ f.linkid = linkWord x.peer x.peerP
    ∧ ∃ k, (k = x.rxKey ∨ (k = x.rxKey + 1 ∧ x.rxNew = true)) ∧ f.flags % 2 = k % 2
      ∧ f.tag = Config.linkTag k f.linkid (frameNonce f) (frameHead f) f.flits := by
  have hsign : ∀ k, (f == sign k f) = true ↔ f.tag = Config.linkTag k f.linkid (frameNonce f) (frameHead f) f.flits := fun k => by
    rw [beq_iff_eq]
    exact ⟨fun h => congrArg (·.tag) h, fun h => by rw [sign, ← h]⟩
  rw [frameOk]
  rw [Bool.and_eq_true, Bool.and_eq_true, beq_iff_eq, beq_iff_eq, hsign, rxKeyOf]
  constructor
  · rintro ⟨⟨h1, h2⟩, h3⟩
    refine ⟨h2, _, ?_, h1, h3⟩
    split
    · next h => exact .inr ⟨rfl, h.2⟩
    · exact .inl rfl
  · rintro ⟨h2, k, hk, h1, h3⟩
    have hkey : (if f.flags % 2 ≠ x.rxKey % 2 ∧ x.rxNew = true then x.rxKey + 1 else x.rxKey) = k := by
      rcases hk with rfl | ⟨rfl, hn⟩
      · exact if_neg fun h => h.1 h1
      · exact if_pos ⟨by omega, hn⟩
    rw [hkey]
    exact ⟨⟨h1, h2⟩, h3⟩
/-- The counter of the next frame at a port. -/
def nextCtr (x : PortSt) : Nat := match x.rxCtr with
  | some c => c + 1
  | none => 0
theorem takeFrame_eq (s : State) (f : FrameIn) : takeFrame s f =
    if (portSt s f.port).st ≠ 3 ∨ f.ctr < nextCtr (portSt s f.port) then s
    else if frameOk (portSt s f.port) f = true ∧ f.ctr = nextCtr (portSt s f.port) then acceptFrame s f
    else refuseFrame s f := rfl
theorem exec_frame (s : State) (f : FrameIn) : exec .frame (facing s (.frame f)) = .next (takeFrame (facing s (.frame f)) f) :=
    rfl
theorem exec_packet (s : State) (p : Packet) : exec .frame (facing s (.packet p)) = .next (arrived (facing s (.packet p)) p) :=
    rfl

/-- What an accepted frame does at its port. -/
def acceptedPort (f : FrameIn) (p : PortSt) : PortSt :=
  { p with
    rxCtr := some f.ctr, rxKey := rxKeyOf p f, rxNew := p.rxNew && rxKeyOf p f == p.rxKey, refus := 0, ack := p.ack ||
      !f.flags.testBit 2
    cred := p.cred + f.cred, owed := p.owed + f.flits.length, replay := p.replay.filter (fun r => !acked f.acklo r.ctr)
    resend := if f.flags.testBit 1 then (p.resend + 1) % 2 ^ 32 else p.resend }
/-- An accepted frame is noted, and then its packets go on. -/
theorem acceptFrame_eq (s : State) (f : FrameIn) : ∃ o, acceptFrame s f =
    (f.flits.filter (fun x => x.k + 1 == x.n)).foldl (fun s x => routePacket s x.pkt)
      { modPort s f.port (acceptedPort f) with frOut := o } := by
  have h : acceptFrame s f = (f.flits.filter (fun x => x.k + 1 == x.n)).foldl (fun s x => routePacket s x.pkt)
      (if f.flags.testBit 1 then { modPort s f.port (acceptedPort f) with
        frOut := (modPort s f.port (acceptedPort f)).frOut ++ (portSt (modPort s f.port (acceptedPort f)) f.port).replay }
      else modPort s f.port (acceptedPort f)) := rfl
  rw [h]
  split
  · exact ⟨_, rfl⟩
  · exact ⟨s.frOut, rfl⟩
theorem route_on {p : Packet} (ht : p.gen = s.fab.cur.gen) (hd : p.dest ≠ s.fab.modnum) : routePacket s p =
    { s with fabOut := s.fabOut ++ [{ p with
      hops := p.hops + 1, inter := if p.inter = some s.fab.modnum then none else p.inter }] } := by
  have htab : (tableOf s p.gen).isNone = false := by rw [tableOf, if_pos ht]; rfl
  rw [routePacket, htab, Bool.false_and, if_neg Bool.false_ne_true, if_pos hd]
theorem alsoSaved_eq (s : State) (p : Packet) : ∃ l, alsoSaved s p = { s with sl := l } := by
  unfold alsoSaved
  split
  · split <;> exact ⟨_, rfl⟩
  · exact ⟨_, rfl⟩
theorem route_here {p : Packet} {m : PlaceMsg} (ht : p.gen = s.fab.cur.gen) (hd : p.dest = s.fab.modnum)
    (hb : p.body = .place m) :
    ∃ l, routePacket s p = post { s with sl := l } (.packet p) := by
  have htab : (tableOf s p.gen).isNone = false := by rw [tableOf, if_pos ht]; rfl
  obtain ⟨l, hl⟩ := alsoSaved_eq s p
  rw [routePacket, htab, Bool.false_and, if_neg Bool.false_ne_true, if_neg (not_not.2 hd), hb,
    show isProtocol (.place m) = false from rfl, if_neg Bool.false_ne_true, hl]
  exact ⟨l, rfl⟩
theorem arrived_place {p : Packet} {m : PlaceMsg} (hb : p.body = .place m) : ∃ t, Sends s t ∧ arrived s p = post t
    (.place m) := by
  refine ⟨if p.cls = .ordered then emit s p.src .adaptive (.ordAck (streamKey s.fab.modnum p.body)) else s, ?_, ?_⟩
  · split
    · exact sends_emit ..
    · exact .refl
  · rw [arrived, hb]; rfl

/-! ### A frame that is refused, and a link that goes down (R373, R380) -/

/-- A module that is alone in its domain has lost no other. -/
theorem lostBy_alone (hc : s.fab.caps = []) (m : Nat) : lostBy s m = false := by
  rw [lostBy, hc, List.any_nil, Bool.and_false, Bool.false_and]
theorem cutOff_alone (hc : s.fab.caps = []) : cutOff s = false := by rw [cutOff, hc]; rfl
theorem sayLink_alone (hc : s.fab.caps = []) (n : Nat) (up : Bool) : sayLink s n up = setLink s s.fab.modnum n up := by
  rw [sayLink, hc]; rfl
theorem trigger_leader (hl : isLeader s = true) (n : Nat) : trigger s n = post s (.rollbackTrigger n s.fab.modnum) := if_pos hl
/-- A port whose link is down. -/
def downPort (p : PortSt) : PortSt := { p with st := 0, replay := [], part := none }
theorem dropLink_alone (hc : s.fab.caps = []) (p : Nat) : ∃ l k, dropLink s p =
    post (setLink (modPort { s with fabOut := l } p downPort) s.fab.modnum k false) (.rollbackTrigger 4 s.fab.modnum) := by
  generalize hl : s.fabOut ++ (((((portSt s p).replay.flatMap (·.flits)).map (·.pkt)
    ++ (portSt s p).part.toList.map (·.1)).filter (fun p => outlives p.body && !isDirect p.body)).dedup) = l
  have h : dropLink s p = (if cutOff (modPort { s with fabOut := l } p downPort) then failModule
    (modPort { s with fabOut := l } p downPort) 4
      else if lostBy (sayLink (modPort { s with fabOut := l } p downPort) (portSt s p).peer false) (portSt s p).peer
      then failAll (sayLink (modPort { s with fabOut := l } p downPort) (portSt s p).peer false) 4
      else trigger (sayLink (modPort { s with fabOut := l } p downPort) (portSt s p).peer false) 4) := by rw [← hl]; rfl
  have hc' : (modPort { s with fabOut := l } p downPort).fab.caps = [] := hc
  refine ⟨l, (portSt s p).peer, ?_⟩
  have hm : s.fab.modnum = (modPort { s with fabOut := l } p downPort).fab.modnum := rfl
  rw [h, hm]
  generalize modPort { s with fabOut := l } p downPort = u at hc' ⊢
  have hc'' : (setLink u u.fab.modnum (portSt s p).peer false).fab.caps = [] := hc'
  rw [cutOff_alone hc', if_neg Bool.false_ne_true, sayLink_alone hc', lostBy_alone hc'', if_neg Bool.false_ne_true,
    trigger_leader (isLeader_alone hc'')]
  rfl
theorem dropLink_spec (hc : s.fab.caps = []) (p : Nat) : (portSt (dropLink s p) p).st = 0
    ∧ (dropLink s p).pending = s.pending ++ [.rollbackTrigger 4 s.fab.modnum] := by
  obtain ⟨l, k, h⟩ := dropLink_alone hc p
  rw [h]
  refine ⟨?_, rfl⟩
  show (portSt (setLink (modPort { s with fabOut := l } p downPort) s.fab.modnum k false) p).st = 0
  rw [portSt_setLink, portSt_modPort]; rfl
/-- The port that has refused a frame. -/
def refusedPort (f : FrameIn) (again : Bool) (p : PortSt) : PortSt :=
  { p with refus := if again then p.refus + 1 else p.refus, lastBad := f.ctr, nak := p.nak || again }
theorem refuseFrame_eq (s : State) (f : FrameIn) : refuseFrame s f =
    if ((portSt s f.port).refus = 0 ∨ f.ctr ≤ (portSt s f.port).lastBad) ∧ 8 ≤ (portSt s f.port).refus then dropLink s f.port
    else modPort s f.port (refusedPort f (decide ((portSt s f.port).refus = 0 ∨ f.ctr ≤ (portSt s f.port).lastBad))) := by
  rw [refuseFrame]
  split
  · rfl
  · congr 1
    funext p
    rw [refusedPort]
    simp only [decide_eq_true_eq]
theorem refuseFrame_again (h : (portSt s f.port).refus = 0 ∨ f.ctr ≤ (portSt s f.port).lastBad)
    (h8 : (portSt s f.port).refus < 8) :
    refuseFrame s f = modPort s f.port (refusedPort f true) := by
  rw [refuseFrame_eq, if_neg (by omega), decide_eq_true h]
theorem refuseFrame_once (h : (portSt s f.port).refus ≠ 0) (h' : (portSt s f.port).lastBad < f.ctr) :
    refuseFrame s f = modPort s f.port (refusedPort f false) := by
  rw [refuseFrame_eq, if_neg (by omega), decide_eq_false (by omega)]
theorem refuseFrame_ninth (h : f.ctr ≤ (portSt s f.port).lastBad) (h8 : 8 ≤ (portSt s f.port).refus) :
    refuseFrame s f = dropLink s f.port := by
  rw [refuseFrame_eq, if_pos ⟨.inr h, h8⟩]

end

/-! ## Keys, tables and joining (R371, R376, R380) -/

section
variable {s t u : State} {r : RTable}

theorem exec_rekey_due {p : Nat} (hs : (portSt s p).st = 3) (ha : (portSt s p).asked = false)
    (hd : (portSt s p).keyAt + s.fab.rekey ≤ (portSt s p).txCtr) : exec .rekey (facing s (.rekey p true)) = .next (emit
      (modPort (facing s (.rekey p true)) p (fun x => { x with asked := true })) (portSt s p).peer .control .rekeyAsk) := by
  have hdue : rekeyDue (facing s (.rekey p true)) p = true := by
    show ((portSt s p).st == 3 && !(portSt s p).asked && decide ((portSt s p).keyAt + s.fab.rekey ≤ (portSt s p).txCtr)) = true
    rw [hs, ha, decide_eq_true hd]; rfl
  exact congrArg Host.Outcome.next (if_pos hdue)
theorem exec_rekey_early {p : Nat} (hd : (portSt s p).asked = true ∨ (portSt s p).txCtr < (portSt s p).keyAt + s.fab.rekey) :
    exec .rekey (facing s (.rekey p true)) = .next (facing s (.rekey p true)) := by
  have hdue : ¬ rekeyDue (facing s (.rekey p true)) p = true := by
    show ¬ ((portSt s p).st == 3 && !(portSt s p).asked && decide ((portSt s p).keyAt + s.fab.rekey ≤ (portSt s p).txCtr)) = true
    rcases hd with h | h
    · simp [h]
    · simp [show ¬ (portSt s p).keyAt + s.fab.rekey ≤ (portSt s p).txCtr by omega]
  exact congrArg Host.Outcome.next (if_neg hdue)
theorem exec_rekey_asked {p : Nat} (hs : (portSt s p).st = 3) : exec .rekey (facing s (.rekey p false)) = .next (emit
    (modPort (facing s (.rekey p false)) p (fun x => { x with rxNew := true })) (portSt s p).peer .control .rekeyAck) :=
  congrArg Host.Outcome.next (if_neg (not_not.2 hs))
theorem arrived_ack {pk : Packet} {p : Nat} (hc : pk.cls = .control) (hb : pk.body = .rekeyAck) (hp : portTo s pk.src = some p)
    (ha : (portSt s p).asked = true) : arrived s pk =
      modPort s p (fun x => { x with txKey := x.txKey + 1, keyAt := x.txCtr, asked := false }) := by
  rw [arrived, hc, if_neg (by decide), hb]
  dsimp only
  rw [hp]
  exact if_pos ha

/-! ### Routing tables -/

/-- The module with a new table in its free slot. -/
def stocked (s : State) (e : Ev) (r : RTable) : State := { facing s e with fab := { s.fab with free_ := some r } }
/-- The leader as it sends the others their tables. -/
def spread (s : State) (e : Ev) (r : RTable) : State :=
  s.fab.caps.foldl (fun u m => emit u m.1 .control (.table (buildTable u r.gen m.1))) (stocked s e r)
theorem exec_load (hp : s.fab.prev = none) (hg : r.gen = (s.fab.cur.gen + 1) % 65536) :
    exec .routingTableLoad (facing s (.routingTableLoad r)) = .next (if isLeader s then
        takeLoaded { spread s (.routingTableLoad r) r with
          freeN := (spread s (.routingTableLoad r) r).freeN + 1
          fab := { (spread s (.routingTableLoad r) r).fab with want := false, loads := [] } }
          (spread s (.routingTableLoad r) r).fab.modnum
      else emit (stocked s (.routingTableLoad r) r) (leaderOf s) .control (.loaded s.fab.modnum)) := by
  have h : (facing s (.routingTableLoad r)).fab.prev.isNone = true ∧ r.gen = nextGen (facing s (.routingTableLoad r)) :=
    ⟨by rw [show (facing s (.routingTableLoad r)).fab.prev = none from hp]; rfl, hg⟩
  exact congrArg Host.Outcome.next (if_pos h)
theorem nins_nil (n : Nat) : nins n [] = [n] := rfl
theorem allModules_alone (hc : s.fab.caps = []) {m : List Nat} (h : s.fab.modnum ∈ m) : allModules s m = true := by
  rw [allModules, hc]
  simpa using h
theorem sends_toDomain (s : State) (b : PktBody) (e : Ev) : ∃ t, Sends s t ∧ toDomain s b e = post t e :=
  ⟨_, sends_fold (fun s m => sends_emit ..) _ _, rfl⟩
/-- What the report of a table leaves as it was. -/
theorem takeLoaded_keeps (s : State) (m : Nat) : (takeLoaded s m).fab.free_ = s.fab.free_ ∧ (takeLoaded s m).fab.cur =
    s.fab.cur := by
  rw [takeLoaded]
  dsimp only
  split
  · obtain ⟨t, ht, h⟩ := sends_toDomain { s with fab := { s.fab with loads := [] } } .activate .activate
    obtain ⟨o, b, rfl⟩ := ht.eq
    rw [h]; exact ⟨rfl, rfl⟩
  · exact ⟨rfl, rfl⟩
theorem takeLoaded_alone (hc : s.fab.caps = []) : (takeLoaded s s.fab.modnum).pending = s.pending ++ [.activate] := by
  rw [takeLoaded, allModules_alone hc (mem_nins ..), if_pos rfl, toDomain_alone
    (s := { s with fab := { s.fab with loads := [] } }) hc]
  rfl
theorem takeLoaded_waits {m : Nat} {c : Word} (hc : s.fab.caps = [(m, c)]) (hl : s.fab.loads = []) (hm : m ≠ s.fab.modnum) :
    (takeLoaded s s.fab.modnum).fabOut = s.fabOut := by
  have h : allModules s (nins s.fab.modnum s.fab.loads) = false := by
    rw [allModules, hc, hl, nins_nil]
    simp [hm]
  rw [takeLoaded, h]
  rfl
theorem sends_spread (s : State) (e : Ev) (r : RTable) : Sends (stocked s e r) (spread s e r) := sends_fold
    (fun s m => sends_emit ..) _ _
theorem takeDrained_alone (hc : s.fab.caps = []) : (takeDrained s s.fab.modnum).pending = s.pending ++ [.retire] := by
  rw [takeDrained, allModules_alone hc (mem_nins ..), if_pos rfl, toDomain_alone
    (s := { s with fab := { s.fab with drains := [] } }) hc]
  rfl
theorem exec_drain (h : canDrain s = true) : exec .drain (facing s .drain) = .next (if isLeader s
    then takeDrained { facing s .drain with fab := { s.fab with told := true } } s.fab.modnum
    else emit { facing s .drain with fab := { s.fab with told := true } } (leaderOf s) .control (.drained s.fab.modnum)) := by
  have hd : ¬ (!canDrain (facing s .drain)) = true := by
    rw [show canDrain (facing s .drain) = canDrain s from rfl, h]; decide
  exact congrArg Host.Outcome.next (if_neg hd)
theorem leader_below {m : Nat} {c : Word} (hl : isLeader s = true) (hc : s.fab.caps = [(m, c)]) : s.fab.modnum < m := by
  rw [isLeader, hc] at hl
  simpa using hl

/-- The leader that has sent the others their tables, as it hears of its own. -/
def spreadDone (s : State) (e : Ev) (r : RTable) : State :=
  { spread s e r with freeN := (spread s e r).freeN + 1, fab := { (spread s e r).fab with want := false, loads := [] } }
theorem spreadDone_keeps (s : State) (e : Ev) (r : RTable) : (spreadDone s e r).fab.free_ = some r
    ∧ (spreadDone s e r).fab.cur = s.fab.cur ∧ (spreadDone s e r).fab.caps = s.fab.caps
    ∧ (spreadDone s e r).fab.modnum = s.fab.modnum ∧ (spreadDone s e r).pending = s.pending := by
  obtain ⟨o, b, h⟩ := (sends_spread s e r).eq
  rw [spreadDone, h]
  exact ⟨rfl, rfl, rfl, rfl, rfl⟩
theorem load_leader (hl : isLeader s = true) (hp : s.fab.prev = none) (hg : r.gen = (s.fab.cur.gen + 1) % 65536) :
    exec .routingTableLoad (facing s (.routingTableLoad r)) = .next (takeLoaded (spreadDone s (.routingTableLoad r) r)
      (spreadDone s (.routingTableLoad r) r).fab.modnum) := by
  rw [exec_load hp hg, if_pos hl]; rfl
theorem load_other (hl : isLeader s = false) (hp : s.fab.prev = none) (hg : r.gen = (s.fab.cur.gen + 1) % 65536) :
    exec .routingTableLoad (facing s (.routingTableLoad r)) =
      .next (emit (stocked s (.routingTableLoad r) r) (leaderOf s) .control (.loaded s.fab.modnum)) := by
  rw [exec_load hp hg, hl, if_neg Bool.false_ne_true]
theorem fabOut_spread {m : Nat} {c : Word} (hc : s.fab.caps = [(m, c)]) (e : Ev) : ∃ h y,
    (spread s e r).fabOut = s.fabOut ++ [h] ∧ h.dest = m ∧ h.body = .table y ∧ y.gen = r.gen := by
  rw [spread, hc]
  exact ⟨_, _, rfl, rfl, rfl, rfl⟩

variable {f : FrameIn}
theorem takeFrame_good (hs : (portSt s f.port).st = 3) (hc : f.ctr = nextCtr (portSt s f.port))
    (hg : frameOk (portSt s f.port) f = true) : takeFrame s f = acceptFrame s f := by
  rw [takeFrame_eq, if_neg (by rw [hs]; omega), if_pos ⟨hg, hc⟩]
theorem takeFrame_bad (hs : (portSt s f.port).st = 3) (hc : nextCtr (portSt s f.port) ≤ f.ctr)
    (hg : frameOk (portSt s f.port) f = false ∨ nextCtr (portSt s f.port) < f.ctr) : takeFrame s f = refuseFrame s f := by
  rw [takeFrame_eq, if_neg (by rw [hs]; omega), if_neg]
  rintro ⟨h, h'⟩
  rcases hg with hg | hg
  · rw [hg] at h; cases h
  · omega
theorem acceptFrame_one {pk : Packet} {k : Nat} (hf : f.flits = [⟨pk, k, k + 1⟩]) : ∃ o, acceptFrame s f =
    routePacket { modPort s f.port (acceptedPort f) with frOut := o } pk := by
  obtain ⟨o, ho⟩ := acceptFrame_eq s f
  refine ⟨o, ?_⟩
  rw [ho, hf, List.filter_cons, if_pos (beq_self_eq_true _)]
  rfl

end

/-- Settles O51. -/
theorem fabricSteps : Obligations.FabricSteps := by
  unfold Obligations.FabricSteps
  intro s
  refine ⟨fun p m n q hm => ?_, fun x f => frameOk_iff x f, fun f hst => ?_, fun p hs hc => ?_, fun p hs => ?_, fun r hp hg => ?_,
    fun r hr => ?_, fun hd hc => ?_, fun hd hl => ?_, rfl, fun i m n hl => ?_⟩
  · refine ⟨_, rfl, bringUp_mem (s := facing s (.portBringUp p n q)) hm, fun h => ?_, fun h hn => ?_, fun h hn => ?_, fun h hj =>
    ?_⟩
    · rw [bringUp_trains (s := facing s (.portBringUp p n q)) hm h]
      exact ⟨congrArg (·.st) (portSt_modPort _ p fun x => { x with st := 1, wrong := false }), rfl⟩
    · rw [bringUp_meets (s := facing s (.portBringUp p n q)) hm h, if_neg (Ne.symm hn), portSt_modPort]
      exact ⟨rfl, rfl, rfl⟩
    · rw [bringUp_meets (s := facing s (.portBringUp p n q)) hm h, if_pos hn.symm]
      exact ⟨congrArg (·.st) (portSt_modPort _ p fun _ => { freshPort (portSt s p) n q with st := 2 }), rfl⟩
    · obtain ⟨h1, h2, h3⟩ := bringUp_done (s := facing s (.portBringUp p n q)) (n := n) (q := q) hm h hj
      rw [h1]
      exact ⟨rfl, rfl, rfl, rfl, rfl, rfl, rfl, h2, h3⟩
  · refine ⟨fun h => ?_, fun h hg hf => ?_, fun pk k h hg hf hgen => ⟨fun hd => ?_, fun m hd hb => ?_⟩, fun h hg => ?_⟩
    · exact (exec_frame s f).trans (congrArg Host.Outcome.next (if_pos (.inr h)))
    · obtain ⟨o, ho⟩ := acceptFrame_eq (facing s (.frame f)) f
      rw [hf] at ho
      refine ⟨_, (exec_frame s f).trans
        (congrArg Host.Outcome.next ((takeFrame_good (s := facing s (.frame f)) hst h hg).trans ho)), ?_, ?_, rfl⟩
      · exact congrArg (·.rxCtr) (portSt_modPort (facing s (.frame f)) f.port (acceptedPort f))
      · exact congrArg (·.refus) (portSt_modPort (facing s (.frame f)) f.port (acceptedPort f))
    · obtain ⟨o, ho⟩ := acceptFrame_one (s := facing s (.frame f)) hf
      exact ⟨_, _, (exec_frame s f).trans
        (congrArg Host.Outcome.next ((takeFrame_good (s := facing s (.frame f)) hst h hg).trans (ho.trans (route_on hgen hd)))),
        rfl, rfl, rfl, rfl⟩
    · obtain ⟨o, ho⟩ := acceptFrame_one (s := facing s (.frame f)) hf
      obtain ⟨l, hl⟩ := route_here (s := { modPort (facing s (.frame f)) f.port (acceptedPort f) with frOut := o }) hgen hd hb
      obtain ⟨u, hu, hua⟩ := arrived_place (s := facing s (.packet pk)) hb
      obtain ⟨b, c, rfl⟩ := hu.eq
      exact ⟨_, _, (exec_frame s f).trans
        (congrArg Host.Outcome.next ((takeFrame_good (s := facing s (.frame f)) hst h hg).trans (ho.trans hl))), rfl,
        (exec_packet s pk).trans (congrArg Host.Outcome.next hua), rfl⟩
    · have hgo := takeFrame_bad (s := facing s (.frame f)) hst h hg
      refine ⟨_, (exec_frame s f).trans (congrArg Host.Outcome.next hgo), fun ha h8 => ?_, fun ha hb => ?_, fun ha h8 hc => ?_⟩
      · rw [refuseFrame_again (s := facing s (.frame f)) ha h8, portSt_modPort]
        exact ⟨rfl, Bool.or_true _, hst, rfl, rfl⟩
      · rw [refuseFrame_once (s := facing s (.frame f)) ha hb, portSt_modPort]
        exact ⟨rfl, hst, rfl, rfl⟩
      · rw [refuseFrame_ninth (s := facing s (.frame f)) ha h8]
        exact dropLink_spec (s := facing s (.frame f)) hc _
  · obtain ⟨h1, h2⟩ := dropLink_spec (s := facing s (.linkDown p)) hc p
    exact ⟨_, congrArg Host.Outcome.next (if_neg hs), h1, h2⟩
  · refine ⟨fun ha hd => ⟨_, _, exec_rekey_due hs ha hd, ((sends_emit ..).port p).trans (portSt_modPort ..), rfl, rfl, rfl⟩, fun
    h => exec_rekey_early h,
      ⟨_, _, exec_rekey_asked hs, ((sends_emit ..).port p).trans (portSt_modPort ..), rfl, rfl, rfl⟩, fun pk hc hb hp ha => ?_⟩
    exact ⟨_, (exec_packet s pk).trans (congrArg Host.Outcome.next (arrived_ack hc hb hp ha)), portSt_modPort ..⟩
  · cases hl : isLeader s with
    | true =>
      obtain ⟨h1, h2, h3, h4, h5⟩ := spreadDone_keeps s (.routingTableLoad r) r
      obtain ⟨hf, hcur⟩ := takeLoaded_keeps (spreadDone s (.routingTableLoad r) r)
        (spreadDone s (.routingTableLoad r) r).fab.modnum
      refine ⟨_, load_leader hl hp hg, hf.trans h1, hcur.trans h2, fun hc => ?_, fun m c _ hc => ?_, fun h => by cases h⟩
      · rw [takeLoaded_alone (h3.trans hc), h5]
      · have hlt := leader_below hl hc
        obtain ⟨h, y, ho, hd, hb, hy⟩ := fabOut_spread (r := r) hc (.routingTableLoad r)
        exact ⟨h, y, (takeLoaded_waits (h3.trans hc) rfl (by rw [h4]; omega)).trans ho, hd, hb, hy⟩
    | false =>
      refine ⟨_, load_other hl hp hg, rfl, rfl, fun hc => ?_, fun m c h _ => (Bool.false_ne_true h).elim, fun _ =>
        ⟨_, rfl, rfl, rfl⟩⟩
      rw [isLeader_alone hc] at hl; cases hl
  · exact congrArg Host.Outcome.next (by rw [show (facing s .activate).fab.free_ = some r from hr]; rfl)
  · exact ⟨_, exec_drain hd, by rw [if_pos (isLeader_alone hc)]; exact takeDrained_alone hc⟩
  · exact ⟨_, exec_drain hd, by rw [hl]; exact ⟨_, rfl, rfl, rfl⟩⟩
  · exact ⟨_, congrArg Host.Outcome.next (if_neg (not_not.2 hl)), rfl, rfl, rfl, rfl⟩

end Sys2Proof.Proofs.Fabric
end

section
/-!
PROOFS. WHAT STATEMENT O50 RESTS ON. What reads and class messages leave of the firmware's state, verification and the safe
point, and the states of the interfaces (R359 to R367); the proof of statement O50.
-/
namespace Sys2Proof.Proofs.Trust
open Sys2Proof Sys2Proof.Machine DeviceMemory Seals Switching

/-! ## What reads, messages and handlers leave of memory and firmware (R359 to R361) -/

section
variable {s t u : State}

/-- Memory, firmware, and what goes to the host are in `t` as in `s`. -/
structure KeepsFw (s t : State) : Prop where
  fw : t.fw = s.fw
  mem : t.mem = s.mem
  toHost : t.toHost = s.toHost
theorem KeepsFw.refl : KeepsFw s s := ⟨rfl, rfl, rfl⟩
theorem KeepsFw.trans (h : KeepsFw s t) (h' : KeepsFw t u) : KeepsFw s u :=
  ⟨h'.fw.trans h.fw, h'.mem.trans h.mem, h'.toHost.trans h.toHost⟩
theorem keepsFw_fold {α : Type} {f : State → α → State} (h : ∀ s a, KeepsFw s (f s a)) (m : List α) (s : State) :
    KeepsFw s (m.foldl f s) := by
  induction m generalizing s with
  | nil => exact .refl
  | cons a m ih => exact (h s a).trans (ih _)
theorem keepsFw_trigger (s : State) (n : Nat) : KeepsFw s (trigger s n) := by
  unfold trigger; split <;> exact ⟨rfl, rfl, rfl⟩
theorem keepsFw_eccSector (s : State) (k : Nat) : KeepsFw s (eccSector s k) := by
  unfold eccSector
  split
  · exact .refl
  · exact ⟨rfl, rfl, rfl⟩
  · unfold uncorrectable
    split
    · exact keepsFw_trigger ..
    · exact ⟨rfl, rfl, rfl⟩
theorem keepsFw_eccRead (s : State) (pa n : Nat) : KeepsFw s (eccRead s pa n) := by
  unfold eccRead
  split
  · exact .refl
  · exact keepsFw_fold (fun s i => keepsFw_eccSector ..) _ _
theorem keepsFw_touch (s : State) (pa : Nat) : KeepsFw s (touch s pa) := ⟨rfl, rfl, rfl⟩
theorem keepsFw_cpReads (s : State) (a n : Nat) : KeepsFw s (cpReads s a n) := by
  unfold cpReads
  exact keepsFw_fold (fun s k => (keepsFw_eccRead ..).trans (keepsFw_touch ..)) _ _
theorem keepsFw_startClass (s : State) (c n : Nat) (m : Mail) : KeepsFw s (startClass s c n m) := ⟨rfl, rfl, rfl⟩
theorem keepsFw_setCore (s : State) (c : Nat) (x : Core) : KeepsFw s (setCore s c x) := ⟨rfl, rfl, rfl⟩
theorem keepsFw_classNext (s : State) (c n : Nat) : KeepsFw s (classNext s c n) := by
  rw [classNext]
  split
  · split
    · exact (keepsFw_setCore ..).trans (keepsFw_startClass ..)
    · exact .refl
  · exact .refl
theorem keepsFw_modCore (s : State) (c : Nat) (f : Core → Core) : KeepsFw s (modCore s c f) := ⟨rfl, rfl, rfl⟩
theorem keepsFw_modCp (s : State) (n : Nat) (f : CpSt → CpSt) : KeepsFw s (modCp s n f) := ⟨rfl, rfl, rfl⟩
theorem keepsFw_startCps (s : State) : KeepsFw s (startCps s) := by
  unfold startCps
  split
  · exact keepsFw_fold (fun s n => keepsFw_modCp ..) _ _
  · exact .refl

/-! ## The handlers of a running image (R361) -/

/-- The entries of slots 28 to 31, as a list of words gives them. -/
def withEntries (l : List Word) (x : Core) : Core :=
  { x with
    xlatv := l.getD 0 0 &&& ~~~(1 : Word), shotv := l.getD 1 0 &&& ~~~(1 : Word), rclv := l.getD 2 0 &&& ~~~(1 : Word)
    sysv := l.getD 3 0 &&& ~~~(1 : Word), icache := [] }
/-- Every core has its entries. -/
def entered (s : State) (l : List Word) : State :=
  allCores.foldl (fun s c => modCore s c (withEntries l)) { s with fw := { s.fw with instAt := false, entries := l } }
/-- The messages that waited go on. -/
def classesGo (s : State) (c : Nat) : State := (List.range 4).foldl (fun s k => classNext s c (28 + k)) s
theorem installHandlers_eq (s : State) (l : List Word) : installHandlers s l = allCores.foldl classesGo (entered s l) := rfl
theorem installHandlers_keeps (s : State) (l : List Word) :
    (installHandlers s l).fw = { s.fw with instAt := false, entries := l } ∧ (installHandlers s l).mem = s.mem := by
  have h1 : KeepsFw { s with fw := { s.fw with instAt := false, entries := l } } (entered s l) :=
    keepsFw_fold (fun s c => keepsFw_modCore ..) _ _
  have h2 : KeepsFw (entered s l) (installHandlers s l) :=
    installHandlers_eq s l ▸ keepsFw_fold (fun s c => keepsFw_fold (fun s k => keepsFw_classNext ..) _ _) _ _
  exact ⟨(h1.trans h2).fw, (h1.trans h2).mem⟩
/-- A fold that gives each core of a list its entries. -/
theorem core_enter_fold (l : List Word) (m : List Nat) (s : State) (k : Nat) :
    Machine.core (m.foldl (fun s c => modCore s c (withEntries l)) s) k =
      if k ∈ m then withEntries l (Machine.core s k) else Machine.core s k := by
  induction m generalizing s with
  | nil => rfl
  | cons c m ih =>
    rw [List.foldl_cons, ih, core_modCore]
    by_cases hk : k = c
    · subst hk
      rw [if_pos rfl, if_pos List.mem_cons_self]
      split <;> rfl
    · rw [if_neg hk]
      simp [hk]
/-- With no message waiting, none goes on. -/
theorem classNext_none {c n : Nat} (h : (Machine.core s c).classQ = []) : classNext s c n = s := by
  rw [classNext]
  rw [classQ, h]; rfl
theorem fold_id {α : Type} {f : State → α → State} (h : ∀ a, f s a = s) (m : List α) : m.foldl f s = s := by
  induction m with
  | nil => rfl
  | cons a m ih => rw [List.foldl_cons, h, ih]
theorem classesGo_none {c : Nat} (h : (Machine.core s c).classQ = []) : classesGo s c = s := by
  unfold classesGo
  exact fold_id (f := fun s k => classNext s c (28 + k)) (fun k => classNext_none h) _
theorem mem_allCores {k : Nat} (hk : k < 1216) : k ∈ allCores := by
  simpa only [allCores, List.mem_range] using hk
theorem core_installHandlers (hq : ∀ c, (Machine.core s c).classQ = []) (l : List Word) {k : Nat} (hk : k < 1216) :
    Machine.core (installHandlers s l) k = withEntries l (Machine.core s k) := by
  have hcore : ∀ c, Machine.core (entered s l) c = if c ∈ allCores then withEntries l (Machine.core s c) else Machine.core s c :=
    fun c => core_enter_fold l allCores _ c
  have hq' : ∀ c, (Machine.core (entered s l) c).classQ = [] := fun c => by
    rw [hcore]; split <;> exact hq c
  have hgo : allCores.foldl classesGo (entered s l) = entered s l :=
    fold_id (f := classesGo) (fun c => classesGo_none (hq' c)) allCores
  rw [installHandlers_eq, hgo, hcore]
  exact if_pos (mem_allCores hk)
theorem even_word {a : Word} (h : a.getLsbD 0 = false) : a &&& ~~~(1 : Word) = a := by
  refine BitVec.eq_of_getLsbD_eq fun i hi => ?_
  rw [BitVec.getLsbD_and, BitVec.getLsbD_not, show (1 : Word) = 1#64 from rfl, BitVec.getLsbD_one]
  by_cases h0 : i = 0
  · subst h0; rw [h]; rfl
  · simp [h0, hi]

end

/-! ## Verification and the safe point (R359 to R361) -/

section
variable {s t u : State} {l : List Word}

theorem keepsFw_runImage (s : State) (n : Nat) : (runImage s n).mem = s.mem ∧ (runImage s n).fw.fwst = 2
    ∧ (runImage s n).fw.slot = n ∧ (runImage s n).fw.running = true := by
  have h := keepsFw_startCps { s with fw := { s.fw with
    fwst := 2, slot := n, running := true, svn := BitVec.ofNat 32 (memNat s (slotBase n + 4) 4)
    meas := BitVec.ofNat 256 (sha256 (fwImage s n)) } }
  refine ⟨h.mem, ?_, ?_, ?_⟩ <;> rw [runImage, h.fw]
theorem verify_failed (h : fwCheck s s.fw.cand ≠ 0) : verify s = { s with fw := { s.fw with
    result := fwCheck s s.fw.cand, fwst := if s.fw.running then 2 else 0 } } := if_pos h
theorem verify_swapped (h : fwCheck s s.fw.cand = 0) (hs : s.fw.swap = true) :
    verify s = { s with fw := { s.fw with result := fwCheck s s.fw.cand, fwst := 3 } } := (if_neg (not_not.2 h)).trans (if_pos hs)
theorem verify_runs (h : fwCheck s s.fw.cand = 0) (hs : s.fw.swap = false) :
    verify s = runImage (fwResult s (fwCheck s s.fw.cand)) s.fw.cand :=
  (if_neg (not_not.2 h)).trans (if_neg (show ¬ s.fw.swap = true by rw [hs]; decide))
theorem runImage_result (s : State) (n : Nat) : (runImage s n).fw.result = s.fw.result := by
  rw [runImage, (keepsFw_startCps _).fw]
/-- What a verification leaves, by the result of its check. -/
theorem verify_spec (s : State) : (verify s).mem = s.mem ∧ (verify s).fw.result = fwCheck s s.fw.cand
    ∧ (fwCheck s s.fw.cand ≠ 0 → (verify s).fw.fwst = (if s.fw.running then 2 else 0) ∧ (verify s).fw.slot = s.fw.slot
      ∧ (verify s).fw.meas = s.fw.meas ∧ (verify s).fw.svn = s.fw.svn)
    ∧ (fwCheck s s.fw.cand = 0 → s.fw.swap = true → (verify s).fw.fwst = 3 ∧ (verify s).fw.slot = s.fw.slot)
    ∧ (fwCheck s s.fw.cand = 0 → s.fw.swap = false →
      (verify s).fw.fwst = 2 ∧ (verify s).fw.slot = s.fw.cand ∧ (verify s).fw.running = true) := by
  by_cases h : fwCheck s s.fw.cand = 0
  · cases hs : s.fw.swap with
    | true =>
      rw [verify_swapped h hs]
      exact ⟨rfl, rfl, fun h' => absurd h h', fun _ _ => ⟨rfl, rfl⟩, fun _ h' => (Bool.false_ne_true h'.symm).elim⟩
    | false =>
      obtain ⟨h1, h2, h3, h4⟩ := keepsFw_runImage (fwResult s (fwCheck s s.fw.cand)) s.fw.cand
      rw [verify_runs h hs]
      exact ⟨h1, runImage_result .., fun h' => absurd h h', fun _ h' => (Bool.false_ne_true h').elim, fun _ _ => ⟨h2, h3, h4⟩⟩
  · rw [verify_failed h]
    exact ⟨rfl, rfl, fun _ => ⟨rfl, rfl, rfl, rfl⟩, fun h' => absurd h' h, fun h' => absurd h' h⟩
theorem cpBytes_facing (s : State) (e : Ev) (a n : Nat) : cpBytes (facing s e) a n = cpBytes s a n := by
  induction n generalizing a with
  | zero => rfl
  | succ n ih =>
    rw [cpBytes, cpBytes, ih, cpByte, cpByte, (sameMemory_facing s e).devByte]
    rfl
theorem memNat_facing (s : State) (e : Ev) (a n : Nat) : memNat (facing s e) a n = memNat s a n := by
  rw [memNat, memNat, cpBytes_facing]
theorem exec_verification (h1 : s.fw.fwst = 1) (hw : cpWaits s (slotBase s.fw.cand) (fwSpan s s.fw.cand) = false)
    (hc : cpStops s (slotBase s.fw.cand) (fwSpan s s.fw.cand) = false) :
    exec .firmwareVerification (facing s .firmwareVerification) =
      .next (verify (cpReads (facing s .firmwareVerification) (slotBase s.fw.cand) (fwSpan s s.fw.cand))) := by
  have hspan : fwSpan (facing s .firmwareVerification) s.fw.cand = fwSpan s s.fw.cand := by
    rw [fwSpan, fwSpan, memNat_facing]
  rw [show exec .firmwareVerification (facing s .firmwareVerification) = execFirmwareVerification
    (facing s .firmwareVerification) from rfl,
    execFirmwareVerification]
  simp only [facing_ev]
  rw [show (facing s .firmwareVerification).fw = s.fw from rfl, if_neg (not_not.2 h1), hspan]
  generalize slotBase s.fw.cand = a at *
  generalize fwSpan s s.fw.cand = n at *
  rw [show cpWaits (facing s .firmwareVerification) a n = cpWaits s a n from rfl, hw, if_neg Bool.false_ne_true,
    cpLook_serves (s := facing s .firmwareVerification) hc]
theorem safePoint_swap (h3 : s.fw.fwst = 3) (hq : queueSafe s = true) : (safePoint s l).fw.fwst = 2
    ∧ (safePoint s l).fw.slot = s.fw.cand ∧ (safePoint s l).fw.entries = l ∧ (safePoint s l).mem = s.mem := by
  obtain ⟨h1, h2, h4, -⟩ := keepsFw_runImage s s.fw.cand
  have hgo : safePoint s l = if handlersIdle
    { runImage s s.fw.cand with fw := { (runImage s s.fw.cand).fw with instAt := true, entries := l } }
      then installHandlers { runImage s s.fw.cand with fw := { (runImage s s.fw.cand).fw with instAt := true, entries := l } } l
      else { runImage s s.fw.cand with fw := { (runImage s s.fw.cand).fw with instAt := true, entries := l } } := if_pos ⟨h3, hq⟩
  rw [hgo]
  split
  · obtain ⟨hf, hm⟩ := installHandlers_keeps { runImage s s.fw.cand with
      fw := { (runImage s s.fw.cand).fw with instAt := true, entries := l } } l
    rw [hf, hm]
    exact ⟨h2, h4, rfl, h1⟩
  · exact ⟨h2, h4, rfl, h1⟩
theorem safePoint_first (h2 : s.fw.fwst = 2) (hi : s.fw.instAt = false) (he : s.fw.entries = []) :
    safePoint s l = installHandlers s l := by
  rw [safePoint, if_neg (by rw [h2]; omega), if_pos h2, hi, if_neg Bool.false_ne_true, if_pos he]

/-! ## Interfaces (R363 to R367) -/

theorem ifSt_modIf (s : State) (d : Nat) (f : IfSt → IfSt) : ifSt (modIf s d f) d = f (ifSt s d) := by
  rw [ifSt, modIf, fget_fset_self]; rfl
theorem ifSt_answered (s : State) (d : Nat) (f : IfSt → IfSt) (m : HostMsg) : ifSt (toHost (modIf s d f) m) d = f
    (ifSt s d) := ifSt_modIf ..
theorem frozenIf_iff {d : Nat} : frozenIf s d = true ↔ (ifSt s d).st = .locked ∨ (ifSt s d).st = .run := by
  rw [frozenIf, Bool.or_eq_true, beq_iff_eq, beq_iff_eq]
theorem ownedFrames_none {d : Nat} (h : ∀ f, (patEnt s f).owner ≠ d) : ownedFrames s d = [] := by
  rw [ownedFrames, List.filter_eq_nil_iff]
  exact fun f _ hf => h f (beq_iff_eq.1 hf)
theorem stopGo_quiet {d : Nat} (hq : ifQuiet s d = true) (h : ∀ f, (patEnt s f).owner ≠ d) : stopGo s d =
    toHost (modIf s d (fun x => { x with st := .unlocked, read := false, stopping := false })) (.spdmOk d) := by
  rw [stopGo, hq, if_pos rfl, ownedFrames_none h]; rfl
theorem stopGo_waits {d : Nat} (hq : ifQuiet s d = false) : stopGo s d = modIf s d (fun x => { x with stopping := true }) := by
  rw [stopGo, hq]; rfl
theorem ifSt_breach (s : State) (d : Nat) : (ifSt (breach s d) d).st = .error ∧ (ifSt (breach s d) d).cfg = (ifSt s d).cfg := by
  have h : ifSt (breach s d) d = ifSt (modIf s d fun x => { x with st := .error }) d := rfl
  rw [h, ifSt_modIf]; exact ⟨rfl, rfl⟩
/-- A configuration write. -/
def configured (s : State) (d off : Nat) (v : Word) : State := modIf s d (fun x => { x with cfg := fset x.cfg off v })
theorem configured_spec (s : State) (d off : Nat) (v : Word) : (ifSt (configured s d off v) d).st = (ifSt s d).st
    ∧ fget (ifSt (configured s d off v) d).cfg off = some v := by
  rw [configured, ifSt_modIf]
  exact ⟨rfl, fget_fset_self ..⟩
theorem exec_config {d off : Nat} {v : Word} (hd : d < 8) : exec .vfConfigWrite (facing s (.vfConfigWrite d off v)) =
    .next (if (vfBar off || vfMsix off) && frozenIf s d then breach (configured (facing s (.vfConfigWrite d off v)) d off v) d
      else configured (facing s (.vfConfigWrite d off v)) d off v) := by
  have h : exec .vfConfigWrite (facing s (.vfConfigWrite d off v)) = (if 8 ≤ d then .next (facing s (.vfConfigWrite d off v)) else
    .next (if (vfBar off || vfMsix off) && frozenIf s d then breach (configured (facing s (.vfConfigWrite d off v)) d off v) d
      else configured (facing s (.vfConfigWrite d off v)) d off v)) := rfl
  rw [h, if_neg (by omega)]
theorem spdmAnswer_spec (s : State) (d : Nat) (ask : SpdmAsk) : ∃ bs, (spdmAnswer s d ask).toHost = s.toHost ++ [.spdmAnswer d bs]
    ∧ (spdmAnswer s d ask).mem = s.mem := by
  cases ask <;> exact ⟨_, rfl, rfl⟩

end

/-- Settles O50. -/
theorem firmwareAndInterfaces : Obligations.FirmwareAndInterfaces := by
  unfold Obligations.FirmwareAndInterfaces
  refine ⟨fun s => ⟨fun n h hn => ?_, fun n h => ?_, fun n h hn hs hi => ?_, fun h hw hc => ?_, fun l h hq => ?_,
    fun a b c d k hcs h2 hi he hk ha hb hc hd => ?_, ⟨_, rfl, rfl, rfl, rfl, rfl, rfl, rfl, rfl⟩, ⟨_, rfl, rfl, rfl, rfl, rfl⟩⟩,
    fun s d hd => ⟨⟨_, _, _, rfl, rfl, rfl⟩, fun h => ?_, fun h => ?_, fun h => ?_, fun h hr => ?_, fun h => ?_, fun h hq hf =>
      ?_,
      fun h hq => ?_, fun h => ?_, fun off v => ?_, fun q ask => ?_⟩⟩
  · exact ⟨_, congrArg Host.Outcome.next (if_pos ⟨h, hn⟩), rfl, rfl, rfl, rfl⟩
  · exact congrArg Host.Outcome.next (if_neg fun h' => h h'.1)
  · exact ⟨_, congrArg Host.Outcome.next
    (if_pos ⟨h, hn, hs, by rw [show (facing s (.verifyAndSwap n)).fw.instAt = false from hi]; rfl⟩),
      rfl, rfl, rfl⟩
  · have hk := keepsFw_cpReads (facing s .firmwareVerification) (slotBase s.fw.cand) (fwSpan s s.fw.cand)
    obtain ⟨h1, h2, h3, h4, h5⟩ :=
      verify_spec (cpReads (facing s .firmwareVerification) (slotBase s.fw.cand) (fwSpan s s.fw.cand))
    rw [hk.fw] at h2 h3 h4 h5
    exact ⟨_, exec_verification h hw hc, h1.trans hk.mem, h2, h3, h4, h5⟩
  · obtain ⟨h1, h2, h3, h4⟩ := safePoint_swap (s := facing s (.queueSafePoint l)) (l := l) h hq
    exact ⟨_, rfl, h1, h2, h3, h4⟩
  · have hcore : ∀ k, Machine.core (facing s (.queueSafePoint [a, b, c, d])) k = Core.reset := fun k => by
      rw [Machine.core, show (facing s (.queueSafePoint [a, b, c, d])).cores = [] from hcs]; rfl
    have hnew := core_installHandlers (s := facing s (.queueSafePoint [a, b, c, d])) (fun k => by rw [hcore]; rfl) [a, b, c, d] hk
    refine ⟨_, congrArg Host.Outcome.next (safePoint_first (s := facing s (.queueSafePoint [a, b, c, d])) h2 hi he), ?_⟩
    rw [hnew]
    exact ⟨even_word ha, even_word hb, even_word hc, even_word hd⟩
  · exact ⟨_, congrArg Host.Outcome.next (if_pos ⟨hd, h⟩), by rw [ifSt_answered], by rw [ifSt_answered], rfl⟩
  · exact congrArg Host.Outcome.next (if_neg fun h' => h h'.2)
  · exact ⟨_, _, congrArg Host.Outcome.next (if_pos ⟨hd, frozenIf_iff.2 h⟩), by rw [ifSt_answered], by rw [ifSt_answered]; rfl,
    rfl⟩
  · exact ⟨_, congrArg Host.Outcome.next (if_pos ⟨hd, h, hr⟩), by rw [ifSt_answered], rfl⟩
  · refine congrArg Host.Outcome.next (if_neg fun h' => ?_)
    rcases h with h | h
    · exact h h'.2.1
    · exact Bool.false_ne_true (h.symm.trans h'.2.2)
  · exact ⟨_, congrArg Host.Outcome.next ((if_pos ⟨hd, h⟩).trans (stopGo_quiet (s := facing s (.stop d)) hq hf)),
      by rw [ifSt_answered], rfl⟩
  · exact ⟨_, congrArg Host.Outcome.next ((if_pos ⟨hd, h⟩).trans (stopGo_waits (s := facing s (.stop d)) hq)),
      by rw [ifSt_modIf]; rfl, by rw [ifSt_modIf], rfl⟩
  · exact congrArg Host.Outcome.next (if_neg fun h' => h'.2 h)
  · obtain ⟨hst, hcfg⟩ := configured_spec (facing s (.vfConfigWrite d off v)) d off v
    obtain ⟨hbst, hbcfg⟩ := ifSt_breach (configured (facing s (.vfConfigWrite d off v)) d off v) d
    refine ⟨_, exec_config hd, ?_, fun h1 h2 hs => ?_, fun hs => ?_⟩
    · split
      · rw [hbcfg, hcfg]
      · exact hcfg
    · rw [if_pos, hbst]
      rw [vfBar, decide_eq_true h1, decide_eq_true h2, frozenIf_iff.2 hs]; rfl
    · rw [if_neg, hst]
      · rfl
      · rw [Bool.and_eq_true, frozenIf_iff]
        rintro ⟨-, h | h⟩ <;> rcases hs with h' | h' <;> rw [h'] at h <;> cases h
  · by_cases hq : q < 8
    · exact ⟨_, [], congrArg Host.Outcome.next (if_pos hq), by rw [if_pos hq]; rfl, rfl⟩
    · obtain ⟨bs, h1, h2⟩ := spdmAnswer_spec (facing s (.spdmRequest q ask)) q ask
      exact ⟨_, bs, congrArg Host.Outcome.next (if_neg hq), by rw [if_neg hq]; exact h1, h2⟩

end Sys2Proof.Proofs.Trust
end

section
/-!
PROOFS. WHAT STATEMENT O49 RESTS ON. Reads, writes and register writes of the host, SYS messages, and the instructions of the
command processors; the proof of statement O49.
-/
namespace Sys2Proof.Proofs.HostSide
open Sys2Proof Sys2Proof.Machine DeviceMemory Seals Switching Trust

/-! ## What the host reads and writes (R355) -/

section
variable {s t u : State}

theorem sameMemory_fold {α : Type} {f : State → α → State} (h : ∀ s a, SameMemory s (f s a)) (m : List α) (s : State) :
    SameMemory s (m.foldl f s) := by
  induction m generalizing s with
  | nil => exact sameMemory_rfl
  | cons a m ih => exact (h s a).trans (ih _)
/-- Every byte of an access that answers has a device address. -/
theorem hostPa_reads {ide : Option Nat} {a : Nat} (h : hostReads s ide a = true) : ∃ pa, hostPa a = some pa := by
  rw [hostReads] at h
  split at h
  · simp at h
  · exact ⟨_, ‹_›⟩
theorem hostPas_get {a n : Nat} (h : ∀ k, k < n → ∃ pa, hostPa (a + k) = some pa) : (hostPas a n).length = n
    ∧ ∀ k, k < n → ∃ pa, hostPa (a + k) = some pa ∧ (hostPas a n)[k]? = some pa := by
  induction n with
  | zero => exact ⟨rfl, fun k hk => absurd hk (by omega)⟩
  | succ n ih =>
    obtain ⟨hl, hg⟩ := ih fun k hk => h k (by omega)
    obtain ⟨pa, hp⟩ := h n (by omega)
    have e : hostPas a (n + 1) = hostPas a n ++ [pa] := by
      simp only [hostPas, List.range_succ, List.filterMap_append, List.filterMap_cons, List.filterMap_nil, hp]
    rw [e]
    refine ⟨by simp [hl], fun k hk => ?_⟩
    rcases Nat.lt_succ_iff_lt_or_eq.1 hk with hk | rfl
    · obtain ⟨p, h1, h2⟩ := hg k hk
      exact ⟨p, h1, by rw [List.getElem?_append_left (by omega), h2]⟩
    · exact ⟨pa, hp, by rw [List.getElem?_append_right (by omega), hl]; simp⟩
theorem mem_hostPas {a n pa : Nat} (h : pa ∈ hostPas a n) : ∃ k, k < n ∧ hostPa (a + k) = some pa := by
  obtain ⟨k, hk, hp⟩ := List.mem_filterMap.1 h
  exact ⟨k, List.mem_range.1 hk, hp⟩
theorem eccSector_none {k : Nat} (h : fget s.errs k = none) : eccSector s k = s := by rw [eccSector, h]
/-- A read of sectors without an error leaves errors, poison and memory. -/
theorem sectors_read (l : List Nat) (s : State) (h : ∀ k ∈ l, fget s.errs k = none) :
    SameMemory s (l.foldl (fun s k => touch (eccSector s k) (32 * k)) s)
    ∧ (l.foldl (fun s k => touch (eccSector s k) (32 * k)) s).poison = s.poison
    ∧ (l.foldl (fun s k => touch (eccSector s k) (32 * k)) s).toHost = s.toHost := by
  induction l generalizing s with
  | nil => exact ⟨sameMemory_rfl, rfl, rfl⟩
  | cons k l ih =>
    rw [List.foldl_cons, eccSector_none (h k (by simp))]
    obtain ⟨h1, h2, h3⟩ := ih (touch s (32 * k)) fun j hj => h j (by simp [hj])
    exact ⟨(sameMemory_touch s (32 * k)).trans h1, h2, h3⟩
/-- The state in which the bytes of a host's access are read. -/
def sectorsRead (s : State) (a n : Nat) : State :=
  ((hostPas a n).map sectorOf).dedup.foldl (fun s k => touch (eccSector s k) (32 * k)) s
theorem hostRead_serves {a n : Nat} {ide : Option Nat} (h1 : ∀ k, k < n → hostReads s ide (a + k) = true)
    (h2 : ∀ k pa, k < n → hostPa (a + k) = some pa → chanBusy s pa = false ∧ injFires s pa = false
      ∧ fget s.errs (sectorOf pa) = none ∧ sectorOf pa ∉ s.poison) :
    hostRead s a n ide = toHost (sectorsRead s a n) (.readData ((hostPas a n).map (devByte s)))
    ∧ (sectorsRead s a n).toHost = s.toHost ∧ (sectorsRead s a n).mem = s.mem := by
  have hall : (List.range n).all (fun k => hostReads s ide (a + k)) = true :=
    List.all_eq_true.2 fun k hk => h1 k (List.mem_range.1 hk)
  have hmem : ∀ pa ∈ hostPas a n, chanBusy s pa = false ∧ injFires s pa = false
      ∧ fget s.errs (sectorOf pa) = none ∧ sectorOf pa ∉ s.poison := by
    intro pa hp
    obtain ⟨k, hk, he⟩ := mem_hostPas hp
    exact h2 k pa hk he
  obtain ⟨hs, hp, hh⟩ := sectors_read ((hostPas a n).map sectorOf).dedup s (by
    intro k hk
    obtain ⟨pa, hpa, rfl⟩ := List.mem_map.1 (List.mem_dedup.1 hk)
    exact (hmem pa hpa).2.2.1)
  refine ⟨?_, hh, hs.2.2⟩
  have hb : (hostPas a n).any (chanBusy s) = false := by
    simpa only [List.any_eq_false, Bool.not_eq_true] using fun pa hpa => (hmem pa hpa).1
  have hc : (hostPas a n).any (eccStops s) = false := by
    simpa only [List.any_eq_false, Bool.not_eq_true] using fun pa hpa => eccStops_none (hmem pa hpa).2.2.1
  have hi : (hostPas a n).any (injFires s) = false := by
    simpa only [List.any_eq_false, Bool.not_eq_true] using fun pa hpa => (hmem pa hpa).2.1
  have ho : (hostPas a n).any (fun pa => (sectorsRead s a n).poison.contains (sectorOf pa)) = false := by
    rw [sectorsRead, hp]
    simpa only [List.any_eq_false, List.contains_iff_mem] using fun pa hpa => (hmem pa hpa).2.2.2
  unfold hostRead
  dsimp only
  rw [hall, hb, hc, hi, Bool.not_true, if_neg Bool.false_ne_true, if_neg Bool.false_ne_true, if_neg Bool.false_ne_true,
    if_neg Bool.false_ne_true]
  rw [sectorsRead] at ho
  rw [ho, if_neg Bool.false_ne_true, sectorsRead]
  exact congrArg (fun l => toHost _ (.readData l)) (List.map_congr_left fun pa _ => hs.devByte pa)
theorem not_all_range {f : Nat → Bool} {n : Nat} (h : ∃ k, k < n ∧ f k = false) : (List.range n).all f = false := by
  obtain ⟨k, hk, hf⟩ := h
  exact List.all_eq_false.2 ⟨k, List.mem_range.2 hk, by rw [hf]; exact Bool.false_ne_true⟩
theorem hostRead_poison {a n : Nat} {ide : Option Nat} (h : ∃ k, k < n ∧ hostReads s ide (a + k) = false) :
    hostRead s a n ide = toHost s .poisonResp := by
  unfold hostRead
  dsimp only
  rw [not_all_range h, Bool.not_false, if_pos rfl]
theorem hostStore_poison {a : Nat} {l : List Byte} {ide : Option Nat}
    (h : ∃ k, k < l.length ∧ hostWrites s ide (a + k) = false) : hostStore s a l ide = toHost s .poisonResp := by
  rw [hostStore, not_all_range h, if_neg Bool.false_ne_true]
theorem hostStore_byte {a pa : Nat} {x : Byte} {ide : Option Nat} (h1 : hostWrites s ide a = true) (h2 : s.sl.phase = .open_)
    (h3 : hostPa a = some pa) (h4 : vaultStalls s pa = false) (h5 : chanBusy s pa = false) :
    hostStore s a [x] ide = toHost (physWrite s pa 1 (x.setWidth 64)) .done := by
  have hp : hostPas a 1 = [pa] := by simp [hostPas, List.range_succ, h3]
  have ha : (List.range 1).all (fun k => hostWrites s ide (a + k)) = true := by simp [h1]
  rw [hostStore, List.length_singleton, ha, if_pos rfl, hp]
  rw [if_neg (by simp [h2, h4, h5])]
  simp only [List.zipIdx_cons, List.zipIdx_nil, List.foldl_cons, List.foldl_nil, Nat.add_zero, hostPut, h3]
theorem exec_hostMemRead (s : State) (a n : Nat) (ide : Option Nat) :
    exec .hostMemRead (facing s (.hostMemRead a n ide)) = .next (hostRead (facing s (.hostMemRead a n ide)) a n ide) := rfl
theorem exec_hostMemWrite (s : State) (a : Nat) (l : List Byte) (ide : Option Nat) :
    exec .hostMemWrite (facing s (.hostMemWrite a l ide)) = .next (hostStore (facing s (.hostMemWrite a l ide)) a l ide) := rfl

end

/-! ## Register writes (R356) -/

section
variable {s t u : State}

/-- Memory and the cores are in `t` as in `s`. -/
def Spares (s t : State) : Prop := t.mem = s.mem ∧ t.cores = s.cores
theorem spares_rfl : Spares s s := ⟨rfl, rfl⟩
/-- The word that a value of `dxsys` names a unit with (R43). -/
def sysWord (v : Word) : Word := BitVec.ofNat 64 (bits v 15 0 * 2 ^ 32 + bits v 31 16 * 2 ^ 16)
/-- A SYS message to core `c` of module `m`, where it can go there. -/
def sysTo (s : State) (n c m : Nat) : State :=
  let l : Mail := ⟨(cpSt s n).dxsysd, Config.freeWord s.freeN, Config.freeWord (s.freeN + 1)⟩
  let s := { s with freeN := s.freeN + 2 }
  if m = 0x3FF ∨ m = s.fab.modnum then post s (.sysMessage ⟨c, l, none, []⟩)
  else if reachable s m then emit s m .ordered (.sys ⟨c, l, none, []⟩) else s
/-- `sendSys` is unfolded as a function, not at its arguments: there the kernel would compute the unit's number of a variable. -/
theorem sendSys_def : sendSys = fun s n v => (entCore (sysWord v)).elim s (fun c => sysTo s n c (entMod (sysWord v))) := by
  have e : sendSys = sendSys := rfl
  conv at e => rhs; delta sendSys
  refine e.trans ?_
  funext s n v
  unfold sysWord
  generalize BitVec.ofNat 64 (bits v 15 0 * 2 ^ 32 + bits v 31 16 * 2 ^ 16) = w
  cases h : entCore w with
  | none => simp only [h]; rfl
  | some c =>
    simp only [h]
    generalize entMod w = m
    rw [Option.elim_some]
    rfl
theorem sendSys_eq (s : State) (n : Nat) (v : Word) :
    sendSys s n v = (entCore (sysWord v)).elim s (fun c => sysTo s n c (entMod (sysWord v))) := by rw [sendSys_def]
theorem spares_sysTo (s : State) (n c m : Nat) : Spares s (sysTo s n c m) := by
  unfold sysTo
  dsimp only
  split
  · exact ⟨rfl, rfl⟩
  · split <;> exact ⟨rfl, rfl⟩
theorem spares_sendSys (s : State) (n : Nat) (v : Word) : Spares s (sendSys s n v) := by
  rw [sendSys_eq]
  cases entCore (sysWord v) with
  | none => exact spares_rfl
  | some c => rw [Option.elim_some]; exact spares_sysTo ..
theorem spares_cpCsrPut (s : State) (n csr : Nat) (v : Word) : Spares s (cpCsrPut s n csr v) := by
  unfold cpCsrPut
  split
  · exact ⟨rfl, rfl⟩
  · exact spares_sendSys ..
  · exact ⟨rfl, rfl⟩
  · exact ⟨rfl, rfl⟩
theorem spares_csrAccess (s : State) (n csr : Nat) (v : Word) : Spares s (csrAccess s n csr (some v)) := by
  unfold csrAccess
  split
  · exact ⟨rfl, rfl⟩
  · exact spares_cpCsrPut ..
theorem spares_stackCmd (s : State) (k op ch lane : Nat) : Spares s (stackCmd s k op ch lane) := by
  unfold stackCmd
  split
  · exact spares_rfl
  · exact ⟨rfl, rfl⟩
theorem spares_stackWrite (s : State) (k off : Nat) (v : Word) : Spares s (stackWrite s k off v) := by
  unfold stackWrite
  split
  · dsimp only
    split
    · exact spares_stackCmd ..
    · split
      · exact spares_stackCmd ..
      · exact spares_rfl
  all_goals exact ⟨rfl, rfl⟩
theorem spares_fabWrite (s : State) (off : Nat) (v : Word) : Spares s (fabWrite s off v) := by
  unfold fabWrite
  split
  · split <;> exact ⟨rfl, rfl⟩
  all_goals exact ⟨rfl, rfl⟩
theorem spares_admGo (s : State) : Spares s (admGo s) := by
  unfold admGo
  split <;> exact ⟨rfl, rfl⟩
theorem spares_patPut (s : State) (f d : Nat) : Spares s (patPut s f d) := by
  simp only [Spares, patPut, patWrite]
  split
  · exact ⟨rfl, rfl⟩
  · split
    · split <;> exact ⟨rfl, rfl⟩
    · split <;> exact ⟨rfl, rfl⟩
theorem spares_if {c : Prop} [Decidable c] (h : Spares s t) (h' : Spares s u) : Spares s (if c then t else u) := by
  split
  · exact h
  · exact h'
theorem spares_barWrite (s : State) (host : Bool) (off : Nat) (v : Word) : Spares s (barWrite s host off v) := by
  unfold barWrite
  split
  case h_1 => exact spares_admGo s
  case h_10 => exact spares_if spares_rfl (spares_patPut ..)
  case h_11 => exact spares_if ⟨rfl, rfl⟩ (spares_if ⟨rfl, rfl⟩ spares_rfl)
  case h_3 | h_4 | h_5 | h_7 | h_9 => exact spares_if ⟨rfl, rfl⟩ ⟨rfl, rfl⟩
  all_goals exact ⟨rfl, rfl⟩
theorem spares_regWrite (s : State) (host : Bool) (off : Nat) (v : Word) : Spares s (regWrite s host off v) := by
  unfold regWrite
  refine spares_if (spares_if spares_rfl (spares_fabWrite ..))
    (spares_if ?_ (spares_if (spares_if spares_rfl (spares_csrAccess ..))
    (spares_if ⟨rfl, rfl⟩ (spares_if ⟨rfl, rfl⟩ (spares_if (spares_stackWrite ..) (spares_barWrite ..))))))
  dsimp only
  cases vfQueue s ((off - vfBase) / 4096) ((off - vfBase) % 4096)
  · exact spares_rfl
  · exact ⟨rfl, rfl⟩
/-- The offsets of the registers that are no doorbell, no command word and of no stack. -/
theorem regWrite_bar {off : Nat} (host : Bool) (v : Word) (h1 : off < 0x10000) (h2 : off < 0x100 ∨ 0x140 ≤ off)
    (h3 : off < 0x1000 ∨ 0x1200 ≤ off) (h4 : off < 0x3000 ∨ 0x3200 ≤ off) : regWrite s host off v = barWrite s host off v := by
  rw [regWrite, if_neg (by simp only [fabBase]; omega), if_neg (by simp only [vfBase]; omega),
    if_neg (by simp only [csrBase]; omega), if_neg (by omega), if_neg (by omega), if_neg (by omega)]
theorem regWrite_admcmd {k : Nat} (hk : k < 8) (host : Bool) (v : Word) : regWrite s host (0x100 + 8 * k) v =
    { s with adm := { s.adm with cmd := s.adm.cmd.setIfInBounds k v } } := by
  rw [regWrite, if_neg (by simp only [fabBase]; omega), if_neg (by simp only [vfBase]; omega),
    if_neg (by simp only [csrBase]; omega), if_pos (by omega), show (0x100 + 8 * k - 0x100) / 8 = k by omega]
theorem regWrite_doorbell {q : Nat} (hq : q < 64) (host : Bool) (v : Word) : regWrite s host (0x1000 + 8 * q) v =
    post s (.dbq q v none) := by
  rw [regWrite, if_neg (by simp only [fabBase]; omega), if_neg (by simp only [vfBase]; omega),
    if_neg (by simp only [csrBase]; omega), if_neg (by omega), if_pos (by omega), show (0x1000 + 8 * q - 0x1000) / 8 = q by omega]
theorem setCap_pwnext (x : LifeSt) (now v : Nat) : (setCap x now v).pwnext = v := by
  unfold setCap; split <;> rfl
theorem registerWrite_spec (s : State) (host : Bool) (v : Word) (off : Nat) : Spares s (regWrite s host off v)
    ∧ (off = 0x2000 → (regWrite s host off v).sl = { s.sl with slper := v })
    ∧ (off = 0x2100 → (regWrite s host off v).wd = if host then s.wd else { s.wd with wdper := v })
    ∧ (off = 0x2108 → (regWrite s host off v).wd.lastK = s.cycle)
    ∧ (off = 0x3200 → (regWrite s host off v).sridle = v)
    ∧ (off = 0x3208 → (regWrite s host off v).patsel = if host then s.patsel else bits v 12 0)
    ∧ (off = 0x5000 → (regWrite s host off v).life.pwnext = if 2300 < bits v 11 0 then 2300 else max 1000 (bits v 11 0))
    ∧ (∀ k, k < 8 → off = 0x100 + 8 * k → (regWrite s host off v).adm.cmd = s.adm.cmd.setIfInBounds k v)
    ∧ (∀ q, q < 64 → off = 0x1000 + 8 * q → (regWrite s host off v).pending = s.pending ++ [.dbq q v none]) := by
  refine ⟨spares_regWrite .., ?_, ?_, ?_, ?_, ?_, ?_, ?_, ?_⟩
  · rintro rfl; rw [regWrite_bar host v (by omega) (by omega) (by omega) (by omega)]; rfl
  · rintro rfl; rw [regWrite_bar host v (by omega) (by omega) (by omega) (by omega)]; cases host <;> rfl
  · rintro rfl; rw [regWrite_bar host v (by omega) (by omega) (by omega) (by omega)]; rfl
  · rintro rfl; rw [regWrite_bar host v (by omega) (by omega) (by omega) (by omega)]; rfl
  · rintro rfl; rw [regWrite_bar host v (by omega) (by omega) (by omega) (by omega)]; cases host <;> rfl
  · rintro rfl; rw [regWrite_bar host v (by omega) (by omega) (by omega) (by omega)]
    exact setCap_pwnext s.life s.cycle (clampCap (bits v 11 0))
  · rintro k hk rfl; rw [regWrite_admcmd hk]
  · rintro q hq rfl; rw [regWrite_doorbell hq]; rfl
theorem sysTo_here {k : Nat} (n c : Nat) (hk : k = 0x3FF ∨ k = s.fab.modnum) :
    ∃ m, (sysTo s n c k).pending = s.pending ++ [.sysMessage m] ∧ m.dest = c ∧ m.mail.w0 = (cpSt s n).dxsysd
      ∧ (sysTo s n c k).mem = s.mem := by
  unfold sysTo
  dsimp only
  rw [if_pos hk]
  exact ⟨_, rfl, rfl, rfl, rfl⟩
theorem sendSys_here {n c : Nat} {v : Word} (hc : entCore (sysWord v) = some c)
    (hm : entMod (sysWord v) = 0x3FF ∨ entMod (sysWord v) = s.fab.modnum) :
    ∃ m, (sendSys s n v).pending = s.pending ++ [.sysMessage m] ∧ m.dest = c ∧ m.mail.w0 = (cpSt s n).dxsysd
      ∧ (sendSys s n v).mem = s.mem := by
  rw [sendSys_eq, hc, Option.elim_some]
  exact sysTo_here n c hm
theorem physWrite_toHost (s : State) (pa n : Nat) (x : Word) : (physWrite s pa n x).toHost = s.toHost := by
  rw [physWrite, physPut]
  generalize hu : ({ logGranule (touch s pa) pa with mem := _ } : State) = u
  obtain ⟨v, q, g, h⟩ := putKepts_eq u pa (leBytes n x.toNat)
  rw [h, ← hu]
  obtain ⟨v, st, l, p, q, h⟩ := logGranule_eq (touch s pa) pa
  rw [h]
  rfl

end

/-! ## The command processors' instructions (R358) -/

section
variable {s t u : State} {n : Nat}

theorem cpSt_modCp (s : State) (n : Nat) (f : CpSt → CpSt) : cpSt (modCp s n f) n = f (cpSt s n) := by
  simp only [cpSt, modCp, fget_fset_self, Option.getD_some]
theorem cpCsr_setCpCsr (c : CpSt) (k m : Nat) (v : Word) : cpCsr (setCpCsr c k v) m = if m = k then v else cpCsr c m := by
  simp only [cpCsr, setCpCsr, fget_fset]
  split <;> rfl
/-- A word of the I type (R358). -/
def rvWord (imm rs f3 rd op : Nat) : Nat := imm * 2 ^ 20 + rs * 2 ^ 15 + f3 * 2 ^ 12 + rd * 2 ^ 7 + op
theorem rvWord_fields {imm rs f3 rd op : Nat} (h1 : rs < 32) (h2 : f3 < 8) (h3 : rd < 32) (h4 : op < 128) :
    rvWord imm rs f3 rd op % 128 = op ∧ rvBits (rvWord imm rs f3 rd op) 14 12 = f3 ∧ rvBits (rvWord imm rs f3 rd op) 11 7 = rd
    ∧ rvBits (rvWord imm rs f3 rd op) 19 15 = rs ∧ rvWord imm rs f3 rd op / 2 ^ 20 = imm := by
  simp only [rvWord, rvBits]
  norm_num only
  omega
theorem rvExec_csr {imm rs f3 rd : Nat} (h1 : rs < 32) (h2 : f3 ∈ [1, 2, 3, 5, 6, 7]) (h3 : rd < 32) :
    rvExec s n (rvWord imm rs f3 rd 0x73) 4 = rvCsr s n (rvWord imm rs f3 rd 0x73) ((cpSt s n).pc + 4) := by
  have h8 : f3 < 8 ∧ f3 ≠ 4 ∧ f3 ≠ 0 := by simp only [List.mem_cons, List.not_mem_nil, or_false] at h2; omega
  obtain ⟨e1, e2, -⟩ := rvWord_fields (imm := imm) (rs := rs) (f3 := f3) (rd := rd) (op := 0x73) h1 h8.1 h3 (by omega)
  generalize rvWord imm rs f3 rd 0x73 = w at *
  unfold rvExec
  simp only [e1]
  rw [rvSystem, e2]
  dsimp only
  rw [if_neg h8.2.1, if_pos h8.2.2]
  rfl
/-- What a CSR instruction does, by its fields. -/
theorem rvCsr_eq {w csr rs f3 rd : Nat} (e1 : rvBits w 14 12 = f3) (e2 : rvBits w 11 7 = rd) (e3 : rvBits w 19 15 = rs)
    (e4 : w / 2 ^ 20 = csr) (next : Word) : rvCsr s n w next =
    if !csrLegal (cpSt s n) csr (f3 % 4 == 1 || rs != 0) then .trap s 2 0
    else
      let old := csrRead s n csr
      let v := if 4 ≤ f3 then BitVec.ofNat 64 rs else cpX s n rs
      let new := match f3 % 4 with
        | 1 => v
        | 2 => old ||| v
        | _ => old &&& ~~~v
      let new := if csr = 0xB02 ∧ !inhibited (cpSt s n) 2 then new - 1 else new
      .ok (setX (if f3 % 4 == 1 || rs != 0 then cpCsrPut s n csr new else s) n rd old) next := by
  subst e1 e2 e3 e4
  rfl
theorem csrLegal_vendor {c : CpSt} {csr : Nat} (hc : csr ∈ [0x7C0, 0x7C1, 0x7C2, 0xFC0, 0xFC1]) (writes : Bool) :
    csrLegal c csr writes = (decide (3 ≤ c.mode) && !(writes && decide (0xFC0 ≤ csr))) := by
  simp only [List.mem_cons, List.not_mem_nil, or_false] at hc
  rcases hc with rfl | rfl | rfl | rfl | rfl <;> cases writes <;> simp [csrLegal, stdCsr, vendorCsr]
theorem csr_refused {csr rs f3 rd : Nat} (h1 : rs < 32) (h2 : rd < 32) (h3 : f3 ∈ [1, 2, 3, 5, 6, 7])
    (hc : csr ∈ [0x7C0, 0x7C1, 0x7C2, 0xFC0, 0xFC1])
    (h : (cpSt s n).mode < 3 ∨ (0xFC0 ≤ csr ∧ (f3 % 4 = 1 ∨ rs ≠ 0))) :
    rvExec s n (rvWord csr rs f3 rd 0x73) 4 = .trap s 2 0 := by
  have h8 : f3 < 8 := by simp only [List.mem_cons, List.not_mem_nil, or_false] at h3; omega
  obtain ⟨-, e2, e3, e4, e5⟩ := rvWord_fields (imm := csr) (op := 0x73) h1 h8 h2 (by omega)
  rw [rvExec_csr h1 h3 h2, rvCsr_eq e2 e3 e4 e5, csrLegal_vendor hc, if_pos]
  rcases h with h | ⟨ha, hb⟩
  · simp [show ¬ 3 ≤ (cpSt s n).mode by omega]
  · rcases hb with hb | hb <;> simp [ha, hb]
theorem csr_reads {csr rd : Nat} (hm : (cpSt s n).mode = 3) (h2 : rd < 32)
    (hc : csr ∈ [0x7C0, 0x7C1, 0x7C2, 0xFC0, 0xFC1]) :
    rvExec s n (rvWord csr 0 2 rd 0x73) 4 = .ok (setX s n rd (csrRead s n csr)) ((cpSt s n).pc + 4) := by
  obtain ⟨-, e2, e3, e4, e5⟩ := rvWord_fields (imm := csr) (rs := 0) (f3 := 2) (op := 0x73) (by omega) (by omega) h2 (by omega)
  rw [rvExec_csr (by omega) (by simp) h2, rvCsr_eq e2 e3 e4 e5, csrLegal_vendor hc, if_neg (by simp [hm])]
  rfl
theorem csr_dxbell {rs : Nat} (hm : (cpSt s n).mode = 3) (h : rs < 32) : ∃ t,
    rvExec s n (rvWord 0x7C0 rs 1 0 0x73) 4 = .ok t ((cpSt s n).pc + 4)
    ∧ cpSt t n = { cpSt s n with dxbell := (cpSt s n).dxbell &&& ~~~(cpX s n rs) } ∧ t.mem = s.mem := by
  obtain ⟨-, e2, e3, e4, e5⟩ := rvWord_fields (imm := 0x7C0) (f3 := 1) (rd := 0) (op := 0x73) h (by omega) (by omega) (by omega)
  refine ⟨modCp s n (fun c => { c with dxbell := c.dxbell &&& ~~~(cpX s n rs) }), ?_, cpSt_modCp .., rfl⟩
  rw [rvExec_csr h (by simp) (by omega), rvCsr_eq e2 e3 e4 e5, csrLegal_vendor (by simp), if_neg (by simp [hm])]
  rfl

/-! ### Registers -/

theorem cpX_setX {rd : Nat} (h : rd < 32) (s : State) (n : Nat) (v : Word) :
    cpX (setX s n rd v) n rd = (if rd = 0 then 0 else v) ∧ ∀ r, r ≠ rd → cpX (setX s n rd v) n r = cpX s n r := by
  unfold setX
  by_cases h0 : rd = 0
  · subst h0; exact ⟨rfl, fun r _ => rfl⟩
  · rw [if_neg h0, if_neg h0]
    constructor
    · rw [cpX, if_neg h0, cpSt_modCp]
      simp [List.getD_eq_getElem?_getD, h]
    · intro r hr
      rw [cpX, cpX, cpSt_modCp]
      simp [List.getD_eq_getElem?_getD, List.getElem?_set_ne (Ne.symm hr)]
theorem mem_setX (s : State) (n r : Nat) (v : Word) : (setX s n r v).mem = s.mem := by
  unfold setX; split <;> rfl
theorem immI_of {w imm : Nat} (h : w / 2 ^ 20 = imm) : immI w = (BitVec.ofNat 12 imm).signExtend 64 := by subst h; rfl
theorem addi_runs {imm rs rd : Nat} (h1 : rs < 32) (h2 : rd < 32) : rvExec s n (rvWord imm rs 0 rd 0x13) 4 =
    .ok (setX s n rd (cpX s n rs + (BitVec.ofNat 12 imm).signExtend 64)) ((cpSt s n).pc + 4) := by
  obtain ⟨e1, e2, e3, e4, e5⟩ := rvWord_fields (imm := imm) (rs := rs) (f3 := 0) (rd := rd) (op := 0x13) h1 (by omega) h2
    (by omega)
  rw [← immI_of e5]
  generalize rvWord imm rs 0 rd 0x13 = w at *
  unfold rvExec
  simp only [e1]
  rw [rvImm, e2, e3, e4]
  rfl

/-! ### Loads -/

theorem pmpPasses_none {c : CpSt} (h : ∀ k, pmpCfg c k / 8 % 4 = 0) (a : CpAcc) (pa b : Nat) : pmpPasses c a 3 pa b = true := by
  have hr : ∀ i, pmpRange c i = (0, 0) := fun i => by simp only [pmpRange, h i]
  simp only [pmpPasses, hr]
  rw [List.find?_eq_none.2 fun i _ => by simp]
  rfl
theorem accMode_machine {c : CpSt} (hm : c.mode = 3) (hp : (cpCsr c 0x300).getLsbD 17 = false) (a : CpAcc) : accMode c a = 3 := by
  simp only [accMode, hp, hm]
  simp
theorem cpAddress_machine {va : Word} {b : Nat} {a : CpAcc} (hm : (cpSt s n).mode = 3)
    (hp : (cpCsr (cpSt s n) 0x300).getLsbD 17 = false) (h : ∀ k, pmpCfg (cpSt s n) k / 8 % 4 = 0) :
    cpAddress s n va b a = .ok s va.toNat := by
  unfold cpAddress
  dsimp only
  rw [accMode_machine hm hp, if_pos (.inl rfl)]
  simp only [cpThen]
  rw [pmpPasses_none h, if_pos rfl]
theorem cpDevRead_serves {pa b : Nat} (hw : cpWaits s pa b = false) (hs : cpStops s pa b = false) :
    cpDevRead s pa b = .ok (cpReads s pa b) (BitVec.ofNat 64 (memNat (cpReads s pa b) pa b)) := by
  rw [cpDevRead, hw, hs, if_neg Bool.false_ne_true, if_neg Bool.false_ne_true, cpLook_serves hs]
  rfl
theorem cpLoad_device {va : Word} {pa : Nat} (hm : (cpSt s n).mode = 3) (hp : (cpCsr (cpSt s n) 0x300).getLsbD 17 = false)
    (h : ∀ k, pmpCfg (cpSt s n) k / 8 % 4 = 0) (ha : pa % 8 = 0) (hv : paValid pa = true)
    (he : va.toNat = 0x1000000000 + pa) (hw : cpWaits s pa 8 = false) (hs : cpStops s pa 8 = false) :
    cpLoad s n va 8 .load = .ok (cpReads s pa 8) (memWord (cpReads s pa 8) pa) := by
  have hg : cpReadGo s (0x1000000000 + pa) 8 .load va = .ok (cpReads s pa 8) (memWord (cpReads s pa 8) pa) := by
    rw [cpReadGo, if_pos (by simp only [cpMemBase]; omega), cpMemBase, Nat.add_sub_cancel_left, if_pos hv, cpDevRead_serves hw hs]
    rfl
  have hmask : ∀ x : Word, x &&& BitVec.ofNat 64 (2 ^ (8 * 8) - 1) = x := fun x => by
    rw [show BitVec.ofNat 64 (2 ^ (8 * 8) - 1) = BitVec.allOnes 64 from rfl, BitVec.and_allOnes]
  rw [cpLoad, if_neg (by omega), cpAddress_machine hm hp h, he]
  simp only [cpThen, hg, hmask]
theorem rvLoad_word {w rs rd : Nat} {next x : Word} (e1 : rvBits w 14 12 = 3) (e2 : rvBits w 11 7 = rd)
    (e3 : rvBits w 19 15 = rs) (hi : immI w = 0) (hl : cpLoad s n (cpX s n rs) 8 .load = .ok t x) :
    rvLoad s n w next = .ok (setX t n rd x) next := by
  have hx : signed (8 * 8) x.toNat = x := by
    rw [show 8 * 8 = 64 from rfl, signed, BitVec.ofNat_toNat, BitVec.setWidth_eq, BitVec.signExtend_eq]
  have h0 : cpX s n rs + 0 = cpX s n rs := by simp
  rw [rvLoad, e1, e2, e3, hi, h0, show 2 ^ (3 % 4) = 8 from rfl, hl, if_neg (by decide), cpThen, if_pos (by decide), hx]
theorem ld_runs {pa rs rd : Nat} (h1 : rs < 32) (h2 : rd < 32) (hm : (cpSt s n).mode = 3)
    (hp : (cpCsr (cpSt s n) 0x300).getLsbD 17 = false) (h : ∀ k, pmpCfg (cpSt s n) k / 8 % 4 = 0) (ha : pa % 8 = 0)
    (hv : paValid pa = true) (he : (cpX s n rs).toNat = 0x1000000000 + pa) (hw : cpWaits s pa 8 = false)
    (hs : cpStops s pa 8 = false) : rvExec s n (rvWord 0 rs 3 rd 0x03) 4 =
    .ok (setX (cpReads s pa 8) n rd (memWord (cpReads s pa 8) pa)) ((cpSt s n).pc + 4) := by
  obtain ⟨e1, e2, e3, e4, e5⟩ := rvWord_fields (imm := 0) (rs := rs) (f3 := 3) (rd := rd) (op := 0x03) h1 (by omega) h2 (by omega)
  have hi : immI (rvWord 0 rs 3 rd 0x03) = 0 := by rw [immI_of e5]; rfl
  have hl := cpLoad_device hm hp h ha hv he hw hs
  generalize rvWord 0 rs 3 rd 0x03 = w at *
  generalize cpReads s pa 8 = u at *
  generalize memWord u pa = x at *
  unfold rvExec
  simp only [e1]
  exact rvLoad_word e2 e3 e4 hi hl

/-! ### Exceptions, and a step -/

theorem cpTrap_machine (cause : Nat) (tval : Word) (hm : (cpSt s n).mode = 3) :
    (cpSt (cpTrap s n cause tval) n).mode = 3
    ∧ (cpSt (cpTrap s n cause tval) n).pc = cpCsr (cpSt s n) 0x305 &&& ~~~(3 : Word)
    ∧ cpCsr (cpSt (cpTrap s n cause tval) n) 0x341 = (cpSt s n).pc
    ∧ cpCsr (cpSt (cpTrap s n cause tval) n) 0x342 = BitVec.ofNat 64 cause
    ∧ cpCsr (cpSt (cpTrap s n cause tval) n) 0x343 = tval ∧ (cpSt (cpTrap s n cause tval) n).x = (cpSt s n).x := by
  rw [cpTrap, cpSt_modCp]
  generalize cpSt s n = c at *
  have hd : decide (c.mode < 3) = false := by simp [hm]
  rw [hd, Bool.false_and]
  have hcsr : ∀ (c : CpSt) (m : Nat) (pc : Word) (k : Nat), cpCsr { c with mode := m, pc := pc } k = cpCsr c k := fun _ _ _ _ =>
    rfl
  unfold cpEnter
  refine ⟨rfl, ?_, ?_, ?_, ?_, rfl⟩
  · simp
  all_goals
    rw [if_neg Bool.false_ne_true]
    simp [hcsr, cpCsr_setCpCsr]
/-- A command processor that takes no interrupt and waits for none executes the instruction at its pc. -/
theorem rvStep_runs {v z : State} {w len : Nat} {pc : Word} (ht : cpTakes (cpSt s n) = none) (hw : (cpSt s n).wfi = false)
    (hf : rvFetch (modCp s n (fun c => { c with wfi := false })) n = .ok v (w, len)) (he : rvExec v n w len = .ok z pc) :
    rvStep s n = modCp z n (fun c => retire c z.cycle pc) := by
  unfold rvStep
  dsimp only
  rw [ht]
  dsimp only
  rw [hw, hf]
  simp only [cpThen, he]
  rfl

theorem step_cpStep {l : List Turn} (hp : s.powered = true) (ha : s.agenda = .cpStep n :: l) (hn : n < 8) :
    Sys2Proof.Machine.step s = .next (settleAll (rvStep { s with agenda := l } n)) := by
  rw [Sys2Proof.Machine.step, stepGo, ha]
  dsimp only
  rw [if_pos hp, turn, Nat.mod_eq_of_lt hn]

end
/-- Settles O49, from `hostRead_serves`, `hostStore_byte`, `registerWrite_spec`, `sendSys_here`, and for the command processors
  from
`csr_refused`, `csr_reads`, `csr_dxbell`, `addi_runs`, `ld_runs`, `cpTrap_machine` and `rvStep_runs`. -/
theorem hostAccesses : Obligations.HostAccesses := by
  unfold Obligations.HostAccesses
  refine ⟨fun s => ⟨?_, ?_, ?_, ?_, ?_, ?_⟩, fun s n hn => ?_⟩
  · intro a n ide h1 h2
    rw [exec_hostMemRead]
    obtain ⟨he, hh, hm⟩ := hostRead_serves (s := facing s (.hostMemRead a n ide)) (ide := ide) h1 h2
    obtain ⟨hl, hg⟩ := hostPas_get (n := n) fun k hk => hostPa_reads (h1 k hk)
    have hd : devByte (facing s (.hostMemRead a n ide)) = devByte s := funext (sameMemory_facing s _).devByte
    rw [he, hd]
    refine ⟨_, (hostPas a n).map (devByte s), rfl, ?_, by rw [List.length_map, hl], fun k hk => ?_, hm⟩
    · exact congrArg (· ++ [HostMsg.readData ((hostPas a n).map (devByte s))]) hh
    · obtain ⟨pa, hp, hk⟩ := hg k hk
      exact ⟨pa, hp, by rw [List.getElem?_map, hk]; rfl⟩
  · intro a n ide h
    rw [exec_hostMemRead]
    exact congrArg Host.Outcome.next (hostRead_poison (s := facing s (.hostMemRead a n ide)) h)
  · intro a x ide pa h1 h2 h3 h4 h5 hok
    rw [exec_hostMemWrite]
    generalize hf : facing s (.hostMemWrite a [x] ide) = f
    have hs : SameMemory s f := hf ▸ sameMemory_facing ..
    have e : hostStore f a [x] ide = toHost (physWrite f pa 1 (x.setWidth 64)) .done := by
      subst hf; exact hostStore_byte (s := facing s (.hostMemWrite a [x] ide)) h1 h2 h3 h4 h5
    refine ⟨_, congrArg Host.Outcome.next e, ?_, ?_⟩
    · subst hf
      exact congrArg (· ++ _) (physWrite_toHost ..)
    · exact stored_congr (stored_of_same hok hs pa 1 (x.setWidth 64)) ⟨⟨rfl, rfl, rfl⟩, rfl, rfl⟩
  · intro a l ide h
    rw [exec_hostMemWrite]
    exact congrArg Host.Outcome.next (hostStore_poison (s := facing s (.hostMemWrite a l ide)) h)
  · intro host v off
    obtain ⟨⟨hm, hc⟩, h⟩ := registerWrite_spec (facing s (.registerWrite host off v)) host v off
    exact ⟨_, rfl, hm, hc, h⟩
  · intro n v k w h1 h2
    obtain ⟨m, h⟩ := sendSys_here (s := facing s (.dxsys n v)) (n := n) (v := v) h1 h2
    exact ⟨_, m, rfl, h⟩
  intro c word
  refine ⟨?_, ?_, ?_, ?_, ?_, ?_⟩
  · intro csr rs f3 rd _ h2 h3 h4 h5 h6
    exact csr_refused h2 h3 h4 h5 h6
  · intro hm rd hr
    exact ⟨csr_reads hm hr (by simp), csr_reads hm hr (by simp), csr_reads hm hr (by simp), csr_reads hm hr (by simp),
      fun rs h => csr_dxbell hm h⟩
  · intro imm rs rd _ h1 h2
    obtain ⟨h3, h4⟩ := cpX_setX h2 s n (cpX s n rs + (BitVec.ofNat 12 imm).signExtend 64)
    exact ⟨_, addi_runs h1 h2, h3, h4, mem_setX ..⟩
  · intro pa rs rd ha hv h1 h2 hm hp h he hw hs
    exact ld_runs h1 h2 hm hp h ha hv he hw hs
  · intro cause tval hm
    exact cpTrap_machine cause tval hm
  · intro l v z w len pc hp ha ht hw hf he
    rw [step_cpStep hp ha hn]
    exact congrArg (fun t => Host.Outcome.next (settleAll t)) (rvStep_runs (s := { s with agenda := l }) ht hw hf he)

end Sys2Proof.Proofs.HostSide
end

section
/-!
PROOFS. WHAT STATEMENTS O36 AND O37 REST ON. The checks of a descriptor, the pushes to the copy and matrix units, and gangs;
the proofs of statements O36 and O37.
-/
namespace Sys2Proof.Proofs.JobPushes
open Sys2Proof Sys2Proof.Machine DeviceMemory Roles Retirement

/-! ## Checks and operands -/

section
variable {s t u : State}

theorem checks_pass {l : List (Bool × Nat × Word)} (h : ∀ e ∈ l, e.1 = false) (k : State → Eff) : checks s l k = k s := by
  induction l with
  | nil => rfl
  | cons e l ih =>
    obtain ⟨b, code, v⟩ := e
    obtain rfl : b = false := h _ List.mem_cons_self
    exact ih fun e he => h e (List.mem_cons_of_mem _ he)
theorem checks_trap {l l' : List (Bool × Nat × Word)} {code : Nat} {v : Word} (h : ∀ e ∈ l, e.1 = false) (k : State → Eff) :
    checks s (l ++ (true, code, v) :: l') k = .trap s code v := by
  induction l with
  | nil => rfl
  | cons e l ih =>
    obtain ⟨b, c, w⟩ := e
    obtain rfl : b = false := h _ List.mem_cons_self
    exact ih fun e he => h e (List.mem_cons_of_mem _ he)
theorem regUp_zero (b : Reg) : regUp b 0 = b := by
  rw [regUp, Nat.add_zero, Fin.ofNat_eq_cast]
  exact Fin.cast_val_eq_self b
theorem regRun_four (b : Reg) : regRun b 4 = [b, regUp b 1, regUp b 2, regUp b 3] := by
  rw [regRun, show List.range 4 = [0, 1, 2, 3] from rfl]
  simp only [List.map_cons, List.map_nil, regUp_zero]
theorem regRun_five (b : Reg) : regRun b 5 = [b, regUp b 1, regUp b 2, regUp b 3] ++ [regUp b 4] := by
  rw [regRun, show List.range 5 = [0, 1, 2, 3, 4] from rfl]
  simp only [List.map_cons, List.map_nil, regUp_zero, List.cons_append, List.nil_append]
theorem descOf_four (s : State) (b : Reg) : descOf s b 4 = [rd s b, rd s (regUp b 1), rd s (regUp b 2), rd s (regUp b 3)] := by
  rw [descOf, regRun_four]; rfl
theorem bit_of (w : Word) (k : Nat) : (bits w k k == 1) = w.getLsbD k := by
  rw [bits, BitVec.getLsbD, Nat.testBit, Nat.shiftRight_eq_div_pow, show k + 1 - k = 1 by omega, pow_one, Nat.one_and_eq_mod_two]
  rcases Nat.mod_two_eq_zero_or_one (w.toNat / 2 ^ k) with h | h <;> simp [h]

/-! ## Pushes to the copy unit (R172) -/

/-- The record of the job of a sequence number that is pushed to the copy unit. -/
def cpRec (seq : Nat) : JobRec := ⟨seq, false, false, false, [newSub 255], false⟩
/-- The cluster's queue and numbers with a copy job in it, and the job's record. -/
def cpQueued (s : State) (cl bank seq : Nat) (job : CpJob) : State :=
  setRec (modCluster s cl (fun x => { x with cpq := x.cpq ++ [job], cpSeq := fset x.cpSeq bank ((seq + 1) % 65536) }))
    cl true bank (cpRec seq)
theorem cpQueued_spec (s : State) (cl bank seq : Nat) (job : CpJob) :
    cpQueued s cl bank seq job = { s with clusters := (cpQueued s cl bank seq job).clusters }
    ∧ (∀ c, c ≠ cl → cluster (cpQueued s cl bank seq job) c = cluster s c)
    ∧ (cluster (cpQueued s cl bank seq job) cl).cpq = (cluster s cl).cpq ++ [job]
    ∧ cpRec seq ∈ cpRecs (cpQueued s cl bank seq job) cl bank := by
  unfold cpQueued setRec
  rw [if_pos rfl]
  refine ⟨rfl, fun c hc => ?_, ?_, ?_⟩
  · rw [cluster_modCluster, if_neg hc, cluster_modCluster, if_neg hc]
  · rw [cluster_modCluster, if_pos rfl, cluster_modCluster, if_pos rfl]
  · rw [cpRecs, cluster_modCluster, if_pos rfl, fget_fset_self]
    exact List.mem_cons_self
theorem cpPush_pushed {kind : CpKind} {a : Reg} {desc : List Word} (hf : FenceOpen s .cl)
    (hr : (cluster s (clusterOf s.cur.core)).cpq.length < 32) {run : Out} {len : Nat} {srcs : List Reg}
    (h : run = .next (finish len (srcs.contains 30) (cpPush s kind a desc))) : CpPushed run s len srcs a kind desc := by
  rw [cpPush, fenced_open hf, if_neg (by omega)] at h
  obtain ⟨h1, h2, h3, h4⟩ := cpQueued_spec s (clusterOf s.cur.core) (bankOf s s.cur.core)
    ((fget (cluster s (clusterOf s.cur.core)).cpSeq (bankOf s s.cur.core)).getD 0) _
  exact ⟨_, _, h, h1, h2, h3, rfl, rfl, rfl, rfl, rfl, rfl, _, h4, rfl, rfl⟩

/-! ## Pushes to the matrix unit (R210) -/

/-- The record of the job of a sequence number that is pushed to the matrix unit. -/
def mxRec (seq : Nat) (gang : Bool) (parts : List Nat) : JobRec := ⟨seq, false, gang, false, parts.map newSub, false⟩
/-- The cluster's queue and the bank's number with a matrix job in it, and the job's record. -/
def mxQueued (s : State) (cl bank seq : Nat) (job : MxJob) (gang : Bool) (parts : List Nat) : State :=
  modBank (setRec (modCluster s cl (fun x => { x with mxq := x.mxq ++ [job] })) cl false bank (mxRec seq gang parts)) cl bank
    (fun x => { x with seq := (seq + 1) % 65536 })
theorem mxBank_modBank (s : State) (cl n : Nat) (f : MxBank → MxBank) : mxBank (modBank s cl n f) cl n = f (mxBank s cl n) := by
  rw [mxBank, modBank, cluster_modCluster, if_pos rfl, fget_fset_self]; rfl
theorem cluster_modBank (s : State) (cl n : Nat) (f : MxBank → MxBank) {c : Nat} (h : c ≠ cl) :
    cluster (modBank s cl n f) c = cluster s c := by rw [modBank, cluster_modCluster, if_neg h]
theorem mxq_modBank (s : State) (cl n : Nat) (f : MxBank → MxBank) : (cluster (modBank s cl n f) cl).mxq =
    (cluster s cl).mxq := by
  rw [modBank, cluster_modCluster, if_pos rfl]
theorem mxQueued_spec (s : State) (cl bank seq : Nat) (job : MxJob) (gang : Bool) (parts : List Nat) :
    mxQueued s cl bank seq job gang parts = { s with clusters := (mxQueued s cl bank seq job gang parts).clusters }
    ∧ (∀ c, c ≠ cl → cluster (mxQueued s cl bank seq job gang parts) c = cluster s c)
    ∧ (cluster (mxQueued s cl bank seq job gang parts) cl).mxq = (cluster s cl).mxq ++ [job]
    ∧ (mxBank (mxQueued s cl bank seq job gang parts) cl bank).seq = (seq + 1) % 65536
    ∧ mxRec seq gang parts ∈ (mxBank (mxQueued s cl bank seq job gang parts) cl bank).recs := by
  unfold mxQueued setRec
  rw [if_neg Bool.false_ne_true]
  refine ⟨rfl, fun c hc => ?_, ?_, ?_, ?_⟩
  · rw [cluster_modBank _ _ _ _ hc, cluster_modBank _ _ _ _ hc, cluster_modCluster, if_neg hc]
  · rw [mxq_modBank, mxq_modBank, cluster_modCluster, if_pos rfl]
  · rw [mxBank_modBank]
  · rw [mxBank_modBank, mxBank_modBank]
    exact List.mem_cons_self
/-- The job that a push to the matrix unit makes. -/
def mxJobOf (s : State) (kind : MxKind) (desc : List Word) (parts bars : List Nat) (mask : List Lane) : MxJob :=
  { kind := kind, id := mxId (myCore s).bank (myBank s).seq, bank := (myCore s).bank, parts := parts, fmt := (myBank s).fmt
    thr := (myBank s).thr, desc := desc, bars := bars, mask := mask, started := false, pause := none, told := false
    cancel := false, strip := 0, knext := 0, row := 0, acc := [], got := [], rem := none }
theorem mxPush_eq (hf : FenceOpen s .cl) (hr : (cluster s (clusterOf s.cur.core)).mxq.length < 32) (kind : MxKind) (a : Reg)
    (desc : List Word) (parts bars : List Nat) (gang : Bool) (mask : List Lane) : mxPush s kind a desc parts bars gang mask =
    .done (wr (mxQueued s (clusterOf s.cur.core) (myCore s).bank (myBank s).seq (mxJobOf s kind desc parts bars mask) gang parts)
      a (BitVec.ofNat 64 (mxId (myCore s).bank (myBank s).seq))) := by
  rw [mxPush, fenced_open hf, if_neg (by omega)]
  rfl
/-- A push in the state after the reads of a gang's binding entries, or in the state at the instruction. -/
theorem mxPush_pushed {kind : MxKind} {a : Reg} {desc : List Word} {parts bars : List Nat} {gang : Bool} {mask : List Lane}
    (ht : ∃ p, t = { s with pchs := p } ∧ (gang = false → p = s.pchs)) (hf : FenceOpen s .cl)
    (hr : (cluster s (clusterOf s.cur.core)).mxq.length < 32) {run : Out} {len : Nat} {srcs : List Reg}
    (h : run = .next (finish len (srcs.contains 30) (mxPush t kind a desc parts bars gang mask))) :
    MxPushed run s len srcs a kind desc parts bars gang mask := by
  obtain ⟨p, ht, hp⟩ := ht
  have hf' : FenceOpen t .cl := ht ▸ hf
  have hr' : (cluster t (clusterOf t.cur.core)).mxq.length < 32 := ht ▸ hr
  rw [mxPush_eq hf' hr'] at h
  obtain ⟨h1, h2, h3, h4, h5⟩ := mxQueued_spec t (clusterOf t.cur.core) (myCore t).bank (myBank t).seq
    (mxJobOf t kind desc parts bars mask) gang parts
  generalize mxQueued t (clusterOf t.cur.core) (myCore t).bank (myBank t).seq (mxJobOf t kind desc parts bars mask) gang parts = u
    at h h1 h2 h3 h4 h5
  subst ht
  refine ⟨u, mxJobOf { s with pchs := p } kind desc parts bars mask, h, ?_, ?_, h2, h3, rfl, rfl, rfl, rfl, rfl, rfl, rfl, rfl,
    rfl,
    rfl, rfl, rfl, h4, _, h5, rfl, rfl, rfl, ?_⟩
  · rw [h1]
  · intro hg; rw [h1]; exact hp hg
  · exact (List.map_map ..).trans (List.map_id parts)

end

/-! ## Copy and mint jobs with a correct descriptor (R173 to R176) -/

section
variable {s t u : State} {a b : Reg}

theorem checks_skip {c : Bool} (h : c = false) (code : Nat) (v : Word) (l : List (Bool × Nat × Word)) (k : State → Eff) :
    checks s ((c, code, v) :: l) k = checks s l k := by subst h; rfl
theorem checks_hit {c : Bool} (h : c = true) (code : Nat) (v : Word) (l : List (Bool × Nat × Word)) (k : State → Eff) :
    checks s ((c, code, v) :: l) k = .trap s code v := by subst h; rfl
/-- The check of the address in D0, of checks that are all met but it. -/
theorem checks_aligned (d0 : Word) (l : List (Bool × Nat × Word)) (h : ∀ e ∈ l, e.1 = false) (k : State → Eff) :
    checks s ((d0.toNat % 8 != 0, 0x02, d0) :: l) k = if d0.toNat % 8 = 0 then k s else .trap s 0x02 d0 := by
  by_cases hd : d0.toNat % 8 = 0
  · rw [checks_skip (by simp [hd]), checks_pass h, if_pos hd]
  · rw [checks_hit (by simpa using hd), if_neg hd]
/-- Where a copy of so many bytes fits at its place in the buffer, or in a slot of its ring (R173). -/
def Fits (s : State) (d1 : Word) (need : Nat) : Prop :=
  (d1.getLsbD 18 = false ∧ bits d1 15 0 + need ≤ 49152)
  ∨ (d1.getLsbD 18 = true ∧ (ring (myCore s) (bits d1 20 19)).en = true
    ∧ ((ring (myCore s) (bits d1 20 19)).inA = true ↔ bits d1 17 16 = 1)
    ∧ need ≤ 8 * 2 ^ (ring (myCore s) (bits d1 20 19)).ssz)
theorem cpRoom_of_fits {d1 : Word} {need : Nat} (h : Fits s d1 need) : cpRoom s d1 need = true := by
  unfold cpRoom d1Ringv
  rw [bit_of]
  rcases h with ⟨h, hn⟩ | ⟨h, he, -, hn⟩
  · rw [h, if_neg Bool.false_ne_true]; exact decide_eq_true hn
  · rw [h, if_pos rfl]
    simp only [d1Ring, he, ringSize, hn, decide_true, Bool.or_true]
theorem ringBad_of_fits {d1 : Word} {need : Nat} (h : Fits s d1 need) (hs : bits d1 17 16 < 2) : ringBad s d1 = false := by
  unfold ringBad d1Ringv
  rw [bit_of]
  rcases h with ⟨h, -⟩ | ⟨h, he, hi, -⟩
  · rw [h, Bool.false_and]
  · have hsp : (d1Space d1 == .a) = (ring (myCore s) (d1Ring d1)).inA := by
      rw [d1Ring, Bool.eq_iff_iff, hi, d1Space]
      split
      · next h0 => rw [h0]; decide
      · next h0 => simp; omega
    rw [hsp, h]
    simp [d1Ring, he]
theorem cpIssuer_teller (h : isTeller s.cur.core = true) (k : State → Eff) : cpIssuer s k = .trap s 0x04 0 := by
  rw [cpIssuer, if_pos h]
theorem cpIssuer_other (h : isTeller s.cur.core = false) (k : State → Eff) : cpIssuer s k = k s := by
  rw [cpIssuer, h, if_neg Bool.false_ne_true]
theorem ne_false {n m : Nat} (h : n = m) : (n != m) = false := by simp [h]

/-- The four registers of a descriptor. -/
def four (b : Reg) : List Reg := [b, regUp b 1, regUp b 2, regUp b 3]
/-- What they hold. -/
def desc (s : State) (b : Reg) : List Word := [rd s b, rd s (regUp b 1), rd s (regUp b 2), rd s (regUp b 3)]
theorem execCpy_eq (hq : QueuesReady s (four b) [a]) (ht : isTeller s.cur.core = false) (h1 : bits (rd s (regUp b 1)) 17 16 < 2)
    (h2 : bits (rd s (regUp b 1)) 63 21 = 0) (h3 : bits (rd s (regUp b 2)) 63 48 = 0) (h4 : bits (rd s (regUp b 3)) 63 48 = 0)
    (h5 : bits (rd s (regUp b 2)) 31 0 ≠ 0)
    (h6 : Fits s (rd s (regUp b 1))
      (bits (rd s (regUp b 2)) 47 32 * bits (rd s (regUp b 3)) 47 32 + bits (rd s (regUp b 2)) 31 0))
    (h7 : bits (rd s (regUp b 1)) 15 0 % 8 = 0) (h8 : bits (rd s (regUp b 2)) 31 0 % 8 = 0)
    (h9 : bits (rd s (regUp b 3)) 31 0 % 8 = 0) (h10 : bits (rd s (regUp b 3)) 47 32 % 8 = 0) :
    exec (.cpy a b) s = .next (finish 2 ((four b).contains 30)
      (if (rd s b).toNat % 8 = 0 then cpPush s .cpy a (desc s b) else .trap s 0x02 (rd s b))) := by
  rw [show exec (.cpy a b) s = execCpy a b s from rfl, execCpy, regRun_four, ← four, runI_ready hq, cpIssuer_other ht,
    descOf_four, ← desc]
  refine congrArg (fun e => Host.Outcome.next (finish 2 _ e)) ?_
  simp only [desc, List.getD_cons_zero, List.getD_cons_succ, Nat.add_sub_cancel]
  rw [checks_skip (by simpa using h1), checks_skip (by simpa using h2), checks_skip (by simpa using h3),
    checks_skip (by simpa using h4), checks_skip (by simpa using h5), checks_skip (by simpa using cpRoom_of_fits h6),
      checks_aligned]
  simp only [List.forall_mem_cons, List.not_mem_nil, false_imp_iff, implies_true, and_true]
  exact ⟨ne_false h7, ne_false h8, by simp [h9, h10], ringBad_of_fits h6 h1⟩
theorem execCpyo_eq (hq : QueuesReady s (four b) [a]) (ht : isTeller s.cur.core = false) (h1 : rd s (regUp b 3) = 0)
    (h2 : 8 ≤ (rd s (regUp b 2)).toNat) (h3 : (rd s (regUp b 2)).toNat ≤ 2 ^ 32) (h4 : (rd s (regUp b 1)).toNat % 8 = 0)
    (h5 : (rd s (regUp b 2)).toNat % 8 = 0) :
    exec (.cpyo a b) s = .next (finish 2 ((four b).contains 30)
      (if (rd s b).toNat % 8 = 0 then cpPush s .cpyo a (desc s b) else .trap s 0x02 (rd s b))) := by
  rw [show exec (.cpyo a b) s = execCpyo a b s from rfl, execCpyo, regRun_four, ← four, runI_ready hq, cpIssuer_other ht,
    descOf_four, ← desc]
  refine congrArg (fun e => Host.Outcome.next (finish 2 _ e)) ?_
  simp only [desc, List.getD_cons_zero, List.getD_cons_succ]
  rw [checks_skip (by simpa using h1), checks_skip (by simp only [Bool.or_eq_false_iff, decide_eq_false_iff_not]; omega),
    checks_aligned]
  simp only [List.forall_mem_cons, List.not_mem_nil, false_imp_iff, implies_true, and_true]
  exact ⟨ne_false h4, ne_false h5⟩
theorem execMint_eq (hq : QueuesReady s (four b) [a]) (ht : isTeller s.cur.core = false) (h1 : bits (rd s (regUp b 1)) 17 16 = 0)
    (h2 : bits (rd s (regUp b 1)) 63 21 = 0) (h3 : 8 ≤ (rd s (regUp b 2)).toNat) (h4 : (rd s (regUp b 2)).toNat ≤ 49152)
    (h5 : Fits s (rd s (regUp b 1)) (rd s (regUp b 2)).toNat) (h6 : bits (rd s (regUp b 1)) 15 0 % 8 = 0)
    (h7 : (rd s (regUp b 2)).toNat % 8 = 0) :
    exec (.mint a b) s = .next (finish 2 ((four b).contains 30)
      (if (rd s b).toNat % 8 = 0 then cpPush s .mint a (desc s b) else .trap s 0x02 (rd s b))) := by
  have h0 : (rd s (regUp b 2) == 0) = false := by
    rw [beq_eq_false_iff_ne]; intro h; rw [h] at h3; exact absurd h3 (by decide)
  rw [show exec (.mint a b) s = execMint a b s from rfl, execMint, regRun_four, ← four, runI_ready hq, cpIssuer_other ht,
    descOf_four, ← desc]
  refine congrArg (fun e => Host.Outcome.next (finish 2 _ e)) ?_
  simp only [desc, List.getD_cons_zero, List.getD_cons_succ]
  rw [checks_skip (by simpa using h1), checks_skip (by simpa using h2), checks_skip (by
      rw [h0, cpRoom_of_fits h5]; simpa using h4), checks_aligned]
  simp only [List.forall_mem_cons, List.not_mem_nil, false_imp_iff, implies_true, and_true]
  exact ⟨ne_false h6, ne_false h7, ringBad_of_fits h5 (by omega)⟩
theorem execMintT_eq (hq : QueuesReady s [b] [a]) (ht : isTeller s.cur.core = false) :
    exec (.mintT a b) s = .next (finish 3 ([b].contains 30)
      (if (rd s b).toNat % 64 = 0 then cpPush s .mintT a [rd s b] else .trap s 0x02 (rd s b))) := by
  rw [show exec (.mintT a b) s = execMintT a b s from rfl, execMintT, runI_ready hq, cpIssuer_other ht]
  dsimp only
  rw [ite_not]
theorem teller_traps (hq : QueuesReady s (four b) [a]) (ht : isTeller s.cur.core = true) :
    exec (.cpy a b) s = .next (trapMe s 0x04 0) ∧ exec (.cpyo a b) s = .next (trapMe s 0x04 0)
    ∧ exec (.mint a b) s = .next (trapMe s 0x04 0) := by
  refine ⟨?_, ?_, ?_⟩
  · rw [show exec (.cpy a b) s = execCpy a b s from rfl, execCpy, regRun_four, ← four, runI_ready hq, cpIssuer_teller ht]; rfl
  · rw [show exec (.cpyo a b) s = execCpyo a b s from rfl, execCpyo, regRun_four, ← four, runI_ready hq, cpIssuer_teller ht]; rfl
  · rw [show exec (.mint a b) s = execMint a b s from rfl, execMint, regRun_four, ← four, runI_ready hq, cpIssuer_teller ht]; rfl
/-- A push behind the check of an address, in its two cases. -/
theorem pushed_or_trapped {run : Out} {len m : Nat} {srcs : List Reg} {kind : CpKind} {l : List Word} {d0 : Word}
    (hf : FenceOpen s .cl) (hr : (cluster s (clusterOf s.cur.core)).cpq.length < 32)
    (h : run = .next (finish len (srcs.contains 30) (if d0.toNat % m = 0 then cpPush s kind a l else .trap s 0x02 d0))) :
    (d0.toNat % m = 0 → CpPushed run s len srcs a kind l) ∧ (d0.toNat % m ≠ 0 → run = .next (trapMe s 0x02 d0)) := by
  constructor
  · intro hd; rw [if_pos hd] at h; exact cpPush_pushed hf hr h
  · intro hd; rw [if_neg hd] at h; exact h

end
/-- Settles O37, from `execCpy_eq`, `execCpyo_eq`, `execMint_eq` and `execMintT_eq`, each a push behind the check of its address.
  -/
theorem copyPushes : Obligations.CopyPushes := by
  unfold Obligations.CopyPushes
  intro s a b d0 d1 d2 d3 l4 l room r fits
  refine ⟨fun hq => ⟨teller_traps hq, fun ht hf hr => ⟨?_, ?_, ?_⟩⟩, fun hq ht => ?_, fun hq ht hf hr => ?_⟩
  · intro h1 h2 h3 h4 h5 h6 h7 h8 h9 h10
    exact pushed_or_trapped hf hr (execCpy_eq hq ht h1 h2 h3 h4 h5 h6 h7 h8 h9 h10)
  · intro h1 h2 h3 h4 h5
    exact pushed_or_trapped hf hr (execCpyo_eq hq ht h1 h2 h3 h4 h5)
  · intro h1 h2 h3 h4 h5 h6 h7
    exact pushed_or_trapped hf hr (execMint_eq hq ht h1 h2 h3 h4 h5 h6 h7)
  · rw [show exec (.mintT a b) s = execMintT a b s from rfl, execMintT, runI_ready hq, cpIssuer_teller ht]
    rfl
  · exact pushed_or_trapped hf hr (execMintT_eq hq ht)

/-! ## Matrix contexts (R206 to R208, R215) -/

section
variable {s t u : State} {a b d : Reg}

theorem mxIssuer_none (h : isTeller s.cur.core = true ∨ unitOf s.cur.core = 8) (k : State → Eff) :
    mxIssuer s k = .trap s 0x04 0 := if_pos h
theorem mxIssuer_slice (h1 : isTeller s.cur.core = false) (h2 : unitOf s.cur.core ≠ 8) (k : State → Eff) : mxIssuer s k = k s :=
  if_neg (by simp [h1, h2])
/-- R208: the words that are a format. -/
def FmtWord (w : Word) : Prop :=
  ∃ x y z, (x, y, z) ∈ [(5, 5, 4), (4, 4, 4), (0, 0, 2), (14, 8, 4), (14, 9, 4), (14, 10, 4), (14, 11, 4), (14, 12, 4),
    (14, 13, 4),
    (14, 14, 4)] ∧ bits w 3 0 = x ∧ bits w 7 4 = y ∧ bits w 11 8 = z
theorem pathOf_some {w : Word} (h : FmtWord w) : (pathOf w).isNone = false := by
  obtain ⟨x, y, z, hm, hx, hy, hz⟩ := h
  rw [pathOf, show fmtA w = x from hx, show fmtB w = y from hy, show fmtC w = z from hz]
  simp only [List.mem_cons, Prod.mk.injEq, List.not_mem_nil, or_false] at hm
  rcases hm with ⟨rfl, rfl, rfl⟩ | ⟨rfl, rfl, rfl⟩ | ⟨rfl, rfl, rfl⟩ | ⟨rfl, rfl, rfl⟩ | ⟨rfl, rfl, rfl⟩ | ⟨rfl, rfl, rfl⟩
    | ⟨rfl, rfl, rfl⟩ | ⟨rfl, rfl, rfl⟩ | ⟨rfl, rfl, rfl⟩ | ⟨rfl, rfl, rfl⟩ <;> rfl
theorem pathOf_none {w : Word} (h : ¬ FmtWord w) : (pathOf w).isNone = true := by
  by_contra hn
  rw [pathOf] at hn
  have hf (x y z : Nat) (hm : (x, y, z) ∈ [(5, 5, 4), (4, 4, 4), (0, 0, 2), (14, 8, 4), (14, 9, 4), (14, 10, 4), (14, 11, 4),
      (14, 12, 4), (14, 13, 4), (14, 14, 4)]) (hx : fmtA w = x) (hy : fmtB w = y) (hz : fmtC w = z) : FmtWord w :=
    ⟨x, y, z, hm, hx, hy, hz⟩
  split at hn
  · next hx hy hz => exact h (hf 5 5 4 (by decide) hx hy hz)
  · next hx hy hz => exact h (hf 4 4 4 (by decide) hx hy hz)
  · next hx hy hz => exact h (hf 0 0 2 (by decide) hx hy hz)
  · next hx hz =>
    split at hn
    · next hr =>
      refine h (hf 14 (fmtB w) 4 ?_ hx rfl hz)
      simp only [List.mem_cons, Prod.mk.injEq, List.not_mem_nil, or_false, true_and, and_true]
      omega
    · exact hn rfl
  · exact hn rfl
theorem contexts_trap (hq : QueuesReady s [b] [d]) (h : isTeller s.cur.core = true ∨ unitOf s.cur.core = 8) :
    exec (.mxfmt d b) s = .next (trapMe s 0x04 0) ∧ exec (.mxthr d b) s = .next (trapMe s 0x04 0) := by
  constructor
  · rw [show exec (.mxfmt d b) s = execMxfmt d b s from rfl, execMxfmt, runI_ready hq, mxIssuer_none h]; rfl
  · rw [show exec (.mxthr d b) s = execMxthr d b s from rfl, execMxthr, runI_ready hq, mxIssuer_none h]; rfl
theorem execMxfmt_eq (hq : QueuesReady s [b] [d]) (h1 : isTeller s.cur.core = false) (h2 : unitOf s.cur.core ≠ 8) :
    exec (.mxfmt d b) s = .next (finish 2 ([b].contains 30) (if bits (rd s b) 63 14 ≠ 0 ∨ (pathOf (rd s b)).isNone then
      .trap s 0x03 (rd s b) else .done (wr (modBank s (clusterOf s.cur.core) (myCore s).bank (fun x => { x with fmt := rd s b }))
        d (myBank s).fmt))) := by
  rw [show exec (.mxfmt d b) s = execMxfmt d b s from rfl, execMxfmt, runI_ready hq, mxIssuer_slice h1 h2]
theorem execMxthr_eq (hq : QueuesReady s [b] [d]) (h1 : isTeller s.cur.core = false) (h2 : unitOf s.cur.core ≠ 8) :
    exec (.mxthr d b) s = .next (finish 2 ([b].contains 30) (if bits (rd s b) 63 48 ≠ 0 then
      .trap s 0x03 (rd s b) else .done (wr (modBank s (clusterOf s.cur.core) (myCore s).bank (fun x => { x with thr := rd s b }))
        d (myBank s).thr))) := by
  rw [show exec (.mxthr d b) s = execMxthr d b s from rfl, execMxthr, runI_ready hq, mxIssuer_slice h1 h2]

/-! ## The checks of a product (R213, R217) -/

/-- The descriptor of a product meets every check that does not depend on its kind; `spb` are the bytes of B. -/
def ProductOk (p : MxPath) (d : List Word) (spb : Nat) : Prop :=
  bits (d.getD 0 0) 63 48 = 0 ∧ bits (d.getD 1 0) 63 48 = 0 ∧ mxM d % 32 = 0 ∧ mxN d % 32 = 0 ∧ mxK d % 32 = 0
  ∧ mxA d % 128 = 0 ∧ mxW d % 128 = 0 ∧ mxC d % 256 = 0 ∧ (d.getD 3 0).toNat % 8 = 0
  ∧ mxA d + spanA p (mxM d) (mxK d) ≤ 49152 ∧ mxC d + 4 * mxM d * mxN d ≤ 32768
  ∧ (((d.getD 2 0).getLsbD 1 = false ∧ d.getD 3 0 = 0 ∧ mxW d + spb ≤ 49152) ∨ ((d.getD 2 0).getLsbD 1 = true ∧ mxW d = 0))
theorem mxBsrc_eq (d : List Word) : mxBsrc d = (d.getD 2 0).getLsbD 1 := bit_of ..
theorem productChecks_pass {p : MxPath} {d : List Word} {top : Nat} {sparse : Bool}
    (h : ProductOk p d (if sparse then spanBs p else spanB p (mxN d) (mxK d))) (ht : bits (d.getD 2 0) 63 top = 0) :
    ∀ e ∈ productChecks p d top sparse, e.1 = false := by
  obtain ⟨h1, h2, h3, h4, h5, h6, h7, h8, h9, h10, h11, h12⟩ := h
  unfold productChecks Machine.firstBad
  rw [mxBsrc_eq]
  simp only [List.map_cons, List.map_nil, List.cons_append, List.nil_append, List.forall_mem_cons, List.not_mem_nil,
    false_imp_iff, implies_true, and_true]
  rcases h12 with ⟨hb, hd, hw⟩ | ⟨hb, hw⟩
  · simp only [h1, h2, h3, h4, h5, h6, h7, h8, h9, hb, hd, ht]
    simp
    exact ⟨⟨h10, hw⟩, h11⟩
  · simp only [h1, h2, h3, h4, h5, h6, h8, h9, hb, hw, ht]
    simp
    exact ⟨h10, h11⟩
theorem getLast_desc (s : State) (b : Reg) : desc s b = descOf s b 4 := (descOf_four s b).symm

/-! ## The pushes (R209, R217, R218, R221, R222) -/

theorem mxPush_here {kind : MxKind} {l : List Word} {parts bars : List Nat} {gang : Bool} {mask : List Lane}
    (hf : FenceOpen s .cl)
    (hr : (cluster s (clusterOf s.cur.core)).mxq.length < 32) {run : Out} {len : Nat} {srcs : List Reg}
    (h : run = .next (finish len (srcs.contains 30) (mxPush s kind a l parts bars gang mask))) :
    MxPushed run s len srcs a kind l parts bars gang mask :=
  mxPush_pushed ⟨s.pchs, rfl, fun _ => rfl⟩ hf hr h
theorem execMxm_eq (hq : QueuesReady s (four b) [a]) (h1 : isTeller s.cur.core = false) (h2 : unitOf s.cur.core ≠ 8)
    {p : MxPath} (hp : pathOf (myBank s).fmt = some p) :
    exec (.mxm a b) s = .next (finish 2 ((four b).contains 30) (checks s (productChecks p (desc s b) 2 false)
      (fun s => mxPush s .mxm a (desc s b) [unitOf s.cur.core] [] false []))) := by
  have hm : myPath s = p := by rw [myPath, hp]; rfl
  rw [show exec (.mxm a b) s = execMxm a b s from rfl, execMxm, regRun_four, ← four, runI_ready hq, mxIssuer_slice h1 h2]
  dsimp only
  rw [descOf_four, ← desc, hm] <;> rfl
theorem mxm_reserved (hq : QueuesReady s (four b) [a]) (h1 : isTeller s.cur.core = false) (h2 : unitOf s.cur.core ≠ 8)
    {p : MxPath} (hp : pathOf (myBank s).fmt = some p) (h : bits (rd s b) 63 48 ≠ 0) :
    exec (.mxm a b) s = .next (trapMe s 0x03 (rd s b)) := by
  rw [execMxm_eq hq h1 h2 hp, productChecks, Machine.firstBad, List.map_cons, List.cons_append, checks_hit
    (by simpa [desc] using h)]
  rfl
theorem mxm_misaligned (hq : QueuesReady s (four b) [a]) (h1 : isTeller s.cur.core = false) (h2 : unitOf s.cur.core ≠ 8)
    {p : MxPath} (hp : pathOf (myBank s).fmt = some p) (g1 : bits (rd s b) 63 48 = 0) (g2 : bits (rd s (regUp b 1)) 63 48 = 0)
    (g3 : bits (rd s (regUp b 1)) 15 0 % 32 = 0) (g4 : bits (rd s (regUp b 1)) 31 16 % 32 = 0)
    (g5 : bits (rd s (regUp b 1)) 47 32 % 32 = 0) (g6 : bits (rd s (regUp b 2)) 63 2 = 0)
    (g7 : (rd s (regUp b 2)).getLsbD 1 = false) (g8 : rd s (regUp b 3) = 0) (h : bits (rd s b) 15 0 % 128 ≠ 0) :
    exec (.mxm a b) s = .next (trapMe s 0x02 (rd s b)) := by
  rw [execMxm_eq hq h1 h2 hp, productChecks, Machine.firstBad, mxBsrc_eq]
  simp only [desc, mxM, mxN, mxK, mxA, mxW, mxC, List.getD_cons_zero, List.getD_cons_succ, List.map_cons, List.map_nil,
    List.cons_append, List.nil_append, g7]
  rw [checks_skip (by simp [g1]), checks_skip (by simp [g2, g3, g4, g5]), checks_skip (by simp [g6]), checks_skip (by simp [g8]),
    checks_skip (by simp), checks_hit (by simp [h])]
  rfl
theorem mxm_pushed (hq : QueuesReady s (four b) [a]) (h1 : isTeller s.cur.core = false) (h2 : unitOf s.cur.core ≠ 8)
    (hf : FenceOpen s .cl) (hr : (cluster s (clusterOf s.cur.core)).mxq.length < 32) {p : MxPath}
    (hp : pathOf (myBank s).fmt = some p) (ho : ProductOk p (desc s b) (spanB p (mxN (desc s b)) (mxK (desc s b))))
    (hd : bits (rd s (regUp b 2)) 63 2 = 0) :
    MxPushed (exec (.mxm a b) s) s 2 (four b) a .mxm (desc s b) [unitOf s.cur.core] [] false [] := by
  refine mxPush_here hf hr ?_
  rw [execMxm_eq hq h1 h2 hp]
  rw [checks_pass (productChecks_pass (d := desc s b) (top := 2) (sparse := false) ho hd)]
theorem mxms_pushed {c : VReg} (hq : QueuesReady s (four b) [a]) (h1 : isTeller s.cur.core = false) (h2 : unitOf s.cur.core ≠ 8)
    (hf : FenceOpen s .cl) (hr : (cluster s (clusterOf s.cur.core)).mxq.length < 32) {p : MxPath}
    (hp : pathOf (myBank s).fmt = some p) (ho : ProductOk p (desc s b) (spanBs p)) (hd : bits (rd s (regUp b 2)) 63 2 = 0)
    (hb : (rd s (regUp b 2)).getLsbD 1 = false) (hn : bits (rd s (regUp b 1)) 31 16 = 32)
    (hk : bits (rd s (regUp b 1)) 47 32 = 32) (hpath : p = .int8 ∨ ∃ q, p = .bq q) :
    MxPushed (exec (.mxms a b c) s) s 3 (four b) a .mxms (desc s b) [unitOf s.cur.core] [] false (vrd s c).toList := by
  have hm : myPath s = p := by rw [myPath, hp]; rfl
  have hok : (p == .int8 || isBq p) = true := by
    rcases hpath with rfl | ⟨q, rfl⟩
    · rfl
    · exact Bool.or_true _
  refine mxPush_here hf hr ?_
  rw [show exec (.mxms a b c) s = execMxms a b c s from rfl, execMxms, regRun_four, ← four, runI_ready hq, mxIssuer_slice h1 h2]
  dsimp only
  rw [descOf_four, ← desc, hm, List.cons_append, List.cons_append, List.cons_append, List.nil_append,
    checks_skip (by rw [mxBsrc_eq]; exact hb), checks_skip (by
      rw [Bool.or_eq_false_iff]; exact ⟨ne_false hn, ne_false hk⟩), checks_skip (by rw [hok]; rfl),
    checks_pass (productChecks_pass (d := desc s b) (top := 2) (sparse := true) ho hd)]

/-! ### Gangs (R218) -/

theorem roleIs_pchs {code : Nat} {e : Word} (h : RoleIs s code e) (p : FMap PchSt) : RoleIs { s with pchs := p } code e := by
  obtain ⟨pa, hpa, hr, hb, hi, he⟩ := h
  refine ⟨pa, hpa, ?_, hb, hi, he⟩
  rw [← hr, resolve, resolve]
  have h1 : rolePa { s with pchs := p } (me { s with pchs := p }) code = rolePa s (me s) code := rfl
  rw [h1, hpa]
  dsimp only
  rw [physRead_congr (s := s) (t := { s with pchs := p }) ⟨⟨rfl, rfl, rfl⟩, rfl, rfl⟩]
/-- Participant `q` of a gang is bound to a compute core of the running thread's cluster, of the unit `parts` has. -/
def PartIs (s : State) (d4 : Word) (parts : List Nat) (q : Nat) : Prop :=
  ∃ e c, RoleIs s (gangCode d4 q) e ∧ entV e = true ∧ entCore e = some c ∧ isTeller c = false ∧ unitOf c ≠ 8
    ∧ clusterOf c = clusterOf s.cur.core ∧ parts[q]? = some (unitOf c)
theorem gangStop_none {e : Word} {c : Nat} {acc : List Nat} (hv : entV e = true) (hc : entCore e = some c)
    (h1 : isTeller c = false)
    (h2 : unitOf c ≠ 8) (h3 : clusterOf c = clusterOf s.cur.core) (h4 : unitOf c ∉ acc) : gangStop s e acc = none := by
  rw [gangStop, hv, hc]
  simp [h1, h2, h3, h4]
theorem not_mem_take {l : List Nat} {p x : Nat} (hn : l.Nodup) (h : l[p]? = some x) : x ∉ l.take p := by
  intro hm
  obtain ⟨i, hi, hx⟩ := List.mem_iff_getElem.1 hm
  obtain ⟨hp, hy⟩ := List.getElem?_eq_some_iff.1 h
  rw [List.length_take] at hi
  rw [List.getElem_take] at hx
  have := (List.Nodup.getElem_inj_iff hn).1 (hx.trans hy.symm)
  omega
/-- With every role bound as it must be, the resolution of a gang goes on with the participants' units. -/
theorem gangParts_all {d4 : Word} {parts : List Nat} (hn : parts.Nodup) (k : State → List Nat → Eff) (n : Nat) :
    ∀ (p : Nat) (f : FMap PchSt), parts.length = p + n → (∀ q, p ≤ q → q < p + n → PartIs s d4 parts q) →
    ∃ g, gangParts a d4 k n p (parts.take p) { s with pchs := f } = k { s with pchs := g } parts := by
  induction n with
  | zero =>
    intro p f hl _
    refine ⟨f, ?_⟩
    rw [gangParts, List.take_of_length_le (by omega)]
  | succ n ih =>
    intro p f hl h
    obtain ⟨e, c, hr, hv, hc, h1, h2, h3, h4⟩ := h p (le_refl _) (by omega)
    obtain ⟨g, hg⟩ := roleRead_eq { s with pchs := f } (gangCode d4 p)
    obtain ⟨g', ih⟩ := ih (p + 1) g (by omega) fun q hq hq' => h q (by omega) (by omega)
    refine ⟨g', ?_⟩
    rw [gangParts, withRole_is (roleIs_pchs hr f), hg]
    dsimp only
    rw [gangStop_none (s := { s with pchs := g }) hv hc h1 h2 h3 (not_mem_take hn h4)]
    dsimp only
    rw [← ih, List.take_succ, h4, hc]
    rfl
theorem gangRead_all {d4 : Word} {parts : List Nat} (hn : parts.Nodup) (h : ∀ q, q < parts.length → PartIs s d4 parts q)
    (k : State → List Nat → Eff) : ∃ g, gangRead s a d4 parts.length k = k { s with pchs := g } parts := by
  have hb : ((List.range parts.length).filterMap (fun p => rolePa s (me s) (gangCode d4 p))).any (chanBusy s) = false := by
    rw [List.any_eq_false]
    intro pa hm
    obtain ⟨q, hq, hp⟩ := List.mem_filterMap.1 hm
    obtain ⟨e, c, ⟨pb, hpb, -, hb, -⟩, -⟩ := h q (List.mem_range.1 hq)
    obtain rfl : pb = pa := Option.some.inj (hpb.symm.trans hp)
    rw [hb]; exact Bool.false_ne_true
  obtain ⟨g, hg⟩ := gangParts_all (a := a) (s := s) (d4 := d4) hn k parts.length 0 s.pchs (by omega) fun q _ hq => h q (by omega)
  refine ⟨g, ?_⟩
  rw [gangRead, hb, if_neg Bool.false_ne_true]
  exact hg
theorem gangRest_none {l : List Word} (h : ∀ q, gangSize l ≤ q → q < 8 →
    bits (l.getD 4 0) (4 * q + 3) (4 * q) = 0 ∧ bits (l.getD 4 0) (32 + 4 * q + 3) (32 + 4 * q) = 0) : gangRest l = false := by
  rw [gangRest, List.any_eq_false]
  intro q hq
  by_cases hs : gangSize l ≤ q
  · obtain ⟨h1, h2⟩ := h q hs (List.mem_range.1 hq)
    rw [h1, h2]; simp
  · simp [hs]
theorem mxg_pushed {parts : List Nat} (hq : QueuesReady s (four b ++ [regUp b 4]) [a]) (h1 : isTeller s.cur.core = false)
    (h2 : unitOf s.cur.core ≠ 8) (hf : FenceOpen s .cl) (hr : (cluster s (clusterOf s.cur.core)).mxq.length < 32) {p : MxPath}
    (hp : pathOf (myBank s).fmt = some p) {l : List Word} (hl : l = desc s b ++ [rd s (regUp b 4)])
    (ho : ProductOk p l (spanB p (mxN l) (mxK l))) (hd : bits (l.getD 2 0) 63 5 = 0) (hs : 2 ≤ gangSize l)
    (hrest : gangRest l = false) (hlen : parts.length = gangSize l) (hn : parts.Nodup)
    (h : ∀ q, q < parts.length → PartIs s (rd s (regUp b 4)) parts q) :
    MxPushed (exec (.mxg a b) s) s 2 (four b ++ [regUp b 4]) a .mxg l parts
      ((List.range (gangSize l)).map (fun q => bits (rd s (regUp b 4)) (32 + 4 * q + 3) (32 + 4 * q))) true [] := by
  have hm : myPath s = p := by rw [myPath, hp]; rfl
  have hdesc : descOf s b 5 = l := by rw [descOf, regRun_five, hl]; rfl
  have h4 : l.getD 4 0 = rd s (regUp b 4) := by rw [hl]; rfl
  have hc := productChecks_pass (sparse := false) ho hd
  obtain ⟨g, hg⟩ := gangRead_all (a := a) hn h fun t ps => mxPush t .mxg a l ps
    ((List.range (gangSize l)).map (fun q => bits (rd s (regUp b 4)) (32 + 4 * q + 3) (32 + 4 * q))) true []
  refine mxPush_pushed ⟨g, rfl, fun h => absurd h Bool.true_eq_false.mp⟩ hf hr ?_
  rw [← hg, show exec (.mxg a b) s = execMxg a b s from rfl, execMxg, regRun_five, ← four, runI_ready hq, mxIssuer_slice h1 h2]
  dsimp only
  rw [hdesc, hm, checks_pass, h4, hlen]
  intro e he
  simp only [List.mem_append, List.mem_singleton] at he
  rcases he with (((he | rfl) | he) | rfl) | he
  · exact hc e (List.mem_of_mem_take he)
  · simp; omega
  · exact hc e (List.mem_of_mem_drop (List.mem_of_mem_take he))
  · exact hrest
  · exact hc e (List.mem_of_mem_drop he)

/-! ### Drains and clears (R221, R222) -/

theorem drFmtOk_of {cf f : Nat} (h1 : cf = 4 → f = 4 ∨ f = 5 ∨ f = 14) (h2 : cf ≠ 4 → f = 2 ∨ f = 0) : drFmtOk cf f = true := by
  unfold drFmtOk
  by_cases hc : cf = 4
  · rw [if_pos hc]; rcases h1 hc with rfl | rfl | rfl <;> rfl
  · rw [if_neg hc]; rcases h2 hc with rfl | rfl <;> rfl
theorem mxdrn_pushed (hq : QueuesReady s (four b) [a]) (h1 : isTeller s.cur.core = false) (h2 : unitOf s.cur.core ≠ 8)
    (hf : FenceOpen s .cl) (hr : (cluster s (clusterOf s.cur.core)).mxq.length < 32) (g1 : mNames (rd s (regUp b 1)) = true)
    (g2 : mCluster (rd s (regUp b 1)) ∈ clustersOf s (me s).launch) (g3 : mSpaceNum (rd s (regUp b 1)) ≠ 0)
    (g4 : bits (rd s b) 63 48 = 0) (g5 : bits (rd s b) 31 16 % 32 = 0) (g6 : bits (rd s b) 47 32 % 32 = 0)
    (g7 : bits (rd s (regUp b 2)) 15 5 = 0) (g8 : bits (rd s (regUp b 2)) 63 32 = 0)
    (g9 : drFmtOk (fmtC (myBank s).fmt) (bits (rd s (regUp b 2)) 3 0) = true) (g10 : bits (rd s b) 15 0 % 4 = 0)
    (g11 : mOff (rd s (regUp b 1)) % 8 = 0) (g12 : bits (rd s (regUp b 2)) 31 16 % 8 = 0)
    (g13 : bits (rd s b) 15 0 + 4 * bits (rd s b) 31 16 * bits (rd s b) 47 32 ≤ 32768)
    (g14 : mOff (rd s (regUp b 1)) + drSpan (desc s b) ≤ bufSize (mSpace (rd s (regUp b 1)))) :
    MxPushed (exec (.mxdrn a b) s) s 2 (four b) a .mxdrn (desc s b) [unitOf s.cur.core] [] false [] := by
  refine mxPush_here hf hr ?_
  rw [show exec (.mxdrn a b) s = execMxdrn a b s from rfl, execMxdrn, regRun_four, ← four, runI_ready hq, mxIssuer_slice h1 h2,
    descOf_four, ← desc]
  refine congrArg (fun e => Host.Outcome.next (finish 2 _ e)) ?_
  have hrows : drRows (desc s b) = bits (rd s b) 31 16 := rfl
  have hcols : drCols (desc s b) = bits (rd s b) 47 32 := rfl
  have hoff : drOff (desc s b) = bits (rd s b) 15 0 := rfl
  have hfmt : drFmt (desc s b) = bits (rd s (regUp b 2)) 3 0 := rfl
  dsimp only
  rw [hrows, hcols, hoff, hfmt]
  rw [checks_skip (by simpa [desc] using ⟨g1, g2⟩), checks_skip (by simpa [desc] using g3),
    checks_skip (by simp [desc, g4, g5, g6]), checks_skip (by simp [desc, g7, g8, g9]), checks_skip (by simp [g10]),
    checks_skip (by simp [desc, g11]), checks_skip (by simp [desc, g12]), checks_skip (by simpa using g13),
    checks_skip (by simpa [desc] using g14)]
  rfl
theorem execMxz_eq (hq : QueuesReady s [b] [a]) (h1 : isTeller s.cur.core = false) (h2 : unitOf s.cur.core ≠ 8) :
    exec (.mxz a b) s = .next (finish 2 ([b].contains 30) (checks s
      [(bits (rd s b) 63 32 != 0 || bits (rd s b) 31 16 == 0, 0x03, rd s b),
       (bits (rd s b) 15 0 % 256 != 0 || bits (rd s b) 31 16 % 256 != 0, 0x02, rd s b),
       (decide (32768 < bits (rd s b) 15 0 + bits (rd s b) 31 16), 0x03, rd s b)]
      (fun t => mxPush t .mxz a [rd s b] [unitOf t.cur.core] [] false []))) := by
  rw [show exec (.mxz a b) s = execMxz a b s from rfl, execMxz, runI_ready hq, mxIssuer_slice h1 h2] <;> rfl

end
/-- Settles O36, from the push of each form (`mxm_pushed`, `mxms_pushed`, `mxg_pushed`, `mxdrn_pushed`, `execMxz_eq`) and the bank
words (`execMxfmt_eq`, `execMxthr_eq`). -/
theorem matrixPushes : Obligations.MatrixPushes := by
  unfold Obligations.MatrixPushes
  refine ⟨fun s d b hq => ?_, fun s a b h1 h2 hf hr => ?_⟩
  · intro cl bank w legal
    refine ⟨contexts_trap hq, fun h1 h2 => ⟨?_, ?_, ?_, ?_⟩⟩
    · intro h
      rw [execMxfmt_eq hq h1 h2, if_pos (h.imp_right pathOf_none)]
      rfl
    · intro hw hl
      rw [execMxfmt_eq hq h1 h2, if_neg (by rw [show pathOf (rd s b) = pathOf w from rfl, pathOf_some hl]; simpa using hw)]
      exact ⟨_, rfl, rfl, mxBank_modBank ..⟩
    · intro h
      rw [execMxthr_eq hq h1 h2, if_pos h]
      rfl
    · intro h
      rw [execMxthr_eq hq h1 h2, if_neg (not_not.2 h)]
      exact ⟨_, rfl, rfl, mxBank_modBank ..⟩
  · intro d0 d1 d2 d3 d4 l4 l unit oa ow oc m n k shape
    refine ⟨fun p hp hq => ⟨fun ho hd => mxm_pushed hq h1 h2 hf hr hp ho hd, fun h => mxm_reserved hq h1 h2 hp h,
      fun g1 g2 g3 g4 g5 g6 g7 g8 h => mxm_misaligned hq h1 h2 hp g1 g2 g3 g4 g5 g6 g7 g8 h,
      fun c ho hd hb hn hk hpath => mxms_pushed hq h1 h2 hf hr hp ho hd hb hn hk hpath⟩, ?_, ?_, ?_⟩
    · intro p parts hp hq size ho hd hs hrest hlen hn h
      exact mxg_pushed hq h1 h2 hf hr hp rfl ho hd hs (gangRest_none hrest) hlen hn fun q hq => h q (hlen ▸ hq)
    · intro hq rows cols fmt g1 g2 g3 g4 g5 g6 g7 g8 f1 f2 g10 g11 g12 g13 g14
      exact mxdrn_pushed hq h1 h2 hf hr g1 g2 g3 g4 g5 g6 g7 g8 (drFmtOk_of f1 f2) g10 g11 g12 g13 g14
    · intro hq
      constructor
      · intro g1 g2 g3 g4 g5
        refine mxPush_here hf hr ?_
        rw [execMxz_eq hq h1 h2, checks_skip (by simpa using ⟨g1, g2⟩), checks_skip (by simpa using ⟨g3, g4⟩),
          checks_skip (by simpa using g5)]
        rfl
      · intro h
        rw [execMxz_eq hq h1 h2, checks_hit (by simp [show bits (rd s b) 63 32 ≠ 0 from h])]
        rfl

end Sys2Proof.Proofs.JobPushes
end

section
/-!
PROOFS. WHAT STATEMENT O39 RESTS ON. The words that an engine reads and writes in space G, the end of a copy job, and one
step of each kind of copy job; the proof of statement O39.
-/
namespace Sys2Proof.Proofs.CopySteps
open Sys2Proof Sys2Proof.Machine DeviceMemory Synchronising Retirement

/-! ## A word of space G for an engine (R172, R174, R329, R349) -/

section
variable {s t u : State}

theorem contains_nins {k n : Nat} (h : k ≠ n) (l : List Nat) : (nins k l).contains n = l.contains n := by
  rw [Bool.eq_iff_iff, List.contains_iff_mem, List.contains_iff_mem]
  induction l with
  | nil => simp [nins, Ne.symm h]
  | cons a l ih =>
    rw [nins]
    split
    · simp [Ne.symm h]
    · split
      · rfl
      · simp only [List.mem_cons, ih]
/-- A read near an address: the bytes, the cores and clusters, and what decides whether a TAU serves the address are as before. -/
structure SeenAt (s t : State) (pa : Nat) : Prop where
  memory : SameMemory s t
  cores : t.cores = s.cores
  clusters : t.clusters = s.clusters
  launches : t.launches = s.launches
  pat : t.pat = s.pat
  sl : t.sl = s.sl
  stamps : t.stamps = s.stamps
  poison : t.poison.contains (sectorOf pa) = s.poison.contains (sectorOf pa)
  fab : t.fab = s.fab
theorem SeenAt.refl (pa : Nat) : SeenAt s s pa := ⟨sameMemory_rfl, rfl, rfl, rfl, rfl, rfl, rfl, rfl, rfl⟩
theorem SeenAt.trans {pa : Nat} (h : SeenAt s t pa) (h' : SeenAt t u pa) : SeenAt s u pa :=
  ⟨h.memory.trans h'.memory, h'.cores.trans h.cores, h'.clusters.trans h.clusters, h'.launches.trans h.launches,
    h'.pat.trans h.pat, h'.sl.trans h.sl, h'.stamps.trans h.stamps, h'.poison.trans h.poison, h'.fab.trans h.fab⟩
theorem seenAt_touch (s : State) (q pa : Nat) : SeenAt s (touch s q) pa :=
    ⟨sameMemory_touch s q, rfl, rfl, rfl, rfl, rfl, rfl, rfl, rfl⟩
theorem seenAt_trigger (s : State) (c pa : Nat) : SeenAt s (trigger s c) pa := by
  unfold trigger
  split
  · exact ⟨sameMemory_post s _, rfl, rfl, rfl, rfl, rfl, rfl, rfl, rfl⟩
  · exact ⟨⟨⟨rfl, rfl, rfl⟩, rfl, rfl⟩, rfl, rfl, rfl, rfl, rfl, rfl, rfl, rfl⟩
theorem seenAt_eccSector (s : State) {k pa : Nat} (h : k ≠ sectorOf pa) : SeenAt s (eccSector s k) pa := by
  unfold eccSector
  split
  · exact .refl pa
  · exact ⟨⟨⟨rfl, rfl, rfl⟩, rfl, rfl⟩, rfl, rfl, rfl, rfl, rfl, rfl, rfl, rfl⟩
  · unfold uncorrectable
    split
    · exact seenAt_trigger ..
    · refine ⟨⟨⟨rfl, rfl, rfl⟩, rfl, rfl⟩, rfl, rfl, rfl, rfl, rfl, rfl, ?_, rfl⟩
      exact contains_nins (by simp only [sectorOf] at h ⊢; omega) _
/-- The sectors behind the first one of a read do not touch what the TAU of the first byte does. -/
theorem seenAt_eccRead {pa : Nat} (n : Nat) (h : fget s.errs (sectorOf pa) = none) : SeenAt s (eccRead s pa n) pa := by
  have hfold : ∀ m, SeenAt s ((List.range m).foldl (fun s i => eccSector s (sectorOf pa + i)) s) pa := by
    intro m
    induction m with
    | zero => exact .refl pa
    | succ m ih =>
      rw [List.range_succ, List.foldl_append, List.foldl_cons, List.foldl_nil]
      rcases Nat.eq_zero_or_pos m with rfl | hm
      · rw [List.range_zero, List.foldl_nil, Nat.add_zero, eccSector, h]; exact .refl pa
      · exact ih.trans (seenAt_eccSector _ (by omega))
  unfold eccRead
  split
  · exact .refl pa
  · exact hfold _
theorem SeenAt.tauRefuses {pa : Nat} (h : SeenAt s t pa) (l : Option Nat) : tauRefuses t l pa = tauRefuses s l pa := by
  have hp : inGuard t pa = inGuard s pa := by simp only [inGuard, patEnt, h.pat]
  have ho : ownsFrame t l pa = ownsFrame s l pa := by simp only [ownsFrame, patEnt, h.pat, h.launches] <;> rfl
  rw [Machine.tauRefuses, Machine.tauRefuses, hp, ho, h.poison]
theorem SeenAt.injFires {pa : Nat} (h : SeenAt s t pa) (q : Nat) : injFires t q = injFires s q := by
  simp only [Machine.injFires, h.sl, stampOf, h.stamps, ivl]
theorem SeenAt.core {pa : Nat} (h : SeenAt s t pa) (c : Nat) : Machine.core t c = Machine.core s c := by
  rw [Machine.core, h.cores]; rfl
theorem SeenAt.cluster {pa : Nat} (h : SeenAt s t pa) (c : Nat) : Machine.cluster t c = Machine.cluster s c := by
  rw [Machine.cluster, h.clusters]; rfl
/-- The state after an engine has read the word at an address that serves. -/
def wordRead (s : State) (pa : Nat) : State := touch (eccRead s pa 8) pa
theorem seenAt_wordRead {pa : Nat} (h : fget s.errs (sectorOf pa) = none) : SeenAt s (wordRead s pa) pa :=
  (seenAt_eccRead 8 h).trans (seenAt_touch ..)
/-- The word of a job at an address that its copy unit's TLB translates and whose TAU serves. -/
structure EngServes (s : State) (cl : Nat) (l : Option Nat) (va : Word) (n : Need) (tag pa : Nat) : Prop where
  tr : engTr s cl va n tag = .pa pa
  free : chanBusy s pa = false
  tau : TauServes s l pa
theorem EngServes.facing {cl : Nat} {l : Option Nat} {va : Word} {n : Need} {tag pa : Nat} (h : EngServes s cl l va n tag pa)
    (e : Ev) : EngServes (facing s e) cl l va n tag pa := ⟨h.tr, h.free, h.tau⟩
theorem engRead_serves {cl : Nat} {l : Option Nat} {va : Word} {tag pa : Nat} (h : EngServes s cl l va needR tag pa) :
    engRead s cl l va none tag = .got (wordRead s pa) (physRead s pa 8) := by
  obtain ⟨hr, he, hi, -⟩ := h.tau
  have hs := seenAt_wordRead he
  unfold wordRead at hs
  rw [engRead, engAnswer, h.tr]
  dsimp only
  rw [h.free, eccStops_none he, if_neg Bool.false_ne_true, if_neg Bool.false_ne_true, hs.tauRefuses, hr]
  dsimp only
  rw [hs.injFires, hi, if_neg Bool.false_ne_true, physRead_congr hs.memory, wordRead]
theorem engWrite_serves {cl : Nat} {l : Option Nat} {va x : Word} {tag pa : Nat} (h : EngServes s cl l va needW tag pa) :
    engWrite s cl l va x none tag = .got (physWrite s pa 8 x) 0 := by
  obtain ⟨hr, he, hi, hv⟩ := h.tau
  rw [engWrite, engAnswer, h.tr]
  dsimp only
  rw [h.free, if_neg Bool.false_ne_true, hr]
  dsimp only
  rw [hv, if_neg Bool.false_ne_true]

/-! ## The end of a copy job (R212, R270) -/

/-- An id of a copy job: what it says, and the record that it names. -/
structure NamesCopy (s : State) (cl : Nat) (id : Word) (bank : Nat) (r : JobRec) : Prop where
  good : ¬ (bits id 63 21 ≠ 0 ∨ (!(bits id 16 16 == 1)) = true ∧ bits id 20 20 = 1)
  kind : (bits id 16 16 == 1) = true
  inBank : idBank id = bank
  rec_ : (cpRecs s cl bank).find? (fun r => r.seq == bits id 15 0) = some r
  plain : ¬ (bits id 20 20 = 1 ∧ bits id 19 17 ≠ 0)
theorem namesCopy_iff {cl : Nat} {id : Word} {bank : Nat} {r : JobRec} :
    jobRef s cl id = .job true bank r ↔ NamesCopy s cl id bank r := by
  rw [jobRef]
  dsimp only
  constructor
  · intro h
    split at h
    · cases h
    · next hg =>
      split at h
      · next r' hr =>
        split at h
        · cases h
        · next hp =>
          injection h with h1 h2 h3
          subst h2 h3
          rw [h1, if_pos rfl] at hr
          exact ⟨hg, h1, rfl, hr, hp⟩
      · cases h
  · rintro ⟨hg, hk, hb, hr, hp⟩
    rw [if_neg hg, hk, if_pos rfl, hb, hr]
    dsimp only
    rw [if_neg hp]
/-- The record of a copy job that a change leaves under its own id; the queues stand. -/
theorem copyRec_modRec {cl n bank : Nat} {r : JobRec} {f : JobRec → JobRec}
    (hj : jobRef s cl (BitVec.ofNat 64 n) = .job true bank r)
    (hf : (f r).seq = r.seq) : jobRef (modRec s cl n f) cl (BitVec.ofNat 64 n) = .job true bank (f r)
    ∧ (cluster (modRec s cl n f) cl).cpq = (cluster s cl).cpq ∧ (cluster (modRec s cl n f) cl).mint = (cluster s cl).mint := by
  have hn := namesCopy_iff.1 hj
  have hseq : (r.seq == bits (BitVec.ofNat 64 n) 15 0) = true := List.find?_some (p := fun r : JobRec => r.seq == _) hn.rec_
  have hm : modRec s cl n f = modCluster s cl
    (fun x => { x with cpRecs := fset x.cpRecs bank (putRec (cpRecs s cl bank) (f r)) }) := by
    rw [modRec, hj]; rfl
  rw [hm, cluster_modCluster, if_pos rfl]
  refine ⟨namesCopy_iff.2 ⟨hn.good, hn.kind, hn.inBank, ?_, hn.plain⟩, rfl, rfl⟩
  rw [cpRecs, cluster_modCluster, if_pos rfl]
  dsimp only
  rw [fget_fset_self, Option.getD_some, putRec, List.find?_cons, hf, hseq]
/-- The record of a copy job at its end. -/
def cpFinal (code : Nat) (fval : Word) (r : JobRec) : JobRec :=
  { r with final := true, subs := r.subs.map (fun x => { x with code := code, ended := true, fval := fval }) }
/-- The cluster when a copy job has left its queue. -/
def cpLeft (s : State) (cl id : Nat) : State :=
  modCluster s cl (fun x => { cpUnmiss x cl id with cpq := (cpUnmiss x cl id).cpq.filter (fun e => e.id != id) })
theorem cpUnmiss_keeps (x : Cluster) (cl id : Nat) : (cpUnmiss x cl id).cpq = x.cpq ∧ (cpUnmiss x cl id).banks = x.banks
    ∧ (cpUnmiss x cl id).cpRecs = x.cpRecs ∧ (cpUnmiss x cl id).mint = x.mint := by
  unfold cpUnmiss; split <;> exact ⟨rfl, rfl, rfl, rfl⟩
theorem cpLeft_spec (s : State) (cl id : Nat) : (cluster (cpLeft s cl id) cl).cpq = (cluster s cl).cpq.filter
    (fun e => e.id != id)
    ∧ (cluster (cpLeft s cl id) cl).mint = (cluster s cl).mint ∧ ∀ w, jobRef (cpLeft s cl id) cl w = jobRef s cl w := by
  obtain ⟨h1, h2, h3, h4⟩ := cpUnmiss_keeps (cluster s cl) cl id
  have hc : cluster (cpLeft s cl id) cl = { cpUnmiss (cluster s cl) cl id with
      cpq := (cpUnmiss (cluster s cl) cl id).cpq.filter (fun e => e.id != id) } := by
    rw [cpLeft, cluster_modCluster, if_pos rfl]
  rw [hc]
  refine ⟨by rw [← h1], h4, fun w => JobStatus.jobRef_congr (fun b => ?_) fun b => ?_⟩
  · rw [mxBank, mxBank, hc]; simp only [h2]
  · rw [cpRecs, cpRecs, hc]; simp only [h3]
theorem cpEnd_started {cl : Nat} {j : CpJob} (hs : j.started = true) (code : Nat) (v : Word) :
    cpEnd s cl j code v = modRec (cpLeft s cl j.id) cl j.id (cpFinal code v) := by
  have hu : cpUnwait s cl j = s := by
    unfold cpUnwait
    rw [hs, Bool.not_true, Bool.and_false]
    split
    · next h => exact absurd h Bool.false_ne_true
    · rfl
  rw [cpEnd, hu]
  rfl
/-- Memory, its records, and the cores are in `t` as in `s`; the clusters may differ. -/
def OnlyClusters (s t : State) : Prop := ∃ k, t = { s with clusters := k }
theorem OnlyClusters.trans (h : OnlyClusters s t) (h' : OnlyClusters t u) : OnlyClusters s u := by
  obtain ⟨k, rfl⟩ := h
  obtain ⟨k', rfl⟩ := h'
  exact ⟨k', rfl⟩
/-- The end of a started job at the head of its queue. -/
theorem cpEnd_spec {cl bank : Nat} {j : CpJob} {l : List CpJob} {r : JobRec} (hs : j.started = true)
    (hq : (cluster s cl).cpq.filter (fun e => e.id != j.id) = l) (hr : jobRef s cl (BitVec.ofNat 64 j.id) = .job true bank r)
      (code : Nat)
    (v : Word) : OnlyClusters s (cpEnd s cl j code v) ∧ (cluster (cpEnd s cl j code v) cl).cpq = l
    ∧ (cluster (cpEnd s cl j code v) cl).mint = (cluster s cl).mint ∧ JobEnds (cpEnd s cl j code v) cl j.id code := by
  obtain ⟨h1, h2, h3⟩ := cpLeft_spec s cl j.id
  obtain ⟨h4, h5, h6⟩ := copyRec_modRec (f := cpFinal code v) ((h3 _).trans hr) rfl
  obtain ⟨k, hk⟩ := JobStatus.modRec_clusters (cpLeft s cl j.id) cl j.id (cpFinal code v)
  rw [cpEnd_started hs]
  refine ⟨⟨k, hk⟩, h5.trans (h1.trans hq), h6.trans h2, true, bank, _, h4, rfl, fun x hx => ?_⟩
  obtain ⟨y, -, rfl⟩ := List.mem_map.1 hx
  rfl
theorem cpPut_spec (s : State) (cl : Nat) {j : CpJob} {l : List CpJob} {j' : CpJob} (hq : (cluster s cl).cpq = j :: l)
    (hl : ∀ e ∈ l, e.id ≠ j.id) (hid : j'.id = j.id) : OnlyClusters s (cpPut s cl j') ∧ (cluster (cpPut s cl j') cl).cpq = j' :: l
    ∧ (cluster (cpPut s cl j') cl).mint = (cluster s cl).mint := by
  refine ⟨⟨_, rfl⟩, ?_, ?_⟩
  · rw [cpPut, cluster_modCluster, if_pos rfl]
    dsimp only
    rw [hq, List.map_cons, if_pos hid.symm]
    refine congrArg _ ((List.map_congr_left fun e he => ?_).trans (List.map_id l))
    rw [if_neg (hid ▸ hl e he)]
    rfl
  · rw [cpPut, cluster_modCluster, if_pos rfl]

end

/-! ## One step of the job at the head of the queue (R173 to R176) -/

section
variable {s w : State} {cl bank : Nat} {j : CpJob} {l : List CpJob} {r : JobRec}

theorem jobRef_cluster (h : cluster w cl = cluster s cl) (id : Word) : jobRef w cl id = jobRef s cl id :=
  JobStatus.jobRef_congr (fun b => by rw [mxBank, mxBank, h]) fun b => by rw [cpRecs, cpRecs, h]
theorem filter_head (hl : ∀ e ∈ l, e.id ≠ j.id) {n : Nat} (hn : n = j.id) : (j :: l).filter (fun e => e.id != n) = l := by
  subst hn
  rw [List.filter_cons, if_neg (by simp)]
  exact List.filter_eq_self.2 fun e he => by simpa using hl e he
/-- The queue of the cluster holds the job at its head, and the job's record is there. -/
structure AtHead (s : State) (cl bank : Nat) (j : CpJob) (l : List CpJob) (r : JobRec) : Prop where
  queue : (cluster s cl).cpq = j :: l
  others : ∀ e ∈ l, e.id ≠ j.id
  record : jobRef s cl (BitVec.ofNat 64 j.id) = .job true bank r
theorem AtHead.of_cluster (h : AtHead s cl bank j l r) (hw : cluster w cl = cluster s cl) : AtHead w cl bank j l r :=
  ⟨hw ▸ h.queue, h.others, (jobRef_cluster hw _).trans h.record⟩
theorem AtHead.ends (h : AtHead s cl bank j l r) {j' : CpJob} (hid : j'.id = j.id) (hs : j'.started = true) (code : Nat)
    (v : Word) :
    OnlyClusters s (cpEnd s cl j' code v) ∧ (cluster (cpEnd s cl j' code v) cl).cpq = l
    ∧ (cluster (cpEnd s cl j' code v) cl).mint = (cluster s cl).mint ∧ JobEnds (cpEnd s cl j' code v) cl j.id code := by
  have hq : (cluster s cl).cpq.filter (fun e => e.id != j'.id) = l := by rw [h.queue]; exact filter_head h.others hid
  have := cpEnd_spec hs hq (by rw [hid]; exact h.record) code v
  rwa [hid] at this
theorem AtHead.stays (h : AtHead s cl bank j l r) {j' : CpJob} (hid : j'.id = j.id) : OnlyClusters s (cpPut s cl j')
    ∧ (cluster (cpPut s cl j') cl).cpq = j' :: l ∧ (cluster (cpPut s cl j') cl).mint = (cluster s cl).mint :=
  cpPut_spec s cl h.queue h.others hid
/-- The job ends with CODE 0 where it was the last step, and else stands in the queue as `j'`. -/
def EndsOr (s : State) (cl : Nat) (j : CpJob) (l : List CpJob) (last : Prop) (j' : CpJob) (t : State) : Prop :=
  (last → (cluster t cl).cpq = l ∧ JobEnds t cl j.id 0) ∧ (¬ last → (cluster t cl).cpq = j' :: l)
theorem AtHead.endsOr (h : AtHead s cl bank j l r) {j' : CpJob} (hid : j'.id = j.id) (hs : j'.started = true) (last : Prop)
    [Decidable last] : EndsOr s cl j l last j' (if last then cpEnd s cl j' 0 0 else cpPut s cl j')
    ∧ OnlyClusters s (if last then cpEnd s cl j' 0 0 else cpPut s cl j')
    ∧ (cluster (if last then cpEnd s cl j' 0 0 else cpPut s cl j') cl).mint = (cluster s cl).mint := by
  by_cases hl : last
  · simp only [if_pos hl]
    obtain ⟨h1, h2, h3, h4⟩ := h.ends hid hs 0 0
    exact ⟨⟨fun _ => ⟨h2, h4⟩, fun hn => absurd hl hn⟩, h1, h3⟩
  · simp only [if_neg hl]
    obtain ⟨h1, h2, h3⟩ := h.stays hid
    exact ⟨⟨fun hy => absurd hy hl, fun _ => h2⟩, h1, h3⟩
theorem OnlyClusters.mem (h : OnlyClusters s w) : w.mem = s.mem := by obtain ⟨k, rfl⟩ := h; rfl
theorem OnlyClusters.core (h : OnlyClusters s w) (c : Nat) : Machine.core w c = Machine.core s c := by obtain ⟨k, rfl⟩ := h; rfl
theorem OnlyClusters.keeps (h : OnlyClusters s w) : KeepsBytes s w := by obtain ⟨k, rfl⟩ := h; exact ⟨⟨rfl, rfl, rfl⟩, rfl⟩

theorem cpStep_runs (h : AtHead s cl bank j l r) (hc : j.cancel = false) (hh : cpHeld s j = false) (hs : j.started = true)
    {kind : CpKind} (hk : j.kind = kind) (k : State → CpJob → Out) : cpStep s cl kind k = k s j := by
  rw [cpStep, h.queue]
  dsimp only
  rw [if_neg (by simp [hk, hh]), if_neg (by simp [hc]), hs, Bool.not_true, if_neg Bool.false_ne_true]
theorem cpStep_starts (h : AtHead s cl bank j l r) (hc : j.cancel = false) (hh : cpHeld s j = false) (hs : j.started = false)
    {kind : CpKind} (hk : j.kind = kind) (hr : jobRing j = none) (k : State → CpJob → Out) : cpStep s cl kind k =
    .next (cpPut s cl { j with started := true, loc := some (bits (j.desc.getD 1 0) 15 0) }) := by
  rw [cpStep, h.queue]
  dsimp only
  rw [if_neg (by simp [hk, hh]), if_neg (by simp [hc]), hs, Bool.not_false, if_pos rfl, cpStart, hr]
  rfl
theorem cpRead_serves {va : Word} {pa : Nat} (h : EngServes s cl j.launch va needR (copyTag cl) pa) (hr : j.rem = none)
    (k : State → CpJob → Word → State) : cpRead s cl j va k = .next (k (wordRead s pa) j (physRead s pa 8)) := by
  rw [cpRead, hr, engRead_serves h]
  dsimp only
  rw [← hr]
/-- What a word read leaves, seen from the state before the event. -/
theorem AtHead.read (h : AtHead s cl bank j l r) (e : Ev) {pa : Nat} (he : fget s.errs (sectorOf pa) = none) :
    AtHead (wordRead (facing s e) pa) cl bank j l r ∧ SeenAt s (wordRead (facing s e) pa) pa := by
  have hs : SeenAt s (wordRead (facing s e) pa) pa :=
    SeenAt.trans (t := facing s e) ⟨sameMemory_facing s e, rfl, rfl, rfl, rfl, rfl, rfl, rfl, rfl⟩
      (seenAt_wordRead (s := facing s e) he)
  exact ⟨h.of_cluster (hs.cluster cl), hs⟩

/-! ### `cpy` -/

/-- The ring slot of a job committed. -/
def ringDone (s : State) (j : CpJob) : State :=
  match jobRing j with
  | some n => modCore s j.core (fun x => setRing x n (ringCommit (ring x n)))
  | none => s
theorem cpDone_eq (s : State) (cl : Nat) (j : CpJob) : cpDone s cl j = cpEnd (ringDone s j) cl j 0 0 := rfl
theorem ringDone_spec (s : State) (j : CpJob) : (ringDone s j).mem = s.mem ∧ (ringDone s j).clusters = s.clusters
    ∧ ∀ c sp, bufOf (Machine.core (ringDone s j) c) sp = bufOf (Machine.core s c) sp := by
  unfold ringDone
  split
  · refine ⟨rfl, rfl, fun c sp => ?_⟩
    rw [core_modCore]
    split
    · next h => rw [h]; cases sp <;> rfl
    · rfl
  · exact ⟨rfl, rfl, fun _ _ => rfl⟩
theorem bufWrite_spec (s : State) (c : Nat) (sp : Space) (off : Nat) (b : List Byte) : (bufWrite s c sp off b).mem = s.mem
    ∧ (bufWrite s c sp off b).clusters = s.clusters
    ∧ bufOf (Machine.core (bufWrite s c sp off b) c) sp = msets (bufOf (Machine.core s c) sp) off b := by
  refine ⟨rfl, rfl, ?_⟩
  rw [bufWrite, core_modCore_self, VectorWork.bufOf_setBuf]
/-- The end of a step of a job that writes a buffer: done with its ring slot, or saved in the queue. -/
def bufStep (s : State) (cl : Nat) (j' : CpJob) (last : Bool) : State := if last then cpDone s cl j' else cpPut s cl j'
theorem bufStep_spec (h : AtHead s cl bank j l r) {j' : CpJob} (hid : j'.id = j.id) (hs : j'.started = true) (last : Bool) :
    EndsOr s cl j l (last = true) j' (bufStep s cl j' last) ∧ (bufStep s cl j' last).mem = s.mem
    ∧ ∀ c sp, bufOf (Machine.core (bufStep s cl j' last) c) sp = bufOf (Machine.core s c) sp := by
  cases last with
  | true =>
    obtain ⟨hm, hc, hb⟩ := ringDone_spec s j'
    have hd : AtHead (ringDone s j') cl bank j l r := h.of_cluster (by rw [cluster, hc]; rfl)
    obtain ⟨h1, h2, -, h4⟩ := hd.ends hid hs 0 0
    rw [bufStep, if_pos rfl, cpDone_eq]
    exact ⟨⟨fun _ => ⟨h2, h4⟩, fun hn => absurd rfl hn⟩, h1.mem.trans hm, fun c sp => by rw [h1.core, hb]⟩
  | false =>
    obtain ⟨h1, h2, -⟩ := h.stays hid
    rw [bufStep, if_neg Bool.false_ne_true]
    exact ⟨⟨fun hy => absurd hy Bool.false_ne_true, fun _ => h2⟩, h1.mem, fun c sp => by rw [h1.core]⟩
theorem exec_copyJob (s : State) (cl : Nat) :
    exec .copyJob (facing s (.copyJob cl)) = cpStep (facing s (.copyJob cl)) cl .cpy (copyWord cl) := rfl
theorem exec_copyoJob (s : State) (cl : Nat) :
    exec .copyoJob (facing s (.copyoJob cl)) = cpStep (facing s (.copyoJob cl)) cl .cpyo (copyoWord cl) := rfl
theorem exec_mintJob (s : State) (cl : Nat) :
    exec .mintJob (facing s (.mintJob cl)) = cpStep (facing s (.mintJob cl)) cl .mint (mintWord cl) := rfl
theorem exec_mintTableJob (s : State) (cl : Nat) :
    exec .mintTableJob (facing s (.mintTableJob cl)) = cpStep (facing s (.mintTableJob cl)) cl .mintT (mintTWord cl) := rfl
/-- One word of a `cpy`. -/
theorem copyWord_runs (hs : j.started = true) {va x : Word} {at_ n row : Nat}
    {sp : Space} (hn : bits (j.desc.getD 2 0) 31 0 / 8 = n)
    (hva : j.desc.getD 0 0 + BitVec.ofNat 64 (j.pos / n) * ((j.desc.getD 3 0).setWidth 32).signExtend 64
      + BitVec.ofNat 64 (8 * (j.pos % n)) = va)
    (hat : j.loc.getD 0 + j.pos / n * bits (j.desc.getD 3 0) 47 32 + 8 * (j.pos % n) = at_) (hsp : d1Space (j.desc.getD 1 0) = sp)
    (hrow : bits (j.desc.getD 2 0) 47 32 + 1 = row) {u : State} (hu : AtHead u cl bank j l r)
    (hread : ∀ k, cpRead s cl j va k = .next (k u j x)) :
    ∃ t, copyWord cl s j = .next t ∧ t.mem = u.mem
    ∧ (Memory.wf (bufOf (Machine.core u j.core) sp) = true → mword (bufOf (Machine.core t j.core) sp) at_ 8 = x)
    ∧ EndsOr s cl j l (j.pos + 1 = row * n) { j with pos := j.pos + 1 } t := by
  obtain ⟨hm, hc, hb⟩ := bufWrite_spec u j.core sp at_ (leBytes 8 x.toNat)
  have hw : AtHead (bufWrite u j.core sp at_ (leBytes 8 x.toNat)) cl bank j l r := hu.of_cluster (by rw [cluster, hc]; rfl)
  obtain ⟨h1, h2, h3⟩ := bufStep_spec hw (j' := { j with pos := j.pos + 1 }) rfl hs (decide (j.pos + 1 = row * n))
  refine ⟨bufStep (bufWrite u j.core sp at_ (leBytes 8 x.toNat)) cl { j with pos := j.pos + 1 } (decide (j.pos + 1 = row * n)),
    ?_, h2.trans hm, fun hwf => ?_, ?_⟩
  · rw [copyWord]
    dsimp only
    rw [hn, hva, hread, hsp, hrow, hat, bufStep]
    by_cases hl : j.pos + 1 = row * n
    · rw [if_pos hl, if_pos (decide_eq_true hl)]
    · rw [if_neg hl, if_neg (by simpa using hl)]
  · rw [h3, hb]
    exact mword_mput hwf at_ x
  · rw [decide_eq_true_iff] at h1; exact h1

end

section
variable {s u : State} {cl bank : Nat} {j : CpJob} {l : List CpJob} {r : JobRec}

/-! ### `cpyo`, and the table of `mint` -/

/-- A `cpyo` without a word reads it. -/
theorem copyoWord_reads (hx : j.words = []) {va x : Word} (hva : j.desc.getD 0 0 + BitVec.ofNat 64 (8 * j.pos) = va)
    (hread : ∀ k, cpRead s cl j va k = .next (k u j x)) :
    copyoWord cl s j = .next (cpPut u cl { j with words := [(0, x)] }) := by
  rw [copyoWord, hx]
  dsimp only [fget]
  rw [hva, hread]
/-- A `cpyo` that has its word writes it. -/
theorem copyoWord_writes (hr : j.rem = none) {va x : Word} (hx : j.words = [(0, x)])
    (hva : j.desc.getD 1 0 + BitVec.ofNat 64 (8 * j.pos) = va)
    (hw : engWrite s cl j.launch va x none (copyTag cl) = .got u 0) :
    copyoWord cl s j = .next (if 8 * (j.pos + 1) = (j.desc.getD 2 0).toNat then
      cpEnd u cl { j with pos := j.pos + 1, words := [] } 0 0 else cpPut u cl { j with pos := j.pos + 1, words := [] }) := by
  obtain ⟨kind, id, bk, c, la, d, st, loc, pos, out, last, cancel, rem, words⟩ := j
  dsimp only at hr hx hva hw ⊢
  subst hr hx hva
  rw [copyoWord, show fget [(0, x)] 0 = some x from rfl]
  dsimp only
  rw [hw]
/-- The table of a cluster with one word in it. -/
def tabled (s : State) (cl pos : Nat) (x : Word) : State :=
  modCluster s cl (fun c =>
    { c with mint := fset (fset c.mint (2 * pos) (x.setWidth 32)) (2 * pos + 1) ((x >>> 32).setWidth 32) })
theorem mintTWord_runs {va x : Word} (hva : j.desc.getD 0 0 + BitVec.ofNat 64 (8 * j.pos) = va)
    (hread : ∀ k, cpRead s cl j va k = .next (k u j x)) : mintTWord cl s j =
    .next (if j.pos + 1 = 2048 then cpEnd (tabled u cl j.pos x) cl { j with pos := j.pos + 1 } 0 0
      else cpPut (tabled u cl j.pos x) cl { j with pos := j.pos + 1 }) := by
  rw [mintTWord, hva, hread]
  rfl
theorem atHead_tabled (h : AtHead s cl bank j l r) (pos : Nat) (x : Word) : AtHead (tabled s cl pos x) cl bank j l r := by
  have hc : cluster (tabled s cl pos x) cl = { cluster s cl with
      mint := fset (fset (cluster s cl).mint (2 * pos) (x.setWidth 32)) (2 * pos + 1) ((x >>> 32).setWidth 32) } := by
    rw [tabled, cluster_modCluster, if_pos rfl]
  refine ⟨by rw [hc]; exact h.queue, h.others, (JobStatus.jobRef_congr (fun b => ?_) fun b => ?_).trans h.record⟩
  · rw [mxBank, mxBank, hc]
  · rw [cpRecs, cpRecs, hc]
theorem mint_tabled (s : State) (cl pos : Nat) (x : Word) :
    fget (cluster (tabled s cl pos x) cl).mint (2 * pos) = some (x.setWidth 32)
    ∧ fget (cluster (tabled s cl pos x) cl).mint (2 * pos + 1) = some (x.extractLsb' 32 32) := by
  rw [tabled, cluster_modCluster, if_pos rfl]
  dsimp only
  refine ⟨?_, ?_⟩
  · rw [fget_fset_ne _ _ (by omega), fget_fset_self]
  · rw [fget_fset_self] <;> rfl

/-! ### A code of `mint` -/

/-- The fields of a table entry: the length and the symbol of a code. -/
theorem entry_fields (e : BitVec 32) : e.toNat % 16 = (e.setWidth 4).toNat ∧ e.toNat / 65536 % 1024 =
    (e.extractLsb' 16 10).toNat := by
  refine ⟨by simp, ?_⟩
  rw [BitVec.extractLsb'_toNat, Nat.shiftRight_eq_div_pow]
theorem literal_byte {e : BitVec 32} (h : (e.extractLsb' 16 10).toNat < 256) :
    BitVec.ofNat 8 (e.extractLsb' 16 10).toNat = e.extractLsb' 16 8 := by
  apply BitVec.eq_of_toNat_eq
  rw [BitVec.extractLsb'_toNat] at h
  rw [BitVec.toNat_ofNat, BitVec.extractLsb'_toNat, BitVec.extractLsb'_toNat]
  norm_num only at h ⊢
  omega
theorem mintCode_bad {e : BitVec 32} (he : (fget (cluster s cl).mint (mintPeek j)).getD 0 = e)
    (h : (e.setWidth 4).toNat = 0 ∨ 512 ≤ (e.extractLsb' 16 10).toNat) : mintCode cl s j = cpEnd s cl j 4 0 := by
  obtain ⟨h1, h2⟩ := entry_fields e
  rw [mintCode, he]
  dsimp only
  rw [h1, h2, if_pos (h.elim .inl fun h => .inr (.inl h))]
/-- The job after a literal code. -/
def afterLiteral (j : CpJob) (len : Nat) (x : Byte) : CpJob :=
  { j with out := j.out + 1, pos := j.pos + len, last := x
           words := j.words.filter (fun w => decide ((j.pos + len) / 64 ≤ w.1)) }
theorem mintCode_literal {e : BitVec 32} (he : (fget (cluster s cl).mint (mintPeek j)).getD 0 = e)
    (h1 : (e.setWidth 4).toNat ≠ 0) (h2 : (e.extractLsb' 16 10).toNat < 256)
    (h3 : j.pos + (e.setWidth 4).toNat ≤ 8 * (j.desc.getD 3 0).toNat) (h4 : j.out + 1 < (j.desc.getD 2 0).toNat) :
    mintCode cl s j = cpPut (bufWrite s j.core .w (j.loc.getD 0 + j.out) [e.extractLsb' 16 8]) cl
      (afterLiteral j (e.setWidth 4).toNat (e.extractLsb' 16 8)) := by
  obtain ⟨g1, g2⟩ := entry_fields e
  rw [mintCode, he]
  dsimp only
  rw [g1, g2, if_neg (by omega), if_pos h2, if_neg (by omega), if_pos h2, literal_byte h2, if_neg (by omega)]
  rfl
theorem mintWord_reads {k : Nat} (hk : mintNeeds j = some k) {va x : Word}
    (hva : j.desc.getD 0 0 + BitVec.ofNat 64 (8 * k) = va) (hread : ∀ f, cpRead s cl j va f = .next (f u j x)) :
    mintWord cl s j = .next (cpPut u cl { j with words := fset j.words k x }) := by
  rw [mintWord, hk]
  dsimp only
  rw [hva, hread]
theorem mintWord_code (hk : mintNeeds j = none) : mintWord cl s j = .next (mintCode cl s j) := by rw [mintWord, hk]

end
/-- Settles O39: each kind of step at the head of the queue, by `copyWord_runs`, `copyoWord_reads`, `copyoWord_writes`,
`mintTWord_runs`, `mintWord_reads`, `mintCode_bad` and `mintCode_literal`. -/
theorem copyJobSteps : Obligations.CopyJobSteps := by
  unfold Obligations.CopyJobSteps
  intro s cl j l r bank hq hl hr hc hrem hh steps serves
  have hd : AtHead s cl bank j l r := ⟨hq, hl, hr⟩
  have hf (e : Ev) : AtHead (facing s e) cl bank j l r := ⟨hd.queue, hd.others, hd.record⟩
  have hreads (e : Ev) {va : Word} {pa : Nat} (h : serves va needR pa) (k : State → CpJob → Word → State) :
      cpRead (facing s e) cl j va k = .next (k (wordRead (facing s e) pa) j (physRead s pa 8)) := by
    have he : EngServes (facing s e) cl j.launch va needR (copyTag cl) pa := ⟨h.1, h.2.1, h.2.2⟩
    rw [cpRead_serves he hrem, physRead_congr (sameMemory_facing s e)]
  refine ⟨?_, fun hs => ⟨?_, ?_, ?_, ?_, ?_, ?_⟩⟩
  · intro k e i hm hk hs hring
    have key (kind : CpKind) (e : Ev) (hk : j.kind = kind) (f : State → CpJob → Out) : ∃ t, cpStep (facing s e) cl kind f = .next
      t
        ∧ (cluster t cl).cpq = { j with started := true, loc := some (bits (j.desc.getD 1 0) 15 0) } :: l ∧ t.mem = s.mem :=
      ⟨_, cpStep_starts (hf e) hc hh hs hk hring f,
        ((hf e).stays (j' := { j with started := true, loc := some (bits (j.desc.getD 1 0) 15 0) }) rfl).2.1, rfl⟩
    simp only [steps, List.mem_cons, Prod.mk.injEq, List.not_mem_nil, or_false] at hm
    rcases hm with ⟨rfl, rfl, rfl⟩ | ⟨rfl, rfl, rfl⟩ | ⟨rfl, rfl, rfl⟩ | ⟨rfl, rfl, rfl⟩
    · exact key .cpy _ hk _
    · exact key .cpyo _ hk _
    · exact key .mint _ hk _
    · exact key .mintT _ hk _
  · intro pa hk rowLen q row va at_ sp h
    obtain ⟨hu, hseen⟩ := hd.read (.copyJob cl) h.2.2.2.1
    rw [exec_copyJob, cpStep_runs (hf (.copyJob cl)) hc hh hs hk]
    obtain ⟨t, h1, h2, h3, h4, h5⟩ := copyWord_runs (s := facing s (.copyJob cl)) hs rfl rfl rfl rfl rfl hu
      (hreads (.copyJob cl) h)
    exact ⟨t, h1, h2.trans hseen.memory.2.2, fun hwf => h3 (by rw [hseen.core]; exact hwf), h4, h5⟩
  · intro pa hk hw h
    obtain ⟨hu, hseen⟩ := hd.read (.copyoJob cl) h.2.2.2.1
    rw [exec_copyoJob, cpStep_runs (hf (.copyoJob cl)) hc hh hs hk, copyoWord_reads hw rfl (hreads (.copyoJob cl) h)]
    obtain ⟨h1, h2, -⟩ := hu.stays (j' := { j with words := [(0, physRead s pa 8)] }) rfl
    exact ⟨_, rfl, h1.mem.trans hseen.memory.2.2, h2⟩
  · intro pa x hk hw h hok
    have he : EngServes (facing s (.copyoJob cl)) cl j.launch _ needW (copyTag cl) pa := ⟨h.1, h.2.1, h.2.2⟩
    rw [exec_copyoJob, cpStep_runs (hf (.copyoJob cl)) hc hh hs hk, copyoWord_writes hrem hw rfl (engWrite_serves he)]
    have hst := stored_of_same hok (sameMemory_facing s (.copyoJob cl)) pa 8 x
    have hu : AtHead (physWrite (facing s (.copyoJob cl)) pa 8 x) cl bank j l r := by
      refine hd.of_cluster ?_
      rw [cluster, physWrite, (Switching.aloof_physPut (facing s (.copyoJob cl)) pa (leBytes 8 x.toNat)).clusters]
      rfl
    obtain ⟨⟨h1, h2⟩, h3, -⟩ := hu.endsOr (j' := { j with pos := j.pos + 1, words := [] }) rfl hs
      (8 * (j.pos + 1) = (j.desc.getD 2 0).toNat)
    exact ⟨_, rfl, stored_keeps hst h3.keeps, h1, h2⟩
  · intro pa hk h
    obtain ⟨hu, hseen⟩ := hd.read (.mintTableJob cl) h.2.2.2.1
    rw [exec_mintTableJob, cpStep_runs (hf (.mintTableJob cl)) hc hh hs hk, mintTWord_runs rfl (hreads (.mintTableJob cl) h)]
    obtain ⟨⟨h1, -⟩, h3, h4⟩ := (atHead_tabled hu j.pos (physRead s pa 8)).endsOr (j' := { j with pos := j.pos + 1 }) rfl hs
      (j.pos + 1 = 2048)
    obtain ⟨g1, g2⟩ := mint_tabled (wordRead (facing s (.mintTableJob cl)) pa) cl j.pos (physRead s pa 8)
    exact ⟨_, rfl, h3.mem.trans hseen.memory.2.2, by rw [h4]; exact g1, by rw [h4]; exact g2, h1⟩
  · intro pa k hk hn h
    obtain ⟨hu, hseen⟩ := hd.read (.mintJob cl) h.2.2.2.1
    rw [exec_mintJob, cpStep_runs (hf (.mintJob cl)) hc hh hs hk, mintWord_reads hn rfl (hreads (.mintJob cl) h)]
    obtain ⟨h1, h2, -⟩ := hu.stays (j' := { j with words := fset j.words k (physRead s pa 8) }) rfl
    exact ⟨_, rfl, h1.mem.trans hseen.memory.2.2, h2⟩
  · intro hk hn e len sym
    have hrun : exec .mintJob (facing s (.mintJob cl)) = .next (mintCode cl (facing s (.mintJob cl)) j) := by
      rw [exec_mintJob, cpStep_runs (hf (.mintJob cl)) hc hh hs hk, mintWord_code hn]
    rw [hrun]
    constructor
    · intro hb
      rw [mintCode_bad (s := facing s (.mintJob cl)) (e := e) rfl hb]
      obtain ⟨h1, h2, -, h4⟩ := (hf (.mintJob cl)).ends (j' := j) rfl hs 4 0
      exact ⟨_, rfl, h2, h4, h1.mem⟩
    · intro h1 h2 h3 h4
      rw [mintCode_literal (s := facing s (.mintJob cl)) (e := e) rfl h1 h2 h3 h4]
      obtain ⟨-, g2, g3⟩ := bufWrite_spec (facing s (.mintJob cl)) j.core .w (j.loc.getD 0 + j.out) [e.extractLsb' 16 8]
      have hu : AtHead (bufWrite (facing s (.mintJob cl)) j.core .w (j.loc.getD 0 + j.out) [e.extractLsb' 16 8]) cl bank j l r :=
        hd.of_cluster (by rw [cluster, g2]; rfl)
      obtain ⟨k1, k2, -⟩ := hu.stays (j' := afterLiteral j len (e.extractLsb' 16 8)) rfl
      refine ⟨_, afterLiteral j len (e.extractLsb' 16 8), rfl, k2, rfl, rfl, rfl, fun hwf => ?_⟩
      rw [k1.core]
      have hb := congrArg (fun m => mget m (j.loc.getD 0 + j.out)) g3
      refine hb.trans ?_
      rw [mget_msets (m := bufOf (Machine.core (facing s (.mintJob cl)) j.core) .w) hwf, if_pos
        ⟨le_refl _, by simp⟩, Nat.sub_self]
      rfl

end Sys2Proof.Proofs.CopySteps
end

section
/-!
PROOFS. WHAT STATEMENT O43 RESTS ON. A launch record that stands in the vault of its queue's descriptor (R58, R60, R284); the
refutation of statement O43.
-/
namespace Sys2Proof.Proofs.Launching
open Sys2Proof Sys2Proof.Machine DeviceMemory

/-- A queue whose records stand where the vault of its descriptor's stack has its first record. -/
def vaultQueue : LQueue :=
  { base := 98304, log2n := 0, tdi := 15, err := false, head := 0, tail := 1, cbase := 0, windows := [], open_ := [] }
/-- A good launch record at its HEAD, and the vault empty: one cluster, no graph to run, an image in frame 192. -/
def vaultRecord : State :=
  { State.reset with stks := [], queues := [(0, vaultQueue)], mem := [(98304, 1), (98305, 1), (98316, 3)] }
theorem vaultRecord_good : recordBad (cpReads (facing vaultRecord (.launchRecord 0)) 98304 64) 98304
    (recordAt (cpReads (facing vaultRecord (.launchRecord 0)) 98304 64) 0 0 98304) = false := by decide +kernel
/-- The change of HEAD is logged: the vault's first record now stands there, and is no launch record. -/
theorem vaultRecord_refused : ∃ t, exec .launchRecord (facing vaultRecord (.launchRecord 0)) = .next t ∧ t.waiting = [] := by
  refine ⟨takeRecord (facing vaultRecord (.launchRecord 0)) 0 vaultQueue, rfl, ?_⟩
  decide +kernel

/-- Refutes O43: a record that is good as it is read can stand where logging the change of HEAD puts a vault record; the model
checks the bytes that stand there then. -/
theorem not_launchesAndArbor : ¬ Obligations.LaunchesAndArbor := by
  intro h
  obtain ⟨t, ht, -, -, hgood, -⟩ := (h.1 vaultRecord).2.1 0 vaultQueue rfl (by decide +kernel) (by decide +kernel)
  obtain ⟨u, hu, hnone⟩ := vaultRecord_refused
  obtain rfl := Host.Outcome.next.inj (ht.symm.trans hu)
  exact absurd (hnone.symm.trans (hgood vaultRecord_good).1) (by simp)

end Sys2Proof.Proofs.Launching
end

section
/-!
PROOFS. WHAT STATEMENT O40 RESTS ON. The last K-step of a strip (R129, R214), and an mxms whose mask keeps more than its
column holds (R217); the refutation of statement O40.
-/
namespace Sys2Proof.Proofs.MatrixSteps
open Sys2Proof Sys2Proof.Machine DeviceMemory JobStatus

/-! ## C after the accumulators of a strip are written -/

/-- The bytes of row `i` of a strip. -/
def accRow (d : List Word) (st : Nat) (l : List Lane) (i : Nat) : List Byte :=
  ((l.drop (stripCols d st * i)).take (stripCols d st)).flatMap (fun x => leBytes 4 x.toNat)
/-- The rows of a strip, written one after the other. -/
def accRows (d : List Word) (st : Nat) (l : List Lane) (m : List Host.Cell) : List Nat → List Host.Cell
  | [] => m
  | i :: is => accRows d st l (msets m (cAddr d st i) (accRow d st l i)) is
theorem bufC_writeAcc (s : State) (c : Nat) (d : List Word) (st : Nat) (l : List Lane) :
    (Machine.core (writeAcc s c d st l) c).bufC = accRows d st l (Machine.core s c).bufC (List.range 32) := by
  rw [writeAcc]
  generalize List.range 32 = is
  induction is generalizing s with
  | nil => rfl
  | cons i is ih =>
    have h := (CopySteps.bufWrite_spec s c .c (cAddr d st i) (accRow d st l i)).2.2
    rw [List.foldl_cons, ih, accRows]
    exact congrArg (accRows d st l · is) h
/-- A byte before every row that is written stays as it is. -/
theorem mget_accRows {d : List Word} {st : Nat} (l : List Lane) {m : List Host.Cell} (hm : Memory.wf m = true) {k : Nat}
    (is : List Nat) (h : ∀ i ∈ is, k < cAddr d st i) : mget (accRows d st l m is) k = mget m k := by
  induction is generalizing m with
  | nil => rfl
  | cons i is ih =>
    rw [accRows, ih (msets_wf hm _ _) fun j hj => h j (List.mem_cons_of_mem _ hj), mget_msets hm,
      if_neg (fun e => absurd e.1 (Nat.not_le.2 (h i List.mem_cons_self)))]

/-! ## The last K-step of a strip of one participant -/

section
variable {s : State} {cl bank : Nat} {j : MxJob} {r : JobRec} {x : SubRec}

/-- The job's record is that of one participant, which still runs. -/
def RunsAlone (s : State) (cl id bank : Nat) : Prop :=
  ∃ r x, jobRef s cl (BitVec.ofNat 64 id) = .job false bank r ∧ r.subs = [x] ∧ x.ended = false
theorem recOf_runsAlone {id : Nat} (h : RunsAlone s cl id bank) : ∃ x, (recOf s cl id).subs = [x] ∧ x.ended = false := by
  obtain ⟨r, x, hj, hr, hx⟩ := h
  exact ⟨x, by rw [recOf, hj]; exact hr, hx⟩
theorem modSubs_runsAlone {id : Nat} (h : RunsAlone s cl id bank) {f : Nat → SubRec → SubRec}
    (hf : ∀ x, x.ended = false → (f 0 x).ended = false) : RunsAlone (modSubs s cl id f) cl id bank := by
  obtain ⟨r, x, hj, hr, hx⟩ := h
  have h := jobRef_modRec (f := fun r => { r with subs := r.subs.mapIdx (fun i x => if x.ended then x else f i x) }) hj rfl
  have e : modSubs s cl id f = modRec s cl (BitVec.ofNat 64 id).toNat
      (fun r => { r with subs := r.subs.mapIdx (fun i x => if x.ended then x else f i x) }) := by
    rw [modSubs, modRec, modRec, BitVec.ofNat_toNat, BitVec.setWidth_eq]
  refine ⟨_, f 0 x, e ▸ h, ?_, hf x hx⟩
  simp [hr, hx]
theorem cores_modSubs (s : State) (cl id : Nat) (f : Nat → SubRec → SubRec) : (modSubs s cl id f).cores = s.cores := by
  obtain ⟨k, h⟩ := modRec_clusters s cl id fun r => { r with subs := r.subs.mapIdx fun i x => if x.ended then x else f i x }
  rw [modSubs, h]
theorem overThr_zero (x : SubRec) : overThr 0 x = false := rfl
theorem cores_mxFinal (s : State) (cl : Nat) (j : MxJob) : (mxFinal s cl j).cores = s.cores := by
  have hf : ∀ (l : List Nat) (t : State), (l.foldl (fun s b => post s (.arrive ⟨cl, b, true, 0, 0, none⟩)) t).cores = t.cores :=
    by
    intro l
    induction l with
    | nil => exact fun t => rfl
    | cons b l ih => exact fun t => ih _
  unfold mxFinal
  dsimp only
  rw [hf]
  obtain ⟨k, h⟩ := modRec_clusters (modCluster s cl fun x => { x with mxq := x.mxq.filter fun e => e.id != j.id }) cl j.id
    fun r => { r with final := true, subs := r.subs.map fun x => { x with ended := true } }
  rw [h]; rfl
theorem cores_productDone (s : State) (cl : Nat) (j : MxJob) : (productDone s cl j).cores = s.cores := by
  rw [productDone, cores_mxFinal, cores_modSubs]
theorem core_of_cores {t : State} (h : t.cores = s.cores) (c : Nat) : Machine.core t c = Machine.core s c := by
  rw [Machine.core, h]; rfl
theorem bufC_flushAcc {u : Nat} {L : List Lane} (h : RunsAlone s cl j.id bank) (hp : j.parts = [u]) (ha : j.acc = [L]) :
    (Machine.core (flushAcc s cl j) (coreAt cl u)).bufC =
      accRows j.desc j.strip L (Machine.core s (coreAt cl u)).bufC (List.range 32) := by
  obtain ⟨x, hr, hx⟩ := recOf_runsAlone h
  rw [← bufC_writeAcc, flushAcc, if_neg (by rw [ha]; exact List.cons_ne_nil L []), hp, ha]
  simp [hr, hx]
theorem bufC_endKStep {u : Nat} {L : List Lane} (h : RunsAlone s cl j.id bank) (hp : j.parts = [u]) (ha : j.acc = [L])
    (ht : j.thr = 0) (hc : j.cancel = false) (hk : ¬ j.knext + 1 < mxK j.desc / 32) (hs : j.strip + 1 = strips j.desc) :
    (Machine.core (endKStep s cl j) (coreAt cl u)).bufC =
      accRows j.desc j.strip L (Machine.core s (coreAt cl u)).bufC (List.range 32) := by
  have h1 := modSubs_runsAlone h (f := fun _ x => { x with knext := j.knext + 1, strip := j.strip }) fun x hx => hx
  obtain ⟨x, hr, hx⟩ := recOf_runsAlone h1
  have h2 := modSubs_runsAlone h1 (f := fun _ x => if overThr j.thr x then { x with code := 8, ended := true } else x) fun x
    hx => by
    rw [ht, overThr_zero]; exact hx
  obtain ⟨y, hr', hy⟩ := recOf_runsAlone h2
  have h3 := bufC_flushAcc (j := { j with knext := j.knext + 1, got := [] }) h2 hp ha
  rw [core_of_cores ((cores_modSubs ..).trans (cores_modSubs ..))] at h3
  refine Eq.trans ?_ h3
  unfold endKStep
  simp only [hp, hr, ht, overThr_zero, List.zipIdx_cons, List.zipIdx_nil, List.foldl_cons, List.foldl_nil,
    List.getElem?_cons_zero,
    Bool.false_eq_true, and_false, if_false] at hr' ⊢
  rw [if_neg (by simp [hr', hy]), if_neg (by simp [hc]), if_neg hk, if_pos hs, core_of_cores (cores_productDone ..)]
/-- The columns of a panel as the unit multiplies them. -/
def panelCols (s : State) (cl : Nat) (j : MxJob) : List MxRun :=
  (List.range (stripCols j.desc j.strip)).map (panelCol j (panelBytes s cl j j.strip j.knext))
/-- What a K-step of the first participant gives. -/
def firstStep (s : State) (cl u : Nat) (j : MxJob) : List Lane × MxEv :=
  stepAcc s (coreAt cl u) j (panelCols s cl j) (j.acc.getD 0 [])
theorem bufC_doKStep {u : Nat} (h : RunsAlone s cl j.id bank) (hp : j.parts = [u]) (ht : j.thr = 0) (hc : j.cancel = false)
    (hk : ¬ j.knext + 1 < mxK j.desc / 32) (hs : j.strip + 1 = strips j.desc) :
    (Machine.core (doKStep s cl j) (coreAt cl u)).bufC =
      accRows j.desc j.strip (firstStep s cl u j).1 (Machine.core s (coreAt cl u)).bufC (List.range 32) := by
  have he : doKStep s cl j = endKStep (modSubs s cl j.id (fun i x => match [firstStep s cl u j][i]? with
      | some (_, e) => { x with sat := cap16 (x.sat + e.sat), nan := cap16 (x.nan + e.nan) }
      | none => x)) cl { j with acc := [(firstStep s cl u j).1] } := by
    rw [doKStep]
    simp only [hp, List.zipIdx_cons, List.zipIdx_nil, List.map_cons, List.map_nil]
    rfl
  have h1 := bufC_endKStep (j := { j with acc := [(firstStep s cl u j).1] }) (modSubs_runsAlone h (f := fun i x =>
      match [firstStep s cl u j][i]? with
      | some (_, e) => { x with sat := cap16 (x.sat + e.sat), nan := cap16 (x.nan + e.nan) }
      | none => x) fun x hx => hx) hp rfl ht hc hk hs
  rw [core_of_cores (cores_modSubs ..)] at h1
  rw [he]
  exact h1
end

/-! ## An `mxms` whose mask keeps more than its column holds -/

/-- An `mxms` job that has started, of one strip in INT8, its first mask all ones. -/
def fullMask : MxJob :=
  { kind := .mxms, id := 0, bank := 0, parts := [0], fmt := 0x200, thr := 0, desc := [0, 0x2000200020, 0, 0], bars := []
    mask := [BitVec.allOnes 32], started := true, pause := none, told := false, cancel := false, strip := 0, knext := 0, row := 0
    acc := [], got := [], rem := none }
def fullMaskRec : JobRec := ⟨0, false, false, true, [newSub 0], false⟩
/-- Its cluster with its record, and its core with a one at byte 16 of A and at byte 16 of W, past the elements of column 0. -/
def fullMasked : State :=
  { State.reset with
    clusters := [(0, { Cluster.reset with mxq := [fullMask], banks := [(0, { MxBank.reset with recs := [fullMaskRec] })] })]
    cores := [(0, { Core.reset with bufA := [(16, 1)], bufW := [(16, 1)] })] }
/-- The state in which the job steps, its job with C read, and its new accumulators. -/
def fullMaskedNow : State := facing fullMasked (.mxmsJob 0 0)
def fullMaskRead : MxJob := loadAcc fullMaskedNow 0 fullMask
def fullMaskStep : List Lane × MxEv := firstStep fullMaskedNow 0 0 fullMaskRead
theorem mxStep_runs {s : State} {cl id : Nat} {kinds : List MxKind} {j : MxJob} (h : mxRuns (cluster s cl).mxq id = some j)
    (hk : kinds.contains j.kind = true) (hh : mxHeld s cl j = false) (k : State → MxJob → Out) :
    mxStep s cl id kinds k = k s j := by
  rw [mxStep, h]
  exact if_pos ⟨hk, by rw [hh]; rfl⟩
theorem productStep_steps {s : State} {cl : Nat} {j : MxJob} (hs : j.started = true) (hb : mxBsrc j.desc = false) :
    productStep s cl j = .next (doKStep s cl (loadAcc s cl j)) := by
  have hd : (loadAcc s cl j).desc = j.desc := by unfold loadAcc; split <;> rfl
  rw [productStep, if_neg (by simp [hs])]
  dsimp only
  rw [if_neg (by simp [hd, hb])]
theorem fullMask_held : mxHeld fullMaskedNow 0 fullMask = false := by decide +kernel
theorem exec_fullMasked : exec .mxmsJob fullMaskedNow = .next (doKStep fullMaskedNow 0 fullMaskRead) :=
  (mxStep_runs (kinds := [.mxms]) (s := fullMaskedNow) (id := 0) (by decide +kernel) rfl fullMask_held
    fun s j => productStep s 0 j).trans (productStep_steps (s := fullMaskedNow) (cl := 0) (j := fullMask) rfl (by decide))
theorem fullMasked_alone : RunsAlone fullMaskedNow 0 0 0 := ⟨fullMaskRec, newSub 0, by decide +kernel, rfl, rfl⟩
theorem fullMasked_bufC : (Machine.core (doKStep fullMaskedNow 0 fullMaskRead) 0).bufC =
    accRows fullMask.desc 0 fullMaskStep.1 [] (List.range 32) := by
  exact bufC_doKStep (u := 0) fullMasked_alone rfl rfl rfl (by decide) (by decide)
/-- The element of C that a kept element past the end of column 0 would make one stays zero. -/
theorem fullMasked_zero : mgets (Machine.core (doKStep fullMaskedNow 0 fullMaskRead) 0).bufC 0 4 = [0, 0, 0, 0] := by
  have h0 : cAddr fullMask.desc 0 0 = 0 := by decide
  have hlen : 4 ≤ (accRow fullMask.desc 0 fullMaskStep.1 0).length := by decide +kernel
  have hrow : ∀ k, k < 4 → (accRow fullMask.desc 0 fullMaskStep.1 0).getD k 0 = 0 := by decide +kernel
  have hget : ∀ k, k < 4 → mget (accRows fullMask.desc 0 fullMaskStep.1 [] (List.range 32)) k = 0 := by
    intro k hk
    rw [show List.range 32 = 0 :: (List.range 31).map (· + 1) from rfl, accRows,
      mget_accRows _ (msets_wf rfl _ _) _ fun i hi => ?_, mget_msets rfl]
    · rw [h0, if_pos ⟨Nat.zero_le k, by omega⟩]
      exact hrow k hk
    · exact lt_of_lt_of_le hk ((by decide : ∀ i ∈ (List.range 31).map (· + 1), 4 ≤ cAddr fullMask.desc 0 i) i hi)
  rw [fullMasked_bufC]
  simp only [mgets, hget 0 (by omega), hget 1 (by omega), hget 2 (by omega), hget 3 (by omega)]

/-- What the clause says of that element: byte 16 of A times byte 16 of W. -/
def fullMaskSaid : Lane :=
  BitVec.ofInt 32 (max (-2147483648) (min 2147483647 (BitVec.toInt (0 : Lane) + ((List.range 32).map (fun k =>
    (BitVec.ofNat 8 (leNat (mgets (Machine.core fullMasked 0).bufA ((0 * 32 + 32 * 0 + k) * 1) 1))).toInt
      * (if (BitVec.allOnes 32).getLsbD k then (mget (Machine.core fullMasked 0).bufW
          ((List.range k).filter (fun i => (BitVec.allOnes 32).getLsbD i)).length).toInt else 0))).sum)))

/-- Refutes O40: the clause on a K-step of `mxms` does not ask for good masks. Under one with more than sixteen bits, which no
  job that
starts has, the unit takes zero past the elements of a column, where the clause reads the bytes of the next column. -/
theorem not_matrixJobSteps : ¬ Obligations.MatrixJobSteps := by
  intro h
  obtain ⟨-, -, hs, -⟩ := h fullMasked 0 0 0 fullMask fullMaskRec (by decide +kernel) rfl (by decide +kernel) (by decide +kernel)
    (by decide) rfl (by decide) rfl rfl fullMask_held
  obtain ⟨t, ht, -, -, -, hw⟩ := hs rfl 0 rfl rfl (by decide) (by decide) (by decide) (by decide) rfl rfl (by decide) rfl
  obtain rfl := Host.Outcome.next.inj (exec_fullMasked.symm.trans ht)
  have hword : BitVec.ofNat 32 (leNat (mgets (Machine.core (doKStep fullMaskedNow 0 fullMaskRead) 0).bufC 0 4)) = fullMaskSaid :=
    hw (by decide) 0 0 (by omega) (by omega)
  rw [fullMasked_zero] at hword
  exact absurd hword (by decide +kernel)

end Sys2Proof.Proofs.MatrixSteps
end

section
/-!
PROOFS. WHAT STATEMENT O41 RESTS ON. The contexts of a stream unit: opening, combining, drawing and closing them, reading
ahead, and the merge loop (R229 to R236); the proof of statement O41.
-/
namespace Sys2Proof.Proofs.StreamUnits
open Sys2Proof Sys2Proof.Machine FetchingAndIssuing DeviceMemory CopySteps

/-! ## Contexts of a core -/

theorem stream_setStream (x : Core) (n m : Nat) (z : Stream) : stream (setStream x n z) m = if m = n then z else stream x m := by
  simp only [stream, setStream, fget_fset]
  split <;> rfl
theorem stream_setStream_self (x : Core) (n : Nat) (z : Stream) : stream (setStream x n z) n = z := by
  rw [stream_setStream, if_pos rfl]
theorem stream_modStream (s : State) (c n m : Nat) (f : Stream → Stream) : stream (Machine.core (modStream s c n f) c) m =
    if m = n then f (stream (Machine.core s c) n) else stream (Machine.core s c) m := by
  rw [modStream, core_modCore_self, stream_setStream]
theorem stream_mine (s : State) (n m : Nat) (f : Stream → Stream) : stream (myCore (modStream s s.cur.core n f)) m =
    if m = n then f (stream (myCore s) n) else stream (myCore s) m := stream_modStream ..
/-- A change of contexts of the running thread's core keeps the rest of the module. -/
theorem modStream_cores (s : State) (c n : Nat) (f : Stream → Stream) :
    modStream s c n f = { s with cores := (modStream s c n f).cores } := rfl

/-! ## Opening (R230) -/

section
variable {s : State} {x y : Fin 4} {a b c : Reg}

/-- What the opening instruction reads of its source's words. -/
def sopenBody (s : State) (x : Fin 4) (d0 d1 : Word) : Eff :=
  if (stream (myCore s) x).st ≠ .closed then .trap s 0x07 (BitVec.ofNat 64 x.val)
  else if bits d1 63 34 ≠ 0 then .trap s 0x03 d1
  else if d0.toNat % (if d1.getLsbD 33 then 4 else 8) ≠ 0 then .trap s 0x02 d0
  else if (if d1.getLsbD 32 then 49152 else 2 ^ 64) < d0.toNat + bits d1 31 0 * (if d1.getLsbD 33 then 4 else 8) then
    .trap s 0x03 d0
  else fenced s true .core (fun s =>
    .done (modStream s s.cur.core x (fun old =>
      { Stream.reset with
        serial := old.serial, st := .plain, owner := s.cur.slot, launch := (me s).launch, base := d0, count := bits d1 31 0
        inA := d1.getLsbD 32, w4 := d1.getLsbD 33 })))
theorem exec_sopen (h : QueuesReady s [b, regUp b 1] []) : exec (.sopen x b) s =
    .next (finish 2 ([b, regUp b 1].contains 30) (sopenBody s x (rd s b) (rd s (regUp b 1)))) := by
  rw [show exec (.sopen x b) s = execSopen x b s from rfl, execSopen, runI_ready h]
  simp only [JobPushes.bit_of]
  rfl
theorem sopenBody_used {d0 d1 : Word} (hc : (stream (myCore s) x).st ≠ .closed) :
    sopenBody s x d0 d1 = .trap s 0x07 (BitVec.ofNat 64 x.val) := if_pos hc
theorem sopenBody_reserved {d0 d1 : Word} (hc : (stream (myCore s) x).st = .closed) (hr : bits d1 63 34 ≠ 0) :
    sopenBody s x d0 d1 = .trap s 0x03 d1 := (if_neg (not_not.2 hc)).trans (if_pos hr)
theorem sopenBody_misaligned {d0 d1 : Word} (hc : (stream (myCore s) x).st = .closed) (hr : bits d1 63 34 = 0)
    (ha : d0.toNat % (if d1.getLsbD 33 then 4 else 8) ≠ 0) : sopenBody s x d0 d1 = .trap s 0x02 d0 :=
  (if_neg (not_not.2 hc)).trans ((if_neg (not_not.2 hr)).trans (if_pos ha))
theorem sopenBody_opens {d0 d1 : Word} (hc : (stream (myCore s) x).st = .closed) (hr : bits d1 63 34 = 0)
    (ha : d0.toNat % (if d1.getLsbD 33 then 4 else 8) = 0)
    (hb : d0.toNat + bits d1 31 0 * (if d1.getLsbD 33 then 4 else 8) ≤ (if d1.getLsbD 32 then 49152 else 2 ^ 64))
    (hf : FenceOpen s .core) :
    sopenBody s x d0 d1 = .done (modStream s s.cur.core x (fun old =>
      { Stream.reset with
        serial := old.serial, st := .plain, owner := s.cur.slot, launch := (me s).launch, base := d0, count := bits d1 31 0
        inA := d1.getLsbD 32, w4 := d1.getLsbD 33 })) := by
  rw [sopenBody, if_neg (not_not.2 hc), if_neg (not_not.2 hr), if_neg (not_not.2 ha), if_neg (not_lt.2 hb), fenced_open hf]
theorem sopenStep (h : QueuesReady s [b, regUp b 1] []) {e : Eff} (he : sopenBody s x (rd s b) (rd s (regUp b 1)) = e) :
    exec (.sopen x b) s = .next (finish 2 ([b, regUp b 1].contains 30) e) := by rw [exec_sopen h, he]

/-! ## Combinations (R233) -/

/-- A context that cannot take part in a combination. -/
def unfit (s : State) (k : Nat) : Bool :=
  (stream (myCore s) k).st != .plain || (stream (myCore s) k).owner != s.cur.slot || (stream (myCore s) k).given
theorem unfit_iff {k : Nat} : unfit s k = true ↔ (stream (myCore s) k).st ≠ .plain ∨ (stream (myCore s) k).owner ≠ s.cur.slot
    ∨ (stream (myCore s) k).given = true := by
  simp [unfit, or_assoc]
/-- The inputs of a head captured. -/
def captured (s : State) (x : Nat) (ins : List Nat) : State :=
  ins.foldl (fun s k => modStream s s.cur.core k (fun y => { y with st := .captured x })) s
theorem captured_spec (s : State) (x : Nat) (ins : List Nat) : captured s x ins = { s with cores := (captured s x ins).cores }
    ∧ ∀ k, stream (myCore (captured s x ins)) k =
      if k ∈ ins then { stream (myCore s) k with st := .captured x } else stream (myCore s) k := by
  induction ins generalizing s with
  | nil => exact ⟨rfl, fun k => rfl⟩
  | cons n ins ih =>
    obtain ⟨h1, h2⟩ := ih (modStream s s.cur.core n fun y => { y with st := .captured x })
    refine ⟨h1, fun k => (h2 k).trans ?_⟩
    rw [stream_mine]
    by_cases hk : k = n
    · subst hk; by_cases hm : k ∈ ins <;> simp [hm]
    · simp [hk]
theorem combine_eq (op : StOp) (x : Nat) (ins : List Nat) (s : State) : combine op x ins s = finish 2 false
    (if (x :: ins).any (unfit s) then .trap s 0x07 (BitVec.ofNat 64 x)
     else if ins.any (fun k => (stream (myCore s) k).w4 != (stream (myCore s) x).w4) then .trap s 0x03 (BitVec.ofNat 64 x)
     else .done (modStream (captured s x ins) (captured s x ins).cur.core x (fun y => { y with st := .head op ins }))) := by
  rw [combine, runI_plain]; rfl
theorem combine_unfit {op : StOp} {x : Nat} {ins : List Nat} (h : ∃ k ∈ x :: ins, (stream (myCore s) k).st ≠ .plain
    ∨ (stream (myCore s) k).owner ≠ s.cur.slot ∨ (stream (myCore s) k).given = true) :
    combine op x ins s = trapMe s 0x07 (BitVec.ofNat 64 x) := by
  obtain ⟨k, hk, hb⟩ := h
  rw [combine_eq, if_pos (List.any_eq_true.2 ⟨k, hk, unfit_iff.2 hb⟩)]; rfl
section
variable {op : StOp} {x : Nat} {ins : List Nat}
variable (h : ∀ k ∈ x :: ins, (stream (myCore s) k).st = .plain ∧ (stream (myCore s) k).owner = s.cur.slot
  ∧ (stream (myCore s) k).given = false)
include h
theorem all_fit : ¬ (x :: ins).any (unfit s) = true := by
  rw [List.any_eq_true]
  rintro ⟨k, hk, hb⟩
  obtain ⟨h1, h2, h3⟩ := h k hk
  rcases unfit_iff.1 hb with e | e | e
  · exact e h1
  · exact e h2
  · rw [h3] at e; cases e
theorem combine_sizes (hw : ∃ k ∈ ins, (stream (myCore s) k).w4 ≠ (stream (myCore s) x).w4) :
    combine op x ins s = trapMe s 0x03 (BitVec.ofNat 64 x) := by
  obtain ⟨k, hk, hb⟩ := hw
  have hyes : ins.any (fun k => (stream (myCore s) k).w4 != (stream (myCore s) x).w4) = true :=
    List.any_eq_true.2 ⟨k, hk, bne_iff_ne.2 hb⟩
  rw [combine_eq, if_neg (all_fit h), if_pos hyes]; rfl
theorem combine_done (hx : ∀ k ∈ ins, k ≠ x) (hw : ∀ k ∈ ins, (stream (myCore s) k).w4 = (stream (myCore s) x).w4) :
    ∃ u, combine op x ins s = passed u 2 [] ∧ u = { s with cores := u.cores }
      ∧ stream (myCore u) x = { stream (myCore s) x with st := .head op ins }
      ∧ (∀ k ∈ ins, stream (myCore u) k = { stream (myCore s) k with st := .captured x })
      ∧ ∀ k, k ≠ x → k ∉ ins → stream (myCore u) k = stream (myCore s) k := by
  have hno : ¬ ins.any (fun k => (stream (myCore s) k).w4 != (stream (myCore s) x).w4) = true := by
    rw [List.any_eq_true]; rintro ⟨k, hk, hb⟩; exact bne_iff_ne.1 hb (hw k hk)
  obtain ⟨h1, h2⟩ := captured_spec s x ins
  refine ⟨modStream (captured s x ins) (captured s x ins).cur.core x fun y => { y with st := .head op ins }, ?_, ?_, ?_, ?_, ?_⟩
  · rw [combine_eq, if_neg (all_fit h), if_neg hno]; rfl
  · rw [modStream_cores, h1]
  · rw [stream_mine, if_pos rfl, h2, if_neg fun hm => hx x hm rfl]
  · intro k hk
    rw [stream_mine, if_neg (hx k hk), h2, if_pos hk]
  · intro k hk hm
    rw [stream_mine, if_neg hk, h2, if_neg hm]
end
end

/-! ## Drawing (R235) -/

section
variable {s : State} {x : Fin 4} {a c : Reg}

theorem exec_snext (s : State) (a : Reg) (x : Fin 4) : exec (.snext a x) s = .next (finish 2 false
    (if !drawable s x then .trap s 0x07 (BitVec.ofNat 64 x.val)
     else match drawOf (myCore s) x with
      | .over => .done (wr (wr s a 0) (regUp a 1) 0)
      | .el e => .done (wr (wr (modMyCore s (fun c => drawn c x)) a (BitVec.ofNat 64 e)) (regUp a 1) 1)
      | .fault k code va => meetFault s x k code va
      | .none => retry s (.stream x))) := by
  rw [show exec (.snext a x) s = execSnext a x s from rfl, execSnext, runI_plain] <;> rfl
theorem exec_scnt (h : QueuesReady s [] [a]) (x : Fin 4) : exec (.scnt a x) s = .next (finish 2 false
    (if !drawable s x then .trap s 0x07 (BitVec.ofNat 64 x.val) else drawAll x none a 256 s)) := by
  rw [show exec (.scnt a x) s = execScnt a x s from rfl, execScnt, runI_ready h]; rfl
theorem exec_scntA (h : QueuesReady s [c] [a]) (x : Fin 4) : exec (.scntA a x c) s = .next (finish 3 ([c].contains 30)
    (if !drawable s x then .trap s 0x07 (BitVec.ofNat 64 x.val)
     else if (rd s c).toNat % elemSize (stream (myCore s) x) ≠ 0 then .trap s 0x02 (rd s c)
     else drawAll x (some (rd s c)) a 256 s)) := by
  rw [show exec (.scntA a x c) s = execScntA a x c s from rfl, execScntA, runI_ready h]
theorem exec_sclose (h : QueuesReady s [] [a]) (x : Fin 4) : exec (.sclose a x) s = .next (finish 2 false
    (if !drawable s x then .trap s 0x07 (BitVec.ofNat 64 x.val)
     else if !closeReady s s.cur.core x then retry s (.streamOut x)
     else .done (wr ((closedBy (myCore s) x).foldl (fun s k => modStream s s.cur.core k closedStream) s) a
      (b64 ((closedBy (myCore s) x).any (fun k => (stream (myCore s) k).ord)) + (2 : Word) * b64
        (match (stream (myCore s) x).st with
        | .head .. => passOf (myCore s) x == .over && (stream (myCore s) x).results == []
        | _ => srcEnded (stream (myCore s) x)))))) := by
  rw [show exec (.sclose a x) s = execSclose a x s from rfl, execSclose, runI_ready h]; rfl

/-- Another slot's, a closed or a captured context is not drawn from. -/
theorem not_drawable (h : (stream (myCore s) x).owner ≠ s.cur.slot ∨ (stream (myCore s) x).st = .closed
    ∨ ∃ k, (stream (myCore s) x).st = .captured k) : drawable s x = false := by
  rw [drawable]
  rcases h with h | h | ⟨k, h⟩
  · rw [beq_eq_false_iff_ne.2 h, Bool.false_and]
  · rw [h, Bool.and_false]
  · rw [h, Bool.and_false]
theorem drawable_plain (ho : (stream (myCore s) x).owner = s.cur.slot) (hp : (stream (myCore s) x).st = .plain) :
    drawable s x = true := by
  rw [drawable, hp, ho, beq_self_eq_true, Bool.true_and]

/-! ### Of a plain context -/

section
variable {z : Core} {n : Nat}

theorem drawOf_plain (hp : (stream z n).st = .plain) : drawOf z n = match hd (stream z n) with
    | .ended => .over
    | .el e => .el e
    | .fault code va => .fault n code va
    | .absent => .none := by
  rw [drawOf, hp] <;> rfl
theorem srcEnded_iff {x : Stream} : srcEnded x = true ↔ x.cursor = x.count := beq_iff_eq
theorem drawOf_over (hp : (stream z n).st = .plain) (he : (stream z n).cursor = (stream z n).count) : drawOf z n = .over := by
  rw [drawOf_plain hp, hd, if_pos (srcEnded_iff.2 he)] <;> rfl
theorem drawOf_el (hp : (stream z n).st = .plain) (he : (stream z n).cursor ≠ (stream z n).count) {e : Nat}
    (hx : elemAt (stream z n) (stream z n).cursor = some e) : drawOf z n = .el e := by
  rw [drawOf_plain hp, hd, if_neg (fun h => he (srcEnded_iff.1 h)), hx] <;> rfl
theorem drawOf_fault (hp : (stream z n).st = .plain) (he : (stream z n).cursor ≠ (stream z n).count) {code : Nat}
    (hx : elemAt (stream z n) (stream z n).cursor = none) (hf : (stream z n).fault = some ((stream z n).cursor, code)) :
    drawOf z n = .fault n code (elemVa (stream z n) (stream z n).cursor) := by
  rw [drawOf_plain hp, hd, if_neg (fun h => he (srcEnded_iff.1 h)), hx, hf]
  dsimp only
  rw [if_pos (Nat.le_refl _)]
theorem stream_drawn (hp : (stream z n).st = .plain) : stream (drawn z n) n = { advance (stream z n) with given := true } := by
  rw [drawn]
  simp only [hp]
  rw [stream_setStream_self]
theorem bufA_drawn (z : Core) (n : Nat) : (drawn z n).bufA = z.bufA := rfl
end

theorem stream_modMyCore_drawn (hp : (stream (myCore s) x).st = .plain) :
    stream (myCore (modMyCore s fun c => drawn c x)) x = { advance (stream (myCore s) x) with given := true } := by
  rw [myCore_modMyCore, stream_drawn hp]

/-- The state in which the element at the cursor has been drawn and counted; where it goes to A it stands there. -/
def counted (s : State) (n : Nat) : State :=
  modStream (modMyCore s fun c => drawn c n) s.cur.core n (fun x => { x with n := x.n + 1 })
def countEnd (s : State) (n : Nat) : State := modStream s s.cur.core n (fun x => { x with n := 0 })
theorem stream_counted (hp : (stream (myCore s) x).st = .plain) : stream (myCore (counted s x)) x =
    { advance (stream (myCore s) x) with given := true, n := (stream (myCore s) x).n + 1 } := by
  have h := stream_mine (modMyCore s fun c => drawn c x) x x (fun x => { x with n := x.n + 1 })
  rw [if_pos rfl, stream_modMyCore_drawn hp] at h
  exact h
theorem stream_countEnd (s : State) (n : Nat) : stream (myCore (countEnd s n)) n = { stream (myCore s) n with n := 0 } := by
  rw [countEnd, stream_mine, if_pos rfl]
theorem drawAll_over {n : Nat} {o : Option Word} {f : Nat} (hp : (stream (myCore s) n).st = .plain)
    (he : (stream (myCore s) n).cursor = (stream (myCore s) n).count) :
    drawAll n o a (f + 1) s = .done (wr (countEnd s n) a (BitVec.ofNat 64 (stream (myCore s) n).n)) := by
  rw [drawAll, drawOf_over hp he]; rfl
theorem drawAll_outside {n f e : Nat} {w : Word} (hp : (stream (myCore s) n).st = .plain)
    (he : (stream (myCore s) n).cursor ≠ (stream (myCore s) n).count)
    (hx : elemAt (stream (myCore s) n) (stream (myCore s) n).cursor = some e)
    (ho : 49152 < w.toNat + (stream (myCore s) n).n * elemSize (stream (myCore s) n) + elemSize (stream (myCore s) n)) :
    drawAll n (some w) a (f + 1) s =
      .trap s 0x03 (BitVec.ofNat 64 (w.toNat + (stream (myCore s) n).n * elemSize (stream (myCore s) n))) := by
  rw [drawAll, drawOf_el hp he hx]
  exact if_pos ⟨rfl, ho⟩
/-- The last element: it is drawn, and the next look ends the count. -/
theorem drawAll_last {f : Nat} (hp : (stream (myCore s) x).st = .plain)
    (he : (stream (myCore s) x).cursor + 1 = (stream (myCore s) x).count) :
    drawAll x none a (f + 1) (counted s x) = .done (wr (countEnd (counted s x) x) a
      (BitVec.ofNat 64 ((stream (myCore s) x).n + 1))) := by
  have hc := stream_counted hp
  rw [drawAll_over (by rw [hc]; exact hp) (by rw [hc]; exact he), hc]
end

section
variable {s : State} {x : Fin 4} {a c : Reg}

/-! ### The instructions of a plain context -/

section
variable (ho : (stream (myCore s) x).owner = s.cur.slot) (hp : (stream (myCore s) x).st = .plain)
include ho hp

theorem snext_over (he : (stream (myCore s) x).cursor = (stream (myCore s) x).count) :
    exec (.snext a x) s = .next (passed (wr (wr s a 0) (regUp a 1) 0) 2 []) := by
  rw [exec_snext, drawable_plain ho hp, drawOf_over hp he]; rfl
theorem snext_el {e : Nat} (he : (stream (myCore s) x).cursor + 1 = (stream (myCore s) x).count)
    (hx : elemAt (stream (myCore s) x) (stream (myCore s) x).cursor = some e) :
    exec (.snext a x) s =
      .next (passed (wr (wr (modMyCore s fun c => drawn c x) a (BitVec.ofNat 64 e)) (regUp a 1) 1) 2 []) := by
  rw [exec_snext, drawable_plain ho hp, drawOf_el hp (by omega) hx]; rfl
theorem snext_fault {code : Nat} (he : (stream (myCore s) x).cursor ≠ (stream (myCore s) x).count)
    (hx : elemAt (stream (myCore s) x) (stream (myCore s) x).cursor = none)
    (hf : (stream (myCore s) x).fault = some ((stream (myCore s) x).cursor, code)) (ht : (stream (myCore s) x).told = false) :
    exec (.snext a x) s = .next (trapMe (modStream s s.cur.core x (fun z => { z with told := true })) code
      (elemVa (stream (myCore s) x) (stream (myCore s) x).cursor)) := by
  rw [exec_snext, drawable_plain ho hp, drawOf_fault hp he hx hf]
  dsimp only
  rw [if_neg (by decide), meetFault, if_neg (by simp [ht])]; rfl
theorem scnt_over (h : QueuesReady s [] [a]) (he : (stream (myCore s) x).cursor = (stream (myCore s) x).count) :
    exec (.scnt a x) s = .next (wrote (countEnd s x) 2 [] a (BitVec.ofNat 64 (stream (myCore s) x).n)) := by
  rw [exec_scnt h, drawable_plain ho hp, drawAll_over hp he]; rfl
theorem scntA_over (h : QueuesReady s [c] [a]) (ha : (rd s c).toNat % elemSize (stream (myCore s) x) = 0)
    (he : (stream (myCore s) x).cursor = (stream (myCore s) x).count) :
    exec (.scntA a x c) s = .next (wrote (countEnd s x) 3 [c] a (BitVec.ofNat 64 (stream (myCore s) x).n)) := by
  rw [exec_scntA h, drawable_plain ho hp, if_neg (by decide), if_neg (not_not.2 ha), drawAll_over hp he]; rfl
theorem scnt_last (h : QueuesReady s [] [a]) {e : Nat} (he : (stream (myCore s) x).cursor + 1 = (stream (myCore s) x).count)
    (hx : elemAt (stream (myCore s) x) (stream (myCore s) x).cursor = some e) :
    exec (.scnt a x) s =
      .next (passed (wr (countEnd (counted s x) x) a (BitVec.ofNat 64 ((stream (myCore s) x).n + 1))) 2 []) := by
  have hd : drawAll x none a 256 s = drawAll x none a 255 (counted s x) := by
    rw [drawAll, drawOf_el hp (by omega) hx]; rfl
  rw [exec_scnt h, drawable_plain ho hp, hd, drawAll_last hp he]; rfl
/-- The element where `scnt.a` puts it. -/
def putElem (s : State) (x : Fin 4) (w : Word) (e : Nat) : State :=
  bufWrite s s.cur.core .a (w.toNat + (stream (myCore s) x).n * elemSize (stream (myCore s) x))
    (leBytes (elemSize (stream (myCore s) x)) e)
omit ho hp in
theorem stream_putElem (w : Word) (e : Nat) (n : Nat) : stream (myCore (putElem s x w e)) n = stream (myCore s) n := by
  rw [putElem, VectorWork.bufWrite_eq, myCore_modMyCore]; rfl
theorem scntA_last (h : QueuesReady s [c] [a]) (ha : (rd s c).toNat % elemSize (stream (myCore s) x) = 0) {e : Nat}
    (he : (stream (myCore s) x).cursor + 1 = (stream (myCore s) x).count)
    (hx : elemAt (stream (myCore s) x) (stream (myCore s) x).cursor = some e)
    (hi : (rd s c).toNat + (stream (myCore s) x).n * elemSize (stream (myCore s) x) + elemSize (stream (myCore s) x) ≤ 49152) :
    exec (.scntA a x c) s = .next (passed (wr (countEnd (counted (putElem s x (rd s c) e) x) x) a
      (BitVec.ofNat 64 ((stream (myCore s) x).n + 1))) 3 [c]) := by
  have hs := stream_putElem (s := s) (x := x) (rd s c) e x
  have hd : drawAll x (some (rd s c)) a 256 s = drawAll x (some (rd s c)) a 255 (counted (putElem s x (rd s c) e) x) := by
    rw [drawAll, drawOf_el hp (by omega) hx]
    exact if_neg fun hh => absurd hh.2 (Nat.not_lt.2 hi)
  have hc := stream_counted (s := putElem s x (rd s c) e) (x := x) (by rw [hs]; exact hp)
  rw [hs] at hc
  rw [exec_scntA h, drawable_plain ho hp, if_neg (by decide), if_neg (not_not.2 ha), hd,
    drawAll_over (by rw [hc]; exact hp) (by rw [hc]; exact he), hc]
  rfl
theorem scntA_outside (h : QueuesReady s [c] [a]) (ha : (rd s c).toNat % elemSize (stream (myCore s) x) = 0) {e : Nat}
    (he : (stream (myCore s) x).cursor + 1 = (stream (myCore s) x).count)
    (hx : elemAt (stream (myCore s) x) (stream (myCore s) x).cursor = some e)
    (hi : 49152 < (rd s c).toNat + (stream (myCore s) x).n * elemSize (stream (myCore s) x) + elemSize (stream (myCore s) x)) :
    exec (.scntA a x c) s = .next (trapMe s 0x03
      (BitVec.ofNat 64 ((rd s c).toNat + (stream (myCore s) x).n * elemSize (stream (myCore s) x)))) := by
  rw [exec_scntA h, drawable_plain ho hp, if_neg (by decide), if_neg (not_not.2 ha), drawAll_outside hp (by omega) hx hi]
  rfl
theorem sclose_done (h : QueuesReady s [] [a]) (hout : (stream (myCore s) x).out = []) :
    exec (.sclose a x) s = .next (wrote (modStream s s.cur.core x closedStream) 2 [] a
      ((if (stream (myCore s) x).ord then 1 else 0)
        + (if (stream (myCore s) x).cursor = (stream (myCore s) x).count then 2 else 0))) := by
  have hcl : closedBy (myCore s) x = [x.val] := by rw [closedBy, hp] <;> rfl
  have hr : closeReady s s.cur.core x = true := by
    rw [closeReady, show Machine.core s s.cur.core = myCore s from rfl, hcl]; simp [hout]
  have hv : ∀ o e : Bool, b64 o + 2 * b64 e = (if o then 1 else 0) + (if e then 2 else 0) := by decide
  rw [exec_sclose h, drawable_plain ho hp, hr, hcl, hp]
  simp only [List.any_cons, List.any_nil, Bool.or_false, hv, srcEnded_iff]
  rfl
theorem sclose_waits (h : QueuesReady s [] [a]) (hout : (stream (myCore s) x).out ≠ []) :
    exec (.sclose a x) s = .next (modMe s (fun t => { t with wait := .retry (.streamOut x) })) := by
  have hcl : closedBy (myCore s) x = [x.val] := by rw [closedBy, hp] <;> rfl
  have hr : closeReady s s.cur.core x = false := by
    rw [closeReady, show Machine.core s s.cur.core = myCore s from rfl, hcl]; simp [hout]
  rw [exec_sclose h, drawable_plain ho hp, hr]; rfl
end

theorem elemSize_pos (z : Stream) : 0 < elemSize z := by unfold elemSize; split <;> omega
theorem bufA_putElem (w : Word) (e : Nat) (hwf : Memory.wf (myCore s).bufA = true) (k : Nat) :
    mget (myCore (countEnd (counted (putElem s x w e) x) x)).bufA k =
      let off := w.toNat + (stream (myCore s) x).n * elemSize (stream (myCore s) x)
      if off ≤ k ∧ k < off + elemSize (stream (myCore s) x) then BitVec.ofNat 8 (e / 256 ^ (k - off)) else mget
        (myCore s).bufA k := by
  have hb : (myCore (countEnd (counted (putElem s x w e) x) x)).bufA = msets (myCore s).bufA
      (w.toNat + (stream (myCore s) x).n * elemSize (stream (myCore s) x)) (leBytes (elemSize (stream (myCore s) x)) e) := by
    have h1 : ∀ (t : State) n f, (myCore (modStream t t.cur.core n f)).bufA = (myCore t).bufA := fun t n f => by
      rw [show myCore (modStream t t.cur.core n f) = Machine.core (modStream t t.cur.core n f) t.cur.core from rfl, modStream,
        core_modCore_self]
      rfl
    rw [countEnd, h1]
    refine (h1 (modMyCore (putElem s x w e) fun c => drawn c x) x _).trans ?_
    rw [myCore_modMyCore, bufA_drawn, putElem, VectorWork.bufWrite_eq, myCore_modMyCore]; rfl
  rw [hb, mget_msets hwf]
  dsimp only
  rw [leBytes_length]
  split
  · next h => rw [leBytes_getD _ _ _ (by omega)]
  · rfl
end

/-! ## Reading ahead (R231, R232) -/

section
variable {s : State} {c n k : Nat}

theorem nextWord_spec {h : Machine.Stream} (hn : nextWord h = some k) : h.fault = none ∧ h.out.contains k = false := by
  rw [nextWord] at hn
  split at hn
  · cases hn
  · next hc =>
    rw [not_or, not_or] at hc
    refine ⟨Option.not_isSome_iff_eq_none.1 hc.2.1, ?_⟩
    have hf : ∀ (m a : Nat), firstSome (fun k => if (fget h.words k).isNone ∧ !h.out.contains k ∧ k ≤ wordOf h (h.count - 1)
        then some k else none) a m = some k → h.out.contains k = false := by
      intro m
      induction m with
      | zero => intro a ha; cases ha
      | succ m ih =>
        intro a ha
        rw [firstSome] at ha
        split at ha
        · next b hb =>
          split at hb
          · next hh => cases hb; cases ha; simpa using hh.2.1
          · cases hb
        · exact ih _ ha
    exact hf _ _ hn
theorem faultWord_first {h : Machine.Stream} (hn : nextWord h = some k) (code : Nat) :
    faultWord h k code = { h with fault := some (firstElem h k, code), told := false } := by
  obtain ⟨hf, ho⟩ := nextWord_spec hn
  have hk : h.out.filter (· != k) = h.out := List.filter_eq_self.2 fun a ha => by
    rw [bne_iff_ne]; rintro rfl; rw [List.contains_iff_mem.2 ha] at ho; cases ho
  rw [faultWord]
  simp only [hk, hf]
  rfl
/-- What reading word `w` makes of a context. -/
theorem putWord_eq (h : Machine.Stream) (k : Nat) (w : Word) :
    ∃ o, putWord h k w = { h with words := fset h.words k w, out := h.out.filter (· != k), ord := h.ord || o } := ⟨_, rfl⟩
theorem gotWord_spec {t : State} (hc : t.cores = s.cores) (hm : t.mem = s.mem) (w : Word) : (gotWord t c n k w).mem = s.mem ∧ ∃ o,
    stream (Machine.core (gotWord t c n k w) c) n = { stream (Machine.core s c) n with
      words := fset (stream (Machine.core s c) n).words k w, out := (stream (Machine.core s c) n).out.filter (· != k)
      ord := (stream (Machine.core s c) n).ord || o } := by
  obtain ⟨o, h⟩ := putWord_eq (stream (Machine.core s c) n) k w
  refine ⟨hm, o, ?_⟩
  rw [gotWord, stream_modStream, if_pos rfl, ← h, Machine.core, hc]; rfl
theorem faulted_spec {t : State} (hc : t.cores = s.cores) (hm : t.mem = s.mem)
    (hn : nextWord (stream (Machine.core s c) n) = some k) (code : Nat) :
    (modStream t c n (fun x => faultWord x k code)).mem = s.mem
    ∧ stream (Machine.core (modStream t c n (fun x => faultWord x k code)) c) n = { stream (Machine.core s c) n with
      fault := some (firstElem (stream (Machine.core s c) n) k, code), told := false } := by
  refine ⟨hm, ?_⟩
  rw [stream_modStream, if_pos rfl, ← faultWord_first hn, Machine.core, hc]; rfl

section
variable (hn : nextWord (stream (Machine.core s c) n) = some k) (hs : (Machine.core s c).stopped = false)
include hn hs

theorem streamReads_inA (ha : (stream (Machine.core s c) n).inA = true) : streamReads s c n = some k := by
  rw [streamReads]
  dsimp only
  rw [if_neg (by simp [hs]), hn]
  exact if_pos ha
theorem readAhead_inA (ha : (stream (Machine.core s c) n).inA = true) :
    readAhead s c n = .next (gotWord s c n k (mword (Machine.core s c).bufA (wordAddr (stream (Machine.core s c) n) k) 8)) := by
  rw [readAhead, streamReads_inA hn hs ha]
  exact if_pos ha
section
variable (ha : (stream (Machine.core s c) n).inA = false) {va : Word}
  (hva : BitVec.ofNat 64 (wordAddr (stream (Machine.core s c) n) k) = va)
include ha hva

theorem readAhead_pa {pa : Nat}
    (htr : trIn s (tlbFind (Machine.core s c).tlb (isTeller c) (stream (Machine.core s c) n).launch va) va needR = .pa pa)
    (hb : sbLoad (Machine.core s c) pa 8 = .none) (hch : chanBusy s pa = false) (hec : fget s.errs (sectorOf pa) = none) :
    readAhead s c n = (match tauRefuses (CopySteps.wordRead s pa) (stream (Machine.core s c) n).launch pa with
      | some why => .next (modStream (noteRefusal (CopySteps.wordRead s pa) (stream (Machine.core s c) n).launch false why) c n
          (fun x => faultWord x k 0x12))
      | none => .next (if injFires (CopySteps.wordRead s pa) pa then fireInj (CopySteps.wordRead s pa)
          else gotWord (CopySteps.wordRead s pa) c n k (physRead (CopySteps.wordRead s pa) pa 8))) := by
  have hr : streamReads s c n = some k := by
    rw [streamReads]
    dsimp only
    rw [if_neg (by simp [hs]), hn]
    dsimp only
    rw [if_neg (by simp [ha]), hva, htr]
    dsimp only
    rw [if_neg (by simp [hch, hb])]
  rw [readAhead, hr]
  dsimp only
  rw [if_neg (by simp [ha]), hva, htr]
  dsimp only
  rw [hb]
  dsimp only
  rw [eccStops_none hec, if_neg (by decide)]
  rfl
theorem readAhead_trap {code : Nat}
    (htr : trIn s (tlbFind (Machine.core s c).tlb (isTeller c) (stream (Machine.core s c) n).launch va) va needR = .trap code) :
    readAhead s c n = .next (modStream s c n (fun x => faultWord x k (if code = 0x06 then 0x06 else 0x12))) := by
  have hr : streamReads s c n = some k := by
    rw [streamReads]
    dsimp only
    rw [if_neg (by simp [hs]), hn]
    dsimp only
    rw [if_neg (by simp [ha]), hva, htr]
  rw [readAhead, hr]
  dsimp only
  rw [if_neg (by simp [ha]), hva, htr]
theorem readAhead_miss
    (htr : trIn s (tlbFind (Machine.core s c).tlb (isTeller c) (stream (Machine.core s c) n).launch va) va needR = .miss)
    (hm : ∀ m ∈ (Machine.core s c).misses, m.page ≠ va.toNat / 8192)
    (hq : ∀ m ∈ (Machine.core s c).missQ, m.1.page ≠ va.toNat / 8192) (hl : (Machine.core s c).misses.length < 8) :
    readAhead s c n = .next (sendMiss s c ⟨va.toNat / 8192, 2, (stream (Machine.core s c) n).launch, []⟩ va 0) := by
  have h1 : ¬ ((Machine.core s c).misses.any (sameMiss c (va.toNat / 8192) (stream (Machine.core s c) n).launch) = true
      ∨ (Machine.core s c).missQ.any (fun e => sameMiss c (va.toNat / 8192) (stream (Machine.core s c) n).launch e.1) = true) :=
        by
    rw [List.any_eq_true, List.any_eq_true]
    rintro (⟨m, hmm, h⟩ | ⟨m, hmm, h⟩)
    · rw [sameMiss, Bool.and_eq_true, beq_iff_eq] at h; exact hm m hmm h.1
    · rw [sameMiss, Bool.and_eq_true, beq_iff_eq] at h; exact hq m hmm h.1
  have hr : streamReads s c n = some k := by
    rw [streamReads]
    dsimp only
    rw [if_neg (by simp [hs]), hn]
    dsimp only
    rw [if_neg (by simp [ha]), hva, htr]
    dsimp only
    rw [if_neg h1]
  rw [readAhead, hr]
  dsimp only
  rw [if_neg (by simp [ha]), hva, htr]
  dsimp only
  rw [raiseMiss, if_neg h1, if_neg (by omega)]
end
end
end

/-! ## One pass of the merge loop (R233, R234) -/

section
variable {x : Core} {n y a b : Nat} {op : StOp}

/-- What a pass over two elements emits. -/
def emitted (op : StOp) (a b : Nat) : Option Nat :=
  match op with
  | .isect => if a = b then some a else none
  | .diff => if a < b then some a else none
  | _ => some (min a b)
def firstMoves (op : StOp) (n y a b : Nat) : Bool :=
  if op = .merge then decide (a < b ∨ (a = b ∧ n < y)) else decide (a ≤ b)
def secondMoves (op : StOp) (n y a b : Nat) : Bool := if op = .merge then !firstMoves op n y a b else decide (b ≤ a)
/-- The contexts that a pass advances. -/
def movers (op : StOp) (n y a b : Nat) : List Nat :=
  (if firstMoves op n y a b then [n] else []) ++ (if secondMoves op n y a b then [y] else [])
theorem passTwo_els (hop : op ≠ .merge) :
    passTwo op n y (.el a) (.el b) = .move (movers op n y a b) (emitted op a b) := by
  rcases Nat.lt_trichotomy a b with h | h | h <;> cases op <;>
    simp_all [passTwo, movers, emitted, firstMoves, secondMoves, Nat.le_of_lt, Nat.not_le.2, Nat.not_lt.2, Nat.min_eq_left,
      Nat.min_eq_right, Nat.ne_of_gt, Nat.ne_of_lt]
theorem passMerge_els (hy : y ≠ n) : passMerge [(n, .el a), (y, .el b)] = .move (movers .merge n y a b) (emitted .merge a b) := by
  rw [passMerge]
  by_cases h : b < a ∨ (b = a ∧ y < n)
  · have h' : ¬ (a < b ∨ (a = b ∧ n < y)) := by omega
    simp [movers, emitted, firstMoves, secondMoves, h, h', show min a b = b by omega]
  · have h' : a < b ∨ (a = b ∧ n < y) := by omega
    simp [movers, emitted, firstMoves, secondMoves, h, h', show min a b = a by omega]
theorem hd_el {z : Machine.Stream} {e : Nat} (he : z.cursor ≠ z.count) (hx : elemAt z z.cursor = some e) : hd z = .el e := by
  rw [hd, if_neg (fun h => he (srcEnded_iff.1 h)), hx] <;> rfl
theorem passOf_els (hy : y ≠ n) (hst : (stream x n).st = .head op [y]) (hn : hd (stream x n) = .el a)
    (hm : hd (stream x y) = .el b) :
    passOf x n = .move (movers op n y a b) (emitted op a b) := by
  rw [passOf, hst]
  cases op with
  | merge => simp only [List.map_cons, List.map_nil, hn, hm]; exact passMerge_els hy
  | isect => simp only [List.headD_cons, hn, hm]; exact passTwo_els (by decide)
  | union => simp only [List.headD_cons, hn, hm]; exact passTwo_els (by decide)
  | diff => simp only [List.headD_cons, hn, hm]; exact passTwo_els (by decide)
theorem mergeRuns_of_next {x : Core} (h : mergeNext x = some n) : mergeRuns x n = true := by
  exact List.find?_some h
/-- A core whose head `n` has had its turn. -/
def turned (x : Core) (n : Nat) : Core := { x with headRR := (n + 1) % 4 }
/-- A core some of whose contexts have advanced. -/
def advanced (x : Core) (l : List Nat) : Core := l.foldl (fun x k => setStream x k (advance (stream x k))) x
theorem stream_advanced (x : Core) (hy : y ≠ n) (i j : Bool) (k : Nat) :
    stream (advanced x ((if i then [n] else []) ++ (if j then [y] else []))) k =
      if (k = n ∧ i = true) ∨ (k = y ∧ j = true) then advance (stream x k) else stream x k := by
  cases i <;> cases j <;> simp [advanced, stream_setStream, hy]
  · split
    · next h => rw [h]
    · rfl
  · split
    · next h => rw [h]
    · rfl
  · by_cases h1 : k = y
    · subst h1; simp
    · by_cases h2 : k = n
      · subst h2; simp [h1]
      · simp [h1, h2]
theorem headRR_advanced (x : Core) (l : List Nat) : (advanced x l).headRR = x.headRR := by
  induction l generalizing x with
  | nil => rfl
  | cons k l ih => rw [advanced, List.foldl_cons]; exact ih _
theorem mergeGo_spec (hy : y ≠ n) (hr : mergeRuns x n = true) (hp : passOf x n = .move (movers op n y a b) (emitted op a b)) :
    (mergeGo x n).headRR = (n + 1) % 4
    ∧ (stream (mergeGo x n) n).results = (stream x n).results ++ (emitted op a b).toList.map (BitVec.ofNat 64)
    ∧ (stream (mergeGo x n) n).cursor = (stream x n).cursor + (if firstMoves op n y a b then 1 else 0)
    ∧ (stream (mergeGo x n) y).cursor = (stream x y).cursor + (if secondMoves op n y a b then 1 else 0)
    ∧ ∀ z, z ≠ n → z ≠ y → stream (mergeGo x n) z = stream x z := by
  have hs : ∀ k, stream (advanced (turned x n) (movers op n y a b)) k = _ :=
    stream_advanced (turned x n) hy (firstMoves op n y a b) (secondMoves op n y a b)
  have hxs : ∀ k, stream (turned x n) k = stream x k := fun k => rfl
  have he : mergeGo x n = setStream (advanced (turned x n) (movers op n y a b)) n
      { stream (advanced (turned x n) (movers op n y a b)) n with
        results := (stream (advanced (turned x n) (movers op n y a b)) n).results
          ++ (emitted op a b).toList.map (BitVec.ofNat 64) } := by
    rw [mergeGo, if_neg (by simp [hr])]
    dsimp only
    rw [show passOf { x with headRR := (n + 1) % 4 } n = passOf x n from rfl, hp] <;> rfl
  simp only [hxs] at hs
  rw [he]
  refine ⟨headRR_advanced (turned x n) _, ?_, ?_, ?_, fun z hzn hzy => ?_⟩
  · rw [stream_setStream_self, hs]
    dsimp only
    split <;> rfl
  · rw [stream_setStream_self, hs]
    dsimp only
    simp only [true_and, Ne.symm hy, false_and, or_false]
    split <;> rfl
  · rw [stream_setStream, if_neg hy, hs]
    simp only [hy, false_and, true_and, false_or]
    split <;> rfl
  · rw [stream_setStream, if_neg hzn, hs]
    simp only [hzn, hzy, false_and, or_self, if_false]
end

/-! ## The steps of the stream unit -/

section
variable {s : State} {c n k : Nat}

theorem exec_streamRead (s : State) (c n : Nat) : exec .streamRead (facing s (.streamRead c n)) = readAhead
    (facing s (.streamRead c n)) c n :=
  rfl
theorem exec_mergeStep (h : mergeNext (Machine.core s c) = some n) : exec .mergeStep (facing s (.mergeStep c n)) =
    .next (modCore (facing s (.mergeStep c n)) c (fun x => mergeGo x n)) :=
  congrArg Host.Outcome.next (if_pos h)
theorem cores_noteRefusal (s : State) (l : Option Nat) (b : Bool) (w : Refuse) : (noteRefusal s l b w).cores = s.cores
    ∧ (noteRefusal s l b w).mem = s.mem := by
  unfold noteRefusal modLaunch
  split
  · exact ⟨rfl, rfl⟩
  · split <;> exact ⟨rfl, rfl⟩
/-- A context's read whose address no store of the core covers: the word, or a fault where the TAU refuses it. -/
theorem streamRead_pa (hn : nextWord (stream (Machine.core s c) n) = some k) (hs : (Machine.core s c).stopped = false)
    (ha : (stream (Machine.core s c) n).inA = false) {va : Word}
    (hva : BitVec.ofNat 64 (wordAddr (stream (Machine.core s c) n) k) = va) {pa : Nat}
    (htr : trIn s (tlbFind (Machine.core s c).tlb (isTeller c) (stream (Machine.core s c) n).launch va) va needR = .pa pa)
    (hb : sbLoad (Machine.core s c) pa 8 = .none) (hch : chanBusy s pa = false) (hec : fget s.errs (sectorOf pa) = none) :
    (tauRefuses s (stream (Machine.core s c) n).launch pa = none → injFires s pa = false → ∃ t, readAhead s c n = .next t
      ∧ t.mem = s.mem ∧ ∃ o, stream (Machine.core t c) n = { stream (Machine.core s c) n with
        words := fset (stream (Machine.core s c) n).words k (physRead s pa 8)
        out := (stream (Machine.core s c) n).out.filter (· != k), ord := (stream (Machine.core s c) n).ord || o })
    ∧ (tauRefuses s (stream (Machine.core s c) n).launch pa ≠ none → ∃ t, readAhead s c n = .next t ∧ t.mem = s.mem
      ∧ stream (Machine.core t c) n = { stream (Machine.core s c) n with
        fault := some (firstElem (stream (Machine.core s c) n) k, 0x12), told := false }) := by
  have hw := seenAt_wordRead (s := s) hec
  rw [readAhead_pa hn hs ha hva htr hb hch hec, hw.tauRefuses, hw.injFires, physRead_congr hw.memory]
  constructor
  · intro hf hi
    rw [hf, hi]
    exact ⟨_, rfl, gotWord_spec hw.cores hw.memory.2.2 _⟩
  · intro hf
    obtain ⟨why, hf⟩ := Option.ne_none_iff_exists'.1 hf
    rw [hf]
    obtain ⟨h1, h2⟩ := cores_noteRefusal (wordRead s pa) (stream (Machine.core s c) n).launch false why
    exact ⟨_, rfl, faulted_spec (h1.trans hw.cores) (h2.trans hw.memory.2.2) hn 0x12⟩
/-- A page without an entry: the miss leaves for its server. -/
theorem sendMiss_spec (s : State) (c n : Nat) (m : Miss) (va : Word) (kind : Nat) :
    ∃ x, (sendMiss s c m va kind).pending = s.pending ++ [.xlatMessage x] ∧ x.mail.w0 = va
      ∧ x.mail.w1 = BitVec.ofNat 64 (kind + 16 * m.agent) ∧ x.dest = missServer s c m.launch ∧ (sendMiss s c m va kind).mem =
        s.mem
      ∧ stream (Machine.core (sendMiss s c m va kind) c) n = stream (Machine.core s c) n :=
  ⟨_, rfl, rfl, rfl, rfl, rfl, by rw [sendMiss, core_post, core_modCore_self]; rfl⟩
/-- The word that a context reads next: from A. -/
theorem exec_streamRead_inA (hn : nextWord (stream (Machine.core s c) n) = some k) (hs : (Machine.core s c).stopped = false)
    (ha : (stream (Machine.core s c) n).inA = true) : ∃ t, exec .streamRead (facing s (.streamRead c n)) = .next t ∧ t.mem = s.mem
      ∧ ∃ o, stream (Machine.core t c) n = { stream (Machine.core s c) n with
        words := fset (stream (Machine.core s c) n).words k
          (mword (Machine.core s c).bufA (wordAddr (stream (Machine.core s c) n) k) 8)
        out := (stream (Machine.core s c) n).out.filter (· != k), ord := (stream (Machine.core s c) n).ord || o } :=
  ⟨_, readAhead_inA (s := facing s (.streamRead c n)) hn hs ha, gotWord_spec (s := s) (t := facing s (.streamRead c n)) rfl rfl _⟩
theorem exec_streamRead_pa (hn : nextWord (stream (Machine.core s c) n) = some k) (hs : (Machine.core s c).stopped = false)
    (ha : (stream (Machine.core s c) n).inA = false) {va : Word}
    (hva : BitVec.ofNat 64 (wordAddr (stream (Machine.core s c) n) k) = va) {pa : Nat}
    (htr : trIn s (tlbFind (Machine.core s c).tlb (isTeller c) (stream (Machine.core s c) n).launch va) va needR = .pa pa)
    (hb : sbLoad (Machine.core s c) pa 8 = .none) (hch : chanBusy s pa = false) (hec : fget s.errs (sectorOf pa) = none) :
    (tauRefuses s (stream (Machine.core s c) n).launch pa = none → injFires s pa = false →
      ∃ t, exec .streamRead (facing s (.streamRead c n)) = .next t
      ∧ t.mem = s.mem ∧ ∃ o, stream (Machine.core t c) n = { stream (Machine.core s c) n with
        words := fset (stream (Machine.core s c) n).words k (physRead s pa 8)
        out := (stream (Machine.core s c) n).out.filter (· != k), ord := (stream (Machine.core s c) n).ord || o })
    ∧ (tauRefuses s (stream (Machine.core s c) n).launch pa ≠ none →
      ∃ t, exec .streamRead (facing s (.streamRead c n)) = .next t ∧ t.mem = s.mem
      ∧ stream (Machine.core t c) n = { stream (Machine.core s c) n with
        fault := some (firstElem (stream (Machine.core s c) n) k, 0x12), told := false }) := by
  have h := streamRead_pa (s := facing s (.streamRead c n)) hn hs ha hva htr hb hch hec
  rw [physRead_congr (sameMemory_facing s _)] at h
  exact h
theorem exec_streamRead_trap (hn : nextWord (stream (Machine.core s c) n) = some k) (hs : (Machine.core s c).stopped = false)
    (ha : (stream (Machine.core s c) n).inA = false) {va : Word}
    (hva : BitVec.ofNat 64 (wordAddr (stream (Machine.core s c) n) k) = va) {code : Nat}
    (htr : trIn s (tlbFind (Machine.core s c).tlb (isTeller c) (stream (Machine.core s c) n).launch va) va needR = .trap code) :
    ∃ t, exec .streamRead (facing s (.streamRead c n)) = .next t ∧ t.mem = s.mem
      ∧ stream (Machine.core t c) n = { stream (Machine.core s c) n with
        fault := some (firstElem (stream (Machine.core s c) n) k, if code = 0x06 then 0x06 else 0x12), told := false } :=
  ⟨_, readAhead_trap (s := facing s (.streamRead c n)) hn hs ha hva htr,
    faulted_spec (s := s) (t := facing s (.streamRead c n)) rfl rfl hn _⟩
theorem exec_streamRead_miss (hn : nextWord (stream (Machine.core s c) n) = some k) (hs : (Machine.core s c).stopped = false)
    (ha : (stream (Machine.core s c) n).inA = false) {va : Word}
    (hva : BitVec.ofNat 64 (wordAddr (stream (Machine.core s c) n) k) = va)
    (htr : trIn s (tlbFind (Machine.core s c).tlb (isTeller c) (stream (Machine.core s c) n).launch va) va needR = .miss)
    (hm : ∀ m ∈ (Machine.core s c).misses, m.page ≠ va.toNat / 8192)
    (hq : ∀ m ∈ (Machine.core s c).missQ, m.1.page ≠ va.toNat / 8192) (hl : (Machine.core s c).misses.length < 8) :
    ∃ t m, exec .streamRead (facing s (.streamRead c n)) = .next t ∧ t.pending = s.pending ++ [.xlatMessage m] ∧ m.mail.w0 = va
      ∧ m.mail.w1 = 32 ∧ m.dest = missServer s c (stream (Machine.core s c) n).launch
      ∧ stream (Machine.core t c) n = stream (Machine.core s c) n := by
  obtain ⟨m, h1, h2, h3, h4, -, h6⟩ := sendMiss_spec (facing s (.streamRead c n)) c n
    ⟨va.toNat / 8192, 2, (stream (Machine.core s c) n).launch, []⟩ va 0
  exact ⟨_, m, readAhead_miss (s := facing s (.streamRead c n)) hn hs ha hva htr hm hq hl, h1, h2, h3, h4, h6⟩
theorem exec_mergeStep_els {op : StOp} {y a b : Nat} (hy : y ≠ n) (hst : (stream (Machine.core s c) n).st = .head op [y])
    (hm : mergeNext (Machine.core s c) = some n)
    (hc : (stream (Machine.core s c) n).cursor ≠ (stream (Machine.core s c) n).count)
    (ha : elemAt (stream (Machine.core s c) n) (stream (Machine.core s c) n).cursor = some a)
    (hcy : (stream (Machine.core s c) y).cursor ≠ (stream (Machine.core s c) y).count)
    (hb : elemAt (stream (Machine.core s c) y) (stream (Machine.core s c) y).cursor = some b) :
    ∃ t, exec .mergeStep (facing s (.mergeStep c n)) = .next t ∧ t.mem = s.mem ∧ (Machine.core t c).headRR = (n + 1) % 4
      ∧ (stream (Machine.core t c) n).results =
        (stream (Machine.core s c) n).results ++ (emitted op a b).toList.map (BitVec.ofNat 64)
      ∧ (stream (Machine.core t c) n).cursor = (stream (Machine.core s c) n).cursor + (if firstMoves op n y a b then 1 else 0)
      ∧ (stream (Machine.core t c) y).cursor = (stream (Machine.core s c) y).cursor + (if secondMoves op n y a b then 1 else 0)
      ∧ ∀ z, z ≠ n → z ≠ y → stream (Machine.core t c) z = stream (Machine.core s c) z := by
  have h := mergeGo_spec hy (mergeRuns_of_next hm) (passOf_els hy hst (hd_el hc ha) (hd_el hcy hb))
  refine ⟨_, exec_mergeStep hm, rfl, ?_⟩
  rw [core_modCore_self]
  exact h
end

/-- Settles O41, by the contexts that each instruction leaves, one word read ahead, and one pass of the merge loop. -/
theorem streamWork : Obligations.StreamWork := by
  unfold Obligations.StreamWork
  refine ⟨?_, ?_⟩
  · intro s x y a b c st h size
    refine ⟨?_, ?_, ?_, ?_⟩
    · intro hq d0 d1 len
      refine ⟨fun hc => ?_, fun hc hr => ?_, fun hc hr ha => ?_, fun hc hr ha hb hf => ?_⟩
      · exact sopenStep hq (sopenBody_used hc)
      · exact sopenStep hq (sopenBody_reserved hc hr)
      · exact sopenStep hq (sopenBody_misaligned hc hr ha)
      · exact ⟨_, sopenStep hq (sopenBody_opens hc hr ha hb hf), rfl, rfl, rfl, rfl, rfl, rfl, rfl, rfl, rfl, rfl, rfl⟩
    · intro op ins i hins hi
      have he : exec i s = .next (combine op x ins s) := by
        simp only [List.mem_cons, Prod.mk.injEq, List.not_mem_nil, or_false] at hi
        rcases hi with (⟨rfl, rfl, rfl⟩ | ⟨rfl, rfl, rfl⟩ | ⟨rfl, rfl, rfl⟩) | ⟨m, rfl, rfl, rfl⟩
        · rfl
        · rfl
        · rfl
        · have hbit : ∀ k, (m.val / 2 ^ k % 2 == 1) = m.val.testBit k := fun k => by
            rw [Nat.testBit_eq_decide_div_mod_eq]; rfl
          rw [show exec (.smerge x m) s = execSmerge x m s from rfl, execSmerge]
          simp only [hbit]
      rw [he]
      refine ⟨fun hb => by rw [combine_unfit hb], fun hg => ⟨fun hw => by rw [combine_sizes hg hw], fun hw => ?_⟩⟩
      obtain ⟨u, hu, h⟩ := combine_done (op := op) hg hins hw
      exact ⟨u, congrArg Host.Outcome.next hu, h⟩
    · intro hd
      have hd := not_drawable hd
      refine ⟨?_, fun hq => ⟨?_, ?_⟩⟩
      · rw [exec_snext, hd]; rfl
      · rw [exec_scnt hq, hd]; rfl
      · rw [exec_sclose hq, hd]; rfl
    · intro ho hp
      refine ⟨fun he => ⟨snext_over ho hp he, fun hq => scnt_over ho hp hq he, fun hq ha => scntA_over ho hp hq ha he⟩,
        fun e he hx => ⟨?_, fun hq => ?_, fun hq ha hi => ?_, fun hq ha hi => scntA_outside ho hp hq ha he hx hi⟩,
        fun code he hx hf ht => ⟨_, snext_fault ho hp he hx hf ht, rfl⟩,
        fun hq hout => sclose_done ho hp hq hout, fun hq hout => sclose_waits ho hp hq hout⟩
      · refine ⟨_, snext_el ho hp he hx, rfl, ?_⟩
        rw [stream_modMyCore_drawn hp]; exact ⟨he, rfl⟩
      · refine ⟨_, scnt_last ho hp hq he hx, rfl, ?_⟩
        rw [stream_countEnd, stream_counted hp]; exact ⟨he, rfl⟩
      · refine ⟨_, scntA_last ho hp hq ha he hx hi, rfl, ?_, fun hwf k => bufA_putElem _ e hwf k⟩
        rw [stream_countEnd]
  · intro s c n x h
    refine ⟨fun k hn hs => ⟨exec_streamRead_inA hn hs, fun ha => ⟨fun pa htr hb hch hec => ?_, exec_streamRead_trap hn hs ha rfl,
      exec_streamRead_trap hn hs ha rfl, exec_streamRead_miss hn hs ha rfl⟩⟩,
      fun op y a b hy hst hm hc ha hcy hb => exec_mergeStep_els hy hst hm hc ha hcy hb⟩
    obtain ⟨h1, h2⟩ := exec_streamRead_pa hn hs ha rfl htr hb hch hec
    exact ⟨fun hf hi _ => h1 hf hi, fun hf _ => h2 hf⟩

end Sys2Proof.Proofs.StreamUnits
end

section
/-!
PROOFS. WHAT STATEMENT O42 RESTS ON. The Grove's instructions, the granules its engines read and change, its accepted
requests, searches, publication and replies; the proof of statement O42.
-/
namespace Sys2Proof.Proofs.GroveEngines
open Sys2Proof Sys2Proof.Machine DeviceMemory FetchingAndIssuing Replies

/-! ## The instructions (R250 to R255) -/

section
variable {s : State} {d b c : Reg} {n : Nat}

theorem withIndex_none (h : findIndex s n = none) (k : Nat → GIndex → Eff) :
    withIndex s n k = .trap s 0x0D (0x0100000000000000 ||| BitVec.ofNat 64 n) := by rw [withIndex, h] <;> rfl
theorem withIndex_some {i : Nat} {x : GIndex} (h : findIndex s n = some (i, x)) (k : Nat → GIndex → Eff) :
    withIndex s n k = k i x := by rw [withIndex, h]

/-! ### `ldnn` -/

/-- The operand word of an `ldnn` meets its field checks. -/
def ldnnWord (w : Word) : Prop :=
  bits w 7 6 = 0 ∧ bits w 15 14 = 0 ∧ 1 ≤ bits w 13 8 ∧ bits w 13 8 ≤ 32 ∧ bits w 31 16 ≤ 1024
theorem ldnnWord_iff (w : Word) :
    ¬ ldnnWord w ↔ bits w 7 6 ≠ 0 ∨ bits w 15 14 ≠ 0 ∨ bits w 13 8 = 0 ∨ 32 < bits w 13 8 ∨ 1024 < bits w 31 16 := by
  rw [ldnnWord]; omega
/-- What an `ldnn` does of its operand word `w`. -/
def ldnnBody (s : State) (d b : Reg) (w : Word) : Eff :=
  if bits w 7 6 ≠ 0 ∨ bits w 15 14 ≠ 0 ∨ bits w 13 8 = 0 ∨ 32 < bits w 13 8 ∨ 1024 < bits w 31 16 then .trap s 0x03 w
  else if bits w 47 32 % 8 ≠ 0 then .trap s 0x02 (BitVec.ofNat 64 (bits w 47 32))
  else if bits w 63 48 % 16 ≠ 0 then .trap s 0x02 (BitVec.ofNat 64 (bits w 63 48))
  else if 49152 < bits w 63 48 + 16 * bits w 13 8 then .trap s 0x03 (BitVec.ofNat 64 (bits w 63 48))
  else withIndex s (bits w 5 0) (fun i x =>
    if 49152 < bits w 47 32 + 2 * x.dim then .trap s 0x03 (BitVec.ofNat 64 (bits w 47 32))
    else .reply (post s (.ldnnAccept ⟨s.cur, d, i, bits w 13 8, bits w 31 16, bits w 47 32, bits w 63 48, rd s (regUp b 1),
      rd s (regUp b 2)⟩)) (d == 31) .dflt)
theorem exec_ldnn (h : QueuesReady s [b, regUp b 1, regUp b 2] [d]) : exec (.ldnn d b) s =
    .next (finish 2 ([b, regUp b 1, regUp b 2].contains 30) (ldnnBody s d b (rd s b))) := by
  rw [show exec (.ldnn d b) s = execLdnn d b s from rfl, execLdnn, runI_ready h] <;> rfl
theorem ldnn_gives (h : QueuesReady s [b, regUp b 1, regUp b 2] [d]) {e : Eff} (he : ldnnBody s d b (rd s b) = e) :
    exec (.ldnn d b) s = .next (finish 2 ([b, regUp b 1, regUp b 2].contains 30) e) := by rw [exec_ldnn h, he]
section
variable {w : Word}
theorem ldnnBody_reserved (h : ¬ ldnnWord w) : ldnnBody s d b w = .trap s 0x03 w := if_pos ((ldnnWord_iff w).1 h)
theorem ldnnBody_ok (h : ldnnWord w) : ldnnBody s d b w =
    (if bits w 47 32 % 8 ≠ 0 then .trap s 0x02 (BitVec.ofNat 64 (bits w 47 32))
    else if bits w 63 48 % 16 ≠ 0 then .trap s 0x02 (BitVec.ofNat 64 (bits w 63 48))
    else if 49152 < bits w 63 48 + 16 * bits w 13 8 then .trap s 0x03 (BitVec.ofNat 64 (bits w 63 48))
    else withIndex s (bits w 5 0) (fun i x =>
      if 49152 < bits w 47 32 + 2 * x.dim then .trap s 0x03 (BitVec.ofNat 64 (bits w 47 32))
      else .reply (post s (.ldnnAccept ⟨s.cur, d, i, bits w 13 8, bits w 31 16, bits w 47 32, bits w 63 48, rd s (regUp b 1),
        rd s (regUp b 2)⟩)) (d == 31) .dflt)) := if_neg fun e => (ldnnWord_iff w).2 e h
theorem ldnnBody_query (h : ldnnWord w) (hq : bits w 47 32 % 8 ≠ 0) :
    ldnnBody s d b w = .trap s 0x02 (BitVec.ofNat 64 (bits w 47 32)) := (ldnnBody_ok h).trans (if_pos hq)
theorem ldnnBody_result (h : ldnnWord w) (hq : bits w 47 32 % 8 = 0) (hr : bits w 63 48 % 16 ≠ 0) :
    ldnnBody s d b w = .trap s 0x02 (BitVec.ofNat 64 (bits w 63 48)) :=
  (ldnnBody_ok h).trans ((if_neg (not_not.2 hq)).trans (if_pos hr))
theorem ldnnBody_outside (h : ldnnWord w) (hq : bits w 47 32 % 8 = 0) (hr : bits w 63 48 % 16 = 0)
    (ho : 49152 < bits w 63 48 + 16 * bits w 13 8) : ldnnBody s d b w = .trap s 0x03 (BitVec.ofNat 64 (bits w 63 48)) :=
  (ldnnBody_ok h).trans ((if_neg (not_not.2 hq)).trans ((if_neg (not_not.2 hr)).trans (if_pos ho)))
theorem ldnnBody_index (h : ldnnWord w) (hq : bits w 47 32 % 8 = 0) (hr : bits w 63 48 % 16 = 0)
    (ho : bits w 63 48 + 16 * bits w 13 8 ≤ 49152) : ldnnBody s d b w = withIndex s (bits w 5 0) (fun i x =>
      if 49152 < bits w 47 32 + 2 * x.dim then .trap s 0x03 (BitVec.ofNat 64 (bits w 47 32))
      else .reply (post s (.ldnnAccept ⟨s.cur, d, i, bits w 13 8, bits w 31 16, bits w 47 32, bits w 63 48, rd s (regUp b 1),
        rd s (regUp b 2)⟩)) (d == 31) .dflt) :=
  (ldnnBody_ok h).trans ((if_neg (not_not.2 hq)).trans ((if_neg (not_not.2 hr)).trans (if_neg (not_lt.2 ho))))
end

/-! ### `stv`, `dlv`, `ixver`, `ixsnap` -/

def stvBody (s : State) (d c : Reg) (w : Word) : Eff :=
  if bits w 15 6 ≠ 0 ∨ bits w 63 32 ≠ 0 then .trap s 0x03 w
  else if bits w 31 16 % 8 ≠ 0 then .trap s 0x02 (BitVec.ofNat 64 (bits w 31 16))
  else withIndex s (bits w 5 0) (fun i x =>
    if 49152 < bits w 31 16 + vecBytes x then .trap s 0x03 (BitVec.ofNat 64 (bits w 31 16))
    else .reply (post s (.stvAccept ⟨s.cur, d, i, bits w 31 16, rd s c⟩)) (d == 31) .dflt)
theorem stv_gives (h : QueuesReady s [b, c] [d]) {e : Eff} (he : stvBody s d c (rd s b) = e) :
    exec (.stv d b c) s = .next (finish 3 ([b, c].contains 30) e) := by
  rw [show exec (.stv d b c) s = execStv d b c s from rfl, execStv, runI_ready h, ← he]; rfl
section
variable {w : Word}
theorem stvBody_reserved (h : bits w 15 6 ≠ 0 ∨ bits w 63 32 ≠ 0) : stvBody s d c w = .trap s 0x03 w := if_pos h
theorem stvBody_misaligned (h1 : bits w 15 6 = 0) (h2 : bits w 63 32 = 0) (ha : bits w 31 16 % 8 ≠ 0) :
    stvBody s d c w = .trap s 0x02 (BitVec.ofNat 64 (bits w 31 16)) :=
  (if_neg (fun e => e.elim (absurd h1) (absurd h2))).trans (if_pos ha)
theorem stvBody_index (h1 : bits w 15 6 = 0) (h2 : bits w 63 32 = 0) (ha : bits w 31 16 % 8 = 0) :
    stvBody s d c w = withIndex s (bits w 5 0) (fun i x =>
      if 49152 < bits w 31 16 + vecBytes x then .trap s 0x03 (BitVec.ofNat 64 (bits w 31 16))
      else .reply (post s (.stvAccept ⟨s.cur, d, i, bits w 31 16, rd s c⟩)) (d == 31) .dflt) :=
  (if_neg (fun e => e.elim (absurd h1) (absurd h2))).trans (if_neg (not_not.2 ha))
theorem indexI_reserved (h : bits w 63 6 ≠ 0) (p : Bool) (m : Nat → Ev) : indexI s w p m = .trap s 0x03 w := if_pos h
theorem indexI_none (h : bits w 63 6 = 0) (hn : findIndex s (bits w 5 0) = none) (p : Bool) (m : Nat → Ev) :
    indexI s w p m = .trap s 0x0D (0x0100000000000000 ||| BitVec.ofNat 64 (bits w 5 0)) :=
  (if_neg (not_not.2 h)).trans (withIndex_none hn _)
theorem indexI_some (h : bits w 63 6 = 0) {i : Nat} {x : GIndex} (hn : findIndex s (bits w 5 0) = some (i, x)) (p : Bool)
    (m : Nat → Ev) : indexI s w p m = .reply (post s (m i)) p .dflt :=
  (if_neg (not_not.2 h)).trans (withIndex_some hn _)
end
theorem dlv_gives (h : QueuesReady s [b, c] [d]) {e : Eff}
    (he : indexI s (rd s b) (d == 31) (fun i => .dlvAccept ⟨s.cur, d, i, 0, rd s c⟩) = e) :
    exec (.dlv d b c) s = .next (finish 3 ([b, c].contains 30) e) := by
  rw [show exec (.dlv d b c) s = execDlv d b c s from rfl, execDlv, runI_ready h, he]
theorem ixver_gives (h : QueuesReady s [b] [d, regUp d 1]) {e : Eff}
    (he : indexI s (rd s b) false (fun i => .ixverAccept ⟨s.cur, d, i, 0, 0⟩) = e) :
    exec (.ixver d b) s = .next (finish 2 ([b].contains 30) e) := by
  rw [show exec (.ixver d b) s = execIxver d b s from rfl, execIxver, runI_ready h, he]
theorem ixsnap_gives (h : QueuesReady s [b] [d, regUp d 1]) {e : Eff}
    (he : indexI s (rd s b) false (fun i => .ixsnapAccept ⟨s.cur, d, i, 0, 0⟩) = e) :
    exec (.ixsnap d b) s = .next (finish 2 ([b].contains 30) e) := by
  rw [show exec (.ixsnap d b) s = execIxsnap d b s from rfl, execIxsnap, runI_ready h, he]

/-- The part of O42 on `ldnn`. -/
theorem ldnn_instruction (hq : QueuesReady s [b, regUp b 1, regUp b 2] [d]) {w : Word} (hw : rd s b = w) :
    (¬ ldnnWord w → exec (.ldnn d b) s = .next (trapMe s 0x03 w))
    ∧ (ldnnWord w → bits w 47 32 % 8 ≠ 0 → exec (.ldnn d b) s = .next (trapMe s 0x02 (BitVec.ofNat 64 (bits w 47 32))))
    ∧ (ldnnWord w → bits w 47 32 % 8 = 0 → bits w 63 48 % 16 ≠ 0 →
        exec (.ldnn d b) s = .next (trapMe s 0x02 (BitVec.ofNat 64 (bits w 63 48))))
    ∧ (ldnnWord w → bits w 47 32 % 8 = 0 → bits w 63 48 % 16 = 0 → 49152 < bits w 63 48 + 16 * bits w 13 8 →
        exec (.ldnn d b) s = .next (trapMe s 0x03 (BitVec.ofNat 64 (bits w 63 48))))
    ∧ (ldnnWord w → bits w 47 32 % 8 = 0 → bits w 63 48 % 16 = 0 → bits w 63 48 + 16 * bits w 13 8 ≤ 49152 →
      (findIndex s (bits w 5 0) = none →
        exec (.ldnn d b) s = .next (trapMe s 0x0D (0x0100000000000000 ||| BitVec.ofNat 64 (bits w 5 0))))
      ∧ (∀ i x, findIndex s (bits w 5 0) = some (i, x) → 49152 < bits w 47 32 + 2 * x.dim →
        exec (.ldnn d b) s = .next (trapMe s 0x03 (BitVec.ofNat 64 (bits w 47 32))))
      ∧ (∀ i x, findIndex s (bits w 5 0) = some (i, x) → bits w 47 32 + 2 * x.dim ≤ 49152 → ∃ m : LdnnMsg,
        exec (.ldnn d b) s = .next (asked (post s (.ldnnAccept m)) 2 [b, regUp b 1, regUp b 2] (d == 31) .dflt)
        ∧ m.rto = s.cur ∧ m.dst = d ∧ m.index = i ∧ m.k = bits w 13 8 ∧ m.ef = bits w 31 16 ∧ m.qoff = bits w 47 32
        ∧ m.roff = bits w 63 48 ∧ m.ep = rd s (regUp b 1) ∧ m.snap = rd s (regUp b 2))) := by
  subst hw
  refine ⟨fun h => ldnn_gives hq (ldnnBody_reserved h), fun h ha => ldnn_gives hq (ldnnBody_query h ha),
    fun h ha hr => ldnn_gives hq (ldnnBody_result h ha hr), fun h ha hr ho => ldnn_gives hq (ldnnBody_outside h ha hr ho),
    fun h ha hr ho => ⟨fun hn => ?_, fun i x hx hb => ?_, fun i x hx hb => ?_⟩⟩
  · exact ldnn_gives hq ((ldnnBody_index h ha hr ho).trans (withIndex_none hn _))
  · exact ldnn_gives hq ((ldnnBody_index h ha hr ho).trans ((withIndex_some hx _).trans (if_pos hb)))
  · exact ⟨_, ldnn_gives hq ((ldnnBody_index h ha hr ho).trans ((withIndex_some hx _).trans (if_neg (not_lt.2 hb)))),
      rfl, rfl, rfl, rfl, rfl, rfl, rfl, rfl, rfl⟩
end

/-! ## Granules that an engine reads (R329, R344, R347, R349, R353) -/

section
variable {s t u : State} {launch : Nat} {l : List Nat}

/-- Granules that an engine can read for a launch: in service, without error or injection, and not refused. -/
def CleanGranules (s : State) (launch : Nat) (l : List Nat) : Prop :=
  ∀ g ∈ l, chanBusy s (256 * g) = false ∧ injFires s (256 * g) = false
    ∧ ∀ j, j < 8 → fget s.errs (8 * g + j) = none ∧ tauRefuses s (some launch) (256 * g + 32 * j) = none
/-- Their pseudo-channels have seen the reads. -/
def touchAll (s : State) (l : List Nat) : State := l.foldl (fun s g => touch s (256 * g)) s
theorem touchAll_eq (s : State) (l : List Nat) : ∃ p, touchAll s l = { s with pchs := p } := by
  induction l generalizing s with
  | nil => exact ⟨_, rfl⟩
  | cons g l ih => obtain ⟨p, h⟩ := ih (touch s (256 * g)); exact ⟨p, h⟩
theorem eccRead_granule {g : Nat} (h : ∀ j, j < 8 → fget s.errs (8 * g + j) = none) : eccRead s (256 * g) 256 = s := by
  have hs : ∀ m, m ≤ 8 → (List.range m).foldl (fun s i => eccSector s (sectorOf (256 * g) + i)) s = s := by
    intro m
    induction m with
    | zero => exact fun _ => rfl
    | succ m ih =>
      intro hm
      rw [List.range_succ, List.foldl_append, ih (by omega), List.foldl_cons, List.foldl_nil, eccSector,
        show sectorOf (256 * g) + m = 8 * g + m by simp only [sectorOf]; omega, h m (by omega)]
  unfold eccRead
  split
  · rfl
  · rw [show sectorOf (256 * g + 256 - 1) + 1 - sectorOf (256 * g) = 8 by simp only [sectorOf]; omega]
    exact hs 8 (le_refl 8)
theorem reads_clean (h : ∀ g ∈ l, ∀ j, j < 8 → fget s.errs (8 * g + j) = none) :
    l.foldl (fun s g => touch (eccRead s (256 * g) 256) (256 * g)) s = touchAll s l := by
  induction l generalizing s with
  | nil => rfl
  | cons g l ih =>
    rw [List.foldl_cons, eccRead_granule (h g List.mem_cons_self), touchAll, List.foldl_cons]
    exact ih fun g' hg => h g' (List.mem_cons_of_mem _ hg)
theorem granulesRead_clean (h : CleanGranules s launch l) (wait : State → State) (bad : State → Nat → Refuse → State)
    (k : State → State) : granulesRead s launch l wait bad k = k (touchAll s l) := by
  have hshut : ∀ g ∈ l, tauShuts s (some launch) (256 * g) = false := fun g hg =>
    tauShuts_none ((h g hg).2.2 0 (by omega)).2
  have hfil : l.filter (fun g => !tauShuts s (some launch) (256 * g)) = l :=
    List.filter_eq_self.2 fun g hg => by rw [hshut g hg]; rfl
  have hwait : l.any (fun g => chanBusy s (256 * g)) = false :=
    List.any_eq_false.2 fun g hg => by rw [(h g hg).1]; decide
  have hstop : l.any (fun g => (granuleSectors g).any (eccStops s)) = false :=
    List.any_eq_false.2 fun g hg => Bool.eq_false_iff.1 (List.any_eq_false.2 fun a ha => by
      obtain ⟨j, hj, rfl⟩ := List.mem_map.1 ha
      rw [List.mem_range] at hj
      rw [eccStops_none (by rw [show sectorOf (256 * g + 32 * j) = 8 * g + j by simp only [sectorOf]; omega]
                            exact ((h g hg).2.2 j hj).1)]
      decide)
  have hinj : l.any (fun g => injFires s (256 * g)) = false :=
    List.any_eq_false.2 fun g hg => by rw [(h g hg).2.1]; decide
  have href : granulesRefuse (touchAll s l) launch l = none := by
    obtain ⟨p, hp⟩ := touchAll_eq s l
    rw [hp, granulesRefuse, List.findSome?_eq_none_iff]
    intro a ha
    obtain ⟨g, hg, ha⟩ := List.mem_flatMap.1 ha
    obtain ⟨j, hj, rfl⟩ := List.mem_map.1 ha
    rw [List.mem_range] at hj
    exact congrArg (Option.map _) ((h g hg).2.2 j hj).2
  rw [granulesRead]
  dsimp only
  rw [hfil, hwait, if_neg (by decide), hstop, if_neg (by decide), hinj, if_neg (by decide),
    reads_clean fun g hg j hj => ((h g hg).2.2 j hj).1, href]

/-! ## Granules that an engine changes (R283, R287) -/

/-- The log has taken some changes: nothing else has moved, and only seals have been asked for. -/
structure Logged (s t : State) : Prop where
  form : ∃ p v st sl pe fo, t = { s with pchs := p, vaults := v, stamps := st, sl := sl, pending := pe, fabOut := fo }
  asks : ∀ e ∈ t.pending, e ∈ s.pending ∨ e = .sealRequest s.fab.modnum
theorem Logged.refl : Logged s s := ⟨⟨_, _, _, _, _, _, rfl⟩, fun _ h => .inl h⟩
theorem Logged.fab (h : Logged s t) : t.fab = s.fab := by obtain ⟨_, _, _, _, _, _, h⟩ := h.form; rw [h]
theorem Logged.grove (h : Logged s t) : t.grove = s.grove := by obtain ⟨_, _, _, _, _, _, h⟩ := h.form; rw [h]
theorem Logged.searches (h : Logged s t) : t.searches = s.searches := by obtain ⟨_, _, _, _, _, _, h⟩ := h.form; rw [h]
theorem Logged.trans (h : Logged s t) (h' : Logged t u) : Logged s u := by
  refine ⟨?_, fun e he => ?_⟩
  · obtain ⟨_, _, _, _, _, _, h1⟩ := h.form
    obtain ⟨_, _, _, _, _, _, h2⟩ := h'.form
    exact ⟨_, _, _, _, _, _, by rw [h2, h1]⟩
  · rcases h'.asks e he with h1 | h1
    · exact h.asks e h1
    · exact .inr (by rw [h1, h.fab])
theorem logged_touch (s : State) (pa : Nat) : Logged s (touch s pa) := ⟨⟨_, _, _, _, _, _, rfl⟩, fun _ h => .inl h⟩
theorem logged_wantSeal (s : State) : Logged s (wantSeal s) := by
  refine ⟨?_, fun e he => ?_⟩
  · obtain ⟨p, q, h⟩ := wantSeal_eq s
    exact ⟨_, _, _, _, _, _, h⟩
  · unfold wantSeal at he
    split at he
    · rcases List.mem_append.1 he with h | h
      · exact .inl h
      · exact .inr (List.mem_singleton.1 h)
    · exact .inl he
theorem logged_logGranule (s : State) (pa : Nat) : Logged s (logGranule s pa) := by
  unfold logGranule
  split
  · exact .refl
  · dsimp only
    split
    · refine .trans ?_ (logged_wantSeal _)
      exact ⟨⟨_, _, _, _, _, _, rfl⟩, fun _ h => .inl h⟩
    · exact ⟨⟨_, _, _, _, _, _, rfl⟩, fun _ h => .inl h⟩
theorem logged_logGranules (s : State) (l : List Nat) : Logged s (logGranules s l) := by
  unfold logGranules
  induction l generalizing s with
  | nil => exact .refl
  | cons g l ih => exact ((logged_touch ..).trans (logged_logGranule ..)).trans (ih _)
/-- Granules that an engine can change. -/
def RoomyGranules (s : State) (l : List Nat) : Prop := ∀ g ∈ l, vaultStalls s (256 * g) = false ∧ chanBusy s (256 * g) = false
theorem granulesStall_roomy (h : RoomyGranules s l) : granulesStall s l = false :=
  List.any_eq_false.2 fun g hg => by rw [(h g hg).1, (h g hg).2]; decide
end

/-! ## Acceptance at the header (R245, R251 to R255) -/

section
variable {s : State} {x : GIndex} {n : Nat} {e : Ev}

/-- The state at an engine: an event happens, and some pseudo-channels have seen reads. -/
def atEngine (s : State) (e : Ev) (p : FMap PchSt) : State := { facing s e with pchs := p }
theorem touchAll_atEngine (s : State) (e : Ev) (p : FMap PchSt) (l : List Nat) : ∃ q, touchAll (atEngine s e p) l = atEngine s e
    q := by
  obtain ⟨q, h⟩ := touchAll_eq (atEngine s e p) l
  exact ⟨q, h⟩
theorem CleanGranules.atEngine {l : List Nat} {launch : Nat} (h : CleanGranules s launch l) (e : Ev) (p : FMap PchSt) :
    CleanGranules (atEngine s e p) launch l := h
theorem RoomyGranules.atEngine {l : List Nat} (h : RoomyGranules s l) (e : Ev) (p : FMap PchSt) : RoomyGranules
    (atEngine s e p) l := h
/-- Where the granules of an index stand depends on its launch's frames and the other indexes alone. -/
theorem regionSpot_congr {u : State} (hp : u.pat = s.pat) (h : Nat) (l : List Nat) (r : Nat) :
    regionSpot u h l r = regionSpot s h l r := by
  have hg : ∀ f, guardRanks u f = guardRanks s f := fun f => by rw [guardRanks, patEnt, hp]; rfl
  induction l generalizing r with
  | nil => rfl
  | cons f l ih =>
    rw [regionSpot, regionSpot, hg, ih]
theorem regionGranules_atEngine (s : State) (e : Ev) (p : FMap PchSt) (x : GIndex) (h off k : Nat) :
    regionGranules (atEngine s e p) x h off k = regionGranules s x h off k := by
  rw [regionGranules, regionGranules]
  simp only [regionSpot_congr (s := s) (u := atEngine s e p) rfl]
theorem headerGranules_atEngine (s : State) (e : Ev) (p : FMap PchSt) (n : Nat) (x : GIndex) :
    headerGranules (atEngine s e p) n x = headerGranules s n x := regionGranules_atEngine ..
theorem entryGranules_atEngine (s : State) (e : Ev) (p : FMap PchSt) (n : Nat) (x : GIndex) (k : Nat) :
    entryGranules (atEngine s e p) n x k = entryGranules s n x k := regionGranules_atEngine ..
theorem entryPointGranules_atEngine (s : State) (e : Ev) (p : FMap PchSt) (n : Nat) (x : GIndex) (b : Bool) (i k : Nat) :
    entryPointGranules (atEngine s e p) n x b i k = entryPointGranules s n x b i k := by
  unfold entryPointGranules
  have h : entryGranules (atEngine s e p) n x = entryGranules s n x := funext fun k => entryGranules_atEngine ..
  rw [h]
theorem facing_atEngine (s : State) (e : Ev) : facing s e = atEngine s e s.pchs := rfl
/-- A request is accepted at a header that can be read. -/
theorem withHeader_reads (hx : fget s.grove n = some x) (hc : CleanGranules s x.launch (headerGranules s n x)) (e : Ev)
    (rto : TRef)
    (k : State → GIndex → State) : ∃ p, withHeader (facing s e) rto n k = k (atEngine s e p) x := by
  obtain ⟨p, hp⟩ := touchAll_atEngine s e s.pchs (headerGranules s n x)
  have hx' : fget (facing s e).grove n = some x := hx
  refine ⟨p, ?_⟩
  rw [withHeader, hx']
  dsimp only
  rw [facing_atEngine, headerGranules_atEngine, granulesRead_clean (hc.atEngine e s.pchs)]
  exact congrArg (k · x) hp
/-- The granules of a further read at the header's engine. -/
theorem granulesRead_atEngine {l : List Nat} {launch : Nat} (h : CleanGranules s launch l) (e : Ev) (p : FMap PchSt)
    (wait : State → State) (bad : State → Nat → Refuse → State) (k : State → State) :
    ∃ q, granulesRead (atEngine s e p) launch l wait bad k = k (atEngine s e q) := by
  obtain ⟨q, hq⟩ := touchAll_atEngine s e p l
  exact ⟨q, (granulesRead_clean (h.atEngine e p) ..).trans (congrArg k hq)⟩

/-- What an engine that answers at once leaves. -/
def Tells (s : State) (run : Host.Outcome State Fault Refusal) (e : Ev) (a : TRef) (r : RepRes) : Prop :=
  ∃ t, run = .next t ∧ t = { facing s e with pchs := t.pchs, pending := s.pending ++ [.reply a r] }
theorem tells_answer {run : Host.Outcome State Fault Refusal} {p : FMap PchSt} {a : TRef} {r : RepRes}
    (h : run = .next (answer (atEngine s e p) (.thr a) r)) : Tells s run e a r := ⟨_, h, rfl⟩

theorem followFwd_stays {c : Nat} (h : (Machine.core s c).fwd = none) (l : Option Nat) : followFwd s l c = c := by
  rw [followFwd, h]
theorem queryBytes_stays {m : TRef} (h : (Machine.core s m.core).fwd = none) (e : Ev) (p : FMap PchSt) (l off k : Nat) :
    queryBytes (atEngine s e p) l m off k = mgets (Machine.core s m.core).bufA off k := by
  have h' : (Machine.core (atEngine s e p) m.core).fwd = none := h
  rw [queryBytes, followFwd_stays h']; rfl

/-! ### Searches -/

theorem mgets_take (m : List Host.Cell) (a k i : Nat) (h : i ≤ k) : (mgets m a k).take i = mgets m a i := by
  induction k generalizing a i with
  | zero => rw [Nat.le_zero.1 h]; rfl
  | succ k ih =>
    cases i with
    | zero => rfl
    | succ i => rw [mgets, List.take_succ_cons, ih _ _ (by omega), mgets]
theorem mgets_drop (m : List Host.Cell) (a k i : Nat) : (mgets m a k).drop i = mgets m (a + i) (k - i) := by
  induction i generalizing a k with
  | zero => rfl
  | succ i ih =>
    cases k with
    | zero => rw [Nat.zero_sub]; rfl
    | succ k => rw [mgets, List.drop_succ_cons, ih, show a + 1 + i = a + (i + 1) by omega, Nat.add_sub_add_right]
/-- The elements of a query, as the engine reads them of A. -/
theorem bf16List_mgets (m : List Host.Cell) (off dim : Nat) :
    bf16List dim (mgets m off (2 * dim)) = (List.range dim).map (fun i => leNat (mgets m (off + 2 * i) 2)) := by
  rw [bf16List]
  refine List.map_congr_left fun i hi => ?_
  rw [List.mem_range] at hi
  rw [mgets_drop, mgets_take _ _ _ _ (by omega)]
theorem bf16Bad_iff (z : Nat) : bf16Bad z = true ↔ z / 128 % 256 = 255 := beq_iff_eq

/-- What an accepted `ldnn` does with the elements `q` of its query. -/
def ldnnWith (s : State) (m : LdnnMsg) (x : GIndex) (q : List Nat) : State :=
  match q.findIdx? bf16Bad with
  | some i => refuseElem s m.rto i
  | none =>
    if ldnnSnap x m < x.floor ∨ x.pub < ldnnSnap x m then answer s (.thr m.rto) (.trap 0x0D (groveTval 3 m.snap) [])
    else
      granulesRead s x.launch (entryPointGranules s m.index x (m.ef == 0) m.ep.toNat (ldnnSnap x m)) again
        (refuseTrap m.rto x.launch) fun s =>
          newSearch s m.index x (ldnnSnap x m) m.k (max m.ef m.k) (m.ef == 0) (q.map bf16To32) m.ep.toNat (.ldnn m)
/-- The elements of the query of an `ldnn`. -/
def queryOf (s : State) (x : GIndex) (m : LdnnMsg) : List Nat :=
  (List.range x.dim).map (fun i => leNat (mgets (Machine.core s m.rto.core).bufA (m.qoff + 2 * i) 2))
theorem exec_ldnnAccept {m : LdnnMsg} (hx : fget s.grove m.index = some x)
    (hc : CleanGranules s x.launch (headerGranules s m.index x)) (hf : (Machine.core s m.rto.core).fwd = none) :
    ∃ p, exec .ldnnAccept (facing s (.ldnnAccept m)) = .next (ldnnWith (atEngine s (.ldnnAccept m) p) m x (queryOf s x m)) := by
  obtain ⟨p, hp⟩ := withHeader_reads hx hc (.ldnnAccept m) m.rto fun s x =>
    ldnnWith s m x (bf16List x.dim (queryBytes s x.launch m.rto m.qoff (2 * x.dim)))
  refine ⟨p, ?_⟩
  rw [queryOf, ← bf16List_mgets, ← queryBytes_stays hf (.ldnnAccept m) p x.launch]
  exact congrArg Host.Outcome.next hp
theorem ldnnWith_bad {m : LdnnMsg} {q : List Nat} {i : Nat} (hb : ∀ k, k < i → q.getD k 0 / 128 % 256 ≠ 255) (hi : i < q.length)
    (h : q.getD i 0 / 128 % 256 = 255) (s : State) : ldnnWith s m x q = refuseElem s m.rto i := by
  have hfind : q.findIdx? bf16Bad = some i := by
    rw [List.findIdx?_eq_some_iff_getElem]
    refine ⟨hi, (bf16Bad_iff _).2 (by rw [← List.getD_eq_getElem q 0 hi]; exact h), fun k hk => ?_⟩
    rw [← List.getD_eq_getElem q 0 (by omega), bf16Bad_iff]
    exact hb k hk
  rw [ldnnWith, hfind]
theorem findIdx_good {q : List Nat} (h : ∀ e ∈ q, e / 128 % 256 ≠ 255) : q.findIdx? bf16Bad = none :=
  List.findIdx?_eq_none_iff.2 fun e he => by
    rw [Bool.eq_false_iff, Ne, bf16Bad_iff]; exact h e he
theorem ldnnWith_snap {m : LdnnMsg} {q : List Nat} (h : ∀ e ∈ q, e / 128 % 256 ≠ 255)
    (hs : ldnnSnap x m < x.floor ∨ x.pub < ldnnSnap x m) (s : State) :
    ldnnWith s m x q = answer s (.thr m.rto) (.trap 0x0D (0x0300000000000000 ||| m.snap) []) := by
  rw [ldnnWith, findIdx_good h]
  exact if_pos hs
theorem ldnnWith_starts {m : LdnnMsg} {q : List Nat} (h : ∀ e ∈ q, e / 128 % 256 ≠ 255) (h1 : x.floor ≤ ldnnSnap x m)
    (h2 : ldnnSnap x m ≤ x.pub)
    (hc : CleanGranules s x.launch (entryPointGranules s m.index x (m.ef == 0) m.ep.toNat (ldnnSnap x m))) (p : FMap PchSt) :
    ∃ r, ldnnWith (atEngine s e p) m x q = newSearch (atEngine s e r) m.index x (ldnnSnap x m) m.k (max m.ef m.k) (m.ef == 0)
      (q.map bf16To32) m.ep.toNat (.ldnn m) := by
  obtain ⟨r, hr⟩ := granulesRead_atEngine hc e p again (refuseTrap m.rto x.launch) fun s =>
    newSearch s m.index x (ldnnSnap x m) m.k (max m.ef m.k) (m.ef == 0) (q.map bf16To32) m.ep.toNat (.ldnn m)
  refine ⟨r, ?_⟩
  rw [ldnnWith, findIdx_good h]
  dsimp only
  rw [if_neg (by omega), entryPointGranules_atEngine]
  exact hr
end

section
variable {s : State} {x : GIndex} {n : Nat} {e : Ev}

/-! ### Insertions and deletions accepted (R249, R251, R254) -/

/-- What an accepted `stv` does with the bytes `l` of its vector. -/
def stvWith (s : State) (m : GroveMsg) (x : GIndex) (l : List Byte) : State :=
  match badElem x l with
  | some i => refuseElem s m.rto i
  | none =>
    if x.used = x.cap then answer s (.thr m.rto) (.writes [(m.dst, 0)])
    else if granulesStall s (acceptGranules s m.index x x.used) then post s s.ev
    else
      granulesRead s x.launch (entryPointGranules s m.index x false 0 x.pub) again (fun s _ _ => stvFill s m x l)
        (fun s => stvFill s m x l)
theorem exec_stvAccept {m : GroveMsg} (hx : fget s.grove m.index = some x)
    (hc : CleanGranules s x.launch (headerGranules s m.index x)) (hf : (Machine.core s m.rto.core).fwd = none) :
    ∃ p, exec .stvAccept (facing s (.stvAccept m)) =
      .next (stvWith (atEngine s (.stvAccept m) p) m x (mgets (Machine.core s m.rto.core).bufA m.off (vecBytes x))) := by
  obtain ⟨p, hp⟩ := withHeader_reads hx hc (.stvAccept m) m.rto fun s x =>
    stvWith s m x (queryBytes s x.launch m.rto m.off (vecBytes x))
  refine ⟨p, ?_⟩
  rw [← queryBytes_stays hf (.stvAccept m) p x.launch]
  exact congrArg Host.Outcome.next hp
theorem stvWith_full {m : GroveMsg} {l : List Byte} (hb : badElem x l = none) (hu : x.used = x.cap) (s : State) :
    stvWith s m x l = answer s (.thr m.rto) (.writes [(m.dst, 0)]) := by
  rw [stvWith, hb]
  exact if_pos hu
theorem acceptGranules_atEngine (s : State) (e : Ev) (p : FMap PchSt) (n : Nat) (x : GIndex) (k : Nat) :
    acceptGranules (atEngine s e p) n x k = acceptGranules s n x k := by
  rw [acceptGranules, acceptGranules, entryGranules_atEngine, headerGranules_atEngine]
theorem stvWith_fills {m : GroveMsg} {l : List Byte} (hb : badElem x l = none) (hu : x.used ≠ x.cap)
    (hr : RoomyGranules s (acceptGranules s m.index x x.used))
    (hc : CleanGranules s x.launch (entryPointGranules s m.index x false 0 x.pub)) (p : FMap PchSt) :
    ∃ q, stvWith (atEngine s e p) m x l = stvFill (atEngine s e q) m x l := by
  obtain ⟨q, hq⟩ := granulesRead_atEngine hc e p again (fun s _ _ => stvFill s m x l) (fun s => stvFill s m x l)
  refine ⟨q, ?_⟩
  have hst : granulesStall (atEngine s e p) (acceptGranules s m.index x x.used) = false := granulesStall_roomy (hr.atEngine e p)
  rw [stvWith, hb]
  dsimp only
  rw [if_neg hu, acceptGranules_atEngine, hst, if_neg (by decide), entryPointGranules_atEngine]
  exact hq
/-- The index as an accepted `stv` leaves it. -/
def filledIndex (x : GIndex) (m : GroveMsg) (l : List Byte) : GIndex :=
  { x with
    ents := fset x.ents x.used ⟨x.alloc, none, m.payload, l, []⟩, used := x.used + 1, alloc := x.alloc + 1
    pubs := x.pubs ++ [⟨x.alloc, false, false, x.used, [], m.rto, m.dst⟩] }
theorem stvFill_spec (s : State) (m : GroveMsg) (x : GIndex) (l : List Byte) : ∃ g,
    fget (stvFill s m x l).grove m.index = some (filledIndex x m l) ∧ (stvFill s m x l).searches = s.searches ++ [g]
    ∧ g.width = 2 * x.deg ∧ g.snap = x.pub
    ∧ ∀ e ∈ (stvFill s m x l).pending, e ∈ s.pending ∨ e = .sealRequest s.fab.modnum := by
  have h := logged_logGranules s (acceptGranules s m.index x x.used)
  refine ⟨_, fget_fset_self .., congrArg (· ++ [_]) h.searches, rfl, rfl, h.asks⟩

/-- What an accepted `dlv` does. -/
def dlvWith (s : State) (m : GroveMsg) (x : GIndex) : State :=
  match dlvEntry x m with
  | none => answer s (.thr m.rto) (.writes [(m.dst, 0)])
  | some (n, e) => granulesRead s x.launch (entryGranules s m.index x n) again (refuseTrap m.rto x.launch) fun s =>
    if granulesStall s (acceptGranules s m.index x n) then post s s.ev
    else
    let s := logGranules s (acceptGranules s m.index x n)
    let seq := x.alloc
    { s with grove := fset s.grove m.index { x with
        ents := fset x.ents n { e with dseq := some seq }, alloc := seq + 1
        pubs := x.pubs ++ [⟨seq, true, true, n, [], m.rto, m.dst⟩] } }
theorem exec_dlvAccept {m : GroveMsg} (hx : fget s.grove m.index = some x)
    (hc : CleanGranules s x.launch (headerGranules s m.index x)) :
    ∃ p, exec .dlvAccept (facing s (.dlvAccept m)) = .next (dlvWith (atEngine s (.dlvAccept m) p) m x) := by
  obtain ⟨p, hp⟩ := withHeader_reads hx hc (.dlvAccept m) m.rto fun s x => dlvWith s m x
  exact ⟨p, congrArg Host.Outcome.next hp⟩
theorem dlvWith_none {m : GroveMsg}
    (h : ∀ e ∈ x.ents, ¬ (BitVec.ofNat 64 e.2.seq = m.payload ∧ e.2.seq ≤ x.pub ∧ e.2.dseq = none))
    (s : State) : dlvWith s m x = answer s (.thr m.rto) (.writes [(m.dst, 0)]) := by
  have hn : dlvEntry x m = none := List.find?_eq_none.2 fun e he hh => by
    simp only [Bool.and_eq_true, beq_iff_eq, decide_eq_true_iff, Option.isNone_iff_eq_none, and_assoc] at hh
    exact h e he hh
  rw [dlvWith, hn]
/-- The index as an accepted `dlv` of the entry `e` of slot `k` leaves it. -/
def deletedIndex (x : GIndex) (m : GroveMsg) (k : Nat) (e : GEntry) : GIndex :=
  { x with
    ents := fset x.ents k { e with dseq := some x.alloc }, alloc := x.alloc + 1
    pubs := x.pubs ++ [⟨x.alloc, true, true, k, [], m.rto, m.dst⟩] }
theorem dlvWith_deletes {m : GroveMsg} {k : Nat} {y : GEntry} (hx : x.ents = [(k, y)]) (h1 : BitVec.ofNat 64 y.seq = m.payload)
    (h2 : y.seq ≤ x.pub) (h3 : y.dseq = none) (hc : CleanGranules s x.launch (entryGranules s m.index x k))
    (hr : RoomyGranules s (acceptGranules s m.index x k)) (p : FMap PchSt) :
    ∃ t, dlvWith (atEngine s e p) m x = t ∧ fget t.grove m.index = some (deletedIndex x m k y)
      ∧ ∀ d ∈ t.pending, d ∈ s.pending ∨ d = .sealRequest s.fab.modnum := by
  have hf : dlvEntry x m = some (k, y) := by simp [dlvEntry, hx, h1, h2, h3]
  obtain ⟨q, hq⟩ := granulesRead_atEngine hc e p again (refuseTrap m.rto x.launch) fun s =>
    if granulesStall s (acceptGranules s m.index x k) then post s s.ev
    else { logGranules s (acceptGranules s m.index x k) with
      grove := fset (logGranules s (acceptGranules s m.index x k)).grove m.index (deletedIndex x m k y) }
  have hst : granulesStall (atEngine s e q) (acceptGranules s m.index x k) = false := granulesStall_roomy (hr.atEngine e q)
  rw [acceptGranules_atEngine, hst, if_neg (by decide)] at hq
  refine ⟨{ logGranules (atEngine s e q) (acceptGranules s m.index x k) with
    grove := fset (logGranules (atEngine s e q) (acceptGranules s m.index x k)).grove m.index (deletedIndex x m k y) }, ?_,
    fget_fset_self .., (logged_logGranules (atEngine s e q) (acceptGranules s m.index x k)).asks⟩
  rw [dlvWith, hf]
  dsimp only
  rw [entryGranules_atEngine]
  exact hq
theorem exec_ixverAccept {m : GroveMsg} (hx : fget s.grove m.index = some x)
    (hc : CleanGranules s x.launch (headerGranules s m.index x)) : Tells s (exec .ixverAccept (facing s (.ixverAccept m)))
      (.ixverAccept m) m.rto (.writes [(m.dst, x.record), (regUp m.dst 1, BitVec.ofNat 64 x.lives)]) := by
  obtain ⟨p, hp⟩ := withHeader_reads hx hc (.ixverAccept m) m.rto fun s x =>
    answer s (.thr m.rto) (.writes [(m.dst, x.record), (regUp m.dst 1, BitVec.ofNat 64 x.lives)])
  exact tells_answer (p := p) (congrArg Host.Outcome.next hp)
theorem exec_ixsnapAccept {m : GroveMsg} (hx : fget s.grove m.index = some x)
    (hc : CleanGranules s x.launch (headerGranules s m.index x)) : Tells s (exec .ixsnapAccept (facing s (.ixsnapAccept m)))
      (.ixsnapAccept m) m.rto (.writes [(m.dst, BitVec.ofNat 64 x.pub), (regUp m.dst 1, BitVec.ofNat 64 x.floor)]) := by
  obtain ⟨p, hp⟩ := withHeader_reads hx hc (.ixsnapAccept m) m.rto fun s x =>
    answer s (.thr m.rto) (.writes [(m.dst, BitVec.ofNat 64 x.pub), (regUp m.dst 1, BitVec.ofNat 64 x.floor)])
  exact tells_answer (p := p) (congrArg Host.Outcome.next hp)

/-! ## The end of a search (R248, R252) -/

theorem mem_resultsOf {g : GSearch} {r : Word × Lane} (h : r ∈ resultsOf x g) : ∃ h ∈ g.beam, ∃ e, fget x.ents h.slot = some e
    ∧ r = (e.payload, h.dist) ∧ e.seq ≤ g.snap ∧ ∀ z, e.dseq = some z → g.snap < z := by
  rw [resultsOf, List.mem_map] at h
  obtain ⟨h, hm, rfl⟩ := h
  obtain ⟨hb, ha⟩ := List.mem_filter.1 (List.mem_of_mem_take hm)
  rw [Option.any_eq_true] at ha
  obtain ⟨e, he, ha⟩ := ha
  rw [aliveAt, Bool.and_eq_true, seenAt, decide_eq_true_iff] at ha
  refine ⟨h, hb, e, he, by rw [he]; rfl, ha.1, fun z hz => ?_⟩
  have := ha.2
  rw [hz] at this
  exact of_decide_eq_true this
theorem exec_candidateExpansion {g : GSearch} (hx : fget s.grove g.index = some x) (hs : s.searches = [g])
    (he : g.exact = false) (hcd : g.cand = []) (hso : standsOut s g = false) :
    exec .candidateExpansion (facing s (.candidateExpansion g.id)) = .next
      (endSearch (facing s (.candidateExpansion g.id)) x g) := by
  have hfind : (facing s (.candidateExpansion g.id)).searches.find? (fun h => h.id == g.id) = some g := by
    show s.searches.find? _ = _; simp [hs]
  have hx' : fget (facing s (.candidateExpansion g.id)).grove g.index = some x := hx
  have hso' : standsOut (facing s (.candidateExpansion g.id)) g = false := hso
  have hslots : readSlots x g = [] := by rw [readSlots, he, hcd]; rfl
  refine (show exec .candidateExpansion (facing s (.candidateExpansion g.id)) =
    .next (expandGo (facing s (.candidateExpansion g.id)) g.id) from rfl).trans (congrArg Host.Outcome.next ?_)
  rw [expandGo, hfind]
  dsimp only
  rw [hx']
  dsimp only
  rw [hso', if_neg (by decide), hslots, List.flatMap_nil, granulesRead_clean (fun g hg => absurd hg List.not_mem_nil)]
  rw [he, if_neg (by decide), beamStep, hcd]
  rfl
end

/-! ## Publication (R245, R249) -/

section
variable {s : State} {x : GIndex} {n : Nat} {e : Ev} {p : GPub}

theorem canPublish_some (hx : x.pubs = [p]) (hs : p.seq = x.pub + 1) (hd : p.done = true)
    (hh : ¬ (!p.del ∧ (p.near.head?.any (fun k => (fget x.ents k).any (holdsOldest s n))) = true))
    (hr : granulesStall s (publishGranules s n x p) = false) : canPublish s n x = some p := by
  have hf : x.pubs.find? (fun q => q.seq == x.pub + 1) = some p := by simp [hx, hs]
  rw [canPublish, hf]
  dsimp only
  rw [if_neg (by simp [hd]), if_neg hh, hr, if_neg (by decide)]
/-- What the publication of `p` does once its granules have been read. -/
def publishWrite (s : State) (n : Nat) (x : GIndex) (p : GPub) : State :=
  let t := { logGranules s (publishGranules s n x p) with
    grove := fset (logGranules s (publishGranules s n x p)).grove n (publishStep x p).1 }
  if (publishStep x p).2 then answer t (.thr p.rto) (.writes [(p.dst, BitVec.ofNat 64 p.seq)]) else t
theorem exec_publish (hx : fget s.grove n = some x) (hc : canPublish (facing s (.publish n)) n x = some p)
    (hr : CleanGranules s x.launch (publishReads s n x p)) :
    ∃ q, exec .publish (facing s (.publish n)) = .next (publishWrite (atEngine s (.publish n) q) n x p) := by
  have hx' : fget (facing s (.publish n)).grove n = some x := hx
  have hreads : publishReads (facing s (.publish n)) n x p = publishReads s n x p := by
    have h : entryGranules (facing s (.publish n)) n x = entryGranules s n x := funext fun k =>
      entryGranules_atEngine s (.publish n) s.pchs n x k
    unfold publishReads; rw [h]
  obtain ⟨q, hq⟩ := granulesRead_atEngine hr (.publish n) s.pchs (fun s => s) (fun s _ _ => publishWrite s n x p)
    fun s => publishWrite s n x p
  refine ⟨q, (show exec .publish (facing s (.publish n)) = .next (publishGo (facing s (.publish n)) n) from rfl).trans
    (congrArg Host.Outcome.next ?_)⟩
  rw [publishGo, hx']
  dsimp only
  rw [hc]
  dsimp only
  rw [hreads]
  exact hq
theorem publishGranules_atEngine (s : State) (e : Ev) (q : FMap PchSt) (n : Nat) (x : GIndex) (p : GPub) :
    publishGranules (atEngine s e q) n x p = publishGranules s n x p := by
  have h : entryGranules (atEngine s e q) n x = entryGranules s n x := funext fun k => entryGranules_atEngine ..
  rw [publishGranules, publishGranules, headerGranules_atEngine, h]
theorem canPublish_facing (hx : x.pubs = [p]) (hs : p.seq = x.pub + 1) (hd : p.done = true)
    (hh : ¬ (!p.del ∧ (p.near.head?.any (fun k => (fget x.ents k).any (holdsOldest s n))) = true))
    (hr : RoomyGranules s (publishGranules s n x p)) (e : Ev) : canPublish (facing s e) n x = some p := by
  refine canPublish_some hx hs hd hh ?_
  rw [facing_atEngine, publishGranules_atEngine]
  exact granulesStall_roomy (hr.atEngine e s.pchs)
/-- The index with its sequence published. -/
def publishedIndex (x : GIndex) (p : GPub) : GIndex :=
  { x with
    pub := p.seq, lives := if p.del then x.lives - 1 else x.lives + 1, pubs := x.pubs.filter (fun q => q.seq != p.seq) }
theorem publishStep_last (h : p.del = true ∨ p.near = []) : publishStep x p = (publishedIndex x p, true) := by
  unfold publishStep publishedIndex
  rcases h with h | h
  · cases p.near <;> simp [h]
  · simp [h]
theorem publishStep_near {k : Nat} {l : List Nat} {y : GEntry} (hd : p.del = false) (hn : p.near = k :: l)
    (hy : fget x.ents k = some y) (hv : y.vers.length < 4) : publishStep x p =
      ({ x with
        ents := fset x.ents k { y with vers := y.vers ++ [(p.seq, newList x k p.slot y)] }
        pubs := x.pubs.map (fun q => if q.seq = p.seq then { q with near := l } else q) }, false) := by
  have ha : addVersion x.floor y p.seq (newList x k p.slot y) =
      ({ y with vers := y.vers ++ [(p.seq, newList x k p.slot y)] }, x.floor) := by
    rw [addVersion]
    exact if_neg (by rw [List.length_append, List.length_singleton]; omega)
  rw [publishStep, hd, hn]
  dsimp only
  rw [neighbourWrite, hy]
  dsimp only
  rw [ha]
theorem publishReads_none (h : p.del = true ∨ p.near = []) : publishReads s n x p = [] := by
  unfold publishReads
  rcases h with h | h
  · cases p.near <;> simp [h]
  · simp [h]
theorem publishGranules_header (h : p.del = true ∨ p.near = []) : publishGranules s n x p = headerGranules s n x := by
  rw [publishGranules]
  rcases h with h | h
  · rw [h]; cases p.near <;> rfl
  · rw [h]; rfl
/-- The last write of a sequence: it is published, and its request answered. -/
theorem publish_last (hx : fget s.grove n = some x) (hp : x.pubs = [p]) (hs : p.seq = x.pub + 1) (hd : p.done = true)
    (h : p.del = true ∨ p.near = []) (hr : RoomyGranules s (headerGranules s n x)) :
    ∃ t y, exec .publish (facing s (.publish n)) = .next t ∧ fget t.grove n = some y ∧ y.pub = p.seq ∧ y.pubs = []
      ∧ y.lives = (if p.del then x.lives - 1 else x.lives + 1) ∧ Replied t p.rto (.writes [(p.dst, BitVec.ofNat 64 p.seq)]) := by
  have hh : ¬ (!p.del ∧ (p.near.head?.any (fun k => (fget x.ents k).any (holdsOldest s n))) = true) := by
    rintro ⟨h1, h2⟩
    rcases h with h | h
    · rw [h] at h1; cases h1
    · rw [h] at h2; cases h2
  obtain ⟨q, hq⟩ := exec_publish hx (canPublish_facing hp hs hd hh (by rw [publishGranules_header h]; exact hr) _)
    (by rw [publishReads_none h]; exact fun g hg => absurd hg List.not_mem_nil)
  refine ⟨_, publishedIndex x p, hq, ?_, rfl, ?_, rfl, ?_⟩
  · rw [publishWrite, publishStep_last h]; exact fget_fset_self ..
  · rw [publishedIndex, hp]; simp
  · rw [publishWrite, publishStep_last h]; exact getLast?_post ..
/-- A write of a neighbour. -/
theorem publish_near {k : Nat} {l : List Nat} {y : GEntry} (hx : fget s.grove n = some x) (hp : x.pubs = [p])
    (hs : p.seq = x.pub + 1) (hd : p.done = true) (hdel : p.del = false) (hn : p.near = k :: l) (hy : fget x.ents k = some y)
    (hv : y.vers.length < 4) (hr : RoomyGranules s (entryGranules s n x k ++ headerGranules s n x))
    (hc : CleanGranules s x.launch (publishReads s n x p)) :
    ∃ t z v, exec .publish (facing s (.publish n)) = .next t ∧ fget t.grove n = some z ∧ z.pub = x.pub
      ∧ z.pubs = [{ p with near := l }] ∧ z.floor = x.floor
      ∧ (∀ e ∈ t.pending, e ∈ s.pending ∨ e = .sealRequest s.fab.modnum)
      ∧ fget z.ents k = some { y with vers := y.vers ++ [(p.seq, v)] } := by
  have hh : ¬ (!p.del ∧ (p.near.head?.any (fun k => (fget x.ents k).any (holdsOldest s n))) = true) := by
    rintro ⟨-, h2⟩
    rw [hn, List.head?_cons, Option.any_some, hy, Option.any_some, holdsOldest, Bool.and_eq_true, decide_eq_true_iff] at h2
    omega
  have hg : publishGranules s n x p = entryGranules s n x k ++ headerGranules s n x := by
    rw [publishGranules, hn, hdel] <;> rfl
  obtain ⟨q, hq⟩ := exec_publish hx (canPublish_facing hp hs hd hh (by rw [hg]; exact hr) _) hc
  refine ⟨_, { x with
    ents := fset x.ents k { y with vers := y.vers ++ [(p.seq, newList x k p.slot y)] }
    pubs := x.pubs.map (fun q => if q.seq = p.seq then { q with near := l } else q) }, newList x k p.slot y, hq, ?_, rfl, ?_,
    rfl, ?_, fget_fset_self ..⟩
  · rw [publishWrite, publishStep_near hdel hn hy hv]; exact fget_fset_self ..
  · simp [hp]
  · rw [publishWrite, publishStep_near hdel hn hy hv]
    exact (logged_logGranules (atEngine s (.publish n) q) (publishGranules (atEngine s (.publish n) q) n x p)).asks
end

/-! ## The reply of a search (R252) -/

section
variable {s : State} {a : GroveAns} {w : Word} {z : Lane}

/-- The state in which a reply of one result stands in A. -/
def resultPut (s : State) (a : GroveAns) (w : Word) (z : Lane) : State :=
  bufWrite s a.core .a a.roff (leBytes 8 w.toNat ++ leBytes 8 z.toNat)
theorem exec_groveReply (hr : a.res = [(w, z)]) (hf : (Machine.core s a.core).fwd = none) (hc : a.core = a.rto.core) :
    exec .groveReply (facing s (.groveReply a)) =
      .next (replyAt (resultPut (facing s (.groveReply a)) a w z) a.rto (.writes [(a.dst, 1)])) := by
  have hf' : (Machine.core (facing s (.groveReply a)) a.core).fwd = none := hf
  have e : execGroveReply (facing s (.groveReply a)) = .next (replyAt (a.res.zipIdx.foldl (fun u e =>
      bufWrite u (followFwd (facing s (.groveReply a)) a.launch a.core) .a (a.roff + 16 * e.2)
        (leBytes 8 e.1.1.toNat ++ leBytes 8 e.1.2.toNat)) (facing s (.groveReply a)))
      ⟨followFwd (facing s (.groveReply a)) a.launch a.core, a.rto.slot⟩ (.writes [(a.dst, BitVec.ofNat 64 a.res.length)])) := by
    rw [execGroveReply, facing_ev] <;> rfl
  rw [followFwd_stays hf', hr] at e
  refine (show exec .groveReply (facing s (.groveReply a)) = execGroveReply (facing s (.groveReply a)) from rfl).trans
    (e.trans ?_)
  rw [resultPut, hc]
  rfl
end

section
variable {s : State} {a : GroveAns} {w : Word} {z : Lane}

theorem bufA_modThr (s : State) (a : TRef) (f : Thread → Thread) (c : Nat) :
    (Machine.core (modThr s a f) c).bufA = (Machine.core s c).bufA := by
  rw [core_modThr]
  split
  · next h => rw [h]; rfl
  · rfl
theorem bufA_freed (s : State) (a : TRef) (pops pushes : Bool) :
    (Machine.core (freed s a pops pushes) a.core).bufA = (Machine.core s a.core).bufA := by
  rw [core_freed, core_endHolds_self]
/-- The answer of one register reaches a thread, and its core's A is as it was. -/
theorem bufA_replyWrites (s : State) (a : TRef) (len : Nat) (pops : Bool) {d : Reg} (h0 : d ≠ 0) (h31 : d ≠ 31) (x : Word) :
    (Machine.core (replyWrites s a len pops false .dflt [(d, x)]) a.core).bufA = (Machine.core s a.core).bufA := by
  rw [replyWrites_dflt]
  dsimp only [List.foldl_cons, List.foldl_nil]
  rw [bufA_modThr, wrAt, if_neg h0, if_neg h31, bufA_modThr, bufA_freed]
theorem thr_resultPut (s : State) (b : TRef) : thr (resultPut s a w z) b = thr s b := by
  rw [resultPut, bufWrite]
  exact thr_modCore_slots s a.core _ (fun x => VectorWork.setBuf_slots ..) b
theorem bufA_resultPut (s : State) : (Machine.core (resultPut s a w z) a.core).bufA =
    msets (Machine.core s a.core).bufA a.roff (leBytes 8 w.toNat ++ leBytes 8 z.toNat) := by
  rw [resultPut, bufWrite, core_modCore_self]; rfl

theorem mgets_append (m : List Host.Cell) (a j k : Nat) : mgets m a (j + k) = mgets m a j ++ mgets m (a + j) k := by
  have hd := mgets_drop m a (j + k) j
  have ht := mgets_take m a (j + k) j (Nat.le_add_right ..)
  rw [Nat.add_sub_cancel_left] at hd
  rw [← hd, ← ht, List.take_append_drop]
/-- The bytes of two words written one after the other read back as the two words. -/
theorem mgets_two {m : List Host.Cell} (h : Memory.wf m = true) (a : Nat) (x y : List Byte) :
    mgets (msets m a (x ++ y)) a x.length = x ∧ mgets (msets m a (x ++ y)) (a + x.length) y.length = y := by
  have e := mgets_msets h a (x ++ y)
  rw [List.length_append, mgets_append] at e
  exact List.append_inj e (mgets_length ..)
theorem mword_of_mgets {m : List Host.Cell} {a x : Nat} (h : mgets m a 8 = leBytes 8 x) : mword m a 8 = BitVec.ofNat 64 x := by
  rw [mword, h, leNat_leBytes]
  exact BitVec.eq_of_toNat_eq (by rw [BitVec.toNat_ofNat, BitVec.toNat_ofNat]; norm_num)
/-- The part of O42 on the reply of one result. -/
theorem groveReply_result (len : Nat) (q : Option QEntry) (hr : a.res = [(w, z)]) (hf : (Machine.core s a.core).fwd = none)
    (hc : a.core = a.rto.core) (hw : (thr s a.rto).wait = .reply len q false .dflt) (h0 : a.dst ≠ 0) (h31 : a.dst ≠ 31) :
    ∃ t, exec .groveReply (facing s (.groveReply a)) = .next t ∧ (thr t a.rto).wait = .none
      ∧ (thr t a.rto).g = (thr s a.rto).g.set a.dst 1
      ∧ (Memory.wf (Machine.core s a.core).bufA = true → mword (Machine.core t a.core).bufA a.roff 8 = w
        ∧ mword (Machine.core t a.core).bufA (a.roff + 8) 8 = z.setWidth 64) := by
  have hput : ∀ b, thr (resultPut (facing s (.groveReply a)) a w z) b = thr s b := fun b => thr_resultPut _ b
  have hw' : (thr (resultPut (facing s (.groveReply a)) a w z) a.rto).wait = .reply len q false .dflt := by rw [hput, hw]
  refine ⟨_, (exec_groveReply hr hf hc).trans (congrArg Host.Outcome.next (replyAt_writes hw' _)), ?_⟩
  obtain ⟨-, hwait, hg, -, -⟩ := replyWrites_plain (s := resultPut (facing s (.groveReply a)) a w z) (a := a.rto)
    (l := [(a.dst, 1)]) (by simp [h0, h31]) len q.isSome
  refine ⟨hwait, hg.trans (by rw [hput]; rfl), fun hm => ?_⟩
  have hA : (Machine.core (replyWrites (resultPut (facing s (.groveReply a)) a w z) a.rto len q.isSome false .dflt
      [(a.dst, 1)]) a.core).bufA =
        msets (Machine.core s a.core).bufA a.roff (leBytes 8 w.toNat ++ leBytes 8 z.toNat) := by
    rw [hc, bufA_replyWrites _ _ _ _ h0 h31, ← hc, bufA_resultPut]; rfl
  obtain ⟨h1, h2⟩ := mgets_two hm a.roff (leBytes 8 w.toNat) (leBytes 8 z.toNat)
  rw [leBytes_length] at h1 h2
  rw [leBytes_length] at h2
  rw [hA, mword_of_mgets h1, mword_of_mgets h2]
  refine ⟨BitVec.ofNat_toNat .., BitVec.eq_of_toNat_eq ?_⟩
  rw [BitVec.toNat_ofNat, BitVec.toNat_setWidth]
end

section
variable {s : State} {x : GIndex} {n : Nat}

/-- The part of O42 on an accepted `ldnn`. -/
theorem ldnnAccept_search {m : LdnnMsg} (hx : fget s.grove m.index = some x)
    (hc : CleanGranules s x.launch (headerGranules s m.index x)) (hf : (Machine.core s m.rto.core).fwd = none) :
    ((∀ e ∈ queryOf s x m, e / 128 % 256 ≠ 255) → x.floor ≤ ldnnSnap x m → ldnnSnap x m ≤ x.pub →
      CleanGranules s x.launch (entryPointGranules s m.index x (m.ef == 0) m.ep.toNat (ldnnSnap x m)) →
      ∃ t g, exec .ldnnAccept (facing s (.ldnnAccept m)) = .next t
      ∧ t = { facing s (.ldnnAccept m) with pchs := t.pchs, searches := s.searches ++ [g], gNext := s.gNext + 1 }
      ∧ g.id = s.gNext ∧ g.index = m.index ∧ g.snap = ldnnSnap x m ∧ g.k = m.k ∧ g.width = max m.ef m.k
      ∧ (g.exact = true ↔ m.ef = 0) ∧ g.scan = 0 ∧ g.for_ = .ldnn m ∧ (g.exact = true → g.beam = []))
    ∧ ((∀ e ∈ queryOf s x m, e / 128 % 256 ≠ 255) → (ldnnSnap x m < x.floor ∨ x.pub < ldnnSnap x m) →
        Tells s (exec .ldnnAccept (facing s (.ldnnAccept m))) (.ldnnAccept m) m.rto
          (.trap 0x0D (0x0300000000000000 ||| m.snap) []))
    ∧ (∀ i, (∀ k, k < i → (queryOf s x m).getD k 0 / 128 % 256 ≠ 255) → i < x.dim →
        (queryOf s x m).getD i 0 / 128 % 256 = 255 →
        Tells s (exec .ldnnAccept (facing s (.ldnnAccept m))) (.ldnnAccept m) m.rto
          (.trap 0x0D (0x0200000000000000 ||| BitVec.ofNat 64 i) [])) := by
  obtain ⟨p, hp⟩ := exec_ldnnAccept hx hc hf
  rw [hp]
  refine ⟨fun hq h1 h2 he => ?_, fun hq hs => tells_answer (congrArg Host.Outcome.next (ldnnWith_snap hq hs _)),
    fun i hk hi hb => tells_answer (congrArg Host.Outcome.next (ldnnWith_bad hk ?_ hb _))⟩
  · obtain ⟨r, hr⟩ := ldnnWith_starts (e := .ldnnAccept m) hq h1 h2 he p
    rw [hr]
    refine ⟨_, _, rfl, rfl, rfl, rfl, rfl, rfl, rfl, beq_iff_eq, rfl, rfl, fun h => ?_⟩
    dsimp only at h
    rw [h]; rfl
  · rw [queryOf, List.length_map, List.length_range]; exact hi

/-- The part of O42 on an accepted `stv`, `dlv`, `ixver` and `ixsnap`. -/
theorem groveAccepts {m : GroveMsg} (hx : fget s.grove m.index = some x)
    (hc : CleanGranules s x.launch (headerGranules s m.index x)) (hf : (Machine.core s m.rto.core).fwd = none) :
    (badElem x (mgets (Machine.core s m.rto.core).bufA m.off (vecBytes x)) = none →
      (x.used = x.cap → Tells s (exec .stvAccept (facing s (.stvAccept m))) (.stvAccept m) m.rto (.writes [(m.dst, 0)]))
      ∧ (x.used ≠ x.cap → RoomyGranules s (acceptGranules s m.index x x.used) →
        CleanGranules s x.launch (entryPointGranules s m.index x false 0 x.pub) →
        ∃ t y g, exec .stvAccept (facing s (.stvAccept m)) = .next t ∧ fget t.grove m.index = some y ∧ y.used = x.used + 1
        ∧ y.alloc = x.alloc + 1 ∧ y.pub = x.pub
        ∧ fget y.ents x.used =
          some ⟨x.alloc, none, m.payload, mgets (Machine.core s m.rto.core).bufA m.off (vecBytes x), []⟩
        ∧ t.searches = s.searches ++ [g] ∧ g.width = 2 * x.deg ∧ g.snap = x.pub
        ∧ ∀ e ∈ t.pending, e ∈ s.pending ∨ e = .sealRequest s.fab.modnum))
    ∧ ((∀ e ∈ x.ents, ¬ (BitVec.ofNat 64 e.2.seq = m.payload ∧ e.2.seq ≤ x.pub ∧ e.2.dseq = none)) →
        Tells s (exec .dlvAccept (facing s (.dlvAccept m))) (.dlvAccept m) m.rto (.writes [(m.dst, 0)]))
    ∧ (∀ e k, x.ents = [(k, e)] → BitVec.ofNat 64 e.seq = m.payload → e.seq ≤ x.pub → e.dseq = none →
        CleanGranules s x.launch (entryGranules s m.index x k) → RoomyGranules s (acceptGranules s m.index x k) →
        ∃ t y, exec .dlvAccept (facing s (.dlvAccept m)) = .next t
        ∧ fget t.grove m.index = some y ∧ fget y.ents k = some { e with dseq := some x.alloc } ∧ y.alloc = x.alloc + 1
        ∧ ∀ e ∈ t.pending, e ∈ s.pending ∨ e = .sealRequest s.fab.modnum) := by
  obtain ⟨p, hp⟩ := exec_stvAccept hx hc hf
  obtain ⟨q, hq⟩ := exec_dlvAccept hx hc
  rw [hp, hq]
  refine ⟨fun hb => ⟨fun hu => tells_answer (congrArg Host.Outcome.next (stvWith_full hb hu _)), fun hu hr he => ?_⟩,
    fun h => tells_answer (congrArg Host.Outcome.next (dlvWith_none h _)), fun e k h h1 h2 h3 he hr => ?_⟩
  · obtain ⟨r, hr⟩ := stvWith_fills (e := .stvAccept m) hb hu hr he p
    rw [hr]
    obtain ⟨g, hg, hs, hw, hn, hk⟩ := stvFill_spec (atEngine s (.stvAccept m) r) m x
      (mgets (Machine.core s m.rto.core).bufA m.off (vecBytes x))
    exact ⟨_, _, g, rfl, hg, rfl, rfl, rfl, fget_fset_self .., hs, hw, hn, hk⟩
  · obtain ⟨t, ht, hg, hk⟩ := dlvWith_deletes (e := .dlvAccept m) h h1 h2 h3 he hr q
    exact ⟨t, _, congrArg Host.Outcome.next ht, hg, fget_fset_self .., rfl, hk⟩

/-- The part of O42 on the end of a search. -/
theorem search_ends {g : GSearch} {m : LdnnMsg} (hx : fget s.grove g.index = some x) (hs : s.searches = [g])
    (he : g.exact = false) (hcd : g.cand = []) (hf : g.for_ = .ldnn m) (hso : standsOut s g = false) :
    ∃ t a, exec .candidateExpansion (facing s (.candidateExpansion g.id)) = .next t ∧ t.searches = []
      ∧ t.pending = s.pending ++ [.groveReply a] ∧ a.rto = m.rto ∧ a.dst = m.dst ∧ a.roff = m.roff ∧ a.res.length ≤ g.k
      ∧ ∀ r ∈ a.res, ∃ h ∈ g.beam, ∃ e, fget x.ents h.slot = some e ∧ r = (e.payload, h.dist) ∧ e.seq ≤ g.snap
        ∧ ∀ z, e.dseq = some z → g.snap < z := by
  have hend : endSearch (facing s (.candidateExpansion g.id)) x g =
      post (dropSearch (facing s (.candidateExpansion g.id)) g.id)
        (.groveReply ⟨m.rto, m.dst, m.rto.core, some x.launch, m.roff, resultsOf x g⟩) := by rw [endSearch, hf]
  refine ⟨_, ⟨m.rto, m.dst, m.rto.core, some x.launch, m.roff, resultsOf x g⟩, (exec_candidateExpansion hx hs he hcd hso).trans
    (congrArg Host.Outcome.next hend), ?_, rfl, rfl, rfl, rfl, ?_, fun r hr => mem_resultsOf hr⟩
  · show s.searches.filter _ = []
    rw [hs]; simp
  · rw [resultsOf, List.length_map]
    exact List.length_take_le ..
end

/-- Settles O42: the instructions by the conditions on their operands, the engine's steps by what stands at the index. -/
theorem groveWork : Obligations.GroveWork := by
  unfold Obligations.GroveWork
  refine ⟨?_, ?_⟩
  · intro s d b c w inum none_ qoff roff k voff
    refine ⟨fun hq => ldnn_instruction hq rfl, fun hq => ⟨fun h => stv_gives hq (stvBody_reserved h),
      fun h1 h2 ha => stv_gives hq (stvBody_misaligned h1 h2 ha), fun h => dlv_gives hq (indexI_reserved h ..),
      fun hn => ⟨fun h1 h2 ha => stv_gives hq ((stvBody_index h1 h2 ha).trans (withIndex_none hn _)),
        fun h => dlv_gives hq (indexI_none h hn ..)⟩, fun i x hx => ⟨fun h1 h2 ha ho => ?_, fun h1 h2 ha ho => ?_,
        fun h => dlv_gives hq (indexI_some h hx ..)⟩⟩, fun hq => ⟨fun h => ⟨ixver_gives hq (indexI_reserved h ..),
      ixsnap_gives hq (indexI_reserved h ..)⟩, fun h hn => ⟨ixver_gives hq (indexI_none h hn ..),
      ixsnap_gives hq (indexI_none h hn ..)⟩, fun i x h hx => ⟨ixver_gives hq (indexI_some h hx ..),
      ixsnap_gives hq (indexI_some h hx ..)⟩⟩⟩
    · exact stv_gives hq ((stvBody_index h1 h2 ha).trans ((withIndex_some hx _).trans (if_pos ho)))
    · exact stv_gives hq ((stvBody_index h1 h2 ha).trans ((withIndex_some hx _).trans (if_neg (not_lt.2 ho))))
  · intro s x n hx clean roomy tells waits hc
    refine ⟨?_, ?_, ?_, fun p hp hs hd => ⟨fun h hr => publish_last hx hp hs hd h hr,
      fun k l e hdel hn hy hv hr hcl => publish_near hx hp hs hd hdel hn hy hv hr hcl⟩,
      fun a w z len q hr hf ha hw h0 h31 => groveReply_result len q hr hf ha hw h0 h31⟩
    · rintro m rfl hf
      exact ldnnAccept_search hx hc hf
    · rintro m rfl hf
      obtain ⟨h1, h2, h3⟩ := groveAccepts hx hc hf
      exact ⟨h1, h2, h3, exec_ixverAccept hx hc, exec_ixsnapAccept hx hc⟩
    · rintro g m hs rfl he hcd hf hso
      exact search_ends hx hs he hcd hf hso

end Sys2Proof.Proofs.GroveEngines
end

section
/-!
PROOFS. WHAT STATEMENT O35 RESTS ON. Rounding into a format over the rationals, the approximations on the FP32 grid,
reductions, conversion, scale words, packed mantissas and sparsity; the proof of statement O35.
-/
namespace Sys2Proof.Proofs.VectorNumbers
open Sys2Proof Sys2Proof.Machine FetchingAndIssuing VectorWork

/-! ## Whole numbers (R115) -/

/-- The sign of a value, as a factor. -/
def sgn (neg : Bool) : ℚ := if neg then -1 else 1
theorem abs_sgn (neg : Bool) : |sgn neg| = 1 := by cases neg <;> simp [sgn]
theorem sgn_sq (neg : Bool) : sgn neg * sgn neg = 1 := by cases neg <;> simp [sgn]
/-- A whole number with its sign. -/
def signed (neg : Bool) (n : Nat) : Int := if neg then -(n : Int) else n
theorem cast_signed (neg : Bool) (n : Nat) : (signed neg n : ℚ) = sgn neg * n := by cases neg <;> simp [signed, sgn]
theorem ratOf_fin (neg : Bool) (m : Nat) (e : Int) : ratOf (.fin neg m e) = sgn neg * (m * 2 ^ e) := by
  rw [ratOf, ← mul_assoc]; rfl

/-- How the magnitude `n` of a rounded value lies to the magnitude `x` that was rounded. -/
def RoundsAbs (rm : Rnd) (neg : Bool) (x : ℚ) (n : Nat) : Prop :=
  match rm with
  | .rne => |x - n| ≤ 1 / 2 ∧ (|x - n| = 1 / 2 → n % 2 = 0)
  | .rtz => (n : ℚ) ≤ x ∧ x < n + 1
  | .rdn => if neg then x ≤ n ∧ (n : ℚ) < x + 1 else (n : ℚ) ≤ x ∧ x < n + 1
  | .rup => if neg then (n : ℚ) ≤ x ∧ x < n + 1 else x ≤ n ∧ (n : ℚ) < x + 1

theorem roundDiv_roundsAbs (rm : Rnd) (neg : Bool) (n : Nat) {d : Nat} (hd : 0 < d) :
    RoundsAbs rm neg ((n : ℚ) / d) (roundDiv rm neg n d) := by
  have hd' : (0 : ℚ) < d := by exact_mod_cast hd
  have hx : (n : ℚ) / d = (n / d : Nat) + ((n % d : Nat) : ℚ) / d := by
    rw [div_eq_iff hd'.ne', add_mul, div_mul_cancel₀ _ hd'.ne']
    exact_mod_cast (Nat.div_add_mod' n d).symm
  have hr : n % d < d := Nat.mod_lt n hd
  have h0 : (0 : ℚ) ≤ ((n % d : Nat) : ℚ) / d := by positivity
  have h1 : ((n % d : Nat) : ℚ) / d < 1 := by rw [div_lt_one hd']; exact_mod_cast hr
  have hz : n % d = 0 → ((n % d : Nat) : ℚ) / d = 0 := fun h => by rw [h]; simp
  have hnz : n % d ≠ 0 → 0 < ((n % d : Nat) : ℚ) / d := fun h =>
    div_pos (by exact_mod_cast Nat.pos_of_ne_zero h) hd'
  have hlt : d < 2 * (n % d) ↔ 1 / 2 < ((n % d : Nat) : ℚ) / d := by
    rw [lt_div_iff₀ hd', div_mul_eq_mul_div, one_mul, div_lt_iff₀ two_pos]
    constructor <;> intro h
    · rw [mul_comm]; exact_mod_cast h
    · rw [mul_comm] at h; exact_mod_cast h
  have heq : 2 * (n % d) = d ↔ ((n % d : Nat) : ℚ) / d = 1 / 2 := by
    rw [div_eq_iff hd'.ne', div_mul_eq_mul_div, one_mul, eq_div_iff two_ne_zero]
    constructor <;> intro h
    · rw [mul_comm]; exact_mod_cast h
    · rw [mul_comm] at h; exact_mod_cast h
  rw [hx]
  generalize ((n % d : Nat) : ℚ) / d = t at h0 h1 hz hnz hlt heq
  unfold roundDiv RoundsAbs
  cases rm with
  | rne =>
    dsimp only
    split
    · next h =>
      push_cast
      have ha : |((n / d : Nat) : ℚ) + t - ((n / d : Nat) + 1)| = 1 - t := by
        rw [show ((n / d : Nat) : ℚ) + t - ((n / d : Nat) + 1) = -(1 - t) by ring, abs_neg, abs_of_nonneg (by linarith)]
      rw [ha]
      rcases h with h | ⟨h, hq⟩
      · have := hlt.1 h
        exact ⟨by linarith, fun h' => absurd h' (by linarith)⟩
      · have := heq.1 h
        exact ⟨by linarith, fun _ => by omega⟩
    · next h =>
      have ha : |((n / d : Nat) : ℚ) + t - (n / d : Nat)| = t := by rw [add_sub_cancel_left, abs_of_nonneg h0]
      rw [ha]
      rw [not_or, not_and, hlt, heq] at h
      exact ⟨by linarith [h.1], fun h' => by have := h.2 h'; omega⟩
  | rtz => exact ⟨by linarith, by linarith⟩
  | rdn =>
    cases neg with
    | false => exact ⟨by simp [h0], by simp [h1]⟩
    | true =>
      by_cases h : n % d = 0
      · simp [h, hz h]
      · simp only [true_and, ne_eq, h, not_false_eq_true, if_true]
        have := hnz h
        push_cast
        exact ⟨by linarith, by linarith⟩
  | rup =>
    cases neg with
    | true => exact ⟨by simp [h0], by simp [h1]⟩
    | false =>
      by_cases h : n % d = 0
      · simp [h, hz h]
      · simp only [Bool.not_false, true_and, ne_eq, h, not_false_eq_true, if_true, Bool.false_eq_true, if_false]
        have := hnz h
        push_cast
        exact ⟨by linarith, by linarith⟩
theorem roundsAbs_natCast (rm : Rnd) (neg : Bool) (n : Nat) : RoundsAbs rm neg (n : ℚ) n := by
  cases rm <;> cases neg <;> simp [RoundsAbs]
theorem zpow_toNat {e : Int} (h : 0 ≤ e) : (2 : ℚ) ^ e = 2 ^ e.toNat := by
  conv_lhs => rw [← Int.toNat_of_nonneg h]
  exact zpow_natCast ..
theorem zpow_neg_toNat {e : Int} (h : ¬ 0 ≤ e) : (2 : ℚ) ^ e = 1 / 2 ^ (-e).toNat := by
  rw [← zpow_toNat (by omega), zpow_neg, one_div, inv_inv]
theorem roundInt_roundsAbs (rm : Rnd) (neg : Bool) (m : Nat) (e : Int) :
    RoundsAbs rm neg ((m : ℚ) * 2 ^ e) (roundInt rm neg m e) := by
  unfold roundInt
  split
  · next h =>
    rw [zpow_toNat h]
    exact_mod_cast roundsAbs_natCast rm neg (m * 2 ^ e.toNat)
  · next h =>
    rw [zpow_neg_toNat h, mul_one_div]
    exact_mod_cast roundDiv_roundsAbs rm neg m (Nat.two_pow_pos _)
/-- A rounded magnitude, with its sign, is what the mode names. -/
theorem RoundsAbs.roundsTo {rm : Rnd} {neg : Bool} {x : ℚ} {n : Nat} (h : RoundsAbs rm neg x n) (h0 : 0 ≤ x) :
    RoundsTo rm (sgn neg * x) (signed neg n) := by
  have hn : (0 : ℚ) ≤ n := Nat.cast_nonneg _
  unfold RoundsTo
  cases rm with
  | rne =>
    dsimp only
    rw [cast_signed, ← mul_sub, abs_mul, abs_sgn, one_mul]
    refine ⟨h.1, fun e => ?_⟩
    have := h.2 e
    cases neg <;> simp only [signed] <;> omega
  | rtz =>
    dsimp only
    rw [cast_signed, abs_mul, abs_mul, abs_sgn, one_mul, one_mul, abs_of_nonneg hn, abs_of_nonneg h0,
      show sgn neg * x * (sgn neg * n) = sgn neg * sgn neg * (x * n) by ring, sgn_sq, one_mul]
    exact ⟨h.1, h.2, mul_nonneg h0 hn⟩
  | rdn =>
    dsimp only
    rw [cast_signed]
    cases neg with
    | false => exact ⟨by simpa [sgn] using h.1, by simpa [sgn] using h.2⟩
    | true => simp only [RoundsAbs, if_true] at h; simp only [sgn, if_true]; exact ⟨by linarith [h.1], by linarith [h.2]⟩
  | rup =>
    dsimp only
    rw [cast_signed]
    cases neg with
    | false => exact ⟨by simpa [sgn] using h.1, by simpa [sgn] using h.2⟩
    | true => simp only [RoundsAbs, if_true] at h; simp only [sgn, if_true]; exact ⟨by linarith [h.1], by linarith [h.2]⟩
theorem roundInt_roundsTo (rm : Rnd) (neg : Bool) (m : Nat) (e : Int) :
    RoundsTo rm (ratOf (.fin neg m e)) (signed neg (roundInt rm neg m e)) := by
  rw [ratOf_fin]
  exact (roundInt_roundsAbs rm neg m e).roundsTo (by positivity)

/-! ## The grid of a format (R112, R115) -/

section
variable {rm : Rnd} {neg : Bool} {x : ℚ} {n : Nat}
theorem RoundsAbs.near (h : RoundsAbs rm neg x n) : (n : ℚ) < x + 1 ∧ x < n + 1 := by
  cases rm with
  | rne => have := abs_le.1 h.1; exact ⟨by linarith, by linarith⟩
  | rtz => exact ⟨by linarith [h.1], h.2⟩
  | rdn => cases neg <;> simp only [RoundsAbs, if_true, Bool.false_eq_true, if_false] at h <;>
             exact ⟨by linarith [h.1, h.2], by linarith [h.1, h.2]⟩
  | rup => cases neg <;> simp only [RoundsAbs, if_true, Bool.false_eq_true, if_false] at h <;>
             exact ⟨by linarith [h.1, h.2], by linarith [h.1, h.2]⟩
/-- Rounding keeps the side of a whole number on which a magnitude lies. -/
theorem RoundsAbs.le_of_le (h : RoundsAbs rm neg x n) {j : Nat} (hj : (j : ℚ) ≤ x) : j ≤ n := by
  have h' : (j : ℚ) < (n + 1 : Nat) := by push_cast; linarith [h.near.2]
  have := Nat.cast_lt.1 h'
  omega
theorem RoundsAbs.ge_of_ge (h : RoundsAbs rm neg x n) {j : Nat} (hj : x ≤ j) : n ≤ j := by
  have h' : (n : ℚ) < (j + 1 : Nat) := by push_cast; linarith [h.near.1]
  have := Nat.cast_lt.1 h'
  omega
end

/-- A format with an exponent of two bits and a fraction of one at least. -/
structure Proper (f : Fmt) : Prop where
  bias : 2 ^ f.eb = 2 * (f.bias + 1)
  pos : 1 ≤ f.bias
  frac : 1 ≤ f.fb
theorem proper_of_mem {f : Fmt} (h : f ∈ [fp32, bf16, fp16]) : Proper f := by
  simp only [List.mem_cons, List.not_mem_nil, or_false] at h
  rcases h with rfl | rfl | rfl <;> exact ⟨by decide, by decide, by decide⟩

section
variable {f : Fmt} {neg : Bool} {b : Nat}
/-- The exponent of the grid of the subnormal values. -/
def gridMin (f : Fmt) : Int := f.emin - (f.fb : Int)
theorem half_eq (f : Fmt) : f.half = 2 ^ f.eb * 2 ^ f.fb := by rw [Fmt.half, pow_add]
theorem decodeF_signed (h : b < f.half) : decodeF f (signBits f neg + b) =
    if b / 2 ^ f.fb = 2 ^ f.eb - 1 then (if b % 2 ^ f.fb = 0 then .inf neg else .nan)
    else if b / 2 ^ f.fb = 0 then .fin neg (b % 2 ^ f.fb) (gridMin f)
    else .fin neg (2 ^ f.fb + b % 2 ^ f.fb) (((b / 2 ^ f.fb : Nat) : Int) - f.bias - f.fb) := by
  have hp : 0 < 2 ^ f.fb := Nat.two_pow_pos _
  have hs : ((signBits f neg + b) / f.half % 2 == 1) = neg := by
    cases neg with
    | false => rw [signBits, if_neg (by decide), Nat.zero_add, Nat.div_eq_of_lt h]; rfl
    | true =>
      rw [signBits, if_pos rfl, Nat.add_div_left _ (Nat.zero_lt_of_lt h), Nat.div_eq_of_lt h]; rfl
  have hlt : b / 2 ^ f.fb < 2 ^ f.eb := by rw [Nat.div_lt_iff_lt_mul hp, ← half_eq]; exact h
  have he : (signBits f neg + b) / 2 ^ f.fb % 2 ^ f.eb = b / 2 ^ f.fb := by
    cases neg with
    | false => rw [signBits, if_neg (by decide), Nat.zero_add, Nat.mod_eq_of_lt hlt]
    | true =>
      rw [signBits, if_pos rfl, half_eq, Nat.add_comm, Nat.add_mul_div_right _ _ hp, Nat.add_mod_right, Nat.mod_eq_of_lt hlt]
  have hm : (signBits f neg + b) % 2 ^ f.fb = b % 2 ^ f.fb := by
    cases neg with
    | false => rw [signBits, if_neg (by decide), Nat.zero_add]
    | true => rw [signBits, if_pos rfl, half_eq, Nat.add_comm, Nat.add_mul_mod_self_right]
  rw [decodeF]
  rw [hs, he, hm]
  rfl
theorem emin_bias (f : Fmt) : gridMin f = 1 - (f.bias : Int) - f.fb := rfl
/-- The bits that stand for `n` on grid `k`. -/
theorem decodeF_grid {k n : Nat} (hk : k = 0 ∨ 2 ^ f.fb ≤ n) (hn : n ≤ 2 ^ (f.fb + 1))
    (hb : k * 2 ^ f.fb + n < (2 ^ f.eb - 1) * 2 ^ f.fb) :
    ∃ j p, decodeF f (signBits f neg + (k * 2 ^ f.fb + n)) = .fin neg j p
      ∧ (j : ℚ) * 2 ^ p = n * 2 ^ (gridMin f + (k : Int)) := by
  have hp : 0 < 2 ^ f.fb := Nat.two_pow_pos _
  rw [pow_succ] at hn
  have hhalf : k * 2 ^ f.fb + n < f.half :=
    lt_of_lt_of_le hb (by rw [half_eq]; exact Nat.mul_le_mul_right _ (Nat.sub_le ..))
  have hdiv : (k * 2 ^ f.fb + n) / 2 ^ f.fb = k + n / 2 ^ f.fb := by
    rw [Nat.add_comm, Nat.add_mul_div_right _ _ hp, Nat.add_comm]
  have hmod : (k * 2 ^ f.fb + n) % 2 ^ f.fb = n % 2 ^ f.fb := by rw [Nat.add_comm, Nat.add_mul_mod_self_right]
  have hlt : k + n / 2 ^ f.fb < 2 ^ f.eb - 1 := by rw [← hdiv, Nat.div_lt_iff_lt_mul hp]; exact hb
  rw [decodeF_signed hhalf, hdiv, hmod, if_neg (by omega)]
  by_cases h1 : n < 2 ^ f.fb
  · have hk0 : k = 0 := hk.resolve_right (by omega)
    subst hk0
    rw [Nat.div_eq_of_lt h1, Nat.mod_eq_of_lt h1, if_pos rfl]
    exact ⟨_, _, rfl, by simp⟩
  · have hne : ¬ k + n / 2 ^ f.fb = 0 := by
      have := Nat.div_pos (not_lt.1 h1) hp
      omega
    rw [if_neg hne]
    refine ⟨_, _, rfl, ?_⟩
    by_cases h2 : n < 2 ^ f.fb * 2
    · have hq : n / 2 ^ f.fb = 1 := Nat.div_eq_of_lt_le (by omega) (by omega)
      have hr : 2 ^ f.fb + n % 2 ^ f.fb = n := by rw [Nat.mod_eq_sub_mod (by omega), Nat.mod_eq_of_lt (by omega)]; omega
      rw [hr, hq, emin_bias]
      congr 2
      push_cast
      ring
    · have hn' : n = 2 ^ f.fb * 2 := by omega
      subst hn'
      rw [Nat.mul_div_cancel_left _ hp, Nat.mul_mod_right, Nat.add_zero, emin_bias]
      rw [show ((k + 2 : Nat) : Int) - f.bias - f.fb = 1 - (f.bias : Int) - f.fb + k + 1 by push_cast; ring,
        zpow_add_one₀ two_ne_zero]
      push_cast
      ring
/-- Every finite value of a format is a whole number of its grid. -/
theorem decodeF_fin {y : Nat} {j : Nat} {p : Int} (h : decodeF f y = .fin neg j p) : j < 2 ^ (f.fb + 1) ∧ gridMin f ≤ p := by
  have hp : 0 < 2 ^ f.fb := Nat.two_pow_pos _
  have hm := Nat.mod_lt y hp
  have hg : gridMin f = 1 - (f.bias : Int) - f.fb := rfl
  rw [pow_succ]
  rw [decodeF] at h
  split at h
  · split at h <;> cases h
  · split at h
    · obtain ⟨-, rfl, rfl⟩ := Val.fin.inj h
      exact ⟨by omega, le_refl _⟩
    · obtain ⟨-, rfl, rfl⟩ := Val.fin.inj h
      refine ⟨by omega, by rw [hg]; omega⟩
end

/-! ## Rounding into a format (R115, R116) -/

section
variable {f : Fmt} {rm : Rnd} {sat neg : Bool} {m : Nat} {e : Int}

/-- What `roundF` gives of `n` on grid `k`. -/
def packed (f : Fmt) (rm : Rnd) (sat neg : Bool) (k n : Nat) : Nat × Bool :=
  if (2 ^ f.eb - 1) * 2 ^ f.fb ≤ k * 2 ^ f.fb + n
  then if sat then (maxBits f neg, true) else (overflowBits f rm neg, false)
  else (signBits f neg + (k * 2 ^ f.fb + n), false)
/-- The grid `k` and the whole number `n` on it that a magnitude `x` is rounded to. -/
structure OnGridOf (f : Fmt) (rm : Rnd) (neg : Bool) (x : ℚ) (k n : Nat) : Prop where
  rounds : RoundsAbs rm neg (x / 2 ^ (gridMin f + (k : Int))) n
  top : k = 0 ∨ (2 : ℚ) ^ (f.fb + (gridMin f + (k : Int))) ≤ x
  below : x < (2 : ℚ) ^ (f.fb + 1 + (gridMin f + (k : Int)))
theorem log2_bounds (hm : m ≠ 0) (e : Int) :
    (2 : ℚ) ^ (e + (Nat.log2 m : Int)) ≤ m * 2 ^ e ∧ (m : ℚ) * 2 ^ e < 2 ^ (e + (Nat.log2 m : Int) + 1) := by
  have h1 : ((2 ^ Nat.log2 m : Nat) : ℚ) ≤ m := Nat.cast_le.2 (Nat.log2_self_le hm)
  have h2 : (m : ℚ) < ((2 ^ (Nat.log2 m + 1) : Nat) : ℚ) := Nat.cast_lt.2 Nat.lt_log2_self
  have hpos : (0 : ℚ) < 2 ^ e := by positivity
  push_cast at h1 h2
  constructor
  · rw [zpow_add₀ two_ne_zero, zpow_natCast, mul_comm]
    exact mul_le_mul_of_nonneg_right h1 hpos.le
  · rw [add_assoc, zpow_add₀ two_ne_zero, mul_comm ((2 : ℚ) ^ e)]
    refine mul_lt_mul_of_pos_right ?_ hpos
    exact_mod_cast h2
theorem roundF_fin (hm : m ≠ 0) : ∃ k n, OnGridOf f rm neg ((m : ℚ) * 2 ^ e) k n
    ∧ roundF f rm sat (.fin neg m e) = packed f rm sat neg k n := by
  obtain ⟨h1, h2⟩ := log2_bounds hm e
  have hg : f.emin = gridMin f + f.fb := by rw [gridMin]; ring
  refine ⟨(max (e + (Nat.log2 m : Int)) f.emin - (f.fb : Int) - gridMin f).toNat,
    roundInt rm neg m (e - (max (e + (Nat.log2 m : Int)) f.emin - (f.fb : Int))), ⟨?_, ?_, ?_⟩, ?_⟩
  · rw [show gridMin f + (((max (e + (Nat.log2 m : Int)) f.emin - (f.fb : Int) - gridMin f).toNat : Nat) : Int) =
      max (e + (Nat.log2 m : Int)) f.emin - (f.fb : Int) by omega]
    rw [mul_div_assoc, ← zpow_sub₀ two_ne_zero]
    exact roundInt_roundsAbs ..
  · by_cases ht : e + (Nat.log2 m : Int) ≤ f.emin
    · left; omega
    · right
      rw [show (f.fb : Int) + (gridMin f + (((max (e + (Nat.log2 m : Int)) f.emin - (f.fb : Int) - gridMin f).toNat : Nat) : Int))
        = e + (Nat.log2 m : Int) by omega]
      exact h1
  · refine lt_of_lt_of_le h2 (zpow_le_zpow_right₀ one_le_two ?_)
    omega
  · rw [roundF, if_neg hm]
    rfl
theorem OnGridOf.le {x : ℚ} {k n : Nat} (h : OnGridOf f rm neg x k n) : n ≤ 2 ^ (f.fb + 1) := by
  refine h.rounds.ge_of_ge ?_
  rw [div_le_iff₀ (by positivity)]
  refine h.below.le.trans (le_of_eq ?_)
  rw [zpow_add₀ two_ne_zero]
  congr 1
  push_cast
  exact_mod_cast zpow_natCast (2 : ℚ) (f.fb + 1)
theorem OnGridOf.ge {x : ℚ} {k n : Nat} (h : OnGridOf f rm neg x k n) : k = 0 ∨ 2 ^ f.fb ≤ n := by
  refine h.top.imp_right fun ht => h.rounds.le_of_le ?_
  rw [le_div_iff₀ (by positivity)]
  refine le_trans (le_of_eq ?_) ht
  rw [zpow_add₀ two_ne_zero (f.fb : Int), zpow_natCast]
  push_cast
  rfl
end

/-! ## Overflow (R116) -/

section
variable {f : Fmt} {rm : Rnd} {sat neg : Bool} {x : ℚ} {k n : Nat}

/-- The least magnitude past every finite value of a format, and the largest finite one. -/
def topOf (f : Fmt) : ℚ := 2 ^ (f.bias + 1)
def bigOf (f : Fmt) : ℚ := (2 * 2 ^ f.fb - 1) * 2 ^ ((f.bias : Int) - f.fb)
theorem maxBits_eq (hf : Proper f) (neg : Bool) :
    maxBits f neg = signBits f neg + ((2 * f.bias - 1) * 2 ^ f.fb + (2 ^ (f.fb + 1) - 1)) := by
  have hp : 0 < 2 ^ f.fb := Nat.two_pow_pos _
  have h1 : (2 ^ f.eb - 1) * 2 ^ f.fb = (2 * f.bias - 1) * 2 ^ f.fb + 2 * 2 ^ f.fb := by
    rw [hf.bias, ← Nat.add_mul]
    congr 1
    have := hf.pos
    omega
  rw [maxBits, infBits, h1, pow_succ]
  omega
theorem largest_lt (hf : Proper f) : (2 * f.bias - 1) * 2 ^ f.fb + (2 ^ (f.fb + 1) - 1) < (2 ^ f.eb - 1) * 2 ^ f.fb := by
  have hp : 0 < 2 ^ f.fb := Nat.two_pow_pos _
  have h1 : (2 ^ f.eb - 1) * 2 ^ f.fb = (2 * f.bias - 1) * 2 ^ f.fb + 2 * 2 ^ f.fb := by
    rw [hf.bias, ← Nat.add_mul]
    congr 1
    have := hf.pos
    omega
  rw [h1, pow_succ]
  omega
theorem lastGrid (hf : Proper f) : gridMin f + ((2 * f.bias - 1 : Nat) : Int) = (f.bias : Int) - f.fb := by
  have := hf.pos
  rw [gridMin, Fmt.emin]
  omega
theorem ratOf_maxBits (hf : Proper f) : ratOf (decodeF f (maxBits f false)) = bigOf f := by
  have hp : 1 ≤ 2 ^ f.fb := Nat.one_le_two_pow
  obtain ⟨j, p, h, hv⟩ := decodeF_grid (neg := false) (k := 2 * f.bias - 1) (n := 2 ^ (f.fb + 1) - 1)
    (.inr (by rw [pow_succ]; omega)) (Nat.sub_le ..) (largest_lt hf)
  rw [maxBits_eq hf, h, ratOf_fin, sgn, if_neg (by decide), one_mul, hv, lastGrid hf, bigOf,
    Nat.cast_sub (by rw [pow_succ]; omega), pow_succ]
  push_cast
  ring
theorem topOf_eq (f : Fmt) : topOf f = 2 * 2 ^ f.fb * 2 ^ ((f.bias : Int) - f.fb) := by
  have h : (2 : ℚ) * 2 ^ f.fb * 2 ^ ((f.bias : Int) - f.fb) = 2 ^ (((f.bias + 1 : Nat) : Int)) := by
    rw [show ((f.bias + 1 : Nat) : Int) = 1 + (f.fb : Int) + ((f.bias : Int) - f.fb) by push_cast; ring,
      zpow_add₀ two_ne_zero, zpow_add₀ two_ne_zero, zpow_one, zpow_natCast]
  rw [h, zpow_natCast, topOf]
theorem bigOf_lt (f : Fmt) : bigOf f < topOf f := by
  have : (0 : ℚ) < 2 ^ ((f.bias : Int) - f.fb) := by positivity
  rw [topOf_eq, bigOf]
  linarith
theorem le_bigOf (f : Fmt) : (2 : ℚ) ^ (f.bias : Int) ≤ bigOf f := by
  have h1 : (1 : ℚ) ≤ 2 ^ f.fb := one_le_pow₀ one_le_two
  have h2 : (0 : ℚ) < 2 ^ ((f.bias : Int) - f.fb) := by positivity
  have h3 : (2 : ℚ) ^ (f.bias : Int) = 2 ^ f.fb * 2 ^ ((f.bias : Int) - f.fb) := by
    rw [← zpow_natCast (2 : ℚ) f.fb, ← zpow_add₀ two_ne_zero]; congr 1; ring
  rw [h3, bigOf]
  exact mul_le_mul_of_nonneg_right (by linarith) h2.le
/-- The overflow of a magnitude. -/
def OverAbs (f : Fmt) (rm : Rnd) (neg : Bool) (x : ℚ) : Prop :=
  match rm with
  | .rne => topOf f - (topOf f - bigOf f) / 2 ≤ x
  | .rtz => topOf f ≤ x
  | .rdn => if neg then bigOf f < x else topOf f ≤ x
  | .rup => if neg then topOf f ≤ x else bigOf f < x
theorem overflows_iff (hf : Proper f) (h0 : 0 ≤ x) : Overflows f rm (sgn neg * x) ↔ OverAbs f rm neg x := by
  have ht : (0 : ℚ) < topOf f := by rw [topOf]; positivity
  have hb : (0 : ℚ) < bigOf f := lt_of_lt_of_le (by positivity) (le_bigOf f)
  unfold Overflows OverAbs
  rw [ratOf_maxBits hf, abs_mul, abs_sgn, one_mul, abs_of_nonneg h0]
  change (match rm with
    | .rne => topOf f - (topOf f - bigOf f) / 2 ≤ x
    | .rtz => topOf f ≤ x
    | .rdn => topOf f ≤ sgn neg * x ∨ sgn neg * x < -bigOf f
    | .rup => bigOf f < sgn neg * x ∨ sgn neg * x ≤ -topOf f) ↔ _
  cases rm with
  | rne => rfl
  | rtz => rfl
  | rdn =>
    cases neg <;> simp only [sgn, if_true, Bool.false_eq_true, if_false, one_mul, neg_one_mul]
    · exact or_iff_left (by linarith)
    · rw [or_iff_right (by linarith), neg_lt_neg_iff]
  | rup =>
    cases neg <;> simp only [sgn, if_true, Bool.false_eq_true, if_false, one_mul, neg_one_mul]
    · exact or_iff_left (by linarith)
    · rw [or_iff_right (by linarith), neg_le_neg_iff]
theorem overAbs_of_top (h : topOf f ≤ x) : OverAbs f rm neg x := by
  have := bigOf_lt f
  unfold OverAbs
  cases rm with
  | rne => dsimp only; linarith
  | rtz => exact h
  | rdn => cases neg <;> simp only [if_true, Bool.false_eq_true, if_false] <;> linarith
  | rup => cases neg <;> simp only [if_true, Bool.false_eq_true, if_false] <;> linarith
theorem not_overAbs (h : x ≤ bigOf f) : ¬ OverAbs f rm neg x := by
  have := bigOf_lt f
  unfold OverAbs
  cases rm with
  | rne => dsimp only; linarith
  | rtz => dsimp only; linarith
  | rdn => cases neg <;> simp only [if_true, Bool.false_eq_true, if_false] <;> linarith
  | rup => cases neg <;> simp only [if_true, Bool.false_eq_true, if_false] <;> linarith
/-- On the last grid a magnitude overflows just where it is rounded up past that grid. -/
theorem overAbs_last (h : RoundsAbs rm neg (x / 2 ^ ((f.bias : Int) - f.fb)) n) (hx : x < topOf f) :
    2 * 2 ^ f.fb ≤ n ↔ OverAbs f rm neg x := by
  have hP : (0 : ℚ) < 2 ^ ((f.bias : Int) - f.fb) := by positivity
  have htop := topOf_eq f
  have hbig : bigOf f = (2 * 2 ^ f.fb - 1) * 2 ^ ((f.bias : Int) - f.fb) := rfl
  generalize hX : x / 2 ^ ((f.bias : Int) - f.fb) = X at h
  rw [div_eq_iff hP.ne'] at hX
  generalize (2 : ℚ) ^ ((f.bias : Int) - f.fb) = P at hP htop hbig hX
  have hXlt : X < 2 * 2 ^ f.fb := by
    rw [htop, hX] at hx
    exact lt_of_mul_lt_mul_right hx hP.le
  have hcast : 2 * 2 ^ f.fb ≤ n ↔ (2 * 2 ^ f.fb : ℚ) ≤ n := by exact_mod_cast Iff.rfl
  have hbigx : bigOf f < x ↔ (2 * 2 ^ f.fb - 1 : ℚ) < X := by rw [hbig, hX, mul_lt_mul_iff_left₀ hP]
  have hge : ∀ (c : ℚ), c * P ≤ x ↔ c ≤ X := fun c => by rw [hX, mul_le_mul_iff_left₀ hP]
  have hfloor : (n : ℚ) ≤ X → (2 * 2 ^ f.fb ≤ n ↔ topOf f ≤ x) := fun hn => by
    rw [hcast, htop, hge]
    exact ⟨fun h => by linarith, fun h => by linarith⟩
  have hceil : X ≤ n → (n : ℚ) < X + 1 → (2 * 2 ^ f.fb ≤ n ↔ bigOf f < x) := fun h1 h2 => by
    rw [hbigx]
    refine ⟨fun h => by rw [hcast] at h; linarith, fun h => ?_⟩
    have h3 : ((2 * 2 ^ f.fb : Nat) : ℚ) < (n + 1 : Nat) := by push_cast; linarith
    have := Nat.cast_lt.1 h3
    omega
  cases rm with
  | rtz => exact hfloor h.1
  | rdn =>
    cases neg with
    | true => exact hceil h.1 h.2
    | false => exact hfloor h.1
  | rup =>
    cases neg with
    | true => exact hfloor h.1
    | false => exact hceil h.1 h.2
  | rne =>
    obtain ⟨h1, h2⟩ := h
    have hthr : topOf f - (topOf f - bigOf f) / 2 = (2 * 2 ^ f.fb - 1 / 2) * P := by rw [htop, hbig]; ring
    show _ ↔ topOf f - (topOf f - bigOf f) / 2 ≤ x
    rw [hthr, hge]
    refine ⟨fun h => ?_, fun h => ?_⟩
    · rw [hcast] at h
      linarith [(abs_le.1 h1).1]
    · by_contra hc
      have h3 : (n : ℚ) ≤ (2 * 2 ^ f.fb - 1 : Nat) := Nat.cast_le.2 (by omega)
      rw [Nat.cast_sub (by have := Nat.two_pow_pos f.fb; omega)] at h3
      push_cast at h3
      have h4 := (abs_le.1 h1).2
      have h5 : (n : ℚ) = 2 * 2 ^ f.fb - 1 := by linarith
      have h6 : |X - n| = 1 / 2 := by
        rw [abs_of_nonneg (by linarith)]; linarith
      have h7 := h2 h6
      have h8 : n + 1 = 2 * 2 ^ f.fb := by
        have : ((n + 1 : Nat) : ℚ) = (2 * 2 ^ f.fb : Nat) := by push_cast; linarith
        exact_mod_cast this
      omega
/-- R116: the bits run past the largest finite value just where the magnitude overflows. -/
theorem OnGridOf.over_iff (hf : Proper f) (h : OnGridOf f rm neg x k n) :
    (2 ^ f.eb - 1) * 2 ^ f.fb ≤ k * 2 ^ f.fb + n ↔ OverAbs f rm neg x := by
  have hp : 0 < 2 ^ f.fb := Nat.two_pow_pos _
  have hn := h.le
  rw [pow_succ] at hn
  have hg : gridMin f = 1 - (f.bias : Int) - f.fb := rfl
  have he : 2 ^ f.eb - 1 = 2 * f.bias + 1 := by rw [hf.bias]; omega
  rw [he]
  rcases lt_trichotomy (k + 1) (2 * f.bias) with hk | hk | hk
  · refine iff_of_false (not_le.2 ?_) (not_overAbs ?_)
    · calc k * 2 ^ f.fb + n ≤ k * 2 ^ f.fb + 2 ^ f.fb * 2 := by omega
        _ = (k + 2) * 2 ^ f.fb := by ring
        _ < (2 * f.bias + 1) * 2 ^ f.fb := Nat.mul_lt_mul_of_pos_right (by omega) hp
    · refine h.below.le.trans (le_trans (zpow_le_zpow_right₀ one_le_two ?_) (le_bigOf f))
      omega
  · have hq : gridMin f + (k : Int) = (f.bias : Int) - f.fb := by omega
    have hr := h.rounds
    have hb := h.below
    rw [hq] at hr hb
    rw [← overAbs_last hr (by
      rw [show (f.fb : Int) + 1 + ((f.bias : Int) - f.fb) = ((f.bias + 1 : Nat) : Int) by push_cast; ring, zpow_natCast] at hb
      exact hb), show (2 * f.bias + 1) * 2 ^ f.fb = k * 2 ^ f.fb + 2 * 2 ^ f.fb by rw [← hk]; ring]
    omega
  · have hk0 : k ≠ 0 := by have := hf.pos; omega
    refine iff_of_true ?_ (overAbs_of_top ?_)
    · have h1 := h.ge.resolve_left hk0
      calc (2 * f.bias + 1) * 2 ^ f.fb ≤ (k + 1) * 2 ^ f.fb := Nat.mul_le_mul_right _ (by omega)
        _ = k * 2 ^ f.fb + 2 ^ f.fb := by ring
        _ ≤ k * 2 ^ f.fb + n := by omega
    · refine le_trans ?_ (h.top.resolve_left hk0)
      rw [topOf, ← zpow_natCast]
      exact zpow_le_zpow_right₀ one_le_two (by push_cast; omega)
end

/-! ## The value that a mode names (R115) -/

section
variable {f : Fmt} {rm : Rnd} {sat neg : Bool} {x w : ℚ} {k n : Nat}

/-- `w` is a finite value of the format, or 0. -/
def OfFormat (f : Fmt) (w : ℚ) : Prop := ∃ (s : Bool) (j : Nat) (p : Int), w = sgn s * (j * 2 ^ p) ∧ j < 2 ^
  (f.fb + 1) ∧ gridMin f ≤ p
theorem ofFormat_decodeF {y : Nat} {s : Bool} {j : Nat} {p : Int} (h : decodeF f y = .fin s j p) :
    OfFormat f (ratOf (decodeF f y)) := ⟨s, j, p, by rw [h, ratOf_fin], decodeF_fin h⟩
/-- A value of the format is a whole number of the grid of `x`, or lies below the grid's least full one, which `x` does not. -/
theorem OfFormat.on_grid (hw : OfFormat f w) (h : OnGridOf f rm neg x k n) :
    (∃ z : Int, w = z * 2 ^ (gridMin f + (k : Int)))
    ∨ (|w| < 2 ^ f.fb * 2 ^ (gridMin f + (k : Int)) ∧ 2 ^ f.fb * 2 ^ (gridMin f + (k : Int)) ≤ x) := by
  obtain ⟨s, j, p, rfl, hj, hp⟩ := hw
  by_cases hpk : gridMin f + (k : Int) ≤ p
  · left
    refine ⟨signed s (j * 2 ^ (p - (gridMin f + (k : Int))).toNat), ?_⟩
    have he : (2 : ℚ) ^ p = 2 ^ (p - (gridMin f + (k : Int))).toNat * 2 ^ (gridMin f + (k : Int)) := by
      rw [← zpow_toNat (by omega), ← zpow_add₀ two_ne_zero]; congr 1; ring
    rw [cast_signed, he]
    push_cast
    ring
  · right
    have hk0 : k ≠ 0 := fun h0 => hpk (by rw [h0]; omega)
    constructor
    · rw [abs_mul, abs_sgn, one_mul, abs_of_nonneg (by positivity)]
      have hj' : (j : ℚ) < 2 ^ (f.fb + 1) := by exact_mod_cast hj
      calc (j : ℚ) * 2 ^ p < 2 ^ (f.fb + 1) * 2 ^ p := mul_lt_mul_of_pos_right hj' (by positivity)
        _ = 2 ^ f.fb * 2 ^ (p + 1) := by rw [zpow_add_one₀ two_ne_zero, pow_succ]; ring
        _ ≤ 2 ^ f.fb * 2 ^ (gridMin f + (k : Int)) :=
          mul_le_mul_of_nonneg_left (zpow_le_zpow_right₀ one_le_two (by omega)) (by positivity)
    · have := h.top.resolve_left hk0
      rwa [zpow_add₀ two_ne_zero (f.fb : Int), zpow_natCast] at this
/-- The conditions that O35 states of a rounded value `r` of `x` and any other value `w`. -/
def Named (rm : Rnd) (even : Prop) (x r w : ℚ) : Prop :=
  match rm with
  | .rne => |r - x| ≤ |w - x| ∧ (|r - x| = |w - x| → w ≠ r → even)
  | .rtz => |r| ≤ |x| ∧ (|w| ≤ |x| → |w| ≤ |r|)
  | .rdn => r ≤ x ∧ (w ≤ x → w ≤ r)
  | .rup => x ≤ r ∧ (x ≤ w → r ≤ w)
/-- `X` is rounded to the whole number `n`; `Z` is one too, or lies nearer 0 than a whole number that `X` is no nearer to 0
than. Then `Z` is no better than `n` on any side of `X`. -/
theorem rounded_best {X Z : ℚ} (h : RoundsAbs rm neg X n) (hZ : (∃ z : Int, Z = z) ∨ ∃ L : Nat, |Z| < L ∧ (L : ℚ) ≤ X) :
    (rm = .rne → |(n : ℚ) - X| ≤ |Z - X| ∧ (|(n : ℚ) - X| = |Z - X| → Z ≠ n → n % 2 = 0))
    ∧ ((n : ℚ) ≤ X → X < n + 1 → Z ≤ X → Z ≤ n) ∧ (X ≤ n → (n : ℚ) < X + 1 → X ≤ Z → (n : ℚ) ≤ Z)
    ∧ ((n : ℚ) ≤ X → X < n + 1 → |Z| ≤ X → |Z| ≤ n) := by
  have hn0 : (0 : ℚ) ≤ n := Nat.cast_nonneg _
  rcases hZ with ⟨z, rfl⟩ | ⟨L, hZL, hLX⟩
  · refine ⟨fun hrm => ?_, fun h1 h2 h3 => ?_, fun h1 h2 h3 => ?_, fun h1 h2 h3 => ?_⟩
    · subst hrm
      obtain ⟨ha, hb⟩ := h
      rw [abs_sub_comm] at ha hb
      by_cases hzn : z = (n : Int)
      · subst hzn
        exact ⟨le_of_eq (by norm_cast), fun _ hne => absurd (by norm_cast) hne⟩
      · have h1 : (1 : ℚ) ≤ |(z : ℚ) - n| := by
          have : (1 : Int) ≤ |z - n| := Int.one_le_abs (sub_ne_zero.2 hzn)
          exact_mod_cast this
        have h2 : |(z : ℚ) - n| ≤ |(z : ℚ) - X| + |(n : ℚ) - X| := by
          rw [abs_sub_comm (n : ℚ) X]; exact abs_sub_le _ _ _
        refine ⟨by linarith, fun he _ => hb ?_⟩
        linarith
    · have h4 : (z : ℚ) < ((n : Int) + 1 : Int) := by push_cast; linarith
      have h5 : z ≤ n := by have := Int.cast_lt.1 h4; omega
      exact_mod_cast h5
    · have h4 : ((n : Int) : ℚ) < ((z + 1 : Int) : ℚ) := by push_cast; linarith
      have h5 : (n : Int) ≤ z := by have := Int.cast_lt.1 h4; omega
      exact_mod_cast h5
    · have h4 : ((|z| : Int) : ℚ) < ((n : Int) + 1 : Int) := by push_cast; linarith
      have h5 : |z| ≤ (n : Int) := by have := Int.cast_lt.1 h4; omega
      exact_mod_cast h5
  · have hLn : (L : ℚ) ≤ n := Nat.cast_le.2 (h.le_of_le hLX)
    have hZ1 := (abs_lt.1 hZL).2
    refine ⟨fun hrm => ?_, fun _ _ _ => by linarith, fun _ _ h3 => by linarith, fun _ _ _ => by linarith⟩
    subst hrm
    obtain ⟨ha, hb⟩ := h
    rw [abs_sub_comm] at ha hb
    have h3 : |Z - X| = X - Z := by rw [abs_sub_comm, abs_of_nonneg (by linarith)]
    rw [h3]
    have h4 : |(n : ℚ) - X| ≤ X - L := by
      by_cases hL : L = n
      · subst hL; rw [abs_sub_comm, abs_of_nonneg (by linarith)]
      · have h5 : ((L + 1 : Nat) : ℚ) ≤ n := by
          have : L ≤ n := Nat.cast_le.1 hLn
          exact Nat.cast_le.2 (by omega)
        push_cast at h5
        have := (abs_le.1 ha).2
        rcases le_total (n : ℚ) X with h6 | h6
        · rw [abs_of_nonpos (by linarith)]; linarith
        · linarith
    exact ⟨by linarith, fun he _ => absurd he (by linarith)⟩
/-- Scaled to the grid: `X` is rounded to the whole number `n`, and `w` is one too, or lies nearer 0 than a whole number that
`X` is no nearer to 0 than. -/
theorem named_scaled {X W : ℚ} (h : RoundsAbs rm neg X n) (h0 : 0 ≤ X)
    (hW : (∃ z : Int, W = z) ∨ ∃ L : Nat, |W| < L ∧ (L : ℚ) ≤ X) :
    Named rm (n % 2 = 0) (sgn neg * X) (sgn neg * n) W := by
  have hn0 : (0 : ℚ) ≤ n := Nat.cast_nonneg _
  have hW' : (∃ z : Int, sgn neg * W = z) ∨ ∃ L : Nat, |sgn neg * W| < L ∧ (L : ℚ) ≤ X := by
    rcases hW with ⟨z, rfl⟩ | h
    · left
      cases neg
      · exact ⟨z, by simp [sgn]⟩
      · exact ⟨-z, by simp [sgn]⟩
    · right; rwa [abs_mul, abs_sgn, one_mul]
  -- the sign goes to `W`
  obtain ⟨k1, k2, k3, k4⟩ := rounded_best h hW'
  have habs : ∀ a : ℚ, |sgn neg * a - W| = |a - sgn neg * W| := fun a => by
    rw [show sgn neg * a - W = sgn neg * (a - sgn neg * W) by rw [mul_sub, ← mul_assoc, sgn_sq, one_mul], abs_mul, abs_sgn,
      one_mul]
  unfold Named
  cases rm with
  | rne =>
    dsimp only
    obtain ⟨h1, h2⟩ := k1 rfl
    rw [← mul_sub, abs_mul, abs_sgn, one_mul, abs_sub_comm W, habs, abs_sub_comm X]
    refine ⟨h1, fun he hne => h2 he fun hz => hne ?_⟩
    rw [← hz, ← mul_assoc, sgn_sq, one_mul]
  | rtz =>
    dsimp only
    rw [abs_mul, abs_mul, abs_sgn, one_mul, one_mul, abs_of_nonneg hn0, abs_of_nonneg h0]
    refine ⟨h.1, fun hw => ?_⟩
    have := k4 h.1 h.2
    rw [abs_mul, abs_sgn, one_mul] at this
    exact this hw
  | rdn =>
    dsimp only
    cases neg with
    | false => simp only [sgn, Bool.false_eq_true, if_false, one_mul] at *; exact ⟨h.1, k2 h.1 h.2⟩
    | true =>
      simp only [sgn, if_true, neg_one_mul] at *
      exact ⟨by linarith [h.1], fun hw => by linarith [k3 h.1 h.2 (by linarith)]⟩
  | rup =>
    dsimp only
    cases neg with
    | false => simp only [sgn, Bool.false_eq_true, if_false, one_mul] at *; exact ⟨h.1, k3 h.1 h.2⟩
    | true =>
      simp only [sgn, if_true, neg_one_mul] at *
      exact ⟨by linarith [h.1], fun hw => by linarith [k2 h.1 h.2 (by linarith)]⟩
theorem Named.scale {even : Prop} {X R W P : ℚ} (hP : 0 < P) (h : Named rm even X R W) :
    Named rm even (X * P) (R * P) (W * P) := by
  have ha : ∀ a b : ℚ, |a * P - b * P| = |a - b| * P := fun a b => by rw [← sub_mul, abs_mul, abs_of_pos hP]
  have hb : ∀ a : ℚ, |a * P| = |a| * P := fun a => by rw [abs_mul, abs_of_pos hP]
  unfold Named at *
  cases rm with
  | rne =>
    dsimp only at *
    rw [ha, ha, mul_le_mul_iff_left₀ hP, mul_left_inj' hP.ne', ne_eq, mul_left_inj' hP.ne']
    exact h
  | rtz =>
    dsimp only at *
    rw [hb, hb, hb, mul_le_mul_iff_left₀ hP, mul_le_mul_iff_left₀ hP, mul_le_mul_iff_left₀ hP]
    exact h
  | rdn =>
    dsimp only at *
    rw [mul_le_mul_iff_left₀ hP, mul_le_mul_iff_left₀ hP, mul_le_mul_iff_left₀ hP]
    exact h
  | rup =>
    dsimp only at *
    rw [mul_le_mul_iff_left₀ hP, mul_le_mul_iff_left₀ hP, mul_le_mul_iff_left₀ hP]
    exact h
/-- The value of the bits that are packed is the one that the mode names among those of the format. -/
theorem OnGridOf.named (h : OnGridOf f rm neg x k n) (h0 : 0 ≤ x) (hw : OfFormat f w) :
    Named rm (n % 2 = 0) (sgn neg * x) (sgn neg * (n * 2 ^ (gridMin f + (k : Int)))) w := by
  have hP : (0 : ℚ) < 2 ^ (gridMin f + (k : Int)) := by positivity
  have hx : x = x / 2 ^ (gridMin f + (k : Int)) * 2 ^ (gridMin f + (k : Int)) := (div_mul_cancel₀ _ hP.ne').symm
  have hwd : w = w / 2 ^ (gridMin f + (k : Int)) * 2 ^ (gridMin f + (k : Int)) := (div_mul_cancel₀ _ hP.ne').symm
  have hg := hw.on_grid h
  have hr := h.rounds
  generalize (2 : ℚ) ^ (gridMin f + (k : Int)) = P at *
  rw [hx, ← mul_assoc, ← mul_assoc]
  rw [hwd]
  refine (named_scaled hr (by positivity) ?_).scale hP
  refine hg.imp ?_ ?_
  · rintro ⟨z, rfl⟩
    exact ⟨z, mul_div_cancel_right₀ _ hP.ne'⟩
  · rintro ⟨h1, h2⟩
    refine ⟨2 ^ f.fb, ?_, ?_⟩
    · rw [abs_div, abs_of_pos hP, div_lt_iff₀ hP]; push_cast; exact h1
    · rw [le_div_iff₀ hP]; push_cast; exact h2
end

/-- The part of O35 on a number rounded once into a format. -/
theorem roundF_number {f : Fmt} (rm : Rnd) (sat neg : Bool) {m : Nat} (e : Int) (hf : Proper f) (hm : m ≠ 0) :
    (¬Overflows f rm (ratOf (.fin neg m e)) → (roundF f rm sat (.fin neg m e)).2 = false
      ∧ ((roundF f rm sat (.fin neg m e)).1 < 2 * f.half ∧ ∃ n k q, decodeF f (roundF f rm sat (.fin neg m e)).1 = .fin n k q)
      ∧ (∃ k q, decodeF f (roundF f rm sat (.fin neg m e)).1 = .fin neg k q)
      ∧ ∀ y, (∃ n k q, decodeF f y = .fin n k q) → Named rm ((roundF f rm sat (.fin neg m e)).1 % 2 = 0)
        (ratOf (.fin neg m e)) (ratOf (decodeF f (roundF f rm sat (.fin neg m e)).1)) (ratOf (decodeF f y)))
    ∧ (Overflows f rm (ratOf (.fin neg m e)) → roundF f rm sat (.fin neg m e) =
        if sat then (maxBits f neg, true) else (overflowBits f rm neg, false)) := by
  obtain ⟨k, n, hg, hr⟩ := roundF_fin (f := f) (rm := rm) (sat := sat) (neg := neg) (e := e) hm
  have h0 : (0 : ℚ) ≤ m * 2 ^ e := by positivity
  rw [ratOf_fin, overflows_iff hf h0, ← hg.over_iff hf, hr, packed]
  refine ⟨fun ho => ?_, fun ho => by rw [if_pos ho]⟩
  rw [if_neg ho]
  obtain ⟨j, p, hd, hv⟩ := decodeF_grid (neg := neg) hg.ge hg.le (not_le.1 ho)
  have hp : 0 < 2 ^ f.fb := Nat.two_pow_pos _
  have hlt : k * 2 ^ f.fb + n < f.half :=
    lt_of_lt_of_le (not_le.1 ho) (by rw [half_eq]; exact Nat.mul_le_mul_right _ (Nat.sub_le ..))
  have heven : (n % 2 = 0) = ((signBits f neg + (k * 2 ^ f.fb + n)) % 2 = 0) := by
    have h2 : 2 ∣ 2 ^ f.fb := dvd_pow_self 2 (by have := hf.frac; omega)
    have h3 : 2 ∣ signBits f neg + k * 2 ^ f.fb := by
      refine dvd_add ?_ (Dvd.dvd.mul_left h2 _)
      unfold signBits
      split
      · rw [half_eq]; exact Dvd.dvd.mul_left h2 _
      · exact dvd_zero _
    rw [← Nat.add_assoc]
    exact propext (by omega)
  refine ⟨rfl, ⟨?_, neg, j, p, hd⟩, ⟨j, p, hd⟩, ?_⟩
  · dsimp only
    unfold signBits
    split <;> omega
  · rintro y ⟨s, i, q, hy⟩
    rw [hd, ratOf_fin, hv, ← heven]
    exact hg.named h0 (ofFormat_decodeF hy)

/-! ## Approximations (R202) -/

section
variable {n d : Nat} {e : Int}

/-- A positive number `v` on the FP32 grid: exponent, floor, exactness. -/
structure GridSpec (v : ℚ) (g : Int × Nat × Bool) : Prop where
  floor : (g.2.1 : ℚ) ≤ v / 2 ^ g.1 ∧ v / 2 ^ g.1 < g.2.1 + 1
  exact : g.2.2 = true ↔ v / 2 ^ g.1 = g.2.1
  low : g.1 = -149 ∨ (2 : ℚ) ^ (g.1 + 23) ≤ v
  high : v < 2 ^ (g.1 + 24)
  least : -149 ≤ g.1
theorem pow_toNat_cancel (a : Int) : (2 : ℚ) ^ a * 2 ^ (-a).toNat = 2 ^ a.toNat := by
  by_cases h : 0 ≤ a
  · rw [show (-a).toNat = 0 by omega, pow_zero, mul_one, zpow_toNat h]
  · rw [show a.toNat = 0 by omega, ← zpow_toNat (by omega : 0 ≤ -a), ← zpow_add₀ two_ne_zero, add_neg_cancel]; rfl
theorem onGrid_spec (hn : n ≠ 0) (hd : d ≠ 0) : GridSpec ((n : ℚ) / d * 2 ^ e) (onGrid n d e) := by
  have hn' : (0 : ℚ) < n := by exact_mod_cast Nat.pos_of_ne_zero hn
  have hd' : (0 : ℚ) < d := by exact_mod_cast Nat.pos_of_ne_zero hd
  obtain ⟨hn1, hn2⟩ := log2_bounds hn 0
  obtain ⟨hd1, hd2⟩ := log2_bounds hd 0
  rw [zpow_zero, mul_one, zero_add] at hn1 hn2 hd1 hd2
  generalize hl : (Nat.log2 n : Int) - (Nat.log2 d : Int) = l0
  -- the binade of `n / d`
  have hlow : n * 2 ^ (-l0).toNat < d * 2 ^ l0.toNat ↔ (n : ℚ) / d < 2 ^ l0 := by
    rw [div_lt_iff₀ hd', ← Nat.cast_lt (α := ℚ)]
    push_cast
    rw [← pow_toNat_cancel l0, ← mul_assoc, mul_lt_mul_iff_left₀ (by positivity), mul_comm]
  have hb1 : (2 : ℚ) ^ (l0 - 1) < (n : ℚ) / d := by
    rw [lt_div_iff₀ hd']
    calc (2 : ℚ) ^ (l0 - 1) * d < 2 ^ (l0 - 1) * 2 ^ ((Nat.log2 d : Int) + 1) := mul_lt_mul_of_pos_left hd2 (by positivity)
      _ = 2 ^ (Nat.log2 n : Int) := by rw [← zpow_add₀ two_ne_zero]; congr 1; omega
      _ ≤ n := hn1
  have hb2 : (n : ℚ) / d < 2 ^ (l0 + 1) := by
    rw [div_lt_iff₀ hd']
    calc (n : ℚ) < 2 ^ ((Nat.log2 n : Int) + 1) := hn2
      _ = 2 ^ (l0 + 1) * 2 ^ (Nat.log2 d : Int) := by rw [← zpow_add₀ two_ne_zero]; congr 1; omega
      _ ≤ 2 ^ (l0 + 1) * d := mul_le_mul_of_nonneg_left hd1 (by positivity)
  have htop : ∃ t : Int, (l0 - if decide (n * 2 ^ (-l0).toNat < d * 2 ^ l0.toNat) = true then 1 else 0) = t
      ∧ (2 : ℚ) ^ t ≤ (n : ℚ) / d ∧ (n : ℚ) / d < 2 ^ (t + 1) := by
    by_cases h : n * 2 ^ (-l0).toNat < d * 2 ^ l0.toNat
    · exact ⟨l0 - 1, by rw [if_pos (decide_eq_true h)], hb1.le, by rw [sub_add_cancel]; exact hlow.1 h⟩
    · exact ⟨l0, by rw [if_neg (by rw [decide_eq_true_iff]; exact h), sub_zero], not_lt.1 fun e => h (hlow.2 e), hb2⟩
  obtain ⟨t, ht, ht1, ht2⟩ := htop
  have hgrid : onGrid n d e = (max (e + t) fp32.emin - 23,
      n * 2 ^ (e - (max (e + t) fp32.emin - 23)).toNat / (d * 2 ^ ((max (e + t) fp32.emin - 23) - e).toNat),
      n * 2 ^ (e - (max (e + t) fp32.emin - 23)).toNat % (d * 2 ^ ((max (e + t) fp32.emin - 23) - e).toNat) == 0) := by
    rw [← ht, ← hl, onGrid]
    have : ∀ i : Int, e + (i - if decide (n * 2 ^ (-l0).toNat < d * 2 ^ l0.toNat) = true then 1 else 0) =
      e + i - if decide (n * 2 ^ (-l0).toNat < d * 2 ^ l0.toNat) = true then 1 else 0 := fun i => by ring
    rw [hl, this]
  rw [hgrid]
  have hemin : fp32.emin = -126 := rfl
  rw [hemin]
  generalize hq : max (e + t) (-126 : Int) - 23 = q
  have hv : (n : ℚ) / d * 2 ^ e / 2 ^ q = ((n * 2 ^ (e - q).toNat : Nat) : ℚ) / (d * 2 ^ (q - e).toNat : Nat) := by
    push_cast
    rw [mul_div_assoc, ← zpow_sub₀ two_ne_zero, ← pow_toNat_cancel (e - q), show -(e - q) = q - e by ring]
    field_simp
  have hden : 0 < d * 2 ^ (q - e).toNat := Nat.mul_pos (Nat.pos_of_ne_zero hd) (Nat.two_pow_pos _)
  have hden' : (0 : ℚ) < (d * 2 ^ (q - e).toNat : Nat) := by exact_mod_cast hden
  refine ⟨?_, ?_, ?_, ?_, ?_⟩ <;> dsimp only
  · rw [hv]
    generalize n * 2 ^ (e - q).toNat = a
    generalize d * 2 ^ (q - e).toNat = b at hden hden'
    constructor
    · rw [le_div_iff₀ hden']; exact_mod_cast Nat.div_mul_le_self a b
    · rw [div_lt_iff₀ hden']; exact_mod_cast Nat.lt_div_mul_add hden |>.trans_eq (by ring)
  · rw [hv]
    generalize n * 2 ^ (e - q).toNat = a
    generalize d * 2 ^ (q - e).toNat = b at hden hden'
    rw [beq_iff_eq, div_eq_iff hden'.ne']
    have h := Nat.div_add_mod' a b
    constructor
    · intro h0; rw [h0, add_zero] at h; exact_mod_cast h.symm
    · intro h0
      have h0' : a = a / b * b := by exact_mod_cast h0
      omega
  · by_cases h : e + t ≤ -126
    · left; omega
    · right
      rw [show q + 23 = t + e by omega, zpow_add₀ two_ne_zero]
      exact mul_le_mul_of_nonneg_right ht1 (by positivity)
  · calc (n : ℚ) / d * 2 ^ e < 2 ^ (t + 1) * 2 ^ e := mul_lt_mul_of_pos_right ht2 (by positivity)
      _ = 2 ^ (t + 1 + e) := (zpow_add₀ two_ne_zero _ _).symm
      _ ≤ 2 ^ (q + 24) := zpow_le_zpow_right₀ one_le_two (by omega)
  · omega
/-- What stands `within` one unit of the last place. -/
theorem within_spec (f : Approx) (bits : Nat) (neg : Bool) (n d : Nat) (e : Int) :
    ∃ k, Machine.within 1 f bits neg n d e = .fin neg k (onGrid n d e).1 ∧ (onGrid n d e).2.1 -
      (if (onGrid n d e).2.2 then 1 else 0) ≤ k
      ∧ k ≤ (onGrid n d e).2.1 + 1 := by
  generalize hg : onGrid n d e = g
  obtain ⟨q, k, ex⟩ := g
  refine ⟨k + 1 - 1 - (if ex then 1 else 0) + Config.approxDelta f bits %
    (k + 1 + 1 - (k + 1 - 1 - (if ex then 1 else 0))), ?_, ?_, ?_⟩
  · rw [Machine.within, hg]
  · dsimp only
    omega
  · dsimp only
    have := Nat.mod_lt (Config.approxDelta f bits) (show 0 < k + 1 + 1 - (k + 1 - 1 - (if ex then 1 else 0)) by omega)
    omega
end

/-! ### The operands -/

section
variable {b : Nat} {neg : Bool} {m : Nat} {e : Int}
theorem approx_operand (hb : decodeF fp32 b = .fin neg m e) : m < 2 ^ 24 ∧ -149 ≤ e := by
  have h := decodeF_fin hb
  have hg : gridMin fp32 = -149 := rfl
  exact ⟨h.1, hg ▸ h.2⟩
theorem approx_special (f : Approx) : approxV f (nanBits fp32) = .nan := by
  have h : decodeF fp32 (nanBits fp32) = .nan := by decide
  cases f <;> (unfold approxV; rw [h])
theorem decode_inf (n : Bool) : decodeF fp32 (infBits fp32 n) = .inf n := by cases n <;> decide
theorem rcp_spec (hb : decodeF fp32 b = .fin neg m e) (hm : m ≠ 0) :
    ∃ k q, approxV .rcp b = .fin neg k q ∧ |(k : ℚ) * 2 ^ q - 1 / ((m : ℚ) * 2 ^ e)| ≤ 2 ^ q ∧ -149 ≤ q
      ∧ (q = -149 ∨ 2 ^ (q + 23) ≤ 1 / ((m : ℚ) * 2 ^ e)) ∧ 1 / ((m : ℚ) * 2 ^ e) < 2 ^ (q + 24) := by
  have hv : ((1 : Nat) : ℚ) / m * 2 ^ (-e) = 1 / ((m : ℚ) * 2 ^ e) := by
    rw [zpow_neg, Nat.cast_one, ← div_eq_mul_inv, div_div]
  have hg := onGrid_spec (n := 1) (d := m) (e := -e) one_ne_zero hm
  rw [hv] at hg
  obtain ⟨k, hk, h1, h2⟩ := within_spec .rcp b neg 1 m (-e)
  obtain ⟨hfl, hex, hlo, hhi, hl⟩ := hg
  generalize onGrid 1 m (-e) = g at *
  obtain ⟨q, k0, ex⟩ := g
  dsimp only at *
  have hq : (0 : ℚ) < 2 ^ q := by positivity
  refine ⟨k, q, ?_, ?_, hl, hlo, hhi⟩
  · unfold approxV
    rw [hb]
    dsimp only
    rw [if_neg hm, hk]
  · generalize 1 / ((m : ℚ) * 2 ^ e) = v at *
    have hkq : (k : ℚ) * 2 ^ q - v = (k - v / 2 ^ q) * 2 ^ q := by rw [sub_mul, div_mul_cancel₀ _ hq.ne']
    rw [hkq, abs_mul, abs_of_pos hq]
    refine mul_le_of_le_one_left hq.le ?_
    have hk2 : (k : ℚ) ≤ k0 + 1 := by exact_mod_cast h2
    rw [abs_le]
    cases ex with
    | true =>
      have hk1 : (k0 : ℚ) - 1 ≤ k := by
        have : (k0 : ℚ) ≤ (k + 1 : Nat) := Nat.cast_le.2 (by simp only [if_true] at h1; omega)
        push_cast at this; linarith
      have := hex.1 rfl
      exact ⟨by linarith, by linarith⟩
    | false =>
      have hk1 : (k0 : ℚ) ≤ k := Nat.cast_le.2 (by simpa using h1)
      exact ⟨by linarith [hfl.2], by linarith [hfl.1]⟩
end

/-! ### The order of finite values (R113) -/

theorem toScaled_eq (neg : Bool) (m : Nat) {e q : Int} (h : q ≤ e) :
    (toScaled neg m e q : ℚ) * 2 ^ q = ratOf (.fin neg m e) := by
  have he : (2 : ℚ) ^ (e - q).toNat * 2 ^ q = 2 ^ e := by
    rw [← zpow_toNat (by omega), ← zpow_add₀ two_ne_zero, sub_add_cancel]
  rw [ratOf_fin, ← he, toScaled]
  cases neg <;> (simp only [sgn, if_true, Bool.false_eq_true, if_false]; push_cast; ring)
theorem ltV_fin (s t : Bool) (m n : Nat) (e p : Int) :
    ltV (.fin s m e) (.fin t n p) = decide (ratOf (.fin s m e) < ratOf (.fin t n p)) := by
  rw [ltV, ← toScaled_eq s m (min_le_left e p), ← toScaled_eq t n (min_le_right e p)]
  refine decide_eq_decide.2 ?_
  rw [mul_lt_mul_iff_left₀ (by positivity)]
  exact_mod_cast Iff.rfl

section
variable {b : Nat} {neg : Bool} {m : Nat} {e : Int}

theorem approxV_exp2_whole (hb : decodeF fp32 b = .fin neg m e) {i : Int} (h : ratOf (.fin neg m e) = i) (h1 : -149 ≤ i)
    (h2 : i ≤ 127) : ratOf (approxV .exp2 b) = 2 ^ i := by
  rw [ratOf_fin] at h
  by_cases hm : m = 0
  · have hi : i = 0 := by
      rw [hm, Nat.cast_zero, zero_mul, mul_zero] at h
      exact_mod_cast h.symm
    unfold approxV
    rw [hb]
    dsimp only
    rw [if_pos hm, hi, ratOf_fin]
    simp [sgn]
  · -- the magnitude is the whole number `a`
    have key : ∀ a : Nat, (m : ℚ) * 2 ^ e = a → (if 0 ≤ e then ((m : Int) * 2 ^ e.toNat) else (m / 2 ^ (-e).toNat : Nat)) =
      (a : Int)
        ∧ (decide (0 ≤ e) || m % 2 ^ (-e).toNat == 0) = true := by
      intro a ha
      by_cases he : 0 ≤ e
      · rw [zpow_toNat he] at ha
        exact ⟨by rw [if_pos he]; exact_mod_cast ha, by simp [he]⟩
      · rw [zpow_neg_toNat he, mul_one_div, div_eq_iff (by positivity)] at ha
        have ha' : m = a * 2 ^ (-e).toNat := by exact_mod_cast ha
        refine ⟨?_, ?_⟩
        · rw [if_neg he, ha', Nat.mul_div_cancel _ (Nat.two_pow_pos _)]
        · rw [ha']; simp
    have hmag : (m : ℚ) * 2 ^ e = i.natAbs := by
      have h0 : (0 : ℚ) ≤ m * 2 ^ e := by positivity
      have h3 := congrArg abs h
      rw [abs_mul, abs_sgn, one_mul, abs_of_nonneg h0] at h3
      rw [h3]; exact_mod_cast (Nat.cast_natAbs i).symm
    obtain ⟨k1, k2⟩ := key _ hmag
    have hsign : (if neg then -((i.natAbs : Nat) : Int) else (i.natAbs : Nat)) = i := by
      rw [hmag] at h
      have h3 : ((signed neg i.natAbs : Int) : ℚ) = i := by rw [cast_signed]; exact h
      exact Int.cast_injective (α := ℚ) h3
    have hx : (if 0 ≤ e then (if 0 ≤ e then ((m : Int) * 2 ^ e.toNat) else 0) else ((m / 2 ^ (-e).toNat : Nat) : Int)) =
      i.natAbs := by
      rw [← k1]; split <;> rfl
    unfold approxV
    rw [hb]
    dsimp only
    rw [if_neg hm, k2, if_pos rfl, hx, hsign, if_neg (by omega), min_eq_left (by omega), ratOf_fin]
    simp [sgn]
theorem two_pow_of_zpow {i : Int} (h : (m : ℚ) * 2 ^ e = 2 ^ i) : ∃ l : Nat, m = 2 ^ l ∧ i = e + (l : Int) := by
  have hm : (m : ℚ) = 2 ^ (i - e) := by rw [zpow_sub₀ two_ne_zero, eq_div_iff (by positivity), h]
  have h0 : 0 ≤ i - e := by
    by_contra hc
    have h1 : (m : ℚ) < 1 := by rw [hm]; exact zpow_lt_one_of_neg₀ one_lt_two (by omega)
    have h2 : (0 : ℚ) < m := by rw [hm]; positivity
    have h3 : m < 1 := by exact_mod_cast h1
    have h4 : 0 < m := by exact_mod_cast h2
    omega
  rw [zpow_toNat h0] at hm
  exact ⟨(i - e).toNat, by exact_mod_cast hm, by omega⟩
theorem ratOf_ofInt (i : Int) : ratOf (ofInt i) = i := by
  rw [ofInt, ofScaled, ratOf_fin, zpow_zero, mul_one]
  by_cases h : i < 0
  · rw [decide_eq_true h, sgn, if_pos rfl, Nat.cast_natAbs, abs_of_neg h]; push_cast; ring
  · rw [decide_eq_false h, sgn, if_neg (by decide), Nat.cast_natAbs, abs_of_nonneg (by omega)]; push_cast; ring
theorem approxV_log2_pow (hb : decodeF fp32 b = .fin false m e) {i : Int} (h : (m : ℚ) * 2 ^ e = 2 ^ i) :
    approxV .log2 b = ofInt i := by
  obtain ⟨l, rfl, rfl⟩ := two_pow_of_zpow h
  unfold approxV
  rw [hb]
  dsimp only
  rw [if_neg (Nat.two_pow_pos l).ne', if_neg (by decide), Nat.log2_two_pow, if_pos rfl]
theorem ratOf_mag (m : Nat) (e : Int) : ratOf (.fin false m e) = m * 2 ^ e := by rw [ratOf_fin, sgn, if_neg (by decide), one_mul]
theorem approxV_tanh_small (hb : decodeF fp32 b = .fin neg m e) (h : (m : ℚ) * 2 ^ e < 1 / 4096) :
    approxV .tanh b = .fin neg m e := by
  have hlt : ltV (.fin false m e) (.fin false 1 (-12)) = true := by
    rw [ltV_fin, decide_eq_true_iff, ratOf_mag, ratOf_mag]
    refine h.trans_eq ?_
    norm_num
  unfold approxV
  rw [hb]
  dsimp only
  rw [if_pos (.inr hlt)]
theorem approxV_tanh_large (hb : decodeF fp32 b = .fin neg m e) (h : 9 ≤ (m : ℚ) * 2 ^ e) : approxV .tanh b = .fin neg 1 0 := by
  have hm : m ≠ 0 := by rintro rfl; norm_num at h
  have h1 : ¬ ltV (.fin false m e) (.fin false 1 (-12)) = true := by
    rw [ltV_fin, decide_eq_true_iff, ratOf_mag, ratOf_mag, not_lt]
    refine le_trans ?_ h
    norm_num
  have h2 : ltV (.fin false m e) (.fin false 9 0) = false := by
    rw [ltV_fin, decide_eq_false_iff_not, ratOf_mag, ratOf_mag, not_lt]
    simpa using h
  unfold approxV
  rw [hb]
  dsimp only
  rw [if_neg (fun hc => hc.elim hm h1), h2, if_pos (by decide)]

/-! ### The reciprocal square root -/

/-- The bounds of the whole square root that the model takes. -/
theorem sqrt_bounds {p n r : Nat} (hn : 0 < n) (hr : Nat.sqrt (p / n) = r) : r * r * n ≤ p ∧ p < (r + 1) * (r + 1) * n := by
  have h1 : r * r ≤ p / n := hr ▸ Nat.sqrt_le _
  have h2 : p / n < (r + 1) * (r + 1) := hr ▸ Nat.lt_succ_sqrt _
  exact ⟨(Nat.le_div_iff_mul_le hn).1 h1, (Nat.div_lt_iff_lt_mul hn).1 h2⟩
end

/-- What R202 says of a result `k × 2^q` of `vrsqrt` for the operand `x`. -/
def RootNear (x : ℚ) (k : Nat) (q : Int) : Prop :=
  1 ≤ k ∧ (((k : ℚ) - 1) * 2 ^ q) ^ 2 * x ≤ 1 ∧ 1 ≤ (((k : ℚ) + 1) * 2 ^ q) ^ 2 * x
    ∧ (2 ^ (q + 23) : ℚ) ^ 2 * x ≤ 1 ∧ 1 < (2 ^ (q + 24) : ℚ) ^ 2 * x
/-- The root lies from `A` to `B`; the grid's cell of it holds both, and `B` lies below the next binade. -/
theorem rootNear_of_bounds {x A B : ℚ} {q : Int} {k : Nat} (hx : 0 ≤ x) (hA : A ^ 2 * x ≤ 1) (hB : 1 ≤ B ^ 2 * x)
    (h1 : 1 ≤ k) (hk : ((k : ℚ) - 1) * 2 ^ q ≤ A) (hk' : B ≤ ((k : ℚ) + 1) * 2 ^ q) (hB0 : 0 ≤ B) (hlo : 2 ^ (q + 23) ≤ A)
    (hhi : 1 < (2 ^ (q + 24) : ℚ) ^ 2 * x) : RootNear x k q := by
  have hk1 : (0 : ℚ) ≤ (k : ℚ) - 1 := by have : ((1 : Nat) : ℚ) ≤ k := Nat.cast_le.2 h1; push_cast at this; linarith
  have mono : ∀ {a b : ℚ}, 0 ≤ a → a ≤ b → a ^ 2 * x ≤ b ^ 2 * x := fun ha hab =>
    mul_le_mul_of_nonneg_right (pow_le_pow_left₀ ha hab 2) hx
  exact ⟨h1, (mono (by positivity) hk).trans hA, hB.trans (mono hB0 hk'), (mono (by positivity) hlo).trans hA, hhi⟩

section
variable {b : Nat} {neg : Bool} {m : Nat} {e : Int}

theorem operand_exponent (hb : decodeF fp32 b = .fin neg m e) : e ≤ 104 := by
  have hg : fp32.emin - (fp32.fb : Int) = -149 := rfl
  have hbias : (fp32.bias : Int) = 127 := rfl
  have hfb : (fp32.fb : Int) = 23 := rfl
  have heb : 2 ^ fp32.eb = 256 := rfl
  have hlt : b / 2 ^ fp32.fb % 2 ^ fp32.eb < 2 ^ fp32.eb := Nat.mod_lt _ (by rw [heb]; omega)
  rw [decodeF] at hb
  split at hb
  · split at hb <;> cases hb
  · split at hb
    · obtain ⟨-, -, rfl⟩ := Val.fin.inj hb
      omega
    · next h1 h2 =>
      obtain ⟨-, -, rfl⟩ := Val.fin.inj hb
      generalize b / 2 ^ fp32.fb % 2 ^ fp32.eb = c at *
      rw [heb] at h1 hlt
      omega
/-- The operand of a square root, with its exponent made even. -/
def evenM (m : Nat) (e : Int) : Nat := if e % 2 = 1 then 2 * m else m
def evenE (e : Int) : Int := if e % 2 = 1 then e - 1 else e
theorem even_value (m : Nat) (e : Int) : (m : ℚ) * 2 ^ e = evenM m e * 2 ^ (2 * (evenE e / 2)) := by
  unfold evenM evenE
  split
  · next h =>
    rw [show 2 * ((e - 1) / 2) = e - 1 by omega, zpow_sub₀ two_ne_zero]
    push_cast
    ring
  · next h => rw [show 2 * (e / 2) = e by omega]
theorem evenM_lt (h : m < 2 ^ 24) : evenM m e < 2 ^ 25 := by unfold evenM; split <;> omega
theorem evenM_ne (h : m ≠ 0) : evenM m e ≠ 0 := by unfold evenM; split <;> omega
theorem evenE_le (h : e ≤ 104) : evenE e / 2 ≤ 52 := by unfold evenE; split <;> omega
/-- The whole root of `vrsqrt`, and what stands for it on the FP32 grid. -/
def rootOf (m2 : Nat) : Nat := Nat.sqrt (2 ^ 400 / m2)
theorem approxV_rsqrt (hb : decodeF fp32 b = .fin false m e) (hm : m ≠ 0) : approxV .rsqrt b =
    Machine.within 1 .rsqrt b false
      (if rootOf (evenM m e) * rootOf (evenM m e) * evenM m e == 2 ^ 400 then rootOf (evenM m e) else 2 * rootOf (evenM m e) + 1)
      (if rootOf (evenM m e) * rootOf (evenM m e) * evenM m e == 2 ^ 400 then 1 else 2) (-200 - evenE e / 2) := by
  unfold approxV
  rw [hb]
  dsimp only
  rw [if_neg hm, if_neg (by decide)]
  rfl
theorem root_large {n r : Nat} (hn : n < 2 ^ 25) (h : 2 ^ 400 < (r + 1) * (r + 1) * n) : 2 ^ 187 ≤ r := by
  by_contra hc
  have h1 : r + 1 ≤ 2 ^ 187 := by omega
  have h2 : (r + 1) * (r + 1) * n ≤ 2 ^ 187 * 2 ^ 187 * 2 ^ 25 := Nat.mul_le_mul (Nat.mul_le_mul h1 h1) hn.le
  have h3 : 2 ^ 187 * 2 ^ 187 * 2 ^ 25 = 2 ^ 399 := by rw [← pow_add, ← pow_add]
  have h4 : (2 : Nat) ^ 399 < 2 ^ 400 := Nat.pow_lt_pow_right (by decide) (by decide)
  omega
end

section
variable {b : Nat} {m : Nat} {e : Int}

/-- The square of the unit in which the model takes the root. -/
theorem unit_square (n : Nat) (t : Int) : ((2 : ℚ) ^ (-200 - t)) ^ 2 * (n * 2 ^ (2 * t)) = n / 2 ^ 400 := by
  rw [div_eq_mul_inv, ← zpow_natCast (2 : ℚ) 400, ← zpow_neg, ← zpow_natCast, ← zpow_mul,
    show ∀ a c d : ℚ, a * (c * d) = c * (a * d) from fun a c d => by ring, ← zpow_add₀ two_ne_zero]
  congr 2
  push_cast
  ring
theorem scaled_square {n r : Nat} (t : Int) :
    ((r : ℚ) * 2 ^ (-200 - t)) ^ 2 * (n * 2 ^ (2 * t)) = ((r * r * n : Nat) : ℚ) / (2 ^ 400 : Nat) := by
  rw [mul_pow, mul_assoc, unit_square]
  push_cast
  ring
theorem one_lt_two_pow_cast : (0 : ℚ) < (2 ^ 400 : Nat) := Nat.cast_pos.2 (Nat.two_pow_pos _)
/-- The cell of a root of one of the model's whole numbers. -/
theorem rsqrt_exact {n r k : Nat} {t : Int} {g : Int × Nat × Bool} (hrr : r * r * n = 2 ^ 400) (hr : 2 ^ 187 ≤ r) (ht : t ≤ 52)
    (hg : GridSpec ((r : ℚ) * 2 ^ (-200 - t)) g) (h1 : g.2.1 - (if g.2.2 then 1 else 0) ≤ k) (h2 : k ≤ g.2.1 + 1) :
    RootNear (n * 2 ^ (2 * t)) k g.1 := by
  obtain ⟨hfl, hex, hlo, hhi, -⟩ := hg
  obtain ⟨q, k0, ex⟩ := g
  dsimp only at *
  have hv2 : ((r : ℚ) * 2 ^ (-200 - t)) ^ 2 * (n * 2 ^ (2 * t)) = 1 := by
    rw [scaled_square, hrr, div_self one_lt_two_pow_cast.ne']
  have hr' : (2 : ℚ) ^ (187 : Int) ≤ r := by
    rw [show (187 : Int) = ((187 : Nat) : Int) from rfl, zpow_natCast]; exact_mod_cast hr
  have hbig : (2 : ℚ) ^ (-65 : Int) ≤ r * 2 ^ (-200 - t) := by
    calc (2 : ℚ) ^ (-65 : Int) ≤ 2 ^ (187 + (-200 - t)) := zpow_le_zpow_right₀ one_le_two (by omega)
      _ = 2 ^ (187 : Int) * 2 ^ (-200 - t) := zpow_add₀ two_ne_zero _ _
      _ ≤ r * 2 ^ (-200 - t) := mul_le_mul_of_nonneg_right hr' (by positivity)
  have hq1 : -65 < q + 24 := (zpow_lt_zpow_iff_right₀ one_lt_two).1 (hbig.trans_lt hhi)
  have hlo' := hlo.resolve_left (by omega)
  have hx : (0 : ℚ) < n * 2 ^ (2 * t) := by
    rcases (show (0 : ℚ) ≤ n * 2 ^ (2 * t) by positivity).lt_or_eq with h | h
    · exact h
    · rw [← h, mul_zero] at hv2; cases hv2
  generalize (n : ℚ) * 2 ^ (2 * t) = x at *
  generalize (r : ℚ) * 2 ^ (-200 - t) = v at *
  have hP : (0 : ℚ) < 2 ^ q := by positivity
  have hk0 : (2 : ℚ) ^ (23 : Nat) < k0 + 1 := by
    refine lt_of_le_of_lt ?_ hfl.2
    rw [le_div_iff₀ hP]
    refine le_trans (le_of_eq ?_) hlo'
    rw [add_comm, zpow_add₀ two_ne_zero]
    rfl
  have hk0' : 2 ^ 23 < k0 + 1 := by exact_mod_cast hk0
  have hv : v = v / 2 ^ q * 2 ^ q := (div_mul_cancel₀ _ hP.ne').symm
  have hk2 : (k : ℚ) ≤ k0 + 1 := by exact_mod_cast h2
  have hv0 : 0 < v := lt_of_lt_of_le (by positivity) hbig
  refine rootNear_of_bounds hx.le hv2.le hv2.ge (by split at h1 <;> omega) ?_ ?_ hv0.le hlo' ?_
  · rw [hv]; exact mul_le_mul_of_nonneg_right (by linarith [hfl.1]) hP.le
  · rw [hv]
    refine mul_le_mul_of_nonneg_right ?_ hP.le
    cases ex with
    | true =>
      have hk1 : (k0 : ℚ) ≤ (k + 1 : Nat) := Nat.cast_le.2 (by simp only [if_true] at h1; omega)
      push_cast at hk1
      rw [hex.1 rfl]; exact hk1
    | false =>
      have hk1 : (k0 : ℚ) ≤ k := Nat.cast_le.2 (by simpa using h1)
      linarith [hfl.2]
  · rw [← hv2]
    exact mul_lt_mul_of_pos_right (pow_lt_pow_left₀ hhi hv0.le two_ne_zero) hx
/-- The cell of a root that lies between two neighbouring whole numbers of the unit `2^u`, found at their midpoint. -/
theorem rootNear_midpoint {x : ℚ} {r j k : Nat} {q u : Int} {k0 : Nat} {ex : Bool} (hx : 0 ≤ x) (hj : (j : Int) = q - u)
    (hA : ((r : ℚ) * 2 ^ u) ^ 2 * x ≤ 1) (hB : 1 < (((r + 1 : Nat) : ℚ) * 2 ^ u) ^ 2 * x)
    (hfl : (k0 : ℚ) ≤ (r + 1 / 2) * 2 ^ u / 2 ^ q ∧ ((r : ℚ) + 1 / 2) * 2 ^ u / 2 ^ q < k0 + 1)
    (hex : ex = true ↔ ((r : ℚ) + 1 / 2) * 2 ^ u / 2 ^ q = k0) (hlo : (2 : ℚ) ^ (q + 23) ≤ (r + 1 / 2) * 2 ^ u)
    (hhi : ((r : ℚ) + 1 / 2) * 2 ^ u < 2 ^ (q + 24)) (h1 : k0 - (if ex then 1 else 0) ≤ k) (h2 : k ≤ k0 + 1) :
    RootNear x k q := by
  have hU : (0 : ℚ) < 2 ^ u := by positivity
  have hQ0 : (2 : ℚ) ^ q = ((2 ^ j : Nat) : ℚ) * 2 ^ u := by
    rw [Nat.cast_pow, Nat.cast_ofNat, ← zpow_natCast (2 : ℚ) j, ← zpow_add₀ two_ne_zero, hj, sub_add_cancel]
  have hQ : ∀ i : Int, ∀ c : Nat, (2 : ℚ) ^ i = c → (2 : ℚ) ^ (q + i) = ((2 ^ j * c : Nat) : ℚ) * 2 ^ u := fun i c hc => by
    rw [zpow_add₀ two_ne_zero, hc, hQ0, Nat.cast_mul]
    ring
  have hQ23 := hQ 23 8388608 (by norm_num)
  have hQ24 := hQ 24 16777216 (by norm_num)
  rw [hQ23] at hlo
  rw [hQ24] at hhi
  have hdiv : ((r : ℚ) + 1 / 2) * 2 ^ u / 2 ^ q = (r + 1 / 2) / (2 ^ j : Nat) := by rw [hQ0, mul_div_mul_right _ _ hU.ne']
  rw [hdiv] at hfl hex
  have hJ : (0 : ℚ) < (2 ^ j : Nat) := Nat.cast_pos.2 (Nat.two_pow_pos j)
  -- whole numbers of the unit lie on the same side of the root as of the midpoint
  have hle : ∀ c : Nat, (c : ℚ) ≤ r + 1 / 2 → c ≤ r := fun c hc => by
    have h3 : (c : ℚ) < (r + 1 : Nat) := by push_cast; linarith
    exact Nat.le_of_lt_succ (Nat.cast_lt.1 h3)
  have hlt : ∀ c : Nat, (r : ℚ) + 1 / 2 < c → r + 1 ≤ c := fun c hc => by
    have h3 : (r : ℚ) < c := by linarith
    exact Nat.cast_lt.1 h3
  have hk0 : k0 * 2 ^ j ≤ r := hle _ (by rw [Nat.cast_mul]; exact (le_div_iff₀ hJ).1 hfl.1)
  have hk1 : r + 1 ≤ (k0 + 1) * 2 ^ j := hlt _ (by rw [Nat.cast_mul, Nat.cast_succ]; exact (div_lt_iff₀ hJ).1 hfl.2)
  have hlo' : 2 ^ j * 8388608 ≤ r := hle _ (le_of_mul_le_mul_right hlo hU)
  have hhi' : r + 1 ≤ 2 ^ j * 16777216 := hlt _ (lt_of_mul_lt_mul_right hhi hU.le)
  have hex' : ex = false := by
    rw [← Bool.not_eq_true, hex, div_eq_iff hJ.ne']
    intro hc
    have h3 : ((2 * r + 1 : Nat) : ℚ) = (2 * (k0 * 2 ^ j) : Nat) := by
      rw [Nat.cast_mul, Nat.cast_mul, ← hc]; push_cast; ring
    have h4 := Nat.cast_injective h3
    generalize k0 * 2 ^ j = c at h4
    omega
  rw [hex', if_neg (by decide), Nat.sub_zero] at h1
  have hk23 : 8388608 < k0 + 1 := by
    have h3 : 2 ^ j * 8388608 < (k0 + 1) * 2 ^ j := lt_of_le_of_lt hlo' hk1
    rw [mul_comm] at h3
    exact Nat.lt_of_mul_lt_mul_right h3
  refine rootNear_of_bounds hx hA hB.le (by omega) ?_ ?_ (by positivity)
    (A := (r : ℚ) * 2 ^ u) (B := ((r + 1 : Nat) : ℚ) * 2 ^ u) ?_ ?_
  · rw [hQ0, ← mul_assoc]
    refine mul_le_mul_of_nonneg_right ?_ hU.le
    have h3 : ((k : ℚ) - 1) ≤ k0 := by
      have : (k : ℚ) ≤ (k0 + 1 : Nat) := Nat.cast_le.2 h2
      push_cast at this; linarith
    calc ((k : ℚ) - 1) * (2 ^ j : Nat) ≤ k0 * (2 ^ j : Nat) := mul_le_mul_of_nonneg_right h3 hJ.le
      _ = ((k0 * 2 ^ j : Nat) : ℚ) := (Nat.cast_mul ..).symm
      _ ≤ r := Nat.cast_le.2 hk0
  · rw [hQ0, ← mul_assoc]
    refine mul_le_mul_of_nonneg_right ?_ hU.le
    calc ((r + 1 : Nat) : ℚ) ≤ ((k0 + 1) * 2 ^ j : Nat) := Nat.cast_le.2 hk1
      _ = ((k0 : ℚ) + 1) * (2 ^ j : Nat) := by rw [Nat.cast_mul, Nat.cast_succ]
      _ ≤ ((k : ℚ) + 1) * (2 ^ j : Nat) :=
        mul_le_mul_of_nonneg_right (by have : (k0 : ℚ) ≤ k := Nat.cast_le.2 h1; linarith) hJ.le
  · rw [hQ23]; exact mul_le_mul_of_nonneg_right (Nat.cast_le.2 hlo') hU.le
  · rw [hQ24]
    refine hB.trans_le (mul_le_mul_of_nonneg_right (pow_le_pow_left₀ (by positivity) ?_ 2) hx)
    exact mul_le_mul_of_nonneg_right (Nat.cast_le.2 hhi') hU.le
theorem rsqrt_inexact {n r k : Nat} {t : Int} {g : Int × Nat × Bool} (hr1 : r * r * n ≤ 2 ^ 400)
    (hr2 : 2 ^ 400 < (r + 1) * (r + 1) * n) (hr : 2 ^ 187 ≤ r) (ht : t ≤ 52)
    (hg : GridSpec (((2 * r + 1 : Nat) : ℚ) / (2 : Nat) * 2 ^ (-200 - t)) g)
    (h1 : g.2.1 - (if g.2.2 then 1 else 0) ≤ k) (h2 : k ≤ g.2.1 + 1) : RootNear (n * 2 ^ (2 * t)) k g.1 := by
  have hmid : ((2 * r + 1 : Nat) : ℚ) / (2 : Nat) = r + 1 / 2 := by push_cast; ring
  rw [hmid] at hg
  have hA2 : ((r : ℚ) * 2 ^ (-200 - t)) ^ 2 * (n * 2 ^ (2 * t)) ≤ 1 := by
    rw [scaled_square, div_le_one one_lt_two_pow_cast]; exact Nat.cast_le.2 hr1
  have hB2 : 1 < (((r + 1 : Nat) : ℚ) * 2 ^ (-200 - t)) ^ 2 * (n * 2 ^ (2 * t)) := by
    rw [scaled_square, one_lt_div one_lt_two_pow_cast]; exact Nat.cast_lt.2 hr2
  clear hr1 hr2
  have hr' : (2 : ℚ) ^ (187 : Int) ≤ r := by
    rw [show (187 : Int) = ((187 : Nat) : Int) from rfl, zpow_natCast]; exact_mod_cast hr
  clear hr
  have hbig : (2 : ℚ) ^ (187 + (-200 - t)) ≤ (r + 1 / 2) * 2 ^ (-200 - t) := by
    rw [zpow_add₀ two_ne_zero]
    exact mul_le_mul_of_nonneg_right (by linarith) (by positivity)
  have hq1 : 187 + (-200 - t) < g.1 + 24 := (zpow_lt_zpow_iff_right₀ one_lt_two).1 (hbig.trans_lt hg.high)
  exact rootNear_midpoint (j := (g.1 - (-200 - t)).toNat) (by positivity) (by omega) hA2 hB2 hg.floor hg.exact
    (hg.low.resolve_left (by omega)) hg.high h1 h2
theorem rsqrt_spec (hb : decodeF fp32 b = .fin false m e) (hm : m ≠ 0) :
    ∃ k q, approxV .rsqrt b = .fin false k q ∧ RootNear ((m : ℚ) * 2 ^ e) k q := by
  have hn := evenM_ne (e := e) hm
  have hlt := evenM_lt (e := e) (approx_operand hb).1
  have ht := evenE_le (operand_exponent hb)
  obtain ⟨hr1, hr2⟩ := sqrt_bounds (p := 2 ^ 400) (Nat.pos_of_ne_zero hn) (rfl : _ = rootOf (evenM m e))
  have hr := root_large hlt hr2
  rw [approxV_rsqrt hb hm, even_value]
  generalize rootOf (evenM m e) = r at *
  generalize evenM m e = n at *
  generalize evenE e / 2 = t at *
  by_cases h : r * r * n = 2 ^ 400
  · rw [h, beq_self_eq_true, if_pos rfl, if_pos rfl]
    obtain ⟨k, hk, h1, h2⟩ := within_spec .rsqrt b false r 1 (-200 - t)
    have hg := onGrid_spec (n := r) (d := 1) (e := -200 - t) (by have := Nat.two_pow_pos 187; omega) one_ne_zero
    rw [Nat.cast_one, div_one] at hg
    exact ⟨k, _, hk, rsqrt_exact h hr ht hg h1 h2⟩
  · have hne : (r * r * n == 2 ^ 400) = false := beq_eq_false_iff_ne.2 h
    rw [hne, if_neg (by decide), if_neg (by decide)]
    obtain ⟨k, hk, h1, h2⟩ := within_spec .rsqrt b false (2 * r + 1) 2 (-200 - t)
    have hg := onGrid_spec (n := 2 * r + 1) (d := 2) (e := -200 - t) (by omega) two_ne_zero
    exact ⟨k, _, hk, rsqrt_inexact hr1 hr2 hr ht hg h1 h2⟩
end

/-! ## Reductions (R197) -/

section
variable {s : State} {r : Reg} {q : VArith} {p : PReg} {b : VReg}

theorem foldl_add_sum {α : Type} (f : α → Int) (l : List α) (a : Int) : l.foldl (fun a x => a + f x) a = a + (l.map f).sum := by
  induction l generalizing a with
  | nil => simp
  | cons x l ih => rw [List.foldl_cons, ih, List.map_cons, List.sum_cons, add_assoc]
theorem exec_vrsum_int (h : QueuesReady s [] [r]) (hq : q.t = .i32) : exec (.vrsum q r p b) s =
    .next (wrote s 2 [] r (BitVec.ofInt 64 (((governed (prd s p) (vrd s b)).map (laneInt q.u)).sum))) := by
  rw [show exec (.vrsum q r p b) s = execVrsum q r p b s from rfl, execVrsum, runI_ready h, if_pos hq, foldl_add_sum, zero_add,
    wrote_eq]
  rfl
theorem exec_vrsum_float (h : QueuesReady s [] [r]) (hq : q.t ≠ .i32) : exec (.vrsum q r p b) s =
    .next (passed (countMe (wr s r (BitVec.ofNat 64 (tree32 (fmtOf q.t) q.sat
      ((List.range 32).map (fun n => if plane (prd s p) n then laneBits q.t (laneN (vrd s b) n) else 0))).1))
        ⟨(tree32 (fmtOf q.t) q.sat
      ((List.range 32).map (fun n => if plane (prd s p) n then laneBits q.t (laneN (vrd s b) n) else 0))).2, 0, 0⟩) 2 []) := by
  rw [show exec (.vrsum q r p b) s = execVrsum q r p b s from rfl, execVrsum, runI_ready h, if_neg hq]
  rfl
theorem reduceBest_int (big : Bool) (h : QueuesReady s [] [r]) (hq : q.t = .i32) : reduceBest big q r p b s =
    wrote s 2 [] r (BitVec.ofInt 64 (bestInt big ((governed (prd s p) (vrd s b)).map (laneInt q.u))
      (if big then intMinOf 32 q.u else intMaxOf 32 q.u))) := by
  rw [reduceBest, runI_ready h]
  dsimp only
  rw [if_pos hq, wrote_eq]
  rfl
theorem reduceBest_float (big : Bool) (h : QueuesReady s [] [r]) (hq : q.t ≠ .i32) : reduceBest big q r p b s =
    wrote s 2 [] r (BitVec.ofNat 64 (roundF (fmtOf q.t) .rne false
      (bestVal big ((governed (prd s p) (vrd s b)).map (laneVal q.t)))).1) := by
  rw [reduceBest, runI_ready h]
  dsimp only
  rw [if_neg hq, wrote_eq]
  rfl
/-- The largest of a list: no less than any of it, and one of it. -/
theorem bestInt_max (l : List Int) (d : Int) : (∀ x ∈ l, x ≤ bestInt true l d) ∧
    (bestInt true l d ∈ l ∨ l = [] ∧ bestInt true l d = d) := by
  have key : ∀ (l : List Int) (a : Int), a ≤ l.foldl max a ∧ (∀ x ∈ l, x ≤ l.foldl max a) ∧
    (l.foldl max a = a ∨ l.foldl max a ∈ l) := by
    intro l
    induction l with
    | nil => exact fun a => ⟨le_refl a, fun _ h => absurd h List.not_mem_nil, .inl rfl⟩
    | cons x l ih =>
      intro a
      obtain ⟨h1, h2, h3⟩ := ih (max a x)
      refine ⟨(le_max_left a x).trans h1, fun y hy => ?_, ?_⟩
      · rcases List.mem_cons.1 hy with rfl | hy
        · exact (le_max_right a y).trans h1
        · exact h2 y hy
      · rcases h3 with h3 | h3
        · rcases max_choice a x with h4 | h4
          · exact .inl (h3.trans h4)
          · exact .inr (by rw [List.foldl_cons, h3, h4]; exact List.mem_cons_self)
        · exact .inr (List.mem_cons_of_mem _ h3)
  cases l with
  | nil => exact ⟨fun _ h => absurd h List.not_mem_nil, .inr ⟨rfl, rfl⟩⟩
  | cons x l =>
    obtain ⟨h1, h2, h3⟩ := key l x
    refine ⟨fun y hy => ?_, .inl ?_⟩
    · rcases List.mem_cons.1 hy with rfl | hy
      · exact h1
      · exact h2 y hy
    · exact List.mem_cons.2 h3
theorem foldl_min_neg (l : List Int) (a : Int) : l.foldl min a = -((l.map Neg.neg).foldl max (-a)) := by
  induction l generalizing a with
  | nil => simp
  | cons x l ih => rw [List.foldl_cons, ih, List.map_cons, List.foldl_cons, max_neg_neg]
theorem bestInt_neg (l : List Int) (d : Int) : bestInt false l d = -(bestInt true (l.map Neg.neg) (-d)) := by
  cases l with
  | nil => exact (neg_neg d).symm
  | cons x l => exact foldl_min_neg l x
theorem bestInt_min (l : List Int) (d : Int) : (∀ x ∈ l, bestInt false l d ≤ x) ∧
    (bestInt false l d ∈ l ∨ l = [] ∧ bestInt false l d = d) := by
  obtain ⟨h1, h2⟩ := bestInt_max (l.map Neg.neg) (-d)
  rw [bestInt_neg]
  refine ⟨fun x hx => ?_, ?_⟩
  · have := h1 (-x) (List.mem_map_of_mem hx)
    omega
  · rcases h2 with h2 | ⟨h2, h3⟩
    · obtain ⟨y, hy, he⟩ := List.mem_map.1 h2
      rw [← he, neg_neg]
      exact .inl hy
    · exact .inr ⟨List.map_eq_nil_iff.1 h2, by rw [h3, neg_neg]⟩

/-- The part of O35 on reductions of INT32 lanes. -/
theorem reductions_int (h : QueuesReady s [] [r]) (hq : q.t = .i32) :
    exec (.vrsum q r p b) s = .next (wrote s 2 [] r (BitVec.ofInt 64 (((governed (prd s p) (vrd s b)).map (laneInt q.u)).sum)))
    ∧ (∃ x, exec (.vrmax q r p b) s = .next (wrote s 2 [] r (BitVec.ofInt 64 x))
      ∧ (∀ l ∈ governed (prd s p) (vrd s b), laneInt q.u l ≤ x)
      ∧ ((∃ l ∈ governed (prd s p) (vrd s b), x = laneInt q.u l)
        ∨ (governed (prd s p) (vrd s b) = [] ∧ x = if q.u then 0 else -2147483648)))
    ∧ (∃ x, exec (.vrmin q r p b) s = .next (wrote s 2 [] r (BitVec.ofInt 64 x))
      ∧ (∀ l ∈ governed (prd s p) (vrd s b), x ≤ laneInt q.u l)
      ∧ ((∃ l ∈ governed (prd s p) (vrd s b), x = laneInt q.u l)
        ∨ (governed (prd s p) (vrd s b) = [] ∧ x = if q.u then 4294967295 else 2147483647))) := by
  have hmem : ∀ {x : Int}, x ∈ (governed (prd s p) (vrd s b)).map (laneInt q.u) →
      ∃ l ∈ governed (prd s p) (vrd s b), x = laneInt q.u l := fun hx => by
    obtain ⟨l, hl, he⟩ := List.mem_map.1 hx
    exact ⟨l, hl, he.symm⟩
  refine ⟨exec_vrsum_int h hq, ⟨_, congrArg Host.Outcome.next (reduceBest_int true h hq), ?_, ?_⟩,
    ⟨_, congrArg Host.Outcome.next (reduceBest_int false h hq), ?_, ?_⟩⟩
  · exact fun l hl => (bestInt_max _ _).1 _ (List.mem_map_of_mem hl)
  · refine (bestInt_max _ _).2.imp hmem fun ⟨h1, h2⟩ => ⟨List.map_eq_nil_iff.1 h1, h2.trans ?_⟩
    cases q.u <;> rfl
  · exact fun l hl => (bestInt_min _ _).1 _ (List.mem_map_of_mem hl)
  · refine (bestInt_min _ _).2.imp hmem fun ⟨h1, h2⟩ => ⟨List.map_eq_nil_iff.1 h1, h2.trans ?_⟩
    cases q.u <;> rfl
/-- The part of O35 on reductions of floating-point lanes. -/
theorem reductions_float (h : QueuesReady s [] [r]) (hq : q.t ≠ .i32) :
    (let z := tree32 (fmtOf q.t) q.sat
        ((List.range 32).map (fun n => if (prd s p).getLsbD n then laneBits q.t (laneN (vrd s b) n) else 0))
     exec (.vrsum q r p b) s = .next (passed (countMe (wr s r (BitVec.ofNat 64 z.1)) ⟨z.2, 0, 0⟩) 2 []))
    ∧ (∃ v, exec (.vrmax q r p b) s = .next (wrote s 2 [] r (BitVec.ofNat 64 (roundF (fmtOf q.t) .rne false v).1))
      ∧ v = bestVal true ((governed (prd s p) (vrd s b)).map (laneVal q.t)))
    ∧ (∃ v, exec (.vrmin q r p b) s = .next (wrote s 2 [] r (BitVec.ofNat 64 (roundF (fmtOf q.t) .rne false v).1))
      ∧ v = bestVal false ((governed (prd s p) (vrd s b)).map (laneVal q.t))) :=
  ⟨exec_vrsum_float h hq, ⟨_, congrArg Host.Outcome.next (reduceBest_float true h hq), rfl⟩,
    ⟨_, congrArg Host.Outcome.next (reduceBest_float false h hq), rfl⟩⟩
end

/-! ## Conversion (R124, R198) -/

theorem clampInt_eq (w : Nat) (hw : 1 ≤ w) (u : Bool) (y : Int) :
    let lo : Int := if u then 0 else -(2 ^ (w - 1))
    let hi : Int := if u then 2 ^ w - 1 else 2 ^ (w - 1) - 1
    clampInt w u y = (max lo (min hi y), !decide (lo ≤ y ∧ y ≤ hi)) := by
  have h1 : (0 : Int) < 2 ^ (w - 1) := by positivity
  have h2 : (0 : Int) < 2 ^ w := by positivity
  unfold clampInt intMinOf intMaxOf
  cases u with
  | true =>
    simp only [if_true]
    split
    · rw [max_eq_left (by omega), decide_eq_false (by omega)]; rfl
    · split
      · rw [min_eq_left (by omega), max_eq_right (by omega), decide_eq_false (by omega)]; rfl
      · rw [min_eq_right (by omega), max_eq_right (by omega), decide_eq_true (by omega)]; rfl
  | false =>
    simp only [Bool.false_eq_true, if_false]
    split
    · rw [max_eq_left (by omega), decide_eq_false (by omega)]; rfl
    · split
      · rw [min_eq_left (by omega), max_eq_right (by omega), decide_eq_false (by omega)]; rfl
      · rw [min_eq_right (by omega), max_eq_right (by omega), decide_eq_true (by omega)]; rfl
theorem ite_not_decide (P : Prop) [Decidable P] : (if (!decide P) = true then 1 else 0 : Nat) = if P then 0 else 1 := by
  by_cases h : P <;> simp [h]
theorem vfInt_pos {f : VFmt} {w : Nat} (h : vfInt f = some w) : 1 ≤ w := by
  cases f <;> simp only [vfInt, Option.some.injEq, reduceCtorEq] at h <;> omega
theorem toInteger_counts (w : Nat) (u : Bool) (rm : Rnd) (v : Val) : AtMostOne (toInteger w u rm v).2 := by
  cases v with
  | nan => simp [toInteger, AtMostOne]
  | inf n => cases n <;> simp [toInteger, AtMostOne]
  | fin n m e => exact atMostOne_satEv _
theorem cvtLane_counts (rm : Rnd) (sat : Bool) (df : VFmt) (du : Bool) (sf : VFmt) (su : Bool) (x : Lane) :
    AtMostOne (cvtLane rm sat df du sf su x).2 := by
  unfold cvtLane
  split
  · exact atMostOne_satEv _
  · exact atMostOne_satEv _
  · exact toInteger_counts ..
  · exact atMostOne_satEv _
/-- What an integer element of a conversion is. -/
def putInt (w : Nat) (du : Bool) (y : Int) : Lane × Events :=
  (BitVec.ofInt 32 (max (if du then 0 else -(2 ^ (w - 1)) : Int) (min (if du then 2 ^ w - 1 else 2 ^ (w - 1) - 1) y)),
    ⟨if (if du then 0 else -(2 ^ (w - 1)) : Int) ≤ y ∧ y ≤ (if du then 2 ^ w - 1 else 2 ^ (w - 1) - 1) then 0 else 1, 0, 0⟩)
theorem put_clamp {w : Nat} (hw : 1 ≤ w) (du : Bool) (y : Int) :
    (BitVec.ofInt 32 (clampInt w du y).1, satEv (clampInt w du y).2) = putInt w du y := by
  rw [clampInt_eq w hw du y]
  dsimp only
  rw [satEv, ite_not_decide]
  rfl
section
variable {rm : Rnd} {sat du su : Bool} {df sf : VFmt} {x : Lane}
theorem cvtLane_int {k w : Nat} (hs : vfInt sf = some k) (hd : vfInt df = some w) :
    cvtLane rm sat df du sf su x = putInt w du (readInt k su x) := by
  unfold cvtLane
  rw [hs, hd]
  exact put_clamp (vfInt_pos hd) du _
theorem cvtLane_toFloat {k : Nat} (hs : vfInt sf = some k) (hd : vfInt df = none) : cvtLane rm sat df du sf su x =
    (BitVec.ofNat 32 (roundF (vfFmt df) rm sat (ofInt (readInt k su x))).1,
      satEv (roundF (vfFmt df) rm sat (ofInt (readInt k su x))).2) := by
  unfold cvtLane
  rw [hs, hd]
theorem cvtLane_float (hs : vfInt sf = none) (hd : vfInt df = none) : cvtLane rm sat df du sf su x =
    (BitVec.ofNat 32 (roundF (vfFmt df) rm sat (decodeF (vfFmt sf) (x.toNat % (2 * (vfFmt sf).half)))).1,
      satEv (roundF (vfFmt df) rm sat (decodeF (vfFmt sf) (x.toNat % (2 * (vfFmt sf).half)))).2) := by
  unfold cvtLane
  rw [hs, hd]
theorem cvtLane_toInt {w : Nat} (hs : vfInt sf = none) (hd : vfInt df = some w) {v : Val}
    (hv : decodeF (vfFmt sf) (x.toNat % (2 * (vfFmt sf).half)) = v) : cvtLane rm sat df du sf su x =
      (BitVec.ofInt 32 (toInteger w du rm v).1, (toInteger w du rm v).2) := by
  unfold cvtLane
  rw [hs, hd]
  dsimp only
  rw [hv]
theorem cvtLane_fin {w : Nat} (hs : vfInt sf = none) (hd : vfInt df = some w) {h : Bool} {k : Nat} {e : Int}
    (hv : decodeF (vfFmt sf) (x.toNat % (2 * (vfFmt sf).half)) = .fin h k e) :
    cvtLane rm sat df du sf su x = putInt w du (signed h (roundInt rm h k e)) := by
  rw [cvtLane_toInt hs hd hv, ← put_clamp (vfInt_pos hd)]
  rfl
end

/-! ## Scale words (R120, R121) -/

/-- The scale of a code: exponent byte and sixteen fraction bits, in one whole number. -/
def scaleOf (t : Int) : ℚ := 2 ^ (t / 65536 - 127) * (1 + (t % 65536 : Int) / 65536)
theorem scaleOf_code (e s : Int) (h0 : 0 ≤ s) (h1 : s ≤ 65536) : scaleOf (e * 65536 + s) = 2 ^ (e - 127) *
    (1 + (s : ℚ) / 65536) := by
  rcases h1.lt_or_eq with h | rfl
  · rw [scaleOf, show (e * 65536 + s) / 65536 = e by omega, show (e * 65536 + s) % 65536 = s by omega]
  · rw [scaleOf, show (e * 65536 + 65536) / 65536 = (e - 127) + 1 + 127 by omega, show (e * 65536 + 65536) % 65536 = 0 by omega,
      add_sub_cancel_right, zpow_add_one₀ two_ne_zero]
    push_cast
    ring
theorem scaleOf_lt_succ (t : Int) : scaleOf t < scaleOf (t + 1) := by
  have ht : t = t / 65536 * 65536 + t % 65536 := by omega
  rw [ht, add_assoc, scaleOf_code _ _ (by omega) (by omega), scaleOf_code _ _ (by omega) (by omega)]
  refine mul_lt_mul_of_pos_left ?_ (by positivity)
  push_cast
  linarith
theorem scaleOf_mono : StrictMono scaleOf := strictMono_int_of_lt_succ scaleOf_lt_succ

/-- The power of two by which `d` falls short of `n`. -/
theorem shift_bounds {n d : Nat} (hd : 0 < d) (hdn : d ≤ n) :
    let k0 := Nat.log2 n - Nat.log2 d
    let k := if n < d * 2 ^ k0 then k0 - 1 else k0
    d * 2 ^ k ≤ n ∧ n < 2 * (d * 2 ^ k) := by
  intro k0 k
  have hn : n ≠ 0 := by omega
  have h1 := Nat.log2_self_le hn
  have h2 : n < 2 ^ (Nat.log2 n + 1) := Nat.lt_log2_self
  have h3 := Nat.log2_self_le hd.ne'
  have h4 : d < 2 ^ (Nat.log2 d + 1) := Nat.lt_log2_self
  have hle : Nat.log2 d ≤ Nat.log2 n := (Nat.le_log2 hn).2 (h3.trans hdn)
  have hsum : Nat.log2 d + k0 = Nat.log2 n := Nat.add_sub_cancel' hle
  by_cases h : n < d * 2 ^ k0
  · have hk : k = k0 - 1 := if_pos h
    have hk0 : k0 ≠ 0 := fun h0 => by rw [h0, pow_zero, mul_one] at h; omega
    have hpow : 2 ^ k0 = 2 * 2 ^ (k0 - 1) := by rw [← pow_succ']; congr 1; omega
    rw [hk]
    refine ⟨?_, by rw [hpow] at h; calc n < d * (2 * 2 ^ (k0 - 1)) := h
                                      _ = 2 * (d * 2 ^ (k0 - 1)) := by ring⟩
    calc d * 2 ^ (k0 - 1) ≤ 2 ^ (Nat.log2 d + 1) * 2 ^ (k0 - 1) := Nat.mul_le_mul_right _ h4.le
      _ = 2 ^ Nat.log2 n := by rw [← pow_add]; congr 1; omega
      _ ≤ n := h1
  · have hk : k = k0 := if_neg h
    rw [hk]
    refine ⟨not_lt.1 h, ?_⟩
    calc n < 2 ^ (Nat.log2 n + 1) := h2
      _ = 2 * (2 ^ Nat.log2 d * 2 ^ k0) := by rw [← pow_add, hsum, pow_succ']
      _ ≤ 2 * (d * 2 ^ k0) := Nat.mul_le_mul_left _ (Nat.mul_le_mul_right _ h3)
/-- The code of the least scale that is no less than `n / d × 2^e`. -/
theorem scale_code {n d : Nat} (hd : 0 < d) (e : Int) (k s0 : Nat) (hk1 : d * 2 ^ k ≤ n) (hk2 : n < 2 * (d * 2 ^ k))
    (hs : s0 = (n * 65536 + (d * 2 ^ k - 1)) / (d * 2 ^ k) - 65536) :
    s0 ≤ 65536 ∧ (n : ℚ) / d * 2 ^ e ≤ scaleOf ((e + k + 127) * 65536 + s0)
      ∧ scaleOf ((e + k + 127) * 65536 + s0 - 1) < (n : ℚ) / d * 2 ^ e := by
  have hD : 0 < d * 2 ^ k := Nat.mul_pos hd (Nat.two_pow_pos k)
  have hval : (n : ℚ) / d * 2 ^ e = (n : ℚ) / (d * 2 ^ k : Nat) * 2 ^ (e + (k : Int)) := by
    rw [zpow_add₀ two_ne_zero, zpow_natCast]
    push_cast
    field_simp
  rw [hval]
  generalize d * 2 ^ k = D at hk1 hk2 hs hD
  have hD' : (0 : ℚ) < D := by exact_mod_cast hD
  have hc1 := Nat.div_mul_le_self (n * 65536 + (D - 1)) D
  have hc2 := Nat.lt_div_mul_add (a := n * 65536 + (D - 1)) hD
  generalize hc : (n * 65536 + (D - 1)) / D = c at hs hc1 hc2
  have hge : 65536 ≤ c := by
    by_contra h
    have : c * D ≤ 65535 * D := Nat.mul_le_mul_right D (by omega)
    omega
  have hle : c ≤ 131072 := by
    by_contra h
    have : 131073 * D ≤ c * D := Nat.mul_le_mul_right D (by omega)
    omega
  have hcs : (c : ℚ) = s0 + 65536 := by
    have : c = s0 + 65536 := by omega
    rw [this]; push_cast; ring
  have hP : (0 : ℚ) < 2 ^ (e + (k : Int)) := by positivity
  have hE : (e + k + 127) - 127 = e + (k : Int) := by ring
  refine ⟨by omega, ?_, ?_⟩
  · rw [scaleOf_code _ _ (by omega) (by omega), hE, mul_comm]
    refine mul_le_mul_of_nonneg_left ?_ hP.le
    rw [div_le_iff₀ hD']
    have h : (n : ℚ) * 65536 ≤ c * D := by
      have : n * 65536 ≤ c * D := by omega
      exact_mod_cast this
    rw [hcs] at h
    push_cast
    linarith
  · by_cases hs0 : s0 = 0
    · refine lt_of_lt_of_le (scaleOf_mono (show _ < (e + k + 127) * 65536 + (s0 : Int) by omega)) ?_
      rw [scaleOf_code _ _ (by omega) (by omega), hE, mul_comm]
      refine mul_le_mul_of_nonneg_right ?_ hP.le
      rw [hs0, le_div_iff₀ hD']
      have : (D : ℚ) ≤ n := Nat.cast_le.2 hk1
      push_cast
      linarith
    · rw [add_sub_assoc, scaleOf_code _ _ (by omega) (by omega), hE, mul_comm]
      refine mul_lt_mul_of_pos_right ?_ hP
      rw [lt_div_iff₀ hD']
      have h : (c : ℚ) * D < n * 65536 + D := by
        have : c * D < n * 65536 + D := by omega
        exact_mod_cast this
      rw [hcs] at h
      push_cast
      linarith

/-! ### The largest finite value of a block -/

theorem ratOf_absV (v : Val) : ratOf (absV v) = |ratOf v| := by
  cases v with
  | nan => simp [absV, ratOf]
  | inf n => simp [absV, ratOf]
  | fin n m e => rw [absV, ratOf_fin, ratOf_fin, abs_mul, abs_sgn, sgn, if_neg (by decide), one_mul, one_mul, abs_of_nonneg
    (by positivity)]
/-- A finite value with the sign of no minus. -/
def isMag : Val → Prop
  | .fin false _ _ => True
  | _ => False
theorem isMag_iff (v : Val) : isMag v ↔ ∃ m e, v = .fin false m e := by
  cases v with
  | fin n m e => cases n <;> simp [isMag]
  | _ => simp [isMag]
/-- The larger by the order of finite values. -/
def larger (a x : Val) : Val := if ltV a x then x else a
theorem foldl_larger (l : List Val) {a : Val} (ha : isMag a) (hl : ∀ x ∈ l, isMag x) :
    isMag (l.foldl larger a) ∧ ratOf a ≤ ratOf (l.foldl larger a) ∧ (∀ x ∈ l, ratOf x ≤ ratOf (l.foldl larger a))
      ∧ (l.foldl larger a = a ∨ l.foldl larger a ∈ l) := by
  induction l generalizing a with
  | nil => exact ⟨ha, le_refl _, fun _ h => absurd h List.not_mem_nil, .inl rfl⟩
  | cons x l ih =>
    have hx := hl x List.mem_cons_self
    obtain ⟨m, e, rfl⟩ := (isMag_iff a).1 ha
    obtain ⟨n, p, rfl⟩ := (isMag_iff x).1 hx
    have hsel : (larger (.fin false m e) (.fin false n p) = .fin false m e ∨ larger (.fin false m e) (.fin false n p) = .fin
      false n p)
        ∧ ratOf (.fin false m e) ≤ ratOf (larger (.fin false m e) (.fin false n p))
        ∧ ratOf (.fin false n p) ≤ ratOf (larger (.fin false m e) (.fin false n p)) := by
      rw [larger, ltV_fin]
      by_cases h : ratOf (.fin false m e) < ratOf (.fin false n p)
      · rw [if_pos (decide_eq_true h)]; exact ⟨.inr rfl, h.le, le_refl _⟩
      · rw [if_neg (by simpa using h)]; exact ⟨.inl rfl, le_refl _, not_lt.1 h⟩
    obtain ⟨h1, h2, h3⟩ := hsel
    have hmag : isMag (larger (.fin false m e) (.fin false n p)) := by rcases h1 with h | h <;> rw [h] <;> trivial
    obtain ⟨k1, k2, k3, k4⟩ := ih hmag fun y hy => hl y (List.mem_cons_of_mem _ hy)
    refine ⟨k1, h2.trans k2, fun y hy => ?_, ?_⟩
    · rcases List.mem_cons.1 hy with rfl | hy
      · exact h3.trans k2
      · exact k3 y hy
    · rcases k4 with k4 | k4
      · rcases h1 with h | h
        · exact .inl (k4.trans h)
        · exact .inr (by rw [List.foldl_cons, k4, h]; exact List.mem_cons_self)
      · exact .inr (List.mem_cons_of_mem _ k4)

/-! ### `vscale` -/

def isFin : Val → Bool
  | .fin .. => true
  | _ => false
/-- The largest magnitude of the finite values of a block. -/
def blockTop (xs : List Val) : Val := ((xs.map absV).filter isFin).foldl larger (.fin false 0 0)
theorem isMag_of_isFin_absV (v : Val) (h : isFin (absV v) = true) : isMag (absV v) := by
  cases v with
  | nan => simp [absV, isFin] at h
  | inf n => simp [absV, isFin] at h
  | fin n m e => trivial
theorem mem_mags {xs : List Val} {y : Val} (h : y ∈ (xs.map absV).filter isFin) : ∃ x ∈ xs, y = absV x ∧ isMag y := by
  obtain ⟨hy, hf⟩ := List.mem_filter.1 h
  obtain ⟨x, hx, rfl⟩ := List.mem_map.1 hy
  exact ⟨x, hx, rfl, isMag_of_isFin_absV x hf⟩
theorem blockTop_spec (xs : List Val) : ∃ am ae, blockTop xs = .fin false am ae ∧ (∀ x ∈ xs, |ratOf x| ≤ (am : ℚ) * 2 ^ ae)
    ∧ ((am : ℚ) * 2 ^ ae = 0 ∨ ∃ z ∈ xs, |ratOf z| = (am : ℚ) * 2 ^ ae) := by
  obtain ⟨h1, h2, h3, h4⟩ := foldl_larger ((xs.map absV).filter isFin) (a := .fin false 0 0) trivial
    fun y hy => (mem_mags hy).elim fun _ h => h.2.2
  obtain ⟨am, ae, he⟩ := (isMag_iff _).1 h1
  refine ⟨am, ae, he, fun x hx => ?_, ?_⟩
  · rw [← ratOf_mag, ← he, ← ratOf_absV]
    by_cases hf : isFin (absV x) = true
    · exact h3 _ (List.mem_filter.2 ⟨List.mem_map_of_mem hx, hf⟩)
    · have h0 : ratOf (absV x) = 0 := by
        cases x with
        | nan => rfl
        | inf n => rfl
        | fin n m e => exact absurd rfl hf
      rw [h0]
      refine le_trans (le_of_eq ?_) h2
      simp [ratOf]
  · rw [← ratOf_mag, ← he]
    rcases h4 with h4 | h4
    · left; rw [h4]; simp [ratOf]
    · right
      obtain ⟨x, hx, hxe, -⟩ := mem_mags h4
      exact ⟨x, hx, by rw [← ratOf_absV, ← hxe]⟩
/-- The scale word for a block whose largest magnitude is `am × 2^ae`. -/
def scaleFor (m am : Nat) (ae : Int) : Nat × Bool :=
  let n := am * 2 ^ (m - 1)
  let d := 2 ^ (m - 1) - 1
  let k0 := Nat.log2 n - Nat.log2 d
  let k := if n < d * 2 ^ k0 then k0 - 1 else k0
  let s0 := (n * 65536 + (d * 2 ^ k - 1)) / (d * 2 ^ k) - 65536
  let s := if s0 = 65536 then 0 else s0
  let e : Int := ae + (k : Int) + (if s0 = 65536 then 1 else 0) + 127
  if 0xFE < e then (0xFEFFFF, true)
  else if e < 1 then (0x010000, false)
  else (e.toNat * 65536 + s, false)
theorem vscaleOf_nan {xs : List Val} (h : xs.any isNan = true) (m : Nat) : vscaleOf xs m = (0xFF0000, false) := by
  rw [vscaleOf, if_pos h]
theorem vscaleOf_zero {xs : List Val} (h : xs.any isNan = false) {m am : Nat} {ae : Int} {b : Bool}
    (ht : blockTop xs = .fin b am ae) (h0 : am = 0) : vscaleOf xs m =
      if xs.any (fun x => x == .inf true || x == .inf false) then (0xFEFFFF, false) else (0, false) := by
  have e : vscaleOf xs m = if xs.any isNan then (0xFF0000, false) else
      match blockTop xs with
      | .fin _ am ae =>
        if am = 0 then (if xs.any (fun x => x == .inf true || x == .inf false) then (0xFEFFFF, false) else (0, false))
        else scaleFor m am ae
      | _ => (0, false) := rfl
  rw [e, h, ht, if_neg (by decide)]
  exact if_pos h0
theorem vscaleOf_some {xs : List Val} (h : xs.any isNan = false) {m am : Nat} {ae : Int} {b : Bool}
    (ht : blockTop xs = .fin b am ae) (h0 : am ≠ 0) : vscaleOf xs m = scaleFor m am ae := by
  have e : vscaleOf xs m = if xs.any isNan then (0xFF0000, false) else
      match blockTop xs with
      | .fin _ am ae =>
        if am = 0 then (if xs.any (fun x => x == .inf true || x == .inf false) then (0xFEFFFF, false) else (0, false))
        else scaleFor m am ae
      | _ => (0, false) := rfl
  rw [e, h, ht, if_neg (by decide)]
  exact if_neg h0
/-- A scale word of the code `t`. -/
def codeWord (t : Int) : Nat × Bool :=
  if 0xFEFFFF < t then (0xFEFFFF, true) else if t < 0x10000 then (0x010000, false) else (t.toNat, false)
theorem codeWord_split (e : Int) {s : Nat} (hs : s < 65536) : codeWord (e * 65536 + s) =
    if 0xFE < e then (0xFEFFFF, true) else if e < 1 then (0x010000, false) else (e.toNat * 65536 + s, false) := by
  unfold codeWord
  by_cases h1 : 0xFE < e
  · rw [if_pos h1, if_pos (by omega)]
  · rw [if_neg h1, if_neg (by omega)]
    by_cases h2 : e < 1
    · rw [if_pos h2, if_pos (by omega)]
    · rw [if_neg h2, if_neg (by omega), show (e * 65536 + (s : Int)).toNat = e.toNat * 65536 + s by omega]
theorem scaleFor_code {m am : Nat} (hm : 2 ≤ m) (h0 : am ≠ 0) (ae : Int) : ∃ t : Int, scaleFor m am ae = codeWord t
    ∧ (am : ℚ) * 2 ^ ae * 2 ^ (m - 1) / (2 ^ (m - 1) - 1) ≤ scaleOf t
    ∧ scaleOf (t - 1) < (am : ℚ) * 2 ^ ae * 2 ^ (m - 1) / (2 ^ (m - 1) - 1) := by
  have hp : 2 ≤ 2 ^ (m - 1) := by
    calc 2 = 2 ^ 1 := rfl
      _ ≤ 2 ^ (m - 1) := Nat.pow_le_pow_right (by decide) (by omega)
  have hd : 0 < 2 ^ (m - 1) - 1 := by omega
  have hdn : 2 ^ (m - 1) - 1 ≤ am * 2 ^ (m - 1) := by
    have : 1 * 2 ^ (m - 1) ≤ am * 2 ^ (m - 1) := Nat.mul_le_mul_right _ (Nat.pos_of_ne_zero h0)
    omega
  have hval : (am : ℚ) * 2 ^ ae * 2 ^ (m - 1) / (2 ^ (m - 1) - 1) = ((am * 2 ^ (m - 1) : Nat) : ℚ) / (2 ^ (m - 1) - 1 : Nat) * 2
    ^ ae := by
    rw [Nat.cast_sub (by omega)]
    push_cast
    ring
  obtain ⟨hk1, hk2⟩ := shift_bounds hd hdn
  rw [hval]
  unfold scaleFor
  dsimp only
  generalize am * 2 ^ (m - 1) = n at *
  generalize 2 ^ (m - 1) - 1 = d at *
  generalize (if n < d * 2 ^ (n.log2 - d.log2) then n.log2 - d.log2 - 1 else n.log2 - d.log2) = k at *
  generalize hs : (n * 65536 + (d * 2 ^ k - 1)) / (d * 2 ^ k) - 65536 = s0
  obtain ⟨h1, h2, h3⟩ := scale_code hd ae k s0 hk1 hk2 hs.symm
  refine ⟨_, ?_, h2, h3⟩
  by_cases hs0 : s0 = 65536
  · rw [if_pos hs0, if_pos hs0, hs0, show (ae + (k : Int) + 127) * 65536 + ((65536 : Nat) : Int) =
      (ae + (k : Int) + 1 + 127) * 65536 + ((0 : Nat) : Int) by omega, codeWord_split _ (by omega)]
  · rw [if_neg hs0, if_neg hs0, codeWord_split _ (by omega), add_zero]
/-- The scale of a scale word. -/
def worth (u : Nat) : ℚ := (2 : ℚ) ^ ((u / 65536 : Nat) - 127 : Int) * (1 + (u % 65536 : Nat) / 65536)
theorem worth_eq (u : Nat) : worth u = scaleOf u := rfl
/-- The word of a code is the least whose scale is no less than `a`. -/
theorem codeWord_least {t : Int} {a : ℚ} (h1 : a ≤ scaleOf t) (h2 : scaleOf (t - 1) < a) :
    (worth 0x00FEFFFF < a → (codeWord t).1 = 0x00FEFFFF ∧ (codeWord t).2 = true)
    ∧ (a ≤ worth 0x00010000 → (codeWord t).1 = 0x00010000 ∧ (codeWord t).2 = false)
    ∧ (worth 0x00010000 < a → a ≤ worth 0x00FEFFFF → 0x00010000 < (codeWord t).1 ∧ (codeWord t).1 ≤ 0x00FEFFFF
      ∧ (codeWord t).2 = false ∧ a ≤ worth (codeWord t).1 ∧ worth ((codeWord t).1 - 1) < a) := by
  rw [worth_eq, worth_eq]
  unfold codeWord
  refine ⟨fun h => ?_, fun h => ?_, fun h h' => ?_⟩
  · have ht : ((0x00FEFFFF : Nat) : Int) < t := scaleOf_mono.lt_iff_lt.1 (h.trans_le h1)
    rw [if_pos (by omega)]
    exact ⟨rfl, rfl⟩
  · have ht : t - 1 < ((0x00010000 : Nat) : Int) := scaleOf_mono.lt_iff_lt.1 (h2.trans_le h)
    rw [if_neg (by omega)]
    split
    · exact ⟨rfl, rfl⟩
    · exact ⟨by dsimp only; omega, rfl⟩
  · have ht1 : ((0x00010000 : Nat) : Int) < t := scaleOf_mono.lt_iff_lt.1 (h.trans_le h1)
    have ht2 : t - 1 < ((0x00FEFFFF : Nat) : Int) := scaleOf_mono.lt_iff_lt.1 (h2.trans_le h')
    rw [if_neg (by omega), if_neg (by omega)]
    have hw1 : ((t.toNat : Nat) : Int) = t := by omega
    have hw2 : ((t.toNat - 1 : Nat) : Int) = t - 1 := by omega
    refine ⟨by dsimp only; omega, by dsimp only; omega, rfl, ?_, ?_⟩
    · rw [worth_eq, hw1]; exact h1
    · rw [worth_eq, hw2]; exact h2
theorem any_isNan_eq_false {xs : List Val} (h : ∀ x ∈ xs, x ≠ .nan) : xs.any isNan = false :=
  List.any_eq_false.2 fun x hx => by rw [isNan, beq_iff_eq]; exact h x hx
theorem any_isNan_eq_true {xs : List Val} (h : ∃ x ∈ xs, x = .nan) : xs.any isNan = true := by
  obtain ⟨x, hx, rfl⟩ := h
  exact List.any_eq_true.2 ⟨_, hx, rfl⟩
/-- R121: what `vscale` gives of a block. -/
theorem vscaleOf_spec (xs : List Val) {m : Nat} (hm : 2 ≤ m) :
    ((∃ x ∈ xs, x = .nan) → (vscaleOf xs m).1 = 0x00FF0000 ∧ (vscaleOf xs m).2 = false)
    ∧ ((∀ x ∈ xs, x ≠ .nan) → (∀ x ∈ xs, ratOf x = 0) →
      (vscaleOf xs m).1 = (if ∃ g, Val.inf g ∈ xs then 0x00FEFFFF else 0) ∧ (vscaleOf xs m).2 = false)
    ∧ ((∀ x ∈ xs, x ≠ .nan) → ∀ z ∈ xs, (∀ x ∈ xs, |ratOf x| ≤ |ratOf z|) → ratOf z ≠ 0 →
      let a := |ratOf z| * 2 ^ (m - 1) / (2 ^ (m - 1) - 1)
      (worth 0x00FEFFFF < a → (vscaleOf xs m).1 = 0x00FEFFFF ∧ (vscaleOf xs m).2 = true)
      ∧ (a ≤ worth 0x00010000 → (vscaleOf xs m).1 = 0x00010000 ∧ (vscaleOf xs m).2 = false)
      ∧ (worth 0x00010000 < a → a ≤ worth 0x00FEFFFF → 0x00010000 < (vscaleOf xs m).1 ∧ (vscaleOf xs m).1 ≤ 0x00FEFFFF
        ∧ (vscaleOf xs m).2 = false ∧ a ≤ worth (vscaleOf xs m).1 ∧ worth ((vscaleOf xs m).1 - 1) < a)) := by
  refine ⟨fun h => ?_, fun hn h0 => ?_, fun hn z hz hmax hz0 => ?_⟩
  · rw [vscaleOf_nan (any_isNan_eq_true h)]
    exact ⟨rfl, rfl⟩
  · obtain ⟨am, ae, ht, -, hat⟩ := blockTop_spec xs
    have ham : (am : ℚ) * 2 ^ ae = 0 := by
      rcases hat with h | ⟨z, hz, h⟩
      · exact h
      · rw [← h, h0 z hz, abs_zero]
    have ham' : am = 0 := by
      have := (mul_eq_zero.1 ham).resolve_right (by positivity)
      exact_mod_cast this
    have hinf : xs.any (fun x => x == .inf true || x == .inf false) = true ↔ ∃ g, Val.inf g ∈ xs := by
      rw [List.any_eq_true]
      constructor
      · rintro ⟨x, hx, h⟩
        rw [Bool.or_eq_true, beq_iff_eq, beq_iff_eq] at h
        rcases h with rfl | rfl
        · exact ⟨true, hx⟩
        · exact ⟨false, hx⟩
      · rintro ⟨g, hg⟩
        exact ⟨_, hg, by cases g <;> rfl⟩
    rw [vscaleOf_zero (any_isNan_eq_false hn) ht ham']
    by_cases hg : ∃ g, Val.inf g ∈ xs
    · rw [if_pos (hinf.2 hg), if_pos hg]; exact ⟨rfl, rfl⟩
    · rw [if_neg fun h => hg (hinf.1 h), if_neg hg]; exact ⟨rfl, rfl⟩
  · obtain ⟨am, ae, ht, hle, hat⟩ := blockTop_spec xs
    have hzpos : 0 < |ratOf z| := abs_pos.2 hz0
    have heq : |ratOf z| = (am : ℚ) * 2 ^ ae := by
      refine le_antisymm (hle z hz) ?_
      rcases hat with h | ⟨y, hy, h⟩
      · rw [h]; exact hzpos.le
      · rw [← h]; exact hmax y hy
    have ham : am ≠ 0 := by
      rintro rfl
      rw [heq] at hzpos
      simp at hzpos
    intro a
    obtain ⟨t, hc, h1, h2⟩ := scaleFor_code hm ham ae
    rw [vscaleOf_some (any_isNan_eq_false hn) ht ham, hc]
    rw [← heq] at h1 h2
    exact codeWord_least h1 h2
theorem exec_vscale {s : State} {r : Reg} (h : QueuesReady s [] [r]) (t : VType) (m : Nat) (b : VReg) :
    exec (.vscale t m r b) s = .next (passed (countMe (wr s r (BitVec.ofNat 64 (vscaleOf (laneVals t (vrd s b)) m).1))
      ⟨0, 0, if (vscaleOf (laneVals t (vrd s b)) m).2 then 1 else 0⟩) 2 []) := by
  rw [show exec (.vscale t m r b) s = execVscale t m r b s from rfl, execVscale, runI_ready h]
  rfl

/-! ## Packed fields (R119) -/

/-- Numbers of `w` bits, one above the other. -/
def packSum (w : Nat) (f : Nat → Nat) (l : Nat) : Nat := (List.range l).foldl (fun a n => a + f n * 2 ^ (w * n)) 0
theorem packSum_succ (w : Nat) (f : Nat → Nat) (l : Nat) : packSum w f (l + 1) = packSum w f l + f l * 2 ^ (w * l) := by
  rw [packSum, List.range_succ, List.foldl_append]
  rfl
theorem packSum_lt {w : Nat} {f : Nat → Nat} (hf : ∀ i, f i < 2 ^ w) (l : Nat) : packSum w f l < 2 ^ (w * l) := by
  induction l with
  | zero => exact Nat.two_pow_pos _
  | succ l ih =>
    rw [packSum_succ, Nat.mul_succ, pow_add]
    calc packSum w f l + f l * 2 ^ (w * l) < 2 ^ (w * l) + f l * 2 ^ (w * l) := by omega
      _ = (f l + 1) * 2 ^ (w * l) := by ring
      _ ≤ 2 ^ w * 2 ^ (w * l) := Nat.mul_le_mul_right _ (hf l)
      _ = 2 ^ (w * l) * 2 ^ w := Nat.mul_comm ..
/-- Bit `j` of number `i`. -/
theorem testBit_packSum {w : Nat} {f : Nat → Nat} (hf : ∀ i, f i < 2 ^ w) {l i j : Nat} (hi : i < l) (hj : j < w) :
    (packSum w f l).testBit (w * i + j) = (f i).testBit j := by
  induction l with
  | zero => omega
  | succ l ih =>
    rw [packSum_succ, Nat.add_comm, Nat.mul_comm (f l), Nat.testBit_two_pow_mul_add _ (packSum_lt hf l)]
    by_cases h : i = l
    · subst h
      rw [if_neg (by omega), Nat.add_sub_cancel_left]
    · have hlt : w * i + j < w * l := by
        have : w * (i + 1) ≤ w * l := Nat.mul_le_mul_left w (by omega)
        rw [Nat.mul_succ] at this
        omega
      rw [if_pos hlt, ih (by omega)]
theorem bqPack_eq (m : Nat) (qs : List Int) : bqPack m qs = packSum m (fun i => (BitVec.ofInt m (qs.getD i 0)).toNat)
    qs.length := by
  induction qs using List.reverseRecOn with
  | nil => rfl
  | append_singleton qs x ih =>
    have hpre : ∀ l, l ≤ qs.length → packSum m (fun i => (BitVec.ofInt m ((qs ++ [x]).getD i 0)).toNat) l =
        packSum m (fun i => (BitVec.ofInt m (qs.getD i 0)).toNat) l := by
      intro l
      induction l with
      | zero => exact fun _ => rfl
      | succ l ihl =>
        intro hl
        rw [packSum_succ, packSum_succ, ihl (by omega), List.getD_append _ _ _ _ (by omega)]
    rw [List.length_append, List.length_singleton, packSum_succ, hpre _ (le_refl _), ← ih, bqPack, bqPack, List.zipIdx_append,
      List.foldl_append, List.getD_append_right _ _ _ _ (le_refl _), Nat.sub_self]
    simp
/-- The bits of a field stand in its lanes. -/
theorem packLanes_bit {m : Nat} (hm : m ≤ 32) (field : Nat) {x : Nat} (hx : x < 32 * m) :
    (laneN (packLanes m field) (x / 32)).getLsbD (x % 32) = field.testBit x := by
  rw [packLanes, laneN_mkLanes _ (by omega), if_pos (by omega), BitVec.getLsbD_ofNat, Nat.testBit_div_two_pow,
    decide_eq_true (by omega), Bool.true_and, Nat.add_comm, Nat.div_add_mod]
theorem packLanes_above {m : Nat} (field : Nat) {n : Nat} (hn : m ≤ n) (h : n < 32) : laneN (packLanes m field) n = 0 := by
  rw [packLanes, laneN_mkLanes _ h, if_neg (by omega)]
theorem unpackLanes_bit {m : Nat} (v : Vector Lane 32) {x : Nat} (hx : x < 32 * m) :
    (unpackLanes m v).testBit x = (laneN v (x / 32)).getLsbD (x % 32) := by
  have h := testBit_packSum (w := 32) (f := fun n => (laneN v n).toNat) (fun n => (laneN v n).isLt) (l := m)
    (i := x / 32) (j := x % 32) (by omega) (by omega)
  rw [Nat.div_add_mod] at h
  exact h
/-- A packed mantissa is the one packed. -/
theorem mantissa_pack {m : Nat} (h2 : 2 ≤ m) (h8 : m ≤ 8) {qs : List Int} (hlen : qs.length = 32) {i : Nat} (hi : i < 32)
    (h : -(2 ^ (m - 1) : Int) ≤ qs.getD i 0 ∧ qs.getD i 0 < 2 ^ (m - 1)) :
    Mantissa (packLanes m (bqPack m qs)) m i (qs.getD i 0) := by
  refine ⟨h.1, h.2, fun j hj => ?_⟩
  have hx : m * i + j < 32 * m := by
    have : m * (i + 1) ≤ m * 32 := Nat.mul_le_mul_left m hi
    rw [Nat.mul_succ] at this
    omega
  rw [packLanes_bit (by omega) _ hx, bqPack_eq, hlen, testBit_packSum (fun i => BitVec.isLt _) hi hj]
  rfl
/-- A mantissa of the field in a register's lanes reads as its number. -/
theorem bqField_mantissa {m : Nat} (h2 : 2 ≤ m) {v : Vector Lane 32} {i : Nat} (hi : i < 32) {q : Int} (h : Mantissa v m i q) :
    bqField m (unpackLanes m v) i = q := by
  obtain ⟨h1, h3, hb⟩ := h
  have heq : BitVec.ofNat m (unpackLanes m v / 2 ^ (m * i)) = BitVec.ofInt m q := by
    refine BitVec.eq_of_getLsbD_eq fun j hj => ?_
    have hx : m * i + j < 32 * m := by
      have : m * (i + 1) ≤ m * 32 := Nat.mul_le_mul_left m hi
      rw [Nat.mul_succ] at this
      omega
    rw [hb j hj, BitVec.getLsbD_ofNat, Nat.testBit_div_two_pow, decide_eq_true hj, Bool.true_and, Nat.add_comm,
      unpackLanes_bit v hx]
  rw [bqField, heq]
  refine (BitVec.toInt_ofInt_eq_self (by omega) ?_ ?_)
  · exact_mod_cast h1
  · exact_mod_cast h3

/-! ## `vquant` (R122) -/

/-- The scale of a scale register's word, whose exponent byte is neither 0 nor 255. -/
def scaleRat (w : Nat) : ℚ := 2 ^ ((w / 65536 % 256 : Nat) - 127 : Int) * (1 + (w % 65536 : Nat) / 65536)
theorem scaleWord_eq (s : State) (c : Reg) : scaleWord s c = ((rd s c).setWidth 32).toNat := by
  rw [scaleWord, bits, BitVec.toNat_setWidth, pow_zero, Nat.div_one]
/-- A whole number before it is clamped to a mantissa. -/
def quantRaw (m w : Nat) : Val → Int
  | .nan => 0
  | .inf true => -(2 ^ (m - 1)) - 1
  | .inf false => 2 ^ (m - 1)
  | .fin neg a e =>
    let sh : Int := e + (m - 1 : Nat) + 16 + 127 - (scaleE w : Int)
    signed neg (roundDiv .rne neg (a * 2 ^ sh.toNat) ((65536 + scaleS w) * 2 ^ (-sh).toNat))
theorem quantOne_eq (m w : Nat) (x : Val) : quantOne m w x = clampInt m false (quantRaw m w x) := by
  have hp : (0 : Int) < 2 ^ (m - 1) := by positivity
  have hc : ∀ y : Int, clampInt m false y =
      if y < -(2 ^ (m - 1)) then (-(2 ^ (m - 1)), true) else if 2 ^ (m - 1) - 1 < y then (2 ^ (m - 1) - 1, true) else
        (y, false) :=
    fun _ => rfl
  cases x with
  | nan => rw [hc, quantOne, quantRaw, if_neg (by omega), if_neg (by omega)]
  | inf n =>
    cases n with
    | true => rw [hc, quantOne, quantRaw, if_pos (by omega)]
    | false => rw [hc, quantOne, quantRaw, if_neg (by omega), if_pos (by omega)]
  | fin n a e => rfl
theorem quantRaw_rounds (m w : Nat) (neg : Bool) (a : Nat) (e : Int) :
    RoundsTo .rne (ratOf (.fin neg a e) * 2 ^ (m - 1) / scaleRat w) (quantRaw m w (.fin neg a e)) := by
  have hden : 0 < (65536 + scaleS w) * 2 ^ (-(e + (m - 1 : Nat) + 16 + 127 - (scaleE w : Int))).toNat :=
    Nat.mul_pos (by omega) (Nat.two_pow_pos _)
  have h := (roundDiv_roundsAbs .rne neg (a * 2 ^ (e + (m - 1 : Nat) + 16 + 127 - (scaleE w : Int)).toNat) hden).roundsTo
    (by positivity)
  have hval : ratOf (.fin neg a e) * 2 ^ (m - 1) / scaleRat w = sgn neg *
      (((a * 2 ^ (e + (m - 1 : Nat) + 16 + 127 - (scaleE w : Int)).toNat : Nat) : ℚ) /
        ((65536 + scaleS w) * 2 ^ (-(e + (m - 1 : Nat) + 16 + 127 - (scaleE w : Int))).toNat : Nat)) := by
    have hsp : (2 : ℚ) ^ (e + (m - 1 : Nat) + 16 + 127 - (scaleE w : Int)) =
        2 ^ e * 2 ^ (m - 1) * 65536 / 2 ^ ((scaleE w : Int) - 127) := by
      rw [show e + ((m - 1 : Nat) : Int) + 16 + 127 - (scaleE w : Int) = e + ((m - 1 : Nat) : Int) + 16 -
        ((scaleE w : Int) - 127) by ring,
        zpow_sub₀ two_ne_zero, zpow_add₀ two_ne_zero, zpow_add₀ two_ne_zero, zpow_natCast]
      norm_num
    push_cast
    rw [← pow_toNat_cancel, hsp, ratOf_fin, scaleRat, ← scaleE, ← scaleS]
    have h1 : (0 : ℚ) < 2 ^ ((scaleE w : Int) - 127) := by positivity
    have h2 : (0 : ℚ) < 65536 + (scaleS w : ℚ) := by positivity
    field_simp
  rw [hval]
  exact h
section
variable {s : State} {t : VType} {m : Nat} {d b : VReg} {c : Reg}

theorem exec_vquant (h : QueuesReady s [c] []) (t : VType) (m : Nat) (d b : VReg) : exec (.vquant t m d b c) s = .next
    (finish 3 ([c].contains 30) (match (bqQuantise (laneVals t (vrd s b)) m (scaleWord s c)).1 with
      | none => .done (wr (vwr (countMe s (bqQuantise (laneVals t (vrd s b)) m (scaleWord s c)).2) d (mkLanes (fun _ => 0))) c
        0x00FF0000)
      | some l => .done (vwr (countMe s (bqQuantise (laneVals t (vrd s b)) m (scaleWord s c)).2) d
        (packLanes m (bqPack m l))))) := by
  rw [show exec (.vquant t m d b c) s = execVquant t m d b c s from rfl, execVquant, runI_ready h] <;> rfl
theorem vquant_some (h : QueuesReady s [c] []) {l : List Int} {e : Events}
    (hq : bqQuantise (laneVals t (vrd s b)) m (scaleWord s c) = (some l, e)) :
    exec (.vquant t m d b c) s = .next (passed (vwr (countMe s e) d (packLanes m (bqPack m l))) 3 [c]) := by
  rw [exec_vquant h, hq]
  rfl
theorem vquant_none (h : QueuesReady s [c] []) {e : Events}
    (hq : bqQuantise (laneVals t (vrd s b)) m (scaleWord s c) = (none, e)) :
    exec (.vquant t m d b c) s = .next (passed (wr (vwr (countMe s e) d (mkLanes (fun _ => 0))) c 0x00FF0000) 3 [c]) := by
  rw [exec_vquant h, hq]
  rfl
theorem laneVals_length (t : VType) (v : Vector Lane 32) : (laneVals t v).length = 32 := by
  rw [laneVals, List.length_map, Vector.length_toList]
/-- A filter of a list, by its places. -/
theorem length_filter_places {α : Type} (l : List α) (d : α) (p : α → Bool) :
    (l.filter p).length = ((List.range l.length).filter (fun i => p (l.getD i d))).length := by
  have hl : l = (List.range l.length).map (fun i => l.getD i d) := by
    refine List.ext_getElem (by simp) fun i h1 h2 => ?_
    rw [List.getElem_map, List.getElem_range, List.getD_eq_getElem _ _ h1]
  conv_lhs => rw [hl, List.filter_map, List.length_map]
  rfl
/-- The mantissas before they are clamped. -/
def quantAt (xs : List Val) (m w i : Nat) : Int := if scaleE w = 0 then 0 else quantRaw m w (xs.getD i .nan)
/-- The clamped mantissa. -/
def clampM (m : Nat) (q : Int) : Int := max (-(2 ^ (m - 1))) (min (2 ^ (m - 1) - 1) q)
theorem clampInt_signed {m : Nat} (hm : 1 ≤ m) (q : Int) :
    clampInt m false q = (clampM m q, decide (q < -(2 ^ (m - 1))) || decide (2 ^ (m - 1) ≤ q)) := by
  rw [clampInt_eq m hm false q]
  simp only [Bool.false_eq_true, if_false]
  refine congrArg (Prod.mk _) ?_
  rw [← Bool.decide_or, ← decide_not]
  refine decide_eq_decide.2 ?_
  omega
theorem clampM_range {m : Nat} (q : Int) : -(2 ^ (m - 1) : Int) ≤ clampM m q ∧ clampM m q < 2 ^ (m - 1) := by
  have hp : (0 : Int) < 2 ^ (m - 1) := by positivity
  unfold clampM
  omega
theorem clampM_zero (m : Nat) : clampM m 0 = 0 := by
  have hp : (0 : Int) < 2 ^ (m - 1) := by positivity
  unfold clampM
  omega
/-- R122: a block without NaN is packed, each mantissa clamped, and the clamped ones count. -/
theorem bqQuantise_some {xs : List Val} {w : Nat} (hm : 1 ≤ m) (hlen : xs.length = 32) (hn : xs.any isNan = false)
    (he : scaleE w ≠ 0xFF) :
    ∃ l k, bqQuantise xs m w = (some l, ⟨k, 0, 0⟩) ∧ l.length = 32 ∧ (∀ i, i < 32 → l.getD i 0 = clampM m (quantAt xs m w i))
      ∧ k = ((List.range 32).filter (fun i =>
        decide (quantAt xs m w i < -(2 ^ (m - 1))) || decide (2 ^ (m - 1) ≤ quantAt xs m w i))).length := by
  have hp : (0 : Int) < 2 ^ (m - 1) := by positivity
  have hcond : ¬ (scaleE w = 0xFF ∨ xs.any isNan = true) := by rw [hn]; simp [he]
  rw [bqQuantise, if_neg hcond]
  by_cases h0 : scaleE w = 0
  · rw [if_pos h0]
    refine ⟨_, 0, rfl, by rw [List.length_map, hlen], fun i hi => ?_, ?_⟩
    · rw [quantAt, if_pos h0, clampM_zero, List.getD_eq_getElem _ _ (by rw [List.length_map, hlen]; exact hi), List.getElem_map]
    · have hnil : (List.range 32).filter (fun i =>
          decide (quantAt xs m w i < -(2 ^ (m - 1))) || decide (2 ^ (m - 1) ≤ quantAt xs m w i)) = [] := by
        refine List.filter_eq_nil_iff.2 fun i _ => ?_
        rw [quantAt, if_pos h0, Bool.or_eq_true, decide_eq_true_iff, decide_eq_true_iff]
        omega
      rw [hnil]; rfl
  · rw [if_neg h0]
    have hq : ∀ x, quantOne m w x = (clampM m (quantRaw m w x),
        decide (quantRaw m w x < -(2 ^ (m - 1))) || decide (2 ^ (m - 1) ≤ quantRaw m w x)) :=
      fun x => (quantOne_eq m w x).trans (clampInt_signed hm _)
    refine ⟨_, _, rfl, by rw [List.length_map, List.length_map, hlen], fun i hi => ?_, ?_⟩
    · rw [quantAt, if_neg h0, List.getD_eq_getElem _ _ (by rw [List.length_map, List.length_map, hlen]; exact hi),
      List.getElem_map,
        List.getElem_map, List.getD_eq_getElem _ _ (by rw [hlen]; exact hi), hq]
    · rw [List.filter_map, List.length_map, length_filter_places xs .nan, hlen]
      refine congrArg List.length (List.filter_congr fun i _ => ?_)
      rw [Function.comp_apply, hq, quantAt, if_neg h0]
end

section
variable {s : State} {t : VType} {m : Nat} {d b : VReg} {c : Reg} {w : Nat}

/-- The part of O35 on `vquant` of a block without NaN. -/
theorem vquant_block (h : QueuesReady s [c] []) (hw : scaleWord s c = w) (h2 : 2 ≤ m) (h8 : m ≤ 8) (he : w / 65536 % 256 ≠ 0xFF)
    (hn : ∀ x ∈ laneVals t (vrd s b), x ≠ .nan) : ∃ (v : Vector Lane 32) (k : Nat),
      exec (.vquant t m d b c) s = .next (passed (vwr (countMe s ⟨k, 0, 0⟩) d v) 3 [c])
      ∧ (∀ n, m ≤ n → n < 32 → laneN v n = 0)
      ∧ ∃ q : Nat → Int, (∀ i, i < 32 → Mantissa v m i (max (-(2 ^ (m - 1))) (min (2 ^ (m - 1) - 1) (q i))))
        ∧ (∀ i x, (laneVals t (vrd s b))[i]? = some x → (w / 65536 % 256 = 0 → q i = 0)
          ∧ (w / 65536 % 256 ≠ 0 → (x = .inf true → q i < -(2 ^ (m - 1))) ∧ (x = .inf false → 2 ^ (m - 1) ≤ q i)
            ∧ ((∀ h, x ≠ .inf h) → RoundsTo .rne (ratOf x * 2 ^ (m - 1) / scaleRat w) (q i))))
        ∧ k = ((List.range 32).filter (fun i => decide (q i < -(2 ^ (m - 1))) || decide (2 ^ (m - 1) ≤ q i))).length := by
  have hlen := laneVals_length t (vrd s b)
  obtain ⟨l, k, hq, hl, hl', hk⟩ := bqQuantise_some (m := m) (w := w) (by omega) hlen (any_isNan_eq_false hn) he
  rw [← hw] at hq
  refine ⟨_, k, vquant_some h hq, fun n hmn hn => packLanes_above _ hmn hn, quantAt (laneVals t (vrd s b)) m w, fun i hi => ?_,
    fun i x hx => ⟨fun h0 => if_pos h0, fun h0 => ?_⟩, hk⟩
  · have hr := clampM_range (m := m) (quantAt (laneVals t (vrd s b)) m w i)
    rw [← hl' i hi] at hr
    have := mantissa_pack h2 h8 hl hi hr
    rwa [hl' i hi] at this
  · have hi : i < 32 := by rw [← hlen]; exact (List.getElem?_eq_some_iff.1 hx).1
    have hq : quantAt (laneVals t (vrd s b)) m w i = quantRaw m w x := by
      rw [quantAt, if_neg (show ¬ scaleE w = 0 from h0), List.getD_eq_getElem?_getD, hx]; rfl
    rw [hq]
    have hp : (0 : Int) < 2 ^ (m - 1) := by positivity
    refine ⟨?_, ?_, fun hf => ?_⟩
    · rintro rfl; show -(2 ^ (m - 1) : Int) - 1 < -(2 ^ (m - 1)); omega
    · rintro rfl; show (2 ^ (m - 1) : Int) ≤ 2 ^ (m - 1); omega
    · cases x with
      | nan => exact absurd rfl (hn _ (List.mem_of_getElem? hx))
      | inf g => exact absurd rfl (hf g)
      | fin g a e => exact quantRaw_rounds m w g a e
/-- The part of O35 on `vquant` of a NaN block. -/
theorem vquant_nan (h : QueuesReady s [c] []) (hw : scaleWord s c = w)
    (hn : w / 65536 % 256 = 0xFF ∨ ∃ x ∈ laneVals t (vrd s b), x = .nan) : ∃ v,
      exec (.vquant t m d b c) s = .next
        (passed (wr (vwr (countMe s ⟨0, ((laneVals t (vrd s b)).filter (· = .nan)).length, 0⟩) d v) c
        0x00FF0000) 3 [c])
      ∧ ∀ n, n < 32 → laneN v n = 0 := by
  refine ⟨_, vquant_none h ?_, fun n hn => laneN_mkLanes _ hn⟩
  have hcond : scaleE w = 0xFF ∨ (laneVals t (vrd s b)).any isNan = true := hn.imp_right any_isNan_eq_true
  rw [bqQuantise, hw, if_pos hcond]
  rfl

/-! ## `vdeq` (R120) -/

theorem exec_vdeq (h : QueuesReady s [c] []) (t : VType) (m : Nat) (d b : VReg) : exec (.vdeq t m d b c) s = .next
    (passed (vwr s d
    (mkLanes (fun n => BitVec.ofNat 32 (roundF (fmtOf t) .rne false
      (bqValue m (scaleWord s c) (bqField m (unpackLanes m (vrd s b)) n))).1))) 3 [c]) := by
  rw [show exec (.vdeq t m d b c) s = execVdeq t m d b c s from rfl, execVdeq, runI_ready h]
  rfl
/-- The part of O35 on `vdeq`. -/
theorem vdeq_block (h : QueuesReady s [c] []) (hw : scaleWord s c = w) (h2 : 2 ≤ m) : ∃ v,
    exec (.vdeq t m d b c) s = .next (passed (vwr s d v) 3 [c])
    ∧ ∀ n q, n < 32 → Mantissa (vrd s b) m n q →
      (w / 65536 % 256 = 0xFF → laneN v n = BitVec.ofNat 32 (nanBits (fmtOf t)))
      ∧ (w / 65536 % 256 ≠ 0xFF → w / 65536 % 256 = 0 ∨ q = 0 → laneN v n = 0)
      ∧ (w / 65536 % 256 ≠ 0xFF → w / 65536 % 256 ≠ 0 → q ≠ 0 → ∃ k e, laneN v n =
          BitVec.ofNat 32 (roundF (fmtOf t) .rne false (.fin (decide (q < 0)) k e)).1
        ∧ ratOf (.fin (decide (q < 0)) k e) = q * scaleRat w / 2 ^ (m - 1)) := by
  refine ⟨_, exec_vdeq h t m d b, fun n q hn hq => ?_⟩
  rw [laneN_mkLanes _ hn, bqField_mantissa h2 hn hq, hw]
  have hz : BitVec.ofNat 32 (roundF (fmtOf t) .rne false (.fin false 0 0)).1 = 0 := rfl
  refine ⟨fun he => ?_, fun he h0 => ?_, fun he h0 hq0 => ?_⟩
  · have h0 : ¬ scaleE w = 0 := fun h' => by rw [show w / 65536 % 256 = scaleE w from rfl, h'] at he; cases he
    rw [bqValue, if_neg h0, if_pos (show scaleE w = 0xFF from he)]
    rfl
  · rw [bqValue]
    split
    · exact hz
    · next h1 =>
      rw [if_neg (show ¬ scaleE w = 0xFF from he), if_pos (h0.resolve_left h1)]
      exact hz
  · rw [bqValue, if_neg (show ¬ scaleE w = 0 from h0), if_neg (show ¬ scaleE w = 0xFF from he), if_neg hq0]
    have hneg : decide (q * (65536 + scaleS w : Nat) < 0) = decide (q < 0) := by
      refine decide_eq_decide.2 ⟨fun hlt => ?_, fun hlt => Int.mul_neg_of_neg_of_pos hlt (by omega)⟩
      by_contra hc
      exact absurd hlt (not_lt.2 (Int.mul_nonneg (by omega) (by omega)))
    refine ⟨_, _, by rw [ofScaled, hneg], ?_⟩
    have habs : sgn (decide (q < 0)) * ((q * (65536 + scaleS w : Nat)).natAbs : ℚ) = q * (65536 + scaleS w) := by
      have hna : ((q.natAbs : Nat) : ℚ) = |(q : ℚ)| := by rw [Nat.cast_natAbs, Int.cast_abs]
      rw [Int.natAbs_mul, Int.natAbs_natCast, Nat.cast_mul, hna]
      push_cast
      by_cases h1 : q < 0
      · rw [decide_eq_true h1, sgn, if_pos rfl, abs_of_neg (by exact_mod_cast h1)]; ring
      · rw [decide_eq_false h1, sgn, if_neg (by decide), abs_of_nonneg (by exact_mod_cast not_lt.1 h1)]; ring
    rw [ratOf_fin, ← mul_assoc, habs, scaleRat, ← scaleE, ← scaleS,
      show (scaleE w : Int) - 127 - 16 - ((m - 1 : Nat) : Int) = ((scaleE w : Int) - 127) - ((16 + (m - 1) : Nat) : Int) by
        push_cast; ring,
      zpow_sub₀ two_ne_zero, zpow_natCast, pow_add]
    have h1 : (0 : ℚ) < 2 ^ ((scaleE w : Int) - 127) := by positivity
    field_simp
    norm_num
end

/-! ## Structured sparsity (R200, R201) -/

/-- Element `i` of eight comes before element `j`: it is larger, or equal with a lower index. -/
def comesBefore (l : List Int) (j i : Nat) : Bool :=
  decide ((l.getD j 0).natAbs < (l.getD i 0).natAbs) || ((l.getD i 0).natAbs == (l.getD j 0).natAbs && decide (i < j))
theorem comesBefore_iff (l : List Int) (j i : Nat) : comesBefore l j i = true ↔
    (l.getD j 0).natAbs < (l.getD i 0).natAbs ∨ (l.getD i 0).natAbs = (l.getD j 0).natAbs ∧ i < j := by
  simp [comesBefore]
/-- How many of the eight come before `j`. -/
def rankOf (l : List Int) (j : Nat) : Nat := ((List.range 8).filter (comesBefore l j)).length
theorem keeps_eq (l : List Int) (j : Nat) : keeps l j = decide (rankOf l j < 4) := rfl
theorem rankOf_lt {l : List Int} {i j : Nat} (hi : i < 8) (h : comesBefore l j i = true) : rankOf l i < rankOf l j := by
  have hsub : ((List.range 8).filter (comesBefore l i)).Sublist ((List.range 8).filter (comesBefore l j)) := by
    refine List.monotone_filter_right _ fun x hx => ?_
    rw [comesBefore_iff] at *
    omega
  refine lt_of_le_of_ne hsub.length_le fun he => ?_
  have heq := hsub.eq_of_length he
  have hmem : i ∈ (List.range 8).filter (comesBefore l i) := by
    rw [heq]; exact List.mem_filter.2 ⟨List.mem_range.2 hi, h⟩
  have := (List.mem_filter.1 hmem).2
  rw [comesBefore_iff] at this
  omega
theorem rankOf_inj {l : List Int} {i j : Nat} (hi : i < 8) (hj : j < 8) (h : rankOf l i = rankOf l j) : i = j := by
  by_contra hne
  have htot : comesBefore l j i = true ∨ comesBefore l i j = true := by
    rw [comesBefore_iff, comesBefore_iff]
    omega
  rcases htot with h1 | h1
  · have := rankOf_lt hi h1; omega
  · have := rankOf_lt hj h1; omega
/-- Of eight elements at most four are kept. -/
theorem length_kept_le (l : List Int) : ((List.range 8).filter (keeps l)).length ≤ 4 := by
  have hnd : (((List.range 8).filter (keeps l)).map (rankOf l)).Nodup := by
    refine List.Nodup.map_on (fun x hx y hy h => ?_) (List.nodup_range.filter _)
    exact rankOf_inj (List.mem_range.1 (List.mem_filter.1 hx).1) (List.mem_range.1 (List.mem_filter.1 hy).1) h
  have hsub : ((List.range 8).filter (keeps l)).map (rankOf l) ⊆ List.range 4 := by
    intro x hx
    obtain ⟨j, hj, rfl⟩ := List.mem_map.1 hx
    have := (List.mem_filter.1 hj).2
    rw [keeps_eq, decide_eq_true_iff] at this
    exact List.mem_range.2 this
  have := (List.subperm_of_subset hnd hsub).length_le
  rwa [List.length_map, List.length_range] at this
/-- The element with a place in a filtered range. -/
theorem filter_range_getElem? (p : Nat → Bool) {k n : Nat} (hn : n < k) (hp : p n = true) :
    ((List.range k).filter p)[((List.range n).filter p).length]? = some n := by
  obtain ⟨j, rfl⟩ : ∃ j, k = n + (j + 1) := ⟨k - n - 1, by omega⟩
  rw [List.range_add, List.range_succ_eq_map, List.map_cons, List.filter_append, List.getElem?_append_right
    (le_refl _), Nat.sub_self,
    List.filter_cons_of_pos (by simpa using hp)]
  rfl
/-- Lane `n` of a block of 32 is kept. -/
def keptLane (v : Vector Lane 32) (n : Nat) : Bool :=
  keeps ((List.range 8).map (fun i => byteElem (laneN v (8 * (n / 8) + i)))) (n % 8)
theorem length_keptOf_le (v : Vector Lane 32) : (keptOf v).length ≤ 16 := by
  have hb : ∀ k, (((List.range 8).map (8 * k + ·)).filter (keptLane v)).length ≤ 4 := by
    intro k
    rw [List.filter_map, List.length_map]
    refine le_trans (le_of_eq ?_) (length_kept_le ((List.range 8).map (fun i => byteElem (laneN v (8 * k + i)))))
    refine congrArg List.length (List.filter_congr fun j hj => ?_)
    rw [List.mem_range] at hj
    rw [Function.comp_apply, keptLane, show (8 * k + j) / 8 = k by omega, show (8 * k + j) % 8 = j by omega]
  have hr : List.range 32 = (List.range 8).map (8 * 0 + ·) ++ ((List.range 8).map (8 * 1 + ·) ++ ((List.range 8).map (8 * 2 + ·)
    ++ (List.range 8).map (8 * 3 + ·))) := by decide
  have hk : keptOf v = (List.range 32).filter (keptLane v) := rfl
  rw [hk, hr, List.filter_append, List.filter_append, List.filter_append, List.length_append, List.length_append,
    List.length_append]
  have := hb 0
  have := hb 1
  have := hb 2
  have := hb 3
  omega
/-- The lanes that `vcmpr` packs. -/
def packedKept (v : Vector Lane 32) : Vector Lane 32 := mkLanes (fun k => match (keptOf v)[k]? with
  | some n => if k < 16 then BitVec.ofInt 32 (byteElem (laneN v n)) else 0
  | none => 0)
section
variable {s : State} {d b : VReg} {c : Reg}
theorem exec_vcmpr (h : QueuesReady s [] [c]) : exec (.vcmpr d b c) s = .next (passed (wr (vwr s d (packedKept (vrd s b))) c
    ((laneMask (fun n => (keptOf (vrd s b)).contains n)).setWidth 64)) 3 []) := by
  rw [show exec (.vcmpr d b c) s = execVcmpr d b c s from rfl, execVcmpr, runI_ready h]
  rfl
theorem keptMask_bit (v : Vector Lane 32) {n : Nat} (hn : n < 32) :
    (laneMask (fun n => (keptOf v).contains n)).getLsbD n = keptLane v n := by
  rw [getLsbD_laneMask _ hn, Bool.eq_iff_iff, List.contains_iff_mem, keptOf, List.mem_filter, List.mem_range]
  exact and_iff_right hn
theorem keptLane_eq (v : Vector Lane 32) {n : Nat} : keptLane v n = decide (((List.range 8).filter (fun i =>
    decide (((laneN v (8 * (n / 8) + n % 8)).setWidth 8).toInt.natAbs < ((laneN v (8 * (n / 8) + i)).setWidth 8).toInt.natAbs)
      || (((laneN v (8 * (n / 8) + i)).setWidth 8).toInt.natAbs == ((laneN v (8 * (n / 8) + n % 8)).setWidth 8).toInt.natAbs
        && decide (i < n % 8)))).length < 4) := by
  have hget : ∀ i, i < 8 → ((List.range 8).map (fun i => byteElem (laneN v (8 * (n / 8) + i)))).getD i 0 =
      byteElem (laneN v (8 * (n / 8) + i)) := fun i hi => by
    rw [List.getD_eq_getElem _ _ (by simpa using hi), List.getElem_map, List.getElem_range]
  rw [keptLane, keeps_eq, rankOf]
  refine congrArg (fun l : List Nat => decide (l.length < 4)) (List.filter_congr fun i hi => ?_)
  rw [comesBefore, hget i (List.mem_range.1 hi), hget (n % 8) (Nat.mod_lt _ (by decide))]
  rfl
/-- The part of O35 on `vcmpr`. -/
theorem vcmpr_block (h : QueuesReady s [] [c]) : ∃ v, ∃ k : Lane,
    exec (.vcmpr d b c) s = .next (passed (wr (vwr s d v) c (k.setWidth 64)) 3 [])
    ∧ (∀ n, n < 32 → k.getLsbD n = keptLane (vrd s b) n)
    ∧ (∀ n, n < 32 → k.getLsbD n = true → laneN v ((List.range n).filter (fun j => k.getLsbD j)).length =
        ((laneN (vrd s b) n).setWidth 8).signExtend 32)
    ∧ ∀ n, 16 ≤ n → n < 32 → laneN v n = 0 := by
  refine ⟨_, _, exec_vcmpr h, fun n hn => keptMask_bit _ hn, fun n hn hk => ?_, fun n h16 hn => ?_⟩
  · have hf : (List.range n).filter (fun j => (laneMask (fun n => (keptOf (vrd s b)).contains n)).getLsbD j) =
        (List.range n).filter (keptLane (vrd s b)) := List.filter_congr fun j hj => by
      rw [List.mem_range] at hj
      exact keptMask_bit _ (by omega)
    rw [keptMask_bit _ hn] at hk
    have hget : (keptOf (vrd s b))[((List.range n).filter (keptLane (vrd s b))).length]? = some n := filter_range_getElem? _ hn hk
    have hlt : ((List.range n).filter (keptLane (vrd s b))).length < 16 :=
      lt_of_lt_of_le (List.getElem?_eq_some_iff.1 hget).1 (length_keptOf_le _)
    rw [hf, packedKept, laneN_mkLanes _ (by omega), hget]
    exact if_pos hlt
  · rw [packedKept, laneN_mkLanes _ hn]
    split
    · exact if_neg (by omega)
    · rfl
/-- The part of O35 on `vexpd`. -/
theorem vexpd_block (h : QueuesReady s [c] []) :
    (goodMask ((rd s c).setWidth 32) = false → exec (.vexpd d b c) s = .next (trapMe s 0x09 (rd s c)))
    ∧ (goodMask ((rd s c).setWidth 32) = true → ∃ v, exec (.vexpd d b c) s = .next (passed (vwr s d v) 3 [c])
      ∧ ∀ n, n < 32 → laneN v n = if ((rd s c).setWidth 32 : Lane).getLsbD n
          then laneN (vrd s b) ((List.range n).filter (fun j => ((rd s c).setWidth 32 : Lane).getLsbD j)).length else 0) := by
  refine ⟨fun hm => ?_, fun hm => ⟨_, ?_, fun n hn => laneN_mkLanes (fun n => if ((rd s c).setWidth 32 : Lane).getLsbD n
    then laneN (vrd s b) ((List.range n).filter (fun j => ((rd s c).setWidth 32 : Lane).getLsbD j)).length else 0) hn⟩⟩
  · rw [show exec (.vexpd d b c) s = execVexpd d b c s from rfl, execVexpd, runI_ready h]
    dsimp only
    rw [hm]
    rfl
  · rw [show exec (.vexpd d b c) s = execVexpd d b c s from rfl, execVexpd, runI_ready h]
    dsimp only
    rw [hm]
    rfl
end

/-- The first part of O35. -/
theorem rounding_clause (f : Fmt) (rm : Rnd) (sat neg : Bool) (m : Nat) (e : Int) (hf : f ∈ [fp32, bf16, fp16]) (hm : m ≠ 0) :
    let v := Val.fin neg m e
    let x := ratOf v
    let z := roundF f rm sat v
    let finite := fun (y : Nat) => y < 2 * f.half ∧ ∃ n k q, decodeF f y = .fin n k q
    let r := ratOf (decodeF f z.1)
    (¬Overflows f rm x → z.2 = false ∧ finite z.1 ∧ (∃ k q, decodeF f z.1 = .fin neg k q)
      ∧ ∀ y, finite y → Named rm (z.1 % 2 = 0) x r (ratOf (decodeF f y)))
    ∧ (Overflows f rm x →
      (sat = true → z = (maxBits f neg, true))
      ∧ (sat = false → z = (if rm = .rne ∨ (rm = .rdn ∧ neg = true) ∨ (rm = .rup ∧ neg = false) then infBits f neg
          else maxBits f neg, false))) := by
  intro v x z finite r
  obtain ⟨h1, h2⟩ := roundF_number rm sat neg e (proper_of_mem hf) hm
  refine ⟨fun ho => ?_, fun ho => ⟨fun hs => ?_, fun hs => ?_⟩⟩
  · obtain ⟨k1, k2, k3, k4⟩ := h1 ho
    exact ⟨k1, k2, k3, fun y hy => k4 y hy.2⟩
  · exact (h2 ho).trans (if_pos hs)
  · refine ((h2 ho).trans (if_neg (by rw [hs]; decide))).trans (congrArg (·, false) ?_)
    unfold overflowBits
    cases rm <;> cases neg <;> rfl
/-- The approximations of an infinity. -/
theorem approxV_of_inf {b : Nat} {n : Bool} (h : decodeF fp32 b = .inf n) :
    approxV .exp2 b = (if n then .fin false 0 0 else .inf false) ∧ approxV .log2 b = (if n then .nan else .inf false)
    ∧ approxV .rcp b = .fin n 0 0 ∧ approxV .tanh b = .fin n 1 0
    ∧ approxV .rsqrt b = (if n then .nan else .fin false 0 0) := by
  refine ⟨?_, ?_, ?_, ?_, ?_⟩ <;> (unfold approxV; rw [h])
/-- The second part of O35. -/
theorem approximation_clause {b : Nat} {neg : Bool} {m : Nat} {e : Int} (hb : decodeF fp32 b = .fin neg m e) :
    let x := (m : ℚ) * 2 ^ e
    (∀ f, approxV f (nanBits fp32) = .nan)
    ∧ (approxV .exp2 (infBits fp32 false) = .inf false ∧ approxV .exp2 (infBits fp32 true) = .fin false 0 0)
    ∧ (approxV .log2 (infBits fp32 false) = .inf false ∧ approxV .log2 (infBits fp32 true) = .nan)
    ∧ (∀ n, approxV .rcp (infBits fp32 n) = .fin n 0 0 ∧ approxV .tanh (infBits fp32 n) = .fin n 1 0)
    ∧ (approxV .rsqrt (infBits fp32 false) = .fin false 0 0 ∧ approxV .rsqrt (infBits fp32 true) = .nan)
    ∧ (∀ i : Int, ratOf (.fin neg m e) = i → -149 ≤ i → i ≤ 127 → ratOf (approxV .exp2 b) = 2 ^ i)
    ∧ (m = 0 → approxV .log2 b = .inf true ∧ approxV .rcp b = .inf neg ∧ approxV .rsqrt b = .inf neg
        ∧ approxV .tanh b = .fin neg m e)
    ∧ (m ≠ 0 → neg = true → approxV .log2 b = .nan ∧ approxV .rsqrt b = .nan)
    ∧ (∀ i : Int, neg = false → x = 2 ^ i → ∃ s k q, approxV .log2 b = .fin s k q ∧ ratOf (approxV .log2 b) = i ∧
      (i = 0 → s = false))
    ∧ (x < 1 / 4096 → ratOf (approxV .tanh b) = ratOf (.fin neg m e))
    ∧ (9 ≤ x → approxV .tanh b = .fin neg 1 0)
    ∧ (m ≠ 0 → ∃ k q, approxV .rcp b = .fin neg k q ∧ |(k : ℚ) * 2 ^ q - 1 / x| ≤ 2 ^ q ∧ -149 ≤ q
        ∧ (q = -149 ∨ 2 ^ (q + 23) ≤ 1 / x) ∧ 1 / x < 2 ^ (q + 24))
    ∧ (m ≠ 0 → neg = false → ∃ k q, approxV .rsqrt b = .fin false k q ∧ RootNear x k q) := by
  intro x
  obtain ⟨p1, p2, -, -, p5⟩ := approxV_of_inf (decode_inf false)
  obtain ⟨n1, n2, -, -, n5⟩ := approxV_of_inf (decode_inf true)
  refine ⟨approx_special, ⟨p1, n1⟩, ⟨p2, n2⟩, fun n => ?_, ⟨p5, n5⟩, fun i h h1 h2 => approxV_exp2_whole hb h h1 h2,
    fun hm => ?_, fun hm hn => ?_, fun i hn hx => ?_, fun hx => ?_, fun hx => approxV_tanh_large hb hx,
    fun hm => rcp_spec hb hm, fun hm hn => ?_⟩
  · obtain ⟨-, -, h3, h4, -⟩ := approxV_of_inf (decode_inf n)
    exact ⟨h3, h4⟩
  · refine ⟨?_, ?_, ?_, ?_⟩ <;> (unfold approxV; rw [hb]; dsimp only)
    · rw [if_pos hm]
    · rw [if_pos hm]
    · rw [if_pos hm]
    · rw [if_pos (.inl hm)]
  · constructor <;> (unfold approxV; rw [hb]; dsimp only; rw [if_neg hm, if_pos hn])
  · subst hn
    rw [approxV_log2_pow hb hx]
    exact ⟨_, _, _, rfl, ratOf_ofInt i, fun h => by rw [h]; rfl⟩
  · rw [approxV_tanh_small hb hx]
  · subst hn
    exact rsqrt_spec hb hm
section
variable {s : State} {p : PReg} {d b : VReg}

/-- The part of O35 on `vcvt`. -/
theorem vcvt_lanes (rm : Rnd) (sat : Bool) (df : VFmt) (du : Bool) (sf : VFmt) (su : Bool) :
    LaneResults (exec (.vcvt rm sat p d b df du sf su) s) s 3 [] p d (fun n => cvtLane rm sat df du sf su (laneN (vrd s b) n)) :=
  vform_plain_laneResults s 3 p d fun n => cvtLane_counts ..
/-- What `vcvt` makes of a lane, by the kinds of its formats. -/
theorem cvtLane_clause (rm : Rnd) (sat : Bool) (df : VFmt) (du : Bool) (sf : VFmt) (su : Bool) (x : Lane) :
    let z := cvtLane rm sat df du sf su x
    let rnd := fun (v : Val) => let y := roundF (vfFmt df) rm sat v
      z = (BitVec.ofNat 32 y.1, ⟨if y.2 then 1 else 0, 0, 0⟩)
    let whole := fun (k : Nat) => if su then ((x.setWidth k).toNat : Int) else (x.setWidth k).toInt
    let val := decodeF (vfFmt sf) (x.toNat % (2 * (vfFmt sf).half))
    (∀ k w, vfInt sf = some k → vfInt df = some w → z = putInt w du (whole k))
    ∧ (∀ k, vfInt sf = some k → vfInt df = none → rnd (ofInt (whole k)))
    ∧ (vfInt sf = none → vfInt df = none → rnd val)
    ∧ (∀ w, vfInt sf = none → vfInt df = some w → (val = .nan → z = (0, ⟨0, 1, 0⟩))
      ∧ (∀ h, val = .inf h → z = (BitVec.ofInt 32 (if h then (if du then 0 else -(2 ^ (w - 1)))
          else if du then 2 ^ w - 1 else 2 ^ (w - 1) - 1), ⟨1, 0, 0⟩))
      ∧ (∀ h k q, val = .fin h k q → ∃ y, RoundsTo rm (ratOf val) y ∧ z = putInt w du y)) := by
  intro z rnd whole val
  refine ⟨fun k w hs hd => cvtLane_int hs hd, fun k hs hd => cvtLane_toFloat hs hd, fun hs hd => cvtLane_float hs hd,
    fun w hs hd => ⟨fun hv => cvtLane_toInt hs hd hv, fun h hv => ?_, fun h k q hv => ?_⟩⟩
  · refine (cvtLane_toInt hs hd hv).trans ?_
    cases h <;> rfl
  · exact ⟨_, by rw [hv]; exact roundInt_roundsTo rm h k q, cvtLane_fin hs hd hv⟩
/-- The part of O35 on the approximations as instructions. -/
theorem approximations_lanes (t : VType) (sat : Bool) (f : Approx) (ins : Instr)
    (h : (f, ins) ∈ [(Approx.exp2, Instr.vexp2 t sat p d b), (.log2, .vlog2 t sat p d b), (.rcp, .vrcp t sat p d b),
      (.rsqrt, .vrsqrt t sat p d b), (.tanh, .vtanh t sat p d b)]) :
    LaneResults (exec ins s) s 2 [] p d (fun n =>
      let z := roundF (fmtOf t) .rne sat (approxV f (fp32Of t (laneN (vrd s b) n)))
      (BitVec.ofNat 32 z.1, satEv z.2)) := by
  have key : exec ins s = .next (vapx f t sat p d b s) := by
    simp only [List.mem_cons, Prod.mk.injEq, List.not_mem_nil, or_false] at h
    rcases h with ⟨rfl, rfl⟩ | ⟨rfl, rfl⟩ | ⟨rfl, rfl⟩ | ⟨rfl, rfl⟩ | ⟨rfl, rfl⟩ <;> rfl
  rw [key]
  exact vform_plain_laneResults s 2 p d fun n => atMostOne_satEv _
end

/-- Settles O35: rounding by the grid of the format, the approximations by the cell of the FP32 grid, the instructions by
what their lanes, scale words and packed fields are. -/
theorem vectorReductionsAndFormats : Obligations.VectorReductionsAndFormats := by
  unfold Obligations.VectorReductionsAndFormats
  refine ⟨?_, fun b neg m e hb => approximation_clause hb, ?_⟩
  · intro f rm sat neg m e hf hm
    have h := rounding_clause f rm sat neg m e hf hm
    cases rm <;> exact h
  · intro s q p d b r c t m sat lanes gov num vals scale e8 scaleQ
    have hw : scaleWord s c = scale := scaleWord_eq s c
    refine ⟨fun h => ⟨fun hq => reductions_int h hq, fun hq => ?_, fun h2 _ => ⟨_, _, exec_vscale h t m b, vscaleOf_spec _ h2⟩⟩,
      fun rm df du sf su => ⟨_, vcvt_lanes rm sat df du sf su, fun n hn => ?_⟩,
      fun h => ⟨fun h2 h8 he hn => vquant_block h hw h2 h8 he hn, fun hn => vquant_nan h hw hn, fun h2 _ => vdeq_block h hw h2,
        vexpd_block h⟩, fun h => ?_, fun f ins h => approximations_lanes t sat f ins h⟩
    · obtain ⟨h1, h2, h3⟩ := reductions_float (p := p) (b := b) h hq
      refine ⟨h1, ?_, ?_⟩
      · obtain ⟨v, hv, he⟩ := h2
        exact ⟨v, hv, he.trans (by unfold bestVal; rfl)⟩
      · obtain ⟨v, hv, he⟩ := h3
        exact ⟨v, hv, he.trans (by unfold bestVal; rfl)⟩
    · obtain ⟨h1, h2, h3, h4⟩ := cvtLane_clause rm sat df du sf su (laneN (vrd s b) n)
      intro x put rnd whole val
      cases hs : vfInt sf with
      | some k =>
        cases hd : vfInt df with
        | some w => exact h1 k w hs hd
        | none => exact h2 k hs hd
      | none =>
        cases hd : vfInt df with
        | some w => exact h4 w hs hd
        | none => exact h3 hs hd
    · obtain ⟨v, k, h1, h2, h3, h4⟩ := vcmpr_block (d := d) (b := b) h
      exact ⟨v, k, h1, fun n hn => (h2 n hn).trans (keptLane_eq _), h3, h4⟩

end Sys2Proof.Proofs.VectorNumbers
end

section
/-!
PROOFS. WHAT STATEMENT O58 RESTS ON, FIRST PART. Which functions of the model leave device memory's cells alone: one lemma for each
that a step can reach and that writes none, in the order of the model and under its headings. A function of states has `f_mem`, the
body of an instruction a statement about `effState`, an instruction or event `f_kept`. Where a function runs another on the state
that it makes, its lemma takes that other one's as a hypothesis.
-/
namespace Sys2Proof.Proofs.MemoryForm
open Sys2Proof Sys2Proof.Machine

/-- The state with which the body of an instruction ends. -/
def effState : Eff → State
  | .done s => s
  | .jump s _ => s
  | .trap s _ _ => s
  | .left s => s
  | .reply s _ _ => s

/-- An outcome is a next state with the same plain memory. -/
def Kept (s : State) (o : Out) : Prop := ∃ t, o = .next t ∧ t.mem = s.mem

@[simp] theorem effState_done (s : State) : effState (.done s) = s := rfl
@[simp] theorem effState_jump (s : State) (pc : Word) : effState (.jump s pc) = s := rfl
@[simp] theorem effState_trap (s : State) (c : Nat) (v : Word) : effState (.trap s c v) = s := rfl
@[simp] theorem effState_left (s : State) : effState (.left s) = s := rfl
@[simp] theorem effState_reply (s : State) (p : Bool) (a : Scope) : effState (.reply s p a) = s := rfl
@[simp] theorem effState_ite (p : Prop) [Decidable p] (x y : Eff) : effState (if p then x else y) = if p then effState x else effState y :=
  apply_ite effState p x y
@[simp] theorem mem_ite (p : Prop) [Decidable p] (x y : State) : (if p then x else y).mem = if p then x.mem else y.mem :=
  apply_ite State.mem p x y
@[simp] theorem kept_next {s t : State} : Kept s (.next t) ↔ t.mem = s.mem :=
  ⟨fun ⟨_, h, hm⟩ => Host.Outcome.next.inj h ▸ hm, fun h => ⟨t, rfl, h⟩⟩
@[simp] theorem kept_ite {s : State} (p : Prop) [Decidable p] (x y : Out) : Kept s (if p then x else y) ↔ if p then Kept s x else Kept s y := by
  split <;> rfl
theorem foldl_mem {α : Type} {f : State → α → State} (h : ∀ s a, (f s a).mem = s.mem) (l : List α) (s : State) :
    (l.foldl f s).mem = s.mem := by
  induction l generalizing s with
  | nil => rfl
  | cons a l ih => exact (ih _).trans (h s a)

/-! ## The bytes of records -/

@[simp] theorem putVault_mem (s : State) (pa : Nat) (b : Byte) : (putVault s pa b).mem = s.mem := by
  unfold putVault
  cases vaultSpot s pa <;> rfl
@[simp] theorem putDesc_mem (s : State) (pa : Nat) (b : Byte) : (putDesc s pa b).mem = s.mem := by
  unfold putDesc
  dsimp only
  (repeat' split) <;> simp

/-! ## The Grove's bytes (log entry 18) -/

@[simp] theorem putGrove_mem (s : State) (pa : Nat) (b : Byte) : (putGrove s pa b).mem = s.mem := by
  unfold putGrove
  split <;> simp
@[simp] theorem putKept_mem (s : State) (pa : Nat) (b : Byte) : (putKept s pa b).mem = s.mem := by simp [putKept]

/-! ## Accessors -/

@[simp] theorem modLaunch_mem (s : State) (l : Nat) (f : Launch → Launch) : (modLaunch s l f).mem = s.mem := by
  unfold modLaunch
  split <;> simp

/-! ## Messages -/

@[simp] theorem answer_mem (s : State) (rto : ReplyTo) (res : RepRes) : (answer s rto res).mem = s.mem := by
  unfold answer
  split <;> simp
@[simp] theorem wantSeal_mem (s : State) : (wantSeal s).mem = s.mem := by simp [wantSeal]
@[simp] theorem trigger_mem (s : State) (cause : Nat) : (trigger s cause).mem = s.mem := by simp [trigger]

/-! ## Registers -/

@[simp] theorem wrAt_mem (s : State) (a : TRef) (r : Reg) (x : Word) : (wrAt s a r x).mem = s.mem := by simp [wrAt]

/-! ## Traps (R302 to R305) -/

@[simp] theorem freeze_mem (s : State) (a : TRef) (code : Nat) (tval : Word) : (freeze s a code tval).mem = s.mem := rfl
@[simp] theorem trapAt_mem (s : State) (a : TRef) (code : Nat) (tval : Word) : (trapAt s a code tval).mem = s.mem := by
  unfold trapAt
  dsimp only
  (repeat' split) <;> simp
@[simp] theorem trapMe_mem (s : State) (code : Nat) (tval : Word) : (trapMe s code tval).mem = s.mem := by simp [trapMe]
@[simp] theorem trapLater_mem (s : State) (a : TRef) (code : Nat) (tval : Word) : (trapLater s a code tval).mem = s.mem := by
  simp [trapLater]
@[simp] theorem leaveRings_mem (s : State) (a : TRef) : (leaveRings s a).mem = s.mem := by simp [leaveRings]
@[simp] theorem endStep_mem (a : TRef) (s : State) : (endStep a s).mem = s.mem := by
  unfold endStep
  dsimp only
  split
  · rfl
  · exact Eq.trans (foldl_mem (fun t p => post_mem ..) _ _) rfl

/-! ## The issue of an instruction -/

@[simp] theorem ackQi_mem (s : State) (c : Nat) : (ackQi s c).mem = s.mem := by
  unfold ackQi
  split <;> simp
@[simp] theorem takeQi_mem (s : State) : (takeQi s).mem = s.mem := rfl
@[simp] theorem queueEnd_mem (s : State) (e : QEntry) : (queueEnd s e).mem = s.mem := by simp [queueEnd]
@[simp] theorem finish_mem (len : Nat) (p : Bool) (e : Eff) : (finish len p e).mem = (effState e).mem := by
  cases e <;> simp [finish]
/-- An instruction leaves memory as its body does. -/
@[simp] theorem runI_mem {len : Nat} {srcs dsts : List Reg} {s : State} {body : State → Eff}
    (h : ∀ t, (effState (body t)).mem = t.mem) : (runI len srcs dsts s body).mem = s.mem := by
  unfold runI
  simp [h]
@[simp] theorem retry_mem (s : State) (c : Cause) : (effState (retry s c)).mem = s.mem := rfl
@[simp] theorem fenced_mem {s : State} {need : Bool} {sc : Scope} {k : State → Eff}
    (h : ∀ t, (effState (k t)).mem = t.mem) : (effState (fenced s need sc k)).mem = s.mem := by
  unfold fenced
  split
  · split <;> simp [h]
  · exact h s

/-! ## Physical memory -/

@[simp] theorem noteRefusal_mem (s : State) (launch : Option Nat) (store : Bool) (r : Refuse) :
    (noteRefusal s launch store r).mem = s.mem := by
  unfold noteRefusal
  split <;> simp
@[simp] theorem setFull_mem (s : State) (pa : Nat) (full : Bool) : (setFull s pa full).mem = s.mem := rfl
@[simp] theorem setQueue_mem (s : State) (n : Nat) (q : LQueue) : (setQueue s n q).mem = s.mem := by simp [setQueue]
@[simp] theorem uncorrectable_mem (s : State) (pa : Nat) : (uncorrectable s pa).mem = s.mem := by simp [uncorrectable]
@[simp] theorem countEcc_mem (s : State) (st : Nat) : (countEcc s st).mem = s.mem := rfl
@[simp] theorem eccSector_mem (s : State) (k : Nat) : (eccSector s k).mem = s.mem := by
  unfold eccSector
  split <;> simp
@[simp] theorem eccRead_mem (s : State) (pa n : Nat) : (eccRead s pa n).mem = s.mem := by
  unfold eccRead
  split
  · rfl
  · exact foldl_mem (fun s i => eccSector_mem ..) _ _
@[simp] theorem fireInj_mem (s : State) : (fireInj s).mem = s.mem := by simp [fireInj]

/-! ## Names of threads -/

/-- A look at memory leaves it as what follows does. -/
theorem lookAt_eff_mem {s : State} {pa n : Nat} {stop ok : State → Eff} (hs : ∀ t, (effState (stop t)).mem = t.mem)
    (ho : ∀ t, (effState (ok t)).mem = t.mem) : (effState (lookAt s pa n stop ok)).mem = s.mem := by
  unfold lookAt
  split
  · simp [hs]
  · split
    · simp [hs]
    · simp [ho]
theorem lookAt_mem {s : State} {pa n : Nat} {stop ok : State → State} (hs : ∀ t, (stop t).mem = t.mem)
    (ho : ∀ t, (ok t).mem = t.mem) : (lookAt s pa n stop ok).mem = s.mem := by
  unfold lookAt
  split
  · simp [hs]
  · split
    · simp [hs]
    · simp [ho]
@[simp] theorem withRole_mem {s : State} {code : Nat} {k : State → Resolved → Eff}
    (h : ∀ t r, (effState (k t r)).mem = t.mem) : (effState (withRole s code k)).mem = s.mem := by
  unfold withRole
  split
  · exact h ..
  · split
    · simp
    · exact lookAt_eff_mem (fun _ => rfl) fun t => h ..

/-! ## Translation (R179 to R181, R389) -/

@[simp] theorem sendMiss_mem (s : State) (c : Nat) (m : Miss) (va : Word) (kind : Nat) : (sendMiss s c m va kind).mem = s.mem :=
  rfl
@[simp] theorem raiseMiss_mem (s : State) (c agent : Nat) (l : Option Nat) (va : Word) (kind : Nat) :
    (raiseMiss s c agent l va kind).mem = s.mem := by
  simp [raiseMiss]
@[simp] theorem nextMiss_mem (s : State) (c : Nat) : (nextMiss s c).mem = s.mem := by
  unfold nextMiss
  split <;> simp
@[simp] theorem shipAway_mem (s : State) (modnum pa op : Nat) (va : Word) (fin : Option (Nat × Reg)) (toHome pops : Bool) :
    (shipAway s modnum pa op va fin toHome pops).mem = s.mem := by
  simp [shipAway]
@[simp] theorem gAccess_mem {s : State} {va : Word} {n : Need} {op : Nat} {k : State → Nat → Eff}
    (h : ∀ t a, (effState (k t a)).mem = t.mem) : (effState (gAccess s va n op k)).mem = s.mem := by
  unfold gAccess
  split <;> simp [h]
@[simp] theorem vwr_mem (s : State) (r : VReg) (x : Vector Lane 32) : (vwr s r x).mem = s.mem := rfl
@[simp] theorem pwr_mem (s : State) (r : PReg) (x : Lane) : (pwr s r x).mem = s.mem := by simp [pwr]
@[simp] theorem countMe_mem (s : State) (e : Events) : (countMe s e).mem = s.mem := rfl

/-! ## The classes (R37, R100) -/

@[simp] theorem classR_mem (f : Word → Word → Word) (a b : Reg) (c : Option Reg) (s : State) : (classR f a b c s).mem = s.mem := by
  simp [classR]
@[simp] theorem classI_mem (f : Word → Word → Word) (a : Reg) (c : Option Reg) (i : Imm) (s : State) :
    (classI f a c i s).mem = s.mem := by
  simp [classI]
@[simp] theorem classU_mem (f : Word → Word) (a b : Reg) (s : State) : (classU f a b s).mem = s.mem := by simp [classU]
@[simp] theorem classX_mem (f : Word → Word) (a : Reg) (c : Option Reg) (s : State) : (classX f a c s).mem = s.mem := by
  simp [classX]

/-! ## The meanings -/

@[simp] theorem execMov_kept (a b : Reg) (s : State) : Kept s (execMov a b s) := by simp [execMov]
@[simp] theorem execLi_kept (a : Reg) (i : Imm) (s : State) : Kept s (execLi a i s) := by simp [execLi]
@[simp] theorem execSel_kept (a b c m : Reg) (s : State) : Kept s (execSel a b c m s) := by simp [execSel]
@[simp] theorem execAdd_kept (a b : Reg) (c : Option Reg) (s : State) : Kept s (execAdd a b c s) := by simp [execAdd]
@[simp] theorem execAddImm_kept (a : Reg) (c : Option Reg) (i : Imm) (s : State) : Kept s (execAddImm a c i s) := by
  simp [execAddImm]
@[simp] theorem execSub_kept (a b : Reg) (c : Option Reg) (s : State) : Kept s (execSub a b c s) := by simp [execSub]
@[simp] theorem execMul_kept (a b : Reg) (c : Option Reg) (s : State) : Kept s (execMul a b c s) := by simp [execMul]
@[simp] theorem execMulh_kept (a b : Reg) (c : Option Reg) (s : State) : Kept s (execMulh a b c s) := by simp [execMulh]
@[simp] theorem execMulhu_kept (a b : Reg) (c : Option Reg) (s : State) : Kept s (execMulhu a b c s) := by simp [execMulhu]
@[simp] theorem execDiv_kept (a b : Reg) (c : Option Reg) (s : State) : Kept s (execDiv a b c s) := by simp [execDiv]
@[simp] theorem execDivu_kept (a b : Reg) (c : Option Reg) (s : State) : Kept s (execDivu a b c s) := by simp [execDivu]
@[simp] theorem execRem_kept (a b : Reg) (c : Option Reg) (s : State) : Kept s (execRem a b c s) := by simp [execRem]
@[simp] theorem execRemu_kept (a b : Reg) (c : Option Reg) (s : State) : Kept s (execRemu a b c s) := by simp [execRemu]
@[simp] theorem execAnd_kept (a b : Reg) (c : Option Reg) (s : State) : Kept s (execAnd a b c s) := by simp [execAnd]
@[simp] theorem execAndImm_kept (a : Reg) (c : Option Reg) (i : Imm) (s : State) : Kept s (execAndImm a c i s) := by
  simp [execAndImm]
@[simp] theorem execOr_kept (a b : Reg) (c : Option Reg) (s : State) : Kept s (execOr a b c s) := by simp [execOr]
@[simp] theorem execOrImm_kept (a : Reg) (c : Option Reg) (i : Imm) (s : State) : Kept s (execOrImm a c i s) := by
  simp [execOrImm]
@[simp] theorem execXor_kept (a b : Reg) (c : Option Reg) (s : State) : Kept s (execXor a b c s) := by simp [execXor]
@[simp] theorem execXorImm_kept (a : Reg) (c : Option Reg) (i : Imm) (s : State) : Kept s (execXorImm a c i s) := by
  simp [execXorImm]
@[simp] theorem execSll_kept (a b : Reg) (c : Option Reg) (s : State) : Kept s (execSll a b c s) := by simp [execSll]
@[simp] theorem execSrl_kept (a b : Reg) (c : Option Reg) (s : State) : Kept s (execSrl a b c s) := by simp [execSrl]
@[simp] theorem execSra_kept (a b : Reg) (c : Option Reg) (s : State) : Kept s (execSra a b c s) := by simp [execSra]
@[simp] theorem execRol_kept (a b : Reg) (c : Option Reg) (s : State) : Kept s (execRol a b c s) := by simp [execRol]
@[simp] theorem execSllImm_kept (a : Reg) (c : Option Reg) (i : Imm) (s : State) : Kept s (execSllImm a c i s) := by
  simp [execSllImm]
@[simp] theorem execSrlImm_kept (a : Reg) (c : Option Reg) (i : Imm) (s : State) : Kept s (execSrlImm a c i s) := by
  simp [execSrlImm]
@[simp] theorem execSraImm_kept (a : Reg) (c : Option Reg) (i : Imm) (s : State) : Kept s (execSraImm a c i s) := by
  simp [execSraImm]
@[simp] theorem execRor_kept (a b : Reg) (c : Option Reg) (s : State) : Kept s (execRor a b c s) := by simp [execRor]
@[simp] theorem execRorImm_kept (a : Reg) (c : Option Reg) (i : Imm) (s : State) : Kept s (execRorImm a c i s) := by
  simp [execRorImm]
@[simp] theorem execSlt_kept (a b : Reg) (c : Option Reg) (s : State) : Kept s (execSlt a b c s) := by simp [execSlt]
@[simp] theorem execSltu_kept (a b : Reg) (c : Option Reg) (s : State) : Kept s (execSltu a b c s) := by simp [execSltu]
@[simp] theorem execSeq_kept (a b : Reg) (c : Option Reg) (s : State) : Kept s (execSeq a b c s) := by simp [execSeq]
@[simp] theorem execSne_kept (a b : Reg) (c : Option Reg) (s : State) : Kept s (execSne a b c s) := by simp [execSne]
@[simp] theorem execSltImm_kept (a : Reg) (c : Option Reg) (i : Imm) (s : State) : Kept s (execSltImm a c i s) := by
  simp [execSltImm]
@[simp] theorem execClz_kept (a b : Reg) (s : State) : Kept s (execClz a b s) := by simp [execClz]
@[simp] theorem execCtz_kept (a b : Reg) (s : State) : Kept s (execCtz a b s) := by simp [execCtz]
@[simp] theorem execPopc_kept (a b : Reg) (s : State) : Kept s (execPopc a b s) := by simp [execPopc]
@[simp] theorem execBext_kept (a b : Reg) (c : Option Reg) (s : State) : Kept s (execBext a b c s) := by simp [execBext]
@[simp] theorem execBdep_kept (a b : Reg) (c : Option Reg) (s : State) : Kept s (execBdep a b c s) := by simp [execBdep]
@[simp] theorem execSext_kept (w : Width) (a : Reg) (c : Option Reg) (s : State) : Kept s (execSext w a c s) := by simp [execSext]
@[simp] theorem execZext_kept (w : Width) (a : Reg) (c : Option Reg) (s : State) : Kept s (execZext w a c s) := by simp [execZext]

/-! ## Message-class slots (R72) -/

@[simp] theorem startClass_mem (s : State) (c n : Nat) (m : Mail) : (startClass s c n m).mem = s.mem := rfl
@[simp] theorem classArrive_mem (s : State) (c n : Nat) (m : Mail) : (classArrive s c n m).mem = s.mem := by simp [classArrive]
@[simp] theorem classNext_mem (s : State) (c n : Nat) : (classNext s c n).mem = s.mem := by
  unfold classNext
  dsimp only
  split <;> simp

/-! ## Page 0 (R109) -/

@[simp] theorem execNop_kept (s : State) : Kept s (execNop s) := by
  unfold execNop
  refine kept_next.2 (runI_mem fun t => ?_)
  simp
@[simp] theorem execTrap_kept (i : Imm) (s : State) : Kept s (execTrap i s) := by
  unfold execTrap
  refine kept_next.2 (runI_mem fun t => ?_)
  simp
@[simp] theorem debugHalt_mem (s : State) : (debugHalt s).mem = s.mem := rfl
@[simp] theorem execBrk_kept (i : Imm) (s : State) : Kept s (execBrk i s) := by simp [execBrk]

/-! ## Branches and jumps (R107, R108) -/

@[simp] theorem branch_mem (len : Nat) (srcs : List Reg) (o : Imm) (cond : State → Bool) (s : State) :
    (branch len srcs o cond s).mem = s.mem := by
  simp [branch]
@[simp] theorem branch1_mem (p : Word → Bool) (a : Reg) (o : Imm) (s : State) : (branch1 p a o s).mem = s.mem := by simp [branch1]
@[simp] theorem branch2_mem (p : Word → Word → Bool) (a : Reg) (c : Option Reg) (o : Imm) (s : State) :
    (branch2 p a c o s).mem = s.mem := by
  simp [branch2]
@[simp] theorem execBz_kept (a : Reg) (o : Imm) (s : State) : Kept s (execBz a o s) := by simp [execBz]
@[simp] theorem execBnz_kept (a : Reg) (o : Imm) (s : State) : Kept s (execBnz a o s) := by simp [execBnz]
@[simp] theorem execBeq_kept (a : Reg) (c : Option Reg) (o : Imm) (s : State) : Kept s (execBeq a c o s) := by simp [execBeq]
@[simp] theorem execBne_kept (a : Reg) (c : Option Reg) (o : Imm) (s : State) : Kept s (execBne a c o s) := by simp [execBne]
@[simp] theorem execBlt_kept (a : Reg) (c : Option Reg) (o : Imm) (s : State) : Kept s (execBlt a c o s) := by simp [execBlt]
@[simp] theorem execBge_kept (a : Reg) (c : Option Reg) (o : Imm) (s : State) : Kept s (execBge a c o s) := by simp [execBge]
@[simp] theorem execBltu_kept (a : Reg) (c : Option Reg) (o : Imm) (s : State) : Kept s (execBltu a c o s) := by simp [execBltu]
@[simp] theorem execBgeu_kept (a : Reg) (c : Option Reg) (o : Imm) (s : State) : Kept s (execBgeu a c o s) := by simp [execBgeu]
@[simp] theorem execJ_kept (o : Imm) (s : State) : Kept s (execJ o s) := by
  unfold execJ
  refine kept_next.2 (runI_mem fun t => ?_)
  simp
@[simp] theorem execJl_kept (o : Imm) (s : State) : Kept s (execJl o s) := by simp [execJl]
@[simp] theorem execJr_kept (a : Reg) (s : State) : Kept s (execJr a s) := by simp [execJr]
@[simp] theorem execJlr_kept (a b : Reg) (s : State) : Kept s (execJlr a b s) := by simp [execJlr]

/-! ## CSRs (R306, R307) -/

@[simp] theorem csrI_mem {i : Imm} {srcs dsts : List Reg} {s : State} {k : State → Nat → State}
    (h : ∀ t n, (k t n).mem = t.mem) : (csrI i srcs dsts s k).mem = s.mem := by
  simp [csrI, h]
@[simp] theorem csrPut_mem (s : State) (n : Nat) (x : Word) : (csrPut s n x).mem = s.mem := by simp [csrPut]
@[simp] theorem execCsrr_kept (d : Reg) (i : Imm) (s : State) : Kept s (execCsrr d i s) := by simp [execCsrr]
@[simp] theorem execCsrw_kept (a : Reg) (i : Imm) (s : State) : Kept s (execCsrw a i s) := by simp [execCsrw]
@[simp] theorem execCsrs_kept (a : Reg) (i : Imm) (s : State) : Kept s (execCsrs a i s) := by simp [execCsrs]
@[simp] theorem execCsrc_kept (a : Reg) (i : Imm) (s : State) : Kept s (execCsrc a i s) := by simp [execCsrc]
@[simp] theorem execTret_kept (s : State) : Kept s (execTret s) := by simp [execTret]
@[simp] theorem illegalAt_mem (s : State) (off : Nat) : (illegalAt s off).mem = s.mem := by simp [illegalAt]
@[simp] theorem execIllegalInstruction_kept (s : State) : Kept s (execIllegalInstruction s) := by
  unfold execIllegalInstruction
  split <;> simp

/-! ## The store buffer (R136) -/

@[simp] theorem loadG_mem (w : Width) (a b : Reg) (i : Imm) (s : State) : (loadG w a b i s).mem = s.mem := by
  unfold loadG
  refine runI_mem fun t => ?_
  dsimp only
  split
  · rfl
  · refine gAccess_mem fun u pa => ?_
    split <;> simp
@[simp] theorem sbPush_mem (s : State) (pa : Nat) (w : Width) (x : Word) : (sbPush s pa w x).mem = s.mem := rfl
@[simp] theorem storeG_mem (w : Width) (a b : Reg) (i : Imm) (s : State) : (storeG w a b i s).mem = s.mem := by simp [storeG]
@[simp] theorem execLdgD_kept (a b : Reg) (i : Imm) (s : State) : Kept s (execLdgD a b i s) := by simp [execLdgD]
@[simp] theorem execLdgW_kept (a b : Reg) (i : Imm) (s : State) : Kept s (execLdgW a b i s) := by simp [execLdgW]
@[simp] theorem execLdgH_kept (a b : Reg) (i : Imm) (s : State) : Kept s (execLdgH a b i s) := by simp [execLdgH]
@[simp] theorem execLdgB_kept (a b : Reg) (i : Imm) (s : State) : Kept s (execLdgB a b i s) := by simp [execLdgB]
@[simp] theorem execStgD_kept (a b : Reg) (i : Imm) (s : State) : Kept s (execStgD a b i s) := by simp [execStgD]
@[simp] theorem execStgW_kept (a b : Reg) (i : Imm) (s : State) : Kept s (execStgW a b i s) := by simp [execStgW]
@[simp] theorem execStgH_kept (a b : Reg) (i : Imm) (s : State) : Kept s (execStgH a b i s) := by simp [execStgH]
@[simp] theorem execStgB_kept (a b : Reg) (i : Imm) (s : State) : Kept s (execStgB a b i s) := by simp [execStgB]

/-! ## Requests that wait for the TAU -/

@[simp] theorem request_mem (s : State) (va : Word) (align : Nat) (n : Need) (op : Nat) (pushes : Bool) (after : Scope) (msg : State → TauReq → Ev) :
    (effState (request s va align n op pushes after msg)).mem = s.mem := by
  simp [request]
@[simp] theorem feI_mem (op : FeOp) (srcs dsts : List Reg) (data dst b : Reg) (i : Imm) (s : State) :
    (feI op srcs dsts data dst b i s).mem = s.mem := by
  simp [feI]
@[simp] theorem execLdfe_kept (a b : Reg) (i : Imm) (s : State) : Kept s (execLdfe a b i s) := by simp [execLdfe]
@[simp] theorem execLdff_kept (a b : Reg) (i : Imm) (s : State) : Kept s (execLdff a b i s) := by simp [execLdff]
@[simp] theorem execStfe_kept (a b : Reg) (i : Imm) (s : State) : Kept s (execStfe a b i s) := by simp [execStfe]
@[simp] theorem execStff_kept (a b : Reg) (i : Imm) (s : State) : Kept s (execStff a b i s) := by simp [execStff]
@[simp] theorem execLdx_kept (a b : Reg) (i : Imm) (s : State) : Kept s (execLdx a b i s) := by simp [execLdx]
@[simp] theorem execFes_kept (full : Bool) (b : Reg) (i : Imm) (s : State) : Kept s (execFes full b i s) := by simp [execFes]
@[simp] theorem execLrq_kept (a b : Reg) (i : Imm) (s : State) : Kept s (execLrq a b i s) := by simp [execLrq]
@[simp] theorem execScq_kept (a b : Reg) (i : Imm) (s : State) : Kept s (execScq a b i s) := by
  unfold execScq
  refine kept_next.2 (runI_mem fun t => ?_)
  dsimp only
  (repeat' split) <;> simp
@[simp] theorem execAmo_kept (op : AmoOp) (a b c m : Reg) (xs : Option Scope) (uns : Bool) (s : State) :
    Kept s (execAmo op a b c m xs uns s) := by
  simp [execAmo]
@[simp] theorem execAmofAdd_kept (a b c : Reg) (xs : Option Scope) (s : State) : Kept s (execAmofAdd a b c xs s) := by
  simp [execAmofAdd]

/-! ## Remote updates and chained loads -/

@[simp] theorem sendUpdate_mem (s : State) (modnum : Nat) (m : UpdateMsg) : (sendUpdate s modnum m).mem = s.mem := by
  unfold sendUpdate
  dsimp only
  split <;> simp
@[simp] theorem execRupd_kept (a b : Reg) (i : Imm) (xs : Option Scope) (s : State) : Kept s (execRupd a b i xs s) := by
  refine kept_next.2 (runI_mem fun t => fenced_mem fun u => ?_)
  dsimp only
  split
  · (repeat' split) <;> simp
  · (repeat' split) <;> simp
  · rfl
  · simp
@[simp] theorem chldStop_mem (s : State) (m : ChldMsg) (code : Nat) (addr : Word) : (chldStop s m code addr).mem = s.mem := by
  simp [chldStop]
@[simp] theorem chldI_mem (fail : Bool) (a b c : Reg) (n : Nat) (s : State) : (chldI fail a b c n s).mem = s.mem := by
  simp [chldI]
@[simp] theorem execChld_kept (a b c : Reg) (n : Nat) (s : State) : Kept s (execChld a b c n s) := by simp [execChld]
@[simp] theorem execChldFail_kept (a b c : Reg) (n : Nat) (s : State) : Kept s (execChldFail a b c n s) := by simp [execChldFail]
@[simp] theorem setWaiters_mem (s : State) (word : Nat) (l : List Waiter) : (setWaiters s word l).mem = s.mem := rfl
@[simp] theorem setResv_mem (s : State) (word : Nat) (l : List Resv) : (setResv s word l).mem = s.mem := rfl
@[simp] theorem refusedAt_mem (s : State) (launch : Option Nat) (store : Bool) (pa : Nat) :
    (refusedAt s launch store pa).mem = s.mem := by
  unfold refusedAt
  split <;> simp
@[simp] theorem chldRead_mem (s : State) (m : ChldMsg) (va : Word) (pa : Nat) : (chldRead s m va pa).mem = s.mem := by
  unfold chldRead
  dsimp only
  generalize (if m.at_ = some (tauOf pa) then m.hops else m.hops + 1) = n
  split
  · simp
  · split
    · simp
    · refine lookAt_mem (fun _ => rfl) fun t => ?_
      (repeat' split) <;> simp
@[simp] theorem chldGo_mem (s : State) (m : ChldMsg) : (chldGo s m).mem = s.mem := by
  unfold chldGo
  dsimp only
  split <;> simp
@[simp] theorem execChldStep_kept (s : State) : Kept s (execChldStep s) := by
  unfold execChldStep
  split <;> simp

/-! ## The TAUs -/

/-- A request at its TAU leaves memory as what the TAU does for it. -/
theorem tauServe_kept {s : State} {r : TauReq} {reads : Bool} {k : State → State} (h : ∀ t, (k t).mem = t.mem) :
    Kept s (tauServe s r reads k) := by
  unfold tauServe
  split
  · simp
  · split
    · simp
    · dsimp only
      split
      · simp
      · simp [h]
@[simp] theorem tauReads_mem {s : State} {pa : Nat} {k : State → State} (h : ∀ t, (k t).mem = t.mem) :
    (tauReads s pa k).mem = s.mem := by
  unfold tauReads
  split <;> simp [h]
@[simp] theorem execTauRead_kept (s : State) : Kept s (execTauRead s) := by
  unfold execTauRead
  split
  · exact tauServe_kept fun t => tauReads_mem fun u => by simp
  · exact kept_next.2 rfl
@[simp] theorem execStoreAck_kept (s : State) : Kept s (execStoreAck s) := by
  unfold execStoreAck
  split <;> simp
@[simp] theorem execStoreBufferInject_kept (s : State) : Kept s (execStoreBufferInject s) := by
  unfold execStoreBufferInject
  dsimp only
  (repeat' split) <;> simp
@[simp] theorem execFetmoTimeout_kept (s : State) : Kept s (execFetmoTimeout s) := by
  unfold execFetmoTimeout
  dsimp only
  (repeat' split) <;> simp
@[simp] theorem modAt_mem (s : State) (rto : ReplyTo) (f : Thread → Thread) : (modAt s rto f).mem = s.mem := by
  unfold modAt
  split <;> simp
@[simp] theorem execLrqRequest_kept (s : State) : Kept s (execLrqRequest s) := by
  unfold execLrqRequest
  split
  · refine tauServe_kept fun t => ?_
    dsimp only
    split
    · simp
    · split
      · rw [tauReads_mem fun u => by simp]
        simp
      · simp
  · exact kept_next.2 rfl
@[simp] theorem resvServe_mem (word n : Nat) (s : State) : (resvServe word n s).mem = s.mem := by
  induction n generalizing s with
  | zero => rfl
  | succ n ih =>
    unfold resvServe
    split
    · rfl
    · refine lookAt_mem (fun _ => rfl) fun t => ?_
      split <;> simp [ih]
@[simp] theorem resvPass_mem (s : State) (word : Nat) : (resvPass s word).mem = s.mem := by simp [resvPass]
@[simp] theorem resvQuit_mem (s : State) (who : TRef) (word : Nat) : (resvQuit s who word).mem = s.mem := by simp [resvQuit]

/-! ## The reply (R12) -/

@[simp] theorem endHolds_mem (s : State) (c : Nat) (pops pushes : Bool) : (endHolds s c pops pushes).mem = s.mem := rfl
@[simp] theorem replyWrites_mem (s : State) (a : TRef) (len : Nat) (pops pushes : Bool) (after : Scope) (l : List (Reg × Word)) :
    (replyWrites s a len pops pushes after l).mem = s.mem := by
  have h : ∀ (l : List (Reg × Word)) (t : State), (l.foldl (fun s e => wrAt s a e.1 e.2) t).mem = t.mem := foldl_mem fun t e => by simp
  cases pops <;> cases pushes <;> simp [replyWrites, h]
@[simp] theorem giveBack_mem (s : State) (a : TRef) (popped : Option QEntry) (pushes : Bool) :
    (giveBack s a popped pushes).mem = s.mem :=
  rfl
@[simp] theorem replyTrap_mem (s : State) (a : TRef) (popped : Option QEntry) (pushes : Bool) (code : Nat) (tval : Word)
    (l : List (Reg × Word)) : (replyTrap s a popped pushes code tval l).mem = s.mem := by
  have h : ∀ (l : List (Reg × Word)) (t : State), (l.foldl (fun s e => wrAt s a e.1 e.2) t).mem = t.mem := foldl_mem fun t e => by simp
  simp [replyTrap, h]
@[simp] theorem relink_mem (s : State) (c : Nat) (d : Option Nat) : (relink s c d).mem = s.mem := by
  unfold relink
  dsimp only
  (repeat' split) <;> simp
@[simp] theorem replyAt_mem (s : State) (a : TRef) (res : RepRes) : (replyAt s a res).mem = s.mem := by
  unfold replyAt
  (repeat' split) <;> simp
@[simp] theorem execReply_kept (s : State) : Kept s (execReply s) := by
  unfold execReply
  split <;> simp

/-! ## External memory (R155, R156, R293) -/

@[simp] theorem execLdext_kept (w : Width) (a b : Reg) (i : Imm) (s : State) : Kept s (execLdext w a b i s) := by simp [execLdext]
@[simp] theorem execStext_kept (w : Width) (a b : Reg) (i : Imm) (s : State) : Kept s (execStext w a b i s) := by simp [execStext]
@[simp] theorem escrowPut_mem (s : State) (die : Nat) (e : EscEntry) : (escrowPut s die e).mem = s.mem := by simp [escrowPut]
@[simp] theorem escDrain_mem (die fuel : Nat) (s : State) : (escDrain die fuel s).mem = s.mem := by
  induction fuel generalizing s with
  | zero => rfl
  | succ fuel ih =>
    unfold escDrain
    split
    · split
      · exact (ih _).trans (by simp)
      · rfl
    · rfl
@[simp] theorem execEscrowAccept_kept (s : State) : Kept s (execEscrowAccept s) := by
  unfold execEscrowAccept
  split <;> simp

/-! ## The typed buffers -/

@[simp] theorem bufWrite_mem (s : State) (c : Nat) (sp : Space) (off : Nat) (l : List Byte) :
    (bufWrite s c sp off l).mem = s.mem :=
  rfl
@[simp] theorem localCheck_mem {s : State} {sp : Space} {off : Word} {n : Nat} {k : State → Eff}
    (h : ∀ t, (effState (k t)).mem = t.mem) : (effState (localCheck s sp off n k)).mem = s.mem := by
  simp [localCheck, h]
@[simp] theorem execLd_kept (sp : Space) (w : Width) (a b : Reg) (i : Imm) (s : State) : Kept s (execLd sp w a b i s) := by
  simp [execLd]
@[simp] theorem execSt_kept (sp : Space) (w : Width) (a b : Reg) (i : Imm) (s : State) : Kept s (execSt sp w a b i s) :=
  kept_next.2 (runI_mem fun _ => localCheck_mem fun _ => rfl)

/-! ## Space M (R162 to R164) -/

@[simp] theorem mCheck_mem {s : State} {m : Word} {n : Nat} {k : State → Eff}
    (h : ∀ t, (effState (k t)).mem = t.mem) : (effState (mCheck s m n k)).mem = s.mem := by
  simp [mCheck, h]
@[simp] theorem execLdm_kept (w : Width) (a b : Reg) (i : Imm) (s : State) : Kept s (execLdm w a b i s) :=
  kept_next.2 (runI_mem fun _ => mCheck_mem fun _ => rfl)
@[simp] theorem execStm_kept (w : Width) (a b : Reg) (i : Imm) (s : State) : Kept s (execStm w a b i s) := by simp [execStm]
@[simp] theorem mAck_mem (s : State) (f : Option TRef) : (mAck s f).mem = s.mem := by
  unfold mAck
  split <;> simp
@[simp] theorem execMWrite_kept (s : State) : Kept s (execMWrite s) := by
  unfold execMWrite
  (repeat' split) <;> simp
@[simp] theorem execMRead_kept (s : State) : Kept s (execMRead s) := by
  unfold execMRead
  dsimp only
  (repeat' split) <;> simp
@[simp] theorem execLbf_kept (s : State) : Kept s (execLbf s) := by simp [execLbf]

/-! ## Rings (R166 to R168) -/

@[simp] theorem execRcfg_kept (n : Fin 4) (b : Reg) (s : State) : Kept s (execRcfg n b s) := by simp [execRcfg]
@[simp] theorem ringI_mem {len : Nat} {n : Fin 4} {dsts : List Reg} {s : State} {k : State → Ring → Eff}
    (h : ∀ t r, (effState (k t r)).mem = t.mem) : (ringI len n dsts s k).mem = s.mem := by
  unfold ringI
  dsimp only
  split <;> simp [h]
@[simp] theorem execRpush_kept (a : Reg) (n : Fin 4) (s : State) : Kept s (execRpush a n s) := by
  unfold execRpush
  refine kept_next.2 (ringI_mem fun t r => ?_)
  (repeat' split) <;> simp
@[simp] theorem execRpop_kept (a : Reg) (n : Fin 4) (s : State) : Kept s (execRpop a n s) := by
  unfold execRpop
  refine kept_next.2 (ringI_mem fun t r => ?_)
  (repeat' split) <;> simp
@[simp] theorem execRpushC_kept (n : Fin 4) (s : State) : Kept s (execRpushC n s) := by
  refine kept_next.2 (ringI_mem fun t r => ?_)
  split
  · rfl
  · exact fenced_mem fun u => rfl
@[simp] theorem execRpopF_kept (n : Fin 4) (s : State) : Kept s (execRpopF n s) := by simp [execRpopF]

/-! ## Queues (R169 to R171) -/

@[simp] theorem queueMove_mem (s : State) (c : Nat) : (queueMove s c).mem = s.mem := by
  unfold queueMove
  dsimp only
  (repeat' split) <;> simp
@[simp] theorem execQueueTransfer_kept (s : State) : Kept s (execQueueTransfer s) := by
  unfold execQueueTransfer
  split <;> simp
@[simp] theorem execQend_kept (a : Reg) (s : State) : Kept s (execQend a s) := by
  unfold execQend
  refine kept_next.2 (runI_mem fun t => ?_)
  simp
@[simp] theorem execQendRet_kept (s : State) : Kept s (execQendRet s) := by simp [execQendRet]
@[simp] theorem linkGo_mem (s : State) (m : LinkMsg) : (linkGo s m).mem = s.mem := by
  unfold linkGo
  split <;> simp
@[simp] theorem qcfgGo_mem (s : State) (a : Reg) (code : Nat) (x : Resolved) : (effState (qcfgGo s a code x)).mem = s.mem := by
  unfold qcfgGo
  (repeat' split) <;> simp
@[simp] theorem execQcfg_kept (a b : Reg) (s : State) : Kept s (execQcfg a b s) := by simp [execQcfg]

/-! ## The victim tier (R184) -/

@[simp] theorem touchPage_mem (s : State) (pa : Nat) : (touchPage s pa).mem = s.mem := by
  unfold touchPage
  exact foldl_mem (fun _ _ => by simp) _ _
@[simp] theorem pageReady_mem {s : State} {pa : Nat} {k : State → Eff}
    (h : ∀ t, (effState (k t)).mem = t.mem) : (effState (pageReady s pa k)).mem = s.mem := by
  simp [pageReady, h]
/-- A page that is read has been touched and checked, and its bytes stay. -/
theorem pageRead_mem (s : State) (pa : Nat) : (touchPage (eccRead s pa 8192) pa).mem = s.mem := by
  rw [touchPage_mem, eccRead_mem]
/-- What `evct` does with the page that it has read. -/
theorem evctPage_mem (s : State) (a : Reg) (pa m : Word) : (effState (
      match pageRefuses s (reqLaunch (me s)) pa.toNat with
      | some (r, x) => .trap (noteRefusal s (reqLaunch (me s)) false r) 0x05 (BitVec.ofNat 64 x)
      | none =>
        .reply (post (modCore (bufWrite s (mCore m) (mSpace m) (mOff m) (devBytes s pa.toNat 8192)) (mCore m)
          (fun x => { x with victim := true }))
          (.reply s.cur (status a 0))) (a == 31) .dflt)).mem = s.mem := by
  split
  · simp
  · simp [bufWrite]
@[simp] theorem execEvct_kept (a b c : Reg) (s : State) : Kept s (execEvct a b c s) := by
  refine kept_next.2 (runI_mem fun t => ?_)
  rw [effState_ite, mem_ite]
  split
  · exact wr_mem ..
  · refine pageReady_mem fun u => ?_
    rw [effState_ite, mem_ite]
    split
    · exact trigger_mem ..
    · rw [effState_ite, mem_ite]
      split
      · exact fireInj_mem ..
      · exact (evctPage_mem ..).trans (pageRead_mem ..)
@[simp] theorem modBank_mem (s : State) (cl n : Nat) (f : MxBank → MxBank) : (modBank s cl n f).mem = s.mem := rfl
@[simp] theorem setRec_mem (s : State) (cl : Nat) (copy : Bool) (bank : Nat) (r : JobRec) :
    (setRec s cl copy bank r).mem = s.mem := by
  simp [setRec]
@[simp] theorem modRec_mem (s : State) (cl id : Nat) (f : JobRec → JobRec) : (modRec s cl id f).mem = s.mem := by
  unfold modRec
  split <;> simp

/-! ## Elements and words (R230, R231) -/

@[simp] theorem modStream_mem (s : State) (c n : Nat) (f : Stream → Stream) : (modStream s c n f).mem = s.mem := rfl
@[simp] theorem gotWord_mem (s : State) (c n k : Nat) (w : Word) : (gotWord s c n k w).mem = s.mem := rfl

/-! ## Reading ahead (R231, R232) -/

@[simp] theorem readAhead_kept (s : State) (c n : Nat) : Kept s (readAhead s c n) := by
  unfold readAhead
  dsimp only
  (repeat' split) <;> simp
@[simp] theorem execStreamRead_kept (s : State) : Kept s (execStreamRead s) := by
  unfold execStreamRead
  split <;> simp

/-! ## The merge tree (R233, R234) -/

@[simp] theorem execMergeStep_kept (s : State) : Kept s (execMergeStep s) := by
  unfold execMergeStep
  split <;> simp

/-! ## Opening and combining (R230, R233) -/

@[simp] theorem execSopen_kept (x : Fin 4) (b : Reg) (s : State) : Kept s (execSopen x b s) := by
  refine kept_next.2 (runI_mem fun t => ?_)
  dsimp only
  generalize (if bits (rd t (regUp b 1)) 32 32 == 1 then 49152 else 2 ^ 64) = top
  generalize (if bits (rd t (regUp b 1)) 33 33 == 1 then 4 else 8) = size
  split
  · rfl
  · split
    · rfl
    · split
      · rfl
      · split
        · rfl
        · exact fenced_mem fun u => rfl
@[simp] theorem combine_mem (op : StOp) (x : Nat) (ins : List Nat) (s : State) : (combine op x ins s).mem = s.mem := by
  unfold combine
  refine runI_mem fun t => ?_
  dsimp only
  split
  · rfl
  · split
    · rfl
    · rw [effState_done, modStream_mem]
      exact foldl_mem (fun u k => by simp) _ _
@[simp] theorem execSisect_kept (x y : Fin 4) (s : State) : Kept s (execSisect x y s) :=
  kept_next.2 (combine_mem ..)
@[simp] theorem execSunion_kept (x y : Fin 4) (s : State) : Kept s (execSunion x y s) :=
  kept_next.2 (combine_mem ..)
@[simp] theorem execSdiff_kept (x y : Fin 4) (s : State) : Kept s (execSdiff x y s) :=
  kept_next.2 (combine_mem ..)
@[simp] theorem execSmerge_kept (x : Fin 4) (mask : Fin 16) (s : State) : Kept s (execSmerge x mask s) :=
  kept_next.2 (combine_mem ..)

/-! ## Drawing (R235) -/

@[simp] theorem meetFault_mem (s : State) (n k code : Nat) (va : Word) : (effState (meetFault s n k code va)).mem = s.mem := by
  simp [meetFault]
@[simp] theorem execSnext_kept (d : Reg) (x : Fin 4) (s : State) : Kept s (execSnext d x s) := by
  unfold execSnext
  refine kept_next.2 (runI_mem fun t => ?_)
  dsimp only
  (repeat' split) <;> simp
@[simp] theorem drawAll_mem (n : Nat) (a : Option Word) (d : Reg) (fuel : Nat) (s : State) :
    (effState (drawAll n a d fuel s)).mem = s.mem := by
  induction fuel generalizing s with
  | zero => rfl
  | succ fuel ih =>
    unfold drawAll
    dsimp only
    split
    · simp
    · split
      · rfl
      · exact (ih _).trans (by simp [bufWrite])
    · simp
    · rfl
@[simp] theorem execScnt_kept (d : Reg) (x : Fin 4) (s : State) : Kept s (execScnt d x s) := by simp [execScnt]
@[simp] theorem execScntA_kept (d : Reg) (x : Fin 4) (c : Reg) (s : State) : Kept s (execScntA d x c s) := by simp [execScntA]

/-! ## Closing (R236) -/

@[simp] theorem execSclose_kept (d : Reg) (x : Fin 4) (s : State) : Kept s (execSclose d x s) := by
  refine kept_next.2 (runI_mem fun t => ?_)
  dsimp only
  split
  · rfl
  · split
    · simp
    · exact Eq.trans (wr_mem ..) (foldl_mem (fun u k => modStream_mem ..) _ _)

/-! ## The line fill (R88) -/

@[simp] theorem faultLine_mem (s : State) (c line : Nat) (fw : Bool) (tag : Option Nat) (code : Nat) :
    (faultLine s c line fw tag code).mem = s.mem := by
  have h : ∀ (t : State) (n : Nat), (match missesLine t ⟨c, n⟩ line fw tag with
      | some va => endStep ⟨c, n⟩ (trapLater (leaveRings t ⟨c, n⟩) ⟨c, n⟩ code va)
      | none => t).mem = t.mem := fun t n => by split <;> simp
  exact foldl_mem h _ _
@[simp] theorem endFill_mem (s : State) (c line : Nat) (fw : Bool) (tag : Option Nat) : (endFill s c line fw tag).mem = s.mem :=
  rfl
@[simp] theorem fillGo_kept (s : State) (a : TRef) (t : Thread) (va : Word) : Kept s (fillGo s a t va) := by
  unfold fillGo
  dsimp only
  split
  · simp
  · simp
  · split <;> simp
  · split
    · simp
    · split
      · simp
      · split <;> simp
@[simp] theorem execLineFill_kept (s : State) : Kept s (execLineFill s) := by
  unfold execLineFill
  split
  · exact fillGo_kept ..
  · exact kept_next.2 rfl

/-! ## Space G for the units of a cluster -/

@[simp] theorem raiseCMiss_mem (s : State) (cl tag : Nat) (l : Option Nat) (va : Word) (kind : Nat) :
    (raiseCMiss s cl tag l va kind).mem = s.mem := by
  simp [raiseCMiss]
@[simp] theorem noteAway_mem (s : State) (l : Option Nat) (x : RepRes) : (noteAway s l x).mem = s.mem := by
  unfold noteAway
  split <;> simp
@[simp] theorem engHeard_mem (s : State) (cl : Nat) (va : Word) (tag : Nat) : (engHeard s cl va tag).mem = s.mem := rfl
/-- The state in which an access of a unit ends. -/
def engState : EngR → State
  | .got s _ => s
  | .fail s _ _ => s
  | .wait s => s
  | .asked s => s
@[simp] theorem engState_got (s : State) (x : Word) : engState (.got s x) = s := rfl
@[simp] theorem engState_fail (s : State) (c : Nat) (b : Bool) : engState (.fail s c b) = s := rfl
@[simp] theorem engState_wait (s : State) : engState (.wait s) = s := rfl
@[simp] theorem engState_asked (s : State) : engState (.asked s) = s := rfl
@[simp] theorem engRead_mem (s : State) (cl : Nat) (l : Option Nat) (va : Word) (rem : Option (Option RepRes)) (tag : Nat) :
    (engState (engRead s cl l va rem tag)).mem = s.mem := by
  unfold engRead engAnswer
  split
  · split
    · simp
    · simp
    · rfl
    · rfl
    · simp
    · split
      · rfl
      · split
        · simp
        · dsimp only
          split
          · simp
          · split <;> simp
  · rfl
  · rfl
  · simp

/-! ## Pushes (R172 to R176) -/

@[simp] theorem cpPush_mem (s : State) (kind : CpKind) (a : Reg) (desc : List Word) :
    (effState (cpPush s kind a desc)).mem = s.mem := by
  simp [cpPush]
@[simp] theorem cpIssuer_mem {s : State} {k : State → Eff}
    (h : ∀ t, (effState (k t)).mem = t.mem) : (effState (cpIssuer s k)).mem = s.mem := by
  simp [cpIssuer, h]
@[simp] theorem checks_mem {k : State → Eff} (h : ∀ t, (effState (k t)).mem = t.mem) (s : State) (l : List (Bool × Nat × Word)) :
    (effState (checks s l k)).mem = s.mem := by
  induction l with
  | nil => exact h s
  | cons e l ih =>
    unfold checks
    split
    · rfl
    · exact ih
@[simp] theorem execCpy_kept (a b : Reg) (s : State) : Kept s (execCpy a b s) :=
  kept_next.2 (runI_mem fun _ => cpIssuer_mem fun _ => checks_mem (fun _ => cpPush_mem ..) _ _)
@[simp] theorem execCpyo_kept (a b : Reg) (s : State) : Kept s (execCpyo a b s) :=
  kept_next.2 (runI_mem fun _ => cpIssuer_mem fun _ => checks_mem (fun _ => cpPush_mem ..) _ _)
@[simp] theorem execMint_kept (a b : Reg) (s : State) : Kept s (execMint a b s) :=
  kept_next.2 (runI_mem fun _ => cpIssuer_mem fun _ => checks_mem (fun _ => cpPush_mem ..) _ _)
@[simp] theorem execMintT_kept (a b : Reg) (s : State) : Kept s (execMintT a b s) := by simp [execMintT]

/-! ## The jobs -/

@[simp] theorem cpUnwait_mem (s : State) (cl : Nat) (j : CpJob) : (cpUnwait s cl j).mem = s.mem := by
  unfold cpUnwait
  split <;> simp
@[simp] theorem cpEnd_mem (s : State) (cl : Nat) (j : CpJob) (code : Nat) (fval : Word) :
    (cpEnd s cl j code fval).mem = s.mem := by
  simp [cpEnd]
@[simp] theorem cpPut_mem (s : State) (cl : Nat) (j : CpJob) : (cpPut s cl j).mem = s.mem := rfl
@[simp] theorem cpDone_mem (s : State) (cl : Nat) (j : CpJob) : (cpDone s cl j).mem = s.mem := by
  unfold cpDone
  split <;> simp
/-- A word that a job reads leaves memory as what follows does. -/
theorem cpRead_kept {s : State} {cl : Nat} {j : CpJob} {va : Word} {k : State → CpJob → Word → State}
    (h : ∀ t i x, (k t i x).mem = t.mem) : Kept s (cpRead s cl j va k) := by
  have hr := engRead_mem s cl j.launch va j.rem (copyTag cl)
  unfold cpRead
  split <;> rename_i he <;> rw [he] at hr <;> simpa [h] using hr
@[simp] theorem cpStart_mem (s : State) (cl : Nat) (j : CpJob) : (cpStart s cl j).mem = s.mem := by
  unfold cpStart
  dsimp only
  (repeat' split) <;> simp
theorem cpStep_kept {s : State} {cl : Nat} {kind : CpKind} {k : State → CpJob → Out} (h : ∀ t j, Kept t (k t j)) :
    Kept s (cpStep s cl kind k) := by
  unfold cpStep
  split
  · split
    · simp
    · split
      · simp
      · split
        · simp
        · exact h ..
  · simp
@[simp] theorem copyWord_kept (cl : Nat) (s : State) (j : CpJob) : Kept s (copyWord cl s j) := by
  unfold copyWord
  refine cpRead_kept fun t i x => ?_
  dsimp only
  split <;> simp [bufWrite]
@[simp] theorem execCopyJob_kept (s : State) : Kept s (execCopyJob s) := by
  unfold execCopyJob
  split
  · exact cpStep_kept (copyWord_kept _)
  · exact kept_next.2 rfl
@[simp] theorem mintTWord_kept (cl : Nat) (s : State) (j : CpJob) : Kept s (mintTWord cl s j) := by
  unfold mintTWord
  refine cpRead_kept fun t i x => ?_
  dsimp only
  split <;> simp
@[simp] theorem execMintTableJob_kept (s : State) : Kept s (execMintTableJob s) := by
  unfold execMintTableJob
  split
  · exact cpStep_kept (mintTWord_kept _)
  · exact kept_next.2 rfl
@[simp] theorem mintCode_mem (cl : Nat) (s : State) (j : CpJob) : (mintCode cl s j).mem = s.mem := by simp [mintCode]
@[simp] theorem mintWord_kept (cl : Nat) (s : State) (j : CpJob) : Kept s (mintWord cl s j) := by
  unfold mintWord
  split
  · exact cpRead_kept fun t i x => rfl
  · simp
@[simp] theorem execMintJob_kept (s : State) : Kept s (execMintJob s) := by
  unfold execMintJob
  split
  · exact cpStep_kept (mintWord_kept _)
  · exact kept_next.2 rfl

/-! ## ECDSA on P-256 -/

@[simp] theorem execFence_kept (xs : Option Scope) (s : State) : Kept s (execFence xs s) := by simp [execFence]

/-! ## Barriers -/

@[simp] theorem barSend_mem (s : State) (u : BarAt) (d : Reg) (long : Bool) (ev : Nat → ReplyTo → Ev) (pkt : Nat → ReplyTo → PktBody) :
    (effState (barSend s u d long ev pkt)).mem = s.mem := by
  unfold barSend
  split <;> simp
@[simp] theorem modBar_mem (s : State) (cl n : Nat) (f : Barrier → Barrier) : (modBar s cl n f).mem = s.mem := rfl
@[simp] theorem barI_mem {len : Nat} {srcs : List Reg} {d b : Reg} {x y : Bool} {s : State} {k : State → BarAt → Word → Eff}
    (h : ∀ t u w, (effState (k t u w)).mem = t.mem) : (barI len srcs d b x y s k).mem = s.mem := by
  unfold barI
  refine runI_mem fun t => ?_
  dsimp only
  split
  · rfl
  · split
    · rfl
    · exact h ..
@[simp] theorem execBarv_kept (d b : Reg) (s : State) : Kept s (execBarv d b s) := by simp [execBarv]
@[simp] theorem barwI_mem (len : Nat) (test : Bool) (d b : Reg) (s : State) : (barwI len test d b s).mem = s.mem := by
  simp [barwI]
@[simp] theorem execBarw_kept (d b : Reg) (s : State) : Kept s (execBarw d b s) := by simp [execBarw]
@[simp] theorem execBarwT_kept (d b : Reg) (s : State) : Kept s (execBarwT d b s) := by simp [execBarwT]
@[simp] theorem setTarget_mem (s : State) (cl : Nat) (w x : Word) : (setTarget s cl w x).1.mem = s.mem := by
  unfold setTarget
  dsimp only
  split <;> simp
@[simp] theorem execBart_kept (d b c : Reg) (s : State) : Kept s (execBart d b c s) := by
  unfold execBart
  refine kept_next.2 (runI_mem fun t => ?_)
  dsimp only
  (repeat' split) <;> simp
@[simp] theorem wakeBarw_mem (s : State) (cl n : Nat) : (wakeBarw s cl n).mem = s.mem := by
  unfold wakeBarw
  exact foldl_mem (fun _ _ => by simp) _ _
@[simp] theorem completePhases_mem (cl n fuel : Nat) (s : State) : (completePhases cl n fuel s).mem = s.mem := by
  induction fuel generalizing s with
  | zero => rfl
  | succ fuel ih =>
    unfold completePhases
    split
    · exact (ih _).trans (by simp)
    · rfl
@[simp] theorem arrAnswer_mem (s : State) (rto : Option (ReplyTo × Reg)) (res : Option Nat) (w : Word) :
    (arrAnswer s rto res w).mem = s.mem := by
  unfold arrAnswer
  split <;> simp
@[simp] theorem arriveOne_mem (s : State) (cl n : Nat) (h : HeldArr) : (arriveOne s cl n h).mem = s.mem := by
  unfold arriveOne
  split <;> simp
@[simp] theorem serveHeld_mem (cl n fuel done : Nat) (s : State) : (serveHeld cl n fuel done s).mem = s.mem := by
  induction fuel generalizing done s with
  | zero => rfl
  | succ fuel ih =>
    unfold serveHeld
    split
    · rfl
    · exact (ih _ _).trans (foldl_mem (fun t h => arriveOne_mem ..) _ _)
@[simp] theorem arriveGo_mem (s : State) (m : ArriveMsg) : (arriveGo s m).mem = s.mem := by simp [arriveGo]
@[simp] theorem execArrive_kept (s : State) : Kept s (execArrive s) := by
  unfold execArrive
  split <;> simp
@[simp] theorem barwGo_mem (s : State) (m : BarwMsg) : (barwGo s m).mem = s.mem := by simp [barwGo]
@[simp] theorem execBarwRequest_kept (s : State) : Kept s (execBarwRequest s) := by
  unfold execBarwRequest
  split <;> simp

/-! ## Roles as destinations -/

theorem toRole_mem {s : State} {code : Nat} {a : Reg} {k : State → Nat → Option Nat → Nat → State}
    (h : ∀ t c m g, (k t c m g).mem = t.mem) : (effState (toRole s code a k)).mem = s.mem := by
  unfold toRole
  refine withRole_mem fun t r => ?_
  split
  · simp
  · simp
  · split
    · dsimp only
      generalize (if decide (code / 2 ^ 14 = 3) && entMod _ != _ then some (entMod _) else none : Option Nat) = m
      split
      · rfl
      · exact fenced_mem fun u => h ..
    · simp
@[simp] theorem sendPlace_mem (s : State) (a b : Reg) (target : Word) (guest : Bool) (role gen c : Nat) (m : Option Nat) :
    (sendPlace s a b target guest role gen c m).mem = s.mem := by
  unfold sendPlace
  split <;> simp
@[simp] theorem execStart_kept (a b : Reg) (i : Imm) (s : State) : Kept s (execStart a b i s) := by simp [execStart]
@[simp] theorem execSpawn_kept (a b : Reg) (i : Imm) (s : State) : Kept s (execSpawn a b i s) :=
  kept_next.2 (runI_mem fun _ => toRole_mem fun _ _ _ _ => sendPlace_mem ..)
@[simp] theorem execSpawnReg_kept (a b c : Reg) (i : Imm) (s : State) : Kept s (execSpawnReg a b c i s) :=
  kept_next.2 (runI_mem fun _ => toRole_mem fun _ _ _ _ => sendPlace_mem ..)
@[simp] theorem placeGo_mem (s : State) (m : PlaceMsg) : (placeGo s m).mem = s.mem := by
  unfold placeGo
  dsimp only
  (repeat' split) <;> simp
@[simp] theorem execPlace_kept (s : State) : Kept s (execPlace s) := by
  unfold execPlace
  split <;> simp

/-! ## `quit` (R80) -/

@[simp] theorem sendAck_mem (s : State) (x : Option AckTo) : (sendAck s x).mem = s.mem := by
  unfold sendAck
  split <;> simp
@[simp] theorem sendFree_mem (s : State) (home : TRef) : (sendFree s home).mem = s.mem := by simp [sendFree]
@[simp] theorem quitGo_mem (s : State) : (quitGo s).mem = s.mem := by
  unfold quitGo
  dsimp only
  split <;> simp
@[simp] theorem execQuit_kept (s : State) : Kept s (execQuit s) := by
  refine kept_next.2 (runI_mem fun t => ?_)
  split <;> simp
@[simp] theorem execFreeMessage_kept (s : State) : Kept s (execFreeMessage s) := by
  unfold execFreeMessage
  split <;> simp

/-! ## Waiting, yielding and messages (R81, R82) -/

@[simp] theorem unpark_mem (s : State) (r : TRef) : (unpark s r).mem = s.mem := by
  unfold unpark
  split <;> simp
@[simp] theorem execPark_kept (a b : Reg) (s : State) : Kept s (execPark a b s) := by simp [execPark]
@[simp] theorem execParkTimeout_kept (s : State) : Kept s (execParkTimeout s) := by
  unfold execParkTimeout
  split <;> simp
@[simp] theorem execYield_kept (s : State) : Kept s (execYield s) :=
  kept_next.2 (runI_mem fun t => by simp)
@[simp] theorem execSendm_kept (a b c : Reg) (s : State) : Kept s (execSendm a b c s) := by
  refine kept_next.2 (runI_mem fun t => toRole_mem fun u d m g => ?_)
  cases m <;> rfl
@[simp] theorem mailGo_mem (s : State) (m : MailMsg) : (mailGo s m).mem = s.mem := by
  unfold mailGo
  split <;> simp
@[simp] theorem execMailboxMessage_kept (s : State) : Kept s (execMailboxMessage s) := by
  unfold execMailboxMessage
  split <;> simp
@[simp] theorem execWfm_kept (a : Reg) (s : State) : Kept s (execWfm a s) :=
  kept_next.2 (runI_mem fun t => by dsimp only; split <;> simp)

/-! ## Class messages (R72) -/

@[simp] theorem execWakeMessage_kept (s : State) : Kept s (execWakeMessage s) := by
  unfold execWakeMessage
  split <;> simp
@[simp] theorem execXlatMessage_kept (s : State) : Kept s (execXlatMessage s) := by
  unfold execXlatMessage
  split <;> simp
@[simp] theorem execRecallMessage_kept (s : State) : Kept s (execRecallMessage s) := by
  unfold execRecallMessage
  split <;> simp

/-! ## Migration and shipment (R83, R180) -/

@[simp] theorem moveCtx_mem (s : State) (dest : TRef) (a : Reg) (pops : Bool) : (moveCtx s dest a pops).mem = s.mem := by
  simp [moveCtx]
@[simp] theorem execMigr_kept (a b : Reg) (s : State) : Kept s (execMigr a b s) :=
  kept_next.2 (runI_mem fun t => by dsimp only; (repeat' split) <;> simp)
@[simp] theorem seatShip_mem (s : State) (m : ShipMsg) (r : TRef) : (seatShip s m r).mem = s.mem := by
  unfold seatShip
  split <;> simp
@[simp] theorem shipGo_mem (s : State) (m : ShipMsg) : (shipGo s m).mem = s.mem := by
  unfold shipGo
  (repeat' split) <;> simp
@[simp] theorem execContextShipment_kept (s : State) : Kept s (execContextShipment s) := by
  unfold execContextShipment
  split <;> simp

/-! ## Signals and roles (R84, R85) -/

@[simp] theorem execGsig_kept (a b : Reg) (s : State) : Kept s (execGsig a b s) :=
  kept_next.2 (runI_mem fun t => fenced_mem fun u => by simp)
@[simp] theorem execGsigRun_kept (a : Reg) (s : State) : Kept s (execGsigRun a s) :=
  kept_next.2 (runI_mem fun t => fenced_mem fun u => by simp)
@[simp] theorem rolqEff_mem (s : State) (code : Nat) (a : Reg) : (effState (rolqEff s code a)).mem = s.mem := by
  refine withRole_mem fun t r => ?_
  split <;> simp
@[simp] theorem execRolq_kept (a b : Reg) (s : State) : Kept s (execRolq a b s) := by simp [execRolq]
@[simp] theorem execRolqImm_kept (a : Reg) (i : Imm) (s : State) : Kept s (execRolqImm a i s) := by simp [execRolqImm]

/-! ## Remote updates (R150) -/

@[simp] theorem updateGo_mem (s : State) (m : UpdateMsg) : (updateGo s m).mem = s.mem := by
  unfold updateGo
  split <;> simp
@[simp] theorem execUpdate_kept (s : State) : Kept s (execUpdate s) := by
  unfold execUpdate
  split <;> simp
@[simp] theorem execUpdateAck_kept (s : State) : Kept s (execUpdateAck s) := by
  unfold execUpdateAck
  split <;> simp

/-! ## Targets (R183) -/

@[simp] theorem fwI_mem {len : Nat} {srcs dsts : List Reg} {s : State} {k : State → Eff}
    (h : ∀ t, (effState (k t)).mem = t.mem) : (fwI len srcs dsts s k).mem = s.mem := by
  simp [fwI, h]
@[simp] theorem execTlbw_kept (a b c : Reg) (s : State) : Kept s (execTlbw a b c s) :=
  kept_next.2 (fwI_mem fun t => by dsimp only; (repeat' split) <;> simp)
@[simp] theorem tlbiEff_mem (s : State) (a c : Reg) (va : Option Word) : (effState (tlbiEff s a c va)).mem = s.mem := by
  unfold tlbiEff
  split <;> simp
@[simp] theorem execTlbi_kept (a b c : Reg) (s : State) : Kept s (execTlbi a b c s) := by simp [execTlbi]
@[simp] theorem execTlbiAll_kept (a c : Reg) (s : State) : Kept s (execTlbiAll a c s) := by simp [execTlbiAll]
@[simp] theorem execTlbp_kept (d b : Reg) (s : State) : Kept s (execTlbp d b s) := by
  refine kept_next.2 (runI_mem fun t => ?_)
  split <;> simp

/-! ## At the TLB -/

@[simp] theorem denyThread_mem (s : State) (a : TRef) (page : Nat) (teller : Bool) (l : Option Nat) :
    (denyThread s a page teller l).mem = s.mem := by
  unfold denyThread
  dsimp only
  split
  · split <;> simp
  · rfl
@[simp] theorem denyEv_mem (s : State) (x : Ev) : (denyEv s x).mem = s.mem := by
  unfold denyEv
  split <;> simp
@[simp] theorem denyStream_mem (s : State) (c n page : Nat) (teller : Bool) (l : Option Nat) :
    (denyStream s c n page teller l).mem = s.mem := by
  unfold denyStream
  dsimp only
  split <;> simp
@[simp] theorem denyCore_mem (s : State) (c page : Nat) (teller : Bool) (l : Option Nat) :
    (denyCore s c page teller l).mem = s.mem :=
  (foldl_mem (fun _ _ => denyStream_mem ..) _ _).trans
    ((foldl_mem (fun _ _ => denyThread_mem ..) _ _).trans (foldl_mem (fun _ _ => denyEv_mem ..) _ _))
@[simp] theorem tlbwGo_mem (s : State) (m : TlbwMsg) : (tlbwGo s m).mem = s.mem := by
  unfold tlbwGo
  dsimp only
  rw [answer_mem]
  split
  · refine (foldl_mem (fun t n => nextMiss_mem ..) _ _).trans ?_
    split <;> simp
  · rfl
@[simp] theorem execTlbwInstall_kept (s : State) : Kept s (execTlbwInstall s) := by
  unfold execTlbwInstall
  split <;> simp

/-! ## SHOOT (R183, R314) -/

@[simp] theorem setTlb_mem (s : State) (t : TlbAt) (m : FMap TlbEnt) : (setTlb s t m).mem = s.mem := by
  unfold setTlb
  split <;> simp
@[simp] theorem shootGo_mem (s : State) (m : ShootMsg) : (shootGo s m).mem = s.mem := by
  unfold shootGo
  split <;> simp
@[simp] theorem shootClass_mem (s : State) (m : ShootMsg) : (shootClass s m).mem = s.mem := by
  unfold shootClass
  split <;> simp
@[simp] theorem execShootMessage_kept (s : State) : Kept s (execShootMessage s) := by
  unfold execShootMessage
  split <;> simp
@[simp] theorem asSlot_mem (s : State) (n : Nat) : (asSlot s n).mem = s.mem := rfl
@[simp] theorem putPc_mem (s : State) (a : TRef) (x : Word) : (putPc s a x).mem = s.mem := by simp [putPc]
@[simp] theorem dbSlotOp_mem (s : State) (w x : Word) : (dbSlotOp s w x).1.mem = s.mem := by
  unfold dbSlotOp
  dsimp only
  (repeat' split) <;> simp
@[simp] theorem execDbgi_kept (a b c : Reg) (s : State) : Kept s (execDbgi a b c s) := by simp [execDbgi]

/-! ## Approximations (R202) -/

@[simp] theorem cpReads_mem (s : State) (a n : Nat) : (cpReads s a n).mem = s.mem :=
  foldl_mem (fun t k => by rw [touch_mem, eccRead_mem]) _ _
theorem cpLook_mem {s : State} {a n : Nat} {k : State → State} (h : ∀ t, (k t).mem = t.mem) : (cpLook s a n k).mem = s.mem := by
  unfold cpLook
  split
  · simp
  · split
    · simp
    · exact (h _).trans (cpReads_mem ..)

/-! ## Lanes -/

@[simp] theorem vform_mem (len : Nat) (srcs : List Reg) (p : PReg) (d : VReg) (s : State) (f : State → Nat → Lane × Events) :
    (vform len srcs p d s f).mem = s.mem := by
  refine runI_mem fun t => ?_
  simp

/-! ## Arithmetic (R193) -/

@[simp] theorem vbin_mem (q : VArith) (fi : Int → Int → Int) (ff : Val → Val → Val) (p : PReg) (d b : VReg) (x : VSrc) (s : State) :
    (vbin q fi ff p d b x s).mem = s.mem := by
  simp [vbin]
@[simp] theorem execVadd_kept (q : VArith) (p : PReg) (d b : VReg) (x : VSrc) (s : State) : Kept s (execVadd q p d b x s) := by
  simp [execVadd]
@[simp] theorem execVsub_kept (q : VArith) (p : PReg) (d b : VReg) (x : VSrc) (s : State) : Kept s (execVsub q p d b x s) := by
  simp [execVsub]
@[simp] theorem execVmul_kept (q : VArith) (p : PReg) (d b : VReg) (x : VSrc) (s : State) : Kept s (execVmul q p d b x s) := by
  simp [execVmul]
@[simp] theorem execVmin_kept (q : VArith) (p : PReg) (d b : VReg) (x : VSrc) (s : State) : Kept s (execVmin q p d b x s) := by
  simp [execVmin]
@[simp] theorem execVmax_kept (q : VArith) (p : PReg) (d b : VReg) (x : VSrc) (s : State) : Kept s (execVmax q p d b x s) := by
  simp [execVmax]
@[simp] theorem execVfma_kept (q : VArith) (p : PReg) (d b : VReg) (x : VSrc) (e : VReg) (s : State) :
    Kept s (execVfma q p d b x e s) := by
  simp [execVfma]
@[simp] theorem vun_mem (q : VArith) (fi : Int → Int) (ff : Val → Val) (p : PReg) (d b : VReg) (s : State) :
    (vun q fi ff p d b s).mem = s.mem :=
  rfl
@[simp] theorem execVabs_kept (q : VArith) (p : PReg) (d b : VReg) (s : State) : Kept s (execVabs q p d b s) := by simp [execVabs]
@[simp] theorem execVneg_kept (q : VArith) (p : PReg) (d b : VReg) (s : State) : Kept s (execVneg q p d b s) := by simp [execVneg]

/-! ## Logic and shifts (R194) -/

@[simp] theorem vlog2s_mem (f : Lane → Lane → Lane) (p : PReg) (d b : VReg) (x : VSrc) (s : State) :
    (vlog2s f p d b x s).mem = s.mem := by
  simp [vlog2s]
@[simp] theorem execVand_kept (p : PReg) (d b : VReg) (x : VSrc) (s : State) : Kept s (execVand p d b x s) := by simp [execVand]
@[simp] theorem execVor_kept (p : PReg) (d b : VReg) (x : VSrc) (s : State) : Kept s (execVor p d b x s) := by simp [execVor]
@[simp] theorem execVxor_kept (p : PReg) (d b : VReg) (x : VSrc) (s : State) : Kept s (execVxor p d b x s) := by simp [execVxor]
@[simp] theorem execVshl_kept (p : PReg) (d b : VReg) (x : VSrc) (s : State) : Kept s (execVshl p d b x s) := by simp [execVshl]
@[simp] theorem execVshr_kept (p : PReg) (d b : VReg) (x : VSrc) (s : State) : Kept s (execVshr p d b x s) := by simp [execVshr]
@[simp] theorem execVsra_kept (p : PReg) (d b : VReg) (x : VSrc) (s : State) : Kept s (execVsra p d b x s) := by simp [execVsra]
@[simp] theorem vlog1_mem (f : Lane → Lane) (p : PReg) (d b : VReg) (s : State) : (vlog1 f p d b s).mem = s.mem := rfl
@[simp] theorem execVnot_kept (p : PReg) (d b : VReg) (s : State) : Kept s (execVnot p d b s) := by simp [execVnot]
@[simp] theorem execVmov_kept (p : PReg) (d b : VReg) (s : State) : Kept s (execVmov p d b s) := by simp [execVmov]

/-! ## Compare, select, move lanes (R195, R196) -/

@[simp] theorem execVcmp_kept (cc : VCond) (t : VType) (u : Bool) (p d : PReg) (b : VReg) (x : VSrc) (s : State) :
    Kept s (execVcmp cc t u p d b x s) := by
  simp [execVcmp]
@[simp] theorem execVsel_kept (p : PReg) (d b : VReg) (x : VSrc) (s : State) : Kept s (execVsel p d b x s) :=
  kept_next.2 (runI_mem fun t => by simp)
@[simp] theorem execVperm_kept (p : PReg) (d b c : VReg) (s : State) : Kept s (execVperm p d b c s) := by simp [execVperm]
@[simp] theorem execVbcst_kept (p : PReg) (d : VReg) (b : Reg) (s : State) : Kept s (execVbcst p d b s) := by simp [execVbcst]
@[simp] theorem execVext_kept (d : Reg) (b : VReg) (n : Fin 32) (s : State) : Kept s (execVext d b n s) := by simp [execVext]
@[simp] theorem execVins_kept (d : VReg) (b : Reg) (n : Fin 32) (s : State) : Kept s (execVins d b n s) :=
  kept_next.2 (runI_mem fun t => by simp)

/-! ## Reductions (R197) -/

@[simp] theorem reduceBest_mem (big : Bool) (q : VArith) (d : Reg) (p : PReg) (b : VReg) (s : State) :
    (reduceBest big q d p b s).mem = s.mem := by
  simp [reduceBest]
@[simp] theorem execVrsum_kept (q : VArith) (d : Reg) (p : PReg) (b : VReg) (s : State) : Kept s (execVrsum q d p b s) := by
  simp [execVrsum]
@[simp] theorem execVrmax_kept (q : VArith) (d : Reg) (p : PReg) (b : VReg) (s : State) : Kept s (execVrmax q d p b s) := by
  simp [execVrmax]
@[simp] theorem execVrmin_kept (q : VArith) (d : Reg) (p : PReg) (b : VReg) (s : State) : Kept s (execVrmin q d p b s) := by
  simp [execVrmin]

/-! ## Conversions (R198, R124) -/

@[simp] theorem execVcvt_kept (rm : Rnd) (sat : Bool) (p : PReg) (d b : VReg) (df : VFmt) (du : Bool) (sf : VFmt) (su : Bool) (s : State) :
    Kept s (execVcvt rm sat p d b df du sf su s) := by
  simp [execVcvt]

/-! ## Block quantisation (R199) -/

@[simp] theorem execVscale_kept (t : VType) (m : Nat) (d : Reg) (b : VReg) (s : State) : Kept s (execVscale t m d b s) := by
  simp [execVscale]
@[simp] theorem execVquant_kept (t : VType) (m : Nat) (d b : VReg) (c : Reg) (s : State) : Kept s (execVquant t m d b c s) :=
  kept_next.2 (runI_mem fun t => by dsimp only; split <;> simp)
@[simp] theorem execVdeq_kept (t : VType) (m : Nat) (d b : VReg) (c : Reg) (s : State) : Kept s (execVdeq t m d b c s) :=
  kept_next.2 (runI_mem fun t => by simp)

/-! ## Structured sparsity (R200, R201) -/

@[simp] theorem execVcmpr_kept (d b : VReg) (c : Reg) (s : State) : Kept s (execVcmpr d b c s) := by simp [execVcmpr]
@[simp] theorem execVexpd_kept (d b : VReg) (c : Reg) (s : State) : Kept s (execVexpd d b c s) := by simp [execVexpd]

/-! ## Approximations (R202) -/

@[simp] theorem vapx_mem (f : Approx) (t : VType) (sat : Bool) (p : PReg) (d b : VReg) (s : State) :
    (vapx f t sat p d b s).mem = s.mem :=
  rfl
@[simp] theorem execVexp2_kept (t : VType) (sat : Bool) (p : PReg) (d b : VReg) (s : State) :
    Kept s (execVexp2 t sat p d b s) := by
  simp [execVexp2]
@[simp] theorem execVlog2_kept (t : VType) (sat : Bool) (p : PReg) (d b : VReg) (s : State) :
    Kept s (execVlog2 t sat p d b s) := by
  simp [execVlog2]
@[simp] theorem execVrcp_kept (t : VType) (sat : Bool) (p : PReg) (d b : VReg) (s : State) : Kept s (execVrcp t sat p d b s) := by
  simp [execVrcp]
@[simp] theorem execVrsqrt_kept (t : VType) (sat : Bool) (p : PReg) (d b : VReg) (s : State) :
    Kept s (execVrsqrt t sat p d b s) := by
  simp [execVrsqrt]
@[simp] theorem execVtanh_kept (t : VType) (sat : Bool) (p : PReg) (d b : VReg) (s : State) :
    Kept s (execVtanh t sat p d b s) := by
  simp [execVtanh]

/-! ## Loads, stores, predicates (R203, R204) -/

@[simp] theorem vlocal_mem {s : State} {sp : Space} {off : Word} {w : Nat} {k : State → Eff}
    (h : ∀ t, (effState (k t)).mem = t.mem) : (effState (vlocal s sp off w k)).mem = s.mem := by
  simp [vlocal, h]
@[simp] theorem execVld_kept (sp : Space) (w : Width) (u : Bool) (p : PReg) (d : VReg) (b : Reg) (i : Imm) (s : State) :
    Kept s (execVld sp w u p d b i s) :=
  kept_next.2 (runI_mem fun _ => vlocal_mem fun _ => vwr_mem ..)
@[simp] theorem execVst_kept (sp : Space) (w : Width) (p : PReg) (d : VReg) (b : Reg) (i : Imm) (s : State) :
    Kept s (execVst sp w p d b i s) := by
  refine kept_next.2 (runI_mem fun t => vlocal_mem fun u => ?_)
  have h : ∀ (x : State) (n : Nat), (if plane (prd x p) n
      then bufWrite x x.cur.core sp ((ea t b i).toNat + n * wbytes w) (leBytes (wbytes w) (laneN (vrd x d) n).toNat)
      else x).mem = x.mem := fun x n => by split <;> rfl
  exact foldl_mem h _ _
@[simp] theorem execPset_kept (d : PReg) (b : Reg) (s : State) : Kept s (execPset d b s) := by simp [execPset]
@[simp] theorem execPget_kept (d : Reg) (b : PReg) (s : State) : Kept s (execPget d b s) := by simp [execPget]

/-! ## Entries and distances (R244, R247) -/

@[simp] theorem modIndex_mem (s : State) (n : Nat) (f : GIndex → GIndex) : (modIndex s n f).mem = s.mem := by
  unfold modIndex
  split <;> simp

/-! ## The granules of an index (R242, R257, R283, R287, R329) -/

@[simp] theorem logGranules_mem (s : State) (l : List Nat) : (logGranules s l).mem = s.mem :=
  foldl_mem (fun t g => by rw [logGranule_mem, touch_mem]) _ _
@[simp] theorem granulesRead_mem {s : State} {launch : Nat} {l : List Nat} {wait : State → State} {bad : State → Nat → Refuse → State}
    {k : State → State} (hw : ∀ t, (wait t).mem = t.mem) (hb : ∀ t a r, (bad t a r).mem = t.mem) (hk : ∀ t, (k t).mem = t.mem) :
    (granulesRead s launch l wait bad k).mem = s.mem := by
  have hf : ∀ (l : List Nat) (t : State), (l.foldl (fun s g => touch (eccRead s (256 * g) 256) (256 * g)) t).mem = t.mem :=
    foldl_mem fun t g => by simp
  unfold granulesRead
  dsimp only
  split
  · exact hw s
  · split
    · simp
    · split
      · simp
      · split <;> simp [hb, hk, hf]
@[simp] theorem refuseTrap_mem (rto : TRef) (launch : Nat) (s : State) (a : Nat) (r : Refuse) :
    (refuseTrap rto launch s a r).mem = s.mem := by
  simp [refuseTrap]
@[simp] theorem again_mem (s : State) : (again s).mem = s.mem := rfl

/-! ## Searches (R248, R257) -/

@[simp] theorem newSearch_mem (s : State) (n : Nat) (x : GIndex) (snap k width : Nat) (exact : Bool) (q : List Lane) (ep : Nat) (f : GFor) :
    (newSearch s n x snap k width exact q ep f).mem = s.mem :=
  rfl
@[simp] theorem dropSearch_mem (s : State) (id : Nat) : (dropSearch s id).mem = s.mem := rfl
@[simp] theorem endSearch_mem (s : State) (x : GIndex) (g : GSearch) : (endSearch s x g).mem = s.mem := by
  unfold endSearch
  split <;> simp
@[simp] theorem expandGo_mem (s : State) (id : Nat) : (expandGo s id).mem = s.mem := by
  unfold expandGo
  dsimp only
  (repeat' split) <;> simp
@[simp] theorem execCandidateExpansion_kept (s : State) : Kept s (execCandidateExpansion s) := by
  unfold execCandidateExpansion
  split <;> simp
@[simp] theorem execGroveReply_kept (s : State) : Kept s (execGroveReply s) := by
  unfold execGroveReply
  split
  next m _ =>
    dsimp only
    rw [kept_next, replyAt_mem]
    exact foldl_mem (fun t e => by simp [bufWrite]) _ _
  · exact kept_next.2 rfl

/-! ## Publication (R245, R249) -/

@[simp] theorem publishGo_mem (s : State) (n : Nat) : (publishGo s n).mem = s.mem := by
  unfold publishGo
  split
  · rfl
  · split
    · rfl
    · exact granulesRead_mem (fun t => rfl) (fun t a r => by dsimp only; split <;> simp) fun t => by dsimp only; split <;> simp
@[simp] theorem execPublish_kept (s : State) : Kept s (execPublish s) := by
  unfold execPublish
  split <;> simp

/-! ## Acceptance (R245, R251 to R255) -/

@[simp] theorem refuseElem_mem (s : State) (rto : TRef) (i : Nat) : (refuseElem s rto i).mem = s.mem := rfl
theorem withHeader_mem {s : State} {rto : TRef} {i : Nat} {k : State → GIndex → State}
    (h : ∀ t x, (k t x).mem = t.mem) : (withHeader s rto i k).mem = s.mem := by
  unfold withHeader
  split
  · simp
  · exact granulesRead_mem (fun t => again_mem ..) (fun t a r => refuseTrap_mem ..) fun t => h ..
@[simp] theorem ldnnGo_mem (s : State) (m : LdnnMsg) : (ldnnGo s m).mem = s.mem := by
  refine withHeader_mem fun t x => ?_
  dsimp only
  split
  · simp
  · split
    · simp
    · exact granulesRead_mem (fun u => again_mem ..) (fun u a r => refuseTrap_mem ..) fun u => newSearch_mem ..
@[simp] theorem execLdnnAccept_kept (s : State) : Kept s (execLdnnAccept s) := by
  unfold execLdnnAccept
  split <;> simp
@[simp] theorem stvFill_mem (s : State) (m : GroveMsg) (x : GIndex) (l : List Byte) : (stvFill s m x l).mem = s.mem := by
  simp [stvFill]
@[simp] theorem stvGo_mem (s : State) (m : GroveMsg) : (stvGo s m).mem = s.mem := by
  refine withHeader_mem fun t x => ?_
  dsimp only
  split
  · simp
  · split
    · simp
    · split
      · simp
      · exact granulesRead_mem (fun u => again_mem ..) (fun u a r => stvFill_mem ..) fun u => stvFill_mem ..
@[simp] theorem execStvAccept_kept (s : State) : Kept s (execStvAccept s) := by
  unfold execStvAccept
  split <;> simp
@[simp] theorem dlvGo_mem (s : State) (m : GroveMsg) : (dlvGo s m).mem = s.mem := by
  refine withHeader_mem fun t x => ?_
  split
  · simp
  · refine granulesRead_mem (fun u => again_mem ..) (fun u a r => refuseTrap_mem ..) fun u => ?_
    split
    · simp
    · exact logGranules_mem ..
@[simp] theorem execDlvAccept_kept (s : State) : Kept s (execDlvAccept s) := by
  unfold execDlvAccept
  split <;> simp
@[simp] theorem readHeader_mem (s : State) (m : GroveMsg) (f : GIndex → Word × Word) : (readHeader s m f).mem = s.mem :=
  withHeader_mem fun _ _ => answer_mem ..
@[simp] theorem execIxverAccept_kept (s : State) : Kept s (execIxverAccept s) := by
  unfold execIxverAccept
  split <;> simp
@[simp] theorem execIxsnapAccept_kept (s : State) : Kept s (execIxsnapAccept s) := by
  unfold execIxsnapAccept
  split <;> simp

/-! ## The instructions (R250 to R255) -/

@[simp] theorem withIndex_mem {s : State} {n : Nat} {k : Nat → GIndex → Eff}
    (h : ∀ i x, (effState (k i x)).mem = s.mem) : (effState (withIndex s n k)).mem = s.mem := by
  unfold withIndex
  split
  · rfl
  · exact h ..
@[simp] theorem execLdnn_kept (d b : Reg) (s : State) : Kept s (execLdnn d b s) := by simp [execLdnn]
@[simp] theorem execStv_kept (d b c : Reg) (s : State) : Kept s (execStv d b c s) := by simp [execStv]
@[simp] theorem indexI_mem (s : State) (w : Word) (pushes : Bool) (msg : Nat → Ev) : (effState (indexI s w pushes msg)).mem = s.mem := by
  unfold indexI
  split
  · rfl
  · exact withIndex_mem fun i x => rfl
@[simp] theorem execDlv_kept (d b c : Reg) (s : State) : Kept s (execDlv d b c s) := by simp [execDlv]
@[simp] theorem execIxver_kept (d b : Reg) (s : State) : Kept s (execIxver d b s) := by simp [execIxver]
@[simp] theorem execIxsnap_kept (d b : Reg) (s : State) : Kept s (execIxsnap d b s) := by simp [execIxsnap]

/-! ## Format contexts (R207, R208) -/

@[simp] theorem mxIssuer_mem {s : State} {k : State → Eff}
    (h : ∀ t, (effState (k t)).mem = t.mem) : (effState (mxIssuer s k)).mem = s.mem := by
  simp [mxIssuer, h]
@[simp] theorem execMxfmt_kept (d b : Reg) (s : State) : Kept s (execMxfmt d b s) := by simp [execMxfmt]
@[simp] theorem execMxthr_kept (d b : Reg) (s : State) : Kept s (execMxthr d b s) := by simp [execMxthr]

/-! ## Pushes (R210) -/

@[simp] theorem mxPush_mem (s : State) (kind : MxKind) (a : Reg) (desc : List Word) (parts bars : List Nat) (gang : Bool) (mask : List Lane) :
    (effState (mxPush s kind a desc parts bars gang mask)).mem = s.mem := by
  simp [mxPush]
@[simp] theorem execMxm_kept (a b : Reg) (s : State) : Kept s (execMxm a b s) :=
  kept_next.2 (runI_mem fun t => by simp)
@[simp] theorem execMxms_kept (a b : Reg) (c : VReg) (s : State) : Kept s (execMxms a b c s) :=
  kept_next.2 (runI_mem fun t => by simp)
@[simp] theorem gangParts_mem {a : Reg} {d4 : Word} {k : State → List Nat → Eff} (h : ∀ t l, (effState (k t l)).mem = t.mem)
    (n p : Nat) (acc : List Nat) (s : State) : (effState (gangParts a d4 k n p acc s)).mem = s.mem := by
  induction n generalizing p acc s with
  | zero => exact h ..
  | succ n ih =>
    unfold gangParts
    refine withRole_mem fun t r => ?_
    dsimp only
    split
    · simp
    · simp
    · split
      · simp
      · exact ih ..
@[simp] theorem gangRead_mem {s : State} {a : Reg} {d4 : Word} {n : Nat} {k : State → List Nat → Eff}
    (h : ∀ t l, (effState (k t l)).mem = t.mem) : (effState (gangRead s a d4 n k)).mem = s.mem := by
  unfold gangRead
  dsimp only
  split
  · simp
  · exact gangParts_mem h ..
@[simp] theorem execMxg_kept (a b : Reg) (s : State) : Kept s (execMxg a b s) :=
  kept_next.2 (runI_mem fun _ => mxIssuer_mem fun _ => checks_mem (fun _ => gangRead_mem fun _ _ => mxPush_mem ..) _ _)

/-! ## Drains and clears (R221, R222) -/

@[simp] theorem execMxdrn_kept (a b : Reg) (s : State) : Kept s (execMxdrn a b s) :=
  kept_next.2 (runI_mem fun t => by simp)
@[simp] theorem execMxz_kept (a b : Reg) (s : State) : Kept s (execMxz a b s) :=
  kept_next.2 (runI_mem fun t => by simp)

/-! ## A product job -/

@[simp] theorem writeAcc_mem (s : State) (c : Nat) (d : List Word) (st : Nat) (l : List Lane) : (writeAcc s c d st l).mem = s.mem :=
  foldl_mem (fun _ _ => by simp [bufWrite]) _ _
@[simp] theorem clearC_mem (s : State) (c : Nat) (d : List Word) : (clearC s c d).mem = s.mem := rfl

/-! ## Ends of a job -/

@[simp] theorem mxPut_mem (s : State) (cl : Nat) (j : MxJob) : (mxPut s cl j).mem = s.mem := rfl
@[simp] theorem mxFinal_mem (s : State) (cl : Nat) (j : MxJob) : (mxFinal s cl j).mem = s.mem :=
  (foldl_mem (fun _ _ => by simp) _ _).trans (by simp)
@[simp] theorem modSubs_mem (s : State) (cl id : Nat) (f : Nat → SubRec → SubRec) : (modSubs s cl id f).mem = s.mem := by
  simp [modSubs]
@[simp] theorem flushAcc_mem (s : State) (cl : Nat) (j : MxJob) : (flushAcc s cl j).mem = s.mem := by
  unfold flushAcc
  split
  · rfl
  · exact foldl_mem (fun _ _ => by split <;> simp) _ _
@[simp] theorem mxEnd_mem (s : State) (cl : Nat) (j : MxJob) (code : Nat) (fval : Word) :
    (mxEnd s cl j code fval).mem = s.mem := by
  simp [mxEnd]
@[simp] theorem productDone_mem (s : State) (cl : Nat) (j : MxJob) : (productDone s cl j).mem = s.mem := by simp [productDone]

/-! ## The steps of a product (R214, R219) -/

@[simp] theorem productStart_mem (s : State) (cl : Nat) (j : MxJob) : (productStart s cl j).mem = s.mem := by
  unfold productStart
  dsimp only
  generalize (if j.kind = .mxms then badMask j.mask else none : Option Nat) = m
  have h : (if mxZi j.desc = true then j.parts.foldl (fun s u => clearC s (coreAt cl u) j.desc)
        (modRec s cl j.id fun r => { r with began := true })
      else modRec s cl j.id fun r => { r with began := true }).mem = s.mem := by
    split
    · exact (foldl_mem (fun _ _ => by simp) _ _).trans (by simp)
    · simp
  cases m with
  | some n => simp
  | none =>
    dsimp only
    split
    · exact (productDone_mem ..).trans h
    · exact (mxPut_mem ..).trans h
@[simp] theorem endKStep_mem (s : State) (cl : Nat) (j : MxJob) : (endKStep s cl j).mem = s.mem := by
  unfold endKStep
  extract_lets ks s1 r s2 s3 j' s4 st
  have h : s2.mem = s.mem := (foldl_mem (fun t e => by
    split
    · split <;> simp
    · rfl) _ _).trans (modSubs_mem ..)
  have h3 : s3.mem = s.mem := (modSubs_mem ..).trans h
  have h4 : s4.mem = s.mem := (flushAcc_mem ..).trans h3
  clear_value s3 s4
  (repeat' split) <;> simp [h3, h4]
@[simp] theorem doKStep_mem (s : State) (cl : Nat) (j : MxJob) : (doKStep s cl j).mem = s.mem := by simp [doKStep]
@[simp] theorem mxPause_mem (s : State) (cl : Nat) (j : MxJob) (code : Nat) (va : Word) :
    (mxPause s cl j code va).mem = s.mem := by
  simp [mxPause]
@[simp] theorem productStep_kept (s : State) (cl : Nat) (j : MxJob) : Kept s (productStep s cl j) := by
  unfold productStep
  dsimp only
  split
  · simp
  · split
    · have hr := engRead_mem s cl (cluster s cl).launch ((loadAcc s cl j).desc.getD 3 0 +
        BitVec.ofNat 64 ((panelWords (jobPath (loadAcc s cl j)) (loadAcc s cl j).desc (loadAcc s cl j).strip (loadAcc s cl j).knext).getD
          (loadAcc s cl j).got.length 0)) (loadAcc s cl j).rem (matrixTag cl ((loadAcc s cl j).parts.headD 0))
      split <;> rename_i he <;> rw [he] at hr
      · simpa using hr
      · rw [kept_next]
        split <;> simpa using hr
      · rw [kept_next]
        (repeat' split) <;> simpa using hr
      · simpa using hr
    · simp
theorem mxStep_kept {s : State} {cl id : Nat} {kinds : List MxKind} {k : State → MxJob → Out}
    (h : ∀ t j, Kept t (k t j)) : Kept s (mxStep s cl id kinds k) := by
  unfold mxStep
  split
  · split
    · exact h ..
    · exact kept_next.2 rfl
  · exact kept_next.2 rfl
@[simp] theorem execMxmJob_kept (s : State) : Kept s (execMxmJob s) := by
  unfold execMxmJob
  split
  · exact mxStep_kept fun t j => productStep_kept ..
  · exact kept_next.2 rfl
@[simp] theorem execMxmsJob_kept (s : State) : Kept s (execMxmsJob s) := by
  unfold execMxmsJob
  split
  · exact mxStep_kept fun t j => productStep_kept ..
  · exact kept_next.2 rfl
@[simp] theorem execMxgJob_kept (s : State) : Kept s (execMxgJob s) := by
  unfold execMxgJob
  split
  · exact mxStep_kept fun t j => productStep_kept ..
  · exact kept_next.2 rfl

/-! ## A drain (R221) -/

theorem engMWrite_mem {s t : State} {i : Ident} {sp : Space} {off : Nat} {l : List Byte} {n c : Nat}
    (h : engMWrite s i sp off l n c = some t) : t.mem = s.mem := by
  induction n generalizing c with
  | zero => cases h
  | succ n ih =>
    unfold engMWrite at h
    split at h
    · obtain rfl := Option.some.inj h
      rfl
    · exact ih h
    · cases h
@[simp] theorem drainWake_mem (s : State) (cl : Nat) (j : MxJob) (i : Ident) : (drainWake s cl j i).mem = s.mem := by
  simp [drainWake]
@[simp] theorem drainStep_mem (s : State) (cl : Nat) (j : MxJob) : (drainStep s cl j).mem = s.mem := by
  unfold drainStep
  extract_lets d i s0
  have h0 : s0.mem = s.mem := modRec_mem ..
  clear_value s0
  split
  · simp [h0]
  · split
    · simp [h0]
    · dsimp only
      split
      · simp [h0]
      next t ht =>
        obtain ⟨u, hu, ht⟩ := Option.bind_eq_some_iff.1 ht
        have h : t.mem = s.mem := by
          rw [← h0, ← engMWrite_mem hu]
          split at ht
          · cases ht; rfl
          · exact engMWrite_mem ht
        split <;> simpa using h
@[simp] theorem execMxdrnJob_kept (s : State) : Kept s (execMxdrnJob s) := by
  unfold execMxdrnJob
  split
  · exact mxStep_kept fun t j => kept_next.2 (drainStep_mem ..)
  · exact kept_next.2 rfl
@[simp] theorem clearStep_mem (s : State) (cl : Nat) (j : MxJob) : (clearStep s cl j).mem = s.mem := by
  unfold clearStep
  dsimp only
  split
  · simp
  · generalize List.replicate 256 (0 : Byte) = l
    split <;> simp [bufWrite]
@[simp] theorem execMxzJob_kept (s : State) : Kept s (execMxzJob s) := by
  unfold execMxzJob
  split
  · exact mxStep_kept fun t j => kept_next.2 (clearStep_mem ..)
  · exact kept_next.2 rfl

/-! ## Waiting, testing, cancelling, counters (R220, R223, R224) -/

@[simp] theorem mxResume_mem (s : State) (cl : Nat) (q : MxJob) : (mxResume s cl q).mem = s.mem := by simp [mxResume]
@[simp] theorem jwaitEnd_mem (s : State) (id : Word) (cl unit : Nat) (copy : Bool) (bank : Nat) :
    (jwaitEnd s id cl unit copy bank).1.mem = s.mem := by
  unfold jwaitEnd
  (repeat' split) <;> simp
@[simp] theorem jwaitAt_mem (s : State) (home : Nat) (id : Word) (cl : Nat) (copy : Bool) (bank : Nat) :
    (jwaitAt s home id cl copy bank).1.mem = s.mem := by
  unfold jwaitAt
  (repeat' split) <;> simp
@[simp] theorem cancelJob_mem (s : State) (cl : Nat) (copy : Bool) (id : Nat) : (cancelJob s cl copy id).mem = s.mem := by
  unfold cancelJob
  (repeat' split) <;> simp
@[simp] theorem jcancAt_mem (s : State) (id : Word) (cl : Nat) (copy mine : Bool) (r : JobRec) :
    (jcancAt s id cl copy mine r).1.mem = s.mem := by
  unfold jcancAt
  dsimp only
  (repeat' split) <;> simp
@[simp] theorem jobAt_mem (s : State) (op : JobOp) (home : Nat) (id : Word) (mine : Bool) :
    (jobAt s op home id mine).1.mem = s.mem := by
  unfold jobAt
  dsimp only
  (repeat' split) <;> simp
@[simp] theorem jobI_mem (op : JobOp) (d b : Reg) (mine : State → Word → Bool) (cause : Word → Cause) (s : State) :
    (jobI op d b mine cause s).mem = s.mem := by
  refine runI_mem fun t => ?_
  dsimp only
  split
  · rfl
  · split
    · simp
    · have h := jobAt_mem t op (me t).home.core (rd t b) (mine t (rd t b))
      split <;> rename_i he <;> rw [he] at h
      · split <;> simpa using h
      · exact h
      · simpa using h
@[simp] theorem execJwait_kept (d b : Reg) (s : State) : Kept s (execJwait d b s) := by simp [execJwait]
@[simp] theorem execJtest_kept (d b : Reg) (s : State) : Kept s (execJtest d b s) := by simp [execJtest]
@[simp] theorem execJcanc_kept (d b : Reg) (s : State) : Kept s (execJcanc d b s) := by simp [execJcanc]
@[simp] theorem execMxcnt_kept (d b : Reg) (s : State) : Kept s (execMxcnt d b s) := by simp [execMxcnt]
@[simp] theorem sealwAt_mem (s : State) (home : TRef) : (sealwAt s home).1.mem = s.mem := by
  unfold sealwAt
  split <;> simp
@[simp] theorem jobReqGo_mem (s : State) (m : JobReq) (mine : Bool) : (jobReqGo s m mine).mem = s.mem := by
  have h : (if m.op = .sealw then sealwAt s m.home else jobAt s m.op m.home.core m.id mine).1.mem = s.mem := by
    split
    · exact sealwAt_mem ..
    · exact jobAt_mem ..
  unfold jobReqGo
  split <;> rename_i he <;> rw [he] at h <;> simpa using h
@[simp] theorem serveJobReqs_mem (s : State) : (serveJobReqs s).mem = s.mem := by
  unfold serveJobReqs
  dsimp only
  split
  · rfl
  · exact foldl_mem (fun t m => jobReqGo_mem ..) _ _

/-! ## Exceptions and interrupts -/

@[simp] theorem cpTrap_mem (s : State) (n cause : Nat) (tval : Word) : (cpTrap s n cause tval).mem = s.mem := rfl
@[simp] theorem cpIllegal_mem (s : State) (n : Nat) : (cpIllegal s n).mem = s.mem := rfl

/-! ## SYS messages -/

@[simp] theorem sendSys_mem (s : State) (n : Nat) (v : Word) : (sendSys s n v).mem = s.mem :=
  (HostSide.spares_sendSys s n v).1
@[simp] theorem execDxsys_kept (s : State) : Kept s (execDxsys s) := by
  unfold execDxsys
  split <;> simp
@[simp] theorem cpCsrPut_mem (s : State) (n csr : Nat) (v : Word) : (cpCsrPut s n csr v).mem = s.mem := by
  unfold cpCsrPut
  split <;> simp
@[simp] theorem csrAccess_mem (s : State) (n csr : Nat) (value : Option Word) : (csrAccess s n csr value).mem = s.mem := by
  unfold csrAccess
  split
  · simp
  · split <;> simp

/-! ## Memory accesses -/

@[simp] theorem startCps_mem (s : State) : (startCps s).mem = s.mem := by
  unfold startCps
  split
  · exact foldl_mem (fun t n => modCp_mem ..) _ _
  · rfl

/-! ## Lanes (R345 to R347) -/

@[simp] theorem stackCmd_mem (s : State) (st op ch lane : Nat) : (stackCmd s st op ch lane).mem = s.mem := by simp [stackCmd]
@[simp] theorem execRetrainChannel_kept (s : State) : Kept s (execRetrainChannel s) := by
  unfold execRetrainChannel
  split <;> simp
@[simp] theorem execRepairLane_kept (s : State) : Kept s (execRepairLane s) := by
  unfold execRepairLane
  split <;> simp
@[simp] theorem execHcmdComplete_kept (s : State) : Kept s (execHcmdComplete s) := by
  unfold execHcmdComplete
  split <;> simp
@[simp] theorem interruptCps_mem (s : State) : (interruptCps s).mem = s.mem :=
  foldl_mem (fun _ _ => by simp) _ _
@[simp] theorem margin_mem (s : State) (st ch lane hm vm : Nat) : (margin s st ch lane hm vm).mem = s.mem := by simp [margin]
@[simp] theorem execMarginUpdate_kept (s : State) : Kept s (execMarginUpdate s) := by
  unfold execMarginUpdate
  split <;> simp
@[simp] theorem train_mem (s : State) : (train s).mem = s.mem := rfl

/-! ## Refresh, scrubbing, errors, self-refresh (R348 to R350) -/

@[simp] theorem execRefresh_kept (s : State) : Kept s (execRefresh s) := by
  unfold execRefresh
  split <;> simp
@[simp] theorem scrub_mem (s : State) (p result : Nat) : (scrub s p result).mem = s.mem := by
  unfold scrub
  dsimp only
  (repeat' split) <;> simp
@[simp] theorem execScrubVisit_kept (s : State) : Kept s (execScrubVisit s) := by
  unfold execScrubVisit
  split <;> simp
@[simp] theorem execSelfRefreshEntry_kept (s : State) : Kept s (execSelfRefreshEntry s) := by
  unfold execSelfRefreshEntry
  split <;> simp

/-! ## The physical allocation table (R351, R352) -/

@[simp] theorem patWrite_mem (s : State) (f d : Nat) : (patWrite s f d).1.mem = s.mem := by
  unfold patWrite
  dsimp only
  (repeat' split) <;> simp
@[simp] theorem patPut_mem (s : State) (f d : Nat) : (patPut s f d).mem = s.mem := by simp [patPut]
@[simp] theorem execPatdataWrite_kept (s : State) : Kept s (execPatdataWrite s) := by
  unfold execPatdataWrite
  split <;> simp
@[simp] theorem amoxI_mem (len : Nat) (a b : Reg) (sc : Scope) (op : Nat) (conv : Word → Fx) (s : State) :
    (amoxI len a b sc op conv s).mem = s.mem := by
  simp [amoxI]
@[simp] theorem execAmoxAdd_kept (a b : Reg) (xs : Option Scope) (s : State) : Kept s (execAmoxAdd a b xs s) := by
  simp [execAmoxAdd]
@[simp] theorem execAmoxAddI_kept (a b : Reg) (xs : Scope) (s : State) : Kept s (execAmoxAddI a b xs s) := by simp [execAmoxAddI]

/-! ## Restart points -/

@[simp] theorem unissue_mem (s : State) (a : TRef) : (unissue s a).mem = s.mem := by
  unfold unissue
  split <;> simp
@[simp] theorem unissueTo_mem (s : State) (x : ReplyTo) : (unissueTo s x).mem = s.mem := by
  unfold unissueTo
  split <;> simp
@[simp] theorem withdrawWaits_mem (p : ReplyTo → Bool) (s : State) : (withdrawWaits p s).mem = s.mem :=
  foldl_mem (fun _ _ => by simp) _ _
@[simp] theorem withdrawResv_mem (p : ReplyTo → Bool) (s : State) : (withdrawResv p s).mem = s.mem :=
  foldl_mem (fun _ _ => by simp) _ _
@[simp] theorem withdrawMsgs_mem (p : ReplyTo → Bool) (s : State) : (withdrawMsgs p s).mem = s.mem :=
  foldl_mem (fun _ _ => by split <;> simp) _ _
@[simp] theorem withdrawDoors_mem (p : ReplyTo → Bool) (s : State) : (withdrawDoors p s).mem = s.mem :=
  foldl_mem (fun _ _ => by simp) _ _
@[simp] theorem withdrawBarw_mem (p : ReplyTo → Bool) (s : State) : (withdrawBarw p s).mem = s.mem :=
  foldl_mem (fun _ _ => by simp) _ _
@[simp] theorem restMatrix_mem (q : MxJob → Bool) (s : State) (cl : Nat) : (restMatrix q s cl).mem = s.mem :=
  foldl_mem (fun _ _ => by simp) _ _
@[simp] theorem restCluster_mem (q : MxJob → Bool) (r : CpJob → Bool) (s : State) (cl : Nat) :
    (restCluster q r s cl).mem = s.mem := by
  simp [restCluster]
@[simp] theorem toRest_mem (every : Bool) (pm : Nat → Option Nat → Bool) (q : Nat → Bool) (s : State) :
    (toRest every pm q s).mem = s.mem := by
  unfold toRest
  extract_lets p w t u
  have ht : t.mem = s.mem := by simp [t]
  exact (foldl_mem (fun _ _ => restCluster_mem ..) _ _).trans ht
@[simp] theorem restAll_mem (s : State) : (restAll s).mem = s.mem := by simp [restAll]
@[simp] theorem restOf_mem (s : State) (c : Nat) : (restOf s c).mem = s.mem := by simp [restOf]

/-! ## What a save holds (R292) -/

@[simp] theorem loadWork_mem (s : State) : (loadWork s).mem = s.mem := rfl

/-! ## The protocol (R289) -/

@[simp] theorem toDomain_mem (s : State) (b : PktBody) (e : Ev) : (toDomain s b e).mem = s.mem :=
  foldl_mem (fun _ _ => by simp) _ _
@[simp] theorem execSealRequest_kept (s : State) : Kept s (execSealRequest s) := by
  unfold execSealRequest
  split <;> simp
@[simp] theorem execSealTimer_kept (s : State) : Kept s (execSealTimer s) := by
  unfold execSealTimer
  split <;> simp
@[simp] theorem execPrep_kept (s : State) : Kept s (execPrep s) := by
  unfold execPrep
  split <;> simp
@[simp] theorem saveGo_mem (s : State) : (saveGo s).mem = s.mem := by
  unfold saveGo
  split <;> simp
@[simp] theorem execSave_kept (s : State) : Kept s (execSave s) := by
  unfold execSave
  split <;> simp
@[simp] theorem decide_mem (s : State) : (decide_ s).mem = s.mem := by simp [decide_]
@[simp] theorem execSaved_kept (s : State) : Kept s (execSaved s) := by
  unfold execSaved
  split <;> simp
@[simp] theorem askJoin_mem (s : State) : (askJoin s).mem = s.mem := by
  unfold askJoin
  split
  · rfl
  · split
    · rfl
    · exact emit_mem ..
@[simp] theorem answerJoins_mem (s : State) : (answerJoins s).mem = s.mem :=
  foldl_mem (fun _ _ => foldl_mem (fun _ _ => emit_mem ..) _ _) _ _
@[simp] theorem commitGo_mem (s : State) : (commitGo s).mem = s.mem := by simp [commitGo]
@[simp] theorem execCommit_kept (s : State) : Kept s (execCommit s) := by
  unfold execCommit
  split <;> simp

/-! ## The stamp sweep (R285) -/

@[simp] theorem execStampSweep_kept (s : State) : Kept s (execStampSweep s) := by
  unfold execStampSweep
  split <;> simp

/-! ## Escrow (R293, R294, R365) -/

@[simp] theorem hostWrite_mem (s : State) (a : Nat) (l : List Byte) : (hostWrite s a l).mem = s.mem := rfl
@[simp] theorem leave_mem (s : State) (e : EscEntry) : (leave s e).mem = s.mem := by
  unfold leave
  dsimp only
  (repeat' split) <;> simp
@[simp] theorem linkAccept_mem (s : State) (die : Nat) : (linkAccept s die).mem = s.mem := by
  unfold linkAccept
  split <;> simp
@[simp] theorem execEscrowLinkAccept_kept (s : State) : Kept s (execEscrowLinkAccept s) := by
  unfold execEscrowLinkAccept
  split <;> simp

/-! ## Rollback (R295 to R298) -/

@[simp] theorem discardAfter_mem (s : State) (m : Nat) : (discardAfter s m).mem = s.mem := rfl
@[simp] theorem dropTraffic_mem (s : State) : (dropTraffic s).mem = s.mem := rfl
@[simp] theorem keepRunning_mem (s : State) (l : Nat) : (keepRunning s l).mem = s.mem := by simp [keepRunning]
@[simp] theorem abandonMoves_mem (s : State) : (abandonMoves s).mem = s.mem := by
  unfold abandonMoves
  extract_lets t out u v
  have ht : t.mem = s.mem := foldl_mem (fun t e => keepRunning_mem ..) _ _
  exact (foldl_mem (fun _ _ => modCore_mem ..) _ _).trans ht

/-! ## Instructions (R299) -/

@[simp] theorem execSealq_kept (d : Reg) (s : State) : Kept s (execSealq d s) := by simp [execSealq]
@[simp] theorem execSealw_kept (d : Reg) (s : State) : Kept s (execSealw d s) := by
  refine kept_next.2 (runI_mem fun t => ?_)
  split
  · simp
  · split <;> simp
@[simp] theorem execIvn_kept (d : Reg) (s : State) : Kept s (execIvn d s) := by simp [execIvn]
@[simp] theorem execIvnRb_kept (d : Reg) (s : State) : Kept s (execIvnRb d s) := by simp [execIvnRb]

/-! ## The end of an administration command (R357) -/

@[simp] theorem admEnd_mem (s : State) (result : Nat) (rsp : Word) : (admEnd s result rsp).mem = s.mem := by simp [admEnd]
@[simp] theorem admDone_mem (s : State) (result : Nat) : (admDone s result).mem = s.mem := by simp [admDone]

/-! ## Completion entries (R61) -/

@[simp] theorem escrowSend_mem (s : State) (e : EscEntry) : (escrowSend s e).mem = s.mem := by simp [escrowSend]
@[simp] theorem complete_mem (s : State) (r : LRecord) (status stale : Nat) : (complete s r status stale).mem = s.mem := by
  unfold Machine.complete
  split <;> simp

/-! ## Doorbells and records (R57 to R60, R62) -/

@[simp] theorem execDbq_kept (s : State) : Kept s (execDbq s) := by
  unfold execDbq
  dsimp only
  (repeat' split) <;> simp
@[simp] theorem takeRecord_mem (s : State) (n : Nat) (q : LQueue) : (takeRecord s n q).mem = s.mem := by
  refine cpLook_mem fun t => ?_
  dsimp only
  split <;> simp
@[simp] theorem execLaunchRecord_kept (s : State) : Kept s (execLaunchRecord s) := by
  unfold execLaunchRecord
  (repeat' split) <;> simp

/-! ## Admission (R62, R63) -/

@[simp] theorem sendRecalls_mem (s : State) (l : List Nat) : (sendRecalls s l).mem = s.mem :=
  foldl_mem (fun _ _ => by simp) _ _

/-! ## Setup (R64) -/

@[simp] theorem bindCluster_mem (s : State) (l : Nat) (table : Nat) (cl : Nat) : (bindCluster_ s l table cl).mem = s.mem := rfl
@[simp] theorem setBindg_mem (s : State) (table : Nat) (cs : List Nat) : (setBindg s table cs).mem = s.mem :=
  foldl_mem (fun _ _ => by simp) _ _
@[simp] theorem fillBuf_mem (s : State) (b : Binder) (img : Image) (bytes : List Byte) (r : BufRec) :
    (fillBuf s b img bytes r).mem = s.mem :=
  foldl_mem (fun _ _ => by simp) _ _
@[simp] theorem clearTellers_mem (s : State) (b : Binder) (img : Image) : (clearTellers s b img).mem = s.mem :=
  foldl_mem (fun _ _ => by simp) _ _
@[simp] theorem newIndex_mem (s : State) (l : Nat) (frames : List Nat) (w : Word) : (newIndex s l frames w).mem = s.mem := by
  unfold newIndex
  split <;> simp
@[simp] theorem sendRoles_mem (s : State) (r : LRecord) (b : Binder) (img : Image) (djob : Option Nat) :
    (sendRoles s r b img djob).mem = s.mem := by
  unfold sendRoles
  split
  · rfl
  · exact (foldl_mem (fun _ _ => by simp) _ _).trans rfl
@[simp] theorem setup_mem (s : State) (w : Waiting) (l : Nat) (cls : List Nat) (img : Image) (b : Binder) (ch : AdmitChoice) :
    (setup s w l cls img b ch).mem = s.mem :=
  foldl_mem (fun _ _ => by simp) _ _
@[simp] theorem admitFront_mem (s : State) (ch : AdmitChoice) : (admitFront s ch).mem = s.mem := by
  unfold admitFront
  split
  · rfl
  · split
    · rfl
    · split
      · dsimp only
        split
        · simp
        · split
          · rfl
          · split
            · rfl
            · refine cpLook_mem fun t => ?_
              split <;> simp
      · rfl
@[simp] theorem execAdmission_kept (s : State) : Kept s (execAdmission s) := by
  unfold execAdmission
  split <;> simp

/-! ## Start (R45, R46, R64) -/

@[simp] theorem startControl_mem (s : State) (l : Nat) (x : Launch) (e : Nat × Nat) : (startControl s l x e).mem = s.mem := rfl
@[simp] theorem crossLink_mem (s : State) (x : Launch) (l : Nat × Nat) : (crossLink s x l).mem = s.mem := by
  unfold crossLink
  dsimp only
  split
  · exact lookAt_mem (fun _ => rfl) fun _ => rfl
  · exact lookAt_mem (fun _ => rfl) fun _ => rfl
  · rfl

/-! ## The Arbor (R65 to R69, R84) -/

@[simp] theorem addStale_mem (s : State) (l n : Nat) : (addStale s l n).mem = s.mem := by simp [addStale]
@[simp] theorem modGraph_mem (s : State) (l g : Nat) (f : Graph → Graph) : (modGraph s l g f).mem = s.mem := by simp [modGraph]
@[simp] theorem makeReady_mem (s : State) (l g i : Nat) : (makeReady s l g i).mem = s.mem := by simp [makeReady]
@[simp] theorem arm_mem (s : State) (l g : Nat) (x : Graph) : (arm s l g x).mem = s.mem := by
  unfold arm
  dsimp only
  exact (foldl_mem (fun _ _ => by simp) _ _).trans (by simp)
@[simp] theorem execArmInstance_kept (s : State) : Kept s (execArmInstance s) := by
  unfold execArmInstance
  (repeat' split) <;> simp
@[simp] theorem rearm_mem (s : State) (l g : Nat) : (rearm s l g).mem = s.mem := by
  unfold rearm
  split <;> simp
@[simp] theorem execRunRequest_kept (s : State) : Kept s (execRunRequest s) := by
  unfold execRunRequest
  dsimp only
  (repeat' split) <;> simp
@[simp] theorem countDown_mem (s : State) (l g j : Nat) : (countDown s l g j).mem = s.mem := by
  unfold countDown
  split <;> simp
@[simp] theorem signalled_mem (s : State) (l g i : Nat) (x : Graph) : (signalled s l g i x).mem = s.mem := by
  have h : ∀ (js : List Nat) (t : State), (js.foldl (fun s j => countDown s l g j) t).mem = t.mem := foldl_mem fun t j => by simp
  unfold signalled
  dsimp only
  split <;> simp [h]
@[simp] theorem execCompletionSignal_kept (s : State) : Kept s (execCompletionSignal s) := by
  unfold execCompletionSignal
  (repeat' split) <;> simp
@[simp] theorem dispatch_mem (s : State) (l : Nat) (x : Launch) (r : Ready) (c : Nat) : (dispatch s l x r c).mem = s.mem := by
  unfold dispatch
  split <;> simp
@[simp] theorem execArborDispatch_kept (s : State) : Kept s (execArborDispatch s) := by
  unfold execArborDispatch
  split
  · split
    · rw [kept_next]
      split
      · split
        · exact lookAt_mem (fun _ => rfl) fun t => dispatch_mem ..
        · simp
      · rfl
    · simp
  · exact kept_next.2 rfl

/-! ## Retirement (R321 to R325) -/

@[simp] theorem endQuiet_mem (s : State) (l : Nat) : (endQuiet s l).mem = s.mem :=
  Eq.trans (modLaunch_mem ..) (foldl_mem (fun _ _ => foldl_mem (fun _ _ => by simp) _ _) _ _)
@[simp] theorem freeCluster_mem (s : State) (c : Nat) : (freeCluster s c).mem = s.mem := rfl

/-! ## The end of a launch whose thread froze (R323) -/

@[simp] theorem restLaunch_mem (s : State) (l : Nat) : (restLaunch s l).mem = s.mem := by simp [restLaunch]
@[simp] theorem callBack_mem (s : State) (p : TRef → Bool) : (callBack s p).mem = s.mem :=
  foldl_mem (fun _ _ => foldl_mem (fun _ _ => by simp) _ _) _ _
@[simp] theorem stopCore_mem (s : State) (c : Nat) : (stopCore s c).mem = s.mem := by
  unfold stopCore
  split
  · rfl
  · rw [callBack_mem, restOf_mem]
    exact (foldl_mem (fun _ _ => by simp) _ _).trans (modCore_mem ..)
@[simp] theorem stopLaunch_mem (s : State) (l : Nat) : (stopLaunch s l).mem = s.mem := by
  unfold stopLaunch
  dsimp only
  rw [callBack_mem, restLaunch_mem]
  exact (foldl_mem (fun t c => stopCore_mem ..) _ _).trans (modLaunch_mem ..)
@[simp] theorem endLaunch_mem (s : State) (l : Nat) : (endLaunch s l).mem = s.mem := by
  have h : ∀ (cs : List Nat) (t : State), (cs.foldl (fun s c =>
      (cluster ((cluster s c).mxq.foldl (fun s j => mxEnd s c j 1 0) s) c).cpq.foldl (fun s j => cpEnd s c j 1 0)
        ((cluster s c).mxq.foldl (fun s j => mxEnd s c j 1 0) s)) t).mem = t.mem :=
    foldl_mem fun t c => (foldl_mem (fun u j => cpEnd_mem ..) _ _).trans (foldl_mem (fun u j => mxEnd_mem ..) _ _)
  unfold endLaunch
  extract_lets t u v
  have hu : u.mem = s.mem := by simp [u, t]
  rw [modLaunch_mem]
  exact (h _ u).trans hu

/-! ## SYS messages (R72, R303, R323) -/

@[simp] theorem cancelMove_mem (s : State) (l : Nat) : (cancelMove s l).mem = s.mem := by simp [cancelMove]
@[simp] theorem froze_mem (s : State) (l : Nat) : (froze s l).mem = s.mem := by
  unfold froze
  split <;> simp
@[simp] theorem execSysMessage_kept (s : State) : Kept s (execSysMessage s) := by
  unfold execSysMessage
  (repeat' split) <;> simp

/-! ## References to a thread that moves -/

@[simp] theorem renState_mem (f : TRef → TRef) (s : State) : (renState f s).mem = s.mem := rfl

/-! ## Names on other modules -/

@[simp] theorem tellMoved_mem (s : State) (l : List (TRef × TRef)) : (tellMoved s l).mem = s.mem := by
  unfold tellMoved
  dsimp only
  split
  · rfl
  · exact foldl_mem (fun _ _ => by simp) _ _
@[simp] theorem takeMoved_mem (s : State) (l : List (TRef × TRef)) : (takeMoved s l).mem = s.mem := rfl

/-! ## Moving a core (R75, R309, R310) -/

@[simp] theorem moveBank_mem (s : State) (frm dst : Nat) : (moveBank s frm dst).mem = s.mem := by simp [moveBank]
@[simp] theorem leaveCluster_mem (s : State) (x : Launch) (cl : Nat) : (leaveCluster s x cl).mem = s.mem := by simp [leaveCluster]
@[simp] theorem tellRanks_mem (s : State) (x : Launch) (ents : List Nat) : (tellRanks s x ents).mem = s.mem := by
  unfold tellRanks
  dsimp only
  split
  · rfl
  · exact foldl_mem (fun _ _ => by simp) _ _
@[simp] theorem preempt_mem (s : State) (c : Nat) : (preempt s c).mem = s.mem := by
  unfold preempt
  dsimp only
  (repeat' split) <;> simp
@[simp] theorem execPreemption_kept (s : State) : Kept s (execPreemption s) := by
  unfold execPreemption
  split <;> simp
@[simp] theorem goBack_mem (s : State) (c : Nat) : (goBack s c).mem = s.mem := rfl
@[simp] theorem execDrainAck_kept (s : State) : Kept s (execDrainAck s) := by
  unfold execDrainAck
  split <;> simp
@[simp] theorem execRetireForwarding_kept (s : State) : Kept s (execRetireForwarding s) := by
  unfold execRetireForwarding
  split <;> simp
@[simp] theorem moveRole_mem (s : State) : (moveRole s).mem = s.mem := by
  unfold moveRole
  extract_lets l code
  split
  · simp
  · split
    · simp
    · extract_lets i
      clear_value i
      refine lookAt_mem (fun _ => rfl) fun t => ?_
      dsimp only
      split
      · simp
      · split
        · simp
        · split <;> simp
@[simp] theorem execMoveRole_kept (s : State) : Kept s (execMoveRole s) := by simp [execMoveRole]

/-! ## Switching a launch out (R312) -/

@[simp] theorem switchOut_mem (s : State) (l : Nat) (x : Launch) : (switchOut s l x).mem = s.mem := by simp [switchOut]
@[simp] theorem writeSave_mem (s : State) (l : Nat) (fs : List Nat) : (writeSave s l fs).mem = s.mem := by simp [writeSave]
@[simp] theorem saveLaunch_mem (s : State) (l : Nat) (x : Launch) : (saveLaunch s l x).mem = s.mem := by
  unfold saveLaunch
  extract_lets n fs
  split
  · simp
  next s1 left s2 s3 leaves gone pat s4 _ =>
    have h1 : s1.mem = s.mem := restLaunch_mem ..
    have h2 : s2.mem = s1.mem := tellMoved_mem ..
    have h3 : s3.mem = s2.mem := (writeSave_mem ..).trans (renState_mem ..)
    have h4 : s4.mem = s3.mem := by simp only [s4]
    rw [admDone_mem]
    refine Eq.trans (foldl_mem (fun t c => freeCluster_mem ..) _ _) ?_
    rw [h4, h3, h2, h1]

/-! ## Switching in (R313) -/

theorem seatGuests_mem (s : State) (l : List (TRef × Thread)) : (seatGuests s l).2.mem = s.mem := by
  induction l generalizing s with
  | nil => rfl
  | cons e l ih =>
    unfold seatGuests
    split
    · exact (ih _).trans (fill_mem ..)
    · exact ih s
@[simp] theorem restoreCore_mem (s : State) (x : Launch) (cls : List Nat) (f : Nat → Nat) (e : Nat × Core) :
    (restoreCore s x cls f e).mem = s.mem :=
  rfl
@[simp] theorem restoreCluster_mem (s : State) (x : Launch) (cls : List Nat) (f : Nat → Nat) (e : Nat × Cluster) :
    (restoreCluster s x cls f e).mem = s.mem := by
  unfold restoreCluster
  split
  · rfl
  · extract_lets g ks t
    have ht : t.mem = s.mem := foldl_mem (fun _ _ => modCluster_mem ..) _ _
    clear_value t
    split
    · exact ht
    · exact ht
@[simp] theorem switchWord_mem {s : State} {n : Nat} {go : State → Nat → Launch → State}
    (h : ∀ t l x, (go t l x).mem = t.mem) : (switchWord s n go).mem = s.mem := by
  unfold switchWord
  dsimp only
  split
  · simp
  · split
    · rfl
    · split <;> simp [h]
@[simp] theorem execSwitchOut_kept (s : State) : Kept s (execSwitchOut s) := by simp [execSwitchOut]

/-! ## Gating (R314) -/

@[simp] theorem execCorePowerGating_kept (s : State) : Kept s (execCorePowerGating s) := by
  unfold execCorePowerGating
  split <;> simp

/-! ## Links (R369 to R373) -/

@[simp] theorem setLink_mem (s : State) (a b : Nat) (up : Bool) : (setLink s a b up).mem = s.mem := rfl
@[simp] theorem sayLink_mem (s : State) (peer : Nat) (up : Bool) : (sayLink s peer up).mem = s.mem :=
  (foldl_mem (fun _ _ => by simp) _ _).trans (by simp)
@[simp] theorem bringUp_mem (s : State) (port peer peerPort : Nat) : (bringUp s port peer peerPort).mem = s.mem := by
  unfold bringUp
  dsimp only
  split
  · rfl
  · rfl
  · split <;> rfl
  · simp
  · rfl
@[simp] theorem execPortBringUp_kept (s : State) : Kept s (execPortBringUp s) := by
  unfold execPortBringUp
  split
  · exact kept_next.2 (bringUp_mem ..)
  · exact kept_next.2 rfl

/-! ## Frames that leave (R370, R371, R373 to R375) -/

@[simp] theorem putFrame_mem (s : State) (port : Nat) (flits : List Flit) : (putFrame s port flits).mem = s.mem := rfl
@[simp] theorem pump_mem (port fuel : Nat) (s : State) : (pump port fuel s).mem = s.mem := by
  induction fuel generalizing s with
  | zero => rfl
  | succ fuel ih =>
    unfold pump
    dsimp only
    split
    · rfl
    · split
      · rfl
      · exact (ih _).trans (by simp)
@[simp] theorem sendPacket_mem (s : State) (p : Packet) : (sendPacket s p).mem = s.mem := by
  unfold sendPacket
  split <;> simp
@[simp] theorem sendOwed_mem (s : State) : (sendOwed s).mem = s.mem :=
  foldl_mem (fun _ _ => by simp) _ _
@[simp] theorem sendFrames_mem (s : State) : (sendFrames s).mem = s.mem := by
  unfold sendFrames
  extract_lets t l
  have ht : t.mem = s.mem := foldl_mem (fun u e => by simp) _ _
  rw [sendOwed_mem]
  split
  · exact ht
  · exact Eq.trans (foldl_mem (fun u e => sendPacket_mem ..) _ _) ht

/-! ## Rekeying (R371) -/

@[simp] theorem execRekey_kept (s : State) : Kept s (execRekey s) := by
  unfold execRekey
  split <;> simp
@[simp] theorem takeRekeyAck_mem (s : State) (port : Nat) : (takeRekeyAck s port).mem = s.mem := by simp [takeRekeyAck]

/-! ## What a packet does here -/

@[simp] theorem streamAnswer_mem (s : State) (tag : Nat) (res : RepRes) : (streamAnswer s tag res).mem = s.mem := by
  unfold streamAnswer
  split <;> simp
@[simp] theorem takeAnswer_mem (s : State) (tag : Nat) (res : RepRes) : (takeAnswer s tag res).mem = s.mem := by simp [takeAnswer]
@[simp] theorem backEntry_mem (s : State) (m : ShipMsg) : (backEntry s m).mem = s.mem := by
  unfold backEntry
  split <;> simp
@[simp] theorem takeNack_mem (s : State) (m : ShipMsg) : (takeNack s m).mem = s.mem := by
  unfold takeNack
  dsimp only
  split <;> simp
@[simp] theorem takeJoin_mem (s : State) (m : Nat) (cap : Word) : (takeJoin s m cap).mem = s.mem := by simp [takeJoin]
@[simp] theorem takeJoinReply_mem (s : State) (ivl m count : Nat) (mods : FMap Word) (ups : List (Nat × Nat)) :
    (takeJoinReply s ivl m count mods ups).mem = s.mem := by
  simp [takeJoinReply]
@[simp] theorem takeLoaded_mem (s : State) (m : Nat) : (takeLoaded s m).mem = s.mem := by simp [takeLoaded]
@[simp] theorem takeDrained_mem (s : State) (m : Nat) : (takeDrained s m).mem = s.mem := by simp [takeDrained]
@[simp] theorem takeOrdAck_mem (s : State) (k : Nat) : (takeOrdAck s k).mem = s.mem := by
  unfold takeOrdAck
  split <;> simp
@[simp] theorem modLinked_mem (s : State) (p : Core → Bool) (f : Core → Core) : (modLinked s p f).mem = s.mem := rfl
@[simp] theorem joinUp_mem (s : State) (frm : Nat) (e : QEntry) : (joinUp s frm e).mem = s.mem := rfl
@[simp] theorem unjobGo_mem (s : State) (rto : ReplyTo) : (unjobGo s rto).mem = s.mem := by simp [unjobGo]
@[simp] theorem alsoSaved_mem (s : State) (p : Packet) : (alsoSaved s p).mem = s.mem := by
  unfold alsoSaved
  split <;> simp

/-! ## Tables (R374, R376) -/

@[simp] theorem execRoutingTableLoad_kept (s : State) : Kept s (execRoutingTableLoad s) := by
  unfold execRoutingTableLoad
  split
  · rw [kept_next]
    split
    · dsimp only
      split
      · exact (takeLoaded_mem ..).trans (foldl_mem (fun u e => emit_mem ..) _ _)
      · exact emit_mem ..
    · rfl
  · exact kept_next.2 rfl
@[simp] theorem execActivate_kept (s : State) : Kept s (execActivate s) := by
  unfold execActivate
  dsimp only
  (repeat' split) <;> simp
@[simp] theorem execDrain_kept (s : State) : Kept s (execDrain s) := by
  unfold execDrain
  split <;> simp
@[simp] theorem execRetire_kept (s : State) : Kept s (execRetire s) := by
  unfold execRetire
  split <;> simp

/-! ## Joining (R380) -/

@[simp] theorem execJoin_kept (s : State) : Kept s (execJoin s) := by
  unfold execJoin
  split <;> simp

/-! ## The watchdog -/

@[simp] theorem fabricReset_mem (s : State) : (fabricReset s).mem = s.mem := rfl
@[simp] theorem kick_mem (s : State) : (kick s).mem = s.mem := rfl
@[simp] theorem execWdkick_kept (s : State) : Kept s (execWdkick s) := by
  unfold execWdkick
  split <;> simp

/-! ## The capper and temperatures (R25, R384, R385) -/

@[simp] theorem execCapperWindow_kept (s : State) : Kept s (execCapperWindow s) := by
  unfold execCapperWindow
  split <;> simp

/-! ## Ageing (R382, R383) -/

@[simp] theorem execAgeingMonitorUpdate_kept (s : State) : Kept s (execAgeingMonitorUpdate s) := by
  unfold execAgeingMonitorUpdate
  split <;> simp
@[simp] theorem execReplan_kept (s : State) : Kept s (execReplan s) := by
  unfold execReplan
  split <;> simp

/-! ## Administration commands (R357, R365) -/

@[simp] theorem createQueue_mem (s : State) : (createQueue s).mem = s.mem := by simp [createQueue]
@[simp] theorem execCreateQueue_kept (s : State) : Kept s (execCreateQueue s) := by simp [execCreateQueue]
@[simp] theorem removeQueue_mem (s : State) : (removeQueue s).mem = s.mem := by
  unfold removeQueue
  dsimp only
  (repeat' split) <;> simp
@[simp] theorem execRemoveQueue_kept (s : State) : Kept s (execRemoveQueue s) := by simp [execRemoveQueue]
@[simp] theorem setWindow_mem (s : State) : (setWindow s).mem = s.mem := by
  unfold setWindow
  dsimp only
  (repeat' split) <;> simp
@[simp] theorem execSetWindow_kept (s : State) : Kept s (execSetWindow s) := by simp [execSetWindow]
@[simp] theorem assignRange_mem (d n f : Nat) (s : State) : (assignRange d n f s).1.mem = s.mem := by
  induction n generalizing f s with
  | zero => rfl
  | succ n ih =>
    unfold assignRange
    dsimp only
    split
    · exact (ih ..).trans (patPut_mem ..)
    · exact patPut_mem ..
@[simp] theorem assignFrames_mem (s : State) : (assignFrames s).mem = s.mem := by
  unfold assignFrames
  extract_lets d f n
  have h := assignRange_mem d n f s
  split
  · simp
  · split
    · simp
    · split <;> rename_i he <;> rw [he] at h <;> simpa using h
@[simp] theorem execAssignFrames_kept (s : State) : Kept s (execAssignFrames s) := by simp [execAssignFrames]
@[simp] theorem releaseFrames_mem (s : State) : (releaseFrames s).mem = s.mem := by
  unfold releaseFrames
  dsimp only
  split
  · simp
  · split
    · simp
    · split
      · simp
      · rw [admDone_mem]
        exact foldl_mem (fun _ _ => by simp) _ _
@[simp] theorem execReleaseFrames_kept (s : State) : Kept s (execReleaseFrames s) := by simp [execReleaseFrames]
@[simp] theorem readMapping_mem (s : State) : (readMapping s).mem = s.mem := by simp [readMapping]
@[simp] theorem execReadMapping_kept (s : State) : Kept s (execReadMapping s) := by simp [execReadMapping]
@[simp] theorem execUnknownAdminOpcode_kept (s : State) : Kept s (execUnknownAdminOpcode s) := by simp [execUnknownAdminOpcode]
@[simp] theorem admGo_mem (s : State) : (admGo s).mem = s.mem := by simp [admGo]

/-! ## CXL.mem (R355, R365) -/

@[simp] theorem hostRead_mem (s : State) (a n : Nat) (ide : Option Nat) : (hostRead s a n ide).mem = s.mem := by
  unfold hostRead
  extract_lets pas t
  have ht : t.mem = s.mem := foldl_mem (fun _ _ => by simp) _ _
  clear_value t
  split
  · simp
  · split
    · simp
    · split
      · simp
      · split
        · simp
        · split <;> simp [ht]
@[simp] theorem execHostMemRead_kept (s : State) : Kept s (execHostMemRead s) := by
  unfold execHostMemRead
  split <;> simp

/-! ## Firmware (R359 to R361) -/

@[simp] theorem fwResult_mem (s : State) (n : Nat) : (fwResult s n).mem = s.mem := rfl
@[simp] theorem execVerifyAndStart_kept (s : State) : Kept s (execVerifyAndStart s) := by
  unfold execVerifyAndStart
  split <;> simp
@[simp] theorem execVerifyAndSwap_kept (s : State) : Kept s (execVerifyAndSwap s) := by
  unfold execVerifyAndSwap
  split <;> simp
@[simp] theorem runImage_mem (s : State) (n : Nat) : (runImage s n).mem = s.mem := by simp [runImage]
@[simp] theorem verify_mem (s : State) : (verify s).mem = s.mem := by simp [verify]
@[simp] theorem execFirmwareVerification_kept (s : State) : Kept s (execFirmwareVerification s) := by
  unfold execFirmwareVerification
  split
  · rw [kept_next]
    split
    · rfl
    · split
      · simp
      · exact cpLook_mem fun t => verify_mem ..
  · exact kept_next.2 rfl
@[simp] theorem installHandlers_mem (s : State) (l : List Word) : (installHandlers s l).mem = s.mem :=
  (Trust.installHandlers_keeps s l).2
@[simp] theorem safePoint_mem (s : State) (l : List Word) : (safePoint s l).mem = s.mem := by simp [safePoint]
@[simp] theorem execQueueSafePoint_kept (s : State) : Kept s (execQueueSafePoint s) := by
  unfold execQueueSafePoint
  split <;> simp

/-! ## Attestation and interfaces (R362 to R367) -/

@[simp] theorem attest_mem (s : State) (l : List Byte) : (attest s l).2.mem = s.mem := rfl
@[simp] theorem execGetMeasurements_kept (s : State) : Kept s (execGetMeasurements s) := by
  unfold execGetMeasurements
  split <;> simp
@[simp] theorem spdmAnswer_mem (s : State) (d : Nat) (x : SpdmAsk) : (spdmAnswer s d x).mem = s.mem := by
  unfold spdmAnswer
  split <;> simp
@[simp] theorem execSpdmRequest_kept (s : State) : Kept s (execSpdmRequest s) := by
  unfold execSpdmRequest
  split <;> simp
@[simp] theorem execLock_kept (s : State) : Kept s (execLock s) := by
  unfold execLock
  split <;> simp
@[simp] theorem execStartRequest_kept (s : State) : Kept s (execStartRequest s) := by
  unfold execStartRequest
  split <;> simp
@[simp] theorem execGetDeviceInterfaceReport_kept (s : State) : Kept s (execGetDeviceInterfaceReport s) := by
  unfold execGetDeviceInterfaceReport
  split <;> simp
@[simp] theorem breach_mem (s : State) (d : Nat) : (breach s d).mem = s.mem := rfl
@[simp] theorem execVfConfigWrite_kept (s : State) : Kept s (execVfConfigWrite s) := by
  unfold execVfConfigWrite
  split <;> simp

/-! ## Registers (R5, R356) -/

@[simp] theorem stackWrite_mem (s : State) (k off : Nat) (v : Word) : (stackWrite s k off v).mem = s.mem := by
  unfold stackWrite
  split <;> simp
@[simp] theorem fabWrite_mem (s : State) (off : Nat) (v : Word) : (fabWrite s off v).mem = s.mem := by
  unfold fabWrite
  split <;> simp
@[simp] theorem barWrite_mem (s : State) (host : Bool) (off : Nat) (v : Word) : (barWrite s host off v).mem = s.mem := by
  unfold barWrite
  split <;> simp
@[simp] theorem regWrite_mem (s : State) (host : Bool) (off : Nat) (v : Word) : (regWrite s host off v).mem = s.mem :=
  (HostSide.spares_regWrite s host off v).1
@[simp] theorem clearErr_mem (s : State) (q : Nat) : (clearErr s q).mem = s.mem := by
  unfold clearErr
  split <;> simp
@[simp] theorem execRegisterWrite_kept (s : State) : Kept s (execRegisterWrite s) := by
  unfold execRegisterWrite
  split <;> simp

/-! ## The instructions -/

@[simp] theorem setX_mem (s : State) (n r : Nat) (v : Word) : (setX s n r v).mem = s.mem := by simp [setX]
@[simp] theorem setF_mem (s : State) (n r : Nat) (v : Word) (flags : Nat) : (setF s n r v flags).mem = s.mem := rfl
@[simp] theorem raise_mem (s : State) (n flags : Nat) : (raise s n flags).mem = s.mem := rfl

/-! ## After every step -/

@[simp] theorem settleQueues_mem (s : State) (c : Nat) : (settleQueues s c).mem = s.mem := by
  unfold settleQueues
  dsimp only
  exact (foldl_mem (fun _ _ => by simp) _ _).trans (by simp)
@[simp] theorem settleAll_mem (s : State) : (settleAll s).mem = s.mem := by
  unfold settleAll
  extract_lets t u
  have ht : t.mem = s.mem := serveJobReqs_mem ..
  have hu : u.mem = t.mem := foldl_mem settleQueues_mem _ _
  exact (sendFrames_mem ..).trans (hu.trans ht)

/-! ## Line fills (R88) -/

@[simp] theorem startFill_mem (s : State) (a : TRef) (va : Word) : (startFill s a va).mem = s.mem := rfl

/-! ## Issue (R90 to R93) -/

@[simp] theorem startIssue_mem (s : State) (a : TRef) (len : Nat) (srcs dsts : List Reg) :
    (startIssue s a len srcs dsts).mem = s.mem :=
  rfl

/-! ## The step -/

@[simp] theorem tick_mem (s : State) (n : Nat) : (tick s n).mem = s.mem := rfl
end Sys2Proof.Proofs.MemoryForm
end

section
/-!
PROOFS. WHAT STATEMENT O58 RESTS ON, SECOND PART, AND ITS PROOF. The functions that do write memory keep it canonical: a write, a
page set up or wiped, a rollback, the cells of an index that ends, a reset. Then each instruction and event, each turn, and the step.
Everything else is `MemoryForm`'s; the proof of statement O58.
-/
namespace Sys2Proof.Proofs.CanonicalMemory
open Sys2Proof Sys2Proof.Machine MemoryForm

variable {α β : Type} {s t : State}

/-- Where an outcome is a next state, its memory is canonical. -/
def NextOk (o : Out) : Prop := ∀ t, o = .next t → State.MemOk t

theorem nextOk_next (h : State.MemOk t) : NextOk (.next t) := fun _ ht => Host.Outcome.next.inj ht ▸ h
theorem memOk_of_mem (hs : State.MemOk s) (h : t.mem = s.mem) : State.MemOk t := by
  rw [State.MemOk, h]
  exact hs
theorem nextOk_of_kept {o : Out} (hs : State.MemOk s) (h : Kept s o) : NextOk o := by
  obtain ⟨t, rfl, ht⟩ := h
  exact nextOk_next (memOk_of_mem hs ht)
theorem memOk_foldl {α : Type} {f : State → α → State} (h : ∀ s a, State.MemOk s → State.MemOk (f s a)) (l : List α) (hs : State.MemOk s) :
    State.MemOk (l.foldl f s) := by
  induction l generalizing s with
  | nil => exact hs
  | cons a l ih => exact ih (h s a hs)

/-! ## Writes, and what serves a request -/

theorem memOk_physPut (hs : State.MemOk s) (pa : Nat) (l : List Byte) : State.MemOk (physPut s pa l) := by
  unfold physPut
  rw [State.MemOk, putKepts_mem]
  exact msets_wf (memOk_of_mem hs (by simp)) pa l
theorem memOk_physWrite (hs : State.MemOk s) (pa n : Nat) (x : Word) : State.MemOk (physWrite s pa n x) :=
  memOk_physPut hs pa _
theorem memOk_lookAt {pa n : Nat} {stop ok : State → State} (hs : State.MemOk s) (hstop : ∀ t, State.MemOk t → State.MemOk (stop t))
    (hok : ∀ t, State.MemOk t → State.MemOk (ok t)) : State.MemOk (lookAt s pa n stop ok) := by
  unfold lookAt
  split
  · exact hstop _ (memOk_of_mem hs (by simp))
  · split
    · exact hstop _ (memOk_of_mem hs (by simp))
    · exact hok _ (memOk_of_mem hs (by simp))
theorem memOk_cpLook {a n : Nat} {k : State → State} (hs : State.MemOk s) (hk : ∀ t, State.MemOk t → State.MemOk (k t)) :
    State.MemOk (cpLook s a n k) := by
  unfold cpLook
  split
  · exact memOk_of_mem hs (by simp)
  · split
    · exact memOk_of_mem hs (by simp)
    · exact hk _ (memOk_of_mem hs (by simp))
theorem nextOk_tauServe {r : TauReq} {reads : Bool} {k : State → State} (hs : State.MemOk s)
    (hk : ∀ t, State.MemOk t → State.MemOk (k t)) : NextOk (tauServe s r reads k) := by
  unfold tauServe
  split
  · exact nextOk_next (memOk_of_mem hs (by simp))
  · split
    · exact nextOk_next (memOk_of_mem hs (by simp))
    · dsimp only
      split
      · exact nextOk_next (memOk_of_mem hs (by simp))
      · exact nextOk_next (hk _ (memOk_of_mem hs (by simp)))
theorem memOk_tauChanges {pa : Nat} {k : State → State} (hs : State.MemOk s) (hk : ∀ t, State.MemOk t → State.MemOk (k t)) :
    State.MemOk (tauChanges s pa k) := by
  unfold tauChanges
  split
  · exact memOk_of_mem hs (by simp)
  · exact hk s hs
theorem memOk_tauReads {pa : Nat} {k : State → State} (hs : State.MemOk s) (hk : ∀ t, State.MemOk t → State.MemOk (k t)) :
    State.MemOk (tauReads s pa k) := by
  unfold tauReads
  split
  · exact memOk_of_mem hs (by simp)
  · exact hk s hs

/-! ## The full/empty family and the atomics -/

theorem memOk_feServe (hs : State.MemOk s) (r : TauReq) (op : FeOp) (data : Word) (dst : Reg) : State.MemOk (feServe s r op data dst) := by
  unfold feServe
  extract_lets u x
  have hu : State.MemOk u := memOk_of_mem hs (by simp [u])
  clear_value u
  cases op with
  | ldfe => exact memOk_of_mem hu (by simp)
  | ldff => exact memOk_of_mem hu (by simp)
  | stfe => exact memOk_of_mem (memOk_physWrite hu r.pa 8 data) (by simp)
  | stff => exact memOk_of_mem (memOk_physWrite hu r.pa 8 data) (by simp)
  | ldx => exact memOk_of_mem hu (by simp)
  | fes full => exact memOk_of_mem hu (by simp)
theorem memOk_serveWaiter (hs : State.MemOk s) (word : Nat) (w : Waiter) : State.MemOk (serveWaiter s word w) := by
  cases w with
  | fe r op data dst limit at_ =>
    unfold serveWaiter
    dsimp only
    split
    · exact memOk_of_mem hs (by simp)
    · exact memOk_feServe hs ..
  | chain m =>
    unfold serveWaiter
    dsimp only
    split
    · exact memOk_of_mem hs (by simp)
    · split <;> exact memOk_of_mem hs (by simp)
theorem memOk_settle (word fuel : Nat) (hs : State.MemOk s) : State.MemOk (settle word fuel s) := by
  induction fuel generalizing s with
  | zero => exact hs
  | succ fuel ih =>
    unfold settle
    split
    · exact hs
    · split
      · exact hs
      · extract_lets go
        have hgo : ∀ t, State.MemOk t → State.MemOk (go t) := fun t ht =>
          ih (memOk_serveWaiter (memOk_of_mem ht (by simp)) ..)
        split
        · exact memOk_lookAt hs (fun _ h => h) hgo
        · exact hgo s hs
theorem memOk_feArrive (hs : State.MemOk s) (r : TauReq) (op : FeOp) (data : Word) (dst : Reg) (limit : Option Nat) :
    State.MemOk (feArrive s r op data dst limit) := by
  unfold feArrive
  extract_lets word now
  clear_value now
  split
  · split
    · exact memOk_of_mem hs (by simp)
    · exact memOk_settle _ _ (memOk_feServe hs ..)
  · split <;> exact memOk_of_mem hs (by simp)
theorem nextOk_execTauStore (hs : State.MemOk s) : NextOk (execTauStore s) := by
  unfold execTauStore
  split
  · split
    · refine nextOk_next (memOk_of_mem hs ?_)
      split <;> simp
    · exact nextOk_next (memOk_tauChanges hs fun t ht => memOk_of_mem (memOk_physWrite ht ..) (post_mem ..))
  · exact nextOk_next hs
theorem nextOk_execFeRequest (hs : State.MemOk s) : NextOk (execFeRequest s) := by
  unfold execFeRequest
  split
  · refine nextOk_tauServe hs fun t ht => ?_
    split
    · exact memOk_of_mem ht (by simp)
    · exact memOk_feArrive ht ..
  · exact nextOk_next hs
theorem nextOk_execScqRequest (hs : State.MemOk s) : NextOk (execScqRequest s) := by
  unfold execScqRequest
  split
  next r data _ _ =>
    exact nextOk_tauServe hs fun t ht => memOk_tauChanges ht fun u hu => memOk_of_mem (memOk_physWrite hu r.pa 8 data) (by simp)
  · exact nextOk_next hs
theorem nextOk_execAmoRequest (hs : State.MemOk s) : NextOk (execAmoRequest s) := by
  unfold execAmoRequest
  split
  · refine nextOk_tauServe hs fun t ht => memOk_tauReads ht fun u hu => ?_
    dsimp only
    split
    · exact memOk_tauChanges hu fun v hv => memOk_of_mem (memOk_physWrite hv ..) (answer_mem ..)
    · exact memOk_of_mem hu (by simp)
  · exact nextOk_next hs
theorem nextOk_execAmofRequest (hs : State.MemOk s) : NextOk (execAmofRequest s) := by
  unfold execAmofRequest
  split
  · exact nextOk_tauServe hs fun t ht => memOk_tauReads ht fun u hu => memOk_tauChanges hu fun v hv =>
      memOk_of_mem (memOk_physWrite hv ..) (answer_mem ..)
  · exact nextOk_next hs
theorem nextOk_execAmoxRequest (hs : State.MemOk s) : NextOk (execAmoxRequest s) := by
  unfold execAmoxRequest
  split
  · exact nextOk_tauServe hs fun t ht => memOk_tauReads ht fun u hu => memOk_tauChanges hu fun v hv =>
      memOk_of_mem (memOk_physPut hv ..) (answer_mem ..)
  · exact nextOk_next hs

/-! ## `rcll`, and the words that a copy job writes -/

theorem memOk_rcllWord (hs : State.MemOk s) (pa : Nat) (x : Word) : State.MemOk (rcllWord s pa x) :=
  memOk_settle _ _ (memOk_of_mem (memOk_physWrite hs pa 8 x) (by simp))
theorem memOk_rcllCopy (hs : State.MemOk s) (sp : Space) (off pa : Nat) : State.MemOk (rcllCopy s sp off pa) :=
  memOk_foldl (fun _ _ ht => memOk_rcllWord ht ..) _ hs
theorem memOk_finish (len : Nat) (p : Bool) {e : Eff} (h : State.MemOk (effState e)) : State.MemOk (finish len p e) :=
  memOk_of_mem h (finish_mem len p e)
theorem memOk_runI {len : Nat} {srcs dsts : List Reg} {body : State → Eff} (hs : State.MemOk s)
    (h : State.MemOk (effState (body s))) : State.MemOk (runI len srcs dsts s body) := by
  unfold runI
  dsimp only
  split
  · exact memOk_of_mem hs (by simp)
  · split
    · exact memOk_of_mem hs (by simp)
    · split
      · exact hs
      · split
        · exact hs
        · split
          · exact memOk_of_mem hs (by simp)
          · exact memOk_finish _ _ h
theorem memOk_pageReady {pa : Nat} {k : State → Eff} (hs : State.MemOk s) (hk : State.MemOk (effState (k s))) :
    State.MemOk (effState (pageReady s pa k)) := by
  unfold pageReady
  split
  · exact memOk_of_mem hs (by simp)
  · split
    · exact memOk_of_mem hs (by simp)
    · exact hk
theorem nextOk_execRcll (a b c : Reg) (hs : State.MemOk s) : NextOk (execRcll a b c s) := by
  refine nextOk_next (memOk_runI hs ?_)
  dsimp only
  split
  · exact memOk_of_mem hs (by simp)
  · refine memOk_pageReady hs ?_
    split
    · exact memOk_of_mem hs (by simp)
    · split
      · exact memOk_of_mem hs (by simp)
      · exact memOk_of_mem (memOk_rcllCopy hs ..) (post_mem ..)
theorem memOk_engWrite (hs : State.MemOk s) (cl : Nat) (l : Option Nat) (va x : Word) (rem : Option (Option RepRes)) (tag : Nat) :
    State.MemOk (engState (engWrite s cl l va x rem tag)) := by
  unfold engWrite engAnswer
  split
  · split
    · exact memOk_of_mem hs (by simp)
    · exact memOk_of_mem hs (by simp)
    · exact hs
    · exact hs
    · exact memOk_of_mem hs (by simp)
    · split
      · exact hs
      · split
        · exact memOk_of_mem hs (by simp)
        · split
          · exact hs
          · exact memOk_physWrite hs ..
  · exact hs
  · exact hs
  · exact memOk_of_mem hs (by simp)
theorem nextOk_copyoWord (cl : Nat) (j : CpJob) (hs : State.MemOk s) : NextOk (copyoWord cl s j) := by
  unfold copyoWord
  extract_lets off
  split
  · exact nextOk_of_kept hs (cpRead_kept fun t i x => cpPut_mem ..)
  next x _ =>
    have h := memOk_engWrite hs cl j.launch (j.desc.getD 1 0 + off) x j.rem (copyTag cl)
    split <;> rename_i he <;> rw [he] at h
    · refine nextOk_next (memOk_of_mem h ?_)
      split <;> simp
    · exact nextOk_next (memOk_of_mem h (by simp))
    · exact nextOk_next h
    · exact nextOk_next (memOk_of_mem h (by simp))
theorem nextOk_execCopyoJob (hs : State.MemOk s) : NextOk (execCopyoJob s) := by
  unfold execCopyoJob cpStep
  split
  · split
    · split
      · exact nextOk_next hs
      · split
        · exact nextOk_next (memOk_of_mem hs (by simp))
        · split
          · exact nextOk_next (memOk_of_mem hs (by simp))
          · exact nextOk_copyoWord _ _ hs
    · exact nextOk_next hs
  · exact nextOk_next hs

/-! ## Reset, rollback, the watchdog and the links -/

theorem memOk_resetModule (s : State) : State.MemOk (resetModule s) :=
  memOk_of_mem (s := State.reset) rfl (train_mem ..)
theorem memOk_failModule (s : State) (cause : Nat) : State.MemOk (failModule s cause) := memOk_resetModule _
theorem memOk_replay (l : List VRec) (hs : State.MemOk s) : State.MemOk (replay s l) :=
  memOk_foldl (fun t r ht => by exact msets_wf ht _ _) l hs
theorem memOk_restoreSeal (m cause : Nat) (hs : State.MemOk s) : State.MemOk (restoreSeal s m cause) := by
  unfold restoreSeal
  extract_lets s1 s2 w w' s3 s4 s5 s6 rbc s7
  have h1 : State.MemOk s1 := memOk_of_mem hs (discardAfter_mem ..)
  have h2 : State.MemOk s2 := memOk_foldl (fun t e ht => memOk_replay e.2 ht) _ h1
  have h3 : State.MemOk s3 := memOk_of_mem h2 (by simp only [s3, abandonMoves_mem, loadWork_mem])
  clear_value s3
  have h4 : State.MemOk s4 := memOk_of_mem h3 (by dsimp only [s4]; split <;> simp)
  clear_value s4
  have h5 : State.MemOk s5 := memOk_of_mem h4 (by dsimp only [s5]; split <;> simp)
  clear_value s5
  have h7 : State.MemOk s7 := memOk_of_mem h5 (by simp only [s7, s6, dropTraffic_mem])
  clear_value s7
  exact memOk_of_mem h7 (by rw [toHost_mem])
theorem memOk_rollbackGo (m cause : Nat) (hs : State.MemOk s) : State.MemOk (rollbackGo s m cause) := by
  unfold rollbackGo
  extract_lets u
  have hu : State.MemOk u := memOk_of_mem hs (by dsimp only [u]; split <;> simp)
  split
  · exact memOk_failModule ..
  · exact memOk_restoreSeal m cause hu
theorem nextOk_execRollback (hs : State.MemOk s) : NextOk (execRollback s) := by
  unfold execRollback
  split
  · exact nextOk_next (memOk_rollbackGo _ _ hs)
  · exact nextOk_next hs
theorem memOk_failReporter (cause m : Nat) (hs : State.MemOk s) : State.MemOk (failReporter s cause m) := by
  unfold failReporter
  split
  · exact memOk_failModule ..
  · exact memOk_of_mem hs (by simp)
theorem memOk_triggerGo (cause reporter : Nat) (hs : State.MemOk s) : State.MemOk (triggerGo s cause reporter) := by
  unfold triggerGo
  extract_lets m
  split
  · split
    · exact memOk_failReporter _ _ hs
    · exact hs
  · split
    · exact memOk_failReporter _ _ hs
    · exact memOk_of_mem hs (by simp)
theorem nextOk_execRollbackTrigger (hs : State.MemOk s) : NextOk (execRollbackTrigger s) := by
  unfold execRollbackTrigger
  split
  · refine nextOk_next ?_
    split
    · exact memOk_triggerGo _ _ hs
    · exact memOk_of_mem hs (by simp)
  · exact nextOk_next hs
theorem memOk_levelAction (n : Nat) (hs : State.MemOk s) : State.MemOk (levelAction s n) := by
  unfold levelAction
  split
  · exact memOk_of_mem hs (foldl_mem (fun t n => modCp_mem ..) _ _)
  · exact memOk_of_mem hs (by simp)
  · exact memOk_of_mem hs (by simp)
  · exact memOk_of_mem hs (by simp)
  · exact memOk_resetModule _
  · exact hs
theorem memOk_enterLevel (n cause : Nat) (hs : State.MemOk s) : State.MemOk (enterLevel s n cause) := by
  unfold enterLevel
  exact memOk_levelAction n hs
theorem memOk_hang (cause : Nat) (hs : State.MemOk s) : State.MemOk (hang s cause) := memOk_enterLevel _ _ hs
theorem nextOk_execKickTimeout (hs : State.MemOk s) : NextOk (execKickTimeout s) := by
  unfold execKickTimeout
  split
  · refine nextOk_next ?_
    split
    · exact memOk_enterLevel (s := { s with wd := { s.wd with lastK := s.cycle, kicks := 0 } }) _ _ hs
    · exact hs
  · exact nextOk_next hs
theorem nextOk_execCoreHang (hs : State.MemOk s) : NextOk (execCoreHang s) := by
  unfold execCoreHang
  split
  · refine nextOk_next ?_
    split
    · exact memOk_hang _ hs
    · exact hs
  · exact nextOk_next hs
theorem nextOk_execSealHang (hs : State.MemOk s) : NextOk (execSealHang s) := by
  unfold execSealHang
  split
  · refine nextOk_next ?_
    split
    · exact memOk_hang (s := { s with wd := { s.wd with hungAt := some s.sl.since } }) _ hs
    · exact hs
  · exact nextOk_next hs
theorem memOk_tripModule (s : State) : State.MemOk (tripModule s) := memOk_resetModule s
theorem nextOk_execTemperatureReading (hs : State.MemOk s) : NextOk (execTemperatureReading s) := by
  unfold execTemperatureReading
  split
  · extract_lets t u v
    have hv : State.MemOk v := memOk_of_mem hs (by dsimp only [v, u]; (repeat' split) <;> simp)
    refine nextOk_next ?_
    split
    · exact memOk_tripModule _
    · exact hv
  · exact nextOk_next hs
theorem nextOk_execThermalTrip (hs : State.MemOk s) : NextOk (execThermalTrip s) := by
  unfold execThermalTrip
  split
  · exact nextOk_next (memOk_tripModule s)
  · exact nextOk_next hs
theorem nextOk_execReset (hs : State.MemOk s) : NextOk (execReset s) := by
  unfold execReset
  split
  · exact nextOk_next (memOk_resetModule s)
  · exact nextOk_next hs
theorem nextOk_execPowerDown (hs : State.MemOk s) : NextOk (execPowerDown s) := by
  unfold execPowerDown
  split
  · exact nextOk_next (memOk_of_mem (s := State.reset) rfl rfl)
  · exact nextOk_next hs

/-! ## The pages of a launch and the binding table -/

theorem wf_filter {m : List Host.Cell} (h : Memory.wf m = true) (p : Host.Cell → Bool) : Memory.wf (m.filter p) = true := by
  suffices h : ∀ b, cellsAbove b m = true → cellsAbove b (m.filter p) = true from h none ‹_›
  intro b hb
  clear h
  induction m generalizing b with
  | nil => rfl
  | cons c m ih =>
    simp only [cellsAbove, Bool.and_eq_true] at hb
    obtain ⟨⟨hk, hx⟩, hm⟩ := hb
    rw [List.filter_cons]
    split
    · simp only [cellsAbove, Bool.and_eq_true]
      exact ⟨⟨hk, hx⟩, ih _ hm⟩
    · refine ih b (cellsAbove_mono hm fun n hn => ⟨c.1, rfl, ?_⟩)
      subst hn
      simpa using le_of_lt (of_decide_eq_true hk)
theorem memOk_mapPage (pa : Nat) (hs : State.MemOk s) : State.MemOk (mapPage s pa) := by
  unfold mapPage
  extract_lets u inPage v
  have hu : u.mem = s.mem := foldl_mem (fun t k => by simp) _ _
  have hv : State.MemOk v := by
    show Memory.wf (u.mem.filter fun c => !inPage c.1) = true
    rw [hu]
    exact wf_filter hs _
  exact memOk_foldl (fun t e ht => memOk_settle _ _ ht) _ hv
theorem memOk_preload (pa : Nat) (l : List Byte) (hs : State.MemOk s) : State.MemOk (preload s pa l) :=
  msets_wf (memOk_mapPage pa hs) pa l
theorem memOk_rewrite (pa : Nat) (w : Word) (hs : State.MemOk s) : State.MemOk (rewrite s pa w) := memOk_physWrite hs ..
theorem memOk_writeTable (base : Nat) (b : Binder) (img : Image) (hs : State.MemOk s) : State.MemOk (writeTable s base b img) := by
  unfold writeTable
  extract_lets u
  have hu : State.MemOk u := memOk_foldl (fun t i ht => memOk_physWrite ht ..) _ hs
  exact memOk_foldl (fun t e ht => memOk_rewrite _ _ ht) _ hu
theorem memOk_build (l : Nat) (x : Launch) (hs : State.MemOk s) : State.MemOk (build s l x) := by
  unfold build
  extract_lets img b idxF s1 s2 s3 s4
  have h1 : State.MemOk s1 := memOk_of_mem (memOk_writeTable x.table b img hs) (setBindg_mem ..)
  have h2 : s2.mem = s1.mem := foldl_mem (fun t e => (modCore_mem ..).trans (modCore_mem ..)) _ _
  have h3 : s3.mem = s2.mem := Eq.trans (foldl_mem (fun t e => fillBuf_mem ..) _ _) (clearTellers_mem ..)
  have h4 : s4.mem = s3.mem := foldl_mem (fun t e => newIndex_mem ..) _ _
  refine memOk_of_mem h1 ?_
  rw [sendRoles_mem, modLaunch_mem, h4, h3, h2]
theorem memOk_setupGo (l : Nat) (x : Launch) (hs : State.MemOk s) : State.MemOk (setupGo s l x) := by
  unfold setupGo
  split
  · split
    · exact hs
    · exact memOk_of_mem (memOk_preload _ _ hs) (modLaunch_mem ..)
  · split
    · exact hs
    · exact memOk_build l x hs
  · exact hs
theorem memOk_takeRoles (x : Launch) (m : RoleMsg) (hs : State.MemOk s) : State.MemOk (takeRoles s x m) :=
  memOk_foldl (fun _ _ ht => memOk_rewrite _ _ ht) _ hs
theorem memOk_start (l : Nat) (x : Launch) (hs : State.MemOk s) : State.MemOk (Machine.start s l x) := by
  unfold Machine.start
  extract_lets ms djob s1 s2 s3 s4 s5 s6
  have h2 : State.MemOk s2 := memOk_foldl (fun t m ht => memOk_takeRoles x m ht) _ (show State.MemOk s1 from hs)
  have h3 : s3.mem = s2.mem := foldl_mem (fun t e => crossLink_mem ..) _ _
  have h4 : s4.mem = s3.mem := modLaunch_mem ..
  have h5 : s5.mem = s4.mem := foldl_mem (fun t c => modCore_mem ..) _ _
  have h6 : s6.mem = s5.mem := foldl_mem (fun t e => startControl_mem ..) _ _
  have h : State.MemOk s6 := memOk_of_mem h2 (by rw [h6, h5, h4, h3])
  split
  · exact h
  · exact h
theorem nextOk_execLaunchStart (hs : State.MemOk s) : NextOk (execLaunchStart s) := by
  unfold execLaunchStart
  split
  · split
    · refine nextOk_next ?_
      split
      · exact memOk_start _ _ hs
      · split
        · exact memOk_setupGo _ _ hs
        · exact hs
    · exact nextOk_next hs
  · exact nextOk_next hs
theorem memOk_unbindRoles (table : Nat) (hs : State.MemOk s) : State.MemOk (unbindRoles s table) := by
  refine memOk_foldl (fun t i ht => ?_) _ hs
  dsimp only
  split
  · exact memOk_rewrite _ _ ht
  · exact ht
theorem wf_foldl_mset {m : List Host.Cell} (h : Memory.wf m = true) (l : List Host.Cell) :
    Memory.wf (l.foldl (fun m e => mset m e.1 e.2) m) = true := by
  induction l generalizing m with
  | nil => exact h
  | cons e l ih => exact ih (mset_wf h e.1 e.2)
theorem memOk_leaveIndexes (l : Nat) (hs : State.MemOk s) : State.MemOk (leaveIndexes s l) := wf_foldl_mset hs _
theorem memOk_release (l : Nat) (x : Launch) (hs : State.MemOk s) : State.MemOk (release s l x) := by
  unfold release
  extract_lets b links s1 s2 s3
  have h1 : State.MemOk s1 := memOk_unbindRoles _ hs
  have h2 : State.MemOk s2 := memOk_of_mem h1 (by dsimp only [s2]; split <;> simp)
  have h3 : State.MemOk s3 := memOk_of_mem h2 (by simp only [s3])
  exact memOk_of_mem (memOk_leaveIndexes l h3) (foldl_mem (fun t c => freeCluster_mem ..) _ _)
theorem memOk_retireStep (l : Nat) (x : Launch) (hs : State.MemOk s) : State.MemOk (retireStep s l x) := by
  unfold retireStep
  split
  · split
    · exact memOk_of_mem hs (by simp)
    · exact hs
  · split
    · exact memOk_of_mem hs (by simp)
    · exact hs
  · split
    · exact hs
    · split <;> exact memOk_of_mem hs (by simp)
  · split
    · exact hs
    · split
      · exact hs
      · exact memOk_cpLook hs fun t ht => memOk_of_mem (memOk_release l x ht) (by simp)
  · exact hs
theorem nextOk_execRetirement (hs : State.MemOk s) : NextOk (execRetirement s) := by
  unfold execRetirement
  split
  · split
    · exact nextOk_next (memOk_retireStep _ _ hs)
    · exact nextOk_next hs
  · exact nextOk_next hs
theorem memOk_wipeFrame (f : Nat) (hs : State.MemOk s) : State.MemOk (wipeFrame s f) :=
  memOk_foldl (fun _ pa ht => memOk_mapPage pa ht) _ hs
theorem memOk_stopGo (d : Nat) (hs : State.MemOk s) : State.MemOk (stopGo s d) := by
  unfold stopGo
  split
  · extract_lets fs s1 s2
    have h1 : State.MemOk s1 := memOk_foldl (fun t f ht => memOk_wipeFrame f ht) _ hs
    have h2 : s2.mem = s1.mem := foldl_mem (fun t f => patPut_mem ..) _ _
    exact memOk_of_mem h1 ((toHost_mem ..).trans ((modIf_mem ..).trans h2))
  · exact memOk_of_mem hs (by simp)
theorem nextOk_execStop (hs : State.MemOk s) : NextOk (execStop s) := by
  unfold execStop
  split
  · refine nextOk_next ?_
    split
    · exact memOk_stopGo _ hs
    · exact memOk_of_mem hs (by simp)
  · exact nextOk_next hs

/-! ## Moves, readmission and switching -/

theorem memOk_rebind (table frm dst : Nat) (hs : State.MemOk s) : State.MemOk (rebind s table frm dst) :=
  memOk_foldl (fun _ _ ht => memOk_rewrite _ _ ht) _ hs
theorem memOk_moveCore (l : Nat) (x : Launch) (frm dst : Nat) (hs : State.MemOk s) : State.MemOk (moveCore s l x frm dst) := by
  unfold moveCore
  extract_lets s1 old s2 s3 s4 s5 s6 ents s7 s8 s9 us s10
  have h6 : s6.mem = s.mem := by
    simp only [s6, s5, s4, s3, s2, s1, tellMoved_mem, leaveCluster_mem, renState_mem, setCore_mem, moveBank_mem, restOf_mem]
  have h7 : State.MemOk s7 := memOk_of_mem (memOk_rebind x.table frm dst (memOk_of_mem hs h6)) (tellRanks_mem ..)
  have h9 : s9.mem = s7.mem := by rw [modCore_mem, setBindg_mem]
  have h10 : s10.mem = s9.mem := by simp only [s10]
  exact memOk_of_mem h7 ((foldl_mem (fun t u => post_mem ..) _ _).trans (h10.trans h9))
theorem memOk_streamed (c d : Nat) (hs : State.MemOk s) : State.MemOk (streamed s c d) := by
  unfold streamed
  split
  · exact hs
  · split
    · exact hs
    · split
      · exact hs
      · split
        · exact memOk_of_mem hs (by simp)
        · split
          · exact memOk_of_mem hs (by simp)
          · split
            · exact memOk_of_mem hs (by simp)
            · exact memOk_cpLook hs fun t ht => memOk_moveCore _ _ _ _ ht
theorem nextOk_execContextStreamComplete (hs : State.MemOk s) : NextOk (execContextStreamComplete s) := by
  unfold execContextStreamComplete
  split
  · exact nextOk_next (memOk_streamed _ _ hs)
  · exact nextOk_next hs
theorem memOk_rebindAll (x : Launch) (cls : List Nat) (f : Nat → Nat) (hs : State.MemOk s) : State.MemOk (rebindAll s x cls f) := by
  unfold rebindAll
  extract_lets es new u
  have hu : State.MemOk u := memOk_foldl (fun t e ht => memOk_rewrite _ _ ht) _ hs
  exact memOk_foldl (fun t e ht => memOk_rewrite _ _ ht) _ hu
theorem memOk_readmit (l : Nat) (x : Launch) (cls : List Nat) (hs : State.MemOk s) : State.MemOk (readmit s l x cls) := by
  unfold readmit
  extract_lets f s1 s2 s3
  have h1 : s1.mem = s.mem := by simp only [s1]
  have h2 : s2.mem = s1.mem := foldl_mem (fun t e => restoreCluster_mem ..) _ _
  have h3 : s3.mem = s2.mem := foldl_mem (fun t e => restoreCore_mem ..) _ _
  split
  next m s4 he =>
    have h4 : s4.mem = s3.mem := by
      have h := seatGuests_mem s3 x.savGuest
      rwa [he] at h
    extract_lets names g s5 ents s6 s7 s8
    have h5 : State.MemOk s5 := memOk_of_mem hs (by
      rw [tellMoved_mem, renState_mem, h4, h3, h2, h1])
    have h6 : State.MemOk s6 := memOk_of_mem (memOk_rebindAll x cls f h5) (tellRanks_mem ..)
    have h7 : State.MemOk s7 := memOk_of_mem h6 (setBindg_mem ..)
    have h8 : State.MemOk s8 := memOk_of_mem h7 (by simp only [s8])
    exact memOk_of_mem h8 (modLaunch_mem ..)
theorem memOk_readmitGo (l : Nat) (hs : State.MemOk s) : State.MemOk (readmitGo s l) := by
  unfold readmitGo
  split
  · extract_lets cs
    split
    · exact memOk_of_mem hs (by simp)
    · split
      · exact hs
      · exact memOk_cpLook hs fun t ht => memOk_readmit _ _ _ ht
  · exact hs
theorem nextOk_execReadmission (hs : State.MemOk s) : NextOk (execReadmission s) := by
  unfold execReadmission
  split
  · exact nextOk_next (memOk_readmitGo _ hs)
  · exact nextOk_next hs
theorem memOk_switchIn (l : Nat) (hs : State.MemOk s) : State.MemOk (switchIn s l) := by
  unfold switchIn
  split
  · exact memOk_of_mem hs (by simp)
  · extract_lets t
    have ht : State.MemOk t := memOk_readmitGo l hs
    split
    · split
      · exact memOk_of_mem hs (by simp)
      · split
        · exact ht
        · exact memOk_of_mem ht (by simp)
    · exact memOk_of_mem ht (by simp)
theorem nextOk_execSwitchIn (hs : State.MemOk s) : NextOk (execSwitchIn s) := by
  refine nextOk_next ?_
  split
  · unfold switchWord
    dsimp only
    split
    · exact memOk_of_mem hs (by simp)
    · split
      · exact hs
      · split
        · exact memOk_switchIn _ hs
        · exact memOk_of_mem hs (by simp)
  · exact hs

/-! ## Packets and frames -/

theorem memOk_failAll (s : State) (cause : Nat) : State.MemOk (failAll s cause) := memOk_failModule ..
theorem memOk_takeLink (f peer : Nat) (up : Bool) (hs : State.MemOk s) : State.MemOk (takeLink s f peer up) := by
  unfold takeLink
  dsimp only
  split
  · exact memOk_failAll ..
  · exact memOk_of_mem hs (by simp)
theorem memOk_dropLink (port : Nat) (hs : State.MemOk s) : State.MemOk (dropLink s port) := by
  unfold dropLink
  extract_lets x l u
  have hu : State.MemOk u := memOk_of_mem hs (by simp only [u, modPort_mem])
  clear_value u
  split
  · exact memOk_failModule ..
  · split
    · exact memOk_failAll ..
    · exact memOk_of_mem hu ((trigger_mem ..).trans (sayLink_mem ..))
theorem nextOk_execLinkDown (hs : State.MemOk s) : NextOk (execLinkDown s) := by
  unfold execLinkDown
  split
  · refine nextOk_next ?_
    split
    · exact hs
    · exact memOk_dropLink _ hs
  · exact nextOk_next hs
theorem memOk_remoteWrite (r : TauReq) (x : Word) (hs : State.MemOk s) : State.MemOk (remoteWrite s r x) := by
  unfold remoteWrite
  split
  · exact memOk_of_mem hs (by simp)
  · exact memOk_of_mem (memOk_physWrite hs r.pa 8 x) (answer_mem ..)
theorem memOk_roleMsg (m : RoleMsg) (hs : State.MemOk s) : State.MemOk (roleMsg s m) := by
  unfold roleMsg
  split
  · exact memOk_takeRoles _ m hs
  · exact hs
theorem memOk_deliver (b : PktBody) (hs : State.MemOk s) : State.MemOk (deliver s b) := by
  cases b with
  | write r x => exact memOk_remoteWrite _ x hs
  | failed c => exact memOk_failModule ..
  | link f p up => exact memOk_takeLink f p up hs
  | roles m => exact memOk_roleMsg m hs
  | bart h w x rto d => exact memOk_of_mem hs ((answer_mem ..).trans (setTarget_mem ..))
  | _ => exact memOk_of_mem hs (by simp [deliver])
theorem memOk_arrived (p : Packet) (hs : State.MemOk s) : State.MemOk (arrived s p) := by
  unfold arrived
  extract_lets u
  have hu : State.MemOk u := memOk_of_mem hs (by dsimp only [u]; split <;> simp)
  clear_value u
  split
  · cases portTo u p.src with
    | none => exact hu
    | some n => exact memOk_of_mem hu (post_mem ..)
  · cases portTo u p.src with
    | none => exact hu
    | some n => exact memOk_of_mem hu (takeRekeyAck_mem ..)
  · refine memOk_deliver _ (memOk_of_mem hu ?_)
    split <;> rfl
  · exact memOk_deliver _ hu
theorem memOk_routePacket (p : Packet) (hs : State.MemOk s) : State.MemOk (routePacket s p) := by
  unfold routePacket
  split
  · exact memOk_of_mem hs (by simp)
  · split
    · exact hs
    · split
      · exact memOk_arrived p hs
      · exact memOk_of_mem hs (by simp)
theorem memOk_acceptFrame (f : FrameIn) (hs : State.MemOk s) : State.MemOk (acceptFrame s f) := by
  unfold acceptFrame
  extract_lets idle nak u v
  have hu : State.MemOk u := memOk_of_mem hs (modPort_mem ..)
  have hv : State.MemOk v := memOk_of_mem hu (by dsimp only [v]; split <;> rfl)
  exact memOk_foldl (fun t x ht => memOk_routePacket _ ht) _ hv
theorem memOk_refuseFrame (f : FrameIn) (hs : State.MemOk s) : State.MemOk (refuseFrame s f) := by
  unfold refuseFrame
  dsimp only
  split
  · exact memOk_dropLink _ hs
  · exact memOk_of_mem hs (modPort_mem ..)
theorem memOk_takeFrame (f : FrameIn) (hs : State.MemOk s) : State.MemOk (takeFrame s f) := by
  unfold takeFrame
  extract_lets p next
  split
  · exact hs
  · split
    · exact memOk_acceptFrame f hs
    · exact memOk_refuseFrame f hs
theorem nextOk_execFrame (hs : State.MemOk s) : NextOk (execFrame s) := by
  unfold execFrame
  split
  · exact nextOk_next (memOk_takeFrame _ hs)
  · exact nextOk_next (memOk_arrived _ hs)
  · exact nextOk_next hs

/-! ## The host, and the command processors -/

theorem memOk_hostPut (a : Nat) (x : Byte) (hs : State.MemOk s) : State.MemOk (hostPut s a x) := by
  unfold hostPut
  split
  · exact memOk_physWrite hs ..
  · exact hs
theorem memOk_hostStore (a : Nat) (l : List Byte) (ide : Option Nat) (hs : State.MemOk s) : State.MemOk (hostStore s a l ide) := by
  unfold hostStore
  split
  · split
    · exact memOk_of_mem hs (by simp)
    · exact memOk_of_mem (memOk_foldl (fun t e ht => memOk_hostPut _ _ ht) _ hs) (toHost_mem ..)
  · exact memOk_of_mem hs (by simp)
theorem nextOk_execHostMemWrite (hs : State.MemOk s) : NextOk (execHostMemWrite s) := by
  unfold execHostMemWrite
  split
  · exact nextOk_next (memOk_hostStore _ _ _ hs)
  · exact nextOk_next hs

/-! ## The command processors (R358) -/

/-- The state in which a part of a command processor's step ends. -/
def resState : CpRes α → State
  | .ok s _ => s
  | .wait s => s
  | .trap s _ _ => s

theorem memOk_ok {a : α} (hs : State.MemOk s) : State.MemOk (resState (.ok s a)) := hs
theorem memOk_cpThen {r : CpRes α} {k : State → α → CpRes β} (hr : State.MemOk (resState r))
    (hk : ∀ t a, State.MemOk t → State.MemOk (resState (k t a))) : State.MemOk (resState (cpThen r k)) := by
  cases r with
  | ok s a => exact hk s a hr
  | wait s => exact hr
  | trap s c v => exact hr
theorem memOk_resState_ite {p : Prop} [Decidable p] {x y : CpRes α} (hx : State.MemOk (resState x)) (hy : State.MemOk (resState y)) :
    State.MemOk (resState (if p then x else y)) := by
  split
  · exact hx
  · exact hy
theorem memOk_cpDevRead (pa n : Nat) (hs : State.MemOk s) : State.MemOk (resState (cpDevRead s pa n)) := by
  have h : State.MemOk (cpLook s pa n id) := memOk_cpLook hs fun _ h => h
  unfold cpDevRead
  split
  · exact hs
  · split
    · exact h
    · exact h
theorem memOk_pteRead (n a : Nat) (acc : CpAcc) (va : Word) (hs : State.MemOk s) : State.MemOk (resState (pteRead s n a acc va)) :=
  memOk_resState_ite (memOk_cpDevRead _ _ hs) hs
theorem memOk_sv48 (n : Nat) (va : Word) (user : Bool) (acc : CpAcc) (l base : Nat) (hs : State.MemOk s) :
    State.MemOk (resState (sv48 n va user acc l base s)) := by
  induction l generalizing base s with
  | zero => exact hs
  | succ l ih =>
    unfold sv48
    exact memOk_cpThen (memOk_pteRead _ _ _ _ hs) fun t e ht =>
      memOk_resState_ite ht (memOk_resState_ite (ih _ ht) (memOk_resState_ite ht ht))
theorem memOk_cpAddress (n : Nat) (va : Word) (bytes : Nat) (acc : CpAcc) (hs : State.MemOk s) :
    State.MemOk (resState (cpAddress s n va bytes acc)) :=
  memOk_cpThen (memOk_resState_ite hs (memOk_resState_ite hs (memOk_sv48 _ _ _ _ _ _ hs))) fun _ _ ht => memOk_resState_ite ht ht
theorem memOk_cpReadGo (a n : Nat) (acc : CpAcc) (va : Word) (hs : State.MemOk s) : State.MemOk (resState (cpReadGo s a n acc va)) :=
  memOk_resState_ite (memOk_resState_ite (memOk_cpDevRead _ _ hs) hs)
    (memOk_resState_ite hs (memOk_resState_ite hs (memOk_resState_ite hs hs)))
theorem memOk_cpLoad (n : Nat) (va : Word) (bytes : Nat) (acc : CpAcc) (hs : State.MemOk s) :
    State.MemOk (resState (cpLoad s n va bytes acc)) :=
  memOk_resState_ite hs (memOk_cpThen (memOk_cpAddress _ _ _ _ hs) fun _ _ ht =>
    memOk_cpThen (memOk_cpReadGo _ _ _ _ ht) fun _ _ hu => hu)
theorem memOk_cpStoreGo (n a : Nat) (w : Width) (v va : Word) (hs : State.MemOk s) : State.MemOk (resState (cpStoreGo s n a w v va)) := by
  unfold cpStoreGo
  extract_lets pa
  split
  · split
    · exact hs
    · split
      · exact hs
      · split
        · exact hs
        next hit u _ _ _ _ =>
          have hu : State.MemOk u := memOk_of_mem hs (by simp only [u])
          exact memOk_physWrite hu pa (wbytes w) v
  · split
    · exact memOk_ok (memOk_of_mem hs (regWrite_mem ..))
    · split
      · exact memOk_ok (memOk_of_mem hs (regWrite_mem ..))
      · exact hs
theorem memOk_cpStore (n : Nat) (va : Word) (w : Width) (v : Word) (hs : State.MemOk s) : State.MemOk (resState (cpStore s n va w v)) :=
  memOk_resState_ite hs (memOk_cpThen (memOk_cpAddress _ _ _ _ hs) fun _ _ ht => memOk_cpStoreGo _ _ _ _ _ ht)

/-! ## Their instructions -/

theorem memOk_rvLoad (n w : Nat) (next : Word) (hs : State.MemOk s) : State.MemOk (resState (rvLoad s n w next)) :=
  memOk_resState_ite hs (memOk_cpThen (memOk_cpLoad _ _ _ _ hs) fun _ _ ht => memOk_of_mem ht (setX_mem ..))
theorem memOk_rvStore (n w : Nat) (next : Word) (hs : State.MemOk s) : State.MemOk (resState (rvStore s n w next)) :=
  memOk_resState_ite hs (memOk_cpThen (memOk_cpStore _ _ _ _ hs) fun _ _ ht => ht)
theorem memOk_rvFpLoad (n w : Nat) (next : Word) (hs : State.MemOk s) : State.MemOk (resState (rvFpLoad s n w next)) :=
  memOk_resState_ite hs (memOk_cpThen (memOk_cpLoad _ _ _ _ hs) fun _ _ ht => memOk_of_mem ht (setF_mem ..))
theorem memOk_rvFpStore (n w : Nat) (next : Word) (hs : State.MemOk s) : State.MemOk (resState (rvFpStore s n w next)) :=
  memOk_resState_ite hs (memOk_cpThen (memOk_cpStore _ _ _ _ hs) fun _ _ ht => ht)
theorem memOk_rvImm (n w : Nat) (half : Bool) (next : Word) (hs : State.MemOk s) : State.MemOk (resState (rvImm s n w half next)) :=
  memOk_resState_ite hs (memOk_of_mem hs (setX_mem ..))
theorem memOk_rvOp (n w : Nat) (half : Bool) (next : Word) (hs : State.MemOk s) : State.MemOk (resState (rvOp s n w half next)) := by
  have h : ∀ r v, State.MemOk (setX s n r v) := fun r v => memOk_of_mem hs (setX_mem ..)
  unfold rvOp
  exact memOk_resState_ite (memOk_resState_ite (memOk_resState_ite hs (h ..)) (h ..))
    (memOk_resState_ite (memOk_resState_ite (memOk_resState_ite (h ..) hs) (h ..)) hs)
theorem memOk_rvAtomic (n w : Nat) (next : Word) (hs : State.MemOk s) : State.MemOk (resState (rvAtomic s n w next)) := by
  unfold rvAtomic
  extract_lets f3 op rd va y bytes acc ext
  refine memOk_resState_ite hs (memOk_resState_ite hs (memOk_cpThen (memOk_cpAddress _ _ _ _ hs) fun t a ht => ?_))
  refine memOk_resState_ite ht (memOk_resState_ite ?_ (memOk_resState_ite ?_ (memOk_resState_ite ht ?_)))
  · exact memOk_cpThen (memOk_cpDevRead _ _ ht) fun u x hu => memOk_of_mem hu ((setX_mem ..).trans (modCp_mem ..))
  · split
    · refine memOk_resState_ite (memOk_cpThen (memOk_cpStoreGo _ _ _ _ _ ht) fun u _ hu => ?_) ?_
      · exact memOk_of_mem hu ((setX_mem ..).trans (modCp_mem ..))
      · exact memOk_of_mem ht ((setX_mem ..).trans (modCp_mem ..))
    · exact memOk_of_mem ht (setX_mem ..)
  · exact memOk_cpThen (memOk_cpDevRead _ _ ht) fun u x hu =>
      memOk_cpThen (memOk_cpStoreGo _ _ _ _ _ hu) fun v _ hv => memOk_of_mem hv (setX_mem ..)
theorem memOk_rvCsr (n w : Nat) (next : Word) (hs : State.MemOk s) : State.MemOk (resState (rvCsr s n w next)) := by
  unfold rvCsr
  refine memOk_resState_ite hs (memOk_of_mem hs ((setX_mem ..).trans ?_))
  split
  · exact cpCsrPut_mem ..
  · rfl
theorem memOk_rvSystem (n w : Nat) (next : Word) (hs : State.MemOk s) : State.MemOk (resState (rvSystem s n w next)) := by
  have h : ∀ f, State.MemOk (modCp s n f) := fun f => memOk_of_mem hs (modCp_mem ..)
  unfold rvSystem
  exact memOk_resState_ite hs (memOk_resState_ite (memOk_rvCsr n w next hs) (memOk_resState_ite hs (memOk_resState_ite hs
    (memOk_resState_ite (h fun _ => cpMret (cpSt s n)) (memOk_resState_ite (h fun _ => cpSret (cpSt s n))
      (memOk_resState_ite (h fun c => { c with wfi := true }) (memOk_resState_ite hs hs)))))))
theorem memOk_rvFused (n w : Nat) (negP negC : Bool) (next : Word) (hs : State.MemOk s) :
    State.MemOk (resState (rvFused s n w negP negC next)) := by
  unfold rvFused
  extract_lets c d x
  split
  · exact hs
  · exact memOk_resState_ite hs hs
theorem memOk_rvFp (n w : Nat) (next : Word) (hs : State.MemOk s) : State.MemOk (resState (rvFp s n w next)) := by
  unfold rvFp
  extract_lets c d f rd r2 f3 a b x y put int rounded
  have hput : ∀ r, State.MemOk (resState (put r)) := fun r => memOk_of_mem hs (setF_mem ..)
  have hint : ∀ v fl, State.MemOk (resState (int v fl)) := fun v fl => memOk_of_mem hs ((raise_mem ..).trans (setX_mem ..))
  have hround : ∀ k, (∀ rm, State.MemOk (resState (k rm))) → State.MemOk (resState (rounded k)) := fun k hk => by
    dsimp only [rounded]
    split
    · exact hk _
    · exact hs
  clear_value put int rounded
  refine memOk_resState_ite hs ?_
  split
  · exact hround _ fun rm => hput _
  · exact hround _ fun rm => hput _
  · exact hround _ fun rm => hput _
  · exact hround _ fun rm => hput _
  · exact memOk_resState_ite hs (hround _ fun rm => hput _)
  · exact memOk_resState_ite hs (hput _)
  · exact memOk_resState_ite hs (hput _)
  · exact memOk_resState_ite hs (hround _ fun rm => hput _)
  · exact memOk_resState_ite hs (hint _ _)
  · exact memOk_resState_ite hs (hround _ fun rm => hint _ _)
  · exact memOk_resState_ite hs (hround _ fun rm => hput _)
  · exact memOk_resState_ite hs (memOk_resState_ite (hint _ _) (memOk_resState_ite (hint _ _) hs))
  · exact memOk_resState_ite hs (memOk_of_mem hs (setF_mem ..))
  · exact hs
theorem memOk_rvExec (n w len : Nat) (hs : State.MemOk s) : State.MemOk (resState (rvExec s n w len)) := by
  have h : ∀ r v, State.MemOk (setX s n r v) := fun r v => memOk_of_mem hs (setX_mem ..)
  unfold rvExec
  extract_lets c next rd x
  split
  · exact memOk_rvLoad _ _ _ hs
  · exact memOk_rvFpLoad _ _ _ hs
  · exact memOk_resState_ite hs hs
  · exact memOk_rvImm _ _ _ _ hs
  · exact h ..
  · exact memOk_rvImm _ _ _ _ hs
  · exact memOk_rvStore _ _ _ hs
  · exact memOk_rvFpStore _ _ _ hs
  · exact memOk_rvAtomic _ _ _ hs
  · exact memOk_rvOp _ _ _ _ hs
  · exact h ..
  · exact memOk_rvOp _ _ _ _ hs
  · exact memOk_rvFused _ _ _ _ _ hs
  · exact memOk_rvFused _ _ _ _ _ hs
  · exact memOk_rvFused _ _ _ _ _ hs
  · exact memOk_rvFused _ _ _ _ _ hs
  · exact memOk_rvFp _ _ _ hs
  · split
    · exact hs
    · exact hs
  · exact memOk_resState_ite (h ..) hs
  · exact h ..
  · exact memOk_rvSystem _ _ _ hs
  · exact hs
theorem memOk_rvFetch (n : Nat) (hs : State.MemOk s) : State.MemOk (resState (rvFetch s n)) := by
  refine memOk_cpThen (memOk_cpLoad _ _ _ _ hs) fun t lo ht => memOk_resState_ite ?_ ?_
  · exact memOk_cpThen (memOk_cpLoad _ _ _ _ ht) fun u hi hu => hu
  · split
    · exact ht
    · exact ht
theorem memOk_rvStep (n : Nat) (hs : State.MemOk s) : State.MemOk (rvStep s n) := by
  unfold rvStep
  extract_lets c
  split
  · exact hs
  · split
    · exact hs
    next u _ _ _ =>
      have hu : State.MemOk u := memOk_of_mem hs (modCp_mem ..)
      have h := memOk_cpThen (memOk_rvFetch n hu) fun t (e : Nat × Nat) ht => memOk_rvExec n e.1 e.2 ht
      split <;> rename_i he <;> rw [he] at h
      · exact memOk_of_mem h (modCp_mem ..)
      · exact h
      · exact memOk_of_mem h (cpTrap_mem ..)

/-! ## Every instruction and every step -/

theorem nextOk_exec (i : Instr) (hs : State.MemOk s) : NextOk (exec i s) := by
  cases i with
  | tauStore => exact nextOk_execTauStore hs
  | feRequest => exact nextOk_execFeRequest hs
  | scqRequest => exact nextOk_execScqRequest hs
  | amoRequest => exact nextOk_execAmoRequest hs
  | amofRequest => exact nextOk_execAmofRequest hs
  | amoxRequest => exact nextOk_execAmoxRequest hs
  | rcll a b c => exact nextOk_execRcll a b c hs
  | copyoJob => exact nextOk_execCopyoJob hs
  | rollback => exact nextOk_execRollback hs
  | rollbackTrigger => exact nextOk_execRollbackTrigger hs
  | launchStart => exact nextOk_execLaunchStart hs
  | retirement => exact nextOk_execRetirement hs
  | contextStreamComplete => exact nextOk_execContextStreamComplete hs
  | readmission => exact nextOk_execReadmission hs
  | switchIn => exact nextOk_execSwitchIn hs
  | linkDown => exact nextOk_execLinkDown hs
  | frame => exact nextOk_execFrame hs
  | kickTimeout => exact nextOk_execKickTimeout hs
  | coreHang => exact nextOk_execCoreHang hs
  | sealHang => exact nextOk_execSealHang hs
  | temperatureReading => exact nextOk_execTemperatureReading hs
  | thermalTrip => exact nextOk_execThermalTrip hs
  | hostMemWrite => exact nextOk_execHostMemWrite hs
  | reset => exact nextOk_execReset hs
  | powerDown => exact nextOk_execPowerDown hs
  | stop => exact nextOk_execStop hs
  | _ => exact nextOk_of_kept hs (by simp [exec])
theorem nextOk_settleOut {o : Out} (h : NextOk o) : NextOk (settleOut o) := by
  cases o with
  | next t => exact nextOk_next (memOk_of_mem (h t rfl) (settleAll_mem ..))
  | fault f => exact fun t ht => nomatch ht
  | refused r => exact fun t ht => nomatch ht
theorem nextOk_endIssue (a : TRef) {o : Out} (h : NextOk o) : NextOk (endIssue a o) := by
  cases o with
  | next t => exact nextOk_next (memOk_of_mem (h t rfl) ((settleAll_mem ..).trans (endStep_mem ..)))
  | fault f => exact fun t ht => nomatch ht
  | refused r => exact fun t ht => nomatch ht
theorem nextOk_fire (e : Ev) (hs : State.MemOk s) : NextOk (fire s e) := nextOk_settleOut (nextOk_exec _ (memOk_of_mem hs rfl))
theorem nextOk_handle (n : Nat) (hs : State.MemOk s) : NextOk (handle s n) := by
  unfold handle
  split
  · exact nextOk_fire _ (memOk_of_mem hs rfl)
  · exact nextOk_next hs
theorem nextOk_issue (a : TRef) (hs : State.MemOk s) : NextOk (issue s a) := by
  unfold issue
  split
  · exact nextOk_endIssue a (nextOk_exec _ (memOk_of_mem hs (startIssue_mem ..)))
  · exact nextOk_endIssue a (nextOk_exec _ (memOk_of_mem hs rfl))
  · exact nextOk_next hs
theorem memOk_settleAll (hs : State.MemOk s) : State.MemOk (settleAll s) := memOk_of_mem hs (settleAll_mem s)
theorem nextOk_goOn (hs : State.MemOk s) : NextOk (goOn s) := by
  unfold goOn
  split
  · exact nextOk_handle _ hs
  · split
    · exact nextOk_fire _ hs
    · split
      · exact nextOk_next (memOk_of_mem hs (startFill_mem ..))
      · split
        · exact nextOk_issue _ hs
        · split
          · exact nextOk_fire _ hs
          · exact nextOk_next (memOk_settleAll (memOk_of_mem hs (tick_mem ..)))
theorem nextOk_turn (x : Turn) (hs : State.MemOk s) : NextOk (turn s x) := by
  cases x with
  | event e =>
    unfold turn
    dsimp only
    split
    · exact nextOk_fire _ hs
    · exact nextOk_next hs
  | issue c n =>
    unfold turn
    dsimp only
    split
    · exact nextOk_issue _ hs
    · exact nextOk_next hs
  | pend n =>
    unfold turn
    dsimp only
    split
    · exact nextOk_handle _ hs
    · exact nextOk_next hs
  | tick n => exact nextOk_next (memOk_settleAll (memOk_of_mem hs (tick_mem ..)))
  | hostStore a l => exact nextOk_next hs
  | clearErr q => exact nextOk_next (memOk_of_mem hs (clearErr_mem ..))
  | cacheParity c n => exact nextOk_next (memOk_settleAll (memOk_of_mem hs (modCore_mem ..)))
  | sectorError k fatal =>
    refine nextOk_next (memOk_of_mem hs ?_)
    split <;> rfl
  | cpStep n => exact nextOk_next (memOk_settleAll (memOk_rvStep _ hs))
theorem nextOk_unpowered (x : Turn) (hs : State.MemOk s) : NextOk (unpowered s x) := by
  unfold unpowered
  split
  · exact nextOk_fire _ hs
  · exact nextOk_turn _ hs
  · exact nextOk_next hs
theorem nextOk_stepGo (hs : State.MemOk s) : NextOk (stepGo s) := by
  unfold stepGo
  split
  next x l _ =>
    have hl : State.MemOk { s with agenda := l } := memOk_of_mem hs rfl
    split
    · exact nextOk_turn x hl
    · exact nextOk_unpowered x hl
  · split
    · exact nextOk_goOn hs
    · exact nextOk_next (memOk_of_mem hs (tick_mem ..))
/-- Settles O58: no step makes memory other than canonical (`nextOk_stepGo`). What writes device memory does so by `msets`, drops
whole cells, or resets it (`memOk_physPut`, `memOk_mapPage`, `memOk_resetModule`); every other instruction keeps it. -/
theorem memoryStaysCanonical : Obligations.MemoryStaysCanonical := by
  unfold Obligations.MemoryStaysCanonical
  exact fun s t hs h => nextOk_stepGo hs t h
end Sys2Proof.Proofs.CanonicalMemory
end
